-- ==== Sys2Proof/Word.lean ====
section
/-! DEFINITION. The word types of the PLK-8840 model.
A parameter, a Rhozil item and a register of a context are words of 64 bits (12 R365, R368; 18 R506);
a line is 64 bytes (04 R113); an address is kept as a natural number once computed. -/

namespace Sys2Proof

/-- A 64-bit word: a parameter value, a queue item, a context register. -/
abbrev Word := BitVec 64

/-- A byte of memory. -/
abbrev Byte := BitVec 8

/-- A 64-byte line, byte `i` in bits `[8i+7:8i]`. -/
abbrev Line := BitVec 512

/-- The byte mask of a store: bit `i` selects byte `i` of the line. -/
abbrev Mask := BitVec 64

end Sys2Proof
end

