-- ==== Sys2Proof/Machine/Base.lean ====
section
/-! DEFINITION. Sparse arrays in one canonical form, bit fields and byte lists: the helpers that every
family of commands uses. -/

namespace Sys2Proof

/-- A sparse array: pairs of key and value, keys strictly rising, no value equal to what an unlisted key reads as. -/
abbrev Store (α : Type) := List (Nat × α)

/-- The value at key `k`; `d` where nothing is listed. -/
def Store.read {α : Type} : Store α → Nat → α → α
  | [], _, d => d
  | (j, v) :: r, k, d => if j = k then v else Store.read r k d

/-- Remove key `k`. -/
def Store.erase {α : Type} : Store α → Nat → Store α
  | [], _ => []
  | (j, w) :: r, k => if j = k then Store.erase r k else (j, w) :: Store.erase r k

/-- List `v` at key `k`, in its place. -/
def Store.put {α : Type} : Store α → Nat → α → Store α
  | [], k, v => [(k, v)]
  | (j, w) :: r, k, v =>
    if k < j then (k, v) :: (j, w) :: r
    else if k = j then (k, v) :: r
    else (j, w) :: Store.put r k v

/-- Write `v` at key `k`, keeping the canonical form for default `d` of that key. -/
def Store.write {α : Type} [DecidableEq α] (l : Store α) (k : Nat) (v d : α) : Store α :=
  if v = d then Store.erase l k else Store.put l k v

/-- Every key of the list is above `b` and the keys rise strictly. -/
def Store.above {α : Type} (b : Nat) : Store α → Bool
  | [] => true
  | (k, _) :: r => decide (b < k) && Store.above k r

/-- The keys rise strictly. -/
def Store.rising {α : Type} : Store α → Bool
  | [] => true
  | (k, _) :: r => Store.above k r

/-- The canonical form for the default `d`: keys strictly rising and no entry equal to the default. -/
def Store.wf {α : Type} [DecidableEq α] (d : α) (l : Store α) : Bool :=
  Store.rising l && l.all (fun p => decide (p.2 ≠ d))

/-- Bits `[hi:lo]` of a word, as a number. -/
def fld (w : Word) (hi lo : Nat) : Nat := w.toNat / 2 ^ lo % 2 ^ (hi + 1 - lo)

/-- The word with bits `[hi:lo]` replaced by the low bits of `v`. -/
def ins (w : Word) (hi lo v : Nat) : Word :=
  BitVec.ofNat 64 (w.toNat - fld w hi lo * 2 ^ lo + v % 2 ^ (hi + 1 - lo) * 2 ^ lo)

/-- Bit `i` of a word. -/
def bit (w : Word) (i : Nat) : Bool := w.getLsbD i

/-- 1 for true and 0 for false, as a field value. -/
def b01 (b : Bool) : Nat := if b then 1 else 0

/-- The number of bits of a mask that are set. -/
def Mask.count (m : Mask) : Nat := (List.range 64).countP (fun i => m.getLsbD i)

/-- Byte `i` of a line. -/
def Line.byte (l : Line) (i : Nat) : Byte := l.extractLsb' (8 * i) 8

/-- The line whose byte `i` is the `i`-th of the list (zero beyond its end). -/
def Line.ofBytes : List Byte → Line
  | [] => 0
  | b :: r => (Line.ofBytes r <<< 8) ||| b.setWidth 512

/-- The 64 bytes of a line, lowest address first. -/
def Line.bytes (l : Line) : List Byte := (List.range 64).map (Line.byte l)

/-- The line mask of 512 bits that a byte mask selects. -/
def Mask.expand (m : Mask) : Line := Line.ofBytes ((List.range 64).map (fun i => if m.getLsbD i then 0xFF else 0))

/-- Overlay the bytes of `new` that the mask selects on `old`. -/
def Line.overlay (old new : Line) (m : Mask) : Line :=
  (old &&& ~~~ Mask.expand m) ||| (new &&& Mask.expand m)

/-- The mask that selects every byte. -/
def Mask.full : Mask := BitVec.allOnes 64

/-- The eight bytes of a word, little-endian. -/
def wordBytes (w : Word) : List Byte := (List.range 8).map (fun i => w.extractLsb' (8 * i) 8)

/-- A word from bytes, little-endian. -/
def wordOfBytes : List Byte → Word
  | [] => 0
  | b :: r => (wordOfBytes r <<< 8) ||| b.setWidth 64

/-- The eight words of a line, word `i` being bytes `8i` to `8i + 7`. -/
def Line.words (l : Line) : List Word := (List.range 8).map (fun i => l.extractLsb' (64 * i) 64)

/-- The line whose words are those of the list. -/
def Line.ofWords : List Word → Line
  | [] => 0
  | w :: r => (Line.ofWords r <<< 64) ||| w.setWidth 512

/-- Replace the first element that satisfies `p`. -/
def replaceFirst {α : Type} (p : α → Bool) (f : α → α) : List α → List α
  | [] => []
  | a :: r => if p a then f a :: r else a :: replaceFirst p f r

/-- Remove the first element that satisfies `p`. -/
def removeFirst {α : Type} (p : α → Bool) : List α → List α
  | [] => []
  | a :: r => if p a then r else a :: removeFirst p r

/-- The element of least key, the earliest of equals. -/
def leastBy {α : Type} (key : α → Nat) : List α → Option α
  | [] => none
  | a :: r =>
    match leastBy key r with
    | none => some a
    | some b => if key a ≤ key b then some a else some b

end Sys2Proof
end

