-- ==== Sys2Proof/Syntax.lean ====
section
/-! DEFINITION. The commands of the block: one constructor per row of the opcode table, with the row's operands.
A number is a natural number where the row names a unit, an address or an index; a word or a line is a bit vector. -/

namespace Sys2Proof

/-- How a request came: CXL.mem, UIO, CXL.io, or an instruction of a context (03 R85, R91). -/
inductive Via where
  | mem | uio | io
  deriving DecidableEq, Repr

/-- The remote atomics (03 R91). -/
inductive Atomic where
  | fetchAdd | cas | swap
  deriving DecidableEq, Repr

/-- What the SPD of a DIMM states (05 R141, R142): type 1 RDIMM or 2 MRDIMM, highest rate in MT/s ÷ 100, width of its devices, density
code, row bits, rank and stack bits, banks and bank groups, PRAC support, and for each rate its timing parameters in ps, in the order of
Table 5-4. -/
structure Spd where
  kind : Nat
  rate : Nat
  width : Nat
  density : Nat
  rowBits : Nat
  rankBits : Nat
  cidBits : Nat
  banks : Nat
  groups : Nat
  prac : Bool
  times : List (Nat × List Nat)
  deriving DecidableEq, Repr

/-- What a DIMM slot answers: nothing fitted, an SPD that cannot be read, or its SPD. -/
inductive SlotRead where
  | empty | unreadable
  | spd (d : Spd)
  deriving DecidableEq, Repr

/-- A request raised on the Batten bus (11 R355, R356): the requester, its urgency, the beats and the tag of its transfer, and the DFA of the
lines that it reads or writes in DRAM, if it does. -/
structure BattAsk where
  requester : Nat
  urgency : Nat
  beats : Nat
  tag : Nat
  dfa : Option Nat
  deriving DecidableEq, Repr

/-- Where a datapath parity error is found (07 R197): read data of a request, on the first or on the second try; store data
of a request before its placement; data that a Batten bus requester moves; a control field that a unit checks. -/
inductive Parity where
  | readData (tile link tag : Nat) (again : Bool)
  | storeData (tile link tag : Nat)
  | moved (requester : Nat) (again : Bool)
  | control (cls inst : Nat)
  deriving DecidableEq, Repr

/-- What an error in a queue word meets (07 R199): a single-bit error, of a context's queue if one is named; and the double
errors of Table 7-6. -/
inductive QueueError where
  | single (ctx : Option Nat)
  | line (tile link tag : Nat)
  | moved (lpage line : Nat)
  | control (cls inst : Nat)
  | item (ctx : Nat)
  | record (ctx : Nat)
  deriving DecidableEq, Repr

/-- What an error in Eaves meets (07 R200, R201): single-bit and double errors of a data word or of a tag. -/
inductive EavesError where
  | wordSingle | wordDouble | tagSingle | tagDouble
  deriving DecidableEq, Repr

/-- What the parameter pages of a tile's dies state, when all state the same (09 R254): planes, page data and spare bytes, TLC
cells, pages per block, block indices per plane, LUNs per target, targets per channel, and the fastest mode of each channel in MT/s ÷ 100. -/
structure NandPage where
  planes : Nat
  page : Nat
  spare : Nat
  tlc : Bool
  blockPages : Nat
  blocks : Nat
  luns : Nat
  tgts : Nat
  rates : List Nat
  deriving DecidableEq, Repr

/-- What the SPDM responder is asked (03 R90): to open a secure session, with the owner key-hash slot against which the requester
was authenticated; to close it; to provision a certificate slot with a certificate; to return a certificate. -/
inductive Spdm where
  | opens (owner : Option Nat)
  | closes
  | provision (slot : Nat) (cert : List Word)
  | certificate (slot : Nat)
  deriving DecidableEq, Repr

/-- The registers of the configuration space of an LD that the spec names (00 Table 0-1; 03 Table 3-3, R82, R87, R98): vendor and device ID,
BAR0, the FLR capability, MSI-X vectors, AER, the CXL DVSEC, the register locator, the PTM requester, VC1 with its credits, the GPF Phase 2
duration, SR-IOV. -/
inductive CfgReg where
  | ids | bar0 | flr | msix | aer | dvsec | locator | ptm | vc1 | gpf | sriov
  deriving DecidableEq, Repr

/-- A configuration request: a read of a register, the enabling of VC1, the placing of BAR0 (03 R82, R98). -/
inductive CfgReq where
  | read (reg : CfgReg)
  | vc1 (on : Bool)
  | bar0 (base : Nat)
  deriving DecidableEq, Repr

/-- The reservation of a session on a tile (13 Table 13-6). -/
structure Resv where
  frames : Nat := 0
  nframes : Nat := 0
  fopages : Nat := 0
  share : Nat := 0
  ways : Nat := 0
  keys : Nat := 0
  /-- first key slot of the range -/
  keyBase : Nat := 0
  /-- the Eaves ways held, as a mask -/
  wayMask : Nat := 0
  deriving DecidableEq, Repr

/-- An extent (01 R20, R21; 13 Table 13-7). -/
structure Ext where
  defined : Bool := false
  tiered : Bool := false
  start : Nat := 0
  dpa : Nat := 0
  len : Nat := 0
  deriving DecidableEq, Repr

/-- The state of a binding window (03 R77). -/
inductive WinState where
  | offered | accepted | releasing | released
  deriving DecidableEq, Repr

/-- A binding window: an extent bound to a logical device at a window start (03 R75; 04 R107). -/
structure Bind where
  tile : Nat
  link : Nat
  ld : Nat
  sess : Nat
  ext : Nat
  w : Nat
  state : WinState := .offered
  since : Nat := 0
  deriving DecidableEq, Repr

/-- A stream schedule (11 R349, R350; 13 Table 13-4). -/
structure Sched where
  regions : List (Nat × Nat) := []
  total : Nat := 0
  cyclic : Bool := false
  depth : Nat := 0
  defined : Bool := false
  running : Bool := false
  /-- the region that an access entered last, with the number of laps counted into it -/
  current : Option Nat := none
  deriving DecidableEq, Repr

/-- What the configuration step of a resync carries of a session (10 R295). -/
structure TwinSess where
  id : Nat
  tile : Nat
  link : Nat
  ld : Nat
  cpr : Bool
  resv : Store Resv
  exts : Store Ext
  scheds : Store Sched
  deriving DecidableEq, Repr

/-- A session-scoped key slot as the configuration step carries it: tile, slot, session, usage, the wrapped blob and the key
that it unwraps to (10 R295; 14 R440). -/
structure TwinKey where
  tile : Nat
  slot : Nat
  sess : Nat
  usage : Nat
  blob : List Word
  key : BitVec 256
  deriving DecidableEq, Repr

/-- The configuration step of a resync (10 R295): the sessions, the fields of the `sess` parameters as (parameter, session,
value), the bindings and the session-scoped keys. -/
structure TwinConfig where
  sessions : List TwinSess := []
  params : List (Nat × Nat × Word) := []
  binds : List Bind := []
  keys : List TwinKey := []
  deriving DecidableEq, Repr

/-- An entry of a Spring tide of the active unit that the tide applies on both units (10 R295). -/
inductive TwinChange where
  | field (id sess hi lo : Nat) (value : Nat)
  | bind (sess ext tile link ld w : Nat)
  | unbind (sess ext tile link ld : Nat)
  | remove (sess ext : Nat)
  deriving DecidableEq, Repr

/-- A TIDE message (10 Table 10-8): a tide of the active unit named for an instant, with what it applies on both units; its
release, once every unit has confirmed; its rollback. -/
inductive TideMsg where
  | announce (at_ : Nat) (changes : List TwinChange)
  | release
  | rollback
  deriving DecidableEq, Repr

/-- The kinds of a ROLE message (10 Table 10-8). -/
inductive RoleMsg where
  | leaseLost | request | refused | done
  | at_ (t : Nat)
  deriving DecidableEq, Repr

/-- What the mount of a tile finds beside the parameter pages (09 R257, R261): the number of blocks with a retired member, and whether a
system block was found. -/
structure MountScan where
  bad : Nat := 0
  system : Bool := true
  deriving DecidableEq, Repr

/-- What the end of a frequency change reads (06 R172, R179): the drift in ps, and the temperature of each DIMM of the channel. -/
structure DriftTemps where
  drift : Nat
  t0 : Option Nat
  t1 : Option Nat
  deriving DecidableEq, Repr

/-- A channel, and the temperature of each of its DIMMs as it leaves self-refresh (06 R181). -/
structure ChanTemps where
  chan : Nat
  t0 : Option Nat
  t1 : Option Nat
  deriving DecidableEq, Repr

/-- The interleave ways of an HDM decoder, and the position among them of the link (03 R75). -/
structure HdmWays where
  ways : Nat
  pos : Nat
  deriving DecidableEq, Repr

/-- The pair and the request that an answer of a witness names (10 R317). -/
structure PairReq where
  pair : Nat
  reqno : Nat
  deriving DecidableEq, Repr

/-- The cause of a REPORT, and what it concerns (10 R316). -/
structure WitReport where
  cause : Nat
  arg : Nat
  deriving DecidableEq, Repr


/-- The commands, in the order of the opcode table. -/
inductive Instr where
  /-- R48: VDD_AON rises into its limits: the whole device resets, ST fields clear, fuses are sensed and the device enters STBY. -/
  | powerOnReset
  /-- R453: The always-on boot controller completes its read of the step table and pwr.auto_start from the parameter store, then answers any held START. -/
  | stepTableRead
  /-- R54: The BMC sends a START message over MCTP; it is answered OK, FWBATT or MODE, and taken as the start condition when allowed. -/
  | start
  /-- R54: In STBY, pwr.auto_start = 1 with BBU_OK high and PFW_L deasserted becomes the start condition, unless the start hold or a past fault blocks it. -/
  | autoStart
  /-- R450: A power-good or BBU_OK input has held a new level for its debounce, and the accepted level changes. -/
  | psPgAccept (input : Nat) (high : Bool)
  /-- R450: PFW_L or FAULT_L has held a new level for the 16 PCLK filter, and the accepted level changes. -/
  | signalFilterAccept (pfw asserted : Bool)
  /-- R454: The supervisor starts step k of the rail sequence and raises the enables of that step. -/
  | railStepStart
  /-- R454: The power goods of the current step have stayed high for WINDOW, and its DELAY begins. -/
  | stepWindowEnd
  /-- R454: The DELAY of a step ends: the next step starts, or the sequence is complete and the tiles leave reset. -/
  | stepDelayEnd
  /-- R454: A step's power goods are not all high within TIMEOUT, which is a sequence fault. -/
  | stepTimeout
  /-- R494: The boot ROM completes the check of a firmware slot; on failure it tries the other slot or enters the recovery form of MAIN. -/
  | bootSlotCheck (vendor digest owner : Bool)
  /-- R59: Firmware starts, loads and migrates the parameter store, restores sealed keys and loads the Tidemark master. -/
  | firmwareStart (migrate older : Bool) (badBlocks badKeys : List Nat) (programs : List (Nat × Word))
  /-- R12: The UCIe links of a tile finish training, and Tidemark synchronisation starts. -/
  | ucieLinkTrained (tile : Nat)
  /-- R68: A host link trains to the highest common rate not above port.link_rate_max. -/
  | hostLinkTrained (tile link partner width : Nat)
  /-- R142: A tile reads the SPD of every DIMM, checks the population, sets the channel rate, or fences the tile with cause 0x51. -/
  | dimmDiscovery (tile : Nat) (s0 s1 s2 s3 s4 s5 s6 s7 : SlotRead)
  /-- R167: A training step of a timing bank completes; it is repeated once on failure and ends the training on a second failure. -/
  | dramTrainingStep (tile channel : Nat) (pass : Bool)
  /-- R169: Training of a bank passes step 10; its VALID bit, TTEMP and train stamp are written. -/
  | dramTrainingComplete (tile channel : Nat)
  /-- R291: A tile completes the mount of its Thatch store and reports its restore path. -/
  | thatchMount (tile : Nat) (page : Option NandPage) (scan : MountScan)
  /-- R292: A tile's Isahar link completes training, exchanges part, tile count and pair ID, and measures the flight; a mismatch fences the twin paths with cause 0x43. -/
  | isaharLinkTrained (tile part tiles pair master flight rate : Nat) (gcm ok0 ok1 : Bool)
  /-- R62: A unit receives its twin's record summary and the authoritative unit is decided. -/
  | recordSummary (epoch : Nat) (lastSeq : List Nat) (valid preferred : Bool)
  /-- R63: No twin answers within sys.pair_wait and the unit becomes lone. -/
  | pairWaitExpiry
  /-- R53: Steps 8 to 10 of the cold start are complete and the device names the tide from BRUP to RSTR. -/
  | bringUpComplete
  /-- R240: Before its first Tideline bit after a start, a tile writes a save record of KIND OPEN. -/
  | openRecordWrite (tile : Nat)
  /-- R241: The restore loader writes a page or group of the image into DRAM and sets its load-map bit. -/
  | restoreLoad (tile : Nat)
  /-- R242: An access in RSTR to a group not yet loaded stalls while the accessed page and then its group are loaded ahead of the stream. -/
  | restoreDemandFault (tile page : Nat)
  /-- R243: On the verify-only path a line is checked in its form and repaired from its newest record when it fails. -/
  | verifyLine (tile : Nat) (err : BitVec 640)
  /-- R53: Restore and the full-speed step are done with the lease held, and the device names the tide into ACTV, SOLO or MIRS. -/
  | restoreComplete
  /-- R66: One channel at a time moves to bank H and trains it, holding requests to its lines for at most 62.5 ms. -/
  | fullSpeedStep (tile channel : Nat)
  /-- R189: The conversion lap converts one 16 KiB group of a channel from CRC form to RS form and advances the boundary pointer. -/
  | conversionLapGroup (tile channel : Nat) (ends : Bool) (errs : List (Nat × BitVec 640))
  /-- R49: sys.reset KIND 0x1 requests a warm reset, which first runs a planned save in serving modes and otherwise takes effect at once. -/
  | warmReset
  /-- R51: sys.reset KIND 0x2 resets a fenced tile other than tile 0, which then runs its own bring-up and rejoins at a Spring tide. -/
  | tileReset (tile : Nat)
  /-- R539: TRST_L, TMS high for 5 TCK or a save during scan hold resets the TAP chain, which selects IDCODE. -/
  | tapReset
  /-- R50: PERST_L of a host link is asserted; requests received on the port are discarded without response. -/
  | perstAssert (tile link : Nat)
  /-- R536: PERST_L of a host link is deasserted and the link trains. -/
  | perstDeassert (tile link : Nat)
  /-- R70: An in-band hot reset or a link-down not caused by the device is treated as a port reset of that link. -/
  | hotReset (tile link : Nat)
  /-- R113: A CXL.mem read is received whole, translated, ordered and served from Eaves, the merge buffer, the write queue or DRAM. -/
  | cxlMemRead (tile link ld tag hpa : Nat)
  /-- R116: A CXL.mem write is received whole, marked in the Tideline, placed, mirrored in ACTV and acknowledged under its mode. -/
  | cxlMemStore (tile link ld tag hpa : Nat) (mask : Mask) (data : Line) (poison : Bool)
  /-- R85: A UIO or CXL.io memory request is received, split at line boundaries and handled per part. -/
  | uioRequest (via : Via) (write : Bool) (tile link ld tag hpa len : Nat) (data : List Byte)
  /-- R92: A FetchAdd or CAS is computed by the atomics unit of the owning tile and completed under the acknowledgement rule of its mode. -/
  | remoteAtomic (via : Via) (op : Atomic) (bytes tile link ld tag hpa : Nat) (a b : BitVec 128)
  /-- R72: A request for an unsupported feature receives the response PCIe or CXL defines for it. -/
  | unsupportedRequest (tile link ld tag : Nat)
  /-- R96: MSI-X vector 1 is raised to the owner LD at most once per port.viol_holdoff. -/
  | violationInterrupt (tile ld : Nat)
  /-- R132: The stamps received from every other ingress tile reach a waiting request's stamp, and the request takes effect. -/
  | orderGateRelease (owner source stamp : Nat)
  /-- R131: PEND of a line falls to 0 and the reads and atomics waiting on it are served. -/
  | unackedReadRelease (tile : Nat)
  /-- R110: A home TLB miss completes its home-table line read and fills eight entries. -/
  | homeTlbFill (tile page : Nat)
  /-- R231: A Tideline bit clears and room goes to the waiting store with the earliest stamp, which sets its bit. -/
  | tidelineRoomGrant (tile : Nat)
  /-- R222: A bitmap cache miss completes its DRAM read and the store's bit is set. -/
  | tidelineBitmapFill (tile group : Nat)
  /-- R129: A merge-buffer entry frees and the narrow store at the head of its queue takes it; the full condition clears at 496. -/
  | mergeEntryFree (tile : Nat)
  /-- R128: A merge-buffer entry is written out to the DRAM write queue when full, aged, oldest at 480, named by PBAR or flushed. -/
  | mergeWriteOut (tile off : Nat)
  /-- R128: An entry's age reaches eaves.mrg_age and its write-out starts. -/
  | mergeEntryAge (tile off : Nat)
  /-- R120: A dirty Eaves line is evicted or cleaned into its channel's write queue, waiting while the queue is full. -/
  | eavesEviction (tile set way : Nat)
  /-- R124: A trained stream entry issues prefetches of the next lines at its stride. -/
  | stridePrefetch (tile sess ld : Nat)
  /-- R81: The last credit-withholding condition clears and withheld credits return within 8 HLCLK. -/
  | creditReturn (tile link : Nat)
  /-- R87: A Global Persistent Flush Phase 1 request completes at once. -/
  | gpfPhase1 (tile link tag : Nat)
  /-- R87: A Global Persistent Flush Phase 2 request completes within 10 µs. -/
  | gpfPhase2 (tile link tag : Nat)
  /-- R86: Get Poison List returns up to 256 poisoned addresses of the LD with an overflow flag. -/
  | getPoisonList (tile ld : Nat)
  /-- R86: Inject Poison on the management LD poisons a line; other LDs receive Unsupported. -/
  | injectPoison (tile ld addr : Nat)
  /-- R86: Clear Poison on the management LD clears a line's poison; other LDs receive Unsupported. -/
  | clearPoison (tile ld addr : Nat) (data : Line)
  /-- R88: Get Health Info reports the health data including the Dirty Shutdown Count. -/
  | getHealthInfo (tile ld : Nat)
  /-- R75: An HDM decoder commits, or fails for an invalid interleave of 3, 6 or 12 ways. -/
  | hdmDecoderCommit (tile ld decoder base size : Nat) (ways : HdmWays) (gran : Nat)
  /-- R77: The host accepts an added extent and the window becomes accessible. -/
  | addDynamicCapacityResponse (tile ld window : Nat)
  /-- R77: The host answers a Release Capacity event and the window is released. -/
  | releaseDynamicCapacity (tile ld window : Nat)
  /-- R77: port.dc_release_to elapses without a release response; the device releases the window itself and logs it. -/
  | dcReleaseTimeout (tile ld window : Nat)
  /-- R89: An IDE_KM request in an SPDM session installs IDE keys or refuses containment mode. -/
  | ideKm (tile ld keySet : Nat) (containment : Bool)
  /-- R89: An IDE integrity check fails; the stream goes insecure and the link accepts no CXL.mem until re-established. -/
  | ideIntegrityFail (tile link : Nat)
  /-- R90: The SPDM responder answers an SPDM request over DOE, including certificate slot provisioning on the management LD. -/
  | spdmRequest (tile ld : Nat) (request : Spdm)
  /-- R99: The host writes SQ_DOORBELL and the device moves the items up to the new tail into the context's submission queue. -/
  | sqDoorbell (tile ld : Nat) (value : Word) (items : List Word)
  /-- R100: A GO write submits CMD_ITEM0 and CMD_ITEM1 as one command-class item, or is counted as a stray write. -/
  | cmdDoorbell (tile ld : Nat) (value item0 item1 : Word)
  /-- R101: The host advances CQ_HEAD, freeing completion space and releasing a context held for it. -/
  | cqHead (tile ld : Nat) (value : Word)
  /-- R97: The host writes VLOG_HEAD after reading violation log entries, freeing ring space. -/
  | vlogHead (tile ld : Nat) (value : Word)
  /-- R98: A read of the status window TIDEMARK returns the Tidemark; a 4-byte read latches bits [63:32] into TM_HI. -/
  | tidemarkRead (tile ld tag : Nat) (four : Bool)
  /-- R98: A read of VIOL_LOST returns the count of unlogged violations and clears it. -/
  | violLost (tile ld tag : Nat)
  /-- R104: A CXL.mem write to the Slipway page advances, breaks or restarts the submission sequence word by word. -/
  | slipwayWrite (tile link ld tag hpa : Nat) (mask : Mask) (data : Line)
  /-- R105: An OPEN Slipway page receives no write for 100 µs and returns to LOCKED as a stray write. -/
  | slipwayIdleTimeout (sess : Nat)
  /-- R101: An MSI-X vector fires for a completion window going non-empty, a MODE or THROTTLE change or a CXL event record. -/
  | msiX (tile ld vector : Nat)
  /-- R370: A whole submission enters a context's queue when there is room for all of it. -/
  | submission (ctx : Nat)
  /-- R362: A ready context is loaded into a free thread, unloading the lowest-priority context if needed. -/
  | contextLoad (tile thread : Nat)
  /-- R363: A context has held its thread for seq.quantum while another waits and is unloaded at its next instruction boundary. -/
  | quantumExpiry (tile thread : Nat)
  /-- R375: An instruction writes a completion record to its submission's sink. -/
  | completionRecord (ctx : Nat)
  /-- R376: Space appears in a completion sink and a context held with STATE 0x4 resumes. -/
  | completionSpace (ctx : Nat)
  /-- R374: IDLE reports queue status and unloads the context when another is ready, or after 1 µs. -/
  | idle (ctx : Nat)
  /-- R374: 1 µs passes after IDLE with no other context ready, and the context is unloaded. -/
  | idleTimeout (ctx : Nat)
  /-- R394: NOP does nothing. -/
  | nop (ctx : Nat)
  /-- R394: WAIT starts a wait until the Tidemark reaches its target. -/
  | wait (ctx : Nat)
  /-- R394: The Tidemark reaches a WAIT's target and it completes. -/
  | waitEnd (ctx : Nat)
  /-- R392: HALT returns from a called program, ends a submission, or as a command item ends the running submission or interrupts a CRYP. -/
  | halt (ctx : Nat)
  /-- R394: TIME reads the Tidemark. -/
  | time (ctx : Nat)
  /-- R394: BR branches to its target. -/
  | br (ctx : Nat)
  /-- R394: BZ branches when ga is zero. -/
  | bz (ctx : Nat)
  /-- R394: BNZ branches when ga is not zero. -/
  | bnz (ctx : Nat)
  /-- R394: LOOP decrements gd and branches or rewinds to the mark when the result is not zero. -/
  | loop (ctx : Nat)
  /-- R366: CALLP calls a resident program of the program store. -/
  | callp (ctx : Nat)
  /-- R395: ADD sets gd to ga plus b. -/
  | add (ctx : Nat)
  /-- R395: SUB sets gd to ga minus b. -/
  | sub (ctx : Nat)
  /-- R395: AND sets gd to ga AND b. -/
  | and (ctx : Nat)
  /-- R395: OR sets gd to ga OR b. -/
  | or (ctx : Nat)
  /-- R395: XOR sets gd to ga XOR b. -/
  | xor (ctx : Nat)
  /-- R395: SHL shifts ga left by b mod 64. -/
  | shl (ctx : Nat)
  /-- R395: SHR shifts ga logically right by b mod 64. -/
  | shr (ctx : Nat)
  /-- R395: LDI loads the zero-extended immediate or the extension word into gd. -/
  | ldi (ctx : Nat)
  /-- R395: CMP sets gd to 0, 1 or all ones by unsigned comparison. -/
  | cmp (ctx : Nat)
  /-- R396: GETP returns the value in effect, or with XF the staged value, of a parameter under its access code. -/
  | getp (ctx : Nat)
  /-- R396: STGP stages STG fields and writes other writable fields of a parameter at once. -/
  | stgp (ctx : Nat)
  /-- R379: CHKS checks the staged set as a whole and marks it checked or reports the first failing entry. -/
  | chks (ctx : Nat)
  /-- R380: APLS rechecks the set and names the Spring tide that applies it, or completes without a tide. -/
  | apls (ctx : Nat)
  /-- R397: DROPS empties the staged set that the issuing context owns. -/
  | drops (ctx : Nat)
  /-- R398: LOCKP locks or, at PL0, unlocks a parameter in the parameter store. -/
  | lockp (ctx : Nat)
  /-- R378: The owner has not touched the staged set for seq.stage_to and the set is dropped. -/
  | stagedSetTimeout
  /-- R381: At instant T every unit holds its ingresses, swaps its staged bank and sends its confirmation. -/
  | springTide
  /-- R381: A unit's confirmation reaches the coordinator; when all have confirmed, the release is sent. -/
  | tideConfirm (standby : Bool) (tile : Nat)
  /-- R381: The release reaches a unit, which lifts its holds; APLS completes with OK. -/
  | tideRelease (standby : Bool) (tile : Nat)
  /-- R382: A unit has not confirmed on time by T + 2 µs; the coordinator sends the swap-back order and fences the late unit. -/
  | tideConfirmDeadline
  /-- R382: At T + 8 µs every unit swaps back and confirms; APLS completes with ROLLBK. -/
  | swapBack
  /-- R551: After a PL1 request for MAIN from SOLO, D reaches 0 on every tile and the device names the tide into MAIN itself. -/
  | mainEntry
  /-- R399: ZLN stores zero lines over its range and completes when all are acknowledged. -/
  | zln (ctx : Nat)
  /-- R400: FLN writes dirty Eaves lines and merge-buffer entries of a range to the write queues and optionally invalidates them. -/
  | fln (ctx : Nat)
  /-- R234: PBAR waits until the context's prior stores to a range are acknowledged and written out, and with the flash flag until its pages are drained. -/
  | pbar (ctx : Nat)
  /-- R402: MOVP moves every page of a tiered range to the named home. -/
  | movp (ctx : Nat)
  /-- R403: PFSC defines or appends to a stream schedule. -/
  | pfsc (ctx : Nat)
  /-- R404: PFGO starts or stops a stream schedule. -/
  | pfgo (ctx : Nat)
  /-- R405: SOPEN opens a session, reserving its resources and creating its context, or with XF changes its reservations. -/
  | sopen (ctx : Nat)
  /-- R408: SCLOSE releases every binding, cleans the session's lines, returns its reservations and deletes its context. -/
  | sclose (ctx : Nat)
  /-- R406: SEXT defines, rebinds or removes an extent, staging its bindings. -/
  | sext (ctx : Nat)
  /-- R407: SQOS stages sess.qos of a session. -/
  | sqos (ctx : Nat)
  /-- R409: MROLE runs the handover on the active unit or requests it from the standby. -/
  | mrole (ctx : Nat)
  /-- R410: MSYNC resyncs the named tiles, incrementally or fully. -/
  | msync (ctx : Nat)
  /-- R411: MDIG sends a checkpoint for a tile at once and completes on CKOK or CKBAD. -/
  | mdig (ctx : Nat)
  /-- R412: LEASE returns mirr.lease or sends a lease request at once. -/
  | lease (ctx : Nat)
  /-- R413: FRAW reads one record slot of flash raw, header or payload line. -/
  | fraw (ctx : Nat) (decodes : Bool)
  /-- R414: FERC returns the erase count and state of a physical block. -/
  | ferc (ctx : Nat)
  /-- R415: FRET moves a block's current records and retires the block. -/
  | fret (ctx : Nat)
  /-- R208: SCRB scrubs a DFA range of a tile and returns a four-word summary. -/
  | scrb (ctx : Nat) (err : BitVec 640)
  /-- R417: POIS stores one line as poisoned as a full-line store. -/
  | pois (ctx : Nat)
  /-- R417: CLRP stores one line without poison, zeros or supplied data, as a full-line store. -/
  | clrp (ctx : Nat)
  /-- R418: FENCE raises a fence at once with cause 0x01, or stages its clearing. -/
  | fence (ctx : Nat)
  /-- R439: KUNW unwraps a key blob into a slot, optionally sealing it and copying session keys to the standby. -/
  | kunw (ctx : Nat) (twin : Bool)
  /-- R419: KDROP clears a key slot that is not in use. -/
  | kdrop (ctx : Nat)
  /-- R447: CSAV saves the chaining state of an interrupted CRYP and frees it. -/
  | csav (ctx : Nat)
  /-- R448: CRST restores a chaining state record and resumes the CRYP. -/
  | crst (ctx : Nat)
  /-- R445: CRYP encrypts or decrypts pages between DFA ranges as Batten bus requester 10. -/
  | cryp (ctx units : Nat)
  /-- R420: EVTW writes a recorder event with snapshots. -/
  | evtw (ctx : Nat)
  /-- R421: CSNP names an instant for a snapshot of every counter. -/
  | csnp (ctx : Nat)
  /-- R421: CFRZ names an instant to freeze or unfreeze every counter. -/
  | cfrz (ctx : Nat)
  /-- R483: At the named instant every tile copies its counters into their shadows. -/
  | counterSnapshot
  /-- R484: At the named instant every counter freezes or unfreezes. -/
  | counterFreeze
  /-- R422: CRD reads a counter or its snapshot. -/
  | crd (ctx : Nat)
  /-- R372: MARK saves the queue read point as the mark. -/
  | mark (ctx : Nat)
  /-- R372: RWND makes the items consumed since the mark visible again. -/
  | rwnd (ctx : Nat)
  /-- R372: REL frees consumed items up to the read point and clears the mark. -/
  | rel (ctx : Nat)
  /-- R424: FWST writes part of an image into the inactive slot, or returns the transfer status. -/
  | fwst (ctx : Nat)
  /-- R425: FWSEL marks a complete slot for the next boot. -/
  | fwsel (ctx : Nat)
  /-- R426: SAVE commits a planned save, or with XF requests a warm reset. -/
  | save (ctx : Nat)
  /-- R427: HOLD sets or clears the start hold. -/
  | hold (ctx : Nat)
  /-- R62: A write of sys.force_auth = 1 in RSTR makes the unit authoritative without a valid save record. -/
  | forceAuth
  /-- R172: A channel changes timing bank through self-refresh in at most 12 µs, holding requests to its lines. -/
  | frequencyChange (tile : Nat)
  /-- R172: Phase 8 ends: the DQS drift is checked and held requests are released. -/
  | frequencyChangeComplete (tile channel : Nat) (found : DriftTemps)
  /-- R180: A retraining slice holds a channel's lines for at most dram.rt_slice and runs part of steps 6, 8 and 10. -/
  | retrainingSlice (tile channel : Nat) (finished pass : Bool)
  /-- R159: Every 10 ms the DIMM temperatures are read, setting the hot state and the retraining condition. -/
  | dimmTemperatureRead (tile channel : Nat) (t0 t1 : Option Nat)
  /-- R179: Every dram.osc_period a rank's DQS oscillator drift is checked and the write DQ delays are updated. -/
  | dqsOscillatorCheck (tile channel rank drift : Nat)
  /-- R179: Every dram.zq_period ZQ calibration starts and latches per rank. -/
  | zqCalibration (tile channel rank : Nat)
  /-- R158: A rank's refresh reaches its deadline and ranks first. -/
  | refreshDue (tile channel rank : Nat)
  /-- R161: An activate count reaches dram.rh_threshold and the rows at distances 1 and 2 are refreshed. -/
  | neighbourRefresh (tile channel : Nat)
  /-- R160: The activate-count tables of a channel are cleared at each 32 ms or 16 ms window. -/
  | activateTableClear (tile channel : Nat)
  /-- R152: An open row idle for dram.page_idle with no queued hit is closed. -/
  | pageIdleClose (tile channel bank : Nat)
  /-- R163: A rank idle for dram.pd_idle enters precharge power-down. -/
  | powerDownEntry (tile channel rank : Nat)
  /-- R163: A channel enters self-refresh for a frequency change, a save, a warm reset or idle MAIN. -/
  | selfRefreshEntry (tile channel : Nat)
  /-- R181: A channel exits self-refresh and evaluates the retraining condition. -/
  | selfRefreshExit (tile : Nat) (channel : ChanTemps)
  /-- R162: ALERT_n for PRAC is honoured with the RFM commands the DIMM requests. -/
  | pracAlert (tile channel sub : Nat)
  /-- R195: A command or address parity alert stops the sub-channel, clears the error and reissues recent commands. -/
  | caParityAlert (tile channel sub : Nat)
  /-- R147: A DRAM read returns its line, checked by its RS syndrome or CRC. -/
  | dramReadReturn (tile channel sub : Nat) (err : BitVec 640)
  /-- R192: A line that fails its check is refetched, recomputed from flash, or poisoned. -/
  | lineRecovery (tile dfa : Nat) (readable : Bool)
  /-- R205: Undertow reads the next line of a channel in an idle slot, checks it and handles corrections and poison. -/
  | undertowRead (tile channel : Nat) (err : BitVec 640)
  /-- R206: A corrected line is written back unless newer data exists. -/
  | undertowWriteBack (tile : Nat)
  /-- R207: A running Undertow lap reaches ecc.lap_max; an event is logged and lap_late increments. -/
  | lapMaxReached (tile channel : Nat)
  /-- R209: At the end of each ecc.ce_leak a corrected-error bucket falls by one. -/
  | ceBucketLeak (tile b : Nat)
  /-- R197: A datapath parity error leads to a repeat, poison or a fence of the checking unit. -/
  | parityError (tile : Nat) (place : Parity)
  /-- R198: A residue check fails and the unit of Table 7-5 is fenced with cause 0x10. -/
  | residueMismatch (tile cls inst : Nat)
  /-- R199: A queue word error is corrected, or a double error is handled by Table 7-6. -/
  | queueEccError (tile : Nat) (what : QueueError)
  /-- R201: A tag double error invalidates a clean line or fences the tile for a dirty one. -/
  | eavesTagError (tile set way : Nat) (what : EavesError)
  /-- R212: 16 replays within 1 ms on a UCIe link fence it with cause 0x48. -/
  | ucieReplayLimit (tile link count : Nat)
  /-- R211: A fence is raised and the unit stops; every tile holds and routes by it within 1 µs. -/
  | flashing (cls inst tile cause : Nat)
  /-- R211: A fence notice reaches a tile on the command channel and the tile holds the fence. -/
  | fenceNotice (holder cls inst tile : Nat)
  /-- R216: A PL0 unit reset of a fenced channel, DIMM or NAND unit retrains it. -/
  | unitReset (cls inst tile : Nat) (trains : Bool)
  /-- R217: A cleared DRAM channel or DIMM reloads its lines from the twin or flash before it rejoins. -/
  | channelReload (cls inst tile : Nat)
  /-- R224: The drain engine takes the next dirty page, cleans it, reads and encrypts it and hands the record to Thatch. -/
  | drainPage (tile : Nat)
  /-- R224: Thatch reports a record programmed and verified and the page's bit clears unless redirtied. -/
  | recordVerified (tile page : Nat)
  /-- R228: Once per second the tracker recomputes the drain rate r. -/
  | drainRateUpdate (tile : Nat)
  /-- R229: Every 1 ms, or on a change of a term, B_eff is recomputed. -/
  | budgetRecompute (tile : Nat)
  /-- R245: PFW_L is asserted in a serving mode and the device enters save-armed. -/
  | pfwLAssert
  /-- R246: PFW_L has been asserted continuously for 200 µs and a save is committed. -/
  | pfwHoldExpiry
  /-- R246: The device has been save-armed for tide.armed_max and a save is committed. -/
  | armedMaxExpiry
  /-- R246: PFW_L has been deasserted for 5 ms and save-armed lapses. -/
  | saveArmedLapse
  /-- R458: A class 0x1 channel drops; a save is committed in serving modes or a shutdown without save runs in BRUP. -/
  | inputPowerGoodDrop (channel : Nat)
  /-- R458: FAULT_L driven low by another device commits a save in serving modes or shuts down in BRUP. -/
  | faultLLow
  /-- R458: BBU_OK goes low and is logged, refusing starts in STBY. -/
  | bbuOkLow
  /-- R459: A class 0x2 rail drops: warning, FAULT_L and all rails off at once to STBY without a save. -/
  | deviceRailDrop (channel : Nat)
  /-- R459: A class 0x5 rail drops: warning, FAULT_L and a save with cause 0x04. -/
  | applianceRailDrop (channel : Nat)
  /-- R460: A class 0x3 or 0x4 rail drops: its channels are fenced with cause 0x57 and a save is committed. -/
  | memoryRailDrop (channel : Nat)
  /-- R235: The supervisor commits a save and the device names the tide into SAVE, which runs phases 2 to 10. -/
  | saveCommit (cause : Nat)
  /-- R463: The last tile hands its completion to the supervisor; shutdown starts when the input is absent, otherwise the device returns to BRUP. -/
  | saveComplete (tile : Nat)
  /-- R238: The save timeout ends with the input absent and the rails shut off. -/
  | saveTimeout
  /-- R462: After pwr.off_gap the next lower step's enables fall; after step 0 the device is in STBY. -/
  | shutdownStep
  /-- R461: The device releases FAULT_L once in STBY and at least 100 µs after asserting it. -/
  | faultLRelease
  /-- R267: Every page of a log row reports program success and its records are programmed and verified. -/
  | thatchRowProgrammed (tile blk took : Nat)
  /-- R267: A row's oldest record has waited thatch.row_age and the row is padded and programmed. -/
  | rowAgeExpiry (tile blk : Nat)
  /-- R268: A log row page program fails; the block is retired and closed and the row's records are written again. -/
  | programFail (tile blk member : Nat)
  /-- R270: A closed block's read-back verification passes and its parity block is released. -/
  | blockVerify (tile blk : Nat)
  /-- R271: An unreadable page of an unverified block is rebuilt from parity and rewritten. -/
  | parityRebuild (tile blk slot : Nat)
  /-- R272: A segment merge starts into a free Thatch block with a merge-start journal entry. -/
  | mergeStart (tile seg : Nat)
  /-- R272: A verified merge target becomes the segment's data block and old blocks are released. -/
  | mapSwitch (tile seg : Nat)
  /-- R274: A merge or relocation target fails, is retired, and the copy restarts in another block. -/
  | mergeTargetFail (tile blk member : Nat)
  /-- R274: 10 s after three failed targets the merge is retried. -/
  | mergeRetry (tile seg : Nat)
  /-- R273: Relocation moves the current records of a closed log block to the relocation block. -/
  | relocation (tile blk : Nat)
  /-- R277: A codeword failing LDPC is read again with further threshold sets and soft decoding. -/
  | readRetry (tile blk member retries : Nat) (soft : Bool) (sess : Nat)
  /-- R278: A record stays unreadable and its page is fetched from the twin, poisoned or marked for redrain. -/
  | unreadableRecord (tile blk slot : Nat) (merge : Bool)
  /-- R277: Background scrub samples a closed block once per thatch.scrub_period and marks it for refresh. -/
  | flashScrub (tile blk retries : Nat)
  /-- R280: A block erase is journaled, run and sealed with its new count. -/
  | erase (tile blk member : Nat)
  /-- R281: A read or program on a die suspends its erase, which resumes afterwards. -/
  | eraseSuspend (tile blk member : Nat) (resumes : Bool)
  /-- R281: A target does not signal ready within four times its limit and is fenced with cause 0x31. -/
  | targetNotReady (tile target : Nat)
  /-- R286: A flash-only page is read from flash into a local frame and the access proceeds. -/
  | flashOnlyHome (tile lpage : Nat)
  /-- R289: Thatch places an affected page of a fenced flash unit for redrain, twin fetch or poison. -/
  | backlogWalk (tile : Nat)
  /-- R301: A tile sends a data message packing every ready frame when a path is free. -/
  | frameSend (tile path : Nat)
  /-- R305: A standby tile checks each frame of a completed message, stores it and sends receipts. -/
  | frameReceive (tile : Nat)
  /-- R308: A receiver takes a packet into the reassembly state of its message and completes it when all indices and the digest are good. -/
  | messageReassembly (tile path envelope : Nat) (payload : List Byte)
  /-- R309: A message stays incomplete 20 µs and a NAK is sent, repeated every 20 µs. -/
  | reassemblyTimeout (tile chan msgid : Nat)
  /-- R309: A sender receives a NAK and resends missing packets, fencing a path after 4 NAKs. -/
  | nak (tile chan msgid bitmap : Nat)
  /-- R304: The active tile receives a receipt, frees the slot and releases the acknowledgement, or leaves service on status EPOCH. -/
  | receipt (tile gen seq status applied : Nat)
  /-- R307: A frame's receipt has not arrived within mirr.rcpt_to and the frame is resent. -/
  | receiptTimeout (tile seq : Nat)
  /-- R310: A standby tile applies the next frame in sequence order through its own Eaves and DRAM. -/
  | frameApply (tile : Nat)
  /-- R312: A unit receives a line resync request and answers with an LRS message. -/
  | lrq (tile off count seqR : Nat)
  /-- R312: A unit receives line resync data and stores the lines. -/
  | lrs (tile : Nat)
  /-- R312: An LRQ's answer has not arrived within mirr.rcpt_to and it is sent again. -/
  | lrqTimeout (tile off : Nat)
  /-- R314: Every 1 ms an active tile sends CKPT; the standby compares digests when APPLIED reaches s. -/
  | ckpt (tile seq tm : Nat) (digest : Word)
  /-- R314: The active tile receives CKOK and records the confirmed checkpoint. -/
  | ckok (tile seq tm : Nat) (digest : Word)
  /-- R315: A digest mismatch starts an incremental resync of the tile. -/
  | ckbad (tile seq : Nat)
  /-- R33: A SYNC message arrives every 1 µs per tile, disciplining the standby's Tidemark and serving as heartbeat. -/
  | sync (tile path tidemark : Nat)
  /-- R321: No message arrives on a path for mirr.hb_timeout and the path is fenced with cause 0x40. -/
  | heartbeatTimeout (tile path : Nat)
  /-- R320: A unit receives an EPOCH message and adopts a higher epoch. -/
  | epoch (epoch : Nat) (next : List Nat)
  /-- R330: A unit receives a ROLE message: lease lost, handover request, refused, at instant T, or done. -/
  | role (message : RoleMsg)
  /-- R330: At the handover instant the active unit stops ingress and, once its windows empty, releases the lease. -/
  | handover
  /-- R329: A preferred standby has been synced for mirr.fb_holdoff and requests failback. -/
  | failbackRequest
  /-- R295: A standby tile receives a TIDE message with a Spring tide's name, instant, confirmation or rollback. -/
  | tide (name : Nat) (message : TideMsg)
  /-- R211: A unit receives a FENCE message naming a fence of its twin. -/
  | fenceMessage (cls inst cause : Nat)
  /-- R326: The serving unit receives the standby's part of the resync set and merges it with its own. -/
  | rset (tile point : Nat) (pages : List Nat) (confirmed : Bool)
  /-- R327: A resync runs its configuration step, resets digests and sends page frames of the set. -/
  | resync (tile next pages : Nat) (follows : Bool) (config : TwinConfig)
  /-- R328: A tile's set is applied and a checkpoint matches, so it sets SYNCED; SOLO then names the tide into ACTV. -/
  | resyncComplete (tile : Nat)
  /-- R318: Every mirr.lease_renew the holder sends REQ. -/
  | leaseRenew
  /-- R318: A REQ unanswered after 200 µs is sent again with a new REQNO. -/
  | reqRetry
  /-- R322: A unit receives GRANT, moves its deadline, and a standby names the tide into ACTV. -/
  | grant (epoch : Nat) (req : PairReq) (value : Nat)
  /-- R321: A unit receives DENY and waits out the holder's remaining lease before requesting again. -/
  | deny (epoch : Nat) (req : PairReq) (value : Nat)
  /-- R321: The VALUE of a DENY has elapsed and the standby sends REQ again. -/
  | denyWaitEnd
  /-- R330: A unit receives the witness ACK to RELEASE or REPORT. -/
  | ack (req : PairReq)
  /-- R319: The lease deadline E passes; the unit stops ingress, sends ROLE (lease lost) and reports cause 0x46. -/
  | leaseDeadline
  /-- R319: At E + 2.0 µs the unit abandons every unanswered request. -/
  | readAbandon
  /-- R317: The witness receives REQ and renews, grants a new epoch, or denies. -/
  | req (pair port epoch reqno value : Nat) (force : Bool)
  /-- R317: The witness receives BUMP from the holder and grants a new epoch. -/
  | bump (pair port epoch reqno : Nat)
  /-- R317: The witness receives RELEASE from the holder and frees the lease. -/
  | release (pair port reqno : Nat)
  /-- R317: The witness receives REPORT and records it. -/
  | report (pair port reqno : Nat) (cause : WitReport)
  /-- R317: The witness's lease timer reaches L and the holder becomes none. -/
  | witnessLeaseExpiry (pair : Nat)
  /-- R335: A mover changes a page's home under MOVING, writing data and the new entry. -/
  | tierMove (tile lpage : Nat)
  /-- R336: The home-table record naming a release is verified and the frame becomes free. -/
  | pendrelClear (tile frame : Nat)
  /-- R337: The home-table record after a page's arrival is verified and HTPEND clears. -/
  | htpendClear (tile frame : Nat)
  /-- R340: The tier mover chooses a victim by demotion region or clock sweep. -/
  | victimSweep (tile sess : Nat)
  /-- R345: A borrower reads a line of a neighbour-homed page in place with one unit read. -/
  | neighbourRead (tile lpage line : Nat)
  /-- R344: A lender answers a unit read or write of an active loan, checking tags. -/
  | peerUnitRequest (tile link ld tag peer addr : Nat) (write : Bool) (data : List Byte)
  /-- R345: A unit request has no completion within tier.nb_timeout and the loan is lost. -/
  | neighbourTimeout (tile id : Nat)
  /-- R351: A neighbour read in place runs longer than tier.nb_late and becomes a stall. -/
  | neighbourLate (tile id : Nat)
  /-- R346: The borrower sends OPEN every 1 ms; the lender answers with OPENOK. -/
  | openLoan (tile loan : Nat) (received : Bool)
  /-- R346: The borrower receives OPENOK and both entries become active. -/
  | openok (tile loan : Nat)
  /-- R347: The borrower receives RECALL and brings the loan's pages home. -/
  | recall (tile loan notice : Nat)
  /-- R347: 5 ms of the notice remain or the notice ends and the borrower or lender ends the loan. -/
  | recallNoticeEnd (tile loan : Nat)
  /-- R347: The lender receives RETURNED and the loan's frames return to its pool. -/
  | returned (tile loan : Nat)
  /-- R348: A device receives END and the loan's pages are converted to flash only. -/
  | endLoan (tile loan : Nat)
  /-- R348: 1 s after an ended loan, a still-staged entry returns to STATE opening. -/
  | loanRestage (tile loan : Nat)
  /-- R350: An access enters a schedule region; the window is brought home and a demotion region set. -/
  | regionEntry (sess sched page : Nat)
  /-- R353: A stalled request reaches sess.hard_to and completes with its error response. -/
  | hardTimeout (tile link tag : Nat)
  /-- R356: The Batten bus arbiter grants a requester, preempting a lower-urgency owner. -/
  | battenGrant (tile : Nat) (cmdItem : Bool) (raised : List BattAsk) (ended : List Nat)
  /-- R358: A requester's wait counter reaches batt.wait_lim and it wins the next arbitration. -/
  | forcedWin (tile : Nat)
  /-- R469: The recorder makes a record of an event, applying a matching trigger's snapshots. -/
  | eventRecord (tile sev block inst kind detail arg : Nat)
  /-- R475: A flush of uncommitted records to the recorder area starts. -/
  | recorderFlush (tile : Nat)
  /-- R476: A flush's commit marker is verified and the batch is committed. -/
  | flushCommit (tile : Nat)
  /-- R478: A read of rec.rd_data fetches the next matching record and moves the cursor. -/
  | recRdData (reader : Nat)
  /-- R481: A counter wraps past 2^48 - 1, sets OVF and raises a severity 1 event. -/
  | counterOverflow (tile block counter : Nat)
  /-- R481: A write to pmc.cnt lands in one cycle with that cycle's events added. -/
  | pmcCntWrite (tile block counter pl : Nat) (value : Word) (events : Nat)
  /-- R473: Every hour rec.optime is written to the parameter store. -/
  | optimeWrite
  /-- R31: Every 1 µs the lead tile sends a sync message and each tile slews its local count. -/
  | tidemarkSync (tile : Nat)
  /-- R536: A TSYNC_IN edge is accepted or ignored for a bad interval. -/
  | tsyncIn
  /-- R33: A PCIe PTM exchange completes and disciplines the master. -/
  | ptmExchange (tile link : Nat)
  /-- R33: 3 s pass without an accepted edge or PTM exchange and the master free-runs. -/
  | disciplineTimeout
  /-- R35: The master comes within 2^39 ticks of the floor and a new floor entry is appended. -/
  | tidemarkFloorAppend
  /-- R32: A measured Tidemark skew exceeds its bound and a severity 4 event is logged. -/
  | skewLimit (between tile ticks : Nat)
  /-- R501: A change is committed to the parameter store within 1 s. -/
  | parameterStoreCommit (full : Bool)
  /-- R498: The BMC writes fw.soc and the device stamps it. -/
  | fwSoc (soc : Nat)
  /-- R491: fuse.cmd OP 0x01 programs a write-once fuse word with fuse.data. -/
  | programWord (authorised : Bool)
  /-- R491: fuse.cmd OP 0x02 blows OWNED. -/
  | ownedTransition
  /-- R491: fuse.cmd OP 0x03 blows RETIRED and erases the parameter store. -/
  | retiredTransition (authorised : Bool)
  /-- R491: fuse.cmd OP 0x04 revokes an owner slot. -/
  | revokeSlot (authorised : Bool)
  /-- R491: fuse.cmd OP 0x05 blows PRIV_OFF or PRIV_AUTH. -/
  | setDebugBit (authorised : Bool)
  /-- R491: fuse.cmd OP 0x06 unlocks private TAP instructions until the next power-on reset. -/
  | debugUnlock (authorised : Bool)
  /-- R492: A save commit or reset stops fuse programming at the next fuse boundary. -/
  | fuseProgramStop (fuses : Nat)
  /-- R513: A write of scan.bist_ctl GO in MAIN starts BIST on the selected endpoints. -/
  | bistCtl (tile mask : Nat)
  /-- R518: An MCTP SUBMIT message enters a submission to context 0x103F at PL1. -/
  | submit (prio : Nat) (items : List Word)
  /-- R519: The device sends RESULT messages with completion records to the BMC. -/
  | result (count : Nat)
  /-- R518: An MCTP PREAD reads up to 8 parameters at PL1. -/
  | pread (ids : List Nat)
  /-- R519: The device sends an EVENT message to the BMC. -/
  | event
  /-- R518: An MCTP control message is answered in every mode. -/
  | mctpControl (type : Nat)
  /-- R518: A CXL FM-API message over MCTP is served at PL1 by context 0x103F. -/
  | fmApi (prio : Nat) (items : List Word)
  /-- R518: A CXL component command interface message reaches the management LD's mailbox. -/
  | componentCommand (opcode addr : Nat) (data : Line)
  /-- R517: The I3C target takes a dynamic address by ENTDAA or SETDASA. -/
  | entdaa (address : Nat)
  /-- R539: EXTEST selects the boundary register as a driving instruction. -/
  | extest
  /-- R540: IDCODE selects the 32-bit identification register. -/
  | idcode
  /-- R539: SAMPLE/PRELOAD selects the boundary register with the lands keeping their function. -/
  | samplePreload
  /-- R539: CLAMP selects bypass as a driving instruction. -/
  | clamp
  /-- R539: HIGHZ selects bypass as a driving instruction. -/
  | highz
  /-- R544: EXTEST_PULSE runs IEEE 1149.6 pulse testing as a driving instruction. -/
  | extestPulse
  /-- R544: EXTEST_TRAIN runs IEEE 1149.6 train testing as a driving instruction. -/
  | extestTrain
  /-- R539: BYPASS, or any unlisted code, selects the 1-bit bypass register. -/
  | bypass
  /-- R539: A private TAP instruction is accepted or refused under PRIV_OFF and PRIV_AUTH. -/
  | privTapInstruction (code : Nat)
  /-- R542: A driving instruction loaded unblocked takes links down, saves and hands the lands to the boundary register. -/
  | scanHold
  /-- R64: A PCIe configuration request to an LD is served, or answered with Configuration Request Retry Status until cold start step 5 is complete. -/
  | configurationRequest (tile link ld tag : Nat) (request : CfgReq)
  /-- R280: A block erase finishes and the seal with the new erase count and Tidemark is programmed into its first word line. -/
  | eraseComplete (tile blk member : Nat) (ok : Bool)
  /-- R491: Fuse programming of a command or of anti-rollback bits ends and fuse.status RESULT leaves 0x1 running. -/
  | fuseProgramComplete (failed : List Nat)
  /-- R345: A lender's completion to a borrower's unit read or write arrives; its tag is checked and the waiting read or move proceeds, or an error loses the loan. -/
  | unitRequestCompletion (tile id status : Nat) (data : List Byte)
  /-- R317: The witness restarts and keeps the stored holder as holder for the stored lease length, counted from the restart. -/
  | witnessRestart
  /-- R463: ACLK stops and the supervisor continues the save timeout on PCLK with 2 % deducted. -/
  | aclkStop
  /-- R542: The TAP passes Capture-DR and the selected data register captures, zeros before the scan-hold hand-over. -/
  | captureDr (lands : Nat)
  /-- R542: The TAP passes Update-DR and the boundary register drives the lands, with no effect before the scan-hold hand-over. -/
  | updateDr (value : Nat)
  /-- R314: At least once per second each tile writes its last confirmed checkpoint to its Thatch system area. -/
  | checkpointPersist (tile : Nat)
  /-- R513: BIST on an endpoint finishes and scan.bist_res records done, fail and the first failing address. -/
  | bistComplete (tile endpoint : Nat) (fails : Option Nat)
  deriving DecidableEq, Repr

end Sys2Proof
end

