-- ==== Sys2Proof/Machine/Crc.lean ====
section
/-! DEFINITION. The check codes that the manual gives in full: CRC-64 in the form of 07 R186, and CRC-32C. -/

namespace Sys2Proof.Machine

/-- One bit of the reflected CRC-64 register. -/
def crc64Bit (r : BitVec 64) : BitVec 64 :=
  if r.getLsbD 0 then (r >>> 1) ^^^ 0xC96C5795D7870F42#64 else r >>> 1

/-- One byte into the register, least significant bit first. -/
def crc64Byte (r : BitVec 64) (b : Byte) : BitVec 64 :=
  (List.range 8).foldl (fun x _ => crc64Bit x) (r ^^^ b.setWidth 64)

/-- The CRC-64 of a list of bytes (07 R186). -/
def crc64 (bs : List Byte) : Word := ~~~ (bs.foldl crc64Byte (BitVec.allOnes 64))

/-- One bit of the reflected CRC-32C register (Castagnoli polynomial). -/
def crc32Bit (r : BitVec 32) : BitVec 32 :=
  if r.getLsbD 0 then (r >>> 1) ^^^ 0x82F63B78#32 else r >>> 1

/-- One byte into the register. -/
def crc32Byte (r : BitVec 32) (b : Byte) : BitVec 32 :=
  (List.range 8).foldl (fun x _ => crc32Bit x) (r ^^^ b.setWidth 32)

/-- The CRC-32C of a list of bytes. -/
def crc32c (bs : List Byte) : BitVec 32 := ~~~ (bs.foldl crc32Byte (BitVec.allOnes 32))

/-- The CRC-32C over words taken little-endian, in word order. -/
def crc32cWords (ws : List Word) : BitVec 32 := crc32c (ws.flatMap wordBytes)

/-- The CRC-64 over words taken little-endian, in word order. -/
def crc64Words (ws : List Word) : Word := crc64 (ws.flatMap wordBytes)

end Sys2Proof.Machine
end

