-- ==== Sys2Proof/Config.lean ====
section
/-! DEFINITION. The free values: what the manual leaves open and the machine produces all the same. None has a
body, so nothing can be proved of the value; each is applied to the counter `State.free`, which every use advances. -/

namespace Sys2Proof

/-- A fresh random or measured word: a challenge, a key word, a measured delay. -/
opaque Config.freeWord : Nat → Word

/-- The root key of a tile, from its on-die unclonable source: the same at every start (14 Table 14-4). -/
opaque Config.rootKey : Nat → BitVec 256

/-- A quantity that the device measures and the manual does not state: a frequency, a trained delay, a temperature, a lane
count. The first argument names the parameter, the second what it was measured of or when. -/
opaque Config.measured : Nat → Nat → Nat

/-- The manufacturer ID that MIPI assigned to Efsopol, of which the manual gives no value (18 R517). -/
opaque Config.mipiId : BitVec 15

end Sys2Proof
end

