-- ==== Sys2Proof/Machine/State.lean ====
section
/-! DEFINITION. The state of the block: every register, queue, counter, mode and pin that the manual gives the
PLK-8840, as plain data, with the queue of commands that wait. Sparse arrays (`Store`) list only what differs from
the value at reset. -/

namespace Sys2Proof.Machine

/-- The three parts of the family (00 R1, R4). -/
inductive Part where
  | t2a | t4a | t8a
  deriving DecidableEq, Repr

/-- Tiles of a part (00 R1). -/
def Part.tiles : Part → Nat
  | .t2a => 2
  | .t4a => 4
  | .t8a => 8

/-- The eight operating modes (02 Table 2-1). -/
inductive Mode where
  | stby | brup | rstr | actv | mirs | solo | save | main
  deriving DecidableEq, Repr

/-- The status codes of a completion record (13 Table 13-9). -/
inductive Status where
  | ok | pend | idle | priv | range | resv | mode | chkfail | late | rollbk | fenced | poison | uncor
  | stallto | ersusp | halfer | progfail | lease | epoch | key | nonce | fwmove | fwbatt | fwlock
  deriving DecidableEq, Repr

/-- A count of Tidemark ticks that a rate adjustment slews: `rate` in units of 0.001 ppm, `phase` the part of a
tick not yet counted, in units of 10⁻⁹ tick (01 R31). -/
structure Count where
  on : Bool := false
  count : Nat := 0
  rate : Int := 0
  phase : Int := 0
  deriving DecidableEq, Repr

/-- Tidemark: the master of the lead tile and the local count of each tile (01 R30 to R35). -/
structure TimeS where
  master : Count := {}
  locals : Store Count := []
  /-- bits [1:0] that the four-phase samplers supply to a stamp in this cycle of TSCLK, 0 to 3 -/
  phase : Nat := 0
  /-- skew of a tile at the last sync message, local minus master -/
  skew : Store Int := []
  lastEdge : Nat := 0
  edgeSeen : Bool := false
  /-- the last accepted edge or exchange -/
  lastSync : Nat := 0
  disciplined : Bool := false
  /-- the floor F in force, in the floor log of the parameter store -/
  floor : Nat := 0
  deriving DecidableEq, Repr

/-- The mode and what hangs on it (02 R45, R49, R54, R56, R551). -/
structure ModeS where
  mode : Mode := .stby
  prev : Mode := .stby
  cause : Nat := 0
  stamp : Nat := 0
  /-- between the two parts of a change from SOLO to MAIN -/
  soloMain : Bool := false
  /-- MAIN in the recovery form -/
  recovery : Bool := false
  /-- the device is leaving service as a whole -/
  leaving : Bool := false
  /-- a warm reset waits for the end of its planned save (or, in MAIN, for the drain) -/
  warmReset : Bool := false
  deriving DecidableEq, Repr

/-- The restore path of a tile (02 R60). -/
inductive RPath where
  | empty | fullLoad | verifyOnly | recordsOnly
  deriving DecidableEq, Repr

/-- The record summary that the units exchange (02 R62). -/
structure Summary where
  epoch : Nat := 0
  lastSeq : List Nat := []
  valid : Bool := false
  preferred : Bool := false
  deriving DecidableEq, Repr

/-- The progress of a start (02 Tables 2-7 and 2-8). -/
structure BootS where
  /-- step 2: the step table has been read -/
  tableRead : Bool := false
  /-- a START held until then -/
  heldStart : Bool := false
  /-- an automatic start is not acted on (R455, R56) -/
  autoBlock : Bool := false
  /-- the start hold (13 R427) -/
  startHold : Bool := false
  /-- steps of Table 2-7 that have ended on this start -/
  done : List Nat := []
  /-- those that had ended when MAIN was entered from BRUP (R551) -/
  atMain : List Nat := []
  failStep : Nat := 0
  forced : Bool := false
  lone : Bool := false
  auth : Bool := false
  decided : Bool := false
  migrated : Bool := false
  fallback : Bool := false
  slot : Nat := 0
  /-- slots that failed their check on this start -/
  failed : List Nat := []
  /-- tiles whose UCIe links are trained, whose DIMMs are found, whose channels are trained, and so on -/
  ucie : List Nat := []
  dimms : List Nat := []
  mounted : List Nat := []
  /-- tiles whose image is loaded or verified (step 11), and channels done in step 12, as 4·tile + channel -/
  restored : List Nat := []
  fullSpeed : List Nat := []
  /-- the restore path of each tile, by its number in `sys.boot_status` -/
  paths : Store Nat := []
  twin : Option Summary := none
  /-- this unit's own summary, taken when step 9 ends; and the twin is the authoritative unit -/
  own : Option Summary := none
  twinAuth : Bool := false
  /-- the time at which step 10 began to wait for the twin -/
  pairSince : Nat := 0
  /-- tiles in reset (a tile reset runs their part of the bring-up) -/
  tileReset : List Nat := []
  /-- `port.bifurcation` as latched at the cold start, per tile -/
  bifur : Option (Store Nat) := none
  deriving DecidableEq, Repr

/-- The state of the supervisor (15 Table 15-7). -/
inductive SeqState where
  | off | sequencing | running | committed | shutting | faulted
  deriving DecidableEq, Repr

/-- Where a step of the rail sequence stands (15 R454). -/
inductive SeqPhase where
  | wait | window | delay
  deriving DecidableEq, Repr

/-- The power supervisor (15). Inputs are held in their accepted state. -/
structure PwrS where
  en : BitVec 16 := 0
  pg : BitVec 16 := 0
  bbuOk : Bool := false
  pfw : Bool := false
  faultIn : Bool := false
  faultOut : Bool := false
  faultSince : Nat := 0
  state : SeqState := .off
  step : Nat := 0
  restarts : Nat := 0
  phase : SeqPhase := .wait
  /-- start of the step or restart, of the window or of the delay -/
  since : Nat := 0
  /-- the step whose enables have not yet been raised -/
  toRaise : Bool := false
  /-- a start condition has been taken and the sequence waits for FAULT_L -/
  wanted : Bool := false
  faultKind : Nat := 0
  faultCh : Nat := 0
  abandon : Bool := false
  dramUp : BitVec 8 := 0
  /-- the step whose enables fall next in a shutdown, and when the last ones fell -/
  offStep : Nat := 0
  offSince : Nat := 0
  /-- the CAUSE that `sys.mode` takes at the end of the shutdown -/
  offCause : Nat := 0
  /-- the supervisor parameters in use, latched at the start of a rail sequence (15 R453); keyed by index -/
  cfg : Store Word := []
  aclkStopped : Bool := false
  vddFuse : Bool := false
  deriving DecidableEq, Repr

/-- A record of the event recorder (16 Table 16-4). -/
structure Rec where
  sev : Nat
  tile : Nat
  code : Nat
  tidemark : Nat
  optime : Nat
  pcycle : Nat
  seq : Nat
  /-- 1 device event, 2 EVTW -/
  src : Nat
  trig : Nat := 0
  pl : Nat := 0
  ctx : Nat := 0
  tgen : Nat := 0
  arg : Nat := 0
  snaps : List Word := []
  deriving DecidableEq, Repr

/-- The definition of a trigger entry kept in the recorder area (16 R472). -/
structure TrigDef where
  entry : Nat
  gen : Nat
  params : List Nat
  deriving DecidableEq, Repr

/-- The recorder of one tile (16 R469 to R478). -/
structure RecTile where
  /-- records in SRAM, oldest first -/
  sram : List Rec := []
  /-- the number of records at the head of `sram` that the batch being flushed holds -/
  batch : Option Nat := none
  /-- a flush cause has arisen that no flush has taken -/
  wanted : Bool := false
  seq : Nat := 0
  /-- committed records of the recorder area, in the order they were committed -/
  area : List Rec := []
  /-- the commit marker of the batch last committed: its count, its first and last (PCYCLE, SEQ), and its CRC-64 (R476) -/
  marker : List Word := []
  defs : List TrigDef := []
  gens : Store Nat := []
  hits : Store Nat := []
  /-- the time until which a trigger entry does not apply again -/
  holdoff : Store Nat := []
  deriving DecidableEq, Repr

/-- A reader of the recorder and the record it last fetched (16 R478). -/
structure Reader where
  words : List Word := []
  deriving DecidableEq, Repr

/-- The recorder as a whole (16 R473, R478). -/
structure RecS where
  tiles : Store RecTile := []
  readers : Store Reader := []
  /-- operating time in ticks up to the last power-on reset, and the time of that reset -/
  opBase : Nat := 0
  opSince : Nat := 0
  pcycle : Nat := 0
  tmMark : Nat := 0
  /-- what the parameter store holds of `rec.optime` (s), and when it was last written -/
  opStored : Nat := 0
  opWritten : Nat := 0
  deriving DecidableEq, Repr

/-- A performance counter: its count, overflow bit, and the copies that a snapshot took (16 R481, R483).
The key is 4096·session-space + 1024·tile + 16·block + k. -/
structure Ctr where
  cnt : Nat := 0
  ovf : Bool := false
  shadow : Nat := 0
  shadowOvf : Bool := false
  deriving DecidableEq, Repr

/-- The performance counters (16 R479 to R485). -/
structure PmcS where
  ctrs : Store Ctr := []
  frozen : Bool := false
  snapTm : Nat := 0
  snapped : Bool := false
  deriving DecidableEq, Repr

/-- The path by which a submission came (12 Table 12-6); a logical device is named by tile and number. -/
inductive Path where
  | bar0 (tile ld : Nat)
  | cmd (tile ld : Nat)
  | mctp
  | slipway (sess : Nat)
  | firmware
  deriving DecidableEq, Repr

/-- A submission: its items, one priority, its path and the level at which it runs (12 R370). -/
structure Sub where
  items : List Word
  prio : Nat
  path : Path
  pl : Nat
  deriving DecidableEq, Repr

/-- The submission that a context is running (12 R371, R372). `next` is the read point, `high` the items
consumed so far, `freed` the items released. -/
structure Cur where
  sub : Sub
  next : Nat := 0
  high : Nat := 0
  freed : Nat := 0
  deriving DecidableEq, Repr

/-- A return point of the call stack: the source of instructions before the call and the PC there (12 R366). -/
structure RetPt where
  fetch : Bool
  pc : Nat
  deriving DecidableEq, Repr

/-- A completion record before it is put into words, with its sink (12 Table 12-5). -/
structure Cpl where
  tidemark : Nat
  status : Status
  opcode : Nat
  prio : Nat
  last : Bool
  ended : Bool
  cmd : Bool
  pl : Nat
  index : Nat
  pc : Nat
  ctx : Nat
  result : Word
  subid : Nat
  path : Path
  deriving DecidableEq, Repr

/-- What an issued instruction carries to its completion. -/
structure Issue where
  word : Word
  opcode : Nat
  index : Nat
  pc : Nat
  /-- true when it was read from the program store -/
  stored : Bool
  cmd : Bool
  prio : Nat
  path : Path
  pl : Nat
  subid : Nat
  /-- the extension word, and the data items -/
  ext : Word := 0
  data : List Word := []
  /-- the submission ends with it whatever CONT holds (13 R388) -/
  short : Bool := false
  deriving DecidableEq, Repr

/-- An SCRB under way (07 R208): the next line and the end of the range; whether it is the one that runs on its tile; the line that
waits for its recovery; and what its summary counts (Table 7-8). -/
structure ScrbRun where
  tile : Nat
  next : Nat
  hi : Nat
  runs : Bool := false
  busy : Option Nat := none
  lines : Nat := 0
  recovered : Nat := 0
  corrected : Nat := 0
  maxSym : Nat := 0
  found : Nat := 0
  new : Nat := 0
  first : Option Nat := none
  deriving DecidableEq, Repr

/-- An instruction that has started and waits for an event (13 Table 13-2). -/
inductive LongOp where
  | waitUntil (t : Nat)
  | idle (since : Nat)
  | apls
  | sclose (sess phase : Nat)
  /-- ZLN: session, extent, offset of the next line, lines left, lines acknowledged, lines outstanding -/
  | zln (sess off left acked out : Nat)
  /-- POIS, CLRP: one store outstanding -/
  | store1
  /-- PBAR: session, offset, length, flash flag -/
  | pbar (tile lo hi : Nat) (flash : Bool) (stamp : Nat)
  | movp (sess tile lo hi dest moved : Nat)
  | mrole (kind : Nat)
  | msync (tiles pages : Nat)
  | mdig (tile : Nat)
  | lease
  | fret (tile block : Nat) (moved : Nat)
  | scrb (r : ScrbRun)
  /-- CSNP, CFRZ: the instant, the state asked for, and whether it has been done -/
  | snap (t : Nat) (taken : Bool)
  | freeze (t : Nat) (on : Bool) (taken : Bool)
  | cryp
  | fwst
  | save
  deriving DecidableEq, Repr

/-- A running or interrupted CRYP (14 R443 to R448). -/
structure Cryp where
  slot : Nat
  mode : Nat
  installs : Nat
  src : Nat
  dst : Nat
  pages : Nat
  tile : Nat
  /-- pages completed; 64-byte units completed in the current page -/
  done : Nat := 0
  unit : Nat := 0
  /-- T0 for XTS, c for GCM -/
  base : Nat := 0
  /-- GHASH accumulator, or the encrypted tweak of the current block, as 16 little-endian bytes; 0 on a page boundary -/
  acc : Nat := 0
  interrupted : Bool := false
  deriving DecidableEq, Repr

/-- A Rhozil context (12 R365 to R376). `g` lists the registers that are not zero; g0 is never listed. -/
structure Ctx where
  created : Bool := false
  tile : Nat := 0
  level : Nat := 0
  g : Store Word := []
  pc : Nat := 0
  fetch : Bool := false
  stack : List RetPt := []
  mark : Option Nat := none
  subid : Nat := 0
  waiting : List Sub := []
  cur : Option Cur := none
  /-- command-class items not yet taken -/
  cmds : List Sub := []
  /-- read point of the queue (12 R374): items consumed since creation, modulo 1,024; freed ones likewise -/
  rd : Nat := 0
  wr : Nat := 0
  cecnt : Nat := 0
  /-- the thread that holds the context, with the time of the load -/
  thread : Option Nat := none
  since : Nat := 0
  /-- the time at which the context became ready -/
  ready : Nat := 0
  long : Option (Issue × LongOp) := none
  /-- held before an instruction for want of completion space (STATE 0x4) -/
  held : Bool := false
  outbox : List Cpl := []
  /-- the staged set that it owned was dropped, and it has not been told (R378) -/
  dropped : Bool := false
  cryp : Option Cryp := none
  /-- the restore token of the last chaining state saved (14 R447) -/
  token : Option Nat := none
  deriving DecidableEq, Repr

/-- What a staged entry or a device entry of a Spring tide changes (12 R377, R383). -/
inductive Change where
  /-- a field of a parameter, of the session in the second place for `sess` parameters -/
  | field (id sess hi lo : Nat) (value : Nat)
  /-- the binding of an extent to a logical device at a window start, and its release -/
  | bind (sess ext tile link ld w : Nat)
  | unbind (sess ext tile link ld : Nat)
  /-- the removal of an extent -/
  | remove (sess ext : Nat)
  | clearFence (cls inst tile : Nat)
  | mode (m : Mode) (cause : Nat)
  | raiseFence (cls inst tile : Nat)
  deriving DecidableEq, Repr

/-- An entry of the staged set with the level that staged it (12 R378, 13 R398). -/
structure Entry where
  change : Change
  level : Nat
  deriving DecidableEq, Repr

/-- The staged set (12 R378). -/
structure SetS where
  entries : List Entry := []
  owner : Option Nat := none
  checked : Bool := false
  touched : Nat := 0
  /-- extents that SEXT has defined since the set was last empty: session and extent (14 R433) -/
  defined : List (Nat × Nat) := []
  deriving DecidableEq, Repr

/-- The phase of a Spring tide (12 R381, R382). -/
inductive TidePhase where
  | named | swapped | released | swapBack | backSwapped
  deriving DecidableEq, Repr

/-- A unit of a tide: a tile of this device, or of the standby. -/
structure TideUnit where
  standby : Bool
  tile : Nat
  deriving DecidableEq, Repr

/-- A named Spring tide (12 R380 to R383). -/
structure Tide where
  name : Nat
  at_ : Nat
  changes : List Entry
  /-- the context that waits in APLS (or SCLOSE), none for a tide of the device's own -/
  ctx : Option Nat
  phase : TidePhase := .named
  /-- the values in effect before the swap, and the mode before it -/
  undo : List (Nat × Nat × Word) := []
  oldMode : Option ModeS := none
  confirmed : List TideUnit := []
  /-- the units of the tide, fixed when it swaps -/
  units : List TideUnit := []
  late : List TideUnit := []
  deriving DecidableEq, Repr

/-- A fence in force (01 R37, R41). `heldBy` lists the tiles that hold it; `reset` marks a completed unit reset
since it was raised (07 R216). -/
structure Fence where
  cls : Nat
  inst : Nat
  tile : Nat
  cause : Nat
  tidemark : Nat
  heldBy : List Nat := []
  reset : Bool := false
  /-- the lines still to be reloaded after the clearing keep the fenced behaviour (07 R217) -/
  reloading : Bool := false
  /-- the DFA page up to which they are -/
  reloadAt : Nat := 0
  deriving DecidableEq, Repr

/-- A fence record (07 Table 7-12). -/
structure FenceRec where
  tidemark : Nat
  cause : Nat
  inst : Nat
  tile : Nat
  src : Nat
  clr : Bool
  cls : Nat
  deriving DecidableEq, Repr

/-- The fences in force and the ring of fence records, newest first; `count` numbers every record written. -/
structure FenceS where
  inForce : List Fence := []
  log : List FenceRec := []
  count : Nat := 0
  deriving DecidableEq, Repr

/-- A dirty page handed to the drain (08 R224). -/
structure Inflight where
  page : Nat
  ts : Nat
  redirty : Bool := false
  deriving DecidableEq, Repr

/-- The Tideline of one tile (08 R221 to R234). `dirty` lists the dirty DFA pages, rising. -/
structure TideTile where
  dirty : List Nat := []
  /-- bitmap lines held in each set of the bitmap cache, most recently used first -/
  cache : Store (List Nat) := []
  cursor : Nat := 0
  inflight : List Inflight := []
  /-- pages that PBAR or MOVP has put at the head of the walk -/
  head : List Nat := []
  rate : Nat := 16000
  rateMeasured : Bool := false
  /-- time of the last computation of r -/
  rateAt : Nat := 0
  /-- a higher value of r and the time since which it has held -/
  rateHigh : Option (Nat × Nat) := none
  /-- mean pSLC program time of the last measured second, in µs -/
  meanProg : Nat := 0
  /-- B_eff in MiB, and the term that sets it -/
  eff : Nat := 0
  limit : Nat := 0
  opened : Bool := false
  /-- 2 MiB groups of tile offset loaded or verified, and pages loaded ahead of their group -/
  loaded : List Nat := []
  pages : List Nat := []
  /-- offset of the next line that the verify-only path checks -/
  verifyAt : Nat := 0
  /-- the home-table pages of the image are loaded (08 R241) -/
  htLoaded : Bool := false
  deriving DecidableEq, Repr

/-- What a save record states of a tile as it was at the commit (08 Table 8-6). -/
structure CommitTile where
  dirty : Nat := 0
  eff : Nat := 0
  rate : Nat := 0
  bankH : Nat := 0
  fencedCh : Nat := 0
  epoch : Nat := 0
  deriving DecidableEq, Repr

/-- A committed save (08 R235 to R239). -/
structure SaveRun where
  cause : Nat
  mode : Nat
  armed : Bool
  tidemark : Nat
  since : Nat
  /-- each tile as it was at the commit -/
  tiles : List CommitTile := []
  /-- instant of the SAVE tide (T_COMMIT), once it has swapped -/
  instant : Option Nat := none
  /-- tiles that have handed their completion -/
  complete : List Nat := []
  /-- ticks of the timeout already counted, and the time from which the count runs while the input is absent -/
  used : Nat := 0
  runFrom : Option Nat := none
  /-- a planned save, with the warm reset that follows -/
  warm : Bool := false
  planned : Bool := false
  /-- a running rail has failed: the shutdown follows whatever the input does (15 R459, R460) -/
  forceOff : Bool := false
  deriving DecidableEq, Repr

/-- Persistence of the unit: the save in progress, save-armed and the save records (08 R235 to R246). -/
structure SaveS where
  run : Option SaveRun := none
  /-- save-armed since -/
  armed : Option Nat := none
  /-- PFW_L asserted since, deasserted since -/
  pfwSince : Option Nat := none
  pfwOff : Option Nat := none
  /-- the newest save record of each tile, 16 words (nonvolatile) -/
  recs : Store (List Word) := []
  /-- a save committed after the last serving start that wrote no valid record (08 R238) -/
  dirtyShutdowns : Nat := 0
  deriving DecidableEq, Repr

/-- Word 4 of the fuses as State.reset has it: eight tiles, stepping code 1 (00 Table 0-1; 17 Table 17-1). (DESIGN CHOICE, log 5.) -/
def fusedWord4 : Word := 0x1_0003

/-- The fuse bank of the lead tile (17 R486 to R492). -/
structure FuseS where
  /-- the fuses as blown, and as sensed at step 1 -/
  cells : Store Word := [(4, fusedWord4)]
  sensed : Store Word := [(4, fusedWord4)]
  /-- write-once words programmed, and words that read invalid -/
  progd : List Nat := [4]
  invalid : List Nat := []
  data : Word := 0
  auth : Store Word := []
  challenge : Word := 0
  result : Nat := 0
  unlocked : Bool := false
  /-- the command that is programming: OP, WORD, ARG, data, and the bits still to blow of a raise of the count -/
  busy : Option (Nat × Nat × Nat × Word) := none
  arbLeft : Nat := 0
  /-- a save commit or a reset has stopped the programming under way (R492) -/
  stopped : Bool := false
  /-- when the programming began -/
  since : Nat := 0
  /-- write-once words whose programming was stopped: they are never programmed again (R492) -/
  dead : List Nat := []
  /-- a command of `fuse.cmd` that waits for the outcome of its checks -/
  cmd : Option Word := none
  deriving DecidableEq, Repr

/-- An image slot: the image as far as it is written, and its state (17 R494 to R499). -/
structure SlotS where
  words : List Word := []
  complete : Bool := false
  crcFail : Bool := false
  deriving DecidableEq, Repr

/-- The integrity state of a channel (07 R187 to R207). -/
structure IntCh where
  convPtr : Nat := 0
  /-- the conversion lap: running, and the base of the group in conversion -/
  lapRun : Bool := false
  convDone : Bool := false
  lapPos : Nat := 0
  lapStart : Nat := 0
  lapTime : Nat := 0
  lapLate : Bool := false
  /-- the time at which the running lap began -/
  lapBegan : Nat := 0
  /-- command and address alerts: times of the last second -/
  caAt : List Nat := []
  /-- lines of each DIMM slot that needed step 2 or 3: times of the last hour -/
  ue0 : List Nat := []
  ue1 : List Nat := []
  deriving DecidableEq, Repr

/-- The integrity state of a tile: poison table and buckets (07 R204, R209). -/
structure IntTile where
  poison : List Nat := []
  overflow : Bool := false
  /-- a complete Undertow lap has run since the overflow flag was set -/
  lapSince : Bool := false
  /-- times of UCIe replays of each link within the last second -/
  replays : Store (List Nat) := []
  leakAt : Store Nat := []
  /-- channels that have completed a lap since the flag was set; lines that Undertow is to write back -/
  laps : List Nat := []
  writeBack : List Nat := []
  /-- when the overflow flag was set; and the earliest start of the next group of the conversion lap, for `ecc.conv_rate` -/
  overAt : Nat := 0
  convNext : Nat := 0
  deriving DecidableEq, Repr

/-- The IDE state of a link (03 R89). -/
inductive Ide where
  | none | secure | insecure
  deriving DecidableEq, Repr

/-- A host link of a tile (03 R67 to R70, R81, R89). -/
structure Link where
  up : Bool := false
  /-- rate code of `port.link_rate_max`, and width in lanes -/
  rate : Nat := 0
  width : Nat := 0
  perst : Bool := true
  /-- a hot reset or link-down counts as PERST until the link has retrained -/
  hot : Bool := false
  ide : Ide := .none
  /-- RwD and Req credits are withheld; the owning tiles for whose sake RwD credits are; and how many of each are kept back -/
  heldRwD : Bool := false
  heldReq : Bool := false
  heldFor : List Nat := []
  keptRwD : Nat := 0
  keptReq : Nat := 0
  deriving DecidableEq, Repr

/-- An HDM decoder of a logical device (03 R75). -/
structure Decoder where
  base : Nat := 0
  size : Nat := 0
  ways : Nat := 1
  gran : Nat := 256
  /-- the position of the target that the host gives the link -/
  pos : Nat := 0
  ira : Bool := false
  committed : Bool := false
  err : Bool := false
  deriving DecidableEq, Repr

/-- An entry of a violation log (03 Table 3-8). -/
structure VEntry where
  tidemark : Nat
  addr : Nat
  sess : Option Nat
  pbr : Option Nat
  reqid : Nat
  tile : Nat
  link : Nat
  ld : Nat
  cause : Nat
  op : Nat
  merged : Nat := 0
  deriving DecidableEq, Repr

/-- BAR0 of a logical device (03 R97 to R101): submission ring, completion ring, command registers, violation log,
status window. -/
structure Bar where
  /-- the address at which the host has placed BAR0 (03 R98) -/
  base : Option Nat := none
  decoders : Store Decoder := []
  sq : Store Word := []
  sqHead : Nat := 0
  sqTail : Nat := 0
  /-- doorbells not yet wholly taken: tail and priority -/
  sqWait : List (Nat × Nat) := []
  cq : Store (List Word) := []
  cqHead : Nat := 0
  cqTail : Nat := 0
  item0 : Word := 0
  item1 : Word := 0
  /-- a command item waits to enter its queue, with or without its extension word -/
  cmdBusy : Bool := false
  cmdExt : Bool := false
  stray : Nat := 0
  tmHi : Nat := 0
  violReq : Nat := 0
  violOwn : Nat := 0
  violLost : Nat := 0
  vlog : Store (List Word) := []
  newest : Option VEntry := none
  vlogHead : Nat := 0
  vlogTail : Nat := 0
  vc1 : Bool := false
  /-- MSI-X vector 1: last raised, and a violation waits for the holdoff -/
  vec1At : Option Nat := none
  vec1Wait : Bool := false
  /-- vectors 0 and 3 are to fire; the MODE and THROTTLE that vector 2 last told -/
  vec0 : Bool := false
  vec3 : Bool := false
  seenMode : Nat := 0
  seenThrottle : Nat := 0
  /-- an SPDM secure session is open, and its AES-256-GCM key -/
  spdm : Bool := false
  spdmKey : BitVec 256 := 0
  deriving DecidableEq, Repr

/-- The state of a Slipway page (03 Table 3-13). -/
inductive SlipState where
  | locked | half | open_ | queued | running | done
  deriving DecidableEq, Repr

/-- The Slipway page of a session (03 R103 to R106). -/
structure Slip where
  state : SlipState := .locked
  t1 : Nat := 0
  words : Store Word := []
  /-- offsets of the program words written since OPEN -/
  wrote : List Nat := []
  lastStat : Nat := 0
  lastIdx : Nat := 0
  lastWrite : Nat := 0
  /-- the queued submission has entered the context's queue -/
  entered : Bool := false
  /-- COUNT of the program that waits for room in the queue -/
  count : Nat := 0
  deriving DecidableEq, Repr

/-- A session (01 Table 1-6; 13 R405). -/
structure Sess where
  isOpen : Bool := false
  /-- its owner port or LD has been fenced, and no new owner named (01 Table 1-10) -/
  ownerLost : Bool := false
  tile : Nat := 0
  link : Nat := 0
  ld : Nat := 0
  cpr : Bool := false
  resv : Store Resv := []
  exts : Store Ext := []
  scheds : Store Sched := []
  slip : Slip := {}
  deriving DecidableEq, Repr

/-- What a request asks for. -/
inductive RKind where
  | read | store
  | fetchAdd (bytes : Nat) (operand : BitVec 128)
  | cas (bytes : Nat) (compare swap : BitVec 128)
  deriving DecidableEq, Repr

/-- Where a request came from. -/
inductive Src where
  | host (via : Via)
  /-- an instruction of a context: ZLN, POIS, CLRP -/
  | ctx (n : Nat)
  deriving DecidableEq, Repr

/-- A request after translation (03, 04). A line of a request that spans several carries the tag of the whole. The tag of a UIO or
CXL.io request is its PCIe transaction ID, with the requester ID in bits [31:16]. -/
structure Req where
  src : Src
  kind : RKind
  tile : Nat
  link : Nat
  ld : Nat
  tag : Nat
  hpa : Nat
  mask : Mask := 0
  data : Line := 0
  poison : Bool := false
  zln : Bool := false
  stamp : Nat
  /-- the time at which it was received, for its urgency -/
  since : Nat
  sess : Nat
  off : Nat
  dpa : Nat
  tiered : Bool := false
  /-- byte offset of the operand in its line, for atomics -/
  at_ : Nat := 0
  pl : Nat := 2
  /-- what has been counted of it: 1 a wait at the gate, 2 its lookup in Eaves, 3 in the home TLB, 4 its wait for room, 5 its turn in its
stream -/
  noted : List Nat := []
  /-- address and length of the whole request -/
  whole : Nat × Nat := (0, 0)
  /-- QoS class of its session and latency target in ns (04 R134) -/
  qos : Nat := 0
  lat : Nat := 0
  /-- ticks that it has been held in the full-speed step, which the session hard timeout does not count (02 R65) -/
  exempt : Nat := 0
  /-- its place within its source unit: link, or sequencer and thread (01 R36) -/
  order : Nat := 0
  deriving DecidableEq, Repr

/-- Why a request waits. -/
inductive Why where
  | gate            -- order gate (04 R132)
  | line            -- an earlier request to the line (03 R84)
  | home            -- home TLB miss (04 R110)
  | move            -- the page is not home, or MOVING (04 R111, R112)
  | load            -- RSTR: the page is not loaded (08 R242)
  | held            -- channel held: frequency change, training, retraining slice, conversion group (05, 06, 07)
  | pend            -- unacknowledged store on the line (04 R131)
  | bitmap          -- Tideline bitmap miss (08 R222)
  | room            -- Tideline room (08 R231)
  | window          -- twin window (10)
  | merge           -- merge buffer full (04 R129)
  | writeOut        -- merge entry being written out (04 R547)
  | dram            -- DRAM read (05 R147)
  | twin            -- line resync (10 R312)
  | recovery        -- line in recovery (07 R192)
  | solo            -- twin lost, SOLO tide awaited (10 R323)
  | tideHold        -- held at the ingress by a Spring tide (12 R381)
  | unit            -- neighbour read in place (11 R345)
  | queue           -- an earlier store of its link's store queue waits (04 R137)
  | readq           -- the DRAM read queue is full (05 R150)
  | ingress         -- in the RwD ingress buffer of its link (04 R138)
  | evict           -- the victim of its allocation waits for room in a write queue (04 R120)
  deriving DecidableEq, Repr

/-- A request that waits, with the stall it counts against its session since a time (11 R351). -/
structure Wait where
  req : Req
  why : Why
  since : Nat
  stall : Option (Nat × Nat) := none
  deriving DecidableEq, Repr

/-- An Eaves line (04 Table 4-7). -/
structure EvLine where
  valid : Bool := false
  dfa : Nat := 0
  off : Nat := 0
  sess : Nat := 0
  dirty : Bool := false
  poison : Bool := false
  pf : Bool := false
  pend : Nat := 0
  data : Line := 0
  deriving DecidableEq, Repr

/-- A merge-buffer entry (04 R126). -/
structure Merge where
  off : Nat
  dfa : Nat
  sess : Nat
  data : Line
  mask : Mask
  stamp : Nat
  pend : Nat := 0
  poison : Bool := false
  writing : Bool := false
  /-- latency target of its first store in ns, for its urgency -/
  lat : Nat := 0
  deriving DecidableEq, Repr

/-- A line in a DRAM write queue (05 R149); `rs` says in which form it is coded (07 R187). -/
structure WqEnt where
  dfa : Nat
  data : Line
  poison : Bool
  pend : Nat := 0
  rs : Bool := false
  deriving DecidableEq, Repr

/-- What a DRAM read is for. -/
inductive RdFor where
  | demand
  | prefetch (sess : Nat)
  | mergeOut
  | homeTlb
  | bitmap
  | scrub
  deriving DecidableEq, Repr

/-- An entry of a DRAM read queue (05 R149). -/
structure RqEnt where
  dfa : Nat
  off : Nat
  sess : Nat
  why : RdFor
  since : Nat
  tries : Nat := 0
  /-- latency target in ns, for its urgency; 0 none -/
  target : Nat := 0
  deriving DecidableEq, Repr

/-- An entry of the stream table (04 R123, R124), most recently used first in its list. -/
structure Stream where
  sess : Nat
  ld : Nat
  seq : Nat := 0
  lastStore : Option Nat := none
  lastRead : Option Nat := none
  strides : List Int := []
  trained : Option Int := none
  /-- prefetches issued ahead of the latest demand read -/
  ahead : Nat := 0
  deriving DecidableEq, Repr

/-- The request path of a tile (04). -/
structure PathTile where
  merge : List Merge := []
  mergeFull : Bool := false
  streams : List Stream := []
  /-- stamps received from each other tile (04 R132) -/
  stamps : Store Nat := []
  /-- lines in recovery: the reads whose refetches failed (07 R192) -/
  recov : List RqEnt := []
  /-- sets of the home TLB: pages, most recently used first -/
  tlb : Store (List Nat) := []
  deriving DecidableEq, Repr

/-- A store or atomic placed and not yet acknowledged (04 R131; 10 R304). -/
structure Unack where
  req : Req
  owner : Nat
  seq : Nat
  result : Line := 0
  /-- what its line held before it was placed, with its poison; none where it went to the twin alone -/
  before : Option (Line × Bool) := none
  /-- its bytes that a later store, acknowledged already, has written since -/
  kept : Mask := 0
  deriving DecidableEq, Repr

/-- A part of a request of several lines that is still to be answered (03 R85). -/
structure Group where
  tile : Nat
  link : Nat
  tag : Nat
  left : Nat
  bad : Bool := false
  deriving DecidableEq, Repr


/-- What a copy of the parameter store holds beside what stands elsewhere in this state (17 R501): parameters, locks, and
the definitions of open sessions with their bindings. -/
structure PStore where
  params : Store Word := []
  locks : List Nat := []
  sessions : Store Sess := []
  binds : List Bind := []
  deriving DecidableEq, Repr

/-- Firmware slots, transfer and parameter store (17 R493 to R505). -/
structure FwS where
  slotA : SlotS := {}
  slotB : SlotS := {}
  mark : Nat := 0
  /-- the context of the transfer in progress -/
  xfer : Option Nat := none
  socAt : Option Nat := none
  /-- the parameter store in use, as last committed, its GEN and copy -/
  stored : PStore := {}
  gen : Nat := 0
  copy : Nat := 0
  preserve : Bool := false
  deltas : Nat := 0
  /-- the other copy, kept while PRESERVE is set -/
  kept : PStore := {}
  /-- the number of floor entries appended -/
  floors : Nat := 0
  /-- the floor log of each copy, its entries of two words in order, and the copy that takes the next (R501) -/
  floorLog : Store (List (Word × Word)) := []
  floorCopy : Nat := 0
  /-- the certificate slots that are provisioned (03 R90) -/
  certs : Store (List Word) := []
  /-- the locks in force (12 R398) -/
  locks : List Nat := []
  deriving DecidableEq, Repr

/-- The power state of a channel (05 Table 5-8); ranks in power-down are listed beside it. -/
inductive ChPower where
  | off | active | selfRefresh
  deriving DecidableEq, Repr

/-- Why a training runs: step 8 of a start, the full-speed step, a unit reset, or RETRAIN of `dram.fc_ctl`. -/
inductive TrainFor where
  | start | fullSpeed | unitReset | retrain
  deriving DecidableEq, Repr

/-- A training in progress (06 R167). -/
structure Train where
  bankH : Bool
  step : Nat := 1
  failed : Bool := false
  why : TrainFor
  rate : Nat
  /-- the last step has passed its check -/
  passed : Bool := false
  deriving DecidableEq, Repr

/-- A frequency change in progress (06 R172). -/
structure FreqChange where
  toH : Bool
  since : Nat
  fullSpeed : Bool := false
  deriving DecidableEq, Repr

/-- An open row of a bank (05 R152). -/
structure OpenRow where
  isOpen : Bool := false
  row : Nat := 0
  last : Nat := 0
  hits : Nat := 0
  deriving DecidableEq, Repr

/-- The refresh account of a logical rank (05 R158): intervals postponed, and pulled in. -/
structure RefRank where
  since : Nat := 0
  postponed : Nat := 0
  pulled : Nat := 0
  /-- the bank of each group that REFsb takes next -/
  bank : Nat := 0
  deriving DecidableEq, Repr

/-- The write-drain state of a sub-channel (05 R153): whether it was entered with a full queue, and the writes issued since it began or
last resumed. -/
structure WrDrain where
  on : Bool := false
  full : Bool := false
  burst : Nat := 0
  /-- an urgent read has paused it -/
  paused : Bool := false
  deriving DecidableEq, Repr

/-- A timing bank (06 R165): the counts of Table 5-4 for its rate; and, as the numbers of the free values that stand for them, the write DQ
delays, the other PHY settings, the DQS oscillator baselines, the mode-register images, the control words of the clock driver and of the data
buffers, and the PLL settings. -/
structure Bank where
  counts : List Nat := []
  wdq : Nat := 0
  phy : Nat := 0
  base : Nat := 0
  mr : Nat := 0
  rcd : Nat := 0
  buf : Nat := 0
  pll : Nat := 0
  deriving DecidableEq, Repr

/-- A DRAM channel: timing banks, training, power, rows and row-hammer tables (05, 06). -/
structure Chan where
  validL : Bool := false
  validH : Bool := false
  inUseH : Bool := false
  rateH : Nat := 0
  ttempL : Nat := 0
  ttempH : Nat := 0
  stampL : Nat := 0
  stampH : Nat := 0
  /-- times at which the banks were trained, for `dram.rt_age` -/
  ageL : Nat := 0
  ageH : Nat := 0
  bankL : Bank := {}
  bankH : Bank := {}
  /-- the timing parameters of its DIMMs by rate, the largest where they differ; and a DIMM that supports PRAC is fitted -/
  spd : List (Nat × List Nat) := []
  pracDimm : Bool := false
  phase : Nat := 0
  fallbacks : Nat := 0
  rtPend : Bool := false
  /-- a drift found in phase 8 of a frequency change has set the retraining condition (06 R172) -/
  rtDrift : Bool := false
  /-- hottest reading in 0.25 °C, and the hot state -/
  temp : Nat := 0
  hot : Bool := false
  tempAt : Nat := 0
  power : ChPower := .off
  powerDown : List Nat := []
  idleSince : Nat := 0
  /-- the last command of each rank -/
  idleAt : Store Nat := []
  train : Option Train := none
  fc : Option FreqChange := none
  /-- a retraining slice: its start; the step it runs; failures of step 10 in a row; the last slice's start -/
  slice : Option Nat := none
  sliceStep : Nat := 6
  sliceFails : Nat := 0
  sliceLast : Nat := 0
  /-- it has left self-refresh in MAIN (05 Table 5-8) -/
  mainUse : Bool := false
  rows : Store OpenRow := []
  acts : Store (List (Nat × Nat)) := []
  actsSince : Nat := 0
  /-- neighbour refreshes due: bank and row -/
  nbr : List (Nat × Nat) := []
  refresh : Store RefRank := []
  oscAt : Store Nat := []
  zqAt : Store Nat := []
  prac : Bool := false
  /-- write-drain state of sub-channels A and B -/
  drainA : WrDrain := {}
  drainB : WrDrain := {}
  deriving DecidableEq, Repr

/-- What the controllers of a tile share: what step 8 found, the queue of `dram.fc_ctl`, the home table's length. -/
structure DramTile where
  geom : Word := 0
  /-- the highest rate that the SPD of its DIMMs states -/
  spdRate : Nat := 0
  fcQueue : List Nat := []
  fcToH : Bool := false
  fcAt : Nat := 0
  trainQueue : List Nat := []
  htLen : Nat := 0
  deriving DecidableEq, Repr

/-- A record of the flash store (09 R259, Table 9-5): header and payload. `blk` is the Thatch block that holds it
(8192 · set + block index) and `slot` its record slot. The payload is held in plaintext, with the key slot under
which flash holds it. -/
structure TRec where
  kind : Nat := 1
  ht : Bool := false
  lpage : Nat
  tm : Nat
  poison : BitVec 64 := 0
  epoch : Nat := 0
  key : Nat := 4
  copyTm : Nat := 0
  blk : Nat := 0
  slot : Nat := 0
  lines : List Line := []
  deriving DecidableEq, Repr

/-- The use of a Thatch block (09 R258). -/
inductive BUse where
  | free | log | data | system | released
  deriving DecidableEq, Repr

/-- A Thatch block (09 R257, R265, R266): use, open or closed, rows programmed, whether its parity is still held,
marks for relocation or refresh. -/
structure Blk where
  use : BUse := .free
  isOpen : Bool := false
  rows : Nat := 0
  parity : Bool := false
  verified : Bool := false
  marked : Bool := false
  progTm : Nat := 0
  /-- the temperature of each member when it was programmed -/
  temps : List Nat := []
  /-- the members that it uses, bit by bit: those that were not fenced when it was opened (R287, R288) -/
  members : Nat := 0xFFFF
  reads : Nat := 0
  /-- time of the last background scrub sample -/
  scrubAt : Nat := 0
  deriving DecidableEq, Repr

/-- A physical block of a die (09 R280, R281): erase count of its last seal; whether it awaits an erase and a new seal;
erase-intent entry; erase in progress and suspended. -/
structure Phys where
  count : Nat := 0
  unsealed : Bool := false
  intent : Bool := false
  erasing : Bool := false
  suspended : Bool := false
  retired : Bool := false
  sealTm : Nat := 0
  deriving DecidableEq, Repr

/-- A row of a log block that is filling or being programmed (09 R267). -/
structure Row where
  blk : Nat
  recs : List TRec := []
  /-- time at which its oldest record entered, and whether it is complete -/
  since : Nat := 0
  full : Bool := false
  deriving DecidableEq, Repr

/-- A segment merge (09 R272, R274). -/
structure SegMerge where
  seg : Nat
  target : Nat
  stamp : Nat
  fails : Nat := 0
  /-- left unmerged since, after three failed targets -/
  parked : Option Nat := none
  /-- pages whose record was unreadable: their slots take records of KIND 0x6 (R278) -/
  missing : List Nat := []
  deriving DecidableEq, Repr

/-- The flash store of one tile (09). `recs` are the records in flash, programmed and verified. -/
structure ThTile where
  /-- 0 not read, 1 accepted, 2 rule broken; rate, word lines, block indices, LUNs and targets (Table 9-2) -/
  state : Nat := 0
  rate : Nat := 0
  /-- the rate of each channel -/
  rates : List Nat := []
  /-- Tidemark of the mount: blocks programmed before it were so before this start (R276) -/
  mountTm : Nat := 0
  wls : Nat := 0
  blocks : Nat := 0
  luns : Nat := 0
  tgts : Nat := 0
  recs : List TRec := []
  blks : Store Blk := []
  phys : Store Phys := []
  /-- the open drain block and the relocation block -/
  drainBlk : Option Nat := none
  relocBlk : Option Nat := none
  rowsOpen : List Row := []
  /-- segment number to data block + 1 -/
  segData : Store Nat := []
  merges : List SegMerge := []
  mergeQ : List Nat := []
  /-- flash-only log index: logical pages -/
  foIndex : List Nat := []
  backlog : List Nat := []
  /-- the journal names a merge whose switch is not written; the mount erases its target -/
  journal : List (Nat × Nat) := []
  /-- times of unreadable records and of retired blocks, by target 8·channel + target -/
  ueAt : Store (List Nat) := []
  retiredAt : Store (List Nat) := []
  /-- a program or erase that a target has been asked for, with its limit -/
  busyAt : Store (Nat × Nat) := []
  /-- mean pSLC program time of this second, µs, and the number of programs -/
  progSum : Nat := 0
  progN : Nat := 0
  /-- pages of the Thatch blocks that data blocks may take, at the mount (11 R339) -/
  foPages : Nat := 0
  /-- save records appended, newest last (16 words each); the confirmed checkpoint last written -/
  ckptTm : Nat := 0
  ckptSeq : Nat := 0
  deriving DecidableEq, Repr

/-- A mirror frame (10 R299, Tables 10-3 and 10-4): sequence, epoch, Tidemark, session, tile offset of the line or page,
kind, byte mask, line or operand block, page lines with their poison bits. -/
structure Frame where
  seq : Nat
  epoch : Nat
  tm : Nat
  sess : Nat
  off : Nat
  fk : Nat
  mask : Mask := 0
  data : Line := 0
  page : List Line := []
  poison : BitVec 64 := 0
  deriving DecidableEq, Repr

/-- A taken window slot (10 R304 to R307): its frame, when it was last sent (none: waits to be sent), whether its
receipt has arrived with status OK, whether its store is still to be acknowledged. -/
structure Slot where
  frame : Frame
  sent : Option Nat := none
  ok : Bool := false
  resync : Bool := false
  deriving DecidableEq, Repr

/-- A message in reassembly (10 R308, R309). -/
structure Reasm where
  chan : Nat
  msgid : Nat
  last : Nat
  parts : Store (List Byte) := []
  since : Nat
  nakAt : Nat
  deriving DecidableEq, Repr

/-- A message sent whose packets may be asked for again (10 R309): its channel and MSGID, the index of its last packet, and the frames of a
data message. -/
structure OutMsg where
  chan : Nat
  msgid : Nat
  last : Nat
  seq0 : Nat := 0
  frames : Nat := 0
  naks : Nat := 0
  sentAt : Nat
  /-- the path that carried the even-numbered packets -/
  onPath : Nat := 0
  deriving DecidableEq, Repr

/-- Why lines are fetched from the twin. -/
inductive LrqFor where
  /-- a host read of a fenced line, a recovery on the standby, a drain, an atomic mismatch, a reload, a flash page -/
  | read | recovery | drain (page : Nat) | mismatch | reload | flashPage (lpage : Nat)
  deriving DecidableEq, Repr

/-- An outstanding line resync request (10 R312). -/
structure Lrq where
  off : Nat
  count : Nat
  seqR : Nat
  why : LrqFor
  urgency : Nat := 0
  sentAt : Nat
  deriving DecidableEq, Repr

/-- A line resync request of the twin that waits for APPLIED, and an answer that waits to be stored. -/
structure LrsWait where
  off : Nat
  seq0 : Nat
  lines : List (Bool × Line)
  deriving DecidableEq, Repr

/-- A checkpoint of the active unit: sequence, Tidemark, digest (10 R314). -/
structure Ckpt where
  seq : Nat := 0
  tm : Nat := 0
  digest : Word := 0
  deriving DecidableEq, Repr

/-- A resync of a tile (10 R325 to R328): 1 configuration step, 2 incremental, 3 full; pages still to be sent; the
standby's part of the set. -/
structure Resync where
  kind : Nat
  full : Bool
  point : Nat
  started : Bool := false
  todo : List Nat := []
  left : Nat := 0
  /-- pages of the set; and the first checkpoint after the last page has matched -/
  total : Nat := 0
  confirmed : Bool := false
  /-- the last frame that the checkpoint must reach; when the next page frame may go, by `mirr.resync_rate` -/
  lastSeq : Nat := 0
  nextAt : Nat := 0
  deriving DecidableEq, Repr

/-- The twin link and mirror state of one tile (10). -/
structure MirTile where
  /-- trained flags, rate, flight in ns, time of the last message on each path, envelope failures of this second -/
  up0 : Bool := false
  up1 : Bool := false
  /-- `ciph.twin_gcm` as the last link training took it (14 R436) -/
  gcm : Bool := false
  rate : Nat := 0
  flight : Nat := 0
  last0 : Nat := 0
  last1 : Nat := 0
  errs : List (Nat × Nat) := []
  /-- active: next sequence number, taken slots in order, digest register -/
  seq : Nat := 1
  slots : List Slot := []
  digest : Word := BitVec.allOnes 64
  /-- Tidemark of the last frame assigned -/
  lastTm : Nat := 0
  /-- the epoch of the digest register; the frame at which a resync sets it -/
  dEpoch : Nat := 0
  digestFrom : Option Nat := none
  /-- the next MSGID of each channel; the messages sent -/
  msgids : Store Nat := []
  outMsgs : List OutMsg := []
  ckptSent : Option Ckpt := none
  ckptAt : Nat := 0
  /-- standby: receive store in sequence order, APPLIED, highest received, generation + 1 stored per slot -/
  store : List Frame := []
  applied : Nat := 0
  received : Nat := 0
  gens : Store Nat := []
  ckptWait : Option Ckpt := none
  reasm : List Reasm := []
  /-- completed data messages not yet taken -/
  inbox : List (List Byte) := []
  lrqs : List Lrq := []
  lrqWait : List (Nat × Nat × Nat) := []
  lrsWait : List LrsWait := []
  /-- last confirmed checkpoint (retention store) -/
  ckpt : Option Ckpt := none
  synced : Bool := false
  resync : Option Resync := none
  /-- the standby's part of the resync set -/
  rset : List Nat := []
  deriving DecidableEq, Repr

/-- What a unit has under way for the lease (10 R318 to R330). -/
inductive LeaseWish where
  | idle | bootAuth | failover | bump | handoverTo | handoverFrom
  deriving DecidableEq, Repr

/-- The lease and the role of the unit (10 R293, R316 to R331). -/
structure LeaseS where
  epoch : Nat := 0
  /-- `mirr.pair_id` as it stood at the last cold start or tide: a change to or from 0 waits for a cold start (R294) -/
  pairIn : Nat := 0
  held : Bool := false
  /-- deadline E and the length granted -/
  deadline : Nat := 0
  /-- requests: the number last used, that of the last request, when it was sent, whether its answer is open, its type -/
  numbers : Nat := 0
  reqno : Nat := 0
  sentAt : Nat := 0
  waiting : Bool := false
  kind : Nat := 0
  /-- REQ carries FORCE -/
  force : Bool := false
  wish : LeaseWish := .idle
  denyUntil : Option Nat := none
  lastType : Nat := 0
  lastWit : Option Nat := none
  renewAt : Nat := 0
  /-- requests in a row that went unanswered -/
  tries : Nat := 0
  /-- E has passed: ingress is stopped; the time until which reads are answered -/
  expired : Bool := false
  readsUntil : Option Nat := none
  /-- requests stopped by a status EPOCH, by a handover, by leaving service -/
  stopped : Bool := false
  /-- ROLE (lease lost) received from the twin; twin lost -/
  twinLeaseLost : Bool := false
  twinLost : Bool := false
  /-- handover: instant, RELEASE sent -/
  handoverAt : Option Nat := none
  released : Bool := false
  handoverDone : Bool := false
  mrole : Bool := false
  /-- failback: every tile synced, checkpoints matching and no resync since -/
  fbSince : Option Nat := none
  /-- GRANT received; the tide into ACTV waits for the receive stores -/
  takeOver : Bool := false
  /-- the twin is known to be in MIRS -/
  twinMirs : Bool := false
  /-- fences of the twin that FENCE messages have named: class, instance, cause -/
  twinFences : List (Nat × Nat × Nat) := []
  deriving DecidableEq, Repr

/-- What a witness keeps for a pair (10 R317). `held` is the holder: a port number. -/
structure Witness where
  epoch : Nat := 0
  holder : Option Nat := none
  len : Nat := 0
  timer : Nat := 0
  /-- the reports received: port, cause and what they concern -/
  reports : List (Nat × Nat × Nat) := []
  deriving DecidableEq, Repr

/-- The owner of a frame (11 Table 11-1); `since` the time at which the state waited for began. -/
structure Owner where
  sess : Nat := 0
  lpage : Nat := 0
  htPend : Bool := false
  pendRel : Bool := false
  ref : Bool := false
  /-- the sweep has cleared REF of the page since it arrived (11 R340) -/
  swept : Bool := false
  valid : Bool := false
  /-- Tidemark of the arrival or of the change of the vacated entry, and the home-table page that records it -/
  since : Nat := 0
  htPage : Nat := 0
  deriving DecidableEq, Repr

/-- A move of a page between homes (11 R335): target 0 unmapped (none), 1 local, 2 neighbour, 3 flash only. -/
structure Move where
  lpage : Nat
  sess : Nat
  dest : Nat
  /-- an access waits on it -/
  demand : Bool := false
  loan : Nat := 0
  movp : Bool := false
  /-- an empty frame removed by a staged `tier.pool_base` -/
  empty : Bool := false
  deriving DecidableEq, Repr

/-- The state of a loan (11 Table 11-4): 0 idle, 1 opening, 2 active, 3 lost, 4 recalling, 5 ended. -/
structure Loan where
  state : Nat := 0
  since : Nat := 0
  openAt : Nat := 0
  recallEnd : Nat := 0
  returned : Bool := false
  deriving DecidableEq, Repr

/-- A unit request of the neighbour mover that has no completion yet (11 R345). -/
structure UnitReq where
  id : Nat
  loan : Nat
  lpage : Nat
  line : Nat
  write : Bool
  at_ : Nat
  /-- one tag failure seen; counted as a stall -/
  retried : Bool := false
  late : Bool := false
  deriving DecidableEq, Repr

/-- A requester of the Batten bus (11 R356 to R358). -/
structure Batt where
  req : Bool := false
  urgency : Nat := 0
  beats : Nat := 0
  tag : Nat := 0
  wait : Nat := 0
  valid : Bool := false
  forced : Bool := false
  done : Nat := 0
  /-- the lines in DRAM of the transfer -/
  dfa : Option Nat := none
  deriving DecidableEq, Repr

/-- The tier and neighbour movers and the Batten bus of one tile (11). -/
structure TierTile where
  /-- frame owners: local frames by DFA page, lender frames by 2³⁰·(loan + 1) + frame -/
  owners : Store Owner := []
  moves : List Move := []
  loans : Store Loan := []
  units : List UnitReq := []
  unitNo : Nat := 0
  /-- pages received for a neighbour move: page, line, data -/
  unitData : List (Nat × Nat × Line) := []
  /-- of these, page and line of those that a queue word has lost (07 Table 7-6) -/
  badData : List (Nat × Nat) := []
  batt : Store Batt := []
  owner : Option Nat := none
  ownerForced : Bool := false
  /-- a command item has won the arbitration and takes the next beat -/
  item : Bool := false
  sweep : Nat := 0
  /-- when the data of the next page may go to or come from a lender, by `tier.nb_rate` (R345) -/
  nbNext : Nat := 0
  deriving DecidableEq, Repr

/-- A key slot of a tile (14 Tables 14-4 to 14-6). `key` is never returned by any command. -/
structure KeySlot where
  usage : Nat := 0
  key : BitVec 256 := 0
  sealOk : Bool := false
  isSealed : Bool := false
  isScoped : Bool := false
  sess : Nat := 0
  gen : Nat := 0
  installs : Nat := 0
  /-- encryptions under a GCM key -/
  encs : Nat := 0
  /-- the wrapped blob of a session-scoped key -/
  blob : List Word := []
  deriving DecidableEq, Repr

/-- The TAP and scan hold (19 R538 to R543): the instruction in effect, the data register that Capture-DR loaded, the
update stage of the boundary register, and the state of scan hold. -/
structure TapS where
  instr : Nat := 1
  /-- what the last Capture-IR loaded -/
  ir : Nat := 5
  dr : Nat := 0
  update : Nat := 0
  /-- what the lands read, as the boundary register captures them -/
  lands : Nat := 0
  scanHold : Bool := false
  since : Nat := 0
  handed : Bool := false
  deriving DecidableEq, Repr

/-- Management: the dynamic address of the I3C target, events that the BMC has not read, submissions that wait for
room, and the BIST endpoints that run and the results, keyed 256·tile + endpoint (18 R515 to R522). -/
structure MgmtS where
  address : Option Nat := none
  /-- EVENT messages that the BMC has not read, oldest first -/
  events : List (List Word) := []
  /-- the violation records that the fabric manager has not read, oldest first, as the words of Table 3-8 (03 R96) -/
  viols : List (List Word) := []
  waiting : List Sub := []
  bistRun : List Nat := []
  bist : Store Word := []
  /-- results that the mailbox of context 0x103F holds for the BMC -/
  results : List (List Word) := []
  deriving DecidableEq, Repr

/-- What the device sends: responses, interrupts and messages. -/
inductive Output where
  /-- the answer to a request: its tag, the port it came by, a code (Table 3-6 statuses), data and poison -/
  | response (tile link tag code : Nat) (data : Line) (poison : Bool)
  /-- an MSI-X vector of a logical device -/
  | msix (tile ld vector : Nat)
  /-- an MCTP message: type or vendor code, and its content in words -/
  | mctp (code : Nat) (content : List Word)
  /-- a CXL event record on a logical device: kind of record and its object -/
  | event (tile ld kind : Nat) (args : List Nat)
  /-- an Isahar message of a tile to its twin, on the link of the tile that carries it: type, MSGID and payload with its digest -/
  | isahar (link tile type msgid : Nat) (payload : List Byte)
  /-- the packets of a message that go again under its MSGID, as a mask of their indices -/
  | isaharAgain (link tile chan msgid mask : Nat)
  /-- a message to the witness: TYPE, FORCE, EPOCH, REQNO, VALUE, ARG -/
  | witness (type : Nat) (force : Bool) (epoch reqno value arg : Nat)
  /-- an answer of a unit in witness service to the unit on a port: pair ID, TYPE, EPOCH, REQNO, VALUE -/
  | witnessAns (pair port type epoch reqno value : Nat)
  /-- the configuration step of a resync, from a tile to its twin -/
  | config (tile : Nat) (c : TwinConfig)
  /-- a TIDE or a ROLE message to the twin -/
  | tide (name : Nat) (m : TideMsg)
  | role (m : RoleMsg)
  /-- a message to a neighbour device: code and content -/
  | peer (code : Nat) (content : List Nat)
  /-- a response in the CXL mailbox of a logical device: opcode, return code and payload words -/
  | mailbox (tile ld opcode code : Nat) (payload : List Word)
  deriving DecidableEq, Repr

/-- Why the machine stops with a fault. No command of this model raises one: every row of the table has an
effect, so the constructor only keeps the type inhabited (safe: nothing can be proved from it). -/
inductive Fault where
  | none
  deriving DecidableEq, Repr

/-- Why a command has no meaning. `notModelled` is raised by an arm of `exec` whose meaning is not written yet
(safe: the machine stops there). -/
inductive Refusal where
  | notModelled (mnemonic : String)
  deriving DecidableEq, Repr

/-- The state of the machine. -/
structure State where
  /-- the commands that wait, first in, first out (the model's own field) -/
  pending : List Instr := []
  /-- how many free values have been used (the model's own field) -/
  free : Nat := 0
  /-- what the device has sent, newest first (the model's own field) -/
  out : List Output := []
  /-- elapsed time in ticks of 250 ps (the model's own field) -/
  clock : Nat := 0
  part : Part := .t8a
  time : TimeS := {}
  mode : ModeS := {}
  boot : BootS := {}
  pwr : PwrS := {}
  recd : RecS := {}
  pmc : PmcS := {}
  /-- parameter values that differ from their reset values; key is ID + 2²⁴ · session -/
  params : Store Word := []
  /-- DRAM, one cell per byte that differs from what an unwritten byte reads as; key tile · 2⁴² + DFA -/
  dram : List Host.Cell := []
  set : SetS := {}
  tides : List Tide := []
  /-- on a standby, the tides of the twin in which its tiles take part (10 R295) -/
  twinTides : List Tide := []
  tideCount : Nat := 0
  ctxs : Store Ctx := []
  fences : FenceS := {}
  tide : Store TideTile := []
  save : SaveS := {}
  fuse : FuseS := {}
  fw : FwS := {}
  ich : Store IntCh := []
  itile : Store IntTile := []
  /-- host links, keyed 4·tile + link; logical devices, keyed 16·tile + ld; sessions -/
  links : Store Link := []
  bars : Store Bar := []
  sessions : Store Sess := []
  binds : List Bind := []
  /-- home tables, keyed tile · 2³¹ + page of tile offset (01 Table 1-5) -/
  home : Store Word := []
  /-- Eaves lines, keyed (tile · 2¹⁷ + set) · 16 + way, and the pseudo-LRU trees of the sets -/
  eaves : Store EvLine := []
  plru : Store Nat := []
  paths : Store PathTile := []
  /-- write and read queues per sub-channel, keyed 8·tile + 2·channel + sub-channel, oldest first -/
  wq : Store (List WqEnt) := []
  rq : Store (List RqEnt) := []
  waits : List Wait := []
  unacked : List Unack := []
  groups : List Group := []
  /-- DRAM channels, keyed 4·tile + channel, and what a tile's controllers share -/
  chans : Store Chan := []
  dtiles : Store DramTile := []
  /-- lines of DRAM held as poisoned, keyed (tile · 2⁴² + DFA) / 64 -/
  poisoned : List Nat := []
  /-- flash stores; twin links; the lease; the pairs that this unit serves as a witness, by pair ID -/
  thatch : Store ThTile := []
  mirr : Store MirTile := []
  lease : LeaseS := {}
  wit : Store Witness := []
  tiers : Store TierTile := []
  /-- key slots, keyed 8192·tile + slot; sealed records (nonvolatile); nonce counters, keyed 4·tile + source -/
  keys : Store KeySlot := []
  sealedKeys : Store KeySlot := []
  nonces : Store Nat := []
  /-- the even slot of the image key pair in use on a tile, less 4 (14 R435) -/
  imgKey : Store Nat := []
  /-- the program store, keyed 4,096·level + PC; every tile holds the same (12 R366) -/
  progs : Store Word := []
  tap : TapS := {}
  mgmt : MgmtS := {}
  deriving DecidableEq, Repr

/-- The machine right after VDD_AON has reached its limits: STBY, every rail off, nothing read from the parameter
store, memory with nothing listed (02 Table 2-5; 12 R365; 15 R450). -/
def State.reset : State := {}

end Sys2Proof.Machine
end

