-- ==== Sys2Proof/Machine/Params.lean ====
section
/-! DEFINITION. The parameter map: which parameter an ID names, its fields with their access codes, reset values and
ranges (00 Table 0-5; 18 R506 to R513; the parameter tables of the chapters), and the raw reads and writes of the
values held. Quantities stand in their encoding unit (18 R545). -/

namespace Sys2Proof.Machine

/-- The access codes of 00 Table 0-5, STG apart. -/
inductive Acc where
  | rw | ro | wo | w1c | rc | st
  deriving DecidableEq, Repr

/-- A field of a parameter: bits, access, whether it is STG, reset value and range; `also` lists values allowed
beside the range, `step` the unit of which a value must be a multiple. -/
structure PField where
  hi : Nat
  lo : Nat
  acc : Acc
  stg : Bool := false
  reset : Nat := 0
  least : Nat := 0
  most : Nat := 0xFFFF_FFFF_FFFF_FFFF
  also : List Nat := []
  step : Nat := 1
  deriving DecidableEq, Repr

/-- Which instances of a block hold a parameter (18 R507). -/
inductive Insts where
  /-- one per tile, instance t -/
  | tile
  /-- the device instance 1023 -/
  | dev
  /-- the instances from the first, as many as the second says -/
  | span (base n : Nat)
  /-- 64·t + u for u in the range -/
  | unit (lo hi : Nat)
  /-- base + t -/
  | tileAt (base : Nat)
  deriving DecidableEq, Repr

/-- A parameter: block code, instances, first index, number of indices, fields. -/
structure PSpec where
  block : Nat
  inst : Insts
  base : Nat
  count : Nat
  fields : List PField
  deriving DecidableEq, Repr

/-- A field over the low bits that is RW and not STG. -/
def pRW (reset least most : Nat) : List PField := [{ hi := 63, lo := 0, acc := .rw, reset, least, most }]
/-- A field over the low bits that is RW and STG. -/
def pSTG (reset least most : Nat) : List PField :=
  [{ hi := 63, lo := 0, acc := .rw, stg := true, reset, least, most }]
/-- A read-only word. -/
def pRO (reset : Nat) : List PField := [{ hi := 63, lo := 0, acc := .ro, reset }]
/-- A count that a read clears. -/
def pRC : List PField := [{ hi := 31, lo := 0, acc := .rc }]

/-- Block codes (18 Table 18-1). -/
abbrev bSys := 0x01
abbrev bClk := 0x02
abbrev bPort := 0x03
abbrev bSess := 0x04
abbrev bEaves := 0x05
abbrev bDram := 0x06
abbrev bPhy := 0x07
abbrev bEcc := 0x08
abbrev bTide := 0x09
abbrev bThatch := 0x0A
abbrev bNand := 0x0B
abbrev bMirr := 0x0C
abbrev bTier := 0x0D
abbrev bBatt := 0x0E
abbrev bSeq := 0x0F
abbrev bCiph := 0x10
abbrev bPwr := 0x11
abbrev bRec := 0x12
abbrev bPmc := 0x13
abbrev bFuse := 0x14
abbrev bFw := 0x15
abbrev bD2d := 0x16
abbrev bTime := 0x17
abbrev bScan := 0x18

/-- The parameters of sys (02 Tables 2-2, 2-3, 2-8; 18 Tables 18-4, 18-5). -/
def specSys : List PSpec := [
  ⟨bSys, .dev, 0x00, 1, pRO 0⟩, ⟨bSys, .dev, 0x01, 1, pRO 0⟩,
  ⟨bSys, .dev, 0x02, 1, [{ hi := 3, lo := 0, acc := .rw, stg := true, reset := 0xF, most := 7, also := [0xF] }]⟩,
  ⟨bSys, .dev, 0x03, 1, pRO 0⟩,
  ⟨bSys, .dev, 0x04, 1, [{ hi := 3, lo := 0, acc := .wo, least := 1, most := 2 }, { hi := 10, lo := 8, acc := .wo }]⟩,
  ⟨bSys, .dev, 0x05, 1, [{ hi := 63, lo := 0, acc := .wo, least := 1, most := 1 }]⟩,
  ⟨bSys, .dev, 0x06, 1, pRW 30 1 600⟩, ⟨bSys, .dev, 0x07, 1, pSTG 1 0 1⟩, ⟨bSys, .dev, 0x08, 1, pRO 0⟩,
  ⟨bSys, .tile, 0x00, 8, pRO 0⟩]

/-- The parameters of port and sess (03 Tables 3-14; 04 Table 4-10; 11; 14; 18 Table 18-2). (DESIGN CHOICE, log 30.) -/
def specPort : List PSpec := [
  ⟨bPort, .tile, 0x00, 1, pRW 0 0 2⟩, ⟨bPort, .tile, 0x01, 1, pRW 10 1 600⟩, ⟨bPort, .tile, 0x02, 1, pRW 10 1 1000⟩,
  ⟨bPort, .tile, 0x04, 4, pRW 3 0 3⟩, ⟨bPort, .tile, 0x08, 4, pRO 0⟩,
  ⟨bPort, .tile, 0x10, 1, [{ hi := 3, lo := 0, acc := .rw, stg := true, reset := 0, most := 3, also := [0xF] }]⟩,
  ⟨bPort, .tile, 0x11, 15, [{ hi := 3, lo := 0, acc := .rw, stg := true, reset := 0xF, most := 3, also := [0xF] }]⟩,
  ⟨bPort, .tile, 0x20, 16, [{ hi := 63, lo := 0, acc := .rw, stg := true, reset := 0xFFFF_FFFF_FFFF_FFFF, most := 0xFFF, also := [0xFFFF_FFFF_FFFF_FFFF] }]⟩,
  ⟨bPort, .tile, 0x30, 16, pRW 0 0 1⟩, ⟨bPort, .tile, 0x40, 16, pSTG 200 50 10000⟩,
  ⟨bPort, .dev, 0x00, 1, pSTG 0 0 0x70F⟩,
  ⟨bPort, .dev, 0x01, 1, [{ hi := 63, lo := 0, acc := .rw, stg := true, reset := 0xFFFF_FFFF_FFFF_FFFF, most := 0xFFF, also := [0xFFFF_FFFF_FFFF_FFFF] }]⟩,
  ⟨bSess, .tile, 0x05, 3, pRC⟩, ⟨bSess, .tile, 0x08, 2, pRO 0⟩, ⟨bSess, .tile, 0x10, 16, pRO 0⟩,
  ⟨bSess, .tile, 0x40, 64, [{ hi := 15, lo := 15, acc := .rw, stg := true }, { hi := 12, lo := 0, acc := .rw, stg := true }]⟩,
  ⟨bSess, .dev, 0x00, 1, [{ hi := 63, lo := 0, acc := .rw, stg := true, reset := 0xFFFF_FFFF_FFFF_FFFF, most := 0x3FFF_FFFF_FFFF, also := [0xFFFF_FFFF_FFFF_FFFF] }]⟩,
  ⟨bSess, .dev, 0x01, 1, pRW 2 0 7⟩, ⟨bSess, .dev, 0x02, 1, [{ hi := 31, lo := 0, acc := .w1c }]⟩,
  ⟨bSess, .dev, 0x03, 1, [{ hi := 31, lo := 16, acc := .rw, stg := true, least := 50, most := 10000, also := [0] },
    { hi := 1, lo := 0, acc := .rw, stg := true, most := 3 }]⟩,
  ⟨bSess, .dev, 0x04, 1, pSTG 1500 200 1800⟩]

/-- The parameters of eaves, dram and phy (04 to 06; 18 Table 18-3). -/
def specDram : List PSpec := [
  ⟨bEaves, .tile, 0x00, 1, pSTG 64 16 1024⟩, ⟨bEaves, .tile, 0x01, 1, pSTG 8 0 8⟩, ⟨bEaves, .tile, 0x02, 1, pSTG 200 50 1000⟩,
  ⟨bEaves, .tile, 0x03, 1, pSTG 0 0 1⟩, ⟨bEaves, .tile, 0x10, 16, pRO 0⟩,
  ⟨bDram, .tile, 0x00, 1, pRW 128 48 128⟩, ⟨bDram, .tile, 0x01, 1, pRO 0⟩, ⟨bDram, .tile, 0x02, 1, pSTG 16 4 32⟩,
  ⟨bDram, .tile, 0x03, 1, pSTG 32 4 1024⟩, ⟨bDram, .tile, 0x04, 1, pSTG 16 4 64⟩, ⟨bDram, .tile, 0x05, 1, pSTG 48 16 60⟩,
  ⟨bDram, .tile, 0x06, 1, pSTG 16 0 52⟩, ⟨bDram, .tile, 0x07, 1, pSTG 8 1 32⟩, ⟨bDram, .tile, 0x08, 1, pSTG 1 0 1⟩,
  ⟨bDram, .tile, 0x09, 1, pSTG 512 64 4095⟩, ⟨bDram, .tile, 0x0A, 1, pSTG 1 0 1⟩,
  ⟨bDram, .tile, 0x0B, 1, [{ hi := 63, lo := 0, acc := .rw, stg := true, least := 16, most := 65535, also := [0] }]⟩,
  ⟨bDram, .tile, 0x0C, 1, pSTG 0 0 1⟩,
  ⟨bDram, .tile, 0x0D, 1, [{ hi := 23, lo := 16, acc := .rw, reset := 20, most := 255 },
    { hi := 11, lo := 8, acc := .rw, stg := true, reset := 0xF, most := 15 },
    { hi := 1, lo := 1, acc := .wo, stg := true, most := 1 }, { hi := 0, lo := 0, acc := .rw, stg := true, most := 1 }]⟩,
  ⟨bDram, .tile, 0x0E, 1, pSTG 32 8 1024⟩, ⟨bDram, .tile, 0x0F, 1, pSTG 4 1 20⟩, ⟨bDram, .tile, 0x10, 1, pSTG 128 32 1024⟩,
  ⟨bDram, .tile, 0x11, 1, pSTG 10 4 40⟩, ⟨bDram, .tile, 0x12, 1, pSTG 168 1 8760⟩, ⟨bDram, .tile, 0x13, 1, pSTG 20 5 200⟩,
  ⟨bDram, .tile, 0x14, 1, pSTG 1000 100 100000⟩, ⟨bDram, .tile, 0x20, 12, pRO 0⟩,
  ⟨bPhy, .unit 0 7, 0x00, 180, pRO 0⟩, ⟨bPhy, .unit 0 7, 0xC0, 48, pRO 0⟩]
  ++ (List.range 4).map (fun c => ⟨bDram, .tile, 0x40 + 32 * c, 20, pRO 0⟩)

/-- The parameters of ecc and tide (07 Table 7-9; 08 Table 8-7). -/
def specEcc : List PSpec := [
  ⟨bEcc, .tile, 0x00, 1, pSTG 16 1 64⟩, ⟨bEcc, .tile, 0x01, 1, pSTG 12 1 24⟩, ⟨bEcc, .tile, 0x02, 1, pSTG 24 1 168⟩,
  ⟨bEcc, .tile, 0x03, 1, pSTG 8 1 255⟩, ⟨bEcc, .tile, 0x04, 1, pSTG 16 0 1024⟩, ⟨bEcc, .tile, 0x08, 12, pRO 0⟩,
  ⟨bEcc, .tile, 0x14, 8, pRC⟩, ⟨bEcc, .tile, 0x20, 6, pRO 0⟩, ⟨bEcc, .tile, 0x28, 6, pSTG 10 1 3600⟩,
  ⟨bEcc, .tile, 0x30, 6, pSTG 64 1 65535⟩, ⟨bEcc, .tile, 0x38, 6, pRC⟩,
  ⟨bEcc, .dev, 0x40, 1, pRO 0⟩, ⟨bEcc, .span 1021 2, 0x00, 256, pRO 0⟩,
  ⟨bTide, .tile, 0x00, 1, pSTG 16 1 48⟩, ⟨bTide, .tile, 0x01, 2, pRO 0⟩, ⟨bTide, .tile, 0x03, 2, pRC⟩,
  ⟨bTide, .tile, 0x05, 1, pRO 0⟩, ⟨bTide, .dev, 0x00, 1, pSTG 1000 100 10000⟩, ⟨bTide, .dev, 0x01, 1, pSTG 100 10 1000⟩,
  ⟨bTide, .dev, 0x80, 128, pRO 0⟩]
  ++ (List.range 8).map (fun t => ⟨bEcc, .dev, 8 * t, 5, pRO 0⟩)

/-- The parameters of thatch and nand (09 Table 9-14; 18 Tables 18-2, 18-3). -/
def specThatch : List PSpec := [
  ⟨bThatch, .tile, 0x00, 1, pRO 0⟩, ⟨bThatch, .tile, 0x01, 1, pSTG 1000 10 60000⟩, ⟨bThatch, .tile, 0x02, 1, pSTG 32 8 128⟩,
  ⟨bThatch, .tile, 0x03, 1, pSTG 8 1 16⟩, ⟨bThatch, .tile, 0x04, 1, pSTG 25 5 75⟩, ⟨bThatch, .tile, 0x05, 1, pSTG 3 0 5⟩,
  ⟨bThatch, .tile, 0x06, 1, pSTG 6 1 15⟩, ⟨bThatch, .tile, 0x07, 1, pSTG 90 7 365⟩, ⟨bThatch, .tile, 0x08, 1, pSTG 100000 10000 1000000⟩,
  ⟨bThatch, .tile, 0x09, 1, pSTG 7 1 90⟩, ⟨bThatch, .tile, 0x0A, 1, pSTG 16 0 1024⟩, ⟨bThatch, .tile, 0x0B, 1, pSTG 500 50 5000⟩,
  ⟨bThatch, .tile, 0x0C, 1, pSTG 8 1 64⟩, ⟨bThatch, .tile, 0x0D, 1, pRO 0⟩, ⟨bThatch, .tile, 0x20, 8, pRO 0⟩,
  ⟨bNand, .tile, 0x00, 1, pRO 0⟩,
  ⟨bNand, .tile, 0x01, 1, [{ hi := 63, lo := 0, acc := .rw, reset := 48, least := 24, most := 48, step := 12 }]⟩,
  ⟨bNand, .tile, 0x02, 2, pSTG 0 0 0xFFFF_FFFF_FFFF_FFFF⟩, ⟨bNand, .tile, 0x10, 16, pRW 0 0 0xFFFF_FFFF_FFFF_FFFF⟩,
  ⟨bNand, .tile, 0x20, 30, pSTG 0 0 0xFFFF_FFFF_FFFF_FFFF⟩, ⟨bNand, .tile, 0x40, 64, pRO 0⟩]

/-- The words of `tier.loan` (11 Table 11-4). -/
def loanWord (w : Nat) : List PField :=
  match w with
  | 0 => [{ hi := 63, lo := 62, acc := .rw, stg := true, most := 2 }, { hi := 43, lo := 32, acc := .rw, stg := true },
          { hi := 31, lo := 0, acc := .rw, stg := true, step := 512 }]
  | 1 => [{ hi := 45, lo := 21, acc := .rw, stg := true }]
  | 2 => [{ hi := 63, lo := 63, acc := .wo, stg := true, most := 1 }, { hi := 12, lo := 0, acc := .rw, stg := true }]
  | _ => [{ hi := 63, lo := 60, acc := .ro }, { hi := 31, lo := 0, acc := .ro }]

/-- The default of `batt.wait_lim[r]` (11 Table 11-8). -/
def waitLimReset (r : Nat) : Nat :=
  ([48, 128, 256, 64, 32, 32, 1023, 512, 128, 256, 128, 1023] : List Nat).getD (r - 1) 0

/-- The parameters of mirr, tier and batt (10 Table 10-15; 11 Table 11-10). -/
def specMirr : List PSpec := [
  ⟨bMirr, .tile, 0x00, 1, pSTG 50 10 1000⟩, ⟨bMirr, .tile, 0x01, 1, pSTG 20 5 1000⟩, ⟨bMirr, .tile, 0x02, 1, pSTG 16 1 1024⟩,
  ⟨bMirr, .tile, 0x03, 1, pSTG 32 1 110⟩, ⟨bMirr, .tile, 0x04, 1, pRO 0⟩, ⟨bMirr, .tile, 0x05, 2, pRC⟩,
  ⟨bMirr, .tile, 0x07, 1, [{ hi := 63, lo := 0, acc := .rw, reset := 128, least := 64, most := 128, step := 64 }]⟩,
  ⟨bMirr, .dev, 0x00, 1, pSTG 0 0 0xFFFF_FFFF⟩, ⟨bMirr, .dev, 0x01, 1, pSTG 0 0 1⟩, ⟨bMirr, .dev, 0x02, 1, pSTG 1 0 1⟩,
  ⟨bMirr, .dev, 0x03, 1, pSTG 8 1 64⟩, ⟨bMirr, .dev, 0x04, 1, pSTG 2000 250 16000⟩, ⟨bMirr, .dev, 0x05, 1, pSTG 5 0 3600⟩,
  ⟨bMirr, .dev, 0x06, 2, pRO 0⟩, ⟨bMirr, .dev, 0x10, 16, pRO 0⟩, ⟨bMirr, .dev, 0x20, 8, pRO 0⟩,
  ⟨bTier, .tile, 0x00, 1, [{ hi := 63, lo := 0, acc := .rw, stg := true, reset := 0xFFFF_FFFF_FFFF_FFFF, most := 0x3FF_FFFF_FFFF, step := 0x20_0000 }]⟩,
  ⟨bTier, .tile, 0x01, 1, pRO 0⟩, ⟨bTier, .tile, 0x02, 1, pSTG 50 50 10000⟩, ⟨bTier, .tile, 0x03, 1, pSTG 8 1 32⟩,
  ⟨bTier, .tile, 0x04, 1, pSTG 100 10 1000⟩, ⟨bTier, .tile, 0x05, 1, pSTG 1000 500 100000⟩, ⟨bTier, .tile, 0x06, 1, pSTG 4 0 32⟩]
  ++ (List.range 64).map (fun i => ⟨bTier, .tile, 0x40 + i, 1, loanWord (i % 4)⟩)
  ++ (List.range 12).map (fun i => ⟨bBatt, .tile, 1 + i, 1, pSTG (waitLimReset (i + 1)) 1 1023⟩)
  ++ [⟨bBatt, .tile, 0x11, 12, pRO 0⟩, ⟨bBatt, .tile, 0x21, 12, pRC⟩]

/-- The parameters of seq, ciph and pwr (12 Table 12-8; 14; 15 Tables 15-3 to 15-8; 18 Table 18-2a). -/
def specSeq : List PSpec := [
  ⟨bSeq, .tile, 0x00, 1, pSTG 20 1 1000⟩, ⟨bSeq, .dev, 0x00, 1, pSTG 1000 10 60000⟩, ⟨bSeq, .dev, 0x01, 1, pRO 0⟩,
  ⟨bSeq, .span 512 16, 0x00, 256, pRO 0⟩, ⟨bSeq, .span 528 1, 0x00, 64, pRO 0⟩,
  ⟨bSeq, .span 544 16, 0x00, 256, pRO 0⟩, ⟨bSeq, .span 560 1, 0x00, 64, pRO 0⟩,
  ⟨bSeq, .span 576 16, 0x00, 256, pRO 0⟩, ⟨bSeq, .span 592 1, 0x00, 64, [{ hi := 11, lo := 0, acc := .rw }]⟩,
  ⟨bSeq, .tileAt 608, 0x00, 128, pRO 0⟩,
  ⟨bCiph, .tile, 0x00, 1, pSTG 8 1 14⟩, ⟨bCiph, .tile, 0x01, 2, pSTG 4 1 14⟩,
  ⟨bCiph, .tile, 0x03, 1, [{ hi := 63, lo := 0, acc := .wo, stg := true, most := 1 }]⟩, ⟨bCiph, .tile, 0x09, 3, pRO 0⟩,
  ⟨bCiph, .unit 32 63, 0x00, 256, pRO 0⟩, ⟨bCiph, .dev, 0x00, 1, pSTG 0 0 1⟩,
  ⟨bPwr, .dev, 0x00, 1, pSTG 0 1 16⟩, ⟨bPwr, .dev, 0x01, 1, pSTG 1 0 100⟩, ⟨bPwr, .dev, 0x02, 1, pSTG 0 0 1⟩,
  ⟨bPwr, .dev, 0x03, 1, pRO 0⟩,
  ⟨bPwr, .dev, 0x04, 1, [{ hi := 63, lo := 52, acc := .ro }, { hi := 51, lo := 48, acc := .st }, { hi := 47, lo := 44, acc := .st },
    { hi := 43, lo := 38, acc := .ro }, { hi := 37, lo := 37, acc := .st }, { hi := 36, lo := 0, acc := .ro }]⟩,
  ⟨bPwr, .dev, 0x10, 16, [{ hi := 31, lo := 28, acc := .rw, stg := true, most := 5 }, { hi := 27, lo := 24, acc := .rw, stg := true },
    { hi := 23, lo := 16, acc := .rw, stg := true, reset := 10, least := 1, most := 255 }, { hi := 15, lo := 8, acc := .rw, stg := true },
    { hi := 7, lo := 0, acc := .rw, stg := true }]⟩,
  ⟨bPwr, .dev, 0x20, 16, [{ hi := 63, lo := 48, acc := .rw, stg := true, reset := 50, least := 1, most := 1000 },
    { hi := 47, lo := 32, acc := .rw, stg := true, reset := 100 },
    { hi := 31, lo := 16, acc := .rw, stg := true, reset := 100, least := 1, most := 65535 }]⟩]

/-- The parameters of rec and pmc (16 Tables 16-5, 16-7, 16-8). -/
def specRec : List PSpec := [
  ⟨bRec, .unit 0 63, 0x00, 1, [{ hi := 63, lo := 63, acc := .rw, stg := true }, { hi := 62, lo := 62, acc := .rw, stg := true },
    { hi := 61, lo := 59, acc := .rw, stg := true }, { hi := 58, lo := 54, acc := .rw, stg := true, most := 16 },
    { hi := 53, lo := 52, acc := .rw, stg := true, reset := 1 }, { hi := 51, lo := 32, acc := .rw, stg := true },
    { hi := 31, lo := 0, acc := .rw, stg := true }]⟩,
  ⟨bRec, .unit 0 63, 0x01, 1, [{ hi := 63, lo := 48, acc := .ro }, { hi := 47, lo := 32, acc := .rc },
    { hi := 31, lo := 0, acc := .rw, stg := true }]⟩,
  ⟨bRec, .unit 0 63, 0x02, 16, [{ hi := 23, lo := 0, acc := .rw, stg := true }]⟩,
  ⟨bRec, .tileAt 512, 0x00, 8, pRC⟩, ⟨bRec, .dev, 0x00, 3, pRO 0⟩,
  ⟨bRec, .dev, 0x04, 4, [{ hi := 6, lo := 0, acc := .rw }]⟩, ⟨bRec, .dev, 0x08, 4, pRW 0 0 0xFFFF_FFFF_FFFF_FFFF⟩,
  ⟨bRec, .dev, 0x20, 96, pRO 0⟩,
  ⟨bPmc, .unit 0 39, 0x00, 16, [{ hi := 63, lo := 63, acc := .rw, stg := true }, { hi := 61, lo := 60, acc := .rw, stg := true },
    { hi := 59, lo := 48, acc := .rw, stg := true }, { hi := 47, lo := 44, acc := .rw, stg := true, reset := 0xF },
    { hi := 43, lo := 41, acc := .rw, stg := true, most := 4 }, { hi := 37, lo := 32, acc := .rw, stg := true, reset := 0x3F },
    { hi := 21, lo := 16, acc := .rw, stg := true }, { hi := 15, lo := 0, acc := .rw, stg := true }]⟩,
  ⟨bPmc, .unit 0 39, 0x10, 16, [{ hi := 63, lo := 63, acc := .w1c }, { hi := 47, lo := 0, acc := .rw }]⟩,
  ⟨bPmc, .unit 63 63, 0x00, 8, pRW 0 0 0xFFFF_FFFF_FFFF_FFFF⟩, ⟨bPmc, .dev, 0x00, 1, pRO 0⟩]

/-- The parameters of clk, fuse, fw, d2d, time and scan (17 Table 17-9; 18 Tables 18-3, 18-5). -/
def specFuse : List PSpec := [
  ⟨bClk, .tile, 0x00, 18, pRO 0⟩,
  ⟨bFuse, .dev, 0x00, 256, pRO 0⟩, ⟨bFuse, .span 1022 1, 0x00, 1, pRO 0⟩,
  ⟨bFuse, .span 1022 1, 0x01, 2, [{ hi := 63, lo := 0, acc := .wo }]⟩, ⟨bFuse, .span 1022 1, 0x03, 2, pRO 0⟩,
  ⟨bFuse, .span 1022 1, 0x20, 32, [{ hi := 63, lo := 0, acc := .wo }]⟩,
  ⟨bFw, .dev, 0x00, 1, pRO 0⟩, ⟨bFw, .dev, 0x01, 1, pSTG 60 0 100⟩, ⟨bFw, .dev, 0x02, 1, pRW 0 0 100⟩,
  ⟨bFw, .dev, 0x03, 1, pSTG 60 1 3600⟩, ⟨bFw, .dev, 0x04, 1, pSTG 0 0 1⟩,
  ⟨bFw, .dev, 0x05, 1, [{ hi := 0, lo := 0, acc := .wo, stg := true }, { hi := 1, lo := 1, acc := .wo, stg := true }]⟩,
  ⟨bD2d, .tile, 0x00, 4, pRO 0⟩,
  ⟨bTime, .dev, 0x00, 1, pSTG 0 0 2⟩,
  ⟨bTime, .dev, 0x01, 1, [{ hi := 10, lo := 8, acc := .rw, stg := true }, { hi := 1, lo := 0, acc := .rw, stg := true }]⟩,
  ⟨bTime, .dev, 0x02, 1, pRO 0⟩, ⟨bTime, .tile, 0x00, 2, pRO 0⟩,
  ⟨bScan, .tile, 0x00, 1, [{ hi := 0, lo := 0, acc := .rw }, { hi := 15, lo := 8, acc := .rw }]⟩, ⟨bScan, .tile, 0x10, 8, pRO 0⟩]

/-- Every parameter of the device. -/
def paramSpecs : List PSpec :=
  specSys ++ specPort ++ specDram ++ specEcc ++ specThatch ++ specMirr ++ specSeq ++ specRec ++ specFuse

/-- Block code, instance and index of a parameter ID (18 R506). -/
def pidBlock (id : Nat) : Nat := id / 0x40000 % 64
def pidInst (id : Nat) : Nat := id / 0x100 % 1024
def pidIdx (id : Nat) : Nat := id % 256

/-- The ID of a block, instance and index. -/
def pid (block inst idx : Nat) : Nat := block * 0x40000 + inst * 0x100 + idx

/-- Whether an instance is one of those on a part of `n` tiles (18 R507). -/
def Insts.has (n : Nat) (i : Nat) : Insts → Bool
  | .tile => decide (i < n)
  | .dev => decide (i = 1023)
  | .span b k => decide (b ≤ i ∧ i < b + k)
  | .unit lo hi => decide (i / 64 < n ∧ lo ≤ i % 64 ∧ i % 64 ≤ hi)
  | .tileAt b => decide (b ≤ i ∧ i < b + n)

/-- The tile that holds an instance; none for a device instance. -/
def Insts.tileOf (i : Nat) : Insts → Option Nat
  | .tile => some i
  | .dev => none
  | .span _ _ => none
  | .unit _ _ => some (i / 64)
  | .tileAt b => some (i - b)

/-- The parameter that an ID names on a part of `n` tiles; none when it is unassigned (00 R9; 18 R507). -/
def pspec (n id : Nat) : Option PSpec :=
  paramSpecs.find? (fun p => decide (p.block = pidBlock id ∧ p.base ≤ pidIdx id ∧ pidIdx id < p.base + p.count)
    && p.inst.has n (pidInst id))

/-- The value of a parameter whose fields all hold their reset values. -/
def resetOf (fs : List PField) : Word := fs.foldl (fun w f => ins w f.hi f.lo f.reset) 0

/-- The reset value of the parameter of an ID. -/
def paramReset (id : Nat) : Word :=
  match pspec 8 id with
  | some p => resetOf p.fields
  | none => 0

/-- The key under which a parameter's value is held; `sess` parameters are held per session (18 R511). -/
def pkey (id sess : Nat) : Nat := if pidBlock id = bSess then sess * 0x1000000 + id else id

/-- The value held for a parameter. -/
def State.param (s : State) (id sess : Nat) : Word := Store.read s.params (pkey id sess) (paramReset id)

/-- Set the value held for a parameter. -/
def State.setParam (s : State) (id sess : Nat) (w : Word) : State :=
  { s with params := Store.write s.params (pkey id sess) w (paramReset id) }

/-- A parameter of a tile, and of the device, as a number. -/
def State.tileP (s : State) (block t idx : Nat) : Nat := (s.param (pid block t idx) 0).toNat
def State.devP (s : State) (block idx : Nat) : Nat := (s.param (pid block 1023 idx) 0).toNat

/-- Count one more in a parameter that counts 32 bits. -/
def State.countP (s : State) (id sess : Nat) : State :=
  s.setParam id sess (BitVec.ofNat 64 (min ((s.param id sess).toNat + 1) 0xFFFF_FFFF))

/-- Whether a value lies within the range of a field. -/
def PField.inRange (f : PField) (v : Nat) : Bool :=
  (decide (f.least ≤ v ∧ v ≤ f.most) && decide (v % f.step = 0)) || f.also.contains v

/-- A field that software may write. -/
def PField.writable (f : PField) : Bool := decide (f.acc ≠ .ro ∧ f.acc ≠ .rc)

end Sys2Proof.Machine
end

