-- ==== Sys2Proof/Machine/Ops.lean ====
section
/-! DEFINITION. The shared operations: outputs, free values, time, the records kept per tile and per channel, and
DRAM as bytes. -/

namespace Sys2Proof.Machine

/-- The outcome of a command that has run. -/
abbrev Run := Host.Outcome State Fault Refusal

/-- One microsecond, one millisecond and one second in ticks of 250 ps (01 R30). -/
abbrev us := 4000
abbrev ms := 4000000
abbrev sec := 4000000000

/-- The context number of what no context asked for: the requests of the device's own mailboxes. -/
abbrev noCtx := 0x1FFF

/-- Send an output. (DESIGN CHOICE, log 11.) -/
def State.emit (s : State) (o : Output) : State := { s with out := o :: s.out }

/-- Send several outputs, the first of the list first. -/
def State.emits (s : State) (os : List Output) : State := os.foldl State.emit s

/-- The next free word, and the state that has used it. (DESIGN CHOICE, log 7.) -/
def State.drawWord (s : State) : Word × State := (Config.freeWord s.free, { s with free := s.free + 1 })

/-- The number of tiles. -/
abbrev State.tiles (s : State) : Nat := s.part.tiles

/-- The tiles of the part. -/
def State.tileList (s : State) : List Nat := List.range s.tiles

/-- The reading of a count at a stamping point: the count of TSCLK cycles, and the ticks within the cycle that the four-phase sampler
supplies (01 R31). A count that is not running reads as it stands. (DESIGN CHOICE, log 142.) -/
def Count.stamp (c : Count) (phase : Nat) : Nat := if c.on then c.count + phase else c.count

/-- The Tidemark: the master on the lead tile, and the local count of a tile (01 R31). -/
def State.master (s : State) : Nat := s.time.master.stamp s.time.phase
def State.localCount (s : State) (t : Nat) : Nat := (Store.read s.time.locals t {}).stamp s.time.phase

/-- A count advanced by one TSCLK cycle: 4 ticks and the slew of its rate adjustment (01 R31). -/
def Count.tick (c : Count) : Count :=
  if c.on then
    { c with count := (Int.toNat (c.count + 4 + (c.phase + 4 * c.rate) / 1000000000)),
             phase := (c.phase + 4 * c.rate) % 1000000000 }
  else c

/-- Whether `d` ticks have passed since `t0`. (DESIGN CHOICE, log 2.) (DESIGN CHOICE, log 12.) -/
def State.due (s : State) (t0 d : Nat) : Bool := decide (t0 + d ≤ s.clock)

/-- The records kept per tile: Tideline, recorder, integrity. -/
def State.tl (s : State) (t : Nat) : TideTile := Store.read s.tide t {}
def State.setTl (s : State) (t : Nat) (x : TideTile) : State := { s with tide := Store.write s.tide t x {} }
def State.rt (s : State) (t : Nat) : RecTile := Store.read s.recd.tiles t {}
def State.setRt (s : State) (t : Nat) (x : RecTile) : State :=
  { s with recd := { s.recd with tiles := Store.write s.recd.tiles t x {} } }
def State.it (s : State) (t : Nat) : IntTile := Store.read s.itile t {}
def State.setIt (s : State) (t : Nat) (x : IntTile) : State := { s with itile := Store.write s.itile t x {} }

/-- The integrity record of a channel; channels are keyed 4·tile + channel. -/
def State.ic (s : State) (t c : Nat) : IntCh := Store.read s.ich (4 * t + c) {}
def State.setIc (s : State) (t c : Nat) (x : IntCh) : State := { s with ich := Store.write s.ich (4 * t + c) x {} }

/-- A Rhozil context. -/
def State.ctx (s : State) (c : Nat) : Ctx := Store.read s.ctxs c {}
def State.setCtx (s : State) (c : Nat) (x : Ctx) : State := { s with ctxs := Store.write s.ctxs c x {} }

/-- The mode codes of 02 Table 2-1. -/
def Mode.code : Mode → Nat
  | .stby => 0 | .brup => 1 | .rstr => 2 | .actv => 3 | .mirs => 4 | .solo => 5 | .save => 6 | .main => 7

/-- The mode of a code. -/
def Mode.ofCode : Nat → Option Mode
  | 0 => some .stby | 1 => some .brup | 2 => some .rstr | 3 => some .actv
  | 4 => some .mirs | 5 => some .solo | 6 => some .save | 7 => some .main
  | _ => none

/-- The modes from which a save is committed (08 R235; 15 Table 15-5). -/
def Mode.serving : Mode → Bool
  | .rstr | .actv | .mirs | .solo | .main => true
  | _ => false

/-- The fence of a unit, if one is in force. -/
def State.fence? (s : State) (cls inst tile : Nat) : Option Fence :=
  s.fences.inForce.find? (fun f => decide (f.cls = cls ∧ f.inst = inst ∧ f.tile = tile))

/-- Whether a unit is fenced; a DRAM channel or DIMM whose fence has been cleared is not, while its lines are reloaded (07 R216, R217). -/
def State.fenced (s : State) (cls inst tile : Nat) : Bool := match s.fence? cls inst tile with | some f => !f.reloading | none => false

/-- Whether a tile is fenced. -/
def State.tileFenced (s : State) (t : Nat) : Bool := s.fenced 0xA 0 t

/-- The tiles that are not fenced. -/
def State.liveTiles (s : State) : List Nat := s.tileList.filter (fun t => !s.tileFenced t)

/-- Whether a DRAM channel, or its tile, is fenced. -/
def State.chFenced (s : State) (t c : Nat) : Bool :=
  s.fenced 0x1 c t || s.tileFenced t

/-- Whether a fence has stopped the training and the changes of bank of a DRAM channel: a tile reset runs them on its fenced tile (02 R51). -/
def State.chStops (s : State) (t c : Nat) : Bool :=
  s.fenced 0x1 c t || (s.tileFenced t && !s.boot.tileReset.contains t)

/-- Steps that follow a step of the start run: in BRUP once that has ended; in MAIN entered from BRUP if it had ended before (02 R551). -/
def State.stepRuns (s : State) (after : Nat) : Bool :=
  (decide (s.mode.mode = .brup) && s.boot.done.contains after)
    || (decide (s.mode.mode = .main ∧ s.mode.prev = .brup) && !s.mode.recovery && s.boot.atMain.contains after)

/-- A step of the start has failed (02 Table 2-8). -/
def State.failedAt (s : State) (step : Nat) : State := { s with boot := { s.boot with failStep := step } }

/-- A fence of a DRAM channel or DIMM holds a line until the line has been reloaded (07 R217). -/
def Fence.holds (f : Fence) (a : Nat) : Bool := !f.reloading || decide (f.reloadAt ≤ a / 4096)
def State.holdsAt (s : State) (cls inst t a : Nat) : Bool := match s.fence? cls inst t with | some f => f.holds a | none => false

/-- What a byte of DRAM that nothing has written reads as. (DESIGN CHOICE, log 4.) -/
def dramDefault : Byte := 0

/-- The memory of the block: DRAM, one cell per byte; the key of DFA `a` of tile `t` is `t · 2⁴² + a`. -/
abbrev Memory := List Host.Cell

/-- The canonical form of a memory: addresses strictly rising, no cell equal to what an unlisted address reads as. -/
def Memory.wf (m : Memory) : Bool := Store.wf dramDefault m

/-- One byte of memory. -/
def Memory.read (m : Memory) (a : Nat) : Byte := Store.read m a dramDefault

/-- Write one byte. -/
def Memory.write (m : Memory) (a : Nat) (b : Byte) : Memory := Store.write m a b dramDefault

/-- Write consecutive bytes from an address. -/
def Memory.writeBytes (m : Memory) (a : Nat) : List Byte → Memory
  | [] => m
  | b :: r => Memory.writeBytes (Memory.write m a b) (a + 1) r

/-- The line at an address. -/
def Memory.line (m : Memory) (a : Nat) : Line := Line.ofBytes ((List.range 64).map (fun i => Memory.read m (a + i)))

/-- Write a line at an address. -/
def Memory.setLine (m : Memory) (a : Nat) (l : Line) : Memory := Memory.writeBytes m a l.bytes

/-- The key of a DFA of a tile. -/
def dkey (t dfa : Nat) : Nat := t * 2 ^ 42 + dfa

/-- Insert a number into a rising list without repeats. -/
def insertNat (n : Nat) : List Nat → List Nat
  | [] => [n]
  | a :: r => if n < a then n :: a :: r else if n = a then a :: r else a :: insertNat n r

/-- Sessions and extents; links, keyed 4·tile + link; logical devices, keyed 16·tile + LD; request paths; key slots, keyed
8192·tile + slot; twin links; tier movers and their loans; flash stores. -/
def State.sess (s : State) (n : Nat) : Sess := Store.read s.sessions n {}
def State.setSess (s : State) (n : Nat) (x : Sess) : State := { s with sessions := Store.write s.sessions n x {} }
def State.link (s : State) (t k : Nat) : Link := Store.read s.links (4 * t + k) {}
def State.setLink (s : State) (t k : Nat) (x : Link) : State := { s with links := Store.write s.links (4 * t + k) x {} }
def State.bar (s : State) (t d : Nat) : Bar := Store.read s.bars (16 * t + d) {}
def State.setBar (s : State) (t d : Nat) (x : Bar) : State := { s with bars := Store.write s.bars (16 * t + d) x {} }
def State.pt (s : State) (t : Nat) : PathTile := Store.read s.paths t {}
def State.setPt (s : State) (t : Nat) (x : PathTile) : State := { s with paths := Store.write s.paths t x {} }
def State.keySlot (s : State) (t k : Nat) : KeySlot := Store.read s.keys (8192 * t + k) {}
def State.setKey (s : State) (t k : Nat) (x : KeySlot) : State := { s with keys := Store.write s.keys (8192 * t + k) x {} }
def State.ext (s : State) (n e : Nat) : Ext := Store.read (s.sess n).exts e {}
def State.mt (s : State) (t : Nat) : MirTile := Store.read s.mirr t {}
def State.setMt (s : State) (t : Nat) (x : MirTile) : State := { s with mirr := Store.write s.mirr t x {} }
def State.tt (s : State) (t : Nat) : TierTile := Store.read s.tiers t {}
def State.setTt (s : State) (t : Nat) (x : TierTile) : State := { s with tiers := Store.write s.tiers t x {} }
def State.th (s : State) (t : Nat) : ThTile := Store.read s.thatch t {}
def State.setTh (s : State) (t : Nat) (x : ThTile) : State := { s with thatch := Store.write s.thatch t x {} }
def State.loanOf (s : State) (t peer : Nat) : Option Nat :=
  (List.range 16).find? (fun i =>
    let w := s.param (pid bTier t (0x40 + 4 * i)) 0
    decide (fld w 63 62 = 2 ∧ fld w 43 32 = peer))
/-- The links that `port.bifurcation` gives a tile's port, as latched at the cold start (03 R67, Table 3-1). -/
def State.linkCount (s : State) (t : Nat) : Nat := 2 ^ (Store.read (s.boot.bifur.getD []) t 0)

/-- The link of tile 0 that is a multi-logical device, the first if there are several: two LDs or more map to it (03 R73, R74). -/
def State.multiLink (s : State) : Option Nat :=
  (List.range (s.linkCount 0)).find? (fun k => decide (2 ≤ (List.range 16).countP (fun d => decide ((s.param (pid bPort 0 (0x10 + d)) 0).toNat = k))))

/-- The number by which the model names the FM-owned LD of a multi-logical link of tile 0, beside the LDs 0 to 15 (03 R74). (DESIGN CHOICE,
log 113.) -/
abbrev fmLd := 128

/-- The management LD: the FM-owned LD of a multi-logical link of tile 0 where there is one, or the LD that `port.mgmt_ld` names (03 R74). -/
def State.mgmtLd (s : State) : Nat × Nat :=
  if s.multiLink.isSome then (0, fmLd) else (fld (s.param (pid bPort 1023 0) 0) 10 8, fld (s.param (pid bPort 1023 0) 0) 3 0)

/-- The link of an LD (03 R73): the one that `port.ld_map` gives it; 0xF for none. -/
def State.ldLink (s : State) (t d : Nat) : Nat := if d = fmLd then (if t = 0 then s.multiLink.getD 0xF else 0xF) else (s.param (pid bPort t (0x10 + d)) 0).toNat
def State.loan (s : State) (t i : Nat) : Loan := Store.read (s.tt t).loans i {}

end Sys2Proof.Machine
end

