-- ==== Sys2Proof/Machine/Flags.lean ====
section
/-! DEFINITION. The words that the device computes from its state: status registers, flags and counts as a read of
their parameter returns them. -/

namespace Sys2Proof.Machine

/-- A word from fields: (low bit, value). -/
def word (fs : List (Nat × Nat)) : Word := BitVec.ofNat 64 (fs.foldl (fun a f => a + f.2 * 2 ^ f.1) 0)

/-- The two's complement word of an integer. -/
def wordInt (i : Int) : Word := BitVec.ofInt 64 i

/-- The conversion lap runs on some channel (02 Table 2-2, CONV). -/
def State.conv (s : State) : Bool := s.ich.any (fun p => p.2.lapRun && !p.2.convDone)

/-- The number of a restore path as the device's path is chosen from the tiles' (02 R60, Table 2-8): 0 empty,
1 full load, 2 verify-only, 3 records only. -/
def State.path (s : State) : Nat :=
  if s.boot.paths.any (fun p => decide (p.2 = 1)) then 1
  else if s.boot.paths.any (fun p => decide (p.2 = 3)) then 3
  else if s.boot.paths.any (fun p => decide (p.2 = 2)) then 2
  else 0

/-- `sys.mode` (02 Table 2-2). -/
def State.sysMode (s : State) : Word :=
  word [(16, s.mode.cause), (8, s.mode.prev.code), (6, b01 (s.conv && !s.mode.recovery)),
    (5, b01 (decide (s.mode.mode = .rstr) && decide (s.path = 2))), (4, b01 s.save.armed.isSome), (0, s.mode.mode.code)]

/-- `sys.boot_status` (02 Table 2-8). -/
def State.bootStatus (s : State) : Word :=
  word [(24, s.boot.failStep), (12, s.path), (11, b01 s.boot.forced), (10, b01 s.boot.lone), (9, b01 s.boot.auth),
    (2, b01 s.boot.migrated), (1, b01 s.boot.fallback), (0, s.boot.slot)]

/-- A supervisor parameter in use, by index (15 R453). -/
def State.pwrCfg (s : State) (idx : Nat) : Word := Store.read s.pwr.cfg idx (paramReset (pid bPwr 1023 idx))

/-- The class of supervisor channel `i` (15 Table 15-3), its step, debounce and masks. -/
def State.chanWord (s : State) (i : Nat) : Word := s.pwrCfg (0x10 + i)
def State.chanClass (s : State) (i : Nat) : Nat := fld (s.chanWord i) 31 28
def State.chanStep (s : State) (i : Nat) : Nat := fld (s.chanWord i) 27 24
def State.chanTmask (s : State) (i : Nat) : Nat := fld (s.chanWord i) 15 8
def State.chanUmask (s : State) (i : Nat) : Nat := fld (s.chanWord i) 7 0

/-- The input is present: PFW_L deasserted and every channel of class 0x1 high (15 R457). -/
def State.inputPresent (s : State) : Bool :=
  !s.pwr.pfw && (List.range 16).all (fun i => decide (s.chanClass i ≠ 1) || s.pwr.pg.getLsbD i)

/-- STATE of `pwr.status`. -/
def SeqState.code : SeqState → Nat
  | .off => 0 | .sequencing => 1 | .running => 2 | .committed => 3 | .shutting => 4 | .faulted => 5

/-- `pwr.status` (15 Table 15-7). (DEDUCED, log 100.) -/
def State.pwrStatus (s : State) : Word :=
  word [(56, s.pwr.dramUp.toNat), (52, s.pwr.state.code), (48, s.pwr.faultKind), (44, s.pwr.faultCh), (40, s.pwr.step),
    (38, min s.pwr.restarts 3), (37, b01 s.pwr.abandon), (36, b01 s.pwr.faultOut), (35, b01 s.pwr.faultIn),
    (34, b01 s.pwr.bbuOk), (33, b01 s.pwr.pfw), (32, b01 s.inputPresent), (16, s.pwr.pg.toNat), (0, s.pwr.en.toNat)]

/-- D, the count of dirty pages of a tile (08 R221). -/
def State.dirtyCount (s : State) (t : Nat) : Nat := (s.tl t).dirty.length

/-- D × 4 KiB ≥ B_eff (08 Table 8-3, OVER). -/
def State.over (s : State) (t : Nat) : Bool := decide ((s.tl t).eff * 256 ≤ s.dirtyCount t)

/-- `tide.status` (08 Table 8-3). -/
def State.tideStatus (s : State) (t : Nat) : Word :=
  word [(62, (s.tl t).limit), (61, b01 (s.over t)), (60, b01 s.save.armed.isSome), (32, (s.tl t).eff), (0, s.dirtyCount t)]

/-- The bit of `ecc.fenced` word `w` at which a unit of a class and instance stands, as (word, bit) (07 Table 7-11). -/
def fencedBit (cls inst : Nat) : Nat × Nat :=
  match cls with
  | 0x1 => (0, inst)
  | 0x2 => (0, 4 + inst)
  | 0x3 => (0, 12 + inst)
  | 0x4 => (2, inst)
  | 0x5 => if inst < 64 then (3, inst) else (4, inst - 64)
  | 0x6 => (1, inst)
  | 0x7 => if inst < 16 then (0, 20 + inst) else (0, 32 + (inst - 16))
  | 0x8 => (0, 24 + inst)
  | 0x9 => (0, 26 + inst)
  | _ => (0, 30)

/-- `ecc.fenced` word `w` of a tile (07 R213). A DRAM channel or DIMM whose fence has been cleared stays shown until its lines are reloaded.
(DESIGN CHOICE, log 122.) -/
def State.fencedWord (s : State) (t w : Nat) : Word :=
  s.fences.inForce.foldl
    (fun a f => if f.tile = t ∧ (fencedBit f.cls f.inst).1 = w then a ||| (1#64 <<< (fencedBit f.cls f.inst).2) else a) 0

/-- The words of a fence record (07 Table 7-12). -/
def FenceRec.word (r : FenceRec) (w : Nat) : Word :=
  if w = 0 then BitVec.ofNat 64 r.tidemark
  else Sys2Proof.Machine.word [(24, r.cause), (16, r.inst), (10, r.tile), (8, r.src), (4, b01 r.clr), (0, r.cls)]

/-- `ecc.fence_head`: the next record to be written (07 R214). -/
def State.fenceHead (s : State) : Nat := s.fences.count % 256

/-- Word `w` of record `i` of the fence ring. -/
def State.fenceLog (s : State) (i w : Nat) : Word :=
  match s.fences.log[(s.fenceHead + 255 - i) % 256]? with
  | some r => r.word w
  | none => 0

/-- Operating time in seconds (16 R473). -/
def State.optime (s : State) : Nat := (s.recd.opBase + (s.clock - s.recd.opSince)) / sec

/-- The words of a record: header, then snapshots (16 Table 16-4). -/
def Rec.bare (r : Rec) : List Word :=
  [word [(48, 0x5243), (44, 1), (41, r.sev), (36, r.snaps.length), (33, r.tile), (0, r.code)],
   BitVec.ofNat 64 r.tidemark, word [(16, r.optime % 2 ^ 48)], word [(32, r.pcycle % 2 ^ 32), (0, r.seq % 2 ^ 32)],
   word [(56, r.src), (50, r.trig), (48, r.pl), (35, r.ctx), (0, r.tgen % 65536)], BitVec.ofNat 64 r.arg, 0]

/-- Key of a counter: tile, block, index; the stall counters of a session stand above. -/
def ctrKey (t b k : Nat) : Nat := t * 1024 + b * 16 + k
def stallKey (sess t k : Nat) : Nat := 8192 + (sess * 8 + t) * 16 + k
def State.ctr (s : State) (key : Nat) : Ctr := Store.read s.pmc.ctrs key {}
def State.setCtr (s : State) (key : Nat) (c : Ctr) : State :=
  { s with pmc := { s.pmc with ctrs := Store.write s.pmc.ctrs key c {} } }

/-- A counter as its parameter reads: OVF in [63], the count in [47:0] (16 R481). -/
def Ctr.word (c : Ctr) : Word := Sys2Proof.Machine.word [(63, b01 c.ovf), (0, c.cnt)]
def Ctr.shadowWord (c : Ctr) : Word := Sys2Proof.Machine.word [(63, b01 c.shadowOvf), (0, c.shadow)]

/-- A sensed fuse word (17 R486). (DESIGN CHOICE, log 5.) -/
def State.fuseWord (s : State) (i : Nat) : Word := Store.read s.fuse.sensed i 0

/-- The lifecycle states (17 R490). -/
inductive Life where
  | mfg | owned | retired
  deriving DecidableEq, Repr

/-- The lifecycle state that the sensed fuses give. -/
def State.life (s : State) : Life :=
  if bit (s.fuseWord 0) 1 then .retired else if bit (s.fuseWord 0) 0 then .owned else .mfg

/-- `fuse.bad`: bit i − 4 for an invalid word i (17 R487). -/
def State.fuseBad (s : State) : Word :=
  s.fuse.invalid.foldl (fun a i => if 4 ≤ i then a ||| (1#64 <<< (i - 4)) else a) 0

/-- `fuse.status` (17 Table 17-4). -/
def State.fuseStatus (s : State) : Word := word [(32, s.fuse.result), (1, b01 s.fuse.unlocked), (0, b01 s.pwr.vddFuse)]

/-- The anti-rollback count: the highest ARB bit that reads 1, plus one (17 R488). -/
def State.arbCount (s : State) : Nat :=
  (List.range 128).foldl (fun a i => if bit (s.fuseWord (1 + i / 64)) (i % 64) then i + 1 else a) 0

/-- An owner key-hash slot is programmed, valid and not revoked (17 Table 17-1, R487, R491). -/
def State.ownerOk (s : State) (k : Nat) : Bool :=
  decide (k < 4) && !bit (s.fuseWord 0) (4 + k)
    && (List.range 6).all (fun j => s.fuse.progd.contains (11 + 6 * k + j) && !s.fuse.invalid.contains (11 + 6 * k + j))

/-- What programs fuses is stopped (17 R492). -/
def State.stopFuses (s : State) : State :=
  if s.fuse.busy.isSome ∨ 0 < s.fuse.arbLeft then { s with fuse := { s.fuse with stopped := true } } else s

/-- The slot of an index, 0 A and 1 B. -/
def State.slot (s : State) (i : Nat) : SlotS := if i = 0 then s.fw.slotA else s.fw.slotB
def State.setSlot (s : State) (i : Nat) (x : SlotS) : State :=
  if i = 0 then { s with fw := { s.fw with slotA := x } } else { s with fw := { s.fw with slotB := x } }

/-- SVN in an image header, byte 6 (17 Table 17-6). -/
def SlotS.svn (x : SlotS) : Nat := fld (x.words.getD 0 0) 55 48

/-- The inactive slot: the slot not running; in the recovery form, the one the mark does not name (17 R495). -/
def State.inactive (s : State) : Nat := if s.mode.recovery then 1 - s.fw.mark else 1 - s.boot.slot

/-- SVN of the running image; 0 in the recovery form, where none runs (17 Table 17-8). -/
def State.svnRun (s : State) : Nat := if s.mode.recovery then 0 else (s.slot s.boot.slot).svn

/-- FWBATT of 17 Table 17-7. -/
def State.fwBatt (s : State) : Bool :=
  !s.pwr.bbuOk ||
  (!s.mode.recovery &&
    (s.save.armed.isSome || decide (s.devP bFw 2 < s.devP bFw 1)
      || (match s.fw.socAt with | none => true | some t => decide (t + s.devP bFw 3 * sec < s.clock))))

/-- FWLOCK of 17 Table 17-7. -/
def State.fwLock (s : State) : Bool := !s.mode.recovery && decide (s.devP bFw 4 = 1)

/-- `seq.set_status` (12 Table 12-8). -/
def State.setStatus (s : State) : Word :=
  word [(0, s.set.owner.getD 0), (13, b01 s.set.owner.isSome), (14, b01 s.set.checked), (16, s.set.entries.length)]

/-- Items that a context's queue holds: those waiting, and those of the current submission not yet freed. -/
def Ctx.queued (c : Ctx) : Nat :=
  (c.cmds ++ c.waiting).foldl (fun a b => a + b.items.length) 0
    + (match c.cur with | some u => u.sub.items.length - u.freed | none => 0)

/-- FREE of the queue status (12 R374). -/
def Ctx.freeItems (c : Ctx) : Nat := 512 - c.queued

/-- Rewound items remain (12 R374, RWPEND). -/
def Ctx.rwPend (c : Ctx) : Bool := match c.cur with | some u => decide (u.next < u.high) | none => false

/-- Whether the consumer can take an item, or a called program runs. -/
def Ctx.hasWork (c : Ctx) : Bool := !c.cmds.isEmpty || c.cur.isSome || !c.waiting.isEmpty || c.fetch

/-- STATE of `seq.ctx_status` (12 Table 12-3). -/
def Ctx.stateCode (c : Ctx) : Nat :=
  if c.held then 4 else if c.long.isSome then 3 else if !c.hasWork then 0 else if c.thread.isSome then 2 else 1

/-- `seq.ctx_status[c]` (12 Table 12-3). -/
def State.ctxStatus (s : State) (n : Nat) : Word :=
  word [(60, (s.ctx n).stateCode), (58, (s.ctx n).level), (57, b01 (s.ctx n).mark.isSome),
    (56, b01 (decide (s.set.owner = some n))), (55, b01 (s.ctx n).fetch), (52, (s.ctx n).stack.length),
    (32, (s.ctx n).subid), (16, (match (s.ctx n).cur with | some u => u.next - 1 | none => 0)), (0, (s.ctx n).pc % 4096)]

/-- The queue position of the mark: the read point less the items consumed since the mark. (DESIGN CHOICE, log 31.) -/
def Ctx.markPoint (c : Ctx) : Nat :=
  match c.mark, c.cur with
  | some m, some u => (c.rd + 512 + m - u.next) % 512
  | _, _ => 0

/-- `seq.ctx_queue[c]` (12 R374): write, mark and read point, and the corrected-error count. -/
def State.ctxQueue (s : State) (n : Nat) : Word :=
  word [(0, (s.ctx n).wr), (16, (s.ctx n).markPoint), (32, (s.ctx n).rd), (48, (s.ctx n).cecnt)]

/-- The index of the lowest tile whose local count the word is read from, for `time.now`: the master (18 Table 18-5). -/
def State.viewTime (s : State) (inst idx : Nat) : Option Word :=
  if inst = 1023 ∧ idx = 2 then some (BitVec.ofNat 64 s.master)
  else if inst < 8 ∧ idx = 0 then some (wordInt (Store.read s.time.skew inst 0))
  else if inst < 8 ∧ idx = 1 then some (wordInt (Store.read s.time.locals inst {}).rate)
  else none

end Sys2Proof.Machine
end

