-- ==== Sys2Proof/Machine/Geom.lean ====
section
/-! DEFINITION. The geometry of DRAM and of the mesh: the DFA mapping, the reserved regions, timing counts, data rates and
routes (01 R12, R14, R23; 05 R142 to R145; 18 R514). -/

namespace Sys2Proof.Machine

/-- A channel, and what the controllers of a tile share. -/
def State.chan (s : State) (t c : Nat) : Chan := Store.read s.chans (4 * t + c) {}
def State.setChan (s : State) (t c : Nat) (x : Chan) : State := { s with chans := Store.write s.chans (4 * t + c) x {} }
def State.dt (s : State) (t : Nat) : DramTile := Store.read s.dtiles t {}
def State.setDt (s : State) (t : Nat) (x : DramTile) : State := { s with dtiles := Store.write s.dtiles t x {} }

/-- Fields of `dram.geom` (05 Table 5-2). -/
def State.rowBits (s : State) (t : Nat) : Nat := fld (s.dt t).geom 36 32
def State.slotBits (s : State) (t : Nat) : Nat := fld (s.dt t).geom 29 28
def State.csBits (s : State) (t : Nat) : Nat := fld (s.dt t).geom 27 26 + fld (s.dt t).geom 25 24
def State.isX8 (s : State) (t : Nat) : Bool := bit (s.dt t).geom 8

/-- The width of the tile's DFA: its DFA space is 2 to that power (05 R144); 0 while nothing is found. -/
def State.dfaBits (s : State) (t : Nat) : Nat :=
  if s.rowBits t = 0 then 0 else 21 + s.rowBits t + s.csBits t + s.slotBits t

/-- The bytes of DFA of a tile. -/
def State.dfaSize (s : State) (t : Nat) : Nat := if s.dfaBits t = 0 then 0 else 2 ^ s.dfaBits t

/-- The fields of a DFA (05 Table 5-3). -/
def dfaSub (a : Nat) : Nat := a / 2 ^ 6 % 2
def dfaChan (a : Nat) : Nat := a / 2 ^ 7 % 4
def dfaGroup (a : Nat) : Nat := (a / 2 ^ 12 % 8) ^^^ (a / 2 ^ 21 % 8)
def dfaBank (a : Nat) : Nat := (a / 2 ^ 15 % 4) ^^^ (a / 2 ^ 24 % 4)
def dfaColumn (a : Nat) : Nat := (a / 2 ^ 17 % 16 * 8 + a / 2 ^ 9 % 8) * 16
def State.dfaRow (s : State) (t a : Nat) : Nat := a / 2 ^ 21 % 2 ^ s.rowBits t
def State.dfaCs (s : State) (t a : Nat) : Nat := a / 2 ^ (21 + s.rowBits t) % 2 ^ s.csBits t
def State.dfaSlot (s : State) (t a : Nat) : Nat := a / 2 ^ (21 + s.rowBits t + s.csBits t) % 2 ^ s.slotBits t

/-- The number of a logical rank of a channel, and of a bank within it with its sub-channel. -/
def State.dfaRank (s : State) (t a : Nat) : Nat := s.dfaSlot t a * 8 + s.dfaCs t a
def State.bankKey (s : State) (t a : Nat) : Nat := ((s.dfaRank t a * 8 + dfaGroup a) * 4 + dfaBank a) * 2 + dfaSub a

/-- The logical ranks of a channel. -/
def State.ranks (s : State) (t : Nat) : List Nat :=
  ((List.range (2 ^ s.slotBits t)).map (fun d => (List.range (2 ^ s.csBits t)).map (fun r => d * 8 + r))).flatten

/-- A DFA in the training rows: the eight highest rows of each rank (01 R23; 05 R144). -/
def State.training (s : State) (t a : Nat) : Bool := decide (2 ^ s.rowBits t ≤ s.dfaRow t a + 8)

/-- The count of a timing parameter: its time in ps at a rate in MT/s ÷ 100, divided by the DCLK period and rounded
up, and never below the floor (05 R145). -/
def timingCount (ps c floor : Nat) : Nat := max floor ((ps * c + 79999) / 80000)

/-- The floors of Table 5-4, in its row order; 0 where it gives none. -/
def timingFloor : List Nat := [4, 4, 4, 4, 8, 12, 2, 2, 2, 4, 2, 4, 8, 1, 2, 0, 0, 0, 0, 2]

/-- The rate that a channel runs at, in MT/s ÷ 100, and the bank that holds its counts: those of the bank being trained, or of the bank in use
(06 R168, R171). -/
def Chan.rate (x : Chan) : Nat :=
  match x.train with
  | some r => r.rate
  | none => if x.inUseH then x.rateH else 32
def Chan.onH (x : Chan) : Bool := match x.train with | some r => r.bankH | none => x.inUseH
def Chan.bank (x : Chan) : Bank := if x.onH then x.bankH else x.bankL

/-- The timing parameters in ps that a list by rate gives for a rate; the last of the list for a rate that it does not name. -/
def timesAt (l : List (Nat × List Nat)) (rate : Nat) : List Nat :=
  match l.find? (fun p => decide (p.1 = rate)) with
  | some p => p.2
  | none => (l.getLast?.map Prod.snd).getD []

/-- The parameters of two DIMMs of a channel, the larger of each (05 R145). -/
def maxTimes (a b : List (Nat × List Nat)) : List (Nat × List Nat) :=
  a.map (fun p => (p.1, (List.range p.2.length).map (fun i => max (p.2.getD i 0) ((timesAt b p.1).getD i 0))))

/-- The counts of Table 5-4 for a rate; Burst and tCCD_S are 2 at every rate (05 R145). tWTR_S and tWTR_L share row 13, and one count stands
for both. (DESIGN CHOICE, log 118.) -/
def countsFor (l : List (Nat × List Nat)) (rate : Nat) : List Nat :=
  (List.range 20).map (fun p => if p = 6 ∨ p = 7 then 2 else timingCount ((timesAt l rate).getD p 0) rate (timingFloor.getD p 0))

/-- The count in use for row `p` of Table 5-4; tREFI is halved in the hot state (05 R145, R159). -/
def State.countOf (s : State) (t c p : Nat) : Nat :=
  let n := (s.chan t c).bank.counts.getD p 0
  if p = 17 ∧ (s.chan t c).hot then n / 2 else n

/-- `dram.timing[ch, p]`: Table 5-9 gives it a range of 0 to 4,095, at which a larger count, as tREFI has, is reported. (DESIGN CHOICE,
log 118.) -/
def State.timing (s : State) (t c p : Nat) : Nat := min 4095 (s.countOf t c p)

/-- The length of a number of DCLK of a channel in ticks: one DCLK is 80,000 ps divided by the rate in MT/s ÷ 100. -/
def State.dclk (s : State) (t c n : Nat) : Nat := n * 80000 / (s.chan t c).rate / 250

/-- The data buffers of an MRDIMM multiplex on bank H alone (06 R171). -/
def State.buffersMux (s : State) (t c : Nat) : Bool := decide (fld (s.dt t).geom 3 0 = 2) && (s.chan t c).onH

/-- The data rates of Table 5-1 for a population: RDIMM (1) or MRDIMM (2), one or two DIMMs per channel. -/
def ratesOf (kind slotBits : Nat) : List Nat :=
  if kind = 2 then (if slotBits = 0 then [88, 104, 128] else [])
  else if kind = 1 then (if slotBits = 0 then [48, 52, 56, 60, 64] else [48, 52, 56])
  else []

/-- The greatest rate of a list that no limit excludes (05 R142). -/
def chooseRate (rs : List Nat) (most : Nat) : Option Nat := (rs.filter (fun r => decide (r ≤ most))).getLast?

/-- The next lower rate of the population (06 R170). -/
def lowerRate (rs : List Nat) (r : Nat) : Option Nat := (rs.filter (fun q => decide (q < r))).getLast?

/-- The rates of a tile's population. -/
def State.rates (s : State) (t : Nat) : List Nat := ratesOf (fld (s.dt t).geom 3 0) (s.slotBits t)

/-- The rate that R142 chooses with the `dram.rate_max` in effect (06 R173). (DEDUCED, log 47.) -/
def State.targetRate (s : State) (t : Nat) : Option Nat := chooseRate (s.rates t) (min (s.dt t).spdRate (s.tileP bDram t 0))

/-- The tiles at the other ends of a tile's UCIe links, in the order of the links' numbers (01 R12; 07 Table 7-11). -/
def meshPeers (p : Part) (t : Nat) : List Nat :=
  match p with
  | .t2a => [1 - t, 1 - t]
  | .t4a => if t = 0 then [1, 2] else if t = 1 then [0, 3] else if t = 2 then [0, 3] else [1, 2]
  | .t8a => (List.range 8).filter (fun u => decide ((u / 4 = t / 4 ∧ (u + 1 = t ∨ t + 1 = u)) ∨ (u % 4 = t % 4 ∧ u / 4 ≠ t / 4)))

/-- The tiles one unfenced UCIe link away; a link is fenced by a fence at either end (01 R14). -/
def State.meshNext (s : State) (t : Nat) : List Nat :=
  (List.range (meshPeers s.part t).length).filterMap (fun i =>
    let u := (meshPeers s.part t).getD i 0
    let j := if s.part = .t2a then i else ((meshPeers s.part u).findIdx? (fun x => decide (x = t))).getD 0
    if s.fenced 0x9 i t ∨ s.fenced 0x9 j u ∨ s.tileFenced u then none else some u)

/-- A route leads from a tile to another (01 R14). -/
def State.reachable (s : State) (a b : Nat) : Bool :=
  ((List.range 7).foldl (fun (l : List Nat) _ => (l.map s.meshNext).flatten.foldl (fun x u => insertNat u x) l) [a]).contains b

/-- The route without fences: column first, then row (01 R14). -/
def meshRoute (w : Nat) : Nat → Nat → Nat → List Nat
  | 0, _, _ => []
  | k + 1, a, b =>
    if a = b then []
    else
      let n := if a % w < b % w then a + 1 else if b % w < a % w then a - 1 else if a < b then a + w else a - w
      n :: meshRoute w k n b

/-- A request between tiles takes another route than that, because a link of it is fenced (01 R14). -/
def State.rerouted (s : State) (a b : Nat) : Bool :=
  if s.fences.inForce.isEmpty ∨ a = b then false
  else if s.part = .t2a then decide ((s.meshNext a).length < 2)
  else
    let r := meshRoute (if s.part = .t4a then 2 else 4) 7 a b
    (List.zip (a :: r) r).any (fun q => !(s.meshNext q.1).contains q.2)

/-- A fenced DRAM channel or DIMM holds the line at a DFA (01 Table 1-10; 07 R217). -/
def State.lineFenced (s : State) (t a : Nat) : Bool :=
  s.tileFenced t || s.holdsAt 0x1 (dfaChan a) t a || s.holdsAt 0x2 (2 * dfaChan a + s.dfaSlot t a) t a

/-- The rank ranges of a tile's DFA, the bytes of each, and the hole of 16 MiB at the top of range `k` (05 R144; 18 Table
18-4). -/
def State.rankRanges (s : State) (t : Nat) : Nat := 2 ^ (s.csBits t + s.slotBits t)
def State.rankSpan (s : State) (t : Nat) : Nat := s.dfaSize t / s.rankRanges t
abbrev holeLen := 0x100_0000

/-- BMBASE and BMLEN (18 Table 18-4, R514). -/
def State.bitmapLen (s : State) (t : Nat) : Nat := s.dfaSize t / 32768
def State.bitmapBase (s : State) (t : Nat) : Nat := s.dfaSize t - holeLen - s.bitmapLen t

/-- The base of the home table of a length: it lies below the bitmap and skips the training-row holes (18 R514). -/
def State.htBaseFor (s : State) (t len : Nat) : Nat :=
  let sp := s.rankSpan t
  let b := s.bitmapBase t - len
  let crossed := (List.range (s.rankRanges t - 1)).countP (fun k => decide (b ≤ (k + 1) * sp ∧ (k + 1) * sp ≤ s.bitmapBase t))
  let b1 := b - crossed * holeLen
  let crossed1 := (List.range (s.rankRanges t - 1)).countP (fun k => decide (b1 ≤ (k + 1) * sp ∧ (k + 1) * sp ≤ s.bitmapBase t))
  b - crossed1 * holeLen

/-- HTBASE, which is ALLOCTOP. -/
def State.homeBase (s : State) (t : Nat) : Nat := s.htBaseFor t (s.dt t).htLen
def State.allocTop (s : State) (t : Nat) : Nat := s.homeBase t

/-- The DFA of byte `o` of the home table. -/
def State.homeAddr (s : State) (t o : Nat) : Nat :=
  let a := s.homeBase t + o
  if s.rankSpan t = 0 then a else
  let above := (List.range (s.rankRanges t - 1)).countP (fun k => decide (s.homeBase t ≤ (k + 1) * s.rankSpan t - holeLen ∧ (k + 1) * s.rankSpan t - holeLen ≤ a))
  a + above * holeLen

/-- The byte of the home table at a DFA: the inverse of `homeAddr`. -/
def State.homeOff (s : State) (t a : Nat) : Nat :=
  if s.rankSpan t = 0 then a - s.homeBase t else
  let below := (List.range (s.rankRanges t - 1)).countP (fun k => decide (s.homeBase t ≤ (k + 1) * s.rankSpan t - holeLen ∧ (k + 1) * s.rankSpan t - holeLen ≤ a))
  a - s.homeBase t - below * holeLen

/-- The length of home table that the tiered space configured on a tile asks for: 8 bytes per page up to the end of its highest
tiered extent (01 R21, R23). DESIGN CHOICE: no parameter names that space. (DESIGN CHOICE, log 29.) -/
def State.htNeed (s : State) (t : Nat) : Nat :=
  s.sessions.foldl (fun a p => if !p.2.isOpen then a else
    p.2.exts.foldl (fun (a : Nat) e => if e.2.defined ∧ e.2.tiered ∧ e.2.dpa / 2 ^ 43 = t then max a ((e.2.dpa % 2 ^ 43 + e.2.len + 2097151) / 2097152 * 4096) else a) a) 0

/-- `tier.pool_base` in effect: the top of the allocatable DFA until it is set (11 Table 11-10). -/
def State.poolBase (s : State) (t : Nat) : Nat :=
  if s.tileP bTier t 0 = 0xFFFF_FFFF_FFFF_FFFF then s.allocTop t else s.tileP bTier t 0

end Sys2Proof.Machine
end

