-- ==== Sys2Proof/Machine/Flash.lean ====
section
/-! DEFINITION. The geometry of the flash store: stripe sets and members, block states, the free log pool and the rates that
follow from them (08 R226; 09 R256 to R269). -/

namespace Sys2Proof.Machine

/-- Stripe sets, record slots of a log block and of a data block, and the shift S of a segment (09 R256, R258, R261). -/
def ThTile.sets (x : ThTile) : Nat := x.tgts * x.luns / 2
def ThTile.logSlots (x : ThTile) : Nat := 240 * x.wls
def ThTile.dataSlots (x : ThTile) : Nat := 720 * x.wls
def ThTile.segShift (x : ThTile) : Nat := Nat.log2 x.dataSlots
def ThTile.segOf (x : ThTile) (p : Nat) : Nat := p / 2 ^ x.segShift

/-- The channel and the target of member `m` of stripe set `k`: members are numbered 2 · channel + (position − 2k)
(09 R256). -/
def ThTile.memberTarget (x : ThTile) (k m : Nat) : Nat := if x.tgts = 0 then 0 else (2 * k + m % 2) % x.tgts
def State.memberOk (s : State) (t k m : Nat) : Bool :=
  !s.fenced 0x3 (m / 2) t && !s.fenced 0x4 (8 * (m / 2) + (s.th t).memberTarget k m) t

/-- The members of a set that are not fenced, bit by bit. -/
def State.setMask (s : State) (t k : Nat) : Nat := (List.range 16).foldl (fun a m => if s.memberOk t k m then a + 2 ^ m else a) 0

/-- The parity member of block `b` among the members of a mask, b mod 16, and its data members in order (09 R257, R287, R288). With that
member fenced, the lowest one holds the parity. (DESIGN CHOICE, log 130.) -/
def parityOf (mask b : Nat) : Nat :=
  if mask.testBit (b % 8192 % 16) then b % 8192 % 16 else ((List.range 16).find? (fun m => mask.testBit m)).getD 0
def dataOf (mask b : Nat) : List Nat := (List.range 16).filter (fun m => mask.testBit m && decide (m ≠ parityOf mask b))

/-- Record slots in a row of a log block: 16 in each data member (09 R258, R267, R287, R288). -/
def rowSlots (mask : Nat) : Nat := 16 * ((List.range 16).countP (fun m => mask.testBit m) - 1)

/-- Working data members over all sets (09 R269). -/
def State.workMembers (s : State) (t : Nat) : Nat :=
  (List.range (s.th t).sets).foldl (fun a k => a + ((List.range 16).countP (s.memberOk t k) - 1)) 0

/-- The interface bound of R226 in MB/s at the trained rate, and the rate that R269 gives for a mean program time. -/
def State.ifaceBound (s : State) (t : Nat) : Nat :=
  (List.range 8).foldl (fun a c => if s.fenced 0x3 c t then a else a + (s.th t).rates.getD c (s.th t).rate) 0 * 100 * 15 * 4096 / (16 * 4336)
def State.rateFor (s : State) (t mean : Nat) : Nat :=
  if mean = 0 then s.ifaceBound t else min (s.ifaceBound t) (s.workMembers t * 65536 / mean)

/-- A Thatch block, keyed 8192 · set + block index, and the physical block of one of its members. -/
def State.blk (s : State) (t b : Nat) : Blk := Store.read (s.th t).blks b {}
def State.setBlk (s : State) (t b : Nat) (x : Blk) : State := s.setTh t { s.th t with blks := Store.write (s.th t).blks b x {} }
def physKey (b m : Nat) : Nat := (b / 8192 * 16 + m) * 8192 + b % 8192
def State.physB (s : State) (t b m : Nat) : Phys := Store.read (s.th t).phys (physKey b m) {}
def State.setPhys (s : State) (t b m : Nat) (x : Phys) : State := s.setTh t { s.th t with phys := Store.write (s.th t).phys (physKey b m) x {} }

/-- A block that may be taken: free, and every member present, sealed and not retired. Block index 0 is the system's. (DEDUCED, log 56.) -/
def State.usable (s : State) (t b : Nat) : Bool :=
  decide ((s.blk t b).use = .free) && decide (0 < b % 8192 ∧ b % 8192 < (s.th t).blocks ∧ b / 8192 < (s.th t).sets) &&
    (List.range 16).all (fun m => let p := s.physB t b m; !s.memberOk t (b / 8192) m || (!p.retired && !p.unsealed && !p.erasing))
def State.blkCount (s : State) (t b : Nat) : Nat := (List.range 16).foldl (fun a m => max a (s.physB t b m).count) 0

/-- Blocks with a member that may not be programmed, and free log blocks (09 R266). -/
def State.hurtBlks (s : State) (t : Nat) : List Nat :=
  ((s.th t).phys.filter (fun p => (p.2.retired || p.2.unsealed || p.2.erasing) && s.memberOk t (p.1 / 8192 / 16) (p.1 / 8192 % 16))).foldl (fun (a : List Nat) p => insertNat (p.1 / 8192 / 16 * 8192 + p.1 % 8192) a) []
def State.freeIn (s : State) (t k : Nat) : Nat :=
  ((s.th t).blocks - 1) -
    ((s.th t).blks.countP (fun p => decide (p.1 / 8192 = k ∧ p.2.use ≠ .free)) + (s.hurtBlks t).countP (fun b => decide (b / 8192 = k ∧ (s.blk t b).use = .free)))
def State.freeBlks (s : State) (t : Nat) : Nat := (List.range (s.th t).sets).foldl (fun a k => a + s.freeIn t k) 0

/-- Free record slots of the open log blocks. -/
def State.openSlots (s : State) (t : Nat) : Nat :=
  ((s.th t).blks.filter (fun p => p.2.isOpen && decide (p.2.use = .log))).foldl
    (fun a p => a + (rowSlots p.2.members * ((s.th t).wls - p.2.rows) -
      (((s.th t).rowsOpen.filter (fun r => decide (r.blk = p.1))).foldl (fun n r => n + r.recs.length) 0))) 0

/-- The free log pool in MiB (09 R266). -/
def State.pool (s : State) (t : Nat) : Nat :=
  (s.openSlots t + (List.range (s.th t).sets).foldl (fun a k => a + rowSlots (s.setMask t k) * (s.th t).wls * s.freeIn t k) 0) * 4160 * 16 / 15 / 2 ^ 20

/-- Pages that the Thatch blocks of a tile can hold as data blocks (11 R339): 2^S times the blocks without a retired member, less the
system's block of each set, the log blocks that R272 keeps free (1.1 × `tide.budget` and `thatch.pool_margin`) and 64 spares. (DEDUCED, log 106.) -/
def State.dataPages (s : State) (t : Nat) : Nat :=
  let x := s.th t
  let blkMiB := x.logSlots * 4160 * 16 / 15 / 2 ^ 20
  let logs := if blkMiB = 0 then 0 else (11 * s.tileP bTide t 0 * 1024 + 10 * blkMiB - 1) / (10 * blkMiB) + s.tileP bThatch t 2
  2 ^ x.segShift * (x.sets * (x.blocks - 1) - (s.hurtBlks t).length - logs - 64)

/-- `tier.fo_pool`: those pages as the mount found them, less the tile's populated DFA pages (11 R339). -/
def State.foPool (s : State) (t : Nat) : Nat := (s.th t).foPages - s.dfaSize t / 4096

end Sys2Proof.Machine
end

