-- ==== Sys2Proof/Machine/View.lean ====
section
/-! DEFINITION. The value in effect of every parameter: computed words first, then what the map holds (18 R510). -/

namespace Sys2Proof.Machine

/-- Words of `sys`. -/
def State.viewSys (s : State) (inst idx : Nat) : Option Word :=
  if inst = 1023 then
    match idx with
    | 0 => some s.sysMode
    | 1 => some (BitVec.ofNat 64 s.mode.stamp)
    | 3 => some s.bootStatus
    | 8 => some (word [(33, Config.mipiId.toNat), (16, 0x8840), (12, fld (s.fuseWord 4) 19 16), (0, fld (s.fuseWord 4) 35 24)])
    | _ => none
  else if idx < 8 then
    match idx with
    | 0 => some (BitVec.ofNat 64 (s.dfaSize inst))
    | 1 => some (BitVec.ofNat 64 (s.allocTop inst))
    | 2 => some (BitVec.ofNat 64 (s.bitmapBase inst))
    | 3 => some (BitVec.ofNat 64 (s.bitmapLen inst))
    | 4 => some (BitVec.ofNat 64 (s.homeBase inst))
    | 5 => some (BitVec.ofNat 64 (s.dt inst).htLen)
    | 6 => some (BitVec.ofNat 64 (s.rankSpan inst))
    | _ => some (BitVec.ofNat 64 (if s.dfaBits inst = 0 then 0 else s.rankRanges inst))
  else none

/-- Words of `clk`: domain `idx` in the row order of Table 1-8. A domain is locked while the tile is out of reset; the
frequency is what the device measures (18 Table 18-3). (DESIGN CHOICE, log 8.) -/
def State.viewClk (s : State) (inst idx : Nat) : Option Word :=
  let lead := decide (idx = 14 ∨ idx = 15 ∨ idx = 16)
  let on := (decide (idx = 13) && decide (inst = 0 ∨ s.mode.mode ≠ .stby) && !s.pwr.aclkStopped) || (decide (idx = 14) && decide (inst = 0)) ||
    (decide (s.mode.mode ≠ .stby) && s.boot.done.contains 3 && (!lead || decide (inst = 0)))
  some (word [(0, b01 on), (16, if on then Config.measured (pid bClk inst idx) s.clock % 65536 else 0)])

/-- `port.link_status` (18 Table 18-3). -/
def State.viewPort (s : State) (inst idx : Nat) : Option Word :=
  if inst < 8 ∧ 0x08 ≤ idx ∧ idx < 0x0C then
    let l := s.link inst (idx - 0x08)
    some (if l.up then word [(0, 16 * 2 ^ l.rate), (8, l.width), (13, 1)] else 0)
  else none

/-- Words of `sess`: ways and key range of a reservation, stall counters (04 R121; 11 R352; 14 R438). -/
def State.viewSess (s : State) (inst idx sess : Nat) : Option Word :=
  if inst < 8 then
    let r := Store.read (s.sess sess).resv inst {}
    if idx = 8 then some (BitVec.ofNat 64 r.wayMask)
    else if idx = 9 then some (BitVec.ofNat 64 r.keyBase)
    else if 0x10 ≤ idx ∧ idx < 0x20 then some (s.ctr (stallKey sess inst (idx - 0x10))).word
    else if 0x40 ≤ idx ∧ idx < 0x80 then
      (if (s.ext sess (idx - 0x40)).dpa / 2 ^ 43 = inst then none else some 0)
    else none
  else none

/-- `eaves.way_owner` (18 Table 18-3). -/
def State.viewEaves (s : State) (inst idx : Nat) : Option Word :=
  if 0x10 ≤ idx then
    match s.sessions.find? (fun p => p.2.isOpen && (Store.read p.2.resv inst {}).wayMask.testBit (idx - 0x10)) with
    | some p => some (word [(0, p.1), (12, 1)])
    | none => some 0
  else none

/-- `dram.fc_status` (06 Table 6-1). -/
def Chan.fcStatus (x : Chan) : Word :=
  word [(40, (if x.inUseH then x.ttempH else x.ttempL) % 256), (32, if x.validH then x.rateH else 0), (24, 32), (16, x.phase), (8, x.fallbacks), (3, b01 x.rtPend),
    (2, b01 x.inUseH), (1, b01 x.validH), (0, b01 x.validL)]

/-- Words of `dram`. -/
def State.viewDram (s : State) (inst idx : Nat) : Option Word :=
  if idx = 1 then some (s.dt inst).geom
  else if 0x20 ≤ idx ∧ idx < 0x24 then some (BitVec.ofNat 64 (s.chan inst (idx - 0x20)).temp)
  else if 0x24 ≤ idx ∧ idx < 0x28 then some (s.chan inst (idx - 0x24)).fcStatus
  else if 0x28 ≤ idx ∧ idx < 0x2C then
    some (BitVec.ofNat 64 (if (s.chan inst (idx - 0x28)).inUseH then (s.chan inst (idx - 0x28)).stampH else (s.chan inst (idx - 0x28)).stampL))
  else if 0x40 ≤ idx then some (BitVec.ofNat 64 (s.timing inst ((idx - 0x40) / 32) ((idx - 0x40) % 32)))
  else none

/-- Words of `phy`: what training found for a bank (18 Table 18-3); zero while the bank holds no settings. -/
def Bank.source (b : Bank) (idx : Nat) : Nat := if idx < 0x50 then b.wdq else if idx < 0xD0 then b.phy else if idx < 0xE0 then b.base else b.mr
def State.viewPhy (s : State) (inst idx : Nat) : Option Word :=
  let x := s.chan (inst / 64) (inst % 64 % 4)
  let (ok, set) := if inst % 64 / 4 = 0 then (x.validL, x.bankL.source idx) else (x.validH, x.bankH.source idx)
  some (if ok then BitVec.ofNat 64 (Config.measured (pid bPhy inst idx) set) else 0)

/-- Words of `ecc`. -/
def State.viewEcc (s : State) (inst idx : Nat) : Option Word :=
  if inst = 1023 then
    if idx < 64 then some (s.fencedWord (idx / 8) (idx % 8)) else if idx = 0x40 then some (BitVec.ofNat 64 s.fenceHead) else none
  else if 1021 ≤ inst then some (s.fenceLog (((inst - 1021) * 256 + idx) / 2) (idx % 2))
  else if 0x08 ≤ idx ∧ idx < 0x0C then some (BitVec.ofNat 64 (s.ic inst (idx - 0x08)).convPtr)
  else if 0x0C ≤ idx ∧ idx < 0x10 then some (BitVec.ofNat 64 (s.ic inst (idx - 0x0C)).lapPos)
  else if 0x10 ≤ idx ∧ idx < 0x14 then some (BitVec.ofNat 64 (s.ic inst (idx - 0x10)).lapTime)
  else none

/-- Words of `tide`. -/
def State.viewTide (s : State) (inst idx : Nat) : Option Word :=
  if inst = 1023 then
    if 0x80 ≤ idx then some ((Store.read s.save.recs ((idx - 0x80) / 16) []).getD ((idx - 0x80) % 16) 0) else none
  else if idx = 1 then some (s.tideStatus inst)
  else if idx = 2 then some (BitVec.ofNat 64 (s.tl inst).rate)
  else none

/-- FREEBLK, OPEN, MERGES, SEGSHIFT and POOL (09 Table 9-11). -/
def State.thatchStatus (s : State) (t : Nat) : Word :=
  word [(55, min 256 (s.freeBlks t)), (52, (s.th t).blks.countP (fun p => p.2.isOpen && decide (p.2.use = .log))), (47, (s.th t).merges.length),
    (42, if (s.th t).state = 1 then (s.th t).segShift else 0), (0, min 0xFFFFF (s.pool t))]

/-- The least and greatest of a list that stands beside `n` places, those not listed being zero. -/
def leastOf (l : List Nat) (n : Nat) : Nat := if l.length < n then 0 else match l with | [] => 0 | a :: r => r.foldl min a

/-- Words of `thatch`. -/
def State.viewThatch (s : State) (inst idx : Nat) : Option Word :=
  if idx = 0 then some (s.thatchStatus inst)
  else if idx = 0x0D then some (BitVec.ofNat 64 (s.th inst).backlog.length)
  else if 0x20 ≤ idx then
    let k := idx - 0x20
    let x := s.th inst
    if k < x.sets then
      let l := (x.phys.filter (fun p => decide (p.1 / (8192 * 16) = k))).map (fun p => p.2.count)
      some (word [(0, (List.range 16).countP (s.memberOk inst k) - 1), (4, leastOf l (16 * x.blocks)), (20, l.foldl max 0)])
    else some 0
  else none

/-- Words of `nand` (09 Table 9-2; 18 Table 18-3). -/
def State.viewNand (s : State) (inst idx : Nat) : Option Word :=
  let x := s.th inst
  if idx = 0 then
    some (if x.state = 0 then 0 else if x.state = 2 then 2
      else word [(56, x.rate), (42, x.wls), (29, x.blocks), (24, x.sets), (22, x.luns - 1), (18, x.tgts), (0, 1)])
  else if 0x40 ≤ idx then
    let (c, g) := ((idx - 0x40) / 8, (idx - 0x40) % 8)
    let n := x.phys.countP (fun p => p.2.retired && decide (p.1 / 8192 % 16 / 2 = c ∧ x.memberTarget (p.1 / (8192 * 16)) (p.1 / 8192 % 16) = g))
    some (if x.state = 1 ∧ g < x.tgts then
      word [(0, n % 65536), (16, Config.measured (pid bNand inst idx) s.clock % 256), (24, b01 (s.fenced 0x4 (idx - 0x40) inst))] else 0)
  else none

/-- A path of a tile's Isahar link trained and not fenced. -/
def State.pathUp (s : State) (t p : Nat) : Bool :=
  (if p = 0 then (s.mt t).up0 else (s.mt t).up1) && !s.fenced 0x8 p t && !s.tileFenced t

/-- `mirr.status` (10 Table 10-12). -/
def State.mirrStatus (s : State) (t : Nat) : Word :=
  let x := s.mt t
  let up := s.pathUp t 0 || s.pathUp t 1
  word [(48, x.flight), (20, x.slots.length), (16, match x.resync with | some r => r.kind | none => 0), (11, b01 x.synced),
    (10, b01 (!up && s.liveTiles.any (fun u => s.pathUp u 0 || s.pathUp u 1) && decide (s.mode.mode = .actv))), (9, b01 (s.pathUp t 1)), (8, b01 (s.pathUp t 0)),
    (0, if !up then 0 else if s.mode.mode = .mirs then 4
        else if decide (s.mode.mode = .actv) || (match x.resync with | some r => r.started | none => false) then 3 else 2)]

/-- `mirr.lease` (10 Table 10-13). -/
def State.leaseWord (s : State) : Word :=
  word [(32, if s.lease.held then (s.lease.deadline - s.clock) / us else 0), (24, s.lease.lastType),
    (2, match s.lease.lastWit with | some t => b01 (decide (s.clock ≤ t + 2 * s.devP bMirr 4 * us)) | none => 0), (1, b01 s.lease.held)]

/-- Words of `mirr`. -/
def State.viewMirr (s : State) (inst idx : Nat) : Option Word :=
  if inst = 1023 then
    if idx = 6 then some s.leaseWord
    else if idx = 7 then some (BitVec.ofNat 64 s.lease.epoch)
    else if 0x10 ≤ idx ∧ idx < 0x20 then
      let c := (s.mt ((idx - 0x10) / 2)).ckpt.getD {}
      some (BitVec.ofNat 64 (if idx % 2 = 0 then c.tm else c.seq))
    else if 0x20 ≤ idx then some (BitVec.ofNat 64 (match (s.mt (idx - 0x20)).resync with | some r => r.left | none => 0))
    else none
  else if idx = 4 then some (s.mirrStatus inst)
  else none

/-- USED of a borrower's loan: lent frames that hold pages of its peer (11 Table 11-4). -/
def State.loanUsed (s : State) (t i : Nat) : Nat :=
  (s.tt t).owners.countP (fun p => decide (p.1 / 2 ^ 30 = i + 1) && (p.2.valid || p.2.pendRel))

/-- Words of `tier`. -/
def State.viewTier (s : State) (inst idx : Nat) : Option Word :=
  if idx = 0 then some (BitVec.ofNat 64 (s.poolBase inst))
  else if idx = 1 then some (BitVec.ofNat 64 (s.foPool inst))
  else if 0x40 ≤ idx ∧ idx % 4 = 3 then
    let i := (idx - 0x40) / 4
    let w := s.param (pid bTier inst (0x40 + 4 * i)) 0
    some (word [(60, (s.loan inst i).state), (0, if fld w 63 62 = 2 then s.loanUsed inst i else 0)])
  else none

/-- `batt.prog` (11 Table 11-9). -/
def State.viewBatt (s : State) (inst idx : Nat) : Option Word :=
  if 0x11 ≤ idx ∧ idx < 0x1D then
    let b := Store.read (s.tt inst).batt (idx - 0x10) {}
    some (if b.valid then word [(32, b.tag % 2 ^ 32), (15, 1), (14, b01 b.forced), (0, b.done % 64)] else 0)
  else none

/-- A key slot is named by a loan; in use by an IDE stream; in use by a running or interrupted CRYP; named by an encrypted
extent (14 Table 14-6). -/
def State.slotLoan (s : State) (t k : Nat) : Bool :=
  (List.range 16).any (fun i => decide (fld (s.param (pid bTier t (0x40 + 4 * i)) 0) 63 62 ≠ 0) && decide (fld (s.param (pid bTier t (0x42 + 4 * i)) 0) 12 0 = k))
def State.slotIde (s : State) (t k : Nat) : Bool := decide (16 ≤ k ∧ k < 48) && decide ((s.keySlot t k).usage ≠ 0)
def State.slotCryp (s : State) (t k : Nat) : Bool :=
  s.ctxs.any (fun p => match p.2.cryp with
    | some c => decide (c.tile = t ∧ (c.slot = k ∨ (c.mode < 2 ∧ c.slot / 2 = k / 2)))
    | none => false)
def State.slotRegion (s : State) (t k : Nat) : Bool :=
  s.sessions.any (fun p => p.2.isOpen && p.2.exts.any (fun e =>
    let w := s.param (pid bSess t (0x40 + e.1)) p.1
    e.2.defined && decide (e.2.dpa / 2 ^ 43 = t) && bit w 15 && decide (fld w 12 0 / 2 = k / 2)))

/-- Words of `ciph` (14 Table 14-6). -/
def State.viewCiph (s : State) (inst idx : Nat) : Option Word :=
  if inst < 8 ∧ 9 ≤ idx then some (BitVec.ofNat 64 (Store.read s.nonces (4 * inst + (idx - 8)) 0))
  else if inst < 512 ∧ 32 ≤ inst % 64 then
    let (t, k) := (inst / 64, (inst % 64 - 32) * 256 + idx)
    let x := s.keySlot t k
    some (word [(56, x.usage), (55, b01 x.isSealed), (54, b01 x.isScoped), (40, x.sess), (39, b01 (s.slotLoan t k)), (38, b01 (s.slotIde t k)),
      (37, b01 (s.slotCryp t k)), (36, b01 (s.slotRegion t k)), (16, x.installs % 65536), (0, x.gen)])
  else none

/-- The condition FWMOVE of 17 Table 17-7. -/
def State.fwMove (s : State) : Bool :=
  !s.mode.recovery &&
    (s.tileList.any (fun t => (s.mt t).resync.isSome || (s.tt t).loans.any (fun p => decide (p.2.state = 3 ∨ p.2.state = 4)) || (s.tt t).moves.any (fun m => m.movp || m.empty))
      || decide (s.lease.wish = .failover) || s.lease.takeOver || s.lease.handoverAt.isSome || decide (s.lease.wish = .handoverTo ∨ s.lease.wish = .handoverFrom)
      || s.ctxs.any (fun p => match p.2.long with | some (_, .movp _ _ _ _ _ _) => true | _ => false))

/-- `fw.status` (17 Table 17-8). -/
def State.fwStatus (s : State) : Word :=
  let o := s.slot s.inactive
  word [(56, s.arbCount), (48, s.svnRun), (40, if o.complete then o.svn else 0xFF), (36, b01 s.fw.preserve),
    (35, b01 s.fw.xfer.isSome), (34, b01 s.fwMove), (33, b01 s.fwBatt), (32, b01 s.fwLock), (0, s.fw.mark)]

/-- Words of `d2d` (18 Table 18-3). -/
def State.viewD2d (s : State) (inst idx : Nat) : Option Word :=
  let up := decide (idx < (meshPeers s.part inst).length) && s.boot.ucie.contains inst && s.boot.ucie.contains ((meshPeers s.part inst).getD idx 0) && !s.fenced 0x9 idx inst
  some (word [(0, b01 up), (8, if up then Config.measured (pid bD2d inst idx) 0 % 256 else 0),
    (16, ((Store.read (s.it inst).replays idx []).countP (fun t0 => decide (s.clock < t0 + sec))) % 65536)])

/-- Words of `seq`. -/
def State.viewSeq (s : State) (inst idx : Nat) : Option Word :=
  if inst = 1023 then (if idx = 1 then some s.setStatus else none)
  else if 512 ≤ inst ∧ inst < 544 then some (s.ctxStatus ((inst - 512) * 256 + idx))
  else if 544 ≤ inst ∧ inst < 576 then some (s.ctxQueue ((inst - 544) * 256 + idx))
  else if 576 ≤ inst ∧ inst < 592 then some (BitVec.ofNat 64 ((inst - 576) * 256 + idx))
  else if 608 ≤ inst then
    match s.ctxs.find? (fun p => decide (p.2.thread = some idx ∧ p.2.tile = inst - 608)) with
    | some p => some (word [(0, p.1), (13, 1)])
    | none => some 0
  else none

/-- Words of `rec`. -/
def State.viewRec (s : State) (inst idx : Nat) : Option Word :=
  if inst = 1023 then
    match idx with
    | 0 => some (BitVec.ofNat 64 (s.optime % 2 ^ 48))
    | 1 => some (BitVec.ofNat 64 (s.recd.pcycle % 2 ^ 32))
    | 2 => some (BitVec.ofNat 64 s.recd.tmMark)
    | n => if 0x20 ≤ n then some ((Store.read s.recd.readers ((n - 0x20) / 24) {}).words.getD ((n - 0x20) % 24) 0) else none
  else if inst < 512 ∧ idx = 1 then
    some (ins (ins (s.param (pid bRec inst 1) 0) 63 48 (Store.read (s.rt (inst / 64)).gens (inst % 64) 0)) 47 32
      (Store.read (s.rt (inst / 64)).hits (inst % 64) 0))
  else none

/-- Words of `pmc`. -/
def State.viewPmc (s : State) (inst idx : Nat) : Option Word :=
  if inst = 1023 then some (BitVec.ofNat 64 s.pmc.snapTm)
  else if inst % 64 < 40 ∧ 0x10 ≤ idx then some (s.ctr (ctrKey (inst / 64) (inst % 64) (idx - 0x10))).word
  else none

/-- Words of `fuse`. -/
def State.viewFuse (s : State) (inst idx : Nat) : Option Word :=
  if inst = 1023 then some (s.fuseWord idx)
  else match idx with
    | 0 => some s.fuseBad
    | 3 => some s.fuse.challenge
    | 4 => some s.fuseStatus
    | _ => none

/-- Words of `pwr`. -/
def State.viewPwr (s : State) (inst idx : Nat) : Option Word :=
  if inst = 1023 ∧ idx = 3 then some (BitVec.ofNat 64 (b01 s.boot.startHold))
  else if inst = 1023 ∧ idx = 4 then some s.pwrStatus
  else none


/-- The computed word of a parameter, if the device computes it. -/
def State.computed (s : State) (id sess : Nat) : Option Word :=
  let inst := pidInst id
  let idx := pidIdx id
  match pidBlock id with
  | 0x01 => s.viewSys inst idx
  | 0x02 => s.viewClk inst idx
  | 0x03 => s.viewPort inst idx
  | 0x04 => s.viewSess inst idx sess
  | 0x05 => s.viewEaves inst idx
  | 0x06 => s.viewDram inst idx
  | 0x07 => s.viewPhy inst idx
  | 0x08 => s.viewEcc inst idx
  | 0x09 => s.viewTide inst idx
  | 0x0A => s.viewThatch inst idx
  | 0x0B => s.viewNand inst idx
  | 0x0C => s.viewMirr inst idx
  | 0x0D => s.viewTier inst idx
  | 0x0E => s.viewBatt inst idx
  | 0x0F => s.viewSeq inst idx
  | 0x10 => s.viewCiph inst idx
  | 0x11 => s.viewPwr inst idx
  | 0x12 => s.viewRec inst idx
  | 0x13 => s.viewPmc inst idx
  | 0x14 => s.viewFuse inst idx
  | 0x15 => if idx = 0 then some s.fwStatus else none
  | 0x16 => s.viewD2d inst idx
  | 0x17 => s.viewTime inst idx
  | 0x18 => if 0x10 ≤ idx then some (Store.read s.mgmt.bist (256 * inst + (idx - 0x10)) 0) else none
  | _ => none

/-- The value in effect of a parameter, write-only fields included. -/
def State.inEffect (s : State) (id sess : Nat) : Word := (s.computed id sess).getD (s.param id sess)

/-- Clear the fields of a word that read as zero: those that are WO, and every bit that no field covers (00 R7, R8). -/
def readMask (fs : List PField) (w : Word) : Word :=
  fs.foldl (fun a f => if f.acc = .wo then a else ins a f.hi f.lo (fld w f.hi f.lo)) 0

/-- What a read of a parameter returns, without its side effect. (DEDUCED, log 111.) -/
def State.view (s : State) (id sess : Nat) : Word :=
  match pspec s.tiles id with
  | some p => readMask p.fields (s.inEffect id sess)
  | none => 0

end Sys2Proof.Machine
end

