-- ==== Sys2Proof/Machine/Recorder.lean ====
section
/-! DEFINITION. The event recorder and the performance counters (16): the operations that every chapter uses to log
an event and to count one, and the commands of the recorder and of the counters. -/

namespace Sys2Proof.Machine

/-- A device event code (16 Table 16-2). -/
def evCode (block inst detail kind : Nat) : Nat := block * 2 ^ 26 + inst * 2 ^ 16 + detail * 2 ^ 8 + kind

/-- The words of a record with its RCRC (16 Table 16-4). -/
def Rec.words (r : Rec) : List Word :=
  r.bare ++ [(crc32cWords (r.bare ++ r.snaps)).setWidth 64] ++ r.snaps

/-- Bytes of a record. -/
def Rec.size (r : Rec) : Nat := 64 + 8 * r.snaps.length

/-- Bytes of the records in SRAM. -/
def sramUsed (l : List Rec) : Nat := l.foldl (fun a r => a + r.size) 0

/-- The word 0 and word 1 of a trigger entry. -/
def State.trig0 (s : State) (t j : Nat) : Word := s.param (pid bRec (64 * t + j) 0) 0
def State.trig1 (s : State) (t j : Nat) : Word := s.param (pid bRec (64 * t + j) 1) 0

/-- The lowest trigger entry of a tile that an event matches (16 R470). -/
def State.trigMatch (s : State) (t code src : Nat) : Option Nat :=
  (List.range 64).find? (fun j =>
    bit (s.trig0 t j) 63 && bit (s.trig0 t j) (51 + src) &&
    decide (code &&& fld (s.trig1 t j) 31 0 = fld (s.trig0 t j) 31 0 &&& fld (s.trig1 t j) 31 0))

/-- The session that a `sess` ID names (18 R511), and 0 for other blocks. -/
def State.sessOf (s : State) (n pl : Nat) : Nat :=
  if 2 ≤ pl ∨ n < 0x1000 then n else fld (s.param (pid bSeq 592 (n % 256)) 0) 11 0
def State.idSess (s : State) (n pl id : Nat) : Nat := if pidBlock id = bSess then s.sessOf n pl else 0

/-- The snapshots that a trigger entry takes; a parameter of a fenced tile reads as zero (16 R471). A `sess` ID names the session of the context
that issued EVTW (18 R511), and session 0 in a device event. (DEDUCED, log 137.) -/
def State.snapshots (s : State) (t j src ctx pl : Nat) : List Word :=
  (List.range (fld (s.trig0 t j) 58 54)).map (fun i =>
    let id := fld (s.param (pid bRec (64 * t + j) (2 + i)) 0) 23 0
    match pspec s.tiles id with
    | none => 0
    | some p =>
      match p.inst.tileOf (pidInst id) with
      | some u => if s.tileFenced u then 0 else s.view id (if src = 2 then s.idSess ctx pl id else 0)
      | none => s.view id (if src = 2 then s.idSess ctx pl id else 0))

/-- Drop one record of severity `v` on a tile (16 R474, R477). -/
def State.dropRec (s : State) (t v : Nat) : State := s.countP (pid bRec (512 + t) v) 0

/-- Make room for a record of severity 5 or above: the oldest record below 5 outside the batch (16 R474). -/
def victim (batch : Nat) (l : List Rec) : Option Rec := (l.drop batch).find? (fun r => decide (r.sev < 5))

/-- Put a record into the SRAM of its tile, with whether a record was dropped for it (16 R474). One victim is looked at: a longer record that does
not fit in its place either is dropped. (DEDUCED, log 137.) -/
def State.storeRec (s : State) (r : Rec) : State × Bool :=
  let x := s.rt r.tile
  let b := x.batch.getD 0
  let lost := ((s.setRt r.tile { x with seq := x.seq + 1 }).dropRec r.tile r.sev, true)
  if sramUsed x.sram + r.size ≤ 262144 then (s.setRt r.tile { x with sram := x.sram ++ [r], seq := x.seq + 1 }, false)
  else if 5 ≤ r.sev then
    match victim b x.sram with
    | some v =>
      if sramUsed x.sram - v.size + r.size ≤ 262144 then
        ((s.setRt r.tile { x with sram := x.sram.take b ++ (x.sram.drop b).erase v ++ [r], seq := x.seq + 1 }).dropRec r.tile v.sev, true)
      else lost
    | none => lost
  else lost

/-- A flush cause on a tile. -/
def State.wantFlush (s : State) (t : Nat) : State := s.setRt t { s.rt t with wanted := true }

/-- The flush causes that a new record brings: severity 5 or above orders a flush of every tile, and 192 KiB of
uncommitted records one of this tile (16 R475). -/
def State.flushCauses (s : State) (t sev : Nat) : State :=
  if 5 ≤ sev then s.tileList.foldl State.wantFlush s
  else if 196608 ≤ sramUsed (s.rt t).sram then s.wantFlush t
  else s

/-- Apply a trigger entry: hits, holdoff and one-shot (16 Table 16-5). -/
def State.applyTrig (s : State) (t j : Nat) : State :=
  let x := s.rt t
  let s := s.setRt t { x with hits := Store.write x.hits j (min (Store.read x.hits j 0 + 1) 65535) 0,
                              holdoff := Store.write x.holdoff j (s.clock + fld (s.trig0 t j) 51 32 * us) 0 }
  if bit (s.trig0 t j) 62 then s.setParam (pid bRec (64 * t + j) 0) 0 (ins (s.trig0 t j) 63 63 0) else s

/-- Make one record of an event on a tile (16 R469 to R475), with whether one was dropped; none is made before the end of step 2 (R473).
The Tidemark of a record is 0 before the master is loaded. The snapshots of a trigger follow those that EVTW gives, up to 16. (DEDUCED, log 137.) -/
def State.makeRec (s : State) (t sev code src pl ctx arg : Nat) (snaps : List Word) : State × Option Bool :=
  if !s.boot.tableRead then (s, none)
  else
    let base : Rec := { sev, tile := t, code, tidemark := if s.time.master.on then s.localCount t else 0, optime := s.optime, pcycle := s.recd.pcycle,
                        seq := (s.rt t).seq, src, pl, ctx, arg, snaps }
    match s.trigMatch t code src with
    | some j =>
      if s.clock < Store.read (s.rt t).holdoff j 0 then
        let (u, d) := s.storeRec base
        (u.flushCauses t sev, some d)
      else
        let r : Rec := { base with sev := max sev (fld (s.trig0 t j) 61 59), trig := j, tgen := Store.read (s.rt t).gens j 0, snaps := (snaps ++ s.snapshots t j src ctx pl).take 16 }
        let (u, d) := s.storeRec r
        ((u.applyTrig t j).flushCauses t r.sev, some d)
    | none =>
      let (u, d) := s.storeRec base
      (u.flushCauses t sev, some d)

/-- What an event that a counter may count carries (16 R480). -/
structure Attr where
  sess : Option Nat := none
  tile : Nat := 0
  link : Option Nat := none
  ld : Option Nat := none
  pl : Nat := 0
  dpa : Option Nat := none
  cls : Option Nat := none
  deriving DecidableEq, Repr

/-- The master filter of `pmc.ctl` (16 Table 16-7). -/
def masterOk (w : Word) (a : Attr) : Bool :=
  match fld w 61 60 with
  | 0 => true
  | 1 => decide (a.link = some (fld w 53 52) ∧ a.tile = fld w 58 56)
  | 2 => decide (a.ld = some (fld w 51 48) ∧ a.tile = fld w 58 56)
  | _ => decide (a.sess = some (fld w 59 48))

/-- The range filter: none, or one of the four address ranges of the tile. -/
def State.rangeOk (s : State) (t : Nat) (w : Word) (a : Attr) : Bool :=
  match fld w 43 41, a.dpa with
  | 0, _ => true
  | r, some d => decide ((s.param (pid bPmc (64 * t + 63) (2 * (r - 1))) 0).toNat ≤ d ∧
      d ≤ (s.param (pid bPmc (64 * t + 63) (2 * (r - 1) + 1)) 0).toNat)
  | _, none => false

/-- Whether counter `k` of block `b` counts event `ev` of block `src`. -/
def State.counts (s : State) (t b k src ev : Nat) (a : Attr) : Bool :=
  let w := s.param (pid bPmc (64 * t + b) k) 0
  bit w 63 && decide (fld w 15 0 = ev) && (decide (b < 38) || decide (fld w 21 16 = src)) &&
    masterOk w a && bit w (44 + a.pl) && s.rangeOk t w a &&
    (match a.cls with | some c => bit w (32 + c) | none => true)

/-- Add one to a counter; past 2⁴⁸ − 1 it wraps, sets OVF and raises the event of KIND 0x09 (16 R481). The record of that
event is not counted itself. (DEDUCED, log 109.) -/
def State.bump (s : State) (t b k : Nat) : State :=
  let c := s.ctr (ctrKey t b k)
  if c.cnt + 1 < 2 ^ 48 then s.setCtr (ctrKey t b k) { c with cnt := c.cnt + 1 }
  else ((s.setCtr (ctrKey t b k) { c with cnt := 0, ovf := true }).makeRec t 1 (evCode bPmc (64 * t + b) k 0x09) 1 0 0 0 []).1

/-- No counter runs: all are frozen, or none has been set up. -/
def State.uncounted (s : State) : Bool := s.pmc.frozen || s.pmc.ctrs.isEmpty && s.params.all (fun p => decide (pidBlock p.1 ≠ bPmc))

/-- A counter block of a fenced tile or channel stops counting (16 R482). (DEDUCED, log 109.) -/
def State.blockFenced (s : State) (t b : Nat) : Bool :=
  !s.fences.inForce.isEmpty && (s.tileFenced t || (decide (5 ≤ b ∧ b ≤ 8) && s.fenced 0x1 (b - 5) t) || (decide (10 ≤ b ∧ b ≤ 17) && s.fenced 0x3 (b - 10) t))

/-- Count an event of block `b` of a tile in every counter that it matches (16 R480 to R484). -/
def State.tally (s : State) (t b ev : Nat) (a : Attr) : State :=
  if s.uncounted || s.blockFenced t b then s
  else
    let s := (List.range 16).foldl (fun s k => if s.counts t b k b ev a then s.bump t b k else s) s
    (List.range 32).foldl (fun s k => if s.counts t (38 + k / 16) (k % 16) b ev a then s.bump t (38 + k / 16) (k % 16) else s) s

/-- Count the records made and dropped (16 Table 16-6, block 36). -/
def State.tallyRec (s : State) (t : Nat) (made : Option Bool) : State :=
  match made with
  | none => s
  | some d => let s := s.tally t 36 0x0001 { tile := t }; if d then s.tally t 36 0x0002 { tile := t } else s

/-- Make one record, and count it. -/
def State.record (s : State) (t sev code src pl ctx arg : Nat) (snaps : List Word) : State :=
  let (u, d) := s.makeRec t sev code src pl ctx arg snaps
  u.tallyRec t d

/-- Log a device event: tile, severity, reporting block and instance, kind and detail, object (16 R468). Which kind, detail and object an event
has whose rule does not say, its call chooses. (DEDUCED, log 138.) -/
def State.log (s : State) (t sev block inst kind detail arg : Nat) : State :=
  s.record t sev (evCode block inst detail kind) 1 0 0 arg []

/-- Log an event and send it to the BMC as an EVENT message; with 16 unread the event is only recorded (18 R519). -/
def State.bmcEvent (s : State) (t sev block inst kind detail arg : Nat) : State :=
  let s := s.log t sev block inst kind detail arg
  if 16 ≤ s.mgmt.events.length then s
  else { s with mgmt := { s.mgmt with events := s.mgmt.events ++ [[BitVec.ofNat 64 (evCode block inst detail kind), BitVec.ofNat 64 s.master, BitVec.ofNat 64 sev]] } }

/-- The block that reports a fence of a class. -/
def fenceBlock (cls : Nat) : Nat :=
  match cls with
  | 0x1 | 0x2 => bDram
  | 0x3 | 0x4 => bNand
  | 0x5 => bSeq
  | 0x6 => bCiph
  | 0x7 => bPort
  | 0x8 => bMirr
  | 0x9 => bD2d
  | _ => bSys

/-- EVENT_RECORD (16 R469): an event is raised on a tile and recorded. -/
def execEventRecord (tile sev block inst kind detail arg : Nat) (s : State) : Run :=
  .next (if tile < s.tiles then s.log tile (min sev 7) block inst kind detail arg else s)

/-- The recorder area of a tile can be written: in every mode but STBY, with the store mounted and a NAND channel in service (16 R475). -/
def State.areaUp (s : State) (t : Nat) : Bool :=
  decide (s.mode.mode ≠ .stby) && s.boot.mounted.contains t && !s.tileFenced t && !(List.range 8).all (fun c => s.fenced 0x3 c t)

/-- A flush starts on a tile: a cause has arisen, and none runs (16 R475). -/
def State.canFlush (s : State) (t : Nat) : Bool := s.areaUp t && (s.rt t).wanted && (s.rt t).batch.isNone

/-- RECORDER_FLUSH (16 R475, R476): a flush takes as its batch every uncommitted record in SRAM. -/
def execRecorderFlush (tile : Nat) (s : State) : Run :=
  .next (if s.canFlush tile then
    (s.setRt tile { s.rt tile with batch := some (s.rt tile).sram.length, wanted := false }).tally tile 36 0x0003 { cls := some 4 }
  else s)

/-- The order of records in the recorder area: by TIDEMARK, then (PCYCLE, SEQ) (16 R477). -/
def Rec.older (a b : Rec) : Bool :=
  decide (a.tidemark < b.tidemark ∨ (a.tidemark = b.tidemark ∧ (a.pcycle < b.pcycle ∨ (a.pcycle = b.pcycle ∧ a.seq < b.seq))))

/-- The oldest record of a list that satisfies a test. -/
def oldest (p : Rec → Bool) : List Rec → Option Rec
  | [] => none
  | a :: r =>
    match oldest p r with
    | none => if p a then some a else none
    | some b => if p a && !b.older a then some a else some b

/-- Place one record of a batch: what is left of the old area, what the batch has placed, and the severities
dropped (16 R477). -/
def place (slots : Nat) (st : List Rec × List Rec × List Nat) (r : Rec) : List Rec × List Rec × List Nat :=
  let (old, new, drops) := st
  if old.length + new.length < slots then (old, new ++ [r], drops)
  else
    match oldest (fun o => decide (o.sev < r.sev)) old with
    | some v => (old.erase v, new ++ [r], drops)
    | none =>
      match oldest (fun o => decide (o.sev = r.sev)) old with
      | some v => (old.erase v, new ++ [r], drops)
      | none => (old, new, drops ++ [r.sev])

/-- Record slots of a tile's recorder area (16 R477). -/
abbrev recSlots := 8388608

/-- The commit marker of a batch: its count, the first and last (PCYCLE, SEQ), and a CRC-64 over its records (16 R476). The manual gives no layout
of it. (DEDUCED, log 137.) -/
def commitMarker (l : List Rec) : List Word :=
  let at_ := fun (r : Option Rec) => match r with | some r => word [(32, r.pcycle), (0, r.seq)] | none => 0
  [BitVec.ofNat 64 l.length, at_ l.head?, at_ l.getLast?, crc64Words (l.flatMap Rec.words)]

/-- The first `n` records of the SRAM of a tile are committed: they are placed in the area, their SRAM space is freed, definitions that no
record names are removed, and `rec.tm_mark` and `rec.optime` are written to the parameter store (16 R472, R473, R476, R477). -/
def State.commitBatch (s : State) (t n : Nat) : State :=
  let x := s.rt t
  let (old, new, drops) := (x.sram.take n).foldl (place recSlots) (x.area, [], [])
  let s := s.setRt t { x with sram := x.sram.drop n, batch := none, area := old ++ new, marker := commitMarker (x.sram.take n),
                              defs := x.defs.filter (fun d => (old ++ new ++ x.sram.drop n).any
                                (fun r => decide (r.trig = d.entry ∧ r.tgen = d.gen))
                                || decide (Store.read x.gens d.entry 0 = d.gen)) }
  let s := { s with recd := { s.recd with tmMark := (x.sram.take n).foldl (fun a r => max a r.tidemark) s.recd.tmMark,
                                          opStored := s.optime, opWritten := s.clock } }
  drops.foldl (fun s v => (s.dropRec t v).tally t 36 0x0002 { tile := t }) s

/-- FLUSH_COMMIT (16 R476): the marker of the batch has been programmed and read back, and the batch is committed. -/
def execFlushCommit (tile : Nat) (s : State) : Run :=
  .next (match (s.rt tile).batch with
  | some n => if s.areaUp tile then s.commitBatch tile n else s
  | none => s)

/-- Whether a record stands at or after a cursor. -/
def Rec.atOrAfter (r : Rec) (pos : Word) : Bool :=
  decide (fld pos 63 32 < r.pcycle ∨ (r.pcycle = fld pos 63 32 ∧ fld pos 31 0 ≤ r.seq))

/-- REC_RD_DATA (16 R478): a read of `rec.rd_data[24 × k]` fetches the first record of the selected tile at or after
the cursor with at least the severity selected, and sets the cursor past it. -/
def State.fetchRec (s : State) (k : Nat) : State :=
  let ctl := s.param (pid bRec 1023 (4 + k)) 0
  let t := fld ctl 2 0
  let x := s.rt t
  let sramOnly := bit ctl 3 || decide (s.mode.mode = .stby ∨ s.mode.mode = .save) || !s.boot.mounted.contains t
  let pool := (if sramOnly then [] else x.area) ++ x.sram
  let cand := pool.filter (fun r => r.atOrAfter (s.param (pid bRec 1023 (8 + k)) 0) && decide (fld ctl 6 4 ≤ r.sev))
  match leastBy (fun r => r.pcycle * 2 ^ 32 + r.seq) cand with
  | some r =>
    { s with recd := { s.recd with readers := Store.write s.recd.readers k { words := r.words } {} } }.setParam
      (pid bRec 1023 (8 + k)) 0 (word [(32, r.pcycle % 2 ^ 32), (0, (r.seq + 1) % 2 ^ 32)])
  | none => { s with recd := { s.recd with readers := Store.write s.recd.readers k { words := [] } {} } }

def execRecRdData (k : Nat) (s : State) : Run := .next (if k < 4 then s.fetchRec k else s)

/-- COUNTER_OVERFLOW (16 R481): a running counter that stands at 2⁴⁸ − 1 counts one more event. -/
def execCounterOverflow (tile b k : Nat) (s : State) : Run :=
  .next (if tile < s.tiles ∧ b < 40 ∧ k < 16 ∧ (s.ctr (ctrKey tile b k)).cnt = 2 ^ 48 - 1
      ∧ bit (s.param (pid bPmc (64 * tile + b) k) 0) 63 ∧ !s.pmc.frozen then s.bump tile b k else s)

/-- A write of `pmc.cnt`: the count takes the value, and OVF clears where 1 is written to it (16 R481). -/
def State.writeCnt (s : State) (t b k : Nat) (w : Word) : State :=
  let c := s.ctr (ctrKey t b k)
  s.setCtr (ctrKey t b k) { c with cnt := fld w 47 0, ovf := c.ovf && !bit w 63 }

/-- PMC_CNT_WRITE (16 R481): a write lands in one cycle and the events of that cycle are added to the value. Only
PL0 and PL1 may write. -/
def execPmcCntWrite (tile b k pl : Nat) (value : Word) (events : Nat) (s : State) : Run :=
  .next (if tile < s.tiles ∧ b < 40 ∧ k < 16 ∧ pl ≤ 1 ∧ !s.tileFenced tile then
    (List.range (if s.pmc.frozen then 0 else events)).foldl (fun s _ => s.bump tile b k) (s.writeCnt tile b k value)
  else s)

/-- OPTIME_WRITE (16 R473): every hour `rec.optime` is written to the parameter store. -/
def execOptimeWrite (s : State) : Run :=
  .next (if s.due s.recd.opWritten (3600 * sec) then
    { s with recd := { s.recd with opStored := s.optime, opWritten := s.clock } } else s)

end Sys2Proof.Machine
end

