-- ==== Sys2Proof/Machine/DramOps.lean ====
section
/-! DEFINITION. DRAM channels as operations: the DFA mapping, timing counts, lines as stored, row activations and
their counts, and the queues of the sub-channels (05 R144, R145, R149 to R153, R160). -/

namespace Sys2Proof.Machine

/-- Requests to the channel's lines are held: a frequency change, a training while the tile serves, or a
retraining slice (06 R175, R176, R180). -/
def Chan.holding (x : Chan) : Bool := x.fc.isSome || (match x.train with | some r => decide (r.why ≠ .start) | none => false) || x.slice.isSome

/-- A channel that no background access can use at present: it holds its lines, or is in self-refresh (05 Table 5-8; 06 R175). The accesses of a
page, which spreads over the four channels of its tile, wait for each of them. -/
def State.chanAway (s : State) (t c : Nat) : Bool := !s.chFenced t c && ((s.chan t c).holding || decide ((s.chan t c).power = .selfRefresh))
def State.pageAway (s : State) (t : Nat) : Bool := (List.range 4).any (s.chanAway t)

/-- A requester has the Batten bus of its tile, or finds it free (11 R356). -/
def State.busFree (s : State) (t r : Nat) : Bool := decide ((s.tt t).owner = none ∨ (s.tt t).owner = some r)

/-- A line as DRAM holds it. -/
def State.dramLine (s : State) (t a : Nat) : Line := Memory.line s.dram (dkey t (a / 64 * 64))
def State.isPoisoned (s : State) (t a : Nat) : Bool := s.poisoned.contains (dkey t a / 64)

/-- Store a line in DRAM, poisoned or not (07 Table 7-7). A poisoned line holds no data that a read returns. -/
def State.putDram (s : State) (t a : Nat) (l : Line) (p : Bool) : State :=
  { s with dram := Memory.setLine s.dram (dkey t (a / 64 * 64)) l,
           poisoned := if p then insertNat (dkey t a / 64) s.poisoned else s.poisoned.filter (fun n => decide (n ≠ dkey t a / 64)) }

/-- Enter a tile offset into the poison table; the table that it fills, or that is full, sets its overflow flag (07 R204). -/
def State.enterPoison (s : State) (t off : Nat) : State :=
  let x := s.it t
  let o := off / 64 * 64
  if x.poison.contains o then s
  else
    let p := if x.poison.length < 4096 then insertNat o x.poison else x.poison
    s.setIt t (if p.length < 4096 then { x with poison := p }
      else { x with poison := p, overflow := true, lapSince := x.lapSince && x.overflow, laps := if x.overflow then x.laps else [],
                    overAt := if x.overflow then x.overAt else s.clock })

/-- A tile offset leaves the poison table; the overflow flag clears with it under R204. -/
def State.leavePoison (s : State) (t off : Nat) : State :=
  let x := s.it t
  let p := x.poison.filter (fun o => decide (o ≠ off / 64 * 64))
  s.setIt t { x with poison := p, overflow := x.overflow && !(decide (p.length < 3584) && x.lapSince) }

/-- The least count of an activate-count table of 32 entries (05 R160). A table lists its entries in order; entries not listed hold no row and
count 0. -/
def leastCount (tbl : List (Nat × Nat)) : Nat := if tbl.length < 32 then 0 else (tbl.map Prod.snd).foldl min 4095

/-- Count an ACT of a row in an activate-count table (05 R160): the table after it, and the row's count, of 12 bits. -/
def bumpRow (tbl : List (Nat × Nat)) (row : Nat) : List (Nat × Nat) × Nat :=
  match tbl.find? (fun e => decide (e.1 = row)) with
  | some e => (replaceFirst (fun x => decide (x.1 = row)) (fun _ => (row, min 4095 (e.2 + 1))) tbl, min 4095 (e.2 + 1))
  | none =>
    if tbl.any (fun e => decide (e.2 = leastCount tbl)) then
      (replaceFirst (fun x => decide (x.2 = leastCount tbl)) (fun _ => (row, min 4095 (leastCount tbl + 1))) tbl, min 4095 (leastCount tbl + 1))
    else (tbl ++ [(row, leastCount tbl + 1)], leastCount tbl + 1)

/-- The neighbours of a row have been refreshed: its entry takes the least count of its table (05 R160). -/
def restRow (tbl : List (Nat × Nat)) (row : Nat) : List (Nat × Nat) := replaceFirst (fun x => decide (x.1 = row)) (fun _ => (row, leastCount tbl)) tbl

/-- An ACT of a row of a bank: the row is open, its count rises, and at the threshold its neighbours are due a
refresh (05 R160, R161). -/
def State.activate (s : State) (t c bank row : Nat) : State :=
  let x := s.chan t c
  let (tbl, n) := bumpRow (Store.read x.acts bank []) row
  s.setChan t c { x with acts := Store.write x.acts bank tbl [],
                         rows := Store.write x.rows bank { isOpen := true, row, last := s.clock, hits := 0 } {},
                         nbr := if s.tileP bDram t 9 ≤ n ∧ !x.nbr.contains (bank, row) then x.nbr ++ [(bank, row)] else x.nbr }

/-- A read or write of a line on the channel: its row is opened unless it is open; a rank in power-down leaves it
(05 R147, R152, R163). -/
def State.touchRow (s : State) (t a : Nat) : State :=
  let c := dfaChan a
  let x := s.chan t c
  let b := s.bankKey t a
  let r := Store.read x.rows b {}
  let s := s.setChan t c { x with powerDown := x.powerDown.filter (fun k => decide (k ≠ s.dfaRank t a)), idleSince := s.clock,
                                  idleAt := Store.write x.idleAt (s.dfaRank t a) s.clock 0 }
  if r.isOpen ∧ r.row = s.dfaRow t a then
    (s.setChan t c { s.chan t c with rows := Store.write x.rows b { r with last := s.clock, hits := r.hits + 1 } {} }).tally t (5 + c) 0x0003 { tile := t }
  else s.activate t c b (s.dfaRow t a)

/-- A read of a line on the channel for the device itself, counted as one of its reads. -/
def State.readRow (s : State) (t a : Nat) : State := (s.touchRow t a).tally t (5 + dfaChan a) 0x0001 { tile := t }

/-- Close every row of a channel. -/
def State.closeRows (s : State) (t c : Nat) : State := s.setChan t c { s.chan t c with rows := [] }

/-- The write-drain state of a sub-channel. -/
def Chan.wrDrain (x : Chan) (sub : Nat) : WrDrain := if sub = 0 then x.drainA else x.drainB
def Chan.setWrDrain (x : Chan) (sub : Nat) (d : WrDrain) : Chan := if sub = 0 then { x with drainA := d } else { x with drainB := d }

/-- The queue key of a DFA's sub-channel. -/
def subKey (t a : Nat) : Nat := 8 * t + 2 * dfaChan a + dfaSub a
def State.wqOf (s : State) (k : Nat) : List WqEnt := Store.read s.wq k []
def State.rqOf (s : State) (k : Nat) : List RqEnt := Store.read s.rq k []
def State.setWq (s : State) (k : Nat) (l : List WqEnt) : State := { s with wq := Store.write s.wq k l [] }
def State.setRq (s : State) (k : Nat) (l : List RqEnt) : State := { s with rq := Store.write s.rq k l [] }

/-- The urgency of an age in ticks against a target in ns (04 Table 4-9). -/
def urgencyOf (target age : Nat) : Nat :=
  if target = 0 then 0 else if target * 4 * 90 ≤ age * 100 then 3 else if target * 4 * 75 ≤ age * 100 then 2
  else if target * 4 * 50 ≤ age * 100 then 1 else 0

/-- tREFI of a channel in ticks (05 R157). -/
def State.tRefi (s : State) (t c : Nat) : Nat := s.dclk t c (s.countOf t c 17)

/-- A queued read of class Host, or one that an uncorrectable line asks again for (05 Table 5-7; 07 R192). -/
def RqEnt.isHost (e : RqEnt) : Bool :=
  match e.why with
  | .prefetch _ => false
  | .scrub => decide (0 < e.tries)
  | _ => true

/-- The host reads of a sub-channel, and whether it holds a host or prefetch entry. -/
def State.hostReads (s : State) (k : Nat) : List RqEnt := (s.rqOf k).filter RqEnt.isHost
def State.hasReads (s : State) (k : Nat) : Bool := (s.rqOf k).any (fun e => e.isHost || (match e.why with | .prefetch _ => true | _ => false))

/-- A host read of urgency 2 or 3 waits for a rank (05 R158). -/
def State.urgentReads (s : State) (t c rank : Nat) : Bool :=
  [8 * t + 2 * c, 8 * t + 2 * c + 1].any (fun k => (s.hostReads k).any (fun e =>
    decide (s.dfaRank t e.dfa = rank) && decide (2 ≤ urgencyOf e.target (s.localCount t - e.since))))

/-- A line is written: what Undertow was to write back of it is out of date (07 R206). -/
def State.dropBack (s : State) (t a : Nat) : State :=
  if (s.it t).writeBack.contains (a / 64 * 64) then s.setIt t { s.it t with writeBack := (s.it t).writeBack.filter (fun x => decide (x ≠ a / 64 * 64)) } else s

/-- Put a line into the write queue of its sub-channel, coded in the form that the boundary pointer gives (05 R149;
07 R187). -/
def State.queueWrite (s : State) (t a : Nat) (l : Line) (p : Bool) (pend : Nat) : State :=
  (s.dropBack t a).setWq (subKey t a) (s.wqOf (subKey t a) ++
    [{ dfa := a / 64 * 64, data := l, poison := p, pend, rs := decide (a < (s.ic t (dfaChan a)).convPtr) }])

/-- The newest entry of a line in its write queue (04 R130). -/
def State.wqNewest (s : State) (t a : Nat) : Option WqEnt :=
  (s.wqOf (subKey t a)).reverse.find? (fun e => decide (e.dfa = a / 64 * 64))

/-- The write queue of a line's sub-channel is full (05 R149, R153). -/
def State.wqFull (s : State) (t a : Nat) : Bool := decide (64 ≤ (s.wqOf (subKey t a)).length)

/-- A line as the owning tile's DRAM side holds it: the newest write-queue entry, else DRAM (04 R130). -/
def State.stored (s : State) (t a : Nat) : Line × Bool :=
  match s.wqNewest t a with
  | some e => (e.data, e.poison)
  | none => (s.dramLine t a, s.isPoisoned t a)

/-- The sub-channel of a queue key issues its write at position `i`. -/
def State.issueAt (s : State) (k i : Nat) : State :=
  match (s.wqOf k)[i]? with
  | some e =>
    let u := (s.touchRow (k / 8) e.dfa).tally (k / 8) (5 + k % 8 / 2) 0x0002 { tile := k / 8 }
    (u.putDram (k / 8) e.dfa e.data e.poison).setWq k ((s.wqOf k).eraseIdx i)
  | none => s

/-- A queued write hits the open row of its bank; after `dram.hit_cap` hits in a row it does so no more while a queued write to another row of
the bank waits (05 R152). -/
def State.writeHits (s : State) (k : Nat) (e : WqEnt) : Bool :=
  let t := k / 8
  let r := Store.read (s.chan t (k % 8 / 2)).rows (s.bankKey t e.dfa) {}
  r.isOpen && decide (r.row = s.dfaRow t e.dfa)
def State.writeCapped (s : State) (k : Nat) (e : WqEnt) : Bool :=
  let t := k / 8
  let r := Store.read (s.chan t (k % 8 / 2)).rows (s.bankKey t e.dfa) {}
  s.writeHits k e && decide (s.tileP bDram t 4 ≤ r.hits)
    && (s.wqOf k).any (fun q => decide (s.bankKey t q.dfa = s.bankKey t e.dfa ∧ s.dfaRow t q.dfa ≠ s.dfaRow t e.dfa))

/-- Writes issue row hit first, then oldest; a later write to a line never passes an earlier one (05 R152, R153). -/
def State.pickWrite (s : State) (k : Nat) : Nat :=
  let l := s.wqOf k
  let pick := match l.find? (fun e => s.writeHits k e && !s.writeCapped k e) with
    | some e => some e
    | none => l.find? (fun e => !s.writeCapped k e)
  match pick with
  | some e => (l.findIdx? (fun x => decide (x.dfa = e.dfa))).getD 0
  | none => 0

/-- Issue one write of a sub-channel. -/
def State.issueWrite (s : State) (k : Nat) : State := s.issueAt k (s.pickWrite k)

/-- Issue every write of a sub-channel, oldest first, and of a channel (05 R156). -/
def State.drainSub (s : State) (k : Nat) : State := (List.range (s.wqOf k).length).foldl (fun s _ => s.issueAt k 0) s
def State.drainChan (s : State) (t c : Nat) : State := (s.drainSub (8 * t + 2 * c)).drainSub (8 * t + 2 * c + 1)

/-- The rows at distances 1 and 2 of a row, within the bank (05 R160, R161). -/
def neighbours (bits row : Nat) : List Nat :=
  ((if 2 ≤ row then [row - 2] else []) ++ (if 1 ≤ row then [row - 1] else []) ++ [row + 1, row + 2]).filter (fun r => decide (r < 2 ^ bits))

/-- Make the oldest pending neighbour refresh of a channel: each neighbour row by ACT and then PRE, and then the row's entry takes the least
count of its table (05 R160). -/
def State.refreshNeighbours (s : State) (t c : Nat) : State :=
  match (s.chan t c).nbr with
  | [] => s
  | (b, row) :: _ =>
    let s := (neighbours (s.rowBits t) row).foldl (fun s n => s.activate t c b n) s
    let x := s.chan t c
    let s := s.setChan t c { x with rows := Store.write x.rows b {} {}, acts := Store.write x.acts b (restRow (Store.read x.acts b []) row) [],
                                    nbr := x.nbr.filter (fun p => decide (p ≠ (b, row))) }
    s.tally t (5 + c) 0x0004 {}

/-- Every pending neighbour refresh of a channel, with those that they bring about (05 R156). -/
def State.refreshLoop : Nat → State → Nat → Nat → State
  | 0, s, _, _ => s
  | k + 1, s, t, c => if (s.chan t c).nbr.isEmpty then s else State.refreshLoop k (s.refreshNeighbours t c) t c
def State.refreshAll (s : State) (t c : Nat) : State := State.refreshLoop 1024 s t c

/-- The actions before self-refresh entry: every queued write and pending neighbour refresh is issued, all rows are
closed, and REFab pays what each rank owes (05 R156). -/
def State.quietChan (s : State) (t c : Nat) : State :=
  let s := ((s.drainChan t c).refreshAll t c).closeRows t c
  s.setChan t c { s.chan t c with refresh := [], drainA := {}, drainB := {} }

end Sys2Proof.Machine
end

