-- ==== Sys2Proof/Machine/Ctx.lean ====
section
/-! DEFINITION. What every instruction of a context shares: registers, the end of a submission, completion records,
and the loss of a staged set (12 R365 to R378; 13 R387, R393). -/

namespace Sys2Proof.Machine

/-- The status codes of 13 Table 13-9. -/
def Status.code : Status → Nat
  | .ok => 0x00 | .pend => 0x01 | .idle => 0x02 | .priv => 0x10 | .range => 0x11 | .resv => 0x12 | .mode => 0x13
  | .chkfail => 0x14 | .late => 0x15 | .rollbk => 0x16 | .fenced => 0x20 | .poison => 0x21 | .uncor => 0x22
  | .stallto => 0x23 | .ersusp => 0x30 | .halfer => 0x31 | .progfail => 0x32 | .lease => 0x40 | .epoch => 0x41
  | .key => 0x50 | .nonce => 0x51 | .fwmove => 0x60 | .fwbatt => 0x61 | .fwlock => 0x62

/-- A status other than OK and IDLE is a failure (12 R373). -/
def Status.fails : Status → Bool
  | .ok | .idle => false
  | _ => true

/-- Fields of an instruction word (12 Table 12-4). -/
def iGd (w : Word) : Nat := fld w 55 52
def iGa (w : Word) : Nat := fld w 51 48
def iGb (w : Word) : Nat := fld w 47 44
def iX (w : Word) : Bool := bit w 43
def iXf (w : Word) : Bool := bit w 42
def iCont (w : Word) : Bool := bit w 41
def iCmpl (w : Word) : Bool := bit w 40
def iImm (w : Word) : Nat := fld w 39 0

/-- A register; g0 reads as zero (12 R365). -/
def Ctx.reg (c : Ctx) (n : Nat) : Word := if n = 0 then 0 else Store.read c.g n 0

/-- Write a register; a write to g0 is discarded. -/
def Ctx.setReg (c : Ctx) (n : Nat) (w : Word) : Ctx := if n = 0 then c else { c with g := Store.write c.g n w 0 }

/-- Write k words to consecutive registers. -/
def Ctx.setRegs (c : Ctx) (n : Nat) : List Word → Ctx
  | [] => c
  | w :: r => Ctx.setRegs (c.setReg n w) (n + 1) r

/-- The end of a submission: what is left of it is consumed and released, the mark clears, and a called program
returns through every level (12 R372, R373). -/
def Ctx.endSub (c : Ctx) : Ctx :=
  { c with cur := none, mark := none, stack := [], fetch := false,
           rd := match c.cur with | some u => (c.rd + (u.sub.items.length - u.next)) % 512 | none => c.rd }

/-- Nothing of the submission is left to execute: no called program runs and every item is consumed. -/
def Ctx.exhausted (c : Ctx) : Bool :=
  !c.fetch && (match c.cur with | some u => decide (u.sub.items.length ≤ u.next) | none => true)

/-- The completion record of an instruction (12 Table 12-5). -/
def mkCpl (s : State) (n : Nat) (i : Issue) (st : Status) (result : Word) (last ended : Bool) : Cpl :=
  { tidemark := s.localCount (s.ctx n).tile, status := st, opcode := i.opcode, prio := i.prio, last, ended, cmd := i.cmd, pl := i.pl,
    index := i.index, pc := if i.stored then i.pc else 0, ctx := n, result, subid := i.subid, path := i.path }

/-- An instruction has completed, and perhaps failed: the counters of the sequencer that runs its context (16 Table 16-6, blocks 23 to
30). A context without a thread counts on the first. (DEDUCED, log 109.) -/
def State.countInstr (s : State) (n : Nat) (i : Issue) (st : Status) : State :=
  let t := (s.ctx n).tile
  let b := 23 + ((s.ctx n).thread.getD 0) / 16
  let a : Attr := { sess := if n < 0x1000 then some n else none, tile := t, pl := i.pl, cls := some 5 }
  let s := s.tally t b 0x0001 a
  if st.fails then s.tally t b 0x0003 a else s

/-- Complete an instruction of context `n` with a status, a result and the words for gd onward; `force` writes the
registers whatever the status (13 R387). The record is written when CMPL is set, when the instruction fails, or when
it is the last of its submission to execute (12 R375); a failure ends the submission unless CONT is set (R373). -/
def State.complete (s : State) (n : Nat) (i : Issue) (st : Status) (result : Word) (regs : List Word) (force : Bool) : State :=
  let s := s.countInstr n i st
  let c := s.ctx n
  let c := if i.cmd || (st.fails && !force) then c else c.setRegs (iGd i.word) regs
  if i.cmd then s.setCtx n { c with outbox := c.outbox ++ [mkCpl s n i st result true false], held := false }
  else
    let ended := st.fails && (!iCont i.word || i.short)
    let last := ended || c.exhausted
    let c := if last then c.endSub else c
    let c := if iCmpl i.word || st.fails || last then { c with outbox := c.outbox ++ [mkCpl s n i st result last ended] } else c
    s.setCtx n { c with held := false }

/-- Complete with RESULT written to gd. -/
def State.completeR (s : State) (n : Nat) (i : Issue) (st : Status) (result : Word) : State :=
  s.complete n i st result [result] false

/-- The interim record of 13 R393. (DEDUCED, log 33.) -/
def State.pendRec (s : State) (n : Nat) (i : Issue) : State :=
  if iCmpl i.word then s.setCtx n { s.ctx n with outbox := (s.ctx n).outbox ++ [mkCpl s n i .pend 0 false false] } else s

/-- Put a context into a long instruction. -/
def State.startLong (s : State) (n : Nat) (i : Issue) (op : LongOp) : State :=
  s.setCtx n { s.ctx n with long := some (i, op), held := false }

/-- End the long instruction of a context; the chaining state of a CRYP goes with it (14 R446). -/
def State.finishLong (s : State) (n : Nat) (st : Status) (result : Word) (regs : List Word) (force : Bool) : State :=
  match (s.ctx n).long with
  | some (i, op) =>
    (s.setCtx n { s.ctx n with long := none, cryp := if op = .cryp then none else (s.ctx n).cryp }).complete n i st result regs force
  | none => s

/-- End it with RESULT written to gd. -/
def State.finishR (s : State) (n : Nat) (st : Status) (result : Word) : State := s.finishLong n st result [result] false

/-- The contexts, by number. -/
def State.ctxNums (s : State) : List Nat := s.ctxs.map Prod.fst

/-- End the long instruction of every context that runs one of a kind. -/
def State.finishAll (s : State) (p : LongOp → Bool) (st : Status) (result : Word) : State :=
  s.ctxNums.foldl (fun s n =>
    match (s.ctx n).long with
    | some (_, op) => if p op then s.finishR n st result else s
    | none => s) s

/-- Drop the staged set; its owner's next instruction that refers to it completes with LATE (12 R378, R384). -/
def State.dropSet (s : State) : State :=
  match s.set.owner with
  | some n => { s with set := {} }.setCtx n { s.ctx n with dropped := true }
  | none => { s with set := {} }

/-- Empty the staged set without telling its owner. -/
def State.emptySet (s : State) : State := { s with set := {} }

end Sys2Proof.Machine
end

