-- ==== Sys2Proof/Machine/TideOps.lean ====
section
/-! DEFINITION. Naming a Spring tide, cancelling one, and the mode as the device records it (02 R45, R55, R57;
12 R380 to R383). -/

namespace Sys2Proof.Machine

/-- The least instant of R383 and R380: 4 µs ahead; the spacing between tides: 12 µs. -/
abbrev tideAhead := 16000
abbrev tideSpace := 48000

/-- The tiles of this device that are units of a tide, and in ACTV those of the standby, unless it is lost (12 R381). -/
def State.tideUnits (s : State) : List TideUnit :=
  s.liveTiles.map (fun t => ⟨false, t⟩)
    ++ (if s.mode.mode = .actv ∧ !s.lease.twinLost then s.tileList.map (fun t => ⟨true, t⟩) else [])

/-- The first instant at or after `t` that lies more than 12 µs from every instant of the list. -/
def freeInstant (others : List Nat) : Nat → Nat → Nat
  | 0, t => t
  | k + 1, t =>
    match others.find? (fun o => decide (t ≤ o + tideSpace ∧ o ≤ t + tideSpace)) with
    | some o => freeInstant others k (o + tideSpace + 1)
    | none => t

/-- What a tide of the active unit applies on both units: sessions, extents, bindings and the `sess` parameters (10 R295). -/
def Change.forTwin : Change → Option TwinChange
  | .field id n hi lo v => if pidBlock id = bSess then some (.field id n hi lo v) else none
  | .bind n e t k d w => some (.bind n e t k d w)
  | .unbind n e t k d => some (.unbind n e t k d)
  | .remove n e => some (.remove n e)
  | _ => none
def hereChange : TwinChange → Change
  | .field id n hi lo v => .field id n hi lo v
  | .bind n e t k d w => .bind n e t k d w
  | .unbind n e t k d => .unbind n e t k d
  | .remove n e => .remove n e

/-- The values that a tide has replaced stand again. -/
def State.restore (s : State) (undo : List (Nat × Nat × Word)) : State := undo.foldl (fun (s : State) u => s.setParam u.1 u.2.1 u.2.2) s

/-- A TIDE message goes to the standby (10 Table 10-8). -/
def State.tellTide (s : State) (name : Nat) (m : TideMsg) : State :=
  if s.mode.mode = .actv ∧ !s.lease.twinLost then s.emit (.tide name m) else s

/-- Put a tide on the list, named for an instant. -/
def State.addTide (s : State) (at_ : Nat) (changes : List Entry) (ctx : Option Nat) : State :=
  { s.tellTide s.tideCount (.announce at_ (changes.filterMap (fun e => e.change.forTwin))) with tides := s.tides ++ [{ name := s.tideCount, at_, changes, ctx }], tideCount := s.tideCount + 1 }

/-- The instant at which the device names a tide of its own (12 R383). -/
def State.deviceInstant (s : State) : Nat :=
  freeInstant (s.tides.map Tide.at_) (s.tides.length + 1) (s.master + tideAhead)

/-- Name a tide of the device's own. -/
def State.nameTide (s : State) (changes : List Change) : State :=
  s.addTide s.deviceInstant (changes.map (fun c => ⟨c, 0⟩)) none

/-- A tide is named that changes the mode. -/
def State.modeNamed (s : State) : Bool :=
  s.tides.any (fun t => t.changes.any (fun e => match e.change with | .mode _ _ => true | _ => false))

/-- Name the tide of a mode transition, unless one is named already. -/
def State.nameMode (s : State) (m : Mode) (cause : Nat) : State :=
  if s.modeNamed then s else s.nameTide [.mode m cause]

/-- Record a change of mode (02 R45). -/
def State.setMode (s : State) (m : Mode) (cause : Nat) : State :=
  { s with mode := { s.mode with mode := m, prev := s.mode.mode, cause, stamp := s.master } }

/-- A tide that has swapped and whose outcome is open. -/
def Tide.passed (t : Tide) : Bool := decide (t.phase ≠ .named)

/-- Cancel the tides whose instant has not been reached: their APLS completes with MODE and the staged values are
discarded (02 R57; 12 R384). -/
def State.cancelTides (s : State) : State :=
  let gone := s.tides.filter (fun t => !t.passed)
  gone.foldl (fun s t =>
    match t.ctx with
    | some n => (if s.set.owner = some n then s.dropSet else s).finishLong n .mode (BitVec.ofNat 64 t.at_) [] false
    | none => s)
    { s with tides := s.tides.filter Tide.passed }

/-- Name the SAVE tide: 4 µs ahead, without the spacing (02 R57). -/
def State.nameSaveTide (s : State) : State :=
  match s.save.run with
  | some r => s.addTide (s.master + tideAhead) [⟨.mode .save (if r.warm then 0x0A else 0x07), 0⟩] none
  | none => s

/-- SAVE is named or entered. -/
def State.saveNamed (s : State) : Bool :=
  s.tides.any (fun t => t.changes.any (fun e => match e.change with | .mode .save _ => true | _ => false))

end Sys2Proof.Machine
end

