-- ==== Sys2Proof/Machine/Power.lean ====
section
/-! DEFINITION. The rail sequence and the timed shutdown of the supervisor (15 R449 to R465), and the start of the
device in STBY (02 R54). -/

namespace Sys2Proof.Machine

/-- `pwr.seq_len`, `pwr.off_gap` in ticks, and the words of step `k`, as the supervisor uses them. -/
def State.seqLen (s : State) : Nat := (s.pwrCfg 0).toNat
def State.offGap (s : State) : Nat := (s.pwrCfg 1).toNat * ms
def State.stepWord (s : State) (k : Nat) : Word := s.pwrCfg (0x20 + k)
def State.stepTimeout (s : State) (k : Nat) : Nat := fld (s.stepWord k) 63 48 * ms
def State.stepDelay (s : State) (k : Nat) : Nat := fld (s.stepWord k) 47 32 * 10 * us
def State.stepWindow (s : State) (k : Nat) : Nat := fld (s.stepWord k) 31 16 * us

/-- A channel that the step table switches: classes 0x2 to 0x5 (15 Table 15-2). -/
def State.switched (s : State) (i : Nat) : Bool := decide (2 ≤ s.chanClass i ∧ s.chanClass i ≤ 5)

/-- The channels that step `k` enables (15 R452). -/
def State.stepChans (s : State) (k : Nat) : List Nat :=
  (List.range 16).filter (fun i => s.switched i && decide (s.chanStep i = k))

/-- Set or clear the bits of a list of channels. -/
def setBits (w : BitVec 16) (cs : List Nat) : BitVec 16 := cs.foldl (fun a i => a ||| (1#16 <<< i)) w
def clearBits (w : BitVec 16) (cs : List Nat) : BitVec 16 := cs.foldl (fun a i => a &&& ~~~ (1#16 <<< i)) w

/-- Every power good of step `k` is high. -/
def State.stepGood (s : State) (k : Nat) : Bool := (s.stepChans k).all (fun i => s.pwr.pg.getLsbD i)

/-- The tiles of a mask. -/
def maskTiles (m : Nat) : List Nat := (List.range 8).filter (fun t => m.testBit t)

/-- DIMM supplies of channels `um` of tiles `ts` are off: DRAMUP clears, the tiles' timing banks become invalid and what
the channels' DRAM held is lost (05 Table 5-8; 06 R165; 15 R464). -/
def State.dramOff (s : State) (ts : List Nat) (um : Nat) : State :=
  let kept (k : Nat) : Bool := !(ts.contains (k / 2 ^ 42) && um.testBit (dfaChan (k % 2 ^ 42)))
  { s with pwr := { s.pwr with dramUp := ts.foldl (fun a t => a &&& ~~~ (1#8 <<< t)) s.pwr.dramUp },
           dram := s.dram.filter (fun c => kept c.1),
           poisoned := s.poisoned.filter (fun k => kept (k * 64)),
           chans := s.chans.map (fun p => (p.1, if ts.contains (p.1 / 4) then
             { p.2 with validL := false, validH := false, power := if um.testBit (p.1 % 4) then .off else p.2.power } else p.2)) }

/-- A flush that the NAND rails cut off is abandoned (15 R465). -/
def State.cutFlush (s : State) (ts : List Nat) : State :=
  let cut := ts.filter (fun t => (s.rt t).batch.isSome)
  let s := cut.foldl (fun s t => s.setRt t { s.rt t with batch := none, wanted := true }) s
  if cut.isEmpty then s
  else ({ s with pwr := { s.pwr with abandon := true } }).log 0 3 bPwr 1023 0x06 1 0

/-- Enables of channels fall in one PCLK cycle (15 R462, R464, R465). -/
def State.dropEnables (s : State) (cs : List Nat) : State :=
  let on := cs.filter (fun i => s.pwr.en.getLsbD i)
  let s1 := { s with pwr := { s.pwr with en := clearBits s.pwr.en on } }
  let s2 := on.foldl (fun s i => if s.chanClass i = 3 then s.dramOff (maskTiles (s.chanTmask i)) (s.chanUmask i) else s) s1
  on.foldl (fun s i => if s.chanClass i = 4 then s.cutFlush (maskTiles (s.chanTmask i)) else s) s2

/-- The highest step below `k` that has an enabled rail. -/
def State.enabledBelow (s : State) (k : Nat) : Option Nat :=
  ((List.range k).filter (fun j => (s.stepChans j).any (fun i => s.pwr.en.getLsbD i))).getLast?

/-- The device is in STBY: rails off, the mode and its cause recorded (02 R55; 15 R462). The time at which a fault
line that this device drives may be released runs on. -/
def State.enterStby (s : State) (cause : Nat) : State :=
  let s := if s.mode.mode = .stby then s else s.setMode .stby cause
  { s with pwr := { s.pwr with state := if s.pwr.state = SeqState.faulted then SeqState.faulted else .off, wanted := false, toRaise := false },
           save := { s.save with run := none, armed := none, pfwSince := none, pfwOff := none },
           mode := { s.mode with leaving := false, soloMain := false, recovery := false, warmReset := false } }

/-- One step of the shutdown: the enables of a step fall; after the last the device is in STBY (15 R462). -/
def State.shutStep (s : State) (k : Nat) : State :=
  let s := s.dropEnables (s.stepChans k)
  match s.enabledBelow k with
  | some j => { s with pwr := { s.pwr with offStep := j, offSince := s.clock } }
  | none => s.enterStby s.pwr.offCause

/-- Start the timed shutdown from the highest step with an enabled rail (15 R462). -/
def State.shutdown (s : State) (cause : Nat) : State :=
  let s := { s with pwr := { s.pwr with state := if s.pwr.state = SeqState.faulted then SeqState.faulted else .shutting, offCause := cause } }
  match s.enabledBelow 16 with
  | some k => s.shutStep k
  | none => s.enterStby cause

/-- A shutdown is under way. -/
def State.shutting (s : State) : Bool :=
  (decide (s.pwr.state = .shutting) || decide (s.pwr.state = .faulted)) && (s.enabledBelow 16).isSome

/-- SHUTDOWN_STEP (15 R462). -/
def execShutdownStep (s : State) : Run :=
  .next (if s.shutting && s.due s.pwr.offSince s.offGap then s.shutStep s.pwr.offStep else s)

/-- This device drives FAULT_L low (15 R461). -/
def State.assertFault (s : State) : State :=
  if s.pwr.faultOut then s else { s with pwr := { s.pwr with faultOut := true, faultSince := s.clock, faultIn := true } }

/-- FAULT_L_RELEASE (15 R461): once in STBY and at least 100 µs after asserting it. -/
def execFaultLRelease (s : State) : Run :=
  .next (if s.pwr.faultOut && decide (s.mode.mode = .stby) && !s.shutting && s.due s.pwr.faultSince (100 * us) then
    { s with pwr := { s.pwr with faultOut := false } } else s)

/-- A sequence fault (15 R455, R456): kind, channel; but for another device's fault it is logged, FAULT_L is asserted and automatic start is no
longer acted on. The rails shut off in reverse order. (DEDUCED, log 136.) -/
def State.seqFault (s : State) (kind ch : Nat) : State :=
  let s := { s.failedAt 3 with pwr := { s.pwr with faultKind := kind, faultCh := ch, state := .faulted } }
  let s := if kind = 4 then s
    else { (s.log 0 6 bPwr 1023 0x08 s.pwr.step (ch * 16 + kind)).assertFault with boot := { s.boot with autoBlock := true } }
  s.shutdown 0x10

/-- Restart the current step; the fourth restart is the chatter limit (15 R454). -/
def State.restartStep (s : State) (ch : Nat) : State :=
  if 3 < s.pwr.restarts + 1 then ({ s with pwr := { s.pwr with restarts := s.pwr.restarts + 1 } }).seqFault 2 ch
  else { s with pwr := { s.pwr with restarts := s.pwr.restarts + 1, phase := .wait, since := s.clock } }

/-- The effect on the sequence of a new accepted level of power good `i` (15 R454). -/
def State.seqPg (s : State) (i : Nat) (high : Bool) : State :=
  if s.pwr.state ≠ .sequencing ∨ s.pwr.toRaise then s
  else if high then
    if s.pwr.phase = .wait && s.stepGood s.pwr.step then { s with pwr := { s.pwr with phase := .window, since := s.clock } } else s
  else if !s.switched i then s
  else if s.chanStep i < s.pwr.step then s.seqFault 5 i
  else if s.chanStep i = s.pwr.step ∧ s.pwr.phase ≠ .wait then s.restartStep i
  else s

/-- RAIL_STEP_START (15 R454): the enables of the current step are raised, once FAULT_L is high. -/
def execRailStepStart (s : State) : Run :=
  .next (if s.pwr.state = .sequencing ∧ s.pwr.toRaise ∧ !s.pwr.faultIn then
    let s := { s with pwr := { s.pwr with en := setBits s.pwr.en (s.stepChans s.pwr.step), toRaise := false, restarts := 0,
                                          phase := .wait, since := s.clock } }
    if s.stepGood s.pwr.step then { s with pwr := { s.pwr with phase := .window } } else s
  else s)

/-- STEP_WINDOW_END (15 R454). -/
def execStepWindowEnd (s : State) : Run :=
  .next (if s.pwr.state = .sequencing ∧ !s.pwr.toRaise ∧ s.pwr.phase = .window ∧ s.due s.pwr.since (s.stepWindow s.pwr.step) then
    { s with pwr := { s.pwr with phase := .delay, since := s.clock } } else s)

/-- DRAMUP once the steps up to `k` are complete: a tile each of whose class 0x3 rails has been brought up (15 R464). -/
def State.dramUpNow (s : State) (k : Nat) : BitVec 8 :=
  s.tileList.foldl (fun a t =>
    let rails := (List.range 16).filter (fun i => decide (s.chanClass i = 3) && (s.chanTmask i).testBit t)
    if !rails.isEmpty && rails.all (fun i => decide (s.chanStep i ≤ k) && s.pwr.pg.getLsbD i) then a ||| (1#8 <<< t) else a) 0

/-- STEP_DELAY_END (15 R454, R464): the next step, or the end of the sequence, when the tiles leave reset. -/
def execStepDelayEnd (s : State) : Run :=
  .next (if s.pwr.state = .sequencing ∧ !s.pwr.toRaise ∧ s.pwr.phase = .delay ∧ s.due s.pwr.since (s.stepDelay s.pwr.step) then
    let s := { s with pwr := { s.pwr with dramUp := s.dramUpNow s.pwr.step } }
    if s.pwr.step + 1 < s.seqLen then { s with pwr := { s.pwr with step := s.pwr.step + 1, toRaise := true, restarts := 0 } }
    else { s with pwr := { s.pwr with state := .running }, boot := { s.boot with done := insertNat 3 s.boot.done } }
  else s)

/-- STEP_TIMEOUT (15 R454): the power goods of the step are not all high within TIMEOUT. -/
def execStepTimeout (s : State) : Run :=
  .next (if s.pwr.state = .sequencing ∧ !s.pwr.toRaise ∧ s.pwr.phase = .wait ∧ s.due s.pwr.since (s.stepTimeout s.pwr.step) then
    s.seqFault 1 (((s.stepChans s.pwr.step).find? (fun i => !s.pwr.pg.getLsbD i)).getD 0)
  else s)

/-- The debounce of a power good, or of BBU_OK as input 16, in ticks (15 R450). -/
def State.debounce (s : State) (i : Nat) : Nat :=
  if i < 16 ∧ s.chanClass i ≠ 0 then fld (s.chanWord i) 23 16 * us else 10 * us

/-- The filter of PFW_L and FAULT_L: 16 PCLK, 0.5 µs. -/
abbrev pwrFilter := 2000

end Sys2Proof.Machine
end

