-- ==== Sys2Proof/Machine/Aes.lean ====
section
/-! DEFINITION. The modes of the cipher cluster (14 R429): AES-256, XTS-AES-256, AES-GCM-256 with 96-bit nonces and
128-bit tags, and AES key wrap with padding, as IEEE 1619, SP 800-38D and SP 800-38F define them. -/

namespace Sys2Proof.Machine

/-- Multiply by x in the field of AES. -/
def xtime (b : Byte) : Byte := (b <<< 1) ^^^ (if b.getLsbD 7 then 0x1B else 0)

/-- Multiply in the field of AES. -/
def gmul (a b : Byte) : Byte :=
  ((List.range 8).foldl (fun (p : Byte × Byte) i => ((if b.getLsbD i then p.1 ^^^ p.2 else p.1), xtime p.2)) (0, a)).1

/-- The inverse in the field of AES, as the power 254; 0 for 0. -/
def ginv (a : Byte) : Byte := ((List.range 7).foldl (fun (p : Byte × Byte) _ => (gmul p.1 (gmul p.2 p.2), gmul p.2 p.2)) (1, a)).1

/-- The S-box and its inverse. -/
def sbox (b : Byte) : Byte :=
  let x := ginv b
  x ^^^ x.rotateLeft 1 ^^^ x.rotateLeft 2 ^^^ x.rotateLeft 3 ^^^ x.rotateLeft 4 ^^^ 0x63
def sboxInv (b : Byte) : Byte := ginv (b.rotateLeft 1 ^^^ b.rotateLeft 3 ^^^ b.rotateLeft 6 ^^^ 0x05)

/-- XOR of byte lists. -/
def xorBytes (a b : List Byte) : List Byte := a.zipWith (· ^^^ ·) b

/-- The next word of the key schedule of AES-256, from the words so far in reverse order. -/
def nextKeyWord (i : Nat) (ws : List (List Byte)) : List Byte :=
  let prev := ws.headD []
  let t := if i % 8 = 0 then xorBytes ((prev.drop 1 ++ prev.take 1).map sbox)
              [(List.range (i / 8 - 1)).foldl (fun b _ => xtime b) 1, 0, 0, 0]
           else if i % 8 = 4 then prev.map sbox else prev
  xorBytes (ws.getD 7 []) t

/-- The 15 round keys of AES-256, each of 16 bytes. -/
def roundKeys (key : List Byte) : List (List Byte) :=
  let first := ((List.range 8).map (fun i => (key.drop (4 * i)).take 4)).reverse
  let ws := ((List.range 52).foldl (fun ws k => nextKeyWord (8 + k) ws :: ws) first).reverse
  (List.range 15).map (fun r => ((ws.drop (4 * r)).take 4).flatten)

/-- Rotate row `r` of the state left by `r · k` columns; the state is held column by column. -/
def shiftRows (k : Nat) (st : List Byte) : List Byte :=
  (List.range 16).map (fun i => st.getD ((4 * ((i / 4 + k * (i % 4)) % 4)) + i % 4) 0)

/-- Multiply each column by a circulant matrix. -/
def mixColumns (a b c d : Byte) (st : List Byte) : List Byte :=
  (List.range 16).map (fun i =>
    let x := fun j => st.getD (4 * (i / 4) + (i + j) % 4) 0
    gmul a (x 0) ^^^ gmul b (x 1) ^^^ gmul c (x 2) ^^^ gmul d (x 3))

/-- AES-256 on one block under a key schedule. -/
def aesEnc (rk : List (List Byte)) (blk : List Byte) : List Byte :=
  let st := (List.range 13).foldl (fun st r =>
    xorBytes (mixColumns 2 3 1 1 (shiftRows 1 (st.map sbox))) (rk.getD (r + 1) [])) (xorBytes blk (rk.getD 0 []))
  xorBytes (shiftRows 1 (st.map sbox)) (rk.getD 14 [])

def aesDec (rk : List (List Byte)) (blk : List Byte) : List Byte :=
  let st := (List.range 13).foldl (fun st r =>
    mixColumns 14 11 13 9 (xorBytes ((shiftRows 3 st).map sboxInv) (rk.getD (13 - r) []))) (xorBytes blk (rk.getD 14 []))
  xorBytes ((shiftRows 3 st).map sboxInv) (rk.getD 0 [])

/-- The bytes of a 256-bit key, and a number as little-endian or big-endian bytes. -/
def leBytes (n v : Nat) : List Byte := (List.range n).map (fun i => BitVec.ofNat 8 (v / 256 ^ i))
def beBytes (n v : Nat) : List Byte := (leBytes n v).reverse
def ofBe (l : List Byte) : Nat := l.foldl (fun a b => a * 256 + b.toNat) 0
def ofLe (l : List Byte) : Nat := ofBe l.reverse

/-- Cut a list into blocks of `n`. -/
def blocksOf (n : Nat) (l : List Byte) : List (List Byte) :=
  (List.range (l.length / n)).map (fun i => (l.drop (n * i)).take n)

/-- Multiply an XTS tweak by α. -/
def xtsNext (t : List Byte) : List Byte :=
  let v := ofLe t * 2
  leBytes 16 (if 2 ^ 128 ≤ v then (v - 2 ^ 128) ^^^ 0x87 else v)

/-- XTS on a data unit of whole blocks: data key, tweak key, tweak number. -/
def xts (enc : Bool) (k1 k2 : BitVec 256) (tweak : Nat) (d : List Byte) : List Byte :=
  let rk := roundKeys (leBytes 32 k1.toNat)
  let t0 := aesEnc (roundKeys (leBytes 32 k2.toNat)) (leBytes 16 tweak)
  ((blocksOf 16 d).foldl (fun (p : List (List Byte) × List Byte) b =>
    let x := xorBytes b p.2
    ((xorBytes (if enc then aesEnc rk x else aesDec rk x) p.2) :: p.1, xtsNext p.2)) ([], t0)).1.reverse.flatten

/-- Multiply in the field of GHASH; a block is a number whose most significant bit is the first bit. -/
def ghMul (x y : Nat) : Nat :=
  ((List.range 128).foldl (fun (p : Nat × Nat) i =>
    (if x.testBit (127 - i) then p.1 ^^^ p.2 else p.1,
     if p.2 % 2 = 1 then (p.2 / 2) ^^^ (0xE1 * 2 ^ 120) else p.2 / 2)) (0, y)).1

/-- GHASH of whole blocks, and a byte list padded to whole blocks. -/
def pad16 (l : List Byte) : List Byte := l ++ List.replicate ((16 - l.length % 16) % 16) 0
def ghash (h : Nat) (l : List Byte) : Nat := (blocksOf 16 l).foldl (fun a b => ghMul (a ^^^ ofBe b) h) 0

/-- GCM: the data enciphered (or deciphered) and the tag over additional data and ciphertext. -/
def gcmCtr (rk : List (List Byte)) (nonce : List Byte) (d : List Byte) : List Byte :=
  let n := (d.length + 15) / 16
  xorBytes d ((List.range n).map (fun i => aesEnc rk (nonce ++ beBytes 4 (i + 2)))).flatten
def gcmTag (rk : List (List Byte)) (nonce aad c : List Byte) : List Byte :=
  let h := ofBe (aesEnc rk (List.replicate 16 0))
  let s := ghash h (pad16 aad ++ pad16 c ++ beBytes 8 (8 * aad.length) ++ beBytes 8 (8 * c.length))
  xorBytes (beBytes 16 s) (aesEnc rk (nonce ++ beBytes 4 1))
def gcmEnc (key : BitVec 256) (nonce aad d : List Byte) : List Byte × List Byte :=
  let rk := roundKeys (leBytes 32 key.toNat)
  let c := gcmCtr rk nonce d
  (c, gcmTag rk nonce aad c)
def gcmDec (key : BitVec 256) (nonce aad c tag : List Byte) : Option (List Byte) :=
  let rk := roundKeys (leBytes 32 key.toNat)
  if gcmTag rk nonce aad c = tag then some (gcmCtr rk nonce c) else none

/-- The wrapping and unwrapping functions W and W⁻¹ of key wrap, over semiblocks of 8 bytes. -/
def kwWrap (rk : List (List Byte)) (a : List Byte) (r : List (List Byte)) : List Byte × List (List Byte) :=
  let n := r.length
  (List.range (6 * n)).foldl (fun (p : List Byte × List (List Byte)) j =>
    let b := aesEnc rk (p.1 ++ p.2.getD (j % n) [])
    (xorBytes (b.take 8) (beBytes 8 (j + 1)), p.2.set (j % n) (b.drop 8))) (a, r)
def kwUnwrap (rk : List (List Byte)) (a : List Byte) (r : List (List Byte)) : List Byte × List (List Byte) :=
  let n := r.length
  (List.range (6 * n)).foldl (fun (p : List Byte × List (List Byte)) i =>
    let j := 6 * n - 1 - i
    let b := aesDec rk (xorBytes p.1 (beBytes 8 (j + 1)) ++ p.2.getD (j % n) [])
    (b.take 8, p.2.set (j % n) (b.drop 8))) (a, r)

/-- Key wrap with padding of at least nine bytes, and its inverse with the integrity check. -/
def kwpWrap (key : BitVec 256) (d : List Byte) : List Byte :=
  let p := d ++ List.replicate ((8 - d.length % 8) % 8) 0
  let (a, r) := kwWrap (roundKeys (leBytes 32 key.toNat)) ([0xA6, 0x59, 0x59, 0xA6] ++ beBytes 4 d.length) (blocksOf 8 p)
  a ++ r.flatten
def kwpUnwrap (key : BitVec 256) (c : List Byte) : Option (List Byte) :=
  let (a, r) := kwUnwrap (roundKeys (leBytes 32 key.toNat)) (c.take 8) (blocksOf 8 (c.drop 8))
  let n := ofBe (a.drop 4)
  let p := r.flatten
  if a.take 4 = [0xA6, 0x59, 0x59, 0xA6] ∧ n ≤ p.length ∧ p.length < n + 8 ∧ (p.drop n).all (· == 0) then some (p.take n) else none

end Sys2Proof.Machine
end

