-- ==== Sys2Proof/Machine/CacheOps.lean ====
section
/-! DEFINITION. What the owning tile keeps of its lines: encryption in DRAM (14 R433, R434), the Tideline (08 R221 to
R233), the Eaves cache (04 R118 to R122) and the merge buffer (04 R126 to R129). -/

namespace Sys2Proof.Machine

/-- The device-physical address of a tile offset (01 R18). -/
def dpaOf (t off : Nat) : Nat := t * 2 ^ 43 + off

/-- The session and extent that hold a tile offset. -/
def State.extentAt (s : State) (t off : Nat) : Option (Nat × Nat) :=
  s.sessions.findSome? (fun p =>
    (p.2.exts.find? (fun e => e.2.defined && decide (e.2.dpa ≤ dpaOf t off ∧ dpaOf t off < e.2.dpa + e.2.len))).map (fun e => (p.1, e.1)))

/-- The even slot of the pair under which the line of a tile offset is encrypted in DRAM, if it is (14 R433). -/
def State.encSlot (s : State) (t off : Nat) : Option Nat :=
  match s.extentAt t off with
  | some (n, e) =>
    let w := s.param (pid bSess t (0x40 + e)) n
    if bit w 15 then some (fld w 12 0) else none
  | none => none

/-- The line as DRAM stores it, and as it is read back: XTS over the 64-byte line with the tweak DFA[41:6]. -/
def State.cipherLine (s : State) (enc : Bool) (t off a : Nat) (l : Line) : Line :=
  match s.encSlot t off with
  | some k => Line.ofBytes (xts enc (s.keySlot t k).key (s.keySlot t (k + 1)).key (a / 64) l.bytes)
  | none => l

/-- A unit of the inline class: one line of an encrypted extent (14 R430; 16 Table 16-6). -/
def State.inlineUnit (s : State) (t off : Nat) : State := if (s.encSlot t off).isSome then s.tally t 31 0x0001 {} else s

/-- Page of a DFA in the Tideline; dirty or not; room for a new dirty page (08 R221, R231). -/
def State.isDirty (s : State) (t a : Nat) : Bool := (s.tl t).dirty.contains (a / 4096)
def State.hasRoom (s : State) (t : Nat) : Bool :=
  if s.save.armed.isSome then decide (s.dirtyCount t * 4 < (s.tl t).eff * 256) else decide (s.dirtyCount t < (s.tl t).eff * 256)

/-- A mover may start a change of home (08 R232). -/
def State.moverRoom (s : State) (t : Nat) : Bool := decide (s.dirtyCount t < (s.tl t).eff * 256)

/-- The bitmap line of a DFA is in the bitmap cache of its tile (08 R222). -/
def State.bitmapHit (s : State) (t a : Nat) : Bool :=
  (Store.read (s.tl t).cache (a / 2 ^ 21 % 256) []).contains (a / 2 ^ 21)

/-- Bring a bitmap line into the cache: eight ways, least recently used. -/
def State.bitmapFill (s : State) (t a : Nat) : State :=
  let g := a / 2 ^ 21
  let l := (g :: (Store.read (s.tl t).cache (g % 256) []).filter (fun x => decide (x ≠ g))).take 8
  s.setTl t { s.tl t with cache := Store.write (s.tl t).cache (g % 256) l [] }

/-- Set the bit of a page; a page in the in-flight table becomes redirty (08 R222, R224). -/
def State.markPage (s : State) (t p : Nat) : State :=
  let x := s.tl t
  s.setTl t { x with dirty := insertNat p x.dirty, inflight := x.inflight.map (fun f => if f.page = p then { f with redirty := true } else f) }

/-- Clear the bit of a page. -/
def State.clearPage (s : State) (t p : Nat) : State :=
  s.setTl t { s.tl t with dirty := (s.tl t).dirty.filter (fun q => decide (q ≠ p)) }

/-- The Eaves set of a DFA, and the key of a way of it (04 R118). -/
def evSet (a : Nat) : Nat := (a / 2 ^ 6 % 2 ^ 17) ^^^ (a / 2 ^ 23 % 2 ^ 17)
def evKey (t set way : Nat) : Nat := (t * 2 ^ 17 + set) * 16 + way
def State.evLine (s : State) (k : Nat) : EvLine := Store.read s.eaves k {}
def State.setEv (s : State) (k : Nat) (x : EvLine) : State := { s with eaves := Store.write s.eaves k x {} }

/-- The key of the way that holds a line for a session, whose ID is part of the tag; a lookup hits in any way (04 R118, R121). -/
def State.evFind (s : State) (t a n : Nat) : Option Nat :=
  ((List.range 16).map (evKey t (evSet a))).find? (fun k =>
    (s.evLine k).valid && decide ((s.evLine k).dfa = a / 64 * 64 ∧ (s.evLine k).sess = n))

/-- The key of a way that holds a line, whichever session's it is: a dirty copy before a clean one. -/
def State.evAny (s : State) (t a : Nat) : Option Nat :=
  let here := fun (k : Nat) => (s.evLine k).valid && decide ((s.evLine k).dfa = a / 64 * 64)
  match ((List.range 16).map (evKey t (evSet a))).find? (fun k => here k && (s.evLine k).dirty) with
  | some k => some k
  | none => ((List.range 16).map (evKey t (evSet a))).find? here

/-- Invalidate every copy of a line in Eaves. -/
def State.evDropAll (s : State) (t a : Nat) : State :=
  (((List.range 16).map (evKey t (evSet a))).filter (fun k =>
    (s.evLine k).valid && decide ((s.evLine k).dfa = a / 64 * 64))).foldl (fun (s : State) k => s.setEv k {}) s

/-- The ways that a session may allocate into: its own, or those that no session of the tile holds (04 R121). -/
def State.waysTaken (s : State) (t : Nat) : Nat :=
  s.sessions.foldl (fun a p => a ||| (Store.read p.2.resv t {}).wayMask) 0
def State.waysOf (s : State) (t n : Nat) : List Nat :=
  let own := (Store.read (s.sess n).resv t {}).wayMask
  (List.range 16).filter (fun w => if own = 0 then !(s.waysTaken t).testBit w else own.testBit w)

/-- Tree pseudo-LRU over 16 ways: node 1 is the root, bit n of the tree says that the right half of node n is older. -/
def plruPoint (tree way : Nat) : Nat :=
  (List.range 4).foldl (fun tr d =>
    let node := 2 ^ d + way / 2 ^ (4 - d)
    let right := (way / 2 ^ (3 - d)) % 2 = 1
    if right then tr - (if tr.testBit node then 2 ^ node else 0) else tr ||| 2 ^ node) tree

/-- The way that the tree chooses among those allowed. -/
def plruPick (tree : Nat) (ok : List Nat) : Nat :=
  (List.range 4).foldl (fun pre d =>
    let node := 2 ^ d + pre
    let has := fun half => ok.any (fun w => decide (w / 2 ^ (3 - d) = 2 * pre + half))
    let want := if tree.testBit node then 1 else 0
    2 * pre + (if has want then want else 1 - want)) 0

/-- A way is used. -/
def State.touchWay (s : State) (k : Nat) : State :=
  { s with plru := Store.write s.plru (k / 16) (plruPoint (Store.read s.plru (k / 16) 0) (k % 16)) 0 }

/-- Stores to the group of lines that the conversion lap is converting wait (07 R190): the group of the channel at
its boundary pointer, while the lap has read it. -/
def State.converting (s : State) (t a : Nat) : Bool :=
  let x := s.ic t (dfaChan a)
  x.lapRun && !x.convDone && decide (x.lapStart = 1) && decide (a / 16384 = x.convPtr / 16384)

/-- A page has lines in a group that the conversion lap holds. -/
def State.pageConverting (s : State) (t page : Nat) : Bool := (List.range 4).any (fun c => s.converting t (page * 4096 + 128 * c))

/-- A write of a line would have to wait: its write queue is full, or the conversion lap holds its group (04 R120; 05 R153; 07 R190). -/
def State.writeWaits (s : State) (t a : Nat) : Bool := !s.lineFenced t a && (s.wqFull t a || s.converting t a)

/-- Clean a line of Eaves into its write queue, carrying its PEND (04 R120). A full queue first issues a write, for which the cleaning
waits. A line that was dirty and poisoned is from then on in DRAM alone, as Table 4-7 has no clean poisoned state. The scheduler issues
nothing to a fenced unit, so a dirty line of one has nowhere to go: R217 reloads it. (DESIGN CHOICE, log 115.) -/
def State.cleanWay (s : State) (k : Nat) : State :=
  let t := k / 2 ^ 21
  let e := s.evLine k
  if e.valid && e.dirty then
    if s.lineFenced t e.dfa then s.setEv k {}
    else
      let s := if s.wqFull t e.dfa then s.issueWrite (subKey t e.dfa) else s
      ((s.inlineUnit t e.off).queueWrite t e.dfa (s.cipherLine true t e.off e.dfa e.data) e.poison e.pend).setEv k
        (if e.poison then {} else { e with dirty := false, pend := 0 })
  else s

/-- Invalidate a way. A line evicted with PF still set is a wasted prefetch (04 R124). -/
def State.dropWay (s : State) (k : Nat) : State :=
  let s' := if (s.evLine k).valid && (s.evLine k).pf then s.tally (k / 2 ^ 21) (2 + k / 16 % 16 / 8) 0x0003 {} else s
  s'.setEv k {}

/-- The way that an allocation for a session takes: an invalid one of those it may use, or the one that the tree names (04 R121). -/
def State.evVictim (s : State) (t a n : Nat) : Nat :=
  match ((s.waysOf t n).map (evKey t (evSet a))).find? (fun k => !(s.evLine k).valid) with
  | some k => k
  | none => evKey t (evSet a) (plruPick (Store.read s.plru (t * 2 ^ 17 + evSet a) 0) (s.waysOf t n))

/-- An allocation waits with its eviction, while the victim is dirty and its write has to wait (04 R120). -/
def State.evBlocked (s : State) (t a n : Nat) : Bool :=
  let e := s.evLine (s.evVictim t a n)
  e.valid && e.dirty && s.writeWaits t e.dfa

/-- Allocate a line for a session; the way it takes, with a dirty victim evicted (04 R121, R122). -/
def State.evAlloc (s : State) (t a off n : Nat) : Nat × State :=
  let k := s.evVictim t a n
  let s := ((s.cleanWay k).dropWay k).touchWay k
  (k, s.setEv k { valid := true, dfa := a / 64 * 64, off := off / 64 * 64, sess := n })

/-- The merge-buffer entry of a line (04 R126). -/
def State.mergeOf (s : State) (t off : Nat) : Option Merge :=
  (s.pt t).merge.find? (fun m => decide (m.off = off / 64 * 64))

/-- Replace, add or free the merge-buffer entry of a line; the full condition clears at 496 entries (04 R129). -/
def State.setMerge (s : State) (t : Nat) (m : Merge) : State :=
  let x := s.pt t
  let l := if x.merge.any (fun e => decide (e.off = m.off)) then replaceFirst (fun e => decide (e.off = m.off)) (fun _ => m) x.merge
           else x.merge ++ [m]
  s.setPt t { x with merge := l, mergeFull := x.mergeFull || decide (512 ≤ l.length) }
def State.freeMerge (s : State) (t off : Nat) : State :=
  let x := s.pt t
  let l := x.merge.filter (fun e => decide (e.off ≠ off / 64 * 64))
  s.setPt t { x with merge := l, mergeFull := x.mergeFull && decide (496 < l.length) }

/-- Write a whole entry to the write queue of its line and free it (04 R128). A poisoned entry stays poisoned. -/
def State.mergeOut (s : State) (t : Nat) (m : Merge) (base : Line) (p : Bool) : State :=
  let l := Line.overlay base m.data m.mask
  let s := if s.wqFull t m.dfa then s.issueWrite (subKey t m.dfa) else s
  ((s.inlineUnit t m.off).queueWrite t m.dfa (s.cipherLine true t m.off m.dfa l) (m.poison || (p && decide (m.mask ≠ Mask.full))) m.pend).freeMerge t m.off

/-- The line that the owning tile holds in DRAM and write queues, in plaintext, and whether it is poisoned. -/
def State.plain (s : State) (t off a : Nat) : Line × Bool :=
  let (l, p) := s.stored t a
  (s.cipherLine false t off a l, p)

/-- The newest content of a line of local DRAM: Eaves, merge buffer, write queue, DRAM (04 R130). -/
def State.newest (s : State) (t off a : Nat) : Line × Bool :=
  match s.evAny t a with
  | some k => ((s.evLine k).data, (s.evLine k).poison)
  | none =>
    let (l, p) := s.plain t off a
    match s.mergeOf t off with
    | some m => (Line.overlay l m.data m.mask, m.poison || (p && decide (m.mask ≠ Mask.full)))
    | none => (l, p)

/-- Put a line of local DRAM in its newest place at once, as a full-line write that bypasses Eaves: the old copies in
Eaves and the merge buffer go, and the line enters the write queue. -/
def State.placeQuiet (s : State) (t off a : Nat) (l : Line) (p : Bool) : State :=
  let s := (s.evDropAll t a).freeMerge t off
  let s := if s.wqFull t a then s.issueWrite (subKey t a) else s
  (s.inlineUnit t off).queueWrite t a (s.cipherLine true t off a l) p 0

/-- The dirty Eaves lines of a range of DFA on a tile, by key. -/
def State.evIn (s : State) (t lo hi : Nat) : List Nat :=
  (s.eaves.filter (fun p => decide (p.1 / 2 ^ 21 = t) && p.2.valid && decide (lo ≤ p.2.dfa ∧ p.2.dfa < hi))).map Prod.fst

/-- Clean every dirty Eaves line of a range and write out every merge-buffer entry of it (08 R224; 04 R128). -/
def State.cleanRange (s : State) (t lo hi : Nat) : State :=
  let s := (s.evIn t lo hi).foldl State.cleanWay s
  ((s.pt t).merge.filter (fun m => decide (lo ≤ m.dfa ∧ m.dfa < hi))).foldl
    (fun s m => let (l, p) := s.plain t m.off m.dfa; s.mergeOut t m l p) s

/-- A store to a line is acknowledged: the oldest copy that counts it, in write queue, merge buffer or Eaves, counts one less (04 R131). -/
def State.decPend (s : State) (t off a : Nat) : State :=
  let k := subKey t a
  if (s.wqOf k).any (fun e => decide (e.dfa = a / 64 * 64 ∧ 0 < e.pend)) then
    s.setWq k (replaceFirst (fun e => decide (e.dfa = a / 64 * 64 ∧ 0 < e.pend)) (fun e => { e with pend := e.pend - 1 }) (s.wqOf k))
  else
    match s.mergeOf t off, s.evAny t a with
    | some m, w =>
      if 0 < m.pend then s.setMerge t { m with pend := m.pend - 1 }
      else match w with | some k => s.setEv k { s.evLine k with pend := (s.evLine k).pend - 1 } | none => s
    | none, some k => s.setEv k { s.evLine k with pend := (s.evLine k).pend - 1 }
    | none, none => s

end Sys2Proof.Machine
end

