-- ==== Sys2Proof/Machine/MirOps.lean ====
section
/-! DEFINITION. Mirror frames as operations: their words and bytes, the digest register, sequence numbers and window
slots, and whether the twin is in service (10 R298 to R304, R313, R324, R327). -/

namespace Sys2Proof.Machine

/-- A frame of several words, by kind, as the wire carries its data after the descriptor (10 Table 10-4). -/
def Frame.bytes (f : Frame) : List Byte :=
  match f.fk with
  | 0 => f.data.bytes
  | 1 => wordBytes f.mask ++ f.data.bytes
  | 4 => f.data.bytes
  | 6 => wordBytes f.poison ++ (f.page.map Line.bytes).flatten
  | _ => []

/-- Data credits of 64 bytes that a frame takes (10 R304). -/
def Frame.units (f : Frame) : Nat := max 1 ((8 + f.bytes.length + 63) / 64)

/-- The descriptor of a frame under the Tidemark base of its message (10 Table 10-3). -/
def Frame.desc (f : Frame) (tm0 : Nat) : Word :=
  word [(0, f.fk), (3, f.tm - tm0), (15, f.sess),
    (27, if f.fk = 6 then f.off / 4096 * 64 else f.off / 64)]

/-- Take a frame into a digest register (10 R313). -/
def digestAdd (r : Word) (t : Nat) (f : Frame) : Word :=
  (wordBytes (BitVec.ofNat 64 f.tm) ++ wordBytes (word [(0, dpaOf t f.off), (56, f.fk)]) ++ f.bytes).foldl crc64Byte r

/-- The operand block of an atomic frame: operands, old value, operation, size and offset (10 Table 10-4). -/
def atomicBlock (op size at_ : Nat) (a b old : BitVec 128) : Line :=
  (a.setWidth 512) ||| ((b.setWidth 512) <<< 128) ||| ((old.setWidth 512) <<< 256)
    ||| (BitVec.ofNat 512 op <<< 384) ||| (BitVec.ofNat 512 size <<< 392) ||| (BitVec.ofNat 512 at_ <<< 400)

def State.twinUp (s : State) : Bool :=
  !s.lease.twinLost && s.liveTiles.any (fun t => s.pathUp t 0 || s.pathUp t 1)

/-- The tiles at most `k` UCIe links away from a tile (01 R14). -/
def State.within (s : State) (t : Nat) : Nat → List Nat
  | 0 => [t]
  | k + 1 => ((s.within t k).map s.meshNext).flatten.foldl (fun x u => insertNat u x) (s.within t k)

/-- A path of a tile's Isahar link is up. -/
def State.linkUp (s : State) (t : Nat) : Bool := s.pathUp t 0 || s.pathUp t 1

/-- The tile whose Isahar link carries what a tile sends to its twin: its own, or, once both paths of that are fenced, another that it reaches
over the mesh (01 R17): the nearest whose link is up, the lowest number among equals. (DESIGN CHOICE, log 126.) -/
def State.carrier (s : State) (t : Nat) : Option Nat :=
  if s.linkUp t then some t
  else if s.fenced 0x8 0 t && s.fenced 0x8 1 t && !s.tileFenced t then
    (List.range 7).findSome? (fun k => (s.within t k).find? s.linkUp)
  else none

/-- Lines can be fetched from the twin: on the active unit, from a twin in MIRS; on the standby, from the active unit. (DEDUCED, log 50.) -/
def State.twinServes (s : State) : Bool :=
  s.twinUp && (decide (s.mode.mode = .actv ∨ s.mode.mode = .mirs) || (s.lease.twinMirs && decide (s.mode.mode = .solo ∨ s.mode.mode = .rstr)))

/-- The tile sends a live frame for every store it takes: in ACTV; in RSTR and SOLO once its resync sends pages (10
R327). -/
def State.sendsFrames (s : State) (t : Nat) : Bool :=
  decide (s.mode.mode = .actv) ||
    (decide (s.mode.mode = .rstr ∨ s.mode.mode = .solo) && s.twinUp &&
      ((s.mt t).synced || (match (s.mt t).resync with | some r => r.started | none => false)))

/-- The next slot of the window is taken (10 R304). -/
def MirTile.windowFull (x : MirTile) : Bool := x.slots.any (fun sl => decide (sl.frame.seq % 8192 = x.seq % 8192))

/-- The digest register as the first frame of an epoch finds it: all ones (10 R313). -/
def MirTile.digestFor (x : MirTile) (epoch : Nat) : Word := if x.dEpoch = epoch then x.digest else BitVec.allOnes 64

/-- Assign the next sequence number to a frame and start it: it takes its slot and enters the digest (10 R302, R313).
Sequence numbers wrap at 2⁴⁸. (DESIGN CHOICE, log 62.) -/
def State.assignFrame (s : State) (t : Nat) (mk : Nat → Frame) (resync : Bool) : State :=
  let x := s.mt t
  let f := mk x.seq
  s.setMt t { x with seq := (x.seq + 1) % 2 ^ 48, slots := x.slots ++ [{ frame := f, resync }], digest := digestAdd (x.digestFor f.epoch) t f, dEpoch := f.epoch, lastTm := f.tm }

/-- The sequence of the last frame assigned. -/
def MirTile.lastSeq (x : MirTile) : Nat := (x.seq + (2 ^ 48 - 1)) % 2 ^ 48

/-- S is at or below A, modulo 2⁴⁸ (10 R300). -/
def seqLe (a b : Nat) : Bool := decide ((b + 2 ^ 48 - a) % 2 ^ 48 < 2 ^ 47)

/-! ### Nonces, and the encryption of messages (14 R436, R442 to R444) -/

/-- The next nonce of a source on a tile, as 12 bytes, with the counter moved (14 R442, R443). -/
def State.nextCount (s : State) (t src : Nat) : Nat := max (Store.read s.nonces (4 * t + src) 0 + 1) (s.localCount t)
def State.nonceBytes (s : State) (t src c : Nat) : List Byte := beBytes 4 (fld (s.fuseWord 4) 47 24 * 256 + t * 32 + src) ++ beBytes 8 c
def State.issueNonce (s : State) (t src : Nat) : List Byte × State :=
  let c := s.nextCount t src
  (s.nonceBytes t src c, { s with nonces := Store.write s.nonces (4 * t + src) c 0 })

/-- A GCM key slot counts an encryption; at 2⁴⁸ it refuses, with an event (14 R444). -/
def State.countEnc (s : State) (t slot : Nat) : Bool × State :=
  let k := s.keySlot t slot
  if 2 ^ 48 ≤ k.encs then (false, s.log t 5 bCiph t 0x07 0x50 slot) else (true, s.setKey t slot { k with encs := k.encs + 1 })

/-- GCM under a slot with a nonce of the hardware: nonce, ciphertext and tag. -/
def State.gcmSeal (s : State) (t src slot : Nat) (aad d : List Byte) : Option (List Byte × List Byte × List Byte) × State :=
  if (s.keySlot t slot).usage ≠ 4 then (none, s)
  else
    match s.countEnc t slot with
    | (false, s) => (none, s)
    | (true, s) =>
      let (n, s) := s.issueNonce t src
      let (c, g) := gcmEnc (s.keySlot t slot).key n aad d
      let s := (List.range ((d.length + 63) / 64)).foldl (fun (s : State) _ => s.tally t 31 0x0002 {}) s
      (some (n, c, g), s)

/-- Bytes as words, little-endian, eight at a time. -/
def wordsOf : Nat → List Byte → List Word
  | 0, _ => []
  | n + 1, l => if l.isEmpty then [] else wordOfBytes (l.take 8) :: wordsOf n (l.drop 8)

/-- A message body as the link carries it: with `ciph.twin_gcm` in force on the tile its first `clear` bytes stay as AAD, the rest is
encrypted under slot 12, and nonce and tag follow; none when the slot encrypts no more (14 R436, R444). -/
def State.sealBody (s : State) (t clear : Nat) (b : List Byte) : Option (List Byte) × State :=
  if (s.mt t).gcm then
    match s.gcmSeal t 1 12 (b.take clear) (b.drop clear) with
    | (some (n, c, g), s) => (some (b.take clear ++ c ++ n ++ g), s)
    | (none, s) => (none, s)
  else (some b, s)

/-! ### Key blobs (14 R439) -/

/-- The plaintext of a blob: its first word and the key (14 Table 14-5). -/
def blobPlain (b : List Byte) : Word × BitVec 256 := (wordOfBytes (b.take 8), BitVec.ofNat 256 (ofLe (b.drop 8)))

/-- What an unwrapped blob puts into a slot of a tile; none where R439 refuses it. -/
def State.blobKey (s : State) (n t slot pl : Nat) (blob : List Word) (plain : List Byte) : Option KeySlot :=
  let (w, key) := blobPlain plain
  let usage := fld w 63 56
  let even := s.keySlot t (slot / 2 * 2)
  if plain.length ≠ 40 ∨ usage = 0 ∨ 4 < usage ∨ (usage = 2 ∧ slot % 2 = 1) ∨ (usage = 3 ∧ slot % 2 = 0)
      ∨ (usage = 3 ∧ even.usage = 2 ∧ even.key = key) ∨ (bit w 52 ∧ 2 ≤ pl ∧ fld w 51 40 ≠ n) then none
  else some { usage, key, sealOk := bit w 55, isScoped := bit w 52, sess := if bit w 52 then fld w 51 40 else 0, gen := fld w 15 0,
              installs := ((s.keySlot t slot).installs + 1) % 65536, blob := if bit w 52 then blob else [] }

/-! ### Messages of the Isahar link (10 R297, R298, R309) -/

/-- Types of the messages of each channel as this model names them in its outputs (10 Table 10-8). -/
abbrev xData := 0x44
abbrev xReceipt := 0x52
abbrev xNak := 0x4E
abbrev xCkpt := 0x43
abbrev xCkok := 0x4F
abbrev xCkbad := 0x42
abbrev xEpoch := 0x45
abbrev xLrq := 0x4C
abbrev xLrs := 0x4D
abbrev xTide := 0x54
abbrev xFence := 0x46
abbrev xRset := 0x73
abbrev xKey := 0x4B
abbrev xSummary := 0x59

/-- The channel of a message: data, receipt or command (10 R297). -/
def chanOf (type : Nat) : Nat := if type = xData ∨ type = xLrs then 0 else if type = xReceipt ∨ type = xNak then 1 else 2

/-- A MSGID is not to be used again: a frame of its message has no receipt yet, or 4 µs have not passed since a packet of it was last sent
(10 R309). -/
def State.msgBusy (s : State) (t : Nat) (m : OutMsg) : Bool :=
  !s.due m.sentAt (4 * us) || (s.mt t).slots.any (fun sl => !sl.ok && decide ((sl.frame.seq + 2 ^ 48 - m.seq0) % 2 ^ 48 < m.frames))

/-- The next MSGID of a channel that may be used. -/
def State.freeMsgid (s : State) (t chan : Nat) : Option Nat :=
  let x := s.mt t
  let n := Store.read x.msgids chan 0
  ((List.range (x.outMsgs.length + 1)).map (fun k => (n + k) % 65536)).find?
    (fun i => !x.outMsgs.any (fun m => decide (m.chan = chan ∧ m.msgid = i) && s.msgBusy t m))

/-- Send a message on the link of tile `c`: its body sealed, a MSGID of its channel, its digest; it is kept until its MSGID is used again, for a
NAK may ask for its packets (10 R298, R309). -/
def State.sendMsg (s : State) (c t type clear seq0 frames path : Nat) (b : List Byte) : State :=
  match s.sealBody t clear b with
  | (none, s) => s
  | (some b, s) =>
    match s.freeMsgid t (chanOf type) with
    | none => s
    | some i =>
      let x := s.mt t
      let p := b ++ wordBytes (crc64 b)
      let m : OutMsg := { chan := chanOf type, msgid := i, last := (p.length + 255) / 256 - 1, seq0, frames, sentAt := s.clock, onPath := path % 2 }
      (s.setMt t { x with msgids := Store.write x.msgids (chanOf type) ((i + 1) % 65536) 0,
                          outMsgs := x.outMsgs.filter (fun o => !decide (o.chan = chanOf type ∧ o.msgid = i)) ++ [m] }).emit (.isahar c t type i p)

/-- Send a message of the receipt or command channel, where a link carries it (01 R17). (DESIGN CHOICE, log 143.) -/
def State.isahar (s : State) (t type : Nat) (ws : List Word) : State :=
  match s.carrier t with
  | none => s
  | some c => s.sendMsg c t type 8 0 0 0 (ws.flatMap wordBytes)

/-- The words of LRQ (10 R312, Table 10-8). -/
def Lrq.words (q : Lrq) : List Word := [BitVec.ofNat 64 q.off, BitVec.ofNat 64 q.count, BitVec.ofNat 64 q.urgency, BitVec.ofNat 64 q.seqR]

/-- Ask the twin for consecutive lines (10 R312). -/
def State.sendLrq (s : State) (t off count : Nat) (why : LrqFor) (urgency : Nat) : State :=
  let x := s.mt t
  let q : Lrq := { off, count, seqR := if s.mode.mode = .mirs then x.received else x.lastSeq, why, urgency, sentAt := s.clock }
  (s.setMt t { x with lrqs := x.lrqs ++ [q] }).isahar t xLrq q.words

/-- Lease length of a request in µs (10 R318). -/
def State.leaseLen (s : State) : Nat := s.devP bMirr 3 * 1000

/-- Every tile of the pair is synced (10 R321, R328). -/
def State.allSynced (s : State) : Bool := s.tileList.all (fun t => (s.mt t).synced)

/-- No store is placed: the next slot of the tile's window is taken, or the deadline E has passed (10 R304, R319). -/
def State.placesNone (s : State) (t : Nat) : Bool := s.lease.expired || (s.sendsFrames t && (s.mt t).windowFull)

/-- The epoch in force, as a word. -/
def State.epoch (s : State) : Nat := s.lease.epoch

/-- A unit that serves under the lease: standalone units hold it without a witness (10 R293, R294, R319). -/
def State.leaseOk (s : State) : Bool := s.lease.held && !s.lease.expired

/-- CXL.mem reads are served (02 Table 2-1; 10 R319). -/
def State.servesReads (s : State) : Bool :=
  match s.mode.mode with
  | .actv => true
  | .solo => s.leaseOk
  | .rstr => s.boot.auth && s.leaseOk
  | _ => false

/-- The SOLO store policy accepts stores (10 R323). -/
def State.soloAccepts (s : State) : Bool := decide (s.devP bMirr 2 = 1)

/-- CXL.mem stores and atomics are served (02 Table 2-1, R551; 10 R323). -/
def State.servesStores (s : State) : Bool :=
  match s.mode.mode with
  | .actv => true
  | .solo => s.leaseOk && s.soloAccepts && !s.mode.soloMain
  | .rstr => s.boot.auth && s.leaseOk && s.soloAccepts
  | _ => false

/-- Every ingress is stopped: the lease deadline in ACTV, a receipt with status EPOCH, a handover, or leaving service. -/
def State.ingressStopped (s : State) : Bool :=
  s.lease.stopped || s.mode.leaving || (s.lease.expired && decide (s.mode.mode = .actv))

end Sys2Proof.Machine
end

