-- ==== Sys2Proof/Machine/Serve.lean ====
section
/-! DEFINITION. The service of one request at its owning tile: homes, holds, Eaves, merge buffer, write queue and
DRAM, the Tideline and the mirror frame of a store, and its answer (04; 08 R222, R231; 10 R302; 11 R332, R350). -/

namespace Sys2Proof.Machine

/-- Response codes: success; Completer Abort; CXL.mem error response; Unsupported Request; Configuration Request Retry
Status; Malformed TLP; Unsupported of the CXL mailbox. -/
abbrev rOk := 0
abbrev rAbort := 1
abbrev rError := 2
abbrev rUnsupported := 3
abbrev rRetry := 4
abbrev rMalformed := 5

/-- Owning tile and tile offset of a request (01 R18); two requests to one line. -/
def Req.owner (r : Req) : Nat := r.dpa / 2 ^ 43
def Req.toff (r : Req) : Nat := r.dpa % 2 ^ 43
def Req.sameLine (r q : Req) : Bool := decide (r.dpa / 64 = q.dpa / 64)
def Req.isRead (r : Req) : Bool := decide (r.kind = .read)
def Req.isStore (r : Req) : Bool := decide (r.kind = .store)
def Req.isAtomic (r : Req) : Bool := !r.isRead && !r.isStore
/-- A store of the whole line; a store with poison is one (03 R86). -/
def Req.wide (r : Req) : Bool := r.poison || decide (r.mask = Mask.full)
def Req.fromHost (r : Req) : Bool := match r.src with | .host _ => true | .ctx _ => false
def Req.via (r : Req) : Option Via := match r.src with | .host v => some v | .ctx _ => none

/-- The source unit of a request within its tile: the host port, for requests of the device's own mailboxes too, or the sequencers; and
the place of a request in the order of stamped events: stamp, tile, source unit, place within the unit (01 R36). -/
def Req.unit (r : Req) : Nat := match r.src with | .host _ => 0 | .ctx n => if n = noCtx then 0 else 3
def Req.key (r : Req) : Nat := ((r.stamp * 8 + r.tile % 8) * 8 + r.unit) * 65536 + r.order % 65536

/-- What a counter may filter a request by (16 R480). -/
def Req.attr (r : Req) : Attr :=
  { sess := some r.sess, tile := r.tile, link := if r.fromHost then some r.link else none, ld := if r.fromHost then some r.ld else none,
    pl := r.pl, dpa := some r.dpa, cls := some (if r.isRead then 0 else if r.isStore then 1 else 2) }

/-- Count an event of a request that it has at most once, and note that it has been counted. -/
def State.tallyOnce (s : State) (r : Req) (k t b ev : Nat) : State := if r.noted.contains k then s else s.tally t b ev r.attr
def Req.note (r : Req) (k : Nat) : Req := if r.noted.contains k then r else { r with noted := k :: r.noted }

/-- The latency target of a request in ns: the smaller of the session's, when that is not 0, and the link's for its class (04 R134). -/
def State.target (s : State) (tile link sess : Nat) : Nat :=
  let q := s.param (pid bSess 1023 3) sess
  let p := (s.param (pid bPort tile (0x40 + 4 * link + fld q 1 0)) 0).toNat
  if fld q 31 16 = 0 then p else min (fld q 31 16) p

/-- The age of a request at its owning tile, in ticks, and its urgency (04 R134, Table 4-9). -/
def State.age (s : State) (r : Req) : Nat := s.localCount r.owner - r.stamp
def State.urgency (s : State) (r : Req) : Nat := urgencyOf r.lat (s.age r)

/-- A request carries the QoS class of its session and its latency target (04 R134). -/
def State.withTarget (s : State) (r : Req) : Req :=
  { r with qos := fld (s.param (pid bSess 1023 3) r.sess) 1 0, lat := s.target r.tile r.link r.sess }

/-- Add to a counter of 48 bits of a session (11 R352). -/
def State.addStall (s : State) (sess t k n : Nat) : State :=
  let c := s.ctr (stallKey sess t k)
  s.setCtr (stallKey sess t k) { c with cnt := (c.cnt + n) % 2 ^ 48, ovf := c.ovf || decide (2 ^ 48 ≤ c.cnt + n) }

/-- Account the nanoseconds of a stall under its cause, and its end (11 R352). -/
def State.stallNs (s : State) (r : Req) (st : Option (Nat × Nat)) : State :=
  match st with | some (c, t0) => if s.pmc.frozen then s else s.addStall r.sess r.owner (8 + c) ((s.clock - t0) / 4) | none => s
def State.endStall (s : State) (r : Req) (st : Option (Nat × Nat)) : State :=
  match st with
  | some (c, _) => if s.pmc.frozen then s else (((s.stallNs r st).addStall r.sess r.owner c 1).tally r.owner (if c ≤ 2 then 21 else 20) 0x0002 r.attr).tally r.owner (if c ≤ 2 then 21 else 20) (0x0010 + c) r.attr
  | none => s

/-- Put a wait into the list, in the order of stamped events (01 R36; 03 R84). -/
def insertWait (w : Wait) : List Wait → List Wait
  | [] => [w]
  | v :: l => if w.req.key < v.req.key then w :: v :: l else v :: insertWait w l

/-- A request waits; a stall keeps its start while its cause stays. -/
def State.hold (s : State) (r : Req) (why : Why) (cause : Option Nat) (prev : Option (Nat × Nat)) : State :=
  match cause with
  | some c =>
    match prev with
    | some (c0, t0) =>
      if c0 = c then { s with waits := insertWait { req := r, why, since := s.clock, stall := some (c, t0) } s.waits }
      else { s.stallNs r prev with waits := insertWait { req := r, why, since := s.clock, stall := some (c, s.clock) } s.waits }
    | none => { s with waits := insertWait { req := r, why, since := s.clock, stall := some (c, s.clock) } s.waits }
  | none => { s.endStall r prev with waits := insertWait { req := r, why, since := s.clock } s.waits }

/-- A store of a context is acknowledged, or ends with an error (13 R399, R417). -/
def State.ctxStored (s : State) (n : Nat) (ok : Bool) (st : Status) : State :=
  match (s.ctx n).long with
  | some (_, .store1) => s.finishR n (if ok then .ok else st) 0
  | some (i, .zln se off left acked out) =>
    if !ok then
      ({ s with waits := s.waits.filter (fun w => decide (w.req.src ≠ Src.ctx n)) }).finishLong n st (BitVec.ofNat 64 acked)
        [BitVec.ofNat 64 acked] (decide (st = Status.stallto))
    else if out ≤ 1 ∧ left = 0 then s.finishR n .ok (BitVec.ofNat 64 (acked + 1))
    else s.setCtx n { s.ctx n with long := some (i, .zln se off left (acked + 1) (out - 1)) }
  | _ => s

/-- The urgencies that a host request has reached when it is answered (16 Table 16-6, block 37). (DEDUCED, log 109.) -/
def State.tallyUrgency (s : State) (r : Req) : State :=
  if r.fromHost then
    (List.range (s.urgency r + 1)).foldl (fun s u => s.tally r.owner 37 (1 + u) r.attr) s
  else s

/-- Answer a request. A write that spans lines is answered once, when its last part is (03 R85); a request answered
after its target is counted (04 R135). -/
def State.answer (s : State) (r : Req) (code : Nat) (data : Line) (poison : Bool) (st : Status) : State :=
  let s := if r.fromHost && decide (r.lat * 4 < s.age r) then
      s.tally r.owner 1 0x0002 r.attr else s
  let s := s.tallyUrgency r
  match r.src with
  | .ctx n => s.ctxStored n (decide (code = rOk)) st
  | .host _ =>
    match s.groups.find? (fun g => decide (g.tile = r.tile ∧ g.link = r.link ∧ g.tag = r.tag)) with
    | some g =>
      let rest := s.groups.filter (fun x => decide (x ≠ g))
      if g.left ≤ 1 then
        { s with groups := rest }.emit (.response r.tile r.link r.tag (if g.bad then rAbort else code) 0 false)
      else { s with groups := { g with left := g.left - 1, bad := g.bad || decide (code ≠ rOk) } :: rest }
    | none => s.emit (.response r.tile r.link r.tag code data poison)

/-- A home table entry (01 Table 1-5). -/
def State.homeEntry (s : State) (t p : Nat) : Word := Store.read s.home (t * 2 ^ 31 + p) 0
def State.setHome (s : State) (t p : Nat) (w : Word) : State := { s with home := Store.write s.home (t * 2 ^ 31 + p) w 0 }
def hKind (w : Word) : Nat := fld w 1 0
def hMoving (w : Word) : Bool := bit w 2
def hFrame (w : Word) : Nat := fld w 49 16
def hPeer (w : Word) : Nat := fld w 15 4

/-- Ask for a page to be brought home (11 Table 11-2); an access that waits raises a move already asked for. -/
def State.wantMove (s : State) (t p sess dest : Nat) (demand : Bool) : State :=
  let x := s.tt t
  if x.moves.any (fun m => decide (m.lpage = p)) then
    s.setTt t { x with moves := x.moves.map (fun m => if m.lpage = p then { m with demand := m.demand || demand } else m) }
  else s.setTt t { x with moves := x.moves ++ [{ lpage := p, sess, dest, demand }] }

/-- The kind of home of a page as accesses see it: an entry that names a lost or ended loan counts as flash only
(11 R348). -/
def State.homeKind (s : State) (t p : Nat) : Nat :=
  let w := s.homeEntry t p
  if hKind w = 2 then
    match s.loanOf t (hPeer w) with
    | some i => if (s.loan t i).state = 2 ∨ (s.loan t i).state = 4 then 2 else 3
    | none => 3
  else hKind w

/-- The page of a home is in the home TLB (04 R109); a hit makes it the most recent of its set. -/
def State.tlbHit (s : State) (t p : Nat) : Bool := (Store.read (s.pt t).tlb (p % 512) []).contains p
def State.tlbTouch (s : State) (t p : Nat) : State :=
  let x := s.pt t
  s.setPt t { x with tlb := Store.write x.tlb (p % 512) ((p :: (Store.read x.tlb (p % 512) []).filter (fun q => decide (q ≠ p))).take 8) [] }

/-- An access of RSTR must wait for its page to be loaded or verified (08 R242, R243). -/
def State.needsLoad (s : State) (t off : Nat) : Bool :=
  decide (s.mode.mode = .rstr) && decide (Store.read s.boot.paths t 0 ≠ 0) && !s.boot.restored.contains t
    && !(s.tl t).loaded.contains (off / 2 ^ 21) && !(s.tl t).pages.contains (off / 4096)

/-- PEND of a line: the stores to it not yet acknowledged (04 R119, R131), wherever their data has got to: a write that has been issued
to DRAM still counts. -/
def State.pendOf (s : State) (t off : Nat) : Nat := s.unacked.countP (fun u => decide (u.owner = t ∧ u.req.toff / 64 = off / 64))

/-- A queued read serves a further one for the same purpose, and a prefetch in flight a demand read (04 R124). -/
def RqEnt.covers (e : RqEnt) (why : RdFor) : Bool :=
  match e.why, why with
  | .prefetch _, .demand => true
  | .demand, .prefetch _ => true
  | .prefetch _, .prefetch _ => true
  | x, y => decide (x = y)
def State.rqCovers (s : State) (t a : Nat) (why : RdFor) : Bool :=
  (s.rqOf (subKey t a)).any (fun e => decide (e.dfa = a / 64 * 64) && e.covers why)

/-- Put a DRAM read into the read queue of its sub-channel, unless one there serves it (05 R149, R150); a full queue takes none. -/
def State.enqRead (s : State) (t a off sess : Nat) (why : RdFor) (stamp target : Nat) : State :=
  let k := subKey t a
  if s.rqCovers t a why then s
  else s.setRq k (s.rqOf k ++ [{ dfa := a / 64 * 64, off := off / 64 * 64, sess, why, since := stamp, target }])
def State.rqFull (s : State) (t a : Nat) (why : RdFor) : Bool := decide (64 ≤ (s.rqOf (subKey t a)).length) && !s.rqCovers t a why

/-- A request waits for a DRAM read, which it queues; while the queue is full it waits for room there (05 R150). -/
def State.awaitRead (s : State) (r : Req) (a off sess : Nat) (why : RdFor) (w : Why) (prev : Option (Nat × Nat)) : State :=
  if s.rqFull r.owner a why then s.hold r .readq none prev
  else (s.enqRead r.owner a off sess why r.stamp r.lat).hold r w none prev

/-- The stream entry of a request's (session, LD), used last; 256 entries, least recently used (04 R123). -/
def State.stream (s : State) (t : Nat) (r : Req) : Stream :=
  ((s.pt t).streams.find? (fun x => decide (x.sess = r.sess ∧ x.ld = 16 * r.tile + r.ld))).getD { sess := r.sess, ld := 16 * r.tile + r.ld }
def State.setStream (s : State) (t : Nat) (x : Stream) : State :=
  s.setPt t { s.pt t with streams := (x :: (s.pt t).streams.filter (fun y => decide (¬ (y.sess = x.sess ∧ y.ld = x.ld)))).take 256 }

/-- A store advances or resets SEQ of its stream (04 R123). -/
def State.noteStore (s : State) (t : Nat) (r : Req) : State :=
  let x := s.stream t r
  if r.isStore && r.wide && decide (x.lastStore = some (r.dpa / 64 - 1)) && decide (0 < r.dpa / 64) then
    s.setStream t { x with seq := x.seq + 1, lastStore := some (r.dpa / 64) }
  else if r.isStore && r.wide then s.setStream t { x with seq := 0, lastStore := some (r.dpa / 64) }
  else s.setStream t { x with seq := 0, lastStore := none }

/-- A demand read trains the stride of its stream: three equal strides within ±64 lines and not zero (04 R124). -/
def State.noteRead (s : State) (t : Nat) (r : Req) : State :=
  let x := s.stream t r
  let l := r.dpa / 64
  let st : List Int := match x.lastRead with | some p => (((l : Int) - p) :: x.strides).take 3 | none => []
  let tr := match st with
    | [a, b, c] => if a = b ∧ b = c ∧ a ≠ 0 ∧ -64 ≤ a ∧ a ≤ 64 then some a else none
    | _ => none
  let s := if tr.isSome && x.trained.isNone then s.tally t 35 0x0002 r.attr else s
  s.setStream t { x with seq := 0, lastStore := none, lastRead := some l, strides := st, trained := tr,
                         ahead := if tr = x.trained then x.ahead - 1 else 0 }

/-- A host request takes its turn in its stream, once and in the order of the requests (04 R123, R124). The detectors do not apply to the
stores of contexts. -/
def State.noteStream (s : State) (r : Req) : State :=
  if !r.fromHost || r.noted.contains 5 then s
  else if r.isRead then s.noteRead r.owner r
  else s.noteStore r.owner r

/-- A stream in non-allocating state (04 R123). -/
def State.nonAllocating (s : State) (t : Nat) (r : Req) : Bool :=
  decide (s.tileP bEaves t 0 ≤ (s.stream t r).seq) && r.fromHost

/-- The old value and the new line of an atomic (03 R92). -/
def atomicApply (l : Line) (at_ : Nat) (k : RKind) : BitVec 128 × Line :=
  let go := fun (bytes : Nat) (f : Nat → Nat) =>
    let old := (l >>> (8 * at_)).toNat % 2 ^ (8 * bytes)
    let new := f old % 2 ^ (8 * bytes)
    (BitVec.ofNat 128 old,
      (l &&& ~~~ ((BitVec.ofNat 512 (2 ^ (8 * bytes) - 1)) <<< (8 * at_))) ||| ((BitVec.ofNat 512 new) <<< (8 * at_)))
  match k with
  | .fetchAdd b x => go b (fun o => o + x.toNat % 2 ^ (8 * b))
  | .cas b c w => go b (fun o => if o = c.toNat % 2 ^ (8 * b) then w.toNat % 2 ^ (8 * b) else o)
  | _ => (0, l)

/-- The frame of a store or of an atomic's result (10 Table 10-4, R302). -/
def storeFrame (s : State) (r : Req) (old : BitVec 128) (q : Nat) : Frame :=
  let f : Frame := { seq := q, epoch := s.epoch, tm := s.localCount r.owner, sess := r.sess, off := r.toff / 64 * 64, fk := 0 }
  match r.kind with
  | .fetchAdd b x => { f with fk := 4, data := atomicBlock 1 b r.at_ x 0 old }
  | .cas b c w => { f with fk := 4, data := atomicBlock 2 b r.at_ c w old }
  | _ =>
    if r.poison then { f with fk := 2 } else if r.zln then { f with fk := 3 }
    else if r.mask = Mask.full then { f with data := r.data }
    else { f with fk := 1, mask := r.mask, data := Line.overlay 0 r.data r.mask }

/-- Acknowledge a placed store or atomic under the rule of its mode: in ACTV it waits for the receipt of its frame,
and elsewhere it is answered when placed (08 Table 8-1; 10 R302, R327). `old` is an atomic's answer, `before` what its line held. -/
def State.ackStore (s : State) (r : Req) (old : BitVec 128) (before : Option (Line × Bool)) : State :=
  let t := r.owner
  let q := (s.mt t).seq
  let s := if s.sendsFrames t then s.assignFrame t (storeFrame s r old) false else s
  if s.mode.mode = .actv then { s with unacked := s.unacked ++ [{ req := r, owner := t, seq := q, result := old.setWidth 512, before }] }
  else s.answer r rOk (old.setWidth 512) false .ok

/-- PEND that a store adds: 1 while its acknowledgement waits for the twin, 0 when it is acknowledged at placement. -/
def State.pendStep (s : State) : Nat := if s.mode.mode = .actv then 1 else 0

/-- Place a store's bytes in Eaves or the merge buffer (04 R122, R123, R127). -/
def State.placeStore (s : State) (r : Req) (a : Nat) : State :=
  let t := r.owner
  let off := r.toff / 64 * 64
  let pd := s.pendStep
  let d := if r.poison then 0 else r.data
  match s.evFind t a r.sess with
  | some k =>
    let e := s.evLine k
    (s.touchWay k).setEv k { e with dirty := true, pf := false, poison := r.poison || (e.poison && !r.wide),
                                    data := if r.wide then d else Line.overlay e.data d r.mask, pend := e.pend + pd }
  | none =>
    let m := s.mergeOf t off
    if r.wide && !s.nonAllocating t r then
      let (k, s) := (s.freeMerge t off).evAlloc t a off r.sess
      s.setEv k { s.evLine k with dirty := true, poison := r.poison, data := d, pend := pd + (match m with | some x => x.pend | none => 0) }
    else
      match m with
      | some x =>
        s.setMerge t { x with data := if r.wide then d else Line.overlay x.data d r.mask, mask := if r.wide then Mask.full else x.mask ||| r.mask,
                              pend := x.pend + pd, poison := r.poison || (x.poison && !r.wide) }
      | none =>
        let mk := if r.wide then Mask.full else r.mask
        (s.tally t 4 0x0001 r.attr).setMerge t
          { off, dfa := a / 64 * 64, sess := r.sess, data := Line.overlay 0 d mk, mask := mk, stamp := r.stamp, pend := pd, poison := r.poison, lat := r.lat }

/-- A line becomes poisoned or its poison is cleared: the poison table follows (07 R204). -/
def State.notePoison (s : State) (r : Req) : State :=
  if r.poison then s.enterPoison r.owner r.toff
  else if r.isStore && r.wide && (s.it r.owner).poison.contains (r.toff / 64 * 64) then s.leavePoison r.owner r.toff
  else s

/-- A store waits in the store queue of a link for an owning tile: at its head for a limit, or behind the head (04 R137; 06 R175). -/
def Wait.inQueue (w : Wait) (t k y : Nat) : Bool :=
  w.req.fromHost && w.req.isStore && decide (w.req.tile = t ∧ w.req.link = k ∧ w.req.owner = y)
    && (match w.why with | .window | .room | .merge | .held | .queue => true | _ => false)

/-- The store queue of a request's link for its owning tile is held by an earlier store. -/
def Wait.blocksQueue (w : Wait) (r : Req) : Bool := w.inQueue r.tile r.link r.owner && decide (w.req.key ≤ r.key)

/-- A request's lookup in Eaves, counted as a hit or a miss (16 Table 16-6, blocks 2 and 3). -/
def State.tallyLookup (s : State) (r : Req) (a : Nat) : State :=
  s.tallyOnce r 2 r.owner (2 + evSet a % 16 / 8) (if (s.evFind r.owner a r.sess).isSome then 0x0001 else 0x0002)

/-- Dirty pages of a session on a tile (11 R341). -/
def State.dirtyOf (s : State) (n t : Nat) : Nat :=
  (s.tl t).dirty.countP (fun p =>
    let o := Store.read (s.tt t).owners p {}
    match s.extentAt t ((if o.valid then o.lpage else p) * 4096) with | some (m, _) => decide (m = n) | none => false)

/-- A store waits for room (08 R231): counted, and for its session while that is below its Tideline share (11 R341). -/
def State.roomWait (s : State) (r : Req) (prev : Option (Nat × Nat)) : State :=
  let t := r.owner
  let s := if r.noted.contains 4 then s else
    let s := s.countP (pid bTide t 4) 0
    let s := if s.dirtyOf r.sess t < (Store.read (s.sess r.sess).resv t {}).share * 256 then s.countP (pid bSess t 6) r.sess else s
    s.tally t 9 0x0002 r.attr
  s.hold (r.note 4) .room none prev

/-- A store whose page and DFA are known: its limits, its mark and its placement (04 Table 4-5; 08 R222, R231; 04 R137). A full-line store that
goes past Eaves and needs a merge entry waits for one as a narrow store does. (DEDUCED, log 140.) -/
def State.serveStore (s : State) (r : Req) (a : Nat) (prev : Option (Nat × Nat)) : State :=
  let t := r.owner
  if r.fromHost && s.waits.any (fun w => w.blocksQueue r) then s.hold r .queue none prev
  else if s.placesNone t then s.hold r .window none prev
  else if !s.bitmapHit t a then s.awaitRead r (s.bitmapBase t + a / 32768) 0 0 .bitmap .bitmap prev
  else if !s.isDirty t a && !s.hasRoom t then s.roomWait r prev
  else if (!r.wide || s.nonAllocating t r) && (s.evFind t a r.sess).isNone && (s.mergeOf t r.toff).isNone && decide (512 ≤ (s.pt t).merge.length) then
    s.hold r .merge none prev
  else if r.wide && !s.nonAllocating t r && (s.evFind t a r.sess).isNone && s.evBlocked t a r.sess then s.hold r .evict none prev
  else
    let s := (s.endStall r prev).tallyLookup r a
    ((((s.bitmapFill t a).markPage t (a / 4096)).placeStore r a).notePoison r).ackStore r 0 (some (s.newest t (r.toff / 64 * 64) a))

/-- Answer a read with a line in plaintext. -/
def State.giveRead (s : State) (r : Req) (l : Line) (p : Bool) : State := s.answer r rOk l p .ok

/-- A read of a line of local DRAM: Eaves, merge buffer, write queue, DRAM (04 R113, R130). -/
def State.serveRead (s : State) (r : Req) (a : Nat) (prev : Option (Nat × Nat)) : State :=
  let t := r.owner
  let s := s.tallyLookup r a
  let r := r.note 2
  match s.evFind t a r.sess with
  | some k =>
    let e := s.evLine k
    let s := s.endStall r prev
    ((s.touchWay k).setEv k { e with pf := false }).giveRead r e.data e.poison
  | none =>
    match s.mergeOf t r.toff, s.wqNewest t a with
    | some m, none =>
      if m.mask = Mask.full then (s.endStall r prev).giveRead r m.data m.poison
      else s.awaitRead r a r.toff r.sess .demand .dram prev
    | m, some e =>
      let base := s.cipherLine false t (r.toff / 64 * 64) a e.data
      let full := match m with | some m => decide (m.mask = Mask.full) | none => false
      let l := match m with | some m => Line.overlay base m.data m.mask | none => base
      let p := (match m with | some m => m.poison | none => false) || (e.poison && !full)
      (s.endStall r prev).giveRead r l p
    | none, none => s.awaitRead r a r.toff r.sess .demand .dram prev

/-- An atomic: the line is brought into Eaves, the merge-buffer data merged first, and the result is stored there
(03 R92; 04 R547, R549). A poisoned line completes with EP and changes nothing (03 R86). -/
def State.serveAtomic (s : State) (r : Req) (a : Nat) (prev : Option (Nat × Nat)) : State :=
  let t := r.owner
  let off := r.toff / 64 * 64
  if s.placesNone t then s.hold r .window none prev
  else if !s.bitmapHit t a then s.awaitRead r (s.bitmapBase t + a / 32768) 0 0 .bitmap .bitmap prev
  else if !s.isDirty t a && !s.hasRoom t then s.roomWait r prev
  else if (s.evFind t a r.sess).isNone && s.evBlocked t a r.sess then s.hold r .evict none prev
  else
    let s := s.tallyLookup r a
    let r := r.note 2
    let src : Option (Line × Bool) := match s.evFind t a r.sess with
      | some k => some ((s.evLine k).data, (s.evLine k).poison)
      | none =>
        match s.wqNewest t a, s.mergeOf t off with
        | none, some m => if m.mask = Mask.full then some (m.data, m.poison) else none
        | some e, m => some (match m with
          | some m => (Line.overlay (s.cipherLine false t off a e.data) m.data m.mask, m.poison || (e.poison && decide (m.mask ≠ Mask.full)))
          | none => (s.cipherLine false t off a e.data, e.poison))
        | none, none => none
    match src with
    | none => s.awaitRead r a r.toff r.sess .demand .dram prev
    | some (l, true) => (s.endStall r prev).answer r rOk l true .poison
    | some (l, false) =>
      let s := (s.endStall r prev).tally t 4 0x0003 r.attr
      let (old, new) := atomicApply l r.at_ r.kind
      let s := (s.bitmapFill t a).markPage t (a / 4096)
      (s.placeStore { r with data := new, mask := Mask.full } a).ackStore r old (some (l, false))

/-- The Slipway page of a session: the session offset it stands at; none while disabled (03 R103). -/
def State.slipOff (s : State) (n : Nat) : Option Nat :=
  let w := s.param (pid bSess 1023 0) n
  if w = BitVec.allOnes 64 then none else some (w.toNat / 4096 * 4096)
def State.inSlip (s : State) (r : Req) : Bool :=
  match s.slipOff r.sess with | some o => decide (r.off / 4096 * 4096 = o) | none => false

/-- A line of a fenced unit, of a fenced tile or of a tile that no route reaches (01 Table 1-10, R14, R38, R548): reads come from the twin,
or answer poison. In ACTV with the twin in service a store goes to the twin in its frame, and an atomic first fetches the line from there
(03 R93); otherwise both are refused with an error response. `a` is the DFA, where the page has one. -/
def State.serveFenced (s : State) (r : Req) (a : Option Nat) (prev : Option (Nat × Nat)) : State :=
  let t := r.owner
  let s := s.endStall r prev
  let fetch := fun (s : State) => (s.sendLrq t (r.toff / 64 * 64) 1 .read (s.urgency r)).hold r .twin none none
  if r.isRead then (if s.twinServes then fetch s else s.answer r rOk 0 true .poison)
  else if s.twinServes && decide (s.mode.mode = .actv) then
    if (s.mt t).windowFull then s.hold r .window none none
    else if r.isStore then (match a with | some a => s.markPage t (a / 4096) | none => s).ackStore r 0 none
    else fetch s
  else s.answer r (if r.via = some .mem then rError else rAbort) 0 false .fenced

/-- The line of a fenced unit that an atomic waits for has come from the twin: the operation is made on it, and its result goes to the
twin in a frame (03 R92, R93). A poisoned line changes nothing (03 R86). -/
def State.fencedAtomic (s : State) (r : Req) (l : Line) (p : Bool) : State :=
  if p then s.answer r rOk l true .poison
  else if (s.mt r.owner).windowFull then s.hold r .window none none
  else s.ackStore r (atomicApply l r.at_ r.kind).1 none

/-- The access at the owning tile once its line is its turn: load map, home, fence, holds, PEND, then the service by
kind. -/
def State.serveHome (s : State) (r : Req) (prev : Option (Nat × Nat)) : State :=
  let t := r.owner
  let off := r.toff
  let p := off / 4096
  let go := fun (s : State) (r : Req) (a : Nat) =>
    if s.lineFenced t a then s.serveFenced r (some a) prev
    else if (s.pt t).recov.any (fun e => decide (e.dfa = a / 64 * 64)) then s.hold r .recovery none prev
    else if (s.chan t (dfaChan a)).holding || (!r.isRead && s.converting t a) then s.hold r .held none prev
    else if !r.isStore && decide (0 < s.pendOf t off) && decide (s.tileP bEaves t 3 = 0) then s.hold r .pend none prev
    else if !r.isRead && decide (15 ≤ s.pendOf t off) then s.hold r .pend none prev
    else if !r.isRead && (match s.mergeOf t off with | some m => m.writing | none => false) then s.hold r .writeOut none prev
    else if r.isRead then s.serveRead r a prev
    else if r.isStore then s.serveStore r a prev
    else s.serveAtomic r a prev
  if s.tileFenced t || (!s.fences.inForce.isEmpty && !s.reachable r.tile t) then s.serveFenced r (if r.tiered then none else some off) prev
  else if s.needsLoad t off then s.hold r .load (some 6) prev
  else if !r.tiered then go s r off
  else if !s.tlbHit t p then (s.tallyOnce r 3 t 34 0x0002).awaitRead (r.note 3) (s.homeAddr t (p * 8)) 0 0 .homeTlb .home prev
  else
    let s := (s.tallyOnce r 3 t 34 0x0001).tlbTouch t p
    let r := r.note 3
    if hMoving (s.homeEntry t p) then s.hold r .move (some 5) prev
    else match s.homeKind t p with
      | 0 => if r.isRead then (s.endStall r prev).answer r rOk 0 false .ok else (s.wantMove t p r.sess 1 true).hold r .move (some 5) prev
      | 1 => go s r (hFrame (s.homeEntry t p) * 4096 + off % 4096)
      | 2 =>
        if r.isRead then s.hold r .unit none prev
        else (s.wantMove t p r.sess 1 true).hold r .move (some 1) prev
      | _ => (s.wantMove t p r.sess 1 true).hold r .move (some (if hKind (s.homeEntry t p) = 2 then 2 else 3)) prev

end Sys2Proof.Machine
end

