-- ==== Sys2Proof/Machine/Request.lean ====
section
/-! DEFINITION. A request from its receipt to its turn: decoding, windows, violations, the Slipway page, the order gate
and the order at the line (03 R75 to R106; 04 R107, R108, R132; 03 R84), and the release of requests that wait. -/

namespace Sys2Proof.Machine

/-- The management LD (03 R74), and the level of an LD's requests (03 R102; 16 R480). -/
def State.isMgmt (s : State) (t d : Nat) : Bool := decide (s.mgmtLd = (t, d))
def State.ldLevel (s : State) (t d : Nat) : Nat := if s.isMgmt t d then 1 else 2

/-- The binding session of an LD (03 R74). (DESIGN CHOICE, log 30.) -/
def State.ldSession (s : State) (t d : Nat) : Option Nat :=
  let w := (s.param (pid bPort t (0x20 + d)) 0).toNat
  if w ≤ 0xFFF then some w else none

/-- Room for a submission in a context's queue, and its entry (12 R370). -/
def State.enterSub (s : State) (n : Nat) (b : Sub) : Option State :=
  let c := s.ctx n
  if c.created ∧ b.items.length ≤ c.freeItems then
    some (s.setCtx n { c with waiting := c.waiting ++ [b], wr := (c.wr + b.items.length) % 512, ready := if c.hasWork then c.ready else s.clock })
  else none

/-- One more stray write of a Slipway page (03 R105). -/
def State.slipStray (s : State) (n : Nat) : State := s.countP (pid bSess 1023 2) n
def State.setSlip (s : State) (n : Nat) (x : Slip) : State := s.setSess n { s.sess n with slip := x }

/-- A break of the sequence: the words are discarded and the page is LOCKED. In DONE the status keeps its values. -/
def State.slipBreak (s : State) (n : Nat) : State :=
  (s.setSlip n { (s.sess n).slip with state := .locked, words := [], wrote := [], entered := false }).slipStray n

/-- U1 of a session (03 R104). -/
def slipU1 (n : Nat) : Word := BitVec.ofNat 64 (0x5A119A7E00000000 + n % 4096)

/-- The commit word (03 R104): COUNT and CRC check, and the program is queued. -/
def State.slipCommit (s : State) (n : Nat) (w : Word) : State :=
  let x := (s.sess n).slip
  let k := fld w 8 0
  let prog := (List.range k).map (fun i => Store.read x.words (0x40 + 8 * i) 0)
  if 1 ≤ k ∧ k ≤ 503 ∧ fld w 31 9 = 0 ∧ fld w 63 32 = (crc32cWords prog).toNat then
    let b : Sub := { items := prog, prio := (s.param (pid bSess 1023 1) n).toNat % 8, path := .slipway n, pl := 3 }
    match s.enterSub n b with
    | some s => s.setSlip n { x with state := .queued, entered := true }
    | none => s.setSlip n { x with state := .queued, entered := false, count := k }
  else (s.setSlip n { x with lastStat := 0x14 }).slipBreak n

/-- One enabled word of a write to the page, in LOCKED, HALF, OPEN or DONE; whether the sequence stands (03 R104,
R105). A break ends the processing of its write. -/
def State.slipWord (s : State) (n off : Nat) (w : Word) (stamp : Nat) : State × Bool :=
  let x := (s.sess n).slip
  match x.state with
  | .locked | .done =>
    if off = 0 ∧ w = slipU1 n then (s.setSlip n { x with state := .half, t1 := stamp, words := [], wrote := [], entered := false }, true)
    else (s.slipBreak n, false)
  | .half =>
    if off = 8 ∧ w = ~~~ slipU1 n ∧ stamp ≤ x.t1 + 4000 then (s.setSlip n { x with state := .open_, words := [], wrote := [] }, true)
    else (s.slipBreak n, false)
  | .open_ =>
    if 0x40 ≤ off ∧ off ≤ 0xFF0 then (s.setSlip n { x with words := Store.write x.words off w 0, wrote := insertNat off x.wrote }, true)
    else if off = 0xFF8 then (s.slipCommit n w, true)
    else (s.slipBreak n, false)
  | _ => (s.slipStray n, false)

/-- A CXL.mem write of a line of the page: its enabled words in ascending offset order, all with its stamp; a word
written in part breaks the sequence. In QUEUED and RUNNING the write is one stray write. (DEDUCED, log 45.) A write that carries Poison writes all
its words, and they are taken as they arrive. (DESIGN CHOICE, log 139.) -/
def State.slipWrite (s : State) (r : Req) : State :=
  let n := r.sess
  let base := r.off % 4096 / 64 * 64
  let en := fun i => (List.range 8).countP (fun j => (if r.poison then Mask.full else r.mask).getLsbD (8 * i + j))
  let ws := (List.range 8).filter (fun i => decide (0 < en i))
  let st := (s.sess n).slip.state
  if st = .queued ∨ st = .running then (if ws.isEmpty then s else s.slipStray n)
  else
    let (s, _) := ws.foldl (fun (p : State × Bool) i =>
      if !p.2 then p
      else if en i < 8 then (p.1.slipBreak n, false)
      else p.1.slipWord n (base + 8 * i) (r.data.words.getD i 0) r.stamp) (s, true)
    s.setSlip n { (s.sess n).slip with lastWrite := s.clock }

/-- The codes of the states of the page, and its status word (03 Table 3-13). -/
def SlipState.code : SlipState → Nat
  | .locked => 0 | .half => 1 | .open_ => 2 | .queued => 3 | .running => 4 | .done => 5
def State.slipStatus (s : State) (n : Nat) : Word :=
  let x := (s.sess n).slip
  word [(48, min (s.param (pid bSess 1023 2) n).toNat 0xFFFF), (40, x.lastStat), (28, x.lastIdx), (16, x.wrote.length % 512), (0, x.state.code)]

/-- The tiles whose ports hold a session's owner and accessors: its ingress set (04 R132). -/
def State.ingressSet (s : State) (n : Nat) : List Nat :=
  ((s.binds.filter (fun b => decide (b.sess = n ∧ b.state ≠ .released))).map Bind.tile).foldl (fun a t => insertNat t a)
    (if (s.sess n).isOpen && !(s.sess n).ownerLost then [(s.sess n).tile] else [])

/-- The stamps received from every other tile of the ingress set are at or above the request's, which may be a host's or a context's
(04 R125, R132). -/
def State.gateOpen (s : State) (r : Req) : Bool :=
  (s.ingressSet r.sess).length ≤ 1 || (s.ingressSet r.sess).all (fun z =>
    decide (z = r.tile) || decide (z = r.owner) || decide (r.stamp ≤ Store.read (s.pt r.owner).stamps z 0))

/-- Serve a request, or let it wait where it must: the order gate, the order at the line (03 R84), its turn in its stream, then the
Slipway page or the line's home. Whatever sends it, a store to an enabled Slipway page is a command to the page and none to the DRAM
under it (03 R103). -/
def State.serveReq (s : State) (r : Req) (prev : Option (Nat × Nat)) : State :=
  if !s.gateOpen r then (s.tallyOnce r 1 r.owner 1 0x0001).hold (r.note 1) .gate none prev
  else if s.waits.any (fun w => w.req.sameLine r && decide (w.req.key ≤ r.key)) then s.hold r .line none prev
  else
    let s := s.noteStream r
    let r := r.note 5
    if s.inSlip r then
      if r.isRead then s.answer r rOk (Line.ofWords (List.replicate 8 (s.slipStatus r.sess))) false .ok
      else (s.slipWrite r).answer r rOk 0 false .ok
    else s.serveHome r prev

/-- The store queue of a link for an owning tile is full: its entries by the width of the link (03 Table 3-4). -/
def queueEntries (width : Nat) : Nat := if 16 ≤ width then 64 else if 8 ≤ width then 32 else 16
def State.queueFull (s : State) (t k y : Nat) : Bool := decide (queueEntries (s.link t k).width ≤ s.waits.countP (fun w => w.inQueue t k y))

/-- A store waits in the RwD ingress buffer of a link, which dispatches in arrival order (04 R138). -/
def Wait.atIngress (w : Wait) (t k : Nat) : Bool := decide (w.why = .ingress ∧ w.req.tile = t ∧ w.req.link = k)

/-- The first request that waits only for its line, its store queue or the ingress buffer before it, and need wait no more. -/
def firstFree (s : State) : List Wait → List Wait → Option Wait
  | _, [] => none
  | before, w :: l =>
    if (match w.why with
      | .line => !before.any (fun v => v.req.sameLine w.req)
      | .queue => !before.any (fun v => v.blocksQueue w.req)
      | .ingress => !before.any (fun v => v.atIngress w.req.tile w.req.link) && !s.queueFull w.req.tile w.req.link w.req.owner
      | _ => false) then some w
    else firstFree s (before ++ [w]) l

/-- A store leaves the ingress buffer: its credit returns, unless RwD credits of its link are withheld (03 R80, R81). -/
def State.leaveIngress (s : State) (w : Wait) : State :=
  let l := s.link w.req.tile w.req.link
  if w.why = .ingress && l.heldRwD && decide (w.req.via = some .mem) then s.setLink w.req.tile w.req.link { l with keptRwD := l.keptRwD + 1 } else s

/-- A wait goes on: what it was held in the full-speed step of RSTR does not count as a stall (02 R65, R66). -/
def State.resumed (s : State) (w : Wait) : Req :=
  if w.why = .held ∧ s.mode.mode = .rstr then { w.req with exempt := w.req.exempt + (s.clock - w.since) } else w.req

/-- Serve every request whose line, store queue or ingress buffer has come free. -/
def State.settle : Nat → State → State
  | 0, s => s
  | k + 1, s =>
    match firstFree s [] s.waits with
    | some w => State.settle k ((({ s with waits := s.waits.erase w }).leaveIngress w).serveReq w.req w.stall)
    | none => s

/-- A list of waits by urgency, and within an urgency in the order they stand in, which is that of their stamps (04 R135). -/
def State.byUrgency (s : State) (ws : List Wait) : List Wait :=
  [3, 2, 1, 0].flatMap (fun u => ws.filter (fun w => decide (s.urgency w.req = u)))

/-- Serve the waits that satisfy a test again, the most urgent first and then the oldest; one that an earlier request to its line precedes
stays behind that (04 R135). Then what they freed. -/
def State.release (s : State) (p : Wait → Bool) : State :=
  let s := (s.byUrgency (s.waits.filter p)).foldl (fun (s : State) w => ({ s with waits := s.waits.erase w }).serveReq (s.resumed w) w.stall) s
  State.settle (2 * s.waits.length + 2) s

/-- Waits on one tile for one of a list of reasons. -/
def State.kick (s : State) (t : Nat) (ys : List Why) : State := s.release (fun w => decide (w.req.owner = t) && ys.contains w.why)

/-- The ops of Table 3-8. -/
def opCode (v : Via) (k : RKind) : Nat :=
  match k with
  | .read => (match v with | .mem => 1 | .uio => 3 | .io => 6)
  | .store => (match v with | .mem => 2 | .uio => 4 | .io => 7)
  | _ => 5

/-- The words of a violation log entry (03 Table 3-8), least significant first. -/
def VEntry.words (e : VEntry) : List Word :=
  [word [(0, e.merged), (52, e.op), (56, e.cause)],
   word [(7, e.ld), (11, e.link), (13, e.tile), (16, e.reqid), (32, e.pbr.getD 0), (47, b01 e.pbr.isSome), (48, e.sess.getD 0), (63, b01 e.sess.isSome)],
   BitVec.ofNat 64 e.addr, BitVec.ofNat 64 e.tidemark]

/-- A session whose owner port or LD is fenced has no owner, until the fabric manager names one (01 Table 1-10). -/
def State.ownerOf (s : State) (n : Nat) : Option (Nat × Nat) := if (s.sess n).ownerLost then none else some ((s.sess n).tile, (s.sess n).ld)

/-- Log a violation with the owner LD of a session (03 R96, R97): the ring of 64 entries, merged or lost when full, and
MSI-X vector 1 at most once per holdoff. -/
def State.logViol (s : State) (e : VEntry) (t d : Nat) : State :=
  let b := s.bar t d
  let b := { b with violOwn := (b.violOwn + 1) % 2 ^ 48 }
  let full := decide ((b.vlogTail + 1) % 64 = b.vlogHead)
  let b := if full then
      match b.newest with
      | some w =>
        if w.cause = e.cause ∧ w.reqid = e.reqid ∧ w.tile = e.tile ∧ w.link = e.link ∧ w.ld = e.ld ∧ w.pbr = e.pbr then
          { b with newest := some { w with merged := min (w.merged + 1) 0xFFFF },
                   vlog := Store.write b.vlog ((b.vlogTail + 63) % 64) { w with merged := min (w.merged + 1) 0xFFFF }.words [] }
        else { b with violLost := min (b.violLost + 1) 0xFFFFFFFF }
      | none => { b with violLost := min (b.violLost + 1) 0xFFFFFFFF }
    else { b with vlog := Store.write b.vlog b.vlogTail e.words [], newest := some e, vlogTail := (b.vlogTail + 1) % 64 }
  s.setBar t d { b with vec1Wait := true }

/-- The requester of a request: the LD-ID of CXL.mem, or the PCIe requester ID (03 Table 3-8). -/
def reqId (v : Via) (ld tag : Nat) : Nat := if v = .mem then ld else tag / 2 ^ 16 % 2 ^ 16

/-- A remote access violation (03 R94 to R96): counted, told to the owner of the session and to the fabric manager, which reads the records
that are kept for it, and answered by transport. It changes no memory. -/
def State.violate (s : State) (v : Via) (k : RKind) (tile link ld tag hpa stamp cause : Nat) (sess pbr : Option Nat) : State :=
  let e : VEntry := { tidemark := stamp, addr := if v = .mem then hpa / 64 * 64 else hpa, sess, pbr, reqid := reqId v ld tag, tile, link, ld, cause, op := opCode v k }
  let b := s.bar tile ld
  let s := s.setBar tile ld { b with violReq := (b.violReq + 1) % 2 ^ 48 }
  let s := s.tally tile 0 cause { sess, tile, link := some link, ld := some ld, pl := s.ldLevel tile ld }
  let s := match sess with
    | some n => (match s.ownerOf n with | some (t, d) => s.logViol e t d | none => s)
    | none => s
  let s : State := { s with mgmt := { s.mgmt with viols := s.mgmt.viols ++ [e.words] } }
  let s := s.emit (.event tile ld 0x96 (e.words.map BitVec.toNat))
  match v, k with
  | .mem, .read => s.emit (.response tile link tag rOk (BitVec.allOnes 512) true)
  | .mem, _ => s.emit (.response tile link tag rOk 0 false)
  | _, _ => s.emit (.response tile link tag rAbort 0 false)

/-- A request is refused with a violation, once for the whole of it: the lines it is split into are one request (03 R85, R95). -/
def State.refuseReq (s : State) (v : Via) (q : Req) (cause : Nat) (sess : Option Nat) : State :=
  if q.hpa = q.whole.1 then
    ({ s with groups := s.groups.filter (fun g => decide (¬ (g.tile = q.tile ∧ g.link = q.link ∧ g.tag = q.tag))) }).violate v q.kind q.tile q.link q.ld
      q.tag q.whole.1 q.stamp cause sess none
  else s

/-- The port takes CXL.mem, UIO and memory requests: link up, out of reset, not fenced, LD mapped to it (03 R67 to
R73; 02 R44, R50). -/
def State.takes (s : State) (v : Via) (t k d : Nat) : Bool :=
  let l := s.link t k
  decide (t < s.tiles) && l.up && !l.perst && !l.hot && !s.tileFenced t && !s.fenced 0x7 k t && !s.fenced 0x7 (16 + d) t
    && decide (s.mode.mode ≠ .stby ∧ s.mode.mode ≠ .save) && !s.ingressStopped && decide (s.ldLink t d = k)
    && !(decide (v = .mem) && decide (l.ide = .insecure))

/-- The decoder of an LD that holds an HPA, and its decoded address (03 R75). -/
def Decoder.addr (x : Decoder) (h : Nat) : Nat :=
  if x.ira then h - x.base else (h - x.base) / (x.gran * x.ways) * x.gran + (h - x.base) % x.gran
def State.decode (s : State) (t d h : Nat) : Option Nat :=
  ((s.bar t d).decoders.find? (fun p => p.2.committed && decide (p.2.base ≤ h ∧ h < p.2.base + p.2.size))).map (fun p => p.2.addr h)

/-- The binding window of an LD that holds a decoded address (03 R75; 04 R107). -/
def State.window (s : State) (t k d a : Nat) : Option Bind :=
  s.binds.find? (fun b => decide (b.tile = t ∧ b.link = k ∧ b.ld = d ∧ b.w ≤ a ∧ a < b.w + (s.ext b.sess b.ext).len))

/-- Where an access leads: a violation cause with its session, or its session, extent, session offset and DPA. -/
inductive Lookup where
  | viol (cause : Nat) (sess : Option Nat)
  | hit (sess ext off dpa : Nat) (tiered : Bool)
  deriving DecidableEq, Repr

/-- Session lookup, bounds check and translation of an access of `n` bytes (03 R75, R77; 04 R107, R108; 01 R19). -/
def State.lookup (s : State) (t k d h n : Nat) : Lookup :=
  match s.decode t d h with
  | none => .viol 1 none
  | some a =>
    match s.window t k d a with
    | none => .viol 1 none
    | some b =>
      let e := s.ext b.sess b.ext
      if b.state = .offered ∨ b.state = .released then .viol 4 (some b.sess)
      else if b.w + e.len < a + n then .viol 2 (some b.sess)
      else .hit b.sess b.ext (e.start + (a - b.w)) (e.dpa + (a - b.w)) e.tiered

/-- The mode serves a request of a kind from an LD; a standby serves diagnostic reads at PL1 (02 Table 2-1). -/
def State.modeServes (s : State) (k : RKind) (t d : Nat) : Bool :=
  match k with
  | .read => s.servesReads || (decide (s.mode.mode = .mirs) && decide (s.ldLevel t d ≤ 1))
  | _ => s.servesStores

/-- The Slipway page takes writes in every mode that serves the session's stores, whatever the policy (03 R103). -/
def State.slipServes (s : State) : Bool :=
  match s.mode.mode with
  | .actv => true
  | .solo => s.leaseOk && !s.mode.soloMain
  | .rstr => s.boot.auth && s.leaseOk
  | _ => false

/-- The credits that a link advertises, Req and RwD (03 Table 3-4), and those that the host has used and not had back: of the requests in its
ingress queue, and of those whose credits are withheld (03 R80, R81). -/
def reqCredits (width : Nat) : Nat := if 16 ≤ width then 256 else if 8 ≤ width then 128 else 64
def rwdCredits (width : Nat) : Nat := if 16 ≤ width then 192 else if 8 ≤ width then 96 else 48
def State.creditsUsed (s : State) (t k : Nat) (read : Bool) : Nat :=
  s.waits.countP (fun w => decide (w.req.tile = t ∧ w.req.link = k ∧ w.req.via = some .mem) && (w.req.isRead == read)
    && decide (w.why = .ingress ∨ w.why = .tideHold)) + (if read then (s.link t k).keptReq else (s.link t k).keptRwD)
def State.hasCredit (s : State) (t k : Nat) (read : Bool) : Bool :=
  decide (s.creditsUsed t k read < if read then reqCredits (s.link t k).width else rwdCredits (s.link t k).width)

/-- The owning tiles for whose sake a link returns no RwD credits: its store queue for the tile is full, and a condition of Table 3-5 holds
its head (03 R81; 04 R138). -/
def State.blockedFor (s : State) (t k : Nat) : List Nat :=
  s.tileList.filter (fun y => s.queueFull t k y && s.waits.any (fun w => w.inQueue t k y && (match w.why with | .window | .room | .merge => true | _ => false)))
/-- A host read of the link waits at the order check for a full read queue (05 R150). -/
def State.readsBlocked (s : State) (t k : Nat) : Bool :=
  s.waits.any (fun w => decide (w.why = .readq ∧ w.req.tile = t ∧ w.req.link = k) && w.req.fromHost && w.req.isRead)

/-- A link withholds the credits that the conditions of Table 3-5 stop, with the events of block 0 (03 R81). -/
def State.noteCredits (s : State) (t k : Nat) : State :=
  let l := s.link t k
  let ys := s.blockedFor t k
  let rd := s.readsBlocked t k
  let s := if !ys.isEmpty && !l.heldRwD then s.tally t 0 0x0010 { tile := t, link := some k } else s
  let s := if rd && !l.heldReq then s.tally t 0 0x0011 { tile := t, link := some k } else s
  s.setLink t k { l with heldRwD := l.heldRwD || !ys.isEmpty, heldFor := ys.foldl (fun a y => insertNat y a) l.heldFor, heldReq := l.heldReq || rd }

/-- The credit of a CXL.mem request that has left its link's ingress queue: kept back while credits of its kind are withheld (03 R80, R81). -/
def State.keepCredit (s : State) (r : Req) : State :=
  let l := s.link r.tile r.link
  if r.via ≠ some .mem then s
  else if r.isRead && l.heldReq then s.setLink r.tile r.link { l with keptReq := l.keptReq + 1 }
  else if !r.isRead && l.heldRwD then s.setLink r.tile r.link { l with keptRwD := l.keptRwD + 1 }
  else s

/-- A translated request goes to its owning tile. A store goes through the ingress buffer of its link, in arrival order, and stays there
while the store queue of the buffer's head is full (04 R138). -/
def State.dispatch (s : State) (r : Req) : State :=
  if r.isStore && (s.waits.any (fun w => w.atIngress r.tile r.link) || s.queueFull r.tile r.link r.owner) then
    (s.hold r .ingress none none).noteCredits r.tile r.link
  else ((s.serveReq r none).noteCredits r.tile r.link).keepCredit r

/-- A tile holds its ingresses for a Spring tide, from the instant to the release that reaches it (12 R381). (DEDUCED, log 37.) -/
def Tide.stops (d : Tide) (standby : Bool) (t : Nat) : Bool := decide (d.phase ≠ .named ∧ (⟨standby, t⟩ : TideUnit) ∈ d.units)
def State.tideStops (s : State) (t : Nat) : Bool := (s.tides ++ s.twinTides).any (fun d => d.stops false t)

/-- A DPA that no tile owns: that of a request that no lookup has seen. -/
abbrev noDpa := 2 ^ 50

/-- The bytes that a request of one line touches from its address. -/
def Req.bytes (r : Req) : Nat :=
  match r.src with
  | .host .mem => 64
  | _ => match r.kind with
    | .fetchAdd b _ => b
    | .cas b _ _ => b
    | _ => r.mask.count

/-- One line of a request that its port lets in: violations first, of the request as a whole, then its turn (03 R84, R85, R94). The window of
a request is looked at before the mode: one that both would refuse has the cause of its window. (DESIGN CHOICE, log 112.) -/
def State.takeIn (s : State) (v : Via) (q : Req) : State :=
  let (t, l, d) := (q.tile, q.link, q.ld)
  match s.lookup t l d q.whole.1 q.whole.2 with
  | .viol c se => s.refuseReq v q c se
  | .hit _ _ _ _ _ =>
    match s.lookup t l d q.hpa q.bytes with
    | .viol c se => s.refuseReq v q c se
    | .hit se _ off dpa tiered =>
      let r := s.withTarget { q with sess := se, off, dpa, tiered }
      if s.inSlip r then
        if (r.kind = .read ∧ v ≠ .mem) ∨ (r.kind ≠ .read ∧ r.kind ≠ .store) then s.refuseReq v r 5 (some se)
        else if r.kind = .store && !s.slipServes || r.kind = .read && !s.modeServes .read t d then s.refuseReq v r 3 (some se)
        else (s.serveReq r none).keepCredit r
      else if !s.modeServes r.kind t d then s.refuseReq v r 3 (some se)
      else
        let y := r.owner
        let s := if s.rerouted t y then s.tally t 33 0x0002 r.attr else s
        let s := if y = t then s else s.setPt y { s.pt y with stamps := Store.write (s.pt y).stamps t (max r.stamp (Store.read (s.pt y).stamps t 0)) 0 }
        s.dispatch r

/-- A request of `n` bytes from an address, as its port receives it: its stamp, its level, its place in the order (03 R84; 01 R36). -/
def State.received (s : State) (v : Via) (k : RKind) (t l d tag h n : Nat) : Req :=
  { src := .host v, kind := k, tile := t, link := l, ld := d, tag, hpa := h, stamp := s.localCount t, since := s.clock, sess := 0, off := 0,
    dpa := noDpa, at_ := h % 64, pl := s.ldLevel t d, whole := (h, n), order := l }

/-- A line of a request that its port has taken: held while a Spring tide holds the ingress, or let in. -/
def State.oneLine (s : State) (v : Via) (q : Req) : State :=
  if s.tideStops q.tile then s.hold q .tideHold none none else s.takeIn v q

/-- The requests that a tide held at the ports of a tile come in, in the order of their stamps (12 R381). -/
def State.letIn (s : State) (t : Nat) : State :=
  let p := fun (w : Wait) => decide (w.why = .tideHold ∧ w.req.tile = t)
  (s.waits.filter p).foldl (fun s w => match w.req.src with | .host v => s.takeIn v w.req | .ctx _ => s)
    { s with waits := s.waits.filter (fun w => !p w) }

/-- CXL_MEM_READ (04 R113): a read of one line, for which the host has a Req credit (03 R80). -/
def execCxlMemRead (tile link ld tag hpa : Nat) (s : State) : Run :=
  .next (if s.takes .mem tile link ld ∧ s.hasCredit tile link true then
    s.oneLine .mem { s.received .mem .read tile link ld tag (hpa / 64 * 64) 64 with mask := Mask.full }
  else s)

/-- CXL_MEM_STORE (04 R116): a write of one line, full or by its byte enables, for which the host has an RwD credit (03 R80). -/
def execCxlMemStore (tile link ld tag hpa : Nat) (mask : Mask) (data : Line) (poison : Bool) (s : State) : Run :=
  .next (if s.takes .mem tile link ld ∧ s.hasCredit tile link false then
    s.oneLine .mem { s.received .mem .store tile link ld tag (hpa / 64 * 64) 64 with mask, data, poison }
  else s)

/-- SLIPWAY_WRITE (03 R104): a CXL.mem write that falls on a Slipway page. -/
def execSlipwayWrite (tile link ld tag hpa : Nat) (mask : Mask) (data : Line) (s : State) : Run :=
  .next (if s.takes .mem tile link ld ∧ s.hasCredit tile link false then
    match s.lookup tile link ld (hpa / 64 * 64) 64 with
    | .hit se _ off _ _ =>
      if s.slipOff se = some (off / 4096 * 4096) then
        s.oneLine .mem { s.received .mem .store tile link ld tag (hpa / 64 * 64) 64 with mask, data }
      else s
    | .viol _ _ => s
  else s)

/-- The parts of a request of `n` bytes from an address, one per line: address and bytes. -/
def lineParts (h n : Nat) : List (Nat × Nat) :=
  (List.range ((h + n + 63) / 64 - h / 64)).map (fun i =>
    let lo := max h ((h / 64 + i) * 64)
    (lo, min (h + n) ((h / 64 + i + 1) * 64) - lo))

/-- The mask of `n` bytes from byte `at_` of a line. -/
def partMask (at_ n : Nat) : Mask := BitVec.ofNat 64 ((2 ^ n - 1) * 2 ^ at_)

/-- The bytes that a store or an atomic writes. -/
def Req.writes (r : Req) : Mask :=
  match r.kind with
  | .read => 0
  | .store => if r.wide then Mask.full else r.mask
  | .fetchAdd b _ => partMask r.at_ b
  | .cas b _ _ => partMask r.at_ b

/-- A UIO or CXL.io read or write of a decoder range of up to a page, split at line boundaries, every part with the stamp of the whole; a
write is answered once (03 R85). The address, from which a request's first line starts, names byte 0 of `data`. -/
def State.uioRequest (s : State) (via : Via) (write : Bool) (tile link ld tag hpa len : Nat) (data : List Byte) : State :=
  let parts := lineParts hpa len
  let q := s.received via (if write then .store else .read) tile link ld tag hpa len
  let s := if write ∧ 1 < parts.length then { s with groups := { tile, link, tag, left := parts.length } :: s.groups } else s
  parts.foldl (fun s p =>
    s.oneLine via { q with hpa := p.1, at_ := p.1 % 64, mask := partMask (p.1 % 64) p.2,
                           data := if write then Line.ofBytes (List.replicate (p.1 % 64) 0 ++ (data.drop (p.1 - hpa)).take p.2) else 0 }) s

/-- The operand sizes of the atomics (03 R91). -/
def atomicSizeOk (op : Atomic) (bytes : Nat) : Bool :=
  match op with
  | .fetchAdd => bytes == 4 || bytes == 8
  | .cas => bytes == 4 || bytes == 8 || bytes == 16
  | .swap => false

/-- REMOTE_ATOMIC (03 R91, R92): FetchAdd of 4 or 8 bytes, CAS of 4, 8 or 16; a misaligned one is a Malformed TLP, and
another operation or size is not supported. -/
def execRemoteAtomic (via : Via) (op : Atomic) (bytes tile link ld tag hpa : Nat) (a b : BitVec 128) (s : State) : Run :=
  .next (if via ≠ .mem ∧ s.takes via tile link ld then
    if !atomicSizeOk op bytes then
      s.emit (.response tile link tag rUnsupported 0 false)
    else if hpa % bytes ≠ 0 then s.emit (.response tile link tag rMalformed 0 false)
    else s.oneLine via (s.received via (match op with | .fetchAdd => .fetchAdd bytes a | _ => .cas bytes a b) tile link ld tag hpa bytes)
  else s)

/-- UNSUPPORTED_REQUEST (03 R72): a request for a feature that the device does not support gets the response that
PCIe or CXL defines. -/
def execUnsupportedRequest (tile link ld tag : Nat) (s : State) : Run :=
  .next (if s.takes .io tile link ld then s.emit (.response tile link tag rUnsupported 0 false) else s)

/-- VIOLATION_INTERRUPT (03 R96): MSI-X vector 1 of an owner LD, at most once per `port.viol_holdoff` of its tile. -/
def execViolationInterrupt (tile ld : Nat) (s : State) : Run :=
  let b := s.bar tile ld
  .next (if b.vec1Wait && (match b.vec1At with | some t0 => s.due t0 (s.tileP bPort tile 2 * us) | none => true) then
    (s.setBar tile ld { b with vec1Wait := false, vec1At := some s.clock }).emit (.msix tile ld 1)
  else s)

/-- ORDER_GATE_RELEASE (04 R132): a stamp of an ingress tile reaches an owning tile, and the requests whose gate it
opens take effect. -/
def execOrderGateRelease (owner source stamp : Nat) (s : State) : Run :=
  .next (if owner < s.tiles ∧ source < s.tiles ∧ owner ≠ source then
    let x := s.pt owner
    (s.setPt owner { x with stamps := Store.write x.stamps source (max stamp (Store.read x.stamps source 0)) 0 }).release
      (fun w => decide (w.why = .gate ∧ w.req.owner = owner) && ((s.setPt owner { x with stamps := Store.write x.stamps source (max stamp (Store.read x.stamps source 0)) 0 }).gateOpen w.req))
  else s)

/-- UNACKED_READ_RELEASE (04 R131): the requests that wait for PEND of their lines are tried again. -/
def execUnackedReadRelease (tile : Nat) (s : State) : Run := .next (s.kick tile [.pend])

/-- The next prefetch of the trained stream of a session and LD (04 R124): the next line at its
stride beyond what it has issued, within the extent, and only for a page whose home is known and local; never for the Slipway page
(R122). The stream's LD is named as 16 · tile + LD. -/
def State.prefetch (s : State) (t sess ld : Nat) : State :=
  match (s.pt t).streams.find? (fun x => decide (x.sess = sess ∧ x.ld = ld)) with
  | some x =>
    match x.trained, x.lastRead with
    | some st, some l =>
      if x.ahead < s.tileP bEaves t 1 then
        let line := Int.toNat ((l : Int) + st * (x.ahead + 1))
        let off := line * 64 % 2 ^ 43
        let s := (s.setPt t { s.pt t with streams := (s.pt t).streams.map (fun y => if y = x then { y with ahead := y.ahead + 1 } else y) })
        let inSlip := match s.extentAt t off with
          | some (n, e) => decide (s.slipOff n = some (((s.ext n e).start + (dpaOf t off - (s.ext n e).dpa)) / 4096 * 4096))
          | none => false
        let sameExt := !inSlip && decide (s.extentAt t off = s.extentAt t (l * 64 % 2 ^ 43)) && decide (line * 64 / 2 ^ 43 = t)
        let a := match s.extentAt t off with
          | some (n, e) => if (s.ext n e).tiered then
              (if s.tlbHit t (off / 4096) ∧ s.homeKind t (off / 4096) = 1 ∧ ¬ hMoving (s.homeEntry t (off / 4096)) then some (hFrame (s.homeEntry t (off / 4096)) * 4096 + off % 4096) else none)
            else some off
          | none => none
        match a with
        | some a =>
          if sameExt && (s.evFind t a sess).isNone && !s.lineFenced t a && decide ((s.rqOf (subKey t a)).length ≤ 48) then
            (s.enqRead t a off sess (.prefetch sess) (s.localCount t) 0).tally t 35 0x0001 { sess := some sess, tile := t, cls := some 3 }
          else s
        | none => s
      else s
    | _, _ => s
  | none => s

/-- STRIDE_PREFETCH (04 R124): a trained stream issues its next prefetch. -/
def execStridePrefetch (tile sess ld : Nat) (s : State) : Run := .next (s.prefetch tile sess ld)

/-- CREDIT_RETURN (03 R81): once no condition of Table 3-5 holds for it, a link returns its withheld credits; "merge buffer full" holds
until occupancy has fallen to 496 (04 R129). -/
def execCreditReturn (tile link : Nat) (s : State) : Run :=
  let l := s.link tile link
  let ys := l.heldFor.filter (fun y => (s.blockedFor tile link).contains y || (s.pt y).mergeFull)
  let rd := s.readsBlocked tile link && l.heldReq
  .next (if tile < s.tiles ∧ link < 4 then
    s.setLink tile link { l with heldRwD := !ys.isEmpty, heldFor := ys, keptRwD := if ys.isEmpty then 0 else l.keptRwD,
                                 heldReq := rd, keptReq := if rd then l.keptReq else 0 }
  else s)

/-- SLIPWAY_IDLE_TIMEOUT (03 R105): an OPEN page without a write for 100 µs. -/
def execSlipwayIdleTimeout (sess : Nat) (s : State) : Run :=
  .next (if (s.sess sess).slip.state = .open_ ∧ s.due (s.sess sess).slip.lastWrite (100 * us) then s.slipBreak sess else s)

end Sys2Proof.Machine
end

