-- ==== Sys2Proof/Machine/Rs.lean ====
section
/-! DEFINITION. The Reed-Solomon code RS(80,64) of the DRAM lines over GF(2^8): its field, the syndromes of an error pattern and the decoder
(07 R183 to R185). -/

namespace Sys2Proof.Machine

/-- A byte of the field times α: the field polynomial is x^8 + x^4 + x^3 + x^2 + 1 (07 R183). -/
def gfStep (a : Nat) : Nat := if 128 ≤ a then (2 * a) ^^^ 0x11D else 2 * a

/-- The product of two bytes of the field. -/
def gfMul (a b : Nat) : Nat := ((List.range 8).foldl (fun (p : Nat × Nat) i => (if b.testBit i then p.1 ^^^ p.2 else p.1, gfStep p.2)) (0, a)).1

/-- The inverse of a byte that is not 0: its power 254. -/
def gfInv (a : Nat) : Nat := ((List.range 7).foldl (fun (p : Nat × Nat) _ => let q := gfMul p.2 p.2; (gfMul p.1 q, q)) (1, a)).1

/-- The sum of the products of two lists. -/
def gfDot (a b : List Nat) : Nat := (List.zipWith gfMul a b).foldl (· ^^^ ·) 0

/-- The locator of symbol `i` of a line: the power of α at which it stands in the codeword. The check symbols 64 to 79 are the sixteen lowest
powers, as those of a systematic code are, and symbol 0 is the highest. (DEDUCED, log 121.) -/
def rsLocator (i : Nat) : Nat := (List.range (79 - i)).foldl (fun a _ => gfStep a) 1

/-- The sixteen terms that an error in a symbol adds to the syndromes. -/
def rsTerms (x e : Nat) : List Nat := ((List.range 15).foldl (fun (l : List Nat) _ => gfMul (l.headD 0) x :: l) [e]).reverse

/-- The syndromes of a pattern, given as symbols in error with their values: the roots of the generator polynomial are α^0 to α^15. -/
def rsSyndromes (es : List (Nat × Nat)) : List Nat :=
  es.foldl (fun a p => List.zipWith (· ^^^ ·) a (rsTerms (rsLocator p.1) p.2)) (List.replicate 16 0)

/-- The coefficients, lowest first, of the polynomial whose roots are a list of locators. -/
def rsPoly (xs : List Nat) : List Nat :=
  xs.foldl (fun l x => List.zipWith (· ^^^ ·) ((l.map (gfMul x)) ++ [0]) (0 :: l)) [1]

/-- Every window of the syndromes is annihilated by the polynomial of some locators: an error in their symbols alone explains them. -/
def rsExplains (poly syn : List Nat) : Bool := (List.range (17 - poly.length)).all (fun j => decide (gfDot poly (syn.drop j) = 0))

/-- The values of an error in some symbols that the syndromes are those of. -/
def rsValues (is syn : List Nat) : List (Nat × Nat) :=
  (is.map (fun i =>
    let p := rsPoly ((is.filter (fun j => decide (j ≠ i))).map rsLocator)
    let x := rsLocator i
    (i, gfMul (gfDot p syn) (gfInv (gfDot p (rsTerms x 1)))))).filter (fun q => decide (q.2 ≠ 0))

/-- The symbols of an x4 device, and the correction of an error within one device (07 Table 7-2, Table 7-3). -/
def rsDevice (d : Nat) : List Nat := (List.range 8).map (8 * d + ·)
def rsOneDevice (syn : List Nat) : Option (List (Nat × Nat)) :=
  ((List.range 10).find? (fun d => rsExplains (rsPoly ((rsDevice d).map rsLocator)) syn)).map (fun d => rsValues (rsDevice d) syn)

/-- The correction of an error in two symbols anywhere: their locators are the roots of the polynomial that the first four syndromes fix. -/
def rsTwo (syn : List Nat) : Option (List (Nat × Nat)) :=
  let s := fun (i : Nat) => syn.getD i 0
  let det := gfMul (s 1) (s 1) ^^^ gfMul (s 0) (s 2)
  if det = 0 then none
  else
    let a := gfMul (gfMul (s 1) (s 2) ^^^ gfMul (s 0) (s 3)) (gfInv det)
    let b := gfMul (gfMul (s 1) (s 3) ^^^ gfMul (s 2) (s 2)) (gfInv det)
    if !rsExplains [b, a, 1] syn then none
    else
      let is := (List.range 80).filter (fun i => let x := rsLocator i; decide (gfMul x x ^^^ gfMul a x ^^^ b = 0))
      if is.length = 2 then some (rsValues is syn) else none

/-- What the decoder makes of a word at the distance of a pattern from a codeword: none when it detects an error that it does not correct, else
the symbols that it changes. With x8 devices it corrects nothing (07 Table 7-3). -/
def rsDecode (x8 : Bool) (es : List (Nat × Nat)) : Option (List (Nat × Nat)) :=
  let syn := rsSyndromes es
  if syn.all (fun x => decide (x = 0)) then some []
  else if x8 then none
  else match rsOneDevice syn with
    | some c => some c
    | none => rsTwo syn

end Sys2Proof.Machine
end

