-- ==== Sys2Proof/Machine/ReadPath.lean ====
section
/-! DEFINITION. DRAM reads and what hangs on them: the check of a line (07 R185, R186), refetch and recovery (07 R192),
fills of Eaves, home TLB and bitmap cache, write-outs of the merge buffer, evictions, room grants and the hard timeout. -/

namespace Sys2Proof.Machine

/-- The symbols of an error pattern that are in error, with their errors; symbol `i` is byte `i` of the 80 bytes of the burst. -/
def errSymbols (e : BitVec 640) : List (Nat × Nat) :=
  ((List.range 80).map (fun i => (i, (e.extractLsb' (8 * i) 8).toNat))).filter (fun p => decide (p.2 ≠ 0))
def ofSymbols (l : List (Nat × Nat)) : BitVec 640 := l.foldl (fun a p => a ^^^ (BitVec.ofNat 640 p.2 <<< (8 * p.1))) 0

/-- What the check of a line finds (07 Table 7-3, R186); a correction with the symbols that it changed. -/
inductive Check where
  | pass | corrected (fix : List Nat) | bad
  deriving DecidableEq, Repr

/-- The mask of a poisoned line in RS form: sixteen 0x5A bytes over the check symbols 64 to 79 (07 Table 7-7). -/
def poisonMask : BitVec 640 := 0x5A5A5A5A5A5A5A5A5A5A5A5A5A5A5A5A#640 <<< 512

/-- The outcome of the RS decoder for the distance of a word from a codeword, and what is left of the distance (07 Table 7-2, Table 7-3). -/
def rsCheck (x8 : Bool) (e : BitVec 640) : Check × BitVec 640 :=
  match rsDecode x8 (errSymbols e) with
  | none => (.bad, e)
  | some [] => (.pass, e)
  | some c => (.corrected (c.map Prod.fst), e ^^^ ofSymbols c)

/-- A check passes, or a correction makes it pass. -/
def Check.good : Check → Bool
  | .pass | .corrected _ => true
  | .bad => false

/-- What the check of a stored word finds, whether it is a poisoned line, and the distance of what it reads as from what was stored. -/
abbrev Found := Check × Bool × BitVec 640

/-- A line in RS form, poisoned when `p`, with the errors `e` (07 R202): the decoder tries the word as stored, and then with the mask
removed; a word that passes or corrects only then is a poisoned line. -/
def rsLine (x8 p : Bool) (e : BitVec 640) : Found :=
  let plain := rsCheck x8 (if p then e ^^^ poisonMask else e)
  let masked := rsCheck x8 (if p then e else e ^^^ poisonMask)
  if plain.1.good then (plain.1, false, plain.2) else if masked.1.good then (masked.1, true, masked.2) else (.bad, p, e)

/-- A line in CRC form, poisoned when `p`, with the errors `e` (07 R186): symbols 0 to 63 are the data, 64 to 71 the CRC-64, 72 to 79 the
form word FW. The code is linear, so the check passes when the CRC of the errors is the error of the CRC, and FW reads 0 or 1. -/
def crcLine (p : Bool) (e : BitVec 640) : Found :=
  let fw := (if p then 1#64 else 0#64) ^^^ e.extractLsb' 576 64
  let body := (List.range 64).map (fun i => e.extractLsb' (8 * i) 8) ++ (List.range 8).map (fun i => e.extractLsb' (576 + 8 * i) 8)
  if e = 0 then (.pass, p, e)
  else if (fw = 0 ∨ fw = 1) ∧ body.foldl crc64Byte 0 = e.extractLsb' 512 64 then (.pass, decide (fw = 1), e)
  else (.bad, p, e)

/-- The form of a line follows from its channel's boundary pointer (07 R187). What its check finds, and what a word that passes or
corrects reads as. -/
def State.inRs (s : State) (t a : Nat) : Bool := decide (a < (s.ic t (dfaChan a)).convPtr)
def State.lineForm (s : State) (t a : Nat) (e : BitVec 640) : Found :=
  if s.inRs t a then rsLine (s.isX8 t) (s.isPoisoned t a) e else crcLine (s.isPoisoned t a) e
def State.lineCheck (s : State) (t a : Nat) (e : BitVec 640) : Check := (s.lineForm t a e).1
def State.lineGot (s : State) (t a : Nat) (e : BitVec 640) : Line × Bool :=
  (s.dramLine t a ^^^ (s.lineForm t a e).2.2.extractLsb' 0 512, (s.lineForm t a e).2.1)

/-- Where a line that has been corrected lies: the bucket of its channel, its slot and its device, as the event names them (07 R209). -/
def State.fixPlace (s : State) (t a : Nat) (fix : List Nat) : Nat := dfaChan a + 256 * s.dfaSlot t a + 65536 * (fix.headD 0 / 8)

/-- Raise a corrected-error bucket by one; above its threshold it is a storm, whose event names the place of the last correction (07 R209). -/
def State.bucket (s : State) (t b place : Nat) : State :=
  let id := pid bEcc t (0x20 + b)
  let n := (s.param id 0).toNat + 1
  if s.tileP bEcc t (0x30 + b) < n then
    let s := ((s.setParam id 0 0).countP (pid bEcc t (0x38 + b)) 0).bmcEvent t 4 bEcc t 0x03 (0x30 + b) place
    let (m, d) := s.mgmtLd
    (s.setBar m d { s.bar m d with vec3 := true }).emit (.event m d (if b < 4 then 1 else 2) [t, b])
  else s.setParam id 0 (BitVec.ofNat 64 n)

/-- The class of a queued read: host reads by urgency, then prefetches, then scrub reads (05 R151). The background reads of the Batten bus
requesters enter and leave their queues within the step of their command, one at a time. (DESIGN CHOICE, log 116.) -/
def State.readClass (s : State) (t : Nat) (e : RqEnt) : Nat :=
  match e.why with
  | .prefetch _ => 4
  | .scrub => if 0 < e.tries then 3 else 6
  | _ => 3 - urgencyOf e.target (s.localCount t - e.since)

/-- The urgency of a queued read as the hit cap compares it: a prefetch has that of a host read of urgency 0, a scrub read none (05 R152,
Table 5-7). -/
def State.readLevel (s : State) (t : Nat) (e : RqEnt) : Nat := if (match e.why with | .prefetch _ => true | _ => false) then 1 else 4 - min 4 (s.readClass t e)

/-- The queued reads that conflict with a read's row in its bank and are of equal or higher urgency (05 R152). -/
def State.conflicts (s : State) (k : Nat) (e : RqEnt) : List RqEnt :=
  let t := k / 8
  (s.rqOf k).filter (fun q => decide (s.bankKey t q.dfa = s.bankKey t e.dfa ∧ s.dfaRow t q.dfa ≠ s.dfaRow t e.dfa ∧ s.readLevel t e ≤ s.readLevel t q))

/-- The reads of a sub-channel in the order of 05 R151: by class, then row hits, then the oldest. After `dram.hit_cap` hits in a row a
bank is closed for a request of its own that conflicts and is of equal or higher urgency, which then goes before the hits (05 R152). -/
def State.readRank (s : State) (k : Nat) (e : RqEnt) : Nat :=
  let t := k / 8
  let r := Store.read (s.chan t (k % 8 / 2)).rows (s.bankKey t e.dfa) {}
  let isHit := r.isOpen && decide (r.row = s.dfaRow t e.dfa)
  let rivals := if isHit && decide (s.tileP bDram t 4 ≤ r.hits) then s.conflicts k e else []
  let cls := match rivals with
    | [] => s.readClass t e
    | q :: l => max (s.readClass t e) (l.foldl (fun c x => min c (s.readClass t x)) (s.readClass t q))
  (cls * 3 + (if !rivals.isEmpty then 2 else if isHit then 0 else 1)) * 2 ^ 70 + e.since

/-- The line of a read has waiters. -/
def Wait.onLine (w : Wait) (t off : Nat) : Bool := decide (w.why = .dram ∧ w.req.owner = t ∧ w.req.toff / 64 = off / 64)

/-- Fill Eaves with a line read from DRAM for a session: the merge-buffer entry of the line overlays the fill and is freed, with a write-out
of it that is under way (04 R122, R127). A line that has been allocated meanwhile stays as it is. -/
def State.fillEaves (s : State) (t a off n : Nat) (l : Line) (pf : Bool) : State :=
  if (s.evFind t a n).isSome then s
  else
  let m := s.mergeOf t off
  let (k, s) := (s.freeMerge t off).evAlloc t a off n
  s.setEv k (match m with
    | some m => { s.evLine k with data := Line.overlay l m.data m.mask, dirty := true, pend := m.pend, poison := m.poison, pf := false }
    | none => { s.evLine k with data := l, pf })

/-- What waits for a fill of a line: its readers, and the stores that its write-out holds. -/
def Wait.onFill (w : Wait) (t off : Nat) : Bool :=
  w.onLine t off || decide (w.req.owner = t ∧ (w.why = .merge ∨ (w.why = .writeOut ∧ w.req.toff / 64 = off / 64)))

/-- Deliver a checked line to its readers. A line found poisoned enters the poison table and is returned with poison; it is not allocated, and
an atomic on it changes nothing (03 R86; 04 R115, R122; 07 R204). -/
def State.deliverRead (s : State) (t : Nat) (e : RqEnt) (raw : Line) (p : Bool) : State :=
  if p && (match s.mergeOf t e.off with | some m => decide (m.mask ≠ Mask.full) | none => true) then
    let ws := s.waits.filter (fun w => w.onLine t e.off && !w.req.isStore)
    let s := ws.foldl (fun s w => s.answer w.req rOk 0 true .poison)
      ({ s with waits := s.waits.filter (fun w => !(w.onLine t e.off && !w.req.isStore)) }.enterPoison t e.off)
    State.settle (2 * s.waits.length + 2) s
  else (s.fillEaves t e.dfa e.off e.sess (s.cipherLine false t e.off e.dfa raw) false).release (fun w => w.onFill t e.off)

/-- Deliver a checked line to what it was read for (04 R110, R115, R128; 08 R222). A line found poisoned is returned
with poison and not allocated (04 R122). -/
def State.deliver (s : State) (t : Nat) (e : RqEnt) (raw : Line) (p : Bool) : State :=
  let a := e.dfa
  match e.why with
  | .homeTlb =>
    let p0 := s.homeOff t a / 8 / 8 * 8
    let s := (List.range 8).foldl (fun s i => s.tlbTouch t (p0 + i)) s
    let x := s.tt t
    let s := s.setTt t { x with owners := x.owners.map (fun o =>
      if o.2.valid ∧ p0 ≤ o.2.lpage ∧ o.2.lpage < p0 + 8 then (o.1, { o.2 with ref := true }) else o) }
    s.release (fun w => decide (w.why = .home ∧ w.req.owner = t ∧ p0 ≤ w.req.toff / 4096 ∧ w.req.toff / 4096 < p0 + 8))
  | .bitmap =>
    let g := (a - s.bitmapBase t) / 64
    (s.bitmapFill t (g * 2 ^ 21)).release (fun w => decide (w.why = .bitmap ∧ w.req.owner = t))
  | .mergeOut =>
    let s := if p then s.enterPoison t e.off else s
    let s := match s.mergeOf t e.off with
      | some m => if m.writing then s.mergeOut t m (s.cipherLine false t e.off a raw) p else s
      | none => s
    s.release (fun w => decide ((w.why = .writeOut ∨ w.why = .merge) ∧ w.req.owner = t))
  | .scrub => if p then s.enterPoison t e.off else s
  | .prefetch n =>
    if s.waits.any (fun w => w.onLine t e.off) then s.deliverRead t e raw p
    else if p then s.enterPoison t e.off
    else (s.fillEaves t a e.off n (s.cipherLine false t e.off a raw) true).release (fun w => w.onFill t e.off)
  | .demand => s.deliverRead t e raw p

/-- A read has failed its check: up to three further reads, then the line is in recovery (07 R192, step 1). -/
def State.failRead (s : State) (t : Nat) (e : RqEnt) : State :=
  let k := subKey t e.dfa
  if e.tries < 3 then s.setRq k ({ e with tries := e.tries + 1 } :: s.rqOf k)
  else s.setPt t { s.pt t with recov := (s.pt t).recov ++ [e] }

/-- What a read that has passed its check brings: the line as DRAM holds it, or the newer one of its write queue (04 R130). -/
def State.readLine (s : State) (t a : Nat) (got : Line × Bool) : Line × Bool :=
  match s.wqNewest t a with
  | some e => (e.data, e.poison)
  | none => got

/-- A read of a sub-channel returns with an error pattern: check, correction or failure, and delivery. -/
def State.returnRead (s : State) (k : Nat) (e : RqEnt) (err : BitVec 640) : State :=
  let t := k / 8
  let c := k % 8 / 2
  let s := (s.setRq k ((s.rqOf k).erase e)).touchRow t e.dfa
  let s := s.tally t (5 + c) 0x0001 { tile := t }
  let give := fun (s : State) (g : Line × Bool) => let (l, p) := s.readLine t e.dfa g; (s.deliver t e l p).kick t [.readq]
  let go := fun (s : State) => give (if 0 < e.tries then s.log t 4 bEcc t 0x04 0x01 e.dfa else s) (s.lineGot t e.dfa err)
  match s.lineCheck t e.dfa err with
  | .pass => go s
  | .corrected fix => go (s.bucket t c (s.fixPlace t e.dfa fix))
  | .bad => s.failRead t e

/-- A refresh of a rank has reached its deadline: it has been postponed by four intervals, or it is due and may not be postponed (05 R151,
R158). -/
def State.refreshLate (s : State) (t c rank : Nat) : Bool :=
  let r := Store.read (s.chan t c).refresh rank {}
  decide (4 ≤ r.postponed) || (s.due r.since (s.tRefi t c) && decide (r.pulled = 0) && !s.urgentReads t c rank)

/-- A refresh or a neighbour refresh goes before every other command of a sub-channel (05 R151, R161). -/
def State.refreshFirst (s : State) (k : Nat) : Bool :=
  let (t, c) := (k / 8, k % 8 / 2)
  (s.chan t c).nbr.any (fun p => decide (p.1 % 2 = k % 2)) || (s.ranks t).any (s.refreshLate t c)

/-- A sub-channel issues reads: its channel serves, or issues what is queued before a change of bank, no refresh goes first, and it is not in
write-drain state; a drain that an urgent read pauses lets reads of urgency 3 through (05 R151, R153, R156). -/
def State.readsIssue (s : State) (k : Nat) (e : RqEnt) : Bool :=
  let (t, c) := (k / 8, k % 8 / 2)
  let d := (s.chan t c).wrDrain (k % 2)
  decide (t < s.tiles ∧ c < 4) && !s.chFenced t c && (decide ((s.chan t c).power = .active) || (s.chan t c).fc.isSome) && (s.chan t c).train.isNone
    && !s.refreshFirst k && (!d.on || (d.paused && decide (s.readClass t e = 0)))

/-- What a read brings has to wait for room: the victim of its fill, or the entry that it completes (04 R120; 05 R153). -/
def State.readStuck (s : State) (t : Nat) (e : RqEnt) : Bool :=
  match e.why with
  | .demand | .prefetch _ => (s.evFind t e.dfa e.sess).isNone && s.evBlocked t e.dfa e.sess
  | .mergeOut => s.writeWaits t e.dfa
  | _ => false

/-- The read that the scheduler of a sub-channel ranks first, when it may issue and its line can be taken. -/
def State.nextRead (s : State) (k : Nat) : Option RqEnt :=
  match leastBy (s.readRank k) (s.rqOf k) with
  | some e => if s.readsIssue k e && !s.readStuck (k / 8) e then some e else none
  | none => none

/-- DRAM_READ_RETURN (05 R147): the read that the scheduler ranks first on a sub-channel returns its line with the
symbols of `err` in error. A fenced or held channel returns none. -/
def execDramReadReturn (tile channel sub : Nat) (err : BitVec 640) (s : State) : Run :=
  let k := 8 * tile + 2 * channel + sub
  .next (if channel < 4 ∧ sub < 2 then
    match s.nextRead k with
    | some e => s.returnRead k e err
    | none => s
  else s)

/-- HOME_TLB_FILL (04 R110): the home-table line of a page, which the scheduler ranks first, arrives and fills eight entries. -/
def execHomeTlbFill (tile page : Nat) (s : State) : Run :=
  let a := s.homeAddr tile (page * 8) / 64 * 64
  .next (match s.nextRead (subKey tile a) with
    | some e => if e.dfa = a ∧ e.why = .homeTlb then s.returnRead (subKey tile a) e 0 else s
    | none => s)

/-- TIDELINE_BITMAP_FILL (08 R222): the bitmap line of a 2 MiB group of DFA, which the scheduler ranks first, arrives and the stores' bits are
set. -/
def execTidelineBitmapFill (tile group : Nat) (s : State) : Run :=
  let a := (s.bitmapBase tile + group * 64) / 64 * 64
  .next (match s.nextRead (subKey tile a) with
    | some e => if e.dfa = a ∧ e.why = .bitmap then s.returnRead (subKey tile a) e 0 else s
    | none => s)

/-- TIDELINE_ROOM_GRANT (08 R231): room goes to the waiting stores in order of stamps, as far as it reaches. -/
def execTidelineRoomGrant (tile : Nat) (s : State) : Run := .next (if s.hasRoom tile then s.kick tile [.room] else s)

/-- MERGE_ENTRY_FREE (04 R129): the stores that wait for an entry take those that are free. -/
def execMergeEntryFree (tile : Nat) (s : State) : Run :=
  .next (if (s.pt tile).merge.length < 512 then s.kick tile [.merge] else s)

/-- Start the write-out of an entry (04 R128): a full one, or one whose line the write queue holds, goes at once; a
partial one waits for the read of its line, and stores to the line wait (04 R547). A full queue holds it (05 R153). -/
def State.startOut (s : State) (t : Nat) (m : Merge) : State :=
  if m.writing || s.lineFenced t m.dfa then s
  else if m.mask = Mask.full then (if s.writeWaits t m.dfa then s else (s.mergeOut t m 0 false).kick t [.writeOut, .merge])
  else
    match s.wqNewest t m.dfa with
    | some e =>
      if s.writeWaits t m.dfa then s
      else ((s.tally t 4 0x0002 {}).mergeOut t m (s.cipherLine false t m.off m.dfa e.data) e.poison).kick t [.writeOut, .merge]
    | none =>
      if s.rqFull t m.dfa .mergeOut then s
      else ((s.tally t 4 0x0002 {}).setMerge t { m with writing := true }).enqRead t m.dfa m.off m.sess .mergeOut m.stamp m.lat

/-- The age of an entry has reached `eaves.mrg_age` (ns). -/
def State.entryAged (s : State) (t : Nat) (m : Merge) : Bool := decide (m.stamp + s.tileP bEaves t 2 * 4 ≤ s.localCount t)

/-- An entry is to be written out: its mask is full, it is aged, or it is the oldest and 480 entries are held (04 R128). -/
def State.outDue (s : State) (t : Nat) (m : Merge) : Bool :=
  !m.writing && (decide (m.mask = Mask.full) || s.entryAged t m
    || decide (480 ≤ (s.pt t).merge.length ∧ (s.pt t).merge.all (fun x => decide (m.stamp ≤ x.stamp)) = true))

/-- The order in which the write-out chooses among the entries: by urgency, then by age (04 R135). -/
def State.outRank (s : State) (t : Nat) (m : Merge) : Nat := (3 - urgencyOf m.lat (s.localCount t - m.stamp)) * 2 ^ 70 + m.stamp

/-- MERGE_WRITE_OUT (04 R128, R135): the entry of a line is written out, when none that is to be written out goes before it. -/
def execMergeWriteOut (tile off : Nat) (s : State) : Run :=
  .next (match s.mergeOf tile off with
    | some m =>
      if s.outDue tile m ∧ (s.pt tile).merge.all (fun x => !s.outDue tile x || decide (s.outRank tile m ≤ s.outRank tile x)) = true then s.startOut tile m else s
    | none => s)

/-- MERGE_ENTRY_AGE (04 R128): the age of an entry reaches its limit. -/
def execMergeEntryAge (tile off : Nat) (s : State) : Run :=
  .next (match s.mergeOf tile off with
    | some m => if s.entryAged tile m then s.startOut tile m else s
    | none => s)

/-- EAVES_EVICTION (04 R120): a dirty line goes into its channel's write queue, and waits while the queue is full. -/
def execEavesEviction (tile set way : Nat) (s : State) : Run :=
  let k := evKey tile set way
  .next (if tile < s.tiles ∧ set < 2 ^ 17 ∧ way < 16 ∧ !s.writeWaits tile (s.evLine k).dfa then (s.cleanWay k).kick tile [.evict] else s)

/-- HARD_TIMEOUT (11 R353): a stalled request reaches `sess.hard_to` after its ingress and completes with its error
response; the move continues. -/
def execHardTimeout (tile link tag : Nat) (s : State) : Run :=
  .next (match s.waits.find? (fun w => w.stall.isSome && decide (w.req.tile = tile ∧ w.req.link = link ∧ w.req.tag = tag)
      && s.due (w.req.since + w.req.exempt) ((s.param (pid bSess 1023 4) w.req.sess).toNat * us)) with
    | some w =>
      let r := w.req
      let s := ({ s with waits := s.waits.erase w }).endStall r w.stall
      let s := (s.countP (pid bSess r.owner 5) r.sess).log r.owner 4 bSess r.owner 0x03 4 (r.sess * 2 ^ 43 + r.toff)
      let s := if r.via = some .mem then (if r.isRead then s.answer r rOk (BitVec.allOnes 512) true .stallto else s.answer r rError 0 false .stallto)
               else s.answer r rAbort 0 false .stallto
      State.settle (2 * s.waits.length + 2) s
    | none => s)

end Sys2Proof.Machine
end

