-- ==== Sys2Proof/Machine/MirApply.lean ====
section
/-! DEFINITION. What the standby does with its receive store: frames applied in order, line resync data stored,
checkpoints compared (10 R310 to R315), and messages to the witness (10 R316). -/

namespace Sys2Proof.Machine

/-- `mirr.pair_id`; 0 is a standalone unit. A change to or from 0 takes effect at the next cold start (10 R293, R294). -/
def State.pairId (s : State) : Nat :=
  if (s.devP bMirr 0 = 0) = (s.lease.pairIn = 0) then s.devP bMirr 0 else s.lease.pairIn

/-- Send REQ, RELEASE or BUMP to the witness with a new request number (10 Table 10-9, R318). -/
def State.witSend (s : State) (type value : Nat) : State :=
  if s.pairId = 0 then s
  else
    let n := s.lease.numbers + 1
    ({ s with lease := { s.lease with numbers := n, reqno := n, sentAt := s.clock, waiting := true, kind := type } }).emit
      (.witness type (s.lease.force && decide (type = 1)) s.lease.epoch n value 0)

/-- Send a REPORT with a new request number, which leaves an open request open (10 R311, R315, R319). (DEDUCED, log 131.) -/
def State.report (s : State) (cause arg : Nat) : State :=
  if s.pairId = 0 then s
  else
    let n := s.lease.numbers + 1
    ({ s with lease := { s.lease with numbers := n } }).emit (.witness 6 false s.lease.epoch n cause arg)

/-- The standby asks for the lease: every tile is synced, and its twin is lost or has lost its lease (10 R321). -/
def State.failover (s : State) : State :=
  if s.mode.mode = .mirs ∧ s.allSynced ∧ (s.lease.twinLost ∨ s.lease.twinLeaseLost) ∧ !s.lease.takeOver ∧ s.lease.wish ≠ .failover then
    ({ s with lease := { s.lease with wish := .failover } }).witSend 1 s.leaseLen
  else s

/-- The tide into ACTV of a unit that has been granted the lease, once its receive stores are empty (10 R322, R330). -/
def State.tryTakeOver (s : State) : State :=
  if s.lease.takeOver ∧ s.mode.mode = .mirs ∧ s.liveTiles.all (fun t => (s.mt t).store.isEmpty) then
    s.nameMode .actv (if s.lease.handoverDone then 6 else 3)
  else s

/-- The local DFA of a tile offset for a mover or the standby: pinned by identity, tiered by its home (01 R20, R21). -/
def State.localDfa (s : State) (t off : Nat) : Option Nat :=
  match s.extentAt t off with
  | some (n, e) =>
    if (s.ext n e).tiered then
      (if s.homeKind t (off / 4096) = 1 ∧ ¬ hMoving (s.homeEntry t (off / 4096)) then some (hFrame (s.homeEntry t (off / 4096)) * 4096 + off % 4096) else none)
    else some off
  | none => if off < s.dfaSize t then some off else none

/-- The newest content of a line by tile offset, from whichever home holds the page: local DRAM, or the current record, which is
the image of a page in flash only or on a lender (08 R250); zeros for an unmapped page. -/
def State.lineAt (s : State) (t off : Nat) : Line × Bool :=
  match s.localDfa t off with
  | some a => s.newest t (off / 64 * 64) (a / 64 * 64)
  | none =>
    if s.homeKind t (off / 4096) = 0 then (0, false)
    else (s.th t).recs.foldl (fun (b : Nat × Line × Bool) r =>
      if !r.ht ∧ r.lpage = off / 4096 ∧ r.kind ≠ 5 ∧ b.1 ≤ r.tm then (r.tm, if r.kind = 6 then (0, true) else (r.lines.getD (off / 64 % 64) 0, r.poison.getLsbD (off / 64 % 64))) else b) (0, 0, false) |>.2

/-- The request that a frame's store is, on the standby. -/
def frameReq (t : Nat) (f : Frame) (off : Nat) (d : Line) (mask : Mask) (p : Bool) : Req :=
  { src := .ctx noCtx, kind := .store, tile := t, link := 0, ld := 0, tag := 0, hpa := 0, mask, data := d, poison := p, stamp := f.tm,
    since := 0, sess := f.sess, off := 0, dpa := dpaOf t off }

/-- Put one line of a frame in place: marked, then stored through Eaves or the merge buffer (10 R310; 08 R223). -/
def State.applyLine (s : State) (t : Nat) (f : Frame) (off a : Nat) (d : Line) (mask : Mask) (p : Bool) : State :=
  let r := frameReq t f off d mask p
  (((s.bitmapFill t a).markPage t (a / 4096)).placeStore r a).notePoison r

/-- The operation that an atomic frame carries (10 Table 10-4): kind, operand size and offset, old value. -/
def Frame.atomic (f : Frame) : RKind × Nat × Nat :=
  let w := fun (lo n : Nat) => (f.data >>> lo).toNat % 2 ^ n
  let size := w 392 8
  (if w 384 8 = 1 then .fetchAdd size (BitVec.ofNat 128 (w 0 128)) else .cas size (BitVec.ofNat 128 (w 0 128)) (BitVec.ofNat 128 (w 128 128)), w 400 8, w 256 128)

/-- Apply an atomic: the standby computes on its own line and compares the old value; on a difference it stores the
active unit's value, fetches the line, and reports (10 R311). -/
def State.applyAtomic (s : State) (t : Nat) (f : Frame) (off a : Nat) : State :=
  let (k, at_, old) := f.atomic
  let l := (s.newest t off (a / 64 * 64)).1
  let (o, new) := atomicApply l at_ k
  if o.toNat = old then s.applyLine t f off a new Mask.full false
  else
    let size := match k with | .fetchAdd b _ => b | .cas b _ _ => b | _ => 0
    let fixed := (l &&& ~~~ ((BitVec.ofNat 512 (2 ^ (8 * size) - 1)) <<< (8 * at_))) ||| ((BitVec.ofNat 512 old) <<< (8 * at_))
    let s := s.applyLine t f off a (atomicApply fixed at_ k).2 Mask.full false
    (((s.sendLrq t off 1 .mismatch 0).log t 6 bMirr t 0x08 0x44 (dpaOf t off)).countP (pid bMirr t 5) 0).report 0x44 (dpaOf t off)

/-- A line of a frame cannot be placed yet: the victim of its allocation waits for its write queue, the merge buffer is full, or the line's
entry there is being written out, the conversion lap holds its group, or its channel is held (04 R120, R129, R547; 06 R175; 07 R190). -/
def State.lineWaits (s : State) (t n off a : Nat) (wide : Bool) : Bool :=
  (match s.mergeOf t off with | some m => m.writing | none => false) || s.converting t a || s.chanAway t (dfaChan a)
    || ((s.evFind t a n).isNone && (if wide then s.evBlocked t a n else (s.mergeOf t off).isNone && decide (512 ≤ (s.pt t).merge.length)))
def State.frameWaits (s : State) (t : Nat) (f : Frame) (a : Nat) : Bool :=
  if f.fk = 6 then (List.range 64).any (fun i => s.lineWaits t f.sess (f.off + 64 * i) (a / 4096 * 4096 + 64 * i) true)
  else decide (f.fk ≤ 4) && s.lineWaits t f.sess f.off a (decide (f.fk ≠ 1))

/-- Every line of a frame can be placed: its page is local, the Tideline has room, and cache and buffer take it; or the save forces it. -/
def State.frameReady (s : State) (t : Nat) (f : Frame) (force : Bool) : Option Nat :=
  match s.localDfa t f.off with
  | some a => if force || ((s.isDirty t a || s.hasRoom t) && !s.frameWaits t f a) then some a else none
  | none => none

/-- Apply the frame of the receive store that stands next in sequence order; unchanged when none does, or while its
page or room is awaited (10 R310). A page that is not home is asked for. -/
def State.applyNext (s : State) (t : Nat) (force : Bool) : State :=
  let x := s.mt t
  match x.store.find? (fun f => decide (f.seq = (x.applied + 1) % 2 ^ 48)) with
  | none => s
  | some f =>
    match s.frameReady t f force with
    | none => if (s.localDfa t f.off).isNone then s.wantMove t (f.off / 4096) f.sess 1 true else s
    | some a =>
      let s := match f.fk with
        | 0 => s.applyLine t f f.off a f.data Mask.full false
        | 1 => s.applyLine t f f.off a f.data f.mask false
        | 2 => s.applyLine t f f.off a 0 Mask.full true
        | 3 => s.applyLine t f f.off a 0 Mask.full false
        | 4 => s.applyAtomic t f f.off a
        | 6 => (List.range 64).foldl (fun s i => s.applyLine t f (f.off + 64 * i) (a / 4096 * 4096 + 64 * i)
                 (f.page.getD i 0) Mask.full (f.poison.getLsbD i)) s
        | _ => s
      let x := s.mt t
      s.setMt t { x with store := x.store.filter (fun g => decide (g.seq ≠ f.seq)), applied := f.seq, dEpoch := f.epoch,
                         digest := digestAdd (if x.digestFrom = some f.seq then BitVec.allOnes 64 else x.digestFor f.epoch) t f,
                         digestFrom := if x.digestFrom = some f.seq then none else x.digestFrom,
                         resync := x.resync.map (fun r => if f.fk = 6 then { r with left := r.left - 1 } else r) }

/-- Store the lines of a line resync at their places, each poisoned or not, and serve what waited for them (10 R312).
On the active unit the line of a fenced channel only answers its reader. -/
def State.storeLrs (s : State) (t : Nat) (w : LrsWait) : State :=
  (List.range w.lines.length).foldl (fun s i =>
    let off := w.off + 64 * i
    let (p, l) := w.lines.getD i (false, 0)
    let readers := s.waits.filter (fun v => decide (v.why = .twin ∧ v.req.owner = t ∧ v.req.toff / 64 = off / 64))
    let s := readers.foldl (fun s v =>
      if v.req.isRead then s.giveRead v.req l p
      else if s.tileFenced t || !s.reachable v.req.tile t || (match s.localDfa t off with | some a => s.lineFenced t a | none => false) then s.fencedAtomic v.req l p
      else s.serveReq v.req none) { s with waits := s.waits.filter (fun v => !readers.contains v) }
    let s := match s.localDfa t off with
      | some a => if s.boot.tileReset.contains t then
                    let s := (s.evDropAll t a).putDram t a (s.cipherLine true t off a l) p
                    if p then s.enterPoison t off else s
                  else if s.lineFenced t a ∧ ¬ ((s.fences.inForce.any (fun f => decide (f.tile = t ∧ f.reloading)))) then s
                  else let s := s.placeQuiet t off a l p
                       if p then s.enterPoison t off else s
      | none => s
    let s := s.setPt t { s.pt t with recov := (s.pt t).recov.filter (fun e => decide (e.off / 64 ≠ off / 64)) }
    let s := s.release (fun v => v.onLine t off || decide (v.why = .recovery ∧ v.req.owner = t ∧ v.req.toff / 64 = off / 64))
    s) s

/-- MSYNC of a context counts the pages of a tile, and ends with the last (13 R410). -/
def State.creditMsync (s : State) (t pages : Nat) : State :=
  s.ctxNums.foldl (fun (s : State) n => match (s.ctx n).long with
    | some (i, .msync tiles done) =>
      if tiles.testBit t then
        let left := tiles - 2 ^ t
        if left = 0 then s.finishR n .ok (BitVec.ofNat 64 (done + pages)) else s.setCtx n { s.ctx n with long := some (i, .msync left (done + pages)) }
      else s
    | _ => s) s

/-- Compare the digest when APPLIED has reached the checkpoint that waits (10 R314, R315). -/
def State.compareCkpt (s : State) (t : Nat) : State :=
  let x := s.mt t
  match x.ckptWait with
  | some c =>
    if c.seq = x.applied then
      if ~~~ x.digest = c.digest then
        let done := match x.resync with | some r => decide (r.left = 0) | none => false
        let s := s.setMt t { x with ckptWait := none, ckpt := some c, synced := x.synced || done, resync := if done then none else x.resync }
        let s : State := if s.lease.fbSince.isNone ∧ s.tileList.all (fun u => (s.mt u).synced) then { s with lease := { s.lease with fbSince := some s.clock } } else s
        let s := if done then s.creditMsync t (match x.resync with | some r => r.total | none => 0) else s
        (s.isahar t xCkok [BitVec.ofNat 64 c.seq, BitVec.ofNat 64 c.tm, c.digest]).failover
      else
        let s := (s.setMt t { x with ckptWait := none, synced := false }).isahar t xCkbad [BitVec.ofNat 64 c.seq, BitVec.ofNat 64 c.tm, c.digest]
        let s := { s with lease := { s.lease with fbSince := none } }
        ((s.log t 6 bMirr t 0x08 0x45 c.seq).countP (pid bMirr t 6) 0).report 0x45 c.seq
    else s
  | none => s

/-- The header of a data message (10 Table 10-2). -/
def msgHeader (epoch n : Nat) (lrs : Bool) (t seq0 tm0 : Nat) : List Byte :=
  [BitVec.ofNat 64 epoch, word [(57, n - 1), (56, b01 lrs), (48, t), (0, seq0)], BitVec.ofNat 64 tm0].flatMap wordBytes

/-- The descriptor and data of a frame under the Tidemark base of its message (10 Tables 10-3 and 10-4). -/
def Frame.wire (f : Frame) (tm0 : Nat) : List Byte := wordBytes (f.desc tm0) ++ f.bytes

/-- Answer a line resync request: the lines as they stand after every store placed, as FK 0 or FK 2, under the highest sequence assigned, on a
standby the highest applied (10 R312). (DEDUCED, log 133.) -/
def State.answerLrq (s : State) (t off count : Nat) : State :=
  match s.carrier t with
  | none => s
  | some c =>
    let tm := s.localCount t
    let fs := (List.range count).map (fun i =>
      let o := off + 64 * i
      let (l, p) := s.lineAt t o
      ({ seq := 0, epoch := s.epoch, tm, sess := match s.extentAt t o with | some (n, _) => n | none => 0, off := o, fk := if p then 2 else 0, data := l } : Frame))
    let seq0 := if s.mode.mode = .mirs then (s.mt t).applied else (s.mt t).lastSeq
    s.sendMsg c t xLrs 24 0 0 0 (msgHeader s.epoch count true t seq0 tm ++ fs.flatMap (fun f => f.wire tm))

/-- What APPLIED has reached: the twin's line resync requests that waited for it are answered, the data that waited for it is stored, and the
checkpoint is compared. -/
def State.afterApply (s : State) (t : Nat) : State :=
  let x := s.mt t
  let ready := x.lrqWait.filter (fun q => seqLe q.2.2 x.applied)
  let s := ready.foldl (fun s q => s.answerLrq t q.1 q.2.1) (s.setMt t { x with lrqWait := x.lrqWait.filter (fun q => !seqLe q.2.2 x.applied) })
  let x := s.mt t
  let due := x.lrsWait.filter (fun w => seqLe w.seq0 x.applied)
  let s := due.foldl (fun s w => s.storeLrs t w) (s.setMt t { x with lrsWait := x.lrsWait.filter (fun w => !seqLe w.seq0 x.applied) })
  s.compareCkpt t

/-- Apply every frame received, as a save does (08 R236). -/
def State.applyAll (s : State) (t : Nat) : State :=
  (List.range (s.mt t).store.length).foldl (fun s _ => (s.applyNext t true).afterApply t) s

end Sys2Proof.Machine
end

