-- ==== Sys2Proof/Machine/ThatchOps.lean ====
section
/-! DEFINITION. The flash store as operations: geometry and members, records and their images, log rows, the free log
pool and the drain rate, and the record of a dirty page (08 R224 to R229; 09 R254 to R271). -/

namespace Sys2Proof.Machine

/-- B_eff and the term that sets it (08 R229), in MiB rounded down. -/
def State.budgetTerms (s : State) (t : Nat) : List Nat :=
  [s.tileP bTide t 0 * 1024, (s.devP bTide 0 - 25) * (s.tl t).rate * 800 / 2 ^ 20, s.pool t * 10 / 11]
def State.recompute (s : State) (t : Nat) : State :=
  match s.budgetTerms t with
  | [a, b, c] =>
    let e := min a (min b c)
    s.setTl t { s.tl t with eff := e, limit := if e = a then 0 else if e = b then 1 else 2 }
  | _ => s

/-- A fence of a NAND unit lowers r at once (08 R228). -/
def State.nandRate (s : State) (t : Nat) : State :=
  let x := s.tl t
  (s.setTl t { x with rate := min x.rate (s.rateFor t x.meanProg) }).recompute t

/-- The free block of least erase count from a set that a test allows (09 R279). -/
def State.allocBlk (s : State) (t : Nat) (ok : Nat → Bool) : Option Nat :=
  let x := s.th t
  let keys := ((List.range x.sets).filter ok).map (fun k => (List.range x.blocks).map (fun b => 8192 * k + b))
  match keys.findSome? (fun l => l.find? (fun b => s.usable t b && decide (s.blkCount t b = 0))) with
  | some b => some b
  | none => leastBy (s.blkCount t) (((x.blks.map Prod.fst) ++ (s.hurtBlks t) ++ (x.phys.map (fun (p : Nat × Phys) => p.1 / 8192 / 16 * 8192 + p.1 % 8192))).filter (fun b => s.usable t b && ok (b / 8192)))

/-- The temperature of a die's target in °C, as the device measures it. -/
def State.dieTemp (s : State) (t b m : Nat) : Nat :=
  Config.measured (pid bNand t (0x40 + (8 * (m / 2) + (s.th t).memberTarget (b / 8192) m))) s.clock % 256

/-- Take a block into use as an open block of the members that are not fenced (09 R276, R287, R288). -/
def State.openBlk (s : State) (t b : Nat) (u : BUse) : State :=
  s.setBlk t b { use := u, isOpen := true, parity := true, progTm := s.localCount t, temps := (List.range 16).map (s.dieTemp t b), members := s.setMask t (b / 8192) }

/-- The threshold set that a read of a member of a block uses: 5·A + Δ, by the age of the block and the change of temperature (09 R276, Table
9-7). For a block programmed before the start, A is at least `thatch.off_bucket`. -/
def State.vthSet (s : State) (t b m : Nat) : Nat :=
  let x := s.blk t b
  let age := s.localCount t - x.progTm
  let h := 3600 * sec
  let a := if age < h then 0 else if age < 24 * h then 1 else if age < 168 * h then 2 else if age < 720 * h then 3 else if age < 4320 * h then 4 else 5
  let a := if x.progTm < (s.th t).mountTm then max a (s.tileP bThatch t 5) else a
  let d := (BitVec.ofNat 8 (s.dieTemp t b m)).toInt - (BitVec.ofNat 8 (x.temps.getD m 0)).toInt
  5 * a + (if d < -30 then 0 else if d < -10 then 1 else if d ≤ 10 then 2 else if d ≤ 30 then 3 else 4)

/-- Release a block: its records go, and its members await an erase and a seal (09 R266, R272, R280). -/
def State.releaseBlk (s : State) (t b : Nat) : State :=
  let x := s.th t
  let s := s.setTh t { x with recs := x.recs.filter (fun r => decide (r.blk ≠ b)) }
  let s := (List.range 16).foldl (fun s m => if (s.physB t b m).retired then s else s.setPhys t b m { s.physB t b m with unsealed := true }) s
  s.setBlk t b { use := .released }

/-- The data member and the member of a slot of a block (09 R257, R262, R267). -/
def State.recMember (s : State) (t : Nat) (r : TRec) : Nat :=
  let x := s.blk t r.blk
  let d := if x.use = .data then r.slot / (48 * (s.th t).wls) else r.slot % rowSlots x.members / 16
  (dataOf x.members r.blk).getD d 0

/-- A page read of the block of a record (09 R277). (DESIGN CHOICE, log 58.) -/
def State.flashRead (s : State) (t : Nat) (r : TRec) : State :=
  (s.setBlk t r.blk { s.blk t r.blk with reads := (s.blk t r.blk).reads + 1 }).tally t (10 + s.recMember t r / 2) 0x0002 {}

/-- Put a record into the open row of the drain block, or of the relocation block; the row is complete when every slot holds
one, 240 in a whole set (09 R266, R267). With no free block the record is not taken. -/
def State.putRec (s : State) (t : Nat) (r : TRec) (reloc : Bool) : State :=
  let cur := if reloc then (s.th t).relocBlk else (s.th t).drainBlk
  let b? := match cur with | some b => some b | none => s.allocBlk t (fun _ => true)
  match b? with
  | none => s
  | some b =>
    let s := if cur.isSome then s else s.openBlk t b .log
    let x := s.th t
    let bk := s.blk t b
    let row : Row := (x.rowsOpen.find? (fun w => decide (w.blk = b) && !w.full)).getD { blk := b, since := s.clock }
    let rows : List TRec := row.recs ++ [{ r with blk := b, slot := rowSlots bk.members * bk.rows + row.recs.length }]
    let full := decide (rowSlots bk.members ≤ rows.length)
    let s := s.setTh t { x with
      rowsOpen := x.rowsOpen.filter (fun w => decide (w ≠ row)) ++ [{ row with recs := rows, full, since := if full then s.clock else row.since }],
      drainBlk := if reloc then x.drainBlk else if full ∧ x.wls ≤ bk.rows + 1 then none else some b,
      relocBlk := if !reloc then x.relocBlk else if full ∧ x.wls ≤ bk.rows + 1 then none else some b }
    if full then s.setBlk t b { bk with rows := bk.rows + 1, isOpen := decide (bk.rows + 1 < x.wls) } else s

/-- A record can be taken: an open log block, or a free one. -/
def State.canPut (s : State) (t : Nat) (reloc : Bool) : Bool :=
  (if reloc then (s.th t).relocBlk else (s.th t).drainBlk).isSome || (s.allocBlk t (fun _ => true)).isSome

/-- Pad a row with records of KIND 0x5 (09 R267). -/
def State.padRow (s : State) (t : Nat) (w : Row) : State :=
  if w.full then s
  else
    let bk := s.blk t w.blk
    let x := s.th t
    (s.setTh t { x with rowsOpen := x.rowsOpen.map (fun v => if v = w then { v with full := true, since := s.clock } else v),
                        drainBlk := if x.drainBlk = some w.blk ∧ x.wls ≤ bk.rows + 1 then none else x.drainBlk,
                        relocBlk := if x.relocBlk = some w.blk ∧ x.wls ≤ bk.rows + 1 then none else x.relocBlk }).setBlk t w.blk
      { bk with rows := bk.rows + 1, isOpen := decide (bk.rows + 1 < x.wls) && bk.isOpen }

/-- A complete row reports program success: its records are programmed and verified (09 R267). -/
def State.programRow (s : State) (t : Nat) (w : Row) : State :=
  let x := s.th t
  s.setTh t { x with rowsOpen := x.rowsOpen.filter (fun v => decide (v ≠ w)), recs := x.recs ++ w.recs }

/-- The rows of a block that are not programmed: their records are written again, in a new row of the next drain block or of a new
relocation block (09 R268, R274). -/
def State.rewriteRows (s : State) (t b : Nat) (more : List TRec) (reloc : Bool) : State :=
  let ws := (s.th t).rowsOpen.filter (fun w => decide (w.blk = b))
  let x := s.th t
  let n := ws.countP (fun w => w.full)
  let s := s.setTh t { x with rowsOpen := x.rowsOpen.filter (fun w => decide (w.blk ≠ b)),
                              drainBlk := if x.drainBlk = some b then none else x.drainBlk,
                              relocBlk := if x.relocBlk = some b then none else x.relocBlk }
  let s := s.setBlk t b { s.blk t b with isOpen := false, rows := (s.blk t b).rows - n }
  (more ++ (ws.map Row.recs).flatten).foldl (fun (s : State) r => s.putRec t r reloc) s

/-- The verified record of a drained page: its bit clears unless it was stored to since (08 R224). -/
def State.recordDone (s : State) (t page : Nat) : State :=
  let x := s.tl t
  match x.inflight.find? (fun f => decide (f.page = page)) with
  | some f =>
    let s := s.setTl t { x with inflight := x.inflight.filter (fun g => decide (g.page ≠ page)), head := x.head.filter (fun p => decide (p ≠ page)) }
    if f.redirty then s.countP (pid bTide t 3) 0 else s.clearPage t page
  | none => s

/-- The home-table page region of a DFA page: its home-table page number (08 R225; 01 R23). -/
def State.htPageOf (s : State) (t page : Nat) : Option Nat :=
  if s.homeBase t ≤ page * 4096 ∧ s.homeOff t (page * 4096) < (s.dt t).htLen ∧ !s.training t (page * 4096) then some (s.homeOff t (page * 4096) / 4096) else none

/-- The logical page that a DFA page holds: a home-table page, the page of a frame's owner, or its own number (08
R225; 11 Table 11-1). -/
def State.logicalOf (s : State) (t page : Nat) : Bool × Nat :=
  match s.htPageOf t page with
  | some n => (true, n)
  | none =>
    let o := Store.read (s.tt t).owners page {}
    (false, if o.valid then o.lpage else page)

/-- The tile offset of the line at a DFA. -/
def State.offOf (s : State) (t a : Nat) : Nat := (s.logicalOf t (a / 4096)).2 * 4096 + a % 4096 / 64 * 64

/-- The 64 lines of a home-table page: eight entries of eight bytes in each. -/
def State.htLines (s : State) (t n : Nat) : List Line :=
  (List.range 64).map (fun i => Line.ofWords ((List.range 8).map (fun j => s.homeEntry t (512 * n + 8 * i + j))))

/-- The lines of a DFA page in their newest form, with poison bits. -/
def State.pageLines (s : State) (t page : Nat) : List Line × BitVec 64 :=
  match s.htPageOf t page with
  | some n => (s.htLines t n, 0)
  | none =>
    let lp := (s.logicalOf t page).2
    let ls := (List.range 64).map (fun i => s.newest t (lp * 4096 + 64 * i) (page * 4096 + 64 * i))
    (ls.map Prod.fst, (List.range 64).foldl (fun a i => if (ls.getD i (0, false)).2 then a ||| (1#64 <<< i) else a) 0)

/-- The even slot of the image key pair in use on a tile (14 R435). (DEDUCED, log 59.) -/
def State.imageKey (s : State) (t : Nat) : Nat := 4 + Store.read s.imgKey t 0

/-- The record of a dirty page at a Tidemark. -/
def State.pageRec (s : State) (t page ts : Nat) : TRec :=
  let ht := (s.logicalOf t page).1
  let lp := (s.logicalOf t page).2
  let (ls, p) := s.pageLines t page
  { kind := 1, ht, lpage := lp, tm := ts, poison := p, epoch := s.epoch, key := s.imageKey t, lines := ls }

/-- A page with lines on a fenced channel or DIMM (08 R227). -/
def State.pageStopped (s : State) (t page : Nat) : Bool :=
  (List.range 4).any (fun c => s.lineFenced t (page * 4096 + 128 * c))

/-- The drain of a dirty page goes to the head of the walk (08 R234; 11 R337, R340). -/
def State.headDrain (s : State) (t f : Nat) : State :=
  if (s.tl t).dirty.contains f && !(s.tl t).head.contains f then s.setTl t { s.tl t with head := (s.tl t).head ++ [f] } else s

/-- The home-table page that is to be drained before a page: its frame has HTPEND set (11 R337). -/
def State.htFirst (s : State) (t page : Nat) : Option Nat :=
  let o := Store.read (s.tt t).owners page {}
  if o.valid && o.htPend then some (s.homeAddr t (o.htPage * 4096) / 4096) else none

/-- Log blocks that hold records of a segment newer than its data block copy (09 R263). -/
def State.heldBlks (s : State) (t seg : Nat) : List Nat :=
  let x := s.th t
  let hold := fun (r : TRec) => !r.ht && decide (x.segOf r.lpage = seg) && decide ((s.blk t r.blk).use = .log)
  let stamp := fun (r : TRec) => (x.recs.filter (fun q => decide (q.lpage = r.lpage ∧ q.ht = r.ht) && decide ((s.blk t q.blk).use = .data))).foldl (fun a q => max a q.tm) 0
  ((x.recs ++ (x.rowsOpen.map Row.recs).flatten).filter (fun r => hold r && decide (stamp r < r.tm))).foldl (fun a r => insertNat r.blk a) []

/-- A record of the segment may not be written now (09 R263): it holds four log blocks, none the open drain block. -/
def State.segFull (s : State) (t seg : Nat) : Bool :=
  let l := s.heldBlks t seg
  decide (4 ≤ l.length) && !(match (s.th t).drainBlk with | some b => l.contains b | none => false) && s.save.armed.isNone

/-- The current image of a logical page: its record of largest Tidemark, the data block copy on a tie (09 R264). -/
def State.image (s : State) (t : Nat) (ht : Bool) (lp : Nat) : Option TRec :=
  (s.th t).recs.foldl (fun a r =>
    if r.ht = ht ∧ r.lpage = lp ∧ r.kind ≠ 5 then
      match a with
      | none => some r
      | some b => if b.tm < r.tm ∨ (b.tm = r.tm ∧ (s.blk t r.blk).use = .data) then some r else some b
    else a) none

/-- An image that holds data: KIND 0x6 holds none (09 R278). -/
def State.goodImage (s : State) (t : Nat) (ht : Bool) (lp : Nat) : Option TRec :=
  match s.image t ht lp with
  | some r => if r.kind = 6 then none else some r
  | none => none

/-- Line `i` of an image, zero where there is none (09 R260). -/
def TRec.line (r : TRec) (i : Nat) : Line × Bool := (r.lines.getD i 0, r.poison.getLsbD i)

end Sys2Proof.Machine
end

