-- ==== Sys2Proof/Machine/SaveOps.lean ====
section
/-! DEFINITION. The change of a timing bank and its end (06 R172, R177), the save as operations (08 R235 to R240), its
commit (02 R57; 15 R458) and the ways into BRUP and out of service (02 R49, R56, R61). -/

namespace Sys2Proof.Machine

/-- A timing bank of a channel is replaced. -/
def Chan.setBank (x : Chan) (bankH : Bool) (b : Bank) : Chan := if bankH then { x with bankH := b } else { x with bankL := b }

/-- Every setting that training finds, and the counts of the rate: values that nothing fixes stand for the settings (06 R165). (DESIGN CHOICE,
log 48.) -/
def State.newBank (s : State) (t c : Nat) (bankH : Bool) (rate : Nat) : State :=
  let n := s.free
  let b : Bank := { counts := countsFor (s.chan t c).spd rate, wdq := n + 1, phy := n + 2, base := n + 3, mr := n + 4, rcd := n + 5, buf := n + 6, pll := n + 7 }
  { s.setChan t c ((s.chan t c).setBank bankH b) with free := n + 7 }

/-- The steps 6 and 8 of a slice find new delays, voltages and equaliser taps (06 R179, R180); a drift updates the write DQ delays alone
(06 R172, R179). -/
def State.newDelays (s : State) (t c : Nat) (bankH all : Bool) : State :=
  let x := s.chan t c
  let b := if bankH then x.bankH else x.bankL
  let n := s.free
  { s.setChan t c (x.setBank bankH { b with wdq := n + 1, phy := if all then n + 2 else b.phy }) with free := n + 2 }

/-- The retraining condition of a bank of a channel by its temperature and its age (06 R179). -/
def State.retrainCond (s : State) (t c : Nat) (bankH : Bool) : Bool :=
  let x := s.chan t c
  let tt := 4 * (if bankH then x.ttempH else x.ttempL)
  let lim := 4 * s.tileP bDram t 0x11
  decide (tt + lim ≤ x.temp ∨ x.temp + lim ≤ tt) || s.due (if bankH then x.ageH else x.ageL) (s.tileP bDram t 0x12 * 3600 * sec)

/-- The controller reads the temperatures of the DIMMs of a channel, in 0.25 °C, none where a sensor fails: the hot state, and an event for
each failure (05 R159). -/
def State.readTemps (s : State) (t c : Nat) (t0 t1 : Option Nat) : State :=
  let x := s.chan t c
  let rs := if s.slotBits t = 0 then [t0] else [t0, t1]
  let hi := (rs.filterMap id).foldl max 0
  let fails := (List.range rs.length).filter (fun i => (rs.getD i none).isNone)
  let hot := if !fails.isEmpty then true else if 340 < hi then true else if hi ≤ 332 then false else x.hot
  let s := s.setChan t c { x with temp := if rs.all Option.isNone then x.temp else hi, hot, tempAt := s.clock }
  fails.foldl (fun s i => s.log t 4 bDram t 0x08 8 (2 * c + i)) s

/-- The retraining condition is evaluated: RTPEND follows it (06 R166, R179, R181). -/
def State.evalRetrain (s : State) (t c : Nat) : State :=
  let x := s.chan t c
  s.setChan t c { x with rtPend := s.retrainCond t c x.inUseH || x.rtDrift }

/-- A channel leaves self-refresh on a bank: `dram.prac_en` takes effect, every row is closed, REFab goes to each rank, and slices begin anew
on another bank (05 R157, R162, R163; 06 R172, R180). -/
def State.exitSelfRefresh (s : State) (t c : Nat) (toH : Bool) : State :=
  let x := s.chan t c
  let same := decide (x.inUseH = toH)
  s.setChan t c { x with inUseH := toH, power := .active, rows := [], powerDown := [], idleSince := s.clock,
                         refresh := (s.ranks t).foldl (fun a k => Store.write a k { since := s.clock } {}) [],
                         idleAt := (s.ranks t).foldl (fun a k => Store.write a k s.clock 0) [],
                         sliceStep := if same then x.sliceStep else 6, sliceFails := if same then x.sliceFails else 0,
                         rtDrift := same && x.rtDrift, prac := x.pracDimm && decide (s.tileP bDram t 0xA = 1) }

/-- The end of a change of bank: the channel serves on the new bank, the retraining condition is evaluated, and the held requests are released
(06 R172, R181). -/
def State.endChange (s : State) (t c : Nat) (toH : Bool) : State :=
  let s := (s.exitSelfRefresh t c toH).evalRetrain t c
  (s.setChan t c { s.chan t c with fc := none, phase := 0 }).kick t [.held]

/-- Bank H may be entered: it is valid, and its rate does not exceed `dram.rate_max` (06 R172, R173). -/
def State.usableH (s : State) (t c : Nat) : Bool := (s.chan t c).validH && decide ((s.chan t c).rateH ≤ s.tileP bDram t 0)

/-- A save brings changes and training of a channel to an end, unless the channel is fenced, which has stopped them as they stood (06 R177,
R178). A channel stopped in full training of bank H returns to bank L. -/
def State.stopTraining (s : State) (t c : Nat) : State :=
  if s.chFenced t c then s
  else
    let s := match (s.chan t c).fc with
      | some f => (s.quietChan t c).endChange t c (f.toH && s.usableH t c)
      | none => s
    let x := s.chan t c
    match x.train with
    | some r =>
      if r.bankH then ((s.setChan t c { x with train := none, slice := none, validH := false, rateH := 0 }).quietChan t c).endChange t c false
      else (s.setChan t c { x with train := none, slice := none, phase := 0 }).kick t [.held]
    | none => (s.setChan t c { x with slice := none, phase := if x.phase = 4 then 4 else 0 }).kick t [.held]
def State.stopTile (s : State) (t : Nat) : State :=
  let s := (List.range 4).foldl (fun s c => s.stopTraining t c) s
  s.setDt t { s.dt t with fcQueue := [], trainQueue := [] }

/-- Every link of a tile goes down: host links and twin paths (02 R56; 08 R236). -/
def State.linksDown (s : State) (t : Nat) : State :=
  let s := (List.range 4).foldl (fun s k => s.setLink t k { s.link t k with up := false, heldRwD := false, heldReq := false }) s
  s.setMt t { s.mt t with up0 := false, up1 := false, reasm := [], inbox := [], lrqs := [], lrqWait := [] }

/-- The key of a frame a loan's home names, and the DFA page of a local home. -/
def State.abandonMoves (s : State) (t : Nat) : State :=
  let x := s.tt t
  let s := x.moves.foldl (fun s m => if hMoving (s.homeEntry t m.lpage) then s.setHome t m.lpage (ins (s.homeEntry t m.lpage) 2 2 0) else s) s
  s.setTt t { s.tt t with moves := [], units := [], unitData := [], badData := [],
                          batt := (s.tt t).batt.filter (fun p => decide (p.1 = 1 ∨ p.1 = 9)), owner := none, ownerForced := false }

/-- Long instructions that a save ends: those whose requests phase 2 discards or whose engines stop (08 R236; 14 R446). -/
def LongOp.stopped : LongOp → Bool
  | .waitUntil _ | .idle _ | .apls | .sclose _ _ | .snap _ _ | .freeze _ _ _ | .fwst | .save => false
  | _ => true

/-- Phase 2 of a save (08 R236), on every tile that is not fenced. -/
def State.quiesce (s : State) : State :=
  let s := { s with waits := [], unacked := [], groups := [], rq := [] }
  let s := s.finishAll LongOp.stopped .mode 0
  s.liveTiles.foldl (fun s t =>
    let s := if s.mode.mode = .mirs ∨ s.mode.prev = .mirs then s.applyAll t else s
    let s := (s.linksDown t).abandonMoves t
    let s := s.setPt t { s.pt t with recov := [] }
    let s := (List.range 4).foldl (fun s c => s.setIc t c { s.ic t c with lapRun := false, lapStart := 0 }) s
    s.setTh t { s.th t with phys := (s.th t).phys.map (fun p => if p.2.erasing then (p.1, { p.2 with suspended := true }) else p) }) s

/-- The CRC-64 of a record that DIGEST sums, over the lines of the page in plaintext (08 Table 8-6). (DESIGN CHOICE, log 123.) -/
def TRec.crc (r : TRec) : Word :=
  crc64 ((wordBytes (BitVec.ofNat 64 r.lpage)).take 4 ++ wordBytes (BitVec.ofNat 64 r.tm) ++ (r.lines.map Line.bytes).flatten)

/-- The order of phase 5: the home-table pages that others wait for first (11 R337). -/
def State.drainOrder (s : State) (t : Nat) : List Nat :=
  let d := (s.tl t).dirty
  let first := d.filter (fun q => d.any (fun p => decide (s.htFirst t p = some q)))
  first ++ d.filter (fun q => !first.contains q)

/-- Phase 5: every dirty page of a tile that no fence stops is drained into a record; the records it wrote (08 R224,
R227, R235). -/
def State.drainAll (s : State) (t : Nat) : State × List TRec :=
  (s.drainOrder t).foldl (fun (p : State × List TRec) page =>
    let waits := match p.1.htFirst t page with | some h => (p.1.tl t).dirty.contains h | none => false
    if p.1.pageStopped t page || waits || !p.1.canPut t false then p
    else
      let r := p.1.pageRec t page (p.1.localCount t)
      ((p.1.putRec t r false).clearPage t page, p.2 ++ [r])) (s, [])

/-- Phase 6: every open row is padded and programmed and every open log block is closed (08 R235; 09 R267). -/
def State.closeLogs (s : State) (t : Nat) : State :=
  let s := (s.th t).rowsOpen.foldl (fun s w => s.padRow t w) s
  let s := (s.th t).rowsOpen.foldl (fun s w => s.programRow t w) s
  let x := s.th t
  s.setTh t { x with blks := x.blks.map (fun p => (p.1, if p.2.use = .log then { p.2 with isOpen := false } else p.2)), drainBlk := none, relocBlk := none }

/-- Bits of a list of channels. -/
def chanMask (p : Nat → Bool) : Nat := (List.range 4).foldl (fun a c => if p c then a + 2 ^ c else a) 0

/-- The words of a save record (08 Table 8-6) with its CRC-64. -/
def saveWords (ws : List Word) : List Word := ws ++ [crc64 (ws.map wordBytes).flatten]

/-- LASTSEQ (08 Table 8-6): in MIRS the highest sequence applied; in ACTV the highest contiguous one whose receipt had
arrived. -/
def State.saveSeq (s : State) (t : Nat) (m : Nat) : Nat :=
  if m = 4 then (s.mt t).applied
  else if m = 3 then
    match (s.mt t).slots.find? (fun sl => !sl.ok) with
    | some sl => (sl.frame.seq + (2 ^ 48 - 1)) % 2 ^ 48
    | none => (s.mt t).lastSeq
  else 0

/-- The flush of phase 7 of a save (08 Table 8-5; 16 R475, R476): the SRAM of the tile is committed, where its recorder area can be written. -/
def State.flushTile (s : State) (t : Nat) : State :=
  if s.areaUp t then
    let s := if (s.rt t).batch.isSome then s else s.tally t 36 0x0003 { cls := some 4 }
    (s.setRt t { s.rt t with wanted := false }).commitBatch t (s.rt t).sram.length
  else s

/-- The last confirmed checkpoint goes to the system area (10 R314). (DEDUCED, log 107.) -/
def State.persistCkpt (s : State) (t : Nat) : State :=
  match (s.mt t).ckpt with
  | some c => s.setTh t { s.th t with ckptTm := c.tm, ckptSeq := c.seq }
  | none => s

/-- A tile at the commit of a save. -/
def State.atCommit (s : State) (t : Nat) : CommitTile :=
  { dirty := s.dirtyCount t, eff := (s.tl t).eff, rate := (s.tl t).rate, bankH := chanMask (fun c => (s.chan t c).inUseH),
    fencedCh := chanMask (s.chFenced t), epoch := s.epoch }

/-- Phases 3 to 8 of the save of a tile, with the record that phase 8 writes; `sref` says that phase 9 follows. -/
def State.savePhases (s : State) (t : Nat) (x : CommitTile) (cause mode tc : Nat) (armed sref : Bool) : State :=
  let seq := s.saveSeq t mode
  let s := s.stopTile t
  let s := s.cleanRange t 0 (2 ^ 42)
  let s := s.setPt t { s.pt t with merge := [], mergeFull := false }
  let s := (List.range 4).foldl (fun s c => if s.chFenced t c then s else s.drainChan t c) s
  let s := (s.th t).rowsOpen.foldl (fun s w => (s.padRow t w)) s
  let s := (s.th t).rowsOpen.foldl (fun s w => s.programRow t w) s
  let s := (s.tl t).inflight.foldl (fun s f => s.recordDone t f.page) s
  let (s, recs) := s.drainAll t
  let und := s.dirtyCount t + (s.th t).backlog.length
  let s := ((s.closeLogs t).persistCkpt t).flushTile t
  let done := s.localCount t
  let w := saveWords [
    word [(32, 0x56534C50), (16, 1), (4, 2), (0, t)], BitVec.ofNat 64 x.epoch, BitVec.ofNat 64 seq, BitVec.ofNat 64 tc, BitVec.ofNat 64 done,
    word [(32, und), (0, recs.length)], recs.foldl (fun a r => a ^^^ r.crc) 0,
    word [(56, cause), (52, mode), (48, x.bankH), (44, x.fencedCh), (8, x.rate), (2, b01 armed), (1, b01 sref)],
    word [(0, (s.ic t 0).convPtr / 16384)], word [(0, (s.ic t 1).convPtr / 16384)], word [(0, (s.ic t 2).convPtr / 16384)], word [(0, (s.ic t 3).convPtr / 16384)],
    word [(32, x.eff), (0, x.dirty)], 0, 0]
  { s with save := { s.save with recs := Store.write s.save.recs t w [] } }

/-- Phase 9: REFab to each rank and self-refresh on every channel that is not fenced; the loans of a lender are lost. -/
def State.sleepTile (s : State) (t : Nat) : State :=
  (List.range 4).foldl (fun s c => if s.chFenced t c then s else
    let s := s.quietChan t c
    s.setChan t c { s.chan t c with power := .selfRefresh, powerDown := [] }) s

/-- The TAP returns to Test-Logic-Reset, and the lands to their function (19 R543). -/
def State.tapReset (s : State) : State := { s with tap := { s.tap with instr := 1, handed := false } }

/-- A save commit ends scan hold's hold of the lands; DRAMUP stays clear (19 R543). -/
def State.commitTap (s : State) : State :=
  if s.tap.scanHold then
    { s.tapReset with pwr := { s.pwr with dramUp := 0 },
                      tap := { s.tapReset.tap with scanHold := false },
                      chans := s.chans.map (fun p => (p.1, { p.2 with validL := false, validH := false, rateH := 0 })) }
  else s

/-- Commit a save (02 R57; 06 R177; 08 R235; 15 R458): only in RSTR, ACTV, MIRS, SOLO and MAIN, and only once. Changes of bank and training end,
and those that have not started are dropped. A tide that has passed its instant is waited for; the others are cancelled. (DEDUCED, log 104.) -/
def State.commitSave (s : State) (cause : Nat) (planned warm : Bool) : State :=
  if !s.mode.mode.serving || s.save.run.isSome || s.mode.leaving then s
  else
    let run : SaveRun := { cause, mode := s.mode.mode.code, armed := s.save.armed.isSome, tidemark := s.master, since := s.clock, tiles := s.tileList.map s.atCommit, warm, planned,
                           runFrom := if s.inputPresent then none else some s.clock }
    let s := { s with save := { s.save with run := some run, armed := none, pfwSince := none, pfwOff := none },
                      pwr := { s.pwr with state := if s.pwr.state = SeqState.faulted then .faulted else .committed },
                      mode := { s.mode with soloMain := false, warmReset := s.mode.warmReset && warm } }
    let s := s.stopFuses.commitTap.cancelTides
    let s := s.liveTiles.foldl State.stopTile s
    if s.tides.all (fun d => decide (d.phase = .released ∨ d.phase = .backSwapped)) then s.nameSaveTide else s

/-- A class 0x1 drop, PFW_L and the rest: the save record of every tile is written when its SAVE_COMPLETE comes. The
SAVE tide has swapped: phase 2 (08 R236). -/
def State.enterSave (s : State) (cause : Nat) : State :=
  let s := s.setMode .save cause
  let run := s.save.run.map (fun r => { r with instant := some s.master })
  let s := { s with save := { s.save with run := run }, lease := { s.lease with held := false, waiting := false } }
  s.quiesce

/-- A tile ends phase 10 of its save. -/
def State.saveTile (s : State) (t : Nat) : State :=
  match s.save.run with
  | some r =>
    let s := (s.savePhases t (r.tiles.getD t {}) r.cause r.mode (r.instant.getD r.tidemark) r.armed true).sleepTile t
    let s := s.setParam (pid bTide t 5) 0 (BitVec.ofNat 64 ((s.clock - r.since) / ms))
    { s with save := { s.save with run := s.save.run.map (fun r => { r with complete := insertNat t r.complete }) } }
  | none => s

/-- Clear every fence, as a cold start, a warm reset or a power-on reset does (01 R41). -/
def State.clearFences (s : State) : State :=
  let s := s.fences.inForce.foldl (fun s f => s.log 0 3 (fenceBlock f.cls) f.inst 0x02 f.cause f.tile) s
  { s with fences := { s.fences with inForce := [] } }

/-- The newest save record of a tile, its words, and whether it is valid (08 R240). -/
def State.saveRec (s : State) (t w : Nat) : Word := (Store.read s.save.recs t []).getD w 0
def State.recValid (s : State) (t : Nat) : Bool :=
  let ws := Store.read s.save.recs t []
  let inTime := (s.th t).recs.filter (fun r => decide (r.kind = 1 ∧ (s.saveRec t 3).toNat ≤ r.tm ∧ r.tm ≤ (s.saveRec t 4).toNat))
  let mine := inTime.drop (inTime.length - fld (s.saveRec t 5) 31 0)
  decide (ws.length = 16) && decide (fld (s.saveRec t 0) 63 16 = 0x56534C500001) && decide (saveWords (ws.take 15) = ws) &&
    decide (fld (s.saveRec t 0) 7 4 = 2) && decide (fld (s.saveRec t 5) 63 32 = 0) &&
    decide (mine.length = fld (s.saveRec t 5) 31 0) && decide (mine.foldl (fun a r => a ^^^ r.crc) 0 = s.saveRec t 6)

/-- A unit has a valid save record: every tile's is valid and all carry one EPOCH and one T_COMMIT. -/
def State.unitValid (s : State) : Bool :=
  s.tileList.all (fun t => s.recValid t && decide (s.saveRec t 1 = s.saveRec 0 1 ∧ s.saveRec t 3 = s.saveRec 0 3))

/-- The restore path of a tile by what it finds (02 R60; 08 R243; 15 R464). -/
def State.choosePath (s : State) (t : Nat) : Nat :=
  if (s.th t).recs.isEmpty then 0
  else if s.recValid t then (if s.pwr.dramUp.getLsbD t ∧ bit (s.saveRec t 7) 1 then 2 else 1)
  else 3

/-- The rate r with which a start begins: RATE of the last valid save record, or 16,000 MB/s (08 R228). -/
def State.startRate (s : State) (t : Nat) : State :=
  s.setTl t { s.tl t with rate := if s.recValid t then fld (s.saveRec t 7) 39 8 else 16000, rateMeasured := false, rateHigh := none, rateAt := s.clock, meanProg := 0 }

/-- A tile of a start that follows a save with the rails up has loaded nothing yet, and no bit is set (02 R61; 08 R241). -/
def TideTile.unloaded (x : TideTile) : TideTile := { x with dirty := [], inflight := [], head := [], opened := false, loaded := [], pages := [], verifyAt := 0, htLoaded := false }

/-- The start on a save whose input has returned: steps 1 to 5 and 9 are skipped, the restore path is chosen, and everything after that is still
to do (02 R61). DRAM stays in self-refresh. -/
def State.backToBrup (s : State) : State :=
  let s := s.tileList.foldl (fun (s : State) t => s.startRate t) s
  { s with
    home := s.home.filter (fun q => decide (s.choosePath (q.1 / 2 ^ 31) = 2)),
    twinTides := [], save := { s.save with run := none, armed := none },
    pwr := { s.pwr with state := if s.pwr.state = SeqState.faulted then .faulted else .running },
    tide := s.tide.map (fun p => (p.1, p.2.unloaded)),
    boot := { s.boot with done := [1, 2, 3, 4, 5, 9], atMain := [], failStep := 0, decided := false, auth := false, lone := false, forced := false,
                          twin := none, own := none, twinAuth := false, pairSince := 0, restored := [], fullSpeed := [], dimms := s.tileList, ucie := [],
                          paths := s.tileList.foldl (fun a t => Store.write a t (s.choosePath t) 0) [] } }

/-- Leave service as a whole (02 R56): the tiles that are not fenced run phases 2 to 10 without a tide; the others'
ingresses stop. -/
def State.leaveService (s : State) : State :=
  if s.mode.leaving || decide (s.mode.mode = .stby ∨ s.mode.mode = .save) then s
  else
    let run : SaveRun := { cause := 6, mode := s.mode.mode.code, armed := s.save.armed.isSome, tidemark := s.master, since := s.clock, tiles := s.tileList.map s.atCommit,
                           instant := some s.master, planned := false, runFrom := if s.inputPresent then none else some s.clock }
    let lead := !s.tileFenced 0
    let s := s.tileList.foldl State.linksDown s.stopFuses
    let s := { s with save := { s.save with run := some run, armed := none }, pwr := { s.pwr with state := if s.pwr.state = SeqState.faulted then .faulted else .committed },
                      mode := { s.mode with leaving := true, soloMain := false }, boot := { s.boot with autoBlock := true }, tides := [], set := {} }
    let s := s.log 0 7 bSys 1023 0x06 6 0
    let s := if lead then s.setMode .save 0x0C else s
    let s := s.quiesce
    { s with mode := { s.mode with leaving := true } }

/-- Every tile that is not fenced has ended phase 10. -/
def State.saveEnded (s : State) (run : SaveRun) : Bool := s.liveTiles.all (fun t => run.complete.contains t)

/-- The end of a save: every tile that is not fenced has handed its completion (02 R49, R55, R56, R61; 15 R463). The return to BRUP is a Spring
tide that the device names. -/
def State.endSave (s : State) (run : SaveRun) : State :=
  if s.mode.leaving then s.shutdown 0x0C
  else if run.warm && !run.forceOff then s.nameTide [.mode .brup 0x0A]
  else if s.inputPresent && !run.planned && !run.forceOff then s.nameTide [.mode .brup 0x08]
  else s.shutdown 0x0F

end Sys2Proof.Machine
end

