-- ==== Sys2Proof/Machine/FenceOps.lean ====
section
/-! DEFINITION. Fencing as one operation: which units there are, the raising of a fence with its effects, and its
clearing (01 R37 to R41; 07 R211 to R217, R546; 09 R287 to R289; 10 R321, R324). -/

namespace Sys2Proof.Machine

/-- The class, instance and tile name a unit of the part (07 R546, Table 7-13; 01 R12). -/
def State.unitExists (s : State) (cls inst t : Nat) : Bool :=
  decide (t < s.tiles) && (match cls with
    | 0x1 => decide (inst < 4)
    | 0x2 => decide (inst < 8 ∧ inst % 2 < 2 ^ s.slotBits t)
    | 0x3 => decide (inst < 8)
    | 0x4 => decide (inst < 64 ∧ inst % 8 < (s.th t).tgts)
    | 0x5 => decide (inst < 128)
    | 0x6 => decide (inst < 16)
    | 0x7 => decide (inst < s.linkCount t ∨ (16 ≤ inst ∧ inst < 32))
    | 0x8 => decide (inst < 2)
    | 0x9 => decide (inst < (match s.part with | .t2a => 2 | .t4a => 2 | .t8a => if t % 4 = 0 ∨ t % 4 = 3 then 2 else 3))
    | 0xA => decide (inst = 0)
    | _ => false)

/-- The unit's enclosing unit is fenced: the channel of a DIMM, the NAND channel of a target, the tile of anything (01
R40). -/
def State.enclosed (s : State) (cls inst t : Nat) : Bool :=
  (decide (cls ≠ 0xA) && s.tileFenced t) || (decide (cls = 0x2) && s.fenced 0x1 (inst / 2) t) || (decide (cls = 0x4) && s.fenced 0x3 (inst / 8) t)

/-- Line resync requests end with the loss of the twin: host reads of fenced lines answer poisoned (07 Table 7-11; 10 R312),
and a page that the drain was about stays dirty. -/
def State.dropLrqs (s : State) : State :=
  let ws := s.waits.filter (fun w => decide (w.why = .twin))
  let s : State := { s with waits := s.waits.filter (fun w => decide (w.why ≠ Why.twin)) }
  let s := ws.foldl (fun (s : State) w => if w.req.isRead then s.answer w.req rOk 0 true .poison else s.answer w.req rAbort 0 false .fenced) s
  s.tileList.foldl (fun (s : State) t =>
    let ps := (s.mt t).lrqs.filterMap (fun (q : Lrq) => match q.why with | .drain p => some p | _ => none)
    let s := s.setTl t { s.tl t with inflight := (s.tl t).inflight.filter (fun f => !ps.contains f.page) }
    s.setMt t { s.mt t with lrqs := [], lrqWait := [] }) s

/-- Instructions that cannot end without the twin (13 R409 to R411). (DEDUCED, log 68.) -/
def LongOp.needsTwin : LongOp → Bool
  | .mrole _ | .msync _ _ | .mdig _ => true
  | _ => false

/-- The unit has lost its twin (10 R321, R324; 01 R40): the active unit asks for a new epoch, and a synced standby for
the lease; a resync under way starts again when the link returns. -/
def State.loseTwin (s : State) : State :=
  if s.pairId = 0 || s.lease.twinLost then s
  else
    let s := { s.dropLrqs with lease := { s.lease with twinLost := true, twinMirs := false, fbSince := none } }
    let s := s.finishAll LongOp.needsTwin .mode 0
    let s : State := { s.twinTides.foldl (fun (s : State) d => s.restore d.undo) s with twinTides := [] }
    let s := s.tileList.foldl (fun (s : State) t =>
      s.setMt t { s.mt t with synced := (s.mt t).synced && decide (s.mode.mode = .mirs),
                              resync := (s.mt t).resync.map (fun r => { r with kind := 1, started := false, confirmed := false, todo := [] }) }) s
    if s.mode.mode = .actv then ({ s with lease := { s.lease with wish := .bump } }).witSend 5 0
    else s.failover

/-- Whether no twin path of any tile is left (01 R40). -/
def State.noPaths (s : State) : Bool :=
  s.liveTiles.all (fun t => (s.fenced 0x8 0 t || !(s.mt t).up0) && (s.fenced 0x8 1 t || !(s.mt t).up1))

/-- The contexts of a sequencer thread, or of a tile, leave their threads (01 Table 1-10). -/
def State.dropThreads (s : State) (p : Ctx → Bool) : State :=
  s.ctxNums.foldl (fun s n => if (s.ctx n).thread.isSome && p (s.ctx n) then s.setCtx n { s.ctx n with thread := none, ready := s.clock } else s) s

/-- Long instructions that cannot be restarted on another thread (13 Table 13-2). -/
def LongOp.noRestart : LongOp → Bool
  | .apls | .zln _ _ _ _ _ | .sclose _ _ | .mrole _ | .store1 | .cryp | .fwst => true
  | _ => false

/-- A sequencer thread is fenced: its context goes to another thread. Its instruction starts again there, or completes
with FENCED (12 R363; 13 R391, R399). -/
def State.fenceThread (s : State) (t inst : Nat) : State :=
  s.ctxNums.foldl (fun s n =>
    if (s.ctx n).thread = some inst ∧ (s.ctx n).tile = t then
      let s := s.setCtx n { s.ctx n with thread := none, ready := s.clock }
      match (s.ctx n).long with
      | some (i, op) =>
        if op.noRestart then
          let acked := match op with | .zln _ _ _ k _ => k | _ => 0
          let zln := match op with | .zln _ _ _ _ _ => true | _ => false
          s.finishLong n .fenced (BitVec.ofNat 64 acked) (if zln then [BitVec.ofNat 64 acked] else []) true
        else
          match op with
          | .waitUntil _ => if iXf i.word then s else s.setCtx n { s.ctx n with long := some (i, .waitUntil (s.localCount t + iImm i.word)) }
          | _ => s
      | none => s
    else s) s

/-- The scheduler stops issuing to fenced lines: the reads queued for them leave their queues, and so do the writes, whose lines R217 reloads.
The requests that wait are handled again, those of fenced lines and of tiles that no route reaches under the fenced behaviour (01 R14, R39;
05 R156). (DESIGN CHOICE, log 115.) -/
def State.reissue (s : State) (t : Nat) : State :=
  let s := (List.range 8).foldl (fun s i =>
    let s := s.setRq (8 * t + i) ((s.rqOf (8 * t + i)).filter (fun e => !s.lineFenced t e.dfa))
    s.setWq (8 * t + i) ((s.wqOf (8 * t + i)).filter (fun e => !s.lineFenced t e.dfa))) s
  let s := s.setPt t { s.pt t with recov := (s.pt t).recov.filter (fun e => !s.lineFenced t e.dfa) }
  s.kick t [.held, .dram, .pend, .bitmap, .home, .readq, .recovery, .writeOut, .merge, .room, .evict, .move, .unit, .load]
def State.reissueCut (s : State) : State :=
  s.release (fun w => decide (w.req.owner < s.tiles) && !s.reachable w.req.tile w.req.owner
    && !([Why.gate, .line, .queue, .ingress, .tideHold, .twin, .window].contains w.why))

/-- The records that a fence takes from the image: those on a lost member, of a block whose parity does not give them
back (09 R271, R287 to R289). -/
def State.lostRecs (s : State) (t : Nat) : List TRec :=
  (s.th t).recs.filter (fun r =>
    let k := r.blk / 8192
    let lost := (List.range 16).countP (fun m => (s.blk t r.blk).members.testBit m && !s.memberOk t k m)
    !s.memberOk t k (s.recMember t r) && (decide (2 ≤ lost) || !(s.blk t r.blk).parity))

/-- The fence of a NAND channel or target takes a member of a block. -/
def State.takesMember (s : State) (t cls inst b : Nat) : Bool :=
  (List.range 16).any (fun m => (s.blk t b).members.testBit m
    && decide (if cls = 0x3 then m / 2 = inst else 8 * (m / 2) + (s.th t).memberTarget (b / 8192) m = inst))

/-- A NAND fence: the rate falls; the open blocks with a member there close, and their rows that are not yet programmed are written to other
blocks; a block that still has its parity is marked, so that what lay on the member is rebuilt and moved; and the pages whose current record
is lost join the backlog (09 R271, R287 to R289). -/
def State.nandFence (s : State) (t cls inst : Nat) : State :=
  let s := s.nandRate t
  let lost := s.lostRecs t
  let pages := (lost.filter (fun r => decide (s.image t r.ht r.lpage = some r))).foldl (fun (a : List Nat) r => insertNat (if r.ht then 2 ^ 31 + r.lpage else r.lpage) a) []
  let x := s.th t
  let s := s.setTh t { x with recs := x.recs.filter (fun r => !lost.contains r), backlog := x.backlog ++ pages.filter (fun p => !x.backlog.contains p) }
  let hit := ((s.th t).blks.filter (fun p => decide (p.2.use = .log) && p.2.parity && s.takesMember t cls inst p.1)).map Prod.fst
  hit.foldl (fun s b =>
    let reloc := decide ((s.th t).relocBlk = some b)
    let s := s.setBlk t b { s.blk t b with marked := true }
    if (s.blk t b).isOpen || (s.th t).rowsOpen.any (fun w => decide (w.blk = b)) then s.rewriteRows t b [] reloc else s) s

/-- The tile fenced is the lead tile, or the policy takes the device out of service (01 R38; 02 R56). -/
def State.fenceLeaves (s : State) (t : Nat) : Bool := decide (t = 0) || decide (s.devP bSys 7 = 1)

/-- The effects of a fence by its class (01 Table 1-10). -/
def State.fenceEffect (s : State) (cls inst t : Nat) : State :=
  match cls with
  | 0x1 => s.reissue t
  | 0x2 => s.reissue t
  | 0x3 => s.nandFence t 0x3 inst
  | 0x4 => s.nandFence t 0x4 inst
  | 0x5 => s.fenceThread t inst
  | 0x7 =>
    let mine := fun (x : Sess) => x.isOpen && decide (x.tile = t ∧ (if inst < 4 then x.link = inst else x.ld = inst - 16))
    let s : State := { s with sessions := s.sessions.map (fun p => (p.1, if mine p.2 then { p.2 with ownerLost := true } else p.2)) }
    if inst < 4 then s.setLink t inst { s.link t inst with up := false } else s
  | 0x8 => if s.noPaths then s.loseTwin else s
  | 0x9 => s.reissueCut
  | 0xA =>
    let s := (s.linksDown t).dropThreads (fun c => decide (c.tile = t))
    if s.fenceLeaves t then s.leaveService else (if s.noPaths then s.loseTwin else s).reissue t
  | _ => s

/-- Write a fence record and advance the ring (07 R214). -/
def State.fenceRec (s : State) (r : FenceRec) : State :=
  { s with fences := { s.fences with log := (r :: s.fences.log).take 256, count := s.fences.count + 1 } }

/-- Raise a fence (01 R37 to R41; 07 R211, R212): recorded, logged, and its unit stops. `src`: 0 checker, 1 sequencer, 2
FENCE, 3 coordinator. A fence of a fenced unit, or of a unit within one, changes only the recorder; one of a unit whose lines are being
reloaded is a fence anew. -/
def State.raiseFence (s : State) (cls inst t cause src : Nat) : State :=
  if !s.unitExists cls inst t then s
  else
    let s := s.log 0 (if cls = 0xA then 6 else 5) (fenceBlock cls) inst 0x01 cause t
    if s.fenced cls inst t || s.enclosed cls inst t then s
    else
      let f : Fence := { cls, inst, tile := t, cause, tidemark := s.localCount t }
      let rest := s.fences.inForce.filter (fun g => !(g.reloading && decide (g.cls = cls ∧ g.inst = inst ∧ g.tile = t)))
      let s := ({ s with fences := { s.fences with inForce := rest ++ [f] } }).fenceRec
        { tidemark := s.localCount t, cause, inst, tile := t, src, clr := false, cls }
      s.fenceEffect cls inst t

/-- Clear a fence at the Spring tide of instant `tm` (07 R214, R216). A DRAM channel or DIMM keeps the fenced behaviour until its lines are
reloaded (R217). (DEDUCED, log 49.) -/
def State.lowerFence (s : State) (cls inst t tm : Nat) : State :=
  match s.fence? cls inst t with
  | none => s
  | some f =>
    let s := (s.log 0 3 (fenceBlock cls) inst 0x02 f.cause t).fenceRec
      { tidemark := tm, cause := f.cause, inst, tile := t, src := 3, clr := true, cls }
    if cls = 0x1 ∨ cls = 0x2 then
      { s with fences := { s.fences with inForce := s.fences.inForce.map (fun g => if g = f then { g with reloading := true } else g) } }
    else { s with fences := { s.fences with inForce := s.fences.inForce.filter (fun g => decide (g ≠ f)) } }

end Sys2Proof.Machine
end

