-- ==== Sys2Proof/Machine/Boot.lean ====
section
/-! DEFINITION. The start as operations: what a reset keeps (02 Table 2-5), what the parameter store keeps (17 R501), the
start condition (02 R54), the record summary and authority (02 R62, R63; 10 R294), and the pages that the restore loads
(08 R241 to R243). -/

namespace Sys2Proof.Machine

/-- The start's count of incomplete saves, once every tile is mounted (03 R88). -/
def State.countDirty (s : State) : State :=
  if !s.unitValid && s.tileList.any (fun t => !(s.th t).recs.isEmpty) then { s with save := { s.save with dirtyShutdowns := s.save.dirtyShutdowns + 1 } } else s

/-- The fields of a parameter that the parameter store holds: RW and STG (17 R501). -/
def storeMask (fs : List PField) (w : Word) : Word :=
  fs.foldl (fun a f => if f.acc = .rw then ins a f.hi f.lo (fld w f.hi f.lo) else a) (resetOf fs)

/-- Parameters that the store does not keep: `pmc.cnt`, `fw.soc`, `rec.rd_ctl`, `rec.rd_pos`, `seq.sess_sel` and
`dram.fc_ctl` (17 R501). -/
def notKept (id : Nat) : Bool :=
  (decide (pidBlock id = bPmc) && decide (pidInst id % 64 < 40 ∧ 0x10 ≤ pidIdx id))
    || decide (id = pid bFw 1023 2)
    || (decide (pidBlock id = bRec ∧ pidInst id = 1023) && decide (4 ≤ pidIdx id ∧ pidIdx id < 12))
    || decide (pidBlock id = bSeq ∧ 576 ≤ pidInst id ∧ pidInst id < 608)
    || (decide (pidBlock id = bDram) && decide (pidIdx id = 0xD))

/-- The parameters as the store takes them. -/
def State.keptParams (s : State) : Store Word :=
  s.params.filterMap (fun p =>
    match pspec s.tiles (p.1 % 2 ^ 24) with
    | some q => if notKept (p.1 % 2 ^ 24) ∨ storeMask q.fields p.2 = resetOf q.fields then none else some (p.1, storeMask q.fields p.2)
    | none => none)

/-- An open session as the store takes it: its Slipway closed, its schedules stopped (17 R501). -/
def Sess.kept (x : Sess) : Sess :=
  { x with slip := {}, scheds := x.scheds.map (fun p => (p.1, { p.2 with running := false, current := none })) }

/-- What an update of the parameter store writes (17 R501). -/
def State.snapshot (s : State) : PStore :=
  { params := s.keptParams, locks := s.fw.locks,
    sessions := (s.sessions.filter (fun p => p.2.isOpen)).map (fun p => (p.1, p.2.kept)), binds := s.binds }

/-- What flash keeps of a tile's store: records, blocks, seals, the segment table and the journal; a row that was not
programmed is lost (09 R290, R291). -/
def ThTile.flash (x : ThTile) : ThTile :=
  { recs := x.recs, blks := x.blks, segData := x.segData, journal := x.journal, ckptTm := x.ckptTm, ckptSeq := x.ckptSeq,
    phys := x.phys.map (fun p => (p.1, { p.2 with erasing := false, suspended := false })) }

/-- What a channel keeps of its timing banks (06 R165), its self-refresh with `up`. -/
def Chan.retained (x : Chan) (up : Bool) : Chan :=
  { validL := x.validL, validH := x.validH, rateH := x.rateH, ttempL := x.ttempL, ttempH := x.ttempH, stampL := x.stampL,
    stampH := x.stampH, ageL := x.ageL, ageH := x.ageH, bankL := x.bankL, bankH := x.bankH, temp := x.temp, hot := x.hot,
    power := if up then x.power else .off }

/-- The recorder of a tile over a reset that keeps its SRAM: a batch that was being flushed is flushed again (15 R465; 16
R474). -/
def RecTile.overReset (x : RecTile) : RecTile := { x with batch := none, wanted := x.wanted || x.batch.isSome }

/-- The reset of every tile by a cold start or a warm reset: what Table 2-5 keeps stays (02 R48, R49). `warm`: DRAM stays in
self-refresh. -/
def State.resetTiles (s : State) (warm : Bool) : State :=
  let s := s.stopFuses
  { State.reset with
    pending := s.pending, free := s.free, out := s.out, clock := s.clock, part := s.part,
    time := { floor := s.time.floor }, mode := s.mode,
    boot := { tableRead := s.boot.tableRead, autoBlock := s.boot.autoBlock, startHold := s.boot.startHold,
              bifur := if warm then s.boot.bifur else none },
    pwr := s.pwr,
    recd := { s.recd with tiles := s.recd.tiles.map (fun p => (p.1, p.2.overReset)), readers := [] },
    params := s.params.filter (fun p => decide (pidBlock (p.1 % 2 ^ 24) = bPwr)),
    dram := s.dram, poisoned := s.poisoned, home := if warm then s.home else [],
    save := { recs := s.save.recs, dirtyShutdowns := s.save.dirtyShutdowns },
    fuse := s.fuse, fw := { s.fw with xfer := none, socAt := none, locks := [] },
    ich := if warm then s.ich.map (fun p => (p.1, { convPtr := p.2.convPtr, convDone := p.2.convDone })) else [],
    links := s.links.map (fun p => (p.1, { perst := p.2.perst })),
    chans := s.chans.map (fun p => (p.1, p.2.retained warm)),
    thatch := s.thatch.map (fun p => (p.1, p.2.flash)),
    mirr := s.mirr.map (fun p => (p.1, { ckpt := p.2.ckpt })),
    wit := s.wit, sealedKeys := s.sealedKeys, imgKey := s.imgKey, tap := if warm then { s.tap with scanHold := false, handed := false } else s.tap, mgmt := { address := s.mgmt.address, events := s.mgmt.events } }

/-- The supervisor parameters latched for a rail sequence (15 R453). -/
def State.latchPwr (s : State) : State :=
  let ks := [0, 1] ++ (List.range 16).map (fun i => 0x10 + i) ++ (List.range 16).map (fun i => 0x20 + i)
  let cfg := ks.foldl (fun (a : Store Word) i => Store.write a i (s.param (pid bPwr 1023 i) 0) (paramReset (pid bPwr 1023 i))) []
  { s with pwr := { s.pwr with cfg } }

/-- The start condition is acted on: every tile is reset, every fence is cleared, and the rail sequence begins (02 R54,
Table 2-5; 15 R454). -/
def State.beginStart (s : State) : State :=
  let s := (((s.clearFences).resetTiles false).setMode .brup 1).latchPwr
  { s with pwr := { s.pwr with state := .sequencing, step := 0, restarts := 0, toRaise := true, wanted := false, phase := .wait } }

/-- The start condition is taken; while FAULT_L is low the sequence waits (15 R454). -/
def State.takeStart (s : State) : State :=
  if s.pwr.faultIn then { s with pwr := { s.pwr with wanted := true } } else s.beginStart

/-- The parameter store holds a step table (15 R453). -/
def State.hasTable (s : State) : Bool := decide (0 < s.devP bPwr 0)

/-- Answer a START (18 Table 18-7) with a status code. A refused one is recorded. -/
def State.refuseStart (s : State) (st : Status) : State :=
  (s.log 0 3 bPwr 1023 0x07 st.code 0).emit (.mctp 0x03 [BitVec.ofNat 64 st.code])

/-- Answer a START in STBY once the step table has been read (02 R54). -/
def State.answerStart (s : State) : State :=
  if s.life = .retired then s.refuseStart .mode
  else if !s.hasTable then (s.log 0 5 bPwr 1023 0x08 2 0).refuseStart .mode
  else if !s.pwr.bbuOk then s.refuseStart .fwbatt
  else ({ s with boot := { s.boot with autoBlock := false } }.emit (.mctp 0x03 [0])).takeStart

/-- What the warm reset of R49 leaves in BRUP: the tiles reset with the rails up, and the boot ROM runs again. -/
def State.warmBoot (s : State) : State :=
  let s := s.clearFences.resetTiles true
  { s with pwr := { s.pwr with state := .running }, boot := { s.boot with done := [1, 2, 3] } }

/-- The warm reset that takes effect at once (02 R49). -/
def State.warmStart (s : State) : State := (s.setMode .brup 0x0A).warmBoot

/-- The state after power-on reset: what is not volatile stays (02 Table 2-5). -/
def State.powerOn (s : State) : State :=
  let s := s.stopFuses
  { State.reset with
    pending := s.pending, free := s.free, out := s.out, clock := s.clock, part := s.part,
    time := { floor := s.time.floor },
    recd := { tiles := s.recd.tiles.map (fun p => (p.1, { area := p.2.area, defs := p.2.defs, gens := p.2.gens })),
              opBase := s.recd.opStored * sec, opSince := s.clock, pcycle := s.recd.pcycle + 1, tmMark := s.recd.tmMark,
              opStored := s.recd.opStored, opWritten := s.clock },
    save := { recs := s.save.recs, dirtyShutdowns := s.save.dirtyShutdowns },
    fuse := { cells := s.fuse.cells, sensed := s.fuse.cells, progd := s.fuse.progd, invalid := s.fuse.invalid, busy := s.fuse.busy,
              arbLeft := s.fuse.arbLeft, stopped := s.fuse.stopped, since := s.fuse.since, dead := s.fuse.dead,
              result := if s.fuse.busy.isSome ∨ 0 < s.fuse.arbLeft then 1 else 0 },
    fw := { s.fw with xfer := none, socAt := none, locks := [] },
    thatch := s.thatch.map (fun p => (p.1, p.2.flash)),
    wit := s.wit, sealedKeys := s.sealedKeys, imgKey := s.imgKey }

/-- Both copies of the parameter store are erased, the floor log with them (17 R491, R501). (DEDUCED, log 91.) -/
def State.eraseStore (s : State) : State :=
  { s with fw := { s.fw with stored := {}, kept := {}, gen := 0, deltas := 0, preserve := false, mark := 0, floors := 0, floorLog := [], floorCopy := 0, certs := [] },
           sealedKeys := [], imgKey := [], time := { s.time with floor := 0 }, recd := { s.recd with opStored := 0 } }

/-- A floor entry: the floor, then the entry number over the CRC-32C of both (17 R501). -/
def floorEntry (f n : Nat) : Word × Word :=
  let w := BitVec.ofNat 64 f
  (w, BitVec.ofNat 32 n ++ crc32c (wordBytes w ++ (wordBytes (BitVec.ofNat 64 n)).take 4))

/-- Append a floor entry to the floor log (01 R35; 17 R501): the 64 KiB of a copy hold 4,096 entries; when they are full the log of the other
copy is erased and takes the next. -/
def State.floorTo (s : State) (f : Nat) : State :=
  let old := Store.read s.fw.floorLog s.fw.floorCopy []
  let full := decide (4096 ≤ old.length)
  let c := if full then 1 - s.fw.floorCopy else s.fw.floorCopy
  let e := floorEntry f s.fw.floors
  { s with time := { s.time with floor := f },
           fw := { s.fw with floors := s.fw.floors + 1, floorCopy := c, floorLog := Store.write s.fw.floorLog c (if full then [e] else old ++ [e]) [] } }

/-- The entry of a start, and of a master that comes near the floor (01 R35). -/
def State.appendFloor (s : State) : State := s.floorTo (s.master + 2 ^ 40)

/-- The record summary of this unit (02 R62). -/
def State.ownSummary (s : State) : Summary :=
  { epoch := (s.saveRec 0 1).toNat, lastSeq := s.tileList.map (fun t => fld (s.saveRec t 2) 47 0), valid := s.unitValid,
    preferred := decide (s.devP bMirr 1 = 1) }

/-- Sequence `a` is ahead of `b`, modulo 2⁴⁸ (10 R300). -/
def seqAhead (a b : Nat) : Bool := decide (a ≠ b) && seqLe b a

/-- Who is authoritative by R62: this unit, the twin, neither (rule 4), or whoever gets the lease (rule 3). -/
inductive Authority where
  | self | twin | neither | race
  deriving DecidableEq, Repr

/-- Rule 3 of R62: preference. -/
def byPreference (a b : Summary) : Authority :=
  if a.preferred && !b.preferred then .self else if b.preferred && !a.preferred then .twin else .race

/-- The authoritative unit (02 R62). -/
def authority (a b : Summary) : Authority :=
  if a.valid && !b.valid then .self
  else if b.valid && !a.valid then .twin
  else if !a.valid then .neither
  else if b.epoch < a.epoch then .self
  else if a.epoch < b.epoch then .twin
  else
    let ps := a.lastSeq.zip b.lastSeq
    let up := ps.any (fun p => seqAhead p.1 p.2)
    let down := ps.any (fun p => seqAhead p.2 p.1)
    if up && !down then .self else if down && !up then .twin else byPreference a b

/-- The authoritative unit requests the lease; a standalone unit holds it (02 R62; 10 R294). -/
def State.requestAuth (s : State) (force : Bool) : State :=
  if s.pairId = 0 then { s with lease := { s.lease with held := true, expired := false } }
  else ({ s with lease := { s.lease with wish := .bootAuth, force } }).witSend 1 s.leaseLen

/-- This unit is authoritative. -/
def State.becomeAuth (s : State) : State :=
  ({ s with boot := { s.boot with auth := true, decided := true, twinAuth := false } }).requestAuth false

/-- Decide authority from the two summaries (02 R62). -/
def State.decideAuth (s : State) (mine twin : Summary) : State :=
  match authority mine twin with
  | .self => s.becomeAuth
  | .twin => { s with boot := { s.boot with decided := true, twinAuth := true } }
  | .neither => { s with boot := { s.boot with decided := true } }
  | .race => ({ s with boot := { s.boot with decided := true } }).requestAuth false

/-- Send the record summary on the command channel of tile 0. -/
def State.sendSummary (s : State) : State :=
  match s.boot.own with
  | some m => s.isahar 0 xSummary ([BitVec.ofNat 64 m.epoch, BitVec.ofNat 64 (b01 m.valid), BitVec.ofNat 64 (b01 m.preferred)]
      ++ m.lastSeq.map (BitVec.ofNat 64))
  | none => s

/-- Step 10 begins once steps 6 and 9 have ended: the summary is taken; a standalone unit decides alone; a unit of a pair
sends it and waits for its twin (02 R62, R63; 10 R294). -/
def State.stepTen (s : State) : State :=
  if s.mode.mode ≠ .brup ∨ s.boot.own.isSome ∨ !s.boot.done.contains 6 ∨ !s.boot.done.contains 9 then s
  else
    let m := s.ownSummary
    let s := { s with boot := { s.boot with own := some m, pairSince := s.clock }, lease := { s.lease with epoch := m.epoch } }
    if s.pairId = 0 then (if s.path = 3 then { s with boot := { s.boot with decided := true } } else s.becomeAuth)
    else
      let s := s.sendSummary
      match s.boot.twin with
      | some w => s.decideAuth m w
      | none => s

/-- The start goes on in BRUP after MAIN: from the first step that has not ended; authority is decided with what arrived in MAIN (02 R551). -/
def State.resumeStart (s : State) : State :=
  match s.boot.own, s.boot.twin with
  | some m, some w => if s.boot.decided then s else s.decideAuth m w
  | some _, none => s
  | none, _ => s.stepTen

/-- The return to BRUP from SAVE holds: a start on the save record, or on what a warm reset leaves (02 R49, R61; 03 R88). -/
def State.returnToBrup (s : State) : State :=
  if s.mode.cause = 0x0A then s.warmBoot else s.backToBrup.countDirty

/-- Step 8 has ended on a tile: every channel that is not fenced is trained and out of self-refresh (02 Table 2-7). -/
def State.dramReady (s : State) (t : Nat) : Bool :=
  s.boot.dimms.contains t && (List.range 4).all (fun c =>
    s.chStops t c || (decide ((s.chan t c).power = .active) && (s.chan t c).train.isNone && (s.chan t c).validL))

/-- Steps 8 to 10 of a start are complete (02 Table 2-6). -/
def State.bringReady (s : State) : Bool :=
  s.liveTiles.all (fun t => s.dramReady t && s.boot.mounted.contains t) && s.boot.decided

/-- The current image of a page holds no data (09 R278). -/
def State.imageMissing (s : State) (t lp : Nat) : Bool := match s.image t false lp with | some r => decide (r.kind = 6) | none => false

/-- Lines whose record is unreadable at restore: fetched from the twin when it is in service, else poisoned (09 R278). -/
def State.missingLines (s : State) (t off n : Nat) : State :=
  if s.twinServes then s.sendLrq t off n .mismatch 0
  else (List.range n).foldl (fun (s : State) i =>
    match s.localDfa t (off + 64 * i) with
    | some a => (s.putDram t a (s.cipherLine true t (off + 64 * i) a 0) true).enterPoison t (off + 64 * i)
    | none => s) s

/-- Write the record of a page into its local frame, or zeros where there is none; a home elsewhere is not loaded (08
R241). -/
def State.loadPage (s : State) (t lp : Nat) : State :=
  match s.localDfa t (lp * 4096) with
  | some a =>
    if s.imageMissing t lp then s.missingLines t (lp * 4096) 64
    else
    let r := s.goodImage t false lp
    (List.range 64).foldl (fun s i =>
      let (l, p) := match r with | some r => r.line i | none => (0, false)
      let off := lp * 4096 + 64 * i
      let s := (s.evDropAll t (a + 64 * i)).putDram t (a + 64 * i) (s.cipherLine true t off (a + 64 * i) l) p
      if p then s.enterPoison t off else s) s
  | none => s

/-- A home table entry as the loader writes it: a neighbour home becomes flash only, and no move is under way (11 R338). -/
def restoredEntry (w : Word) : Word := if hKind w = 2 then 3 else ins w 2 2 0

/-- Every loan that is staged enters STATE opening, as at a start (11 R346). -/
def State.openLoans (s : State) (t : Nat) : State :=
  (List.range 16).foldl (fun s i =>
    if fld (s.param (pid bTier t (0x40 + 4 * i)) 0) 63 62 = 0 then s
    else s.setTt t { s.tt t with loans := Store.write (s.tt t).loans i { state := 1, since := s.clock } {} }) s

/-- The home table as its pages hold it: eight entries in each line (08 R241). -/
def State.loadHome (s : State) (t : Nat) : State :=
  let pages := ((s.th t).recs.filter (fun r => r.ht)).foldl (fun (a : List Nat) r => insertNat r.lpage a) []
  pages.foldl (fun s n =>
    match s.goodImage t true n with
    | some r => (List.range 512).foldl (fun s i => s.setHome t (512 * n + i) (restoredEntry (((r.line (i / 8)).1.words).getD (i % 8) 0))) s
    | none => s) s

/-- The frame owner table as the home table gives it (11 R334). -/
def State.loadOwners (s : State) (t : Nat) : State :=
  let es := s.home.filter (fun p => decide (p.1 / 2 ^ 31 = t) && decide (hKind p.2 = 1))
  let os := es.foldl (fun (a : Store Owner) p =>
    let lp := p.1 % 2 ^ 31
    Store.write a (hFrame p.2) { sess := ((s.extentAt t (lp * 4096)).getD (0, 0)).1, lpage := lp, valid := true } {}) []
  let fo := (s.home.filter (fun p => decide (p.1 / 2 ^ 31 = t) && decide (hKind p.2 = 3))).filterMap (fun p =>
    match s.image t false (p.1 % 2 ^ 31) with
    | some r => if (s.blk t r.blk).use = .log then some (p.1 % 2 ^ 31) else none
    | none => none)
  let s := s.setTt t { s.tt t with owners := os }
  s.setTh t { s.th t with foIndex := fo }

/-- Groups of 2 MiB of tile offset that a tile's extents and records cover. -/
def State.groupsOf (s : State) (t : Nat) : List Nat :=
  let exts := s.sessions.flatMap (fun p => (p.2.exts.filter (fun e => e.2.defined && decide (e.2.dpa / 2 ^ 43 = t))).flatMap
    (fun e => (List.range (e.2.len / 2 ^ 21)).map (fun i => e.2.dpa % 2 ^ 43 / 2 ^ 21 + i)))
  (exts ++ ((s.th t).recs.filter (fun (r : TRec) => !r.ht)).map (fun (r : TRec) => r.lpage / 512)).foldl (fun a g => insertNat g a) []

/-- The groups that are still to be loaded or verified. -/
def State.groupsLeft (s : State) (t : Nat) : List Nat := (s.groupsOf t).filter (fun g => !(s.tl t).loaded.contains g)

/-- Load every page of a group that is not yet loaded, and set its load-map bit (08 R241, R242). -/
def State.loadGroup (s : State) (t g : Nat) : State :=
  let s := ((List.range 512).map (512 * g + ·)).foldl (fun s p => if (s.tl t).pages.contains p then s else s.loadPage t p) s
  let x := s.tl t
  s.setTl t { x with loaded := insertNat g x.loaded, pages := x.pages.filter (fun p => decide (p / 512 ≠ g)) }

/-- A tile whose restore has ended joins the list (08 R241; 02 R60). -/
def State.endRestore (s : State) (t : Nat) : State :=
  { s with boot := { s.boot with restored := insertNat t s.boot.restored } }

/-- A tile that restores: in RSTR on a path other than empty, or in a tile reset once it is mounted (02 R51, R60). -/
def State.restoring (s : State) (t : Nat) : Bool :=
  !s.boot.restored.contains t && s.boot.mounted.contains t &&
    ((decide (s.mode.mode = .rstr) && !s.tileFenced t) || (s.boot.tileReset.contains t && s.dramReady t))

/-- A tile in reset has run its bring-up and its restore, and bank H is in use (02 R51): its fence may be cleared. -/
def State.rejoins (s : State) (t : Nat) : Bool :=
  s.boot.tileReset.contains t && s.boot.restored.contains t &&
    (List.range 4).all (fun c => s.fenced 0x1 c t || (s.chan t c).inUseH)

end Sys2Proof.Machine
end

