-- ==== Sys2Proof/Machine/SuperRows.lean ====
section
/-! DEFINITION. The inputs of the supervisor and what they cause (15 R450, R456 to R461), save-armed (08 R245, R246), and
the commit, the completion and the timeout of a save (08 R235 to R238; 15 R463). -/

namespace Sys2Proof.Machine

/-- The count of the save timeout stands while the input is present and runs while it is absent (08 R238; 15 R463). -/
def State.noteInput (s : State) : State :=
  match s.save.run with
  | none => s
  | some r =>
    let r := match r.runFrom, s.inputPresent with
      | some f, true => { r with used := r.used + (s.clock - f), runFrom := none }
      | none, false => { r with runFrom := some s.clock }
      | _, _ => r
    { s with save := { s.save with run := some r } }

/-- The early warning of a running rail that drops: a Memory Module Event record on the management LD with MSI-X vector
3, an event to the BMC and to the recorder (15 R459). -/
def State.railWarn (s : State) (ch : Nat) : State :=
  let (t, d) := s.mgmtLd
  let s := (s.emit (.event t d 2 [ch])).setBar t d { s.bar t d with vec3 := true }
  s.bmcEvent 0 5 bPwr 1023 0x06 3 ch

/-- The units that a rail of class 0x3 or 0x4 feeds are fenced with cause 0x57 (15 R460). -/
def State.railFence (s : State) (ch : Nat) : State :=
  let cls := if s.chanClass ch = 3 then 1 else 3
  let us := (maskTiles (s.chanTmask ch)).flatMap (fun t => (maskTiles (s.chanUmask ch)).map (fun u => (t, u)))
  us.foldl (fun s p => s.raiseFence cls p.2 p.1 0x57 0) s

/-- Every rail goes off at once: a save under way is abandoned and the device is in STBY (15 R459). -/
def State.allOff (s : State) : State :=
  let s := s.tileList.foldl State.linksDown s
  let s := (s.dropEnables ((List.range 16).filter (fun i => s.pwr.en.getLsbD i))).enterStby 0x10
  { s with tides := [], lease := { s.lease with held := false, waiting := false } }

/-- The save that a running-rail fault commits, or the one already under way, ends in a shutdown (15 R459, R460). -/
def State.railSave (s : State) : State :=
  let s := s.commitSave 4 false false
  { s with save := { s.save with run := s.save.run.map (fun r => { r with forceOff := true }) } }

/-- A rail of a running device drops: its effect by class and mode (15 Tables 15-2 and 15-5). -/
def State.railDrop (s : State) (ch : Nat) : State :=
  let cls := s.chanClass ch
  if cls = 1 then
    if s.mode.mode = .brup then s.shutdown 0x10 else s.commitSave 2 false false
  else
    let s := { s with pwr := { s.pwr with faultKind := 3, faultCh := ch } }
    if s.mode.mode = .brup then s.assertFault.shutdown 0x10
    else if cls = 2 then (s.railWarn ch).assertFault.allOff
    else if cls = 5 then (s.railWarn ch).assertFault.railSave
    else ((s.railFence ch).railWarn ch).assertFault.railSave

/-- The supervisor watches a channel: from the end of the sequence to the shutdown, classes 0x1 to 0x5, and of those
that it switches the enabled ones (15 R457). -/
def State.watched (s : State) (ch : Nat) : Bool :=
  (decide (s.pwr.state = .running) || decide (s.pwr.state = .committed)) &&
    (decide (s.chanClass ch = 1) || (s.switched ch && s.pwr.en.getLsbD ch))

/-- A new accepted level of power good `i` (15 R450, R454, R457, R464). (DEDUCED, log 103.) -/
def State.acceptPg (s : State) (i : Nat) (high : Bool) : State :=
  if s.pwr.pg.getLsbD i = high then s
  else
    let s := { s with pwr := { s.pwr with pg := if high then setBits s.pwr.pg [i] else clearBits s.pwr.pg [i] } }
    let s := if !high && decide (s.chanClass i = 3) then s.dramOff (maskTiles (s.chanTmask i)) (s.chanUmask i) else s
    let s := s.noteInput
    if s.pwr.state = .sequencing then
      if s.chanClass i = 1 then (if high then s else s.shutdown 0x10) else s.seqPg i high
    else if !high && s.watched i then s.railDrop i
    else s

/-- A new accepted level of BBU_OK: its fall is logged in every mode but STBY and SAVE (15 Table 15-5). -/
def State.acceptBbu (s : State) (high : Bool) : State :=
  if s.pwr.bbuOk = high then s
  else
    let s := { s with pwr := { s.pwr with bbuOk := high } }
    if !high && decide (s.mode.mode ≠ .stby ∧ s.mode.mode ≠ .save) then s.log 0 3 bPwr 1023 0x06 0 0 else s

/-- PS_PG_ACCEPT (15 R450): input 0 to 15 is a power good, 16 is BBU_OK; 17 says whether VDD_FUSE, which the BMC switches, is within its
limits (19 R529; DESIGN CHOICE: the table has no row of its own for it). (DESIGN CHOICE, log 90.) -/
def execPsPgAccept (input : Nat) (high : Bool) (s : State) : Run :=
  .next (if input < 16 then s.acceptPg input high else if input = 16 then s.acceptBbu high
    else if input = 17 then { s with pwr := { s.pwr with vddFuse := high } } else s)

/-- Save-armed is told to the hosts and to the BMC, and begins (08 R245). -/
def State.arm (s : State) : State :=
  let s := { s with save := { s.save with armed := some s.clock } }
  s.bmcEvent 0 3 bTide 1023 0x06 1 0

/-- A new accepted level of PFW_L (08 R245, R246; 15 Table 15-5). -/
def State.acceptPfw (s : State) (asserted : Bool) : State :=
  if s.pwr.pfw = asserted then s
  else
    let s := { s with pwr := { s.pwr with pfw := asserted } }
    let s := s.noteInput
    if asserted then
      if s.mode.mode = .brup ∧ s.pwr.state ≠ .shutting ∧ s.pwr.state ≠ .faulted then s.shutdown 0x10
      else if s.mode.mode.serving ∧ s.save.run.isNone then
        let s := if s.save.armed.isSome then s else s.arm
        { s with save := { s.save with pfwSince := some s.clock, pfwOff := none } }
      else s
    else if s.save.armed.isSome then { s with save := { s.save with pfwSince := none, pfwOff := some s.clock } }
    else s

/-- FAULT_L goes low, driven by another device, or high again, when a sequence that waits for it begins (15 R454, R456, R461, Table 15-5). -/
def State.acceptFault (s : State) (low : Bool) : State :=
  if s.pwr.faultIn = low then s
  else
    let s := { s with pwr := { s.pwr with faultIn := low } }
    if !low && s.pwr.wanted then s.beginStart
    else if !low || s.pwr.faultOut then s
    else if s.pwr.state = .sequencing then (if s.pwr.step = 0 ∧ s.pwr.toRaise then s else s.seqFault 4 0)
    else if s.mode.mode = .brup ∧ s.pwr.state ≠ .shutting then s.shutdown 0x10
    else s.commitSave 3 false false

/-- SIGNAL_FILTER_ACCEPT (15 R450): PFW_L (`pfw`) or FAULT_L has held a new level through the filter. -/
def execSignalFilterAccept (pfw asserted : Bool) (s : State) : Run :=
  .next (if pfw then s.acceptPfw asserted else s.acceptFault asserted)

/-- PFW_L_ASSERT (08 R245). -/
def execPfwLAssert (s : State) : Run := .next (s.acceptPfw true)

/-- PFW_HOLD_EXPIRY (08 R246): PFW_L asserted continuously for 200 µs. -/
def execPfwHoldExpiry (s : State) : Run :=
  .next (match s.save.pfwSince with
    | some t => if s.pwr.pfw && s.due t (200 * us) then s.commitSave 1 false false else s
    | none => s)

/-- ARMED_MAX_EXPIRY (08 R246): save-armed for `tide.armed_max` in all. -/
def execArmedMaxExpiry (s : State) : Run :=
  .next (match s.save.armed with
    | some t => if s.due t (s.devP bTide 1 * ms) then s.commitSave 7 false false else s
    | none => s)

/-- SAVE_ARMED_LAPSE (08 R246): PFW_L deasserted continuously for 5 ms; the event carries the time spent armed in µs. -/
def execSaveArmedLapse (s : State) : Run :=
  .next (match s.save.armed, s.save.pfwOff with
    | some a, some t =>
      if !s.pwr.pfw && s.due t (5 * ms) then
        ({ s with save := { s.save with armed := none, pfwSince := none, pfwOff := none } }).log 0 3 bTide 1023 0x06 0 ((s.clock - a) / us)
      else s
    | _, _ => s)

/-- INPUT_POWER_GOOD_DROP (15 R458): a channel of class 0x1. -/
def execInputPowerGoodDrop (channel : Nat) (s : State) : Run :=
  .next (if channel < 16 ∧ s.chanClass channel = 1 then s.acceptPg channel false else s)

/-- FAULT_L_LOW (15 R458): driven by another device. -/
def execFaultLLow (s : State) : Run := .next (s.acceptFault true)

/-- BBU_OK_LOW (15 R458). -/
def execBbuOkLow (s : State) : Run := .next (s.acceptBbu false)

/-- DEVICE_RAIL_DROP (15 R459): a channel of class 0x2. -/
def execDeviceRailDrop (channel : Nat) (s : State) : Run :=
  .next (if channel < 16 ∧ s.chanClass channel = 2 then s.acceptPg channel false else s)

/-- APPLIANCE_RAIL_DROP (15 R459): a channel of class 0x5. -/
def execApplianceRailDrop (channel : Nat) (s : State) : Run :=
  .next (if channel < 16 ∧ s.chanClass channel = 5 then s.acceptPg channel false else s)

/-- MEMORY_RAIL_DROP (15 R460): a channel of class 0x3 or 0x4. -/
def execMemoryRailDrop (channel : Nat) (s : State) : Run :=
  .next (if channel < 16 ∧ (s.chanClass channel = 3 ∨ s.chanClass channel = 4) then s.acceptPg channel false else s)

/-- Whether the event that commits a save with a cause stands (08 R235, R246, Table 8-6). -/
def State.saveDue (s : State) (cause : Nat) : Bool :=
  match cause with
  | 1 => s.pwr.pfw && (match s.save.pfwSince with | some t => s.due t (200 * us) | none => false)
  | 2 => (List.range 16).any (fun i => decide (s.chanClass i = 1) && !s.pwr.pg.getLsbD i)
  | 3 => s.pwr.faultIn && !s.pwr.faultOut
  | 4 => (List.range 16).any (fun i => decide (3 ≤ s.chanClass i ∧ s.chanClass i ≤ 5) && s.pwr.en.getLsbD i && !s.pwr.pg.getLsbD i)
  | 7 => (match s.save.armed with | some t => s.due t (s.devP bTide 1 * ms) | none => false)
  | _ => false

/-- SAVE_COMMIT (08 R235): the supervisor commits a save for a cause that stands. -/
def execSaveCommit (cause : Nat) (s : State) : Run :=
  .next (if s.saveDue cause then (if cause = 4 then s.railSave else s.commitSave cause false false) else s)

end Sys2Proof.Machine
end

