-- ==== Sys2Proof/Machine/BootRows.lean ====
section
/-! DEFINITION. The rows of the cold start (02 Table 2-7), of the resets (02 Table 2-5) and of the end of a save (02 R49, R56,
R61; 15 R463). -/

namespace Sys2Proof.Machine

/-- POWER_ON_RESET (02 R48, R54; 16 R473; 17 R486). -/
def execPowerOnReset (s : State) : Run := .next s.powerOn

/-- STEP_TABLE_READ (15 R453): step 2 of a start; a START held until now is answered. In RETIRED both
copies of the store are erased first (17 R491). -/
def execStepTableRead (s : State) : Run :=
  .next (if s.boot.tableRead ∨ s.mode.mode ≠ .stby then s
  else
    let held := s.boot.heldStart
    let s := if s.life = .retired then s.eraseStore else s
    let s := s.fw.stored.params.foldl (fun s p => if pidBlock (p.1 % 2 ^ 24) = bPwr then s.setParam p.1 0 p.2 else s) s
    let s := ({ s with boot := { s.boot with tableRead := true, heldStart := false } }).latchPwr
    if held then s.answerStart else s)

/-- START (02 R54): a start command of the BMC. -/
def execStart (s : State) : Run :=
  .next (if s.mode.mode ≠ .stby then s.refuseStart .mode
  else if !s.boot.tableRead then { s with boot := { s.boot with heldStart := true } }
  else s.answerStart)

/-- AUTO_START (02 R54, R56; 13 R427; 15 R453, R455). -/
def execAutoStart (s : State) : Run :=
  .next (if s.mode.mode = .stby ∧ s.boot.tableRead ∧ s.devP bPwr 2 = 1 ∧ s.pwr.bbuOk ∧ !s.pwr.pfw ∧ !s.boot.startHold ∧ !s.boot.autoBlock
      ∧ !s.pwr.wanted ∧ s.hasTable ∧ s.life ≠ .retired then s.takeStart else s)

/-- Create a context (12 R361, R365). -/
def State.newCtx (s : State) (n tile level : Nat) : State := s.setCtx n { created := true, tile, level }

/-- The contexts that every start creates: those of the device, and one for each open session (12 R361; 17 R501). -/
def State.createCtxs (s : State) : State :=
  let s := (List.range 64).foldl (fun s k => s.newCtx (0x1000 + k) (k % s.tiles) (if k < 62 then 0 else 1)) s
  s.sessions.foldl (fun s p => if p.2.isOpen then s.newCtx p.1 p.2.tile 2 else s) s

/-- The number of the first check of R494 that a slot fails; 0 when it passes. The hash and signature results are the
boot ROM's own. -/
def State.slotCheck (s : State) (x : SlotS) (vendor digest owner : Bool) : Nat :=
  let w0 := x.words.getD 0 0
  let w1 := x.words.getD 1 0
  let tile := match fld (s.fuseWord 4) 2 0 with | 1 => 0 | 2 => 1 | 3 => 2 | _ => 3
  let ownerSlot := fld (x.words.getD 38 0) 7 0
  if fld w0 31 0 ≠ 0x46574B50 ∨ fld w0 47 32 ≠ 1 ∨ 56 * 2 ^ 20 - 4096 < fld w1 63 32 then 1
  else if !(fld w0 58 56).testBit tile || !(fld w1 15 0).testBit (fld (s.fuseWord 4) 19 16)
      || !bit (x.words.getD (3 + fld (s.fuseWord 4) 15 8 / 64) 0) (fld (s.fuseWord 4) 15 8 % 64) then 2
  else if !vendor then 3
  else if !digest || !x.complete then 4
  else if s.life = .owned && !(s.ownerOk ownerSlot && owner) then 5
  else if x.svn < s.arbCount then 6
  else 0

/-- BOOT_SLOT_CHECK (02 R58; 17 R494, R495): the marked slot, or the other once that has failed. The entry
to MAIN is no tide: the Tidemark master is not loaded before step 5 (01 R34). (DESIGN CHOICE, log 10.) (DEDUCED, log 92.) -/
def execBootSlotCheck (vendor digest owner : Bool) (s : State) : Run :=
  .next (if s.mode.mode ≠ .brup ∨ !s.boot.done.contains 3 ∨ s.boot.done.contains 4 then s
  else
    let k := if s.boot.failed.contains s.fw.mark then 1 - s.fw.mark else s.fw.mark
    let n := s.slotCheck (s.slot k) vendor digest owner
    if n = 0 then
      { s with boot := { s.boot with slot := k, fallback := decide (k ≠ s.fw.mark), done := insertNat 4 s.boot.done },
               fw := { s.fw with mark := k } }
    else
      let s := s.log 0 5 bFw 1023 0x08 n k
      let s := { s with boot := { s.boot with failed := insertNat k s.boot.failed, failStep := 4 } }
      if s.boot.failed.length < 2 then s
      else
        let s := s.setMode .main 9
        ({ s with mode := { s.mode with recovery := true } }).createCtxs)

/-- A fresh key of 256 bits. -/
def State.drawKey (s : State) : BitVec 256 × State :=
  let (a, s) := s.drawWord
  let (b, s) := s.drawWord
  let (c, s) := s.drawWord
  let (d, s) := s.drawWord
  (a ++ b ++ c ++ d, s)

/-- Install a sealed image key pair of a tile in an even slot and the next (14 R435). -/
def State.newImageKey (s : State) (t slot : Nat) : State :=
  let (k0, s) := s.drawKey
  let (k1, s) := s.drawKey
  let a : KeySlot := { s.keySlot t slot with usage := 2, key := k0, isSealed := true, installs := ((s.keySlot t slot).installs + 1) % 65536 }
  let b : KeySlot := { s.keySlot t (slot + 1) with usage := 3, key := k1, isSealed := true, installs := ((s.keySlot t (slot + 1)).installs + 1) % 65536 }
  let s := (s.setKey t slot a).setKey t (slot + 1) b
  { s with sealedKeys := Store.write (Store.write s.sealedKeys (8192 * t + slot) a {}) (8192 * t + slot + 1) b {},
           imgKey := Store.write s.imgKey t (slot - 4) 0 }

/-- The key slots of a start: the root and context keys, the sealed records that unwrap, and the first image key after
OWNED (14 R435, R437, R438). `bad` lists records, 8192·tile + slot, that fail to unwrap. (DESIGN CHOICE, log 9.) -/
def State.loadKeys (s : State) (bad : List Nat) : State :=
  let s := s.tileList.foldl (fun s t =>
    let (k, s) := s.drawKey
    (s.setKey t 0 { key := Config.rootKey t, installs := 1 }).setKey t 1 { key := k, installs := 1 }) s
  let s := s.sealedKeys.foldl (fun (s : State) p =>
    let (t, n) := (p.1 / 8192, p.1 % 8192)
    if bad.contains p.1 then
      let s := s.log t 6 bCiph t 0x08 5 n
      if 4 ≤ n ∧ n < 12 then s.raiseFence 0xA 0 t 0x56 0 else s
    else s.setKey t n { p.2 with installs := 1 }) s
  if s.life = .owned then
    s.tileList.foldl (fun (s : State) t =>
      if s.sealedKeys.any (fun p => decide (8192 * t + 4 ≤ p.1 ∧ p.1 < 8192 * t + 12)) then s else s.newImageKey t 4) s
  else s

/-- FIRMWARE_START (02 R59; 01 R34, R35; 17 R501 to R505): step 5. `migrate`: a record is older than the image writes;
`older`: the image cannot read the copy in use and takes the kept one; `badBlocks`: blocks whose record fails its CRC;
`badKeys`: sealed records that fail to unwrap; `programs`: what the image puts into the program store. -/
def execFirmwareStart (migrate older : Bool) (badBlocks badKeys : List Nat) (programs : List (Nat × Word)) (s : State) : Run :=
  .next (if s.mode.mode ≠ .brup ∨ !s.boot.done.contains 4 ∨ s.boot.done.contains 5 then s
  else
    let base := if older then s.fw.kept else s.fw.stored
    let s := if older then s.log 0 5 bFw 1023 0x08 5 0 else s
    let s := badBlocks.foldl (fun (s : State) b => s.log 0 5 bFw 1023 0x08 5 b) s
    let s := base.params.foldl (fun (s : State) p =>
      let id := p.1 % 2 ^ 24
      if pidBlock id = bPwr ∨ badBlocks.contains (pidBlock id) then s
      else { s with params := Store.write s.params p.1 p.2 (paramReset id) }) s
    let s := { s with sessions := base.sessions, binds := base.binds, fw := { s.fw with locks := base.locks }, progs := programs }
    let s := if migrate then
        { s with fw := { s.fw with kept := s.fw.stored, stored := s.snapshot, preserve := true, deltas := 0, copy := 1 - s.fw.copy, gen := s.fw.gen + 1 },
                 boot := { s.boot with migrated := true } }
      else s
    let m := max s.time.floor (s.recd.tmMark + 2 ^ 32)
    let s := { s with time := { s.time with master := { on := true, count := m }, locals := [(0, { on := true, count := m })], disciplined := true, lastSync := s.clock },
                      lease := { s.lease with pairIn := s.devP bMirr 0 } }
    let s := (s.appendFloor.createCtxs).loadKeys badKeys
    let s := s.tileList.foldl State.openLoans s
    let bifs := s.boot.bifur.getD (s.tileList.foldl (fun (a : Store Nat) t => Store.write a t (s.tileP bPort t 0) 0) [])
    { s with boot := { s.boot with done := insertNat 5 s.boot.done, bifur := some bifs } })

/-- UCIE_LINK_TRAINED (02 Table 2-7; 01 R12, R31): the UCIe links of a tile are trained and its local Tidemark is loaded. -/
def execUcieLinkTrained (tile : Nat) (s : State) : Run :=
  .next (if tile < s.tiles ∧ s.boot.done.contains 5 ∧ !s.boot.ucie.contains tile ∧ s.mode.mode ≠ .stby
      ∧ (!s.tileFenced tile ∨ s.boot.tileReset.contains tile) then
    let s := { s with time := { s.time with locals := Store.write s.time.locals tile { on := true, count := s.time.master.count } {} },
                      boot := { s.boot with ucie := insertNat tile s.boot.ucie } }
    if s.stepRuns 5 ∧ s.liveTiles.all (fun t => s.boot.ucie.contains t) then
      ({ s with boot := { s.boot with done := insertNat 6 s.boot.done } }).stepTen
    else s
  else s)

/-- The rule of R254 for a population. -/
def nandOk (p : NandPage) : Bool :=
  decide (p.planes = 4 ∧ p.page = 16384 ∧ 960 ≤ p.spare ∧ p.blockPages % 3 = 0 ∧ 257 ≤ p.blockPages / 3 ∧ 2 ≤ p.tgts ∧ p.tgts ≤ 8
    ∧ 1 ≤ p.luns ∧ p.luns ≤ 4 ∧ p.tgts * p.luns % 2 = 0 ∧ 8 * p.tgts * p.luns * 4 * p.blocks * p.blockPages * 16384 ≤ 2 ^ 44) && p.tlc

/-- A merge whose switch was not written: its target is erased at mount (09 R272). -/
def State.undoMerge (s : State) (t : Nat) (m : Nat × Nat) : State :=
  (s.setTh t { s.th t with journal := (s.th t).journal.filter (fun q => decide (q ≠ m)) }).releaseBlk t m.2

/-- What the mount leaves beside the map: the capacity for flash-only pages (11 R339), and the confirmed checkpoint of the system area
where the retention store has none (10 R314). (DEDUCED, log 107.) -/
def State.mountTail (s : State) (t : Nat) : State :=
  let s := s.setTh t { s.th t with foPages := s.dataPages t }
  if (s.mt t).ckpt.isNone ∧ (s.th t).ckptTm ≠ 0 then
    s.setMt t { s.mt t with ckpt := some { seq := (s.th t).ckptSeq, tm := (s.th t).ckptTm } }
  else s

/-- A tile whose NAND population breaks R254, or whose parameter page cannot be read (02 Table 2-8). -/
def State.mountFailed (s : State) (t : Nat) : State := ((s.failedAt 9).setTh t { s.th t with state := 2 }).raiseFence 0xA 0 t 0x33 0

/-- The fastest mode that a channel may train at (09 R253). -/
def nandMode (top : Nat) : Nat := if 48 ≤ top then 48 else if 36 ≤ top then 36 else 24

/-- The parameter page and the system block set the state and the rates of a tile's Thatch; its bad channels are fenced and the journals of
open merges undone (09 R253, R254, R291). -/
def State.mountFlash (s : State) (tile : Nat) (p : NandPage) (bad : Nat) : State :=
  let rates := (List.range 8).map (fun c => nandMode (min (p.rates.getD c 24) (s.tileP bNand tile 1)))
  let s := s.setTh tile { s.th tile with state := 1, rate := rates.foldl min 48, rates, mountTm := s.localCount tile, wls := p.blockPages / 3 - 1, blocks := p.blocks, luns := p.luns, tgts := p.tgts, rowsOpen := [],
                                         drainBlk := (((s.th tile).blks.find? (fun q => decide (q.2.use = .log) && q.2.isOpen))).map Prod.fst }
  let s := (List.range 8).foldl (fun (s : State) c => if bad.testBit c then s.raiseFence 0x3 c tile 0x32 0 else s) s
  (s.th tile).journal.foldl (fun s m => s.undoMerge tile m) s

/-- The full path takes the conversion pointers and home owners of the save record; any other starts with none in use (02 R60). -/
def State.mountPath (s : State) (tile path : Nat) : State :=
  if path = 2 then
    ((List.range 4).foldl (fun (s : State) c => s.setIc tile c { s.ic tile c with convPtr := fld (s.saveRec tile (8 + c)) 27 0 * 16384 }) s).loadOwners tile
  else { s with home := s.home.filter (fun q => decide (q.1 / 2 ^ 31 ≠ tile)) }

/-- A tile is mounted, with the path of its restore (02 R60). -/
def State.noteMounted (s : State) (tile path : Nat) : State :=
  { s with boot := { s.boot with mounted := insertNat tile s.boot.mounted, paths := Store.write s.boot.paths tile path 0 } }

/-- The rest of a mount: the drain's rate, the NAND's, the tail of the mount, what the tile's recorder holds in SRAM, and step 9 once every
live tile is mounted (09 R291; 02 R60; 15 R448). -/
def State.mountDone (s : State) (tile path : Nat) : State :=
  let s := (((s.startRate tile).nandRate tile).mountTail tile).noteMounted tile path
  let s := if (s.rt tile).sram.isEmpty then s else s.wantFlush tile
  if s.stepRuns 6 ∧ s.liveTiles.all (fun t => s.boot.mounted.contains t) then
    (({ s with boot := { s.boot with done := insertNat 9 s.boot.done } }).countDirty).stepTen
  else s

/-- THATCH_MOUNT (09 R253, R254, R291; 02 R60): `page` is what the parameter pages state, with the fastest mode of each
channel, none when one cannot be read or two dies or channels differ; `bad` is the mask of channels that fail training at 2,400 MT/s;
`system` says that a copy of the superblock and of the journal can be read (Table 9-9). The rate reported is the lowest of the channels.
(DESIGN CHOICE, log 129.) -/
def execThatchMount (tile : Nat) (page : Option NandPage) (scan : MountScan) (s : State) : Run :=
  let fresh := decide (tile < s.tiles) && !s.boot.mounted.contains tile && s.boot.ucie.contains tile &&
    ((s.stepRuns 6 && !s.tileFenced tile) || s.boot.tileReset.contains tile)
  .next (if !fresh then s
  else
    match page with
    | none => s.mountFailed tile
    | some p =>
      if !nandOk p then s.mountFailed tile
      else if !scan.system then (s.failedAt 9).raiseFence 0xA 0 tile 0x35 0
      else
        let s := s.mountFlash tile p scan.bad
        (s.mountPath tile (s.choosePath tile)).mountDone tile (s.choosePath tile))

/-- RECORD_SUMMARY (02 R62): the twin's record summary arrives; authority is decided once this unit has its own, but never in MAIN (R551). A
summary that arrives in a mode in which authority is settled is ignored. (DESIGN CHOICE, log 127.) -/
def execRecordSummary (epoch : Nat) (lastSeq : List Nat) (valid preferred : Bool) (s : State) : Run :=
  .next (if s.pairId = 0 ∨ ¬ (s.mode.mode = .brup ∨ s.mode.mode = .rstr ∨ (s.mode.mode = .main ∧ s.mode.prev = .brup)) then s
  else
    let w : Summary := { epoch, lastSeq, valid, preferred }
    let s := { s with boot := { s.boot with twin := some w } }
    match s.boot.own with
    | some m => if s.mode.mode = .main ∨ s.boot.auth ∨ s.boot.twinAuth ∨ (s.boot.decided ∧ !s.boot.lone) then s else s.decideAuth m w
    | none => s)

/-- PAIR_WAIT_EXPIRY (02 R63): no twin has answered within `sys.pair_wait`; a lone unit with a valid record asks for the
lease under its epoch. -/
def execPairWaitExpiry (s : State) : Run :=
  .next (match s.boot.own, s.boot.twin with
    | some m, none =>
      if s.pairId ≠ 0 ∧ !s.boot.decided ∧ s.mode.mode = .brup ∧ s.due s.boot.pairSince (s.devP bSys 6 * sec) then
        let s := { s with boot := { s.boot with lone := true, decided := true } }
        if m.valid then s.requestAuth false else s
      else s
    | _, _ => s)

/-- BRING_UP_COMPLETE (02 R53; 08 R240): steps 8 to 10 are complete and every tile has its OPEN record. -/
def execBringUpComplete (s : State) : Run :=
  .next (if s.mode.mode = .brup ∧ s.bringReady ∧ s.liveTiles.all (fun t => (s.tl t).opened) then s.nameMode .rstr 0x0E else s)

/-- OPEN_RECORD_WRITE (08 R240, Table 8-6). -/
def execOpenRecordWrite (tile : Nat) (s : State) : Run :=
  .next (if tile < s.tiles ∧ !s.tileFenced tile ∧ !(s.tl tile).opened ∧ s.mode.mode = .brup ∧ s.bringReady then
    let w := saveWords [word [(32, 0x56534C50), (16, 1), (4, 1), (0, tile)], BitVec.ofNat 64 s.epoch, 0, BitVec.ofNat 64 (s.localCount tile), 0, 0, 0, 0, 0, 0, 0, 0, 0, 0, 0]
    { s with save := { s.save with recs := Store.write s.save.recs tile w [] } }.setTl tile { s.tl tile with opened := true }
  else s)

/-- The group that the loader takes next: one with a page already demanded, else the lowest (08 R241, R242). -/
def State.nextGroup (s : State) (t : Nat) : Option Nat :=
  match (s.groupsLeft t).find? (fun g => (s.tl t).pages.any (fun p => decide (p / 512 = g))) with
  | some g => some g
  | none => (s.groupsLeft t).head?

/-- RESTORE_LOAD (08 R241; 02 R51): the home-table pages first, then a group at a time. A tile in reset whose twin is in
service asks the twin for the pages, on every path. (DEDUCED, log 125.) -/
def execRestoreLoad (tile : Nat) (s : State) : Run :=
  .next (if tile < s.tiles ∧ s.restoring tile ∧ (Store.read s.boot.paths tile 0 ≠ 2 ∨ s.boot.tileReset.contains tile) then
    if !(s.tl tile).htLoaded then
      let s := if Store.read s.boot.paths tile 0 = 0 then s else (s.loadHome tile).loadOwners tile
      s.setTl tile { s.tl tile with htLoaded := true }
    else if Store.read s.boot.paths tile 0 = 0 ∧ !(s.boot.tileReset.contains tile ∧ s.twinServes) then s.endRestore tile
    else
      match s.nextGroup tile with
      | some g =>
        let s := s.loadGroup tile g
        let s := if s.boot.tileReset.contains tile ∧ s.twinServes then
            (List.range 512).foldl (fun (s : State) i => s.sendLrq tile ((512 * g + i) * 4096) 64 .mismatch 0) s
          else s
        s.kick tile [.load]
      | none => if (s.mt tile).lrqs.isEmpty ∨ !s.boot.tileReset.contains tile then (s.endRestore tile).kick tile [.load] else s
  else s)

/-- RESTORE_DEMAND_FAULT (08 R242): the page that an access of RSTR waits for is loaded ahead of the stream. -/
def execRestoreDemandFault (tile page : Nat) (s : State) : Run :=
  .next (if s.waits.any (fun w => decide (w.why = .load ∧ w.req.owner = tile ∧ w.req.toff / 4096 = page)) ∧ s.needsLoad tile (page * 4096) then
    let s := if (s.tl tile).htLoaded ∨ Store.read s.boot.paths tile 0 = 2 then s
      else ((s.loadHome tile).loadOwners tile).setTl tile { (((s.loadHome tile).loadOwners tile).tl tile) with htLoaded := true }
    let s := if Store.read s.boot.paths tile 0 = 2 then s else s.loadPage tile page
    (s.setTl tile { s.tl tile with pages := insertNat page (s.tl tile).pages }).kick tile [.load]
  else s)

/-- Repair one line of DRAM from the newest record of its page (08 R243); a line of the home table gives its eight entries. -/
def State.repairLine (s : State) (t a : Nat) : State :=
  let ht := (s.logicalOf t (a / 4096)).1
  let lp := (s.logicalOf t (a / 4096)).2
  if ht then
    let (l, _) := match s.goodImage t true lp with | some r => r.line (a / 64 % 64) | none => (0, false)
    (List.range 8).foldl (fun (s : State) j => s.setHome t (512 * lp + a / 64 % 64 * 8 + j) (l.words.getD j 0)) s
  else
    let off := lp * 4096 + a % 4096 / 64 * 64
    if s.imageMissing t lp then s.missingLines t off 1
    else
      let (l, p) := match s.goodImage t false lp with | some r => r.line (a / 64 % 64) | none => (0, false)
      let s := s.putDram t a (s.cipherLine true t off a l) p
      if p then s.enterPoison t off else s

/-- VERIFY_LINE (07 R188; 08 R243): the next line of the verify-only path, with the symbols of `err` in error, passes the check of its form, or
is repaired. -/
def execVerifyLine (tile : Nat) (err : BitVec 640) (s : State) : Run :=
  .next (if tile < s.tiles ∧ s.restoring tile ∧ s.mode.mode = .rstr ∧ Store.read s.boot.paths tile 0 = 2 then
    let a := (s.tl tile).verifyAt
    let s := if (s.lineCheck tile a err).good then (if (s.lineGot tile a err).2 then s.enterPoison tile (s.offOf tile a) else s) else s.repairLine tile a
    let x := s.tl tile
    let ended := (a + 64) % 2 ^ 21 = 0
    let s := s.setTl tile { x with verifyAt := a + 64, loaded := if ended then insertNat (a / 2 ^ 21) x.loaded else x.loaded }
    let s := if s.dfaSize tile ≤ a + 64 then s.endRestore tile else s
    if ended ∨ s.dfaSize tile ≤ a + 64 then s.kick tile [.load] else s
  else s)

/-- Restore and the full-speed step have ended on every tile (02 Table 2-6). -/
def State.restoreDone (s : State) : Bool :=
  s.liveTiles.all (fun t => s.boot.restored.contains t && (s.tl t).opened &&
    (List.range 4).all (fun c => s.boot.fullSpeed.contains (4 * t + c) || s.chFenced t c))

/-- The end of step 12: the device writes BANK of `dram.fc_ctl` (06 Table 6-4). -/
def State.bankWritten (s : State) : State :=
  s.liveTiles.foldl (fun s t => s.setParam (pid bDram t 0xD) 0 (s.param (pid bDram t 0xD) 0 ||| 1)) s

/-- RESTORE_COMPLETE (02 R53, R62): the device names the tide out of RSTR. A unit that neither holds the lease nor has an
authoritative twin stays. -/
def execRestoreComplete (s : State) : Run :=
  .next (if s.mode.mode = .rstr ∧ s.restoreDone then
    let s := s.bankWritten
    if s.boot.auth then
      if s.leaseOk then (if s.twinUp ∧ s.lease.twinMirs ∧ s.pairId ≠ 0 then s.nameMode .actv 0x0B else s.nameMode .solo 0x0B) else s
    else if s.boot.twinAuth then s.nameMode .mirs 0x0B
    else s
  else s)

/-- Start a warm reset (02 R49): a planned save first in a serving mode, at once in BRUP and in MAIN entered from BRUP; in
MAIN the Tideline is drained before. -/
def State.warmReset (s : State) : Option State :=
  match s.mode.mode with
  | .brup => some s.warmStart
  | .rstr | .actv | .mirs | .solo => some (({ s with mode := { s.mode with warmReset := true } }).commitSave 5 true true)
  | .main =>
    if s.mode.prev = .brup then some s.warmStart
    else
      let s := { s with mode := { s.mode with warmReset := true } }
      some (if s.liveTiles.all (fun t => decide (s.dirtyCount t = 0)) then s.commitSave 5 true true else s)
  | _ => none

/-- WARM_RESET (02 R49); in MAIN it also commits the planned save that waits for the drain. -/
def execWarmReset (s : State) : Run :=
  .next (match s.warmReset with
    | some r => if r.save.run.isSome then r.finishAll (fun o => decide (o = .save)) .ok (BitVec.ofNat 64 s.master) else r
    | none => s)

/-- The contexts of a tile are created anew (12 R361, R365). -/
def State.freshCtxs (s : State) (t : Nat) : State :=
  s.ctxNums.foldl (fun s n => if (s.ctx n).tile = t ∧ (s.ctx n).created then s.newCtx n t (s.ctx n).level else s) s

/-- Tile reset (02 R51, R52): a fenced tile other than tile 0 is reset; recorder SRAM, flash and retained banks stay. The tile's parameters
come from the parameter store as the lead tile holds it loaded (R51): they keep their values. (DESIGN CHOICE, log 124.) -/
def State.clearTile (s : State) (t : Nat) : State :=
  let drop {α : Type} (n : Nat) (l : Store α) : Store α := l.filter (fun p => decide (p.1 / n ≠ t))
  { s with
    tide := s.tide.map (fun p => if p.1 = t then (p.1, { opened := p.2.opened }) else p), itile := drop 1 s.itile, paths := drop 1 s.paths, tiers := drop 1 s.tiers, dtiles := drop 1 s.dtiles,
    ich := drop 4 s.ich, home := drop (2 ^ 31) s.home, eaves := drop (2 ^ 21) s.eaves, plru := drop (2 ^ 17) s.plru,
    wq := drop 8 s.wq, rq := drop 8 s.rq, keys := drop 8192 s.keys, nonces := drop 4 s.nonces,
    chans := s.chans.map (fun p => if p.1 / 4 = t then (p.1, p.2.retained false) else p),
    thatch := s.thatch.map (fun p => if p.1 = t then (p.1, p.2.flash) else p),
    mirr := s.mirr.map (fun p => if p.1 = t then (p.1, { ckpt := p.2.ckpt }) else p),
    links := s.links.map (fun p => if p.1 / 4 = t then (p.1, { perst := p.2.perst }) else p),
    bars := drop 16 s.bars,
    pmc := { s.pmc with ctrs := s.pmc.ctrs.filter (fun p => decide (¬ (if p.1 < 8192 then p.1 / 1024 = t else (p.1 - 8192) / 16 % 8 = t))) },
    recd := { s.recd with tiles := s.recd.tiles.map (fun p => if p.1 = t then (p.1, p.2.overReset) else p) },
    waits := s.waits.filter (fun w => decide (w.req.owner ≠ t ∧ w.req.tile ≠ t)),
    unacked := s.unacked.filter (fun u => decide (u.owner ≠ t)),
    groups := s.groups.filter (fun g => decide (g.tile ≠ t)),
    time := { s.time with locals := drop 1 s.time.locals, skew := drop 1 s.time.skew },
    boot := { s.boot with tileReset := insertNat t s.boot.tileReset, ucie := s.boot.ucie.erase t, dimms := s.boot.dimms.erase t,
                          mounted := s.boot.mounted.erase t, restored := s.boot.restored.erase t, paths := drop 1 s.boot.paths,
                          fullSpeed := s.boot.fullSpeed.filter (fun k => decide (k / 4 ≠ t)) } }

/-- The tile reset as a whole: its root and context keys and its sealed keys are loaded again (02 R51; 14 Table 14-4). -/
def State.resetTile (s : State) (t : Nat) : State :=
  let s := ((s.clearTile t).freshCtxs t).openLoans t
  let (k, s) := s.drawKey
  let s := (s.setKey t 0 { key := Config.rootKey t, installs := 1 }).setKey t 1 { key := k, installs := 1 }
  s.sealedKeys.foldl (fun (s : State) p => if p.1 / 8192 = t then { s with keys := Store.write s.keys p.1 { p.2 with installs := 1 } {} } else s) s

/-- TILE_RESET (02 R51, R52). -/
def execTileReset (tile : Nat) (s : State) : Run :=
  .next (if tile ≠ 0 ∧ tile < s.tiles ∧ s.tileFenced tile ∧ !s.mode.leaving then s.resetTile tile else s)

/-- SAVE_COMPLETE (08 R235; 15 R463): a tile ends phase 10; after the last the save ends. -/
def execSaveComplete (tile : Nat) (s : State) : Run :=
  .next (match s.save.run with
    | some r =>
      if r.instant.isNone || r.complete.contains tile || !(s.liveTiles.contains tile) || s.shutting then s
      else
        let s := s.saveTile tile
        match s.save.run with
        | some r => if s.saveEnded r then s.endSave r else s
        | none => s
    | none => s)

/-- Ticks of the save timeout: `tide.holdup` − 10 ms, less 2 % once ACLK has stopped (15 R463). -/
def State.saveLimit (s : State) : Nat :=
  let l := (s.devP bTide 0 - 10) * ms
  if s.pwr.aclkStopped then l * 98 / 100 else l

/-- SAVE_TIMEOUT (08 R238; 15 R463): the timeout ends with the input absent; the rails shut off and no record is
written by a tile that has none yet. -/
def execSaveTimeout (s : State) : Run :=
  .next (match s.save.run with
    | some r =>
      match r.runFrom with
      | some f => if !s.shutting && !s.saveEnded r && decide (s.saveLimit ≤ r.used + (s.clock - f)) then s.shutdown (if s.mode.leaving then 0x0C else 0x0F) else s
      | none => s
    | none => s)

/-- ACLK_STOP (15 R463): the supervisor counts on PCLK from now on. -/
def execAclkStop (s : State) : Run := .next { s with pwr := { s.pwr with aclkStopped := true } }

end Sys2Proof.Machine
end

