-- ==== Sys2Proof/Machine/DramRows.lean ====
section
/-! DEFINITION. The commands of the DRAM controllers: discovery, training, changes of bank, retraining, refresh, row-hammer
protection and power states (05 R140 to R164; 06 R165 to R181). -/

namespace Sys2Proof.Machine

/-- A DIMM that is accepted (05 R141). -/
def spdOk (d : Spd) : Bool :=
  decide (d.width = 4 ∨ d.width = 8) && decide (1 ≤ d.density ∧ d.density ≤ 3) && decide (d.banks = 32 ∧ d.groups = 8) && decide (d.rankBits ≤ 1) && decide (d.cidBits ≤ 2)
    && decide (16 ≤ d.rowBits ∧ d.rowBits ≤ 18) && decide (19 + d.rowBits + d.rankBits + d.cidBits ≤ 39) && decide (d.kind = 1 ∨ d.kind = 2)

/-- What must be the same of every DIMM of a tile: all but PRAC support and the times (05 R140). -/
def coreSpd (d : Spd) : Spd := { d with prac := false, times := [] }
def coreRead : SlotRead → SlotRead
  | .spd d => .spd (coreSpd d)
  | r => r

/-- What the population rules find in the slots of a tile, at 2 · channel + slot: the SPD of every DIMM and the slot
bits, or the first slot that breaks a rule (05 R140 to R142). -/
def populationOf (slots : List SlotRead) : Sum Nat (Spd × Nat) :=
  match slots.getD 0 .empty with
  | .spd d =>
    let two := slots.getD 1 .empty ≠ .empty
    let want := fun i => if i % 2 = 0 ∨ two then SlotRead.spd (coreSpd d) else .empty
    match (List.range 8).find? (fun i => decide (coreRead (slots.getD i .empty) ≠ want i)) with
    | some i => .inl i
    | none => if spdOk d && !(ratesOf d.kind (if two then 1 else 0)).isEmpty then .inr (d, if two then 1 else 0) else .inl 0
  | _ => .inl 0

/-- `dram.geom` (05 Table 5-2). -/
def geomWord (d : Spd) (slotBits rate : Nat) : Word :=
  word [(48, rate), (40, d.rowBits + d.rankBits + d.cidBits + slotBits + 21 - 32), (32, d.rowBits), (28, slotBits), (26, d.cidBits),
    (24, d.rankBits), (16, d.density), (8, b01 (decide (d.width = 8))), (0, d.kind)]

/-- The timing parameters of the DIMMs of a channel, and whether one of them supports PRAC (05 R145, R162). -/
def slotTimes (slots : List SlotRead) (c : Nat) : List (Nat × List Nat) :=
  match slots.getD (2 * c) .empty, slots.getD (2 * c + 1) .empty with
  | .spd a, .spd b => maxTimes a.times b.times
  | .spd a, _ => a.times
  | _, _ => []
def slotPrac (slots : List SlotRead) (c : Nat) : Bool :=
  [2 * c, 2 * c + 1].any (fun i => match slots.getD i .empty with | .spd d => d.prac | _ => false)

/-- Start the training of a bank, which takes the counts of the rate being trained (06 R167, R168). -/
def State.startTrain (s : State) (t c : Nat) (bankH : Bool) (why : TrainFor) (rate step : Nat) : State :=
  let x := s.chan t c
  let b := if bankH then x.bankH else x.bankL
  s.setChan t c { x.setBank bankH { b with counts := countsFor x.spd rate } with
    train := some { bankH, why, rate, step }, phase := 2, power := .active, powerDown := [], rows := [], inUseH := bankH && x.inUseH, mainUse := false }

/-- The population of a tile and the rate that R142 chooses for it: its geometry stands and its channels train bank L, but on the verify-only
path; without a rate the tile is fenced with cause 0x51 (05 R142, R143; 06 R181). -/
def State.populate (s : State) (tile : Nat) (slots : List SlotRead) (d : Spd) (sb : Nat) (rate : Option Nat) : State :=
  match rate with
  | none => ((s.failedAt 8).log tile 6 bDram tile 0x08 8 0).raiseFence 0xA 0 tile 0x51 0
  | some r =>
    let s := s.setDt tile { s.dt tile with geom := geomWord d sb r, spdRate := d.rate, htLen := s.htNeed tile }
    let s := (List.range 4).foldl (fun (s : State) c => s.setChan tile c { s.chan tile c with spd := slotTimes slots c, pracDimm := slotPrac slots c }) s
    let s := { s with boot := { s.boot with dimms := insertNat tile s.boot.dimms } }
    (List.range 4).foldl (fun s c =>
      if s.chStops tile c then s
      else if (s.chan tile c).power = .selfRefresh ∧ (s.chan tile c).validL ∧ s.choosePath tile = 2 then s
      else (s.setIc tile c { s.ic tile c with convPtr := 0, convDone := false }).startTrain tile c false .start 32 1) s

/-- What is found in the slots of a tile: a tile that breaks a rule is fenced with cause 0x51 (05 R142). -/
def State.discovered (s : State) (tile : Nat) (slots : List SlotRead) : State :=
  match populationOf slots with
  | .inl i => ((s.failedAt 8).log tile 6 bDram tile 0x08 8 i).raiseFence 0xA 0 tile 0x51 0
  | .inr (d, sb) => s.populate tile slots d sb (chooseRate (ratesOf d.kind sb) (min d.rate (s.tileP bDram tile 0)))

/-- DIMM_DISCOVERY (05 R142): the SPD of every DIMM of a tile, its population and its rate. -/
def execDimmDiscovery (tile : Nat) (s0 s1 s2 s3 s4 s5 s6 s7 : SlotRead) (s : State) : Run :=
  let fresh := (s.stepRuns 6 && !s.boot.dimms.contains tile && !s.tileFenced tile)
    || (s.boot.tileReset.contains tile && s.boot.ucie.contains tile && !s.boot.dimms.contains tile)
  .next (if decide (tile < s.tiles) && fresh then s.discovered tile [s0, s1, s2, s3, s4, s5, s6, s7] else s)

/-- The fences on a channel or its DIMMs whose unit reset its training is (07 R216). -/
def Fence.onChan (f : Fence) (t c : Nat) : Bool := decide (f.tile = t) && (decide (f.cls = 1 ∧ f.inst = c) || decide (f.cls = 2 ∧ f.inst / 2 = c))

/-- The next channel of a tile's RETRAIN starts (06 Table 6-4). -/
def State.nextRetrain (s : State) (t : Nat) : State :=
  match (s.dt t).trainQueue with
  | c :: r =>
    match s.targetRate t with
    | some rate => (s.setDt t { s.dt t with trainQueue := r }).startTrain t c true .retrain rate 1
    | none => s
  | [] => s

/-- A training of a bank has ended without passing (06 R170). A failed RETRAIN leaves the next channel its turn. -/
def State.trainFailed (s : State) (t c : Nat) (r : Train) : State :=
  let x := s.chan t c
  if r.bankH then
    match lowerRate (s.rates t) r.rate with
    | some q =>
      ((s.setChan t c { x with fallbacks := min (x.fallbacks + 1) 255, validH := false, rateH := 0 }).startTrain t c true r.why q 1).log t 4 bDram t 0x08 12 c
    | none =>
      let s := s.setChan t c { x with train := none, phase := 4, validH := false, rateH := 0 }
      match r.why with
      | .unitReset => s
      | .retrain => (s.raiseFence 0x1 c t 0x53 0).nextRetrain t
      | _ => (s.failedAt 12).raiseFence 0x1 c t 0x53 0
  else
    let s := s.setChan t c { x with train := none, phase := 4, validL := false }
    if r.why = .unitReset then s else (s.failedAt 8).raiseFence 0x1 c t 0x52 0

/-- The ACTs of a step that uses the training rows, counted like any other: R168 gives neither their number nor their banks, and one ACT of
the lowest training row of bank 0 of group 0 on sub-channel A of each rank stands for them. (DESIGN CHOICE, log 119.) -/
def State.trainActs (s : State) (t c step : Nat) : State :=
  if step = 8 ∨ step = 10 then (s.ranks t).foldl (fun (s : State) k => s.activate t c (k * 64) (2 ^ s.rowBits t - 8)) s else s

/-- DRAM_TRAINING_STEP (06 R167, R168): the step of a training completes with or without passing its check. -/
def execDramTrainingStep (tile channel : Nat) (pass : Bool) (s : State) : Run :=
  .next (match (s.chan tile channel).train with
    | some r =>
      if r.passed || (s.chStops tile channel && decide (r.why ≠ .unitReset)) then s
      else
        let s := s.trainActs tile channel r.step
        let x := s.chan tile channel
        if pass then
          if r.step = 10 then s.setChan tile channel { x with train := some { r with passed := true, failed := false } }
          else s.setChan tile channel { x with train := some { r with step := r.step + 1, failed := false } }
        else if !r.failed then s.setChan tile channel { x with train := some { r with failed := true } }
        else s.trainFailed tile channel r
    | none => s)

/-- The channel of a unit reset has been trained: its fence may be lifted (07 R217). -/
def State.markReset (s : State) (t c : Nat) : State :=
  { s with fences := { s.fences with inForce := s.fences.inForce.map (fun f => if f.onChan t c then { f with reset := true } else f) } }

/-- The full-speed step of a channel is done (06 R174). -/
def State.doneFull (s : State) (t c : Nat) : State := { s with boot := { s.boot with fullSpeed := insertNat (4 * t + c) s.boot.fullSpeed } }

/-- What a complete training of a channel is followed by, as its reason says; `x` is the channel with its new bank (06 R176 to R181). -/
def State.trained (s : State) (t c : Nat) (r : Train) (x : Chan) : State :=
  match r.why with
  | .start => s.setChan t c { x with inUseH := false }
  | .unitReset =>
    if r.bankH then (s.setChan t c { x with inUseH := true }).markReset t c
    else
      let s := s.setChan t c { x with inUseH := false }
      match s.targetRate t with
      | some rate => s.startTrain t c true .unitReset rate 1
      | none => s
  | .fullSpeed =>
    let s := s.setChan t c { x with inUseH := true }
    (s.doneFull t c).kick t [.held]
  | .retrain => ((s.setChan t c { x with inUseH := true }).kick t [.held]).nextRetrain t

/-- A bank whose training has passed its last step: valid, with its settings, TTEMP and stamp (06 R169). -/
def State.trainedBank (s : State) (t c : Nat) (r : Train) : Chan :=
  let x := s.chan t c
  let x := if r.bankH then { x with validH := true, rateH := r.rate, ttempH := x.temp / 4, stampH := s.localCount t, ageH := s.clock }
           else { x with validL := true, ttempL := x.temp / 4, stampL := s.localCount t, ageL := s.clock }
  { x with train := none, phase := 0, rtPend := false, rtDrift := false, sliceStep := 6, sliceFails := 0, rows := [], idleSince := s.clock,
           prac := x.pracDimm && decide (s.tileP bDram t 0xA = 1) }

/-- DRAM_TRAINING_COMPLETE (06 R169): step 10 has passed; the bank becomes valid, TTEMP and the stamp are written. A channel fenced before
stays as it stopped (06 R178). -/
def execDramTrainingComplete (tile channel : Nat) (s : State) : Run :=
  .next (match (s.chan tile channel).train with
    | some r =>
      if !r.passed || (s.chStops tile channel && decide (r.why ≠ .unitReset)) then s
      else
        let s := s.newBank tile channel r.bankH r.rate
        s.trained tile channel r (s.trainedBank tile channel r)
    | none => s)

/-- Phase 1 of a change of bank (06 R172; 05 R156): requests are held, every queued write and neighbour refresh is issued,
all rows close. -/
def State.startChange (s : State) (t c : Nat) (toH full : Bool) : State :=
  let s := s.quietChan t c
  s.setChan t c { s.chan t c with fc := some { toH, since := s.clock, fullSpeed := full }, phase := 1, power := .selfRefresh, powerDown := [] }

/-- A channel of a tile's request has to change its bank. -/
def State.mustChange (s : State) (t c : Nat) : Bool :=
  !s.chFenced t c && decide ((s.chan t c).inUseH ≠ (s.dt t).fcToH) && (s.chan t c).train.isNone

/-- FREQUENCY_CHANGE (06 R172, R173): the next channel of a tile's request whose bank must change starts phase 1, GAP after the last ended; a
slice ends first, and the conversion lap stops at a group boundary (06 R180; 07 R191). A committed save starts none (06 R177). -/
def execFrequencyChange (tile : Nat) (s : State) : Run :=
  let d := s.dt tile
  .next (if !(s.mode.mode = .actv ∨ s.mode.mode = .mirs ∨ s.mode.mode = .solo ∨ s.mode.mode = .main) ∨ s.save.run.isSome then s
    else match d.fcQueue.find? (s.mustChange tile) with
      | none => s.setDt tile { d with fcQueue := [] }
      | some c =>
        if (List.range 4).all (fun k => (s.chan tile k).fc.isNone || s.chFenced tile k) ∧ s.due d.fcAt (fld (s.param (pid bDram tile 0xD) 0) 23 16 * us)
            ∧ (s.chan tile c).slice.isNone ∧ (s.ic tile c).lapStart = 0 then
          (s.setDt tile { d with fcQueue := (d.fcQueue.dropWhile (fun k => decide (k ≠ c))).drop 1 }).startChange tile c d.fcToH false
        else s)

/-- FULL_SPEED_STEP (02 R66; 06 R174): the lowest channel of a tile not yet done moves to bank H, and trains it where
it must; a tile in reset does the same after its load (02 R51). -/
def execFullSpeedStep (tile channel : Nat) (s : State) : Run :=
  let ready := (decide (s.mode.mode = .rstr) || s.boot.tileReset.contains tile) && s.boot.restored.contains tile && !s.boot.fullSpeed.contains (4 * tile + channel)
    && (List.range 4).all (fun k => ((s.chan tile k).fc.isNone && (s.chan tile k).train.isNone || s.chStops tile k)
          && (decide (channel ≤ k) || s.boot.fullSpeed.contains (4 * tile + k) || s.chStops tile k))
  .next (if decide (tile < s.tiles ∧ channel < 4) && ready && !s.chStops tile channel && s.save.run.isNone then
    (s.startChange tile channel true true).setChan tile channel { (s.startChange tile channel true true).chan tile channel with fallbacks := 0 }
  else s)

/-- The full-speed step goes on to train bank H (06 R174). -/
def State.trainFull (s : State) (t c : Nat) : State :=
  let s := s.exitSelfRefresh t c false
  let s := s.setChan t c { s.chan t c with fc := none, validH := false, rateH := 0 }
  match s.targetRate t with
  | some rate => s.startTrain t c true .fullSpeed rate 1
  | none => s

/-- Phase 8 of a change of bank, with the drift found in ps: it may update the write DQ delays, and set the retraining condition (06 R172). -/
def State.enterBank (s : State) (t c : Nat) (toH : Bool) (drift : Nat) : State :=
  let lim := s.tileP bDram t 0xF
  let s := ((if lim ≤ drift then s.newDelays t c toH false else s).quietChan t c).endChange t c toH
  if 4 * lim ≤ drift then (s.setChan t c { s.chan t c with rtDrift := true }).evalRetrain t c else s

/-- FREQUENCY_CHANGE_COMPLETE (06 R172, R181): phase 8 ends, with the drift found (ps) and the temperatures read at the self-refresh exit. A
bank whose rate exceeds `dram.rate_max` is not entered. The full-speed step goes on to train bank H unless it is valid and need not be
retrained. -/
def execFrequencyChangeComplete (tile channel : Nat) (found : DriftTemps) (s : State) : Run :=
  .next (match (s.chan tile channel).fc with
    | some f =>
      if s.chStops tile channel || !(s.rqOf (8 * tile + 2 * channel)).isEmpty || !(s.rqOf (8 * tile + 2 * channel + 1)).isEmpty then s
      else
        let s := (s.setDt tile { s.dt tile with fcAt := s.clock }).readTemps tile channel found.t0 found.t1
        if f.fullSpeed && !(s.usableH tile channel && !s.retrainCond tile channel true) then s.trainFull tile channel
        else (if f.fullSpeed then s.doneFull tile channel else s).enterBank tile channel (f.toH && s.usableH tile channel) found.drift
    | none => s)

/-- The last slice has passed step 10: its settings take effect (06 R180). -/
def State.retrained (s : State) (t c : Nat) : State :=
  let s := s.newDelays t c (s.chan t c).inUseH true
  let x := { s.chan t c with rtPend := false, rtDrift := false, sliceStep := 6, sliceFails := 0 }
  s.setChan t c (if x.inUseH then { x with ttempH := x.temp / 4, stampH := s.localCount t, ageH := s.clock }
    else { x with ttempL := x.temp / 4, stampL := s.localCount t, ageL := s.clock })

/-- A step of the slices has not passed: three failures of step 10 in a row are logged, and the count begins anew; a failure of step 6 or 8
counts for nothing and the steps begin again. (DESIGN CHOICE, log 120.) -/
def State.sliceFailed (s : State) (t c : Nat) : State :=
  let x := { s.chan t c with sliceStep := 6 }
  if (s.chan t c).sliceStep ≠ 10 then s.setChan t c x
  else if 3 ≤ x.sliceFails + 1 then (s.setChan t c { x with sliceFails := 0 }).log t 5 bDram t 0x08 10 c
  else s.setChan t c { x with sliceFails := x.sliceFails + 1 }

/-- A slice may start: the retraining condition holds, no other channel of the tile runs one, and `dram.rt_space` has passed (06 R180). -/
def State.sliceDue (s : State) (t c : Nat) : Bool :=
  let x := s.chan t c
  decide (s.mode.mode = .actv ∨ s.mode.mode = .mirs ∨ s.mode.mode = .solo) && x.rtPend && x.fc.isNone && x.train.isNone && s.save.run.isNone
    && (List.range 4).all (fun k => (s.chan t k).slice.isNone || s.chFenced t k) && decide (x.sliceLast = 0 ∨ s.due x.sliceLast (s.tileP bDram t 0x14 * us))

/-- RETRAINING_SLICE (06 R180): a slice starts, holding the channel's lines; or the running one ends, with its step finished or not, and
passed or not. -/
def execRetrainingSlice (tile channel : Nat) (finished pass : Bool) (s : State) : Run :=
  let x := s.chan tile channel
  .next (if s.chFenced tile channel ∨ 4 ≤ channel ∨ s.tiles ≤ tile then s
    else match x.slice with
    | none => if s.sliceDue tile channel then s.setChan tile channel { x with slice := some s.clock, phase := 3, sliceLast := s.clock } else s
    | some _ =>
      let s := (s.setChan tile channel { x with slice := none, phase := 0 }).trainActs tile channel x.sliceStep
      let s :=
        if !finished then s
        else if !pass then s.sliceFailed tile channel
        else if x.sliceStep = 10 then s.retrained tile channel
        else s.setChan tile channel { s.chan tile channel with sliceStep := x.sliceStep + 2 }
      s.kick tile [.held])

/-- DIMM_TEMPERATURE_READ (05 R159; 06 R179): the readings of the DIMMs of a channel in 0.25 °C, none for a read that
failed, every 10 ms. -/
def execDimmTemperatureRead (tile channel : Nat) (t0 t1 : Option Nat) (s : State) : Run :=
  let x := s.chan tile channel
  .next (if tile < s.tiles ∧ channel < 4 ∧ s.boot.dimms.contains tile ∧ (x.tempAt = 0 ∨ s.due x.tempAt (10 * ms)) then
    let s := s.readTemps tile channel t0 t1
    if s.mode.mode.serving then s.evalRetrain tile channel else s
  else s)

/-- A channel in service: its DIMMs are found, it is active, and no change or training runs. -/
def State.inService (s : State) (t c : Nat) : Bool :=
  decide (t < s.tiles ∧ c < 4) && !s.chFenced t c && decide ((s.chan t c).power = .active) && (s.chan t c).fc.isNone && (s.chan t c).train.isNone

/-- DQS_OSCILLATOR_CHECK (06 R179): every `dram.osc_period` the drift of a rank is read. -/
def execDqsOscillatorCheck (tile channel rank drift : Nat) (s : State) : Run :=
  let x := s.chan tile channel
  .next (if s.inService tile channel ∧ s.mode.mode.serving ∧ (s.ranks tile).contains rank ∧ s.due (Store.read x.oscAt rank 0) (s.tileP bDram tile 0xE * ms) then
    let s := s.setChan tile channel { x with oscAt := Store.write x.oscAt rank s.clock 0 }
    if s.tileP bDram tile 0xF ≤ drift then s.newDelays tile channel x.inUseH false else s
  else s)

/-- ZQ_CALIBRATION (06 R179): every `dram.zq_period` a rank is calibrated and latched. -/
def execZqCalibration (tile channel rank : Nat) (s : State) : Run :=
  let x := s.chan tile channel
  .next (if s.inService tile channel ∧ (s.ranks tile).contains rank ∧ s.due (Store.read x.zqAt rank 0) (s.tileP bDram tile 0x10 * ms) then
    s.setChan tile channel { x with zqAt := Store.write x.zqAt rank s.clock 0 }
  else s)

/-- Close the rows of a rank, or those of one bank of each of its groups. -/
def State.closeRank (s : State) (t c rank : Nat) (bank : Option Nat) : State :=
  let x := s.chan t c
  s.setChan t c { x with rows := x.rows.filter (fun p => !(decide (p.1 / 64 = rank) && (match bank with | some b => decide (p.1 / 2 % 4 = b) | none => true))) }

/-- No request is queued for a rank. -/
def State.rankIdle (s : State) (t c rank : Nat) : Bool :=
  [8 * t + 2 * c, 8 * t + 2 * c + 1].all (fun k => (s.rqOf k).all (fun e => decide (s.dfaRank t e.dfa ≠ rank)) && (s.wqOf k).all (fun e => decide (s.dfaRank t e.dfa ≠ rank)))

/-- Issue REFsb of the next bank of a rank, or REFab, and leave its account as `r` says. It takes the rank out of power-down (05 R163). -/
def State.issueRefresh (s : State) (t c rank : Nat) (r : RefRank) : State :=
  let s := s.closeRank t c rank (if s.tileP bDram t 8 = 0 then none else some r.bank)
  let x := s.chan t c
  s.setChan t c { x with refresh := Store.write x.refresh rank { r with bank := (r.bank + 1) % 4 } {}, powerDown := x.powerDown.filter (fun k => decide (k ≠ rank)),
                         idleAt := Store.write x.idleAt rank s.clock 0 }

/-- REFRESH_DUE (05 R157, R158): an interval of a rank has passed. The refresh is postponed while urgent reads wait, by at
most four intervals; else it is issued, unless one was pulled in for the interval. Before the interval has passed, the command issues a
postponed refresh once no urgent read waits, or pulls one in, by at most four intervals, when nothing is queued for the rank.
(DEDUCED, log 108.) -/
def execRefreshDue (tile channel rank : Nat) (s : State) : Run :=
  let x := s.chan tile channel
  let r := Store.read x.refresh rank {}
  .next (if decide (tile < s.tiles ∧ channel < 4) && !s.chFenced tile channel && decide (x.power = .active) && (s.ranks tile).contains rank then
    if s.due r.since (s.tRefi tile channel) then
      if 0 < r.pulled then s.setChan tile channel { x with refresh := Store.write x.refresh rank { r with since := s.clock, pulled := r.pulled - 1 } {} }
      else if s.urgentReads tile channel rank ∧ r.postponed < 4 then
        s.setChan tile channel { x with refresh := Store.write x.refresh rank { r with since := s.clock, postponed := r.postponed + 1 } {} }
      else s.issueRefresh tile channel rank { r with since := s.clock }
    else if 0 < r.postponed then
      if s.urgentReads tile channel rank ∧ r.postponed < 4 then s else s.issueRefresh tile channel rank { r with postponed := r.postponed - 1 }
    else if s.rankIdle tile channel rank ∧ r.pulled < 4 then s.issueRefresh tile channel rank { r with pulled := r.pulled + 1 }
    else s
  else s)

/-- NEIGHBOUR_REFRESH (05 R160, R161): the oldest neighbour refresh due on a channel is made. -/
def execNeighbourRefresh (tile channel : Nat) (s : State) : Run :=
  .next (if tile < s.tiles ∧ channel < 4 ∧ (s.chan tile channel).power = .active ∧ !s.chFenced tile channel then s.refreshNeighbours tile channel else s)

/-- ACTIVATE_TABLE_CLEAR (05 R160, R161): at each window the tables are cleared, after the neighbour refreshes that are due. -/
def execActivateTableClear (tile channel : Nat) (s : State) : Run :=
  .next (if tile < s.tiles ∧ channel < 4 ∧ s.due (s.chan tile channel).actsSince ((if (s.chan tile channel).hot then 16 else 32) * ms) then
    let s := s.refreshAll tile channel
    s.setChan tile channel { s.chan tile channel with acts := [], actsSince := s.clock }
  else s)

/-- PAGE_IDLE_CLOSE (05 R152): a row that no queued request hits, idle for `dram.page_idle`, closes. -/
def execPageIdleClose (tile channel bank : Nat) (s : State) : Run :=
  let x := s.chan tile channel
  let r := Store.read x.rows bank {}
  let k := 8 * tile + 2 * channel + bank % 2
  let hit := fun (a : Nat) => decide (s.bankKey tile a = bank ∧ s.dfaRow tile a = r.row)
  .next (if tile < s.tiles ∧ channel < 4 ∧ r.isOpen ∧ s.due r.last (s.dclk tile channel (s.tileP bDram tile 3))
      ∧ !(s.rqOf k).any (fun e => hit e.dfa) ∧ !(s.wqOf k).any (fun e => hit e.dfa) then
    s.setChan tile channel { x with rows := Store.write x.rows bank {} {} }
  else s)

/-- A queued request needs a rank of a channel. -/
def State.rankWanted (s : State) (t c rank : Nat) : Bool :=
  [8 * t + 2 * c, 8 * t + 2 * c + 1].any (fun k => (s.rqOf k).any (fun e => decide (s.dfaRank t e.dfa = rank)) || (s.wqOf k).any (fun e => decide (s.dfaRank t e.dfa = rank)))

/-- POWER_DOWN_ENTRY (05 R163, R164): a rank idle for `dram.pd_idle` DCLK enters precharge power-down. -/
def execPowerDownEntry (tile channel rank : Nat) (s : State) : Run :=
  let x := s.chan tile channel
  let n := s.tileP bDram tile 0xB
  .next (if s.inService tile channel ∧ 0 < n ∧ (s.ranks tile).contains rank ∧ !s.rankWanted tile channel rank ∧ s.due (Store.read x.idleAt rank 0) (s.dclk tile channel n)
      ∧ !x.powerDown.contains rank then
    let s := s.closeRank tile channel rank none
    s.setChan tile channel { s.chan tile channel with powerDown := insertNat rank x.powerDown }
  else s)

/-- A Batten bus requester, SCRB or CRYP uses the channels of a tile, or waits to (05 Table 5-8). -/
def State.tileBusy (s : State) (t : Nat) : Bool :=
  (s.tt t).batt.any (fun p => p.2.req || p.2.valid) || !(s.tt t).moves.isEmpty || !(s.it t).writeBack.isEmpty || !(s.pt t).recov.isEmpty ||
    s.ctxs.any (fun p => match p.2.long with
      | some (_, .scrb r) => decide (r.tile = t)
      | some (_, .cryp) => (match p.2.cryp with | some c => decide (c.tile = t) | none => false)
      | _ => false)

/-- SELF_REFRESH_ENTRY (05 R163): in MAIN with `dram.main_sr`, a channel whose tile has an empty Tideline and that nothing
uses enters self-refresh; once it has left it in MAIN, only after 1 ms idle. -/
def execSelfRefreshEntry (tile channel : Nat) (s : State) : Run :=
  .next (if s.inService tile channel ∧ s.mode.mode = .main ∧ s.tileP bDram tile 0xC = 1 ∧ s.dirtyCount tile = 0 ∧ !s.tileBusy tile ∧ (s.chan tile channel).slice.isNone
      ∧ (s.rqOf (8 * tile + 2 * channel)).isEmpty ∧ (s.rqOf (8 * tile + 2 * channel + 1)).isEmpty
      ∧ ((s.chan tile channel).mainUse = false ∨ s.due (s.chan tile channel).idleSince ms) then
    let s := s.quietChan tile channel
    s.setChan tile channel { s.chan tile channel with power := .selfRefresh, powerDown := [] }
  else s)

/-- A channel is wanted: a request is queued for it, or a Batten bus requester, SCRB or CRYP uses it (05 Table 5-8). -/
def State.chanWanted (s : State) (t c : Nat) : Bool :=
  s.tileBusy t || [8 * t + 2 * c, 8 * t + 2 * c + 1].any (fun k => !(s.rqOf k).isEmpty || !(s.wqOf k).isEmpty)

/-- SELF_REFRESH_EXIT (05 R163; 06 R181): on the verify-only path in BRUP, on bank L; on leaving MAIN; in MAIN at the first
use. The retraining condition is evaluated with the temperatures read at the exit. -/
def execSelfRefreshExit (tile : Nat) (channel : ChanTemps) (s : State) : Run :=
  let x := s.chan tile channel.chan
  .next (if tile < s.tiles ∧ channel.chan < 4 ∧ x.power = .selfRefresh ∧ x.fc.isNone ∧ !s.chFenced tile channel.chan then
    if s.stepRuns 6 ∨ s.mode.mode = .brup then
      if !s.boot.dimms.contains tile ∨ !s.stepRuns 6 then s
      else
        let s := (s.exitSelfRefresh tile channel.chan false).readTemps tile channel.chan channel.t0 channel.t1
        if s.retrainCond tile channel.chan false then s.startTrain tile channel.chan false .start 32 5 else s
    else if s.mode.mode = .main then
      if s.chanWanted tile channel.chan then
        let s := ((s.exitSelfRefresh tile channel.chan x.inUseH).readTemps tile channel.chan channel.t0 channel.t1).evalRetrain tile channel.chan
        s.setChan tile channel.chan { s.chan tile channel.chan with mainUse := true }
      else s
    else if s.mode.mode ≠ .save ∧ s.mode.mode ≠ .stby then
      let s := ((s.exitSelfRefresh tile channel.chan x.inUseH).readTemps tile channel.chan channel.t0 channel.t1).evalRetrain tile channel.chan
      s.setChan tile channel.chan { s.chan tile channel.chan with mainUse := false }
    else s
  else s)

/-- The rows of a sub-channel close. -/
def State.closeSub (s : State) (t c sub : Nat) : State :=
  let x := s.chan t c
  s.setChan t c { x with rows := x.rows.filter (fun p => decide (p.1 % 2 ≠ sub)) }

/-- PRAC_ALERT (05 R162): the RFM commands that the DIMM asks for are issued; no new ACT on the sub-channel until they are
complete. -/
def execPracAlert (tile channel sub : Nat) (s : State) : Run :=
  .next (if s.inService tile channel ∧ (s.chan tile channel).prac ∧ sub < 2 then (s.closeSub tile channel sub).tally tile (5 + channel) 0x0005 {} else s)

/-- CA_PARITY_ALERT (07 R195, R196): the error is cleared, every bank is precharged, and the commands since are issued
again, so that no line changes. At `ecc.ca_limit` alerts within one second the channel is fenced. -/
def execCaParityAlert (tile channel sub : Nat) (s : State) : Run :=
  .next (if s.inService tile channel ∧ sub < 2 then
    let s := (s.closeSub tile channel sub).countP (pid bEcc tile (0x18 + channel)) 0
    let x := s.ic tile channel
    let l := s.clock :: x.caAt.filter (fun t0 => decide (s.clock < t0 + sec))
    let s := s.setIc tile channel { x with caAt := l }
    if s.tileP bEcc tile 3 ≤ l.length then s.raiseFence 0x1 channel tile 0x55 0 else s
  else s)

end Sys2Proof.Machine
end

