-- ==== Sys2Proof/Machine/TierGeom.lean ====
section
/-! DEFINITION. The tier pool of a tile: its frames, the frame owner table at its top, free frames, and the ranges that loans
lend (11 R333, R334, R342). -/

namespace Sys2Proof.Machine

/-- Role, peer, frames and base of a loan entry as it is in effect (11 Table 11-4). -/
def State.loanWord (s : State) (t i w : Nat) : Word := s.param (pid bTier t (0x40 + 4 * i + w)) 0
def State.loanRole (s : State) (t i : Nat) : Nat := fld (s.loanWord t i 0) 63 62
def State.loanPeer (s : State) (t i : Nat) : Nat := fld (s.loanWord t i 0) 43 32
def State.loanFrames (s : State) (t i : Nat) : Nat := fld (s.loanWord t i 0) 31 0
def State.loanBase (s : State) (t i : Nat) : Nat := fld (s.loanWord t i 1) 45 21
def State.loanKey (s : State) (t i : Nat) : Nat := fld (s.loanWord t i 2) 12 0

/-- A borrower loan in STATE active; the lender frames of a tile's borrower loans. -/
def State.borrows (s : State) (t i : Nat) : Bool := decide (s.loanRole t i = 2 ∧ (s.loan t i).state = 2)
def State.lentTo (s : State) (t : Nat) : Nat :=
  (List.range 16).foldl (fun a i => if s.loanRole t i = 2 ∧ (s.loan t i).state ≠ 0 then a + s.loanFrames t i else a) 0

/-- Frames of DFA from the pool base to the top of the allocatable DFA, training rows left out. -/
def State.poolAll (s : State) (t : Nat) : Nat :=
  let lo := s.poolBase t
  let hi := s.allocTop t
  let holes := (List.range (s.rankRanges t - 1)).countP (fun k => decide (lo < (k + 1) * s.rankSpan t ∧ (k + 1) * s.rankSpan t ≤ hi))
  (hi - lo) / 4096 - holes * (holeLen / 4096)

/-- Pages of the frame owner table: 8 bytes per frame (11 R334). -/
def State.ownerPages (s : State) (t : Nat) : Nat :=
  if s.poolAll t = 0 then 0 else ((s.poolAll t + s.lentTo t) * 8 + 4095) / 4096

/-- The frames that the pool offers (11 Table 11-3), and the first frame above them. -/
def State.poolFrames (s : State) (t : Nat) : Nat := s.poolAll t - s.ownerPages t
def State.poolEnd (s : State) (t : Nat) : Nat := s.allocTop t / 4096 - s.ownerPages t

/-- The first frame lent by a lender loan, as a DFA page of the tile. -/
def lentFirst (base : Nat) : Nat := base % 2 ^ 22 * 512

/-- A frame is lent by a loan of the tile. -/
def State.lent (s : State) (t f : Nat) : Bool :=
  (List.range 16).any (fun i => decide (s.loanRole t i = 1) && decide (lentFirst (s.loanBase t i) ≤ f ∧ f < lentFirst (s.loanBase t i) + s.loanFrames t i)
    && decide ((s.loan t i).state ≠ 0 ∧ (s.loan t i).state ≠ 5))

/-- An entry of the frame owner table, and whether its frame is free. -/
def State.frame (s : State) (t f : Nat) : Owner := Store.read (s.tt t).owners f {}
def State.setFrame (s : State) (t f : Nat) (o : Owner) : State := s.setTt t { s.tt t with owners := Store.write (s.tt t).owners f o {} }
def State.frameFree (s : State) (t f : Nat) : Bool := !(s.frame t f).valid && !(s.frame t f).pendRel

/-- The first free frame of the pool from `f`: over a frame that is taken or lent, and over training rows. -/
def State.seekFrame (s : State) (t : Nat) : Nat → Nat → Option Nat
  | 0, _ => none
  | k + 1, f =>
    if s.poolEnd t ≤ f then none
    else if s.training t (f * 4096) then s.seekFrame t k ((f * 4096 / s.rankSpan t + 1) * s.rankSpan t / 4096)
    else if s.frameFree t f ∧ !s.lent t f then some f
    else
      match (List.range 16).find? (fun i => decide (s.loanRole t i = 1 ∧ lentFirst (s.loanBase t i) ≤ f ∧ f < lentFirst (s.loanBase t i) + s.loanFrames t i)) with
      | some i => if s.lent t f then s.seekFrame t k (lentFirst (s.loanBase t i) + s.loanFrames t i) else s.seekFrame t k (f + 1)
      | none => s.seekFrame t k (f + 1)

/-- A free frame of the pool. -/
def State.freeFrame (s : State) (t : Nat) : Option Nat :=
  s.seekFrame t ((s.tt t).owners.length + s.rankRanges t + 18) (s.poolBase t / 4096)

/-- Every frame of a range lies in the pool and is free. -/
def State.rangeFree (s : State) (t lo n : Nat) : Bool :=
  decide (s.poolBase t / 4096 ≤ lo ∧ lo + n ≤ s.poolEnd t)
    && (s.tt t).owners.all (fun o => !(decide (lo ≤ o.1 ∧ o.1 < lo + n) && (o.2.valid || o.2.pendRel)))
    && (List.range (s.rankRanges t)).all (fun k => decide (((k + 1) * s.rankSpan t) / 4096 ≤ lo ∨ lo + n + holeLen / 4096 ≤ ((k + 1) * s.rankSpan t) / 4096))

/-- The highest byte of a pinned extent of a tile, as a DFA (11 R333). -/
def State.pinnedTop (s : State) (t : Nat) : Nat :=
  s.sessions.foldl (fun a p => if !p.2.isOpen then a else
    p.2.exts.foldl (fun (a : Nat) e => if e.2.defined ∧ !e.2.tiered ∧ e.2.dpa / 2 ^ 43 = t then max a (e.2.dpa % 2 ^ 43 + e.2.len) else a) a) 0

end Sys2Proof.Machine
end

