-- ==== Sys2Proof/Machine/ParamOps.lean ====
section
/-! DEFINITION. Parameters as instructions reach them: the permission matrix, which session an ID names, reads with their side
effects, immediate writes, the staged set, and the check of the set as a whole (12 R377 to R380; 13 R396 to R398; 17 R489; 18
R508 to R511). -/

namespace Sys2Proof.Machine

/-- The permission matrix: right 0 read, 1 stage (17 R489). -/
def State.permits (s : State) (l blk k : Nat) : Bool :=
  decide (l = 0) || (decide (l = 1) && decide (s.life = .mfg)) || decide (blk = 0 ∨ 0x18 < blk) ||
    (let p := 48 * l + 2 * (blk - 1) + k
     bit (s.fuseWord (35 + p / 64)) (p % 64))

/-- The ID is assigned, and the session it names is open (00 R9; 18 R511; 13 R389). -/
def State.idOk (s : State) (n pl id : Nat) : Bool :=
  (pspec s.tiles id).isSome && (decide (pidBlock id ≠ bSess) || (s.sess (s.idSess n pl id)).isOpen)

/-- The instance is one of a fenced tile (18 R508). -/
def State.idFenced (s : State) (id : Nat) : Bool :=
  match pspec s.tiles id with
  | some p => (match p.inst.tileOf (pidInst id) with | some t => s.tileFenced t | none => false)
  | none => false

/-- A count of block `pmc`, and a stall or timeout counter of a session (16 R485). -/
def isCnt (id : Nat) : Bool := decide (pidBlock id = bPmc ∧ pidInst id % 64 < 40 ∧ pidInst id < 512 ∧ 0x10 ≤ pidIdx id)
def isStall (id : Nat) : Bool := decide (pidBlock id = bSess ∧ pidInst id < 8 ∧ (pidIdx id = 5 ∨ (0x10 ≤ pidIdx id ∧ pidIdx id < 0x20)))

/-- The counter belongs to session `n` (16 R485). -/
def State.cntOf (s : State) (id n : Nat) : Bool :=
  let w := s.param (pid bPmc (pidInst id) (pidIdx id - 0x10)) 0
  isStall id || (isCnt id && decide (fld w 61 60 = 3 ∧ fld w 59 48 = n))

/-- A read at a level: the matrix, and the rules of R485, R365 and 14 R441 for PL2 and PL3. -/
def State.mayRead (s : State) (n pl id : Nat) (crd : Bool) : Bool :=
  s.permits pl (pidBlock id) 0 && (decide (pl ≤ 1) ||
    (if isCnt id || isStall id then s.cntOf id n && (decide (pl = 2) || (crd && (s.sess n).cpr))
     else if pidBlock id = bSeq ∧ 512 ≤ pidInst id ∧ pidInst id < 576 then decide ((pidInst id - 512) % 32 * 256 + pidIdx id = n)
     else if pidBlock id = bCiph ∧ pidInst id < 512 ∧ 32 ≤ pidInst id % 64 then
       let r := Store.read (s.sess n).resv (pidInst id / 64) {}
       let k := (pidInst id % 64 - 32) * 256 + pidIdx id
       decide (r.keyBase ≤ k ∧ k < r.keyBase + r.keys)
     else true))

/-- A tide that has swapped and whose holds are not lifted changes the parameter (18 R510). -/
def State.tideHolds (s : State) (id sess : Nat) : Bool :=
  s.tides.any (fun t => decide (t.phase = .swapped ∨ t.phase = .swapBack ∨ t.phase = .backSwapped) &&
    t.changes.any (fun e => match e.change with | .field i n _ _ _ => decide (pkey i n = pkey id sess) | _ => false))

/-- What a read returns: the value in effect, an RC count of `rec.trig` among it; a read of the first word of `rec.rd_data`
fetches a record first (16 R478). -/
def State.beforeRead (s : State) (id : Nat) : State :=
  if pidBlock id = bRec ∧ pidInst id = 1023 ∧ 0x20 ≤ pidIdx id ∧ (pidIdx id - 0x20) % 24 = 0 then s.fetchRec ((pidIdx id - 0x20) / 24) else s

/-- The RC fields of the parameter after a read: zero (00 R7). -/
def State.afterRead (s : State) (id sess : Nat) : State :=
  match pspec s.tiles id with
  | some p =>
    if p.fields.any (fun f => decide (f.acc = .rc)) then
      if p.block = bRec ∧ pidInst id < 512 then
        let t := pidInst id / 64
        s.setRt t { s.rt t with hits := Store.write (s.rt t).hits (pidInst id % 64) 0 0 }
      else s.setParam id sess (p.fields.foldl (fun w f => if f.acc = .rc then ins w f.hi f.lo 0 else w) (s.param id sess))
    else s
  | none => s

/-! ### The staged set -/

/-- The fields of a word that are STG and that the device holds: `v` over `old`. -/
def mergeStg (fs : List PField) (hi lo : Nat) (old v : Word) : Word :=
  fs.foldl (fun a f => if f.stg ∧ f.acc ≠ .wo ∧ lo ≤ f.lo ∧ f.hi ≤ hi then ins a f.hi f.lo (fld v f.hi f.lo) else a) old

def hasStg (fs : List PField) : Bool := fs.any (fun f => f.stg)

/-- Two changes of one place of the set (12 R378). -/
def Change.same : Change → Change → Bool
  | .field i n h l _, .field j m g k _ => decide (i = j ∧ n = m ∧ h = g ∧ l = k)
  | a, b => decide (a = b)

def addEntry (l : List Entry) (e : Entry) : List Entry :=
  if l.any (fun f => f.change.same e.change) then replaceFirst (fun f => f.change.same e.change) (fun _ => e) l else l ++ [e]

/-- The set with changes of one level added. -/
def addChanges (l : List Entry) (cs : List Change) (level : Nat) : List Entry := cs.foldl (fun l c => addEntry l ⟨c, level⟩) l

/-- The staging context may stage these changes: no other context owns the set, and it has room (12 R378). (DEDUCED, log 18.) -/
def State.canStage (s : State) (n : Nat) (cs : List Change) : Bool :=
  (decide (s.set.owner = none) || decide (s.set.owner = some n)) && decide ((addChanges s.set.entries cs 0).length ≤ 1024)

/-- Stage changes. -/
def State.stage (s : State) (n level : Nat) (cs : List Change) : State :=
  { s with set := { s.set with entries := addChanges s.set.entries cs level, owner := some n, checked := false, touched := s.clock } }

/-- The first instruction that refers to a dropped set completes with LATE; it takes note (12 R378). -/
def State.noteDrop (s : State) (n : Nat) : State := s.setCtx n { s.ctx n with dropped := false }

/-- Apply a field change to the held values. -/
def State.applyField (s : State) (c : Change) : State :=
  match c with
  | .field id n hi lo v =>
    match pspec s.tiles id with
    | some p => s.setParam id n (mergeStg p.fields hi lo (s.param id n) (BitVec.ofNat 64 v))
    | none => s
  | _ => s

/-- The held values with the whole set applied. -/
def State.overlay (s : State) : State := s.set.entries.foldl (fun s e => s.applyField e.change) s

/-- The staged value of a parameter, with what is in effect around it (13 R396). -/
def State.stagedValue (s : State) (id sess : Nat) : Option Word :=
  if s.set.entries.any (fun e => match e.change with | .field i n _ _ _ => decide (i = id ∧ n = sess) | _ => false) then
    some (s.overlay.view id sess)
  else none

/-- The transitions of Table 2-6 for a PL1 request (02 R46, R53). (DESIGN CHOICE, log 35.) -/
def State.mayTarget (s : State) (m : Mode) : Bool :=
  match s.mode.mode with
  | .brup | .mirs | .solo => decide (m = .main)
  | .main => decide (m = s.mode.prev) && decide (m ≠ .main)
  | _ => false

/-- `sys.mode_target` staged with a value (02 R46; 19 R542). -/
def State.targetOk (s : State) (v : Nat) : Bool :=
  if v = 0xF then true
  else match Mode.ofCode v with
    | some m => s.mayTarget m && (!s.tap.scanHold || decide (m = .main))
    | none => false

/-- `dram.fc_ctl` staged (06 R173), in the state with the set applied. -/
def State.fcOk (s : State) (t : Nat) (v : Word) : Bool :=
  let chs := (List.range 4).filter (fun c => bit v (8 + c))
  (!bit v 0 || chs.all (fun c => (s.chan t c).validH && decide ((s.chan t c).rateH ≤ s.tileP bDram t 0))) &&
  (!bit v 1 || (decide (s.mode.mode = .main) && (s.targetRate t).isSome))

/-- A loan as staged (11 R342): `b` is the state before the set is applied. -/
def State.loanOk (s b : State) (t i : Nat) : Bool :=
  let role := s.loanRole t i
  let lo := lentFirst (s.loanBase t i)
  let same := decide (b.loanRole t i = role ∧ b.loanFrames t i = s.loanFrames t i ∧ b.loanBase t i = s.loanBase t i ∧ b.loanPeer t i = s.loanPeer t i)
  decide (role ≠ 3) && (decide (role = 0) || decide (s.devP bPort 1 ≤ 0xFFF)) &&
  (decide (role ≠ 1) || same || (decide (s.loanBase t i / 2 ^ 22 = t) && b.rangeFree t lo (s.loanFrames t i) &&
    (List.range 16).all (fun j => decide (j = i) || decide (s.loanRole t j ≠ 1) ||
      decide (lentFirst (s.loanBase t j) + s.loanFrames t j ≤ lo ∨ lo + s.loanFrames t i ≤ lentFirst (s.loanBase t j))))) &&
  (decide (role ≠ 2) || (List.range 16).all (fun j => decide (s.loanRole t j ≠ 2 ∨ s.loanPeer t j ≠ s.loanPeer t i)
      || (decide (j = i) && (same || decide ((b.loan t j).state ≠ 3)))))

/-- Frames that a new pool base would take from the pool hold no page and no release (11 R333). -/
def State.poolOk (s : State) (t v : Nat) : Bool :=
  decide (s.pinnedTop t ≤ v) &&
    (s.tt t).owners.all (fun o => !(decide (o.1 < 2 ^ 30 ∧ o.1 * 4096 < v) && (o.2.valid || o.2.pendRel)))

/-- Every key pair of the image keys is in use (14 R435). -/
def State.pairsBusy (s : State) (t : Nat) : Bool := (List.range 4).all (fun j => decide ((s.keySlot t (4 + 2 * j)).usage ≠ 0))

/-- `fw.arb_commit` staged (17 R500). -/
def State.arbOk (s : State) (v : Word) : Bool :=
  !bit v 0 || (decide (s.mode.mode = .main) && s.pwr.vddFuse && decide (s.arbCount < s.svnRun) &&
    (bit v 1 || !((s.slot s.inactive).complete && decide ((s.slot s.inactive).svn < s.svnRun))))

/-- The parameters that a trigger entry names may be read at the staging level (16 R470). -/
def State.trigOk (s : State) (inst level : Nat) : Bool :=
  (List.range (fld (s.param (pid bRec inst 0) 0) 58 54)).all (fun k =>
    s.permits level (pidBlock (fld (s.param (pid bRec inst (2 + k)) 0) 23 0)) 0)

/-- A clearing staged (07 R216); a tile clears only by the rejoin of its reset (02 R51). -/
def State.clearOk (s : State) (cls inst t : Nat) : Bool :=
  match s.fence? cls inst t with
  | none => false
  | some f =>
    if f.reloading then false
    else if cls = 0xA then s.rejoins t
    else !s.enclosed cls inst t && (!([0x1, 0x2, 0x3, 0x4].contains cls) || f.reset)

/-- SLOT of `sess.ext_key` names an XTS pair with the session's scope (14 R433). -/
def State.keyPairOk (s : State) (t n : Nat) (v : Word) : Bool :=
  let k := fld v 12 0
  !bit v 15 || (decide (k % 2 = 0) && decide ((s.keySlot t k).usage = 2 ∧ (s.keySlot t (k + 1)).usage = 3)
    && (s.keySlot t k).isScoped && (s.keySlot t (k + 1)).isScoped && decide ((s.keySlot t k).sess = n ∧ (s.keySlot t (k + 1)).sess = n))

/-- The rules of one parameter beyond its ranges, `s` with the set applied and `b` without. -/
def State.ruleOk (s b : State) (id sess level : Nat) (v : Word) : Bool :=
  let inst := pidInst id
  let idx := pidIdx id
  match pidBlock id with
  | 0x01 => decide (inst ≠ 1023 ∨ idx ≠ 2) || b.targetOk v.toNat
  | 0x03 => decide (inst ≠ 1023 ∨ idx ≠ 0) || decide (fld v 7 4 = 0 ∧ fld v 63 11 = 0)
  | 0x04 =>
    if 0x40 ≤ idx ∧ inst < 8 then b.set.defined.contains (sess, idx - 0x40) && b.keyPairOk inst sess v
    else if inst = 1023 ∧ idx = 0 then
      decide (v.toNat = 0xFFFF_FFFF_FFFF_FFFF) ||
        (decide (v.toNat % 4096 = 0) && (b.sess sess).exts.any (fun e => e.2.defined && decide (e.2.start ≤ v.toNat ∧ v.toNat < e.2.start + e.2.len)))
    else true
  | 0x06 => decide (idx ≠ 0x0D) || s.fcOk inst v
  | 0x0A => decide (idx ≠ 3) || decide ((b.th inst).state ≠ 1) || decide (v.toNat ≤ (b.th inst).sets)
  | 0x0D => if idx = 0 then b.poolOk inst v.toNat else if 0x40 ≤ idx then s.loanOk b inst ((idx - 0x40) / 4) else true
  | 0x10 => decide (inst ≥ 8 ∨ idx ≠ 3) || !bit v 0 || !b.pairsBusy inst
  | 0x12 => decide (512 ≤ inst) || s.trigOk inst level
  | 0x15 => decide (idx ≠ 5) || b.arbOk v
  | 0x17 => decide (inst ≠ 1023 ∨ idx ≠ 1) || (decide (fld v 10 8 < b.tiles) && decide (fld v 1 0 < b.linkCount (fld v 10 8)))
  | _ => true

/-- An entry by itself (12 R379): ranges, locks, and the rules of its parameter. -/
def State.entryOk (s b : State) (e : Entry) : Bool :=
  match e.change with
  | .field id sess hi lo v =>
    let w := BitVec.ofNat 64 v
    (match pspec b.tiles id with
      | some p => p.fields.all (fun f => !f.stg || decide (f.lo < lo ∨ hi < f.hi) || f.inRange (fld w f.hi f.lo))
      | none => false) && !(b.fw.locks.contains id && decide (e.level ≠ 0)) && s.ruleOk b id sess e.level w
  | .clearFence c i t => b.clearOk c i t
  | _ => true

/-- The identifier of an entry (12 R379). -/
def State.entryId (s : State) (e : Entry) : Nat :=
  match e.change with
  | .field id _ _ _ _ => id
  | .bind _ _ t _ _ _ => t * 256 + 1
  | .unbind _ _ t _ _ => t * 256 + 1
  | .remove n x => (s.ext n x).dpa / 2 ^ 43 * 256 + 1
  | .clearFence _ _ t => t * 256 + 2
  | _ => 0

/-- The power supply rules (15 R452): the fields involved in each that is broken. (DEDUCED, log 20.) -/
def State.pwrRules (s : State) : List (List Nat) :=
  let ch := fun i => s.param (pid bPwr 1023 (0x10 + i)) 0
  let cls := fun i => fld (ch i) 31 28
  let sw := fun i => decide (2 ≤ cls i ∧ cls i ≤ 5)
  let chs := (List.range 16).map (fun i => pid bPwr 1023 (0x10 + i))
  let len := s.devP bPwr 0
  let fed := fun (c t u : Nat) => (List.range 16).countP (fun i => decide (cls i = c) && bit (ch i) (8 + t) && bit (ch i) u)
  ((List.range 16).filterMap (fun i => if sw i ∧ len ≤ fld (ch i) 27 24 then some [pid bPwr 1023 0, pid bPwr 1023 (0x10 + i)] else none))
  ++ ((List.range (min len 16)).filterMap (fun k =>
      if (List.range 16).any (fun i => sw i && decide (fld (ch i) 27 24 = k)) then none else some (pid bPwr 1023 0 :: chs)))
  ++ (if (List.range 16).any (fun i => decide (cls i = 1)) then [] else [chs])
  ++ (if 8 < (len - 1) * s.devP bPwr 1 then [[pid bPwr 1023 0, pid bPwr 1023 1]] else [])
  ++ (if s.tileList.all (fun t => (List.range 4).all (fun u => decide (fed 3 t u = 1)) && (List.range 8).all (fun u => decide (fed 4 t u = 1))) then [] else [chs])

/-- The rules over several fields: those broken, with the IDs they involve (05 R154; 10 Table 10-15; 14 R430; 15 R452). -/
def State.jointRules (s : State) : List (List Nat) :=
  (s.tileList.filterMap (fun t => if s.tileP bDram t 5 < s.tileP bDram t 6 + 8 then some [pid bDram t 5, pid bDram t 6] else none))
  ++ (s.tileList.filterMap (fun t =>
      if 16 < s.tileP bCiph t 0 + s.tileP bCiph t 1 + s.tileP bCiph t 2 then some [pid bCiph t 0, pid bCiph t 1, pid bCiph t 2] else none))
  ++ (if s.devP bMirr 3 * 1000 < 2 * s.devP bMirr 4 then [[pid bMirr 1023 3, pid bMirr 1023 4]] else [])
  ++ s.pwrRules

/-- Windows of a tile with the set applied (04 R107). -/
def State.windowsWith (s : State) (t : Nat) : Nat :=
  let add := s.set.entries.countP (fun e => match e.change with | .bind _ _ u _ _ _ => decide (u = t) | _ => false)
  let del := s.set.entries.countP (fun e => match e.change with | .unbind _ _ u _ _ => decide (u = t) | _ => false)
  s.binds.countP (fun b => decide (b.tile = t ∧ b.state ≠ .released)) + add - del

/-- The index in the set of the first entry that satisfies `p`. -/
def State.firstEntry (s : State) (p : Entry → Bool) : Option Nat := s.set.entries.findIdx? p

/-- The check of the set (12 R379): none on a pass; the identifier and index of the first failing entry; where a broken rule
involves no staged entry, its first field and index 0xFFFF. -/
def State.checkSet (s : State) : Option (Nat × Nat) :=
  let o := s.overlay
  let joint := o.jointRules
  let named := fun (e : Entry) (ids : List Nat) => match e.change with | .field id _ _ _ _ => ids.contains id | _ => false
  let full := s.tileList.filter (fun t => decide (1024 < s.windowsWith t))
  match s.firstEntry (fun e => !o.entryOk s e || joint.any (named e) ||
      (match e.change with | .bind _ _ t _ _ _ => full.contains t | _ => false)) with
  | some i => some ((s.entryId (s.set.entries.getD i ⟨.mode .stby 0, 0⟩)) % 2 ^ 24, i)
  | none =>
    match joint with
    | (id :: _) :: _ => some (id, 0xFFFF)
    | _ => none

/-! ### Immediate writes -/

/-- The value of the writable fields of a word that are not STG: RW takes the value, a 1 clears in W1C and ST (00 Table 0-5). -/
def plainWrite (fs : List PField) (old v : Word) : Word :=
  fs.foldl (fun a f =>
    if f.stg then a
    else match f.acc with
      | .rw => ins a f.hi f.lo (fld v f.hi f.lo)
      | .w1c => ins a f.hi f.lo ((BitVec.ofNat 64 (fld a f.hi f.lo) &&& ~~~ BitVec.ofNat 64 (fld v f.hi f.lo)).toNat)
      | .st => ins a f.hi f.lo ((BitVec.ofNat 64 (fld a f.hi f.lo) &&& ~~~ BitVec.ofNat 64 (fld v f.hi f.lo)).toNat)
      | _ => a) old

/-- Every writable field of a word that is not STG takes a value of its range. -/
def plainOk (fs : List PField) (v : Word) : Bool :=
  fs.all (fun f => f.stg || !f.writable || decide (f.acc = .w1c ∨ f.acc = .st) || f.inRange (fld v f.hi f.lo))

/-- A write of `fuse.cmd` (17 R491, R492): the command is taken, RESULT is running, and the challenge is replaced. While a
command runs it is ignored. An OP that Table 17-3 does not give is not allowed (DESIGN CHOICE). -/
def State.writeFuseCmd (s : State) (w : Word) : State :=
  if s.fuse.result = 1 then s
  else
    let (c, s) := s.drawWord
    if 1 ≤ fld w 63 56 ∧ fld w 63 56 ≤ 6 then { s with fuse := { s.fuse with cmd := some w, result := 1, challenge := c } }
    else { s with fuse := { s.fuse with result := 3, challenge := c } }

/-- A write of `sys.force_auth` in RSTR while no unit is authoritative (02 R62). -/
def State.forceAuth (s : State) : State :=
  let s := { s with boot := { s.boot with auth := true, decided := true, forced := true } }
  (s.requestAuth true).log 0 6 bSys 1023 0x06 1 0

/-- BIST may be started: in MAIN only (18 Table 18-3). The endpoints of the mask run; their results are cleared. (DEDUCED, log 101.) -/
def State.startBist (s : State) (t mask : Nat) : State :=
  (List.range 8).foldl (fun s e =>
    if mask.testBit e then { s with mgmt := { s.mgmt with bistRun := insertNat (256 * t + e) s.mgmt.bistRun, bist := Store.write s.mgmt.bist (256 * t + e) 0 0 } }
    else s) s

/-- A write that takes effect at once, once its checks have passed. -/
def State.writePlain (s : State) (n : Nat) (fs : List PField) (id sess : Nat) (v : Word) : State :=
  let inst := pidInst id
  let idx := pidIdx id
  match pidBlock id with
  | 0x01 =>
    if inst = 1023 ∧ idx = 4 then (if fld v 3 0 = 1 then s.warmReset.getD s else s.resetTile (fld v 10 8))
    else if inst = 1023 ∧ idx = 5 then s.forceAuth
    else s.setParam id sess (plainWrite fs (s.param id sess) v)
  | 0x11 =>
    if idx = 4 then
      { s with pwr := { s.pwr with
          faultKind := ((BitVec.ofNat 4 s.pwr.faultKind) &&& ~~~ (BitVec.ofNat 4 (fld v 51 48))).toNat,
          faultCh := ((BitVec.ofNat 4 s.pwr.faultCh) &&& ~~~ (BitVec.ofNat 4 (fld v 47 44))).toNat,
          abandon := s.pwr.abandon && !bit v 37 } }
    else s.setParam id sess (plainWrite fs (s.param id sess) v)
  | 0x13 => if isCnt id then s.writeCnt (inst / 64) (inst % 64) (idx - 0x10) v else s.setParam id sess (plainWrite fs (s.param id sess) v)
  | 0x14 =>
    if idx = 1 then s.writeFuseCmd v
    else if idx = 2 then { s with fuse := { s.fuse with data := v } }
    else if 0x20 ≤ idx then { s with fuse := { s.fuse with auth := Store.write s.fuse.auth (idx - 0x20) v 0 } }
    else s
  | 0x15 =>
    if idx = 2 then { s.setParam id sess v with fw := { s.fw with socAt := some s.clock } }
    else s
  | 0x18 => if bit v 0 then (s.setParam id sess (ins v 0 0 0)).startBist inst (fld v 15 8) else s.setParam id sess v
  | _ => let _ := n; s.setParam id sess (plainWrite fs (s.param id sess) v)

/-- A write that only some levels or contexts may make (02 R52, R62; 16 R481; 17 R491, R498; 18 Table 18-2a). -/
def writeLevel (n pl id : Nat) (v : Word) : Bool :=
  let inst := pidInst id
  let idx := pidIdx id
  match pidBlock id with
  | 0x01 =>
    if inst = 1023 ∧ idx = 4 then decide (pl = 0 ∨ (pl = 1 ∧ fld v 3 0 ≠ 2))
    else if inst = 1023 ∧ (idx = 2 ∨ idx = 5) then decide (pl ≤ 1) else true
  | 0x0F => decide (inst ≠ 592) || decide (n = 0x1000 + idx)
  | 0x13 => !isCnt id || decide (pl ≤ 1)
  | 0x14 => decide (pl ≤ 1)
  | 0x15 => decide (pl ≤ 1)
  | 0x18 => decide (pl = 0)
  | _ => true

/-- What a write is refused for when the mode or the state does not take it (02 R49, R52, R62; 18 Table 18-3). -/
def State.writeMode (s : State) (id : Nat) (v : Word) : Bool :=
  let idx := pidIdx id
  match pidBlock id with
  | 0x01 =>
    if pidInst id ≠ 1023 then true
    else if idx = 4 then (if fld v 3 0 = 1 then s.warmReset.isSome else s.tileFenced (fld v 10 8))
    else if idx = 5 then decide (s.mode.mode = .rstr) && !s.boot.auth && !s.boot.twinAuth
    else true
  | 0x18 => decide (s.mode.mode = .main ∨ !bit v 0)
  | _ => true

/-- The operand ranges of a write (13 R396; 02 R52). -/
def State.writeRange (s : State) (id : Nat) (fs : List PField) (v : Word) : Bool :=
  fs.any PField.writable && plainOk fs v &&
    (decide (id ≠ pid bSys 1023 4) || decide (fld v 3 0 = 1) || (decide (fld v 10 8 ≠ 0) && decide (fld v 10 8 < s.tiles)))

end Sys2Proof.Machine
end

