-- ==== Sys2Proof/Machine/Operands.lean ====
section
/-! DEFINITION. The forms of a Rhozil instruction: what Table 13-2 and the immediate layouts of chapter 13 give each
opcode, the operands that an instruction word names, and the checks of its encoding, level and mode (13 R386 to R392). -/

namespace Sys2Proof.Machine

/-- The mode sets of Table 13-2. -/
inductive ModeSet where
  | all | svc | sess | store
  | only (ms : List Mode)
  deriving DecidableEq, Repr

/-- What an opcode takes: the bits of IMM that its layout assigns, whether it takes an extension word, whether XF has a
meaning, whether IMM [23:16] counts data items, its least and greatest level, its modes, and whether it may be a
command-class item. -/
structure Desc where
  mask : Nat
  ext : Bool := false
  xf : Bool := false
  items : Bool := false
  lo : Nat := 0
  hi : Nat := 3
  modes : ModeSet := .all
  cmd : Bool := false
  deriving DecidableEq, Repr

/-- All 40 bits; layouts S, E and P; S with N (13 Table 13-1). -/
abbrev mV := 0xFF_FFFF_FFFF
abbrev mS := 0xFFF
abbrev mE := 0x3_FFFF
abbrev mP := 0xFF_FFFF
abbrev mN := 0xFF_0000

/-- Table 13-2 with the layouts of the entries. An opcode that it does not list has none. -/
def desc (op : Nat) : Option Desc :=
  match op with
  | 0x00 => some { mask := mV }
  | 0x01 => some { mask := 0, cmd := true }
  | 0x02 => some { mask := mV, xf := true }
  | 0x03 => some { mask := 0, cmd := true }
  | 0x04 => some { mask := 0, cmd := true }
  | 0x08 => some { mask := 0xFFF }
  | 0x09 => some { mask := 0xFFF }
  | 0x0A => some { mask := 0xFFF }
  | 0x0B => some { mask := 0xFFF }
  | 0x0C => some { mask := 0xFF }
  | 0x10 => some { mask := mV }
  | 0x11 => some { mask := mV }
  | 0x12 => some { mask := mV }
  | 0x13 => some { mask := mV }
  | 0x14 => some { mask := mV }
  | 0x15 => some { mask := mV }
  | 0x16 => some { mask := mV }
  | 0x17 => some { mask := mV, ext := true }
  | 0x18 => some { mask := mV }
  | 0x20 => some { mask := mP, xf := true, cmd := true }
  | 0x21 => some { mask := mP, ext := true }
  | 0x22 => some { mask := 0 }
  | 0x23 => some { mask := 0 }
  | 0x24 => some { mask := 0, cmd := true }
  | 0x25 => some { mask := mP, xf := true, hi := 1 }
  | 0x30 => some { mask := mE, lo := 1, modes := .store }
  | 0x31 => some { mask := mE, xf := true, lo := 1, modes := .svc }
  | 0x32 => some { mask := mE, xf := true, lo := 1, modes := .svc }
  | 0x33 => some { mask := mE + 0x30_0000, lo := 1, hi := 2, modes := .sess }
  | 0x34 => some { mask := mS + mN, xf := true, items := true, lo := 1, hi := 2, modes := .sess }
  | 0x35 => some { mask := mS + 0x17_0000, lo := 1, hi := 2, modes := .sess }
  | 0x40 => some { mask := 0x1FFF + mN, xf := true, items := true, lo := 1, hi := 1, modes := .sess }
  | 0x41 => some { mask := mS, lo := 1, hi := 1, modes := .sess }
  | 0x42 => some { mask := mS + mN, items := true, lo := 1, hi := 1, modes := .sess }
  | 0x43 => some { mask := mS, lo := 1, hi := 2, modes := .sess }
  | 0x50 => some { mask := 1, hi := 1, modes := .only [.actv, .mirs] }
  | 0x51 => some { mask := 0xFF, xf := true, hi := 1, modes := .only [.actv, .mirs, .solo] }
  | 0x52 => some { mask := 7, hi := 1, modes := .only [.actv] }
  | 0x53 => some { mask := 1, hi := 1, modes := .svc, cmd := true }
  | 0x60 => some { mask := 7, xf := true, hi := 1, modes := .svc }
  | 0x61 => some { mask := 7, hi := 1, modes := .svc }
  | 0x62 => some { mask := 7, hi := 0, modes := .svc }
  | 0x68 => some { mask := 7, hi := 1, modes := .only [.actv, .mirs, .solo, .main] }
  | 0x69 => some { mask := mE, lo := 1, hi := 1, modes := .store }
  | 0x6A => some { mask := mE + mN, xf := true, items := true, lo := 1, hi := 1, modes := .store }
  | 0x6B => some { mask := 0x7_FF0F, xf := true, hi := 0, cmd := true }
  | 0x70 => some { mask := 0xFFFF + mN, xf := true, items := true, hi := 2 }
  | 0x71 => some { mask := 0xFFFF, hi := 2 }
  | 0x72 => some { mask := 7, hi := 0, modes := .svc }
  | 0x73 => some { mask := 7, hi := 0, modes := .svc }
  | 0x74 => some { mask := 0x7F_FFF3_1FFF, ext := true, hi := 0, modes := .only [.actv, .solo, .main] }
  | 0x78 => some { mask := 7 + mN, items := true }
  | 0x79 => some { mask := 0, hi := 1, modes := .svc, cmd := true }
  | 0x7A => some { mask := 0, xf := true, hi := 1, modes := .svc, cmd := true }
  | 0x7B => some { mask := mP, xf := true }
  | 0x7C => some { mask := 0 }
  | 0x7D => some { mask := 0 }
  | 0x7E => some { mask := 0 }
  | 0x80 => some { mask := mN, xf := true, items := true, hi := 1 }
  | 0x81 => some { mask := 1, hi := 1 }
  | 0x82 => some { mask := 0, xf := true, hi := 1, cmd := true }
  | 0x83 => some { mask := 0, xf := true, hi := 1 }
  | _ => none

/-- The opcode of a word, and N of layout S. -/
def iOp (w : Word) : Nat := fld w 63 56
def iN (w : Word) : Nat := fld w 23 16

/-- SESSION and EXT of layouts S and E, and PARAM of layout P (13 Table 13-1). -/
def iSess (w : Word) : Nat := fld w 11 0
def iExt (w : Word) : Nat := fld w 17 12
def iParam (w : Word) : Nat := fld w 23 0

/-- The data items that follow an instruction word (13 R388). -/
def itemCount (w : Word) : Nat :=
  match desc (iOp w) with
  | some d => if d.items then iN w else 0
  | none => 0

/-- KIND of a SEXT extent word and the N that it allows (13 R406). -/
def sextN (item : Word) (n : Nat) : Bool :=
  match fld item 1 0 with
  | 0 => decide (n = 1)
  | 3 => decide (1 ≤ n ∧ n ≤ 33 ∧ n % 2 = 1)
  | _ => decide (3 ≤ n ∧ n ≤ 35 ∧ n % 2 = 1)

/-- N lies within the range of its entry (13 R388). -/
def Issue.countOk (i : Issue) : Bool :=
  let n := iN i.word
  match i.opcode with
  | 0x34 => decide (3 ≤ n ∧ n ≤ 255 ∧ n % 2 = 1)
  | 0x40 => decide (7 ≤ n ∧ n ≤ 49 ∧ n % 6 = 1)
  | 0x42 => decide (1 ≤ n) && sextN (i.data.getD 0 0) n
  | 0x6A => decide (n = if iXf i.word then 8 else 0)
  | 0x70 => decide (n = 6)
  | 0x78 => decide (1 ≤ n ∧ n ≤ 17)
  | _ => true

/-- Step 1 of R390: the encoding of an instruction (13 R386, R388, R392). -/
def Issue.encOk (i : Issue) : Bool :=
  match desc i.opcode with
  | none => false
  | some d =>
    !i.short && decide (iImm i.word &&& (mV - d.mask) = 0) && (!iX i.word || d.ext) && (!iXf i.word || d.xf) && i.countOk && (!i.cmd || d.cmd)

/-- An instruction of layout S or E (13 R389). -/
def namesSession (op : Nat) : Bool := [0x30, 0x31, 0x32, 0x33, 0x34, 0x35, 0x40, 0x41, 0x42, 0x43, 0x69, 0x6A].contains op

/-- Step 2 of R390 as far as Table 13-2 and R389 give it: the level runs the opcode, and PL2 and PL3 name their own session.
An opcode outside the table never comes so far. -/
def Issue.levelOk (i : Issue) (n : Nat) : Bool :=
  match desc i.opcode with
  | none => false
  | some d => decide (d.lo ≤ i.pl ∧ i.pl ≤ d.hi) && (!namesSession i.opcode || decide (i.pl ≤ 1 ∨ iSess i.word = n))

/-- Step 3 of R390: the mode runs the opcode (13 Table 13-2; 02 R58). `accepts` says that the mode accepts stores by Table
8-1. -/
def modeRuns (m : Mode) (accepts : Bool) : ModeSet → Bool
  | .all => [Mode.brup, .rstr, .actv, .mirs, .solo, .main].contains m
  | .svc => [Mode.rstr, .actv, .mirs, .solo, .main].contains m
  | .sess => [Mode.brup, .rstr, .actv, .solo, .main].contains m
  | .store => decide (m = .actv) || ((decide (m = .solo) || decide (m = .rstr)) && accepts)
  | .only ms => ms.contains m

/-- b of the arithmetic instructions: gb + sx(IMM) (13 R395). -/
def Ctx.opB (c : Ctx) (w : Word) : Word := c.reg (iGb w) + (w.extractLsb' 0 40).signExtend 64
def Ctx.opA (c : Ctx) (w : Word) : Word := c.reg (iGa w)

/-- The value that LDI loads and STGP writes where X = 1, and otherwise (13 R395, R396). -/
def Issue.ldiValue (i : Issue) : Word := if iX i.word then i.ext else BitVec.ofNat 64 (iImm i.word)
def Issue.stgpValue (i : Issue) (c : Ctx) : Word := if iX i.word then i.ext else c.opA i.word

/-- The arithmetic of R395. -/
def aluAdd (a b : Word) : Word := a + b
def aluSub (a b : Word) : Word := a - b
def aluAnd (a b : Word) : Word := a &&& b
def aluOr (a b : Word) : Word := a ||| b
def aluXor (a b : Word) : Word := a ^^^ b
def aluShl (a b : Word) : Word := a <<< (b.toNat % 64)
def aluShr (a b : Word) : Word := a >>> (b.toNat % 64)
def aluCmp (a b : Word) : Word := if a = b then 0 else if b.toNat < a.toNat then 1 else BitVec.allOnes 64

end Sys2Proof.Machine
end

