-- ==== Sys2Proof/Machine/Rhozil.lean ====
section
/-! DEFINITION. How a context takes and issues an instruction: the order of its queue, the checks of R390, the hold for
completion space, and the rows of chapter 12 about threads, submissions and completions (12 R361 to R376). -/

namespace Sys2Proof.Machine

/-- The submission that runs next when none runs: the oldest of the highest priority waiting (12 R371). -/
def nextSub : List Sub → Option Sub
  | [] => none
  | b :: r =>
    match nextSub r with
    | none => some b
    | some c => if b.prio < c.prio then some c else some b

/-- Start the next submission where none runs; SUBID counts them (12 R365, R371). (DEDUCED, log 15.) -/
def Ctx.begin (c : Ctx) : Ctx :=
  match c.cur, nextSub c.waiting with
  | none, some b => { c with cur := some { sub := b }, waiting := c.waiting.erase b, subid := (c.subid + 1) % 65536 }
  | _, _ => c

/-- The items of an instruction: its word, the extension word where X = 1, then its data items; what is left of `rest` bounds
them, and `short` says that it held too few (13 R388). -/
def takeItems (w : Word) (rest : List Word) : Word × List Word × Bool × Nat :=
  let k := b01 (iX w)
  let n := itemCount w
  (if iX w then rest.getD 0 0 else 0, (rest.drop k).take n, decide (rest.length < k + n), 1 + min rest.length (k + n))

/-- Word `pc` of the program store of a level (12 R366). -/
def State.progWord (s : State) (level pc : Nat) : Word := Store.read s.progs (4096 * level + pc % 4096) 0

/-- The next instruction of a context in the order of R371, with the context after its items are consumed. (DEDUCED, log 17.) -/
def State.readNext (s : State) (n : Nat) : Option (Issue × Ctx) :=
  let c := s.ctx n
  match c.cmds with
  | b :: r =>
    let w := b.items.getD 0 0
    let (ext, data, short, _) := takeItems w (b.items.drop 1)
    some ({ word := w, opcode := iOp w, index := 0, pc := 0, stored := false, cmd := true, prio := b.prio, path := b.path,
            pl := max c.level b.pl, subid := c.subid, ext, data, short }, { c with cmds := r, rd := (c.rd + b.items.length) % 512 })
  | [] =>
    let c := c.begin
    match c.cur with
    | none => none
    | some u =>
      if c.fetch then
        let w := s.progWord c.level c.pc
        let (ext, data, short, k) := takeItems w ((List.range 256).map (fun j => s.progWord c.level (c.pc + 1 + j)))
        some ({ word := w, opcode := iOp w, index := u.next - 1, pc := c.pc, stored := true, cmd := false, prio := u.sub.prio, path := u.sub.path,
                pl := max c.level u.sub.pl, subid := c.subid, ext, data, short }, { c with pc := (c.pc + k) % 4096 })
      else if u.next < u.sub.items.length then
        let w := u.sub.items.getD u.next 0
        let (ext, data, short, k) := takeItems w (u.sub.items.drop (u.next + 1))
        some ({ word := w, opcode := iOp w, index := u.next, pc := 0, stored := false, cmd := false, prio := u.sub.prio, path := u.sub.path,
                pl := max c.level u.sub.pl, subid := c.subid, ext, data, short },
              { c with cur := some { u with next := u.next + k, high := max u.high (u.next + k) }, rd := (c.rd + k) % 512 })
      else none

/-- The owner LD of a session, tile and number (01 R26; 13 Table 13-5), and whether that LD's binding session is the session
(12 Table 12-6). -/
def State.ownerWindow (s : State) (n : Nat) : Bool := decide (s.ldSession (s.sess n).tile (s.sess n).ld = some n)

/-- Whether two paths share a completion window, as (tile, LD) (12 Table 12-6). -/
def State.window? (s : State) : Path → Option (Nat × Nat)
  | .bar0 t d => some (t, d)
  | .cmd t d => some (t, d)
  | .slipway n => if s.ownerWindow n then some ((s.sess n).tile, (s.sess n).ld) else none
  | _ => none

/-- Records in the completion window of an LD (03 R101). -/
def Bar.cqUsed (b : Bar) : Nat := (b.cqTail + 256 - b.cqHead) % 256

/-- The sink of a path has no room for a record beside those that a context has still to hand over (12 R376, Table 12-6). -/
def State.sinkFull (s : State) (n : Nat) (p : Path) : Bool :=
  match p with
  | .mctp => decide (16 ≤ s.mgmt.results.length + (s.ctx n).outbox.countP (fun r => decide (r.path = .mctp)))
  | .firmware => false
  | _ =>
    match s.window? p with
    | some (t, d) => decide (255 ≤ (s.bar t d).cqUsed + (s.ctx n).outbox.countP (fun r => decide (s.window? r.path = some (t, d))))
    | none => false

/-- The sink itself has no room. -/
def State.sinkShut (s : State) (p : Path) : Bool :=
  match p with
  | .mctp => decide (16 ≤ s.mgmt.results.length)
  | .firmware => false
  | _ =>
    match s.window? p with
    | some (t, d) => decide (255 ≤ (s.bar t d).cqUsed)
    | none => false

/-- An instruction ends the wait of IDLE when it issues (12 R374). -/
def Ctx.atBoundary (c : Ctx) : Bool :=
  match c.long with
  | none => true
  | some (_, .idle _) => true
  | _ => false

/-- The context may issue: it exists and is loaded, no instruction of it is under way, it is not held, and its tile and the
device are in service (12 R362 to R364, R376; 13 Table 13-2). -/
def State.canIssue (s : State) (n : Nat) : Bool :=
  (s.ctx n).created && (s.ctx n).thread.isSome && (s.ctx n).atBoundary && !(s.ctx n).held
    && decide (s.mode.mode ≠ .stby) && !s.tileFenced (s.ctx n).tile && !s.mode.leaving

/-- What the recovery form of MAIN and SAVE take (02 R58; 13 Table 13-2). -/
def State.narrowRuns (s : State) (i : Issue) : Bool :=
  if s.mode.recovery then decide (i.path = .mctp) && (i.opcode = 0x80 || i.opcode = 0x81 || (i.opcode = 0x20 && pidBlock (iParam i.word) = bRec))
  else (i.opcode = 0x20 || i.opcode = 0x7B) && decide (i.path = .mctp)

/-- Step 3 of R390. -/
def State.modeOk (s : State) (i : Issue) : Bool :=
  if s.mode.recovery || decide (s.mode.mode = .save) then s.narrowRuns i
  else
    match desc i.opcode with
    | some d => modeRuns s.mode.mode s.servesStores d.modes
    | none => false

/-- The first of the checks of R390, steps 1 to 3, that an instruction fails; `enc` and `level` are the parts of steps 1 and 2
that its entry adds. -/
def State.refuse (s : State) (n : Nat) (i : Issue) (enc level : State → Issue → Bool) : Option Status :=
  if !i.encOk || !enc s i then some .range
  else if !i.levelOk n || !level s i then some .priv
  else if !s.modeOk i then some .mode
  else none

/-- The state in which the items of the next instruction are consumed and its submission has begun: the Slipway program of the
submission is RUNNING (03 R104). -/
def State.consume (s : State) (n : Nat) (i : Issue) (c : Ctx) : State :=
  let starts := (s.ctx n).cur.isNone && c.cur.isSome
  let s := s.setCtx n { c with long := none }
  match i.path with
  | .slipway m => if starts then s.setSlip m { (s.sess m).slip with state := .running } else s
  | _ => s

/-- The instruction has written a record, or will write one (12 R376). -/
def State.recorded (s t : State) (n : Nat) (i : Issue) : Bool :=
  decide ((s.ctx n).outbox.length < (t.ctx n).outbox.length) || ((t.ctx n).long.isSome && iCmpl i.word)

/-- Issue the next instruction of a context if it is one of an opcode: an opcode that the map does not list is taken by the row
of NOP. `act` is its effect once the checks have passed. When it would write a record and the sink has no room, the context
holds before it (12 R376). (DEDUCED, log 13.) -/
def State.issueOp (s : State) (n op : Nat) (enc level : State → Issue → Bool) (act : State → Issue → State) : State :=
  if !s.canIssue n then s
  else
    match s.readNext n with
    | none => s
    | some (i, c) =>
      if i.opcode ≠ op ∧ !(decide (op = 1) && (desc i.opcode).isNone) then s
      else
        let s1 := s.consume n i c
        let s2 := match s1.refuse n i enc level with
          | some st => s1.complete n i st 0 [] false
          | none => act s1 i
        if s.recorded s2 n i && s.sinkFull n i.path then s.setCtx n { s.ctx n with held := true } else s2

/-- No further check. -/
def always : State → Issue → Bool := fun _ _ => true

/-- Issue an instruction whose entry adds no check of its own to steps 1 to 3. -/
def State.issue (s : State) (n op : Nat) (act : State → Issue → State) : State := s.issueOp n op always always act

/-! ### Submissions -/

/-- A doorbell, message or call of more than 512 items is taken as consecutive submissions (12 R370). -/
def splitItems : Nat → List Word → List (List Word)
  | 0, _ => []
  | k + 1, l => if l.isEmpty then [] else l.take 512 :: splitItems k (l.drop 512)

/-- A command-class item enters ahead of every other item of priority 7 (03 R82, R83; 13 R392); whether it had room. -/
def State.enterCmd (s : State) (n : Nat) (items : List Word) (path : Path) (pl : Nat) : Option State :=
  let c := s.ctx n
  if c.created ∧ items.length ≤ c.freeItems then
    some (s.setCtx n { c with cmds := c.cmds ++ [{ items, prio := 7, path, pl }], wr := (c.wr + items.length) % 512,
                              ready := if c.hasWork then c.ready else s.clock })
  else none

/-- The context that an LD submits to and the level of its submissions (03 R74, R102). A session that `port.ld_session` names counts as the LD's
binding session whether or not it is open; what is submitted waits until the context exists. (DEDUCED, log 141.) -/
def State.ldCtx (s : State) (t d : Nat) : Option Nat := if s.isMgmt t d then some 0x103E else s.ldSession t d

/-- Move what has room from the submission window of an LD into its context's queue, oldest doorbell first (03 R99). (DEDUCED, log 32.) -/
def State.moveRing (s : State) (t d : Nat) : State :=
  match (s.bar t d).sqWait, s.ldCtx t d with
  | (tail, prio) :: rest, some n =>
    let b := s.bar t d
    let count := (tail + 1024 - b.sqHead) % 1024
    let k := min count 512
    let items := (List.range k).map (fun i => Store.read b.sq ((b.sqHead + i) % 1024) 0)
    if k = 0 then s.setBar t d { b with sqWait := rest }
    else
      match s.enterSub n { items, prio, path := .bar0 t d, pl := s.ldLevel t d } with
      | some s => s.setBar t d { b with sqHead := (b.sqHead + k) % 1024, sqWait := if count ≤ 512 then rest else (tail, prio) :: rest }
      | none => s
  | _, _ => s

/-- The command item of an LD enters its queue if there is room (03 R100). -/
def State.moveCmd (s : State) (t d : Nat) : State :=
  match s.ldCtx t d with
  | some n =>
    let b := s.bar t d
    if b.cmdBusy then
      match s.enterCmd n (b.item0 :: (if b.cmdExt then [b.item1] else [])) (.cmd t d) (s.ldLevel t d) with
      | some s => s.setBar t d { b with cmdBusy := false }
      | none => s
    else s
  | none => s

/-- The queued Slipway program of a session enters its context's queue if there is room (03 R104). -/
def State.moveSlip (s : State) (n : Nat) : State :=
  let x := (s.sess n).slip
  if x.state = .queued ∧ !x.entered then
    let prog := (List.range x.count).map (fun i => Store.read x.words (0x40 + 8 * i) 0)
    match s.enterSub n { items := prog, prio := (s.param (pid bSess 1023 1) n).toNat % 8, path := .slipway n, pl := 3 } with
    | some s => s.setSlip n { x with entered := true }
    | none => s
  else s

/-- The oldest submission over MCTP that waits for room in context 0x103F enters it. -/
def State.moveMctp (s : State) : State :=
  match s.mgmt.waiting with
  | b :: r =>
    match s.enterSub 0x103F b with
    | some s => { s with mgmt := { s.mgmt with waiting := r } }
    | none => s
  | [] => s

/-- SUBMISSION (12 R370): what waits to enter the queue of a context enters it whole, where there is room: an item of the
command registers first, then the doorbells of the LDs, the Slipway page and MCTP. -/
def execSubmission (ctx : Nat) (s : State) : Run :=
  .next (
    let lds := (List.range (16 * s.tiles)).filter (fun k => decide (s.ldCtx (k / 16) (k % 16) = some ctx))
    let s := lds.foldl (fun s k => s.moveCmd (k / 16) (k % 16)) s
    let s := lds.foldl (fun s k => s.moveRing (k / 16) (k % 16)) s
    if ctx < 0x1000 then s.moveSlip ctx else if ctx = 0x103F then s.moveMctp else s)

/-! ### Threads -/

/-- The highest priority among the waiting items of a context; a command-class item counts above every other (12 R362). -/
def Ctx.rank (c : Ctx) : Nat :=
  if !c.cmds.isEmpty then 8
  else (c.waiting.map Sub.prio ++ (match c.cur with | some u => [u.sub.prio] | none => [])).foldl max 0

/-- A context is ready: it has an item to take, or a called program, and no thread. -/
def Ctx.isReady (c : Ctx) (t : Nat) : Bool := c.created && decide (c.tile = t) && c.thread.isNone && c.hasWork && c.atBoundary && !c.held

/-- Thread 15 of a sequencer takes only system contexts and those that hold a command-class item (12 R362). -/
def takesThread (n : Nat) (c : Ctx) (th : Nat) : Bool := decide (th % 16 ≠ 15) || decide (0x1000 ≤ n) || !c.cmds.isEmpty

/-- The ready context of a tile that a thread takes next: by priority, then by the time it has waited (12 R362). -/
def State.nextReady (s : State) (t th : Nat) : Option Nat :=
  let l := s.ctxNums.filter (fun n => (s.ctx n).isReady t && takesThread n (s.ctx n) th)
  let top := l.foldl (fun a n => max a (s.ctx n).rank) 0
  leastBy (fun n => (s.ctx n).ready) (l.filter (fun n => decide ((s.ctx n).rank = top)))

/-- The context in a thread. -/
def State.onThread (s : State) (t th : Nat) : Option Nat :=
  s.ctxNums.find? (fun n => decide ((s.ctx n).thread = some th ∧ (s.ctx n).tile = t))

/-- A thread may be used: its sequencer thread is not fenced. -/
def State.threadOk (s : State) (t th : Nat) : Bool := decide (th < 128) && !s.fenced 0x5 th t && !s.tileFenced t

/-- No thread of a tile that may take a context is free. -/
def State.threadsBusy (s : State) (t m : Nat) : Bool :=
  (List.range 128).all (fun th => !s.threadOk t th || !takesThread m (s.ctx m) th || (s.onThread t th).isSome)

/-- Unload a context: it keeps all its state (12 R363). -/
def State.unload (s : State) (n : Nat) : State := s.setCtx n { s.ctx n with thread := none, ready := s.clock }

/-- The context of a thread gives way: it waits in a long instruction while another is ready and no thread is free for that one, or it has
the lowest waiting priority and the next ready context holds a command-class item (12 R362, R363). A context in a long instruction is unloaded
within it, since the instruction is one wait of many steps. (DEDUCED, log 134.) -/
def State.givesWay (s : State) (t th n m : Nat) : Bool :=
  s.threadsBusy t m &&
    (!(s.ctx n).atBoundary ||
     (!(s.ctx m).cmds.isEmpty &&
      s.ctxNums.all (fun k => decide ((s.ctx k).tile ≠ t) || (s.ctx k).thread.isNone || decide ((s.ctx n).rank ≤ (s.ctx k).rank)) && decide (th < 128)))

/-- A context has been loaded into a thread: counted on its sequencer (16 Table 16-6). -/
def State.countLoad (s : State) (m tile thread : Nat) : State :=
  s.tally tile (23 + thread / 16) 0x0002 { sess := if m < 0x1000 then some m else none, tile, pl := (s.ctx m).level, cls := some 5 }

/-- CONTEXT_LOAD (12 R362): the next ready context is loaded into a thread; a busy thread's context is unloaded first where it
gives way. -/
def execContextLoad (tile thread : Nat) (s : State) : Run :=
  .next (if !s.threadOk tile thread then s
  else
    match s.nextReady tile thread, s.onThread tile thread with
    | some m, none => (s.setCtx m { s.ctx m with thread := some thread, since := s.clock }).countLoad m tile thread
    | some m, some n =>
      if s.givesWay tile thread n m then
        let s := s.unload n
        (s.setCtx m { s.ctx m with thread := some thread, since := s.clock }).countLoad m tile thread
      else s
    | none, _ => s)

/-- QUANTUM_EXPIRY (12 R363): a context that has held its thread for `seq.quantum` while another waits is unloaded at its next
instruction boundary. -/
def execQuantumExpiry (tile thread : Nat) (s : State) : Run :=
  .next (match s.onThread tile thread with
    | some n =>
      if s.due (s.ctx n).since (s.tileP bSeq tile 0 * us) ∧ (s.nextReady tile thread).isSome ∧ (s.ctx n).atBoundary then s.unload n else s
    | none => s)

/-- IDLE (12 R374): the consumer executes IDLE, read where the queue holds no item that it can take, or submitted. The context is
unloaded when another is ready, or else after 1 µs. It writes no completion. -/
def execIdle (ctx : Nat) (s : State) : Run :=
  .next (if !s.canIssue ctx || (s.ctx ctx).long.isSome then s
  else
    let t := (s.ctx ctx).tile
    let rest := fun (s : State) (i : Issue) =>
      if (s.ctxNums.any (fun n => (s.ctx n).isReady t)) then s.unload ctx
      else s.setCtx ctx { s.ctx ctx with long := some (i, .idle s.clock) }
    match s.readNext ctx with
    | none => rest s { word := 0, opcode := 0, index := 0, pc := 0, stored := false, cmd := false, prio := 0, path := .firmware, pl := 0, subid := 0 }
    | some (i, c) =>
      if i.opcode ≠ 0 ∨ i.cmd then s
      else
        let s1 := s.consume ctx i c
        if !i.encOk then
          let s2 := s1.complete ctx i .range 0 [] false
          if s.recorded s2 ctx i && s.sinkFull ctx i.path then s.setCtx ctx { s.ctx ctx with held := true } else s2
        else rest (if (s1.ctx ctx).exhausted then s1.setCtx ctx (s1.ctx ctx).endSub else s1) i)

/-- IDLE_TIMEOUT (12 R374): 1 µs has passed after IDLE, and the context is unloaded. -/
def execIdleTimeout (ctx : Nat) (s : State) : Run :=
  .next (match (s.ctx ctx).long with
    | some (_, .idle t) => if s.due t us then (s.setCtx ctx { s.ctx ctx with long := none }).unload ctx else s
    | _ => s)

/-! ### Completions -/

/-- The four words of a completion record (12 Table 12-5). -/
def Cpl.words (r : Cpl) : List Word :=
  [BitVec.ofNat 64 r.tidemark,
   word [(56, r.status.code), (48, r.opcode), (45, r.prio), (44, b01 r.last), (43, b01 r.ended), (42, b01 r.cmd), (40, r.pl),
     (28, r.index % 4096), (16, r.pc % 4096), (0, r.ctx)],
   r.result, word [(48, r.subid % 65536)]]

/-- Write a record into the completion window of an LD; vector 0 fires when the window goes from empty to non-empty (03 R101). -/
def State.writeWindow (s : State) (t d : Nat) (r : Cpl) : State :=
  let b := s.bar t d
  s.setBar t d { b with cq := Store.write b.cq b.cqTail r.words [], cqTail := (b.cqTail + 1) % 256, vec0 := b.vec0 || decide (b.cqUsed = 0) }

/-- A record reaches the page of a Slipway program. The last record of the program makes its page DONE (03 R104); so does the last of
those that a HALT has left (log 16). -/
def State.slipRecord (s : State) (ctx n : Nat) (r : Cpl) (rest : List Cpl) : State :=
  let x := (s.sess n).slip
  let left := rest.any (fun q => decide (q.path = .slipway n)) || (match (s.ctx ctx).cur with | some u => decide (u.sub.path = .slipway n) | none => false)
  if x.state = SlipState.running then
    s.setSlip n { x with lastStat := r.status.code, lastIdx := r.index % 4096, state := if r.last || !left then SlipState.done else SlipState.running }
  else s

/-- COMPLETION_RECORD (12 R375, R376): the oldest record of a context that waits goes to the sink of its path, if that has room. -/
def execCompletionRecord (ctx : Nat) (s : State) : Run :=
  .next (match (s.ctx ctx).outbox with
    | [] => s
    | r :: rest =>
      if s.sinkShut r.path then s
      else
        let s := s.setCtx ctx { s.ctx ctx with outbox := rest }
        let s := match r.path with
          | .slipway n => s.slipRecord ctx n r rest
          | .mctp => { s with mgmt := { s.mgmt with results := s.mgmt.results ++ [r.words] } }
          | _ => s
        match s.window? r.path with
        | some (t, d) => s.writeWindow t d r
        | none => s)

/-- COMPLETION_SPACE (12 R376): space has appeared in the sink for which a context is held. -/
def execCompletionSpace (ctx : Nat) (s : State) : Run :=
  .next (if (s.ctx ctx).held then
    match s.readNext ctx with
    | some (i, _) => if s.sinkFull ctx i.path then s else s.setCtx ctx { s.ctx ctx with held := false }
    | none => s.setCtx ctx { s.ctx ctx with held := false }
  else s)

end Sys2Proof.Machine
end

