-- ==== Sys2Proof/Machine/RhozilCtl.lean ====
section
/-! DEFINITION. The Rhozil instructions of control and flow, arithmetic and the queue (12 R366, R367, R372; 13 R392, R394,
R395, R423). -/

namespace Sys2Proof.Machine

/-- Complete with OK and RESULT. -/
def State.done (s : State) (n : Nat) (i : Issue) (r : Word) : State := s.completeR n i .ok r
def State.fail (s : State) (n : Nat) (i : Issue) (st : Status) : State := s.complete n i st 0 [] false

/-- NOP (13 R394); an opcode outside Table 13-2 ends here with RANGE (13 R386). -/
def execNop (ctx : Nat) (s : State) : Run := .next (s.issue ctx 0x01 (fun s i => s.done ctx i 0))

/-- The target of WAIT (13 Table 13-3). -/
def State.waitTarget (s : State) (n : Nat) (i : Issue) : Nat :=
  (if iXf i.word then ((s.ctx n).opA i.word).toNat else s.localCount (s.ctx n).tile) + iImm i.word

/-- WAIT (13 Table 13-3). (DESIGN CHOICE, log 34.) -/
def execWait (ctx : Nat) (s : State) : Run :=
  .next (s.issue ctx 0x02 (fun s i =>
    if s.localCount (s.ctx ctx).tile + 4000000000 < s.waitTarget ctx i then s.fail ctx i .range
    else s.startLong ctx i (.waitUntil (s.waitTarget ctx i))))

/-- WAIT_END (13 Table 13-3): the Tidemark of the context's tile has reached the target of its WAIT. -/
def execWaitEnd (ctx : Nat) (s : State) : Run :=
  .next (match (s.ctx ctx).long with
    | some (_, .waitUntil t) =>
      if t ≤ s.localCount (s.ctx ctx).tile then s.finishR ctx .ok (BitVec.ofNat 64 (s.localCount (s.ctx ctx).tile)) else s
    | _ => s)

/-- The submission that runs ends without a failure: its remaining items are consumed without execution (12 R366, R373). -/
def Ctx.skipAll (c : Ctx) : Ctx :=
  match c.cur with
  | some u => { c with cur := some { u with next := max u.next u.sub.items.length, high := u.sub.items.length },
                       rd := (c.rd + (u.sub.items.length - u.next)) % 512, fetch := false, stack := [] }
  | none => c

/-- A command-class HALT: the running submission ends, or there is none (13 R392). (DEDUCED, log 16.) -/
def State.haltCmd (s : State) (n : Nat) (i : Issue) : State :=
  match (s.ctx n).cur with
  | some u =>
    let s := s.setCtx n (s.ctx n).endSub
    let s := match u.sub.path with
      | .slipway m =>
        if (s.sess m).slip.state = SlipState.running ∧ (s.ctx n).outbox.all (fun r => decide (r.path ≠ Path.slipway m)) then s.setSlip m { (s.sess m).slip with state := SlipState.done } else s
      | _ => s
    s.done n i 0
  | none => s.fail n i .idle

/-- A command-class HALT is the next item of a context whose CRYP runs (14 R446). -/
def State.haltsCryp (s : State) (n : Nat) : Bool :=
  (match (s.ctx n).long with | some (_, .cryp) => true | _ => false) && (s.ctx n).created && !s.tileFenced (s.ctx n).tile && decide (s.mode.mode ≠ .stby) &&
    (match (s.ctx n).cmds with | b :: _ => decide (b.items.getD 0 0 &&& ~~~ 0x00FFF30000000000 = 0x0300000000000000) | [] => false)

/-- The CRYP is interrupted: it completes with IDLE and the pages completed, and its chaining state stays (14 R446). -/
def State.interruptCryp (s : State) (n : Nat) : State :=
  match (s.ctx n).cryp with
  | some k =>
    let s := s.finishR n .idle (BitVec.ofNat 64 k.done)
    s.setCtx n { s.ctx n with cryp := some { k with interrupted := true } }
  | none => s

/-- HALT (12 R366; 13 R392; 14 R446). -/
def execHalt (ctx : Nat) (s : State) : Run :=
  .next (
    if s.haltsCryp ctx then
      match s.readNext ctx with
      | some (i, c) => ((s.setCtx ctx c).interruptCryp ctx).done ctx i 0
      | none => s
    else
      s.issue ctx 0x03 (fun s i =>
        if i.cmd then s.haltCmd ctx i
        else if i.stored then
          let c := s.ctx ctx
          let c := match c.stack with
            | p :: r => { c with stack := r, fetch := p.fetch, pc := p.pc }
            | [] => { c with fetch := false }
          (s.setCtx ctx c).done ctx i 0
        else (s.setCtx ctx (s.ctx ctx).skipAll).done ctx i 0))

/-- TIME (13 Table 13-3). -/
def execTime (ctx : Nat) (s : State) : Run :=
  .next (s.issue ctx 0x04 (fun s i => s.done ctx i (BitVec.ofNat 64 (s.localCount (s.ctx ctx).tile))))

/-- The branch target, IMM [11:0]. -/
def iTarget (w : Word) : Nat := fld w 11 0

/-- Branch: in the queue over as many items, within the submission; in the program store to a PC (12 R366, R367). (DEDUCED, log 14.) -/
def State.branch (s : State) (n : Nat) (i : Issue) : State :=
  let c := s.ctx n
  let k := iTarget i.word
  if i.stored then (s.setCtx n { c with pc := k }).done n i 0
  else
    match c.cur with
    | some u =>
      if u.sub.items.length < u.next + k then s.fail n i .range
      else (s.setCtx n { c with cur := some { u with next := u.next + k, high := max u.high (u.next + k) }, rd := (c.rd + k) % 512 }).done n i 0
    | none => s.fail n i .range

/-- BR (13 Table 13-3). -/
def execBr (ctx : Nat) (s : State) : Run := .next (s.issue ctx 0x08 (fun s i => s.branch ctx i))

/-- BZ (13 Table 13-3). -/
def execBz (ctx : Nat) (s : State) : Run :=
  .next (s.issue ctx 0x09 (fun s i => if (s.ctx ctx).opA i.word = 0 then s.branch ctx i else s.done ctx i 0))

/-- BNZ (13 Table 13-3). -/
def execBnz (ctx : Nat) (s : State) : Run :=
  .next (s.issue ctx 0x0A (fun s i => if (s.ctx ctx).opA i.word = 0 then s.done ctx i 0 else s.branch ctx i))

/-- Every item consumed since the mark is visible again (12 R372). -/
def Ctx.rewind (c : Ctx) : Ctx :=
  match c.mark, c.cur with
  | some m, some u => { c with cur := some { u with next := m }, rd := (c.rd + 512 - (u.next - m)) % 512 }
  | _, _ => c

/-- LOOP (12 R367; 13 Table 13-3). -/
def execLoop (ctx : Nat) (s : State) : Run :=
  .next (s.issue ctx 0x0B (fun s i =>
    let c := s.ctx ctx
    let v := c.reg (iGd i.word)
    if v = 0 ∨ (!i.stored ∧ c.mark.isNone) then s.fail ctx i .range
    else if v = 1 then s.done ctx i 0
    else if i.stored then (s.setCtx ctx { c with pc := iTarget i.word }).done ctx i (v - 1)
    else (s.setCtx ctx c.rewind).done ctx i (v - 1)))

/-- CALLP (12 R366). -/
def execCallp (ctx : Nat) (s : State) : Run :=
  .next (s.issue ctx 0x0C (fun s i =>
    let c := s.ctx ctx
    let e := fld (s.progWord c.level (fld i.word 7 0)) 11 0
    if e = 0 ∨ 4 ≤ c.stack.length then s.fail ctx i .range
    else (s.setCtx ctx { c with stack := ⟨c.fetch, c.pc⟩ :: c.stack, fetch := true, pc := e }).done ctx i 0))

/-- An arithmetic instruction: RESULT and gd are `f` of ga and b (13 R395). -/
def State.alu (s : State) (n op : Nat) (f : Word → Word → Word) : State :=
  s.issue n op (fun s i => s.done n i (f ((s.ctx n).opA i.word) ((s.ctx n).opB i.word)))

/-- ADD (13 R395). -/
def execAdd (ctx : Nat) (s : State) : Run := .next (s.alu ctx 0x10 aluAdd)
/-- SUB (13 R395). -/
def execSub (ctx : Nat) (s : State) : Run := .next (s.alu ctx 0x11 aluSub)
/-- AND (13 R395). -/
def execAnd (ctx : Nat) (s : State) : Run := .next (s.alu ctx 0x12 aluAnd)
/-- OR (13 R395). -/
def execOr (ctx : Nat) (s : State) : Run := .next (s.alu ctx 0x13 aluOr)
/-- XOR (13 R395). -/
def execXor (ctx : Nat) (s : State) : Run := .next (s.alu ctx 0x14 aluXor)
/-- SHL (13 R395). -/
def execShl (ctx : Nat) (s : State) : Run := .next (s.alu ctx 0x15 aluShl)
/-- SHR (13 R395). -/
def execShr (ctx : Nat) (s : State) : Run := .next (s.alu ctx 0x16 aluShr)
/-- LDI (13 R395). -/
def execLdi (ctx : Nat) (s : State) : Run := .next (s.issue ctx 0x17 (fun s i => s.done ctx i i.ldiValue))
/-- CMP (13 R395). -/
def execCmp (ctx : Nat) (s : State) : Run := .next (s.alu ctx 0x18 aluCmp)

/-- FREE of the queue, the RESULT of the queue instructions (13 R423). -/
def State.freeWordOf (s : State) (n : Nat) : Word := BitVec.ofNat 64 (s.ctx n).freeItems

/-- MARK (12 R372). -/
def execMark (ctx : Nat) (s : State) : Run :=
  .next (s.issue ctx 0x7C (fun s i =>
    let s := s.setCtx ctx { s.ctx ctx with mark := (s.ctx ctx).cur.map Cur.next }
    s.done ctx i (s.freeWordOf ctx)))

/-- RWND (12 R372). -/
def execRwnd (ctx : Nat) (s : State) : Run :=
  .next (s.issue ctx 0x7D (fun s i =>
    if (s.ctx ctx).mark.isNone then s.fail ctx i .range
    else (s.setCtx ctx (s.ctx ctx).rewind).done ctx i (s.freeWordOf ctx)))

/-- REL (12 R372). -/
def execRel (ctx : Nat) (s : State) : Run :=
  .next (s.issue ctx 0x7E (fun s i =>
    let c := s.ctx ctx
    let s := s.setCtx ctx { c with mark := none, cur := c.cur.map (fun u => { u with freed := u.next }) }
    s.done ctx i (s.freeWordOf ctx)))

end Sys2Proof.Machine
end

