-- ==== Sys2Proof/Machine/RhozilPar.lean ====
section
/-! DEFINITION. The parameter instructions: GETP, STGP, CHKS, APLS, DROPS, LOCKP and CRD, and the timeout of the staged set (12
R377 to R384; 13 R396 to R398, R422). -/

namespace Sys2Proof.Machine

/-- The parameter that the next instruction of a context reads, when it is a GETP. -/
def State.nextGet (s : State) (n : Nat) : Option (Issue × Nat × Nat) :=
  match s.readNext n with
  | some (i, _) => if i.opcode = 0x20 then some (i, iParam i.word, s.idSess n i.pl (iParam i.word)) else none
  | none => none

/-- A GETP waits while a tide that changes its parameter is between its instant and its release (18 R510). -/
def State.getWaits (s : State) (n : Nat) : Bool :=
  match s.nextGet n with
  | some (_, id, sess) => s.tideHolds id sess
  | none => false

/-- The effect of GETP once its level and mode are checked (13 R396). -/
def State.getp (s : State) (n : Nat) (i : Issue) : State :=
  let id := iParam i.word
  let m := s.idSess n i.pl id
  if !s.idOk n i.pl id then s.fail n i .range
  else if s.idFenced id then s.fail n i .fenced
  else
    let staged := if iXf i.word ∧ s.set.owner = some n then s.stagedValue id m else none
    let s := s.beforeRead id
    (s.afterRead id m).done n i (staged.getD (s.view id m))

/-- GETP (13 R396). -/
def execGetp (ctx : Nat) (s : State) : Run :=
  .next (if s.getWaits ctx then s
  else s.issueOp ctx 0x20 always (fun s i => s.mayRead ctx i.pl (iParam i.word) false) (fun s i => s.getp ctx i))

/-- Step 1 for STGP: the selector of a session context is RO (18 Table 18-2a). -/
def stgpEnc (_ : State) (i : Issue) : Bool := !(decide (pidBlock (iParam i.word) = bSeq ∧ 576 ≤ pidInst (iParam i.word) ∧ pidInst (iParam i.word) < 592))

/-- The parameter has STG fields. -/
def State.isStg (s : State) (id : Nat) : Bool := match pspec s.tiles id with | some p => hasStg p.fields | none => false

/-- Step 2 for STGP: the matrix, who may write, and the locks (12 R378; 17 R489). -/
def State.stgpLevel (s : State) (n : Nat) (i : Issue) : Bool :=
  let id := iParam i.word
  s.permits i.pl (pidBlock id) 1 && writeLevel n i.pl id (i.stgpValue (s.ctx n)) &&
    (decide (i.pl = 0) || !s.isStg id || !s.fw.locks.contains id)

/-- The effect of STGP (13 R396): what is not STG takes effect at once, the STG fields go to the staged set. -/
def State.stgp (s : State) (n : Nat) (i : Issue) : State :=
  let id := iParam i.word
  let m := s.idSess n i.pl id
  let v := i.stgpValue (s.ctx n)
  match pspec s.tiles id with
  | none => s.fail n i .range
  | some p =>
    let cs := if hasStg p.fields then [Change.field id m 63 0 v.toNat] else []
    if !s.idOk n i.pl id || !s.writeRange id p.fields v then s.fail n i .range
    else if s.idFenced id then s.fail n i .fenced
    else if !s.writeMode id v then s.fail n i .mode
    else if !cs.isEmpty && (s.ctx n).dropped then (s.noteDrop n).fail n i .late
    else if !cs.isEmpty && !s.canStage n cs then s.fail n i .resv
    else
      let old := s.view id m
      let s := s.done n i old
      let s := if cs.isEmpty then s else s.stage n i.pl cs
      if p.fields.any (fun f => f.writable && !f.stg) then s.writePlain n p.fields id m v else s

/-- STGP (13 R396). -/
def execStgp (ctx : Nat) (s : State) : Run :=
  .next (s.issueOp ctx 0x21 stgpEnc (fun s i => s.stgpLevel ctx i) (fun s i => s.stgp ctx i))

/-- Another context owns the staged set. -/
def State.setTaken (s : State) (n : Nat) : Bool := match s.set.owner with | some m => decide (m ≠ n) | none => false

/-- The owner has touched its set. -/
def State.touch (s : State) (checked : Bool) : State := { s with set := { s.set with checked, touched := s.clock } }

/-- RESULT of a CHKS that fails: identifier and index (12 R379). -/
def chksResult (r : Nat × Nat) : Word := word [(0, r.1), (32, r.2)]

/-- CHKS (12 R379; 13 R397). (DEDUCED, log 19.) -/
def execChks (ctx : Nat) (s : State) : Run :=
  .next (s.issue ctx 0x22 (fun s i =>
    if (s.ctx ctx).dropped then (s.noteDrop ctx).fail ctx i .late
    else if s.setTaken ctx then s.fail ctx i .resv
    else match s.checkSet with
      | none => (s.touch true).done ctx i (BitVec.ofNat 64 s.set.entries.length)
      | some r => (s.touch false).complete ctx i .chkfail (chksResult r) [chksResult r] true))

/-- T of APLS: register a, or 20,000 ticks after the second check (12 R380). -/
def State.aplsTime (s : State) (n : Nat) (i : Issue) : Nat :=
  let a := (s.ctx n).opA i.word
  if a = 0 then s.master + 20000 else a.toNat

/-- APLS (12 R380; 13 R397): the second check, then the tide is named and the context waits for its outcome. -/
def execApls (ctx : Nat) (s : State) : Run :=
  .next (s.issue ctx 0x23 (fun s i =>
    let t := s.aplsTime ctx i
    if (s.ctx ctx).dropped then (s.noteDrop ctx).fail ctx i .late
    else if s.set.owner ≠ some ctx then s.fail ctx i .resv
    else if s.master + 4000000000 < t then s.fail ctx i .range
    else if !s.set.checked || s.checkSet.isSome then s.fail ctx i .chkfail
    else if t < s.master + tideAhead then s.fail ctx i .late
    else if s.tides.any (fun u => decide (t ≤ u.at_ + tideSpace ∧ u.at_ ≤ t + tideSpace)) then s.fail ctx i .late
    else ((s.touch true).addTide t s.set.entries (some ctx)).startLong ctx i .apls))

/-- DROPS (13 R397). -/
def execDrops (ctx : Nat) (s : State) : Run :=
  .next (s.issue ctx 0x24 (fun s i =>
    if (s.ctx ctx).dropped then (s.noteDrop ctx).fail ctx i .late
    else if s.setTaken ctx then s.fail ctx i .resv
    else if s.set.entries.isEmpty then s.emptySet.completeR ctx i .idle 0
    else s.emptySet.done ctx i (BitVec.ofNat 64 s.set.entries.length)))

/-- LOCKP (13 R398): only PL0 unlocks. -/
def execLockp (ctx : Nat) (s : State) : Run :=
  .next (s.issueOp ctx 0x25 always (fun _ i => !iXf i.word || decide (i.pl = 0)) (fun s i =>
    let id := iParam i.word
    if !s.isStg id then s.fail ctx i .range
    else if s.idFenced id then s.fail ctx i .fenced
    else
      let old := b01 (s.fw.locks.contains id)
      { s with fw := { s.fw with locks := if iXf i.word then s.fw.locks.filter (fun x => decide (x ≠ id)) else insertNat id s.fw.locks } }.done ctx i (BitVec.ofNat 64 old)))

/-- The shadow that a snapshot took of a counter (16 R483). -/
def State.shadowOf (s : State) (id sess : Nat) : Word :=
  if isCnt id then (s.ctr (ctrKey (pidInst id / 64) (pidInst id % 64) (pidIdx id - 0x10))).shadowWord
  else (s.ctr (stallKey sess (pidInst id) (pidIdx id - 0x10))).shadowWord

/-- A counter that CRD reads: `pmc.cnt`, `sess.stall_n` and `sess.stall_ns` (13 R422). -/
def crdParam (id : Nat) : Bool := isCnt id || (isStall id && decide (pidIdx id ≠ 5))

/-- CRD (13 R422). -/
def execCrd (ctx : Nat) (s : State) : Run :=
  .next (s.issueOp ctx 0x7B always (fun s i => s.mayRead ctx i.pl (iParam i.word) true) (fun s i =>
    let id := iParam i.word
    let m := s.idSess ctx i.pl id
    if !crdParam id || !s.idOk ctx i.pl id || (iXf i.word && !s.pmc.snapped) then s.fail ctx i .range
    else if s.idFenced id then s.fail ctx i .fenced
    else s.done ctx i (if iXf i.word then s.shadowOf id m else s.view id m)))

/-- STAGED_SET_TIMEOUT (12 R378): the owner has not touched the set for `seq.stage_to`. A set that a tide applies is touched by
its APLS. -/
def execStagedSetTimeout (s : State) : Run :=
  .next (match s.set.owner with
    | some n =>
      if s.due s.set.touched (s.devP bSeq 0 * ms) ∧ !(match (s.ctx n).long with | some (_, .apls) => true | some (_, .sclose _ 1) => true | _ => false) then
        (s.dropSet).log 0 3 bSeq 1023 0x03 0 n
      else s
    | none => s)

end Sys2Proof.Machine
end

