-- ==== Sys2Proof/Machine/TierOps.lean ====
section
/-! DEFINITION. Changes of home: the home table entry and the frame owner table, moves between homes, victims, units to and from a
lender, and the end of a loan (11 R335 to R348; 08 R250, R251). -/

namespace Sys2Proof.Machine

/-- The session of a page of tile offset; its reservation there; how many of its pages are homed by a kind (11 R340). -/
def State.pageSess (s : State) (t p : Nat) : Nat := ((s.extentAt t (p * 4096)).getD (0, 0)).1
def State.resvOf (s : State) (n t : Nat) : Resv := Store.read (s.sess n).resv t {}
def State.homed (s : State) (t n k : Nat) : Nat :=
  s.home.countP (fun e => decide (e.1 / 2 ^ 31 = t) && decide (hKind e.2 = k) && (match s.extentAt t (e.1 % 2 ^ 31 * 4096) with | some x => decide (x.1 = n) | none => false))

/-- Write a home table entry and mark the home-table page that holds it (11 R335). -/
def State.setEntry (s : State) (t p : Nat) (w : Word) : State :=
  if p * 8 < (s.dt t).htLen then (s.setHome t p w).markPage t (s.homeAddr t (p * 8) / 4096) else s.setHome t p w

/-- The lines of a DFA page leave Eaves and the merge buffer. -/
def State.dropFrame (s : State) (t f : Nat) : State :=
  let s := (s.evIn t (f * 4096) (f * 4096 + 4096)).foldl State.dropWay s
  s.setPt t { s.pt t with merge := (s.pt t).merge.filter (fun m => decide (m.dfa / 4096 ≠ f)) }

/-- A page has left a local frame: the frame waits for the record of the home-table page that says so (11 R335, R336). -/
def State.vacate (s : State) (t f p : Nat) : State :=
  (s.dropFrame t f).setFrame t f { sess := (s.frame t f).sess, lpage := p, pendRel := true, since := s.localCount t, htPage := p / 512 }

/-- The conditions of R250 for a page in a local frame. -/
def State.mayLeave (s : State) (t f p : Nat) : Bool :=
  !(s.tl t).dirty.contains f && !(s.tl t).inflight.any (fun x => decide (x.page = f))
    && !s.unacked.any (fun u => decide (u.owner = t ∧ u.req.toff / 4096 = p))

/-- The current record of a page lies in a log block; the flash-only log index has room (09 R285). -/
def State.inLog (s : State) (t p : Nat) : Bool := match s.image t false p with | some r => decide ((s.blk t r.blk).use = .log) | none => false
def State.foRoom (s : State) (t p : Nat) : Bool := !s.inLog t p || decide ((s.th t).foIndex.length < 1048576)
def State.foAdd (s : State) (t p : Nat) : State := if s.inLog t p then s.setTh t { s.th t with foIndex := insertNat p (s.th t).foIndex } else s
def State.foDrop (s : State) (t p : Nat) : State := s.setTh t { s.th t with foIndex := (s.th t).foIndex.filter (fun q => decide (q ≠ p)) }

/-- A move has ended: the accesses that wait on its page go on (11 R335). -/
def State.endMove (s : State) (t p : Nat) : State :=
  (s.setTt t { s.tt t with moves := (s.tt t).moves.filter (fun m => decide (m.lpage ≠ p)), unitData := (s.tt t).unitData.filter (fun d => decide (d.1 ≠ p)), badData := (s.tt t).badData.filter (fun d => decide (d.1 ≠ p)) }).release
    (fun w => decide ((w.why = .move ∨ w.why = .unit) ∧ w.req.owner = t ∧ w.req.toff / 4096 = p))

/-! ### Units -/

/-- A unit of 128 bytes of a line at a wire address under a loan key (11 R343). (DEDUCED, log 80.) -/
def State.makeUnit (s : State) (t key wire : Nat) (l : List Byte) : Option (List Byte) × State :=
  match s.gcmSeal t 2 key (leBytes 8 wire ++ leBytes 2 (s.devP bPort 1)) l with
  | (some (n, c, g), s) => (some (c ++ n ++ g ++ List.replicate 36 0), s)
  | (none, s) => (none, s)

/-- The line of a unit from a sender, when the slot holds a key for it and its tag is good. -/
def State.openUnit (s : State) (t key wire peer : Nat) (u : List Byte) : Option (List Byte) :=
  if (s.keySlot t key).usage ≠ 4 then none
  else gcmDec (s.keySlot t key).key ((u.drop 64).take 12) (leBytes 8 wire ++ leBytes 2 peer) (u.take 64) ((u.drop 76).take 16)

/-- The wire address of a line of a neighbour-homed page: twice its lender DPA (11 R343). -/
def wireOf (frame line : Nat) : Nat := 2 * (frame * 4096 + 64 * line)
abbrev mailbox := 0x8000_0000_0000

/-- The DPA page that a borrower loan's frame `f` is on the lender. -/
def State.lenderPage (s : State) (t i f : Nat) : Nat := s.loanBase t i * 512 + f

/-- A unit request to a lender (11 R345). -/
def State.unitReq (s : State) (t i p line frame : Nat) (write : Bool) (l : Line) : State :=
  let x := s.tt t
  let wire := wireOf frame line
  let s := s.setTt t { x with units := x.units ++ [{ id := x.unitNo, loan := i, lpage := p, line, write, at_ := s.clock }], unitNo := x.unitNo + 1 }
  if write then
    match s.makeUnit t (s.loanKey t i) wire l.bytes with
    | (some u, s) => s.emit (.peer 0x101 ([t, s.loanPeer t i, x.unitNo, wire] ++ u.map BitVec.toNat))
    | (none, s) => s
  else s.emit (.peer 0x100 [t, s.loanPeer t i, x.unitNo, wire])

/-- A loan control message in the peer mailbox (11 R346, Table 11-5). -/
def State.mailUnit (s : State) (t i type value : Nat) : State :=
  let body := leBytes 8 type ++ leBytes 8 (s.localCount t) ++ leBytes 8 value ++ List.replicate 40 0
  match s.makeUnit t (s.loanKey t i) mailbox body with
  | (some u, s) => s.emit (.peer type ([t, s.loanPeer t i, i, value] ++ u.map BitVec.toNat))
  | (none, s) => s

/-! ### Loans -/

def State.setLoan (s : State) (t i : Nat) (x : Loan) : State := s.setTt t { s.tt t with loans := Store.write (s.tt t).loans i x {} }

/-- The pages whose entries name the peer of a loan. -/
def State.loanPages (s : State) (t i : Nat) : List Nat :=
  (s.home.filter (fun e => decide (e.1 / 2 ^ 31 = t) && decide (hKind e.2 = 2 ∧ hPeer e.2 = s.loanPeer t i))).map (fun e => e.1 % 2 ^ 31)

/-- The key of the lender frame that an entry names, in the owner table of the borrower. -/
def State.lenderKey (s : State) (t i : Nat) (w : Word) : Nat := 2 ^ 30 * (i + 1) + (hFrame w - s.loanBase t i * 512)

/-- A converted or lost loan is done when no entry names its peer: STATE 0x5 (11 R348). -/
def State.loanDone (s : State) (t i : Nat) : State :=
  if (s.loan t i).state = 3 ∧ (s.loanPages t i).isEmpty then s.setLoan t i { s.loan t i with state := 5, since := s.clock } else s

/-- A move between a lender and this tile stops; a move home goes on from flash (11 R345, R348). Requests in flight stay until they
complete or time out. -/
def State.stopUnits (s : State) (t i : Nat) : State :=
  let x := s.tt t
  let ps := (x.units.filter (fun u => decide (u.loan = i))).map UnitReq.lpage ++ s.loanPages t i
  let s := ps.foldl (fun s p => if hMoving (s.homeEntry t p) then s.setHome t p (ins (s.homeEntry t p) 2 2 0) else s) s
  s.setTt t { s.tt t with unitData := x.unitData.filter (fun d => !ps.contains d.1), badData := x.badData.filter (fun d => !ps.contains d.1),
                          moves := x.moves.filter (fun m => !(decide (m.dest = 2 ∧ m.loan = i))) }

/-- A borrower loan is lost or ended: its pages count as flash only, the tier mover rewrites their entries, and the accesses that
wait on the lender go on (11 R348). -/
def State.endBorrow (s : State) (t i : Nat) : State :=
  if s.loanRole t i ≠ 2 ∨ (s.loan t i).state = 3 ∨ (s.loan t i).state = 5 ∨ (s.loan t i).state = 0 then s
  else
    let ps := s.loanPages t i
    let s := (s.stopUnits t i).setLoan t i { s.loan t i with state := 3, since := s.clock }
    let s := ps.foldl (fun s p => s.wantMove t p (s.pageSess t p) 3 false) s
    (s.release (fun w => decide ((w.why = .unit ∨ w.why = .move) ∧ w.req.owner = t) && ps.contains (w.req.toff / 4096))).loanDone t i

/-- RETURNED goes to the lender once no unit request of the loan is in flight (11 R347). -/
def State.sendReturned (s : State) (t i : Nat) : State :=
  if (s.loan t i).recallEnd ≠ 0 ∧ ((s.loan t i).state = 3 ∨ (s.loan t i).state = 5) ∧ !(s.loan t i).returned ∧ !(s.tt t).units.any (fun u => decide (u.loan = i)) then
    (s.setLoan t i { s.loan t i with returned := true }).mailUnit t i 4 0
  else s

/-- The active borrower loans with room for a page; a frame that one offers (11 R339, R340). -/
def State.lenderFrame (s : State) (t : Nat) : Option (Nat × Nat) :=
  (List.range 16).findSome? (fun i =>
    if s.borrows t i then
      let used := (s.tt t).owners.filterMap (fun o => if o.1 / 2 ^ 30 = i + 1 ∧ o.2.valid then some (o.1 % 2 ^ 30) else none)
      ((List.range (used.length + 1)).find? (fun f => !used.contains f && decide (f < s.loanFrames t i))).map (fun f => (i, f))
    else none)

/-! ### Moves -/

/-- The movers run in these modes (11 Table 11-8). -/
def State.moversRun (s : State) (t : Nat) : Bool :=
  [Mode.rstr, .actv, .mirs, .solo, .main].contains s.mode.mode && !s.tileFenced t && s.save.run.isNone

/-- The neighbour mover runs in these (11 Table 11-8). -/
def State.neighbourRuns (s : State) (t : Nat) : Bool := s.moversRun t && [Mode.actv, .mirs, .solo].contains s.mode.mode

/-- A free frame for a page; which of them is taken is open. (DESIGN CHOICE, log 28.) -/
def State.anyFrame (s : State) (t : Nat) : Option Nat × State :=
  let (w, s) := s.drawWord
  let n := (s.tt t).owners.length + s.rankRanges t + 18
  let at_ := s.poolBase t / 4096 + w.toNat % (s.poolFrames t + 1)
  (match s.seekFrame t n at_ with | some f => some f | none => s.freeFrame t, s)

/-- A page takes a local frame: owner entry, entry, home-table page (11 R335). -/
def State.takeFrame (s : State) (t p n f : Nat) : State :=
  (s.setFrame t f { sess := n, lpage := p, valid := true, htPend := true, since := s.localCount t, htPage := p / 512 }).setEntry t p
    (word [(16, f), (0, 1)])

/-- The owner entry of a lender frame clears when its page leaves. -/
def State.leaveLender (s : State) (t : Nat) (w : Word) : State :=
  match s.loanOf t (hPeer w) with
  | some i => s.setFrame t (s.lenderKey t i w) {}
  | none => s

/-- Write a page of 64 lines into a frame. -/
def State.fillFrame (s : State) (t p f : Nat) (ls : List (Line × Bool)) : State :=
  (List.range 64).foldl (fun s i =>
    let (l, b) := ls.getD i (0, false)
    let s := (s.dropBack t (f * 4096 + 64 * i)).putDram t (f * 4096 + 64 * i) (s.cipherLine true t (p * 4096 + 64 * i) (f * 4096 + 64 * i) l) b
    if b then s.enterPoison t (p * 4096 + 64 * i) else s) s

/-- A move has ended with the page at its new home (16 Table 16-6: the neighbour mover's when a lender frame is its source or its
destination). -/
def State.moved (s : State) (t p : Nat) (nb : Bool) : State :=
  (s.tally t (if nb then 21 else 20) 0x0001 { sess := some (s.pageSess t p), tile := t, dpa := some (dpaOf t (p * 4096)), cls := some 4 }).endMove t p

/-- The data of a page goes to or comes from a lender, at no more than `tier.nb_rate`: 4 KiB take 16,384 ticks over the rate in GB/s (11 R345). -/
def State.nbPace (s : State) (t : Nat) : State :=
  let r := s.tileP bTier t 3
  s.setTt t { s.tt t with nbNext := s.clock + (16384 + r - 1) / r }

/-- A page comes home to a local frame (11 Table 11-2): zeros, its current record, or the lender's lines once they have all arrived. -/
def State.moveLocal (s : State) (t : Nat) (m : Move) : State :=
  let p := m.lpage
  let w := s.homeEntry t p
  let n := s.pageSess t p
  let k := s.homeKind t p
  if k = 1 then s.endMove t p
  else if (s.resvOf n t).frames ≤ s.homed t n 1 then s
  else if k = 2 then
    match s.loanOf t (hPeer w) with
    | none => s
    | some i =>
      if !hMoving w then
        if s.clock < (s.tt t).nbNext then s
        else (List.range 64).foldl (fun s j => s.unitReq t i p j (hFrame w) false 0) ((s.nbPace t).setHome t p (ins w 2 2 1))
      else
        let got := (s.tt t).unitData.filter (fun d => decide (d.1 = p))
        if got.length < 64 then s
        else
          let ls := (List.range 64).map (fun j => (((got.find? (fun d => decide (d.2.1 = j))).map (fun d => d.2.2)).getD 0, (s.tt t).badData.contains (p, j)))
          match s.anyFrame t with
          | (some f, s) => if s.pageConverting t f then s else (((s.leaveLender t w).fillFrame t p f ls).takeFrame t p n f).moved t p true
          | (none, s) => s
  else
    let img := s.image t false p
    let bad := match img with | some r => decide (r.kind = 6) | none => false
    if k = 3 && bad && s.twinServes then
      if hMoving w then s else (s.setHome t p (ins w 2 2 1)).sendLrq t (p * 4096) 64 (.flashPage p) 2
    else
      let ls := (List.range 64).map (fun j => if k = 0 then (0, false) else if bad then (0, true) else
        match img with | some r => r.line j | none => (0, false))
      match s.anyFrame t with
      | (some f, s) =>
        if s.pageConverting t f then s else
        let s := match img with | some r => s.flashRead t r | none => s
        let s := if hKind w = 2 then s.leaveLender t w else s
        (((s.fillFrame t p f ls).takeFrame t p n f).foDrop t p).moved t p false
      | (none, s) => s

/-- A page leaves for flash only, or an entry of a lost loan is rewritten (11 Table 11-2, R348; 09 R284, R285). -/
def State.moveFlash (s : State) (t : Nat) (m : Move) : State :=
  let p := m.lpage
  let w := s.homeEntry t p
  let n := s.pageSess t p
  match hKind w with
  | 1 =>
    let f := hFrame w
    if !s.mayLeave t f p then s.headDrain t f
    else if !s.foRoom t p ∨ (s.resvOf n t).fopages ≤ s.homed t n 3 then s
    else (((s.foAdd t p).vacate t f p).setEntry t p 3).moved t p false
  | 2 =>
    let i := (s.loanOf t (hPeer w)).getD 0
    if s.homeKind t p = 2 ∧ (s.resvOf n t).fopages ≤ s.homed t n 3 then s
    else (((((if s.foRoom t p then s.foAdd t p else s)).leaveLender t w).setEntry t p 3).moved t p true).loanDone t i
  | _ => s.endMove t p

/-- A page leaves for a lender frame: its lines are written there, and the entry changes when every write has completed. -/
def State.moveNeighbour (s : State) (t : Nat) (m : Move) : State :=
  let p := m.lpage
  let w := s.homeEntry t p
  let n := s.pageSess t p
  if hKind w ≠ 1 then s.endMove t p
  else if !hMoving w then
    if !s.mayLeave t (hFrame w) p then s.headDrain t (hFrame w)
    else if (s.resvOf n t).nframes ≤ s.homed t n 2 ∨ s.clock < (s.tt t).nbNext then s
    else
      match s.lenderFrame t with
      | none => s
      | some (i, f) =>
        let ls := (List.range 64).map (fun j => (s.newest t (p * 4096 + 64 * j) (hFrame w * 4096 + 64 * j)).1)
        let s := (s.setHome t p (ins w 2 2 1)).setFrame t (2 ^ 30 * (i + 1) + f) { sess := n, lpage := p, valid := true }
        let s := s.setTt t { s.tt t with moves := (s.tt t).moves.map (fun x => if x.lpage = p then { x with loan := i } else x) }
        (List.range 64).foldl (fun s j => s.unitReq t i p j (s.lenderPage t i f) true (ls.getD j 0)) (s.nbPace t)
  else if (s.tt t).units.any (fun u => decide (u.lpage = p)) then s
  else
    match (s.tt t).owners.find? (fun o => decide (2 ^ 30 * (m.loan + 1) ≤ o.1 ∧ o.1 < 2 ^ 30 * (m.loan + 2)) && o.2.valid && decide (o.2.lpage = p)) with
    | some o =>
      ((s.vacate t (hFrame w) p).setEntry t p (word [(16, s.lenderPage t m.loan (o.1 % 2 ^ 30)), (4, s.loanPeer t m.loan), (0, 2)])).moved t p true
    | none => (s.setHome t p (ins w 2 2 0)).endMove t p

/-- Host requests wait for DRAM of a tile, and neither mover has a forced win: the movers are served after them (04 R135). -/
def State.moverYields (s : State) (t : Nat) : Bool :=
  (List.range 8).any (fun i => !(s.hostReads (8 * t + i)).isEmpty) && !(Store.read (s.tt t).batt 5 {}).forced && !(Store.read (s.tt t).batt 6 {}).forced

/-- One turn of a move: it starts only while the tile has room (08 R232), after the host requests that wait, and waits for the channels of its
tile (04 R135; 06 R175). (DESIGN CHOICE, log 132.) -/
def State.doMove (s : State) (t : Nat) (m : Move) : State :=
  let nb := decide (m.dest = 2) || (decide (m.dest = 1) && decide (s.homeKind t m.lpage = 2))
  if !s.moversRun t ∨ (nb ∧ !s.neighbourRuns t) ∨ !(s.moverRoom t ∨ hMoving (s.homeEntry t m.lpage)) ∨ s.moverYields t ∨ s.pageAway t then s
  else match m.dest with
    | 1 => s.moveLocal t m
    | 2 => s.moveNeighbour t m
    | _ => s.moveFlash t m

/-! ### Extents -/

/-- The pages of an extent become unmapped, and their frames pass through PENDREL (13 R406, R408). -/
def State.unmapExt (s : State) (n e : Nat) : State :=
  let x := s.ext n e
  let t := x.dpa / 2 ^ 43
  let lo := x.dpa % 2 ^ 43 / 4096
  let hi := lo + x.len / 4096
  if !x.tiered then s
  else
    let ps := (s.home.filter (fun h => decide (h.1 / 2 ^ 31 = t ∧ lo ≤ h.1 % 2 ^ 31 ∧ h.1 % 2 ^ 31 < hi))).map (fun h => h.1 % 2 ^ 31)
    let s := ps.foldl (fun s p =>
      let w := s.homeEntry t p
      let s := match hKind w with
        | 1 => ((s.vacate t (hFrame w) p).clearPage t (hFrame w))
        | 2 => s.leaveLender t w
        | 3 => s.foDrop t p
        | _ => s
      s.setEntry t p 0) s
    s.setTt t { s.tt t with moves := (s.tt t).moves.filter (fun m => decide (m.lpage < lo ∨ hi ≤ m.lpage)) }

/-! ### Stream schedules -/

/-- The regions of a schedule that its window covers while region `k` is current: k to k + d (11 R350). -/
def schedWindow (x : Sched) (k : Nat) : List Nat :=
  ((List.range (x.depth + 1)).map (k + ·)).filterMap (fun j => if x.total = 0 then none else if x.cyclic then some (j % x.total) else if j < x.total then some j else none)

/-- START and PAGES of a region, and its flags. -/
def regionStart (r : Nat × Nat) : Nat := r.1 / 4096 % 2 ^ 34
def regionHas (r : Nat × Nat) (p : Nat) : Bool := decide (regionStart r ≤ p ∧ p < regionStart r + r.2)

/-- The demotion region: k − d, unless PIN (11 R350). -/
def schedDemotion (x : Sched) : Option (Nat × Nat) :=
  match x.current with
  | some k =>
    let j : Option Nat := if x.depth ≤ k then some (k - x.depth) else if x.cyclic ∧ x.total ≠ 0 then some ((k + x.total - x.depth % x.total) % x.total) else none
    match j with
    | some j =>
      match x.regions[j]? with
      | some r => if r.1 % 2 = 1 ∨ (schedWindow x k).contains j then none else some r
      | none => none
    | none => none
  | none => none

/-- The tile and page of tile offset of a page of session offset. -/
def State.pageOfOff (s : State) (n p : Nat) : Option (Nat × Nat) :=
  ((s.sess n).exts.find? (fun e => e.2.defined && decide (e.2.start ≤ p * 4096 ∧ p * 4096 < e.2.start + e.2.len))).map (fun e =>
    ((e.2.dpa + (p * 4096 - e.2.start)) / 2 ^ 43, (e.2.dpa + (p * 4096 - e.2.start)) % 2 ^ 43 / 4096))

/-- The session page of a page of tile offset. -/
def State.offOfPage (s : State) (t p : Nat) : Option (Nat × Nat) :=
  match s.extentAt t (p * 4096) with
  | some (n, e) => some (n, ((s.ext n e).start + (dpaOf t (p * 4096) - (s.ext n e).dpa)) / 4096)
  | none => none

/-- The page lies in the window of a running schedule of its session: it is never chosen as a victim (11 R350). -/
def State.inWindow (s : State) (t p : Nat) : Bool :=
  match s.offOfPage t p with
  | some (n, q) => (s.sess n).scheds.any (fun x => x.2.running && (match x.2.current with
      | some k => (schedWindow x.2 k).any (fun j => match x.2.regions[j]? with | some r => regionHas r q | none => false)
      | none => false))
  | none => false

/-- The page lies in a demotion region of its session. -/
def State.inDemotion (s : State) (t p : Nat) : Bool :=
  match s.offOfPage t p with
  | some (n, q) => (s.sess n).scheds.any (fun x => x.2.running && (match schedDemotion x.2 with | some r => regionHas r q | none => false))
  | none => false

end Sys2Proof.Machine
end

