-- ==== Sys2Proof/Machine/TierRows.lean ====
section
/-! DEFINITION. The commands of the tiers, of neighbour memory, of stream schedules and of the Batten bus (11 R335 to R360). -/

namespace Sys2Proof.Machine

/-- TIER_MOVE (11 R335): one turn of the move of a page. -/
def execTierMove (tile lpage : Nat) (s : State) : Run :=
  .next (match (s.tt tile).moves.find? (fun m => decide (m.lpage = lpage)) with
    | some m => s.doMove tile m
    | none => s)

/-- A record of the home-table page, whose drain began after the change, is verified: the drain notes a page's record under
the Tidemark at which it began. -/
def State.htVerified (s : State) (t : Nat) (o : Owner) : Bool :=
  (s.th t).recs.any (fun r => r.ht && decide (r.lpage = o.htPage ∧ o.since < r.tm ∧ r.kind ≠ 6))

/-- PENDREL_CLEAR (11 R336): the frame becomes free. -/
def execPendrelClear (tile frame : Nat) (s : State) : Run :=
  .next (if (s.frame tile frame).pendRel && s.htVerified tile (s.frame tile frame) then s.setFrame tile frame {} else s)

/-- HTPEND_CLEAR (11 R337). -/
def execHtpendClear (tile frame : Nat) (s : State) : Run :=
  let o := s.frame tile frame
  .next (if o.valid && o.htPend && s.htVerified tile o then s.setFrame tile frame { o with htPend := false } else s)

/-! ### Victims -/

/-- The frames of a session on a tile, from the sweep pointer round. -/
def State.sweepOrder (s : State) (t n : Nat) : List Nat :=
  let fs := ((s.tt t).owners.filter (fun o => decide (o.1 < 2 ^ 30 ∧ o.2.sess = n) && o.2.valid)).map Prod.fst
  fs.filter (fun f => decide ((s.tt t).sweep ≤ f)) ++ fs.filter (fun f => decide (f < (s.tt t).sweep))

/-- The page of a frame may be a victim: not in a window, not moving, and R250 holds (11 R340, R350). -/
def State.victimOk (s : State) (t f : Nat) : Bool :=
  let p := (s.frame t f).lpage
  !s.inWindow t p && !(s.tt t).moves.any (fun m => decide (m.lpage = p)) && s.mayLeave t f p

/-- Where a victim goes (11 R340, R347). -/
def State.victimHome (s : State) (t f : Nat) : Nat :=
  let o := s.frame t f
  let recalling := (List.range 16).any (fun i => decide (s.loanRole t i = 2 ∧ (s.loan t i).state = 4))
  if o.swept ∧ s.homed t o.sess 2 < (s.resvOf o.sess t).nframes ∧ (s.lenderFrame t).isSome ∧ !recalling then 2 else 3

/-- A frame is chosen: its page is to leave. -/
def State.evict (s : State) (t f : Nat) : State :=
  let s := s.wantMove t (s.frame t f).lpage (s.frame t f).sess (s.victimHome t f) false
  s.setTt t { s.tt t with sweep := f + 1 }

/-- The clock sweep: it clears REF, and takes the first frame with REF already clear. A page that fails R250 is skipped, and a
dirty one goes to the head of the drain walk. -/
def State.clockSweep (s : State) (t : Nat) : List Nat → State
  | [] => s
  | f :: l =>
    let o := s.frame t f
    if s.inWindow t o.lpage ∨ (s.tt t).moves.any (fun m => decide (m.lpage = o.lpage)) then s.clockSweep t l
    else if !s.mayLeave t f o.lpage then (s.headDrain t f).clockSweep t l
    else if o.ref then (s.setFrame t f { o with ref := false, swept := true }).clockSweep t l
    else s.evict t f

/-- Pages of the session that wait to come home over its reservation, and its pages that are leaving. -/
def State.homeWaits (s : State) (t n : Nat) : Nat := (s.tt t).moves.countP (fun m => decide (m.sess = n ∧ m.dest = 1 ∧ s.homeKind t m.lpage ≠ 1))
def State.leaving (s : State) (t n : Nat) : Nat := (s.tt t).moves.countP (fun m => decide (m.sess = n ∧ m.dest ≠ 1 ∧ hKind (s.homeEntry t m.lpage) = 1))

/-- VICTIM_SWEEP (11 R340): a page of a session must come home while its local count is at its reservation. -/
def execVictimSweep (tile sess : Nat) (s : State) : Run :=
  .next (
    if s.moversRun tile ∧ (s.resvOf sess tile).frames ≤ s.homed tile sess 1 ∧ s.leaving tile sess < s.homeWaits tile sess then
      match (s.sweepOrder tile sess).find? (fun f => s.inDemotion tile (s.frame tile f).lpage && s.victimOk tile f) with
      | some f => s.evict tile f
      | none => s.clockSweep tile (s.sweepOrder tile sess ++ s.sweepOrder tile sess)
    else s)

/-! ### Units of a borrower -/

/-- The loan of a neighbour-homed page whose units may be asked for. -/
def State.pageLoan (s : State) (t p : Nat) : Option Nat :=
  if s.homeKind t p = 2 then s.loanOf t (hPeer (s.homeEntry t p)) else none

/-- NEIGHBOUR_READ (11 R345): one unit read for a line that accesses wait for. -/
def execNeighbourRead (tile lpage line : Nat) (s : State) : Run :=
  .next (match s.pageLoan tile lpage with
    | some i =>
      if s.neighbourRuns tile ∧ s.waits.any (fun w => decide (w.why = .unit ∧ w.req.owner = tile ∧ w.req.toff / 64 = lpage * 64 + line))
          ∧ !(s.tt tile).units.any (fun u => decide (u.lpage = lpage ∧ u.line = line)) ∧ line < 64 then
        s.unitReq tile i lpage line (hFrame (s.homeEntry tile lpage)) false 0
      else s
    | none => s)

/-- A line from the lender arrives: it answers the reads that wait for it, or joins the page that is coming home. -/
def State.unitLine (s : State) (t : Nat) (u : UnitReq) (l : Line) : State :=
  if hMoving (s.homeEntry t u.lpage) then s.setTt t { s.tt t with unitData := (s.tt t).unitData ++ [(u.lpage, u.line, l)] }
  else
    let here := fun (w : Wait) => decide (w.why = .unit ∧ w.req.owner = t ∧ w.req.toff / 64 = u.lpage * 64 + u.line)
    let ws := s.waits.filter here
    let s := ws.foldl (fun s w => (s.endStall w.req w.stall).giveRead w.req l false) { s with waits := s.waits.filter (fun w => !here w) }
    State.settle (2 * s.waits.length + 2) s

/-- A unit request is sent again after its first tag failure. -/
def State.retryUnit (s : State) (t : Nat) (u : UnitReq) : State :=
  let s := s.unitReq t u.loan u.lpage u.line (hFrame (s.homeEntry t u.lpage)) false 0
  s.setTt t { s.tt t with units := (s.tt t).units.map (fun x => if x.id + 1 = (s.tt t).unitNo then { x with retried := true } else x) }

/-- UNIT_REQUEST_COMPLETION (11 R345): status 0 with the unit of a read, or an error. -/
def execUnitRequestCompletion (tile id status : Nat) (data : List Byte) (s : State) : Run :=
  .next (match (s.tt tile).units.find? (fun u => decide (u.id = id)) with
    | none => s
    | some u =>
      let s := s.setTt tile { s.tt tile with units := (s.tt tile).units.erase u }
      if !((s.loan tile u.loan).state = 2 ∨ (s.loan tile u.loan).state = 4) then s.sendReturned tile u.loan
      else if status ≠ 0 then (s.endBorrow tile u.loan).sendReturned tile u.loan
      else if u.write then s.sendReturned tile u.loan
      else
        match s.openUnit tile (s.loanKey tile u.loan) (wireOf (hFrame (s.homeEntry tile u.lpage)) u.line) (s.loanPeer tile u.loan) data with
        | some b => (s.unitLine tile u (Line.ofBytes b)).sendReturned tile u.loan
        | none => if u.retried then (s.endBorrow tile u.loan).sendReturned tile u.loan else s.retryUnit tile u)

/-- NEIGHBOUR_TIMEOUT (11 R345): a unit request without a completion loses the loan. -/
def execNeighbourTimeout (tile id : Nat) (s : State) : Run :=
  .next (match (s.tt tile).units.find? (fun u => decide (u.id = id) && s.due u.at_ (s.tileP bTier tile 4 * us)) with
    | some u => (s.setTt tile { s.tt tile with units := (s.tt tile).units.erase u }).endBorrow tile u.loan |>.sendReturned tile u.loan
    | none => s)

/-- NEIGHBOUR_LATE (11 R351): a read in place becomes a stall of cause 1. -/
def execNeighbourLate (tile id : Nat) (s : State) : Run :=
  .next (match (s.tt tile).units.find? (fun u => decide (u.id = id) && !u.late && !u.write && s.due u.at_ (s.tileP bTier tile 5 * 4)) with
    | some u =>
      let s := s.setTt tile { s.tt tile with units := (s.tt tile).units.map (fun x => if x.id = id then { x with late := true } else x) }
      { s with waits := s.waits.map (fun w =>
          if w.why = .unit ∧ w.req.owner = tile ∧ w.req.toff / 64 = u.lpage * 64 + u.line ∧ w.stall = none then { w with stall := some (1, s.clock) } else w) }
    | none => s)

/-! ### Loans -/

/-- The lender has received OPEN; the borrower has received OPENOK (11 R346). -/
def State.gotOpen (s : State) (t i : Nat) : State :=
  if s.loanRole t i = 1 ∧ ((s.loan t i).state = 1 ∨ (s.loan t i).state = 2) then
    (s.setLoan t i { s.loan t i with state := 2 }).mailUnit t i 2 (s.loanFrames t i)
  else s
def State.gotOpenOk (s : State) (t i : Nat) : State :=
  if s.loanRole t i = 2 ∧ (s.loan t i).state = 1 then s.setLoan t i { s.loan t i with state := 2, since := s.clock } else s

/-- OPEN (11 R346): the borrower sends it every 1 ms while its loan is opening; the lender receives it. -/
def execOpen (tile loan : Nat) (received : Bool) (s : State) : Run :=
  .next (
    if received then s.gotOpen tile loan
    else if s.loanRole tile loan = 2 ∧ (s.loan tile loan).state = 1 ∧ ((s.loan tile loan).openAt = 0 ∨ s.due (s.loan tile loan).openAt ms) then
      (s.setLoan tile loan { s.loan tile loan with openAt := s.clock }).mailUnit tile loan 1 (s.loanFrames tile loan)
    else s)

/-- OPENOK (11 R346). -/
def execOpenok (tile loan : Nat) (s : State) : Run := .next (s.gotOpenOk tile loan)

/-- The borrower has received RECALL (11 R347): the loan's pages come home, those with REF set first. -/
def State.gotRecall (s : State) (t i notice : Nat) : State :=
  if s.loanRole t i = 2 ∧ (s.loan t i).state = 2 then
    let s := s.setLoan t i { s.loan t i with state := 4, since := s.clock, recallEnd := s.clock + notice * us, returned := false }
    let ps := s.loanPages t i
    let isRef := fun (p : Nat) => (s.frame t (s.lenderKey t i (s.homeEntry t p))).ref
    (ps.filter isRef ++ ps.filter (fun p => !isRef p)).foldl (fun s p => s.wantMove t p (s.pageSess t p) 1 false) s
  else s

/-- RECALL (11 R347), with the notice in µs. -/
def execRecall (tile loan notice : Nat) (s : State) : Run := .next (s.gotRecall tile loan notice)

/-- RECALL_NOTICE_END (11 R347): the borrower ends the loan when 5 ms of the notice remain or every page is home; the lender
when the notice ends. RETURNED follows once no unit request is in flight. -/
def execRecallNoticeEnd (tile loan : Nat) (s : State) : Run :=
  let x := s.loan tile loan
  .next (
    if s.loanRole tile loan = 2 then
      if x.state = 4 ∧ (x.recallEnd ≤ s.clock + 5 * ms ∨ (s.loanPages tile loan).isEmpty) then (s.endBorrow tile loan).sendReturned tile loan
      else s.sendReturned tile loan
    else if s.loanRole tile loan = 1 ∧ x.state = 4 ∧ x.recallEnd ≤ s.clock then s.setLoan tile loan { x with state := 5, since := s.clock }
    else s)

/-- The lender has received RETURNED (11 R347). -/
def State.gotReturned (s : State) (t i : Nat) : State :=
  if s.loanRole t i = 1 ∧ (s.loan t i).state = 4 then s.setLoan t i { s.loan t i with state := 5, since := s.clock, returned := true } else s

/-- RETURNED (11 R347). -/
def execReturned (tile loan : Nat) (s : State) : Run := .next (s.gotReturned tile loan)

/-- A device has received END (11 R348). -/
def State.gotEnd (s : State) (t i : Nat) : State :=
  if s.loanRole t i = 2 then s.endBorrow t i
  else if s.loanRole t i = 1 ∧ (s.loan t i).state ≠ 0 ∧ (s.loan t i).state ≠ 5 then s.setLoan t i { s.loan t i with state := 5, since := s.clock }
  else s

/-- END (11 R348). -/
def execEnd (tile loan : Nat) (s : State) : Run := .next (s.gotEnd tile loan)

/-- LOAN_RESTAGE (11 R348): 1 s after it ended, a loan that is still staged opens again; a lender's range must be free (R342). (DEDUCED, log 79.) -/
def execLoanRestage (tile loan : Nat) (s : State) : Run :=
  let x := s.loan tile loan
  .next (
    if loan < 16 ∧ x.state = 5 ∧ s.due x.since sec
        ∧ (s.loanRole tile loan = 2 ∨ (s.loanRole tile loan = 1 ∧ s.rangeFree tile (lentFirst (s.loanBase tile loan)) (s.loanFrames tile loan))) then
      s.setLoan tile loan { state := 1, since := s.clock }
    else s)

/-! ### The lender -/

/-- The loans with a peer, on any tile, as tile and number. -/
def State.peerLoans (s : State) (peer : Nat) : List (Nat × Nat) :=
  (s.tileList.flatMap (fun t => (List.range 16).map (fun i => (t, i)))).filter (fun l => decide (s.loanRole l.1 l.2 ≠ 0 ∧ s.loanPeer l.1 l.2 = peer))

/-- The device has a PBR ID, and a loan with a peer in force, in either direction (03 R78, R79). -/
def State.peerLoan (s : State) (peer : Nat) : Bool :=
  decide (s.devP bPort 1 ≤ 0xFFF) && (s.peerLoans peer).any (fun l => decide ((s.loan l.1 l.2).state ≠ 0 ∧ (s.loan l.1 l.2).state ≠ 5))

/-- The lender loan of a peer on a tile, in force, whose range holds a DPA page. -/
def State.lendLoan (s : State) (t peer page : Nat) : Option Nat :=
  (List.range 16).find? (fun i => decide (s.loanRole t i = 1 ∧ s.loanPeer t i = peer ∧ (s.loan t i).state ≠ 0 ∧ (s.loan t i).state ≠ 5
    ∧ s.loanBase t i * 512 ≤ page ∧ page < s.loanBase t i * 512 + s.loanFrames t i))

/-- The modes in which a lender answers (11 R344). -/
def State.lends (s : State) : Bool := [Mode.actv, .mirs, .solo, .main].contains s.mode.mode

/-- A loan control message in a unit written to the peer mailbox (11 Table 11-5). -/
def State.mailIn (s : State) (t i : Nat) (b : List Byte) : State :=
  match (wordOfBytes (b.take 8)).toNat with
  | 1 => s.gotOpen t i
  | 2 => s.gotOpenOk t i
  | 3 => s.gotRecall t i (wordOfBytes ((b.drop 16).take 8)).toNat
  | 4 => s.gotReturned t i
  | 5 => s.gotEnd t i
  | _ => s

/-- PEER_UNIT_REQUEST (11 R343, R344; 03 R78, R79): a unit read or write of a peer device; its completion leaves on the link on which it
came. A unit whose line has to wait is taken when its command comes again. (DESIGN CHOICE, log 81.) -/
def execPeerUnitRequest (tile link ld tag peer addr : Nat) (write : Bool) (data : List Byte) (s : State) : Run :=
  let back := fun (s : State) (st : Nat) (u : List Byte) => s.emit (.peer 0x102 ([tile, link, peer, tag, st] ++ u.map BitVec.toNat))
  let kind := if write then RKind.store else RKind.read
  .next (
    if !s.takes .uio tile link ld then s
    else if !s.peerLoan peer then s.violate .uio kind tile link ld tag addr (s.localCount tile) 6 none (some peer)
    else if addr = mailbox ∧ write then
      match (s.peerLoans peer).find? (fun l => (s.openUnit l.1 (s.loanKey l.1 l.2) mailbox peer data).isSome) with
      | some l => (back s 0 []).mailIn l.1 l.2 ((s.openUnit l.1 (s.loanKey l.1 l.2) mailbox peer data).getD [])
      | none => back s rAbort []
    else
      let y := addr / 2 / 2 ^ 43
      match s.lendLoan y peer (addr / 8192) with
      | none => s.violate .uio kind tile link ld tag addr (s.localCount tile) 1 none (some peer)
      | some i =>
        let a := addr / 2 % 2 ^ 42 / 64 * 64
        if !s.lends ∨ !((s.loan y i).state = 2 ∨ (s.loan y i).state = 4) ∨ addr % 128 ≠ 0 ∨ s.lineFenced y a then back s rAbort []
        else if s.chanAway y (dfaChan a) || write && s.writeWaits y a then s
        else if write then
          match s.openUnit y (s.loanKey y i) addr peer data with
          | some b => back (s.queueWrite y a (Line.ofBytes b) false 0) 0 []
          | none => back s rAbort []
        else if (s.stored y a).2 then back s rAbort []
        else
          match s.makeUnit y (s.loanKey y i) addr (s.stored y a).1.bytes with
          | (some u, s) => back s 0 u
          | (none, s) => back s rAbort [])

/-! ### Stream schedules -/

/-- The pages of a region, as tile and page of tile offset, at most `k` of them. -/
def State.regionPages (s : State) (n k : Nat) (r : Nat × Nat) : List (Nat × Nat) :=
  (List.range (min k r.2)).filterMap (fun i => s.pageOfOff n (regionStart r + i))

/-- A line of local DRAM is prefetched under R124: its home is known and local, Eaves does not hold it, its channel is not fenced
and the queue has room. -/
def State.prefetchLine (s : State) (n t off : Nat) : State :=
  let inSlip := match s.extentAt t off with
    | some (m, e) => decide (s.slipOff m = some (((s.ext m e).start + (dpaOf t off - (s.ext m e).dpa)) / 4096 * 4096))
    | none => false
  let a := match s.extentAt t off with
    | some (m, e) => if (s.ext m e).tiered then
        (if s.tlbHit t (off / 4096) ∧ s.homeKind t (off / 4096) = 1 ∧ ¬ hMoving (s.homeEntry t (off / 4096)) then some (hFrame (s.homeEntry t (off / 4096)) * 4096 + off % 4096) else none)
        else some off
    | none => none
  match a with
  | some a =>
    if (s.evFind t a n).isNone && !inSlip && !s.lineFenced t a && decide ((s.rqOf (subKey t a)).length ≤ 48) then
      (s.enqRead t a off n (.prefetch n) (s.localCount t) 0).tally t 35 0x0001 { sess := some n, tile := t, cls := some 3 }
    else s
  | none => s

/-- Region `k` becomes current (11 R350). -/
def State.enterRegion (s : State) (n j k : Nat) (x : Sched) : State :=
  let s := s.setSess n { s.sess n with scheds := Store.write (s.sess n).scheds j { x with current := some k } {} }
  let win := schedWindow x k
  let regs := fun (l : List Nat) => l.filterMap (fun j => x.regions[j]?)
  let stays := fun (t p : Nat) => match s.offOfPage t p with
    | some (m, q) => decide (m ≠ n) || (regs win).any (fun r => regionHas r q) || !x.regions.any (fun r => regionHas r q)
    | none => true
  let s := s.tileList.foldl (fun s t => s.setTt t { s.tt t with moves := (s.tt t).moves.filter (fun m =>
    decide (m.dest ≠ 1) || m.demand || m.movp || hMoving (s.homeEntry t m.lpage) || stays t m.lpage) }) s
  let t0 := (((x.regions[k]?).bind (fun r => s.pageOfOff n (regionStart r))).getD (0, 0)).1
  let room := (s.resvOf n t0).frames
  let all := ((regs win).map (s.regionPages n (room + 1))).flatten
  let s := if room < all.length then s.countP (pid bSess t0 7) n else s
  let first := ((regs (win.take 1)).map (s.regionPages n room)).flatten
  let s := ((all.take room).drop first.length).foldl (fun s q => if s.homeKind q.1 q.2 = 1 ∨ s.homeKind q.1 q.2 = 0 then s else s.wantMove q.1 q.2 n 1 false) s
  match (regs (win.drop 1)).head? with
  | some r =>
    if r.1 / 2 % 2 = 1 then s
    else (List.range (min (r.2 * 64) (s.tileP bTier t0 6 * 16384))).foldl (fun s i =>
      match s.pageOfOff n (regionStart r + i / 64) with
      | some (t, p) => s.prefetchLine n t (p * 4096 + i % 64 * 64)
      | none => s) s
  | none => s

/-- The region of a schedule that holds a page of session offset. -/
def regionOf (x : Sched) (page : Nat) : Option Nat :=
  (List.range x.regions.length).find? (fun k => match x.regions[k]? with | some r => regionHas r page | none => false)

/-- REGION_ENTRY (11 R350): an access of the session touches a page, by its session offset, of a region that is not current. -/
def execRegionEntry (sess sched page : Nat) (s : State) : Run :=
  let x := Store.read (s.sess sess).scheds sched {}
  .next (
    if !(s.sess sess).isOpen ∨ !x.running then s
    else match regionOf x page with
      | some k => if x.current = some k then s else s.enterRegion sess sched k x
      | none => s)

/-! ### The Batten bus -/

/-- The modes in which a requester runs (11 Table 11-8; 02 Table 2-1 for the drain). -/
def battRuns (m : Mode) (r : Nat) : Bool :=
  match r with
  | 1 => [Mode.rstr, .actv, .mirs, .solo, .save, .main].contains m
  | 2 | 3 | 5 => [Mode.rstr, .actv, .mirs, .solo, .main].contains m
  | 4 => [Mode.rstr].contains m
  | 6 => [Mode.actv, .mirs, .solo].contains m
  | 7 | 8 => [Mode.actv, .mirs, .solo, .main].contains m
  | 9 => decide (m ≠ .stby)
  | 10 => [Mode.actv, .solo, .main].contains m
  | 11 => [Mode.rstr, .actv, .solo].contains m
  | 12 => [Mode.main].contains m
  | _ => false

def TierTile.bat (x : TierTile) (r : Nat) : Batt := Store.read x.batt r {}
def TierTile.setBat (x : TierTile) (r : Nat) (b : Batt) : TierTile := { x with batt := Store.write x.batt r b {} }

/-- The channel of a transfer's next beat cannot be used at present: the requester waits for it, and keeps its progress (06 R175; 11 R357). -/
def State.battHeld (s : State) (t : Nat) (b : Batt) : Bool :=
  match b.dfa with
  | some a => s.chanAway t (dfaChan (a + 64 * b.done))
  | none => false

/-- The beat of this BCLK: the owner's, or a command item's, for which the owner loses it (11 R356, R359). A transfer that ends
frees the bus, and its record clears; one that has to wait for its channel leaves the bus. -/
def State.beat (s : State) (t : Nat) (x : TierTile) : TierTile :=
  match x.owner with
  | none => { x with item := false }
  | some o =>
    if x.item then { x with item := false }
    else if s.battHeld t (x.bat o) then { x.setBat o { x.bat o with valid := true } with owner := none, ownerForced := false }
    else if (x.bat o).beats ≤ (x.bat o).done + 1 then { x.setBat o {} with owner := none, ownerForced := false }
    else x.setBat o { x.bat o with done := (x.bat o).done + 1, valid := false }

/-- The requesters that take part in an arbitration, and the one of them that is due a forced win (11 R358). A Spring tide
holds the grants for new transfers (12 R381). -/
def State.battAsks (s : State) (t : Nat) (x : TierTile) : List Nat :=
  (List.range 13).filter (fun r => (x.bat r).req && !s.battHeld t (x.bat r) && decide (x.owner ≠ some r) && (!s.tideStops t || decide (0 < (x.bat r).done)))
def State.battDue (s : State) (t : Nat) (x : TierTile) : Option Nat := (s.battAsks t x).find? (fun r => decide (s.tileP bBatt t r ≤ (x.bat r).wait))

/-- The requester of highest urgency, the lowest number of equals. -/
def State.battTop (s : State) (t : Nat) (x : TierTile) : Option Nat := leastBy (fun r => 3 - (x.bat r).urgency) (s.battAsks t x)

/-- The winner of an arbitration, with whether its win is forced (11 R356 to R358). -/
def State.battWin (s : State) (t : Nat) (x : TierTile) : Option (Nat × Bool) :=
  if x.owner.isSome && x.ownerForced then none
  else
    match s.battDue t x with
    | some r => some (r, true)
    | none =>
      match s.battTop t x with
      | none => none
      | some r =>
        match x.owner with
        | none => some (r, false)
        | some o => if (x.bat o).urgency < (x.bat r).urgency then some (r, false) else none

/-- Those who ask and lose wait once more. -/
def TierTile.lose (x : TierTile) (rs : List Nat) : TierTile := rs.foldl (fun x r => x.setBat r { x.bat r with wait := (x.bat r).wait + 1 }) x

/-- One arbitration. The owner that loses the bus writes its progress and keeps its request raised. -/
def State.arbitrate (s : State) (t : Nat) (x : TierTile) (cmdItem : Bool) : TierTile × Option (Nat × Bool) :=
  if cmdItem then ({ x.lose (s.battAsks t x) with item := true }, none)
  else
    match s.battWin t x with
    | none => (x.lose (s.battAsks t x), none)
    | some (r, f) =>
      let y := x.lose ((s.battAsks t x).filter (fun q => decide (q ≠ r)))
      let y := match x.owner with
        | some o => y.setBat o { y.bat o with valid := true, wait := (y.bat o).wait + 1 }
        | none => y
      let b := y.bat r
      ({ y.setBat r { b with wait := 0, valid := false, forced := if b.done = 0 then f else b.forced } with owner := some r, ownerForced := f }, some (r, f))

/-- A request of this BCLK is registered; a request that is raised already may change its urgency. -/
def TierTile.ask (x : TierTile) (q : BattAsk) : TierTile :=
  let b := x.bat q.requester
  if b.req then x.setBat q.requester { b with urgency := q.urgency % 4 }
  else x.setBat q.requester { req := true, urgency := q.urgency % 4, beats := max 1 (min q.beats 64), tag := q.tag, dfa := q.dfa }

/-- One BCLK of the bus: the beat, the arbitration, the requests registered, and the transfers whose endpoint is fenced (11 R356
to R360). -/
def State.battStep (s : State) (t : Nat) (cmdItem : Bool) (raised : List BattAsk) (ended : List Nat) : State :=
  let s := match (s.tt t).owner with
    | some o => if (s.tt t).item then s else s.tally t 22 o { tile := t, cls := some 4 }
    | none => s
  let (x, w) := s.arbitrate t (s.beat t (s.tt t)) cmdItem
  let x := raised.foldl (fun (x : TierTile) q => if battRuns s.mode.mode q.requester then x.ask q else x) x
  let x := ended.foldl (fun (x : TierTile) r => { x.setBat r {} with owner := if x.owner = some r then none else x.owner,
                                                                      ownerForced := x.ownerForced && decide (x.owner ≠ some r) }) x
  let s := s.setTt t x
  match w with
  | some (r, true) => (s.countP (pid bBatt t (0x20 + r)) 0).tally t 22 0x0010 { tile := t, cls := some 4 }
  | _ => s

/-- The bus of a tile runs. -/
def State.battOn (s : State) (t : Nat) : Bool := decide (t < s.tiles) && decide (s.mode.mode ≠ .stby) && !s.tileFenced t

/-- BATTEN_GRANT (11 R356 to R360): one BCLK. `cmdItem` says that a command item is to cross the bus; `raised` lists requester,
urgency, beats and tag of the requests of this BCLK; `ended` the requesters whose transfer has a fenced endpoint. -/
def execBattenGrant (tile : Nat) (cmdItem : Bool) (raised : List BattAsk) (ended : List Nat) (s : State) : Run :=
  .next (if s.battOn tile then s.battStep tile cmdItem raised (if s.fences.inForce.isEmpty then [] else ended) else s)

/-- FORCED_WIN (11 R358): a requester whose wait counter has reached its limit wins the arbitration of this BCLK. -/
def execForcedWin (tile : Nat) (s : State) : Run :=
  .next (
    if s.battOn tile then
      match s.battWin tile (s.beat tile (s.tt tile)) with
      | some (_, true) => s.battStep tile false [] []
      | _ => s
    else s)

end Sys2Proof.Machine
end

