-- ==== Sys2Proof/Machine/SessOps.lean ====
section
/-! DEFINITION. Sessions as operations: the operands of layout E, reservations and what a tile holds of each, extents and their
placement, bindings, and the end of a session (01 R18 to R25; 03 R75 to R77; 04 R107, R121; 11 R333, R339; 13 R389, R405 to
R408; 14 R438). -/

namespace Sys2Proof.Machine

/-! ### Operands -/

/-- The extent that an instruction of layout E names, of an open session (13 R389). -/
def State.extOf (s : State) (i : Issue) : Option Ext :=
  let e := s.ext (iSess i.word) (iExt i.word)
  if (s.sess (iSess i.word)).isOpen ∧ e.defined then some e else none

/-- A range operand within its extent: tile, and the tile offsets from and to (13 R389). (DEDUCED, log 22.) -/
def State.rangeOf (s : State) (i : Issue) (off len align most : Nat) : Option (Ext × Nat × Nat × Nat) :=
  match s.extOf i with
  | some e =>
    if off % align = 0 ∧ len % align = 0 ∧ len ≤ most ∧ e.start ≤ off ∧ off + len ≤ e.start + e.len then
      let d := e.dpa + (off - e.start)
      some (e, d / 2 ^ 43, d % 2 ^ 43, d % 2 ^ 43 + len)
    else none
  | none => none
def State.rangeAB (s : State) (n : Nat) (i : Issue) (align most : Nat) : Option (Ext × Nat × Nat × Nat) :=
  s.rangeOf i ((s.ctx n).opA i.word).toNat ((s.ctx n).reg (iGb i.word)).toNat align most

/-- A full-line store of a context (13 R399, R417). -/
def State.ctxReq (s : State) (n : Nat) (i : Issue) (e : Ext) (t off : Nat) (l : Line) (poison zln : Bool) : Req :=
  let x := s.sess (iSess i.word)
  s.withTarget
    { src := .ctx n, kind := .store, tile := (s.ctx n).tile, link := x.link, ld := x.ld, tag := 65536 + n, hpa := 0, mask := Mask.full,
      data := l, poison, zln, stamp := s.localCount (s.ctx n).tile, since := s.clock, sess := iSess i.word,
      off := e.start + (dpaOf t off - e.dpa), dpa := dpaOf t off, tiered := e.tiered, pl := i.pl, order := (s.ctx n).thread.getD 0 }

/-! ### Reservations (11 R339; 13 Tables 13-5, 13-6) -/

/-- Owner and binding words (13 Table 13-5): tile, link, LD; the part has the tile and the tile the link. -/
def bindWord (w : Word) : Nat × Nat × Nat := (fld w 10 8, fld w 5 4, fld w 3 0)
def State.portOk (s : State) (b : Nat × Nat × Nat) : Bool := decide (b.1 < s.tiles ∧ b.2.1 < s.linkCount b.1)

/-- The reservation records of SOPEN: tile and reservation, the ways and keys not yet chosen. -/
def resvRecs : Nat → List Word → List (Nat × Resv)
  | 0, _ => []
  | k + 1, l =>
    (fld (l.getD 0 0) 2 0, { frames := fld (l.getD 1 0) 33 0, nframes := fld (l.getD 2 0) 33 0, fopages := fld (l.getD 3 0) 33 0,
                             share := fld (l.getD 4 0) 15 0, ways := fld (l.getD 5 0) 23 16, keys := fld (l.getD 5 0) 15 0 }) :: resvRecs k (l.drop 6)

/-- The reservations of the other sessions on a tile. -/
def State.others (s : State) (n t : Nat) : List Resv :=
  (s.sessions.filter (fun p => decide (p.1 ≠ n) && p.2.isOpen)).map (fun p => Store.read p.2.resv t {})

/-- FRAMES of the tile's borrower loans in STATE active. -/
def State.loanPool (s : State) (t : Nat) : Nat :=
  (List.range 16).foldl (fun a i => if s.borrows t i then a + s.loanFrames t i else a) 0

/-- The first slots of the free key ranges of a length, in the pool of the tile (14 R438). -/
def State.keyRanges (s : State) (n t k : Nat) : List Nat :=
  (List.range (8128 - (k - 1))).filterMap (fun j =>
    if (s.others n t).all (fun r => decide (r.keys = 0 ∨ 64 + j + k ≤ r.keyBase ∨ r.keyBase + r.keys ≤ 64 + j)) then some (64 + j) else none)

/-- A record fits what the tile holds beside the reservations of every other session (11 R339; 04 R121). -/
def State.resvFits (s : State) (n t : Nat) (r : Resv) : Bool :=
  let sum := fun (f : Resv → Nat) => (s.others n t).foldl (fun a x => a + f x) 0
  decide (sum Resv.frames + r.frames ≤ s.poolFrames t) && decide (sum Resv.nframes + r.nframes ≤ s.loanPool t)
    && decide (sum Resv.fopages + r.fopages ≤ s.foPool t) && decide (sum Resv.share + r.share ≤ s.tileP bTide t 0 * 1024)
    && decide (sum Resv.ways + r.ways ≤ 12) && (decide (r.keys = 0) || !(s.keyRanges n t r.keys).isEmpty)

/-- Tiered pages of a session's extents on a tile. -/
def State.tieredPages (s : State) (n t : Nat) : Nat :=
  (s.sess n).exts.foldl (fun (a : Nat) e => if e.2.defined ∧ e.2.tiered ∧ e.2.dpa / 2 ^ 43 = t then a + (e.2.len + 4095) / 4096 else a) 0

/-- A record covers what the session uses on the tile (13 R405). -/
def State.resvCovers (s : State) (n t : Nat) (r : Resv) : Bool :=
  let old := s.resvOf n t
  decide (s.homed t n 1 ≤ r.frames ∧ s.homed t n 2 ≤ r.nframes ∧ s.homed t n 3 ≤ r.fopages)
    && decide (s.tieredPages n t ≤ r.frames + r.nframes + r.fopages)
    && (decide (r.keys = old.keys) || (List.range old.keys).all (fun j => decide ((s.keySlot t (old.keyBase + j)).usage = 0)))

/-- Ways for a session: those it keeps, and free ones; which of them is open. -/
def State.pickWays (s : State) (n t : Nat) : Nat → Nat → Nat × State
  | 0, m => (m, s)
  | k + 1, m =>
    let used := (s.others n t).foldl (fun a r => a ||| r.wayMask) 0
    let free := (List.range 16).filter (fun w => !used.testBit w && !m.testBit w)
    let (w, s) := s.drawWord
    s.pickWays n t k (m ||| 2 ^ (free.getD (w.toNat % free.length) 0))
def State.dropWays (s : State) : Nat → Nat → Nat × State
  | 0, m => (m, s)
  | k + 1, m =>
    let held := (List.range 16).filter (fun w => m.testBit w)
    let (w, s) := s.drawWord
    s.dropWays k (m - 2 ^ (held.getD (w.toNat % held.length) 0))

/-- The lines of a session in ways that it gives up are cleaned and invalidated (04 R121; 13 R405). -/
def State.giveWays (s : State) (n t mask : Nat) : State :=
  ((s.eaves.filter (fun p => decide (p.1 / 2 ^ 21 = t ∧ p.2.sess = n) && p.2.valid && mask.testBit (p.1 % 16))).map Prod.fst).foldl
    (fun s k => (s.cleanWay k).dropWay k) s

/-- A reservation takes effect. -/
def State.grant (s : State) (n t : Nat) (r : Resv) : State :=
  let old := s.resvOf n t
  let (m, s) := if old.ways ≤ r.ways then s.pickWays n t (r.ways - old.ways) old.wayMask else s.dropWays (old.ways - r.ways) old.wayMask
  let s := s.giveWays n t (old.wayMask - (old.wayMask &&& m))
  let bs := s.keyRanges n t r.keys
  let (w, s) := s.drawWord
  let kb := if r.keys = 0 then 0 else if r.keys = old.keys then old.keyBase else bs.getD (w.toNat % bs.length) 0
  s.setSess n { s.sess n with resv := Store.write (s.sess n).resv t { r with wayMask := m, keyBase := kb } {} }

/-- The `sess` parameters and the stall counters of a session return to their reset values. -/
def State.clearSessParams (s : State) (n : Nat) : State :=
  { s with params := s.params.filter (fun p => decide (¬ (pidBlock (p.1 % 2 ^ 24) = bSess ∧ p.1 / 2 ^ 24 = n))),
           pmc := { s.pmc with ctrs := s.pmc.ctrs.filter (fun c => decide (¬ (stallKey n 0 0 ≤ c.1 ∧ c.1 < stallKey (n + 1) 0 0))) } }

/-- A session opens (13 R405). (DESIGN CHOICE, log 25.) -/
def State.openSess (s : State) (n : Nat) (o : Nat × Nat × Nat) (cpr : Bool) (rs : List (Nat × Resv)) : State :=
  let s := { s.clearSessParams n with binds := s.binds.filter (fun b => decide (b.sess ≠ n)) }
  let s := s.setSess n { isOpen := true, tile := o.1, link := o.2.1, ld := o.2.2, cpr }
  (rs.foldl (fun s r => s.grant n r.1 r.2) s).newCtx n o.1 2

/-! ### Extents (13 R406) -/

/-- A DFA range holds a part of a training-row hole (01 R23). -/
def State.inHole (s : State) (t lo hi : Nat) : Bool :=
  (List.range (s.rankRanges t)).any (fun k => decide (lo < (k + 1) * s.rankSpan t ∧ (k + 1) * s.rankSpan t - holeLen < hi))

/-- Extents that are defined, of every open session. -/
def State.allExts (s : State) : List (Nat × Nat × Ext) :=
  (s.sessions.filter (fun p => p.2.isOpen)).flatMap (fun p => (p.2.exts.filter (fun e => e.2.defined)).map (fun e => (p.1, e.1, e.2)))

/-- The placement of an extent (01 R18, R20, R21; 11 R333); two extents overlap neither in session offset nor in DPA. (DEDUCED, log 26.) -/
def State.placeOk (s : State) (n : Nat) (x : Ext) : Bool :=
  let t := x.dpa / 2 ^ 43
  let lo := x.dpa % 2 ^ 43
  decide (0 < x.len ∧ x.len % 4096 = 0 ∧ x.dpa % 4096 = 0 ∧ x.start + x.len ≤ 2 ^ 46 ∧ t < s.tiles ∧ lo + x.len ≤ 2 ^ 43)
    && (x.tiered || (decide (lo + x.len ≤ s.allocTop t) && decide (lo + x.len ≤ s.poolBase t) && !s.inHole t lo (lo + x.len)))
    && s.allExts.all (fun e => decide (e.1 ≠ n ∨ e.2.2.start + e.2.2.len ≤ x.start ∨ x.start + x.len ≤ e.2.2.start)
        && decide (e.2.2.dpa + e.2.2.len ≤ x.dpa ∨ x.dpa + x.len ≤ e.2.2.dpa))

/-- A tiered extent is covered by the session's reservations on its tile (13 R406). -/
def State.tierCovered (s : State) (n : Nat) (x : Ext) : Bool :=
  let t := x.dpa / 2 ^ 43
  let r := s.resvOf n t
  !x.tiered || decide (s.tieredPages n t + x.len / 4096 ≤ r.frames + r.nframes + r.fopages)

/-- The pairs of binding word and window start. -/
def bindPairs : List Word → List ((Nat × Nat × Nat) × Nat)
  | b :: w :: l => (bindWord b, w.toNat) :: bindPairs l
  | _ => []

/-- Windows in force or staged: LD, start, length, session, extent. -/
def State.windows (s : State) : List ((Nat × Nat × Nat) × Nat × Nat × Nat × Nat) :=
  ((s.binds.filter (fun b => decide (b.state ≠ .released))).map (fun b => ((b.tile, b.link, b.ld), b.w, (s.ext b.sess b.ext).len, b.sess, b.ext)))
    ++ s.set.entries.filterMap (fun e => match e.change with
      | .bind n x t k d w => some ((t, k, d), w, (s.ext n x).len, n, x)
      | _ => none)

/-- The windows that an extent holds or has staged, as binding word and start. -/
def State.ownWindows (s : State) (n e : Nat) : List ((Nat × Nat × Nat) × Nat) :=
  (s.windows.filter (fun w => decide (w.2.2.2.1 = n ∧ w.2.2.2.2 = e))).map (fun w => (w.1, w.2.1))

/-- The bindings of an instruction are well formed and overlap no window of their LD, and the session has at most 16 accessors
beside its owner; `keep` are windows that stay as they are (13 R406; 03 R76). -/
def State.bindsOk (s : State) (n e : Nat) (x : Ext) (bs keep : List ((Nat × Nat × Nat) × Nat)) (replace : Bool) : Bool :=
  let new := bs.filter (fun b => !keep.contains b)
  let own := (s.sess n).tile
  let owner := (own, (s.sess n).link, (s.sess n).ld)
  let ws := s.windows
  let acc := ((ws.filter (fun w => decide (w.2.2.2.1 = n) && !(replace && decide (w.2.2.2.2 = e)))).map (fun w => w.1) ++ bs.map (fun b => b.1)).filter (fun k => decide (k ≠ owner))
  bs.all (fun b => s.portOk b.1 && decide (b.2 % 0x200000 = 0))
    && (bs.isEmpty || decide (x.start % 0x200000 = 0 ∧ x.len % 0x200000 = 0))
    && decide ((bs.map (fun b => b.1)).Nodup)
    && new.all (fun b => ws.all (fun w => decide (w.1 ≠ b.1 ∨ w.2.1 + w.2.2.1 ≤ b.2 ∨ b.2 + x.len ≤ w.2.1)))
    && decide (acc.eraseDups.length ≤ 16)

/-- The windows of a tile stay within 1,024 with more of them (04 R107). -/
def State.windowsFit (s : State) (new : List ((Nat × Nat × Nat) × Nat)) : Bool :=
  s.tileList.all (fun t => decide (s.windows.countP (fun w => decide (w.1.1 = t)) + new.countP (fun b => decide (b.1.1 = t)) ≤ 1024))

def bindChange (n e : Nat) (b : (Nat × Nat × Nat) × Nat) : Change := .bind n e b.1.1 b.1.2.1 b.1.2.2 b.2

/-- The releases of the windows that an extent holds, those of `keep` apart; a binding only staged is withdrawn. -/
def State.unbinds (s : State) (n e : Nat) (keep : List ((Nat × Nat × Nat) × Nat)) : List Change :=
  (s.binds.filter (fun b => decide (b.sess = n ∧ b.ext = e ∧ b.state ≠ .released ∧ b.state ≠ .releasing) && !keep.contains ((b.tile, b.link, b.ld), b.w))).map
    (fun b => .unbind n e b.tile b.link b.ld)
def State.unstageBinds (s : State) (n e : Nat) (keep : List ((Nat × Nat × Nat) × Nat)) : State :=
  { s with set := { s.set with entries := s.set.entries.filter (fun x => match x.change with
      | .bind m f t k d w => !(decide (m = n ∧ f = e) && !keep.contains ((t, k, d), w))
      | _ => true) } }

/-! ### The end of a session (13 R408) -/

/-- A key slot is cleared, with its sealed record; its count of installs stays (14 R438, R441). -/
def State.clearKey (s : State) (t k : Nat) : State :=
  { s.setKey t k { installs := (s.keySlot t k).installs } with sealedKeys := Store.write s.sealedKeys (8192 * t + k) {} {} }

/-- Steps 5 to 7 of R408. -/
def State.closeSess (s : State) (n : Nat) : State :=
  let s := ((s.eaves.filter (fun p => decide (p.2.sess = n) && p.2.valid)).map Prod.fst).foldl (fun s k => (s.cleanWay k).dropWay k) s
  let s := (s.sess n).exts.foldl (fun s e => if e.2.defined then s.unmapExt n e.1 else s) s
  let s := (s.sess n).resv.foldl (fun s r => (List.range r.2.keys).foldl (fun s j => s.clearKey r.1 (r.2.keyBase + j)) s) s
  let s := s.setSess n { exts := (s.sess n).exts.map (fun e => (e.1, { e.2 with defined := false })) }
  { s.clearSessParams n with ctxs := Store.write s.ctxs n {} {} }

/-- The bindings of a session have all been released (03 R77). -/
def State.allReleased (s : State) (n : Nat) : Bool := s.binds.all (fun b => decide (b.sess ≠ n ∨ b.state = .released))

end Sys2Proof.Machine
end

