-- ==== Sys2Proof/Machine/SessRows.lean ====
section
/-! DEFINITION. The instructions of sessions and of their memory: ZLN, FLN, PBAR, MOVP, PFSC, PFGO, SOPEN, SCLOSE, SEXT, SQOS, POIS
and CLRP, and the move of a flash-only page home (13 R399 to R408, R417; 08 R234; 09 R286). -/

namespace Sys2Proof.Machine

/-! ### Stores of a context -/

/-- The ZLN of a context goes on. -/
def State.zlnRuns (s : State) (n : Nat) : Bool := match (s.ctx n).long with | some (_, .zln ..) => true | _ => false

/-- ZLN (13 R399): every line of the range as a full-line store of zeros, in ascending order. -/
def execZln (ctx : Nat) (s : State) : Run :=
  .next (s.issue ctx 0x30 (fun s i =>
    match s.rangeAB ctx i 64 0x20_0000 with
    | none => s.fail ctx i .range
    | some (e, t, lo, hi) =>
      let k := (hi - lo) / 64
      if k = 0 then s.done ctx i 0
      else (List.range k).foldl (fun s j => if s.zlnRuns ctx then s.serveReq (s.ctxReq ctx i e t (lo + 64 * j) 0 false true) none else s)
        (s.startLong ctx i (.zln (iSess i.word) (lo + 64 * k) 0 0 k))))

/-- One line of a context: poisoned, zero, or its eight data items (13 R417). -/
def State.storeLine (s : State) (n : Nat) (i : Issue) (l : Line) (poison : Bool) : State :=
  match s.rangeOf i ((s.ctx n).opA i.word).toNat 64 64 64 with
  | none => s.fail n i .range
  | some (e, t, lo, _) => (s.startLong n i .store1).serveReq (s.ctxReq n i e t lo l poison false) none

/-- POIS (13 R417). -/
def execPois (ctx : Nat) (s : State) : Run := .next (s.issue ctx 0x69 (fun s i => s.storeLine ctx i 0 true))

/-- CLRP (13 R417). -/
def execClrp (ctx : Nat) (s : State) : Run := .next (s.issue ctx 0x6A (fun s i => s.storeLine ctx i (Line.ofWords i.data) false))

/-! ### Cleaning and barriers -/

/-- The Eaves lines of a range of tile offset, by key. -/
def State.evOff (s : State) (t lo hi : Nat) : List Nat :=
  (s.eaves.filter (fun p => decide (p.1 / 2 ^ 21 = t) && p.2.valid && decide (lo ≤ p.2.off ∧ p.2.off < hi))).map Prod.fst

/-- Write every merge-buffer entry of a range of tile offset to its write queue (04 R128). -/
def State.mergeRange (s : State) (t lo hi : Nat) : State :=
  ((s.pt t).merge.filter (fun m => decide (lo ≤ m.off ∧ m.off < hi))).foldl
    (fun s m => let (l, p) := s.plain t m.off m.dfa; s.mergeOut t m l p) s

/-- FLN (13 R400). -/
def execFln (ctx : Nat) (s : State) : Run :=
  .next (s.issue ctx 0x31 (fun s i =>
    match s.rangeAB ctx i 64 0x400_0000 with
    | none => s.fail ctx i .range
    | some (_, t, lo, hi) =>
      let ks := s.evOff t lo hi
      let k := ks.countP (fun k => (s.evLine k).dirty) + (s.pt t).merge.countP (fun m => decide (lo ≤ m.off ∧ m.off < hi))
      let s := (ks.foldl State.cleanWay s).mergeRange t lo hi
      let s := if iXf i.word then ks.foldl State.dropWay s else s
      ((s.done ctx i (BitVec.ofNat 64 k)).kick t [.writeOut, .merge])))

/-- The dirty DFA pages that hold pages of a range of tile offset. -/
def State.dirtyIn (s : State) (t lo hi : Nat) : List Nat :=
  (s.tl t).dirty.filter (fun f => let (ht, lp) := s.logicalOf t f; !ht && decide (lo / 4096 ≤ lp ∧ lp * 4096 < hi))

/-- Stores of a context to a range that are not yet acknowledged (08 R234). -/
def State.ctxPending (s : State) (n t lo hi : Nat) : Bool :=
  let here := fun (r : Req) => decide (r.src = Src.ctx n ∧ r.owner = t ∧ lo ≤ r.toff ∧ r.toff < hi)
  s.waits.any (fun w => here w.req) || s.unacked.any (fun u => here u.req)

/-- The merge-buffer entries of a range that a PBAR names are written out (04 R128). -/
def State.flushMerge (s : State) (t lo hi stamp : Nat) : State :=
  ((s.pt t).merge.filter (fun m => decide (lo ≤ m.off ∧ m.off < hi ∧ m.stamp ≤ stamp))).foldl (fun s m => s.startOut t m) s

/-- The conditions of R234 as they stand: completion, failure, or waiting. -/
def State.pbarStep (s : State) (n t lo hi : Nat) (flash : Bool) (stamp : Nat) : State :=
  let s := s.flushMerge t lo hi stamp
  let now := BitVec.ofNat 64 (s.localCount (s.ctx n).tile)
  if flash && (s.dirtyIn t lo hi).any (fun f => s.pageStopped t f) then s.finishLong n .fenced 0 [] false
  else if s.ctxPending n t lo hi || (s.pt t).merge.any (fun m => decide (lo ≤ m.off ∧ m.off < hi ∧ m.stamp ≤ stamp))
      || (flash && !(s.dirtyIn t lo hi).isEmpty) then s
  else s.finishR n .ok now

/-- PBAR (08 R234; 13 R401). The row runs again for a PBAR under way, and completes it when its conditions hold. -/
def execPbar (ctx : Nat) (s : State) : Run :=
  .next (match (s.ctx ctx).long with
    | some (_, .pbar t lo hi flash stamp) => s.pbarStep ctx t lo hi flash stamp
    | _ => s.issue ctx 0x32 (fun s i =>
      match s.rangeAB ctx i 64 (2 ^ 46) with
      | none => s.fail ctx i .range
      | some (_, t, lo, hi) =>
        let flash := iXf i.word
        let stamp := s.localCount t
        let s := if flash then (s.dirtyIn t lo hi).foldl (fun s f => s.headDrain t f) s else s
        (s.startLong ctx i (.pbar t lo hi flash stamp)).pbarStep ctx t lo hi flash stamp))

/-! ### Moves by MOVP -/

/-- The pages of a range that MOVP has still to move: those with a home that is not the one named, while one can be had. -/
def State.movpLeft (s : State) (t lo hi dest : Nat) : List Nat :=
  ((s.home.filter (fun e => decide (e.1 / 2 ^ 31 = t ∧ lo ≤ e.1 % 2 ^ 31 ∧ e.1 % 2 ^ 31 < hi))).map (fun e => e.1 % 2 ^ 31)).filter (fun p =>
    decide (s.homeKind t p ≠ 0 ∧ s.homeKind t p ≠ dest))

/-- The next home of a page on its way: a page leaves one distant home for another through a local frame (11 Table 11-2). -/
def movpHop (kind dest : Nat) : Nat := if kind = 1 then dest else 1

/-- One turn of MOVP: a move is asked for each page, and the instruction ends when none is left. (DEDUCED, log 23.) -/
def State.movpStep (s : State) (n t lo hi dest total : Nat) : State :=
  let left := (s.movpLeft t lo hi dest).filter (fun p => !(decide (dest = 2) && (s.lenderFrame t).isNone && !(s.tt t).moves.any (fun m => decide (m.lpage = p))))
  if left.isEmpty then s.finishR n .ok (BitVec.ofNat 64 (total - (s.movpLeft t lo hi dest).length))
  else
    let s := left.foldl (fun s p => s.wantMove t p (s.pageSess t p) (movpHop (s.homeKind t p) dest) false) s
    s.setTt t { s.tt t with moves := (s.tt t).moves.map (fun m => if left.contains m.lpage then { m with movp := true } else m) }

/-- MOVP (13 R402). The row runs again for a MOVP under way. -/
def execMovp (ctx : Nat) (s : State) : Run :=
  .next (match (s.ctx ctx).long with
    | some (_, .movp _ t lo hi dest total) => s.movpStep ctx t lo hi dest total
    | _ => s.issue ctx 0x33 (fun s i =>
      let dest := fld i.word 21 20
      match s.rangeAB ctx i 4096 0x4000_0000 with
      | none => s.fail ctx i .range
      | some (e, t, lo, hi) =>
        if dest = 0 ∨ !e.tiered then s.fail ctx i .range
        else
          let need := (s.movpLeft t (lo / 4096) (hi / 4096) dest).length
          let r := s.resvOf (iSess i.word) t
          let quota := if dest = 1 then r.frames else if dest = 2 then r.nframes else r.fopages
          if 0 < need ∧ (quota < s.homed t (iSess i.word) dest + need ∨ (dest = 2 ∧ (s.lenderFrame t).isNone)) then s.fail ctx i .resv
          else ((s.startLong ctx i (.movp (iSess i.word) t (lo / 4096) (hi / 4096) dest need)).pendRec ctx i).movpStep ctx t (lo / 4096) (hi / 4096) dest need))

/-- FLASH_ONLY_HOME (09 R286; 11 R335): a flash-only page that an access, a schedule or an instruction wants is read from flash into
a local frame. -/
def execFlashOnlyHome (tile lpage : Nat) (s : State) : Run :=
  .next (match (s.tt tile).moves.find? (fun m => decide (m.lpage = lpage ∧ m.dest = 1)) with
    | some m => if s.homeKind tile lpage = 3 then s.doMove tile m else s
    | none => s)

/-! ### Stream schedules -/

/-- Pages of session offset lie within extents of the session on one tile: the tile (11 R349). -/
def State.pagesTile (s : State) (n : Nat) : Nat → Nat → Nat → Option Nat → Option Nat
  | 0, _, _, _ => none
  | k + 1, p, len, t =>
    match (s.sess n).exts.find? (fun e => e.2.defined && decide (e.2.start ≤ p * 4096 ∧ p * 4096 < e.2.start + e.2.len)) with
    | none => none
    | some e =>
      let u := e.2.dpa / 2 ^ 43
      if (match t with | some v => decide (v ≠ u) | none => false) then none
      else if (p + len) * 4096 ≤ e.2.start + e.2.len then some u
      else s.pagesTile n k ((e.2.start + e.2.len) / 4096) (p + len - (e.2.start + e.2.len) / 4096) (some u)

/-- A list of region descriptors: word 0, and PAGES of word 1 (11 Table 11-6). -/
def regionList : List Word → List (Nat × Nat)
  | a :: b :: l => (a.toNat, fld b 31 0) :: regionList l
  | _ => []

/-- The regions of a schedule do not overlap (11 R349). -/
def regionsApart (l : List (Nat × Nat)) : Bool :=
  l.zipIdx.all (fun a => (l.zipIdx.filter (fun b => decide (a.2 < b.2))).all (fun b =>
    decide (regionStart a.1 + a.1.2 ≤ regionStart b.1 ∨ regionStart b.1 + b.1.2 ≤ regionStart a.1)))

/-- PFSC (13 R403). -/
def execPfsc (ctx : Nat) (s : State) : Run :=
  .next (s.issue ctx 0x34 (fun s i =>
    let n := iSess i.word
    let h := i.data.getD 0 0
    let j := fld h 2 0
    let old := Store.read (s.sess n).scheds j {}
    let new := regionList (i.data.drop 1)
    let regs := if iXf i.word then old.regions ++ new else new
    let total := fld h 42 32
    let same := decide (old.total = total ∧ old.cyclic = bit h 16 ∧ old.depth = fld h 12 8) && old.defined
    if !(s.sess n).isOpen then s.fail ctx i .range
    else if total = 0 ∨ 1024 < total ∨ fld h 12 8 = 0 ∨ 16 < fld h 12 8 ∨ total < regs.length ∨ (iXf i.word && !same)
        ∨ !new.all (fun r => decide (0 < r.2) && (s.pagesTile n 64 (regionStart r) r.2 none).isSome) ∨ !regionsApart regs then s.fail ctx i .range
    else if old.running then s.fail ctx i .resv
    else
      let y : Sched := { regions := regs, total, cyclic := bit h 16, depth := fld h 12 8, defined := true }
      (s.setSess n { s.sess n with scheds := Store.write (s.sess n).scheds j y {} }).done ctx i (BitVec.ofNat 64 regs.length)))

/-- A page lies in a region of a schedule of its session. -/
def State.schedPage (s : State) (n : Nat) (x : Sched) (t p : Nat) : Bool :=
  match s.offOfPage t p with
  | some (m, q) => decide (m = n) && x.regions.any (fun r => regionHas r q)
  | none => false

/-- PFGO (13 R404): start, or stop with the moves that have not started cancelled. -/
def execPfgo (ctx : Nat) (s : State) : Run :=
  .next (s.issue ctx 0x35 (fun s i =>
    let n := iSess i.word
    let j := fld i.word 18 16
    let x := Store.read (s.sess n).scheds j {}
    let put := fun (s : State) (y : Sched) => s.setSess n { s.sess n with scheds := Store.write (s.sess n).scheds j y {} }
    if !(s.sess n).isOpen then s.fail ctx i .range
    else if bit i.word 20 then
      if x.running then s.completeR ctx i .idle 0
      else if !x.defined ∨ x.regions.length ≠ x.total then s.fail ctx i .range
      else (put s { x with running := true, current := none }).done ctx i 0
    else if !x.running then s.completeR ctx i .idle 0
    else
      let s := s.tileList.foldl (fun s t => s.setTt t { s.tt t with moves := (s.tt t).moves.filter (fun m =>
        decide (m.dest ≠ 1) || m.demand || m.movp || hMoving (s.homeEntry t m.lpage) || !s.schedPage n x t m.lpage) }) s
      (put s { x with running := false, current := none }).done ctx i 0))

/-! ### Sessions -/

/-- RESULT of SOPEN: the session and the hosting tile. -/
def sopenResult (n tile : Nat) : Word := word [(0, n), (16, tile)]

/-- SOPEN (13 R405). A session that a fence has left without its owner is given the owner that the instruction names (01 Table 1-10). (DESIGN CHOICE, log 27.) -/
def execSopen (ctx : Nat) (s : State) : Run :=
  .next (s.issue ctx 0x40 (fun s i =>
    let n := iSess i.word
    let o := bindWord (i.data.getD 0 0)
    let x := s.sess n
    let rs := resvRecs ((iN i.word - 1) / 6) (i.data.drop 1)
    if !rs.all (fun r => decide (r.1 < s.tiles)) ∨ !decide ((rs.map Prod.fst).Nodup) ∨ !s.portOk o then s.fail ctx i .range
    else if iXf i.word then
      if !x.isOpen ∨ (o ≠ (x.tile, x.link, x.ld) ∧ !x.ownerLost) then s.fail ctx i .range
      else if !rs.all (fun r => s.resvFits n r.1 r.2 && s.resvCovers n r.1 r.2) then s.fail ctx i .resv
      else
        let s := s.setSess n { x with tile := o.1, link := o.2.1, ld := o.2.2, ownerLost := false }
        let s := if (s.ctx n).tile = o.1 then s else s.setCtx n { s.ctx n with tile := o.1, thread := none, ready := s.clock }
        (rs.foldl (fun s r => s.grant n r.1 r.2) s).done ctx i (sopenResult n (s.ctx n).tile)
    else if x.isOpen ∨ !rs.all (fun r => s.resvFits n r.1 r.2) then s.fail ctx i .resv
    else (s.openSess n o (bit i.word 12) rs).done ctx i (sopenResult n o.1)))

/-- The extent handle (13 R406). -/
def extHandle (n e : Nat) : Word := word [(0, n), (12, e)]

/-- The effect of SEXT for each KIND (13 R406). -/
def State.sext (s : State) (n : Nat) (i : Issue) : State :=
  let m := iSess i.word
  let h := i.data.getD 0 0
  let kind := fld h 1 0
  let e := fld h 13 8
  let old := s.ext m e
  let fresh := decide (kind = 1 ∨ kind = 2)
  let x : Ext := if fresh then { defined := true, tiered := decide (kind = 2), start := fld h 45 21 * 2 ^ 21, dpa := (i.data.getD 1 0).toNat, len := (i.data.getD 2 0).toNat } else old
  let bs := bindPairs (i.data.drop (if fresh then 3 else 1))
  let own := if kind = 3 then s.ownWindows m e else []
  let keep := bs.filter (fun b => own.contains b)
  let new := bs.filter (fun b => !own.contains b)
  let s' := if kind = 0 then s.unstageBinds m e [] else if kind = 3 then s.unstageBinds m e keep else s
  let cs := (if kind = 0 then s.unbinds m e [] ++ [.remove m e] else if kind = 3 then s.unbinds m e keep else []) ++ new.map (bindChange m e)
  if !(s.sess m).isOpen then s.fail n i .range
  else if (fresh && (old.defined || s.binds.any (fun b => decide (b.sess = m ∧ b.ext = e ∧ b.state ≠ .released)) || !s.placeOk m x)) || (!fresh && !old.defined) then s.fail n i .range
  else if !s.bindsOk m e x bs keep (decide (kind = 3)) then s.fail n i .range
  else if !s.tierCovered m x && fresh then s.fail n i .resv
  else if !s.windowsFit new then s.fail n i .resv
  else if !cs.isEmpty && (s.ctx n).dropped then (s.noteDrop n).fail n i .late
  else if s.setTaken n || (!cs.isEmpty && !s'.canStage n cs) then s.fail n i .resv
  else
    let s := s'
    let s := if fresh then
        let s := s.setSess m { s.sess m with exts := Store.write (s.sess m).exts e x {} }
        { s with set := { s.set with defined := if s.set.entries.isEmpty then [(m, e)] else (m, e) :: s.set.defined } }
      else s
    (if cs.isEmpty then s else s.stage n i.pl cs).done n i (extHandle m e)

/-- SEXT (13 R406). -/
def execSext (ctx : Nat) (s : State) : Run := .next (s.issue ctx 0x42 (fun s i => s.sext ctx i))

/-- Step 2 for SQOS: what the level may stage, and the lock of `sess.qos` (12 R378; 17 R489). -/
def State.sqosLevel (s : State) (i : Issue) : Bool :=
  s.permits i.pl bSess 1 && (decide (i.pl = 0) || !s.fw.locks.contains (pid bSess 1023 3))

/-- SQOS (13 R407): ga is staged as `sess.qos`. -/
def execSqos (ctx : Nat) (s : State) : Run :=
  .next (s.issueOp ctx 0x43 always (fun s i => s.sqosLevel i) (fun s i =>
    let cs := [Change.field (pid bSess 1023 3) (iSess i.word) 63 0 ((s.ctx ctx).opA i.word).toNat]
    if !(s.sess (iSess i.word)).isOpen then s.fail ctx i .range
    else if (s.ctx ctx).dropped then (s.noteDrop ctx).fail ctx i .late
    else if !s.canStage ctx cs then s.fail ctx i .resv
    else (s.done ctx i 0).stage ctx i.pl cs))

/-- SCLOSE waits for the releases of R77, and then closes the session. -/
def State.scloseStep (s : State) (n m : Nat) : State :=
  if s.allReleased m then (s.closeSess m).finishR n .ok 0 else s

/-- The first part of SCLOSE: the releases are staged and the set is applied with T of its own (13 R408, R397). (DEDUCED, log 24.) -/
def State.sclose (s : State) (n : Nat) (i : Issue) : State :=
  let m := iSess i.word
  let t := s.master + 20000
  if !(s.sess m).isOpen then s.fail n i .range
  else if (s.ctx n).dropped then (s.noteDrop n).fail n i .late
  else if s.setTaken n ∧ s.set.owner ≠ some m then s.fail n i .resv
  else
    let s := if s.set.owner = some m ∧ m ≠ n then s.dropSet else s
    let cs := (s.sess m).exts.foldl (fun l e => l ++ s.unbinds m e.1 []) []
    let s := (s.sess m).exts.foldl (fun s e => s.unstageBinds m e.1 []) s
    if !s.canStage n cs then s.fail n i .resv
    else
      let s := if cs.isEmpty then s else s.stage n i.pl cs
      if s.set.entries.isEmpty then ((s.startLong n i (.sclose m 2)).pendRec n i).scloseStep n m
      else if s.checkSet.isSome then s.fail n i .chkfail
      else if s.tides.any (fun u => decide (t ≤ u.at_ + tideSpace ∧ u.at_ ≤ t + tideSpace)) then s.fail n i .late
      else ((((s.touch true).addTide t s.set.entries (some n))).startLong n i (.sclose m 1)).pendRec n i

/-- SCLOSE (13 R408). The row runs again for a SCLOSE that waits for releases. -/
def execSclose (ctx : Nat) (s : State) : Run :=
  .next (match (s.ctx ctx).long with
    | some (_, .sclose m 2) => s.scloseStep ctx m
    | _ => s.issue ctx 0x41 (fun s i => s.sclose ctx i))

end Sys2Proof.Machine
end

