-- ==== Sys2Proof/Machine/ModeOps.lean ====
section
/-! DEFINITION. What a change of mode does to the requests, the stores not yet acknowledged, the mirror windows and the
conversion laps (02 R53, R55, R551; 07 R187; 10 R300, R304, R313, R319, R322 to R324, R330). -/

namespace Sys2Proof.Machine

/-- The transitions of 02 Table 2-6 that a Spring tide makes. -/
def mayBecome (a b : Mode) : Bool :=
  match a, b with
  | .brup, .rstr | .brup, .main => true
  | .rstr, .actv | .rstr, .solo | .rstr, .mirs => true
  | .actv, .mirs | .actv, .solo => true
  | .mirs, .actv | .mirs, .main => true
  | .solo, .actv | .solo, .main => true
  | .save, .brup => true
  | m, .save => m.serving
  | _, _ => false

/-- The conversion lap of each channel begins, or goes on, in a serving mode (02 Table 2-7 step 13; 07 R187). -/
def State.startLaps (s : State) : State :=
  s.liveTiles.foldl (fun (s : State) t =>
    (List.range 4).foldl (fun (s : State) c =>
      if s.chFenced t c || (s.ic t c).convDone then s else s.setIc t c { s.ic t c with lapRun := true }) s) s

/-- The host requests that wait and that the mode does not serve are violations with cause MODE (02 R44, R55). (DEDUCED, log 38.) -/
def State.refuseWaits (s : State) : State :=
  let bad := fun (w : Wait) => w.req.fromHost && decide (w.why ≠ Why.tideHold) && !s.modeServes w.req.kind w.req.tile w.req.ld
  let ws := s.waits.filter bad
  let same := fun (q r : Req) => decide (q.tile = r.tile ∧ q.link = r.link ∧ q.tag = r.tag ∧ q.whole = r.whole)
  let firsts := (ws.foldl (fun (l : List Wait) w => if l.any (fun v => same v.req w.req) then l else l ++ [w]) [])
  firsts.foldl (fun (s : State) w =>
    match w.req.src with
    | .host v => s.refuseReq v { w.req with hpa := w.req.whole.1 } 3 (some w.req.sess)
    | .ctx _ => s) { s with waits := s.waits.filter (fun w => !bad w) }

/-- The requests of hosts are abandoned without a response (10 R319). -/
def State.abandonHosts (s : State) : State :=
  { s with waits := s.waits.filter (fun w => !w.req.fromHost || decide (w.why = Why.tideHold)),
           unacked := s.unacked.filter (fun u => !u.req.fromHost), groups := [] }

/-- A store or atomic that waits for its receipt is acknowledged: PEND falls and its answer goes (04 R131; 10 R302, R324). -/
def State.ackOne (s : State) (u : Unack) : State :=
  let s := match s.localDfa u.owner u.req.toff with
    | some a => s.decPend u.owner u.req.toff a
    | none => s
  s.answer u.req rOk u.result false .ok

/-- Every store that was placed is acknowledged, and the windows empty (10 R324). -/
def State.ackAll (s : State) : State :=
  let us := s.unacked
  let s := us.foldl State.ackOne { s with unacked := [] }
  let s := s.tileList.foldl (fun (s : State) t => s.setMt t { s.mt t with slots := [], outMsgs := [] }) s
  s.release (fun w => decide (w.why = .window ∨ w.why = .solo ∨ w.why = .pend))

/-- The tiles of a unit that becomes the standby: what they sent is what they have applied, and no window is taken (10
R300, R330). DESIGN CHOICE: the numbering of a tile's stream goes on over a change of roles. -/
def State.becomeStandby (s : State) (synced : Bool) : State :=
  s.tileList.foldl (fun (s : State) t =>
    let x := s.mt t
    s.setMt t { x with slots := [], outMsgs := [], applied := x.lastSeq, received := x.lastSeq, gens := [], store := [], lrsWait := [], ckptWait := none, resync := none, synced }) s

/-- The tiles of a standby that becomes active; after a handover its twin is synced (10 R330). (DESIGN CHOICE, log 63.) -/
def State.becomeActive (s : State) (synced : Bool) : State :=
  s.tileList.foldl (fun (s : State) t =>
    let x := s.mt t
    s.setMt t { x with slots := [], outMsgs := [], seq := (x.applied + 1) % 2 ^ 48, lrsWait := [], ckptWait := none, resync := none, synced }) s

/-- A line in recovery on a standby that leaves MIRS takes step 3 of R192 (10 R312): its readers are answered when the recovery
is tried again. -/
def State.retryRecovery (s : State) : State := s.release (fun w => decide (w.why = .recovery))

/-- The lease of a unit that leaves ACTV for MIRS: after a handover it stays ready to take the lease back, should the witness refuse its twin
(10 R319, R330). -/
def State.becomeFormer (s : State) : State :=
  let l := { s.lease with stopped := false, expired := false, handoverAt := none, released := false }
  { s.abandonHosts with lease := if s.mode.cause = 6 then l else { l with wish := .idle, held := false, waiting := false } }

/-- What follows a change of mode that has held. -/
def State.modeEntered (s : State) (old : Mode) : State :=
  match s.mode.mode with
  | .actv =>
    let s := if old = .mirs then (s.becomeActive (decide (s.mode.cause = 6))).retryRecovery.finishAll (fun op => decide (op = .mrole 1)) .ok (BitVec.ofNat 64 s.epoch) else s
    let s := { s with lease := { s.lease with takeOver := false, stopped := false, twinLeaseLost := false, handoverDone := false, handoverAt := none, released := false, wish := .idle, fbSince := none } }
    let s := s.startLaps.refuseWaits
    if s.lease.twinLost then s.nameMode .solo 5 else s
  | .solo =>
    let s := if old = .actv then s.ackAll else s
    let s := if old = .main then s.tileList.foldl (fun (s : State) t => s.setMt t { s.mt t with synced := false }) s else s
    s.startLaps.refuseWaits
  | .mirs =>
    let s := if old = .actv then
        s.becomeFormer.becomeStandby (decide (s.mode.cause = 6))
      else if old = .main then s.tileList.foldl (fun (s : State) t => s.setMt t { s.mt t with synced := false }) s
      else s
    s.startLaps.refuseWaits.tryTakeOver
  | .brup => (if old = .save then s.returnToBrup else s.resumeStart).refuseWaits
  | .main => ({ s with mode := { s.mode with soloMain := false } }).refuseWaits
  | _ => s.refuseWaits

end Sys2Proof.Machine
end

