-- ==== Sys2Proof/Machine/TideRows.lean ====
section
/-! DEFINITION. The commands of the Spring tide: the swap at the instant, the confirmations, the release, the rollback, and what
the entries of a tide do when it holds (12 R380 to R384; 02 R46, R55, R57, R551; 03 R77; 07 R214 to R217; 11 R333, R342, R346 to
R348; 14 R435; 16 R472; 17 R500). -/

namespace Sys2Proof.Machine

/-! ### What the entries do -/

/-- A capacity event on an LD: kind 0x20 Add Capacity, 0x21 Release Capacity, with the window (03 R77, R101). (PRESUMED, log 43.) -/
def State.dcEvent (s : State) (t d kind w len : Nat) : State :=
  (s.emit (.event t d kind [w, len])).setBar t d { s.bar t d with vec3 := true }

/-- A binding enters the session lookup (03 R77; 04 R107). -/
def State.bindNow (s : State) (n e t k d w : Nat) : State :=
  let len := (s.ext n e).len
  let keep := s.binds.filter (fun (b : Bind) => !(decide (b.state = WinState.released ∧ b.tile = t ∧ b.link = k ∧ b.ld = d)
    && (decide (b.sess = n ∧ b.ext = e) || decide (b.w < w + len ∧ w < b.w + (s.ext b.sess b.ext).len))))
  let b : Bind := { tile := t, link := k, ld := d, sess := n, ext := e, w, since := s.clock }
  ({ s with binds := keep ++ [b] }).dcEvent t d 0x20 w len

/-- A binding is removed: a Release Capacity event is posted (03 R77). A window that the host never accepted is not served, and is released
with the event. (DEDUCED, log 117.) -/
def State.unbindNow (s : State) (n e t k d : Nat) : State :=
  match s.binds.find? (fun b => decide (b.sess = n ∧ b.ext = e ∧ b.tile = t ∧ b.link = k ∧ b.ld = d ∧ b.state ≠ .released)) with
  | some b =>
    let st := if b.state = WinState.offered then WinState.released else .releasing
    let s : State := { s with binds := s.binds.map (fun (c : Bind) => if c = b then { c with state := st, since := s.clock } else c) }
    s.dcEvent t d 0x21 b.w (s.ext n e).len
  | none => s

/-- An extent is removed: its pages become unmapped (13 R406). -/
def State.removeExt (s : State) (n e : Nat) : State :=
  let s := s.unmapExt n e
  s.setSess n { s.sess n with exts := Store.write (s.sess n).exts e { s.ext n e with defined := false } {} }

/-- The loans that a tide changes: tile and number. -/
def loanOfId (tiles id : Nat) : Option (Nat × Nat) :=
  if pidBlock id = bTier ∧ pidInst id < tiles ∧ 0x40 ≤ pidIdx id ∧ pidIdx id < 0x80 then some (pidInst id, (pidIdx id - 0x40) / 4) else none
def State.loansIn (s : State) (es : List Entry) : List (Nat × Nat) :=
  (es.filterMap (fun e => match e.change with | .field id _ _ _ _ => loanOfId s.tiles id | _ => none)).eraseDups

/-- A loan is defined as it was. -/
def sameLoan (a b : State) (t i : Nat) : Bool :=
  decide (a.loanRole t i = b.loanRole t i ∧ a.loanPeer t i = b.loanPeer t i ∧ a.loanFrames t i = b.loanFrames t i ∧ a.loanBase t i = b.loanBase t i)

/-- The old definition of a loan ends: END goes to the other device (11 R348). (DESIGN CHOICE, log 21.) -/
def State.unstageLoan (s : State) (t i : Nat) : State :=
  let x := s.loan t i
  if x.state = 1 ∨ x.state = 2 ∨ x.state = 4 then
    let s := s.mailUnit t i 5 0
    if s.loanRole t i = 2 then (if x.state = 1 then s.setLoan t i { x with state := 5 } else s.endBorrow t i) else s.setLoan t i { x with state := 5 }
  else s

/-- The loan entries of a tide take effect: `b` holds the values in effect before it. -/
def State.loanNow (s : State) (old : List (Nat × Nat × Word)) (es : List Entry) (p : Nat × Nat) : State :=
  let (t, i) := p
  let b := s.restore old
  if sameLoan b s t i then
    let called := es.any (fun e => match e.change with | .field id _ _ _ v => decide (id = pid bTier t (0x40 + 4 * i + 2)) && bit (BitVec.ofNat 64 v) 63 | _ => false)
    if called ∧ s.loanRole t i = 1 ∧ (s.loan t i).state = 2 then
      let n := s.tileP bTier t 2 * 1000
      (s.setLoan t i { s.loan t i with state := 4, since := s.clock, recallEnd := s.clock + n * us, returned := false }).mailUnit t i 3 n
    else s
  else
    let es' := b.unstageLoan t i
    let s : State := { es' with params := s.params }
    if s.loanRole t i = 0 then s.setLoan t i {} else s.setLoan t i { state := 1, since := s.clock }

/-- The home table of a tile takes the length that its tiered extents ask for; its dirty pages keep their bits at their new
places, and entries that are newly covered are marked (01 R21; 08 R222). It keeps its length while frames of the pool or a
pinned extent stand in the way. -/
def State.setHtLen (s : State) (t : Nat) : State :=
  let len := s.htNeed t
  let old := (s.dt t).htLen
  let top := s.htBaseFor t len
  let clash := decide (old < len) && (decide (top < s.pinnedTop t) || (s.tt t).owners.any (fun o => decide (o.1 < 2 ^ 30) && (o.2.valid || o.2.pendRel) && decide (top < (o.1 + 1) * 4096)))
  if s.dfaSize t = 0 ∨ len = old ∨ clash then s
  else
    let x := s.tl t
    let pages := x.dirty.filterMap (s.htPageOf t)
    let rest := x.dirty.filter (fun d => (s.htPageOf t d).isNone)
    let new := (s.home.filter (fun h => decide (h.1 / 2 ^ 31 = t ∧ old ≤ h.1 % 2 ^ 31 * 8 ∧ h.1 % 2 ^ 31 * 8 < len))).map (fun h => h.1 % 2 ^ 31 / 512)
    let fly := x.inflight.filter (fun f => (s.htPageOf t f.page).isNone)
    let s := s.setDt t { s.dt t with htLen := len }
    s.setTl t { x with inflight := fly,
                       dirty := ((pages ++ new).filter (fun n => decide (n * 4096 < len))).foldl (fun (a : List Nat) n => insertNat (s.homeAddr t (n * 4096) / 4096) a) rest }

/-- `dram.fc_ctl` applied: the channels whose bank must change, or that train bank H again (06 R173, Table 6-4). -/
def State.fcNow (s : State) (t : Nat) (v : Word) : State :=
  let cs := (List.range 4).filter (fun c => bit v (8 + c) && !s.chFenced t c)
  if bit v 1 then (s.setDt t { s.dt t with trainQueue := cs }).nextRetrain t
  else s.setDt t { s.dt t with fcToH := bit v 0, fcAt := 0, fcQueue := cs }

/-- `ciph.img_rekey` applied: a new pair in the next free even slot of 4 to 11 (14 R435). -/
def State.rekeyNow (s : State) (t : Nat) : State :=
  match (List.range 4).find? (fun j => decide ((s.keySlot t (4 + 2 * j)).usage = 0)) with
  | some j => s.newImageKey t (4 + 2 * j)
  | none => s

/-- `fw.arb_commit` applied: bits are to be blown up to the SVN of the running image (17 R500). -/
def State.arbNow (s : State) : State :=
  let k := s.svnRun - s.arbCount
  if k = 0 then s else { s with fuse := { s.fuse with arbLeft := k, result := 1, since := s.clock } }

/-- What a staged field does beside its new value. -/
def State.fieldNow (s : State) (id : Nat) (v : Word) : State :=
  let t := pidInst id
  if pidBlock id = bDram ∧ pidIdx id = 0xD then s.fcNow t v
  else if pidBlock id = bCiph ∧ t < s.tiles ∧ pidIdx id = 3 ∧ bit v 0 then s.rekeyNow t
  else if id = pid bFw 1023 5 ∧ bit v 0 then s.arbNow
  else if pidBlock id = bTide then s.tileList.foldl State.recompute s
  else if id = pid bTime 1023 0 then { s with time := { s.time with disciplined := true, lastSync := s.clock } }
  else s

/-- The trigger entries that a tide changes: a new generation and its definition (16 R472). (DEDUCED, log 39.) -/
def State.trigNow (s : State) (inst : Nat) : State :=
  let (t, j) := (inst / 64, inst % 64)
  let x := s.rt t
  let g := (Store.read x.gens j 0 + 1) % 65536
  let ps := (List.range (fld (s.param (pid bRec inst 0) 0) 58 54)).map (fun k => fld (s.param (pid bRec inst (2 + k)) 0) 23 0)
  s.setRt t { x with gens := Store.write x.gens j g 0, defs := x.defs ++ [{ entry := j, gen := g, params := ps }] }
def State.trigsIn (s : State) (old : List (Nat × Nat × Word)) : List Nat :=
  (old.filterMap (fun u => if pidBlock u.1 = bRec ∧ pidInst u.1 < 512 ∧ s.param u.1 u.2.1 ≠ u.2.2 then some (pidInst u.1) else none)).eraseDups

/-- One entry of a tide that holds; fields stand already. -/
def State.entryNow (s : State) (tm : Nat) (c : Change) : State :=
  match c with
  | .field id _ _ _ v => s.fieldNow id (BitVec.ofNat 64 v)
  | .bind n e t k d w => s.bindNow n e t k d w
  | .unbind n e t k d => s.unbindNow n e t k d
  | .remove n e => s.removeExt n e
  | .clearFence c i t => { s.lowerFence c i t tm with boot := { s.boot with tileReset := if c = 0xA then s.boot.tileReset.erase t else s.boot.tileReset } }
  | .mode _ _ => s
  | .raiseFence c i t => s.raiseFence c i t 0x02 3

/-- Every entry of a tide that holds. -/
def State.tideEffects (s : State) (d : Tide) : State :=
  let s := d.changes.foldl (fun (s : State) e => s.entryNow d.at_ e.change) s
  let s := (s.loansIn d.changes).foldl (fun (s : State) p => s.loanNow d.undo d.changes p) s
  let s := (s.trigsIn d.undo).foldl State.trigNow s
  let s := { s with lease := { s.lease with pairIn := s.pairId } }
  s.liveTiles.foldl State.setHtLen s

/-! ### The swap -/

/-- The mode that an entry asks for, and its cause (02 R46, R53, Table 2-2). -/
def State.entryMode (s : State) (c : Change) : Option (Mode × Nat) :=
  match c with
  | .mode m k => if mayBecome s.mode.mode m then some (m, k) else none
  | .field id _ _ _ v =>
    if id = pid bSys 1023 2 ∧ v % 16 ≠ 0xF then
      match Mode.ofCode (v % 16) with
      | some m => if s.mayTarget m then some (m, 2) else none
      | none => none
    else none
  | _ => none

/-- The entry is one of a parameter's field. -/
def Change.isField : Change → Bool
  | .field _ _ _ _ _ => true
  | _ => false

/-- The mode part of a swap. A request for MAIN from SOLO only starts the change (02 R551). -/
def State.swapMode (s : State) (c : Change) : State :=
  match s.entryMode c with
  | some (.save, k) => (if s.set.owner.isSome then s.dropSet else s).enterSave k
  | some (m, k) =>
    if m = .main && decide (s.mode.mode = .solo) && c.isField then { s with mode := { s.mode with soloMain := true } }
    else
      let s : State := if m = .main ∧ s.mode.mode = .brup then { s with boot := { s.boot with atMain := s.boot.done } } else s
      s.setMode m k
  | none => s

/-- The words that the field entries of a tide replace. -/
def State.undoOf (s : State) (es : List Entry) : List (Nat × Nat × Word) :=
  es.filterMap (fun e => match e.change with | .field id n _ _ _ => some (id, n, s.param id n) | _ => none)

/-- Put a tide back into the list, by its name. -/
def State.setTide (s : State) (d : Tide) : State := { s with tides := s.tides.map (fun x => if x.name = d.name then d else x) }

/-- Every unit holds its ingresses and swaps its staged bank (12 R381). (DEDUCED, log 36.) -/
def State.swap (s : State) (d : Tide) : State :=
  let d : Tide := { d with phase := .swapped, undo := s.undoOf d.changes, oldMode := some s.mode, units := s.tideUnits }
  let s := s.setTide d
  let s := d.changes.foldl (fun (s : State) e => s.applyField e.change) s
  d.changes.foldl (fun (s : State) e => s.swapMode e.change) s

/-- The tide in progress: past its instant, its outcome open or its holds not all lifted. -/
def State.tideNow (s : State) : Option Tide := s.tides.find? Tide.passed

/-- On the standby, every tile swaps at the instant of a tide of the active unit and confirms (10 R295). -/
def State.swapTwin (s : State) (d : Tide) : State :=
  let e : Tide := { d with phase := .swapped, undo := s.undoOf d.changes, units := s.liveTiles.map (fun t => ⟨false, t⟩) }
  let s : State := { s with twinTides := s.twinTides.map (fun x => if x.name = d.name then e else x) }
  let s := d.changes.foldl (fun (s : State) e => s.applyField e.change) s
  s.liveTiles.foldl (fun (s : State) t => s.isahar t xTide [BitVec.ofNat 64 d.name]) s

/-- SPRING_TIDE (12 R381): the first named tide whose instant has come; one runs at a time (R383). On the standby, a tide of the
active unit. -/
def execSpringTide (s : State) : Run :=
  .next (match s.twinTides.find? (fun d => !d.passed && decide (d.at_ ≤ s.master)) with
    | some d => s.swapTwin d
    | none =>
      match s.tideNow, leastBy Tide.at_ s.tides with
      | none, some d => if d.at_ ≤ s.master then s.swap d else s
      | _, _ => s)

/-! ### Confirmation, release and rollback -/

/-- A unit that the coordinator waits for (12 R382; 07 R215). -/
def State.unitWaits (s : State) (u : TideUnit) : Bool := if u.standby then !s.lease.twinLost else !s.tileFenced u.tile

/-- The Tidemark by which a confirmation must have come (12 R382). -/
def State.confirmBy (s : State) (d : Tide) (u : TideUnit) : Nat := d.at_ + 8000 + (if u.standby then 4 * (s.mt u.tile).flight else 0)

/-- TIDE_CONFIRM (12 R381): a confirmation that is on time. -/
def execTideConfirm (standby : Bool) (tile : Nat) (s : State) : Run :=
  .next (match s.tideNow with
    | some d =>
      let u : TideUnit := ⟨standby, tile⟩
      if d.phase = .swapped ∧ d.units.contains u ∧ !d.confirmed.contains u ∧ s.master ≤ s.confirmBy d u then s.setTide { d with confirmed := d.confirmed ++ [u] } else s
    | none => s)

/-- The outcome of a tide for the context that waits on it (12 R381, R382; 13 R408). -/
def State.tideOutcome (s : State) (d : Tide) (ok : Bool) : State :=
  match d.ctx with
  | none => s
  | some n =>
    match (s.ctx n).long with
    | some (i, .sclose m _) =>
      if ok then (s.emptySet.setCtx n { s.ctx n with long := some (i, .sclose m 2) }).scloseStep n m
      else { s with set := { s.set with checked := false, touched := s.clock } }.finishLong n .rollbk (BitVec.ofNat 64 d.at_) [] false
    | some (_, .apls) =>
      if ok then s.emptySet.finishR n .ok (BitVec.ofNat 64 d.at_)
      else { s with set := { s.set with checked := false, touched := s.clock } }.finishLong n .rollbk (BitVec.ofNat 64 d.at_) [BitVec.ofNat 64 d.at_] true
    | _ => if ok then s.emptySet else s

/-- `sys.mode_target` reads 0xF after the tide that applied it; a request for MAIN from SOLO stays until MAIN (02 R46, R551). -/
def State.clearTarget (s : State) : State := if s.mode.soloMain then s else s.setParam (pid bSys 1023 2) 0 0xF

/-- A save that was committed while a tide was past its instant names its own now (02 R57). -/
def State.followSave (s : State) : State :=
  match s.save.run with
  | some r => if r.instant.isNone ∧ !s.saveNamed then s.nameSaveTide else s
  | none => s

/-- Every unit has confirmed: the tide holds. -/
def State.tideHeld (s : State) (d : Tide) : State :=
  let s := (s.setTide { d with phase := .released }).tellTide d.name .release
  let s := s.tideEffects d
  let old := match d.oldMode with | some m => m.mode | none => s.mode.mode
  let s := if (s.mode.mode ≠ old ∨ s.mode.soloMain) ∧ s.mode.mode ≠ .save then s.modeEntered old else s
  (s.clearTarget.tideOutcome d true).followSave

/-- The release reaches a unit, which lifts its holds (12 R381). A tide whose last hold is lifted ends. -/
def State.liftHold (s : State) (d : Tide) (u : TideUnit) : State :=
  let us := d.units.filter (fun v => decide (v ≠ u) && s.unitWaits v)
  let s := if us.isEmpty then { s with tides := s.tides.filter (fun x => decide (x.name ≠ d.name)) } else s.setTide { d with units := us }
  if !u.standby && !s.tideStops u.tile then s.letIn u.tile else s

/-- TIDE_RELEASE (12 R381, R382): once every unit that is not fenced has confirmed, or has swapped back. -/
def execTideRelease (standby : Bool) (tile : Nat) (s : State) : Run :=
  .next (match s.tideNow with
    | some d =>
      let u : TideUnit := ⟨standby, tile⟩
      if !d.units.contains u then s
      else if d.phase = .swapped then
        if d.units.all (fun v => !s.unitWaits v || d.confirmed.contains v) then
          let s := s.tideHeld d
          match s.tides.find? (fun x => decide (x.name = d.name)) with
          | some d => s.liftHold d u
          | none => s
        else s
      else if d.phase = .released ∨ d.phase = .backSwapped then s.liftHold d u
      else s
    | none => s)

/-- A late unit is fenced with cause 0x02; a late standby tile takes every twin path with it (12 R382; 10 R295). -/
def State.fenceLate (s : State) (u : TideUnit) : State :=
  if u.standby then s.tileList.foldl (fun (s : State) t => (s.raiseFence 0x8 0 t 0x02 3).raiseFence 0x8 1 t 0x02 3) s
  else s.raiseFence 0xA 0 u.tile 0x02 3

/-- The tide enters SAVE, which no late unit turns back (02 R55). -/
def Tide.toSave (d : Tide) : Bool := d.changes.any (fun e => match e.change with | .mode .save _ => true | _ => false)

/-- TIDE_CONFIRM_DEADLINE (12 R382; 02 R55). -/
def execTideConfirmDeadline (s : State) : Run :=
  .next (match s.tideNow with
    | some d =>
      let late := d.units.filter (fun u => s.unitWaits u && !d.confirmed.contains u && decide (s.confirmBy d u < s.master))
      if d.phase ≠ .swapped ∨ late.isEmpty then s
      else
        let s := s.setTide (if d.toSave then { d with late, units := d.units.filter (fun u => !late.contains u) } else { d with phase := .swapBack, late })
        late.foldl State.fenceLate s
    | none => s)

/-- The tide out of SAVE has swapped back: the device, whose save is complete, names another (02 R55). (DEDUCED, log 128.) -/
def State.leaveAgain (s : State) : State :=
  match s.save.run with
  | some r => if s.mode.mode = .save ∧ r.instant.isSome ∧ s.saveEnded r ∧ !s.shutting then s.endSave r else s
  | none => s

/-- SWAP_BACK (12 R382): at T + 8 µs the units take their old values and mode again; APLS completes with ROLLBK. -/
def execSwapBack (s : State) : Run :=
  .next (match s.tideNow with
    | some d =>
      if d.phase = .swapBack ∧ d.at_ + 32000 ≤ s.master then
        let s := s.restore d.undo
        let s : State := { s with mode := match d.oldMode with
          | some m => { s.mode with mode := m.mode, prev := m.prev, cause := m.cause, stamp := m.stamp, soloMain := m.soloMain }
          | none => s.mode }
        ((((s.setTide { d with phase := .backSwapped }).tellTide d.name .rollback).tideOutcome d false).followSave).leaveAgain
      else s
    | none => s)

/-- MAIN_ENTRY (02 R551): D is 0 on every tile after a request for MAIN from SOLO. -/
def execMainEntry (s : State) : Run :=
  .next (if s.mode.soloMain ∧ s.mode.mode = .solo ∧ s.tileList.all (fun t => decide (s.dirtyCount t = 0)) then s.nameMode .main 2 else s)

end Sys2Proof.Machine
end

