-- ==== Sys2Proof/Machine/HostRows.lean ====
section
/-! DEFINITION. The host ports: links and resets, configuration and decoders, dynamic capacity, the mailbox of a logical device,
link encryption, and the BAR0 doorbell and status window (03 R67 to R103; 02 R50, R64). -/

namespace Sys2Proof.Machine

/-! ### Links -/

/-- A link of the port of a tile as it was configured at the cold start (03 R67). -/
def State.hasLink (s : State) (t k : Nat) : Bool := decide (t < s.tiles ∧ k < s.linkCount t)

/-- A link can train: the tile is out of reset and in service, the device is neither down nor saving, PERST_L is not asserted
(02 Table 2-7; 03 R67 to R70; 19 R542). -/
def State.mayTrain (s : State) (t k : Nat) : Bool :=
  s.hasLink t k && decide (s.mode.mode ≠ .stby ∧ s.mode.mode ≠ .save) && !s.mode.leaving && !s.mode.recovery && !(s.link t k).perst && s.boot.done.contains 3
    && (!s.tileFenced t || s.boot.tileReset.contains t) && !s.fenced 0x7 k t && !s.tap.scanHold

/-- HOST_LINK_TRAINED (03 R68, R69): the rate is the highest that both partners and `port.link_rate_max` allow; `partner` is the
rate code of the link partner, `width` the lanes that train. -/
def execHostLinkTrained (tile link partner width : Nat) (s : State) : Run :=
  .next (if s.mayTrain tile link ∧ [1, 2, 4, 8, 16].contains width ∧ width * s.linkCount tile ≤ 16 then
    s.setLink tile link { s.link tile link with up := true, hot := false, rate := min (min partner 3) (s.tileP bPort tile (4 + link)), width,
                                                heldRwD := false, heldReq := false, heldFor := [], keptRwD := 0, keptReq := 0 }
  else s)

/-- The key slots of a link's IDE streams (14 Table 14-4). (DEDUCED, log 44.) -/
def ideSlots (k : Nat) : List Nat := (List.range 8).map (fun j => 16 + 8 * k + j)

/-- Clear key slots of a tile. -/
def State.clearSlots (s : State) (t : Nat) (ks : List Nat) : State :=
  ks.foldl (fun (s : State) k => s.setKey t k { installs := (s.keySlot t k).installs }) s

/-- An SPDM secure session of an LD ends, and the transport KEK with it (03 R90; 14 Table 14-4). -/
def State.endSpdm (s : State) (t d : Nat) : State :=
  if (s.bar t d).spdm then
    let s := s.setBar t d { s.bar t d with spdm := false, spdmKey := 0 }
    s.tileList.foldl (fun (s : State) t => s.clearSlots t [2]) s
  else s

/-- A store that has been placed and not acknowledged is taken back (02 R50): its bytes get back what they held before it, but for those that
a later store to the line has written since; such a store, if it is not acknowledged either, then holds them as what was there before it. The
line so restored is stored, here and at the twin, as the device's own store. (DESIGN CHOICE, log 40.) -/
def State.withdraw (s : State) (u : Unack) : State :=
  let t := u.owner
  let off := u.req.toff / 64 * 64
  let same := fun (v : Unack) => decide (v.owner = t ∧ v.req.toff / 64 = u.req.toff / 64)
  let later := (s.unacked.dropWhile (fun v => decide (v ≠ u))).drop 1
  let s := match s.localDfa t off with
    | some a => s.decPend t off a
    | none => s
  match u.before, s.localDfa t off with
  | some (l, p), some a =>
    let (m, us) := later.foldl (fun (x : Mask × List Unack) v =>
      if same v then
        (x.1 &&& ~~~ v.req.writes, x.2 ++ [{ v with before := v.before.map (fun b => (Line.overlay b.1 l (x.1 &&& v.req.writes), if u.req.wide then p else b.2)) }])
      else (x.1, x.2 ++ [v])) (u.req.writes &&& ~~~ u.kept, [])
    let s : State := { s with unacked := s.unacked.takeWhile (fun v => decide (v ≠ u)) ++ us }
    if m = 0 then s
    else
      let now := s.newest t off a
      s.serveReq { u.req with src := .ctx noCtx, kind := .store, mask := Mask.full, data := Line.overlay now.1 l m,
                              poison := if u.req.isStore && u.req.wide then p else now.2, zln := false } none
  | _, _ => { s with unacked := s.unacked.erase u }

/-- The port reset of a link (02 R50, Table 2-5): the requests received on it are discarded without response, those of its stores that are
placed and not acknowledged are taken back, the last first, and the configuration space of its LDs is reset. (DESIGN CHOICE, log 40.) -/
def State.portReset (s : State) (t k : Nat) : State :=
  let mine := fun (r : Req) => r.fromHost && decide (r.tile = t ∧ r.link = k)
  let s : State := { s with waits := s.waits.filter (fun w => !mine w.req),
                            groups := s.groups.filter (fun g => decide (¬ (g.tile = t ∧ g.link = k))) }
  let s := (s.unacked.reverse.filter (fun u => mine u.req)).foldl State.withdraw s
  let s := ((List.range 16).filter (fun d => decide (s.ldLink t d = k))).foldl
    (fun (s : State) d => let s := s.endSpdm t d; s.setBar t d { s.bar t d with decoders := [], vc1 := false, base := none }) s
  let s := s.clearSlots t (ideSlots k)
  let s := s.setLink t k { perst := (s.link t k).perst, hot := (s.link t k).hot }
  State.settle (2 * s.waits.length + 2) s

/-- PERST_L has an effect in this mode (02 R50). -/
def State.portsLive (s : State) : Bool := decide (s.mode.mode ≠ .stby ∧ s.mode.mode ≠ .save)

/-- PERST_ASSERT (02 R50). -/
def execPerstAssert (tile link : Nat) (s : State) : Run :=
  .next (if tile < s.tiles ∧ link < 4 then
    let s := s.setLink tile link { s.link tile link with perst := true }
    if s.portsLive ∧ s.hasLink tile link then s.portReset tile link else s
  else s)

/-- PERST_DEASSERT (19 R536): the link may train. -/
def execPerstDeassert (tile link : Nat) (s : State) : Run :=
  .next (if tile < s.tiles ∧ link < 4 then s.setLink tile link { s.link tile link with perst := false } else s)

/-- HOT_RESET (03 R70): an in-band hot reset, or a link-down that the device did not cause. -/
def execHotReset (tile link : Nat) (s : State) : Run :=
  .next (if s.portsLive ∧ s.hasLink tile link ∧ (s.link tile link).up then
    (s.setLink tile link { s.link tile link with hot := true }).portReset tile link
  else s)

/-! ### Configuration, GPF and decoders -/

/-- The link carries CXL.io traffic for an LD. (PRESUMED, log 46.) -/
def State.ioUp (s : State) (t k : Nat) : Bool :=
  decide (t < s.tiles) && (s.link t k).up && !(s.link t k).perst && !(s.link t k).hot && !s.tileFenced t && !s.fenced 0x7 k t && s.portsLive && !s.mode.leaving && !s.mode.recovery

/-- An LD can be reached over its link (03 R73). -/
def State.ldUp (s : State) (t d : Nat) : Bool := decide (d < 16 ∨ d = fmLd) && decide (s.ldLink t d < 4) && s.ioUp t (s.ldLink t d) && !s.fenced 0x7 (16 + d) t

/-- What a register of the configuration space of an LD holds (00 Table 0-1; 03 Table 3-3, R82, R87, R98). How PCIe and CXL place the
fields is outside the spec. (PRESUMED, log 46.) -/
def State.cfgWord (s : State) (t d : Nat) (r : CfgReg) : Word :=
  match r with
  | .ids => 0x8840EF50
  | .bar0 => BitVec.ofNat 64 ((s.bar t d).base.getD 0)
  | .flr => 0
  | .msix => 4
  | .aer => 1
  | .dvsec => 6
  | .locator => 0
  | .ptm => BitVec.ofNat 64 (b01 (decide (fld (s.param (pid bTime 1023 1) 0) 10 8 = t ∧ fld (s.param (pid bTime 1023 1) 0) 1 0 = s.ldLink t d)))
  | .vc1 => word [(0, b01 (s.bar t d).vc1), (8, 2), (16, 2), (24, 2), (32, 2)]
  | .gpf => 10000
  | .sriov => 0

/-- CONFIGURATION_REQUEST (02 R64, Table 2-7): Configuration Request Retry Status until step 5 has ended; then a read of a register, or a
write that enables VC1 (03 R82) or places BAR0 (03 R98). -/
def execConfigurationRequest (tile link ld tag : Nat) (request : CfgReq) (s : State) : Run :=
  .next (if s.ioUp tile link then
    if s.ldLink tile ld ≠ link ∨ 16 ≤ ld then s.emit (.response tile link tag rUnsupported 0 false)
    else if !s.boot.done.contains 5 then s.emit (.response tile link tag rRetry 0 false)
    else match request with
      | .read r => s.emit (.response tile link tag rOk ((s.cfgWord tile ld r).setWidth 512) false)
      | .vc1 v => (s.setBar tile ld { s.bar tile ld with vc1 := v }).emit (.response tile link tag rOk 0 false)
      | .bar0 h => (s.setBar tile ld { s.bar tile ld with base := some (h / 0x40000 * 0x40000) }).emit (.response tile link tag rOk 0 false)
  else s)

/-- GPF_PHASE_1 (03 R87). -/
def execGpfPhase1 (tile link tag : Nat) (s : State) : Run :=
  .next (if s.ioUp tile link then s.emit (.response tile link tag rOk 0 false) else s)

/-- GPF_PHASE_2 (03 R87): it completes within 10 µs, starts no save and drains nothing. -/
def execGpfPhase2 (tile link tag : Nat) (s : State) : Run :=
  .next (if s.ioUp tile link then s.emit (.response tile link tag rOk 0 false) else s)

/-- The granularities of a decoder (03 Table 3-3). -/
def decoderGrans : List Nat := (List.range 7).map (fun i => 256 * 2 ^ i)

/-- HDM_DECODER_COMMIT (03 R75, Table 3-3): 4 decoders per LD; `port.hdm_ira` is read when one commits. -/
def execHdmDecoderCommit (tile ld decoder base size : Nat) (ways : HdmWays) (gran : Nat) (s : State) : Run :=
  .next (if s.ldUp tile ld ∧ decoder < 4 then
    let ok := [1, 2, 4, 8, 16].contains ways.ways && decoderGrans.contains gran
    let d : Decoder := { base, size, ways := ways.ways, gran, pos := ways.pos, ira := decide (s.tileP bPort tile (0x30 + ld) = 1), committed := ok, err := !ok }
    s.setBar tile ld { s.bar tile ld with decoders := Store.write (s.bar tile ld).decoders decoder d {} }
  else s)

/-! ### Dynamic capacity (03 R77) -/

/-- The windows of an LD at a window start, in a state. -/
def bindAt (b : Bind) (t d w : Nat) (st : WinState) : Bool := decide (b.tile = t ∧ b.ld = d ∧ b.w = w ∧ b.state = st)

/-- The contexts that wait in SCLOSE for the releases of a session go on when the last has come. -/
def State.pollClose (s : State) : State :=
  s.ctxNums.foldl (fun (s : State) n => match (s.ctx n).long with | some (_, .sclose m 2) => s.scloseStep n m | _ => s) s

/-- ADD_DYNAMIC_CAPACITY_RESPONSE (03 R77). -/
def execAddDynamicCapacityResponse (tile ld window : Nat) (s : State) : Run :=
  .next (if s.ldUp tile ld then
    { s with binds := s.binds.map (fun (b : Bind) => if bindAt b tile ld window .offered then { b with state := .accepted, since := s.clock } else b) }
  else s)

/-- A window that is being released is released. -/
def State.releaseWindow (s : State) (t d w : Nat) : State :=
  ({ s with binds := s.binds.map (fun (b : Bind) => if bindAt b t d w .releasing then { b with state := .released, since := s.clock } else b) }).pollClose

/-- RELEASE_DYNAMIC_CAPACITY (03 R77). -/
def execReleaseDynamicCapacity (tile ld window : Nat) (s : State) : Run :=
  .next (if s.ldUp tile ld ∧ s.binds.any (fun b => bindAt b tile ld window .releasing) then s.releaseWindow tile ld window else s)

/-- DC_RELEASE_TIMEOUT (03 R77): a severity 4 event and an FM-API event. -/
def execDcReleaseTimeout (tile ld window : Nat) (s : State) : Run :=
  .next (if s.binds.any (fun b => bindAt b tile ld window .releasing && s.due b.since (s.tileP bPort tile 1 * sec)) then
    ((s.releaseWindow tile ld window).log tile 4 bPort tile 0x03 1 window).emit (.event tile ld 0x22 [window])
  else s)

/-! ### The mailbox of an LD -/

/-- Return codes of the CXL mailbox: success, invalid input, unsupported. PRESUMED: the codes and opcodes are those of CXL 3.1. -/
abbrev mbOk := 0
abbrev mbInvalid := 2
abbrev mbUnsupported := 3

/-- The poisoned lines in the windows of an LD, in decoded-address space (03 R86). -/
def State.poisonOf (s : State) (t d : Nat) : List Nat :=
  (s.binds.filter (fun b => decide (b.tile = t ∧ b.ld = d ∧ b.state ≠ .offered ∧ b.state ≠ .released))).flatMap (fun b =>
    let e := s.ext b.sess b.ext
    let y := e.dpa / 2 ^ 43
    ((s.it y).poison.filter (fun o => decide (e.dpa % 2 ^ 43 ≤ o ∧ o < e.dpa % 2 ^ 43 + e.len))).map (fun o => b.w + (o - e.dpa % 2 ^ 43)))

/-- The answer to Get Poison List: the overflow flag, and up to 256 addresses (03 R86). (PRESUMED, log 42.) -/
def State.sendPoisonList (s : State) (t d : Nat) : State :=
  let l := s.poisonOf t d
  let full := decide (256 < l.length) || s.tileList.any (fun y => (s.it y).overflow)
  s.emit (.mailbox t d 0x4300 mbOk ((if full then 1 else 0) :: (l.take 256).map (BitVec.ofNat 64)))

/-- GET_POISON_LIST (03 R86). -/
def execGetPoisonList (tile ld : Nat) (s : State) : Run :=
  .next (if s.ldUp tile ld then s.sendPoisonList tile ld else s)

/-- A full-line store of the device's own to a decoded address of an LD (03 R86). -/
def State.mailStore (s : State) (t d a op : Nat) (data : Line) (poison : Bool) : State :=
  if !s.isMgmt t d then s.emit (.mailbox t d op mbUnsupported [])
  else match s.window t (s.ldLink t d) d a with
    | none => s.emit (.mailbox t d op mbInvalid [])
    | some b =>
      if b.state = .offered ∨ b.state = .released then s.emit (.mailbox t d op mbInvalid [])
      else if !s.servesStores then s.emit (.mailbox t d op mbUnsupported [])
      else
        let e := s.ext b.sess b.ext
        let r : Req := s.withTarget { src := .ctx noCtx, kind := .store, tile := t, link := s.ldLink t d, ld := d, tag := 0, hpa := 0,
                                      mask := Mask.full, data, poison, stamp := s.localCount t, since := s.clock, sess := b.sess,
                                      off := e.start + (a / 64 * 64 - b.w), dpa := e.dpa + (a / 64 * 64 - b.w), tiered := e.tiered,
                                      pl := s.ldLevel t d, order := 4 }
        (s.emit (.mailbox t d op mbOk [])).serveReq r none

/-- INJECT_POISON (03 R86): on the management LD a line becomes poisoned. -/
def execInjectPoison (tile ld addr : Nat) (s : State) : Run :=
  .next (if s.ldUp tile ld then s.mailStore tile ld addr 0x4301 0 true else s)

/-- CLEAR_POISON (03 R86): on the management LD a line's poison is cleared, with the data of the command. -/
def execClearPoison (tile ld addr : Nat) (data : Line) (s : State) : Run :=
  .next (if s.ldUp tile ld then s.mailStore tile ld addr 0x4302 data false else s)

/-- Memory_Active (02 Table 2-1): 1 in ACTV and SOLO, and in RSTR on a unit that serves; 0 in every other mode. -/
def State.memActive (s : State) : Bool := decide (s.mode.mode = .actv ∨ s.mode.mode = .solo) || s.servesReads

/-- The answer to Get Health Info: the Dirty Shutdown Count (03 R88), and Media Status (02 R44), 1 ready. -/
def State.sendHealth (s : State) (t d : Nat) : State :=
  s.emit (.mailbox t d 0x4200 mbOk [BitVec.ofNat 64 s.save.dirtyShutdowns, BitVec.ofNat 64 (b01 s.memActive)])

/-- GET_HEALTH_INFO (03 R88). -/
def execGetHealthInfo (tile ld : Nat) (s : State) : Run :=
  .next (if s.ldUp tile ld then s.sendHealth tile ld else s)

/-- The mailbox commands that report: Identify, whose static capacity is 0, and the dynamic capacity region of an LD, with base, length,
block size and the non-volatile attribute (03 R76); Get Health Info; Get Poison List; and, for the fabric manager on the management LD, its
oldest violation record, and the dropping of that record (03 R96). Another opcode is unsupported. (PRESUMED, log 42.) -/
def State.mailRead (s : State) (t d op : Nat) : State :=
  match op with
  | 0x4000 => s.emit (.mailbox t d op mbOk [0])
  | 0x4800 => s.emit (.mailbox t d op mbOk [0, BitVec.ofNat 64 (s.tiles * 2 ^ 43), 0x200000, 1])
  | 0x4200 => s.sendHealth t d
  | 0x4300 => s.sendPoisonList t d
  | 0x0100 => if s.isMgmt t d then s.emit (.mailbox t d op mbOk (s.mgmt.viols.headD [])) else s.emit (.mailbox t d op mbUnsupported [])
  | 0x0101 =>
    if s.isMgmt t d then ({ s with mgmt := { s.mgmt with viols := s.mgmt.viols.drop 1 } }).emit (.mailbox t d op mbOk [])
    else s.emit (.mailbox t d op mbUnsupported [])
  | _ => s.emit (.mailbox t d op mbUnsupported [])

/-! ### Link encryption (03 R89, R90) -/

/-- A fresh key goes into a slot (14 Table 14-4). -/
def State.installFresh (s : State) (t k usage : Nat) : State :=
  let (key, s) := s.drawKey
  s.setKey t k { usage, key, installs := ((s.keySlot t k).installs + 1) % 65536 }

/-- IDE_KM (03 R89): in an SPDM secure session, keys of one key set for the streams of a link; containment mode is refused. -/
def execIdeKm (tile ld keySet : Nat) (containment : Bool) (s : State) : Run :=
  .next (if s.ldUp tile ld ∧ (s.bar tile ld).spdm then
    let k := s.ldLink tile ld
    if containment then s.emit (.mailbox tile ld 0x1DE mbUnsupported [])
    else
      let s := (List.range 4).foldl (fun (s : State) j => s.installFresh tile (16 + 8 * k + 2 * j + keySet % 2) 4) s
      (s.setLink tile k { s.link tile k with ide := .secure }).emit (.mailbox tile ld 0x1DE mbOk [])
  else s)

/-- IDE_INTEGRITY_FAIL (03 R89): the stream is insecure, and the link accepts no CXL.mem. -/
def execIdeIntegrityFail (tile link : Nat) (s : State) : Run :=
  .next (if s.hasLink tile link ∧ (s.link tile link).ide = .secure then
    (s.setLink tile link { s.link tile link with ide := .insecure }).log tile 5 bPort tile 0x08 0 link
  else s)

/-- A certificate slot may be provisioned: slot 0 in MFG, the others on the management LD (03 R90). -/
def State.mayProvision (s : State) (t d k : Nat) : Bool := if k = 0 then decide (s.life = .mfg) else decide (k < 8) && s.isMgmt t d

/-- What the SPDM responder is asked (03 R90): `.opens` names the owner slot that the requester was authenticated against. The exchange of
ECDSA P-384 with SHA-384 that comes before is not computed; what it agrees on, the AES-256-GCM key of the session, is a free value.
(DESIGN CHOICE, log 114.) -/
def State.spdm (s : State) (t d : Nat) (q : Spdm) : State × Nat × List Word :=
  match q with
  | .opens owner =>
    let (k, s) := s.drawKey
    let s := s.setBar t d { s.bar t d with spdm := true, spdmKey := k }
    match owner with
    | some k => if s.ownerOk k then (s.tileList.foldl (fun (s : State) t => s.installFresh t 2 1) s, mbOk, []) else (s, mbOk, [])
    | none => (s, mbOk, [])
  | .closes => (s.endSpdm t d, mbOk, [])
  | .provision k cert =>
    if s.mayProvision t d k then ({ s with fw := { s.fw with certs := Store.write s.fw.certs k cert [] } }, mbOk, []) else (s, mbUnsupported, [])
  | .certificate k =>
    let c := Store.read s.fw.certs k []
    (s, if c.isEmpty then mbInvalid else mbOk, c)

/-- SPDM_REQUEST (03 R90). -/
def execSpdmRequest (tile ld : Nat) (request : Spdm) (s : State) : Run :=
  .next (if s.ldUp tile ld then
    let (s, code, data) := s.spdm tile ld request
    s.emit (.mailbox tile ld 0x5BD code data)
  else s)

/-! ### BAR0 -/

/-- One more stray write of an LD (03 R100, R102). -/
def State.strayWrite (s : State) (t d : Nat) : State := s.setBar t d { s.bar t d with stray := (s.bar t d).stray + 1 }

/-- A write of SQ_DOORBELL (03 R99, R102). -/
def State.ringDoorbell (s : State) (t d : Nat) (value : Word) : State :=
  if (s.ldCtx t d).isNone then s.strayWrite t d
  else
    let b := s.bar t d
    let tail := fld value 9 0
    if (tail + 1024 - b.sqHead) % 1024 ≤ (b.sqTail + 1024 - b.sqHead) % 1024 then s
    else (s.setBar t d { b with sqTail := tail, sqWait := b.sqWait ++ [(tail, fld value 18 16)] }).moveRing t d

/-- SQ_DOORBELL (03 R99): `items` are what the host has written at its tail since the last doorbell. -/
def execSqDoorbell (tile ld : Nat) (value : Word) (items : List Word) (s : State) : Run :=
  .next (if s.ldUp tile ld then
    let b := s.bar tile ld
    let sq := (List.range items.length).foldl (fun (q : Store Word) i => Store.write q ((b.sqTail + i) % 1024) (items.getD i 0) 0) b.sq
    (if (s.ldCtx tile ld).isNone then s else s.setBar tile ld { b with sq }).ringDoorbell tile ld value
  else s)

/-- A write of CMD_DOORBELL (03 R100, R102): GO submits CMD_ITEM0, and CMD_ITEM1 when EXT = 1. -/
def State.cmdGo (s : State) (t d : Nat) (value : Word) : State :=
  if (s.ldCtx t d).isNone then s.strayWrite t d
  else if !bit value 0 then s
  else if (s.bar t d).cmdBusy then s.strayWrite t d
  else (s.setBar t d { s.bar t d with cmdExt := bit value 1, cmdBusy := true }).moveCmd t d

/-- CMD_DOORBELL (03 R100): the item registers and then the doorbell, as they stand. A GO that is ignored leaves them. -/
def execCmdDoorbell (tile ld : Nat) (value item0 item1 : Word) (s : State) : Run :=
  .next (if s.ldUp tile ld then
    (if (s.ldCtx tile ld).isNone || !bit value 0 || (s.bar tile ld).cmdBusy then s
     else s.setBar tile ld { s.bar tile ld with item0, item1 }).cmdGo tile ld value
  else s)

/-- A write of CQ_HEAD (03 R101): records are read, and a context held for their room goes on. -/
def State.readTo (s : State) (t d : Nat) (value : Word) : State :=
  let s := s.setBar t d { s.bar t d with cqHead := fld value 7 0 }
  s.ctxNums.foldl (fun (s : State) n =>
    if (s.ctx n).held then
      match s.readNext n with
      | some (i, _) => if s.window? i.path = some (t, d) && !s.sinkFull n i.path then s.setCtx n { s.ctx n with held := false } else s
      | none => s
    else s) s

/-- CQ_HEAD (03 R101). -/
def execCqHead (tile ld : Nat) (value : Word) (s : State) : Run := .next (if s.ldUp tile ld then s.readTo tile ld value else s)

/-- VLOG_HEAD (03 R97). -/
def execVlogHead (tile ld : Nat) (value : Word) (s : State) : Run :=
  .next (if s.ldUp tile ld then s.setBar tile ld { s.bar tile ld with vlogHead := fld value 5 0 } else s)

/-- A read of BAR0 returns a word. -/
def State.barRead (s : State) (t d tag : Nat) (w : Word) : State := s.emit (.response t (s.ldLink t d) tag rOk (w.setWidth 512) false)

/-- TIDEMARK_READ (03 R98): a 4-byte read also latches bits [63:32] into TM_HI. -/
def execTidemarkRead (tile ld tag : Nat) (four : Bool) (s : State) : Run :=
  .next (if s.ldUp tile ld then
    let w : Word := BitVec.ofNat 64 (s.localCount tile)
    if four then (s.setBar tile ld { s.bar tile ld with tmHi := fld w 63 32 }).barRead tile ld tag (BitVec.ofNat 64 (fld w 31 0))
    else s.barRead tile ld tag w
  else s)

/-- VIOL_LOST (03 R98): a read returns the count and clears it. -/
def execViolLost (tile ld tag : Nat) (s : State) : Run :=
  .next (if s.ldUp tile ld then
    (s.setBar tile ld { s.bar tile ld with violLost := 0 }).barRead tile ld tag (BitVec.ofNat 64 (s.bar tile ld).violLost)
  else s)

/-- THROTTLE (03 Tables 3-5, 3-10): one bit per condition, on any tile. DEDUCED: the RSTR data limit holds in RSTR on the serving
unit. (DEDUCED, log 41.) -/
def State.throttle (s : State) : Nat :=
  b01 (s.liveTiles.any (fun t => !s.hasRoom t)) + 2 * b01 (s.liveTiles.any (fun t => s.sendsFrames t && (s.mt t).windowFull))
    + 4 * b01 (s.liveTiles.any (fun t => (s.pt t).mergeFull)) + 8 * b01 s.save.armed.isSome
    + 16 * b01 (decide (s.mode.mode = .rstr) && s.servesReads) + 32 * b01 (s.waits.any (fun w => decide (w.why = .readq) && w.req.fromHost))

/-- The MODE register of the status window: a copy of `sys.mode`. -/
def State.modeReg (s : State) : Nat := (s.view (pid bSys 1023 0) 0).toNat

/-- MSI_X (03 R101): vectors 0, 2 and 3 of an LD fire for what has happened; vector 1 is VIOLATION_INTERRUPT. -/
def execMsiX (tile ld vector : Nat) (s : State) : Run :=
  .next (if s.ldUp tile ld then
    let b := s.bar tile ld
    match vector with
    | 0 => if b.vec0 then (s.setBar tile ld { b with vec0 := false }).emit (.msix tile ld 0) else s
    | 2 => if b.seenMode ≠ s.modeReg ∨ b.seenThrottle ≠ s.throttle then
        (s.setBar tile ld { b with seenMode := s.modeReg, seenThrottle := s.throttle }).emit (.msix tile ld 2) else s
    | 3 => if b.vec3 then (s.setBar tile ld { b with vec3 := false }).emit (.msix tile ld 3) else s
    | _ => s
  else s)

/-- TIDE (03 Table 3-10; 18 R515): dirty data and effective budget in MiB of the tile whose dirty data is the largest part of its budget, the
lowest of equals. -/
def State.tideReg (s : State) : Word :=
  let t := s.tileList.foldl (fun b t => if s.dirtyCount b * (s.tl t).eff < s.dirtyCount t * (s.tl b).eff then t else b) 0
  word [(0, s.dirtyCount t / 256), (32, (s.tl t).eff)]

/-- LDSTATE (03 Table 3-10). -/
def State.ldState (s : State) (t d : Nat) : Word :=
  word [(0, (s.ldSession t d).getD 0), (12, b01 (s.ldSession t d).isSome), (13, b01 (s.bar t d).vc1),
        (14, b01 (decide ((s.link t (s.ldLink t d)).ide = .secure))), (16, s.ldLevel t d)]

/-- The 64-bit word at an 8-byte offset of BAR0 of an LD as a read returns it: the status window, the doorbell registers, the rings, the
violation log and its pointers (03 Tables 3-9 to 3-11, R97, R98). Write-only registers and reserved ranges read zero. Of the CXL register
blocks the Media Status and the state of the mailbox are modelled. (PRESUMED, log 46.) -/
def State.barWord (s : State) (t d off : Nat) : Word :=
  let b := s.bar t d
  match off with
  | 0x0 => word [(16, 1), (32, 3)]
  | 0x2000 => word [(2, b01 s.memActive), (4, 1)]
  | 0x10000 => BitVec.ofNat 64 (s.localCount t)
  | 0x10008 => BitVec.ofNat 64 b.tmHi
  | 0x10010 => BitVec.ofNat 64 s.modeReg
  | 0x10018 => s.tideReg
  | 0x10020 => BitVec.ofNat 64 s.throttle
  | 0x10028 => s.ldState t d
  | 0x10030 => BitVec.ofNat 64 b.violReq
  | 0x10038 => BitVec.ofNat 64 b.violOwn
  | 0x10040 => BitVec.ofNat 64 b.violLost
  | 0x11010 => BitVec.ofNat 64 b.sqHead
  | 0x11018 => BitVec.ofNat 64 b.cqHead
  | 0x11030 => BitVec.ofNat 64 b.cqTail
  | 0x16800 => BitVec.ofNat 64 b.vlogTail
  | 0x16808 => BitVec.ofNat 64 b.vlogHead
  | _ =>
    if 0x12000 ≤ off ∧ off < 0x14000 then Store.read b.sq ((off - 0x12000) / 8) 0
    else if 0x14000 ≤ off ∧ off < 0x16000 then (Store.read b.cq ((off - 0x14000) / 32) []).getD (off / 8 % 4) 0
    else if 0x16000 ≤ off ∧ off < 0x16800 then (Store.read b.vlog ((off - 0x16000) / 32) []).getD (off / 8 % 4) 0
    else 0

/-- A word is written at an 8-byte offset of BAR0 (03 Tables 3-9, 3-11). Writes of read-only registers and of reserved ranges are ignored. A
write of the mailbox page stands for a command whose opcode is in its low 16 bits. (PRESUMED, log 46.) -/
def State.barWrite (s : State) (t d off : Nat) (w : Word) : State :=
  let b := s.bar t d
  match off with
  | 0x1000 => s.mailRead t d (fld w 15 0)
  | 0x11000 => s.ringDoorbell t d w
  | 0x11008 => s.cmdGo t d w
  | 0x11018 => s.readTo t d w
  | 0x11020 => s.setBar t d { b with item0 := w }
  | 0x11028 => s.setBar t d { b with item1 := w }
  | 0x16808 => s.setBar t d { b with vlogHead := fld w 5 0 }
  | _ => if 0x12000 ≤ off ∧ off < 0x14000 then s.setBar t d { b with sq := Store.write b.sq ((off - 0x12000) / 8) w 0 } else s

/-- A read of BAR0 within one line: the words it touches, from its own address on. A 4-byte read of TIDEMARK latches its high half, and a read
of VIOL_LOST clears it (03 Table 3-10). -/
def State.barReadAt (s : State) (t d tag off n : Nat) : State :=
  let l := Line.ofWords ((List.range 8).map (fun i => s.barWord t d (off / 64 * 64 + 8 * i)))
  let s := (if off = 0x10000 ∧ n = 4 then s.setBar t d { s.bar t d with tmHi := s.localCount t / 2 ^ 32 } else s)
  let s := (if off ≤ 0x10040 ∧ 0x10040 < off + n then s.setBar t d { s.bar t d with violLost := 0 } else s)
  s.emit (.response t (s.ldLink t d) tag rOk (Line.overlay 0 (l >>> (8 * (off % 64))) (partMask 0 n)) false)

/-- A write of BAR0 within one line: every word that it touches, in ascending order; bytes that it does not write stay as the word reads. -/
def State.barWriteAt (s : State) (t d off n : Nat) (bytes : List Byte) : State :=
  let base := off / 64 * 64
  let m := partMask (off % 64) n
  let new := Line.ofBytes (List.replicate (off % 64) 0 ++ bytes.take n)
  (List.range 8).foldl (fun (s : State) i =>
    if m.extractLsb' (8 * i) 8 = 0 then s
    else
      let old := Line.ofWords ((List.range 8).map (fun j => if j = i then s.barWord t d (base + 8 * i) else 0))
      s.barWrite t d (base + 8 * i) ((Line.overlay old new m).extractLsb' (64 * i) 64)) s

/-- The access of `n` bytes falls wholly in BAR0 of an LD; its offset there (03 R98). -/
def State.barHit (s : State) (t d h n : Nat) : Option Nat :=
  match (s.bar t d).base with
  | some b => if b ≤ h ∧ h + n ≤ b + 0x40000 then some (h - b) else none
  | none => none

/-- UIO_REQUEST (03 R85): a UIO or CXL.io memory request of up to a page. One of CXL.io that falls in BAR0 of its LD is an access to its
registers (03 R98), served in every mode in which the link is up (02 R64); any other is looked up in the decoders. -/
def execUioRequest (via : Via) (write : Bool) (tile link ld tag hpa len : Nat) (data : List Byte) (s : State) : Run :=
  .next (if via ≠ .mem ∧ 0 < len ∧ len ≤ 4096 then
    match (if via = .io ∧ s.ldUp tile ld ∧ s.ldLink tile ld = link then s.barHit tile ld hpa len else none) with
    | some off =>
      let parts := lineParts off len
      if write then
        (parts.foldl (fun (s : State) p => s.barWriteAt tile ld p.1 p.2 (data.drop (p.1 - off))) s).emit (.response tile link tag rOk 0 false)
      else parts.foldl (fun (s : State) p => s.barReadAt tile ld tag p.1 p.2) s
    | none => if s.takes via tile link ld then s.uioRequest via write tile link ld tag hpa len data else s
  else s)

end Sys2Proof.Machine
end

