-- ==== Sys2Proof/Machine/DrainRows.lean ====
section
/-! DEFINITION. The commands of the Tideline drain and of the flash store: DRAIN_PAGE to BUDGET_RECOMPUTE (08 R224 to R229), and
Thatch from THATCH_ROW_PROGRAMMED to CHECKPOINT_PERSIST (09 R266 to R289; 10 R314). -/

namespace Sys2Proof.Machine

/-! ### The drain -/

/-- The twin is in MIRS, so that lines can be fetched from it (08 R227). -/
def State.twinInMirs (s : State) : Bool :=
  s.twinUp && (decide (s.mode.mode = .actv) || (s.lease.twinMirs && decide (s.mode.mode = .solo ∨ s.mode.mode = .rstr)))

/-- The drain and the other engines of Thatch run (02 Table 2-1): not in STBY, BRUP or SAVE, nor on a fenced tile. -/
def State.thatchRuns (s : State) (t : Nat) : Bool :=
  decide (t < s.tiles) && [Mode.rstr, .actv, .mirs, .solo, .main].contains s.mode.mode && !s.mode.leaving && !s.tileFenced t
    && decide ((s.th t).state = 1)

/-- The order of the walk (08 R224; 11 R340): the pages at its head, then those from the cursor upward, then those below it. -/
def State.walk (s : State) (t : Nat) : List Nat :=
  let x := s.tl t
  x.head.filter (fun p => x.dirty.contains p) ++ x.dirty.filter (fun p => decide (x.cursor ≤ p)) ++ x.dirty.filter (fun p => decide (p < x.cursor))

/-- Queue a segment for merge (09 R263). -/
def State.queueMerge (s : State) (t seg : Nat) : State :=
  let x := s.th t
  if x.mergeQ.contains seg ∨ x.merges.any (fun m => decide (m.seg = seg)) then s else s.setTh t { x with mergeQ := x.mergeQ ++ [seg] }

/-- The segment that holds the records of a page back (09 R263). -/
def State.heldBack (s : State) (t page : Nat) : Bool :=
  let ht := (s.logicalOf t page).1
  let lp := (s.logicalOf t page).2
  !ht && s.segFull t ((s.th t).segOf lp)

/-- Take a page into flight (08 R224, R227): its lines are cleaned and its record goes to Thatch; a page with lines on a fenced
channel or DIMM has them fetched from the twin first. -/
def State.takePage (s : State) (t page : Nat) : State :=
  let ts := s.localCount t
  let x := s.tl t
  let s := s.setTl t { x with inflight := x.inflight ++ [{ page, ts }], cursor := if x.head.contains page then x.cursor else page + 1 }
  let s := s.cleanRange t (page * 4096) (page * 4096 + 4096)
  if s.pageStopped t page then s.sendLrq t ((s.logicalOf t page).2 * 4096) 64 (.drain page) 2
  else s.putRec t (s.pageRec t page ts) false

/-- A page held back by its segment queues the segment's merge (09 R263). -/
def State.holdMerge (s : State) (t p : Nat) : State :=
  if s.heldBack t p then s.queueMerge t ((s.th t).segOf (s.logicalOf t p).2) else s

/-- A home-table page that a drain needs first goes to the head of the walk (11 R337). -/
def State.headFirst (s : State) (t : Nat) (h : Option Nat) : State :=
  match h with
  | some h => s.headDrain t h
  | none => s

/-- The drain passes over a page: its segment holds four log blocks, and is queued for merge (09 R263); or its frame has HTPEND set, and the
home-table page that names it goes to the head of the walk (11 R337). -/
def State.passOver (s : State) (t p : Nat) : State :=
  let s := s.holdMerge t p
  s.headFirst t (s.htFirst t p)

/-- DRAIN_PAGE (08 R224, R227; 09 R263; 11 R337): the next dirty page of the walk that is not passed over. The drain waits for the channels of
its tile (06 R175). -/
def execDrainPage (tile : Nat) (s : State) : Run :=
  let x := s.tl tile
  .next (if !s.thatchRuns tile || s.pageAway tile || decide (256 ≤ x.inflight.length) || !s.canPut tile false then s
  else
    let cand := fun (s : State) => (s.walk tile).filter (fun p => !x.inflight.any (fun f => decide (f.page = p)) && (!s.pageStopped tile p || (s.twinInMirs && (s.htPageOf tile p).isNone)))
    let passed := fun (s : State) (p : Nat) => s.heldBack tile p || (s.htFirst tile p).isSome
    let s := ((cand s).takeWhile (passed s)).foldl (fun (s : State) p => s.passOver tile p) s
    match (cand s).find? (fun p => !passed s p) with
    | some p => if s.pageConverting tile p then s else s.takePage tile p
    | none => s)

/-- RECORD_VERIFIED (08 R224): the record of a page in flight is programmed and verified. -/
def execRecordVerified (tile page : Nat) (s : State) : Run :=
  .next (match (s.tl tile).inflight.find? (fun f => decide (f.page = page)) with
    | none => s
    | some f =>
      let ht := (s.logicalOf tile page).1
      let lp := (s.logicalOf tile page).2
      if (s.th tile).recs.any (fun r => decide (r.ht = ht ∧ r.lpage = lp ∧ r.tm = f.ts)) then
        ((if f.redirty then s.tally tile 9 0x0003 {} else s).tally tile 9 0x0001 {}).recordDone tile page
      else s)

/-- DRAIN_RATE_UPDATE (08 R228): r from the mean program time of the last second. The first measurement replaces the start
value; a lower value is taken at once, and a higher one when it has held for 10 s. -/
def execDrainRateUpdate (tile : Nat) (s : State) : Run :=
  let x := s.tl tile
  let h := s.th tile
  .next (if tile < s.tiles ∧ s.due x.rateAt sec then
    if h.progN = 0 then s.setTl tile { x with rateAt := s.clock }
    else
      let mean := h.progSum / h.progN
      let v := s.rateFor tile mean
      let y : TideTile :=
        if !x.rateMeasured || decide (v ≤ x.rate) then { x with rate := v, rateHigh := none }
        else match x.rateHigh with
          | none => { x with rateHigh := some (v, s.clock) }
          | some (w, t0) => if s.due t0 (10 * sec) then { x with rate := min v w, rateHigh := none } else { x with rateHigh := some (min v w, t0) }
      ((s.setTh tile { h with progSum := 0, progN := 0 }).setTl tile { y with rateMeasured := true, rateAt := s.clock, meanProg := mean }).recompute tile
  else s)

/-- BUDGET_RECOMPUTE (08 R229). -/
def execBudgetRecompute (tile : Nat) (s : State) : Run := .next (if tile < s.tiles then s.recompute tile else s)

/-! ### Rows of log blocks -/

/-- Retire the physical block of a member (09 R268, R281): at `thatch.fail_limit` within 24 h its target is fenced. -/
def State.retire (s : State) (t b m : Nat) : State :=
  if (s.physB t b m).retired then s
  else
    let s := s.setPhys t b m { s.physB t b m with retired := true, unsealed := false, intent := false, erasing := false, suspended := false }
    let x := s.th t
    let g := 8 * (m / 2) + x.memberTarget (b / 8192) m
    let l := s.clock :: (Store.read x.retiredAt g []).filter (fun t0 => decide (s.clock < t0 + 86400 * sec))
    let s := s.setTh t { x with retiredAt := Store.write x.retiredAt g l [] }
    if s.tileP bThatch t 0x0C ≤ l.length then s.raiseFence 0x4 g t 0x30 0 else s

/-- A record of a log block is needed (09 R263, R266): newer than its segment's data block copy; a home-table record, and one of a
block under relocation, while it is current. -/
def State.neededRec (s : State) (t : Nat) (r : TRec) : Bool :=
  if r.ht ∨ (s.blk t r.blk).marked then decide (s.image t r.ht r.lpage = some r)
  else (s.heldBlks t ((s.th t).segOf r.lpage)).contains r.blk

/-- Release the closed log blocks that nothing needs (09 R266, R273). (DEDUCED, log 53.) -/
def State.releaseIdle (s : State) (t : Nat) : State :=
  let bs := ((s.th t).blks.filter (fun p => decide (p.2.use = .log) && !p.2.isOpen)).map Prod.fst
  bs.foldl (fun (s : State) b =>
    if (s.th t).rowsOpen.any (fun w => decide (w.blk = b)) ∨ (s.th t).recs.any (fun r => decide (r.blk = b) && s.neededRec t r) then s
    else s.releaseBlk t b) s

/-- The oldest complete row of a block. -/
def State.fullRow (s : State) (t b : Nat) : Option Row := (s.th t).rowsOpen.find? (fun w => decide (w.blk = b) && w.full)

/-- Moved records supersede their sources: the source records of the same page leave the image (09 R273). -/
def State.dropSources (s : State) (t : Nat) (l : List TRec) : State :=
  let x := s.th t
  let moved := fun (r : TRec) => l.any (fun q => decide (q.kind = 3 ∧ q.ht = r.ht ∧ q.lpage = r.lpage ∧ q.tm = r.tm ∧ q.blk ≠ r.blk))
  s.setTh t { x with recs := x.recs.filter (fun r => !(decide ((s.blk t r.blk).use = .log) && moved r)) }

/-- A FRET whose block has been emptied retires it and completes (13 R415). -/
def State.endFret (s : State) (t : Nat) : State :=
  s.ctxNums.foldl (fun (s : State) n => match (s.ctx n).long with
    | some (_, .fret u b moved) =>
      if u = t ∧ !((s.th t).recs.any (fun r => decide (r.blk = b / 16) && decide (s.image t r.ht r.lpage = some r)
          && (decide ((s.blk t r.blk).use = .data) || decide (s.recMember t r = b % 16)))) ∧ !(s.th t).rowsOpen.any (fun w => w.recs.any (fun r => decide (r.kind = 3)))
      then (s.retire t (b / 16) (b % 16)).finishR n .ok (BitVec.ofNat 64 moved)
      else s
    | _ => s) s

/-- THATCH_ROW_PROGRAMMED (09 R267, R269): the oldest complete row of a block reports success on every page, after a mean program
time in µs, which counts for r where the row is the drain's (08 R228); what relocation moved leaves its old block. -/
def execThatchRowProgrammed (tile blk took : Nat) (s : State) : Run :=
  .next (match s.fullRow tile blk with
    | none => s
    | some w =>
      let x := s.th tile
      let s := if w.recs.any (fun r => decide (r.kind = 3)) then s else s.setTh tile { x with progSum := x.progSum + took, progN := x.progN + 1 }
      let s := (List.range 16).foldl (fun (s : State) m => if s.memberOk tile (blk / 8192) m then s.tally tile (10 + m / 2) 0x0001 {} else s) s
      ((((s.programRow tile w).dropSources tile w.recs).releaseIdle tile).endFret tile).recompute tile)

/-- A PBAR with the flash flag waits on a record of a row (09 R267). -/
def State.rowWanted (s : State) (t : Nat) (w : Row) : Bool :=
  s.ctxNums.any (fun n => match (s.ctx n).long with
    | some (_, .pbar u lo hi true _) => decide (u = t) && w.recs.any (fun r => !r.ht && decide (lo < r.lpage * 4096 + 4096 ∧ r.lpage * 4096 < hi))
    | _ => false)

/-- ROW_AGE_EXPIRY (09 R267): a row that is not full is padded: its oldest record has waited `thatch.row_age`, a PBAR waits on it, or
the unit is in MAIN, or on its way there, and nothing else is dirty. -/
def execRowAgeExpiry (tile blk : Nat) (s : State) : Run :=
  .next (match (s.th tile).rowsOpen.find? (fun w => decide (w.blk = blk) && !w.full) with
    | none => s
    | some w =>
      let x := s.tl tile
      let alone := (s.mode.mode = .main ∨ s.mode.soloMain) ∧ x.dirty.all (fun p => x.inflight.any (fun f => decide (f.page = p)))
      if s.due w.since (s.tileP bThatch tile 1 * ms) ∨ s.rowWanted tile w ∨ alone then s.padRow tile w else s)

/-- PROGRAM_FAIL (09 R268): a page program of the oldest complete row of a log block fails on a member. -/
def execProgramFail (tile blk member : Nat) (s : State) : Run :=
  .next (if (s.fullRow tile blk).isSome ∧ member < 16 then
    let reloc := decide ((s.th tile).relocBlk = some blk)
    ((s.rewriteRows tile blk [] reloc).retire tile blk member).recompute tile
  else s)

/-- Every member of a block can be read. -/
def State.wholeBlk (s : State) (t b : Nat) : Bool := (List.range 16).all (fun m => !(s.blk t b).members.testBit m || s.memberOk t (b / 8192) m)

/-- BLOCK_VERIFY (09 R270): the read-back verification of a closed block passes. A log block's parity block is released; a merge
target keeps its own until the map switches. -/
def execBlockVerify (tile blk : Nat) (s : State) : Run :=
  let b := s.blk tile blk
  let m := parityOf b.members blk
  let idle := !(s.th tile).rowsOpen.any (fun w => decide (w.blk = blk))
  .next (if !s.thatchRuns tile || !b.parity || b.verified then s
  else if b.use = .log ∧ !b.isOpen ∧ idle then
    (s.setBlk tile blk { b with verified := true, parity := false }).setPhys tile blk m { s.physB tile blk m with unsealed := true }
  else if (s.th tile).merges.any (fun g => decide (g.target = blk) && g.parked.isNone) && s.wholeBlk tile blk then s.setBlk tile blk { b with isOpen := false, verified := true, rows := (s.th tile).wls }
  else s)

/-- PARITY_REBUILD (09 R271): an unreadable page, by the slot of one of its records, of a block that still has its parity is rebuilt
and its records are written to a new row; the block is marked for relocation. A group that has lost two members cannot be rebuilt. -/
def execParityRebuild (tile blk slot : Nat) (s : State) : Run :=
  let b := s.blk tile blk
  let lost := (List.range 16).countP (fun m => b.members.testBit m && !s.memberOk tile (blk / 8192) m)
  let x := s.th tile
  let hit := fun (r : TRec) => decide (r.blk = blk ∧ r.slot / 4 = slot / 4)
  .next (match x.recs.find? hit with
    | none => s
    | some r0 =>
      let here := if s.memberOk tile (blk / 8192) (s.recMember tile r0) then 1 else 0
      if !s.thatchRuns tile || !b.parity || decide (2 ≤ lost + here) || decide (b.use ≠ .log) || !s.canPut tile true then s
      else
        let rs := (x.recs.filter hit).filter (fun r => decide (s.image tile r.ht r.lpage = some r))
        let s := s.setBlk tile blk { b with marked := true }
        let s := rs.foldl (fun (s : State) r => s.putRec tile { r with kind := 3, key := s.imageKey tile, copyTm := s.localCount tile } true) s
        s.log tile 4 bThatch tile 0x04 0x05 blk)

/-! ### Merge and relocation -/

/-- Records of a segment that lie in log blocks. -/
def State.logRecs (s : State) (t seg : Nat) : Nat :=
  (s.th t).recs.countP (fun r => !r.ht && decide ((s.th t).segOf r.lpage = seg) && decide ((s.blk t r.blk).use = .log))

/-- The data block of a segment. -/
def State.dataBlk (s : State) (t seg : Nat) : Option Nat := match Store.read (s.th t).segData seg 0 with | 0 => none | n + 1 => some n

/-- The free log pool is below its margin (09 R272), in MiB. -/
def State.poolLow (s : State) (t : Nat) : Bool :=
  decide (s.pool t * 10 < 11 * s.tileP bTide t 0 * 1024 + 10 * (s.tileP bThatch t 2 * ((s.th t).logSlots * 4160 * 16 / 15 / 2 ^ 20)))

/-- Wear levelling (09 R279): the counts of a set differ by more than `thatch.wl_spread`, and this segment's data block has its lowest. -/
def State.wearSeg (s : State) (t seg : Nat) : Bool :=
  match s.dataBlk t seg with
  | none => false
  | some b =>
    let k := b / 8192
    let inSet := fun (p : Nat × Blk) => decide (p.1 / 8192 = k ∧ p.2.use = .data)
    let top := (((s.th t).phys.filter (fun p => decide (p.1 / (8192 * 16) = k))).map (fun p => p.2.count)).foldl max 0
    decide (s.tileP bThatch t 0x0B < top - s.blkCount t b) && ((s.th t).blks.filter inSet).all (fun p => decide (s.blkCount t b ≤ s.blkCount t p.1))

/-- A FRET waits for the data block of a segment (13 R415). -/
def State.fretSeg (s : State) (t seg : Nat) : Bool :=
  s.ctxNums.any (fun n => match (s.ctx n).long with | some (_, .fret u b _) => decide (u = t ∧ s.dataBlk t seg = some (b / 16)) | _ => false)

/-- The conditions of R272 for a merge of a segment. -/
def State.mergeDue (s : State) (t seg : Nat) : Bool :=
  let x := s.th t
  x.mergeQ.contains seg ||
    (s.poolLow t && decide (0 < s.logRecs t seg) && x.recs.all (fun r => r.ht || decide (s.logRecs t (x.segOf r.lpage) ≤ s.logRecs t seg))) ||
    (match s.dataBlk t seg with | some b => (s.blk t b).marked | none => false) || s.wearSeg t seg || s.fretSeg t seg

/-- The target of a merge: a free block of a set with no other merge running; under wear levelling, one of high count. -/
def State.mergeTarget (s : State) (t seg : Nat) : Option Nat :=
  let ok := fun (k : Nat) => !(s.th t).merges.any (fun m => decide (m.target / 8192 = k ∧ m.seg ≠ seg) && m.parked.isNone)
  if s.wearSeg t seg then
    match leastBy (fun b => 2 ^ 64 - s.blkCount t b) (((s.th t).phys.map (fun (p : Nat × Phys) => p.1 / 8192 / 16 * 8192 + p.1 % 8192)).filter (fun b => s.usable t b && ok (b / 8192))) with
    | some b => some b
    | none => s.allocBlk t ok
  else s.allocBlk t ok

/-- Start the merge of a segment into a target, with its journal entry. -/
def State.startMerge (s : State) (t : Nat) (m : SegMerge) : State :=
  let x := s.th t
  (s.setTh t { x with merges := x.merges.filter (fun q => decide (q.seg ≠ m.seg)) ++ [m], mergeQ := x.mergeQ.filter (fun q => decide (q ≠ m.seg)),
                      journal := x.journal.filter (fun q => decide (q.1 ≠ m.seg)) ++ [(m.seg, m.target)] }).openBlk t m.target .data

/-- MERGE_START (09 R272, R279). -/
def execMergeStart (tile seg : Nat) (s : State) : Run :=
  let x := s.th tile
  .next (if s.thatchRuns tile && !x.merges.any (fun m => decide (m.seg = seg)) && s.mergeDue tile seg
      && decide (x.merges.countP (fun m => m.parked.isNone) < s.tileP bThatch tile 3) then
    match s.mergeTarget tile seg with
    | some b => (s.startMerge tile { seg, target := b, stamp := s.localCount tile }).recompute tile
    | none => s
  else s)

/-- The copies that a merge writes (09 R272, R278): for each page of the segment its newest record at or below S; KIND 0x6 where that
was unreadable. Slots of KIND 0x4, which load as zeros, are not listed. -/
def State.mergeCopies (s : State) (t : Nat) (m : SegMerge) : List TRec :=
  let x := s.th t
  let old := x.recs.filter (fun r => !r.ht && decide (x.segOf r.lpage = m.seg ∧ r.tm ≤ m.stamp ∧ r.kind ≠ 5))
  let pages := old.foldl (fun (a : List Nat) r => insertNat r.lpage a) []
  pages.filterMap (fun p =>
    (old.filter (fun r => decide (r.lpage = p))).foldl (fun (a : Option TRec) r =>
      match a with
      | none => some r
      | some b => if b.tm < r.tm ∨ (b.tm = r.tm ∧ (s.blk t r.blk).use = .data) then some r else some b) none |>.map (fun r =>
        { r with kind := if r.kind = 6 ∨ m.missing.contains p then 6 else 2, lines := if m.missing.contains p then [] else r.lines,
                 key := s.imageKey t, copyTm := s.localCount t, blk := m.target, slot := p % 2 ^ x.segShift }))

/-- MAP_SWITCH (09 R272, R285): a verified target becomes the data block of its segment; the old data block, the target's parity block
and the log blocks that the segment no longer holds are released. -/
def execMapSwitch (tile seg : Nat) (s : State) : Run :=
  let x := s.th tile
  .next (match x.merges.find? (fun m => decide (m.seg = seg) && m.parked.isNone) with
    | none => s
    | some m =>
      let b := s.blk tile m.target
      if !s.thatchRuns tile || !b.verified then s
      else
        let copies := s.mergeCopies tile m
        let held := fun (l : Nat) => x.recs.any (fun r => !r.ht && decide (x.segOf r.lpage = seg ∧ r.blk = l ∧ m.stamp < r.tm))
        let stay := fun (r : TRec) => r.ht || decide (x.segOf r.lpage ≠ seg) || (decide ((s.blk tile r.blk).use = .log) && held r.blk)
        let old := s.dataBlk tile seg
        let s := s.setTh tile { x with recs := x.recs.filter stay ++ copies, merges := x.merges.filter (fun q => decide (q.seg ≠ seg)),
                                       journal := x.journal.filter (fun q => decide (q.1 ≠ seg)), segData := Store.write x.segData seg (m.target + 1) 0 }
        let s := match old with | some o => s.releaseBlk tile o | none => s
        let pm := parityOf b.members m.target
        let s := (s.setBlk tile m.target { b with isOpen := false, parity := false }).setPhys tile m.target pm { s.physB tile m.target pm with unsealed := true }
        let s := s.releaseIdle tile
        let y := s.th tile
        let s := s.setTh tile { y with foIndex := y.foIndex.filter (fun p => decide (y.segOf p ≠ seg) || s.inLog tile p) }
        ((s.tally tile 18 0x0001 {}).endFret tile).recompute tile)

/-- FRET of a data block ends when the merge of its segment is left (13 R415). -/
def State.failFret (s : State) (t seg : Nat) : State :=
  s.ctxNums.foldl (fun (s : State) n => match (s.ctx n).long with
    | some (_, .fret u b _) => if u = t ∧ s.dataBlk t seg = some (b / 16) then s.finishR n .progfail 0 else s
    | _ => s) s

/-- MERGE_TARGET_FAIL (09 R274): a program or the verification of a merge target, or of the relocation block, fails on a member. The
failing physical block is retired, the others are erased, and the copy starts again; after three targets the segment is left. What a
failed relocation block holds is written again to a new one, and it is released once that is verified. -/
def execMergeTargetFail (tile blk member : Nat) (s : State) : Run :=
  let x := s.th tile
  .next (if !s.thatchRuns tile || decide (16 ≤ member) then s
  else match x.merges.find? (fun m => decide (m.target = blk) && m.parked.isNone) with
    | some m =>
      let s := ((s.releaseBlk tile blk).retire tile blk member).tally tile 18 0x0003 {}
      if m.fails + 1 < 3 then
        match s.mergeTarget tile m.seg with
        | some b => s.startMerge tile { m with target := b, fails := m.fails + 1 }
        | none => s.setTh tile { s.th tile with merges := (s.th tile).merges.map (fun q => if q.seg = m.seg then { m with fails := m.fails + 1, parked := some s.clock } else q),
                                                journal := (s.th tile).journal.filter (fun q => decide (q.1 ≠ m.seg)) }
      else
        let s := s.setTh tile { s.th tile with merges := (s.th tile).merges.map (fun q => if q.seg = m.seg then { m with fails := 3, parked := some s.clock } else q),
                                               journal := (s.th tile).journal.filter (fun q => decide (q.1 ≠ m.seg)) }
        (s.log tile 5 bThatch tile 0x08 3 m.seg).failFret tile m.seg
    | none =>
      let moved := x.recs.filter (fun r => decide (r.blk = blk ∧ r.kind = 3))
      let b := s.blk tile blk
      if x.relocBlk = some blk ∨ (b.use = .log ∧ b.parity ∧ !b.verified ∧ !moved.isEmpty) then
        let s := s.rewriteRows tile blk moved true
        (((s.setBlk tile blk { s.blk tile blk with marked := true }).retire tile blk member).releaseIdle tile).tally tile 18 0x0003 {}
      else s)

/-- MERGE_RETRY (09 R274): 10 s after a segment was left unmerged. (DEDUCED, log 57.) -/
def execMergeRetry (tile seg : Nat) (s : State) : Run :=
  .next (match (s.th tile).merges.find? (fun m => decide (m.seg = seg)) with
    | some { parked := some t0, .. } =>
      if s.thatchRuns tile ∧ s.due t0 (10 * sec) ∧ (s.th tile).merges.countP (fun m => m.parked.isNone) < s.tileP bThatch tile 3 then
        match s.mergeTarget tile seg with
        | some b => s.startMerge tile { seg, target := b, stamp := s.localCount tile }
        | none => s
      else s
    | _ => s)

/-- The records of a closed log block that are current. -/
def State.liveRecs (s : State) (t b : Nat) : List TRec :=
  (s.th t).recs.filter (fun r => decide (r.blk = b ∧ r.kind ≠ 5) && decide (s.image t r.ht r.lpage = some r))

/-- RELOCATION (09 R273): the current records of a closed log block move to the relocation block as KIND 0x3, when fewer than
`thatch.gc_live` are current or the block is marked. A record of a flash-only page, or one whose segment would hold a fifth log block,
stays, and its segment is queued for merge. -/
def execRelocation (tile blk : Nat) (s : State) : Run :=
  let b := s.blk tile blk
  let live := s.liveRecs tile blk
  let all := (s.th tile).recs.countP (fun r => decide (r.blk = blk ∧ r.kind ≠ 5))
  .next (if s.thatchRuns tile && decide (b.use = .log) && !b.isOpen && decide ((s.th tile).relocBlk ≠ some blk) && s.canPut tile true &&
      !(s.th tile).rowsOpen.any (fun w => decide (w.blk = blk) || w.recs.any (fun r => live.any (fun q => decide (q.ht = r.ht ∧ q.lpage = r.lpage ∧ q.tm = r.tm)))) &&
      (b.marked || decide (live.length * 100 < s.tileP bThatch tile 4 * all)) then
    let s := s.setBlk tile blk { b with marked := true }
    let s := live.foldl (fun (s : State) r =>
      let seg := (s.th tile).segOf r.lpage
      let fifth := !r.ht && decide (4 < ((s.heldBlks tile seg).filter (fun l => decide (l ≠ blk))).length + 1)
      if !r.ht && (decide (s.homeKind tile r.lpage = 3) || fifth) then s.queueMerge tile seg
      else s.putRec tile { r with kind := 3, key := s.imageKey tile, copyTm := s.localCount tile } true) s
    ((s.tally tile 18 0x0002 {}).releaseIdle tile).recompute tile
  else s)

/-! ### Reading -/

/-- A block refreshes (09 R277): a read needed a retry set beyond the second, its age or its read count is over the limit. -/
def State.refreshDue (s : State) (t b retries : Nat) : Bool :=
  decide (2 < retries) || decide ((s.blk t b).progTm + s.tileP bThatch t 7 * (86400 * sec) < s.localCount t) || decide (s.tileP bThatch t 8 < (s.blk t b).reads)

/-- READ_RETRY (09 R277): a codeword of a block, read for a session, needed a number of further reads: `retries` with listed sets and,
with `soft`, two for soft decoding. Each counts as the stall cause 4. -/
def execReadRetry (tile blk member retries : Nat) (soft : Bool) (sess : Nat) (s : State) : Run :=
  .next (if (s.blk tile blk).use = .free ∨ 16 ≤ member ∨ s.tileP bThatch tile 6 < retries ∨ retries = 0 ∨ (soft ∧ retries ≠ s.tileP bThatch tile 6) then s
  else
    let n := retries + (if soft then 2 else 0)
    let s := (List.range n).foldl (fun (s : State) _ => s.tally tile (10 + member / 2) 0x0003 {}) s
    let s := if s.pmc.frozen then s else s.addStall sess tile 4 n
    let b := s.blk tile blk
    s.setBlk tile blk { b with reads := b.reads + n, marked := b.marked || s.refreshDue tile blk (if soft then 3 else retries) })

/-- FLASH_SCRUB (09 R277): the scrub samples a closed block once per `thatch.scrub_period`. -/
def execFlashScrub (tile blk retries : Nat) (s : State) : Run :=
  let b := s.blk tile blk
  .next (if s.thatchRuns tile && decide (b.use = .log ∨ b.use = .data) && !b.isOpen && s.due b.scrubAt (s.tileP bThatch tile 9 * (86400 * sec)) then
    let s := s.setBlk tile blk { b with scrubAt := s.clock, reads := b.reads + 1 }
    s.setBlk tile blk { s.blk tile blk with marked := b.marked || s.refreshDue tile blk retries }
  else s)

/-- The DFA page of the local DRAM that is the home of a logical page. -/
def State.dramHome (s : State) (t : Nat) (ht : Bool) (lp : Nat) : Option Nat :=
  if ht then (if lp * 4096 < (s.dt t).htLen then some (s.homeAddr t (lp * 4096) / 4096) else none)
  else (s.localDfa t (lp * 4096)).map (fun a => a / 4096)

/-- A flash-only page whose data flash has lost (09 R278, R289): fetched from the twin, or its lines poisoned in a new record. (DEDUCED, log 54.) -/
def State.lostFlash (s : State) (t lp : Nat) : State :=
  if s.twinInMirs then
    if (s.mt t).lrqs.any (fun q => decide (q.why = .flashPage lp)) then s else s.sendLrq t (lp * 4096) 64 (.flashPage lp) 2
  else
    let s := (List.range 64).foldl (fun (s : State) i => s.enterPoison t (lp * 4096 + 64 * i)) s
    (s.putRec t { kind := 1, lpage := lp, tm := s.localCount t, poison := BitVec.allOnes 64, epoch := s.epoch, key := s.imageKey t } false).log t 5 bThatch t 0x05 0x02 lp

/-- UNREADABLE_RECORD (09 R278): the record in a slot of a block stays unreadable after soft decoding; it holds no data from then on.
With `merge` its reader is the merge of its segment: a DRAM-homed page is marked, when there is room, and a flash-only page is fetched or
poisoned. Other readers go on by their own commands. (DEDUCED, log 55.) -/
def execUnreadableRecord (tile blk slot : Nat) (merge : Bool) (s : State) : Run :=
  let x := s.th tile
  .next (match x.recs.find? (fun r => decide (r.blk = blk ∧ r.slot = slot ∧ r.kind ≠ 6)) with
    | none => s
    | some r =>
      let current := decide (s.image tile r.ht r.lpage = some r)
      let home := s.dramHome tile r.ht r.lpage
      let room := match home with | some p => (s.tl tile).dirty.contains p || s.hasRoom tile | none => s.canPut tile false
      let m := recMarks s tile r
      if (s.blk tile blk).parity && m then s
      else if merge && !(room && x.merges.any (fun g => decide (g.seg = x.segOf r.lpage) && g.parked.isNone)) then s
      else
        let g := 8 * (s.recMember tile r / 2) + x.memberTarget (blk / 8192) (s.recMember tile r)
        let l := s.clock :: (Store.read x.ueAt g []).filter (fun t0 => decide (s.clock < t0 + 3600 * sec))
        let bad : TRec := { r with kind := 6, lines := [] }
        let s := s.setTh tile { x with recs := x.recs.map (fun q => if q = r then bad else q), ueAt := Store.write x.ueAt g l [],
                                       merges := if merge then x.merges.map (fun q => if q.seg = x.segOf r.lpage then { q with missing := insertNat r.lpage q.missing } else q) else x.merges }
        let s := s.log tile 5 bThatch tile 0x05 0x02 (blk * 2 ^ 24 + slot)
        let s := if merge && current then
            match home with
            | some p => s.markPage tile p
            | none => if r.ht then s else s.lostFlash tile r.lpage
          else s
        let lim := s.tileP bThatch tile 0x0A
        if 0 < lim ∧ lim ≤ l.length then s.raiseFence 0x4 g tile 0x34 0 else s)
where
  /-- R271 can rebuild the page: no other member of its group is lost. -/
  recMarks (s : State) (t : Nat) (r : TRec) : Bool :=
    (List.range 16).all (fun m => decide (m = s.recMember t r) || !(s.blk t r.blk).members.testBit m || s.memberOk t (r.blk / 8192) m)

/-! ### Erase -/

/-- A member awaits its erase: its block is released, or it was the parity of a block that no longer needs it. -/
def State.eraseDue (s : State) (t b m : Nat) : Bool :=
  let p := s.physB t b m
  p.unsealed && !p.retired && !p.erasing && s.memberOk t (b / 8192) m &&
    (decide ((s.blk t b).use = .released ∨ (s.blk t b).use = .free) || (decide (m = parityOf (s.blk t b).members b) && !(s.blk t b).parity))

/-- The target of a member, numbered 8 · channel + target. -/
def State.targetOf (s : State) (t b m : Nat) : Nat := 8 * (m / 2) + (s.th t).memberTarget (b / 8192) m

/-- ERASE (09 R280): the erase of a physical block starts after its intent entry. -/
def execErase (tile blk member : Nat) (s : State) : Run :=
  .next (if s.thatchRuns tile ∧ s.save.run.isNone ∧ member < 16 ∧ s.eraseDue tile blk member then
    let g := s.targetOf tile blk member
    let s := s.setPhys tile blk member { s.physB tile blk member with intent := true, erasing := true, suspended := false }
    s.setTh tile { s.th tile with busyAt := Store.write (s.th tile).busyAt g (s.clock, 40 * ms) (0, 0) }
  else s)

/-- ERASE_SUSPEND (09 R281, R282): a read or program on the die suspends its erase, and `resumes` ends the suspension; in a save it
is not resumed. -/
def execEraseSuspend (tile blk member : Nat) (resumes : Bool) (s : State) : Run :=
  let p := s.physB tile blk member
  .next (if p.erasing ∧ p.suspended = resumes ∧ ¬ (resumes ∧ s.save.run.isSome) then s.setPhys tile blk member { p with suspended := !resumes } else s)

/-- A block whose working members are all sealed is free. -/
def State.freeSealed (s : State) (t b : Nat) : State :=
  if (s.blk t b).use = .released ∧ (List.range 16).all (fun m => let p := s.physB t b m; p.retired || !s.memberOk t (b / 8192) m || !p.unsealed) then s.setBlk t b {} else s

/-- An image key pair other than the one in use is dropped when no block of the tile holds a record under it (14 R435). (DEDUCED, log 60.) -/
def State.dropImageKeys (s : State) (t : Nat) : State :=
  let x := s.th t
  let rs := x.recs ++ (x.rowsOpen.map Row.recs).flatten
  [4, 6, 8, 10].foldl (fun (s : State) k =>
    if s.imageKey t = k ∨ (s.keySlot t k).usage = 0 ∨ rs.any (fun r => decide (r.key = k)) then s else (s.clearKey t k).clearKey t (k + 1)) s

/-- ERASE_COMPLETE (09 R280, R281): the erase ends and the seal carries the count of the last seal plus 1; an erase that fails retires
the block. -/
def execEraseComplete (tile blk member : Nat) (ok : Bool) (s : State) : Run :=
  let p := s.physB tile blk member
  .next (if p.erasing ∧ !p.suspended then
    let s := s.setTh tile { s.th tile with busyAt := Store.write (s.th tile).busyAt (s.targetOf tile blk member) (0, 0) (0, 0) }
    if ok then
      (((s.setPhys tile blk member { p with count := p.count + 1, unsealed := false, intent := false, erasing := false, sealTm := s.localCount tile }).freeSealed tile blk).dropImageKeys tile).recompute tile
    else ((s.retire tile blk member).freeSealed tile blk).recompute tile
  else s)

/-- TARGET_NOT_READY (09 R281): a target has not signalled ready within four times its limit (Table 9-3): 40 ms for an erase, 800 µs for
a program of a row, 6 ms for a word line of a merge. -/
def execTargetNotReady (tile target : Nat) (s : State) : Run :=
  let x := s.th tile
  let e := Store.read x.busyAt target (0, 0)
  let rowLate := x.rowsOpen.any (fun w => w.full && s.due w.since (800 * us) && (List.range 16).any (fun m => decide (s.targetOf tile w.blk m = target)))
  let mergeLate := x.merges.any (fun m => m.parked.isNone && !(s.blk tile m.target).verified && decide (m.stamp + 6 * ms ≤ s.localCount tile)
    && (List.range 16).any (fun k => decide (s.targetOf tile m.target k = target)))
  .next (if (e.2 ≠ 0 ∧ s.due e.1 e.2) ∨ rowLate ∨ mergeLate then s.raiseFence 0x4 target tile 0x31 0 else s)

/-! ### The rebuild backlog and the checkpoint -/

/-- BACKLOG_WALK (09 R288, R289): the next affected page in the order of segments is placed. A DRAM-homed page whose bit is clear takes it
when there is room; a flash-only page is fetched from the twin, or poisoned. -/
def execBacklogWalk (tile : Nat) (s : State) : Run :=
  let x := s.th tile
  let waits := fun (e : Nat) => (s.mt tile).lrqs.any (fun q => decide (q.why = .flashPage e))
  .next (if !s.thatchRuns tile then s
  else match leastBy id (x.backlog.filter (fun e => !waits e)) with
    | none => s
    | some e =>
      let done := fun (s : State) => s.setTh tile { s.th tile with backlog := (s.th tile).backlog.filter (fun q => decide (q ≠ e)) }
      match s.dramHome tile (decide (2 ^ 31 ≤ e)) (e % 2 ^ 31) with
      | some p =>
        if (s.tl tile).dirty.contains p then done s
        else if s.hasRoom tile then (done s).markPage tile p
        else s
      | none =>
        if 2 ^ 31 ≤ e then done s
        else if s.twinInMirs then s.lostFlash tile e
        else if s.canPut tile false then (done s).lostFlash tile e
        else s)

/-- CHECKPOINT_PERSIST (10 R314): the last confirmed checkpoint goes to the system area. -/
def execCheckpointPersist (tile : Nat) (s : State) : Run :=
  .next (if s.thatchRuns tile then s.persistCkpt tile else s)

end Sys2Proof.Machine
end

