-- ==== Sys2Proof/Machine/IntegRows.lean ====
section
/-! DEFINITION. The commands of data integrity and containment: recovery of a line, conversion lap, Undertow, buckets, checks
inside the tile, fences and the reload of a cleared channel (07 R189 to R217). -/

namespace Sys2Proof.Machine

/-- One more line of a DIMM that needed step 2 or 3 of R192; at `ecc.ue_limit` within an hour the DIMM is fenced (07
R210). -/
def State.countUe (s : State) (t a : Nat) : State :=
  let c := dfaChan a
  let slot := s.dfaSlot t a
  let x := s.ic t c
  let l := s.clock :: (if slot = 0 then x.ue0 else x.ue1).filter (fun t0 => decide (s.clock < t0 + 3600 * sec))
  let s := s.setIc t c (if slot = 0 then { x with ue0 := l } else { x with ue1 := l })
  let lim := s.tileP bEcc t 4
  if 0 < lim ∧ lim ≤ l.length then s.raiseFence 0x2 (2 * c + slot) t 0x54 0 else s

/-- Poison a line of local DRAM as step 3 of R192: stored as poisoned, entered, marked without a room check, and in ACTV
mirrored as a poisoned full-line store. -/
def State.poisonLine (s : State) (t off a : Nat) : State :=
  let s := ((s.placeQuiet t off a 0 true).enterPoison t off).markPage t (a / 4096)
  let s := s.log t 5 bEcc t 0x05 0x01 a
  if s.sendsFrames t then
    let n := match s.extentAt t off with | some (n, _) => n | none => 0
    s.assignFrame t (fun q => { seq := q, epoch := s.epoch, tm := s.localCount t, sess := n, off := off / 64 * 64, fk := 2 }) false
  else s

/-- The requests that waited for a line in recovery are served (07 R192). -/
def State.endRecovery (s : State) (t off : Nat) : State :=
  s.release (fun w => decide (w.why = .recovery ∧ w.req.owner = t ∧ w.req.toff / 64 = off / 64))

/-- The home of the page at a DFA page is local DRAM: a home-table page, a page that its frame's entry names, a page outside the pool (01 R21;
07 R192). -/
def State.homeLocal (s : State) (t page : Nat) : Bool :=
  match s.htPageOf t page with
  | some _ => true
  | none =>
    let o := Store.read (s.tt t).owners page {}
    if o.valid then decide (s.homeKind t o.lpage = 1 ∧ hFrame (s.homeEntry t o.lpage) = page)
    else decide (page * 4096 < s.poolBase t ∨ s.allocTop t ≤ page * 4096)

/-- The current image of the page at a DFA can give a line back: no store is newer, no drain of the page is in progress, and its home is local
(07 R192). -/
def State.recomputes (s : State) (t a : Nat) : Bool :=
  s.homeLocal t (a / 4096) && !s.isDirty t a && !(s.tl t).inflight.any (fun f => decide (f.page = a / 4096))

/-- The line that the current image of its page holds, over which the merge buffer's bytes go (07 R192, step 2). -/
def State.imageLine (s : State) (t a : Nat) : Line × Bool :=
  let (l, p) := match s.image t (s.logicalOf t (a / 4096)).1 (s.logicalOf t (a / 4096)).2 with | some r => r.line (a / 64 % 64) | none => (0, false)
  match s.mergeOf t (s.offOf t a) with
  | some m => (Line.overlay l m.data m.mask, m.poison || (p && decide (m.mask ≠ Mask.full)))
  | none => (l, p)

/-- LINE_RECOVERY (07 R192, R194): a line in recovery. `readable` says whether Thatch can read the page's current record.
The line is recomputed from flash where its page is clean, at home and not being drained; else it is poisoned, and on a
standby fetched from the active unit. -/
def execLineRecovery (tile dfa : Nat) (readable : Bool) (s : State) : Run :=
  let a := dfa / 64 * 64
  .next (match (s.pt tile).recov.find? (fun e => decide (e.dfa = a)) with
    | none => s
    | some e =>
      let ht := (s.logicalOf tile (a / 4096)).1
      let off := s.offOf tile a
      let s1 := s.setPt tile { s.pt tile with recov := (s.pt tile).recov.filter (fun x => decide (x.dfa ≠ a)) }
      let usable := readable && (match s.image tile ht (s.logicalOf tile (a / 4096)).2 with | some r => decide (r.kind ≠ 6) | none => true)
      if s.recomputes tile a && usable then
        let (l, p) := s.imageLine tile a
        let raw := s1.cipherLine true tile off a l
        let s2 := (s1.putDram tile a raw p).log tile 4 bEcc tile 0x04 0x02 a
        let s2 := if p then s2.enterPoison tile off else s2
        ((s2.deliver tile { e with tries := 0 } raw p).countUe tile a).endRecovery tile off
      else if s.mode.mode = .mirs ∨ (s.recomputes tile a && s.twinServes) then
        if (s.mt tile).lrqs.any (fun q => decide (q.off = off ∧ q.why = .recovery)) then s
        else if s.twinUp then (s.sendLrq tile off 1 .recovery 0).countUe tile a else s
      else if s.sendsFrames tile && (s.mt tile).windowFull then s
      else
        let s2 := s1.poisonLine tile off a
        ((s2.deliver tile e 0 true).countUe tile a).endRecovery tile off)

/-- A line that must be recovered in the background: its refetches rank as host reads (07 R192). -/
def State.refetch (s : State) (t a : Nat) : State := s.failRead t { dfa := a, off := s.offOf t a, sess := 0, why := .scrub, since := s.localCount t, tries := 0 }

/-- A scrub read of a line, or its recovery, is under way. -/
def State.scrubOpen (s : State) (t a : Nat) : Bool :=
  (s.rqOf (subKey t a)).any (fun e => decide (e.dfa = a ∧ e.why = .scrub)) || (s.pt t).recov.any (fun e => decide (e.dfa = a))
    || (s.mt t).lrqs.any (fun q => decide (q.why = .recovery ∧ q.off / 64 = s.offOf t a / 64))

/-! ### The conversion lap -/

/-- The 64 lines of a channel in the 16 KiB span of DFA at `p` (07 R189). -/
def groupLines (c p : Nat) : List Nat := (List.range 64).map (fun i => p + i / 2 * 512 + c * 128 + i % 2 * 64)

/-- The lap of a channel runs: in a serving mode past RSTR, on a channel in service, and from one group to the next (07 R189, R191). -/
def State.convRuns (s : State) (t c : Nat) : Bool :=
  let x := s.ic t c
  s.inService t c && x.lapRun && !x.convDone && decide (0 < s.dfaSize t) && (s.chan t c).slice.isNone
    && decide (s.mode.mode = .actv ∨ s.mode.mode = .mirs ∨ s.mode.mode = .solo ∨ s.mode.mode = .main)

/-- The lap reads a line: from the write queue where it holds the line; else from DRAM with the symbols of `err` in error, for recovery when its
CRC fails. A poisoned line enters the table (04 R130; 07 R190, R204). -/
def State.convRead (s : State) (t a : Nat) (err : BitVec 640) : State :=
  match s.wqNewest t a with
  | some e => if e.poison then s.enterPoison t (s.offOf t a) else s
  | none =>
    let s := s.readRow t a
    if (s.lineCheck t a err).good then
      let (l, p) := s.lineGot t a err
      let s := if err = 0 then s else s.putDram t a l p
      if p then s.enterPoison t (s.offOf t a) else s
    else s.refetch t a

/-- A group begins: its lines are read, `errs` giving those in error, and its writes wait from now on. -/
def State.convBegin (s : State) (t c : Nat) (errs : List (Nat × BitVec 640)) : State :=
  let x := s.ic t c
  let s := (s.setIc t c { x with lapStart := 1 }).setIt t { s.it t with convNext := s.clock + 16384 / s.tileP bEcc t 0 }
  (groupLines c x.convPtr).foldl (fun s a => s.convRead t a (((errs.find? (fun p => decide (p.1 = a))).map Prod.snd).getD 0)) s

/-- The boundary pointer moves past a group; past the highest DFA of the channel the lap ends (07 R189). -/
def State.convMove (s : State) (t c : Nat) : State :=
  let x := s.ic t c
  let p := x.convPtr + 16384
  let fin := decide (s.dfaSize t ≤ p)
  s.setIc t c { x with convPtr := p, lapStart := 0, lapRun := !fin, convDone := fin, lapPos := if fin then c * 128 else x.lapPos,
                       lapBegan := if fin then s.clock else x.lapBegan }

/-- A group ends: its lines, which the write queues have room for, are queued in RS form, the pointer moves, and the writes that waited go on. -/
def State.convEnd (s : State) (t c : Nat) : State :=
  let p := (s.ic t c).convPtr
  ((groupLines c p).foldl (fun (s : State) a => let (l, q) := s.stored t a; s.queueWrite t a l q 0) (s.convMove t c)).kick t [.held]

/-- CONVERSION_LAP_GROUP (07 R189 to R191): the lap of a channel begins its next group, while requester 8 can have the Batten bus and the pace of
`ecc.conv_rate` allows; and with `ends` it ends the group, once every line that failed its CRC has been recovered and the write queues have
room. Spans of training rows are skipped. -/
def execConversionLapGroup (tile channel : Nat) (ends : Bool) (errs : List (Nat × BitVec 640)) (s : State) : Run :=
  let x := s.ic tile channel
  .next (if !s.convRuns tile channel then s
    else if s.training tile x.convPtr then s.convMove tile channel
    else if !ends then
      (if x.lapStart = 0 ∧ s.busFree tile 8 = true ∧ (s.it tile).convNext ≤ s.clock then s.convBegin tile channel errs else s)
    else if x.lapStart = 1 ∧ (groupLines channel x.convPtr).all (fun a => !s.scrubOpen tile a) = true
        ∧ (s.wqOf (8 * tile + 2 * channel)).length ≤ 32 ∧ (s.wqOf (8 * tile + 2 * channel + 1)).length ≤ 32 then s.convEnd tile channel
    else s)

/-! ### Undertow -/

/-- Undertow runs on a channel (07 R205). -/
def State.undertow (s : State) (t c : Nat) : Bool :=
  s.inService t c && (s.ic t c).convDone && decide (s.mode.mode = .actv ∨ s.mode.mode = .mirs ∨ s.mode.mode = .solo ∨ s.mode.mode = .main)
    && (s.chan t c).slice.isNone && (s.rqOf (8 * t + 2 * c)).isEmpty && (s.rqOf (8 * t + 2 * c + 1)).isEmpty

/-- The next line of a channel after one, and whether the lap is behind its pace. -/
def nextOnChan (a : Nat) : Nat := if a / 64 % 2 = 0 then a + 64 else a - 64 + 512
def State.behind (s : State) (t c : Nat) : Bool :=
  let x := s.ic t c
  decide (x.lapPos * (s.tileP bEcc t 1 * 3600 * sec) ≤ s.dfaSize t * (s.clock - x.lapBegan))

/-- The position of the lap moves past a line, over training rows; at the end the lap completes (07 R205, R207). -/
def State.lapStep (s : State) (t c : Nat) : State :=
  let x := s.ic t c
  let n := nextOnChan x.lapPos
  let n := if s.training t n then (n / (2 ^ (21 + s.rowBits t)) + 1) * 2 ^ (21 + s.rowBits t) + c * 128 else n
  if n < s.dfaSize t then s.setIc t c { x with lapPos := n }
  else
    let s := s.setIc t c { x with lapPos := c * 128, lapTime := (s.clock - x.lapBegan) / sec, lapBegan := s.clock, lapLate := false }
    let y := s.it t
    let laps := if y.overflow && decide (x.lapBegan < y.overAt) then y.laps else insertNat c y.laps
    let all := (List.range 4).all (fun k => laps.contains k || s.chFenced t k)
    s.setIt t { y with laps := if all then [] else laps, lapSince := y.lapSince || all,
                       overflow := y.overflow && !(decide (y.poison.length < 3584) && (y.lapSince || all)) }

/-- A lap has read a good line: a poisoned one is entered, and the lap goes on (07 R206, R207). -/
def State.lapGood (s : State) (t c off : Nat) (p : Bool) : State := (if p then s.enterPoison t off else s).lapStep t c

/-- A lap has read a line that it could not correct: recovery begins, and the lap goes on. -/
def State.lapBad (s : State) (t c a : Nat) : State := (s.refetch t a).lapStep t c

/-- A line is queued for its write back (07 R206). -/
def State.queueBack (s : State) (t a : Nat) : State := s.setIt t { s.it t with writeBack := (s.it t).writeBack ++ [a] }

/-- UNDERTOW_READ (07 R205): in an idle slot and behind its pace, the lap reads its next line, with the symbols of `err` in
error. -/
def execUndertowRead (tile channel : Nat) (err : BitVec 640) (s : State) : Run :=
  let a := (s.ic tile channel).lapPos
  .next (if s.undertow tile channel && s.behind tile channel && decide (0 < s.dfaSize tile) then
    let s := s.readRow tile a
    let p := (s.lineGot tile a err).2
    match s.lineCheck tile a err with
    | .pass => s.lapGood tile channel (s.offOf tile a) p
    | .corrected fix => ((s.bucket tile channel (s.fixPlace tile a fix)).queueBack tile a).lapGood tile channel (s.offOf tile a) p
    | .bad => s.lapBad tile channel a
  else s)

/-- Newer data of a line exists in Eaves or the merge buffer (07 R206); a write since the scrub read has taken the line off the list already. -/
def State.newerHeld (s : State) (t a : Nat) : Bool :=
  (match s.evAny t a with | some k => (s.evLine k).dirty | none => false) || (s.mergeOf t (s.offOf t a)).isSome

/-- UNDERTOW_WRITE_BACK (07 R206): the oldest corrected line is written back in an idle slot, by requester 7 when it can have the Batten bus,
unless newer data exists. -/
def execUndertowWriteBack (tile : Nat) (s : State) : Run :=
  let x := s.it tile
  .next (match x.writeBack with
    | [] => s
    | a :: r =>
      if s.newerHeld tile a || s.lineFenced tile a then s.setIt tile { x with writeBack := r }
      else if s.writeWaits tile a || s.chanAway tile (dfaChan a) || !s.busFree tile 7 || !(s.rqOf (subKey tile a)).isEmpty then s
      else (s.setIt tile { x with writeBack := r }).queueWrite tile a (s.dramLine tile a) (s.isPoisoned tile a) 0)

/-- LAP_MAX_REACHED (07 R207): the running lap of a channel reaches `ecc.lap_max`. -/
def execLapMaxReached (tile channel : Nat) (s : State) : Run :=
  let x := s.ic tile channel
  .next (if tile < s.tiles ∧ channel < 4 ∧ x.convDone ∧ !x.lapLate ∧ s.due x.lapBegan (s.tileP bEcc tile 2 * 3600 * sec) then
    ((s.setIc tile channel { x with lapLate := true }).log tile 4 bEcc tile 0x03 2 channel).countP (pid bEcc tile (0x14 + channel)) 0
  else s)

/-- CE_BUCKET_LEAK (07 R209): at the end of each `ecc.ce_leak` a bucket falls by one. -/
def execCeBucketLeak (tile b : Nat) (s : State) : Run :=
  let x := s.it tile
  .next (if tile < s.tiles ∧ b < 6 ∧ s.due (Store.read x.leakAt b 0) (s.tileP bEcc tile (0x28 + b) * sec) then
    (s.setIt tile { x with leakAt := Store.write x.leakAt b s.clock 0 }).setParam (pid bEcc tile (0x20 + b)) 0
      (BitVec.ofNat 64 ((s.param (pid bEcc tile (0x20 + b)) 0).toNat - 1))
  else s)

/-- Poison the store data of a waiting request as a whole-line poisoned store (07 R197, R199). -/
def State.poisonWait (s : State) (t l tag : Nat) : State :=
  { s with waits := s.waits.map (fun w => if w.req.isStore ∧ w.req.tile = t ∧ w.req.link = l ∧ w.req.tag = tag ∧ w.req.fromHost then
      { w with req := { w.req with poison := true } } else w) }

/-- A waiting host read is answered with poison; its line stays as it is (07 R197, R199). -/
def State.poisonRead (s : State) (t l tag : Nat) : State :=
  match s.waits.find? (fun w => w.req.isRead && w.req.fromHost && decide (w.req.tile = t ∧ w.req.link = l ∧ w.req.tag = tag)) with
  | some w =>
    let s := ({ s with waits := s.waits.erase w }).answer w.req rOk 0 true .poison
    State.settle (2 * s.waits.length + 2) s
  | none => s

/-- PARITY_ERROR (07 R197): logged and counted; a read is served once more and then answered with poison, a store is stored
as poisoned, a movement is repeated, and a control field fences the unit that checks it. -/
def execParityError (tile : Nat) (place : Parity) (s : State) : Run :=
  .next (if tile < s.tiles then
    let s := (s.log tile 4 bEcc tile 0x08 0 0).tally tile 32 0x0001 {}
    match place with
    | .readData t l tag again => if again then s.poisonRead t l tag else s
    | .storeData t l tag => s.poisonWait t l tag
    | .moved r again => if again then s.log tile 4 bBatt tile 0x08 r 0 else s
    | .control cls inst => s.raiseFence cls inst tile 0x11 0
  else s)

/-- RESIDUE_MISMATCH (07 R198, Table 7-5): the unit is fenced with cause 0x10; a performance counter (class 0, instance
16 · block + k) is set to all ones with its overflow bit. -/
def execResidueMismatch (tile cls inst : Nat) (s : State) : Run :=
  .next (if tile < s.tiles then
    let s := s.tally tile 32 0x0002 {}
    if cls = 0 then
      (s.setCtr (ctrKey tile (inst / 16) (inst % 16)) { s.ctr (ctrKey tile (inst / 16) (inst % 16)) with cnt := 2 ^ 48 - 1, ovf := true }).log tile 3 bPmc (64 * tile + inst / 16) 0x08 (inst % 16) 0
    else if [0xA, 0x1, 0x3, 0x5, 0x6, 0x7, 0x8, 0x9].contains cls then s.raiseFence cls inst tile 0x10 0
    else s
  else s)

/-- The next item of a context's queue is discarded, and its completion carries UNCOR; the queue goes on (07 Table 7-6). -/
def State.discardItem (s : State) (n : Nat) : State :=
  let c := s.ctx n
  let c := match c.cur, c.waiting with
    | none, b :: r => { c with cur := some { sub := b }, waiting := r, subid := (c.subid + 1) % 2 ^ 16 }
    | _, _ => c
  match c.cur with
  | some u =>
    if u.next < u.sub.items.length then
      let w := u.sub.items.getD u.next 0
      let fin := decide (u.sub.items.length ≤ u.next + 1)
      let i : Issue := { word := w, opcode := fld w 63 56, index := u.next, pc := 0, stored := false, cmd := false, prio := u.sub.prio, path := u.sub.path,
                         pl := u.sub.pl, subid := c.subid }
      let s := (match i.path with
        | .slipway m => if (s.sess m).slip.state = SlipState.queued then s.setSlip m { (s.sess m).slip with state := .running } else s
        | _ => s)
      let c := { c with cur := some { u with next := u.next + 1, high := max u.high (u.next + 1) }, rd := (c.rd + 1) % 512,
                        outbox := c.outbox ++ [mkCpl s n i .uncor 0 fin false] }
      s.setCtx n (if fin then c.endSub else c)
    else s
  | none => s

/-- QUEUE_ECC_ERROR (07 R199, Table 7-6). -/
def execQueueEccError (tile : Nat) (what : QueueError) (s : State) : Run :=
  .next (if tile < s.tiles then
    match what with
    | .single c =>
      let s := s.bucket tile 5 5
      match c with
      | some n => s.setCtx n { s.ctx n with cecnt := if (s.ctx n).created then min ((s.ctx n).cecnt + 1) 0xFFFF else (s.ctx n).cecnt }
      | none => s
    | .line t l tag => (s.poisonWait t l tag).poisonRead t l tag
    | .moved p j =>
      let x := s.tt tile
      if x.unitData.any (fun d => decide (d.1 = p ∧ d.2.1 = j)) then s.setTt tile { x with badData := (p, j) :: x.badData } else s
    | .control cls inst => s.raiseFence cls inst tile 0x11 0
    | .item n => s.discardItem n
    | .record n =>
      match (s.ctx n).outbox with
      | x :: r => s.setCtx n { s.ctx n with outbox := { x with status := .uncor, result := 0 } :: r }
      | [] => s
  else s)

/-- EAVES_TAG_ERROR (07 R200, R201): a corrected word counts in bucket 4; a double error in a data word invalidates a clean
line and poisons a dirty one, which a standby asks of the active unit (R194); a double error in a tag invalidates a clean line and, of a dirty one, fences the tile. -/
def execEavesTagError (tile set way : Nat) (what : EavesError) (s : State) : Run :=
  let k := evKey tile set way
  let e := s.evLine k
  .next (if tile < s.tiles ∧ set < 2 ^ 17 ∧ way < 16 then
    match what with
    | .wordSingle => (s.bucket tile 4 4).tally tile (2 + set % 16 / 8) 0x0004 {}
    | .tagSingle => s
    | .wordDouble =>
      if !e.valid then s
      else if !e.dirty then s.dropWay k
      else if s.mode.mode = .mirs then
        let x := s.pt tile
        (s.dropWay k).setPt tile { x with recov := x.recov ++ [{ dfa := e.dfa, off := e.off, sess := e.sess, why := .scrub, since := s.localCount tile, tries := 3 }] }
      else
        let s := (((s.setEv k { e with poison := true, data := 0 }).enterPoison tile e.off).markPage tile (e.dfa / 4096)).log tile 5 bEcc tile 0x05 0x01 e.dfa
        if s.sendsFrames tile then
          s.assignFrame tile (fun q => { seq := q, epoch := s.epoch, tm := s.localCount tile, sess := e.sess, off := e.off, fk := 2 }) false
        else s
    | .tagDouble => if !e.valid then s else if e.dirty then s.raiseFence 0xA 0 tile 0x12 0 else s.dropWay k
  else s)

/-- UCIE_REPLAY_LIMIT (07 Table 7-10): replays on a UCIe link; 16 within 1 ms fence it with cause 0x48. -/
def execUcieReplayLimit (tile link count : Nat) (s : State) : Run :=
  .next (if tile < s.tiles ∧ link < 4 then
    let x := s.it tile
    let l := List.replicate (min count 65535) s.clock ++ (Store.read x.replays link []).filter (fun t0 => decide (s.clock < t0 + sec))
    let s := (s.setIt tile { x with replays := Store.write x.replays link l [] }).tally tile 33 0x0001 {}
    if 16 ≤ l.countP (fun t0 => decide (s.clock < t0 + ms)) then s.raiseFence 0x9 link tile 0x48 0 else s
  else s)

/-- FLASHING (07 R211): a checker raises a fence. -/
def execFlashing (cls inst tile cause : Nat) (s : State) : Run := .next (s.raiseFence cls inst tile cause 0)

/-- FENCE_NOTICE (07 R211): the notice of a fence reaches a tile, which holds it from then on. -/
def execFenceNotice (holder cls inst tile : Nat) (s : State) : Run :=
  .next (if holder < s.tiles then
    { s with fences := { s.fences with inForce := s.fences.inForce.map (fun f => if f.cls = cls ∧ f.inst = inst ∧ f.tile = tile then { f with heldBy := insertNat holder f.heldBy } else f) } }
  else s)

/-- The unit reset of a channel: full training from bank L, whatever stood there (06 R178). -/
def State.resetChan (s : State) (t c : Nat) : State :=
  if (match (s.chan t c).train with | some r => r.why == .unitReset | none => false) == true then s
  else (s.setChan t c { s.chan t c with fc := none, slice := none }).startTrain t c false .unitReset 32 1

/-- UNIT_RESET (07 R216): a PL0 unit reset of a fenced DRAM channel or DIMM trains bank L and then bank H; that of a NAND
channel or target runs mount steps 1 and 2 for it, complete when its interface trains. -/
def execUnitReset (cls inst tile : Nat) (trains : Bool) (s : State) : Run :=
  .next (if s.fenced cls inst tile && !s.enclosed cls inst tile then
    match cls with
    | 0x1 => s.resetChan tile inst
    | 0x2 => s.resetChan tile (inst / 2)
    | 0x3 | 0x4 =>
      if trains then
        { s with fences := { s.fences with inForce := s.fences.inForce.map (fun f => if f.cls = cls ∧ f.inst = inst ∧ f.tile = tile then { f with reset := true } else f) } }
      else s
    | _ => s
  else s)

/-- The reload of a fence moves to a page, and ends past the last (07 R217). -/
def State.reloadTo (s : State) (f : Fence) (page : Nat) : State :=
  if s.dfaSize f.tile / 4096 ≤ page then { s with fences := { s.fences with inForce := s.fences.inForce.filter (fun g => decide (g ≠ f)) } }
  else { s with fences := { s.fences with inForce := s.fences.inForce.map (fun g => if g = f then { g with reloadAt := page } else g) } }

/-- The lines of a DFA page that a fence holds. -/
def Fence.lines (f : Fence) (s : State) (page : Nat) : List Nat :=
  ((List.range 64).map (fun i => page * 4096 + 64 * i)).filter (fun a =>
    decide (f.cls = 1 ∧ f.inst = dfaChan a) || decide (f.cls = 2 ∧ f.inst = 2 * dfaChan a + s.dfaSlot f.tile a))

/-- Reload the held lines of one page from the flash image, or as poisoned where its Tideline bit is set. -/
def State.reloadPage (s : State) (f : Fence) (page : Nat) : State :=
  let t := f.tile
  let ht := (s.logicalOf t page).1
  let lp := (s.logicalOf t page).2
  if ht then s
  else if (s.tl t).dirty.contains page then
    (f.lines s page).foldl (fun s a => (s.placeQuiet t (lp * 4096 + a % 4096) a 0 true).enterPoison t (lp * 4096 + a % 4096)) s
  else
    match s.goodImage t false lp with
    | some r => (f.lines s page).foldl (fun s a => let (l, p) := r.line (a / 64 % 64); s.placeQuiet t (lp * 4096 + a % 4096) a l p) s
    | none => (f.lines s page).foldl (fun s a => s.placeQuiet t (lp * 4096 + a % 4096) a 0 false) s

/-- CHANNEL_RELOAD (07 R217): the next page of a cleared DRAM channel or DIMM is reloaded: its lines are asked of the twin
while it has been in MIRS, or come from the flash image. -/
def execChannelReload (cls inst tile : Nat) (s : State) : Run :=
  .next (match s.fence? cls inst tile with
    | some f =>
      if !f.reloading then s
      else if s.mode.mode = .mirs ∧ !s.twinServes ∧ (s.tl tile).dirty.contains f.reloadAt then s
      else if s.twinServes ∧ !(s.logicalOf tile f.reloadAt).1 then
        let off := (s.logicalOf tile f.reloadAt).2 * 4096
        if (s.mt tile).lrqs.any (fun q => decide (q.off = off ∧ q.why = .reload)) then s else s.sendLrq tile off 64 .reload 0
      else (s.reloadPage f f.reloadAt).reloadTo f (f.reloadAt + 1)
    | none => s)

end Sys2Proof.Machine
end

