-- ==== Sys2Proof/Machine/MirRows.lean ====
section
/-! DEFINITION. The commands of the Isahar link and of mirroring: link training, data messages, packets, receipts, frames applied,
line resync, checkpoints, the Tidemark of the pair, resync, and the messages of the command channel (10 R292 to R315, R320, R325 to
R328). -/

namespace Sys2Proof.Machine

/-! ### Discipline of the master -/

/-- Discipline of a count toward another by rate adjustment within ±100 ppm, and never by a step (01 R31, R33). The spec gives the bound
and the direction; how far the rate is adjusted is a free value. (DESIGN CHOICE, log 75.) -/
def State.slew (s : State) (diff : Int) : Int × State :=
  let (w, s) := s.drawWord
  let n : Int := (w.toNat % 100001 : Nat)
  (if diff < 0 then -n else if 0 < diff then n else 0, s)
def State.slewMaster (s : State) (diff : Int) : State :=
  let (r, s) := s.slew diff
  { s with time := { s.time with master := { s.time.master with rate := r }, disciplined := true } }

/-- The step forward at pair formation, with the floor entry that it needs before it (01 R34, R35). (DEDUCED, log 77.) -/
def State.stepForward (s : State) (goal : Nat) : State :=
  if goal ≤ s.master then s
  else
    let s := if s.time.floor ≤ goal + 2 ^ 39 then s.floorTo (goal + 2 ^ 40) else s
    { s with time := { s.time with master := { s.time.master with count := goal },
                                   locals := s.time.locals.map (fun p => (p.1, { p.2 with count := p.2.count + (goal - s.time.master.count) })) } }

/-! ### The link -/

/-- The pair may not form (10 R292). (DEDUCED, log 86.) -/
def State.pairRefused (s : State) (part tiles pair flight : Nat) : Bool :=
  decide (part ≠ fld (s.fuseWord 4) 2 0 ∨ tiles ≠ s.tiles ∨ pair ≠ s.pairId ∨ pair = 0 ∨ s.pairId = 0 ∨ 2000 < flight)

/-- ISAHAR_LINK_TRAINED (10 R292, R294, R296; 01 R34; 14 R436): the link of a tile completes training: what the peer sent (part number, tile count,
pair ID, master count, `ciph.twin_gcm`), the flight in ns, the highest rate of both ends, and which paths trained. -/
def execIsaharLinkTrained (tile part tiles pair master flight rate : Nat) (gcm ok0 ok1 : Bool) (s : State) : Run :=
  let late := fun (p : Nat) => s.fenced 0x8 p tile
  .next (if s.tiles ≤ tile ∨ s.tileFenced tile ∨ s.pairId = 0 ∨ s.tap.scanHold ∨ s.mode.leaving ∨ s.mode.recovery ∨ [Mode.stby, .save].contains s.mode.mode then s
  else if s.pairRefused part tiles pair flight || gcm != decide (s.devP bCiph 0 = 1) then
    s.tileList.foldl (fun (s : State) t => (s.raiseFence 0x8 0 t 0x43 0).raiseFence 0x8 1 t 0x43 0) s
  else
    let s := if ok0 ∨ late 0 then s else s.raiseFence 0x8 0 tile 0x41 0
    let s := if ok1 ∨ late 1 then s else s.raiseFence 0x8 1 tile 0x41 0
    let x := s.mt tile
    let r := min rate (s.tileP bMirr tile 7)
    let forms := s.noPaths
    let s := s.setMt tile { x with up0 := ok0 && !late 0, up1 := ok1 && !late 1, rate := if 128 ≤ r then 128 else 64, flight, gcm, last0 := s.clock, last1 := s.clock }
    if s.noPaths then s
    else
      let s := if forms then { s.stepForward master with lease := { s.lease with twinLost := false } } else s
      if forms then s.sendSummary else s)

/-- The frames that a message takes from the front of a backlog: consecutive, of one epoch, within 4,095 ticks of the base, at most 128, at
most 32 packets, and within the credits (10 R299, R301, R304). -/
def packFrames (tm0 credits : Nat) : Nat → Nat → Option Frame → List Frame → List Frame
  | _, _, _, [] => []
  | n, bytes, prev, f :: r =>
    let size := bytes + 8 + f.bytes.length
    let units := f.units
    let ok : Bool := match prev with | none => true | some p => decide (f.seq = (p.seq + 1) % 2 ^ 48 ∧ f.epoch = p.epoch ∧ tm0 ≤ f.tm ∧ f.tm ≤ tm0 + 4095)
    if n < 128 ∧ ok ∧ size + 8 ≤ 8192 ∧ units ≤ credits then f :: packFrames tm0 (credits - units) (n + 1) size (some f) r else []

/-- Units of the receive store in use: frames sent and not yet freed (10 R304). -/
def MirTile.unitsOut (x : MirTile) : Nat := (x.slots.filter (fun sl => sl.sent.isSome)).foldl (fun a sl => a + sl.frame.units) 0

/-- FRAME_SEND (10 R301, R303, R304): a data message with every frame that is ready. `path` carries its even packets when both are up. -/
def execFrameSend (tile path : Nat) (s : State) : Run :=
  let x := s.mt tile
  .next (match (x.slots.filter (fun sl => sl.sent.isNone)).map Slot.frame with
    | [] => s
    | f :: r =>
      let fs := packFrames f.tm (65536 - x.unitsOut) 0 (if x.gcm then 52 else 24) none (f :: r)
      match s.carrier tile with
      | none => s
      | some c =>
        if s.lease.twinLost || fs.isEmpty || (s.freeMsgid tile 0).isNone then s
        else
          let last := (fs.getLast?.getD f).seq
          let sent := x.slots.map (fun sl => if fs.any (fun g => decide (g.seq = sl.frame.seq)) then { sl with sent := some s.clock } else sl)
          let s := (s.setMt tile { x with slots := sent }).sendMsg c tile xData 24 f.seq ((last + 2 ^ 48 - f.seq) % 2 ^ 48 + 1) path
            (msgHeader f.epoch fs.length false tile f.seq f.tm ++ fs.flatMap (fun g => g.wire f.tm))
          fs.foldl (fun (s : State) _ => s.tally tile 19 0x0001 {}) s)

/-- CRC-4 with polynomial x⁴ + x + 1 over 28 bits, most significant first (10 Table 10-1). (DESIGN CHOICE, log 64.) -/
def crc4 (v : Nat) : Nat :=
  (List.range 28).foldl (fun r i => let top := (r / 8 + v / 2 ^ (27 - i)) % 2; if top = 1 then (r * 2 % 16) ^^^ 3 else r * 2 % 16) 0

/-- A reassembly state of a tile, replaced or removed. -/
def State.setReasm (s : State) (t : Nat) (m : Reasm) (keep : Bool) : State :=
  let x := s.mt t
  let rest := x.reasm.filter (fun r => !decide (r.chan = m.chan ∧ r.msgid = m.msgid))
  s.setMt t { x with reasm := if keep then rest ++ [m] else rest }

/-- The bitmap of the indices that a message holds. -/
def Reasm.bitmap (m : Reasm) : Nat := m.parts.foldl (fun a p => a + 2 ^ p.1) 0

/-- The body of a message under GCM, in plaintext, when its tag is good: the bytes in clear, ciphertext, nonce and tag (14 R436). -/
def State.openBody (s : State) (t clear : Nat) (b : List Byte) : Option (List Byte) :=
  let n := b.length - 28
  (gcmDec (s.keySlot t 12).key ((b.drop n).take 12) (b.take clear) ((b.take n).drop clear) (b.drop (n + 12))).map (b.take clear ++ ·)

/-- The standby installs a session-scoped key that the active unit sends: the slot and the unwrapping slot, and the blob (14 R440). It is the one
message of the command channel of that length; the form of its first word is the model's. (DEDUCED, log 135.) -/
def State.takeKey (s : State) (t : Nat) (b : List Byte) : State :=
  let w := wordOfBytes (b.take 8)
  let slot := fld w 12 0
  let kek := s.keySlot t (fld w 28 16)
  if s.mode.mode ≠ .mirs ∨ b.length ≠ 56 ∨ slot < 64 ∨ kek.usage ≠ 1 ∨ (s.keySlot t slot).usage ≠ 0 then s
  else
    match (kwpUnwrap kek.key (b.drop 8)).bind (s.blobKey 0 t slot 0 (wordsOf 6 (b.drop 8))) with
    | some k => if k.isScoped then s.setKey t slot k else s
    | none => s

/-- MESSAGE_REASSEMBLY (10 R298, R308, R309): a packet of a tile's stream arrives on a path of the link that carries it. Its envelope is checked and counted; a message whose indices are
all present is complete when its digest, and under GCM its tag, checks, and is asked for again when it does not (14 R436). A data message then waits for FRAME_RECEIVE or
LRS; what the messages of the other channels say is taken by their own commands, but for the key of R440. (DEDUCED, log 65.) -/
def execMessageReassembly (tile path envelope : Nat) (payload : List Byte) (s : State) : Run :=
  let onTile := (s.carrier tile).getD tile
  let y := s.mt onTile
  .next (if !s.pathUp onTile path || payload.isEmpty || decide (256 < payload.length) then s
  else if crc4 (envelope / 16 % 2 ^ 28) ≠ envelope % 16 then
    let l := (path, s.clock) :: y.errs.filter (fun e => decide (s.clock < e.2 + sec))
    let s := s.setMt onTile { y with errs := l }
    if s.tileP bMirr onTile 2 < l.countP (fun e => decide (e.1 = path)) then s.raiseFence 0x8 path onTile 0x41 0 else s
  else
    let s := s.setMt onTile (if path = 0 then { y with last0 := s.clock } else { y with last1 := s.clock })
    let x := s.mt tile
    let chan := envelope / 16 % 4
    let msgid := envelope / 2 ^ 16 % 2 ^ 16
    let index := envelope / 2 ^ 11 % 32
    let last := envelope / 2 ^ 6 % 32
    if chan = 3 then s
    else
      let m : Reasm := (x.reasm.find? (fun r => decide (r.chan = chan ∧ r.msgid = msgid))).getD { chan, msgid, last, since := s.clock, nakAt := s.clock }
      if m.last < index ∨ Store.read m.parts index [] ≠ [] then s
      else
        let m : Reasm := { m with parts := Store.write m.parts index payload [] }
        if m.parts.length ≤ m.last then s.setReasm tile m true
        else
          let bytes := (m.parts.map Prod.snd).flatten
          let body := bytes.take (bytes.length - 8)
          let s := s.setReasm tile m false
          let good := decide (8 ≤ bytes.length ∧ crc64 body = wordOfBytes (bytes.drop (bytes.length - 8)))
          match good, (if (s.mt tile).gcm then s.openBody tile (if chan = 0 then 24 else 8) body else some body) with
          | true, some b =>
            if chan = 0 then s.setMt tile { s.mt tile with inbox := (s.mt tile).inbox ++ [b] } else if chan = 2 then s.takeKey tile b else s
          | _, _ => s.isahar tile xNak [BitVec.ofNat 64 chan, BitVec.ofNat 64 msgid, 0])

/-- REASSEMBLY_TIMEOUT (10 R309): a message stays incomplete 20 µs after its first packet, or after its last NAK. -/
def execReassemblyTimeout (tile chan msgid : Nat) (s : State) : Run :=
  .next (match (s.mt tile).reasm.find? (fun r => decide (r.chan = chan ∧ r.msgid = msgid)) with
    | some m =>
      if s.due m.nakAt (20 * us) then
        (s.setReasm tile { m with nakAt := s.clock } true).isahar tile xNak [BitVec.ofNat 64 chan, BitVec.ofNat 64 msgid, BitVec.ofNat 64 m.bitmap]
      else s
    | none => s)

/-- NAK (10 R309): the packets missing from the bitmap, or all of them, are sent again; after four NAKs of one message the path that carried
the most of them is fenced, path 1 on a tie, and they go on the other. -/
def execNak (tile chan msgid bitmap : Nat) (s : State) : Run :=
  let x := s.mt tile
  .next (match x.outMsgs.find? (fun m => decide (m.chan = chan ∧ m.msgid = msgid)) with
    | none => s
    | some m =>
      let missing := (List.range (m.last + 1)).filter (fun i => bitmap = 0 || !bitmap.testBit i)
      let onTile := (s.carrier tile).getD tile
      let both := s.pathUp onTile 0 && s.pathUp onTile 1
      let pathOf := fun (i : Nat) => if both then (m.onPath + i) % 2 else if s.pathUp onTile 0 then 0 else 1
      let n0 := missing.countP (fun i => decide (pathOf i = 0))
      let mine := fun (sl : Slot) => sl.sent.isSome && decide ((sl.frame.seq + 2 ^ 48 - m.seq0) % 2 ^ 48 < m.frames)
      let m' : OutMsg := { m with naks := m.naks + 1, sentAt := s.clock }
      let s := s.setMt tile { x with outMsgs := x.outMsgs.map (fun q => if q = m then m' else q),
                                     slots := x.slots.map (fun sl => if mine sl then { sl with sent := some s.clock } else sl) }
      let s := (s.tally tile 19 0x0003 {}).tally tile 19 0x0002 {}
      let s := if 4 ≤ m'.naks then s.raiseFence 0x8 (if missing.length - n0 < n0 then 0 else 1) onTile 0x42 0 else s
      match s.carrier tile with
      | some c => s.emit (.isaharAgain c tile chan msgid (missing.foldl (fun a i => a + 2 ^ i) 0))
      | none => s)

/-! ### Frames received -/

/-- The descriptor and data of each frame of a message body after its header (10 Tables 10-3 and 10-4). -/
def splitFrames : Nat → List Byte → List (Word × List Byte)
  | 0, _ => []
  | n + 1, l =>
    let d := wordOfBytes (l.take 8)
    let k := match fld d 2 0 with | 0 => 64 | 1 => 72 | 4 => 64 | 6 => 4104 | _ => 0
    (d, (l.drop 8).take k) :: splitFrames n ((l.drop 8).drop k)

/-- The 64 lines of 4,096 bytes. -/
def linesOf : Nat → List Byte → List Line
  | 0, _ => []
  | n + 1, l => Line.ofBytes (l.take 64) :: linesOf n (l.drop 64)

/-- A frame from the fields that its message shares and its own (10 R300). -/
def frameOf (epoch seq tm0 : Nat) (p : Word × List Byte) : Frame :=
  let fk := fld p.1 2 0
  let f : Frame := { seq := seq % 2 ^ 48, epoch, tm := tm0 + fld p.1 14 3, sess := fld p.1 26 15, off := fld p.1 63 27 * 64, fk }
  match fk with
  | 0 | 4 => { f with data := Line.ofBytes p.2 }
  | 1 => { f with mask := wordOfBytes (p.2.take 8), data := Line.ofBytes (p.2.drop 8) }
  | 6 => { f with poison := wordOfBytes (p.2.take 8), page := linesOf 64 (p.2.drop 8) }
  | _ => f

/-- The header words of a message body, and whether it carries line resync data. -/
def msgWord (b : List Byte) (i : Nat) : Word := wordOfBytes ((b.drop (8 * i)).take 8)
def msgLrs (b : List Byte) : Bool := bit (msgWord b 1) 56
def msgFrames (b : List Byte) : List Frame :=
  let l := splitFrames (fld (msgWord b 1) 63 57 + 1) (b.drop 24)
  ((List.range l.length).zip l).map (fun p => frameOf (msgWord b 0).toNat (fld (msgWord b 1) 47 0 + p.1) (msgWord b 2).toNat p.2)

/-- A receipt (10 Table 10-7). -/
def State.receiptWords (s : State) (t status : Nat) (f : Frame) : List Word :=
  [word [(48, f.seq / 8192 % 65536), (0, f.seq)], word [(56, status), (48, t), (0, (s.mt t).applied)]]

/-- Table 10-6 for one frame: what it leaves, and its receipt if it has one. -/
def State.receiveFrame (s : State) (t : Nat) (f : Frame) : State × List Word :=
  let x := s.mt t
  let g := f.seq / 8192 % 65536
  let held := Store.read x.gens (f.seq % 8192) 0
  let newer := held ≠ 0 ∧ 0 < (held - 1 + 65536 - g) % 65536 ∧ (held - 1 + 65536 - g) % 65536 < 32768
  if f.epoch < s.lease.epoch then (s, s.receiptWords t 0x41 f)
  else if s.lease.epoch < f.epoch ∨ s.mode.mode ≠ .mirs then (s, [])
  else if newer then (s, [])
  else if seqLe f.seq x.applied ∨ x.store.any (fun q => decide (q.seq = f.seq)) then (s, s.receiptWords t 0 f)
  else
    let s := s.setMt t { x with store := x.store ++ [f], gens := Store.write x.gens (f.seq % 8192) (g + 1) 0,
                                received := if seqLe x.received f.seq then f.seq else x.received }
    (s, s.receiptWords t 0 f)

/-- Receipts, at most 15 in a packet and 13 under GCM, with its digest (10 Table 10-7; 14 R436). -/
def State.sendReceipts (s : State) (t : Nat) : Nat → List Word → State
  | 0, _ => s
  | n + 1, l =>
    if l.isEmpty then s
    else
      let k := if (s.mt t).gcm then 26 else 30
      (s.isahar t xReceipt (l.take k)).sendReceipts t n (l.drop k)

/-- FRAME_RECEIVE (10 R305, Table 10-6): each frame of the next completed data message. -/
def execFrameReceive (tile : Nat) (s : State) : Run :=
  let x := s.mt tile
  .next (match x.inbox.find? (fun b => !msgLrs b) with
    | none => s
    | some b =>
      let s := s.setMt tile { x with inbox := x.inbox.erase b }
      let (s, ws) := (msgFrames b).foldl (fun (p : State × List Word) f => let (s, w) := p.1.receiveFrame tile f; (s, p.2 ++ w)) (s, [])
      s.sendReceipts tile (ws.length / 26 + 1) ws)

/-! ### Receipts -/

/-- A store whose receipt has arrived is acknowledged (10 R302): not past the deadline E (R319), nor after a status EPOCH (R306). The
stores of its line that came before it and still wait keep its bytes. -/
def State.ackSeq (s : State) (t seq : Nat) : State :=
  if s.lease.expired then s
  else match s.unacked.find? (fun u => decide (u.owner = t ∧ u.seq = seq)) with
    | some u =>
      let before := (s.unacked.takeWhile (fun v => decide (v ≠ u))).map (fun v =>
        if v.owner = t ∧ v.req.toff / 64 = u.req.toff / 64 then { v with kept := v.kept ||| u.req.writes } else v)
      ({ s with unacked := before ++ (s.unacked.dropWhile (fun v => decide (v ≠ u))).drop 1 }).ackOne u
    | none => s

/-- Slots are freed up to APPLIED, and with them the messages whose frames all have their receipts; requests that wait for the window go on
(10 R304, R309). -/
def State.freeSlots (s : State) (t applied : Nat) : State :=
  let x := s.mt t
  let gone := fun (sl : Slot) => sl.ok && seqLe sl.frame.seq applied
  let n := x.slots.countP (fun sl => gone sl && sl.resync)
  let slots := x.slots.filter (fun sl => !gone sl)
  let msgs := x.outMsgs.filter (fun m => decide (m.frames = 0) || s.msgBusy t m)
  (s.setMt t { x with slots, outMsgs := msgs, resync := x.resync.map (fun r => { r with left := r.left - n }) }).kick t [.window]

/-- RECEIPT (10 R304, R306): ignored when its generation is not the slot's. Status EPOCH stops every ingress and takes the unit to MIRS. -/
def execReceipt (tile gen seq status applied : Nat) (s : State) : Run :=
  let x := s.mt tile
  .next (match x.slots.find? (fun sl => decide (sl.frame.seq % 8192 = seq % 8192)) with
    | none => s
    | some sl =>
      if sl.frame.seq / 8192 % 65536 ≠ gen then s
      else if status = 0x41 then
        (({ s with lease := { s.lease with stopped := true }, unacked := [] }).nameMode .mirs 4)
      else if status = 0 then
        let s := s.setMt tile { x with slots := x.slots.map (fun q => if q = sl then { q with ok := true } else q) }
        (s.freeSlots tile applied).ackSeq tile sl.frame.seq
      else s)

/-- RECEIPT_TIMEOUT (10 R307): the frame is sent again, in a new message. -/
def execReceiptTimeout (tile seq : Nat) (s : State) : Run :=
  let x := s.mt tile
  .next (match x.slots.find? (fun sl => decide (sl.frame.seq = seq) && !sl.ok) with
    | some sl =>
      match sl.sent with
      | some t0 =>
        if s.due t0 (s.tileP bMirr tile 1 * us) ∧ !s.lease.twinLost then
          (s.setMt tile { x with slots := x.slots.map (fun q => if q = sl then { q with sent := none } else q) }).tally tile 19 0x0002 {}
        else s
      | none => s
    | none => s)

/-- FRAME_APPLY (10 R310): the next frame in sequence order; not while a Spring tide holds the ingress of the tile. -/
def execFrameApply (tile : Nat) (s : State) : Run :=
  .next (if s.mode.mode = .mirs ∧ tile < s.tiles ∧ !s.tileFenced tile ∧ !s.tideStops tile then ((s.applyNext tile false).afterApply tile).tryTakeOver else s)

/-! ### Line resync -/

/-- LRQ (10 R312): the twin asks for consecutive lines. The standby answers once APPLIED has reached SEQ_R. -/
def execLrq (tile off count seqR : Nat) (s : State) : Run :=
  let x := s.mt tile
  .next (if s.tiles ≤ tile ∨ count = 0 ∨ 64 < count ∨ off % 64 ≠ 0 ∨ !s.twinUp then s
  else if s.mode.mode = .mirs ∧ !seqLe seqR x.applied then s.setMt tile { x with lrqWait := x.lrqWait ++ [(off, count, seqR)] }
  else s.answerLrq tile off count)

/-- The lines of a line resync message, from a tile offset. -/
def lrsLines (fs : List Frame) : List (Bool × Line) := fs.map (fun f => (decide (f.fk = 2), f.data))

/-- A line that the twin has sent cannot be placed yet: its channel is held, or the conversion lap holds its group (06 R175; 07 R190). -/
def State.lrsHeld (s : State) (t off n : Nat) : Bool :=
  (List.range n).any (fun i => match s.localDfa t (off + 64 * i) with | some a => s.converting t a || s.chanAway t (dfaChan a) | none => false)

/-- What a requester does with its lines. -/
def State.takeLrs (s : State) (t : Nat) (why : LrqFor) (w : LrsWait) : State :=
  match why with
  | .read | .recovery | .mismatch => s.storeLrs t w
  | .reload =>
    let s := s.storeLrs t w
    match s.fences.inForce.find? (fun f => decide (f.tile = t) && f.reloading && decide ((s.logicalOf t f.reloadAt).2 * 4096 = w.off)) with
    | some f => s.reloadTo f (f.reloadAt + 1)
    | none => s
  | .drain page =>
    match (s.tl t).inflight.find? (fun f => decide (f.page = page)) with
    | none => s
    | some f =>
      let p : BitVec 64 := (List.range 64).foldl (fun a i => if (w.lines.getD i (false, 0)).1 then a ||| (1#64 <<< i) else a) 0
      s.putRec t { kind := 1, lpage := w.off / 4096, tm := f.ts, poison := p, epoch := s.epoch, key := s.imageKey t, lines := w.lines.map Prod.snd } false
  | .flashPage lp =>
    let ls := (List.range 64).map (fun i => let q := w.lines.getD i (false, 0); (q.2, q.1))
    if hMoving (s.homeEntry t lp) then
      match s.anyFrame t with
      | (some f, s) => ((((s.fillFrame t lp f ls).takeFrame t lp (s.pageSess t lp) f).markPage t f).foDrop t lp).endMove t lp
      | (none, s) => s
    else
      let p : BitVec 64 := (List.range 64).foldl (fun a i => if (ls.getD i (0, false)).2 then a ||| (1#64 <<< i) else a) 0
      let s := s.putRec t { kind := 1, lpage := lp, tm := s.localCount t, poison := p, epoch := s.epoch, key := s.imageKey t, lines := ls.map Prod.fst } false
      s.setTh t { s.th t with backlog := (s.th t).backlog.filter (fun e => decide (e ≠ lp)) }

/-- LRS (10 R312): line resync data of the next completed message that carries some. An active unit stores it at once, a standby when
APPLIED has reached SEQ0. -/
def execLrs (tile : Nat) (s : State) : Run :=
  let x := s.mt tile
  let standby := decide (s.mode.mode = .mirs)
  let waits := fun (q : Lrq) (b : List Byte) => decide (q.why ≠ .recovery) && s.lrsHeld tile q.off (msgFrames b).length || standby && !seqLe (fld (msgWord b 1) 47 0) x.applied && !decide (q.why = .recovery ∨ q.why = .mismatch)
  let off := fun (b : List Byte) => ((msgFrames b).head?.map Frame.off).getD 0
  let asked := fun (b : List Byte) => x.lrqs.find? (fun q => decide (q.off = off b))
  .next (match x.inbox.find? (fun b => msgLrs b && !(match asked b with | some q => waits q b | none => false)) with
    | none => s
    | some b =>
      let s := s.setMt tile { x with inbox := x.inbox.erase b }
      match asked b with
      | none => s
      | some q =>
        let seq0 := fld (msgWord b 1) 47 0
        let w : LrsWait := { off := q.off, seq0, lines := lrsLines (msgFrames b) }
        let s := s.setMt tile { s.mt tile with lrqs := (s.mt tile).lrqs.erase q }
        if standby && !seqLe seq0 x.applied then s.setMt tile { s.mt tile with lrsWait := (s.mt tile).lrsWait ++ [w] }
        else s.takeLrs tile q.why w)

/-- LRQ_TIMEOUT (10 R312): sent again, as a frame is. -/
def execLrqTimeout (tile off : Nat) (s : State) : Run :=
  let x := s.mt tile
  .next (match x.lrqs.find? (fun q => decide (q.off = off)) with
    | some q =>
      if s.due q.sentAt (s.tileP bMirr tile 1 * us) then
        (s.setMt tile { x with lrqs := x.lrqs.map (fun r => if r = q then { r with sentAt := s.clock } else r) }).isahar tile xLrq q.words
      else s
    | none => s)

/-! ### Checkpoints -/

/-- The tile sends frames to its twin, so that checkpoints go. -/
def State.ckptGoes (s : State) (t : Nat) : Bool := decide (t < s.tiles) && s.twinUp && s.sendsFrames t

/-- Send CKPT (10 R314). -/
def State.sendCkpt (s : State) (t : Nat) : State :=
  let x := s.mt t
  let c : Ckpt := { seq := x.lastSeq, tm := x.lastTm, digest := ~~~ x.digestFor s.epoch }
  (s.setMt t { x with ckptSent := some c, ckptAt := s.clock }).isahar t xCkpt [BitVec.ofNat 64 c.seq, BitVec.ofNat 64 c.tm, c.digest]

/-- CKPT (10 R314): on the serving unit, 1 ms has passed since the tile sent its last; on the standby, one arrives and is compared once
APPLIED has reached it. -/
def execCkpt (tile seq tm : Nat) (digest : Word) (s : State) : Run :=
  .next (if s.ckptGoes tile then (if s.due (s.mt tile).ckptAt ms then s.sendCkpt tile else s)
  else if s.mode.mode = .mirs ∧ tile < s.tiles then
    (s.setMt tile { s.mt tile with ckptWait := some { seq, tm, digest } }).compareCkpt tile
  else s)

/-- The long instructions MDIG of a tile end. -/
def State.endMdig (s : State) (t : Nat) (st : Status) (r : Word) : State := s.finishAll (fun op => decide (op = .mdig t)) st r

/-- CKOK (10 R314, R328): the checkpoint is confirmed; APPLIED has reached it, so the slots up to it are freed; a resync whose pages are
all applied has its matching checkpoint. (DEDUCED, log 66.) -/
def execCkok (tile seq tm : Nat) (digest : Word) (s : State) : Run :=
  let x := s.mt tile
  .next (if s.ckptGoes tile ∧ x.ckptSent = some { seq, tm, digest } then
    let s := s.setMt tile { x with ckpt := some { seq, tm, digest } }
    let s := s.freeSlots tile seq
    let s := s.setMt tile { s.mt tile with resync := (s.mt tile).resync.map (fun r => { r with confirmed := r.confirmed || (r.started && r.todo.isEmpty && decide (r.left = 0) && seqLe r.lastSeq seq) }) }
    s.endMdig tile .ok digest
  else s)

/-- Begin a resync of a tile from the serving unit's last confirmed checkpoint, or in full (10 R325). -/
def State.beginResync (s : State) (t : Nat) (full : Bool) : State :=
  let x := s.mt t
  let f := full || x.ckpt.isNone
  s.setMt t { x with synced := false, resync := some { kind := 1, full := f, point := (x.ckpt.getD {}).tm } }

/-- CKBAD (10 R315): the tile is resynced incrementally. -/
def execCkbad (tile seq : Nat) (s : State) : Run :=
  .next (if s.ckptGoes tile ∧ ((s.mt tile).ckptSent.map Ckpt.seq) = some seq then (s.beginResync tile false).endMdig tile .chkfail 0 else s)

/-! ### Messages of the command channel -/

/-- SYNC (01 R33; 10 Table 10-8): heartbeat of a path; in MIRS the master follows the active unit's by rate adjustment. -/
def execSync (tile path tidemark : Nat) (s : State) : Run :=
  let x := s.mt tile
  .next (if !s.pathUp tile path then s
  else
    let s := s.setMt tile (if path = 0 then { x with last0 := s.clock } else { x with last1 := s.clock })
    if s.mode.mode = .mirs ∧ tile = 0 ∧ s.time.master.on then s.slewMaster (Int.ofNat (tidemark + 4 * x.flight) - Int.ofNat s.master) else s)

/-- HEARTBEAT_TIMEOUT (10 R321): no message on a path for `mirr.hb_timeout`. -/
def execHeartbeatTimeout (tile path : Nat) (s : State) : Run :=
  let x := s.mt tile
  .next (if path < 2 ∧ s.pathUp tile path ∧ s.due (if path = 0 then x.last0 else x.last1) (s.tileP bMirr tile 0 * us) then s.raiseFence 0x8 path tile 0x40 0 else s)

/-- EPOCH (10 R320, R322, R330): a higher epoch is adopted, and with it the next sequence number of each tile of the sender. A unit still in
ACTV is no longer the holder and leaves as R306 says; a handover from this unit has succeeded. (DEDUCED, log 69.) -/
def execEpoch (epoch : Nat) (next : List Nat) (s : State) : Run :=
  .next (if epoch ≤ s.lease.epoch ∨ !s.twinUp then s
  else
    let s : State := { s with lease := { s.lease with epoch } }
    let s := s.finishAll (fun op => decide (op = .mrole 0)) .ok (BitVec.ofNat 64 epoch)
    if s.mode.mode = .mirs then
      let s : State := if s.lease.wish = .handoverFrom then { s with lease := { s.lease with wish := .idle, handoverDone := false } } else s
      s.tileList.foldl (fun (s : State) t => match next[t]? with
        | some n => s.setMt t { s.mt t with applied := (n + (2 ^ 48 - 1)) % 2 ^ 48, received := (n + (2 ^ 48 - 1)) % 2 ^ 48, gens := [], store := [], ckptWait := none }
        | none => s) s
    else if s.mode.mode = .actv then ({ s with lease := { s.lease with stopped := true }, unacked := [] }).nameMode .mirs 4
    else s)

/-- TIDE (10 R295): on the standby, a tide of the active unit: named; released, so that what it applied holds; rolled back. (DEDUCED, log 67.) -/
def execTide (name : Nat) (message : TideMsg) (s : State) : Run :=
  .next (if s.mode.mode ≠ .mirs then s
  else match message with
    | .announce at_ cs =>
      if s.twinTides.any (fun d => decide (d.name = name)) then s
      else
        let d : Tide := { name, at_, changes := cs.map (fun c => ⟨hereChange c, 0⟩), ctx := none }
        { s with twinTides := s.twinTides ++ [d] }
    | .release =>
      match s.twinTides.find? (fun d => decide (d.name = name) && d.passed) with
      | some d =>
        let s := d.changes.foldl (fun (s : State) e => s.entryNow d.at_ e.change) s
        let s := s.liveTiles.foldl State.setHtLen s
        let s : State := { s with twinTides := s.twinTides.filter (fun e => decide (e.name ≠ name)) }
        s.liveTiles.foldl (fun (s : State) t => if s.tideStops t then s else s.letIn t) s
      | none => s
    | .rollback =>
      match s.twinTides.find? (fun d => decide (d.name = name)) with
      | some d =>
        let s : State := { s.restore d.undo with twinTides := s.twinTides.filter (fun e => decide (e.name ≠ name)) }
        s.liveTiles.foldl (fun (s : State) t => if s.tideStops t then s else s.letIn t) s
      | none => s)

/-- FENCE_MESSAGE (07 R211; 10 Table 10-8): the notice is kept. (DEDUCED, log 71.) -/
def execFenceMessage (cls inst cause : Nat) (s : State) : Run :=
  .next (if s.twinUp ∧ !s.lease.twinFences.contains (cls, inst, cause) then { s with lease := { s.lease with twinFences := s.lease.twinFences ++ [(cls, inst, cause)] } } else s)

/-! ### Resync -/

/-- This unit serves, so that it resyncs its twin (10 R325). -/
def State.resyncs (s : State) : Bool :=
  s.twinUp && (decide (s.mode.mode = .actv ∨ s.mode.mode = .solo) || (decide (s.mode.mode = .rstr) && s.boot.auth && s.leaseOk))

/-- This unit's part of an incremental set from a resync point (10 R326). -/
def State.resyncPart (s : State) (t point : Nat) : List Nat :=
  let marked := (s.tl t).dirty.filterMap (fun p => let (ht, lp) := s.logicalOf t p; if ht then none else some lp)
  let recs := ((s.th t).recs.filter (fun r => !r.ht && decide (r.kind ≠ 5 ∧ point ≤ r.tm))).map TRec.lpage
  (marked ++ recs).foldl (fun (a : List Nat) p => insertNat p a) []

/-- The pages of a full resync: every page of the pinned extents of the tile, and every mapped page of its tiered extents. -/
def State.fullSet (s : State) (t : Nat) : List Nat :=
  let exts := (s.sessions.map (fun p => p.2.exts.map Prod.snd)).flatten.filter (fun (e : Ext) => e.defined && decide (e.dpa / 2 ^ 43 = t))
  (exts.map (fun e =>
    let base := e.dpa % 2 ^ 43 / 4096
    let ps := (List.range (e.len / 4096)).map (base + ·)
    if e.tiered then ps.filter (fun p => decide (hKind (s.homeEntry t p) ≠ 0)) else ps)).flatten.foldl (fun (a : List Nat) p => insertNat p a) []

/-- RSET (10 R325 to R327): the standby, not synced, sends its part of the set from the resync point of the serving unit; the serving unit
takes it, knows its twin to be in MIRS, and begins the resync of the tile: in full when the standby holds no confirmed checkpoint. -/
def execRset (tile point : Nat) (pages : List Nat) (confirmed : Bool) (s : State) : Run :=
  .next (if s.tiles ≤ tile ∨ !s.twinUp then s
  else if s.mode.mode = .mirs then
    if (s.mt tile).synced then s
    else s.isahar tile xRset ([BitVec.ofNat 64 point, BitVec.ofNat 64 (b01 (s.mt tile).ckpt.isSome)] ++ (s.resyncPart tile point).map (BitVec.ofNat 64))
  else if s.resyncs then
    let s : State := { s with lease := { s.lease with twinMirs := true } }
    let s := s.setMt tile { s.mt tile with rset := pages.foldl (fun (a : List Nat) p => insertNat p a) [] }
    if (s.mt tile).resync.isNone ∧ !(s.mt tile).synced then s.beginResync tile (!confirmed) else s
  else s)

/-- The configuration step of this unit (10 R295). -/
def State.twinConfig (s : State) : TwinConfig :=
  { sessions := (s.sessions.filter (fun p => p.2.isOpen)).map (fun p =>
      { id := p.1, tile := p.2.tile, link := p.2.link, ld := p.2.ld, cpr := p.2.cpr, resv := p.2.resv, exts := p.2.exts, scheds := p.2.scheds }),
    params := (s.params.filter (fun p => decide (pidBlock (p.1 % 2 ^ 24) = bSess))).map (fun p => (p.1 % 2 ^ 24, p.1 / 2 ^ 24, p.2)),
    binds := s.binds,
    keys := (s.keys.filter (fun p => p.2.isScoped)).map (fun p =>
      { tile := p.1 / 8192, slot := p.1 % 8192, sess := p.2.sess, usage := p.2.usage, blob := p.2.blob, key := p.2.key }) }

/-- The standby replaces its own copy as a whole. -/
def State.takeConfig (s : State) (c : TwinConfig) : State :=
  let sessions : Store Sess := c.sessions.foldl (fun (a : Store Sess) x =>
    let old := s.sess x.id
    let y : Sess := { isOpen := true, tile := x.tile, link := x.link, ld := x.ld, cpr := x.cpr, resv := x.resv, exts := x.exts, scheds := x.scheds, slip := old.slip }
    Store.write a x.id y {}) []
  let kept := s.params.filter (fun p => decide (pidBlock (p.1 % 2 ^ 24) ≠ bSess))
  let s : State := { s with sessions, params := kept, binds := c.binds, keys := s.keys.filter (fun p => !p.2.isScoped) }
  let s := c.params.foldl (fun (s : State) p => s.setParam p.1 p.2.1 p.2.2) s
  let s := c.keys.foldl (fun (s : State) k =>
    s.setKey k.tile k.slot { usage := k.usage, key := k.key, isScoped := true, sess := k.sess, blob := k.blob, installs := 1 }) s
  s.liveTiles.foldl State.setHtLen s

/-- A page frame of a logical page (10 R327): read at the order check from whichever home holds it. -/
def State.pageFrame (s : State) (t p : Nat) : State :=
  let ls := (List.range 64).map (fun i => s.lineAt t (p * 4096 + 64 * i))
  let poison : BitVec 64 := (List.range 64).foldl (fun a i => if (ls.getD i (0, false)).2 then a ||| (1#64 <<< i) else a) 0
  let page := ls.map (fun q => if q.2 then 0 else q.1)
  s.assignFrame t (fun q => { seq := q, epoch := s.epoch, tm := s.localCount t, sess := s.pageSess t p, off := p * 4096, fk := 6, page, poison }) true

/-- One step of the resync of a tile by the serving unit (10 R327): the configuration step, which sets the digest register; then a page of
the set, in ascending order, while fewer than half the window slots hold resync frames and `mirr.resync_rate` allows it. -/
def State.resyncStep (s : State) (t : Nat) (r : Resync) : State :=
  let x := s.mt t
  if r.kind = 1 then
    let todo := if r.full then s.fullSet t else (s.resyncPart t r.point ++ x.rset).foldl (fun (a : List Nat) p => insertNat p a) []
    let slots := if s.mode.mode = .actv then x.slots else []
    (s.setMt t { x with slots, rset := [], digest := BitVec.allOnes 64, dEpoch := s.epoch, ckptSent := none,
                        resync := some { r with kind := if r.full then 3 else 2, started := todo.isEmpty, todo, left := todo.length, total := todo.length, confirmed := false,
                                                lastSeq := x.lastSeq } }).emit (.config t s.twinConfig)
  else match r.todo with
    | [] => s
    | p :: rest =>
      if x.windowFull ∨ s.pageAway t ∨ 4096 ≤ x.slots.countP (fun sl => sl.resync) ∨ s.clock < r.nextAt then s
      else
        let rate := s.tileP bMirr t 3
        (s.setMt t { x with resync := some { r with started := true, todo := rest, lastSeq := x.seq, nextAt := s.clock + (16384 + rate - 1) / rate } }).pageFrame t p

/-- RESYNC (10 R295, R325 to R327): on the serving unit, the next step of the resync of a tile; on the standby, its configuration step: the
copy is replaced, SYNCED clears, and the digest is set at frame `next`; unless frames before it still follow, APPLIED stands before it. (DEDUCED, log 74.) -/
def execResync (tile next pages : Nat) (follows : Bool) (config : TwinConfig) (s : State) : Run :=
  .next (if s.tiles ≤ tile ∨ !s.twinUp then s
  else if s.mode.mode = .mirs then
    let s := s.takeConfig config
    let x := s.mt tile
    let y : MirTile := { x with synced := false, resync := some { kind := 2, full := false, point := 0, started := true, left := pages, total := pages }, digestFrom := some (next % 2 ^ 48), ckptWait := none }
    let s : State := { s with lease := { s.lease with fbSince := none } }
    if follows ∧ seqLe x.applied ((next + (2 ^ 48 - 1)) % 2 ^ 48) ∧ x.applied ≠ (next + (2 ^ 48 - 1)) % 2 ^ 48 then s.setMt tile y
    else s.setMt tile { y with applied := (next + (2 ^ 48 - 1)) % 2 ^ 48, received := (next + (2 ^ 48 - 1)) % 2 ^ 48, store := [], gens := [],
                               digest := BitVec.allOnes 64, dEpoch := s.lease.epoch, digestFrom := none }
  else if s.resyncs then
    match (s.mt tile).resync with
    | some r => s.resyncStep tile r
    | none => s
  else s)

/-- RESYNC_COMPLETE (10 R328): every page is applied and the first checkpoint after the last has matched. With every tile synced a serving
unit in SOLO names the tide into ACTV. -/
def execResyncComplete (tile : Nat) (s : State) : Run :=
  .next (match (s.mt tile).resync with
    | some r =>
      if s.resyncs ∧ r.confirmed then
        let s := (s.setMt tile { s.mt tile with synced := true, resync := none }).creditMsync tile r.total
        if s.mode.mode = .solo ∧ s.allSynced ∧ !s.mode.soloMain then s.nameMode .actv 0x0D else s
      else s
    | none => s)

end Sys2Proof.Machine
end

