-- ==== Sys2Proof/Machine/LeaseRows.lean ====
section
/-! DEFINITION. The commands of Headland: the lease and its deadline, failover, handover and failback, the witness, and the
instructions MROLE, MSYNC, MDIG and LEASE (10 R316 to R330; 13 R409 to R412). -/

namespace Sys2Proof.Machine

/-! ### Requests to the witness -/

/-- The unit renews: it holds the lease, or is in SOLO or RSTR as the authoritative unit and asks for it again (10 R318, R319). -/
def State.renews (s : State) : Bool :=
  decide (s.pairId ≠ 0) && !s.mode.leaving && ! [Mode.stby, .save].contains s.mode.mode &&
    (s.leaseOk || decide (s.mode.mode = .solo) || (s.boot.auth && decide (s.mode.mode = .rstr ∨ s.mode.mode = .brup)))

/-- LEASE_RENEW (10 R318): REQ every `mirr.lease_renew`, unless a request is open. -/
def execLeaseRenew (s : State) : Run :=
  .next (if s.renews ∧ !s.lease.waiting ∧ s.due s.lease.renewAt (s.devP bMirr 4 * us) then
    ({ s with lease := { s.lease with renewAt := s.clock, tries := 0, force := false } }).witSend 1 s.leaseLen
  else s)

/-- REQ_RETRY (10 R318; 13 R412): an open request of 200 µs is sent again with a new REQNO; a LEASE ends after three. -/
def execReqRetry (s : State) : Run :=
  .next (if s.lease.waiting ∧ s.due s.lease.sentAt (200 * us) then
    let n := s.lease.tries + 1
    let s := if 3 ≤ n then s.finishAll (fun op => decide (op = .lease)) .lease 0 else s
    ({ s with lease := { s.lease with tries := n } }).witSend s.lease.kind (if s.lease.kind = 1 then s.leaseLen else 0)
  else s)

/-- A valid message of the witness has arrived. -/
def State.heard (s : State) (type : Nat) : State := { s with lease := { s.lease with lastType := type, lastWit := some s.clock } }

/-- The deadline of a grant (10 R318): E = s + L − G, with G = 2 × 10⁻⁴ × L + 0.8 µs. -/
def leaseDeadline (sentAt value : Nat) : Nat := sentAt + value * us - (value * us / 5000 + 3200)

/-- The next sequence number of each tile, which EPOCH carries in this model. -/
def State.sendEpoch (s : State) : State :=
  if s.pairId = 0 ∨ s.lease.twinLost then s
  else s.isahar 0 xEpoch (BitVec.ofNat 64 s.lease.epoch :: s.tileList.map (fun t =>
    BitVec.ofNat 64 (if s.mode.mode = .mirs then ((s.mt t).applied + 1) % 2 ^ 48 else (s.mt t).seq)))

/-- A grant would be used: not by a unit that leaves the lease to its twin. (DEDUCED, log 73.) -/
def State.wantsGrant (s : State) : Bool :=
  match s.mode.mode with
  | .stby | .save => false
  | .actv => !s.lease.expired
  | .mirs => decide (s.lease.wish = .failover ∨ s.lease.wish = .handoverTo ∨ s.lease.wish = .handoverFrom)
  | _ => true

/-- GRANT (10 R318, R319, R322, R324, R330; 02 R62; 13 R412): the answer to the request last sent. The deadline moves, a higher epoch is
adopted and sent, and what the request was for goes on. -/
def execGrant (epoch : Nat) (req : PairReq) (value : Nat) (s : State) : Run :=
  .next (if s.pairId = 0 ∨ req.pair ≠ s.pairId then s
  else
    let s := s.heard 2
    if !s.lease.waiting ∨ req.reqno ≠ s.lease.reqno ∨ !s.wantsGrant then s
    else
      let wish := s.lease.wish
      let raised := decide (s.lease.epoch < epoch)
      let again := s.lease.expired
      let s : State := { s with lease := { s.lease with waiting := false, tries := 0, force := false, held := true, expired := false, readsUntil := none, denyUntil := none,
                                                        deadline := leaseDeadline s.lease.sentAt value, epoch := max s.lease.epoch epoch } }
      let s := s.finishAll (fun op => decide (op = .lease)) .ok (BitVec.ofNat 64 epoch)
      let s : State := match wish with
        | .bootAuth => { s with boot := { s.boot with auth := true, decided := true }, lease := { s.lease with wish := .idle } }
        | .failover => { s with lease := { s.lease with takeOver := true } }
        | .handoverTo => { s with lease := { s.lease with takeOver := true, handoverDone := true } }
        | .handoverFrom =>
          if s.mode.mode = .mirs ∨ s.lease.released then { s with lease := { s.lease with takeOver := true, handoverDone := true } }
          else { s with lease := { s.lease with stopped := false, handoverAt := none, released := false, wish := .idle } }
        | .bump => ({ s with lease := { s.lease with wish := .idle } }).nameMode .solo 5
        | .idle => s
      let s := (if raised then s.sendEpoch else s).tryTakeOver
      if again then s.release (fun w => decide (w.why = .window)) else s)

/-- DENY (10 R318, R321, R330; 02 R62, R63; 13 R409, R412): the deadline stays. -/
def execDeny (epoch : Nat) (req : PairReq) (value : Nat) (s : State) : Run :=
  .next (if s.pairId = 0 ∨ req.pair ≠ s.pairId then s
  else
    let s := s.heard 3
    if !s.lease.waiting ∨ req.reqno ≠ s.lease.reqno then s
    else
      let s : State := { s with lease := { s.lease with waiting := false, tries := 0, force := false } }
      let s := s.finishAll (fun op => decide (op = .lease)) (if 0 < value then .lease else .epoch) 0
      match s.lease.wish with
      | .failover => { s with lease := { s.lease with denyUntil := if 0 < value then some (s.clock + value * us) else none, wish := if 0 < value then .failover else .idle } }
      | .handoverTo =>
        let s := (s.emit (.role .refused)).finishAll (fun op => decide (op = .mrole 1)) (if s.lease.epoch < epoch then .epoch else .lease) 0
        { s with lease := { s.lease with wish := .idle, handoverAt := none, mrole := false } }
      | .bootAuth =>
        { s with lease := { s.lease with wish := .idle }, boot := { s.boot with twinAuth := s.boot.twinAuth || (decide (0 < value) && !s.boot.lone && !s.boot.auth && !s.boot.forced) } }
      | _ => s)

/-- DENY_WAIT_END (10 R321): the lease that a DENY reported has run out. -/
def execDenyWaitEnd (s : State) : Run :=
  .next (match s.lease.denyUntil with
    | some t0 =>
      if t0 ≤ s.clock then
        let s : State := { s with lease := { s.lease with denyUntil := none } }
        if s.mode.mode = .mirs ∧ s.allSynced ∧ (s.lease.twinLost ∨ s.lease.twinLeaseLost) then s.witSend 1 s.leaseLen else s
      else s
    | none => s)

/-- ACK (10 R330): the witness has taken RELEASE, or a REPORT. -/
def execAck (req : PairReq) (s : State) : Run :=
  .next (if s.pairId = 0 ∨ req.pair ≠ s.pairId then s
  else
    let s := s.heard 7
    if s.lease.waiting ∧ s.lease.kind = 4 ∧ req.reqno = s.lease.reqno then
      (({ s with lease := { s.lease with waiting := false, tries := 0, held := false } }).emit (.role .done)).nameMode .mirs 6
    else s)

/-- LEASE_DEADLINE (10 R319): the deadline E passes: ingress stops, ROLE (lease lost) and a REPORT go, and an active unit changes to MIRS. -/
def execLeaseDeadline (s : State) : Run :=
  .next (if s.pairId ≠ 0 ∧ s.lease.held ∧ !s.lease.expired ∧ s.lease.deadline ≤ s.clock then
    let s : State := { s with lease := { s.lease with held := false, expired := true, readsUntil := some (s.lease.deadline + 2 * us) } }
    let s := ((s.emit (.role .leaseLost)).log 0 5 bMirr 1023 0x06 0x46 0).report 0x46 0
    if s.mode.mode = .actv then s.nameMode .mirs 4 else s
  else s)

/-- READ_ABANDON (10 R319): 2.0 µs after E every request still unanswered is abandoned without a response. -/
def execReadAbandon (s : State) : Run :=
  .next (match s.lease.readsUntil with
    | some t0 => if t0 ≤ s.clock then { s.abandonHosts with lease := { s.lease with readsUntil := none } } else s
    | none => s)

/-! ### Roles -/

/-- The active unit starts a handover (10 R330): ROLE (handover at instant T), T 20 µs ahead. -/
def State.startHandover (s : State) : State :=
  let t := s.master + 80000
  ({ s with lease := { s.lease with handoverAt := some t, released := false, wish := .handoverFrom } }).emit (.role (.at_ t))

/-- MROLE (0 on the active unit, 1 on the standby) ends. -/
def State.endMrole (s : State) (k : Nat) (st : Status) : State := s.finishAll (fun op => decide (op = .mrole k)) st 0

/-- ROLE (10 R319, R321, R329, R330; 13 R409). -/
def execRole (message : RoleMsg) (s : State) : Run :=
  .next (if !s.twinUp then s
  else match message with
    | .leaseLost =>
      ({ s with lease := { s.lease with twinLeaseLost := true } }).failover
    | .request =>
      if s.mode.mode ≠ .actv then s
      else if s.devP bMirr 1 = 0 ∧ s.allSynced ∧ s.lease.handoverAt.isNone ∧ s.leaseOk then s.startHandover
      else s.emit (.role .refused)
    | .refused =>
      if s.lease.wish = .handoverFrom then ({ s.endMrole 0 .lease with lease := { s.lease with handoverAt := none } }).witSend 1 s.leaseLen
      else if s.mode.mode = .mirs then
        { s.endMrole 1 .mode with lease := { s.lease with mrole := false, fbSince := s.lease.fbSince.map (fun _ => s.clock) } }
      else s
    | .at_ t => if s.mode.mode = .mirs then { s with lease := { s.lease with handoverAt := some t, wish := .handoverTo } } else s
    | .done =>
      if s.mode.mode = .mirs ∧ s.lease.wish = .handoverTo then s.witSend 1 s.leaseLen else s)

/-- Nothing that a host has sent is open, and no window slot is taken. -/
def State.windowsEmpty (s : State) : Bool :=
  s.unacked.isEmpty && !s.waits.any (fun w => w.req.fromHost) && s.tileList.all (fun t => (s.mt t).slots.isEmpty)

/-- HANDOVER (10 R330): at the instant the active unit stops its ingress; once every window is empty it releases the lease. -/
def execHandover (s : State) : Run :=
  .next (match s.lease.handoverAt with
    | some t0 =>
      if s.mode.mode ≠ .actv ∨ s.lease.wish ≠ .handoverFrom ∨ s.master < t0 ∨ s.lease.released then s
      else
        let s : State := { s with lease := { s.lease with stopped := true } }
        if s.windowsEmpty then ({ s with lease := { s.lease with released := true, tries := 0 } }).witSend 4 0 else s
    | none => s)

/-- FAILBACK_REQUEST (10 R329): a preferred standby has been synced for `mirr.fb_holdoff`. (DEDUCED, log 70.) -/
def execFailbackRequest (s : State) : Run :=
  .next (match s.lease.fbSince with
    | some t0 =>
      if s.mode.mode = .mirs ∧ s.devP bMirr 1 = 1 ∧ s.devP bMirr 5 ≠ 0 ∧ s.allSynced ∧ s.twinUp ∧ s.due t0 (s.devP bMirr 5 * sec) then
        ({ s with lease := { s.lease with fbSince := some s.clock } }).emit (.role .request)
      else s
    | none => s)

/-! ### The witness (10 R317, Table 10-11) -/

/-- What a unit in witness service keeps for a pair. (DESIGN CHOICE, log 72.) -/
def State.witOf (s : State) (pair : Nat) : Witness := Store.read s.wit pair {}
def State.setWit (s : State) (pair : Nat) (w : Witness) : State := { s with wit := Store.write s.wit pair w {} }

/-- The holder's remaining lease in µs. -/
def State.leaseLeft (s : State) (w : Witness) : Nat := (w.timer + w.len * us - s.clock) / us

/-- REQ (10 Table 10-11). -/
def execReq (pair port epoch reqno value : Nat) (force : Bool) (s : State) : Run :=
  let w := s.witOf pair
  .next (if pair = 0 then s
  else if w.holder = some port ∧ epoch = w.epoch then
    (s.setWit pair { w with len := value, timer := s.clock }).emit (.witnessAns pair port 2 w.epoch reqno value)
  else if w.holder.isNone ∧ (epoch = w.epoch ∨ force) then
    (s.setWit pair { w with epoch := w.epoch + 1, holder := some port, len := value, timer := s.clock }).emit (.witnessAns pair port 2 (w.epoch + 1) reqno value)
  else if w.holder.isSome ∧ w.holder ≠ some port then s.emit (.witnessAns pair port 3 w.epoch reqno (s.leaseLeft w))
  else s.emit (.witnessAns pair port 3 w.epoch reqno 0))

/-- BUMP (10 Table 10-11). -/
def execBump (pair port epoch reqno : Nat) (s : State) : Run :=
  let w := s.witOf pair
  .next (if pair = 0 then s
  else if w.holder = some port ∧ epoch = w.epoch then
    (s.setWit pair { w with epoch := w.epoch + 1, timer := s.clock }).emit (.witnessAns pair port 2 (w.epoch + 1) reqno w.len)
  else s.emit (.witnessAns pair port 3 w.epoch reqno 0))

/-- RELEASE (10 Table 10-11). -/
def execRelease (pair port reqno : Nat) (s : State) : Run :=
  let w := s.witOf pair
  .next (if pair ≠ 0 ∧ w.holder = some port then (s.setWit pair { w with holder := none }).emit (.witnessAns pair port 7 w.epoch reqno 0) else s)

/-- REPORT (10 Table 10-11). -/
def execReport (pair port reqno : Nat) (cause : WitReport) (s : State) : Run :=
  let w := s.witOf pair
  .next (if pair = 0 then s
  else (s.setWit pair { w with reports := w.reports ++ [(port, cause.cause, cause.arg)] }).emit (.witnessAns pair port 7 w.epoch reqno 0))

/-- WITNESS_LEASE_EXPIRY (10 Table 10-11): the timer reaches L. -/
def execWitnessLeaseExpiry (pair : Nat) (s : State) : Run :=
  let w := s.witOf pair
  .next (if w.holder.isSome ∧ w.timer + w.len * us ≤ s.clock then s.setWit pair { w with holder := none } else s)

/-- WITNESS_RESTART (10 R317): the stored holder stays for the stored L, counted from the restart. -/
def execWitnessRestart (s : State) : Run :=
  .next { s with wit := s.wit.map (fun p => if p.2.holder.isSome then (p.1, { p.2 with timer := s.clock }) else p) }

/-! ### Instructions -/

/-- MROLE (13 R409). -/
def execMrole (ctx : Nat) (s : State) : Run :=
  .next (s.issue ctx 0x50 (fun s i =>
    let k := fld i.word 0 0
    if !s.allSynced ∨ !s.twinUp then s.fail ctx i .mode
    else if k = 0 then
      if s.mode.mode ≠ .actv ∨ s.lease.handoverAt.isSome then s.fail ctx i .mode
      else (s.startLong ctx i (.mrole 0)).startHandover
    else if s.mode.mode ≠ .mirs then s.fail ctx i .mode
    else ({ s.startLong ctx i (.mrole 1) with lease := { s.lease with mrole := true } }).emit (.role .request)))

/-- MSYNC (13 R410): on the serving unit the resync of each tile begins; on the standby, SYNCED clears and its part of the set is sent. -/
def execMsync (ctx : Nat) (s : State) : Run :=
  .next (s.issue ctx 0x51 (fun s i =>
    let m := fld i.word 7 0
    let ts := s.tileList.filter (fun t => m.testBit t)
    if 2 ^ s.tiles ≤ m then s.fail ctx i .range
    else if !s.twinUp then s.fail ctx i .mode
    else if m = 0 then s.done ctx i 0
    else
      let s := (s.startLong ctx i (.msync m 0)).pendRec ctx i
      if s.mode.mode = .mirs then
        ts.foldl (fun (s : State) t =>
          (s.setMt t { s.mt t with synced := false }).isahar t xRset ([BitVec.ofNat 64 ((s.mt t).ckpt.getD {}).tm, BitVec.ofNat 64 (b01 ((s.mt t).ckpt.isSome && !iXf i.word))]
            ++ (s.resyncPart t ((s.mt t).ckpt.getD {}).tm).map (BitVec.ofNat 64))) s
      else ts.foldl (fun (s : State) t => s.beginResync t (iXf i.word)) s))

/-- MDIG (13 R411). -/
def execMdig (ctx : Nat) (s : State) : Run :=
  .next (s.issue ctx 0x52 (fun s i =>
    let t := fld i.word 2 0
    if s.tiles ≤ t then s.fail ctx i .range
    else if !s.ckptGoes t then s.fail ctx i .mode
    else (s.startLong ctx i (.mdig t)).sendCkpt t))

/-- LEASE (13 R412). -/
def execLease (ctx : Nat) (s : State) : Run :=
  .next (s.issue ctx 0x53 (fun s i =>
    if fld i.word 0 0 = 0 then s.done ctx i s.leaseWord
    else if !(decide (s.mode.mode = .actv ∨ s.mode.mode = .solo) || (decide (s.mode.mode = .rstr) && s.boot.auth)) then s.fail ctx i .mode
    else if s.pairId = 0 then s.done ctx i (BitVec.ofNat 64 s.lease.epoch)
    else
      let s := s.startLong ctx i .lease
      if s.lease.waiting ∧ s.lease.kind ≠ 1 then s else ({ s with lease := { s.lease with tries := 0 } }).witSend 1 s.leaseLen))

end Sys2Proof.Machine
end

