-- ==== Sys2Proof/Machine/FlashRows.lean ====
section
/-! DEFINITION. The instructions FRAW, FERC, FRET and SCRB (13 R413 to R416; 07 R208), and the commands of the Tidemark (01 R31 to R35;
19 R536). -/

namespace Sys2Proof.Machine

/-! ### Flash addresses -/

/-- A flash physical address (13 Table 13-8). -/
structure FlashAddr where
  ch : Nat
  tgt : Nat
  lun : Nat
  plane : Nat
  block : Nat
  page : Nat
  record : Nat
  deriving DecidableEq, Repr
def flashAddr (w : Word) : FlashAddr :=
  { ch := fld w 2 0, tgt := fld w 5 3, lun := fld w 7 6, plane := fld w 9 8, block := fld w 22 10, page := fld w 35 23, record := fld w 37 36 }

/-- The address lies in the geometry found at mount (13 R413). -/
def State.flashOk (s : State) (t : Nat) (w : Word) : Bool :=
  let x := s.th t
  let a := flashAddr w
  decide (t < s.tiles ∧ x.state = 1 ∧ a.page < 3 * (x.wls + 1) ∧ a.block < x.blocks ∧ a.lun < x.luns ∧ a.tgt < x.tgts)

/-- The Thatch block and the member of an address (09 R256, R257). -/
def State.flashBlk (s : State) (t : Nat) (a : FlashAddr) : Nat × Nat :=
  let p := a.tgt + a.lun * (s.th t).tgts
  (8192 * (p / 2) + a.block, 2 * a.ch + p % 2)

/-- The record slot of an address in its block; none on the first word line, on the parity member, and past the pages of a pSLC block
(09 R257, R258, R262). A page of a pSLC block has the number of its word line. -/
def State.flashSlot (s : State) (t b m : Nat) (a : FlashAddr) : Option Nat :=
  let mask := (s.blk t b).members
  let d := (dataOf mask b).idxOf m
  let w := (s.th t).wls
  if !(dataOf mask b).contains m then none
  else if (s.blk t b).use = .data then (if a.page < 3 then none else some (((4 * d + a.plane) * (3 * w) + (a.page - 3)) * 4 + a.record))
  else if a.page = 0 ∨ w < a.page then none
  else some (rowSlots mask * (a.page - 1) + 16 * d + 4 * a.plane + a.record)

/-- The header of a record (09 Table 9-5). -/
def recHeader (t : Nat) (r : TRec) : List Word :=
  let pcrc := crc32c (r.lines.map Line.bytes).flatten
  let ws := [word [(48, 0x7448), (44, 1), (40, r.kind), (39, b01 r.ht), (32, t), (0, r.lpage)], BitVec.ofNat 64 r.tm, r.poison, BitVec.ofNat 64 r.epoch,
    word [(32, r.key), (0, pcrc.toNat)], BitVec.ofNat 64 r.copyTm, 0]
  ws ++ [(crc32cWords ws).setWidth 64]

/-- Line `i` of the payload as flash holds it: XTS under the image key over the page as one data unit (09 R260). -/
def State.recStored (s : State) (t : Nat) (r : TRec) (i : Nat) : List Word :=
  let bytes := ((List.range 64).map (fun j => (r.lines.getD j 0).bytes)).flatten
  let c := xts true (s.keySlot t r.key).key (s.keySlot t (r.key + 1)).key (t * 2 ^ 31 + r.lpage + (if r.ht then 2 ^ 34 else 0)) bytes
  wordsOf 8 ((c.drop (64 * i)).take 64)

/-- Free words: what the spec does not give. -/
def State.drawWords (s : State) : Nat → List Word × State
  | 0 => ([], s)
  | n + 1 => let (w, s) := s.drawWord; let (l, s) := s.drawWords n; (w :: l, s)

/-- A block member that is half-erased (09 R280). -/
def Phys.half (p : Phys) : Bool := p.intent && p.unsealed && !p.erasing

/-- FRAW (13 R413): `decodes` says whether the codeword decodes. Words of a slot that holds no listed record are free values. (DESIGN CHOICE, log 52.) -/
def execFraw (ctx : Nat) (decodes : Bool) (s : State) : Run :=
  .next (s.issue ctx 0x60 (fun s i =>
    let t := fld i.word 2 0
    let w := (s.ctx ctx).opA i.word
    if !s.flashOk t w then s.fail ctx i .range
    else
      let a := flashAddr w
      let (b, m) := s.flashBlk t a
      let p := s.physB t b m
      if !s.memberOk t (b / 8192) m ∨ s.tileFenced t then s.fail ctx i .fenced
      else if p.erasing then s.fail ctx i .ersusp
      else if p.half then s.fail ctx i .halfer
      else
        let s := s.setBlk t b { s.blk t b with reads := (s.blk t b).reads + 1 }
        let r? := match s.flashSlot t b m a with
          | some k => (s.th t).recs.find? (fun r => decide (r.blk = b ∧ r.slot = k ∧ ¬ (r.kind = 6 ∧ (s.blk t b).use = .log)))
          | none => none
        match r?, decodes with
        | some r, true =>
          let ws := if iXf i.word then s.recStored t r (fld ((s.ctx ctx).reg (iGb i.word)) 5 0) else recHeader t r
          s.complete ctx i .ok (ws.headD 0) ws true
        | _, _ =>
          let (ws, s) := s.drawWords 8
          s.complete ctx i (if decodes then .ok else .uncor) (ws.headD 0) ws true))

/-- FERC (13 R414). -/
def execFerc (ctx : Nat) (s : State) : Run :=
  .next (s.issue ctx 0x61 (fun s i =>
    let t := fld i.word 2 0
    let w := (s.ctx ctx).opA i.word
    if !s.flashOk t w then s.fail ctx i .range
    else
      let (b, m) := s.flashBlk t (flashAddr w)
      let p := s.physB t b m
      s.done ctx i (word [(0, p.count % 2 ^ 32), (32, b01 p.retired), (33, b01 p.half), (34, b01 p.erasing)])))

/-- The records of a physical block that are current. -/
def State.memberRecs (s : State) (t b m : Nat) : List TRec := (s.liveRecs t b).filter (fun r => decide (s.recMember t r = m))

/-- An open log block is closed: its rows are padded (13 R415). -/
def State.closeBlk (s : State) (t b : Nat) : State :=
  let s := (s.th t).rowsOpen.foldl (fun (s : State) w => if w.blk = b then s.padRow t w else s) s
  let x := s.th t
  let s := s.setTh t { x with drainBlk := if x.drainBlk = some b then none else x.drainBlk, relocBlk := if x.relocBlk = some b then none else x.relocBlk }
  s.setBlk t b { s.blk t b with isOpen := false }

/-- FRET (13 R415): the current records of the block are moved, by relocation or by a merge of its segment, and the block is retired when
they are; at once when it holds none. -/
def execFret (ctx : Nat) (s : State) : Run :=
  .next (s.issue ctx 0x62 (fun s i =>
    let t := fld i.word 2 0
    let w := (s.ctx ctx).opA i.word
    if !s.flashOk t w ∨ (flashAddr w).block = 0 then s.fail ctx i .range
    else
      let (b, m) := s.flashBlk t (flashAddr w)
      if (s.physB t b m).retired then s.done ctx i 0
      else
        let rs := s.memberRecs t b m
        let s := (s.startLong ctx i (.fret t (b * 16 + m) rs.length)).pendRec ctx i
        let s := if (s.blk t b).use = .log then
            let s := if (s.blk t b).isOpen then s.closeBlk t b else s
            let s := s.setBlk t b { s.blk t b with marked := true }
            rs.foldl (fun (s : State) r =>
              if !r.ht && decide (s.homeKind t r.lpage = 3) then s.queueMerge t ((s.th t).segOf r.lpage)
              else s.putRec t { r with kind := 3, key := s.imageKey t, copyTm := s.localCount t } true) s
          else s
        s.endFret t))

/-! ### SCRB -/

/-- The four words of the summary (07 Table 7-8). -/
def ScrbRun.words (r : ScrbRun) : List Word :=
  [word [(0, r.lines % 2 ^ 36)], word [(32, min r.recovered 0xFFFF_FFFF), (0, min r.corrected 0xFFFF_FFFF)],
   word [(56, r.maxSym), (32, min r.found 0xFF_FFFF), (0, r.new)],
   match r.first with | some a => word [(6, a / 64), (0, 1)] | none => 0]
def ScrbRun.status (r : ScrbRun) : Status := if 0 < r.new then .uncor else if 0 < r.found then .poison else .ok

/-- The progress of an SCRB of a context. -/
def State.putScrb (s : State) (n : Nat) (i : Issue) (r : ScrbRun) : State := s.setCtx n { s.ctx n with long := some (i, .scrb r) }

/-- An SCRB has read a good line; a poisoned one is counted and entered. -/
def State.scrbGood (s : State) (n : Nat) (i : Issue) (r : ScrbRun) (off : Nat) (p : Bool) : State :=
  if p then (s.enterPoison r.tile off).putScrb n i { r with found := r.found + 1 } else s.putScrb n i r

/-- An SCRB has read a line that cannot be corrected: its recovery begins. -/
def State.scrbBad (s : State) (n : Nat) (i : Issue) (r : ScrbRun) (a : Nat) : State :=
  (s.refetch r.tile a).putScrb n i { r with busy := some a, first := match r.first with | some b => some b | none => some a }

/-- One line of an SCRB, whose read returns with an error pattern; training rows and lines of a fenced unit are skipped. -/
def State.scrbLine (s : State) (n : Nat) (i : Issue) (r : ScrbRun) (err : BitVec 640) : State :=
  let a := r.next
  let t := r.tile
  let r : ScrbRun := { r with next := a + 64, runs := true }
  if s.training t a ∨ s.lineFenced t a then s.putScrb n i r
  else
    let s := s.readRow t a
    let r : ScrbRun := { r with lines := r.lines + 1 }
    let p := (s.lineGot t a err).2
    match s.lineCheck t a err with
    | .pass => s.scrbGood n i r (s.offOf t a) p
    | .corrected fix =>
      ((s.bucket t (dfaChan a) (s.fixPlace t a fix)).queueBack t a).scrbGood n i { r with corrected := r.corrected + 1, maxSym := max r.maxSym fix.length } (s.offOf t a) p
    | .bad => s.scrbBad n i r a

/-- SCRB (07 R208; 13 R416): the row runs again for each line of an SCRB under way. FIRSTBAD is the lowest line that could not be
corrected; a line that has been recovered counts as such, and one that was poisoned as new. (DEDUCED, log 51.) -/
def execScrb (ctx : Nat) (err : BitVec 640) (s : State) : Run :=
  .next (match (s.ctx ctx).long with
    | some (i, .scrb r) =>
      let other := s.ctxs.any (fun p => decide (p.1 ≠ ctx) && (match p.2.long with | some (_, .scrb q) => q.runs && decide (q.tile = r.tile) | _ => false))
      match r.busy with
      | some a =>
        if s.scrubOpen r.tile a then s
        else
          let r : ScrbRun := if (s.stored r.tile a).2 then { r with busy := none, new := r.new + 1 } else { r with busy := none, recovered := r.recovered + 1 }
          s.setCtx ctx { s.ctx ctx with long := some (i, .scrb r) }
      | none =>
        if other then s
        else if r.hi ≤ r.next then s.finishLong ctx r.status (r.words.headD 0) r.words true
        else if s.chanAway r.tile (dfaChan r.next) then s
        else s.scrbLine ctx i r err
    | _ => s.issueOp ctx 0x68 (fun _ i => decide (1 ≤ iGd i.word ∧ iGd i.word ≤ 12)) always (fun s i =>
      let t := fld i.word 2 0
      let lo := ((s.ctx ctx).opA i.word).toNat
      let k := ((s.ctx ctx).reg (iGb i.word)).toNat
      if s.tiles ≤ t ∨ lo % 64 ≠ 0 ∨ k = 0 ∨ 2 ^ 36 ≤ k ∨ s.dfaSize t < lo + 64 * k then s.fail ctx i .range
      else (s.startLong ctx i (.scrb { tile := t, next := lo, hi := lo + 64 * k })).pendRec ctx i))

/-! ### The Tidemark -/

/-- TIDEMARK_SYNC (01 R31): a sync message of the lead tile reaches a tile, which records its skew and slews its count. -/
def execTidemarkSync (tile : Nat) (s : State) : Run :=
  .next (if s.time.master.on ∧ tile < s.tiles ∧ !s.tileFenced tile ∧ (Store.read s.time.locals tile {}).on then
    let c := Store.read s.time.locals tile {}
    let d : Int := Int.ofNat c.count - Int.ofNat s.time.master.count
    let (r, s) := s.slew (-d)
    { s with time := { s.time with skew := Store.write s.time.skew tile d 0, locals := Store.write s.time.locals tile { c with rate := r } {} } }
  else s)

/-- Discipline of the master by a source outside (01 R33): a rate adjustment within ±100 ppm, whose amount is a free value. -/
def State.discipline (s : State) : State :=
  let (w, s) := s.drawWord
  let r : Int := (w.toNat % 200001 : Nat) - 100000
  { s with time := { s.time with master := { s.time.master with rate := r }, disciplined := true, lastSync := s.clock } }

/-- TSYNC_IN (01 R33; 19 R536): an edge whose interval differs from 1 s by more than 100 ppm is ignored. (DEDUCED, log 76.) -/
def execTsyncIn (s : State) : Run :=
  .next (if s.mode.mode = .stby ∨ !s.time.master.on then s
  else
    let d := s.clock - s.time.lastEdge
    let good := !s.time.edgeSeen || decide (sec - 400000 ≤ d ∧ d ≤ sec + 400000)
    let s : State := { s with time := { s.time with lastEdge := s.clock, edgeSeen := true } }
    if !good then s.log 0 4 bTime 1023 0x08 0 0
    else if s.devP bTime 0 = 2 ∧ s.mode.mode ≠ .mirs then s.discipline
    else s)

/-- PTM_EXCHANGE (01 R33): an exchange by the host port that `time.ptm_port` names. -/
def execPtmExchange (tile link : Nat) (s : State) : Run :=
  let p := s.param (pid bTime 1023 1) 0
  .next (if s.devP bTime 0 = 1 ∧ s.time.master.on ∧ s.mode.mode ≠ .mirs ∧ tile = fld p 10 8 ∧ link = fld p 1 0 ∧ (s.link tile link).up then s.discipline else s)

/-- DISCIPLINE_TIMEOUT (01 R33): 3 s without an accepted edge or exchange, since the last one or since the source took effect: the master runs on at the rate last in force. -/
def execDisciplineTimeout (s : State) : Run :=
  .next (if s.time.disciplined ∧ s.mode.mode ≠ .mirs ∧ (s.devP bTime 0 = 1 ∨ s.devP bTime 0 = 2) ∧ s.due s.time.lastSync (3 * sec) then
    ({ s with time := { s.time with disciplined := false } }).log 0 4 bTime 1023 0x03 0 0
  else s)

/-- TIDEMARK_FLOOR_APPEND (01 R35): the master is within 2³⁹ ticks of the floor in force. -/
def execTidemarkFloorAppend (s : State) : Run :=
  .next (if s.time.master.on ∧ s.time.floor ≤ s.master + 2 ^ 39 then s.appendFloor else s)

/-- SKEW_LIMIT (01 R32, Table 1-9): a measured skew in ticks: of a tile (0), of the pair (1), in the fabric (2). (DESIGN CHOICE, log 78.) -/
def execSkewLimit (between tile : Nat) (ticks : Nat) (s : State) : Run :=
  let bound := match between with | 0 => 1 | 1 => 4 | _ => 80
  .next (if [Mode.actv, .mirs, .solo].contains s.mode.mode ∧ bound < ticks then s.log (if between = 0 then tile else 0) 4 bTime 1023 0x03 0 ticks else s)

end Sys2Proof.Machine
end

