-- ==== Sys2Proof/Machine/RhozilSys.lean ====
section
/-! DEFINITION. The instructions of the recorder, the counters, firmware, power and fences, and the rows beside them: EVTW, CSNP,
CFRZ with their instants, FWST, FWSEL, SAVE, HOLD, FENCE, and the writes of `sys.force_auth`, `fw.soc` and `scan.bist_ctl` (13 R418,
R420 to R427; 16 R483, R484; 17 R495 to R499; 02 R62; 18 R513). -/

namespace Sys2Proof.Machine

/-- EVTW (13 R420). -/
def execEvtw (ctx : Nat) (s : State) : Run :=
  .next (s.issueOp ctx 0x78 always (fun _ i => decide (i.pl ≤ 1 ∨ fld i.word 2 0 ≤ 2)) (fun s i =>
    let t := (s.ctx ctx).tile
    (s.done ctx i (BitVec.ofNat 64 (s.localCount t))).record t (fld i.word 2 0) (fld (i.data.getD 0 0) 31 0) 2 i.pl ctx 0 (i.data.drop 1)))

/-- T of CSNP and CFRZ (13 R421). -/
def State.namedT (s : State) (n : Nat) (i : Issue) : Nat :=
  let a := (s.ctx n).opA i.word
  if a = 0 then s.master + 20000 else a.toNat

/-- The refusal of an instant too near or too far (13 R421). -/
def State.instantBad (s : State) (t : Nat) : Option Status :=
  if t < s.master + tideAhead then some .late else if s.master + 4000000000 < t then some .range else none

/-- CSNP (13 R421). -/
def execCsnp (ctx : Nat) (s : State) : Run :=
  .next (s.issue ctx 0x79 (fun s i =>
    match s.instantBad (s.namedT ctx i) with
    | some st => s.fail ctx i st
    | none => s.startLong ctx i (.snap (s.namedT ctx i) false)))

/-- CFRZ (13 R421). -/
def execCfrz (ctx : Nat) (s : State) : Run :=
  .next (s.issue ctx 0x7A (fun s i =>
    match s.instantBad (s.namedT ctx i) with
    | some st => s.fail ctx i st
    | none =>
      if s.pmc.frozen = !iXf i.word then s.completeR ctx i .idle 0
      else s.startLong ctx i (.freeze (s.namedT ctx i) (!iXf i.word) false)))

/-- Every counter is copied into its shadow (16 R483). -/
def State.takeSnapshot (s : State) (t : Nat) : State :=
  { s with pmc := { s.pmc with ctrs := (s.pmc.ctrs.map (fun p => (p.1, { p.2 with shadow := p.2.cnt, shadowOvf := p.2.ovf }))).filter (fun p => decide (p.2 ≠ {})),
                               snapTm := t, snapped := true } }

/-- The contexts that wait in CSNP, with their instants, and those that wait in CFRZ. -/
def State.snapsDue (s : State) : List (Nat × Nat × Bool) :=
  s.ctxNums.filterMap (fun n => match (s.ctx n).long with | some (_, .snap t b) => if t ≤ s.master then some (n, t, b) else none | _ => none)
def State.freezesDue (s : State) : List (Nat × Nat × Bool × Bool) :=
  s.ctxNums.filterMap (fun n => match (s.ctx n).long with | some (_, .freeze t on b) => if t ≤ s.master then some (n, t, on, b) else none | _ => none)

/-- COUNTER_SNAPSHOT (16 R483): the earliest instant that has come and is not yet taken is taken; an instruction whose instant
is 1 µs past completes (13 R421). -/
def execCounterSnapshot (s : State) : Run :=
  .next (
    match leastBy (fun e => e.2.1) (s.snapsDue.filter (fun e => !e.2.2)) with
    | some (n, t, _) =>
      let s := s.takeSnapshot t
      match (s.ctx n).long with
      | some (i, _) => s.setCtx n { s.ctx n with long := some (i, .snap t true) }
      | none => s
    | none =>
      match leastBy (fun e => e.2.1) (s.snapsDue.filter (fun e => e.2.2 && decide (e.2.1 + us ≤ s.master))) with
      | some (n, t, _) => s.finishR n .ok (BitVec.ofNat 64 t)
      | none => s)

/-- COUNTER_FREEZE (16 R484): as COUNTER_SNAPSHOT; a snapshot of the same instant is taken first. -/
def execCounterFreeze (s : State) : Run :=
  .next (
    match leastBy (fun e => e.2.1) (s.freezesDue.filter (fun e => !e.2.2.2)) with
    | some (n, t, on, _) =>
      if s.snapsDue.any (fun e => !e.2.2 && decide (e.2.1 ≤ t)) then s
      else
        let s := { s with pmc := { s.pmc with frozen := on } }
        match (s.ctx n).long with
        | some (i, _) => s.setCtx n { s.ctx n with long := some (i, .freeze t on true) }
        | none => s
    | none =>
      match leastBy (fun e => e.2.1) (s.freezesDue.filter (fun e => e.2.2.2 && decide (e.2.1 + us ≤ s.master))) with
      | some (n, t, _, _) => s.finishR n .ok (BitVec.ofNat 64 t)
      | none => s)

/-- The refusals of R497 in table order; in the recovery form only BBU_OK counts (17 R497). -/
def State.fwRefusal (s : State) : Option Status :=
  if s.fwMove then some .fwmove else if s.fwBatt then some .fwbatt else if s.fwLock then some .fwlock else none

/-- The transfer status of FWST with N = 0 (13 R424). -/
def SlotS.status (x : SlotS) : Word := word [(0, 8 * x.words.length), (32, b01 x.complete), (33, b01 x.crcFail)]

/-- A part at offset 0 erases the inactive slot, takes the mark off it and clears PRESERVE (13 R424; 17 R504). -/
def State.beginTransfer (s : State) (n : Nat) : State :=
  let k := s.inactive
  { s.setSlot k {} with fw := { (s.setSlot k {}).fw with xfer := some n, mark := if s.fw.mark = k then 1 - k else s.fw.mark, preserve := false } }

/-- FWST writes a part (13 R424; 17 R496). (DEDUCED, log 93.) -/
def State.fwst (s : State) (n : Nat) (i : Issue) : State :=
  let k := s.inactive
  let off := ((s.ctx n).opA i.word).toNat
  let words := if off = 0 then [] else (s.slot k).words
  if iN i.word ≠ 0 ∧ !(off = 0 ∨ (s.fw.xfer = some n ∧ off = 8 * (s.slot k).words.length)) then s.fail n i .range
  else if 0x380_0000 < 8 * (words.length + i.data.length) then s.fail n i .range
  else if s.fw.xfer.isSome ∧ s.fw.xfer ≠ some n then s.fail n i .resv
  else
    match s.fwRefusal with
    | some st => s.fail n i st
    | none =>
      if iN i.word = 0 then s.done n i (s.slot k).status
      else
        let crc := fld ((s.ctx n).reg (iGb i.word)) 31 0
        let s := if off = 0 then (s.beginTransfer n).pendRec n i else s
        let all := words ++ i.data
        if !iXf i.word then (s.setSlot k { words := all }).done n i 0
        else if (crc32cWords all).toNat = crc then
          let s := s.setSlot k { words := all, complete := true }
          { s with fw := { s.fw with xfer := none } }.done n i 0
        else (s.setSlot k { words := all, crcFail := true }).fail n i .chkfail

/-- FWST (13 R424). (DEDUCED, log 102.) -/
def execFwst (ctx : Nat) (s : State) : Run := .next (s.issue ctx 0x80 (fun s i => s.fwst ctx i))

/-- FWSEL (13 R425; 17 R495). -/
def execFwsel (ctx : Nat) (s : State) : Run :=
  .next (s.issue ctx 0x81 (fun s i =>
    match s.fwRefusal with
    | some st => s.fail ctx i st
    | none =>
      let k := fld i.word 0 0
      if !(s.slot k).complete then s.fail ctx i .chkfail
      else { s with fw := { s.fw with mark := k } }.done ctx i (BitVec.ofNat 64 s.fw.mark)))

/-- SAVE (13 R426): a planned save, or with XF the warm reset of R49. In MAIN a warm reset waits for the drain and completes at its
commit. -/
def State.saveInstr (s : State) (n : Nat) (i : Issue) : State :=
  if s.save.run.isSome then s.completeR n i .idle 0
  else if !iXf i.word then
    if !s.mode.mode.serving then s.fail n i .mode
    else (s.done n i (BitVec.ofNat 64 s.master)).commitSave 5 true false
  else
    match s.warmReset with
    | none => s.fail n i .mode
    | some r =>
      if r.save.run.isNone ∧ r.mode.warmReset then { s with mode := { s.mode with warmReset := true } }.startLong n i .save
      else ((s.done n i (BitVec.ofNat 64 s.master)).warmReset).getD s

/-- SAVE (13 R426). -/
def execSave (ctx : Nat) (s : State) : Run := .next (s.issue ctx 0x82 (fun s i => s.saveInstr ctx i))

/-- HOLD (13 R427). -/
def execHold (ctx : Nat) (s : State) : Run :=
  .next (s.issue ctx 0x83 (fun s i =>
    { s with boot := { s.boot with startHold := !iXf i.word } }.done ctx i (BitVec.ofNat 64 (b01 s.boot.startHold))))

/-- Class, instance and tile of FENCE (13 R418). -/
def fenceUnit (w : Word) : Nat × Nat × Nat := (fld w 3 0, fld w 15 8, fld w 18 16)

/-- FENCE (13 R418). -/
def execFence (ctx : Nat) (s : State) : Run :=
  .next (s.issue ctx 0x6B (fun s i =>
    let (c, u, t) := fenceUnit i.word
    let tm := BitVec.ofNat 64 s.master
    if !s.unitExists c u t then s.fail ctx i .range
    else if !iXf i.word then
      if s.fenced c u t then s.completeR ctx i .idle tm else (s.done ctx i tm).raiseFence c u t 0x01 2
    else if !s.fenced c u t then s.completeR ctx i .idle tm
    else if (s.ctx ctx).dropped then (s.noteDrop ctx).fail ctx i .late
    else if !s.canStage ctx [.clearFence c u t] then s.fail ctx i .resv
    else (s.done ctx i tm).stage ctx i.pl [.clearFence c u t]))

/-- FORCE_AUTH (02 R62): accepted in RSTR while no unit is authoritative. -/
def execForceAuth (s : State) : Run := .next (if s.writeMode (pid bSys 1023 5) 1 then s.forceAuth else s)

/-- FW_SOC (17 R498): the BMC writes the state of charge and the device stamps it. -/
def execFwSoc (soc : Nat) (s : State) : Run :=
  .next (if soc ≤ 100 ∧ s.boot.done.contains 5 ∧ s.mode.mode ≠ .stby ∧ s.mode.mode ≠ .save then
    s.writePlain 0x103F [] (pid bFw 1023 2) 0 (BitVec.ofNat 64 soc) else s)

/-- BIST_CTL (18 Table 18-3): GO starts BIST on the endpoints of the mask, in MAIN. -/
def execBistCtl (tile mask : Nat) (s : State) : Run :=
  .next (if tile < s.tiles ∧ s.mode.mode = .main ∧ !s.tileFenced tile then s.writePlain 0 [] (pid bScan tile 0) 0 (word [(0, 1), (8, mask % 256)]) else s)

/-- BIST_COMPLETE (18 Table 18-3): done, fail and the first failing address of an endpoint. -/
def execBistComplete (tile endpoint : Nat) (fails : Option Nat) (s : State) : Run :=
  .next (if s.mgmt.bistRun.contains (256 * tile + endpoint) then
    { s with mgmt := { s.mgmt with
        bistRun := s.mgmt.bistRun.erase (256 * tile + endpoint),
        bist := Store.write s.mgmt.bist (256 * tile + endpoint)
          (match fails with | some a => word [(32, a % 2 ^ 32), (1, 1), (0, 1)] | none => 1) 0 } }
  else s)

end Sys2Proof.Machine
end

