-- ==== Sys2Proof/Machine/CipherRows.lean ====
section
/-! DEFINITION. The instructions of the cipher engine: KUNW, KDROP, CRYP, CSAV and CRST (13 R419; 14 R437 to R448). -/

namespace Sys2Proof.Machine

/-! ### Keys -/

/-- At PL2 a slot outside the key range of the context's session on the tile is reserved (13 R419; 14 R438). -/
def State.keyOutside (s : State) (n t slot pl : Nat) : Bool :=
  let r := s.resvOf n t
  decide (2 ≤ pl) && !decide (r.keyBase ≤ slot ∧ slot < r.keyBase + r.keys)

/-- The slots that KUNW installs: 12 at PL0 and PL1, and the pool (14 Table 14-4). (DEDUCED, log 85.) -/
def kunwSlot (slot pl : Nat) : Bool := decide (64 ≤ slot ∨ (slot = 12 ∧ pl ≤ 1))

/-- The number of sealed records of a tile; there are at most 256 (14 R438). -/
def State.sealedCount (s : State) (t : Nat) : Nat := s.sealedKeys.countP (fun p => decide (p.1 / 8192 = t))

/-- A key is installed; with `sealIt` it is sealed as well, where its blob allows it and a record is free (14 R438). -/
def State.installKey (s : State) (t slot : Nat) (k : KeySlot) (sealIt : Bool) : State :=
  if sealIt && k.sealOk && decide (s.sealedCount t < 256) then
    let k : KeySlot := { k with isSealed := true }
    { s.setKey t slot k with sealedKeys := Store.write s.sealedKeys (8192 * t + slot) k {} }
  else s.setKey t slot k

/-- KUNW (13 R419; 14 R437 to R440): `twin` says whether the standby installs the session-scoped key that the active unit sends it. -/
def execKunw (ctx : Nat) (twin : Bool) (s : State) : Run :=
  .next (s.issueOp ctx 0x70 (fun s i => decide (fld i.word 15 13 < s.tiles)) always (fun s i =>
    let t := fld i.word 15 13
    let slot := fld i.word 12 0
    let kek := s.keySlot t (fld ((s.ctx ctx).opA i.word) 12 0)
    if s.keyOutside ctx t slot i.pl then s.fail ctx i .resv
    else if s.tileFenced t then s.fail ctx i .fenced
    else if kek.usage ≠ 1 ∨ !kunwSlot slot i.pl ∨ (s.keySlot t slot).usage ≠ 0 then s.fail ctx i .key
    else
      match (kwpUnwrap kek.key (i.data.map wordBytes).flatten).bind (s.blobKey ctx t slot i.pl i.data) with
      | none => s.fail ctx i .key
      | some k =>
        let shared := k.isScoped && decide (s.mode.mode = .actv)
        let s := if shared then s.isahar t xKey (word [(16, fld ((s.ctx ctx).opA i.word) 12 0), (0, slot)] :: i.data) else s
        if shared && !twin then s.fail ctx i .key
        else (s.installKey t slot k (iXf i.word)).done ctx i (BitVec.ofNat 64 slot)))

/-- A slot is in use by a running CRYP (13 R419). -/
def State.slotRuns (s : State) (t k : Nat) : Bool :=
  s.ctxs.any (fun p => match p.2.cryp with
    | some c => !c.interrupted && decide (c.tile = t ∧ (c.slot = k ∨ (c.mode < 2 ∧ c.slot / 2 = k / 2)))
    | none => false)

/-- KDROP (13 R419; 14 R437, R438, R441). (DEDUCED, log 84.) -/
def execKdrop (ctx : Nat) (s : State) : Run :=
  .next (s.issueOp ctx 0x71 (fun s i => decide (fld i.word 15 13 < s.tiles)) always (fun s i =>
    let t := fld i.word 15 13
    let slot := fld i.word 12 0
    if s.keyOutside ctx t slot i.pl then s.fail ctx i .resv
    else if s.tileFenced t then s.fail ctx i .fenced
    else if (s.keySlot t slot).usage = 0 ∨ s.slotLoan t slot ∨ s.slotIde t slot ∨ s.slotRuns t slot ∨ s.slotRegion t slot then s.fail ctx i .key
    else (s.clearKey t slot).done ctx i 0))

/-! ### Lines of a DFA range, as requester 10 of the Batten bus reads and writes them -/

/-- The newest form of the line at a DFA, and whether it is poisoned. -/
def State.dfaLine (s : State) (t a : Nat) : Line × Bool :=
  match s.htPageOf t (a / 4096) with
  | some n => ((s.htLines t n).getD (a / 64 % 64) 0, false)
  | none => s.newest t ((s.logicalOf t (a / 4096)).2 * 4096 + a % 4096 / 64 * 64) (a / 64 * 64)

/-- Store a line at a DFA: the eight entries of a line of home-table page `n`, or otherwise a line of a page. -/
def State.putLineIn (s : State) (t a : Nat) (l : Line) : Option Nat → State
  | some n => (List.range 8).foldl (fun (s : State) j => s.setHome t (512 * n + a / 64 % 64 * 8 + j) (wordOfBytes ((l.bytes.drop (8 * j)).take 8))) s
  | none => s.placeQuiet t ((s.logicalOf t (a / 4096)).2 * 4096 + a % 4096 / 64 * 64) (a / 64 * 64) l false
def State.putLineAt (s : State) (t a : Nat) (l : Line) : State := s.putLineIn t a l (s.htPageOf t (a / 4096))

/-- A line is written at a DFA: its page is marked, and a line of the home table changes its eight entries (08 R222; 11 R335). (DEDUCED, log 61.) -/
def State.putDfa (s : State) (t a : Nat) (l : Line) : State := ((s.bitmapFill t a).markPage t (a / 4096)).putLineAt t a l

/-- The lines that hold `n` bytes from a DFA. -/
def dfaLines (a n : Nat) : List Nat := (List.range ((a + n + 63) / 64 - a / 64)).map (fun i => (a / 64 + i) * 64)

/-- Bytes of a DFA range, and whether a line of it is poisoned. (DEDUCED, log 87.) -/
def State.readDfa (s : State) (t a n : Nat) : List Byte × Bool :=
  let ls := (dfaLines a n).map (s.dfaLine t)
  ((((ls.map (fun l => l.1.bytes)).flatten).drop (a % 64)).take n, ls.any Prod.snd)

/-- Write bytes over a DFA range, line by line. -/
def State.writeDfa (s : State) (t a : Nat) (b : List Byte) : State :=
  let all := ((dfaLines a b.length).map (fun x => (s.dfaLine t x).1.bytes)).flatten
  let new := all.take (a % 64) ++ b ++ all.drop (a % 64 + b.length)
  (List.range (dfaLines a b.length).length).foldl (fun (s : State) i =>
    s.putDfa t ((a / 64 + i) * 64) (Line.ofBytes ((new.drop (64 * i)).take 64))) s

/-- The Tideline has room for the pages of a range (08 R231). -/
def State.roomDfa (s : State) (t a n : Nat) : Bool := s.hasRoom t || (dfaLines a n).all (fun x => s.isDirty t x)

/-- A line of the range lies on a fenced unit. -/
def State.fencedDfa (s : State) (t a n : Nat) : Bool := s.tileFenced t || (dfaLines a n).any (s.lineFenced t)

/-- The cores of a tile that the inline, link and bulk classes hold: their reservations, less the fenced cores, which are taken from the bulk
class first, then from the link class, then from the inline class, and none below one core (14 R430, R431). A tile all of whose cores are
fenced has none. -/
def State.coreShare (s : State) (t : Nat) : Nat × Nat × Nat :=
  let n := (List.range 16).countP (fun c => s.fenced 0x6 c t)
  let give := fun (r left : Nat) => min left (r - 1)
  let (i, l, b) := (s.tileP bCiph t 0, s.tileP bCiph t 1, s.tileP bCiph t 2)
  let l1 := n - give b n
  let l2 := l1 - give l l1
  if 16 ≤ n then (0, 0, 0) else (i - give i l2, l - give l l1, b - give b n)

/-! ### CRYP (14 R443 to R446) -/

/-- The bytes of the source and destination ranges: the tags follow the pages of a GCM encryption's destination and of a GCM
decryption's source. -/
def Cryp.srcLen (k : Cryp) : Nat := k.pages * 4096 + (if k.mode = 3 then 16 * k.pages else 0)
def Cryp.dstLen (k : Cryp) : Nat := k.pages * 4096 + (if k.mode = 2 then 16 * k.pages else 0)

/-- The ranges lie within the tile's DFA and do not overlap (14 R445). -/
def State.crypRanges (s : State) (k : Cryp) : Bool :=
  decide (k.tile < s.tiles ∧ k.pages ≠ 0 ∧ k.src + k.srcLen ≤ s.dfaSize k.tile ∧ k.dst + k.dstLen ≤ s.dfaSize k.tile
    ∧ (k.src + k.srcLen ≤ k.dst ∨ k.dst + k.dstLen ≤ k.src))

/-- The slot holds the key that the mode takes: an XTS pair, or a GCM key. (DEDUCED, log 83.) -/
def State.crypKey (s : State) (k : Cryp) : Bool :=
  if k.mode < 2 then decide (k.slot % 2 = 0 ∧ (s.keySlot k.tile k.slot).usage = 2 ∧ (s.keySlot k.tile (k.slot + 1)).usage = 3)
  else decide ((s.keySlot k.tile k.slot).usage = 4)

/-- The chaining value at the start of a page: the encrypted tweak, or GHASH over the page index. -/
def crypStart (k1 k2 : BitVec 256) (k : Cryp) : Nat :=
  if k.mode < 2 then ofLe (aesEnc (roundKeys (leBytes 32 k2.toNat)) (leBytes 16 (k.base + k.done)))
  else
    let h := ofBe (aesEnc (roundKeys (leBytes 32 k1.toNat)) (List.replicate 16 0))
    ofLe (beBytes 16 (ghash h (pad16 (leBytes 8 k.done))))

/-- One unit of 64 bytes: the output, and the chaining value after it. -/
def crypUnit (k1 : BitVec 256) (nonce : List Byte) (k : Cryp) (acc : Nat) (d : List Byte) : List Byte × Nat :=
  let rk := roundKeys (leBytes 32 k1.toNat)
  if k.mode < 2 then
    let p := (blocksOf 16 d).foldl (fun (p : List (List Byte) × List Byte) b =>
      let x := xorBytes b p.2
      (xorBytes (if k.mode = 0 then aesEnc rk x else aesDec rk x) p.2 :: p.1, xtsNext p.2)) ([], leBytes 16 acc)
    (p.1.reverse.flatten, ofLe p.2)
  else
    let stream := ((List.range 4).map (fun i => aesEnc rk (nonce ++ beBytes 4 (4 * k.unit + i + 2)))).flatten
    let o := xorBytes d stream
    let h := ofBe (aesEnc rk (List.replicate 16 0))
    let a := (blocksOf 16 (if k.mode = 2 then o else d)).foldl (fun a b => ghMul (a ^^^ ofBe b) h) (ofBe (leBytes 16 acc))
    (o, ofLe (beBytes 16 a))

/-- The tag of a page from its GHASH accumulator. -/
def crypTag (k1 : BitVec 256) (nonce : List Byte) (acc : Nat) : List Byte :=
  let rk := roundKeys (leBytes 32 k1.toNat)
  let h := ofBe (aesEnc rk (List.replicate 16 0))
  let a := ghMul (ofBe (leBytes 16 acc) ^^^ ofBe (beBytes 8 64 ++ beBytes 8 (8 * 4096))) h
  xorBytes (beBytes 16 a) (aesEnc rk (nonce ++ beBytes 4 1))

/-- RESULT of a CRYP that completes with OK (13 R419). -/
def Cryp.result (k : Cryp) : Word := if k.mode = 2 then BitVec.ofNat 64 k.base else 0

/-- The chaining state of a context. -/
def State.setCryp (s : State) (n : Nat) (k : Cryp) : State := s.setCtx n { s.ctx n with cryp := some k }

/-- The page of a CRYP is complete: the tag is written or checked, and the last page ends it. -/
def State.crypPage (s : State) (n : Nat) (k : Cryp) (k1 : BitVec 256) (nonce : List Byte) (acc : Nat) : State :=
  let next := fun (s : State) =>
    let k : Cryp := { k with done := k.done + 1, unit := 0, acc := 0 }
    if k.done < k.pages then s.setCryp n k else (s.setCryp n k).finishR n .ok k.result
  if k.mode = 2 then next (s.writeDfa k.tile (k.dst + k.pages * 4096 + 16 * k.done) (crypTag k1 nonce acc))
  else if k.mode = 3 ∧ (s.readDfa k.tile (k.src + k.pages * 4096 + 16 * k.done) 16).1 ≠ crypTag k1 nonce acc then
    let s := s.writeDfa k.tile (k.dst + k.done * 4096) (List.replicate 4096 0)
    s.finishR n .chkfail (BitVec.ofNat 64 k.done)
  else next s

/-- The next 64-byte unit of a CRYP under way. It waits for a channel that cannot be used at present (06 R175), and
while the Tideline has no room for its page. (DEDUCED, log 82.) -/
def State.crypStep (s : State) (n : Nat) : State :=
  match (s.ctx n).long, (s.ctx n).cryp with
  | some (_, .cryp), some k =>
    let a := k.src + k.done * 4096 + 64 * k.unit
    let b := k.dst + k.done * 4096 + 64 * k.unit
    let tagAt := if k.mode = 3 then k.src + k.pages * 4096 + 16 * k.done else k.dst + k.pages * 4096 + 16 * k.done
    let k1 := (s.keySlot k.tile k.slot).key
    let tagged := decide (2 ≤ k.mode ∧ k.unit = 63)
    if s.fencedDfa k.tile a 64 || s.fencedDfa k.tile b 64 || (tagged && s.fencedDfa k.tile tagAt 16) then s.finishR n .fenced 0
    else if (s.coreShare k.tile).2.2 = 0 then s.finishR n .fenced 0
    else if !s.crypKey k || decide ((s.keySlot k.tile k.slot).installs ≠ k.installs) then s.finishR n .key 0
    else if s.converting k.tile b || s.chanAway k.tile (dfaChan a) || s.chanAway k.tile (dfaChan b) || (tagged && s.chanAway k.tile (dfaChan tagAt)) then s
    else if !s.roomDfa k.tile b 64 || (tagged && decide (k.mode = 2) && !s.roomDfa k.tile tagAt 16) then s
    else
      let (d, p) := s.readDfa k.tile a 64
      if p then s.finishR n .poison 0
      else
        let nonce := s.nonceBytes k.tile 3 (k.base + k.done)
        let acc := if k.unit = 0 then crypStart k1 (s.keySlot k.tile (k.slot + 1)).key k else k.acc
        let (o, acc) := crypUnit k1 nonce k acc d
        let s := (s.writeDfa k.tile b o).tally k.tile 31 0x0003 {}
        if k.unit < 63 then s.setCryp n { k with unit := k.unit + 1, acc } else s.crypPage n k k1 nonce acc
  | _, _ => s

/-- The nonce range of a GCM encryption of P pages (14 R443). -/
def State.takeRange (s : State) (t pages : Nat) : Nat × State :=
  let c := s.nextCount t 3
  (c, { s with nonces := Store.write s.nonces (4 * t + 3) (c + pages - 1) 0 })

/-- A GCM encryption begins: its nonce range is taken and its pages count against the key (14 R442, R443). -/
def State.startGcm (s : State) (n : Nat) (i : Issue) (k : Cryp) : State :=
  let (c, s) := s.takeRange k.tile k.pages
  let e := s.keySlot k.tile k.slot
  let s := s.setKey k.tile k.slot { e with encs := e.encs + (k.pages - 1) }
  ((s.startLong n i .cryp).setCryp n { k with base := c }).pendRec n i

/-- CRYP (13 R419; 14 R443 to R446). The row runs again for the units of a CRYP under way, at most `units` of them. -/
def execCryp (ctx units : Nat) (s : State) : Run :=
  .next (match (s.ctx ctx).long with
    | some (_, .cryp) => (List.range units).foldl (fun (s : State) _ => s.crypStep ctx) s
    | _ => s.issueOp ctx 0x74 (fun _ i => decide (fld i.word 17 16 ≠ 3) || iX i.word) always (fun s i =>
      let k : Cryp := { slot := fld i.word 12 0, mode := fld i.word 17 16, tile := fld i.word 38 36, pages := fld i.word 35 20,
                        src := ((s.ctx ctx).opA i.word).toNat, dst := ((s.ctx ctx).reg (iGb i.word)).toNat,
                        installs := (s.keySlot (fld i.word 38 36) (fld i.word 12 0)).installs, base := if iX i.word then i.ext.toNat else 0 }
      if !s.crypRanges k then s.fail ctx i .range
      else if s.tileFenced k.tile then s.fail ctx i .fenced
      else if !s.crypKey k then s.fail ctx i .key
      else if k.mode = 2 then
        match s.countEnc k.tile k.slot with
        | (false, s) => s.fail ctx i .key
        | (true, s) => s.startGcm ctx i k
      else ((s.startLong ctx i .cryp).setCryp ctx k).pendRec ctx i))

/-! ### CSAV and CRST (14 R447, R448) -/

/-- The record of a chaining state: 8 words on a page boundary, 12 within a page (14 Table 14-8). -/
def Cryp.words (k : Cryp) (token : Nat) : List Word :=
  let inPage := decide (k.unit ≠ 0)
  [word [(48, 0x4353), (46, k.mode), (45, b01 inPage), (32, k.slot), (16, k.installs)], BitVec.ofNat 64 k.src, BitVec.ofNat 64 k.dst,
   word [(32, k.done), (0, k.pages)], BitVec.ofNat 64 k.base, word [(32, if k.mode = 2 then token else 0)], 0, 0] ++
  (if inPage then [BitVec.ofNat 64 k.acc, BitVec.ofNat 64 (k.acc / 2 ^ 64), BitVec.ofNat 64 k.unit, 0] else [])

/-- The state that a record holds, on a tile, with its token. -/
def crypOf (t : Nat) (ws : List Word) : Cryp × Nat :=
  let w := fun (j : Nat) => ws.getD j 0
  ({ slot := fld (w 0) 44 32, mode := fld (w 0) 47 46, installs := fld (w 0) 31 16, src := (w 1).toNat, dst := (w 2).toNat, tile := t,
     done := fld (w 3) 63 32, pages := fld (w 3) 31 0, base := (w 4).toNat,
     unit := if bit (w 0) 45 then fld (w 10) 5 0 else 0, acc := if bit (w 0) 45 then (w 8).toNat + (w 9).toNat * 2 ^ 64 else 0 }, fld (w 5) 63 32)

/-- The next instruction of the context waits for room in the Tideline. -/
def State.csavWaits (s : State) (n : Nat) : Bool :=
  match s.readNext n with
  | some (i, _) => decide (i.opcode = 0x72 ∧ fld i.word 2 0 < s.tiles) && (s.ctx n).cryp.isSome && !s.roomDfa (fld i.word 2 0) (((s.ctx n).opA i.word).toNat) 104
  | none => false

/-- CSAV (13 R419; 14 R447): a context without an interrupted CRYP has nothing to save. -/
def execCsav (ctx : Nat) (s : State) : Run :=
  .next (if s.csavWaits ctx then s
  else s.issueOp ctx 0x72 (fun s i => decide (fld i.word 2 0 < s.tiles)) always (fun s i =>
    let t := fld i.word 2 0
    let a := ((s.ctx ctx).opA i.word).toNat
    match (s.ctx ctx).cryp with
    | none => s.fail ctx i .idle
    | some k =>
      let len := if k.unit = 0 then 64 else 104
      if s.dfaSize t < a + len then s.fail ctx i .range
      else if s.fencedDfa t a len then s.fail ctx i .fenced
      else
        let (w, s) := s.drawWord
        let token := w.toNat % 2 ^ 32
        let bytes := ((k.words token).map wordBytes).flatten
        let s := s.writeDfa t a (if k.unit = 0 then bytes else kwpWrap (s.keySlot t 1).key bytes)
        let s := s.setCtx ctx { s.ctx ctx with cryp := none, token := if k.mode = 2 then some token else (s.ctx ctx).token }
        s.done ctx i (word [(16, b01 (decide (k.unit ≠ 0))), (0, len)])))

/-- The words of a saved record: unwrapped under slot 1 where that succeeds, else the clear record. -/
def State.savedCryp (s : State) (t a : Nat) : Option (List Word) :=
  match kwpUnwrap (s.keySlot t 1).key (s.readDfa t a 104).1 with
  | some b => some (wordsOf 12 b)
  | none =>
    let ws := wordsOf 8 (s.readDfa t a 64).1
    if fld (ws.getD 0 0) 63 48 = 0x4353 ∧ !bit (ws.getD 0 0) 45 then some ws else none

/-- CRST (13 R419; 14 R448): the CRYP goes on as the instruction under way. -/
def execCrst (ctx : Nat) (s : State) : Run :=
  .next (s.issueOp ctx 0x73 (fun s i => decide (fld i.word 2 0 < s.tiles)) always (fun s i =>
    let t := fld i.word 2 0
    let a := ((s.ctx ctx).opA i.word).toNat
    if s.dfaSize t < a + 64 then s.fail ctx i .range
    else if s.fencedDfa t a 64 then s.fail ctx i .fenced
    else if (s.readDfa t a 64).2 then s.fail ctx i .poison
    else
      match s.savedCryp t a with
      | none => s.fail ctx i .key
      | some ws =>
        let (k, token) := crypOf t ws
        if !s.crypRanges k ∨ k.pages ≤ k.done then s.fail ctx i .range
        else if !s.crypKey k ∨ (s.keySlot t k.slot).installs ≠ k.installs then s.fail ctx i .key
        else if k.mode = 2 ∧ (s.ctx ctx).token ≠ some token then s.fail ctx i .nonce
        else
          let s := (s.startLong ctx i .cryp).setCryp ctx k
          s.setCtx ctx { s.ctx ctx with token := none }))

end Sys2Proof.Machine
end

