-- ==== Sys2Proof/Machine/FuseRows.lean ====
section
/-! DEFINITION. The commands of the fuse bank and of the parameter store (17 R486 to R505): each OP of `fuse.cmd`, the end and the stop of
programming, and the commit of the store. -/

namespace Sys2Proof.Machine

/-! ### The checks of a command (17 R491, Table 17-4) -/

/-- The result of a command that is not carried out. -/
def State.fuseEnd (s : State) (r : Nat) : State := { s with fuse := { s.fuse with cmd := none, result := r } }

/-- The authorisation: the key of the slot that word 13 names verifies (`sig`), and the slot is valid and not revoked. -/
def State.fuseAuth (s : State) (sig : Bool) : Bool := sig && s.ownerOk (fld (Store.read s.fuse.auth 13 0) 1 0)

/-- Programming starts. -/
def State.program (s : State) (op word arg : Nat) (data : Word) : State :=
  { s with fuse := { s.fuse with cmd := none, busy := some (op, word, arg, data), since := s.clock } }

/-- A command of an OP that waits, its word. -/
def State.fuseCmd (s : State) (op : Nat) : Option Word :=
  match s.fuse.cmd with
  | some w => if fld w 63 56 = op then some w else none
  | none => none

/-- Take a command that programs fuses: in MAIN, with VDD_FUSE, allowed in this lifecycle state, authorised where it must be; `more` gives
the last check of the OP, 0 when it passes. (DEDUCED, log 88.) -/
def State.fuseTake (s : State) (op : Nat) (allowed : Word → Bool) (needsAuth sig : Bool) (more : Word → Nat) : State :=
  match s.fuseCmd op with
  | none => s
  | some w =>
    if s.mode.mode ≠ .main then s.fuseEnd 5
    else if s.save.run.isSome then s.fuseEnd 8
    else if !s.pwr.vddFuse then s.fuseEnd 4
    else if s.life = .retired || !allowed w then s.fuseEnd 3
    else if needsAuth && !s.fuseAuth sig then s.fuseEnd 2
    else if more w ≠ 0 then s.fuseEnd (more w)
    else s.program op (fld w 15 8) (fld w 7 0) s.fuse.data

/-- A word of an owner slot that is not wholly programmed. (DEDUCED, log 88.) -/
def State.openOwnerWord (s : State) (w : Nat) : Bool :=
  decide (11 ≤ w ∧ w ≤ 34) && !(List.range 6).all (fun j => s.fuse.progd.contains (11 + 6 * ((w - 11) / 6) + j))

/-- PROGRAM_WORD (17 R491): OP 0x01. -/
def execProgramWord (authorised : Bool) (s : State) : Run :=
  .next (s.fuseTake 1 (fun w => if s.life = .mfg then decide (4 ≤ fld w 15 8 ∧ fld w 15 8 ≤ 37) else s.openOwnerWord (fld w 15 8))
    (decide (s.life = .owned)) authorised (fun w => if s.fuse.progd.contains (fld w 15 8) || s.fuse.dead.contains (fld w 15 8) then 6 else 0))

/-- A write-once word reads as valid. -/
def State.wordValid (s : State) (w : Nat) : Bool := s.fuse.progd.contains w && !s.fuse.invalid.contains w

/-- OWNED_TRANSITION (17 R491): OP 0x02, once words 4 to 10, owner slot 0 and PERM are valid. -/
def execOwnedTransition (s : State) : Run :=
  .next (s.fuseTake 2 (fun _ => decide (s.life = .mfg) && ([4, 5, 6, 7, 8, 9, 10, 11, 12, 13, 14, 15, 16, 35, 36, 37].all s.wordValid)) false false (fun _ => 0))

/-- RETIRED_TRANSITION (17 R491): OP 0x03. -/
def execRetiredTransition (authorised : Bool) (s : State) : Run :=
  .next (s.fuseTake 3 (fun _ => true) (decide (s.life = .owned)) authorised (fun _ => 0))

/-- REVOKE_SLOT (17 R491): OP 0x04, not of the last valid slot that is not revoked. -/
def execRevokeSlot (authorised : Bool) (s : State) : Run :=
  .next (s.fuseTake 4 (fun w => !(s.ownerOk (fld w 1 0) && (List.range 4).all (fun k => decide (k = fld w 1 0) || !s.ownerOk k)))
    (decide (s.life = .owned)) authorised (fun _ => 0))

/-- SET_DEBUG_BIT (17 R491): OP 0x05. -/
def execSetDebugBit (authorised : Bool) (s : State) : Run :=
  .next (s.fuseTake 5 (fun _ => true) (decide (s.life = .owned)) authorised (fun _ => 0))

/-- DEBUG_UNLOCK (17 R491): OP 0x06 blows no fuse; it needs the authorisation in MFG, and in OWNED with PRIV_AUTH set. -/
def execDebugUnlock (authorised : Bool) (s : State) : Run :=
  .next (match s.fuseCmd 6 with
    | none => s
    | some _ =>
      if s.life = .retired then s.fuseEnd 3
      else if (s.life = .mfg ∨ bit (s.fuseWord 0) 9) ∧ !s.fuseAuth authorised then s.fuseEnd 2
      else { s with fuse := { s.fuse with cmd := none, result := 0, unlocked := true } })

/-! ### Fuses -/

/-- The bit of words 0 to 2 that an OP of one logical bit blows. -/
def opBit (op arg : Nat) : Nat := match op with | 2 => 0 | 3 => 1 | 4 => 4 + arg % 4 | _ => 8 + arg % 2

/-- A fuse word reads a value from now on. -/
def State.setFuse (s : State) (i : Nat) (v : Word) : State :=
  { s with fuse := { s.fuse with cells := Store.write s.fuse.cells i v 0, sensed := Store.write s.fuse.sensed i v 0 } }
def State.blowBit (s : State) (i b : Nat) : State := s.setFuse i (s.fuseWord i ||| (1#64 <<< b))

/-- The number of anti-rollback bits blown up to now that still count as one raise: bits are blown lowest first, two fuses each, and a bit
reads 1 when either is blown (17 R487, R492, R500). -/
def State.blowArb (s : State) (n : Nat) (blown : Nat → Bool) : State :=
  let base := s.arbCount
  (List.range n).foldl (fun (s : State) i => if blown i then s.blowBit (1 + (base + i) / 64) ((base + i) % 64) else s) s

/-- The fuses that a command blows: those of the data of a word, whose check fuses come beside them, or the two of a logical bit. -/
def fuseCount (op : Nat) (data : Word) : Nat := if op = 1 then (List.range 64).countP (fun i => bit data i) else 2

/-- Something is being programmed, and nothing has stopped it (17 R492). -/
def State.fuseRuns (s : State) : Bool := (s.fuse.busy.isSome || decide (0 < s.fuse.arbLeft)) && !s.fuse.stopped

/-- The data of a write-once word whose fuses `failed` did not blow. -/
def blownData (data : Word) (failed : List Nat) : Word := failed.foldl (fun a i => a &&& ~~~ (1#64 <<< i)) data

/-- FUSE_PROGRAM_COMPLETE (17 R487, R491, R500): `failed` lists the fuses that did not blow: of a word 0 to 71, of a logical bit 0 and 1,
of bit i of a raise 2i and 2i + 1. One failed fuse of a word is corrected; a word with more is invalid and reads as its fuses stand. (DEDUCED,
log 89.) -/
def execFuseProgramComplete (failed : List Nat) (s : State) : Run :=
  let lost := fun (i : Nat) => failed.contains (2 * i) && failed.contains (2 * i + 1)
  .next (if !s.fuseRuns then s
  else
    match s.fuse.busy with
    | some (op, w, arg, data) =>
      if !s.due s.fuse.since (10 * us * fuseCount op data) then s
      else
        let bad := if op = 1 then decide (2 ≤ failed.length) else lost 0
        let s := { s with fuse := { s.fuse with busy := none, result := if bad then 7 else 0 } }
        if op = 1 then
          let s := if bad then { s with fuse := { s.fuse with invalid := insertNat w s.fuse.invalid } } else s
          if data = 0 ∧ !bad then s
          else ({ s with fuse := { s.fuse with progd := insertNat w s.fuse.progd } }).setFuse w (if bad then blownData data failed else data)
        else if bad then s
        else
          let s := s.blowBit 0 (opBit op arg)
          if op = 3 then s.eraseStore else s
    | none =>
      if !s.due s.fuse.since (20 * us * s.fuse.arbLeft) then s
      else
        let n := s.fuse.arbLeft
        let bad := (List.range n).any lost
        (({ s with fuse := { s.fuse with arbLeft := 0, result := if bad then 7 else 0 } }).blowArb n (fun i => !lost i)))

/-- FUSE_PROGRAM_STOP (17 R492): a save commit or a reset has stopped the programming, after a number of fuses, lowest first. (DEDUCED, log 89.) -/
def execFuseProgramStop (fuses : Nat) (s : State) : Run :=
  .next (if !s.fuse.stopped then s
  else
    let s := { s with fuse := { s.fuse with stopped := false } }
    match s.fuse.busy with
    | some (op, w, arg, data) =>
      let s := { s with fuse := { s.fuse with busy := none, result := 8 } }
      if op = 1 then
        let s := { s with fuse := { s.fuse with dead := insertNat w s.fuse.dead } }
        if fuses = 0 then s
        else
          let left := ((List.range 64).filter (fun i => bit data i)).drop fuses
          ({ s with fuse := { s.fuse with progd := insertNat w s.fuse.progd, invalid := insertNat w s.fuse.invalid } }).setFuse w (blownData data left)
      else if fuses = 0 then s
      else s.blowBit 0 (opBit op arg)
    | none =>
      if s.fuse.arbLeft = 0 then s
      else ({ s with fuse := { s.fuse with arbLeft := 0, result := 8 } }).blowArb s.fuse.arbLeft (fun i => decide (2 * i < fuses)))

/-! ### The parameter store -/

/-- PARAMETER_STORE_COMMIT (17 R501, R504): a change is committed to the copy not in use, or, while PRESERVE is set, as a delta to the
append area of the copy in use; `full` says that the area is full, which clears PRESERVE. (DEDUCED, log 94.) -/
def execParameterStoreCommit (full : Bool) (s : State) : Run :=
  .next (if s.mode.mode = .stby ∨ !s.boot.done.contains 5 ∨ s.life = .retired ∨ s.snapshot = s.fw.stored then s
  else
    let whole := fun (s : State) => { s with fw := { s.fw with stored := s.snapshot, gen := s.fw.gen + 1, copy := 1 - s.fw.copy, preserve := false, deltas := 0 } }
    if !s.fw.preserve then whole s
    else if full then (whole s).log 0 3 bFw 1023 0x03 0 0
    else { s with fw := { s.fw with stored := s.snapshot, deltas := s.fw.deltas + 1 } })

end Sys2Proof.Machine
end

