-- ==== Sys2Proof/Machine/MgmtRows.lean ====
section
/-! DEFINITION. The commands of management over I3C (18 R517 to R519). -/

namespace Sys2Proof.Machine

/-- ENTDAA (18 R517): the target takes a dynamic address of seven bits. -/
def execEntdaa (address : Nat) (s : State) : Run :=
  .next (if address < 128 then { s with mgmt := { s.mgmt with address := some address } } else s)

/-- MCTP beyond the control messages, START and PREAD is served (18 Tables 18-6, 18-7). (DEDUCED, log 95.) -/
def State.mctpServes (s : State) : Bool := decide (s.mode.mode ≠ .stby ∧ s.mode.mode ≠ .save)

/-- A submission over MCTP enters context 0x103F at PL1; it waits where the queue has no room or an older one waits (12 R370, Table
12-6). -/
def State.mctpSubmit (s : State) (prio : Nat) (items : List Word) : State :=
  if s.mctpServes ∧ prio < 8 ∧ 1 ≤ items.length ∧ items.length ≤ 64 then
    let b : Sub := { items, prio, path := .mctp, pl := 1 }
    ({ s with mgmt := { s.mgmt with waiting := s.mgmt.waiting ++ [b] } }).moveMctp
  else s

/-- SUBMIT (18 R518, Table 18-7). -/
def execSubmit (prio : Nat) (items : List Word) (s : State) : Run := .next (s.mctpSubmit prio items)

/-- FM_API (18 R518): the items that a CXL FM-API message stands for, at PL1 to context 0x103F. -/
def execFmApi (prio : Nat) (items : List Word) (s : State) : Run := .next (s.mctpSubmit prio items)

/-- The device has an MCTP message to send, and raises an IBI (18 R517). -/
def State.ibi (s : State) : Bool := !s.mgmt.events.isEmpty || s.mctpServes && !s.mgmt.results.isEmpty

/-- RESULT (18 R519, Table 18-7): the oldest completion records that the BMC has not read, at most 8 and at most `count`. -/
def execResult (count : Nat) (s : State) : Run :=
  let k := min count 8
  .next (if !s.mctpServes ∨ s.mgmt.results.isEmpty ∨ k = 0 then s
  else ({ s with mgmt := { s.mgmt with results := s.mgmt.results.drop k } }).emit (.mctp 0x02 (s.mgmt.results.take k).flatten))

/-- EVENT (18 R519): the oldest event for the BMC is sent. -/
def execEvent (s : State) : Run :=
  .next (match s.mgmt.events with
    | [] => s
    | e :: r => ({ s with mgmt := { s.mgmt with events := r } }).emit (.mctp 0x05 e))

/-- The device instances that PREAD reads in STBY and SAVE, and those of the recovery form of MAIN (18 Table 18-7; 02 R58). -/
def State.preadOk (s : State) (id : Nat) : Bool :=
  let dev := decide (pidInst id = 1023 ∨ (pidBlock id = bFuse ∧ pidInst id = 1022))
  if s.mode.recovery then dev && [bRec, bFw].contains (pidBlock id)
  else s.mctpServes || (dev && [bSys, bPwr, bRec, bFuse, bFw].contains (pidBlock id))

/-- One parameter as GETP reads it at PL1: status and value (18 Table 18-7; 13 R396). (DESIGN CHOICE, log 96.) (DEDUCED, log 144.) -/
def State.pread (s : State) (id : Nat) : List Word × State :=
  let m := s.idSess 0x103F 1 id
  if !s.mayRead 0x103F 1 id false then ([BitVec.ofNat 64 Status.priv.code, 0], s)
  else if !s.preadOk id then ([BitVec.ofNat 64 Status.mode.code, 0], s)
  else if !s.idOk 0x103F 1 id then ([BitVec.ofNat 64 Status.range.code, 0], s)
  else if s.idFenced id then ([BitVec.ofNat 64 Status.fenced.code, 0], s)
  else
    let s := s.beforeRead id
    ([0, s.view id m], s.afterRead id m)

/-- PREAD (18 R518, Table 18-7): 1 to 8 parameters; any other number is answered with RANGE alone (DESIGN CHOICE). -/
def execPread (ids : List Nat) (s : State) : Run :=
  .next (if ids.isEmpty ∨ 8 < ids.length then s.emit (.mctp 0x04 [BitVec.ofNat 64 Status.range.code])
  else
    let (ws, s) := ids.foldl (fun (p : List Word × State) id => let (w, s) := p.2.pread (id % 2 ^ 24); (p.1 ++ w, s)) ([], s)
    s.emit (.mctp 0x04 ws))

/-- MCTP_CONTROL (18 R518): a control message is answered in every mode, and a message of a type outside Table 18-6 receives the response
for an unsupported type. Code 5 stands for that response (PRESUMED). (PRESUMED, log 97.) -/
def execMctpControl (type : Nat) (s : State) : Run :=
  .next (if type = 0 then s.emit (.mctp 0 [0]) else if [0x07, 0x08, 0x7E].contains type then s else s.emit (.mctp 0 [5]))

/-- COMPONENT_COMMAND (18 R518): a command reaches the mailbox of the management LD as its host's would (03 R76, R86, R88, R96). -/
def execComponentCommand (opcode addr : Nat) (data : Line) (s : State) : Run :=
  let (t, d) := s.mgmtLd
  .next (if s.tiles ≤ t ∨ !s.mctpServes ∨ s.mode.recovery then s
  else if opcode = 0x4301 then s.mailStore t d addr 0x4301 0 true
  else if opcode = 0x4302 then s.mailStore t d addr 0x4302 data false
  else s.mailRead t d opcode)

end Sys2Proof.Machine
end

