-- ==== Sys2Proof/Machine/TapRows.lean ====
section
/-! DEFINITION. The TAP and boundary scan (19 R538 to R544). -/

namespace Sys2Proof.Machine

/-- The length of the boundary register (19 R538). -/
def State.cells (s : State) : Nat := 96 + 1248 * s.tiles

/-- The driving instructions are blocked (19 R541), and while a save is committed. (DEDUCED, log 98.) -/
def State.drivingBlocked (s : State) : Bool :=
  decide (s.mode.mode ≠ .main) || s.mode.recovery || s.save.run.isSome || s.mode.leaving
    || (List.range 16).any (fun i => decide (s.chanClass i = 2) && !s.pwr.pg.getLsbD i)
    || s.tileList.any (fun t => decide (s.dirtyCount t ≠ 0))

/-- An instruction takes effect; Capture-IR has loaded 0b01 with bit 2 set while the driving instructions are blocked (19 R539). -/
def State.loadIr (s : State) (code : Nat) : State := { s with tap := { s.tap with instr := code, ir := 1 + 4 * b01 s.drivingBlocked } }

/-- A driving instruction: blocked, it selects BYPASS; else scan hold begins (19 R541, R542). -/
def State.loadDriving (s : State) (code : Nat) : State :=
  if s.drivingBlocked then s.loadIr 0xFF
  else
    let s := s.loadIr code
    if s.tap.scanHold then s else { s with tap := { s.tap with scanHold := true, handed := false, since := s.clock } }

/-- EXTEST (19 R539). -/
def execExtest (s : State) : Run := .next (s.loadDriving 0x00)
/-- IDCODE (19 R539, R540). -/
def execIdcode (s : State) : Run := .next (s.loadIr 0x01)
/-- SAMPLE/PRELOAD (19 R539); in STBY it does not work and selects BYPASS (R541). -/
def execSamplePreload (s : State) : Run := .next (s.loadIr (if s.mode.mode = .stby then 0xFF else 0x02))
/-- CLAMP (19 R539). -/
def execClamp (s : State) : Run := .next (s.loadDriving 0x03)
/-- HIGHZ (19 R539). -/
def execHighz (s : State) : Run := .next (s.loadDriving 0x04)
/-- EXTEST_PULSE (19 R539, R544). -/
def execExtestPulse (s : State) : Run := .next (s.loadDriving 0x05)
/-- EXTEST_TRAIN (19 R539, R544). -/
def execExtestTrain (s : State) : Run := .next (s.loadDriving 0x06)
/-- BYPASS, and any code that Table 19-12 does not list (19 R539). -/
def execBypass (s : State) : Run := .next (s.loadIr 0xFF)

/-- The private instructions are open (17 Table 17-2): in OWNED by PRIV_OFF and PRIV_AUTH. -/
def State.privOpen (s : State) : Bool :=
  decide (s.life ≠ .owned) || (!bit (s.fuseWord 0) 8 && (!bit (s.fuseWord 0) 9 || s.fuse.unlocked))

/-- PRIVATE_TAP_INSTRUCTION (19 R539): a code from 0x80 to 0xFE; refused, it selects BYPASS, as it does in STBY. -/
def execPrivateTapInstruction (code : Nat) (s : State) : Run :=
  .next (s.loadIr (if 0x80 ≤ code ∧ code ≤ 0xFE ∧ s.privOpen ∧ s.mode.mode ≠ .stby then code else 0xFF))

/-- SCAN_HOLD (19 R542): the entry that a driving instruction began is carried out. -/
def execScanHold (s : State) : Run :=
  .next (if !s.tap.scanHold ∨ s.tap.handed ∨ s.mode.mode ≠ .main ∨ s.save.run.isSome then s
  else
    let s := s.liveTiles.foldl State.linksDown s
    let s := s.loseTwin
    let at_ := s.atCommit
    let s := s.quiesce
    let tc := s.master
    let s := s.liveTiles.foldl (fun (s : State) t => s.savePhases t (at_ t) 5 7 tc false false) s
    { s with pwr := { s.pwr with dramUp := 0 }, chans := s.chans.map (fun p => (p.1, { p.2 with validL := false, validH := false, rateH := 0 })),
             tap := { s.tap with handed := true } })

/-- The register that an instruction selects: 0 boundary, 1 identification, 2 bypass, 3 private (19 Table 19-12). -/
def tapReg (instr : Nat) : Nat :=
  if [0x00, 0x02, 0x05, 0x06].contains instr then 0 else if instr = 1 then 1 else if 0x80 ≤ instr ∧ instr ≤ 0xFE then 3 else 2

/-- IDCODE (19 R540): the stepping code of the fuses replaces [31:28]. -/
def State.idcode (s : State) : Nat := 0x0C88_40D7 + fld (s.fuseWord 4) 19 16 * 2 ^ 28

/-- CAPTURE_DR (19 R539, R542): the selected register captures; `lands` is what the lands read. Before the hand-over of scan hold the
boundary register captures zeros. What a private register captures is a free value. -/
def execCaptureDr (lands : Nat) (s : State) : Run :=
  .next (match tapReg s.tap.instr with
    | 0 =>
      let v := lands % 2 ^ s.cells
      { s with tap := { s.tap with lands := v, dr := if s.tap.scanHold ∧ !s.tap.handed then 0 else v } }
    | 1 => { s with tap := { s.tap with dr := s.idcode } }
    | 2 => { s with tap := { s.tap with dr := 0 } }
    | _ => let (w, s) := s.drawWord; { s with tap := { s.tap with dr := w.toNat } })

/-- UPDATE_DR (19 R542): what was shifted into the boundary register moves to its update stage, which drives the lands in scan hold; before
the hand-over it has no effect. -/
def execUpdateDr (value : Nat) (s : State) : Run :=
  .next (if tapReg s.tap.instr = 0 ∧ !(s.tap.scanHold ∧ !s.tap.handed) then
    { s with tap := { s.tap with update := value % 2 ^ s.cells, dr := value % 2 ^ s.cells } }
  else s)

/-- What the lands do (19 R541, R542): their function, the update stage of the boundary register, or high impedance. -/
inductive Lands where
  | function | driven (value : Nat) | highZ
  deriving DecidableEq, Repr
def State.landsDo (s : State) : Lands :=
  if !s.tap.handed then .function
  else if s.tap.instr = 4 then .highZ
  else .driven s.tap.update

/-- Groups of lands, and what they hold until their function starts (19 R530): host and Isahar transmitters in electrical idle; the reset, clock,
command and select outputs of DRAM low; the chip enables of ONFI high, its write protect and write enable low; SPI_RESET_L low. -/
inductive LandGroup where
  | serdes (tile : Nat) | dram (tile : Nat) | onfi (tile : Nat) | spi
  deriving DecidableEq, Repr
def State.landsIdle (s : State) : LandGroup → Bool
  | .serdes _ => !s.boot.done.contains 3
  | .dram t => !s.boot.dimms.contains t
  | .onfi t => !s.boot.mounted.contains t
  | .spi => !s.boot.tableRead

/-- TAP_RESET (19 R539, R542): the TAP selects IDCODE. Scan hold goes on. (DEDUCED, log 99.) -/
def execTapReset (s : State) : Run := .next { s with tap := { s.tap with instr := 1 } }

end Sys2Proof.Machine
end

