-- ==== Sys2Proof/Machine/Dispatch.lean ====
section
/-! DEFINITION. One arm per command: a direct call of its meaning. -/

namespace Sys2Proof.Machine

def exec (i : Instr) (s : State) : Host.Outcome State Fault Refusal :=
  match i with
  | .powerOnReset => Sys2Proof.Machine.execPowerOnReset s
  | .stepTableRead => Sys2Proof.Machine.execStepTableRead s
  | .start => Sys2Proof.Machine.execStart s
  | .autoStart => Sys2Proof.Machine.execAutoStart s
  | .psPgAccept input high => Sys2Proof.Machine.execPsPgAccept input high s
  | .signalFilterAccept pfw asserted => Sys2Proof.Machine.execSignalFilterAccept pfw asserted s
  | .railStepStart => Sys2Proof.Machine.execRailStepStart s
  | .stepWindowEnd => Sys2Proof.Machine.execStepWindowEnd s
  | .stepDelayEnd => Sys2Proof.Machine.execStepDelayEnd s
  | .stepTimeout => Sys2Proof.Machine.execStepTimeout s
  | .bootSlotCheck vendor digest owner => Sys2Proof.Machine.execBootSlotCheck vendor digest owner s
  | .firmwareStart migrate older badBlocks badKeys programs => Sys2Proof.Machine.execFirmwareStart migrate older badBlocks badKeys programs s
  | .ucieLinkTrained tile => Sys2Proof.Machine.execUcieLinkTrained tile s
  | .hostLinkTrained tile link partner width => Sys2Proof.Machine.execHostLinkTrained tile link partner width s
  | .dimmDiscovery tile s0 s1 s2 s3 s4 s5 s6 s7 => Sys2Proof.Machine.execDimmDiscovery tile s0 s1 s2 s3 s4 s5 s6 s7 s
  | .dramTrainingStep tile channel pass => Sys2Proof.Machine.execDramTrainingStep tile channel pass s
  | .dramTrainingComplete tile channel => Sys2Proof.Machine.execDramTrainingComplete tile channel s
  | .thatchMount tile page scan => Sys2Proof.Machine.execThatchMount tile page scan s
  | .isaharLinkTrained tile part tiles pair master flight rate gcm ok0 ok1 => Sys2Proof.Machine.execIsaharLinkTrained tile part tiles pair master flight rate gcm ok0 ok1 s
  | .recordSummary epoch lastSeq valid preferred => Sys2Proof.Machine.execRecordSummary epoch lastSeq valid preferred s
  | .pairWaitExpiry => Sys2Proof.Machine.execPairWaitExpiry s
  | .bringUpComplete => Sys2Proof.Machine.execBringUpComplete s
  | .openRecordWrite tile => Sys2Proof.Machine.execOpenRecordWrite tile s
  | .restoreLoad tile => Sys2Proof.Machine.execRestoreLoad tile s
  | .restoreDemandFault tile page => Sys2Proof.Machine.execRestoreDemandFault tile page s
  | .verifyLine tile err => Sys2Proof.Machine.execVerifyLine tile err s
  | .restoreComplete => Sys2Proof.Machine.execRestoreComplete s
  | .fullSpeedStep tile channel => Sys2Proof.Machine.execFullSpeedStep tile channel s
  | .conversionLapGroup tile channel ends errs => Sys2Proof.Machine.execConversionLapGroup tile channel ends errs s
  | .warmReset => Sys2Proof.Machine.execWarmReset s
  | .tileReset tile => Sys2Proof.Machine.execTileReset tile s
  | .tapReset => Sys2Proof.Machine.execTapReset s
  | .perstAssert tile link => Sys2Proof.Machine.execPerstAssert tile link s
  | .perstDeassert tile link => Sys2Proof.Machine.execPerstDeassert tile link s
  | .hotReset tile link => Sys2Proof.Machine.execHotReset tile link s
  | .cxlMemRead tile link ld tag hpa => Sys2Proof.Machine.execCxlMemRead tile link ld tag hpa s
  | .cxlMemStore tile link ld tag hpa mask data poison => Sys2Proof.Machine.execCxlMemStore tile link ld tag hpa mask data poison s
  | .uioRequest via write tile link ld tag hpa len data => Sys2Proof.Machine.execUioRequest via write tile link ld tag hpa len data s
  | .remoteAtomic via op bytes tile link ld tag hpa a b => Sys2Proof.Machine.execRemoteAtomic via op bytes tile link ld tag hpa a b s
  | .unsupportedRequest tile link ld tag => Sys2Proof.Machine.execUnsupportedRequest tile link ld tag s
  | .violationInterrupt tile ld => Sys2Proof.Machine.execViolationInterrupt tile ld s
  | .orderGateRelease owner source stamp => Sys2Proof.Machine.execOrderGateRelease owner source stamp s
  | .unackedReadRelease tile => Sys2Proof.Machine.execUnackedReadRelease tile s
  | .homeTlbFill tile page => Sys2Proof.Machine.execHomeTlbFill tile page s
  | .tidelineRoomGrant tile => Sys2Proof.Machine.execTidelineRoomGrant tile s
  | .tidelineBitmapFill tile group => Sys2Proof.Machine.execTidelineBitmapFill tile group s
  | .mergeEntryFree tile => Sys2Proof.Machine.execMergeEntryFree tile s
  | .mergeWriteOut tile off => Sys2Proof.Machine.execMergeWriteOut tile off s
  | .mergeEntryAge tile off => Sys2Proof.Machine.execMergeEntryAge tile off s
  | .eavesEviction tile set way => Sys2Proof.Machine.execEavesEviction tile set way s
  | .stridePrefetch tile sess ld => Sys2Proof.Machine.execStridePrefetch tile sess ld s
  | .creditReturn tile link => Sys2Proof.Machine.execCreditReturn tile link s
  | .gpfPhase1 tile link tag => Sys2Proof.Machine.execGpfPhase1 tile link tag s
  | .gpfPhase2 tile link tag => Sys2Proof.Machine.execGpfPhase2 tile link tag s
  | .getPoisonList tile ld => Sys2Proof.Machine.execGetPoisonList tile ld s
  | .injectPoison tile ld addr => Sys2Proof.Machine.execInjectPoison tile ld addr s
  | .clearPoison tile ld addr data => Sys2Proof.Machine.execClearPoison tile ld addr data s
  | .getHealthInfo tile ld => Sys2Proof.Machine.execGetHealthInfo tile ld s
  | .hdmDecoderCommit tile ld decoder base size ways gran => Sys2Proof.Machine.execHdmDecoderCommit tile ld decoder base size ways gran s
  | .addDynamicCapacityResponse tile ld window => Sys2Proof.Machine.execAddDynamicCapacityResponse tile ld window s
  | .releaseDynamicCapacity tile ld window => Sys2Proof.Machine.execReleaseDynamicCapacity tile ld window s
  | .dcReleaseTimeout tile ld window => Sys2Proof.Machine.execDcReleaseTimeout tile ld window s
  | .ideKm tile ld keySet containment => Sys2Proof.Machine.execIdeKm tile ld keySet containment s
  | .ideIntegrityFail tile link => Sys2Proof.Machine.execIdeIntegrityFail tile link s
  | .spdmRequest tile ld request => Sys2Proof.Machine.execSpdmRequest tile ld request s
  | .sqDoorbell tile ld value items => Sys2Proof.Machine.execSqDoorbell tile ld value items s
  | .cmdDoorbell tile ld value item0 item1 => Sys2Proof.Machine.execCmdDoorbell tile ld value item0 item1 s
  | .cqHead tile ld value => Sys2Proof.Machine.execCqHead tile ld value s
  | .vlogHead tile ld value => Sys2Proof.Machine.execVlogHead tile ld value s
  | .tidemarkRead tile ld tag four => Sys2Proof.Machine.execTidemarkRead tile ld tag four s
  | .violLost tile ld tag => Sys2Proof.Machine.execViolLost tile ld tag s
  | .slipwayWrite tile link ld tag hpa mask data => Sys2Proof.Machine.execSlipwayWrite tile link ld tag hpa mask data s
  | .slipwayIdleTimeout sess => Sys2Proof.Machine.execSlipwayIdleTimeout sess s
  | .msiX tile ld vector => Sys2Proof.Machine.execMsiX tile ld vector s
  | .submission ctx => Sys2Proof.Machine.execSubmission ctx s
  | .contextLoad tile thread => Sys2Proof.Machine.execContextLoad tile thread s
  | .quantumExpiry tile thread => Sys2Proof.Machine.execQuantumExpiry tile thread s
  | .completionRecord ctx => Sys2Proof.Machine.execCompletionRecord ctx s
  | .completionSpace ctx => Sys2Proof.Machine.execCompletionSpace ctx s
  | .idle ctx => Sys2Proof.Machine.execIdle ctx s
  | .idleTimeout ctx => Sys2Proof.Machine.execIdleTimeout ctx s
  | .nop ctx => Sys2Proof.Machine.execNop ctx s
  | .wait ctx => Sys2Proof.Machine.execWait ctx s
  | .waitEnd ctx => Sys2Proof.Machine.execWaitEnd ctx s
  | .halt ctx => Sys2Proof.Machine.execHalt ctx s
  | .time ctx => Sys2Proof.Machine.execTime ctx s
  | .br ctx => Sys2Proof.Machine.execBr ctx s
  | .bz ctx => Sys2Proof.Machine.execBz ctx s
  | .bnz ctx => Sys2Proof.Machine.execBnz ctx s
  | .loop ctx => Sys2Proof.Machine.execLoop ctx s
  | .callp ctx => Sys2Proof.Machine.execCallp ctx s
  | .add ctx => Sys2Proof.Machine.execAdd ctx s
  | .sub ctx => Sys2Proof.Machine.execSub ctx s
  | .and ctx => Sys2Proof.Machine.execAnd ctx s
  | .or ctx => Sys2Proof.Machine.execOr ctx s
  | .xor ctx => Sys2Proof.Machine.execXor ctx s
  | .shl ctx => Sys2Proof.Machine.execShl ctx s
  | .shr ctx => Sys2Proof.Machine.execShr ctx s
  | .ldi ctx => Sys2Proof.Machine.execLdi ctx s
  | .cmp ctx => Sys2Proof.Machine.execCmp ctx s
  | .getp ctx => Sys2Proof.Machine.execGetp ctx s
  | .stgp ctx => Sys2Proof.Machine.execStgp ctx s
  | .chks ctx => Sys2Proof.Machine.execChks ctx s
  | .apls ctx => Sys2Proof.Machine.execApls ctx s
  | .drops ctx => Sys2Proof.Machine.execDrops ctx s
  | .lockp ctx => Sys2Proof.Machine.execLockp ctx s
  | .stagedSetTimeout => Sys2Proof.Machine.execStagedSetTimeout s
  | .springTide => Sys2Proof.Machine.execSpringTide s
  | .tideConfirm standby tile => Sys2Proof.Machine.execTideConfirm standby tile s
  | .tideRelease standby tile => Sys2Proof.Machine.execTideRelease standby tile s
  | .tideConfirmDeadline => Sys2Proof.Machine.execTideConfirmDeadline s
  | .swapBack => Sys2Proof.Machine.execSwapBack s
  | .mainEntry => Sys2Proof.Machine.execMainEntry s
  | .zln ctx => Sys2Proof.Machine.execZln ctx s
  | .fln ctx => Sys2Proof.Machine.execFln ctx s
  | .pbar ctx => Sys2Proof.Machine.execPbar ctx s
  | .movp ctx => Sys2Proof.Machine.execMovp ctx s
  | .pfsc ctx => Sys2Proof.Machine.execPfsc ctx s
  | .pfgo ctx => Sys2Proof.Machine.execPfgo ctx s
  | .sopen ctx => Sys2Proof.Machine.execSopen ctx s
  | .sclose ctx => Sys2Proof.Machine.execSclose ctx s
  | .sext ctx => Sys2Proof.Machine.execSext ctx s
  | .sqos ctx => Sys2Proof.Machine.execSqos ctx s
  | .mrole ctx => Sys2Proof.Machine.execMrole ctx s
  | .msync ctx => Sys2Proof.Machine.execMsync ctx s
  | .mdig ctx => Sys2Proof.Machine.execMdig ctx s
  | .lease ctx => Sys2Proof.Machine.execLease ctx s
  | .fraw ctx decodes => Sys2Proof.Machine.execFraw ctx decodes s
  | .ferc ctx => Sys2Proof.Machine.execFerc ctx s
  | .fret ctx => Sys2Proof.Machine.execFret ctx s
  | .scrb ctx err => Sys2Proof.Machine.execScrb ctx err s
  | .pois ctx => Sys2Proof.Machine.execPois ctx s
  | .clrp ctx => Sys2Proof.Machine.execClrp ctx s
  | .fence ctx => Sys2Proof.Machine.execFence ctx s
  | .kunw ctx twin => Sys2Proof.Machine.execKunw ctx twin s
  | .kdrop ctx => Sys2Proof.Machine.execKdrop ctx s
  | .csav ctx => Sys2Proof.Machine.execCsav ctx s
  | .crst ctx => Sys2Proof.Machine.execCrst ctx s
  | .cryp ctx units => Sys2Proof.Machine.execCryp ctx units s
  | .evtw ctx => Sys2Proof.Machine.execEvtw ctx s
  | .csnp ctx => Sys2Proof.Machine.execCsnp ctx s
  | .cfrz ctx => Sys2Proof.Machine.execCfrz ctx s
  | .counterSnapshot => Sys2Proof.Machine.execCounterSnapshot s
  | .counterFreeze => Sys2Proof.Machine.execCounterFreeze s
  | .crd ctx => Sys2Proof.Machine.execCrd ctx s
  | .mark ctx => Sys2Proof.Machine.execMark ctx s
  | .rwnd ctx => Sys2Proof.Machine.execRwnd ctx s
  | .rel ctx => Sys2Proof.Machine.execRel ctx s
  | .fwst ctx => Sys2Proof.Machine.execFwst ctx s
  | .fwsel ctx => Sys2Proof.Machine.execFwsel ctx s
  | .save ctx => Sys2Proof.Machine.execSave ctx s
  | .hold ctx => Sys2Proof.Machine.execHold ctx s
  | .forceAuth => Sys2Proof.Machine.execForceAuth s
  | .frequencyChange tile => Sys2Proof.Machine.execFrequencyChange tile s
  | .frequencyChangeComplete tile channel found => Sys2Proof.Machine.execFrequencyChangeComplete tile channel found s
  | .retrainingSlice tile channel finished pass => Sys2Proof.Machine.execRetrainingSlice tile channel finished pass s
  | .dimmTemperatureRead tile channel t0 t1 => Sys2Proof.Machine.execDimmTemperatureRead tile channel t0 t1 s
  | .dqsOscillatorCheck tile channel rank drift => Sys2Proof.Machine.execDqsOscillatorCheck tile channel rank drift s
  | .zqCalibration tile channel rank => Sys2Proof.Machine.execZqCalibration tile channel rank s
  | .refreshDue tile channel rank => Sys2Proof.Machine.execRefreshDue tile channel rank s
  | .neighbourRefresh tile channel => Sys2Proof.Machine.execNeighbourRefresh tile channel s
  | .activateTableClear tile channel => Sys2Proof.Machine.execActivateTableClear tile channel s
  | .pageIdleClose tile channel bank => Sys2Proof.Machine.execPageIdleClose tile channel bank s
  | .powerDownEntry tile channel rank => Sys2Proof.Machine.execPowerDownEntry tile channel rank s
  | .selfRefreshEntry tile channel => Sys2Proof.Machine.execSelfRefreshEntry tile channel s
  | .selfRefreshExit tile channel => Sys2Proof.Machine.execSelfRefreshExit tile channel s
  | .pracAlert tile channel sub => Sys2Proof.Machine.execPracAlert tile channel sub s
  | .caParityAlert tile channel sub => Sys2Proof.Machine.execCaParityAlert tile channel sub s
  | .dramReadReturn tile channel sub err => Sys2Proof.Machine.execDramReadReturn tile channel sub err s
  | .lineRecovery tile dfa readable => Sys2Proof.Machine.execLineRecovery tile dfa readable s
  | .undertowRead tile channel err => Sys2Proof.Machine.execUndertowRead tile channel err s
  | .undertowWriteBack tile => Sys2Proof.Machine.execUndertowWriteBack tile s
  | .lapMaxReached tile channel => Sys2Proof.Machine.execLapMaxReached tile channel s
  | .ceBucketLeak tile b => Sys2Proof.Machine.execCeBucketLeak tile b s
  | .parityError tile place => Sys2Proof.Machine.execParityError tile place s
  | .residueMismatch tile cls inst => Sys2Proof.Machine.execResidueMismatch tile cls inst s
  | .queueEccError tile what => Sys2Proof.Machine.execQueueEccError tile what s
  | .eavesTagError tile set way what => Sys2Proof.Machine.execEavesTagError tile set way what s
  | .ucieReplayLimit tile link count => Sys2Proof.Machine.execUcieReplayLimit tile link count s
  | .flashing cls inst tile cause => Sys2Proof.Machine.execFlashing cls inst tile cause s
  | .fenceNotice holder cls inst tile => Sys2Proof.Machine.execFenceNotice holder cls inst tile s
  | .unitReset cls inst tile trains => Sys2Proof.Machine.execUnitReset cls inst tile trains s
  | .channelReload cls inst tile => Sys2Proof.Machine.execChannelReload cls inst tile s
  | .drainPage tile => Sys2Proof.Machine.execDrainPage tile s
  | .recordVerified tile page => Sys2Proof.Machine.execRecordVerified tile page s
  | .drainRateUpdate tile => Sys2Proof.Machine.execDrainRateUpdate tile s
  | .budgetRecompute tile => Sys2Proof.Machine.execBudgetRecompute tile s
  | .pfwLAssert => Sys2Proof.Machine.execPfwLAssert s
  | .pfwHoldExpiry => Sys2Proof.Machine.execPfwHoldExpiry s
  | .armedMaxExpiry => Sys2Proof.Machine.execArmedMaxExpiry s
  | .saveArmedLapse => Sys2Proof.Machine.execSaveArmedLapse s
  | .inputPowerGoodDrop channel => Sys2Proof.Machine.execInputPowerGoodDrop channel s
  | .faultLLow => Sys2Proof.Machine.execFaultLLow s
  | .bbuOkLow => Sys2Proof.Machine.execBbuOkLow s
  | .deviceRailDrop channel => Sys2Proof.Machine.execDeviceRailDrop channel s
  | .applianceRailDrop channel => Sys2Proof.Machine.execApplianceRailDrop channel s
  | .memoryRailDrop channel => Sys2Proof.Machine.execMemoryRailDrop channel s
  | .saveCommit cause => Sys2Proof.Machine.execSaveCommit cause s
  | .saveComplete tile => Sys2Proof.Machine.execSaveComplete tile s
  | .saveTimeout => Sys2Proof.Machine.execSaveTimeout s
  | .shutdownStep => Sys2Proof.Machine.execShutdownStep s
  | .faultLRelease => Sys2Proof.Machine.execFaultLRelease s
  | .thatchRowProgrammed tile blk took => Sys2Proof.Machine.execThatchRowProgrammed tile blk took s
  | .rowAgeExpiry tile blk => Sys2Proof.Machine.execRowAgeExpiry tile blk s
  | .programFail tile blk member => Sys2Proof.Machine.execProgramFail tile blk member s
  | .blockVerify tile blk => Sys2Proof.Machine.execBlockVerify tile blk s
  | .parityRebuild tile blk slot => Sys2Proof.Machine.execParityRebuild tile blk slot s
  | .mergeStart tile seg => Sys2Proof.Machine.execMergeStart tile seg s
  | .mapSwitch tile seg => Sys2Proof.Machine.execMapSwitch tile seg s
  | .mergeTargetFail tile blk member => Sys2Proof.Machine.execMergeTargetFail tile blk member s
  | .mergeRetry tile seg => Sys2Proof.Machine.execMergeRetry tile seg s
  | .relocation tile blk => Sys2Proof.Machine.execRelocation tile blk s
  | .readRetry tile blk member retries soft sess => Sys2Proof.Machine.execReadRetry tile blk member retries soft sess s
  | .unreadableRecord tile blk slot merge => Sys2Proof.Machine.execUnreadableRecord tile blk slot merge s
  | .flashScrub tile blk retries => Sys2Proof.Machine.execFlashScrub tile blk retries s
  | .erase tile blk member => Sys2Proof.Machine.execErase tile blk member s
  | .eraseSuspend tile blk member resumes => Sys2Proof.Machine.execEraseSuspend tile blk member resumes s
  | .targetNotReady tile target => Sys2Proof.Machine.execTargetNotReady tile target s
  | .flashOnlyHome tile lpage => Sys2Proof.Machine.execFlashOnlyHome tile lpage s
  | .backlogWalk tile => Sys2Proof.Machine.execBacklogWalk tile s
  | .frameSend tile path => Sys2Proof.Machine.execFrameSend tile path s
  | .frameReceive tile => Sys2Proof.Machine.execFrameReceive tile s
  | .messageReassembly tile path envelope payload => Sys2Proof.Machine.execMessageReassembly tile path envelope payload s
  | .reassemblyTimeout tile chan msgid => Sys2Proof.Machine.execReassemblyTimeout tile chan msgid s
  | .nak tile chan msgid bitmap => Sys2Proof.Machine.execNak tile chan msgid bitmap s
  | .receipt tile gen seq status applied => Sys2Proof.Machine.execReceipt tile gen seq status applied s
  | .receiptTimeout tile seq => Sys2Proof.Machine.execReceiptTimeout tile seq s
  | .frameApply tile => Sys2Proof.Machine.execFrameApply tile s
  | .lrq tile off count seqR => Sys2Proof.Machine.execLrq tile off count seqR s
  | .lrs tile => Sys2Proof.Machine.execLrs tile s
  | .lrqTimeout tile off => Sys2Proof.Machine.execLrqTimeout tile off s
  | .ckpt tile seq tm digest => Sys2Proof.Machine.execCkpt tile seq tm digest s
  | .ckok tile seq tm digest => Sys2Proof.Machine.execCkok tile seq tm digest s
  | .ckbad tile seq => Sys2Proof.Machine.execCkbad tile seq s
  | .sync tile path tidemark => Sys2Proof.Machine.execSync tile path tidemark s
  | .heartbeatTimeout tile path => Sys2Proof.Machine.execHeartbeatTimeout tile path s
  | .epoch epoch next => Sys2Proof.Machine.execEpoch epoch next s
  | .role message => Sys2Proof.Machine.execRole message s
  | .handover => Sys2Proof.Machine.execHandover s
  | .failbackRequest => Sys2Proof.Machine.execFailbackRequest s
  | .tide name message => Sys2Proof.Machine.execTide name message s
  | .fenceMessage cls inst cause => Sys2Proof.Machine.execFenceMessage cls inst cause s
  | .rset tile point pages confirmed => Sys2Proof.Machine.execRset tile point pages confirmed s
  | .resync tile next pages follows config => Sys2Proof.Machine.execResync tile next pages follows config s
  | .resyncComplete tile => Sys2Proof.Machine.execResyncComplete tile s
  | .leaseRenew => Sys2Proof.Machine.execLeaseRenew s
  | .reqRetry => Sys2Proof.Machine.execReqRetry s
  | .grant epoch req value => Sys2Proof.Machine.execGrant epoch req value s
  | .deny epoch req value => Sys2Proof.Machine.execDeny epoch req value s
  | .denyWaitEnd => Sys2Proof.Machine.execDenyWaitEnd s
  | .ack req => Sys2Proof.Machine.execAck req s
  | .leaseDeadline => Sys2Proof.Machine.execLeaseDeadline s
  | .readAbandon => Sys2Proof.Machine.execReadAbandon s
  | .req pair port epoch reqno value force => Sys2Proof.Machine.execReq pair port epoch reqno value force s
  | .bump pair port epoch reqno => Sys2Proof.Machine.execBump pair port epoch reqno s
  | .release pair port reqno => Sys2Proof.Machine.execRelease pair port reqno s
  | .report pair port reqno cause => Sys2Proof.Machine.execReport pair port reqno cause s
  | .witnessLeaseExpiry pair => Sys2Proof.Machine.execWitnessLeaseExpiry pair s
  | .tierMove tile lpage => Sys2Proof.Machine.execTierMove tile lpage s
  | .pendrelClear tile frame => Sys2Proof.Machine.execPendrelClear tile frame s
  | .htpendClear tile frame => Sys2Proof.Machine.execHtpendClear tile frame s
  | .victimSweep tile sess => Sys2Proof.Machine.execVictimSweep tile sess s
  | .neighbourRead tile lpage line => Sys2Proof.Machine.execNeighbourRead tile lpage line s
  | .peerUnitRequest tile link ld tag peer addr write data => Sys2Proof.Machine.execPeerUnitRequest tile link ld tag peer addr write data s
  | .neighbourTimeout tile id => Sys2Proof.Machine.execNeighbourTimeout tile id s
  | .neighbourLate tile id => Sys2Proof.Machine.execNeighbourLate tile id s
  | .openLoan tile loan received => Sys2Proof.Machine.execOpen tile loan received s
  | .openok tile loan => Sys2Proof.Machine.execOpenok tile loan s
  | .recall tile loan notice => Sys2Proof.Machine.execRecall tile loan notice s
  | .recallNoticeEnd tile loan => Sys2Proof.Machine.execRecallNoticeEnd tile loan s
  | .returned tile loan => Sys2Proof.Machine.execReturned tile loan s
  | .endLoan tile loan => Sys2Proof.Machine.execEnd tile loan s
  | .loanRestage tile loan => Sys2Proof.Machine.execLoanRestage tile loan s
  | .regionEntry sess sched page => Sys2Proof.Machine.execRegionEntry sess sched page s
  | .hardTimeout tile link tag => Sys2Proof.Machine.execHardTimeout tile link tag s
  | .battenGrant tile cmdItem raised ended => Sys2Proof.Machine.execBattenGrant tile cmdItem raised ended s
  | .forcedWin tile => Sys2Proof.Machine.execForcedWin tile s
  | .eventRecord tile sev block inst kind detail arg => Sys2Proof.Machine.execEventRecord tile sev block inst kind detail arg s
  | .recorderFlush tile => Sys2Proof.Machine.execRecorderFlush tile s
  | .flushCommit tile => Sys2Proof.Machine.execFlushCommit tile s
  | .recRdData reader => Sys2Proof.Machine.execRecRdData reader s
  | .counterOverflow tile block counter => Sys2Proof.Machine.execCounterOverflow tile block counter s
  | .pmcCntWrite tile block counter pl value events => Sys2Proof.Machine.execPmcCntWrite tile block counter pl value events s
  | .optimeWrite => Sys2Proof.Machine.execOptimeWrite s
  | .tidemarkSync tile => Sys2Proof.Machine.execTidemarkSync tile s
  | .tsyncIn => Sys2Proof.Machine.execTsyncIn s
  | .ptmExchange tile link => Sys2Proof.Machine.execPtmExchange tile link s
  | .disciplineTimeout => Sys2Proof.Machine.execDisciplineTimeout s
  | .tidemarkFloorAppend => Sys2Proof.Machine.execTidemarkFloorAppend s
  | .skewLimit between tile ticks => Sys2Proof.Machine.execSkewLimit between tile ticks s
  | .parameterStoreCommit full => Sys2Proof.Machine.execParameterStoreCommit full s
  | .fwSoc soc => Sys2Proof.Machine.execFwSoc soc s
  | .programWord authorised => Sys2Proof.Machine.execProgramWord authorised s
  | .ownedTransition => Sys2Proof.Machine.execOwnedTransition s
  | .retiredTransition authorised => Sys2Proof.Machine.execRetiredTransition authorised s
  | .revokeSlot authorised => Sys2Proof.Machine.execRevokeSlot authorised s
  | .setDebugBit authorised => Sys2Proof.Machine.execSetDebugBit authorised s
  | .debugUnlock authorised => Sys2Proof.Machine.execDebugUnlock authorised s
  | .fuseProgramStop fuses => Sys2Proof.Machine.execFuseProgramStop fuses s
  | .bistCtl tile mask => Sys2Proof.Machine.execBistCtl tile mask s
  | .submit prio items => Sys2Proof.Machine.execSubmit prio items s
  | .result count => Sys2Proof.Machine.execResult count s
  | .pread ids => Sys2Proof.Machine.execPread ids s
  | .event => Sys2Proof.Machine.execEvent s
  | .mctpControl type => Sys2Proof.Machine.execMctpControl type s
  | .fmApi prio items => Sys2Proof.Machine.execFmApi prio items s
  | .componentCommand opcode addr data => Sys2Proof.Machine.execComponentCommand opcode addr data s
  | .entdaa address => Sys2Proof.Machine.execEntdaa address s
  | .extest => Sys2Proof.Machine.execExtest s
  | .idcode => Sys2Proof.Machine.execIdcode s
  | .samplePreload => Sys2Proof.Machine.execSamplePreload s
  | .clamp => Sys2Proof.Machine.execClamp s
  | .highz => Sys2Proof.Machine.execHighz s
  | .extestPulse => Sys2Proof.Machine.execExtestPulse s
  | .extestTrain => Sys2Proof.Machine.execExtestTrain s
  | .bypass => Sys2Proof.Machine.execBypass s
  | .privTapInstruction code => Sys2Proof.Machine.execPrivateTapInstruction code s
  | .scanHold => Sys2Proof.Machine.execScanHold s
  | .configurationRequest tile link ld tag request => Sys2Proof.Machine.execConfigurationRequest tile link ld tag request s
  | .eraseComplete tile blk member ok => Sys2Proof.Machine.execEraseComplete tile blk member ok s
  | .fuseProgramComplete failed => Sys2Proof.Machine.execFuseProgramComplete failed s
  | .unitRequestCompletion tile id status data => Sys2Proof.Machine.execUnitRequestCompletion tile id status data s
  | .witnessRestart => Sys2Proof.Machine.execWitnessRestart s
  | .aclkStop => Sys2Proof.Machine.execAclkStop s
  | .captureDr lands => Sys2Proof.Machine.execCaptureDr lands s
  | .updateDr value => Sys2Proof.Machine.execUpdateDr value s
  | .checkpointPersist tile => Sys2Proof.Machine.execCheckpointPersist tile s
  | .bistComplete tile endpoint fails => Sys2Proof.Machine.execBistComplete tile endpoint fails s

end Sys2Proof.Machine
end

