-- ==== Sys2Proof/Machine/Tick.lean ====
section
/-! DEFINITION. What time does when no command waits: one cycle of TSCLK, 1 ns (01 R30, R31), and the write queues of the DRAM
sub-channels (05 R153). -/

namespace Sys2Proof.Machine

/-- The write-drain state after the tests of R153: entered at `dram.wq_hi`, and left at `dram.wq_lo`; entered without host or prefetch reads,
and left when the queue is empty, or for a host read once `dram.wr_min_burst` writes have issued. -/
def State.nextDrain (s : State) (k : Nat) (d : WrDrain) : WrDrain :=
  let t := k / 8
  let n := (s.wqOf k).length
  if !d.on then
    if s.tileP bDram t 5 ≤ n then { on := true, full := true, burst := 0 }
    else if !s.hasReads k ∧ 0 < n then { on := true, full := false, burst := 0 }
    else d
  else if d.full then (if n ≤ s.tileP bDram t 6 then {} else d)
  else if n = 0 ∨ (!(s.hostReads k).isEmpty ∧ s.tileP bDram t 7 ≤ d.burst) then {} else d

/-- A host read of urgency 3 waits. -/
def State.urgentRead (s : State) (k : Nat) : Bool := (s.hostReads k).any (fun e => decide (urgencyOf e.target (s.localCount (k / 8) - e.since) = 3))

/-- The pause of a drain for the reads of urgency 3, once `dram.wr_min_burst` writes have issued since it began or last resumed; it ends, and
the count begins anew, when they have issued (05 R153). -/
def State.pauseDrain (s : State) (k : Nat) (d : WrDrain) : WrDrain :=
  if !d.on then d
  else if s.urgentRead k then (if s.tileP bDram (k / 8) 7 ≤ d.burst then { d with paused := true } else d)
  else if d.paused then { d with paused := false, burst := 0 }
  else d

/-- A sub-channel issues one write in write-drain state, unless an urgent read pauses it or a refresh goes first (05 R151, R153). -/
def State.drainStep (s : State) (k : Nat) : State :=
  let t := k / 8
  let c := k % 8 / 2
  let x := s.chan t c
  if !s.inService t c || x.holding || (s.wqOf k).isEmpty && !(x.wrDrain (k % 2)).on then s
  else
    let d := s.pauseDrain k (s.nextDrain k (x.wrDrain (k % 2)))
    if !d.on || d.paused || s.refreshFirst k || (s.wqOf k).isEmpty then s.setChan t c (x.setWrDrain (k % 2) d)
    else (s.setChan t c (x.setWrDrain (k % 2) { d with burst := d.burst + 1 })).issueWrite k

/-- The counts advance by a cycle; where in the new cycle its stamps fall, the samplers say (01 R31). -/
def State.countTime (s : State) : State :=
  let (w, s) := s.drawWord
  { s with clock := s.clock + 4,
           time := { s.time with phase := w.toNat % 4, master := s.time.master.tick, locals := s.time.locals.map (fun p => (p.1, p.2.tick)) } }

/-- The nominal frequency of the clock of a counter block, in MHz (01 Table 1-8; 16 Table 16-6). (DESIGN CHOICE, log 110.) -/
def State.blockMHz (s : State) (t b : Nat) : Nat :=
  if b = 0 ∨ b = 19 then 1000
  else if 5 ≤ b ∧ b ≤ 8 then (s.chan t (b - 5)).rate * 25 / 2
  else if 10 ≤ b ∧ b ≤ 18 then 600
  else if 20 ≤ b ∧ b ≤ 22 then 1200
  else if 23 ≤ b ∧ b ≤ 30 then 1600
  else if b = 31 then 2400
  else 2000

/-- Event 0x0000 of a counter: the cycles of its block's clock in this cycle of TSCLK, which ends at `s.clock` (16 Table 16-6). -/
def State.countCycles (s : State) (id : Nat) : State :=
  let (t, b, k) := (pidInst id / 64, pidInst id % 64, pidIdx id)
  let src := if b < 38 then b else fld (s.param id 0) 21 16
  let f := s.blockMHz t src
  if pidBlock id = bPmc ∧ t < s.tiles ∧ b < 40 ∧ k < 16 ∧ !s.pmc.frozen ∧ !s.blockFenced t b ∧ s.counts t b k src 0 {} then
    (List.range (s.clock * f / 4000 - (s.clock - 4) * f / 4000)).foldl (fun s _ => s.bump t b k) s
  else s

/-- One cycle of TSCLK. -/
def State.tick (s : State) : State :=
  let s := s.countTime
  let s := s.params.foldl (fun s p => s.countCycles p.1) s
  (List.range (8 * s.tiles)).foldl State.drainStep s

end Sys2Proof.Machine
end

