-- ==== Sys2Proof/WellFormed.lean ====
section
/-! DEFINITION. Well-formed commands: every operand that names a unit, a slot or a field lies in its range. -/

namespace Sys2Proof

/-- A tile of the largest part (01 R18). -/
def okTile (n : Nat) : Bool := decide (n < 8)
/-- A context (12 Table 12-1). -/
def okCtx (n : Nat) : Bool := decide (n < 0x1040)
/-- A logical device of a tile, 128 the one that the fabric manager owns (03 R73, R74). (DESIGN CHOICE, log 113.) -/
def okLd (n : Nat) : Bool := decide (n < 16 ∨ n = 128)
/-- A DRAM channel of a tile (01 Table 1-1). -/
def okChannel (n : Nat) : Bool := decide (n < 4)
/-- A host link of a tile (03 R67). -/
def okLink (n : Nat) : Bool := decide (n < 4)
/-- A session (12 Table 12-1). -/
def okSess (n : Nat) : Bool := decide (n < 4096)
/-- A sequencer thread of a tile (12 R362). -/
def okThread (n : Nat) : Bool := decide (n < 128)
/-- A twin path of a tile (10 R292). -/
def okPath (n : Nat) : Bool := decide (n < 2)
/-- A loan entry of a tile (11 R342). -/
def okLoan (n : Nat) : Bool := decide (n < 16)
/-- A member of a Thatch block (09 R256). -/
def okMember (n : Nat) : Bool := decide (n < 16)
/-- A way of Eaves (04 R118). -/
def okWay (n : Nat) : Bool := decide (n < 16)
/-- A set of Eaves (04 R118). -/
def okSet (n : Nat) : Bool := decide (n < 131072)
/-- A channel of the Isahar link, as the envelope holds it (10 Table 10-1). -/
def okChan (n : Nat) : Bool := decide (n < 4)
/-- A message number (10 Table 10-1). -/
def okMsgid (n : Nat) : Bool := decide (n < 65536)
/-- The envelope of a packet (10 Table 10-1). -/
def okEnvelope (n : Nat) : Bool := decide (n < 4294967296)
/-- A counter block of a tile, or a parameter block (16 Table 16-6; 18 R506). -/
def okBlock (n : Nat) : Bool := decide (n < 64)
/-- A counter of a block (16 R479). -/
def okCounter (n : Nat) : Bool := decide (n < 16)
/-- A priority of a submission (12 R370). -/
def okPrio (n : Nat) : Bool := decide (n < 8)
/-- A severity (16 R467). -/
def okSev (n : Nat) : Bool := decide (n < 8)
/-- A line of a page. -/
def okLineNo (n : Nat) : Bool := decide (n < 64)
/-- A supervised input, or the level of VDD_FUSE (15 R450). -/
def okInput (n : Nat) : Bool := decide (n < 18)
/-- A dynamic address of I3C (18 R517). -/
def okAddress (n : Nat) : Bool := decide (n < 128)
/-- A state of charge in per cent (17 R498). -/
def okSoc (n : Nat) : Bool := decide (n ≤ 100)
/-- A reader of the recorder (16 R478). -/
def okReader (n : Nat) : Bool := decide (n < 4)
/-- An endpoint of BIST (18 Table 18-3). -/
def okEndpoint (n : Nat) : Bool := decide (n < 8)
/-- What a skew is measured between (01 R32). -/
def okBetween (n : Nat) : Bool := decide (n < 3)
/-- An MSI-X vector of a logical device (03 R101). -/
def okVector (n : Nat) : Bool := decide (n < 5)
/-- A key set of an IDE stream (14 Table 14-4). -/
def okKeySet (n : Nat) : Bool := decide (n < 2)
/-- A sequence number (10 R300). -/
def okSeq (n : Nat) : Bool := decide (n < 281474976710656)
/-- A page of a tile (08 R221). -/
def okPage (n : Nat) : Bool := decide (n < 2147483648)
/-- The logical device of a stride stream: 16 · tile + number, or the one that the fabric manager owns (04 R124). -/
def okStream (n : Nat) : Bool := decide (n ≤ 128)
/-- The items of one MCTP message (12 Table 12-6). -/
def okItems (l : List Word) : Bool := decide (l.length ≤ 64)
/-- The payload of a packet (10 R298). -/
def okPayload (l : List Byte) : Bool := decide (1 ≤ l.length) && decide (l.length ≤ 256)
/-- The parameters of a PREAD (18 Table 18-7). -/
def okIds (l : List Nat) : Bool := decide (1 ≤ l.length) && decide (l.length ≤ 8)
/-- A private instruction of the TAP (19 Table 19-12). -/
def okPrivate (n : Nat) : Bool := decide (0x80 ≤ n) && decide (n ≤ 0xFE)

/-- The command is well formed. -/
def wellFormed (i : Instr) : Bool :=
  match i with
  | .powerOnReset => true
  | .stepTableRead => true
  | .start => true
  | .autoStart => true
  | .psPgAccept input _ => okInput input
  | .signalFilterAccept _ _ => true
  | .railStepStart => true
  | .stepWindowEnd => true
  | .stepDelayEnd => true
  | .stepTimeout => true
  | .bootSlotCheck _ _ _ => true
  | .firmwareStart _ _ _ _ _ => true
  | .ucieLinkTrained tile => okTile tile
  | .hostLinkTrained tile link _ _ => okTile tile && okLink link
  | .dimmDiscovery tile _ _ _ _ _ _ _ _ => okTile tile
  | .dramTrainingStep tile channel _ => okTile tile && okChannel channel
  | .dramTrainingComplete tile channel => okTile tile && okChannel channel
  | .thatchMount tile _ _ => okTile tile
  | .isaharLinkTrained tile _ _ _ _ _ _ _ _ _ => okTile tile
  | .recordSummary _ _ _ _ => true
  | .pairWaitExpiry => true
  | .bringUpComplete => true
  | .openRecordWrite tile => okTile tile
  | .restoreLoad tile => okTile tile
  | .restoreDemandFault tile page => okTile tile && okPage page
  | .verifyLine tile _ => okTile tile
  | .restoreComplete => true
  | .fullSpeedStep tile channel => okTile tile && okChannel channel
  | .conversionLapGroup tile channel _ _ => okTile tile && okChannel channel
  | .warmReset => true
  | .tileReset tile => okTile tile
  | .tapReset => true
  | .perstAssert tile link => okTile tile && okLink link
  | .perstDeassert tile link => okTile tile && okLink link
  | .hotReset tile link => okTile tile && okLink link
  | .cxlMemRead tile link ld _ _ => okTile tile && okLink link && okLd ld
  | .cxlMemStore tile link ld _ _ _ _ _ => okTile tile && okLink link && okLd ld
  | .uioRequest _ _ tile link ld _ _ _ _ => okTile tile && okLink link && okLd ld
  | .remoteAtomic _ _ _ tile link ld _ _ _ _ => okTile tile && okLink link && okLd ld
  | .unsupportedRequest tile link ld _ => okTile tile && okLink link && okLd ld
  | .violationInterrupt tile ld => okTile tile && okLd ld
  | .orderGateRelease _ _ _ => true
  | .unackedReadRelease tile => okTile tile
  | .homeTlbFill tile page => okTile tile && okPage page
  | .tidelineRoomGrant tile => okTile tile
  | .tidelineBitmapFill tile _ => okTile tile
  | .mergeEntryFree tile => okTile tile
  | .mergeWriteOut tile _ => okTile tile
  | .mergeEntryAge tile _ => okTile tile
  | .eavesEviction tile set way => okTile tile && okSet set && okWay way
  | .stridePrefetch tile sess ld => okTile tile && okSess sess && okStream ld
  | .creditReturn tile link => okTile tile && okLink link
  | .gpfPhase1 tile link _ => okTile tile && okLink link
  | .gpfPhase2 tile link _ => okTile tile && okLink link
  | .getPoisonList tile ld => okTile tile && okLd ld
  | .injectPoison tile ld _ => okTile tile && okLd ld
  | .clearPoison tile ld _ _ => okTile tile && okLd ld
  | .getHealthInfo tile ld => okTile tile && okLd ld
  | .hdmDecoderCommit tile ld _ _ _ _ _ => okTile tile && okLd ld
  | .addDynamicCapacityResponse tile ld _ => okTile tile && okLd ld
  | .releaseDynamicCapacity tile ld _ => okTile tile && okLd ld
  | .dcReleaseTimeout tile ld _ => okTile tile && okLd ld
  | .ideKm tile ld keySet _ => okTile tile && okLd ld && okKeySet keySet
  | .ideIntegrityFail tile link => okTile tile && okLink link
  | .spdmRequest tile ld _ => okTile tile && okLd ld
  | .sqDoorbell tile ld _ _ => okTile tile && okLd ld
  | .cmdDoorbell tile ld _ _ _ => okTile tile && okLd ld
  | .cqHead tile ld _ => okTile tile && okLd ld
  | .vlogHead tile ld _ => okTile tile && okLd ld
  | .tidemarkRead tile ld _ _ => okTile tile && okLd ld
  | .violLost tile ld _ => okTile tile && okLd ld
  | .slipwayWrite tile link ld _ _ _ _ => okTile tile && okLink link && okLd ld
  | .slipwayIdleTimeout sess => okSess sess
  | .msiX tile ld vector => okTile tile && okLd ld && okVector vector
  | .submission ctx => okCtx ctx
  | .contextLoad tile thread => okTile tile && okThread thread
  | .quantumExpiry tile thread => okTile tile && okThread thread
  | .completionRecord ctx => okCtx ctx
  | .completionSpace ctx => okCtx ctx
  | .idle ctx => okCtx ctx
  | .idleTimeout ctx => okCtx ctx
  | .nop ctx => okCtx ctx
  | .wait ctx => okCtx ctx
  | .waitEnd ctx => okCtx ctx
  | .halt ctx => okCtx ctx
  | .time ctx => okCtx ctx
  | .br ctx => okCtx ctx
  | .bz ctx => okCtx ctx
  | .bnz ctx => okCtx ctx
  | .loop ctx => okCtx ctx
  | .callp ctx => okCtx ctx
  | .add ctx => okCtx ctx
  | .sub ctx => okCtx ctx
  | .and ctx => okCtx ctx
  | .or ctx => okCtx ctx
  | .xor ctx => okCtx ctx
  | .shl ctx => okCtx ctx
  | .shr ctx => okCtx ctx
  | .ldi ctx => okCtx ctx
  | .cmp ctx => okCtx ctx
  | .getp ctx => okCtx ctx
  | .stgp ctx => okCtx ctx
  | .chks ctx => okCtx ctx
  | .apls ctx => okCtx ctx
  | .drops ctx => okCtx ctx
  | .lockp ctx => okCtx ctx
  | .stagedSetTimeout => true
  | .springTide => true
  | .tideConfirm _ tile => okTile tile
  | .tideRelease _ tile => okTile tile
  | .tideConfirmDeadline => true
  | .swapBack => true
  | .mainEntry => true
  | .zln ctx => okCtx ctx
  | .fln ctx => okCtx ctx
  | .pbar ctx => okCtx ctx
  | .movp ctx => okCtx ctx
  | .pfsc ctx => okCtx ctx
  | .pfgo ctx => okCtx ctx
  | .sopen ctx => okCtx ctx
  | .sclose ctx => okCtx ctx
  | .sext ctx => okCtx ctx
  | .sqos ctx => okCtx ctx
  | .mrole ctx => okCtx ctx
  | .msync ctx => okCtx ctx
  | .mdig ctx => okCtx ctx
  | .lease ctx => okCtx ctx
  | .fraw ctx _ => okCtx ctx
  | .ferc ctx => okCtx ctx
  | .fret ctx => okCtx ctx
  | .scrb ctx _ => okCtx ctx
  | .pois ctx => okCtx ctx
  | .clrp ctx => okCtx ctx
  | .fence ctx => okCtx ctx
  | .kunw ctx _ => okCtx ctx
  | .kdrop ctx => okCtx ctx
  | .csav ctx => okCtx ctx
  | .crst ctx => okCtx ctx
  | .cryp ctx _ => okCtx ctx
  | .evtw ctx => okCtx ctx
  | .csnp ctx => okCtx ctx
  | .cfrz ctx => okCtx ctx
  | .counterSnapshot => true
  | .counterFreeze => true
  | .crd ctx => okCtx ctx
  | .mark ctx => okCtx ctx
  | .rwnd ctx => okCtx ctx
  | .rel ctx => okCtx ctx
  | .fwst ctx => okCtx ctx
  | .fwsel ctx => okCtx ctx
  | .save ctx => okCtx ctx
  | .hold ctx => okCtx ctx
  | .forceAuth => true
  | .frequencyChange tile => okTile tile
  | .frequencyChangeComplete tile channel _ => okTile tile && okChannel channel
  | .retrainingSlice tile channel _ _ => okTile tile && okChannel channel
  | .dimmTemperatureRead tile channel _ _ => okTile tile && okChannel channel
  | .dqsOscillatorCheck tile channel _ _ => okTile tile && okChannel channel
  | .zqCalibration tile channel _ => okTile tile && okChannel channel
  | .refreshDue tile channel _ => okTile tile && okChannel channel
  | .neighbourRefresh tile channel => okTile tile && okChannel channel
  | .activateTableClear tile channel => okTile tile && okChannel channel
  | .pageIdleClose tile channel _ => okTile tile && okChannel channel
  | .powerDownEntry tile channel _ => okTile tile && okChannel channel
  | .selfRefreshEntry tile channel => okTile tile && okChannel channel
  | .selfRefreshExit tile channel => okTile tile && okChannel channel.chan
  | .pracAlert tile channel _ => okTile tile && okChannel channel
  | .caParityAlert tile channel _ => okTile tile && okChannel channel
  | .dramReadReturn tile channel _ _ => okTile tile && okChannel channel
  | .lineRecovery tile _ _ => okTile tile
  | .undertowRead tile channel _ => okTile tile && okChannel channel
  | .undertowWriteBack tile => okTile tile
  | .lapMaxReached tile channel => okTile tile && okChannel channel
  | .ceBucketLeak tile _ => okTile tile
  | .parityError tile _ => okTile tile
  | .residueMismatch tile _ _ => okTile tile
  | .queueEccError tile _ => okTile tile
  | .eavesTagError tile _ way _ => okTile tile && okWay way
  | .ucieReplayLimit tile link _ => okTile tile && okLink link
  | .flashing _ _ tile _ => okTile tile
  | .fenceNotice _ _ _ tile => okTile tile
  | .unitReset _ _ tile _ => okTile tile
  | .channelReload _ _ tile => okTile tile
  | .drainPage tile => okTile tile
  | .recordVerified tile page => okTile tile && okPage page
  | .drainRateUpdate tile => okTile tile
  | .budgetRecompute tile => okTile tile
  | .pfwLAssert => true
  | .pfwHoldExpiry => true
  | .armedMaxExpiry => true
  | .saveArmedLapse => true
  | .inputPowerGoodDrop channel => okChannel channel
  | .faultLLow => true
  | .bbuOkLow => true
  | .deviceRailDrop channel => okChannel channel
  | .applianceRailDrop channel => okChannel channel
  | .memoryRailDrop channel => okChannel channel
  | .saveCommit _ => true
  | .saveComplete tile => okTile tile
  | .saveTimeout => true
  | .shutdownStep => true
  | .faultLRelease => true
  | .thatchRowProgrammed tile _ _ => okTile tile
  | .rowAgeExpiry tile _ => okTile tile
  | .programFail tile _ member => okTile tile && okMember member
  | .blockVerify tile _ => okTile tile
  | .parityRebuild tile _ _ => okTile tile
  | .mergeStart tile _ => okTile tile
  | .mapSwitch tile _ => okTile tile
  | .mergeTargetFail tile _ member => okTile tile && okMember member
  | .mergeRetry tile _ => okTile tile
  | .relocation tile _ => okTile tile
  | .readRetry tile _ member _ _ sess => okTile tile && okMember member && okSess sess
  | .unreadableRecord tile _ _ _ => okTile tile
  | .flashScrub tile _ _ => okTile tile
  | .erase tile _ member => okTile tile && okMember member
  | .eraseSuspend tile _ member _ => okTile tile && okMember member
  | .targetNotReady tile _ => okTile tile
  | .flashOnlyHome tile lpage => okTile tile && okPage lpage
  | .backlogWalk tile => okTile tile
  | .frameSend tile path => okTile tile && okPath path
  | .frameReceive tile => okTile tile
  | .messageReassembly tile path envelope payload => okTile tile && okPath path && okEnvelope envelope && okPayload payload
  | .reassemblyTimeout tile chan msgid => okTile tile && okChan chan && okMsgid msgid
  | .nak tile chan msgid _ => okTile tile && okChan chan && okMsgid msgid
  | .receipt tile _ seq _ _ => okTile tile && okSeq seq
  | .receiptTimeout tile seq => okTile tile && okSeq seq
  | .frameApply tile => okTile tile
  | .lrq tile _ _ _ => okTile tile
  | .lrs tile => okTile tile
  | .lrqTimeout tile _ => okTile tile
  | .ckpt tile seq _ _ => okTile tile && okSeq seq
  | .ckok tile seq _ _ => okTile tile && okSeq seq
  | .ckbad tile seq => okTile tile && okSeq seq
  | .sync tile path _ => okTile tile && okPath path
  | .heartbeatTimeout tile path => okTile tile && okPath path
  | .epoch _ _ => true
  | .role _ => true
  | .handover => true
  | .failbackRequest => true
  | .tide _ _ => true
  | .fenceMessage _ _ _ => true
  | .rset tile _ _ _ => okTile tile
  | .resync tile _ _ _ _ => okTile tile
  | .resyncComplete tile => okTile tile
  | .leaseRenew => true
  | .reqRetry => true
  | .grant _ _ _ => true
  | .deny _ _ _ => true
  | .denyWaitEnd => true
  | .ack _ => true
  | .leaseDeadline => true
  | .readAbandon => true
  | .req _ _ _ _ _ _ => true
  | .bump _ _ _ _ => true
  | .release _ _ _ => true
  | .report _ _ _ _ => true
  | .witnessLeaseExpiry _ => true
  | .tierMove tile lpage => okTile tile && okPage lpage
  | .pendrelClear tile _ => okTile tile
  | .htpendClear tile _ => okTile tile
  | .victimSweep tile sess => okTile tile && okSess sess
  | .neighbourRead tile lpage line => okTile tile && okPage lpage && okLineNo line
  | .peerUnitRequest tile link ld _ _ _ _ _ => okTile tile && okLink link && okLd ld
  | .neighbourTimeout tile _ => okTile tile
  | .neighbourLate tile _ => okTile tile
  | .openLoan tile loan _ => okTile tile && okLoan loan
  | .openok tile loan => okTile tile && okLoan loan
  | .recall tile loan _ => okTile tile && okLoan loan
  | .recallNoticeEnd tile loan => okTile tile && okLoan loan
  | .returned tile loan => okTile tile && okLoan loan
  | .endLoan tile loan => okTile tile && okLoan loan
  | .loanRestage tile loan => okTile tile && okLoan loan
  | .regionEntry sess _ page => okSess sess && okPage page
  | .hardTimeout tile link _ => okTile tile && okLink link
  | .battenGrant tile _ _ _ => okTile tile
  | .forcedWin tile => okTile tile
  | .eventRecord tile sev block _ _ _ _ => okTile tile && okSev sev && okBlock block
  | .recorderFlush tile => okTile tile
  | .flushCommit tile => okTile tile
  | .recRdData reader => okReader reader
  | .counterOverflow tile block counter => okTile tile && okBlock block && okCounter counter
  | .pmcCntWrite tile block counter _ _ _ => okTile tile && okBlock block && okCounter counter
  | .optimeWrite => true
  | .tidemarkSync tile => okTile tile
  | .tsyncIn => true
  | .ptmExchange tile link => okTile tile && okLink link
  | .disciplineTimeout => true
  | .tidemarkFloorAppend => true
  | .skewLimit between tile _ => okBetween between && okTile tile
  | .parameterStoreCommit _ => true
  | .fwSoc soc => okSoc soc
  | .programWord _ => true
  | .ownedTransition => true
  | .retiredTransition _ => true
  | .revokeSlot _ => true
  | .setDebugBit _ => true
  | .debugUnlock _ => true
  | .fuseProgramStop _ => true
  | .bistCtl tile _ => okTile tile
  | .submit prio items => okPrio prio && okItems items
  | .result _ => true
  | .pread ids => okIds ids
  | .event => true
  | .mctpControl _ => true
  | .fmApi prio items => okPrio prio && okItems items
  | .componentCommand _ _ _ => true
  | .entdaa address => okAddress address
  | .extest => true
  | .idcode => true
  | .samplePreload => true
  | .clamp => true
  | .highz => true
  | .extestPulse => true
  | .extestTrain => true
  | .bypass => true
  | .privTapInstruction code => okPrivate code
  | .scanHold => true
  | .configurationRequest tile link ld _ _ => okTile tile && okLink link && okLd ld
  | .eraseComplete tile _ member _ => okTile tile && okMember member
  | .fuseProgramComplete _ => true
  | .unitRequestCompletion tile _ _ _ => okTile tile
  | .witnessRestart => true
  | .aclkStop => true
  | .captureDr _ => true
  | .updateDr _ => true
  | .checkpointPersist tile => okTile tile
  | .bistComplete tile endpoint _ => okTile tile && okEndpoint endpoint

end Sys2Proof
end

