-- ==== Sys2Proof/Safety.lean ====
section
/-! DEFINITION. What counts as a safe run of the block, in the terms that claims use, and the conditions under which a Rhozil
instruction executes. -/

namespace Sys2Proof.Safety

open Sys2Proof.Machine

/-- DRAM is in canonical form: addresses strictly rising, no cell equal to what an unlisted address reads as. -/
def MemoryOk (s : State) : Prop := Memory.wf s.dram = true

/-- A command has run and left its effect: the state after it satisfies a predicate. -/
def Answers (o : Host.Outcome State Fault Refusal) (p : State → Prop) : Prop := ∃ t, o = .next t ∧ p t

/-- The next instruction of context `n` is `i`, of opcode `op`; it may issue, it passes the checks of encoding, level and mode
(13 R390), and its sink has room for a record (12 R376). `c` is the context with the items of the instruction consumed. -/
abbrev Ready (s : State) (n op : Nat) (i : Issue) (c : Ctx) : Prop :=
  s.canIssue n = true ∧ s.readNext n = some (i, c) ∧ i.opcode = op ∧ i.encOk = true ∧ i.levelOk n = true ∧
    (s.consume n i c).modeOk i = true ∧ s.sinkFull n i.path = false

/-- Registers of a context after an instruction has written `v` to its destination: g0 discards the write. -/
def WritesReg (s t : State) (n gd : Nat) (v : Word) : Prop :=
  ∀ k, (t.ctx n).reg k = if k = gd ∧ k ≠ 0 then v else (s.ctx n).reg k

/-- What an instruction of context `n` does to the state through its context alone: updates of contexts and of the program pages of
Slipway sessions, and what counting an instruction of that context in the performance counters does (16 R480, Table 16-6: a count, and
at a wrap the record of that event). -/
inductive CtxSteps (n : Nat) : State → State → Prop where
  | refl (s : State) : CtxSteps n s s
  | ctxs {s t : State} (cs : Store Ctx) (ss : Store Sess) (h : CtxSteps n s t) : CtxSteps n s { t with ctxs := cs, sessions := ss }
  | count {s t : State} (i : Issue) (st : Status) (h : CtxSteps n s t) : CtxSteps n s (t.countInstr n i st)

/-- Nothing has changed but contexts and the program pages of Slipway sessions, and what counting the instruction changes: memory,
modes, queues of the DRAM controller, links and every other field are as they were, and so is every other context. -/
def OnlyContext (s t : State) (n : Nat) : Prop := CtxSteps n s t ∧ ∀ m, m ≠ n → t.ctx m = s.ctx m

/-- The same, with the registers of the context as they were too. -/
def KeepsRegs (s t : State) (n : Nat) : Prop := ∀ k, (t.ctx n).reg k = (s.ctx n).reg k

/-- The record that an instruction of context `n` has written last. -/
def LastRecord (t : State) (n : Nat) (st : Status) (r : Word) : Prop :=
  ∃ c, (t.ctx n).outbox.getLast? = some c ∧ c.status = st ∧ c.result = r

end Sys2Proof.Safety
end

