-- ==== Sys2Proof/Certificates/Slice0/Obligations.lean ====
section
/-! DEFINITION. The statements for the provers. -/

open Sys2Proof Sys2Proof.Machine Sys2Proof.Safety

/-- When an arithmetic instruction is ready (issued, its encoding, level and mode accepted, room for its record), its row answers a next state in which gd holds the value of R395 of ga and b = gb + sx(IMM) (LDI: IMM or the extension word), where a write to g0 is discarded; every other register, every other context, memory and everything else but the record of the Slipway program that runs are unchanged. -/
def Obligations.Arithmetic : Prop :=
  (∀ (s : State) (n : Nat) (i : Issue) (c : Ctx), Ready s n 0x10 i c →
    Answers (exec (.add n) s) (fun t =>
      let a := (s.ctx n).reg (iGa i.word)
      let b := (s.ctx n).reg (iGb i.word) + (i.word.extractLsb' 0 40).signExtend 64
      WritesReg s t n (iGd i.word) (a + b) ∧ OnlyContext s t n)) ∧
  (∀ (s : State) (n : Nat) (i : Issue) (c : Ctx), Ready s n 0x11 i c →
    Answers (exec (.sub n) s) (fun t =>
      let a := (s.ctx n).reg (iGa i.word)
      let b := (s.ctx n).reg (iGb i.word) + (i.word.extractLsb' 0 40).signExtend 64
      WritesReg s t n (iGd i.word) (a - b) ∧ OnlyContext s t n)) ∧
  (∀ (s : State) (n : Nat) (i : Issue) (c : Ctx), Ready s n 0x12 i c →
    Answers (exec (.and n) s) (fun t =>
      let a := (s.ctx n).reg (iGa i.word)
      let b := (s.ctx n).reg (iGb i.word) + (i.word.extractLsb' 0 40).signExtend 64
      WritesReg s t n (iGd i.word) (a &&& b) ∧ OnlyContext s t n)) ∧
  (∀ (s : State) (n : Nat) (i : Issue) (c : Ctx), Ready s n 0x13 i c →
    Answers (exec (.or n) s) (fun t =>
      let a := (s.ctx n).reg (iGa i.word)
      let b := (s.ctx n).reg (iGb i.word) + (i.word.extractLsb' 0 40).signExtend 64
      WritesReg s t n (iGd i.word) (a ||| b) ∧ OnlyContext s t n)) ∧
  (∀ (s : State) (n : Nat) (i : Issue) (c : Ctx), Ready s n 0x14 i c →
    Answers (exec (.xor n) s) (fun t =>
      let a := (s.ctx n).reg (iGa i.word)
      let b := (s.ctx n).reg (iGb i.word) + (i.word.extractLsb' 0 40).signExtend 64
      WritesReg s t n (iGd i.word) (a ^^^ b) ∧ OnlyContext s t n)) ∧
  (∀ (s : State) (n : Nat) (i : Issue) (c : Ctx), Ready s n 0x15 i c →
    Answers (exec (.shl n) s) (fun t =>
      let a := (s.ctx n).reg (iGa i.word)
      let b := (s.ctx n).reg (iGb i.word) + (i.word.extractLsb' 0 40).signExtend 64
      WritesReg s t n (iGd i.word) (a <<< (b.toNat % 64)) ∧ OnlyContext s t n)) ∧
  (∀ (s : State) (n : Nat) (i : Issue) (c : Ctx), Ready s n 0x16 i c →
    Answers (exec (.shr n) s) (fun t =>
      let a := (s.ctx n).reg (iGa i.word)
      let b := (s.ctx n).reg (iGb i.word) + (i.word.extractLsb' 0 40).signExtend 64
      WritesReg s t n (iGd i.word) (a >>> (b.toNat % 64)) ∧ OnlyContext s t n)) ∧
  (∀ (s : State) (n : Nat) (i : Issue) (c : Ctx), Ready s n 0x18 i c →
    Answers (exec (.cmp n) s) (fun t =>
      let a := (s.ctx n).reg (iGa i.word)
      let b := (s.ctx n).reg (iGb i.word) + (i.word.extractLsb' 0 40).signExtend 64
      WritesReg s t n (iGd i.word) (if a = b then 0 else if b.toNat < a.toNat then 1 else 0xFFFF_FFFF_FFFF_FFFF) ∧ OnlyContext s t n)) ∧
  (∀ (s : State) (n : Nat) (i : Issue) (c : Ctx), Ready s n 0x17 i c →
    Answers (exec (.ldi n) s) (fun t =>
      WritesReg s t n (iGd i.word) (if iX i.word then i.ext else BitVec.ofNat 64 (iImm i.word)) ∧ OnlyContext s t n))

/-- When ready, NOP and TIME write 0 and the Tidemark of the context's tile to gd and nothing else; WAIT waits for its target or completes with RANGE beyond 1 s, and WAIT_END completes it with the Tidemark; HALT from the queue ends the submission, in a called program it returns to its return point, and as a command item it ends the running submission or completes with IDLE; BR, BZ, BNZ, LOOP and CALLP move the read point or the PC as R366 and R367 say, or complete with RANGE. Where a clause meets log entries 13, 14, 16 and 34, it states the model's reading named there. -/
def Obligations.ControlInstructions : Prop :=
  (∀ (s : State) (n : Nat) (i : Issue) (c : Ctx), Ready s n 0x01 i c →
    Answers (exec (.nop n) s) (fun t => WritesReg s t n (if i.cmd then 0 else iGd i.word) 0 ∧ OnlyContext s t n)) ∧
  (∀ (s : State) (n : Nat) (i : Issue) (c : Ctx), Ready s n 0x04 i c →
    Answers (exec (.time n) s) (fun t =>
      WritesReg s t n (if i.cmd then 0 else iGd i.word) (BitVec.ofNat 64 (s.localCount (s.ctx n).tile)) ∧ OnlyContext s t n)) ∧
  (∀ (s : State) (n : Nat) (i : Issue) (c : Ctx), Ready s n 0x02 i c →
    (if iXf i.word then ((s.ctx n).reg (iGa i.word)).toNat else s.localCount (s.ctx n).tile) + iImm i.word ≤ s.localCount (s.ctx n).tile + 4000000000 →
    exec (.wait n) s = .next ((s.consume n i c).startLong n i
      (.waitUntil ((if iXf i.word then ((s.ctx n).reg (iGa i.word)).toNat else s.localCount (s.ctx n).tile) + iImm i.word)))) ∧
  (∀ (s : State) (n : Nat) (i : Issue) (c : Ctx), Ready s n 0x02 i c →
    s.localCount (s.ctx n).tile + 4000000000 < (if iXf i.word then ((s.ctx n).reg (iGa i.word)).toNat else s.localCount (s.ctx n).tile) + iImm i.word →
    exec (.wait n) s = .next ((s.consume n i c).fail n i .range)) ∧
  (∀ (s : State) (n : Nat) (i : Issue) (u : Nat), (s.ctx n).long = some (i, .waitUntil u) →
    u ≤ s.localCount (s.ctx n).tile →
    Answers (exec (.waitEnd n) s) (fun t =>
      WritesReg s t n (if i.cmd then 0 else iGd i.word) (BitVec.ofNat 64 (s.localCount (s.ctx n).tile)) ∧ OnlyContext s t n)) ∧
  (∀ (s : State) (n : Nat) (i : Issue) (c : Ctx), Ready s n 0x03 i c →
    s.haltsCryp n = false →
    i.cmd = false →
    i.stored = false →
    c.cur.isSome = true →
    Answers (exec (.halt n) s) (fun t => (t.ctx n).cur = none ∧ (t.ctx n).stack = [] ∧ (t.ctx n).fetch = false ∧ OnlyContext s t n)) ∧
  (∀ (s : State) (n : Nat) (i : Issue) (c : Ctx) (p : RetPt) (r : List RetPt), Ready s n 0x03 i c →
    s.haltsCryp n = false →
    i.cmd = false →
    i.stored = true →
    c.stack = p :: r →
    exec (.halt n) s = .next (((s.consume n i c).setCtx n { c with long := none, stack := r, fetch := p.fetch, pc := p.pc }).completeR n i .ok 0)) ∧
  (∀ (s : State) (n : Nat) (i : Issue) (c : Ctx), Ready s n 0x03 i c →
    s.haltsCryp n = false →
    i.cmd = true →
    c.cur.isSome = true →
    Answers (exec (.halt n) s) (fun t => (t.ctx n).cur = none ∧ LastRecord t n .ok 0)) ∧
  (∀ (s : State) (n : Nat) (i : Issue) (c : Ctx), Ready s n 0x03 i c →
    s.haltsCryp n = false →
    i.cmd = true →
    c.cur = none →
    Answers (exec (.halt n) s) (fun t => LastRecord t n .idle 0 ∧ OnlyContext s t n)) ∧
  (∀ (s : State) (n : Nat) (i : Issue) (c : Ctx) (u : Cur), Ready s n 0x08 i c →
    i.stored = false →
    c.cur = some u →
    u.next + fld i.word 11 0 ≤ u.sub.items.length →
    exec (.br n) s = .next (((s.consume n i c).setCtx n { c with
      long := none,
      cur := some { u with next := u.next + fld i.word 11 0, high := max u.high (u.next + fld i.word 11 0) },
      rd := (c.rd + fld i.word 11 0) % 512 }).completeR n i .ok 0)) ∧
  (∀ (s : State) (n : Nat) (i : Issue) (c : Ctx) (u : Cur), Ready s n 0x08 i c →
    i.stored = false →
    c.cur = some u →
    u.sub.items.length < u.next + fld i.word 11 0 →
    exec (.br n) s = .next ((s.consume n i c).fail n i .range)) ∧
  (∀ (s : State) (n : Nat) (i : Issue) (c : Ctx), Ready s n 0x08 i c →
    i.stored = true →
    exec (.br n) s = .next (((s.consume n i c).setCtx n { c with long := none, pc := fld i.word 11 0 }).completeR n i .ok 0)) ∧
  (∀ (s : State) (n : Nat) (i : Issue) (c : Ctx), Ready s n 0x09 i c →
    exec (.bz n) s = .next (if (s.ctx n).reg (iGa i.word) = 0 then (s.consume n i c).branch n i else (s.consume n i c).completeR n i .ok 0)) ∧
  (∀ (s : State) (n : Nat) (i : Issue) (c : Ctx), Ready s n 0x0A i c →
    exec (.bnz n) s = .next (if (s.ctx n).reg (iGa i.word) ≠ 0 then (s.consume n i c).branch n i else (s.consume n i c).completeR n i .ok 0)) ∧
  (∀ (s : State) (n : Nat) (i : Issue) (c : Ctx) (m : Nat), Ready s n 0x0B i c →
    i.stored = false →
    c.mark = some m →
    1 < ((s.ctx n).reg (iGd i.word)).toNat →
    exec (.loop n) s = .next (((s.consume n i c).setCtx n { c with long := none }.rewind).completeR n i .ok ((s.ctx n).reg (iGd i.word) - 1))) ∧
  (∀ (s : State) (n : Nat) (i : Issue) (c : Ctx), Ready s n 0x0B i c →
    i.stored = true →
    1 < ((s.ctx n).reg (iGd i.word)).toNat →
    exec (.loop n) s = .next (((s.consume n i c).setCtx n { c with long := none, pc := fld i.word 11 0 }).completeR n i .ok ((s.ctx n).reg (iGd i.word) - 1))) ∧
  (∀ (s : State) (n : Nat) (i : Issue) (c : Ctx), Ready s n 0x0B i c →
    i.stored = true ∨ c.mark.isSome = true →
    (s.ctx n).reg (iGd i.word) = 1 →
    exec (.loop n) s = .next ((s.consume n i c).completeR n i .ok 0)) ∧
  (∀ (s : State) (n : Nat) (i : Issue) (c : Ctx), Ready s n 0x0B i c →
    (s.ctx n).reg (iGd i.word) = 0 ∨ (i.stored = false ∧ c.mark = none) →
    exec (.loop n) s = .next ((s.consume n i c).fail n i .range)) ∧
  (∀ (s : State) (n : Nat) (i : Issue) (c : Ctx), Ready s n 0x0C i c →
    fld (s.progWord c.level (fld i.word 7 0)) 11 0 ≠ 0 →
    c.stack.length < 4 →
    exec (.callp n) s = .next (((s.consume n i c).setCtx n { c with
      long := none, stack := ⟨c.fetch, c.pc⟩ :: c.stack,
      fetch := true, pc := fld (s.progWord c.level (fld i.word 7 0)) 11 0 }).completeR n i .ok 0)) ∧
  (∀ (s : State) (n : Nat) (i : Issue) (c : Ctx), Ready s n 0x0C i c →
    fld (s.progWord c.level (fld i.word 7 0)) 11 0 = 0 ∨ 4 ≤ c.stack.length →
    exec (.callp n) s = .next ((s.consume n i c).fail n i .range))

/-- When ready, MARK saves the read point as the mark; RWND makes every item consumed since the mark visible again and keeps the mark, and completes with RANGE where no mark is held; REL frees what is consumed up to the read point and clears the mark. RESULT is the queue's FREE count after the instruction, and nothing but the context changes. Where a clause meets log entry 31, it states the model's reading named there. -/
def Obligations.QueueInstructions : Prop :=
  (∀ (s : State) (n : Nat) (i : Issue) (c : Ctx), Ready s n 0x7C i c →
    let u := (s.consume n i c).setCtx n { c with long := none, mark := c.cur.map Cur.next }
    exec (.mark n) s = .next (u.completeR n i .ok (BitVec.ofNat 64 (u.ctx n).freeItems)) ∧ OnlyContext s u n) ∧
  (∀ (s : State) (n : Nat) (i : Issue) (c : Ctx) (m : Nat) (v : Cur), Ready s n 0x7D i c →
    c.mark = some m →
    c.cur = some v →
    let u := (s.consume n i c).setCtx n { c with long := none, cur := some { v with next := m }, rd := (c.rd + 512 - (v.next - m)) % 512 }
    exec (.rwnd n) s = .next (u.completeR n i .ok (BitVec.ofNat 64 (u.ctx n).freeItems)) ∧ OnlyContext s u n) ∧
  (∀ (s : State) (n : Nat) (i : Issue) (c : Ctx), Ready s n 0x7D i c →
    c.mark = none →
    exec (.rwnd n) s = .next ((s.consume n i c).fail n i .range)) ∧
  (∀ (s : State) (n : Nat) (i : Issue) (c : Ctx), Ready s n 0x7E i c →
    let u := (s.consume n i c).setCtx n { c with long := none, mark := none, cur := c.cur.map (fun v => { v with freed := v.next }) }
    exec (.rel n) s = .next (u.completeR n i .ok (BitVec.ofNat 64 (u.ctx n).freeItems)) ∧ OnlyContext s u n)

/-- A free thread takes the next ready context of its tile; a context that has held its thread for seq.quantum while another waits gives it up at its next instruction boundary; IDLE, read where the queue holds nothing that the consumer can take or submitted, unloads the context at once when another is ready and otherwise after 1 µs; an unloaded context keeps all its state. Where a clause meets log entries 109 and 134, it states the model's reading named there. -/
def Obligations.ThreadsAndIdle : Prop :=
  (∀ (s : State) (tile thread m : Nat), s.threadOk tile thread = true →
    s.nextReady tile thread = some m →
    s.onThread tile thread = none →
    exec (.contextLoad tile thread) s = .next ((s.setCtx m { s.ctx m with thread := some thread, since := s.clock }).countLoad m tile thread)) ∧
  (∀ (s : State) (tile thread m k : Nat), s.threadOk tile thread = true →
    s.nextReady tile thread = some m →
    s.onThread tile thread = some k →
    s.givesWay tile thread k m = false →
    exec (.contextLoad tile thread) s = .next s) ∧
  (∀ (s : State) (tile thread n m : Nat), s.onThread tile thread = some n →
    s.nextReady tile thread = some m →
    (s.ctx n).atBoundary = true →
    (s.ctx n).since + s.tileP bSeq tile 0 * us ≤ s.clock →
    Answers (exec (.quantumExpiry tile thread) s) (fun t => (t.ctx n).thread = none ∧ KeepsRegs s t n ∧ OnlyContext s t n)) ∧
  (∀ (s : State) (n : Nat), s.canIssue n = true →
    (s.ctx n).long = none →
    s.readNext n = none →
    s.ctxNums.any (fun m => (s.ctx m).isReady (s.ctx n).tile) = true →
    Answers (exec (.idle n) s) (fun t => (t.ctx n).thread = none ∧ KeepsRegs s t n ∧ OnlyContext s t n)) ∧
  (∀ (s : State) (n : Nat), s.canIssue n = true →
    (s.ctx n).long = none →
    s.readNext n = none →
    s.ctxNums.any (fun m => (s.ctx m).isReady (s.ctx n).tile) = false →
    Answers (exec (.idle n) s) (fun t => (∃ i, (t.ctx n).long = some (i, .idle s.clock)) ∧ (t.ctx n).thread = (s.ctx n).thread ∧ KeepsRegs s t n ∧ OnlyContext s t n)) ∧
  (∀ (s : State) (n : Nat) (i : Issue) (c : Ctx), s.canIssue n = true →
    (s.ctx n).long = none →
    s.readNext n = some (i, c) →
    i.opcode = 0 →
    i.cmd = false →
    i.encOk = true →
    Answers (exec (.idle n) s) (fun t => KeepsRegs s t n ∧ (t.ctx n).outbox = (s.ctx n).outbox ∧ OnlyContext s t n)) ∧
  (∀ (s : State) (n since : Nat) (i : Issue), (s.ctx n).long = some (i, .idle since) →
    since + us ≤ s.clock →
    Answers (exec (.idleTimeout n) s) (fun t => (t.ctx n).long = none ∧ (t.ctx n).thread = none ∧ KeepsRegs s t n ∧ OnlyContext s t n))

/-- SUBMISSION moves what waits for a context into its queue: the oldest message over MCTP into context 0x103F, the queued program of a Slipway page into its session's context at PL3, and the oldest doorbell of the LD that submits to the context from its submission window. Where the free items do not hold all of a message it stays outside and the queue is unchanged. Where a clause meets log entries 15 and 32, it states the model's reading named there. -/
def Obligations.Submissions : Prop :=
  (∀ (s : State) (b : Sub) (r : List Sub), (List.range (16 * s.tiles)).filter (fun k => decide (s.ldCtx (k / 16) (k % 16) = some 0x103F)) = [] →
    s.mgmt.waiting = b :: r →
    (s.ctx 0x103F).created = true →
    b.items.length ≤ (s.ctx 0x103F).freeItems →
    Answers (exec (.submission 0x103F) s) (fun t => (t.ctx 0x103F).waiting = (s.ctx 0x103F).waiting ++ [b] ∧ t.mgmt.waiting = r ∧ t.dram = s.dram ∧ KeepsRegs s t 0x103F)) ∧
  (∀ (s : State) (b : Sub) (r : List Sub), (List.range (16 * s.tiles)).filter (fun k => decide (s.ldCtx (k / 16) (k % 16) = some 0x103F)) = [] →
    s.mgmt.waiting = b :: r →
    (s.ctx 0x103F).freeItems < b.items.length →
    exec (.submission 0x103F) s = .next s) ∧
  (∀ (s : State) (n : Nat), (List.range (16 * s.tiles)).filter (fun k => decide (s.ldCtx (k / 16) (k % 16) = some n)) = [] →
    n < 0x1000 →
    (s.sess n).slip.state = .queued →
    (s.sess n).slip.entered = false →
    (s.ctx n).created = true →
    (s.sess n).slip.count ≤ (s.ctx n).freeItems →
    Answers (exec (.submission n) s) (fun t => (t.ctx n).waiting = (s.ctx n).waiting ++
      [{ items := (List.range (s.sess n).slip.count).map (fun i => Store.read (s.sess n).slip.words (0x40 + 8 * i) 0),
         prio := (s.param (pid bSess 1023 1) n).toNat % 8, path := .slipway n, pl := 3 }] ∧
      (t.sess n).slip.entered = true ∧ t.dram = s.dram)) ∧
  (∀ (s : State) (n t d tail prio : Nat) (rest : List (Nat × Nat)) (u : State), (List.range (16 * s.tiles)).filter (fun k => decide (s.ldCtx (k / 16) (k % 16) = some n)) = [16 * t + d] →
    d < 16 →
    n = 0x103E →
    s.ldCtx t d = some n →
    (s.bar t d).cmdBusy = false →
    (s.bar t d).sqWait = (tail, prio) :: rest →
    0 < (tail + 1024 - (s.bar t d).sqHead) % 1024 →
    (tail + 1024 - (s.bar t d).sqHead) % 1024 ≤ 512 →
    s.enterSub n { items := (List.range ((tail + 1024 - (s.bar t d).sqHead) % 1024)).map (fun i => Store.read (s.bar t d).sq (((s.bar t d).sqHead + i) % 1024) 0), prio, path := .bar0 t d, pl := s.ldLevel t d } = some u →
    exec (.submission n) s = .next (u.setBar t d { s.bar t d with sqHead := ((s.bar t d).sqHead + (tail + 1024 - (s.bar t d).sqHead) % 1024) % 1024, sqWait := rest }))

/-- COMPLETION_RECORD moves the oldest waiting record of a context to the sink of its submission's path: firmware takes it, an MCTP response is queued for the BMC, the completion window of the submitting LD takes its four words at CQ_TAIL with vector 0 where the window was empty, and a Slipway page shows its status and index and becomes DONE at the last record. While the sink has no room nothing changes. COMPLETION_SPACE ends the hold of a context once its sink has room. Where a clause meets log entry 33, it states the model's reading named there. -/
def Obligations.CompletionRecords : Prop :=
  (∀ (s : State) (n : Nat) (r : Cpl) (rest : List Cpl), (s.ctx n).outbox = r :: rest →
    r.path = .firmware →
    exec (.completionRecord n) s = .next (s.setCtx n { s.ctx n with outbox := rest })) ∧
  (∀ (s : State) (n : Nat) (r : Cpl) (rest : List Cpl), (s.ctx n).outbox = r :: rest →
    r.path = .mctp →
    s.mgmt.results.length < 16 →
    exec (.completionRecord n) s = .next { s.setCtx n { s.ctx n with outbox := rest } with mgmt := { s.mgmt with results := s.mgmt.results ++ [r.words] } }) ∧
  (∀ (s : State) (n t d : Nat) (r : Cpl) (rest : List Cpl), (s.ctx n).outbox = r :: rest →
    r.path = .bar0 t d ∨ r.path = .cmd t d →
    (s.bar t d).cqUsed < 255 →
    exec (.completionRecord n) s = .next ((s.setCtx n { s.ctx n with outbox := rest }).setBar t d { s.bar t d with
      cq := Store.write (s.bar t d).cq (s.bar t d).cqTail r.words [], cqTail := ((s.bar t d).cqTail + 1) % 256,
      vec0 := (s.bar t d).vec0 || decide ((s.bar t d).cqUsed = 0) })) ∧
  (∀ (s : State) (n m : Nat) (r : Cpl) (rest : List Cpl), (s.ctx n).outbox = r :: rest →
    r.path = .slipway m →
    s.ownerWindow m = false →
    (s.sess m).slip.state = .running →
    Answers (exec (.completionRecord n) s) (fun t => (t.ctx n).outbox = rest ∧ (t.sess m).slip.lastStat = r.status.code ∧ (t.sess m).slip.lastIdx = r.index % 4096 ∧
      (t.sess m).slip.state =
        (if r.last ∨ ¬ (rest.any (fun q => decide (q.path = .slipway m)) ∨ ∃ u, (s.ctx n).cur = some u ∧ u.sub.path = .slipway m) then .done else .running))) ∧
  (∀ (s : State) (n : Nat) (r : Cpl) (rest : List Cpl), (s.ctx n).outbox = r :: rest →
    s.sinkShut r.path = true →
    exec (.completionRecord n) s = .next s) ∧
  (∀ (s : State) (n : Nat) (i : Issue) (c : Ctx), (s.ctx n).held = true →
    s.readNext n = some (i, c) →
    s.sinkFull n i.path = false →
    exec (.completionSpace n) s = .next (s.setCtx n { s.ctx n with held := false }))

/-- GETP returns the value in effect (with XF = 1, the staged value where the context owns the set and the set holds the parameter) and then clears what is RC; STGP of an STG parameter puts the value into the staged set, which its context then owns unchecked, and leaves every value in effect as it was; STGP of another writable parameter writes it at once; both give RESULT the value in effect before. An ID that is not assigned completes with RANGE, a refused level with PRIV, a staging while another context owns the set with RESV. LOCKP sets and clears a lock and returns the lock before; CRD returns the counter or, with XF = 1, its snapshot. -/
def Obligations.ParameterReadsAndWrites : Prop :=
  (∀ (s : State) (n : Nat) (i : Issue) (c : Ctx), Ready s n 0x20 i c →
    s.getWaits n = false →
    (s.consume n i c).mayRead n i.pl (iParam i.word) false = true →
    (s.consume n i c).idOk n i.pl (iParam i.word) = true →
    (s.consume n i c).idFenced (iParam i.word) = false →
    iXf i.word = false ∨ s.set.owner ≠ some n →
    let u := (s.consume n i c).beforeRead (iParam i.word)
    let m := (s.consume n i c).idSess n i.pl (iParam i.word)
    exec (.getp n) s = .next ((u.afterRead (iParam i.word) m).completeR n i .ok (u.view (iParam i.word) m))) ∧
  (∀ (s : State) (n : Nat) (i : Issue) (c : Ctx) (w : Word), Ready s n 0x20 i c →
    s.getWaits n = false →
    (s.consume n i c).mayRead n i.pl (iParam i.word) false = true →
    (s.consume n i c).idOk n i.pl (iParam i.word) = true →
    (s.consume n i c).idFenced (iParam i.word) = false →
    iXf i.word = true →
    s.set.owner = some n →
    (s.consume n i c).stagedValue (iParam i.word) ((s.consume n i c).idSess n i.pl (iParam i.word)) = some w →
    let u := (s.consume n i c).beforeRead (iParam i.word)
    let m := (s.consume n i c).idSess n i.pl (iParam i.word)
    exec (.getp n) s = .next ((u.afterRead (iParam i.word) m).completeR n i .ok w)) ∧
  (∀ (s : State) (n : Nat) (i : Issue) (c : Ctx), Ready s n 0x20 i c →
    s.getWaits n = false →
    (s.consume n i c).mayRead n i.pl (iParam i.word) false = false →
    exec (.getp n) s = .next ((s.consume n i c).complete n i .priv 0 [] false)) ∧
  (∀ (s : State) (n : Nat) (i : Issue) (c : Ctx), Ready s n 0x20 i c →
    s.getWaits n = false →
    (s.consume n i c).mayRead n i.pl (iParam i.word) false = true →
    (s.consume n i c).idOk n i.pl (iParam i.word) = false →
    exec (.getp n) s = .next ((s.consume n i c).complete n i .range 0 [] false)) ∧
  (∀ (s : State) (n : Nat) (i : Issue) (c : Ctx) (p : PSpec), Ready s n 0x21 i c →
    stgpEnc (s.consume n i c) i = true →
    (s.consume n i c).stgpLevel n i = true →
    pspec (s.consume n i c).tiles (iParam i.word) = some p →
    hasStg p.fields = true →
    p.fields.any (fun f => f.writable && !f.stg) = false →
    (s.consume n i c).idOk n i.pl (iParam i.word) = true →
    (s.consume n i c).writeRange (iParam i.word) p.fields (i.stgpValue c) = true →
    (s.consume n i c).idFenced (iParam i.word) = false →
    (s.consume n i c).writeMode (iParam i.word) (i.stgpValue c) = true →
    c.dropped = false →
    (s.consume n i c).canStage n [.field (iParam i.word) ((s.consume n i c).idSess n i.pl (iParam i.word)) 63 0 (i.stgpValue c).toNat] = true →
    let u := s.consume n i c
    let e := Change.field (iParam i.word) (u.idSess n i.pl (iParam i.word)) 63 0 (i.stgpValue c).toNat
    Answers (exec (.stgp n) s) (fun t =>
      t = ((u.completeR n i .ok (u.view (iParam i.word) (u.idSess n i.pl (iParam i.word)))).stage n i.pl [e]) ∧
      t.set.entries = addChanges s.set.entries [e] i.pl ∧ t.set.owner = some n ∧ t.set.checked = false ∧ (s.uncounted = true → t.params = s.params))) ∧
  (∀ (s : State) (n : Nat) (i : Issue) (c : Ctx) (p : PSpec), Ready s n 0x21 i c →
    stgpEnc (s.consume n i c) i = true →
    (s.consume n i c).stgpLevel n i = true →
    pspec (s.consume n i c).tiles (iParam i.word) = some p →
    hasStg p.fields = false →
    p.fields.any (fun f => f.writable && !f.stg) = true →
    (s.consume n i c).idOk n i.pl (iParam i.word) = true →
    (s.consume n i c).writeRange (iParam i.word) p.fields (i.stgpValue c) = true →
    (s.consume n i c).idFenced (iParam i.word) = false →
    (s.consume n i c).writeMode (iParam i.word) (i.stgpValue c) = true →
    let u := s.consume n i c
    let m := u.idSess n i.pl (iParam i.word)
    exec (.stgp n) s = .next ((u.completeR n i .ok (u.view (iParam i.word) m)).writePlain n p.fields (iParam i.word) m (i.stgpValue c))) ∧
  (∀ (s : State) (n : Nat) (i : Issue) (c : Ctx), Ready s n 0x25 i c →
    iXf i.word = false ∨ i.pl = 0 →
    (s.consume n i c).isStg (iParam i.word) = true →
    (s.consume n i c).idFenced (iParam i.word) = false →
    let u := s.consume n i c
    exec (.lockp n) s = .next ({ u with fw := { s.fw with
      locks := if iXf i.word then s.fw.locks.filter (fun x => decide (x ≠ iParam i.word)) else insertNat (iParam i.word) s.fw.locks } }.completeR n i .ok
        (BitVec.ofNat 64 (b01 (s.fw.locks.contains (iParam i.word)))))) ∧
  (∀ (s : State) (n : Nat) (i : Issue) (c : Ctx), Ready s n 0x7B i c →
    (s.consume n i c).mayRead n i.pl (iParam i.word) true = true →
    crdParam (iParam i.word) = true →
    (s.consume n i c).idOk n i.pl (iParam i.word) = true →
    iXf i.word = false ∨ s.pmc.snapped = true →
    (s.consume n i c).idFenced (iParam i.word) = false →
    let u := s.consume n i c
    let m := u.idSess n i.pl (iParam i.word)
    exec (.crd n) s = .next (u.completeR n i .ok (if iXf i.word then u.shadowOf (iParam i.word) m else u.view (iParam i.word) m)))

/-- CHKS marks the set checked and returns the number of its entries, or leaves it unchecked and returns the identifier and index of the first failing entry; APLS of a checked set that still passes names a tide at T and the context waits for its outcome, and otherwise it completes with CHKFAIL, RANGE or LATE; each of CHKS, APLS and DROPS completes with RESV where the context does not own the set; DROPS empties the set and returns the number dropped; a set untouched for seq.stage_to is dropped, its owner is told by LATE, and an event of severity 3 is logged. Where a clause meets log entries 18, 19 and 20, it states the model's reading named there. -/
def Obligations.StagedSet : Prop :=
  (∀ (s : State) (n : Nat) (i : Issue) (c : Ctx), Ready s n 0x22 i c →
    c.dropped = false →
    (s.consume n i c).setTaken n = false →
    (s.consume n i c).checkSet = none →
    let u := s.consume n i c
    exec (.chks n) s = .next ({ u with set := { s.set with checked := true, touched := s.clock } }.completeR n i .ok (BitVec.ofNat 64 s.set.entries.length))) ∧
  (∀ (s : State) (n : Nat) (i : Issue) (c : Ctx) (r : Nat × Nat), Ready s n 0x22 i c →
    c.dropped = false →
    (s.consume n i c).setTaken n = false →
    (s.consume n i c).checkSet = some r →
    let u := s.consume n i c
    exec (.chks n) s = .next ({ u with set := { s.set with checked := false, touched := s.clock } }.complete n i .chkfail (chksResult r) [chksResult r] true)) ∧
  (∀ (s : State) (n : Nat) (i : Issue) (c : Ctx), Ready s n 0x22 i c →
    c.dropped = false →
    (s.consume n i c).setTaken n = true →
    exec (.chks n) s = .next ((s.consume n i c).complete n i .resv 0 [] false)) ∧
  (∀ (s : State) (n : Nat) (i : Issue) (c : Ctx), Ready s n 0x22 i c →
    c.dropped = true →
    exec (.chks n) s = .next (((s.consume n i c).setCtx n { c with long := none, dropped := false }).complete n i .late 0 [] false)) ∧
  (∀ (s : State) (n : Nat) (i : Issue) (c : Ctx), Ready s n 0x23 i c →
    c.dropped = false →
    s.set.owner = some n →
    (s.consume n i c).aplsTime n i ≤ (s.consume n i c).master + 4000000000 →
    s.set.checked = true →
    (s.consume n i c).checkSet = none →
    (s.consume n i c).master + tideAhead ≤ (s.consume n i c).aplsTime n i →
    s.tides.any (fun v => decide ((s.consume n i c).aplsTime n i ≤ v.at_ + tideSpace ∧ v.at_ ≤ (s.consume n i c).aplsTime n i + tideSpace)) = false →
    let u := s.consume n i c
    exec (.apls n) s = .next (({ u with set := { s.set with checked := true, touched := s.clock } }.addTide (u.aplsTime n i) s.set.entries (some n)).startLong n i .apls)) ∧
  (∀ (s : State) (n : Nat) (i : Issue) (c : Ctx), Ready s n 0x23 i c →
    c.dropped = false →
    s.set.owner = some n →
    (s.consume n i c).aplsTime n i ≤ (s.consume n i c).master + 4000000000 →
    s.set.checked = false ∨ (s.consume n i c).checkSet.isSome = true →
    exec (.apls n) s = .next ((s.consume n i c).complete n i .chkfail 0 [] false)) ∧
  (∀ (s : State) (n : Nat) (i : Issue) (c : Ctx), Ready s n 0x24 i c →
    c.dropped = false →
    (s.consume n i c).setTaken n = false →
    s.set.entries ≠ [] →
    exec (.drops n) s = .next ({ s.consume n i c with set := {} }.completeR n i .ok (BitVec.ofNat 64 s.set.entries.length))) ∧
  (∀ (s : State) (n : Nat) (i : Issue) (c : Ctx), Ready s n 0x24 i c →
    c.dropped = false →
    (s.consume n i c).setTaken n = false →
    s.set.entries = [] →
    exec (.drops n) s = .next ({ s.consume n i c with set := {} }.completeR n i .idle 0)) ∧
  (∀ (s : State) (n : Nat), s.set.owner = some n →
    s.set.touched + s.devP bSeq 0 * ms ≤ s.clock →
    (s.ctx n).long = none →
    exec (.stagedSetTimeout) s = .next (({ s with set := {} }.setCtx n { s.ctx n with dropped := true }).log 0 3 bSeq 1023 0x03 0 n))

/-- EVTW completes with the Tidemark of its tile and writes a record of its severity and code with items 1 to N - 1; CSNP and CFRZ wait for T (register a, or 20,000 ticks after receipt), or complete with LATE less than 16,000 ticks ahead, RANGE more than 1 s ahead, and CFRZ with IDLE where the counters already are so. At T a snapshot copies every count and its overflow bit into the shadow, a freeze changes the frozen bit, and 1 us after T the instruction completes with T. -/
def Obligations.RecorderAndCounterInstructions : Prop :=
  (∀ (s : State) (n : Nat) (i : Issue) (c : Ctx), Ready s n 0x78 i c →
    i.pl ≤ 1 ∨ fld i.word 2 0 ≤ 2 →
    let u := s.consume n i c
    let t := (s.ctx n).tile
    exec (.evtw n) s = .next ((u.completeR n i .ok (BitVec.ofNat 64 (s.localCount t))).record t (fld i.word 2 0) (fld (i.data.getD 0 0) 31 0) 2 i.pl n 0 (i.data.drop 1))) ∧
  (∀ (s : State) (n : Nat) (i : Issue) (c : Ctx), Ready s n 0x79 i c →
    s.master + tideAhead ≤ (s.consume n i c).namedT n i →
    (s.consume n i c).namedT n i ≤ s.master + 4000000000 →
    exec (.csnp n) s = .next ((s.consume n i c).startLong n i (.snap ((s.consume n i c).namedT n i) false))) ∧
  (∀ (s : State) (n : Nat) (i : Issue) (c : Ctx), Ready s n 0x7A i c →
    s.master + tideAhead ≤ (s.consume n i c).namedT n i →
    (s.consume n i c).namedT n i ≤ s.master + 4000000000 →
    s.pmc.frozen = iXf i.word →
    exec (.cfrz n) s = .next ((s.consume n i c).startLong n i (.freeze ((s.consume n i c).namedT n i) (!iXf i.word) false))) ∧
  (∀ (s : State) (n : Nat) (i : Issue) (c : Ctx), Ready s n 0x7A i c →
    s.master + tideAhead ≤ (s.consume n i c).namedT n i →
    (s.consume n i c).namedT n i ≤ s.master + 4000000000 →
    s.pmc.frozen = !iXf i.word →
    exec (.cfrz n) s = .next ((s.consume n i c).completeR n i .idle 0)) ∧
  (∀ (s : State) (n : Nat) (i : Issue) (c : Ctx), Ready s n 0x79 i c →
    (s.consume n i c).namedT n i < s.master + tideAhead →
    exec (.csnp n) s = .next ((s.consume n i c).complete n i .late 0 [] false)) ∧
  (∀ (s : State) (n t : Nat) (i : Issue), leastBy (fun e => e.2.1) (s.snapsDue.filter (fun e => !e.2.2)) = some (n, t, false) →
    (s.ctx n).long = some (i, .snap t false) →
    exec (.counterSnapshot) s = .next ((s.takeSnapshot t).setCtx n { s.ctx n with long := some (i, .snap t true) })) ∧
  (∀ (s : State) (t k : Nat), Store.rising s.pmc.ctrs = true →
    ((s.takeSnapshot t).ctr k).shadow = (s.ctr k).cnt ∧ ((s.takeSnapshot t).ctr k).shadowOvf = (s.ctr k).ovf ∧
      ((s.takeSnapshot t).ctr k).cnt = (s.ctr k).cnt ∧ ((s.takeSnapshot t).ctr k).ovf = (s.ctr k).ovf) ∧
  (∀ (s : State) (n t : Nat), s.snapsDue.filter (fun e => !e.2.2) = [] →
    leastBy (fun e => e.2.1) (s.snapsDue.filter (fun e => e.2.2 && decide (e.2.1 + us ≤ s.master))) = some (n, t, true) →
    exec (.counterSnapshot) s = .next (s.finishR n .ok (BitVec.ofNat 64 t))) ∧
  (∀ (s : State) (n t : Nat) (on : Bool) (i : Issue), leastBy (fun e => e.2.1) (s.freezesDue.filter (fun e => !e.2.2.2)) = some (n, t, on, false) →
    s.snapsDue.any (fun e => !e.2.2 && decide (e.2.1 ≤ t)) = false →
    (s.ctx n).long = some (i, .freeze t on false) →
    exec (.counterFreeze) s = .next ({ s with pmc := { s.pmc with frozen := on } }.setCtx n { s.ctx n with long := some (i, .freeze t on true) })) ∧
  (∀ (s : State) (n t : Nat) (on : Bool), s.freezesDue.filter (fun e => !e.2.2.2) = [] →
    leastBy (fun e => e.2.1) (s.freezesDue.filter (fun e => e.2.2.2 && decide (e.2.1 + us ≤ s.master))) = some (n, t, on, true) →
    exec (.counterFreeze) s = .next (s.finishR n .ok (BitVec.ofNat 64 t)))

/-- FWST with N = 0 returns the transfer status of the inactive slot; its first part erases the inactive slot, moves the mark off it and stores the words; a further part appends; a last part with the right CRC-32C makes the image complete and with a wrong one completes with CHKFAIL and leaves it incomplete; FWSEL marks a complete slot and returns the slot marked before, or completes with CHKFAIL; both complete with FWMOVE, FWBATT or FWLOCK, in that order, where the update is refused. The write of `sys.force_auth` in RSTR while no unit is authoritative makes this unit authoritative; the BMC's state of charge is stored with its time. Where a clause meets log entries 93 and 102, it states the model's reading named there. -/
def Obligations.FirmwareInstructions : Prop :=
  (∀ (s : State) (n : Nat) (i : Issue) (c : Ctx), Ready s n 0x80 i c →
    iN i.word = 0 →
    i.data = [] →
    8 * (s.slot s.inactive).words.length ≤ 0x380_0000 →
    s.fw.xfer = none ∨ s.fw.xfer = some n →
    (s.consume n i c).fwRefusal = none →
    exec (.fwst n) s = .next ((s.consume n i c).completeR n i .ok (s.slot s.inactive).status)) ∧
  (∀ (s : State) (n : Nat) (i : Issue) (c : Ctx), Ready s n 0x80 i c →
    iN i.word = i.data.length ∧ 0 < i.data.length →
    c.opA i.word = 0 →
    iXf i.word = false →
    s.fw.xfer = none ∨ s.fw.xfer = some n →
    (s.consume n i c).fwRefusal = none →
    let u := ((s.consume n i c).beginTransfer n).pendRec n i
    exec (.fwst n) s = .next ((u.setSlot s.inactive { words := i.data }).completeR n i .ok 0)) ∧
  (∀ (s : State) (n : Nat) (i : Issue) (c : Ctx), Ready s n 0x80 i c →
    iN i.word ≠ 0 →
    s.fw.xfer = some n →
    (c.opA i.word).toNat = 8 * (s.slot s.inactive).words.length →
    (s.slot s.inactive).words ≠ [] →
    8 * ((s.slot s.inactive).words.length + i.data.length) ≤ 0x380_0000 →
    iXf i.word = false →
    (s.consume n i c).fwRefusal = none →
    exec (.fwst n) s = .next (((s.consume n i c).setSlot s.inactive { words := (s.slot s.inactive).words ++ i.data }).completeR n i .ok 0)) ∧
  (∀ (s : State) (n : Nat) (i : Issue) (c : Ctx), Ready s n 0x80 i c →
    iN i.word ≠ 0 →
    s.fw.xfer = some n →
    (c.opA i.word).toNat = 8 * (s.slot s.inactive).words.length →
    (s.slot s.inactive).words ≠ [] →
    8 * ((s.slot s.inactive).words.length + i.data.length) ≤ 0x380_0000 →
    iXf i.word = true →
    (s.consume n i c).fwRefusal = none →
    let all := (s.slot s.inactive).words ++ i.data
    let u := s.consume n i c
    exec (.fwst n) s = .next (if (crc32cWords all).toNat = fld (c.reg (iGb i.word)) 31 0 then
        { u.setSlot s.inactive { words := all, complete := true } with fw := { (u.setSlot s.inactive { words := all, complete := true }).fw with xfer := none } }.completeR n i .ok 0
      else (u.setSlot s.inactive { words := all, crcFail := true }).complete n i .chkfail 0 [] false)) ∧
  (∀ (s : State) (n : Nat) (i : Issue) (c : Ctx) (st : Status), Ready s n 0x80 i c →
    iN i.word = 0 →
    i.data = [] →
    8 * (s.slot s.inactive).words.length ≤ 0x380_0000 →
    s.fw.xfer = none ∨ s.fw.xfer = some n →
    (s.consume n i c).fwRefusal = some st →
    exec (.fwst n) s = .next ((s.consume n i c).complete n i st 0 [] false) ∧
      st = if (s.consume n i c).fwMove then .fwmove else if (s.consume n i c).fwBatt then .fwbatt else .fwlock) ∧
  (∀ (s : State) (n : Nat) (i : Issue) (c : Ctx), Ready s n 0x81 i c →
    (s.consume n i c).fwRefusal = none →
    (s.slot (fld i.word 0 0)).complete = true →
    let u := s.consume n i c
    exec (.fwsel n) s = .next ({ u with fw := { s.fw with mark := fld i.word 0 0 } }.completeR n i .ok (BitVec.ofNat 64 s.fw.mark))) ∧
  (∀ (s : State) (n : Nat) (i : Issue) (c : Ctx), Ready s n 0x81 i c →
    (s.consume n i c).fwRefusal = none →
    (s.slot (fld i.word 0 0)).complete = false →
    exec (.fwsel n) s = .next ((s.consume n i c).complete n i .chkfail 0 [] false)) ∧
  (∀ (s : State), s.mode.mode = .rstr →
    s.boot.auth = false ∧ s.boot.twinAuth = false →
    let u := { s with boot := { s.boot with auth := true, decided := true, forced := true } }
    exec (.forceAuth) s = .next ((u.requestAuth true).log 0 6 bSys 1023 0x06 1 0)) ∧
  (∀ (s : State) (soc : Nat), soc ≤ 100 →
    s.boot.done.contains 5 = true →
    s.mode.mode ≠ .stby ∧ s.mode.mode ≠ .save →
    let u := s.setParam (pid bFw 1023 2) 0 (BitVec.ofNat 64 soc)
    exec (.fwSoc soc) s = .next { u with fw := { u.fw with socAt := some s.clock } })

/-- SAVE with XF = 0 completes with OK and the Tidemark and commits a planned save, with MODE in a mode that serves nothing, and with IDLE while a save is committed; HOLD sets or clears the start hold and returns the previous state; FENCE raises a fence with cause 0x01, or completes with IDLE where the unit is fenced, or with RANGE where the tile has no such unit; its clearing is staged. BIST runs on the endpoints of its mask, and its completion stores done, fail and the first failing address. Where a clause meets log entries 101 and 104, it states the model's reading named there. -/
def Obligations.PowerAndFenceInstructions : Prop :=
  (∀ (s : State) (n : Nat) (i : Issue) (c : Ctx), Ready s n 0x82 i c →
    iXf i.word = false →
    s.save.run = none →
    s.mode.mode.serving = true →
    let u := s.consume n i c
    exec (.save n) s = .next ((u.completeR n i .ok (BitVec.ofNat 64 s.master)).commitSave 5 true false)) ∧
  (∀ (s : State) (n : Nat) (i : Issue) (c : Ctx) (r : SaveRun), Ready s n 0x82 i c →
    s.save.run = some r →
    exec (.save n) s = .next ((s.consume n i c).completeR n i .idle 0)) ∧
  (∀ (s : State) (n : Nat) (i : Issue) (c : Ctx), Ready s n 0x82 i c →
    iXf i.word = false →
    s.save.run = none →
    s.mode.mode.serving = false →
    exec (.save n) s = .next ((s.consume n i c).complete n i .mode 0 [] false)) ∧
  (∀ (s : State) (n : Nat) (i : Issue) (c : Ctx), Ready s n 0x83 i c →
    let u := s.consume n i c
    exec (.hold n) s = .next ({ u with boot := { s.boot with startHold := !iXf i.word } }.completeR n i .ok (BitVec.ofNat 64 (b01 s.boot.startHold)))) ∧
  (∀ (s : State) (n : Nat) (i : Issue) (c : Ctx), Ready s n 0x6B i c →
    s.unitExists (fld i.word 3 0) (fld i.word 15 8) (fld i.word 18 16) = true →
    iXf i.word = false →
    s.fenced (fld i.word 3 0) (fld i.word 15 8) (fld i.word 18 16) = false →
    exec (.fence n) s = .next (((s.consume n i c).completeR n i .ok (BitVec.ofNat 64 s.master)).raiseFence (fld i.word 3 0) (fld i.word 15 8) (fld i.word 18 16) 0x01 2)) ∧
  (∀ (s : State) (n : Nat) (i : Issue) (c : Ctx), Ready s n 0x6B i c →
    s.unitExists (fld i.word 3 0) (fld i.word 15 8) (fld i.word 18 16) = true →
    s.fenced (fld i.word 3 0) (fld i.word 15 8) (fld i.word 18 16) = !iXf i.word →
    exec (.fence n) s = .next ((s.consume n i c).completeR n i .idle (BitVec.ofNat 64 s.master))) ∧
  (∀ (s : State) (n : Nat) (i : Issue) (c : Ctx), Ready s n 0x6B i c →
    s.unitExists (fld i.word 3 0) (fld i.word 15 8) (fld i.word 18 16) = true →
    iXf i.word = true →
    s.fenced (fld i.word 3 0) (fld i.word 15 8) (fld i.word 18 16) = true →
    c.dropped = false →
    s.canStage n [.clearFence (fld i.word 3 0) (fld i.word 15 8) (fld i.word 18 16)] = true →
    exec (.fence n) s = .next (((s.consume n i c).completeR n i .ok (BitVec.ofNat 64 s.master)).stage n i.pl [.clearFence (fld i.word 3 0) (fld i.word 15 8) (fld i.word 18 16)])) ∧
  (∀ (s : State) (n : Nat) (i : Issue) (c : Ctx), Ready s n 0x6B i c →
    s.unitExists (fld i.word 3 0) (fld i.word 15 8) (fld i.word 18 16) = false →
    exec (.fence n) s = .next ((s.consume n i c).complete n i .range 0 [] false)) ∧
  (∀ (s : State) (tile mask : Nat), tile < s.tiles →
    s.mode.mode = .main →
    s.tileFenced tile = false →
    Answers (exec (.bistCtl tile mask) s) (fun t => t.param (pid bScan tile 0) 0 = word [(8, mask % 256)] ∧ ∀ e, e < 8 → mask.testBit e →
      t.mgmt.bistRun.contains (256 * tile + e) = true ∧ Store.read t.mgmt.bist (256 * tile + e) 0 = 0)) ∧
  (∀ (s : State) (tile endpoint : Nat) (fails : Option Nat), s.mgmt.bistRun.contains (256 * tile + endpoint) = true →
    exec (.bistComplete tile endpoint fails) s = .next { s with mgmt := { s.mgmt with
      bistRun := s.mgmt.bistRun.erase (256 * tile + endpoint),
      bist := Store.write s.mgmt.bist (256 * tile + endpoint) (match fails with | some a => word [(32, a % 2 ^ 32), (1, 1), (0, 1)] | none => 1) 0 } })

/-- An event that no trigger matches appends its record, with the tile's Tidemark, the operating time, the power cycle and the next sequence number, to the SRAM of its tile while 262,144 bytes hold it, and below severity 5 is dropped and counted otherwise (the counters of block 36 count both); a flush takes every uncommitted record as its batch; its commit frees them from SRAM, places them in the recorder area and writes the operating time; a read of `rec.rd_data` fetches the first record at or after the cursor and moves the cursor past it, or words of zero; every hour the operating time is written. Where a clause meets log entries 109, 137 and 138, it states the model's reading named there. -/
def Obligations.RecorderRows : Prop :=
  (∀ (s : State) (tile sev block inst kind detail arg : Nat), tile < s.tiles →
    sev < 5 →
    s.boot.tableRead = true →
    s.trigMatch tile (evCode block inst detail kind) 1 = none →
    sramUsed (s.rt tile).sram + 64 ≤ 131072 →
    let x := s.rt tile
    let r : Rec := { sev, tile, code := evCode block inst detail kind, tidemark := if s.time.master.on then s.localCount tile else 0, optime := s.optime, pcycle := s.recd.pcycle, seq := x.seq, src := 1, pl := 0, ctx := 0, arg, snaps := [] }
    exec (.eventRecord tile sev block inst kind detail arg) s = .next ((s.setRt tile { x with sram := x.sram ++ [r], seq := x.seq + 1 }).tallyRec tile (some false))) ∧
  (∀ (s : State) (tile sev block inst kind detail arg : Nat), tile < s.tiles →
    sev < 5 →
    s.boot.tableRead = true →
    s.trigMatch tile (evCode block inst detail kind) 1 = none →
    262144 < sramUsed (s.rt tile).sram + 64 →
    let u := ((s.setRt tile { s.rt tile with seq := (s.rt tile).seq + 1 }).dropRec tile sev).flushCauses tile sev
    exec (.eventRecord tile sev block inst kind detail arg) s = .next (u.tallyRec tile (some true)) ∧
      (u.rt tile).sram = (s.rt tile).sram ∧ (u.rt tile).seq = (s.rt tile).seq + 1) ∧
  (∀ (s : State) (tile : Nat), s.canFlush tile = true →
    exec (.recorderFlush tile) s = .next ((s.setRt tile { s.rt tile with batch := some (s.rt tile).sram.length, wanted := false }).tally tile 36 0x0003 { cls := some 4 })) ∧
  (∀ (s : State) (tile n : Nat), (s.rt tile).batch = some n →
    s.areaUp tile = true →
    (s.rt tile).area.length + ((s.rt tile).sram.take n).length ≤ recSlots →
    Answers (exec (.flushCommit tile) s) (fun t => (t.rt tile).sram = (s.rt tile).sram.drop n ∧ (t.rt tile).batch = none ∧
      (t.rt tile).area = (s.rt tile).area ++ (s.rt tile).sram.take n ∧ (t.rt tile).marker = commitMarker ((s.rt tile).sram.take n) ∧ t.recd.opStored = s.optime ∧ t.recd.opWritten = s.clock)) ∧
  (∀ (s : State) (k : Nat) (r : Rec), k < 4 →
    leastBy (fun r => r.pcycle * 2 ^ 32 + r.seq) (((if bit (s.param (pid bRec 1023 (4 + k)) 0) 3 || decide (s.mode.mode = .stby ∨ s.mode.mode = .save) || !s.boot.mounted.contains (fld (s.param (pid bRec 1023 (4 + k)) 0) 2 0) then [] else (s.rt (fld (s.param (pid bRec 1023 (4 + k)) 0) 2 0)).area) ++ (s.rt (fld (s.param (pid bRec 1023 (4 + k)) 0) 2 0)).sram).filter (fun r => r.atOrAfter (s.param (pid bRec 1023 (8 + k)) 0) && decide (fld (s.param (pid bRec 1023 (4 + k)) 0) 6 4 ≤ r.sev))) = some r →
    exec (.recRdData k) s = .next ({ s with recd := { s.recd with readers := Store.write s.recd.readers k { words := r.words } {} } }.setParam (pid bRec 1023 (8 + k)) 0 (word [(32, r.pcycle % 2 ^ 32), (0, (r.seq + 1) % 2 ^ 32)]))) ∧
  (∀ (s : State), s.recd.opWritten + 3600 * sec ≤ s.clock →
    exec (.optimeWrite) s = .next { s with recd := { s.recd with opStored := s.optime, opWritten := s.clock } })

/-- A running counter that stands at 2^48 - 1 wraps to 0 at its next event, sets OVF, and raises the event of KIND 0x09; a write sets the count to bits [47:0] of the value, clears OVF where bit 63 is 1, and leaves every other counter as it was. Where a clause meets log entry 109, it states the model's reading named there. -/
def Obligations.CounterRows : Prop :=
  (∀ (s : State) (tile b k : Nat), tile < s.tiles ∧ b < 40 ∧ k < 16 →
    (s.ctr (ctrKey tile b k)).cnt = 2 ^ 48 - 1 →
    bit (s.param (pid bPmc (64 * tile + b) k) 0) 63 = true →
    s.pmc.frozen = false →
    exec (.counterOverflow tile b k) s = .next ((s.setCtr (ctrKey tile b k) { s.ctr (ctrKey tile b k) with cnt := 0, ovf := true }).makeRec tile 1 (evCode bPmc (64 * tile + b) k 0x09) 1 0 0 0 []).1) ∧
  (∀ (s : State) (tile b k pl events : Nat) (value : Word), tile < s.tiles ∧ b < 40 ∧ k < 16 →
    pl ≤ 1 →
    s.tileFenced tile = false →
    s.pmc.frozen = true ∨ events = 0 →
    exec (.pmcCntWrite tile b k pl value events) s = .next (s.setCtr (ctrKey tile b k) { s.ctr (ctrKey tile b k) with cnt := fld value 47 0, ovf := (s.ctr (ctrKey tile b k)).ovf && !bit value 63 }) ∧
      (∀ j, j ≠ ctrKey tile b k → (s.setCtr (ctrKey tile b k) { s.ctr (ctrKey tile b k) with cnt := fld value 47 0, ovf := (s.ctr (ctrKey tile b k)).ovf && !bit value 63 }).ctr j = s.ctr j)) ∧
  (∀ (s : State) (tile b k pl events : Nat) (value : Word), tile < s.tiles ∧ b < 40 ∧ k < 16 →
    pl ≤ 1 →
    s.tileFenced tile = false →
    s.pmc.frozen = false →
    fld value 47 0 + events < 2 ^ 48 →
    Answers (exec (.pmcCntWrite tile b k pl value events) s) (fun t => (t.ctr (ctrKey tile b k)).cnt = fld value 47 0 + events))

/-- While FAULT_L is high the current step raises its enables and waits for its power goods; when the last of them is accepted high its WINDOW runs, then its DELAY, then the next step is due or the sequence is complete and the device runs; a power good of the step that drops in the window or the delay restarts it, three times at most; a step whose power goods are not all high within TIMEOUT is a sequence fault of kind 1. A shutdown drops the enables of one step each `pwr.off_gap`; FAULT_L is released in STBY 100 us after it was asserted. Where a clause meets log entries 100, 103 and 136, it states the model's reading named there. -/
def Obligations.RailSequence : Prop :=
  (∀ (s : State), s.pwr.state = .sequencing ∧ s.pwr.toRaise = true ∧ s.pwr.faultIn = false →
    s.stepGood s.pwr.step = false →
    exec (.railStepStart) s = .next { s with pwr := { s.pwr with en := setBits s.pwr.en (s.stepChans s.pwr.step), toRaise := false, restarts := 0, phase := .wait, since := s.clock } }) ∧
  (∀ (s : State) (i : Nat), i < 16 →
    s.pwr.pg.getLsbD i = false →
    s.save.run = none →
    s.pwr.state = .sequencing ∧ s.pwr.toRaise = false ∧ s.pwr.phase = .wait ∧ s.chanClass i ≠ 1 →
    ({ s with pwr := { s.pwr with pg := setBits s.pwr.pg [i] } } : State).stepGood s.pwr.step = true →
    exec (.psPgAccept i true) s = .next { s with pwr := { s.pwr with pg := setBits s.pwr.pg [i], phase := .window, since := s.clock } }) ∧
  (∀ (s : State) (i : Nat), i < 16 →
    s.pwr.pg.getLsbD i = true →
    s.save.run = none →
    s.pwr.state = .sequencing ∧ s.pwr.toRaise = false ∧ s.pwr.phase ≠ .wait →
    s.switched i = true ∧ s.chanClass i ≠ 3 ∧ s.chanStep i = s.pwr.step →
    s.pwr.restarts < 3 →
    exec (.psPgAccept i false) s = .next { s with pwr := { s.pwr with pg := clearBits s.pwr.pg [i], restarts := s.pwr.restarts + 1, phase := .wait, since := s.clock } }) ∧
  (∀ (s : State), s.pwr.state = .sequencing ∧ s.pwr.toRaise = false ∧ s.pwr.phase = .window →
    s.pwr.since + s.stepWindow s.pwr.step ≤ s.clock →
    exec (.stepWindowEnd) s = .next { s with pwr := { s.pwr with phase := .delay, since := s.clock } }) ∧
  (∀ (s : State), s.pwr.state = .sequencing ∧ s.pwr.toRaise = false ∧ s.pwr.phase = .delay →
    s.pwr.since + s.stepDelay s.pwr.step ≤ s.clock →
    s.pwr.step + 1 < s.seqLen →
    exec (.stepDelayEnd) s = .next { s with pwr := { s.pwr with step := s.pwr.step + 1, toRaise := true, restarts := 0, dramUp := s.dramUpNow s.pwr.step } }) ∧
  (∀ (s : State), s.pwr.state = .sequencing ∧ s.pwr.toRaise = false ∧ s.pwr.phase = .delay →
    s.pwr.since + s.stepDelay s.pwr.step ≤ s.clock →
    s.seqLen ≤ s.pwr.step + 1 →
    exec (.stepDelayEnd) s = .next { s with pwr := { s.pwr with state := .running, dramUp := s.dramUpNow s.pwr.step }, boot := { s.boot with done := insertNat 3 s.boot.done } }) ∧
  (∀ (s : State), s.pwr.state = .sequencing ∧ s.pwr.toRaise = false ∧ s.pwr.phase = .wait →
    s.pwr.since + s.stepTimeout s.pwr.step ≤ s.clock →
    exec (.stepTimeout) s = .next (s.seqFault 1 (((s.stepChans s.pwr.step).find? (fun i => !s.pwr.pg.getLsbD i)).getD 0))) ∧
  (∀ (s : State) (k : Nat), s.shutting = true →
    s.pwr.offSince + s.offGap ≤ s.clock →
    (s.dropEnables (s.stepChans s.pwr.offStep)).enabledBelow s.pwr.offStep = some k →
    let u := s.dropEnables (s.stepChans s.pwr.offStep)
    exec (.shutdownStep) s = .next { u with pwr := { u.pwr with offStep := k, offSince := u.clock } }) ∧
  (∀ (s : State), s.shutting = true →
    s.pwr.offSince + s.offGap ≤ s.clock →
    (s.dropEnables (s.stepChans s.pwr.offStep)).enabledBelow s.pwr.offStep = none →
    let u := s.dropEnables (s.stepChans s.pwr.offStep)
    exec (.shutdownStep) s = .next (u.enterStby u.pwr.offCause)) ∧
  (∀ (s : State), s.pwr.faultOut = true ∧ s.mode.mode = .stby ∧ s.shutting = false →
    s.pwr.faultSince + 100 * us ≤ s.clock →
    exec (.faultLRelease) s = .next { s with pwr := { s.pwr with faultOut := false } })

/-- In a serving mode PFW_L arms the device for a save and 200 us of it commit the save with cause 1; `tide.armed_max` of arming commits it with cause 7 and 5 ms without PFW_L end the arming; in BRUP PFW_L shuts the device down. A class 0x1 drop commits with cause 2 and FAULT_L of another device with cause 3; a class 0x5, 0x3 or 0x4 drop warns, asserts FAULT_L and commits with cause 4 (0x3 and 0x4 fence their units first), and a class 0x2 drop warns, asserts FAULT_L and shuts every rail off at once. BBU_OK low is logged. Where a clause meets log entries 103 and 104, it states the model's reading named there. -/
def Obligations.SupervisorEvents : Prop :=
  (∀ (s : State), s.pwr.pfw = false →
    s.mode.mode.serving = true →
    s.save.run = none ∧ s.save.armed = none →
    let u := ({ s with pwr := { s.pwr with pfw := true } } : State).arm
    exec (.pfwLAssert) s = .next { u with save := { u.save with pfwSince := some u.clock, pfwOff := none } }) ∧
  (∀ (s : State), s.pwr.pfw = false →
    s.mode.mode = .brup ∧ s.pwr.state ≠ .shutting ∧ s.pwr.state ≠ .faulted →
    s.save.run = none →
    exec (.signalFilterAccept true true) s = .next (({ s with pwr := { s.pwr with pfw := true } } : State).shutdown 0x10)) ∧
  (∀ (s : State), s.pwr.faultIn = false ∧ s.pwr.faultOut = false →
    s.mode.mode ≠ .brup ∧ s.pwr.state ≠ .sequencing →
    exec (.signalFilterAccept false true) s = .next (({ s with pwr := { s.pwr with faultIn := true } } : State).commitSave 3 false false)) ∧
  (∀ (s : State) (t : Nat), s.save.pfwSince = some t →
    s.pwr.pfw = true →
    t + 200 * us ≤ s.clock →
    exec (.pfwHoldExpiry) s = .next (s.commitSave 1 false false)) ∧
  (∀ (s : State) (t : Nat), s.save.armed = some t →
    t + s.devP bTide 1 * ms ≤ s.clock →
    exec (.armedMaxExpiry) s = .next (s.commitSave 7 false false)) ∧
  (∀ (s : State) (a t : Nat), s.save.armed = some a →
    s.save.pfwOff = some t →
    s.pwr.pfw = false →
    t + 5 * ms ≤ s.clock →
    exec (.saveArmedLapse) s = .next (({ s with save := { s.save with armed := none, pfwSince := none, pfwOff := none } }).log 0 3 bTide 1023 0x06 0 ((s.clock - a) / us))) ∧
  (∀ (s : State) (i : Nat), i < 16 ∧ s.chanClass i = 1 ∧ s.pwr.pg.getLsbD i = true →
    s.save.run = none ∧ s.pwr.state = .running →
    s.mode.mode ≠ .brup →
    exec (.inputPowerGoodDrop i) s = .next (({ s with pwr := { s.pwr with pg := clearBits s.pwr.pg [i] } } : State).commitSave 2 false false)) ∧
  (∀ (s : State) (i : Nat), i < 16 ∧ s.chanClass i = 2 ∧ s.pwr.pg.getLsbD i = true →
    s.save.run = none ∧ s.pwr.state = .running ∧ s.pwr.en.getLsbD i = true →
    s.mode.mode ≠ .brup →
    let u : State := { s with pwr := { s.pwr with pg := clearBits s.pwr.pg [i], faultKind := 3, faultCh := i } }
    exec (.deviceRailDrop i) s = .next ((u.railWarn i).assertFault.allOff)) ∧
  (∀ (s : State) (i : Nat), i < 16 ∧ s.chanClass i = 5 ∧ s.pwr.pg.getLsbD i = true →
    s.save.run = none ∧ s.pwr.state = .running ∧ s.pwr.en.getLsbD i = true →
    s.mode.mode ≠ .brup →
    let u : State := { s with pwr := { s.pwr with pg := clearBits s.pwr.pg [i], faultKind := 3, faultCh := i } }
    exec (.applianceRailDrop i) s = .next ((u.railWarn i).assertFault.railSave)) ∧
  (∀ (s : State) (i : Nat), i < 16 ∧ s.chanClass i = 4 ∧ s.pwr.pg.getLsbD i = true →
    s.save.run = none ∧ s.pwr.state = .running ∧ s.pwr.en.getLsbD i = true →
    s.mode.mode ≠ .brup →
    let u : State := { s with pwr := { s.pwr with pg := clearBits s.pwr.pg [i], faultKind := 3, faultCh := i } }
    exec (.memoryRailDrop i) s = .next (((u.railFence i).railWarn i).assertFault.railSave)) ∧
  (∀ (s : State), s.pwr.faultIn = false ∧ s.pwr.faultOut = false →
    s.pwr.state = .sequencing ∧ 0 < s.pwr.step →
    exec (.faultLLow) s = .next (({ s with pwr := { s.pwr with faultIn := true } } : State).seqFault 4 0)) ∧
  (∀ (s : State), s.pwr.bbuOk = true →
    s.mode.mode ≠ .stby ∧ s.mode.mode ≠ .save →
    exec (.bbuOkLow) s = .next (({ s with pwr := { s.pwr with bbuOk := false } } : State).log 0 3 bPwr 1023 0x06 0 0)) ∧
  (∀ (s : State) (cause : Nat), s.saveDue cause = true →
    cause ≠ 4 →
    exec (.saveCommit cause) s = .next (s.commitSave cause false false))

/-- Power-on reset leaves STBY with nothing volatile: no context, no fence, no byte of DRAM, the fuses sensed and the power cycle counted. START is answered MODE outside STBY, held before the step table is read, and then answered OK, FWBATT or MODE; an accepted one resets every tile and begins the rail sequence in BRUP, with DRAM contents as they were. A slot that passes its checks runs and takes the mark; a failed one leaves the other to be tried, and after both have failed the device is in the recovery form of MAIN. Firmware start loads the master count as R34 gives and appends a floor entry 2^40 above it. Where a clause meets log entries 9, 10 and 92, it states the model's reading named there. -/
def Obligations.StartOfTheDevice : Prop :=
  (∀ (s : State), Answers (exec (.powerOnReset) s) (fun t => t.mode = State.reset.mode ∧ t.ctxs = [] ∧ t.dram = [] ∧ t.pwr = State.reset.pwr ∧ t.fences = State.reset.fences ∧
      t.tides = [] ∧ t.params = [] ∧ t.keys = [] ∧ t.fuse.sensed = s.fuse.cells ∧ t.recd.pcycle = s.recd.pcycle + 1 ∧ t.fw.slotA = s.fw.slotA ∧ t.fw.slotB = s.fw.slotB ∧
      t.fw.stored = s.fw.stored ∧ t.time.floor = s.time.floor ∧ t.save.recs = s.save.recs ∧ t.pending = s.pending)) ∧
  (∀ (s : State), s.mode.mode = .stby ∧ s.boot.tableRead = false ∧ s.boot.heldStart = false →
    s.life ≠ .retired →
    let u := s.fw.stored.params.foldl (fun s p => if pidBlock (p.1 % 2 ^ 24) = bPwr then s.setParam p.1 0 p.2 else s) s
    exec (.stepTableRead) s = .next ({ u with boot := { u.boot with tableRead := true, heldStart := false } } : State).latchPwr) ∧
  (∀ (s : State), s.mode.mode ≠ .stby →
    exec (.start) s = .next ((s.log 0 3 bPwr 1023 0x07 Status.mode.code 0).emit (.mctp 0x03 [BitVec.ofNat 64 Status.mode.code]))) ∧
  (∀ (s : State), s.mode.mode = .stby ∧ s.boot.tableRead = false →
    exec (.start) s = .next { s with boot := { s.boot with heldStart := true } }) ∧
  (∀ (s : State), s.mode.mode = .stby ∧ s.boot.tableRead = true →
    s.life ≠ .retired ∧ 0 < s.devP bPwr 0 ∧ s.pwr.bbuOk = true →
    exec (.start) s = .next (({ s with boot := { s.boot with autoBlock := false } }.emit (.mctp 0x03 [0])).takeStart)) ∧
  (∀ (s : State), s.mode.mode = .stby ∧ s.boot.tableRead = true →
    s.life ≠ .retired ∧ 0 < s.devP bPwr 0 ∧ s.pwr.bbuOk = false →
    exec (.start) s = .next ((s.log 0 3 bPwr 1023 0x07 Status.fwbatt.code 0).emit (.mctp 0x03 [BitVec.ofNat 64 Status.fwbatt.code]))) ∧
  (∀ (s : State), s.mode.mode = .stby ∧ s.boot.tableRead = true →
    s.devP bPwr 2 = 1 ∧ s.pwr.bbuOk = true ∧ s.pwr.pfw = false ∧ 0 < s.devP bPwr 0 ∧ s.life ≠ .retired →
    s.boot.startHold = false ∧ s.boot.autoBlock = false ∧ s.pwr.wanted = false →
    exec (.autoStart) s = .next (if s.pwr.faultIn then { s with pwr := { s.pwr with wanted := true } } else s.beginStart)) ∧
  (∀ (s : State), s.beginStart.mode.mode = .brup ∧ s.beginStart.pwr.state = .sequencing ∧ s.beginStart.pwr.step = 0 ∧ s.beginStart.pwr.toRaise = true ∧
      s.beginStart.fences.inForce = [] ∧ s.beginStart.ctxs = [] ∧ s.beginStart.tides = []) ∧
  (∀ (s : State) (vendor digest owner : Bool) (k : Nat), s.mode.mode = .brup ∧ s.boot.done.contains 3 = true ∧ s.boot.done.contains 4 = false →
    k = (if s.boot.failed.contains s.fw.mark then 1 - s.fw.mark else s.fw.mark) →
    s.slotCheck (s.slot k) vendor digest owner = 0 →
    exec (.bootSlotCheck vendor digest owner) s = .next { s with boot := { s.boot with slot := k, fallback := decide (k ≠ s.fw.mark), done := insertNat 4 s.boot.done }, fw := { s.fw with mark := k } }) ∧
  (∀ (s : State) (vendor digest owner : Bool), s.mode.mode = .brup ∧ s.boot.done.contains 3 = true ∧ s.boot.done.contains 4 = false →
    s.boot.failed = [] →
    s.slotCheck (s.slot s.fw.mark) vendor digest owner ≠ 0 →
    let u := s.log 0 5 bFw 1023 0x08 (s.slotCheck (s.slot s.fw.mark) vendor digest owner) s.fw.mark
    exec (.bootSlotCheck vendor digest owner) s = .next { u with boot := { u.boot with failed := insertNat s.fw.mark u.boot.failed, failStep := 4 } }) ∧
  (∀ (s : State) (programs : List (Nat × Word)), s.mode.mode = .brup ∧ s.boot.done.contains 4 = true ∧ s.boot.done.contains 5 = false →
    Answers (exec (.firmwareStart false false [] [] programs) s) (fun t =>
      t.time.master = { on := true, count := max s.time.floor (s.recd.tmMark + 2 ^ 32) } ∧ t.time.floor = max s.time.floor (s.recd.tmMark + 2 ^ 32) + 2 ^ 40 ∧
      t.boot.done.contains 5 = true ∧ t.fw.locks = s.fw.stored.locks ∧ t.progs = programs ∧ t.mode = s.mode ∧ t.dram = s.dram))

/-- A trained UCIe link starts the tile's Tidemark at the master's, and in BRUP the last tile's ends step 6; a mount with parameter pages that cannot be read or that break R254 fences the tile with cause 0x33, one without a superblock with cause 0x35, and any other mounts the tile; of two units the one with a valid record is authoritative, of two valid ones that of the higher epoch, and of two without none; the twin's summary is taken for that once this unit has its own; without a twin the unit is lone after `sys.pair_wait`, and asks for the lease only with a valid record; each tile writes its OPEN record, and then the device names the tide from BRUP to RSTR. Where a clause meets log entries 10, 106, 107, 127 and 129, it states the model's reading named there. -/
def Obligations.BringUp : Prop :=
  (∀ (s : State) (tile : Nat), tile < s.tiles ∧ s.boot.done.contains 5 = true ∧ s.boot.ucie.contains tile = false →
    s.mode.mode ≠ .stby →
    s.tileFenced tile = false →
    (s.stepRuns 5 = false ∨ ∃ k ∈ s.liveTiles, k ≠ tile ∧ k ∉ s.boot.ucie) →
    exec (.ucieLinkTrained tile) s = .next { s with time := { s.time with locals := Store.write s.time.locals tile { on := true, count := s.master } {} }, boot := { s.boot with ucie := insertNat tile s.boot.ucie } }) ∧
  (∀ (s : State) (tile : Nat), tile < s.tiles ∧ s.boot.done.contains 5 = true ∧ s.boot.ucie.contains tile = false →
    s.tileFenced tile = false →
    (s.mode.mode = .brup ∧ ∀ k ∈ s.liveTiles, k = tile ∨ k ∈ s.boot.ucie) →
    exec (.ucieLinkTrained tile) s = .next (({ s with time := { s.time with locals := Store.write s.time.locals tile { on := true, count := s.master } {} }, boot := { s.boot with ucie := insertNat tile s.boot.ucie, done := insertNat 6 s.boot.done } } : State).stepTen)) ∧
  (∀ (s : State) (tile bad : Nat) (page : Option NandPage) (system : Bool), tile < s.tiles ∧ s.boot.mounted.contains tile = false ∧ s.boot.ucie.contains tile = true →
    s.mode.mode = .brup ∧ s.boot.done.contains 6 = true ∧ s.tileFenced tile = false →
    (∀ p, page = some p → nandOk p = false) →
    exec (.thatchMount tile page ⟨bad, system⟩) s = .next ((({ s with boot := { s.boot with failStep := 9 } } : State).setTh tile { s.th tile with state := 2 }).raiseFence 0xA 0 tile 0x33 0)) ∧
  (∀ (s : State) (tile bad : Nat) (p : NandPage), tile < s.tiles ∧ s.boot.mounted.contains tile = false ∧ s.boot.ucie.contains tile = true →
    s.mode.mode = .brup ∧ s.boot.done.contains 6 = true ∧ s.tileFenced tile = false →
    nandOk p = true →
    exec (.thatchMount tile (some p) ⟨bad, false⟩) s = .next (({ s with boot := { s.boot with failStep := 9 } } : State).raiseFence 0xA 0 tile 0x35 0)) ∧
  (∀ (s : State) (tile : Nat) (p : NandPage), tile < s.tiles ∧ s.boot.mounted.contains tile = false ∧ s.boot.ucie.contains tile = true →
    s.mode.mode = .brup ∧ s.boot.done.contains 6 = true ∧ s.tileFenced tile = false →
    nandOk p = true →
    (s.th tile).journal = [] →
    Answers (exec (.thatchMount tile (some p) ⟨0, true⟩) s) (fun t => t.boot.mounted.contains tile = true ∧ (t.th tile).state = 1 ∧ (t.th tile).blocks = p.blocks ∧ t.dram = s.dram)) ∧
  (∀ (s : State) (epoch : Nat) (lastSeq : List Nat) (valid preferred : Bool) (m : Summary), s.pairId ≠ 0 →
    s.mode.mode = .brup ∨ s.mode.mode = .rstr →
    s.boot.own = some m →
    s.boot.auth = false ∧ s.boot.twinAuth = false ∧ s.boot.decided = false →
    let w : Summary := { epoch, lastSeq, valid, preferred }
    exec (.recordSummary epoch lastSeq valid preferred) s = .next (({ s with boot := { s.boot with twin := some w } } : State).decideAuth m w)) ∧
  (∀ (a b : Summary), a.valid ≠ b.valid →
    authority a b = if a.valid then .self else .twin) ∧
  (∀ (a b : Summary), a.valid = true ∧ b.valid = true →
    b.epoch < a.epoch →
    authority a b = .self ∧ authority b a = .twin) ∧
  (∀ (a b : Summary), a.valid = false ∧ b.valid = false →
    authority a b = .neither) ∧
  (∀ (s : State) (m : Summary), s.boot.own = some m ∧ s.boot.twin = none →
    s.pairId ≠ 0 ∧ s.boot.decided = false ∧ s.mode.mode = .brup →
    s.boot.pairSince + s.devP bSys 6 * sec ≤ s.clock →
    let u := { s with boot := { s.boot with lone := true, decided := true } }
    exec (.pairWaitExpiry) s = .next (if m.valid then u.requestAuth false else u)) ∧
  (∀ (s : State) (tile : Nat), tile < s.tiles ∧ s.tileFenced tile = false ∧ (s.tl tile).opened = false →
    s.mode.mode = .brup ∧ s.bringReady = true →
    let w := saveWords [word [(32, 0x56534C50), (16, 1), (4, 1), (0, tile)], BitVec.ofNat 64 s.epoch, 0, BitVec.ofNat 64 (s.localCount tile), 0, 0, 0, 0, 0, 0, 0, 0, 0, 0, 0]
    exec (.openRecordWrite tile) s = .next ({ s with save := { s.save with recs := Store.write s.save.recs tile w [] } }.setTl tile { s.tl tile with opened := true })) ∧
  (∀ (s : State), s.mode.mode = .brup ∧ s.bringReady = true →
    s.liveTiles.all (fun t => (s.tl t).opened) = true →
    exec (.bringUpComplete) s = .next (s.nameMode .rstr 0x0E))

/-- The restore loader takes the home-table pages first and then group after group, a demanded page ahead of them; the verify-only path goes line by line; when the restore has ended everywhere the device names the tide to ACTV, SOLO or MIRS by who is authoritative; a warm reset takes effect at once in BRUP, and in a serving mode after a planned save; a tile reset is of a fenced tile other than tile 0 and leaves memory; the save ends when every tile has ended phase 10, or by its timeout with the input absent. Where a clause meets log entries 49, 124 and 125, it states the model's reading named there. -/
def Obligations.RestoreAndResets : Prop :=
  (∀ (s : State) (tile : Nat), tile < s.tiles ∧ s.restoring tile = true ∧ Store.read s.boot.paths tile 0 = 1 →
    (s.tl tile).htLoaded = false →
    let u := (s.loadHome tile).loadOwners tile
    exec (.restoreLoad tile) s = .next (u.setTl tile { u.tl tile with htLoaded := true })) ∧
  (∀ (s : State) (tile g : Nat), tile < s.tiles ∧ s.restoring tile = true ∧ Store.read s.boot.paths tile 0 = 1 →
    (s.tl tile).htLoaded = true ∧ s.boot.tileReset.contains tile = false →
    s.nextGroup tile = some g →
    exec (.restoreLoad tile) s = .next ((s.loadGroup tile g).kick tile [.load])) ∧
  (∀ (s : State) (tile : Nat), tile < s.tiles ∧ s.restoring tile = true ∧ Store.read s.boot.paths tile 0 = 1 →
    (s.tl tile).htLoaded = true ∧ s.boot.tileReset.contains tile = false →
    s.nextGroup tile = none →
    exec (.restoreLoad tile) s = .next ((s.endRestore tile).kick tile [.load])) ∧
  (∀ (s : State) (tile : Nat), tile < s.tiles ∧ s.restoring tile = true ∧ Store.read s.boot.paths tile 0 = 0 →
    (s.tl tile).htLoaded = true ∧ s.boot.tileReset.contains tile = false →
    exec (.restoreLoad tile) s = .next { s with boot := { s.boot with restored := insertNat tile s.boot.restored } }) ∧
  (∀ (s : State) (tile page : Nat), s.waits.any (fun w => decide (w.why = .load ∧ w.req.owner = tile ∧ w.req.toff / 4096 = page)) = true →
    s.needsLoad tile (page * 4096) = true →
    (s.tl tile).htLoaded = true ∧ Store.read s.boot.paths tile 0 ≠ 2 →
    let u := s.loadPage tile page
    exec (.restoreDemandFault tile page) s = .next ((u.setTl tile { u.tl tile with pages := insertNat page (u.tl tile).pages }).kick tile [.load])) ∧
  (∀ (s : State) (tile : Nat) (err : BitVec 640), tile < s.tiles ∧ s.restoring tile = true ∧ s.mode.mode = .rstr ∧ Store.read s.boot.paths tile 0 = 2 →
    (s.lineCheck tile (s.tl tile).verifyAt err).good = true ∧ (s.lineGot tile (s.tl tile).verifyAt err).2 = false →
    ((s.tl tile).verifyAt + 64) % 2097152 ≠ 0 ∧ (s.tl tile).verifyAt + 64 < s.dfaSize tile →
    exec (.verifyLine tile err) s = .next (s.setTl tile { s.tl tile with verifyAt := (s.tl tile).verifyAt + 64 })) ∧
  (∀ (s u : State) (tile : Nat) (err : BitVec 640), tile < s.tiles ∧ s.restoring tile = true ∧ s.mode.mode = .rstr ∧ Store.read s.boot.paths tile 0 = 2 →
    (s.lineCheck tile (s.tl tile).verifyAt err).good = false →
    u = s.repairLine tile (s.tl tile).verifyAt →
    ((s.tl tile).verifyAt + 64) % 2097152 ≠ 0 ∧ (s.tl tile).verifyAt + 64 < u.dfaSize tile →
    exec (.verifyLine tile err) s = .next (u.setTl tile { u.tl tile with verifyAt := (s.tl tile).verifyAt + 64 })) ∧
  (∀ (s : State), s.mode.mode = .rstr ∧ s.restoreDone = true →
    s.boot.auth = true ∧ s.leaseOk = true →
    s.twinUp = true ∧ s.lease.twinMirs = true ∧ s.pairId ≠ 0 →
    exec (.restoreComplete) s = .next (s.bankWritten.nameMode .actv 0x0B)) ∧
  (∀ (s : State), s.mode.mode = .rstr ∧ s.restoreDone = true →
    s.boot.auth = true ∧ s.leaseOk = true →
    s.pairId = 0 →
    exec (.restoreComplete) s = .next (s.bankWritten.nameMode .solo 0x0B)) ∧
  (∀ (s : State), s.mode.mode = .rstr ∧ s.restoreDone = true →
    s.boot.auth = false ∧ s.boot.twinAuth = true →
    exec (.restoreComplete) s = .next (s.bankWritten.nameMode .mirs 0x0B)) ∧
  (∀ (s : State), s.mode.mode = .brup →
    exec (.warmReset) s = .next s.warmStart ∧ s.warmStart.mode.mode = .brup ∧ s.warmStart.mode.cause = 0x0A ∧ s.warmStart.pwr.state = .running ∧ s.warmStart.dram = s.dram ∧ s.warmStart.ctxs = []) ∧
  (∀ (s : State), s.mode.mode = .rstr ∨ s.mode.mode = .actv ∨ s.mode.mode = .mirs ∨ s.mode.mode = .solo →
    let r := ({ s with mode := { s.mode with warmReset := true } } : State).commitSave 5 true true
    exec (.warmReset) s = .next (if r.save.run.isSome then r.finishAll (fun o => decide (o = .save)) .ok (BitVec.ofNat 64 s.master) else r)) ∧
  (∀ (s : State) (tile : Nat), tile ≠ 0 ∧ tile < s.tiles ∧ s.tileFenced tile = true ∧ s.mode.leaving = false →
    exec (.tileReset tile) s = .next (s.resetTile tile) ∧ (s.clearTile tile).dram = s.dram ∧ (s.clearTile tile).ctxs = s.ctxs ∧ (s.clearTile tile).sessions = s.sessions ∧
      (s.clearTile tile).pwr = s.pwr ∧ (s.clearTile tile).fences = s.fences) ∧
  (∀ (s : State) (tile : Nat) (r q : SaveRun), s.save.run = some r →
    r.instant.isSome = true ∧ r.complete.contains tile = false ∧ s.liveTiles.contains tile = true ∧ s.shutting = false →
    (s.saveTile tile).save.run = some q →
    (s.saveTile tile).liveTiles.all (fun t => q.complete.contains t) = false →
    exec (.saveComplete tile) s = .next (s.saveTile tile)) ∧
  (∀ (s : State) (tile : Nat) (r q : SaveRun), s.save.run = some r →
    r.instant.isSome = true ∧ r.complete.contains tile = false ∧ s.liveTiles.contains tile = true ∧ s.shutting = false →
    (s.saveTile tile).save.run = some q →
    (s.saveTile tile).liveTiles.all (fun t => q.complete.contains t) = true →
    exec (.saveComplete tile) s = .next ((s.saveTile tile).endSave q)) ∧
  (∀ (s : State) (r : SaveRun) (f : Nat), s.save.run = some r ∧ r.runFrom = some f →
    s.shutting = false ∧ (∃ k ∈ s.liveTiles, k ∉ r.complete) ∧ s.saveLimit ≤ r.used + (s.clock - f) →
    exec (.saveTimeout) s = .next (s.shutdown (if s.mode.leaving then 0x0C else 0x0F))) ∧
  (∀ (s : State), exec (.aclkStop) s = .next { s with pwr := { s.pwr with aclkStopped := true } })

/-- A read or store of its own tile that the port takes, for which the host has a credit, is translated by its decoder and window and served in its turn, and a store whose store queue is full stays in the ingress buffer; an address that no window maps is a violation of cause 1, counted, kept for the fabric manager and answered, that no byte of DRAM notices, and a store that the mode refuses one of cause 3; a read while a Spring tide holds the ingress waits unseen; a UIO write within one line is one access with the byte mask of its range, and a CXL.io read that falls in BAR0 is one of its registers; an atomic of an unsupported size, a misaligned one and an unsupported request are answered at once; MSI-X vector 1 follows a violation at most once per holdoff; withheld credits return once no condition of Table 3-5 is left, a full merge buffer among them. Where a clause meets log entries 11 and 112, it states the model's reading named there. -/
def Obligations.HostRequests : Prop :=
  (∀ (s : State) (tile link ld tag hpa n x off dpa : Nat) (tiered : Bool), s.takes .mem tile link ld = true ∧ s.hasCredit tile link true = true ∧ s.tideStops tile = false →
    s.lookup tile link ld (hpa / 64 * 64) 64 = .hit n x off dpa tiered →
    s.modeServes .read tile ld = true ∧ dpa / 2 ^ 43 = tile →
    s.slipOff n = none →
    let r : Req := s.withTarget { s.received .mem .read tile link ld tag (hpa / 64 * 64) 64 with mask := Mask.full, sess := n, off, dpa, tiered }
    exec (.cxlMemRead tile link ld tag hpa) s = .next (((s.serveReq r none).noteCredits tile link).keepCredit r)) ∧
  (∀ (s : State) (tile link ld tag hpa n x off dpa : Nat) (tiered : Bool) (mask : Mask) (data : Line) (poison : Bool), s.takes .mem tile link ld = true ∧ s.hasCredit tile link false = true ∧ s.tideStops tile = false →
    s.lookup tile link ld (hpa / 64 * 64) 64 = .hit n x off dpa tiered →
    s.modeServes .store tile ld = true ∧ dpa / 2 ^ 43 = tile →
    s.slipOff n = none →
    s.waits = [] →
    let r : Req := s.withTarget { s.received .mem .store tile link ld tag (hpa / 64 * 64) 64 with mask, data, poison, sess := n, off, dpa, tiered }
    exec (.cxlMemStore tile link ld tag hpa mask data poison) s = .next (((s.serveReq r none).noteCredits tile link).keepCredit r)) ∧
  (∀ (s : State) (tile link ld tag hpa n x off dpa : Nat) (tiered : Bool) (mask : Mask) (data : Line) (poison : Bool), s.takes .mem tile link ld = true ∧ s.hasCredit tile link false = true ∧ s.tideStops tile = false →
    s.lookup tile link ld (hpa / 64 * 64) 64 = .hit n x off dpa tiered →
    s.modeServes .store tile ld = true ∧ dpa / 2 ^ 43 = tile →
    s.slipOff n = none →
    s.queueFull tile link tile = true →
    let r : Req := s.withTarget { s.received .mem .store tile link ld tag (hpa / 64 * 64) 64 with mask, data, poison, sess := n, off, dpa, tiered }
    exec (.cxlMemStore tile link ld tag hpa mask data poison) s = .next ((s.hold r .ingress none none).noteCredits tile link)) ∧
  (∀ (s : State) (tile link ld tag hpa : Nat), s.takes .mem tile link ld = true ∧ s.hasCredit tile link true = true ∧ s.tideStops tile = false →
    s.lookup tile link ld (hpa / 64 * 64) 64 = .viol 1 none →
    Answers (exec (.cxlMemRead tile link ld tag hpa) s) (fun t => t.dram = s.dram ∧ t.eaves = s.eaves ∧ t.wq = s.wq ∧ t.tide = s.tide ∧
      (t.bar tile ld).violReq = ((s.bar tile ld).violReq + 1) % 2 ^ 48 ∧
      t.mgmt.viols = s.mgmt.viols ++ [({ tidemark := s.localCount tile, addr := hpa / 64 * 64, sess := none, pbr := none, reqid := ld, tile, link, ld, cause := 1, op := 1 } : VEntry).words] ∧
      t.out.head? = some (.response tile link tag rOk (BitVec.allOnes 512) true))) ∧
  (∀ (s : State) (tile link ld tag hpa n x off dpa : Nat) (tiered : Bool) (mask : Mask) (data : Line) (poison : Bool), s.takes .mem tile link ld = true ∧ s.hasCredit tile link false = true ∧ s.tideStops tile = false →
    s.lookup tile link ld (hpa / 64 * 64) 64 = .hit n x off dpa tiered →
    s.modeServes .store tile ld = false →
    s.slipOff n = none →
    Answers (exec (.cxlMemStore tile link ld tag hpa mask data poison) s) (fun t => t.dram = s.dram ∧ t.eaves = s.eaves ∧ t.wq = s.wq ∧ t.tide = s.tide ∧
      t.mgmt.viols = s.mgmt.viols ++ [({ tidemark := s.localCount tile, addr := hpa / 64 * 64, sess := some n, pbr := none, reqid := ld, tile, link, ld, cause := 3, op := 2 } : VEntry).words] ∧
      t.out.head? = some (.response tile link tag rOk 0 false))) ∧
  (∀ (s : State) (tile link ld tag hpa : Nat), s.takes .mem tile link ld = true ∧ s.hasCredit tile link true = true ∧ s.tideStops tile = true →
    exec (.cxlMemRead tile link ld tag hpa) s = .next { s with waits := insertWait { req := { s.received .mem .read tile link ld tag (hpa / 64 * 64) 64 with mask := Mask.full }, why := .tideHold, since := s.clock } s.waits }) ∧
  (∀ (s : State) (via : Via) (tile link ld tag hpa len : Nat) (data : List Byte), via ≠ .mem ∧ s.takes via tile link ld = true →
    (s.bar tile ld).base = none →
    0 < len ∧ hpa % 64 + len ≤ 64 →
    exec (.uioRequest via true tile link ld tag hpa len data) s = .next (s.oneLine via { s.received via .store tile link ld tag hpa len with
      mask := partMask (hpa % 64) len, data := Line.ofBytes (List.replicate (hpa % 64) 0 ++ data.take len) })) ∧
  (∀ (s : State) (tile link ld tag b off : Nat), s.ldUp tile ld = true ∧ s.ldLink tile ld = link →
    (s.bar tile ld).base = some b ∧ off + 8 ≤ 0x40000 ∧ (b + off) % 64 + 8 ≤ 64 ∧ off % 64 + 8 ≤ 64 →
    exec (.uioRequest .io false tile link ld tag (b + off) 8 []) s = .next (s.barReadAt tile ld tag off 8)) ∧
  (∀ (s : State) (via : Via) (tile link ld tag hpa : Nat) (a b : BitVec 128), via ≠ .mem ∧ s.takes via tile link ld = true →
    hpa % 8 = 0 →
    exec (.remoteAtomic via .fetchAdd 8 tile link ld tag hpa a b) s = .next (s.oneLine via (s.received via (.fetchAdd 8 a) tile link ld tag hpa 8))) ∧
  (∀ (s : State) (via : Via) (op : Sys2Proof.Atomic) (bytes tile link ld tag hpa : Nat) (a b : BitVec 128), via ≠ .mem ∧ s.takes via tile link ld = true →
    atomicSizeOk op bytes = false ∨ hpa % bytes ≠ 0 →
    exec (.remoteAtomic via op bytes tile link ld tag hpa a b) s = .next (s.emit (.response tile link tag (if atomicSizeOk op bytes then rMalformed else rUnsupported) 0 false))) ∧
  (∀ (s : State) (tile link ld tag : Nat), s.takes .io tile link ld = true →
    exec (.unsupportedRequest tile link ld tag) s = .next { s with out := .response tile link tag rUnsupported 0 false :: s.out }) ∧
  (∀ (s : State) (tile ld : Nat), (s.bar tile ld).vec1Wait = true →
    (s.bar tile ld).vec1At = none →
    exec (.violationInterrupt tile ld) s = .next ((s.setBar tile ld { s.bar tile ld with vec1Wait := false, vec1At := some s.clock }).emit (.msix tile ld 1))) ∧
  (∀ (s : State) (tile ld t0 : Nat), (s.bar tile ld).vec1At = some t0 →
    s.clock < t0 + s.tileP bPort tile 2 * us →
    exec (.violationInterrupt tile ld) s = .next s) ∧
  (∀ (s : State) (tile link : Nat), tile < s.tiles ∧ link < 4 →
    (∀ y ∈ (s.link tile link).heldFor, y ∉ s.blockedFor tile link ∧ (s.pt y).mergeFull = false) ∧ s.readsBlocked tile link = false →
    exec (.creditReturn tile link) s = .next (s.setLink tile link { s.link tile link with heldRwD := false, heldReq := false, heldFor := [], keptRwD := 0, keptReq := 0 })) ∧
  (∀ (s : State) (tile link y : Nat), tile < s.tiles ∧ link < 4 →
    y ∈ (s.link tile link).heldFor ∧ (s.pt y).mergeFull = true →
    Answers (exec (.creditReturn tile link) s) (fun t => (t.link tile link).heldRwD = true ∧ (t.link tile link).keptRwD = (s.link tile link).keptRwD ∧ y ∈ (t.link tile link).heldFor))

/-- A request takes effect once its gate is open and no earlier request waits for its line, and a request of pinned local memory in its turn is served by its kind; a read is answered with the Eaves line of its session, else with the newest write-queue entry, else DRAM is read, where no merge-buffer entry holds bytes of the line; a store into an Eaves line merges its bytes there and leaves the others; a request that waits for PEND, a home, a bitmap line, room, an entry or a stamp is served when that comes; a merge-buffer entry is written out in the order of urgency and age; a dirty line is evicted unless its write must wait; a DRAM read that fails its check is repeated, up to three times, and one that passes is delivered. Where a clause meets log entries 109, 116 and 140, it states the model's reading named there. -/
def Obligations.ReadAndStorePath : Prop :=
  (∀ (s : State) (r : Req) (prev : Option (Nat × Nat)), s.gateOpen r = false →
    s.serveReq r prev = (s.tallyOnce r 1 r.owner 1 0x0001).hold (r.note 1) .gate none prev) ∧
  (∀ (s : State) (r : Req) (prev : Option (Nat × Nat)) (w : Wait), s.gateOpen r = true →
    w ∈ s.waits ∧ w.req.sameLine r = true ∧ w.req.key ≤ r.key →
    s.serveReq r prev = s.hold r .line none prev) ∧
  (∀ (s u : State) (r : Req), s.gateOpen r = true ∧ s.waits = [] ∧ u = s.noteStream r →
    u.inSlip (r.note 5) = false ∧ r.tiered = false →
    u.fences.inForce = [] ∧ u.mode.mode ≠ .rstr →
    (u.pt r.owner).recov = [] ∧ (u.chan r.owner (dfaChan r.toff)).holding = false ∧ u.converting r.owner r.toff = false →
    u.pendOf r.owner r.toff = 0 ∧ u.mergeOf r.owner r.toff = none →
    s.serveReq r none = (if r.kind = .read then u.serveRead (r.note 5) r.toff none else if r.kind = .store then u.serveStore (r.note 5) r.toff none else u.serveAtomic (r.note 5) r.toff none)) ∧
  (∀ (s : State) (r : Req) (a k : Nat), s.evFind r.owner a r.sess = some k →
    s.serveRead r a none = ((((s.tallyLookup r a).touchWay k).setEv k { s.evLine k with pf := false }).answer (r.note 2) rOk (s.evLine k).data (s.evLine k).poison .ok)) ∧
  (∀ (s : State) (r : Req) (a : Nat) (e : WqEnt), s.evFind r.owner a r.sess = none →
    s.mergeOf r.owner r.toff = none →
    s.wqNewest r.owner a = some e →
    let u := s.tallyLookup r a
    s.serveRead r a none = (u.answer (r.note 2) rOk (u.cipherLine false r.owner (r.toff / 64 * 64) a e.data) e.poison .ok)) ∧
  (∀ (s : State) (r : Req) (a : Nat), s.evFind r.owner a r.sess = none →
    s.mergeOf r.owner r.toff = none →
    s.wqNewest r.owner a = none →
    s.rqFull r.owner a .demand = false →
    s.serveRead r a none = ((s.tallyLookup r a).enqRead r.owner a r.toff r.sess .demand r.stamp r.lat).hold (r.note 2) .dram none none) ∧
  (∀ (s : State) (r : Req) (a k : Nat), s.evFind r.owner a r.sess = some k →
    r.poison = false →
    (s.placeStore r a).evLine k = { s.evLine k with dirty := true, pf := false, poison := (s.evLine k).poison && !r.wide, data := if r.wide then r.data else Line.overlay (s.evLine k).data r.data r.mask, pend := (s.evLine k).pend + s.pendStep } ∧
      (∀ j, j ≠ k → (s.placeStore r a).evLine j = s.evLine j) ∧ (s.placeStore r a).dram = s.dram ∧ (s.placeStore r a).wq = s.wq) ∧
  (∀ (s : State) (owner source stamp : Nat), owner < s.tiles ∧ source < s.tiles ∧ owner ≠ source →
    let u := s.setPt owner { s.pt owner with stamps := Store.write (s.pt owner).stamps source (max stamp (Store.read (s.pt owner).stamps source 0)) 0 }
    exec (.orderGateRelease owner source stamp) s = .next (u.release (fun w => decide (w.why = .gate ∧ w.req.owner = owner) && u.gateOpen w.req))) ∧
  (∀ (s : State) (tile : Nat) (w : Wait), s.waits = [w] ∧ w.why = .pend ∧ w.req.owner = tile →
    let u := ({ s with waits := [] } : State).serveReq w.req w.stall
    exec (.unackedReadRelease tile) s = .next (State.settle (2 * u.waits.length + 2) u)) ∧
  (∀ (s : State) (tile page : Nat) (e : RqEnt), s.nextRead (subKey tile (s.homeAddr tile (page * 8) / 64 * 64)) = some e →
    e.dfa = s.homeAddr tile (page * 8) / 64 * 64 ∧ e.why = .homeTlb →
    exec (.homeTlbFill tile page) s = .next (s.returnRead (subKey tile e.dfa) e 0)) ∧
  (∀ (s : State) (tile group : Nat) (e : RqEnt), s.nextRead (subKey tile ((s.bitmapBase tile + group * 64) / 64 * 64)) = some e →
    e.dfa = (s.bitmapBase tile + group * 64) / 64 * 64 ∧ e.why = .bitmap →
    exec (.tidelineBitmapFill tile group) s = .next (s.returnRead (subKey tile e.dfa) e 0)) ∧
  (∀ (s : State) (tile : Nat), s.hasRoom tile = true →
    exec (.tidelineRoomGrant tile) s = .next (s.release (fun w => decide (w.req.owner = tile) && [Why.room].contains w.why))) ∧
  (∀ (s : State) (tile : Nat), (s.pt tile).merge.length < 512 →
    exec (.mergeEntryFree tile) s = .next (s.release (fun w => decide (w.req.owner = tile) && [Why.merge].contains w.why))) ∧
  (∀ (s : State) (tile off : Nat) (m : Merge), s.mergeOf tile off = some m →
    m.mask = Mask.full ∧ m.writing = false ∧ s.lineFenced tile m.dfa = false ∧ s.writeWaits tile m.dfa = false →
    (∀ x ∈ (s.pt tile).merge, s.outDue tile x = false ∨ s.outRank tile m ≤ s.outRank tile x) →
    exec (.mergeWriteOut tile off) s = .next ((s.mergeOut tile m 0 false).kick tile [.writeOut, .merge])) ∧
  (∀ (s : State) (tile off : Nat) (m : Merge), s.mergeOf tile off = some m →
    s.entryAged tile m = true →
    m.mask ≠ Mask.full ∧ m.writing = false ∧ s.lineFenced tile m.dfa = false →
    s.wqNewest tile m.dfa = none ∧ s.rqFull tile m.dfa .mergeOut = false →
    exec (.mergeEntryAge tile off) s = .next (((s.tally tile 4 0x0002 {}).setMerge tile { m with writing := true }).enqRead tile m.dfa m.off m.sess .mergeOut m.stamp m.lat)) ∧
  (∀ (s : State) (tile set way : Nat), tile < s.tiles ∧ set < 2 ^ 17 ∧ way < 16 →
    s.writeWaits tile (s.evLine (evKey tile set way)).dfa = false →
    exec (.eavesEviction tile set way) s = .next ((s.cleanWay (evKey tile set way)).kick tile [.evict])) ∧
  (∀ (s : State) (tile set way : Nat), s.writeWaits tile (s.evLine (evKey tile set way)).dfa = true →
    exec (.eavesEviction tile set way) s = .next s) ∧
  (∀ (s : State) (tile sess ld n e : Nat) (x : Stream) (st : Int) (l : Nat), (s.pt tile).streams.find? (fun x => decide (x.sess = sess ∧ x.ld = ld)) = some x →
    x.trained = some st ∧ x.lastRead = some l ∧ x.ahead < s.tileP bEaves tile 1 →
    s.extentAt tile (Int.toNat ((l : Int) + st * (x.ahead + 1)) * 64 % 2 ^ 43) = some (n, e) ∧ (s.ext n e).tiered = false →
    s.extentAt tile (l * 64 % 2 ^ 43) = some (n, e) ∧ Int.toNat ((l : Int) + st * (x.ahead + 1)) * 64 / 2 ^ 43 = tile →
    s.slipOff n = none →
    s.evFind tile (Int.toNat ((l : Int) + st * (x.ahead + 1)) * 64 % 2 ^ 43) sess = none ∧ s.lineFenced tile (Int.toNat ((l : Int) + st * (x.ahead + 1)) * 64 % 2 ^ 43) = false →
    (s.rqOf (subKey tile (Int.toNat ((l : Int) + st * (x.ahead + 1)) * 64 % 2 ^ 43))).length ≤ 48 →
    let off := Int.toNat ((l : Int) + st * (x.ahead + 1)) * 64 % 2 ^ 43
    let u := s.setPt tile { s.pt tile with streams := (s.pt tile).streams.map (fun y => if y = x then { y with ahead := y.ahead + 1 } else y) }
    exec (.stridePrefetch tile sess ld) s = .next ((u.enqRead tile off off sess (.prefetch sess) (s.localCount tile) 0).tally tile 35 0x0001 { sess := some sess, tile, cls := some 3 })) ∧
  (∀ (s : State) (tile channel sub : Nat) (err : BitVec 640) (e : RqEnt), channel < 4 ∧ sub < 2 →
    s.nextRead (8 * tile + 2 * channel + sub) = some e →
    (((s.setRq (8 * tile + 2 * channel + sub) ((s.rqOf (8 * tile + 2 * channel + sub)).erase e)).touchRow tile e.dfa).tally tile (5 + channel) 0x0001 { tile }).lineCheck tile e.dfa err = .bad →
    e.tries < 3 →
    let k := 8 * tile + 2 * channel + sub
    let u := ((s.setRq k ((s.rqOf k).erase e)).touchRow tile e.dfa).tally tile (5 + channel) 0x0001 { tile }
    exec (.dramReadReturn tile channel sub err) s = .next (u.setRq (subKey tile e.dfa) ({ e with tries := e.tries + 1 } :: u.rqOf (subKey tile e.dfa)))) ∧
  (∀ (s : State) (tile channel sub : Nat) (e : RqEnt), channel < 4 ∧ sub < 2 →
    s.nextRead (8 * tile + 2 * channel + sub) = some e →
    e.tries = 0 →
    (((s.setRq (8 * tile + 2 * channel + sub) ((s.rqOf (8 * tile + 2 * channel + sub)).erase e)).touchRow tile e.dfa).tally tile (5 + channel) 0x0001 { tile }).lineCheck tile e.dfa 0 = .pass →
    let k := 8 * tile + 2 * channel + sub
    let u := ((s.setRq k ((s.rqOf k).erase e)).touchRow tile e.dfa).tally tile (5 + channel) 0x0001 { tile }
    let g := u.readLine tile e.dfa (u.lineGot tile e.dfa 0)
    exec (.dramReadReturn tile channel sub 0) s = .next ((u.deliver tile e g.1 g.2).kick tile [.readq])) ∧
  (∀ (s : State) (tile link tag : Nat) (w : Wait), s.waits.find? (fun w => w.stall.isSome && decide (w.req.tile = tile ∧ w.req.link = link ∧ w.req.tag = tag) && s.due (w.req.since + w.req.exempt) ((s.param (pid bSess 1023 4) w.req.sess).toNat * us)) = some w →
    w.req.via = some .mem ∧ w.req.kind = .read →
    let r := w.req
    let u := (((({ s with waits := s.waits.erase w } : State).endStall r w.stall).countP (pid bSess r.owner 5) r.sess).log r.owner 4 bSess r.owner 0x03 4 (r.sess * 2 ^ 43 + r.toff)).answer r rOk (BitVec.allOnes 512) true .stallto
    exec (.hardTimeout tile link tag) s = .next (State.settle (2 * u.waits.length + 2) u))

/-- From LOCKED or DONE the word U1 at offset 0 makes the page HALF, and its complement at offset 8 within 1 us makes it OPEN; in OPEN a word from 0x40 to 0xFF0 is stored, and a commit word with the count and the CRC-32C of the program queues it; any other word locks the page and counts one stray write, and so does an OPEN page without a write for 100 us; a write to a QUEUED or RUNNING page is one stray write and changes nothing else. Where a clause meets log entries 45 and 139, it states the model's reading named there. -/
def Obligations.SlipwayProtocol : Prop :=
  (∀ (s : State) (n stamp : Nat), (s.sess n).slip.state = .locked ∨ (s.sess n).slip.state = .done →
    s.slipWord n 0 (slipU1 n) stamp = (s.setSlip n { (s.sess n).slip with state := .half, t1 := stamp, words := [], wrote := [], entered := false }, true)) ∧
  (∀ (s : State) (n stamp : Nat), (s.sess n).slip.state = .half →
    stamp ≤ (s.sess n).slip.t1 + 4000 →
    s.slipWord n 8 (~~~ slipU1 n) stamp = (s.setSlip n { (s.sess n).slip with state := .open_, words := [], wrote := [] }, true)) ∧
  (∀ (s : State) (n stamp : Nat), (s.sess n).slip.state = .half →
    (s.sess n).slip.t1 + 4000 < stamp →
    s.slipWord n 8 (~~~ slipU1 n) stamp = (s.slipBreak n, false)) ∧
  (∀ (s : State) (n off stamp : Nat) (w : Word), (s.sess n).slip.state = .open_ →
    0x40 ≤ off ∧ off ≤ 0xFF0 →
    s.slipWord n off w stamp = (s.setSlip n { (s.sess n).slip with words := Store.write (s.sess n).slip.words off w 0, wrote := insertNat off (s.sess n).slip.wrote }, true)) ∧
  (∀ (s : State) (n stamp : Nat) (w : Word), (s.sess n).slip.state = .open_ →
    fld w 63 32 ≠ (crc32cWords ((List.range (fld w 8 0)).map (fun i => Store.read (s.sess n).slip.words (0x40 + 8 * i) 0))).toNat →
    s.slipWord n 0xFF8 w stamp = (((s.setSlip n { (s.sess n).slip with lastStat := 0x14 }).slipBreak n), true)) ∧
  (∀ (s : State) (tile link ld tag hpa n x off dpa : Nat) (tiered : Bool) (mask : Mask) (data : Line), s.takes .mem tile link ld = true ∧ s.hasCredit tile link false = true ∧ s.tideStops tile = false →
    s.lookup tile link ld (hpa / 64 * 64) 64 = .hit n x off dpa tiered →
    s.slipOff n = some (off / 4096 * 4096) ∧ s.slipServes = true →
    let r : Req := s.withTarget { s.received .mem .store tile link ld tag (hpa / 64 * 64) 64 with mask, data, sess := n, off, dpa, tiered }
    exec (.slipwayWrite tile link ld tag hpa mask data) s = .next ((s.serveReq r none).keepCredit r)) ∧
  (∀ (s u : State) (r : Req) (prev : Option (Nat × Nat)), s.gateOpen r = true ∧ s.waits = [] ∧ u = s.noteStream r →
    u.inSlip (r.note 5) = true ∧ r.kind = .store →
    s.serveReq r prev = (u.slipWrite (r.note 5)).answer (r.note 5) rOk 0 false .ok) ∧
  (∀ (s : State) (n : Nat), (s.sess n).slip.state = .open_ →
    (s.sess n).slip.lastWrite + 100 * us ≤ s.clock →
    exec (.slipwayIdleTimeout n) s = .next ((s.setSlip n { (s.sess n).slip with state := .locked, words := [], wrote := [], entered := false }).countP (pid bSess 1023 2) n))

/-- A link that may train comes up at the lower of the partner's rate and its own limit; PERST_L and a hot reset reset the port, in which waiting host requests of the link go without a response, its LDs lose their decoders and their SPDM sessions, and DRAM, Eaves, sessions and bindings stay; a configuration request gets Retry until step 5 has ended and then reads the configuration space, sets VC1 or places BAR0; GPF phases complete and change nothing; a decoder with 3, 6 or 12 ways fails its commit; containment mode is refused and an integrity failure makes the stream insecure; slot 0 of the certificates is written in MFG alone. The mailbox return codes are PRESUMED (CXL 3.1). Where a clause meets log entries 40, 46 and 114, it states the model's reading named there. -/
def Obligations.LinksAndResets : Prop :=
  (∀ (s : State) (tile link partner width : Nat), s.mayTrain tile link = true →
    width ∈ [1, 2, 4, 8, 16] ∧ width * s.linkCount tile ≤ 16 →
    Answers (exec (.hostLinkTrained tile link partner width) s) (fun t => t = s.setLink tile link (t.link tile link) ∧ (t.link tile link).up = true ∧ (t.link tile link).hot = false ∧
      (t.link tile link).width = width ∧ (t.link tile link).rate = min (min partner 3) (s.tileP bPort tile (4 + link)))) ∧
  (∀ (s : State) (tile link : Nat), tile < s.tiles ∧ link < 4 ∧ s.hasLink tile link = true ∧ s.portsLive = true →
    exec (.perstAssert tile link) s = .next ((s.setLink tile link { s.link tile link with perst := true }).portReset tile link)) ∧
  (∀ (s : State) (tile link : Nat), tile < s.tiles ∧ link < 4 ∧ (s.portsLive = false ∨ s.hasLink tile link = false) →
    exec (.perstAssert tile link) s = .next (s.setLink tile link { s.link tile link with perst := true })) ∧
  (∀ (s : State) (tile link : Nat), s.waits.all (fun w => w.req.fromHost && decide (w.req.tile = tile ∧ w.req.link = link)) = true ∧ s.unacked = [] →
    let t := s.portReset tile link
    t.waits = [] ∧ t.out = s.out ∧ t.dram = s.dram ∧ t.eaves = s.eaves ∧ t.sessions = s.sessions ∧ t.binds = s.binds ∧ t.mode = s.mode ∧
      t.link tile link = { perst := (s.link tile link).perst, hot := (s.link tile link).hot } ∧
      (List.range 16).all (fun d => decide (s.ldLink tile d ≠ link) || ((t.bar tile d).decoders.isEmpty && !(t.bar tile d).spdm)) = true) ∧
  (∀ (s : State) (tile link : Nat), tile < s.tiles ∧ link < 4 →
    exec (.perstDeassert tile link) s = .next (s.setLink tile link { s.link tile link with perst := false })) ∧
  (∀ (s : State) (tile link : Nat), s.portsLive = true ∧ s.hasLink tile link = true ∧ (s.link tile link).up = true →
    exec (.hotReset tile link) s = .next ((s.setLink tile link { s.link tile link with hot := true }).portReset tile link)) ∧
  (∀ (s : State) (tile link ld tag : Nat) (request : CfgReq), s.ioUp tile link = true →
    ¬ (s.ldLink tile ld = link ∧ ld < 16 ∧ 5 ∈ s.boot.done) →
    exec (.configurationRequest tile link ld tag request) s = .next (s.emit (.response tile link tag (if s.ldLink tile ld = link ∧ ld < 16 then rRetry else rUnsupported) 0 false))) ∧
  (∀ (s : State) (tile link ld tag : Nat), s.ioUp tile link = true ∧ s.ldLink tile ld = link ∧ ld < 16 ∧ 5 ∈ s.boot.done →
    (∀ r : CfgReg, exec (.configurationRequest tile link ld tag (.read r)) s = .next { s with out := .response tile link tag rOk ((s.cfgWord tile ld r).setWidth 512) false :: s.out }) ∧
      s.cfgWord tile ld .ids = 0x8840EF50 ∧ s.cfgWord tile ld .flr = 0 ∧ s.cfgWord tile ld .msix = 4 ∧ s.cfgWord tile ld .sriov = 0) ∧
  (∀ (s : State) (tile link ld tag addr : Nat) (v : Bool), s.ioUp tile link = true ∧ s.ldLink tile ld = link ∧ ld < 16 ∧ 5 ∈ s.boot.done →
    exec (.configurationRequest tile link ld tag (.vc1 v)) s = .next ((s.setBar tile ld { s.bar tile ld with vc1 := v }).emit (.response tile link tag rOk 0 false)) ∧
      exec (.configurationRequest tile link ld tag (.bar0 addr)) s = .next ((s.setBar tile ld { s.bar tile ld with base := some (addr / 0x40000 * 0x40000) }).emit (.response tile link tag rOk 0 false))) ∧
  (∀ (s : State) (tile link tag : Nat), s.ioUp tile link = true →
    exec (.gpfPhase1 tile link tag) s = .next { s with out := .response tile link tag rOk 0 false :: s.out }) ∧
  (∀ (s : State) (tile link tag : Nat), s.ioUp tile link = true →
    exec (.gpfPhase2 tile link tag) s = .next { s with out := .response tile link tag rOk 0 false :: s.out }) ∧
  (∀ (s : State) (tile ld decoder base size ways gran pos : Nat), s.ldUp tile ld = true ∧ decoder < 4 →
    Answers (exec (.hdmDecoderCommit tile ld decoder base size ⟨ways, pos⟩ gran) s) (fun t => t = s.setBar tile ld (t.bar tile ld) ∧
      let d := Store.read (t.bar tile ld).decoders decoder {}
      (d.committed = true ↔ ways ∈ [1, 2, 4, 8, 16] ∧ gran ∈ decoderGrans) ∧ (d.err = true ↔ ¬ (ways ∈ [1, 2, 4, 8, 16] ∧ gran ∈ decoderGrans)) ∧ d.base = base ∧ d.size = size ∧ d.ways = ways ∧ d.gran = gran ∧ d.pos = pos)) ∧
  (∀ (s : State) (tile ld keySet : Nat), s.ldUp tile ld = true ∧ (s.bar tile ld).spdm = true →
    exec (.ideKm tile ld keySet true) s = .next (s.emit (.mailbox tile ld 0x1DE 3 []))) ∧
  (∀ (s : State) (tile ld keySet : Nat), s.ldUp tile ld = true ∧ (s.bar tile ld).spdm = true →
    Answers (exec (.ideKm tile ld keySet false) s) (fun t => (t.link tile (s.ldLink tile ld)).ide = .secure ∧ t.dram = s.dram ∧ t.mode = s.mode ∧ t.sessions = s.sessions ∧
      t.out.head? = some (.mailbox tile ld 0x1DE 0 []))) ∧
  (∀ (s : State) (tile link : Nat), s.hasLink tile link = true ∧ (s.link tile link).ide = .secure →
    exec (.ideIntegrityFail tile link) s = .next ((s.setLink tile link { s.link tile link with ide := .insecure }).log tile 5 bPort tile 0x08 0 link)) ∧
  (∀ (s : State) (tile ld : Nat) (cert : List Word), s.ldUp tile ld = true →
    exec (.spdmRequest tile ld (.provision 0 cert)) s = .next (if s.life = .mfg then
      ({ s with fw := { s.fw with certs := Store.write s.fw.certs 0 cert [] } } : State).emit (.mailbox tile ld 0x5BD 0 [])
    else s.emit (.mailbox tile ld 0x5BD 3 []))) ∧
  (∀ (s : State) (tile ld k : Nat), s.ldUp tile ld = true →
    let c := Store.read s.fw.certs k []
    exec (.spdmRequest tile ld (.certificate k)) s = .next { s with out := .mailbox tile ld 0x5BD (if c.isEmpty then 2 else 0) c :: s.out }) ∧
  (∀ (s : State) (tile ld : Nat), s.ldUp tile ld = true →
    Answers (exec (.spdmRequest tile ld (.opens none)) s) (fun t => (t.bar tile ld).spdm = true ∧ t.keys = s.keys ∧ t.dram = s.dram ∧ t.out.head? = some (.mailbox tile ld 0x5BD 0 [])))

/-- A host's Add response accepts an offered window and its Release response releases a window; the device releases one itself at the timeout, with an event of severity 4; Get Poison List and Get Health Info answer and change nothing; Inject Poison and Clear Poison store one line on the management LD and are Unsupported on any other. The mailbox codes are PRESUMED (CXL 3.1). Where a clause meets log entries 42, 43 and 117, it states the model's reading named there. -/
def Obligations.CapacityAndMailbox : Prop :=
  (∀ (s : State) (tile ld window : Nat), s.ldUp tile ld = true →
    exec (.addDynamicCapacityResponse tile ld window) s = .next { s with binds := s.binds.map (fun (b : Bind) =>
      if b.tile = tile ∧ b.ld = ld ∧ b.w = window ∧ b.state = .offered then { b with state := .accepted, since := s.clock } else b) }) ∧
  (∀ (s : State) (tile ld window : Nat), s.ldUp tile ld = true →
    s.binds.any (fun b => bindAt b tile ld window .releasing) = true →
    exec (.releaseDynamicCapacity tile ld window) s = .next ({ s with binds := s.binds.map (fun (b : Bind) =>
      if bindAt b tile ld window .releasing then { b with state := .released, since := s.clock } else b) } : State).pollClose) ∧
  (∀ (s : State) (tile ld window : Nat), s.binds.any (fun b => bindAt b tile ld window .releasing && s.due b.since (s.tileP bPort tile 1 * sec)) = true →
    exec (.dcReleaseTimeout tile ld window) s = .next (((s.releaseWindow tile ld window).log tile 4 bPort tile 0x03 1 window).emit (.event tile ld 0x22 [window]))) ∧
  (∀ (s : State) (tile ld : Nat), s.ldUp tile ld = true →
    Answers (exec (.getPoisonList tile ld) s) (fun t => t = { s with out := .mailbox tile ld 0x4300 0 ((if 256 < (s.poisonOf tile ld).length ∨ s.tileList.any (fun y => (s.it y).overflow) then 1 else 0) :: ((s.poisonOf tile ld).take 256).map (BitVec.ofNat 64)) :: s.out })) ∧
  (∀ (s : State) (tile ld addr : Nat) (data : Line), s.ldUp tile ld = true ∧ s.isMgmt tile ld = false →
    exec (.injectPoison tile ld addr) s = .next (s.emit (.mailbox tile ld 0x4301 3 [])) ∧ exec (.clearPoison tile ld addr data) s = .next (s.emit (.mailbox tile ld 0x4302 3 []))) ∧
  (∀ (s : State) (tile ld addr : Nat) (data : Line) (b : Bind), s.ldUp tile ld = true ∧ s.isMgmt tile ld = true ∧ s.servesStores = true →
    s.window tile (s.ldLink tile ld) ld addr = some b ∧ b.state ≠ .offered ∧ b.state ≠ .released →
    let e := s.ext b.sess b.ext
    let r : Line → Bool → Req := fun d p => s.withTarget { src := .ctx 0x1FFF, kind := .store, tile, link := s.ldLink tile ld, ld, tag := 0, hpa := 0, mask := Mask.full, data := d, poison := p, stamp := s.localCount tile, since := s.clock, sess := b.sess, off := e.start + (addr / 64 * 64 - b.w), dpa := e.dpa + (addr / 64 * 64 - b.w), tiered := e.tiered, pl := s.ldLevel tile ld, order := 4 }
    exec (.injectPoison tile ld addr) s = .next ((s.emit (.mailbox tile ld 0x4301 0 [])).serveReq (r 0 true) none) ∧
      exec (.clearPoison tile ld addr data) s = .next ((s.emit (.mailbox tile ld 0x4302 0 [])).serveReq (r data false) none)) ∧
  (∀ (s : State) (tile ld : Nat), s.ldUp tile ld = true →
    exec (.getHealthInfo tile ld) s = .next { s with out := .mailbox tile ld 0x4200 0 [BitVec.ofNat 64 s.save.dirtyShutdowns, BitVec.ofNat 64 (b01 (decide (s.mode.mode = .actv ∨ s.mode.mode = .solo) || s.servesReads))] :: s.out })

/-- A doorbell that moves the tail queues the ring's items, one that does not changes no pointer; an LD without a context counts each doorbell as a stray write and submits nothing, and so does a GO while the last command item has not entered; a 4-byte read of TIDEMARK latches its upper half; a read of VIOL_LOST clears it; CQ_HEAD lets a held context go on; MSI-X vectors 0, 2 and 3 fire once for what happened. Where a clause meets log entries 32, 46 and 141, it states the model's reading named there. -/
def Obligations.DoorbellWindow : Prop :=
  (∀ (s : State) (tile ld : Nat) (value : Word) (items : List Word), s.ldUp tile ld = true ∧ (s.ldCtx tile ld).isSome = true →
    ((s.bar tile ld).sqTail + 1024 - (s.bar tile ld).sqHead) % 1024 < (fld value 9 0 + 1024 - (s.bar tile ld).sqHead) % 1024 →
    let u := s.setBar tile ld { s.bar tile ld with sq := (List.range items.length).foldl (fun (q : Store Word) i => Store.write q (((s.bar tile ld).sqTail + i) % 1024) (items.getD i 0) 0) (s.bar tile ld).sq }
    exec (.sqDoorbell tile ld value items) s = .next ((u.setBar tile ld { u.bar tile ld with sqTail := fld value 9 0, sqWait := (s.bar tile ld).sqWait ++ [(fld value 9 0, fld value 18 16)] }).moveRing tile ld)) ∧
  (∀ (s : State) (tile ld : Nat) (value item0 item1 : Word) (items : List Word), s.ldUp tile ld = true ∧ s.ldCtx tile ld = none →
    exec (.sqDoorbell tile ld value items) s = .next (s.setBar tile ld { s.bar tile ld with stray := (s.bar tile ld).stray + 1 }) ∧
      exec (.cmdDoorbell tile ld value item0 item1) s = .next (s.setBar tile ld { s.bar tile ld with stray := (s.bar tile ld).stray + 1 })) ∧
  (∀ (s : State) (tile ld : Nat) (value item0 item1 : Word), s.ldUp tile ld = true ∧ (s.ldCtx tile ld).isSome = true ∧ bit value 0 = true ∧ (s.bar tile ld).cmdBusy = true →
    exec (.cmdDoorbell tile ld value item0 item1) s = .next (s.setBar tile ld { s.bar tile ld with stray := (s.bar tile ld).stray + 1 })) ∧
  (∀ (s : State) (tile ld : Nat) (value item0 item1 : Word), s.ldUp tile ld = true ∧ (s.ldCtx tile ld).isSome = true ∧ bit value 0 = true ∧ (s.bar tile ld).cmdBusy = false →
    let u := s.setBar tile ld { s.bar tile ld with item0, item1 }
    exec (.cmdDoorbell tile ld value item0 item1) s = .next ((u.setBar tile ld { u.bar tile ld with cmdExt := bit value 1, cmdBusy := true }).moveCmd tile ld)) ∧
  (∀ (s : State) (tile ld : Nat) (value : Word), s.ldUp tile ld = true →
    s.ctxNums.all (fun n => !(s.ctx n).held) = true →
    exec (.cqHead tile ld value) s = .next (s.setBar tile ld { s.bar tile ld with cqHead := fld value 7 0 })) ∧
  (∀ (s : State) (tile ld : Nat) (value : Word), s.ldUp tile ld = true →
    exec (.vlogHead tile ld value) s = .next (s.setBar tile ld { s.bar tile ld with vlogHead := fld value 5 0 })) ∧
  (∀ (s : State) (tile ld tag : Nat), s.ldUp tile ld = true →
    Answers (exec (.tidemarkRead tile ld tag true) s) (fun t => t.out.head? = some (.response tile (s.ldLink tile ld) tag rOk (BitVec.setWidth 512 (BitVec.ofNat 64 (fld (BitVec.ofNat 64 (s.localCount tile) : Word) 31 0))) false) ∧
      t = { s.setBar tile ld { s.bar tile ld with tmHi := fld (BitVec.ofNat 64 (s.localCount tile) : Word) 63 32 } with out := t.out })) ∧
  (∀ (s : State) (tile ld tag : Nat), s.ldUp tile ld = true →
    exec (.tidemarkRead tile ld tag false) s = .next { s with out := .response tile (s.ldLink tile ld) tag rOk (BitVec.setWidth 512 (BitVec.ofNat 64 (s.localCount tile))) false :: s.out }) ∧
  (∀ (s : State) (tile ld tag : Nat), s.ldUp tile ld = true →
    exec (.violLost tile ld tag) s = .next ((s.setBar tile ld { s.bar tile ld with violLost := 0 }).barRead tile ld tag (BitVec.ofNat 64 (s.bar tile ld).violLost))) ∧
  (∀ (s : State) (tile ld : Nat), s.ldUp tile ld = true →
    exec (.msiX tile ld 0) s = .next (if (s.bar tile ld).vec0 then (s.setBar tile ld { s.bar tile ld with vec0 := false }).emit (.msix tile ld 0) else s) ∧
      exec (.msiX tile ld 3) s = .next (if (s.bar tile ld).vec3 then (s.setBar tile ld { s.bar tile ld with vec3 := false }).emit (.msix tile ld 3) else s) ∧
      exec (.msiX tile ld 2) s = .next (if (s.bar tile ld).seenMode ≠ s.modeReg ∨ (s.bar tile ld).seenThrottle ≠ s.throttle then
        (s.setBar tile ld { s.bar tile ld with seenMode := s.modeReg, seenThrottle := s.throttle }).emit (.msix tile ld 2) else s))

/-- At the instant of the earliest named tide the device swaps, and before it nothing changes; a confirmation counts once and only when it is on time; the release of a tide waits for every unit; a late unit is fenced with cause 0x02 and the tide turns back, but a tide into SAVE only leaves the late unit out; at T + 8 us the old values and the old mode stand again; from SOLO the tide into MAIN is named once nothing is dirty on any tile. Where a clause meets log entries 35, 36, 37, 38 and 128, it states the model's reading named there. -/
def Obligations.SpringTides : Prop :=
  (∀ (s : State) (d : Tide), s.twinTides = [] ∧ s.tideNow = none →
    leastBy Tide.at_ s.tides = some d →
    exec .springTide s = .next (if d.at_ ≤ s.master then s.swap d else s)) ∧
  (∀ (s : State) (d : Tide) (id v : Nat) (p : PSpec), s.tides = [d] ∧ d.changes = [⟨.field id 0 63 0 v, 0⟩] →
    id ≠ pid bSys 1023 2 ∧ pspec s.tiles id = some p →
    (s.swap d).param id 0 = mergeStg p.fields 63 0 (s.param id 0) (BitVec.ofNat 64 v) ∧ (s.swap d).mode = s.mode ∧ (s.swap d).dram = s.dram ∧
      (s.swap d).tides = [{ d with phase := .swapped, undo := [(id, 0, s.param id 0)], oldMode := some s.mode, units := s.tideUnits }]) ∧
  (∀ (s : State) (d : Tide), s.twinTides = [d] ∧ d.phase = .named ∧ d.at_ ≤ s.master →
    exec .springTide s = .next (s.swapTwin d)) ∧
  (∀ (s : State) (d : Tide) (standby : Bool) (tile : Nat), s.tideNow = some d ∧ d.phase = .swapped →
    ⟨standby, tile⟩ ∈ d.units ∧ ⟨standby, tile⟩ ∉ d.confirmed →
    exec (.tideConfirm standby tile) s = .next (if s.master ≤ s.confirmBy d ⟨standby, tile⟩ then s.setTide { d with confirmed := d.confirmed ++ [⟨standby, tile⟩] } else s)) ∧
  (∀ (s : State) (d : Tide) (standby : Bool) (tile : Nat) (u : TideUnit), s.tideNow = some d ∧ d.phase = .swapped →
    u ∈ d.units ∧ s.unitWaits u = true ∧ u ∉ d.confirmed →
    exec (.tideRelease standby tile) s = .next s) ∧
  (∀ (s : State) (d : Tide) (standby : Bool) (tile : Nat), s.tideNow = some d ∧ d.phase = .swapped ∧ ⟨standby, tile⟩ ∈ d.units →
    d.units.all (fun v => !s.unitWaits v || d.confirmed.contains v) = true →
    exec (.tideRelease standby tile) s = .next (match (s.tideHeld d).tides.find? (fun x => decide (x.name = d.name)) with
      | some d' => (s.tideHeld d).liftHold d' ⟨standby, tile⟩
      | none => s.tideHeld d)) ∧
  (∀ (s : State) (d : Tide), s.tideNow = some d ∧ d.phase = .swapped ∧ d.toSave = false →
    d.units.filter (fun u => s.unitWaits u && !d.confirmed.contains u && decide (s.confirmBy d u < s.master)) = [⟨false, 3⟩] →
    exec .tideConfirmDeadline s = .next ((s.setTide { d with phase := .swapBack, late := [⟨false, 3⟩] }).raiseFence 0xA 0 3 0x02 3)) ∧
  (∀ (s : State) (d : Tide), s.tideNow = some d ∧ d.phase = .swapped ∧ d.toSave = true →
    d.units.filter (fun u => s.unitWaits u && !d.confirmed.contains u && decide (s.confirmBy d u < s.master)) = [⟨false, 3⟩] →
    exec .tideConfirmDeadline s = .next ((s.setTide { d with late := [⟨false, 3⟩], units := d.units.filter (fun u => decide (u ≠ ⟨false, 3⟩)) }).raiseFence 0xA 0 3 0x02 3)) ∧
  (∀ (s : State) (d : Tide) (m : ModeS), s.tideNow = some d ∧ d.phase = .swapBack ∧ d.oldMode = some m →
    d.at_ + 32000 ≤ s.master ∧ d.ctx = none ∧ s.save.run = none →
    Answers (exec .swapBack s) (fun t => t.mode = { s.mode with mode := m.mode, prev := m.prev, cause := m.cause, stamp := m.stamp, soloMain := m.soloMain } ∧
      t.params = (s.restore d.undo).params ∧ t.tides = s.tides.map (fun x => if x.name = d.name then { d with phase := .backSwapped } else x) ∧ t.dram = s.dram)) ∧
  (∀ (s : State) (d : Tide), s.tideNow = some d ∧ s.master < d.at_ + 32000 →
    exec .swapBack s = .next s) ∧
  (∀ (s : State), s.mode.soloMain = true ∧ s.mode.mode = .solo ∧ s.modeNamed = false →
    (∀ t ∈ s.tileList, s.dirtyCount t = 0) →
    exec .mainEntry s = .next (s.addTide s.deviceInstant [⟨.mode .main 2, 0⟩] none))

/-- A population that breaks a rule fences its tile with cause 0x51 and names the slot; a good one sets dram.geom. A training step that passes goes on to the next; a first failure repeats it, a second one of bank L fences the channel with cause 0x52 and one of bank H falls back to the next lower rate. A completed training makes its bank valid at its rate, with the counts of that rate. A change of bank holds the channel in self-refresh; a bank that is invalid or too fast is not entered. A slice whose step does not finish changes no setting. Where a clause meets log entries 10, 47, 48, 119 and 120, it states the model's reading named there. -/
def Obligations.DramTraining : Prop :=
  (∀ (s : State) (tile i : Nat) (s0 s1 s2 s3 s4 s5 s6 s7 : SlotRead), tile < s.tiles ∧ s.stepRuns 6 = true ∧ tile ∉ s.boot.dimms ∧ s.tileFenced tile = false →
    populationOf [s0, s1, s2, s3, s4, s5, s6, s7] = .inl i →
    exec (.dimmDiscovery tile s0 s1 s2 s3 s4 s5 s6 s7) s = .next (((s.failedAt 8).log tile 6 bDram tile 0x08 8 i).raiseFence 0xA 0 tile 0x51 0)) ∧
  (∀ (s : State) (tile r sb : Nat) (d : Spd) (s0 s1 s2 s3 s4 s5 s6 s7 : SlotRead), tile < s.tiles ∧ s.stepRuns 6 = true ∧ tile ∉ s.boot.dimms ∧ s.tileFenced tile = false →
    populationOf [s0, s1, s2, s3, s4, s5, s6, s7] = .inr (d, sb) ∧ chooseRate (ratesOf d.kind sb) (min d.rate (s.tileP bDram tile 0)) = some r →
    Answers (exec (.dimmDiscovery tile s0 s1 s2 s3 s4 s5 s6 s7) s) (fun t => (t.dt tile).geom = geomWord d sb r ∧ t.boot.dimms = insertNat tile s.boot.dimms ∧ t.dram = s.dram ∧ t.mode = s.mode ∧ t.fences = s.fences)) ∧
  (∀ (s : State) (tile channel : Nat) (r : Train), (s.chan tile channel).train = some r ∧ r.passed = false ∧ s.chStops tile channel = false →
    r.step ≠ 8 ∧ r.step ≠ 10 →
    exec (.dramTrainingStep tile channel true) s = .next (s.setChan tile channel { s.chan tile channel with train := some { r with step := r.step + 1, failed := false } }) ∧
      exec (.dramTrainingStep tile channel false) s = .next (if r.failed then s.trainFailed tile channel r else s.setChan tile channel { s.chan tile channel with train := some { r with failed := true } })) ∧
  (∀ (s : State) (tile channel : Nat) (r : Train), (s.chan tile channel).train = some r ∧ r.passed = false ∧ s.chStops tile channel = false ∧ r.step = 10 →
    let u := (s.ranks tile).foldl (fun (v : State) k => v.activate tile channel (k * 64) (2 ^ v.rowBits tile - 8)) s
    exec (.dramTrainingStep tile channel true) s = .next (u.setChan tile channel { u.chan tile channel with train := some { r with passed := true, failed := false } })) ∧
  (∀ (s : State) (tile channel q : Nat) (r : Train), r.why ≠ .unitReset →
    lowerRate (s.rates tile) r.rate = some q →
    (r.bankH = false → s.trainFailed tile channel r = ((s.setChan tile channel { s.chan tile channel with train := none, phase := 4, validL := false }).failedAt 8).raiseFence 0x1 channel tile 0x52 0) ∧
      (r.bankH = true → s.trainFailed tile channel r = ((s.setChan tile channel { s.chan tile channel with fallbacks := min ((s.chan tile channel).fallbacks + 1) 255, validH := false, rateH := 0 }).startTrain tile channel true r.why q 1).log tile 4 bDram tile 0x08 12 channel)) ∧
  (∀ (s : State) (tile channel : Nat) (r : Train), (s.chan tile channel).train = some r ∧ r.passed = true ∧ r.why = .start ∧ s.chStops tile channel = false →
    Answers (exec (.dramTrainingComplete tile channel) s) (fun t => let x := t.chan tile channel
      x.train = none ∧ x.phase = 0 ∧ x.rtPend = false ∧ x.inUseH = false ∧ t.dram = s.dram ∧
      (if r.bankH then x.bankH.counts = countsFor (s.chan tile channel).spd r.rate ∧ x.validH = true ∧ x.rateH = r.rate ∧ x.stampH = s.localCount tile ∧ x.ttempH = (s.chan tile channel).temp / 4 else x.bankL.counts = countsFor (s.chan tile channel).spd r.rate ∧ x.validL = true ∧ x.stampL = s.localCount tile ∧ x.ttempL = (s.chan tile channel).temp / 4))) ∧
  (∀ (s : State) (tile : Nat), tile < s.tiles ∧ s.mode.mode = .rstr ∧ tile ∈ s.boot.restored ∧ 4 * tile ∉ s.boot.fullSpeed ∧ s.chStops tile 0 = false ∧ s.save.run = none →
    (List.range 4).all (fun k => (s.chan tile k).fc.isNone && (s.chan tile k).train.isNone) = true →
    let u := s.startChange tile 0 true true
    exec (.fullSpeedStep tile 0) s = .next (u.setChan tile 0 { u.chan tile 0 with fallbacks := 0 })) ∧
  (∀ (s : State) (tile c : Nat) (r : List Nat), (s.dt tile).fcQueue = c :: r ∧ s.mode.mode = .solo ∧ (s.chan tile c).slice = none ∧ s.save.run = none ∧ (s.ic tile c).lapStart = 0 →
    (List.range 4).all (fun k => (s.chan tile k).fc.isNone) = true ∧ s.due (s.dt tile).fcAt (fld (s.param (pid bDram tile 0xD) 0) 23 16 * us) = true →
    s.chFenced tile c = false ∧ (s.chan tile c).inUseH ≠ (s.dt tile).fcToH ∧ (s.chan tile c).train = none →
    exec (.frequencyChange tile) s = .next ((s.setDt tile { s.dt tile with fcQueue := r }).startChange tile c (s.dt tile).fcToH false)) ∧
  (∀ (s : State) (tile channel : Nat) (toH full : Bool), let x := (s.startChange tile channel toH full).chan tile channel
    x.holding = true ∧ x.phase = 1 ∧ x.power = .selfRefresh ∧ x.rows = [] ∧ x.fc = some { toH, since := (s.quietChan tile channel).clock, fullSpeed := full }) ∧
  (∀ (s : State) (tile channel drift : Nat) (t0 t1 : Option Nat) (f : FreqChange), (s.chan tile channel).fc = some f ∧ f.fullSpeed = false ∧ s.chStops tile channel = false →
    s.rqOf (8 * tile + 2 * channel) = [] ∧ s.rqOf (8 * tile + 2 * channel + 1) = [] →
    exec (.frequencyChangeComplete tile channel ⟨drift, t0, t1⟩) s = .next (((s.setDt tile { s.dt tile with fcAt := s.clock }).readTemps tile channel t0 t1).enterBank tile channel (f.toH && s.usableH tile channel) drift)) ∧
  (∀ (s : State) (tile channel drift : Nat) (toH : Bool), drift < s.tileP bDram tile 0xF →
    let u := (s.quietChan tile channel).exitSelfRefresh tile channel toH
    let v := u.evalRetrain tile channel
    s.enterBank tile channel toH drift = (v.setChan tile channel { v.chan tile channel with fc := none, phase := 0 }).kick tile [.held] ∧
      (u.chan tile channel).inUseH = toH ∧ (u.chan tile channel).power = .active ∧ (u.chan tile channel).rows = []) ∧
  (∀ (s : State) (tile channel : Nat) (f p : Bool), s.chFenced tile channel = false ∧ channel < 4 ∧ tile < s.tiles ∧ s.mode.mode = .solo →
    (List.range 4).all (fun k => (s.chan tile k).slice.isNone) = true ∧ (s.chan tile channel).slice = none ∧ (s.chan tile channel).sliceLast = 0 →
    s.save.run = none ∧ (s.chan tile channel).rtPend = true ∧ (s.chan tile channel).fc = none ∧ (s.chan tile channel).train = none →
    exec (.retrainingSlice tile channel f p) s = .next (s.setChan tile channel { s.chan tile channel with slice := some s.clock, phase := 3, sliceLast := s.clock })) ∧
  (∀ (s : State) (tile channel b : Nat) (p : Bool), s.chFenced tile channel = false ∧ channel < 4 ∧ tile < s.tiles →
    (s.chan tile channel).slice = some b →
    exec (.retrainingSlice tile channel false p) s = .next (((s.setChan tile channel { s.chan tile channel with slice := none, phase := 0 }).trainActs tile channel (s.chan tile channel).sliceStep).kick tile [.held]))

/-- None of these commands changes a line of DRAM, but those that a channel's own writes change before it enters self-refresh. A refresh that is due takes the next bank, or is postponed for urgent reads by at most four intervals, or was pulled in before; one that is postponed is made once no urgent read waits, and an idle rank pulls one in, by at most four intervals; a sensor read above 85 C or a failed one makes the channel hot, and only a read at or below 83 C cools it; a drift at the limit writes new delays; a due neighbour refresh takes the rows at distances 1 and 2 and then lowers the count of its row; a window clears the activate counts; an idle row closes; idle ranks and channels save power under their conditions; alerts close the sub-channel, and too many parity alerts fence the channel with cause 0x55. Where a clause meets log entry 108, it states the model's reading named there. -/
def Obligations.DramUpkeep : Prop :=
  (∀ (s : State) (tile channel rank : Nat), tile < s.tiles ∧ channel < 4 ∧ s.chFenced tile channel = false ∧ (s.chan tile channel).power = .active ∧ rank ∈ s.ranks tile →
    (let r : RefRank := Store.read (s.chan tile channel).refresh rank {}
    s.due r.since (s.tRefi tile channel) = true ∧ r.pulled = 0 ∧ s.urgentReads tile channel rank = true ∧ r.postponed < 4) →
    let r : RefRank := Store.read (s.chan tile channel).refresh rank {}
    exec (.refreshDue tile channel rank) s = .next (s.setChan tile channel { s.chan tile channel with refresh := Store.write (s.chan tile channel).refresh rank { r with since := s.clock, postponed := r.postponed + 1 } {} })) ∧
  (∀ (s : State) (tile channel rank : Nat), tile < s.tiles ∧ channel < 4 ∧ s.chFenced tile channel = false ∧ (s.chan tile channel).power = .active ∧ rank ∈ s.ranks tile →
    (let r : RefRank := Store.read (s.chan tile channel).refresh rank {}
    s.due r.since (s.tRefi tile channel) = true ∧ 0 < r.pulled) →
    let r : RefRank := Store.read (s.chan tile channel).refresh rank {}
    exec (.refreshDue tile channel rank) s = .next (s.setChan tile channel { s.chan tile channel with refresh := Store.write (s.chan tile channel).refresh rank { r with since := s.clock, pulled := r.pulled - 1 } {} })) ∧
  (∀ (s : State) (tile channel rank : Nat), tile < s.tiles ∧ channel < 4 ∧ s.chFenced tile channel = false ∧ (s.chan tile channel).power = .active ∧ rank ∈ s.ranks tile →
    (let r : RefRank := Store.read (s.chan tile channel).refresh rank {}
    s.due r.since (s.tRefi tile channel) = true ∧ r.pulled = 0 ∧ (s.urgentReads tile channel rank = false ∨ 4 ≤ r.postponed)) →
    Answers (exec (.refreshDue tile channel rank) s) (fun t => let r : RefRank := Store.read (s.chan tile channel).refresh rank {}
      Store.read (t.chan tile channel).refresh rank {} = ({ r with since := s.clock, bank := (r.bank + 1) % 4 } : RefRank) ∧ t = s.setChan tile channel (t.chan tile channel))) ∧
  (∀ (s : State) (tile channel rank : Nat), tile < s.tiles ∧ channel < 4 ∧ s.chFenced tile channel = false ∧ (s.chan tile channel).power = .active ∧ rank ∈ s.ranks tile →
    (let r : RefRank := Store.read (s.chan tile channel).refresh rank {}
    s.due r.since (s.tRefi tile channel) = false ∧ 0 < r.postponed) →
    let r : RefRank := Store.read (s.chan tile channel).refresh rank {}
    exec (.refreshDue tile channel rank) s = .next (if s.urgentReads tile channel rank ∧ r.postponed < 4 then s else s.issueRefresh tile channel rank { r with postponed := r.postponed - 1 })) ∧
  (∀ (s : State) (tile channel rank : Nat), tile < s.tiles ∧ channel < 4 ∧ s.chFenced tile channel = false ∧ (s.chan tile channel).power = .active ∧ rank ∈ s.ranks tile →
    (let r : RefRank := Store.read (s.chan tile channel).refresh rank {}
    s.due r.since (s.tRefi tile channel) = false ∧ r.postponed = 0) →
    let r : RefRank := Store.read (s.chan tile channel).refresh rank {}
    exec (.refreshDue tile channel rank) s = .next (if s.rankIdle tile channel rank ∧ r.pulled < 4 then s.issueRefresh tile channel rank { r with pulled := r.pulled + 1 } else s)) ∧
  (∀ (s : State) (tile channel k : Nat), tile < s.tiles ∧ channel < 4 ∧ tile ∈ s.boot.dimms ∧ (s.chan tile channel).tempAt = 0 ∧ s.slotBits tile = 0 ∧ s.mode.mode = .brup →
    exec (.dimmTemperatureRead tile channel (some k) none) s = .next (s.setChan tile channel { s.chan tile channel with
      temp := k, hot := if 340 < k then true else if k ≤ 332 then false else (s.chan tile channel).hot, tempAt := s.clock })) ∧
  (∀ (s : State) (tile channel : Nat), tile < s.tiles ∧ channel < 4 ∧ tile ∈ s.boot.dimms ∧ (s.chan tile channel).tempAt = 0 ∧ s.slotBits tile = 0 ∧ s.mode.mode = .brup →
    exec (.dimmTemperatureRead tile channel none none) s = .next ((s.setChan tile channel { s.chan tile channel with hot := true, tempAt := s.clock }).log tile 4 bDram tile 0x08 8 (2 * channel))) ∧
  (∀ (s : State) (tile channel rank drift : Nat), s.inService tile channel = true ∧ s.mode.mode.serving = true ∧ rank ∈ s.ranks tile →
    s.due (Store.read (s.chan tile channel).oscAt rank 0) (s.tileP bDram tile 0xE * ms) = true →
    let u := s.setChan tile channel { s.chan tile channel with oscAt := Store.write (s.chan tile channel).oscAt rank s.clock 0 }
    exec (.dqsOscillatorCheck tile channel rank drift) s = .next (if s.tileP bDram tile 0xF ≤ drift then u.newDelays tile channel (s.chan tile channel).inUseH false else u)) ∧
  (∀ (s : State) (tile channel rank : Nat), s.inService tile channel = true ∧ rank ∈ s.ranks tile →
    s.due (Store.read (s.chan tile channel).zqAt rank 0) (s.tileP bDram tile 0x10 * ms) = true →
    exec (.zqCalibration tile channel rank) s = .next (s.setChan tile channel { s.chan tile channel with zqAt := Store.write (s.chan tile channel).zqAt rank s.clock 0 })) ∧
  (∀ (s : State) (tile channel bank row : Nat) (rest : List (Nat × Nat)), tile < s.tiles ∧ channel < 4 ∧ (s.chan tile channel).power = .active ∧ s.chFenced tile channel = false →
    (s.chan tile channel).nbr = (bank, row) :: rest →
    let u := (neighbours (s.rowBits tile) row).foldl (fun u n => u.activate tile channel bank n) s
    let x := u.chan tile channel
    exec (.neighbourRefresh tile channel) s = .next ((u.setChan tile channel { x with rows := Store.write x.rows bank {} {}, acts := Store.write x.acts bank (restRow (Store.read x.acts bank []) row) [], nbr := x.nbr.filter (fun p => decide (p ≠ (bank, row))) }).tally tile (5 + channel) 0x0004 {})) ∧
  (∀ (s : State) (tile channel : Nat), tile < s.tiles ∧ channel < 4 ∧ (s.chan tile channel).nbr = [] →
    s.due (s.chan tile channel).actsSince ((if (s.chan tile channel).hot then 16 else 32) * ms) = true →
    exec (.activateTableClear tile channel) s = .next (s.setChan tile channel { s.chan tile channel with acts := [], actsSince := s.clock })) ∧
  (∀ (s : State) (tile channel bank : Nat), tile < s.tiles ∧ channel < 4 ∧ (Store.read (s.chan tile channel).rows bank {}).isOpen = true →
    s.due (Store.read (s.chan tile channel).rows bank {}).last (s.dclk tile channel (s.tileP bDram tile 3)) = true →
    s.rqOf (8 * tile + 2 * channel + bank % 2) = [] ∧ s.wqOf (8 * tile + 2 * channel + bank % 2) = [] →
    exec (.pageIdleClose tile channel bank) s = .next (s.setChan tile channel { s.chan tile channel with rows := Store.write (s.chan tile channel).rows bank {} {} })) ∧
  (∀ (s : State) (tile channel rank : Nat), s.inService tile channel = true ∧ 0 < s.tileP bDram tile 0xB ∧ rank ∈ s.ranks tile ∧ s.rankWanted tile channel rank = false →
    s.due (Store.read (s.chan tile channel).idleAt rank 0) (s.dclk tile channel (s.tileP bDram tile 0xB)) = true ∧ rank ∉ (s.chan tile channel).powerDown →
    let u := s.closeRank tile channel rank none
    exec (.powerDownEntry tile channel rank) s = .next (u.setChan tile channel { u.chan tile channel with powerDown := insertNat rank (s.chan tile channel).powerDown })) ∧
  (∀ (s : State) (tile channel : Nat), s.inService tile channel = true ∧ s.mode.mode = .main ∧ s.tileP bDram tile 0xC = 1 ∧ s.dirtyCount tile = 0 ∧ s.tileBusy tile = false →
    s.rqOf (8 * tile + 2 * channel) = [] ∧ s.rqOf (8 * tile + 2 * channel + 1) = [] ∧ (s.chan tile channel).mainUse = false ∧ (s.chan tile channel).slice = none →
    exec (.selfRefreshEntry tile channel) s = .next ((s.quietChan tile channel).setChan tile channel { (s.quietChan tile channel).chan tile channel with power := .selfRefresh, powerDown := [] })) ∧
  (∀ (s : State) (tile channel : Nat) (t0 t1 : Option Nat), tile < s.tiles ∧ channel < 4 ∧ (s.chan tile channel).power = .selfRefresh ∧ (s.chan tile channel).fc = none ∧ s.chFenced tile channel = false →
    s.mode.mode = .main ∧ s.stepRuns 6 = false →
    let u := ((s.exitSelfRefresh tile channel (s.chan tile channel).inUseH).readTemps tile channel t0 t1).evalRetrain tile channel
    exec (.selfRefreshExit tile ⟨channel, t0, t1⟩) s = .next (if s.chanWanted tile channel then u.setChan tile channel { u.chan tile channel with mainUse := true } else s) ∧
      (u.chan tile channel).power = .active ∧ (u.chan tile channel).rows = []) ∧
  (∀ (s : State) (tile channel sub : Nat), s.inService tile channel = true ∧ (s.chan tile channel).prac = true ∧ sub < 2 →
    exec (.pracAlert tile channel sub) s = .next ((s.setChan tile channel { s.chan tile channel with rows := (s.chan tile channel).rows.filter (fun p => decide (p.1 % 2 ≠ sub)) }).tally tile (5 + channel) 0x0005 {})) ∧
  (∀ (s : State) (tile channel sub : Nat), s.inService tile channel = true ∧ sub < 2 →
    let u := (s.closeSub tile channel sub).countP (pid bEcc tile (0x18 + channel)) 0
    let l := s.clock :: (s.ic tile channel).caAt.filter (fun t0 => decide (s.clock < t0 + sec))
    exec (.caParityAlert tile channel sub) s = .next (if s.tileP bEcc tile 3 ≤ l.length then (u.setIc tile channel { s.ic tile channel with caAt := l }).raiseFence 0x1 channel tile 0x55 0
      else u.setIc tile channel { s.ic tile channel with caAt := l }))

/-- A line in recovery whose page is clean and whose image can be read is rewritten from flash; else, outside a standby, it is poisoned, marked and counted; a standby asks the active unit instead. The conversion lap advances the boundary pointer by 16 KiB when a group ends. A good line moves the Undertow lap on; a corrected one waits for its write-back, which newer data discards. A lap that takes too long is logged once. A cleared channel is reloaded page by page. Where a clause meets log entries 10 and 121, it states the model's reading named there. -/
def Obligations.LinesInError : Prop :=
  (∀ (s : State) (tile dfa : Nat) (e : RqEnt) (r : TRec), (s.pt tile).recov = [e] ∧ e.dfa = dfa / 64 * 64 →
    s.recomputes tile (dfa / 64 * 64) = true ∧ s.mergeOf tile (s.offOf tile (dfa / 64 * 64)) = none →
    s.image tile (s.logicalOf tile (dfa / 64 * 64 / 4096)).1 (s.logicalOf tile (dfa / 64 * 64 / 4096)).2 = some r ∧ r.kind ≠ 6 →
    let a := dfa / 64 * 64
    let off := s.offOf tile a
    let l := r.line (a / 64 % 64)
    let u := s.setPt tile { s.pt tile with recov := [] }
    let raw := u.cipherLine true tile off a l.1
    let v := (u.putDram tile a raw l.2).log tile 4 bEcc tile 0x04 0x02 a
    let w := if l.2 then v.enterPoison tile off else v
    exec (.lineRecovery tile dfa true) s = .next (((w.deliver tile { e with tries := 0 } raw l.2).countUe tile a).endRecovery tile off)) ∧
  (∀ (s : State) (tile dfa : Nat) (readable : Bool) (e : RqEnt), (s.pt tile).recov = [e] ∧ e.dfa = dfa / 64 * 64 →
    s.recomputes tile (dfa / 64 * 64) = false ∨ (readable = false ∧ s.twinServes = false) →
    s.mode.mode ≠ .mirs ∧ s.sendsFrames tile = false →
    let a := dfa / 64 * 64
    let w := (s.setPt tile { s.pt tile with recov := [] }).poisonLine tile (s.offOf tile a) a
    exec (.lineRecovery tile dfa readable) s = .next (((w.deliver tile e 0 true).countUe tile a).endRecovery tile (s.offOf tile a))) ∧
  (∀ (s : State) (tile dfa : Nat) (readable : Bool) (e : RqEnt), (s.pt tile).recov = [e] ∧ e.dfa = dfa / 64 * 64 →
    s.recomputes tile (dfa / 64 * 64) = false ∧ s.mode.mode = .mirs ∧ s.twinUp = true ∧ (s.mt tile).lrqs = [] →
    let a := dfa / 64 * 64
    exec (.lineRecovery tile dfa readable) s = .next ((s.sendLrq tile (s.offOf tile a) 1 .recovery 0).countUe tile a)) ∧
  (∀ (s : State) (tile channel : Nat) (errs : List (Nat × BitVec 640)), s.convRuns tile channel = true ∧ s.training tile (s.ic tile channel).convPtr = false ∧ (s.ic tile channel).lapStart = 1 →
    (groupLines channel (s.ic tile channel).convPtr).all (fun a => !s.scrubOpen tile a) = true →
    (s.wqOf (8 * tile + 2 * channel)).length ≤ 32 ∧ (s.wqOf (8 * tile + 2 * channel + 1)).length ≤ 32 →
    let u := s.convMove tile channel
    exec (.conversionLapGroup tile channel true errs) s =
        .next (((groupLines channel (s.ic tile channel).convPtr).foldl (fun (v : State) a => v.queueWrite tile a (v.stored tile a).1 (v.stored tile a).2 0) u).kick tile [.held]) ∧
      (u.ic tile channel).convPtr = (s.ic tile channel).convPtr + 16384 ∧ (u.ic tile channel).lapStart = 0 ∧ u.dram = s.dram ∧ u.wq = s.wq) ∧
  (∀ (s : State) (tile channel : Nat) (errs : List (Nat × BitVec 640)), s.convRuns tile channel = true ∧ s.training tile (s.ic tile channel).convPtr = false ∧ (s.ic tile channel).lapStart = 0 →
    s.busFree tile 8 = true ∧ (s.it tile).convNext ≤ s.clock →
    let u := (s.setIc tile channel { s.ic tile channel with lapStart := 1 }).setIt tile { s.it tile with convNext := s.clock + 16384 / s.tileP bEcc tile 0 }
    exec (.conversionLapGroup tile channel false errs) s =
      .next ((groupLines channel (s.ic tile channel).convPtr).foldl (fun v a => v.convRead tile a (((errs.find? (fun p => decide (p.1 = a))).map Prod.snd).getD 0)) u)) ∧
  (∀ (s : State) (tile channel : Nat) (err : BitVec 640), s.undertow tile channel = true ∧ s.behind tile channel = true ∧ 0 < s.dfaSize tile →
    (s.readRow tile (s.ic tile channel).lapPos).lineCheck tile (s.ic tile channel).lapPos err = .pass →
    let a := (s.ic tile channel).lapPos
    exec (.undertowRead tile channel err) s = .next ((s.readRow tile a).lapGood tile channel ((s.readRow tile a).offOf tile a) ((s.readRow tile a).lineGot tile a err).2)) ∧
  (∀ (s : State) (tile channel : Nat) (fix : List Nat) (err : BitVec 640), s.undertow tile channel = true ∧ s.behind tile channel = true ∧ 0 < s.dfaSize tile →
    (s.readRow tile (s.ic tile channel).lapPos).lineCheck tile (s.ic tile channel).lapPos err = .corrected fix →
    let a := (s.ic tile channel).lapPos
    exec (.undertowRead tile channel err) s = .next ((((s.readRow tile a).bucket tile channel ((s.readRow tile a).fixPlace tile a fix)).queueBack tile a).lapGood tile channel ((s.readRow tile a).offOf tile a) ((s.readRow tile a).lineGot tile a err).2)) ∧
  (∀ (s : State) (tile a : Nat) (r : List Nat), (s.it tile).writeBack = a :: r ∧ s.newerHeld tile a = false ∧ s.lineFenced tile a = false →
    s.writeWaits tile a = false ∧ s.chanAway tile (dfaChan a) = false ∧ s.busFree tile 7 = true ∧ s.rqOf (subKey tile a) = [] →
    exec (.undertowWriteBack tile) s = .next ((s.setIt tile { s.it tile with writeBack := r }).queueWrite tile a (s.dramLine tile a) (s.isPoisoned tile a) 0)) ∧
  (∀ (s : State) (tile a : Nat) (r : List Nat), (s.it tile).writeBack = a :: r ∧ s.newerHeld tile a = true →
    exec (.undertowWriteBack tile) s = .next (s.setIt tile { s.it tile with writeBack := r })) ∧
  (∀ (s : State) (tile channel : Nat), tile < s.tiles ∧ channel < 4 ∧ (s.ic tile channel).convDone = true ∧ (s.ic tile channel).lapLate = false →
    s.due (s.ic tile channel).lapBegan (s.tileP bEcc tile 2 * 3600 * sec) = true →
    exec (.lapMaxReached tile channel) s = .next (((s.setIc tile channel { s.ic tile channel with lapLate := true }).log tile 4 bEcc tile 0x03 2 channel).countP (pid bEcc tile (0x14 + channel)) 0)) ∧
  (∀ (s : State) (cls inst tile : Nat) (f : Fence), s.fence? cls inst tile = some f ∧ f.reloading = true ∧ s.twinServes = false ∧ s.mode.mode ≠ .mirs →
    exec (.channelReload cls inst tile) s = .next ((s.reloadPage f f.reloadAt).reloadTo f (f.reloadAt + 1)))

/-- A parity error is logged and counted, and one in a control field fences its unit with cause 0x11; a residue mismatch fences its unit with cause 0x10, but a performance counter is set to all ones; a double error of a queue item discards the item and of a record turns it to UNCOR; a double error in a data word drops a clean Eaves line, and in the tag of a dirty line fences the tile with cause 0x12; 16 replays within 1 ms fence a UCIe link with cause 0x48; a checker's fence is in force once, with its record. Where a clause meets log entries 10, 50, 109, 115 and 122, it states the model's reading named there. -/
def Obligations.ChecksAndFences : Prop :=
  (∀ (s : State) (tile cls inst : Nat), tile < s.tiles →
    exec (.parityError tile (.control cls inst)) s = .next (((s.log tile 4 bEcc tile 0x08 0 0).tally tile 32 0x0001 {}).raiseFence cls inst tile 0x11 0)) ∧
  (∀ (s : State) (tile t l tag : Nat) (w : Wait), tile < s.tiles →
    (((s.log tile 4 bEcc tile 0x08 0 0).tally tile 32 0x0001 {}).waits.find? (fun w => w.req.isRead && w.req.fromHost && decide (w.req.tile = t ∧ w.req.link = l ∧ w.req.tag = tag)) = some w) →
    let u := (s.log tile 4 bEcc tile 0x08 0 0).tally tile 32 0x0001 {}
    let v := ({ u with waits := u.waits.erase w } : State).answer w.req rOk 0 true .poison
    exec (.parityError tile (.readData t l tag false)) s = .next u ∧ exec (.parityError tile (.readData t l tag true)) s = .next (State.settle (2 * v.waits.length + 2) v)) ∧
  (∀ (s : State) (tile inst : Nat), tile < s.tiles →
    let v := s.tally tile 32 0x0002 {}
    let k := ctrKey tile (inst / 16) (inst % 16)
    let w := (v.setCtr k { v.ctr k with cnt := 2 ^ 48 - 1, ovf := true }).log tile 3 bPmc (64 * tile + inst / 16) 0x08 (inst % 16) 0
    exec (.residueMismatch tile 1 inst) s = .next (v.raiseFence 1 inst tile 0x10 0) ∧
      exec (.residueMismatch tile 0 inst) s = .next w ∧ w.fences = s.fences ∧ w.mode = s.mode) ∧
  (∀ (s : State) (tile n : Nat) (x : Cpl) (r : List Cpl), tile < s.tiles ∧ (s.ctx n).outbox = x :: r →
    exec (.queueEccError tile (.record n)) s = .next (s.setCtx n { s.ctx n with outbox := { x with status := .uncor, result := 0 } :: r })) ∧
  (∀ (s : State) (tile n : Nat) (w : Word) (rest : List Word) (u : Cur), tile < s.tiles ∧ (s.ctx n).cur = some u →
    u.sub.items[u.next]? = some w ∧ u.next + 1 < u.sub.items.length →
    Answers (exec (.queueEccError tile (.item n)) s) (fun t => LastRecord t n .uncor 0 ∧ (t.ctx n).cur = some { u with next := u.next + 1, high := max u.high (u.next + 1) } ∧ t.dram = s.dram)) ∧
  (∀ (s : State) (tile : Nat), tile < s.tiles →
    exec (.queueEccError tile (.single none)) s = .next (s.bucket tile 5 5)) ∧
  (∀ (s : State) (tile b place : Nat), (s.param (pid bEcc tile (0x20 + b)) 0).toNat + 1 ≤ s.tileP bEcc tile (0x30 + b) →
    s.bucket tile b place = s.setParam (pid bEcc tile (0x20 + b)) 0 (BitVec.ofNat 64 ((s.param (pid bEcc tile (0x20 + b)) 0).toNat + 1))) ∧
  (∀ (s : State) (tile b : Nat), tile < s.tiles ∧ b < 6 →
    s.due (Store.read (s.it tile).leakAt b 0) (s.tileP bEcc tile (0x28 + b) * sec) = true →
    exec (.ceBucketLeak tile b) s = .next ((s.setIt tile { s.it tile with leakAt := Store.write (s.it tile).leakAt b s.clock 0 }).setParam (pid bEcc tile (0x20 + b)) 0
      (BitVec.ofNat 64 ((s.param (pid bEcc tile (0x20 + b)) 0).toNat - 1)))) ∧
  (∀ (s : State) (tile set way : Nat), tile < s.tiles ∧ set < 2 ^ 17 ∧ way < 16 →
    (s.evLine (evKey tile set way)).valid = true →
    let k := evKey tile set way
    exec (.eavesTagError tile set way .wordSingle) s = .next ((s.bucket tile 4 4).tally tile (2 + set % 16 / 8) 0x0004 {}) ∧
      exec (.eavesTagError tile set way .tagDouble) s = .next (if (s.evLine k).dirty then s.raiseFence 0xA 0 tile 0x12 0 else s.dropWay k) ∧
      ((s.evLine k).dirty = false → exec (.eavesTagError tile set way .wordDouble) s = .next (s.dropWay k))) ∧
  (∀ (s : State) (tile link : Nat), tile < s.tiles ∧ link < 4 ∧ Store.read (s.it tile).replays link [] = [] →
    let u : Nat → State := fun k => (s.setIt tile { s.it tile with replays := Store.write (s.it tile).replays link (List.replicate k s.clock) [] }).tally tile 33 0x0001 {}
    exec (.ucieReplayLimit tile link 15) s = .next (u 15) ∧ exec (.ucieReplayLimit tile link 16) s = .next ((u 16).raiseFence 0x9 link tile 0x48 0)) ∧
  (∀ (s : State) (cls inst tile cause : Nat), s.unitExists cls inst tile = true ∧ (s.log 0 (if cls = 0xA then 6 else 5) (fenceBlock cls) inst 0x01 cause tile).fenced cls inst tile = false →
    (s.log 0 (if cls = 0xA then 6 else 5) (fenceBlock cls) inst 0x01 cause tile).enclosed cls inst tile = false →
    let u := s.log 0 (if cls = 0xA then 6 else 5) (fenceBlock cls) inst 0x01 cause tile
    let f : Fence := { cls, inst, tile, cause, tidemark := u.localCount tile }
    exec (.flashing cls inst tile cause) s = .next ((({ u with fences := { u.fences with inForce := u.fences.inForce.filter (fun g => !(g.reloading && decide (g.cls = cls ∧ g.inst = inst ∧ g.tile = tile))) ++ [f] } } : State).fenceRec
        { tidemark := u.localCount tile, cause, inst, tile, src := 0, clr := false, cls }).fenceEffect cls inst tile)) ∧
  (∀ (s : State) (holder cls inst tile : Nat), holder < s.tiles →
    exec (.fenceNotice holder cls inst tile) s = .next { s with fences := { s.fences with inForce := s.fences.inForce.map (fun f =>
      if f.cls = cls ∧ f.inst = inst ∧ f.tile = tile then { f with heldBy := insertNat holder f.heldBy } else f) } }) ∧
  (∀ (s : State) (tile inst : Nat), s.fenced 1 inst tile = true ∧ s.enclosed 1 inst tile = false →
    (s.chan tile inst).train = none →
    exec (.unitReset 1 inst tile true) s = .next ((s.setChan tile inst { s.chan tile inst with fc := none, slice := none }).startTrain tile inst false .unitReset 32 1))

/-- ZLN stores each line of its range as a full-line store of zeros and POIS and CLRP store one line, poisoned or holding the data items; a range outside the extent completes with RANGE; FLN cleans the range's Eaves lines and merge entries and counts them; PBAR completes with the Tidemark at which no store of its context to the range and no merge entry of it is pending; MOVP skips pages already in their new home and completes with RESV when the quota does not hold them. Where a clause meets log entries 22 and 34, it states the model's reading named there. -/
def Obligations.LineInstructions : Prop :=
  (∀ (s : State) (n : Nat) (i : Issue) (c : Ctx) (e : Ext) (t lo : Nat), Ready s n 0x30 i c →
    (s.consume n i c).rangeAB n i 64 0x20_0000 = some (e, t, lo, lo + 64) →
    let u := s.consume n i c
    let v := u.startLong n i (.zln (iSess i.word) (lo + 64) 0 0 1)
    exec (.zln n) s = .next (v.serveReq (v.ctxReq n i e t lo 0 false true) none)) ∧
  (∀ (s : State) (n : Nat) (i : Issue) (c : Ctx) (e : Ext) (t lo : Nat), Ready s n 0x30 i c →
    (s.consume n i c).rangeAB n i 64 0x20_0000 = some (e, t, lo, lo) →
    exec (.zln n) s = .next ((s.consume n i c).done n i 0)) ∧
  (∀ (s : State) (n : Nat) (i : Issue) (c : Ctx), Ready s n 0x30 i c →
    (s.consume n i c).rangeAB n i 64 0x20_0000 = none →
    exec (.zln n) s = .next ((s.consume n i c).complete n i .range 0 [] false)) ∧
  (∀ (s : State) (n : Nat) (i : Issue) (c : Ctx) (e : Ext) (t lo hi : Nat), Ready s n 0x69 i c →
    (s.consume n i c).rangeOf i (((s.consume n i c).ctx n).opA i.word).toNat 64 64 64 = some (e, t, lo, hi) →
    let u := s.consume n i c
    exec (.pois n) s = .next ((u.startLong n i .store1).serveReq (u.ctxReq n i e t lo 0 true false) none)) ∧
  (∀ (s : State) (n : Nat) (i : Issue) (c : Ctx) (e : Ext) (t lo hi : Nat), Ready s n 0x6A i c →
    (s.consume n i c).rangeOf i (((s.consume n i c).ctx n).opA i.word).toNat 64 64 64 = some (e, t, lo, hi) →
    let u := s.consume n i c
    exec (.clrp n) s = .next ((u.startLong n i .store1).serveReq (u.ctxReq n i e t lo (Line.ofWords i.data) false false) none)) ∧
  (∀ (s : State) (n : Nat) (i : Issue) (c : Ctx) (e : Ext) (t lo hi : Nat), Ready s n 0x31 i c →
    (s.consume n i c).rangeAB n i 64 0x400_0000 = some (e, t, lo, hi) →
    let u := s.consume n i c
    let ks := u.evOff t lo hi
    let k := ks.countP (fun k => (u.evLine k).dirty) + (u.pt t).merge.countP (fun m => decide (lo ≤ m.off ∧ m.off < hi))
    let v := (ks.foldl State.cleanWay u).mergeRange t lo hi
    exec (.fln n) s = .next (((if iXf i.word then ks.foldl State.dropWay v else v).done n i (BitVec.ofNat 64 k)).kick t [.writeOut, .merge])) ∧
  (∀ (s : State) (n : Nat) (i : Issue) (c : Ctx) (e : Ext) (t lo hi : Nat), Ready s n 0x32 i c ∧ (s.ctx n).long = none →
    (s.consume n i c).rangeAB n i 64 (2 ^ 46) = some (e, t, lo, hi) ∧ iXf i.word = false →
    let u := s.consume n i c
    exec (.pbar n) s = .next ((u.startLong n i (.pbar t lo hi false (u.localCount t))).pbarStep n t lo hi false (u.localCount t))) ∧
  (∀ (s : State) (n t lo hi stamp : Nat) (i : Issue), (s.ctx n).long = some (i, .pbar t lo hi false stamp) ∧ s.ctxPending n t lo hi = false →
    (s.pt t).merge.all (fun m => decide (¬ (lo ≤ m.off ∧ m.off < hi ∧ m.stamp ≤ stamp))) = true →
    exec (.pbar n) s = .next (s.finishR n .ok (BitVec.ofNat 64 (s.localCount (s.ctx n).tile)))) ∧
  (∀ (s : State) (n t lo hi stamp : Nat) (i : Issue), (s.ctx n).long = some (i, .pbar t lo hi false stamp) ∧ (s.flushMerge t lo hi stamp).ctxPending n t lo hi = true →
    exec (.pbar n) s = .next (((s.pt t).merge.filter (fun m => decide (lo ≤ m.off ∧ m.off < hi ∧ m.stamp ≤ stamp))).foldl (fun s m => s.startOut t m) s)) ∧
  (∀ (s : State) (n : Nat) (i : Issue) (c : Ctx) (e : Ext) (t lo hi : Nat), Ready s n 0x33 i c ∧ (s.ctx n).long = none →
    (s.consume n i c).rangeAB n i 4096 0x4000_0000 = some (e, t, lo, hi) ∧ e.tiered = true ∧ fld i.word 21 20 ≠ 0 →
    (s.consume n i c).movpLeft t (lo / 4096) (hi / 4096) (fld i.word 21 20) = [] →
    let u := s.consume n i c
    let d := fld i.word 21 20
    exec (.movp n) s = .next (((u.startLong n i (.movp (iSess i.word) t (lo / 4096) (hi / 4096) d 0)).pendRec n i).movpStep n t (lo / 4096) (hi / 4096) d 0)) ∧
  (∀ (s : State) (n : Nat) (i : Issue) (c : Ctx) (e : Ext) (t lo hi : Nat), Ready s n 0x33 i c ∧ (s.ctx n).long = none →
    (s.consume n i c).rangeAB n i 4096 0x4000_0000 = some (e, t, lo, hi) ∧ e.tiered = true ∧ fld i.word 21 20 = 1 →
    (s.consume n i c).movpLeft t (lo / 4096) (hi / 4096) 1 ≠ [] →
    ((s.consume n i c).resvOf (iSess i.word) t).frames < (s.consume n i c).homed t (iSess i.word) 1 + ((s.consume n i c).movpLeft t (lo / 4096) (hi / 4096) 1).length →
    exec (.movp n) s = .next ((s.consume n i c).complete n i .resv 0 [] false)) ∧
  (∀ (s : State) (tile lpage : Nat) (m : Move), (s.tt tile).moves.find? (fun m => decide (m.lpage = lpage ∧ m.dest = 1)) = some m →
    s.homeKind tile lpage = 3 →
    exec (.flashOnlyHome tile lpage) s = .next (s.doMove tile m))

/-- SOPEN opens a session that is not open where every record fits, and else reserves nothing; SEXT defines an extent at once where its placement is good, and SQOS stages the session's quality; a set that another context owns is RESV; SCLOSE of a session without a binding closes it; PFSC holds its regions and PFGO starts a complete schedule or stops a running one, and is IDLE where there is nothing to change. Where a clause meets log entries 18, 24, 25, 26 and 27, it states the model's reading named there. -/
def Obligations.SessionInstructions : Prop :=
  (∀ (s : State) (n : Nat) (i : Issue) (c : Ctx), Ready s n 0x40 i c →
    iXf i.word = false ∧ ((s.consume n i c).sess (iSess i.word)).isOpen = false →
    (s.consume n i c).portOk (bindWord (i.data.getD 0 0)) = true →
    ((resvRecs ((iN i.word - 1) / 6) (i.data.drop 1)).all (fun r => decide (r.1 < (s.consume n i c).tiles) && (s.consume n i c).resvFits (iSess i.word) r.1 r.2)) = true ∧ ((resvRecs ((iN i.word - 1) / 6) (i.data.drop 1)).map Prod.fst).Nodup →
    let u := s.consume n i c
    let o := bindWord (i.data.getD 0 0)
    exec (.sopen n) s = .next ((u.openSess (iSess i.word) o (bit i.word 12) (resvRecs ((iN i.word - 1) / 6) (i.data.drop 1))).done n i (sopenResult (iSess i.word) o.1))) ∧
  (∀ (s : State) (n : Nat) (i : Issue) (c : Ctx), Ready s n 0x40 i c →
    iXf i.word = false ∧ ((s.consume n i c).sess (iSess i.word)).isOpen = true →
    (s.consume n i c).portOk (bindWord (i.data.getD 0 0)) = true →
    ((resvRecs ((iN i.word - 1) / 6) (i.data.drop 1)).all (fun r => decide (r.1 < (s.consume n i c).tiles))) = true ∧ ((resvRecs ((iN i.word - 1) / 6) (i.data.drop 1)).map Prod.fst).Nodup →
    exec (.sopen n) s = .next ((s.consume n i c).complete n i .resv 0 [] false)) ∧
  (∀ (s : State) (n : Nat) (i : Issue) (c : Ctx) (h0 dpa len : Word), Ready s n 0x42 i c ∧ i.data = [h0, dpa, len] ∧ fld h0 1 0 = 1 →
    ((s.consume n i c).sess (iSess i.word)).isOpen = true ∧ ((s.consume n i c).ext (iSess i.word) (fld h0 13 8)).defined = false →
    (s.consume n i c).binds.any (fun b => decide (b.sess = iSess i.word ∧ b.ext = fld h0 13 8 ∧ b.state ≠ .released)) = false ∧ (s.consume n i c).setTaken n = false →
    (let x : Ext := { defined := true, tiered := false, start := fld h0 45 21 * 2 ^ 21, dpa := dpa.toNat, len := len.toNat }; (s.consume n i c).placeOk (iSess i.word) x = true ∧ (s.consume n i c).bindsOk (iSess i.word) (fld h0 13 8) x [] [] false = true ∧ (s.consume n i c).windowsFit [] = true) →
    let u := s.consume n i c
    let m := iSess i.word
    let e := fld h0 13 8
    let v := u.setSess m { u.sess m with exts := Store.write (u.sess m).exts e { defined := true, tiered := false, start := fld h0 45 21 * 2 ^ 21, dpa := dpa.toNat, len := len.toNat } {} }
    exec (.sext n) s = .next (({ v with set := { v.set with defined := if v.set.entries.isEmpty then [(m, e)] else (m, e) :: v.set.defined } } : State).done n i (extHandle m e))) ∧
  (∀ (s : State) (n : Nat) (i : Issue) (c : Ctx), Ready s n 0x42 i c ∧ fld (i.data.getD 0 0) 1 0 = 0 ∧ ((s.consume n i c).ext (iSess i.word) (fld (i.data.getD 0 0) 13 8)).defined = false →
    exec (.sext n) s = .next ((s.consume n i c).complete n i .range 0 [] false)) ∧
  (∀ (s : State) (n : Nat) (i : Issue) (c : Ctx), Ready s n 0x43 i c ∧ ((s.consume n i c).sess (iSess i.word)).isOpen = true ∧ ((s.consume n i c).ctx n).dropped = false ∧ (s.consume n i c).sqosLevel i = true →
    (s.consume n i c).canStage n [.field (pid bSess 1023 3) (iSess i.word) 63 0 (((s.consume n i c).ctx n).opA i.word).toNat] = true →
    let u := s.consume n i c
    exec (.sqos n) s = .next ((u.done n i 0).stage n i.pl [.field (pid bSess 1023 3) (iSess i.word) 63 0 ((u.ctx n).opA i.word).toNat])) ∧
  (∀ (s : State) (n k : Nat) (i : Issue) (c : Ctx), Ready s n 0x43 i c ∧ ((s.consume n i c).sess (iSess i.word)).isOpen = true ∧ ((s.consume n i c).ctx n).dropped = false ∧ (s.consume n i c).sqosLevel i = true →
    (s.consume n i c).set.owner = some k ∧ k ≠ n →
    exec (.sqos n) s = .next ((s.consume n i c).complete n i .resv 0 [] false)) ∧
  (∀ (s : State) (n : Nat) (i : Issue) (c : Ctx), Ready s n 0x41 i c ∧ (s.ctx n).long = none →
    ((s.consume n i c).sess (iSess i.word)).isOpen = true ∧ ((s.consume n i c).sess (iSess i.word)).exts = [] ∧ ((s.consume n i c).ctx n).dropped = false →
    (s.consume n i c).set.owner = none ∧ (s.consume n i c).set.entries = [] →
    exec (.sclose n) s = .next ((((s.consume n i c).startLong n i (.sclose (iSess i.word) 2)).pendRec n i).scloseStep n (iSess i.word))) ∧
  (∀ (s : State) (n m : Nat) (i : Issue), (s.ctx n).long = some (i, .sclose m 2) →
    exec (.sclose n) s = .next (if s.binds.all (fun b => decide (b.sess ≠ m ∨ b.state = .released)) then (s.closeSess m).finishR n .ok 0 else s)) ∧
  (∀ (s : State) (n : Nat) (i : Issue) (c : Ctx), Ready s n 0x34 i c ∧ iXf i.word = false ∧ ((s.consume n i c).sess (iSess i.word)).isOpen = true →
    (let h := i.data.getD 0 0; let l := regionList (i.data.drop 1); 0 < fld h 42 32 ∧ fld h 42 32 ≤ 1024 ∧ 0 < fld h 12 8 ∧ fld h 12 8 ≤ 16 ∧ l.length ≤ fld h 42 32 ∧ regionsApart l = true ∧
      l.all (fun r => decide (0 < r.2) && ((s.consume n i c).pagesTile (iSess i.word) 64 (regionStart r) r.2 none).isSome) = true) →
    (Store.read ((s.consume n i c).sess (iSess i.word)).scheds (fld (i.data.getD 0 0) 2 0) {}).running = false →
    let u := s.consume n i c
    let h := i.data.getD 0 0
    let l := regionList (i.data.drop 1)
    let y : Sched := { regions := l, total := fld h 42 32, cyclic := bit h 16, depth := fld h 12 8, defined := true }
    exec (.pfsc n) s = .next ((u.setSess (iSess i.word) { u.sess (iSess i.word) with scheds := Store.write (u.sess (iSess i.word)).scheds (fld h 2 0) y {} }).done n i (BitVec.ofNat 64 l.length))) ∧
  (∀ (s : State) (n : Nat) (i : Issue) (c : Ctx), Ready s n 0x35 i c ∧ ((s.consume n i c).sess (iSess i.word)).isOpen = true ∧ bit i.word 20 = true →
    (let x := Store.read ((s.consume n i c).sess (iSess i.word)).scheds (fld i.word 18 16) {}; x.running = false ∧ x.defined = true ∧ x.regions.length = x.total) →
    let u := s.consume n i c
    let j := fld i.word 18 16
    let x := Store.read (u.sess (iSess i.word)).scheds j {}
    exec (.pfgo n) s = .next ((u.setSess (iSess i.word) { u.sess (iSess i.word) with scheds := Store.write (u.sess (iSess i.word)).scheds j { x with running := true, current := none } {} }).done n i 0)) ∧
  (∀ (s : State) (n : Nat) (i : Issue) (c : Ctx), Ready s n 0x35 i c ∧ ((s.consume n i c).sess (iSess i.word)).isOpen = true →
    (Store.read ((s.consume n i c).sess (iSess i.word)).scheds (fld i.word 18 16) {}).running = bit i.word 20 →
    exec (.pfgo n) s = .next ((s.consume n i c).completeR n i .idle 0))

/-- TIER_MOVE gives the move of a page one turn; PENDREL of a frame clears, and the frame becomes free, and HTPEND clears, only once a record of the home-table page drained after the change is verified; a session at its reservation gives up a page of its demotion region first; a unit read of a neighbour-homed line joins the units in flight, a late one becomes a stall of cause 1, and one without a completion within its timeout loses the loan. Where a clause meets log entries 23, 28 and 132, it states the model's reading named there. -/
def Obligations.TierMoves : Prop :=
  (∀ (s : State) (tile lpage : Nat) (m : Move), (s.tt tile).moves.find? (fun m => decide (m.lpage = lpage)) = some m →
    exec (.tierMove tile lpage) s = .next (s.doMove tile m)) ∧
  (∀ (s : State) (tile lpage : Nat), s.moverRoom tile = false ∧ hMoving (s.homeEntry tile lpage) = false →
    exec (.tierMove tile lpage) s = .next s) ∧
  (∀ (s : State) (tile frame : Nat), exec (.pendrelClear tile frame) s = .next (if (s.frame tile frame).pendRel && s.htVerified tile (s.frame tile frame) then s.setFrame tile frame {} else s)) ∧
  (∀ (s : State) (tile frame : Nat), let o := s.frame tile frame
    exec (.htpendClear tile frame) s = .next (if o.valid && o.htPend && s.htVerified tile o then s.setFrame tile frame { o with htPend := false } else s)) ∧
  (∀ (s : State) (tile sess f : Nat), s.moversRun tile = true ∧ (s.resvOf sess tile).frames ≤ s.homed tile sess 1 ∧ s.leaving tile sess < s.homeWaits tile sess →
    (s.sweepOrder tile sess).find? (fun f => s.inDemotion tile (s.frame tile f).lpage && s.victimOk tile f) = some f →
    exec (.victimSweep tile sess) s = .next (s.evict tile f)) ∧
  (∀ (s : State) (tile lpage line i : Nat) (w : Wait), s.pageLoan tile lpage = some i ∧ line < 64 ∧ w ∈ s.waits ∧ w.why = .unit ∧ w.req.owner = tile ∧ w.req.toff / 64 = lpage * 64 + line →
    s.neighbourRuns tile = true ∧ (s.tt tile).units.any (fun u => decide (u.lpage = lpage ∧ u.line = line)) = false →
    exec (.neighbourRead tile lpage line) s = .next (s.unitReq tile i lpage line (hFrame (s.homeEntry tile lpage)) false 0)) ∧
  (∀ (s : State) (t i p line frame : Nat), ((s.unitReq t i p line frame false 0).tt t).units = (s.tt t).units ++ [{ id := (s.tt t).unitNo, loan := i, lpage := p, line := line, write := false, at_ := s.clock }]) ∧
  (∀ (s : State) (tile id status : Nat) (data : List Byte) (u : UnitReq), (s.tt tile).units.find? (fun u => decide (u.id = id)) = some u →
    status ≠ 0 ∧ (s.loan tile u.loan).state = 2 →
    let v := s.setTt tile { s.tt tile with units := (s.tt tile).units.erase u }
    exec (.unitRequestCompletion tile id status data) s = .next ((v.endBorrow tile u.loan).sendReturned tile u.loan)) ∧
  (∀ (s : State) (tile id : Nat) (data : List Byte) (u : UnitReq), (s.tt tile).units.find? (fun u => decide (u.id = id)) = some u ∧ u.write = true ∧ (s.loan tile u.loan).state = 2 →
    exec (.unitRequestCompletion tile id 0 data) s = .next ((s.setTt tile { s.tt tile with units := (s.tt tile).units.erase u }).sendReturned tile u.loan)) ∧
  (∀ (s : State) (tile id : Nat) (data : List Byte) (u : UnitReq), (s.tt tile).units.find? (fun u => decide (u.id = id)) = some u ∧ u.write = false ∧ (s.loan tile u.loan).state = 2 →
    let v := s.setTt tile { s.tt tile with units := (s.tt tile).units.erase u }
    exec (.unitRequestCompletion tile id 0 data) s = .next ((v.openUnit tile (v.loanKey tile u.loan) (wireOf (hFrame (v.homeEntry tile u.lpage)) u.line) (v.loanPeer tile u.loan) data).elim
      (if u.retried then (v.endBorrow tile u.loan).sendReturned tile u.loan else v.retryUnit tile u)
      (fun b => (v.unitLine tile u (Line.ofBytes b)).sendReturned tile u.loan))) ∧
  (∀ (s : State) (tile id : Nat) (u : UnitReq), (s.tt tile).units.find? (fun u => decide (u.id = id) && s.due u.at_ (s.tileP bTier tile 4 * us)) = some u →
    exec (.neighbourTimeout tile id) s = .next (((s.setTt tile { s.tt tile with units := (s.tt tile).units.erase u }).endBorrow tile u.loan).sendReturned tile u.loan)) ∧
  (∀ (s : State) (tile id : Nat) (u : UnitReq), (s.tt tile).units.find? (fun u => decide (u.id = id) && !u.late && !u.write && s.due u.at_ (s.tileP bTier tile 5 * 4)) = some u →
    let v := s.setTt tile { s.tt tile with units := (s.tt tile).units.map (fun x => if x.id = id then { x with late := true } else x) }
    exec (.neighbourLate tile id) s = .next { v with waits := v.waits.map (fun w => if w.why = .unit ∧ w.req.owner = tile ∧ w.req.toff / 64 = u.lpage * 64 + u.line ∧ w.stall = none then { w with stall := some (1, v.clock) } else w) }) ∧
  (∀ (s : State) (sess sched page k : Nat), (s.sess sess).isOpen = true ∧ (Store.read (s.sess sess).scheds sched {}).running = true ∧ (Store.read (s.sess sess).scheds sched {}).current ≠ some k →
    regionOf (Store.read (s.sess sess).scheds sched {}) page = some k →
    exec (.regionEntry sess sched page) s = .next (s.enterRegion sess sched k (Store.read (s.sess sess).scheds sched {})))

/-- OPEN makes a lender's opening or active loan active and answers OPENOK, and OPENOK makes the borrower's loan active; RECALL makes an active borrower loan recalling and brings its pages home, and the end of the notice ends the loan; RETURNED and END end a lender's loan; a staged loan that ended opens again after 1 s; a request of a peer without a loan in force is a violation of cause PEER, one outside the lent ranges a violation of cause NOEXT, and one that the lender does not answer in its mode completes with an abort and changes nothing else. Where a clause meets log entries 79, 80 and 81, it states the model's reading named there. -/
def Obligations.LoansAndPeers : Prop :=
  (∀ (s : State) (tile loan : Nat), s.loanRole tile loan = 1 ∧ ((s.loan tile loan).state = 1 ∨ (s.loan tile loan).state = 2) →
    exec (.openLoan tile loan true) s = .next ((s.setLoan tile loan { s.loan tile loan with state := 2 }).mailUnit tile loan 2 (s.loanFrames tile loan))) ∧
  (∀ (s : State) (tile loan : Nat), s.loanRole tile loan = 2 ∧ (s.loan tile loan).state = 1 ∧ (s.loan tile loan).openAt = 0 →
    exec (.openLoan tile loan false) s = .next ((s.setLoan tile loan { s.loan tile loan with openAt := s.clock }).mailUnit tile loan 1 (s.loanFrames tile loan))) ∧
  (∀ (s : State) (tile loan : Nat), s.loanRole tile loan = 2 ∧ (s.loan tile loan).state = 1 →
    exec (.openok tile loan) s = .next (s.setLoan tile loan { s.loan tile loan with state := 2, since := s.clock })) ∧
  (∀ (s : State) (tile loan notice : Nat), s.loanRole tile loan = 2 ∧ (s.loan tile loan).state = 2 →
    let v := s.setLoan tile loan { s.loan tile loan with state := 4, since := s.clock, recallEnd := s.clock + notice * us, returned := false }
    let isRef := fun (p : Nat) => (v.frame tile (v.lenderKey tile loan (v.homeEntry tile p))).ref
    exec (.recall tile loan notice) s = .next (((v.loanPages tile loan).filter isRef ++ (v.loanPages tile loan).filter (fun p => !isRef p)).foldl (fun s p => s.wantMove tile p (s.pageSess tile p) 1 false) v)) ∧
  (∀ (s : State) (tile loan : Nat), s.loanRole tile loan = 2 ∧ (s.loan tile loan).state = 4 ∧ (s.loan tile loan).recallEnd ≤ s.clock + 5 * ms →
    exec (.recallNoticeEnd tile loan) s = .next ((s.endBorrow tile loan).sendReturned tile loan)) ∧
  (∀ (s : State) (tile loan : Nat), s.loanRole tile loan = 1 ∧ (s.loan tile loan).state = 4 ∧ (s.loan tile loan).recallEnd ≤ s.clock →
    exec (.recallNoticeEnd tile loan) s = .next (s.setLoan tile loan { s.loan tile loan with state := 5, since := s.clock })) ∧
  (∀ (s : State) (tile loan : Nat), s.loanRole tile loan = 1 ∧ (s.loan tile loan).state = 4 →
    exec (.returned tile loan) s = .next (s.setLoan tile loan { s.loan tile loan with state := 5, since := s.clock, returned := true })) ∧
  (∀ (s : State) (tile loan : Nat), s.loanRole tile loan = 1 ∧ (s.loan tile loan).state ≠ 0 ∧ (s.loan tile loan).state ≠ 5 →
    exec (.endLoan tile loan) s = .next (s.setLoan tile loan { s.loan tile loan with state := 5, since := s.clock })) ∧
  (∀ (s : State) (tile loan : Nat), s.loanRole tile loan = 2 →
    exec (.endLoan tile loan) s = .next (s.endBorrow tile loan)) ∧
  (∀ (s : State) (tile loan : Nat), loan < 16 ∧ (s.loan tile loan).state = 5 ∧ s.due (s.loan tile loan).since sec = true ∧ s.loanRole tile loan = 2 →
    exec (.loanRestage tile loan) s = .next (s.setLoan tile loan { state := 1, since := s.clock })) ∧
  (∀ (s : State) (tile link ld tag peer addr : Nat) (write : Bool) (data : List Byte), s.takes .uio tile link ld = true ∧ s.peerLoan peer = false →
    exec (.peerUnitRequest tile link ld tag peer addr write data) s = .next (s.violate .uio (if write then RKind.store else RKind.read) tile link ld tag addr (s.localCount tile) 6 none (some peer))) ∧
  (∀ (s : State) (tile link ld tag peer addr : Nat) (data : List Byte), s.takes .uio tile link ld = true ∧ s.peerLoan peer = true →
    s.lendLoan (addr / 2 / 2 ^ 43) peer (addr / 8192) = none →
    exec (.peerUnitRequest tile link ld tag peer addr false data) s = .next (s.violate .uio .read tile link ld tag addr (s.localCount tile) 1 none (some peer))) ∧
  (∀ (s : State) (tile link ld tag peer addr i : Nat) (data : List Byte), s.takes .uio tile link ld = true ∧ s.peerLoan peer = true →
    s.lendLoan (addr / 2 / 2 ^ 43) peer (addr / 8192) = some i ∧ (s.lends = false ∨ ¬ ((s.loan (addr / 2 / 2 ^ 43) i).state = 2 ∨ (s.loan (addr / 2 / 2 ^ 43) i).state = 4) ∨ addr % 128 ≠ 0 ∨ s.lineFenced (addr / 2 / 2 ^ 43) (addr / 2 % 2 ^ 42 / 64 * 64) = true) →
    exec (.peerUnitRequest tile link ld tag peer addr false data) s = .next (s.emit (.peer 0x102 [tile, link, peer, tag, rAbort]))) ∧
  (∀ (s : State) (tile link ld tag peer addr i : Nat) (data : List Byte), s.takes .uio tile link ld = true ∧ s.peerLoan peer = true ∧ addr ≠ mailbox →
    s.lendLoan (addr / 2 / 2 ^ 43) peer (addr / 8192) = some i ∧ s.lends = true ∧ ((s.loan (addr / 2 / 2 ^ 43) i).state = 2 ∨ (s.loan (addr / 2 / 2 ^ 43) i).state = 4) ∧ addr % 128 = 0 →
    s.lineFenced (addr / 2 / 2 ^ 43) (addr / 2 % 2 ^ 42 / 64 * 64) = false ∧ s.chanAway (addr / 2 / 2 ^ 43) (dfaChan (addr / 2 % 2 ^ 42 / 64 * 64)) = false ∧ s.writeWaits (addr / 2 / 2 ^ 43) (addr / 2 % 2 ^ 42 / 64 * 64) = false →
    exec (.peerUnitRequest tile link ld tag peer addr true data) s = .next ((s.openUnit (addr / 2 / 2 ^ 43) (s.loanKey (addr / 2 / 2 ^ 43) i) addr peer data).elim (s.emit (.peer 0x102 [tile, link, peer, tag, rAbort]))
      (fun b => (s.queueWrite (addr / 2 / 2 ^ 43) (addr / 2 % 2 ^ 42 / 64 * 64) (Line.ofBytes b) false 0).emit (.peer 0x102 [tile, link, peer, tag, 0])))) ∧
  (∀ (s v : State) (tile link ld tag peer addr i : Nat) (data u : List Byte), s.takes .uio tile link ld = true ∧ s.peerLoan peer = true →
    s.lendLoan (addr / 2 / 2 ^ 43) peer (addr / 8192) = some i ∧ s.lends = true ∧ ((s.loan (addr / 2 / 2 ^ 43) i).state = 2 ∨ (s.loan (addr / 2 / 2 ^ 43) i).state = 4) ∧ addr % 128 = 0 →
    s.lineFenced (addr / 2 / 2 ^ 43) (addr / 2 % 2 ^ 42 / 64 * 64) = false ∧ s.chanAway (addr / 2 / 2 ^ 43) (dfaChan (addr / 2 % 2 ^ 42 / 64 * 64)) = false ∧ (s.stored (addr / 2 / 2 ^ 43) (addr / 2 % 2 ^ 42 / 64 * 64)).2 = false →
    s.makeUnit (addr / 2 / 2 ^ 43) (s.loanKey (addr / 2 / 2 ^ 43) i) addr (s.stored (addr / 2 / 2 ^ 43) (addr / 2 % 2 ^ 42 / 64 * 64)).1.bytes = (some u, v) →
    exec (.peerUnitRequest tile link ld tag peer addr false data) s = .next { v with out := .peer 0x102 ([tile, link, peer, tag, 0] ++ u.map BitVec.toNat) :: v.out })

/-- BATTEN_GRANT runs one BCLK of the bus; a command item takes the beat, and every requester that asks loses; else the requester whose wait has reached its limit wins by force, else the highest urgency and of equals the lowest number, and a non-forced owner loses the bus only to a higher urgency or to a forced win; the winner's wait counter becomes 0 and each of the others that ask waits once more; a forced win is counted. -/
def Obligations.BattenBus : Prop :=
  (∀ (s : State) (tile : Nat) (cmdItem : Bool) (raised : List BattAsk) (ended : List Nat), s.battOn tile = true →
    exec (.battenGrant tile cmdItem raised ended) s = .next (s.battStep tile cmdItem raised (if s.fences.inForce.isEmpty then [] else ended))) ∧
  (∀ (x : TierTile) (q : BattAsk), (x.bat q.requester).req = false →
    ((x.ask q).bat q.requester) = { req := true, urgency := q.urgency % 4, beats := max 1 (min q.beats 64), tag := q.tag, dfa := q.dfa } ∧ (x.ask q).owner = x.owner) ∧
  (∀ (s : State) (t r : Nat) (x : TierTile), r ∈ s.battAsks t x →
    let y := (s.arbitrate t x true).1
    y.item = true ∧ y.owner = x.owner ∧ (y.bat r).wait = (x.bat r).wait + 1 ∧ (s.arbitrate t x true).2 = none) ∧
  (∀ (s : State) (t q r : Nat) (fd : Bool) (x : TierTile), s.battWin t x = some (r, fd) ∧ q ∈ s.battAsks t x ∧ q ≠ r →
    (((s.arbitrate t x false).1).bat q).wait = (x.bat q).wait + 1) ∧
  (∀ (s : State) (t r : Nat) (x : TierTile), x.owner = none ∧ s.battDue t x = none ∧ r ∈ s.battAsks t x ∧ (x.bat r).urgency ≤ 3 →
    (∀ q ∈ s.battAsks t x, (x.bat q).urgency < (x.bat r).urgency ∨ ((x.bat q).urgency = (x.bat r).urgency ∧ r ≤ q)) →
    s.battWin t x = some (r, false)) ∧
  (∀ (s : State) (t r : Nat), s.battWin t (s.beat t (s.tt t)) = some (r, true) ∧ (s.tt t).owner = none →
    s.battStep t false [] [] = ((s.setTt t (s.arbitrate t (s.beat t (s.tt t)) false).1).countP (pid bBatt t (0x20 + r)) 0).tally t 22 0x0010 { tile := t, cls := some 4 }) ∧
  (∀ (s : State) (tile r : Nat), s.battOn tile = true ∧ s.battWin tile (s.beat tile (s.tt tile)) = some (r, true) →
    exec (.forcedWin tile) s = .next (s.battStep tile false [] [])) ∧
  (∀ (s : State) (t : Nat) (x : TierTile), x.owner.isSome = true ∧ x.ownerForced = true →
    s.battWin t x = none) ∧
  (∀ (s : State) (t r : Nat) (x : TierTile), x.owner = none ∨ x.ownerForced = false →
    r ∈ s.battAsks t x ∧ s.tileP bBatt t r ≤ (x.bat r).wait →
    (∀ q ∈ s.battAsks t x, s.tileP bBatt t q ≤ (x.bat q).wait → r ≤ q) →
    s.battWin t x = some (r, true)) ∧
  (∀ (s : State) (t o : Nat) (x : TierTile), x.owner = some o ∧ s.battDue t x = none →
    (∀ q ∈ s.battAsks t x, (x.bat q).urgency ≤ (x.bat o).urgency) →
    s.battWin t x = none) ∧
  (∀ (s : State) (t o r : Nat) (x : TierTile), x.owner = some o ∧ s.battWin t x = some (r, false) ∧ o ≠ r →
    let y := (s.arbitrate t x false).1
    y.owner = some r ∧ (y.bat r).wait = 0 ∧ (y.bat o).valid = true ∧ (y.bat o).req = (x.bat o).req ∧ (y.bat o).done = (x.bat o).done)

/-- DRAIN_PAGE passes over and queues for merge the pages whose segment is full and takes the next page of the walk into flight, and does nothing where 256 pages are in flight; RECORD_VERIFIED clears the bit of a page whose record is programmed unless a store has come since, and counts; DRAIN_RATE_UPDATE takes the first measured rate and a lower one at once and a higher one after 10 s, and leaves the rate where no program was timed; BUDGET_RECOMPUTE sets the budget to the smallest of its three terms. Where a clause meets log entry 12, it states the model's reading named there. -/
def Obligations.TidelineDrain : Prop :=
  (∀ (s : State) (tile p : Nat) (l : List Nat), s.thatchRuns tile = true ∧ s.pageAway tile = false ∧ (s.tl tile).inflight.length < 256 ∧ s.canPut tile false = true →
    (s.walk tile).filter (fun p => !(s.tl tile).inflight.any (fun f => decide (f.page = p)) && (!s.pageStopped tile p || (s.twinInMirs && (s.htPageOf tile p).isNone))) = p :: l →
    s.heldBack tile p = false ∧ s.htFirst tile p = none ∧ s.pageConverting tile p = false →
    exec (.drainPage tile) s = .next (s.takePage tile p)) ∧
  (∀ (s : State) (t p : Nat), s.heldBack t p = true ∧ (s.th t).segOf (s.logicalOf t p).2 ∉ (s.th t).mergeQ ∧ (s.th t).merges = [] →
    (s.holdMerge t p).htFirst t p = none →
    s.passOver t p = s.setTh t { s.th t with mergeQ := (s.th t).mergeQ ++ [(s.th t).segOf (s.logicalOf t p).2] }) ∧
  (∀ (s : State) (tile : Nat), 256 ≤ (s.tl tile).inflight.length →
    exec (.drainPage tile) s = .next s) ∧
  (∀ (s : State) (t page : Nat), (s.tl t).inflight.all (fun f => decide (f.page ≠ page)) = true →
    let v := s.setTl t { s.tl t with inflight := (s.tl t).inflight ++ [{ page := page, ts := s.localCount t }], cursor := if (s.tl t).head.contains page then (s.tl t).cursor else page + 1 }
    let v := v.cleanRange t (page * 4096) (page * 4096 + 4096)
    s.takePage t page = if v.pageStopped t page then v.sendLrq t ((v.logicalOf t page).2 * 4096) 64 (.drain page) 2 else v.putRec t (v.pageRec t page (s.localCount t)) false) ∧
  (∀ (s : State) (tile page : Nat) (f : Inflight), (s.tl tile).inflight.find? (fun f => decide (f.page = page)) = some f →
    (s.th tile).recs.any (fun r => decide (r.ht = (s.logicalOf tile page).1 ∧ r.lpage = (s.logicalOf tile page).2 ∧ r.tm = f.ts)) = true →
    exec (.recordVerified tile page) s = .next (((if f.redirty then s.tally tile 9 0x0003 {} else s).tally tile 9 0x0001 {}).recordDone tile page)) ∧
  (∀ (s : State) (t page : Nat) (f : Inflight), (s.tl t).inflight.find? (fun f => decide (f.page = page)) = some f ∧ f.redirty = true →
    ((s.recordDone t page).tl t).dirty = (s.tl t).dirty ∧ ((s.recordDone t page).tl t).inflight = (s.tl t).inflight.filter (fun g => decide (g.page ≠ page))) ∧
  (∀ (s : State) (t page : Nat) (f : Inflight), (s.tl t).inflight.find? (fun f => decide (f.page = page)) = some f ∧ f.redirty = false →
    page ∉ ((s.recordDone t page).tl t).dirty) ∧
  (∀ (s : State) (tile : Nat), tile < s.tiles ∧ s.due (s.tl tile).rateAt sec = true ∧ (s.th tile).progN ≠ 0 →
    (s.tl tile).rateMeasured = false ∨ s.rateFor tile ((s.th tile).progSum / (s.th tile).progN) ≤ (s.tl tile).rate →
    let m := (s.th tile).progSum / (s.th tile).progN
    exec (.drainRateUpdate tile) s = .next (((s.setTh tile { s.th tile with progSum := 0, progN := 0 }).setTl tile
      { s.tl tile with rate := s.rateFor tile m, rateHigh := none, rateMeasured := true, rateAt := s.clock, meanProg := m }).recompute tile)) ∧
  (∀ (s : State) (tile : Nat), tile < s.tiles ∧ s.due (s.tl tile).rateAt sec = true ∧ (s.th tile).progN ≠ 0 →
    (s.tl tile).rateMeasured = true ∧ (s.tl tile).rate < s.rateFor tile ((s.th tile).progSum / (s.th tile).progN) ∧ (s.tl tile).rateHigh = none →
    let m := (s.th tile).progSum / (s.th tile).progN
    exec (.drainRateUpdate tile) s = .next (((s.setTh tile { s.th tile with progSum := 0, progN := 0 }).setTl tile
      { s.tl tile with rateHigh := some (s.rateFor tile m, s.clock), rateMeasured := true, rateAt := s.clock, meanProg := m }).recompute tile)) ∧
  (∀ (s : State) (tile : Nat), tile < s.tiles ∧ s.due (s.tl tile).rateAt sec = true ∧ (s.th tile).progN = 0 →
    exec (.drainRateUpdate tile) s = .next (s.setTl tile { s.tl tile with rateAt := s.clock })) ∧
  (∀ (s : State) (tile : Nat), tile < s.tiles →
    let b := s.tileP bTide tile 0 * 1024
    let r := (s.devP bTide 0 - 25) * (s.tl tile).rate * 800 / 2 ^ 20
    let p := s.pool tile * 10 / 11
    let e := min b (min r p)
    exec (.budgetRecompute tile) s = .next (s.setTl tile { s.tl tile with eff := e, limit := if e = b then 0 else if e = r then 1 else 2 }))

/-- A complete row that is programmed adds its records to the flash store, and one whose program fails is written again and retires the physical block; a row that has waited is padded; a closed block that is verified gives up its parity block; a retry and a scrub count and mark the block; an unreadable record becomes one of KIND 6; an erase starts after its intent, may be suspended and resumed, and ends with a seal whose count is one more, or retires the block; a target that is not ready is fenced; the backlog walk places the next page. Where a clause meets log entries 28, 53, 60 and 130, it states the model's reading named there. -/
def Obligations.ThatchRowsAndBlocks : Prop :=
  (∀ (s : State) (tile blk took : Nat) (w : Row), s.fullRow tile blk = some w ∧ w.recs.any (fun r => decide (r.kind = 3)) = false →
    let v := s.setTh tile { s.th tile with progSum := (s.th tile).progSum + took, progN := (s.th tile).progN + 1 }
    let v := (List.range 16).foldl (fun (v : State) m => if v.memberOk tile (blk / 8192) m then v.tally tile (10 + m / 2) 0x0001 {} else v) v
    exec (.thatchRowProgrammed tile blk took) s = .next (((((v.programRow tile w).dropSources tile w.recs).releaseIdle tile).endFret tile).recompute tile)) ∧
  (∀ (s : State) (t : Nat) (w : Row), ((s.programRow t w).th t).recs = (s.th t).recs ++ w.recs ∧ ((s.programRow t w).th t).rowsOpen = (s.th t).rowsOpen.filter (fun v => decide (v ≠ w))) ∧
  (∀ (s : State) (tile blk : Nat) (w : Row), (s.th tile).rowsOpen.find? (fun w => decide (w.blk = blk) && !w.full) = some w →
    s.due w.since (s.tileP bThatch tile 1 * ms) = true →
    exec (.rowAgeExpiry tile blk) s = .next (s.padRow tile w)) ∧
  (∀ (s : State) (tile blk member : Nat), (s.fullRow tile blk).isSome = true ∧ member < 16 →
    exec (.programFail tile blk member) s = .next (((s.rewriteRows tile blk [] (decide ((s.th tile).relocBlk = some blk))).retire tile blk member).recompute tile)) ∧
  (∀ (s : State) (t b m : Nat), (s.physB t b m).retired = true →
    s.retire t b m = s) ∧
  (∀ (s : State) (tile blk : Nat), s.thatchRuns tile = true ∧ (s.blk tile blk).parity = true ∧ (s.blk tile blk).verified = false ∧ (s.blk tile blk).use = .log ∧ (s.blk tile blk).isOpen = false →
    (s.th tile).rowsOpen.all (fun w => decide (w.blk ≠ blk)) = true →
    let v := s.setBlk tile blk { s.blk tile blk with verified := true, parity := false }
    exec (.blockVerify tile blk) s = .next (v.setPhys tile blk (parityOf (s.blk tile blk).members blk) { s.physB tile blk (parityOf (s.blk tile blk).members blk) with unsealed := true })) ∧
  (∀ (s : State) (tile blk slot : Nat), 2 ≤ (List.range 16).countP (fun m => (s.blk tile blk).members.testBit m && !s.memberOk tile (blk / 8192) m) →
    exec (.parityRebuild tile blk slot) s = .next s) ∧
  (∀ (s : State) (tile blk slot : Nat) (r : TRec), (s.th tile).recs.find? (fun r => decide (r.blk = blk ∧ r.slot / 4 = slot / 4)) = some r →
    s.thatchRuns tile = true ∧ (s.blk tile blk).parity = true ∧ (s.blk tile blk).use = .log ∧ s.canPut tile true = true →
    (List.range 16).all (fun m => s.memberOk tile (blk / 8192) m) = true →
    let rs := ((s.th tile).recs.filter (fun r => decide (r.blk = blk ∧ r.slot / 4 = slot / 4))).filter (fun r => decide (s.image tile r.ht r.lpage = some r))
    let v := s.setBlk tile blk { s.blk tile blk with marked := true }
    exec (.parityRebuild tile blk slot) s = .next ((rs.foldl (fun (v : State) r => v.putRec tile { r with kind := 3, key := v.imageKey tile, copyTm := v.localCount tile } true) v).log tile 4 bThatch tile 0x04 0x05 blk)) ∧
  (∀ (s : State) (tile blk member retries sess : Nat), (s.blk tile blk).use ≠ .free ∧ member < 16 ∧ 0 < retries ∧ retries < s.tileP bThatch tile 6  →
    let v := (List.range retries).foldl (fun (v : State) _ => v.tally tile (10 + member / 2) 0x0003 {}) s
    let u := if v.pmc.frozen then v else v.addStall sess tile 4 retries
    let b := u.blk tile blk
    exec (.readRetry tile blk member retries false sess) s = .next (u.setBlk tile blk { b with reads := b.reads + retries, marked := b.marked || u.refreshDue tile blk retries })) ∧
  (∀ (s : State) (tile blk retries : Nat), s.thatchRuns tile = true ∧ (s.blk tile blk).use = .log ∧ (s.blk tile blk).isOpen = false ∧ s.due (s.blk tile blk).scrubAt (s.tileP bThatch tile 9 * (86400 * sec)) = true →
    let b := s.blk tile blk
    let v := s.setBlk tile blk { b with scrubAt := s.clock, reads := b.reads + 1 }
    exec (.flashScrub tile blk retries) s = .next (v.setBlk tile blk { v.blk tile blk with marked := b.marked || v.refreshDue tile blk retries })) ∧
  (∀ (s : State) (tile blk slot : Nat) (merge : Bool), (s.blk tile blk).parity = true ∧ (List.range 16).all (fun m => s.memberOk tile (blk / 8192) m) = true →
    exec (.unreadableRecord tile blk slot merge) s = .next s) ∧
  (∀ (s : State) (tile blk slot : Nat) (r : TRec), (s.th tile).recs.find? (fun r => decide (r.blk = blk ∧ r.slot = slot ∧ r.kind ≠ 6)) = some r →
    (s.blk tile blk).parity = false →
    let x := s.th tile
    let g := 8 * (s.recMember tile r / 2) + x.memberTarget (blk / 8192) (s.recMember tile r)
    let l := s.clock :: (Store.read x.ueAt g []).filter (fun t0 => decide (s.clock < t0 + 3600 * sec))
    let v := s.setTh tile { x with recs := x.recs.map (fun q => if q = r then { r with kind := 6, lines := [] } else q), ueAt := Store.write x.ueAt g l [] }
    let w := v.log tile 5 bThatch tile 0x05 0x02 (blk * 2 ^ 24 + slot)
    let lim := w.tileP bThatch tile 0x0A
    exec (.unreadableRecord tile blk slot false) s = .next (if 0 < lim ∧ lim ≤ l.length then w.raiseFence 0x4 g tile 0x34 0 else w)) ∧
  (∀ (s : State) (tile blk member : Nat), s.thatchRuns tile = true ∧ s.save.run.isNone = true ∧ member < 16 ∧ s.eraseDue tile blk member = true →
    let v := s.setPhys tile blk member { s.physB tile blk member with intent := true, erasing := true, suspended := false }
    exec (.erase tile blk member) s = .next (v.setTh tile { v.th tile with busyAt := Store.write (v.th tile).busyAt (s.targetOf tile blk member) (s.clock, 40 * ms) (0, 0) })) ∧
  (∀ (s : State) (tile blk member : Nat), (s.physB tile blk member).erasing = true ∧ (s.physB tile blk member).suspended = false →
    exec (.eraseSuspend tile blk member false) s = .next (s.setPhys tile blk member { s.physB tile blk member with suspended := true })) ∧
  (∀ (s : State) (tile blk member : Nat), s.save.run.isSome = true →
    exec (.eraseSuspend tile blk member true) s = .next s) ∧
  (∀ (s : State) (tile blk member : Nat), (s.physB tile blk member).erasing = true ∧ (s.physB tile blk member).suspended = false →
    let p := s.physB tile blk member
    let v := s.setTh tile { s.th tile with busyAt := Store.write (s.th tile).busyAt (s.targetOf tile blk member) (0, 0) (0, 0) }
    exec (.eraseComplete tile blk member true) s = .next ((((v.setPhys tile blk member { p with count := p.count + 1, unsealed := false, intent := false, erasing := false, sealTm := v.localCount tile }).freeSealed tile blk).dropImageKeys tile).recompute tile)) ∧
  (∀ (s : State) (tile blk member : Nat), (s.physB tile blk member).erasing = true ∧ (s.physB tile blk member).suspended = false →
    let v := s.setTh tile { s.th tile with busyAt := Store.write (s.th tile).busyAt (s.targetOf tile blk member) (0, 0) (0, 0) }
    exec (.eraseComplete tile blk member false) s = .next (((v.retire tile blk member).freeSealed tile blk).recompute tile)) ∧
  (∀ (s : State) (tile target : Nat), (Store.read (s.th tile).busyAt target (0, 0)).2 ≠ 0 ∧ s.due (Store.read (s.th tile).busyAt target (0, 0)).1 (Store.read (s.th tile).busyAt target (0, 0)).2 = true →
    exec (.targetNotReady tile target) s = .next (s.raiseFence 0x4 target tile 0x31 0)) ∧
  (∀ (s : State) (tile e p : Nat), s.thatchRuns tile = true ∧ leastBy id ((s.th tile).backlog.filter (fun e => !(s.mt tile).lrqs.any (fun q => decide (q.why = .flashPage e)))) = some e →
    s.dramHome tile (decide (2 ^ 31 ≤ e)) (e % 2 ^ 31) = some p ∧ (s.tl tile).dirty.contains p = true →
    exec (.backlogWalk tile) s = .next (s.setTh tile { s.th tile with backlog := (s.th tile).backlog.filter (fun q => decide (q ≠ e)) })) ∧
  (∀ (s : State) (tile e p : Nat), s.thatchRuns tile = true ∧ leastBy id ((s.th tile).backlog.filter (fun e => !(s.mt tile).lrqs.any (fun q => decide (q.why = .flashPage e)))) = some e →
    s.dramHome tile (decide (2 ^ 31 ≤ e)) (e % 2 ^ 31) = some p ∧ (s.tl tile).dirty.contains p = false ∧ s.hasRoom tile = true →
    exec (.backlogWalk tile) s = .next ((s.setTh tile { s.th tile with backlog := (s.th tile).backlog.filter (fun q => decide (q ≠ e)) }).markPage tile p)) ∧
  (∀ (s : State) (tile : Nat) (c : Ckpt), (s.mt tile).ckpt = some c ∧ s.thatchRuns tile = true →
    exec (.checkpointPersist tile) s = .next (s.setTh tile { s.th tile with ckptTm := c.tm, ckptSeq := c.seq }))

/-- A merge starts with S the current Tidemark where the segment is due and a target is free, and journals its target; the copies keep the newest record of each page at or below S; the map switches only once the target is verified, and the old data block is released then; a failed target is released and its failing block retired, and the copy starts again, and after the third one the segment is left with a severity 5 event and retried after 10 s; relocation moves the current records of a closed block to the relocation block. Where a clause meets log entries 57 and 59, it states the model's reading named there. -/
def Obligations.SegmentMerges : Prop :=
  (∀ (s : State) (tile seg b : Nat), s.thatchRuns tile = true ∧ (s.th tile).merges.any (fun m => decide (m.seg = seg)) = false ∧ s.mergeDue tile seg = true →
    (s.th tile).merges.countP (fun m => m.parked.isNone) < s.tileP bThatch tile 3 ∧ s.mergeTarget tile seg = some b →
    exec (.mergeStart tile seg) s = .next ((s.startMerge tile { seg := seg, target := b, stamp := s.localCount tile }).recompute tile)) ∧
  (∀ (s : State) (t : Nat) (m : SegMerge), let v := s.setTh t { s.th t with merges := (s.th t).merges.filter (fun q => decide (q.seg ≠ m.seg)) ++ [m], mergeQ := (s.th t).mergeQ.filter (fun q => decide (q ≠ m.seg)), journal := (s.th t).journal.filter (fun q => decide (q.1 ≠ m.seg)) ++ [(m.seg, m.target)] }
    s.startMerge t m = v.openBlk t m.target .data) ∧
  (∀ (s : State) (tile blk : Nat), s.thatchRuns tile = true ∧ (s.blk tile blk).parity = true ∧ (s.blk tile blk).verified = false ∧ (s.blk tile blk).use = .data →
    (s.th tile).merges.any (fun g => decide (g.target = blk) && g.parked.isNone) = true ∧ s.wholeBlk tile blk = true →
    exec (.blockVerify tile blk) s = .next (s.setBlk tile blk { s.blk tile blk with isOpen := false, verified := true, rows := (s.th tile).wls })) ∧
  (∀ (s : State) (tile seg : Nat) (m : SegMerge), (s.th tile).merges.find? (fun m => decide (m.seg = seg) && m.parked.isNone) = some m ∧ (s.blk tile m.target).verified = false →
    exec (.mapSwitch tile seg) s = .next s) ∧
  (∀ (s : State) (tile seg : Nat) (m : SegMerge), (s.th tile).merges.find? (fun m => decide (m.seg = seg) && m.parked.isNone) = some m ∧ s.thatchRuns tile = true ∧ (s.blk tile m.target).verified = true ∧ s.dataBlk tile seg = none ∧ s.ctxNums = [] →
    Answers (exec (.mapSwitch tile seg) s) (fun v => Store.read (v.th tile).segData seg 0 = m.target + 1)) ∧
  (∀ (s : State) (tile blk member b : Nat) (m : SegMerge), s.thatchRuns tile = true ∧ member < 16 ∧ (s.th tile).merges.find? (fun m => decide (m.target = blk) && m.parked.isNone) = some m ∧ m.fails < 2 →
    (((s.releaseBlk tile blk).retire tile blk member).tally tile 18 0x0003 {}).mergeTarget tile m.seg = some b →
    exec (.mergeTargetFail tile blk member) s = .next ((((s.releaseBlk tile blk).retire tile blk member).tally tile 18 0x0003 {}).startMerge tile { m with target := b, fails := m.fails + 1 })) ∧
  (∀ (s : State) (tile blk member : Nat) (m : SegMerge), s.thatchRuns tile = true ∧ member < 16 ∧ (s.th tile).merges.find? (fun m => decide (m.target = blk) && m.parked.isNone) = some m ∧ m.fails = 2 →
    let v := ((s.releaseBlk tile blk).retire tile blk member).tally tile 18 0x0003 {}
    let v := v.setTh tile { v.th tile with merges := (v.th tile).merges.map (fun q => if q.seg = m.seg then { m with fails := 3, parked := some v.clock } else q), journal := (v.th tile).journal.filter (fun q => decide (q.1 ≠ m.seg)) }
    exec (.mergeTargetFail tile blk member) s = .next ((v.log tile 5 bThatch tile 0x08 3 m.seg).failFret tile m.seg)) ∧
  (∀ (s : State) (tile seg b t0 : Nat) (m : SegMerge), (s.th tile).merges.find? (fun m => decide (m.seg = seg)) = some m ∧ m.parked = some t0 ∧ s.thatchRuns tile = true ∧ s.due t0 (10 * sec) = true →
    (s.th tile).merges.countP (fun m => m.parked.isNone) < s.tileP bThatch tile 3 ∧ s.mergeTarget tile seg = some b →
    exec (.mergeRetry tile seg) s = .next (s.startMerge tile { seg := seg, target := b, stamp := s.localCount tile })) ∧
  (∀ (s : State) (tile blk : Nat), s.thatchRuns tile = true ∧ (s.blk tile blk).use = .log ∧ (s.blk tile blk).isOpen = false ∧ (s.blk tile blk).marked = true ∧ (s.th tile).relocBlk ≠ some blk ∧ s.canPut tile true = true →
    s.liveRecs tile blk = [] ∧ (s.th tile).rowsOpen.all (fun w => decide (w.blk ≠ blk)) = true →
    exec (.relocation tile blk) s = .next ((((s.setBlk tile blk { s.blk tile blk with marked := true }).tally tile 18 0x0002 {}).releaseIdle tile).recompute tile)) ∧
  (∀ (s : State) (tile blk : Nat) (r : TRec), s.thatchRuns tile = true ∧ (s.blk tile blk).use = .log ∧ (s.blk tile blk).isOpen = false ∧ (s.blk tile blk).marked = true ∧ (s.th tile).relocBlk ≠ some blk ∧ s.canPut tile true = true →
    s.liveRecs tile blk = [r] ∧ (s.th tile).rowsOpen = [] ∧ r.ht = true →
    let v := s.setBlk tile blk { s.blk tile blk with marked := true }
    exec (.relocation tile blk) s = .next ((((v.putRec tile { r with kind := 3, key := v.imageKey tile, copyTm := v.localCount tile } true).tally tile 18 0x0002 {}).releaseIdle tile).recompute tile))

/-- FERC completes with OK, and its RESULT holds the erase count of the last valid seal of the named physical block in bits 31 to 0, and in bits 32, 33 and 34 whether the block is retired, half-erased, and under an erase in progress or suspended. (That an address outside the geometry completes with RANGE is R413's.) -/
def Obligations.FlashEraseCount : Prop :=
  ∀ (s : State) (n : Nat) (i : Issue) (c : Ctx), Ready s n 0x61 i c →
    (s.consume n i c).flashOk (fld i.word 2 0) (((s.consume n i c).ctx n).opA i.word) = true →
    let u := s.consume n i c
    let t := fld i.word 2 0
    let a := flashAddr ((u.ctx n).opA i.word)
    let p := u.physB t (8192 * ((a.tgt + a.lun * (u.th t).tgts) / 2) + a.block) (2 * a.ch + (a.tgt + a.lun * (u.th t).tgts) % 2)
    exec (.ferc n) s = .next (u.done n i (BitVec.ofNat 64 (p.count % 2 ^ 32) ||| (if p.retired then 1#64 <<< 32 else 0) ||| (if p.intent && p.unsealed && !p.erasing then 1#64 <<< 33 else 0) ||| (if p.erasing then 1#64 <<< 34 else 0)))

/-- FRAW checks its address, refuses a fenced member, a block under erase and a half-erased one without array access, and returns the header or the stored payload line of the record, with OK or UNCOR; FRET of a retired block completes with 0 and of another moves its current records first, and refuses block index 0; SCRB starts on a range in the tile's DFA and ends with the four words of the summary. Where a clause meets log entries 51, 52 and 58, it states the model's reading named there. -/
def Obligations.FlashDiagnostics : Prop :=
  (∀ (s : State) (n : Nat) (i : Issue) (c : Ctx) (d : Bool), Ready s n 0x60 i c →
    (s.consume n i c).flashOk (fld i.word 2 0) (((s.consume n i c).ctx n).opA i.word) = false →
    exec (.fraw n d) s = .next ((s.consume n i c).complete n i .range 0 [] false)) ∧
  (∀ (s : State) (n b m : Nat) (i : Issue) (c : Ctx) (d : Bool), Ready s n 0x60 i c →
    (s.consume n i c).flashOk (fld i.word 2 0) (((s.consume n i c).ctx n).opA i.word) = true ∧ (s.consume n i c).flashBlk (fld i.word 2 0) (flashAddr (((s.consume n i c).ctx n).opA i.word)) = (b, m) →
    (s.consume n i c).memberOk (fld i.word 2 0) (b / 8192) m = false ∨ (s.consume n i c).tileFenced (fld i.word 2 0) = true ∨ ((s.consume n i c).physB (fld i.word 2 0) b m).erasing = true ∨ ((s.consume n i c).physB (fld i.word 2 0) b m).half = true →
    let u := s.consume n i c
    let t := fld i.word 2 0
    exec (.fraw n d) s = .next (u.complete n i (if u.memberOk t (b / 8192) m = false ∨ u.tileFenced t = true then .fenced else if (u.physB t b m).erasing then .ersusp else .halfer) 0 [] false)) ∧
  (∀ (s : State) (n b m k : Nat) (i : Issue) (c : Ctx) (r : TRec), Ready s n 0x60 i c →
    (s.consume n i c).flashOk (fld i.word 2 0) (((s.consume n i c).ctx n).opA i.word) = true ∧ (s.consume n i c).flashBlk (fld i.word 2 0) (flashAddr (((s.consume n i c).ctx n).opA i.word)) = (b, m) →
    (s.consume n i c).memberOk (fld i.word 2 0) (b / 8192) m = true ∧ (s.consume n i c).tileFenced (fld i.word 2 0) = false ∧ ((s.consume n i c).physB (fld i.word 2 0) b m).erasing = false ∧ ((s.consume n i c).physB (fld i.word 2 0) b m).half = false →
    (s.consume n i c).flashSlot (fld i.word 2 0) b m (flashAddr (((s.consume n i c).ctx n).opA i.word)) = some k ∧ ((s.consume n i c).th (fld i.word 2 0)).recs.find? (fun r => decide (r.blk = b ∧ r.slot = k ∧ ¬ (r.kind = 6 ∧ ((s.consume n i c).blk (fld i.word 2 0) b).use = .log))) = some r →
    let u := s.consume n i c
    let t := fld i.word 2 0
    let v := u.setBlk t b { u.blk t b with reads := (u.blk t b).reads + 1 }
    let ws := if iXf i.word then v.recStored t r (fld ((v.ctx n).reg (iGb i.word)) 5 0) else recHeader t r
    exec (.fraw n true) s = .next (v.complete n i .ok (ws.headD 0) ws true)) ∧
  (∀ (s : State) (n b m : Nat) (i : Issue) (c : Ctx), Ready s n 0x62 i c →
    (s.consume n i c).flashOk (fld i.word 2 0) (((s.consume n i c).ctx n).opA i.word) = true ∧ (flashAddr (((s.consume n i c).ctx n).opA i.word)).block ≠ 0 →
    (s.consume n i c).flashBlk (fld i.word 2 0) (flashAddr (((s.consume n i c).ctx n).opA i.word)) = (b, m) ∧ ((s.consume n i c).physB (fld i.word 2 0) b m).retired = true →
    exec (.fret n) s = .next ((s.consume n i c).done n i 0)) ∧
  (∀ (s : State) (n : Nat) (i : Issue) (c : Ctx), Ready s n 0x62 i c ∧ (flashAddr (((s.consume n i c).ctx n).opA i.word)).block = 0 →
    exec (.fret n) s = .next ((s.consume n i c).complete n i .range 0 [] false)) ∧
  (∀ (s : State) (n b m : Nat) (i : Issue) (c : Ctx), Ready s n 0x62 i c →
    (s.consume n i c).flashOk (fld i.word 2 0) (((s.consume n i c).ctx n).opA i.word) = true ∧ (flashAddr (((s.consume n i c).ctx n).opA i.word)).block ≠ 0 →
    (s.consume n i c).flashBlk (fld i.word 2 0) (flashAddr (((s.consume n i c).ctx n).opA i.word)) = (b, m) ∧ ((s.consume n i c).physB (fld i.word 2 0) b m).retired = false ∧ ((s.consume n i c).blk (fld i.word 2 0) b).use = .data →
    let u := s.consume n i c
    let t := fld i.word 2 0
    exec (.fret n) s = .next (((u.startLong n i (.fret t (b * 16 + m) (u.memberRecs t b m).length)).pendRec n i).endFret t)) ∧
  (∀ (s : State) (n : Nat) (e : BitVec 640) (i : Issue) (c : Ctx), Ready s n 0x68 i c ∧ (s.ctx n).long = none ∧ 1 ≤ iGd i.word ∧ iGd i.word ≤ 12 →
    fld i.word 2 0 < s.tiles ∧ (((s.consume n i c).ctx n).opA i.word).toNat % 64 = 0 ∧ 0 < (((s.consume n i c).ctx n).reg (iGb i.word)).toNat ∧ (((s.consume n i c).ctx n).reg (iGb i.word)).toNat < 2 ^ 36 ∧ (((s.consume n i c).ctx n).opA i.word).toNat + 64 * (((s.consume n i c).ctx n).reg (iGb i.word)).toNat ≤ (s.consume n i c).dfaSize (fld i.word 2 0) →
    let u := s.consume n i c
    let lo := ((u.ctx n).opA i.word).toNat
    let k := ((u.ctx n).reg (iGb i.word)).toNat
    exec (.scrb n e) s = .next ((u.startLong n i (.scrb { tile := fld i.word 2 0, next := lo, hi := lo + 64 * k })).pendRec n i)) ∧
  (∀ (s : State) (n : Nat) (e : BitVec 640) (i : Issue) (r : ScrbRun), (s.ctx n).long = some (i, .scrb r) ∧ r.busy = none ∧ r.next < r.hi ∧ s.chanAway r.tile (dfaChan r.next) = false →
    s.ctxs.all (fun p => decide (p.1 = n) || (match p.2.long with | some (_, .scrb _) => false | _ => true)) = true →
    exec (.scrb n e) s = .next (s.scrbLine n i r e)) ∧
  (∀ (s : State) (n : Nat) (e : BitVec 640) (i : Issue) (r : ScrbRun), (s.ctx n).long = some (i, .scrb r) ∧ r.busy = none ∧ r.hi ≤ r.next →
    s.ctxs.all (fun p => decide (p.1 = n) || (match p.2.long with | some (_, .scrb _) => false | _ => true)) = true →
    exec (.scrb n e) s = .next (s.finishLong n (if 0 < r.new then .uncor else if 0 < r.found then .poison else .ok) (r.words.headD 0) r.words true))

/-- A sync message records the skew of a running tile and slews its count, which it never steps; an edge of TSYNC_IN whose interval is off by more than 100 ppm is ignored and logged, and an accepted edge or exchange disciplines the master by a rate alone; after 3 s without one the master runs on and a severity 4 event is logged; a new floor is appended when the master is within 2^39 ticks of the floor in force; a skew over its bound is logged. The rate of the discipline is a free value. Where a clause meets log entries 75, 76, 77 and 78, it states the model's reading named there. -/
def Obligations.TidemarkCommands : Prop :=
  (∀ (s : State) (tile : Nat), s.time.master.on = true ∧ tile < s.tiles ∧ s.tileFenced tile = false ∧ (Store.read s.time.locals tile {}).on = true →
    Answers (exec (.tidemarkSync tile) s) (fun t => (Store.read t.time.locals tile {}).count = (Store.read s.time.locals tile {}).count ∧
      Store.read t.time.skew tile 0 = Int.ofNat (Store.read s.time.locals tile {}).count - Int.ofNat s.time.master.count ∧ t.time.master = s.time.master ∧
      t.mode = s.mode ∧ t.ctxs = s.ctxs ∧ t.dram = s.dram ∧ t.params = s.params)) ∧
  (∀ (s : State), s.mode.mode ≠ .stby ∧ s.mode.mode ≠ .mirs ∧ s.time.master.on = true ∧ s.devP bTime 0 = 2 ∧ s.time.edgeSeen = true →
    sec - 400000 ≤ s.clock - s.time.lastEdge ∧ s.clock - s.time.lastEdge ≤ sec + 400000 →
    Answers (exec .tsyncIn s) (fun t => t.time.lastEdge = s.clock ∧ t.time.disciplined = true ∧ t.time.lastSync = s.clock ∧
      t.time.master.count = s.time.master.count ∧ -100000 ≤ t.time.master.rate ∧ t.time.master.rate ≤ 100000)) ∧
  (∀ (s : State), s.mode.mode ≠ .stby ∧ s.time.master.on = true ∧ s.time.edgeSeen = true →
    s.clock - s.time.lastEdge < sec - 400000 ∨ sec + 400000 < s.clock - s.time.lastEdge →
    exec .tsyncIn s = .next ({ s with time := { s.time with lastEdge := s.clock, edgeSeen := true } }.log 0 4 bTime 1023 0x08 0 0)) ∧
  (∀ (s : State) (tile link : Nat), s.devP bTime 0 = 1 ∧ s.time.master.on = true ∧ s.mode.mode ≠ .mirs ∧ tile = fld (s.param (pid bTime 1023 1) 0) 10 8 ∧ link = fld (s.param (pid bTime 1023 1) 0) 1 0 ∧ (s.link tile link).up = true →
    exec (.ptmExchange tile link) s = .next s.discipline ∧ s.discipline.time.master.count = s.time.master.count ∧ s.discipline.time.disciplined = true ∧ s.discipline.time.lastSync = s.clock) ∧
  (∀ (s : State), s.time.disciplined = true ∧ s.mode.mode ≠ .mirs ∧ (s.devP bTime 0 = 1 ∨ s.devP bTime 0 = 2) ∧ s.due s.time.lastSync (3 * sec) = true →
    exec .disciplineTimeout s = .next ({ s with time := { s.time with disciplined := false } }.log 0 4 bTime 1023 0x03 0 0)) ∧
  (∀ (s : State), s.time.master.on = true ∧ s.time.floor ≤ s.master + 2 ^ 39 →
    Answers (exec .tidemarkFloorAppend s) (fun t => t.time.floor = s.master + 2 ^ 40 ∧ t.time.master = s.time.master ∧ t.fw.floors = s.fw.floors + 1 ∧
      (Store.read t.fw.floorLog t.fw.floorCopy []).getLast? = some (floorEntry (s.master + 2 ^ 40) s.fw.floors) ∧ t.params = s.params ∧ t.mode = s.mode ∧ t.dram = s.dram)) ∧
  (∀ (s : State), s.master + 2 ^ 39 < s.time.floor →
    exec .tidemarkFloorAppend s = .next s) ∧
  (∀ (s : State) (tile ticks : Nat), [Mode.actv, .mirs, .solo].contains s.mode.mode = true ∧ 80 < ticks →
    exec (.skewLimit 0 tile ticks) s = .next (s.log tile 4 bTime 1023 0x03 0 ticks) ∧ exec (.skewLimit 1 tile ticks) s = .next (s.log 0 4 bTime 1023 0x03 0 ticks) ∧ exec (.skewLimit 2 tile ticks) s = .next (s.log 0 4 bTime 1023 0x03 0 ticks))

/-- A link whose peer does not fit fences every path; one that fits is taken with its paths, rate and flight time, a path that does not train is fenced, and the first link that forms the pair steps the master forward, ends the loss of the twin and sends the record summary; FRAME_SEND marks the frames of a message as sent and sends them; a packet whose envelope check fails is discarded and counted, and one that does not complete its message waits with it; an incomplete message asks again after 20 us; a NAK is answered by the missing packets, and four NAKs of a message fence a path; the standby drops a frame of a lower epoch with a receipt EPOCH, one of a higher epoch and one whose slot is newer without a receipt, stores no frame twice, and else stores it; a receipt of another generation is ignored, one of status EPOCH stops the unit, one of status OK marks the slot; a frame without a receipt is sent again; the standby applies the next frame. Where a clause meets log entries 62, 64, 65, 126 and 143, it states the model's reading named there. -/
def Obligations.FramesAndReceipts : Prop :=
  (∀ (s : State) (tile part tiles pair master flight rate : Nat) (gcm ok0 ok1 : Bool), tile < s.tiles ∧ s.tileFenced tile = false ∧ s.pairId ≠ 0 ∧ s.tap.scanHold = false ∧ s.mode.recovery = false ∧ s.mode.leaving = false ∧ s.mode.mode = .brup →
    part ≠ fld (s.fuseWord 4) 2 0 ∨ tiles ≠ s.tiles ∨ pair ≠ s.pairId ∨ 2000 < flight →
    exec (.isaharLinkTrained tile part tiles pair master flight rate gcm ok0 ok1) s = .next (s.tileList.foldl (fun (s : State) t => (s.raiseFence 0x8 0 t 0x43 0).raiseFence 0x8 1 t 0x43 0) s)) ∧
  (∀ (s : State) (tile part tiles pair master flight rate : Nat) (gcm : Bool), tile < s.tiles ∧ s.tileFenced tile = false ∧ s.pairId ≠ 0 ∧ s.tap.scanHold = false ∧ s.mode.recovery = false ∧ s.mode.leaving = false ∧ s.mode.mode ≠ .stby ∧ s.mode.mode ≠ .save →
    part = fld (s.fuseWord 4) 2 0 ∧ tiles = s.tiles ∧ pair = s.pairId ∧ flight ≤ 2000 ∧ gcm = decide (s.devP bCiph 0 = 1) →
    let v := s.setMt tile { s.mt tile with up0 := !s.fenced 0x8 0 tile, up1 := !s.fenced 0x8 1 tile, rate := if 128 ≤ min rate (s.tileP bMirr tile 7) then 128 else 64, flight, gcm, last0 := s.clock, last1 := s.clock }
    exec (.isaharLinkTrained tile part tiles pair master flight rate gcm true true) s = .next (if v.noPaths then v else if s.noPaths then ({ v.stepForward master with lease := { v.lease with twinLost := false } } : State).sendSummary else v)) ∧
  (∀ (s : State) (tile part tiles pair master flight rate : Nat) (gcm : Bool), tile < s.tiles ∧ s.tileFenced tile = false ∧ s.pairId ≠ 0 ∧ s.tap.scanHold = false ∧ s.mode.recovery = false ∧ s.mode.leaving = false ∧ s.mode.mode ≠ .stby ∧ s.mode.mode ≠ .save →
    part = fld (s.fuseWord 4) 2 0 ∧ tiles = s.tiles ∧ pair = s.pairId ∧ flight ≤ 2000 ∧ gcm = decide (s.devP bCiph 0 = 1) ∧ s.fenced 0x8 1 tile = false →
    let u := s.raiseFence 0x8 1 tile 0x41 0
    let v := u.setMt tile { u.mt tile with up0 := !s.fenced 0x8 0 tile, up1 := false, rate := if 128 ≤ min rate (u.tileP bMirr tile 7) then 128 else 64, flight, gcm, last0 := u.clock, last1 := u.clock }
    exec (.isaharLinkTrained tile part tiles pair master flight rate gcm true false) s = .next (if v.noPaths then v else if u.noPaths then ({ v.stepForward master with lease := { v.lease with twinLost := false } } : State).sendSummary else v)) ∧
  (∀ (s : State) (tile path c i : Nat) (f : Frame) (r : List Frame), ((s.mt tile).slots.filter (fun sl => sl.sent.isNone)).map Slot.frame = f :: r →
    packFrames f.tm (65536 - (s.mt tile).unitsOut) 0 (if (s.mt tile).gcm then 52 else 24) none (f :: r) = [f] →
    s.carrier tile = some c ∧ s.lease.twinLost = false ∧ s.freeMsgid tile 0 = some i →
    exec (.frameSend tile path) s = .next (((s.setMt tile { s.mt tile with slots := (s.mt tile).slots.map (fun sl => if f.seq = sl.frame.seq then { sl with sent := some s.clock } else sl) }).sendMsg c tile xData 24 f.seq 1 path (msgHeader f.epoch 1 false tile f.seq f.tm ++ f.wire f.tm)).tally tile 19 0x0001 {})) ∧
  (∀ (s : State) (tile path c i : Nat) (f : Frame) (r fs : List Frame), ((s.mt tile).slots.filter (fun sl => sl.sent.isNone)).map Slot.frame = f :: r →
    packFrames f.tm (65536 - (s.mt tile).unitsOut) 0 (if (s.mt tile).gcm then 52 else 24) none (f :: r) = fs ∧ fs ≠ [] →
    s.carrier tile = some c ∧ s.lease.twinLost = false ∧ s.freeMsgid tile 0 = some i →
    let last := (fs.getLast?.getD f).seq
    let v := s.setMt tile { s.mt tile with slots := (s.mt tile).slots.map (fun sl => if fs.any (fun g => decide (g.seq = sl.frame.seq)) then { sl with sent := some s.clock } else sl) }
    let v := v.sendMsg c tile xData 24 f.seq ((last + 2 ^ 48 - f.seq) % 2 ^ 48 + 1) path (msgHeader f.epoch fs.length false tile f.seq f.tm ++ fs.flatMap (fun g => g.wire f.tm))
    exec (.frameSend tile path) s = .next (fs.foldl (fun (s : State) _ => s.tally tile 19 0x0001 {}) v)) ∧
  (∀ (s : State) (tile path : Nat), (s.mt tile).slots.all (fun sl => sl.sent.isSome) = true →
    exec (.frameSend tile path) s = .next s) ∧
  (∀ (s : State) (tile path envelope : Nat) (payload : List Byte), s.carrier tile = some tile ∧ s.pathUp tile path = true ∧ payload ≠ [] ∧ payload.length ≤ 256 ∧ crc4 (envelope / 16 % 2 ^ 28) ≠ envelope % 16 →
    ((path, s.clock) :: (s.mt tile).errs.filter (fun e => decide (s.clock < e.2 + sec))).countP (fun e => decide (e.1 = path)) ≤ s.tileP bMirr tile 2 →
    exec (.messageReassembly tile path envelope payload) s = .next (s.setMt tile { s.mt tile with errs := (path, s.clock) :: (s.mt tile).errs.filter (fun e => decide (s.clock < e.2 + sec)) })) ∧
  (∀ (s : State) (tile path envelope : Nat) (payload : List Byte), s.carrier tile = some tile ∧ s.pathUp tile path = true ∧ path ≠ 0 ∧ payload ≠ [] ∧ payload.length ≤ 256 ∧ crc4 (envelope / 16 % 2 ^ 28) = envelope % 16 →
    envelope / 16 % 4 ≠ 3 ∧ envelope / 2 ^ 11 % 32 ≤ envelope / 2 ^ 6 % 32 ∧ 0 < envelope / 2 ^ 6 % 32 →
    (s.mt tile).reasm.find? (fun r => decide (r.chan = envelope / 16 % 4 ∧ r.msgid = envelope / 2 ^ 16 % 2 ^ 16)) = none →
    let v := s.setMt tile { s.mt tile with last1 := s.clock }
    let m : Reasm := { chan := envelope / 16 % 4, msgid := envelope / 2 ^ 16 % 2 ^ 16, last := envelope / 2 ^ 6 % 32, since := s.clock, nakAt := s.clock }
    exec (.messageReassembly tile path envelope payload) s = .next (v.setReasm tile { m with parts := Store.write [] (envelope / 2 ^ 11 % 32) payload [] } true)) ∧
  (∀ (s : State) (tile chan msgid : Nat) (m : Reasm), (s.mt tile).reasm.find? (fun r => decide (r.chan = chan ∧ r.msgid = msgid)) = some m ∧ s.due m.nakAt (20 * us) = true →
    exec (.reassemblyTimeout tile chan msgid) s = .next ((s.setReasm tile { m with nakAt := s.clock } true).isahar tile xNak [BitVec.ofNat 64 chan, BitVec.ofNat 64 msgid, BitVec.ofNat 64 m.bitmap])) ∧
  (∀ (s : State) (tile chan msgid bitmap : Nat), (s.mt tile).outMsgs.find? (fun m => decide (m.chan = chan ∧ m.msgid = msgid)) = none →
    exec (.nak tile chan msgid bitmap) s = .next s) ∧
  (∀ (s : State) (tile chan msgid bitmap : Nat) (m : OutMsg), (s.mt tile).outMsgs.find? (fun m => decide (m.chan = chan ∧ m.msgid = msgid)) = some m ∧ m.naks < 3 →
    let v := s.setMt tile { s.mt tile with
      outMsgs := (s.mt tile).outMsgs.map (fun q => if q = m then { m with naks := m.naks + 1, sentAt := s.clock } else q),
      slots := (s.mt tile).slots.map (fun sl => if sl.sent.isSome = true ∧ (sl.frame.seq + 2 ^ 48 - m.seq0) % 2 ^ 48 < m.frames then { sl with sent := some s.clock } else sl) }
    let missing := (List.range (m.last + 1)).filter (fun i => bitmap = 0 || !bitmap.testBit i)
    let w := (v.tally tile 19 0x0003 {}).tally tile 19 0x0002 {}
    exec (.nak tile chan msgid bitmap) s = .next (match w.carrier tile with
      | some d => w.emit (.isaharAgain d tile chan msgid (missing.foldl (fun a i => a + 2 ^ i) 0))
      | none => w)) ∧
  (∀ (s : State) (tile chan msgid bitmap c : Nat) (m : OutMsg), (s.mt tile).outMsgs.find? (fun m => decide (m.chan = chan ∧ m.msgid = msgid)) = some m ∧ 3 ≤ m.naks ∧ s.carrier tile = some c ∧ s.pathUp c 0 = true ∧ s.pathUp c 1 = true →
    let v := s.setMt tile { s.mt tile with
      outMsgs := (s.mt tile).outMsgs.map (fun q => if q = m then { m with naks := m.naks + 1, sentAt := s.clock } else q),
      slots := (s.mt tile).slots.map (fun sl => if sl.sent.isSome = true ∧ (sl.frame.seq + 2 ^ 48 - m.seq0) % 2 ^ 48 < m.frames then { sl with sent := some s.clock } else sl) }
    let missing := (List.range (m.last + 1)).filter (fun i => bitmap = 0 || !bitmap.testBit i)
    let n0 := missing.countP (fun i => decide ((m.onPath + i) % 2 = 0))
    let w := ((v.tally tile 19 0x0003 {}).tally tile 19 0x0002 {}).raiseFence 0x8 (if missing.length - n0 < n0 then 0 else 1) c 0x42 0
    exec (.nak tile chan msgid bitmap) s = .next (match w.carrier tile with
      | some d => w.emit (.isaharAgain d tile chan msgid (missing.foldl (fun a i => a + 2 ^ i) 0))
      | none => w)) ∧
  (∀ (s : State) (tile : Nat) (b : List Byte) (t : State) (ws : List Word), (s.mt tile).inbox.find? (fun b => !msgLrs b) = some b →
    (msgFrames b).foldl (fun (p : State × List Word) f => let (s, w) := p.1.receiveFrame tile f; (s, p.2 ++ w)) (s.setMt tile { s.mt tile with inbox := (s.mt tile).inbox.erase b }, []) = (t, ws) →
    exec (.frameReceive tile) s = .next (t.sendReceipts tile (ws.length / 26 + 1) ws)) ∧
  (∀ (s : State) (t : Nat) (f : Frame), let g := f.seq / 8192 % 65536
    let held := Store.read (s.mt t).gens (f.seq % 8192) 0
    s.receiveFrame t f =
      if f.epoch < s.lease.epoch then (s, s.receiptWords t 0x41 f)
      else if s.lease.epoch < f.epoch ∨ s.mode.mode ≠ .mirs then (s, [])
      else if held ≠ 0 ∧ 0 < (held - 1 + 65536 - g) % 65536 ∧ (held - 1 + 65536 - g) % 65536 < 32768 then (s, [])
      else if seqLe f.seq (s.mt t).applied ∨ (s.mt t).store.any (fun q => decide (q.seq = f.seq)) then (s, s.receiptWords t 0 f)
      else
        let v := s.setMt t { s.mt t with store := (s.mt t).store ++ [f], gens := Store.write (s.mt t).gens (f.seq % 8192) (g + 1) 0, received := if seqLe (s.mt t).received f.seq then f.seq else (s.mt t).received }
        (v, v.receiptWords t 0 f)) ∧
  (∀ (s : State) (tile gen seq status applied : Nat) (sl : Slot), (s.mt tile).slots.find? (fun sl => decide (sl.frame.seq % 8192 = seq % 8192)) = some sl ∧ sl.frame.seq / 8192 % 65536 ≠ gen →
    exec (.receipt tile gen seq status applied) s = .next s) ∧
  (∀ (s : State) (tile gen seq applied : Nat) (sl : Slot), (s.mt tile).slots.find? (fun sl => decide (sl.frame.seq % 8192 = seq % 8192)) = some sl ∧ sl.frame.seq / 8192 % 65536 = gen →
    exec (.receipt tile gen seq 0x41 applied) s = .next ({ s with lease := { s.lease with stopped := true }, unacked := [] }.nameMode .mirs 4)) ∧
  (∀ (s : State) (tile gen seq applied : Nat) (sl : Slot), (s.mt tile).slots.find? (fun sl => decide (sl.frame.seq % 8192 = seq % 8192)) = some sl ∧ sl.frame.seq / 8192 % 65536 = gen →
    exec (.receipt tile gen seq 0 applied) s = .next (((s.setMt tile { s.mt tile with slots := (s.mt tile).slots.map (fun q => if q = sl then { q with ok := true } else q) }).freeSlots tile applied).ackSeq tile sl.frame.seq)) ∧
  (∀ (s : State) (tile seq t0 : Nat) (sl : Slot), (s.mt tile).slots.find? (fun sl => decide (sl.frame.seq = seq) && !sl.ok) = some sl ∧ sl.sent = some t0 ∧ s.due t0 (s.tileP bMirr tile 1 * us) = true ∧ s.lease.twinLost = false →
    exec (.receiptTimeout tile seq) s = .next ((s.setMt tile { s.mt tile with slots := (s.mt tile).slots.map (fun q => if q = sl then { q with sent := none } else q) }).tally tile 19 0x0002 {})) ∧
  (∀ (s : State) (tile : Nat), s.mode.mode = .mirs ∧ tile < s.tiles ∧ s.tileFenced tile = false ∧ s.tideStops tile = false →
    exec (.frameApply tile) s = .next (((s.applyNext tile false).afterApply tile).tryTakeOver)) ∧
  (∀ (s : State) (tile : Nat), s.tideStops tile = true ∨ s.mode.mode ≠ .mirs →
    exec (.frameApply tile) s = .next s)

/-- An LRQ of 1 to 64 lines is answered, on the standby once APPLIED has reached SEQ_R; LRS hands its lines to the command that asked, or waits for APPLIED; an LRQ without an answer is sent again; a serving unit sends CKPT every 1 ms and the standby compares it; CKOK confirms the checkpoint and frees slots, CKBAD begins an incremental resync; SYNC is a heartbeat and disciplines the master of a standby, and a silent path is fenced; a higher EPOCH is adopted and an ACTV unit that sees one leaves; the standby takes the tides of the active unit; RSET, RESYNC and RESYNC_COMPLETE run the resync of a tile. Where a clause meets log entries 66, 74 and 133, it states the model's reading named there. -/
def Obligations.ResyncAndCheckpoints : Prop :=
  (∀ (s : State) (tile off count seqR : Nat), tile < s.tiles ∧ 0 < count ∧ count ≤ 64 ∧ off % 64 = 0 ∧ s.twinUp = true ∧ (s.mode.mode ≠ .mirs ∨ seqLe seqR (s.mt tile).applied = true) →
    exec (.lrq tile off count seqR) s = .next (s.answerLrq tile off count)) ∧
  (∀ (s : State) (tile off count seqR : Nat), tile < s.tiles ∧ 0 < count ∧ count ≤ 64 ∧ off % 64 = 0 ∧ s.twinUp = true ∧ s.mode.mode = .mirs ∧ seqLe seqR (s.mt tile).applied = false →
    exec (.lrq tile off count seqR) s = .next (s.setMt tile { s.mt tile with lrqWait := (s.mt tile).lrqWait ++ [(off, count, seqR)] })) ∧
  (∀ (s : State) (tile : Nat) (b : List Byte) (q : Lrq), s.mode.mode ≠ .mirs ∧ (s.mt tile).inbox.find? msgLrs = some b →
    (s.mt tile).lrqs.find? (fun q => decide (q.off = ((msgFrames b).head?.map Frame.off).getD 0)) = some q →
    q.why = .recovery ∨ s.lrsHeld tile q.off (msgFrames b).length = false →
    let v := s.setMt tile { s.mt tile with inbox := (s.mt tile).inbox.erase b }
    let v := v.setMt tile { v.mt tile with lrqs := (v.mt tile).lrqs.erase q }
    exec (.lrs tile) s = .next (v.takeLrs tile q.why { off := q.off, seq0 := fld (msgWord b 1) 47 0, lines := lrsLines (msgFrames b) })) ∧
  (∀ (s : State) (tile : Nat) (b : List Byte) (q : Lrq), s.mode.mode = .mirs ∧ (s.mt tile).inbox = [b] ∧ msgLrs b = true ∧ seqLe (fld (msgWord b 1) 47 0) (s.mt tile).applied = false →
    (s.mt tile).lrqs.find? (fun q => decide (q.off = ((msgFrames b).head?.map Frame.off).getD 0)) = some q →
    let v := s.setMt tile { s.mt tile with inbox := [] }
    let v := v.setMt tile { v.mt tile with lrqs := (v.mt tile).lrqs.erase q }
    (q.why = .recovery → exec (.lrs tile) s = .next (v.setMt tile { v.mt tile with lrsWait := (v.mt tile).lrsWait ++ [{ off := q.off, seq0 := fld (msgWord b 1) 47 0, lines := lrsLines (msgFrames b) }] })) ∧
    (q.why = .read → exec (.lrs tile) s = .next s)) ∧
  (∀ (s : State) (tile off : Nat) (q : Lrq), (s.mt tile).lrqs.find? (fun q => decide (q.off = off)) = some q ∧ s.due q.sentAt (s.tileP bMirr tile 1 * us) = true →
    exec (.lrqTimeout tile off) s = .next ((s.setMt tile { s.mt tile with lrqs := (s.mt tile).lrqs.map (fun r => if r = q then { r with sentAt := s.clock } else r) }).isahar tile xLrq q.words)) ∧
  (∀ (s : State) (tile seq tm : Nat) (d : Word), s.ckptGoes tile = true ∧ s.due (s.mt tile).ckptAt ms = true →
    let x := s.mt tile
    let c : Ckpt := { seq := x.lastSeq, tm := x.lastTm, digest := ~~~ x.digestFor s.epoch }
    exec (.ckpt tile seq tm d) s = .next ((s.setMt tile { x with ckptSent := some c, ckptAt := s.clock }).isahar tile xCkpt [BitVec.ofNat 64 c.seq, BitVec.ofNat 64 c.tm, c.digest])) ∧
  (∀ (s : State) (tile seq tm : Nat) (d : Word), s.mode.mode = .mirs ∧ tile < s.tiles ∧ s.ckptGoes tile = false →
    exec (.ckpt tile seq tm d) s = .next ((s.setMt tile { s.mt tile with ckptWait := some { seq := seq, tm := tm, digest := d } }).compareCkpt tile)) ∧
  (∀ (s : State) (tile seq tm : Nat) (d : Word), s.ckptGoes tile = true ∧ (s.mt tile).ckptSent = some { seq := seq, tm := tm, digest := d } →
    let v := (s.setMt tile { s.mt tile with ckpt := some { seq := seq, tm := tm, digest := d } }).freeSlots tile seq
    let v := v.setMt tile { v.mt tile with resync := (v.mt tile).resync.map (fun r => { r with confirmed := r.confirmed || (r.started && r.todo.isEmpty && decide (r.left = 0) && seqLe r.lastSeq seq) }) }
    exec (.ckok tile seq tm d) s = .next (v.endMdig tile .ok d)) ∧
  (∀ (s : State) (tile seq : Nat), s.ckptGoes tile = true ∧ (s.mt tile).ckptSent.map Ckpt.seq = some seq →
    let x := s.mt tile
    exec (.ckbad tile seq) s = .next ((s.setMt tile { x with synced := false, resync := some { kind := 1, full := x.ckpt.isNone, point := (x.ckpt.getD {}).tm } }).endMdig tile .chkfail 0)) ∧
  (∀ (s : State) (tile path tidemark : Nat), s.pathUp tile path = true ∧ s.mode.mode ≠ .mirs →
    exec (.sync tile path tidemark) s = .next (s.setMt tile (if path = 0 then { s.mt tile with last0 := s.clock } else { s.mt tile with last1 := s.clock }))) ∧
  (∀ (s : State) (tidemark : Nat), s.pathUp 0 0 = true ∧ s.mode.mode = .mirs ∧ s.time.master.on = true →
    exec (.sync 0 0 tidemark) s = .next ((s.setMt 0 { s.mt 0 with last0 := s.clock }).slewMaster (Int.ofNat (tidemark + 4 * (s.mt 0).flight) - Int.ofNat s.master))) ∧
  (∀ (s : State) (tile path : Nat), path < 2 ∧ s.pathUp tile path = true ∧ s.due (if path = 0 then (s.mt tile).last0 else (s.mt tile).last1) (s.tileP bMirr tile 0 * us) = true →
    exec (.heartbeatTimeout tile path) s = .next (s.raiseFence 0x8 path tile 0x40 0)) ∧
  (∀ (s : State) (epoch : Nat) (next : List Nat), epoch ≤ s.lease.epoch →
    exec (.epoch epoch next) s = .next s) ∧
  (∀ (s : State) (epoch : Nat) (next : List Nat), s.lease.epoch < epoch ∧ s.twinUp = true ∧ s.mode.mode = .actv ∧ s.ctxs = [] →
    exec (.epoch epoch next) s = .next ({ s with lease := { s.lease with epoch := epoch, stopped := true }, unacked := [] }.nameMode .mirs 4)) ∧
  (∀ (s : State) (epoch : Nat) (next : List Nat), s.lease.epoch < epoch ∧ s.twinUp = true ∧ s.mode.mode = .mirs ∧ s.ctxs = [] ∧ s.lease.wish ≠ .handoverFrom →
    let v : State := { s with lease := { s.lease with epoch := epoch } }
    exec (.epoch epoch next) s = .next (v.tileList.foldl (fun (u : State) t => match next[t]? with
      | some n => u.setMt t { u.mt t with applied := (n + (2 ^ 48 - 1)) % 2 ^ 48, received := (n + (2 ^ 48 - 1)) % 2 ^ 48, gens := [], store := [], ckptWait := none }
      | none => u) v)) ∧
  (∀ (s : State) (name at_ : Nat) (cs : List TwinChange), s.mode.mode = .mirs ∧ s.twinTides.any (fun d => decide (d.name = name)) = false →
    exec (.tide name (.announce at_ cs)) s = .next { s with twinTides := s.twinTides ++ [{ name := name, at_ := at_, changes := cs.map (fun c => ⟨hereChange c, 0⟩), ctx := none }] }) ∧
  (∀ (s : State) (name : Nat) (d : Tide), s.mode.mode = .mirs ∧ s.twinTides.find? (fun d => decide (d.name = name)) = some d →
    s.twinTides.find? (fun d => decide (d.name = name) && d.passed) = some d →
    let out := fun (u : State) => u.liveTiles.foldl (fun (u : State) t => if u.tideStops t then u else u.letIn t) u
    let v := d.changes.foldl (fun (u : State) e => u.entryNow d.at_ e.change) s
    let v := v.liveTiles.foldl State.setHtLen v
    exec (.tide name .release) s = .next (out { v with twinTides := v.twinTides.filter (fun e => decide (e.name ≠ name)) }) ∧
    exec (.tide name .rollback) s = .next (out { s.restore d.undo with twinTides := s.twinTides.filter (fun e => decide (e.name ≠ name)) })) ∧
  (∀ (s : State) (name : Nat) (m : TideMsg), s.mode.mode ≠ .mirs →
    exec (.tide name m) s = .next s) ∧
  (∀ (s : State) (cls inst cause : Nat), s.twinUp = true ∧ s.lease.twinFences.contains (cls, inst, cause) = false →
    exec (.fenceMessage cls inst cause) s = .next { s with lease := { s.lease with twinFences := s.lease.twinFences ++ [(cls, inst, cause)] } }) ∧
  (∀ (s : State) (tile point : Nat) (pages : List Nat) (confirmed : Bool), tile < s.tiles ∧ s.resyncs = true ∧ s.mode.mode ≠ .mirs ∧ (s.mt tile).synced = true →
    let v : State := { s with lease := { s.lease with twinMirs := true } }
    exec (.rset tile point pages confirmed) s = .next (v.setMt tile { v.mt tile with rset := pages.foldl (fun (a : List Nat) p => insertNat p a) [] })) ∧
  (∀ (s : State) (tile point : Nat) (pages : List Nat) (confirmed : Bool), tile < s.tiles ∧ s.twinUp = true ∧ s.mode.mode = .mirs ∧ (s.mt tile).synced = false →
    exec (.rset tile point pages confirmed) s = .next (s.isahar tile xRset ([BitVec.ofNat 64 point, BitVec.ofNat 64 (b01 (s.mt tile).ckpt.isSome)] ++ (s.resyncPart tile point).map (BitVec.ofNat 64)))) ∧
  (∀ (s : State) (tile next pages : Nat) (follows : Bool) (config : TwinConfig) (r : Resync), tile < s.tiles ∧ s.resyncs = true ∧ s.twinUp = true ∧ s.mode.mode ≠ .mirs ∧ (s.mt tile).resync = some r →
    exec (.resync tile next pages follows config) s = .next (s.resyncStep tile r)) ∧
  (∀ (s : State) (tile next pages : Nat) (config : TwinConfig), tile < s.tiles ∧ s.twinUp = true ∧ s.mode.mode = .mirs →
    let u := s.takeConfig config
    let v : State := { u with lease := { u.lease with fbSince := none } }
    let n := (next + (2 ^ 48 - 1)) % 2 ^ 48
    exec (.resync tile next pages false config) s = .next (v.setMt tile { u.mt tile with synced := false, resync := some { kind := 2, full := false, point := 0, started := true, left := pages, total := pages }, digestFrom := none, ckptWait := none, applied := n, received := n, store := [], gens := [], digest := BitVec.allOnes 64, dEpoch := v.lease.epoch })) ∧
  (∀ (s : State) (t : Nat) (r : Resync), r.kind = 1 ∧ r.full = true ∧ s.mode.mode = .actv →
    let todo := s.fullSet t
    s.resyncStep t r = (s.setMt t { s.mt t with rset := [], digest := BitVec.allOnes 64, dEpoch := s.epoch, ckptSent := none, resync := some { r with kind := 3, started := todo.isEmpty, todo := todo, left := todo.length, total := todo.length, confirmed := false, lastSeq := (s.mt t).lastSeq } }).emit (.config t s.twinConfig)) ∧
  (∀ (s : State) (t p : Nat) (r : Resync) (rest : List Nat), r.kind ≠ 1 ∧ r.todo = p :: rest ∧ (s.mt t).windowFull = false ∧ s.pageAway t = false ∧ r.nextAt ≤ s.clock ∧ (s.mt t).slots.countP (fun sl => sl.resync) < 4096 →
    s.resyncStep t r = (s.setMt t { s.mt t with resync := some { r with started := true, todo := rest, lastSeq := (s.mt t).seq, nextAt := s.clock + (16384 + s.tileP bMirr t 3 - 1) / s.tileP bMirr t 3 } }).pageFrame t p) ∧
  (∀ (s : State) (tile : Nat) (r : Resync), (s.mt tile).resync = some r ∧ s.resyncs = true ∧ r.confirmed = true →
    let v := (s.setMt tile { s.mt tile with synced := true, resync := none }).creditMsync tile r.total
    exec (.resyncComplete tile) s = .next (if v.mode.mode = .solo ∧ v.allSynced = true ∧ v.mode.soloMain = false then v.nameMode .actv 0x0D else v))

/-- A REQ of the holder under the epoch E restarts its timer and is granted E; a REQ of another unit while there is no holder is granted E + 1 when it carries E or FORCE, and makes the sender the holder; while a holder exists it is denied with the remaining lease; any other is denied with 0; a BUMP of the holder under E raises the epoch; a RELEASE of the holder ends it; a REPORT is recorded; the holder is gone when its timer reaches L, and after a restart keeps L from the restart. No rule lowers the epoch of a pair. Where a clause meets log entry 72, it states the model's reading named there. -/
def Obligations.WitnessRules : Prop :=
  (∀ (s : State) (pair port reqno value : Nat) (force : Bool), pair ≠ 0 ∧ (s.witOf pair).holder = some port →
    let w := s.witOf pair
    exec (.req pair port w.epoch reqno value force) s = .next ((s.setWit pair { w with len := value, timer := s.clock }).emit (.witnessAns pair port 2 w.epoch reqno value))) ∧
  (∀ (s : State) (pair port epoch reqno value : Nat) (force : Bool), pair ≠ 0 ∧ (s.witOf pair).holder = none ∧ (epoch = (s.witOf pair).epoch ∨ force = true) →
    let w := s.witOf pair
    exec (.req pair port epoch reqno value force) s = .next ((s.setWit pair { w with epoch := w.epoch + 1, holder := some port, len := value, timer := s.clock }).emit (.witnessAns pair port 2 (w.epoch + 1) reqno value))) ∧
  (∀ (s : State) (pair port other epoch reqno value : Nat) (force : Bool), pair ≠ 0 ∧ (s.witOf pair).holder = some other ∧ other ≠ port →
    exec (.req pair port epoch reqno value force) s = .next (s.emit (.witnessAns pair port 3 (s.witOf pair).epoch reqno (s.leaseLeft (s.witOf pair))))) ∧
  (∀ (s : State) (pair port epoch reqno value : Nat) (force : Bool), pair ≠ 0 ∧ epoch ≠ (s.witOf pair).epoch ∧ ((s.witOf pair).holder = some port ∨ (s.witOf pair).holder = none ∧ force = false) →
    exec (.req pair port epoch reqno value force) s = .next (s.emit (.witnessAns pair port 3 (s.witOf pair).epoch reqno 0))) ∧
  (∀ (s : State) (pair port reqno : Nat), pair ≠ 0 ∧ (s.witOf pair).holder = some port →
    let w := s.witOf pair
    exec (.bump pair port w.epoch reqno) s = .next ((s.setWit pair { w with epoch := w.epoch + 1, timer := s.clock }).emit (.witnessAns pair port 2 (w.epoch + 1) reqno w.len))) ∧
  (∀ (s : State) (pair port epoch reqno : Nat), pair ≠ 0 ∧ ((s.witOf pair).holder ≠ some port ∨ epoch ≠ (s.witOf pair).epoch) →
    exec (.bump pair port epoch reqno) s = .next (s.emit (.witnessAns pair port 3 (s.witOf pair).epoch reqno 0))) ∧
  (∀ (s : State) (pair port reqno : Nat), pair ≠ 0 ∧ (s.witOf pair).holder = some port →
    exec (.release pair port reqno) s = .next ((s.setWit pair { s.witOf pair with holder := none }).emit (.witnessAns pair port 7 (s.witOf pair).epoch reqno 0))) ∧
  (∀ (s : State) (pair port reqno cause arg : Nat), pair ≠ 0 →
    exec (.report pair port reqno ⟨cause, arg⟩) s = .next ((s.setWit pair { s.witOf pair with reports := (s.witOf pair).reports ++ [(port, cause, arg)] }).emit (.witnessAns pair port 7 (s.witOf pair).epoch reqno 0))) ∧
  (∀ (s : State) (pair : Nat), (s.witOf pair).holder.isSome = true ∧ (s.witOf pair).timer + (s.witOf pair).len * us ≤ s.clock →
    exec (.witnessLeaseExpiry pair) s = .next (s.setWit pair { s.witOf pair with holder := none })) ∧
  (∀ (s : State) (pair : Nat), s.clock < (s.witOf pair).timer + (s.witOf pair).len * us →
    exec (.witnessLeaseExpiry pair) s = .next s) ∧
  (∀ (s : State), exec .witnessRestart s = .next { s with wit := s.wit.map (fun p => if p.2.holder.isSome then (p.1, { p.2 with timer := s.clock }) else p) }) ∧
  (∀ (s : State) (pair port epoch reqno value q : Nat) (force : Bool), let up := fun (t : State) => (s.witOf q).epoch ≤ (t.witOf q).epoch
    Answers (exec (.req pair port epoch reqno value force) s) up ∧ Answers (exec (.bump pair port epoch reqno) s) up ∧ Answers (exec (.release pair port reqno) s) up ∧ Answers (exec (.report pair port reqno ⟨value, 0⟩) s) up ∧ Answers (exec (.witnessLeaseExpiry pair) s) up)

/-- A renewal and a retry send REQ with a new request number; a GRANT of another request or without one open moves nothing, and a DENY leaves the deadline; the deadline E stops a holder, logs cause 0x46 and takes an ACTV unit to MIRS, and 2 us later the reads are abandoned; ROLE (handover request) is refused unless preferred is 0 on the active unit; at the instant of a handover the ingress stops, and RELEASE goes once the windows are empty, and its ACK takes the unit to MIRS; a preferred standby asks for failback; MROLE, MSYNC, MDIG and LEASE as the reference gives them. Where a clause meets log entries 68, 70, 73 and 131, it states the model's reading named there. -/
def Obligations.LeaseOfTheUnit : Prop :=
  (∀ (s : State), s.renews = true ∧ s.lease.waiting = false ∧ s.due s.lease.renewAt (s.devP bMirr 4 * us) = true →
    let v : State := { s with lease := { s.lease with renewAt := s.clock, tries := 0, force := false } }
    exec .leaseRenew s = .next (v.witSend 1 v.leaseLen)) ∧
  (∀ (s : State), s.lease.waiting = true ∧ s.due s.lease.sentAt (200 * us) = true ∧ s.lease.tries < 2 →
    let v : State := { s with lease := { s.lease with tries := s.lease.tries + 1 } }
    exec .reqRetry s = .next (v.witSend s.lease.kind (if s.lease.kind = 1 then s.leaseLen else 0))) ∧
  (∀ (s : State) (epoch reqno value : Nat), s.pairId ≠ 0 ∧ (s.lease.waiting = false ∨ reqno ≠ s.lease.reqno) →
    exec (.grant epoch ⟨s.pairId, reqno⟩ value) s = .next { s with lease := { s.lease with lastType := 2, lastWit := some s.clock } }) ∧
  (∀ (s : State) (value : Nat), s.pairId ≠ 0 ∧ s.lease.waiting = true ∧ s.mode.mode = .actv ∧ s.lease.expired = false ∧ s.lease.wish = .idle ∧ s.ctxs = [] ∧ s.lease.takeOver = false →
    exec (.grant s.lease.epoch ⟨s.pairId, s.lease.reqno⟩ value) s = .next { s with lease := { s.lease with lastType := 2, lastWit := some s.clock, waiting := false, tries := 0, force := false, held := true, expired := false, readsUntil := none, denyUntil := none, deadline := s.lease.sentAt + value * us - (value * us / 5000 + 3200) } }) ∧
  (∀ (s : State) (pair epoch reqno value : Nat), s.pairId = 0 ∨ pair ≠ s.pairId →
    exec (.grant epoch ⟨pair, reqno⟩ value) s = .next s ∧ exec (.deny epoch ⟨pair, reqno⟩ value) s = .next s ∧ exec (.ack ⟨pair, reqno⟩) s = .next s) ∧
  (∀ (s : State) (epoch value : Nat), s.pairId ≠ 0 ∧ s.lease.waiting = true ∧ s.lease.wish = .idle ∧ s.ctxs = [] →
    exec (.deny epoch ⟨s.pairId, s.lease.reqno⟩ value) s = .next { s with lease := { s.lease with lastType := 3, lastWit := some s.clock, waiting := false, tries := 0, force := false } }) ∧
  (∀ (s : State) (t0 : Nat), s.lease.denyUntil = some t0 ∧ t0 ≤ s.clock ∧ s.mode.mode = .mirs ∧ s.allSynced = true ∧ s.lease.twinLost = true →
    let v : State := { s with lease := { s.lease with denyUntil := none } }
    exec .denyWaitEnd s = .next (v.witSend 1 v.leaseLen)) ∧
  (∀ (s : State), s.pairId ≠ 0 ∧ s.lease.waiting = true ∧ s.lease.kind = 4 →
    exec (.ack ⟨s.pairId, s.lease.reqno⟩) s = .next (({ s with lease := { s.lease with lastType := 7, lastWit := some s.clock, waiting := false, tries := 0, held := false } }.emit (.role .done)).nameMode .mirs 6)) ∧
  (∀ (s : State), s.pairId ≠ 0 ∧ s.lease.held = true ∧ s.lease.expired = false ∧ s.lease.deadline ≤ s.clock →
    let v : State := { s with lease := { s.lease with held := false, expired := true, readsUntil := some (s.lease.deadline + 2 * us) } }
    let v := ((v.emit (.role .leaseLost)).log 0 5 bMirr 1023 0x06 0x46 0).report 0x46 0
    exec .leaseDeadline s = .next (if v.mode.mode = .actv then v.nameMode .mirs 4 else v)) ∧
  (∀ (s : State) (t0 : Nat), s.lease.readsUntil = some t0 ∧ t0 ≤ s.clock →
    exec .readAbandon s = .next { s.abandonHosts with lease := { s.lease with readsUntil := none } }) ∧
  (∀ (s : State), s.twinUp = true ∧ s.mode.mode = .actv ∧ s.devP bMirr 1 ≠ 0 →
    exec (.role .request) s = .next (s.emit (.role .refused))) ∧
  (∀ (s : State) (t : Nat), s.twinUp = true ∧ s.mode.mode = .mirs →
    exec (.role (.at_ t)) s = .next { s with lease := { s.lease with handoverAt := some t, wish := .handoverTo } }) ∧
  (∀ (s : State) (t0 : Nat), s.lease.handoverAt = some t0 ∧ s.mode.mode = .actv ∧ s.lease.wish = .handoverFrom ∧ t0 ≤ s.master ∧ s.lease.released = false →
    s.windowsEmpty = true →
    let v : State := { s with lease := { s.lease with stopped := true, released := true, tries := 0 } }
    exec .handover s = .next (v.witSend 4 0)) ∧
  (∀ (s : State) (t0 : Nat), s.lease.handoverAt = some t0 ∧ s.master < t0 →
    exec .handover s = .next s) ∧
  (∀ (s : State) (t0 : Nat), s.lease.fbSince = some t0 ∧ s.mode.mode = .mirs ∧ s.devP bMirr 1 = 1 ∧ s.devP bMirr 5 ≠ 0 ∧ s.allSynced = true ∧ s.twinUp = true ∧ s.due t0 (s.devP bMirr 5 * sec) = true →
    exec .failbackRequest s = .next ({ s with lease := { s.lease with fbSince := some s.clock } }.emit (.role .request))) ∧
  (∀ (s : State) (n : Nat) (i : Issue) (c : Ctx), Ready s n 0x50 i c →
    (s.consume n i c).allSynced = true ∧ (s.consume n i c).twinUp = true ∧ fld i.word 0 0 = 0 ∧ (s.consume n i c).mode.mode = .actv ∧ (s.consume n i c).lease.handoverAt = none →
    exec (.mrole n) s = .next (((s.consume n i c).startLong n i (.mrole 0)).startHandover)) ∧
  (∀ (s : State) (n : Nat) (i : Issue) (c : Ctx), Ready s n 0x50 i c →
    (s.consume n i c).allSynced = true ∧ (s.consume n i c).twinUp = true ∧ fld i.word 0 0 = 1 ∧ (s.consume n i c).mode.mode = .mirs →
    let u := (s.consume n i c).startLong n i (.mrole 1)
    exec (.mrole n) s = .next ({ u with lease := { (s.consume n i c).lease with mrole := true } }.emit (.role .request))) ∧
  (∀ (s : State) (n : Nat) (i : Issue) (c : Ctx), Ready s n 0x50 i c ∧ (s.consume n i c).twinUp = false →
    exec (.mrole n) s = .next ((s.consume n i c).complete n i .mode 0 [] false)) ∧
  (∀ (s : State) (n : Nat) (i : Issue) (c : Ctx), Ready s n 0x51 i c ∧ (s.consume n i c).twinUp = true ∧ fld i.word 7 0 = 0 →
    exec (.msync n) s = .next ((s.consume n i c).done n i 0)) ∧
  (∀ (s : State) (n : Nat) (i : Issue) (c : Ctx), Ready s n 0x51 i c →
    (s.consume n i c).twinUp = true ∧ fld i.word 7 0 ≠ 0 ∧ fld i.word 7 0 < 2 ^ (s.consume n i c).tiles ∧ s.mode.mode ≠ .mirs →
    let u := s.consume n i c
    let ts := u.tileList.filter (fun t => (fld i.word 7 0).testBit t)
    exec (.msync n) s = .next (ts.foldl (fun (v : State) t => v.beginResync t (iXf i.word)) ((u.startLong n i (.msync (fld i.word 7 0) 0)).pendRec n i))) ∧
  (∀ (s : State) (n : Nat) (i : Issue) (c : Ctx), Ready s n 0x52 i c →
    fld i.word 2 0 < s.tiles ∧ (s.consume n i c).ckptGoes (fld i.word 2 0) = true →
    exec (.mdig n) s = .next (((s.consume n i c).startLong n i (.mdig (fld i.word 2 0))).sendCkpt (fld i.word 2 0))) ∧
  (∀ (s : State) (n : Nat) (i : Issue) (c : Ctx), Ready s n 0x53 i c ∧ fld i.word 0 0 = 0 →
    exec (.lease n) s = .next ((s.consume n i c).done n i (s.consume n i c).leaseWord)) ∧
  (∀ (s : State) (n : Nat) (i : Issue) (c : Ctx), Ready s n 0x53 i c ∧ fld i.word 0 0 = 1 →
    (s.consume n i c).mode.mode = .actv ∧ (s.consume n i c).pairId ≠ 0 ∧ ((s.consume n i c).startLong n i .lease).lease.waiting = false →
    let u := (s.consume n i c).startLong n i .lease
    let v : State := { u with lease := { u.lease with tries := 0 } }
    exec (.lease n) s = .next (v.witSend 1 v.leaseLen)) ∧
  (∀ (s : State) (n : Nat) (i : Issue) (c : Ctx), Ready s n 0x53 i c ∧ fld i.word 0 0 = 1 →
    (s.consume n i c).mode.mode = .mirs ∨ (s.consume n i c).mode.mode = .main ∨ (s.consume n i c).mode.mode = .brup ∨ (s.consume n i c).mode.mode = .save →
    exec (.lease n) s = .next ((s.consume n i c).complete n i .mode 0 [] false))

/-- To issue a nonce of a source, a tile sets the source's counter to the larger of the counter plus 1 and the tile's current Tidemark, and the nonce carries the new counter in its low 64 bits; a GCM encryption of P pages takes c to c + P - 1, with c computed in the same way, and leaves the counter at c + P - 1; ciph.nonce_ctr[src] reports each counter. -/
def Obligations.NonceIssue : Prop :=
  (∀ (s : State) (t src : Nat), src < 4 →
    let c := max (Store.read s.nonces (4 * t + src) 0 + 1) (s.localCount t)
    ((s.issueNonce t src).1.drop 4 = beBytes 8 c) ∧ Store.read (s.issueNonce t src).2.nonces (4 * t + src) 0 = c ∧ (s.issueNonce t src).2.ctxs = s.ctxs ∧ (s.issueNonce t src).2.params = s.params) ∧
  (∀ (s : State) (t pages : Nat), 0 < pages →
    let c := max (Store.read s.nonces (4 * t + 3) 0 + 1) (s.localCount t)
    (s.takeRange t pages).1 = c ∧ Store.read (s.takeRange t pages).2.nonces (4 * t + 3) 0 = c + pages - 1) ∧
  (∀ (s : State) (t c i : Nat), (s.nonceBytes t 3 (c + i)).drop 4 = beBytes 8 (c + i)) ∧
  (∀ (s : State) (t src : Nat), t < s.tiles ∧ 1 ≤ src ∧ src ≤ 3 →
    s.view (pid bCiph t (8 + src)) 0 = BitVec.ofNat 64 (Store.read s.nonces (4 * t + src) 0))

/-- KUNW refuses a slot outside the session's range with RESV, and an unwrapping slot that holds no KEK, a slot that KUNW does not install, an occupied slot and a blob that fails R439 with KEY, and else installs the key; on the active unit a key of a session's range goes to the twin first, and KUNW ends with KEY where the twin does not install it; KDROP clears a slot that is in no use; CRYP refuses bad ranges with RANGE and a slot without its key with KEY, and a GCM encryption counts on its slot, takes its nonce range and counts its pages; each unit moves 64 bytes; CSAV without a state is IDLE, and else it writes the record, sealed where it stands inside a page; CRST checks the record, its INSTALLS and its token before it resumes. Where a clause meets log entries 82, 83, 84, 85 and 135, it states the model's reading named there. -/
def Obligations.CipherInstructions : Prop :=
  (∀ (s : State) (n : Nat) (b : Bool) (i : Issue) (c : Ctx), Ready s n 0x70 i c ∧ fld i.word 15 13 < s.tiles ∧ i.pl < 2 ∧ s.tileFenced (fld i.word 15 13) = false →
    (let u := s.consume n i c; (u.keySlot (fld i.word 15 13) (fld ((u.ctx n).opA i.word) 12 0)).usage ≠ 1 ∨ kunwSlot (fld i.word 12 0) i.pl = false ∨ (u.keySlot (fld i.word 15 13) (fld i.word 12 0)).usage ≠ 0) →
    exec (.kunw n b) s = .next ((s.consume n i c).complete n i .key 0 [] false)) ∧
  (∀ (s : State) (n : Nat) (b : Bool) (i : Issue) (c : Ctx), Ready s n 0x70 i c ∧ fld i.word 15 13 < s.tiles ∧ i.pl < 2 ∧ s.tileFenced (fld i.word 15 13) = false →
    (let u := s.consume n i c; (u.keySlot (fld i.word 15 13) (fld ((u.ctx n).opA i.word) 12 0)).usage = 1 ∧ kunwSlot (fld i.word 12 0) i.pl = true ∧ (u.keySlot (fld i.word 15 13) (fld i.word 12 0)).usage = 0) →
    let u := s.consume n i c
    let t := fld i.word 15 13
    let slot := fld i.word 12 0
    exec (.kunw n b) s = .next (((kwpUnwrap (u.keySlot t (fld ((u.ctx n).opA i.word) 12 0)).key (i.data.map wordBytes).flatten).bind (u.blobKey n t slot i.pl i.data)).elim
      (u.complete n i .key 0 [] false) (fun k =>
        let shared := k.isScoped && decide (u.mode.mode = .actv)
        let v := if shared then u.isahar t xKey (word [(16, fld ((u.ctx n).opA i.word) 12 0), (0, slot)] :: i.data) else u
        if shared && !b then v.complete n i .key 0 [] false else (v.installKey t slot k (iXf i.word)).done n i (BitVec.ofNat 64 slot)))) ∧
  (∀ (s : State) (n : Nat) (b : Bool) (i : Issue) (c : Ctx), Ready s n 0x70 i c ∧ fld i.word 15 13 < s.tiles ∧ 2 ≤ i.pl →
    (let r := (s.consume n i c).resvOf n (fld i.word 15 13); fld i.word 12 0 < r.keyBase ∨ r.keyBase + r.keys ≤ fld i.word 12 0) →
    exec (.kunw n b) s = .next ((s.consume n i c).complete n i .resv 0 [] false)) ∧
  (∀ (s : State) (n : Nat) (i : Issue) (c : Ctx), Ready s n 0x71 i c ∧ fld i.word 15 13 < s.tiles ∧ i.pl < 2 ∧ s.tileFenced (fld i.word 15 13) = false →
    (let u := s.consume n i c; let t := fld i.word 15 13; let k := fld i.word 12 0; (u.keySlot t k).usage ≠ 0 ∧ u.slotLoan t k = false ∧ u.slotIde t k = false ∧ u.slotRuns t k = false ∧ u.slotRegion t k = false) →
    exec (.kdrop n) s = .next (((s.consume n i c).clearKey (fld i.word 15 13) (fld i.word 12 0)).done n i 0)) ∧
  (∀ (s : State) (n : Nat) (i : Issue) (c : Ctx), Ready s n 0x71 i c ∧ fld i.word 15 13 < s.tiles ∧ i.pl < 2 ∧ s.tileFenced (fld i.word 15 13) = false →
    ((s.consume n i c).keySlot (fld i.word 15 13) (fld i.word 12 0)).usage = 0 →
    exec (.kdrop n) s = .next ((s.consume n i c).complete n i .key 0 [] false)) ∧
  (∀ (s : State) (n m : Nat) (i : Issue) (c : Ctx) (k : Cryp), Ready s n 0x74 i c ∧ (s.ctx n).long = none ∧ fld i.word 17 16 < 2 →
    (let u := s.consume n i c; k = { slot := fld i.word 12 0, mode := fld i.word 17 16, tile := fld i.word 38 36, pages := fld i.word 35 20, src := ((u.ctx n).opA i.word).toNat, dst := ((u.ctx n).reg (iGb i.word)).toNat, installs := (u.keySlot (fld i.word 38 36) (fld i.word 12 0)).installs, base := if iX i.word then i.ext.toNat else 0 }) →
    (s.consume n i c).crypRanges k = true ∧ (s.consume n i c).tileFenced k.tile = false ∧ (s.consume n i c).crypKey k = true →
    exec (.cryp n m) s = .next ((((s.consume n i c).startLong n i .cryp).setCryp n k).pendRec n i)) ∧
  (∀ (s v : State) (n m : Nat) (i : Issue) (c : Ctx) (k : Cryp), Ready s n 0x74 i c ∧ (s.ctx n).long = none ∧ fld i.word 17 16 = 2 →
    (let u := s.consume n i c; k = { slot := fld i.word 12 0, mode := 2, tile := fld i.word 38 36, pages := fld i.word 35 20, src := ((u.ctx n).opA i.word).toNat, dst := ((u.ctx n).reg (iGb i.word)).toNat, installs := (u.keySlot (fld i.word 38 36) (fld i.word 12 0)).installs, base := if iX i.word then i.ext.toNat else 0 }) →
    (s.consume n i c).crypRanges k = true ∧ (s.consume n i c).tileFenced k.tile = false ∧ (s.consume n i c).crypKey k = true ∧ (s.consume n i c).countEnc k.tile k.slot = (true, v) →
    exec (.cryp n m) s = .next (v.startGcm n i k)) ∧
  (∀ (s : State) (n m : Nat) (i : Issue) (c : Ctx), Ready s n 0x74 i c ∧ (s.ctx n).long = none ∧ fld i.word 17 16 < 2 ∧ fld i.word 35 20 = 0 →
    exec (.cryp n m) s = .next ((s.consume n i c).complete n i .range 0 [] false)) ∧
  (∀ (s : State) (n : Nat) (i : Issue) (k : Cryp), let p := s.takeRange k.tile k.pages
    let e := p.2.keySlot k.tile k.slot
    let v := p.2.setKey k.tile k.slot { e with encs := e.encs + (k.pages - 1) }
    s.startGcm n i k = ((v.startLong n i .cryp).setCryp n { k with base := p.1 }).pendRec n i) ∧
  (∀ (s : State) (n m : Nat) (i : Issue), (s.ctx n).long = some (i, .cryp) →
    exec (.cryp n m) s = .next ((List.range m).foldl (fun (v : State) _ => v.crypStep n) s)) ∧
  (∀ (s : State) (n : Nat) (i : Issue) (k : Cryp), (s.ctx n).long = some (i, .cryp) ∧ (s.ctx n).cryp = some k ∧ s.fences.inForce = [] →
    (s.keySlot k.tile k.slot).installs ≠ k.installs →
    s.crypStep n = s.finishR n .key 0) ∧
  (∀ (s : State) (n : Nat) (i : Issue) (c : Ctx), Ready s n 0x72 i c ∧ fld i.word 2 0 < s.tiles ∧ (s.ctx n).cryp = none ∧ (c.cryp = none) →
    exec (.csav n) s = .next ((s.consume n i c).complete n i .idle 0 [] false)) ∧
  (∀ (s : State) (n : Nat) (i : Issue) (c : Ctx) (k : Cryp), Ready s n 0x72 i c ∧ fld i.word 2 0 < s.tiles ∧ s.csavWaits n = false ∧ ((s.consume n i c).ctx n).cryp = some k ∧ k.unit = 0 →
    (let u := s.consume n i c; (((u.ctx n).opA i.word).toNat + 64 ≤ u.dfaSize (fld i.word 2 0)) ∧ u.fencedDfa (fld i.word 2 0) ((u.ctx n).opA i.word).toNat 64 = false) →
    let u := s.consume n i c
    let token := u.drawWord.1.toNat % 2 ^ 32
    let v := u.drawWord.2.writeDfa (fld i.word 2 0) ((u.ctx n).opA i.word).toNat ((k.words token).map wordBytes).flatten
    let v := v.setCtx n { v.ctx n with cryp := none, token := if k.mode = 2 then some token else (v.ctx n).token }
    exec (.csav n) s = .next (v.done n i 64)) ∧
  (∀ (s : State) (n : Nat) (i : Issue) (c : Ctx) (k : Cryp), Ready s n 0x72 i c ∧ fld i.word 2 0 < s.tiles ∧ s.csavWaits n = false ∧ ((s.consume n i c).ctx n).cryp = some k ∧ k.unit ≠ 0 →
    (let u := s.consume n i c; (((u.ctx n).opA i.word).toNat + 104 ≤ u.dfaSize (fld i.word 2 0)) ∧ u.fencedDfa (fld i.word 2 0) ((u.ctx n).opA i.word).toNat 104 = false) →
    let u := s.consume n i c
    let t := fld i.word 2 0
    let token := u.drawWord.1.toNat % 2 ^ 32
    let v := u.drawWord.2.writeDfa t ((u.ctx n).opA i.word).toNat (kwpWrap (u.drawWord.2.keySlot t 1).key ((k.words token).map wordBytes).flatten)
    let v := v.setCtx n { v.ctx n with cryp := none, token := if k.mode = 2 then some token else (v.ctx n).token }
    exec (.csav n) s = .next (v.done n i (word [(16, 1), (0, 104)]))) ∧
  (∀ (s : State) (n : Nat) (i : Issue) (c : Ctx), Ready s n 0x73 i c ∧ fld i.word 2 0 < s.tiles →
    (s.consume n i c).dfaSize (fld i.word 2 0) < (((s.consume n i c).ctx n).opA i.word).toNat + 64 →
    exec (.crst n) s = .next ((s.consume n i c).complete n i .range 0 [] false)) ∧
  (∀ (s : State) (n : Nat) (i : Issue) (c : Ctx), Ready s n 0x73 i c ∧ fld i.word 2 0 < s.tiles →
    (let u := s.consume n i c; let a := ((u.ctx n).opA i.word).toNat; (a + 64 ≤ u.dfaSize (fld i.word 2 0)) ∧ u.fencedDfa (fld i.word 2 0) a 64 = false ∧ (u.readDfa (fld i.word 2 0) a 64).2 = false) →
    let u := s.consume n i c
    let t := fld i.word 2 0
    exec (.crst n) s = .next ((u.savedCryp t ((u.ctx n).opA i.word).toNat).elim (u.complete n i .key 0 [] false) (fun ws =>
      let k := (crypOf t ws).1
      if u.crypRanges k = false ∨ k.pages ≤ k.done then u.complete n i .range 0 [] false
      else if u.crypKey k = false ∨ (u.keySlot t k.slot).installs ≠ k.installs then u.complete n i .key 0 [] false
      else if k.mode = 2 ∧ (u.ctx n).token ≠ some (crypOf t ws).2 then u.complete n i .nonce 0 [] false
      else
        let v := (u.startLong n i .cryp).setCryp n k
        v.setCtx n { v.ctx n with token := none })))

/-- The anti-rollback count is the index of the highest ARB bit (bits 0 to 63 in fuse word 1, 64 to 127 in word 2) that reads 1, plus one; it is 0 when no bit is set and at most 128; bits that read 0 below the highest do not lower it. -/
def Obligations.AntiRollbackCount : Prop :=
  (∀ (s : State) (k : Nat), k < 128 ∧ (s.fuseWord (1 + k / 64)).getLsbD (k % 64) = true →
    (∀ j < 128, k < j → (s.fuseWord (1 + j / 64)).getLsbD (j % 64) = false) →
    s.arbCount = k + 1) ∧
  (∀ (s : State), (∀ j < 128, (s.fuseWord (1 + j / 64)).getLsbD (j % 64) = false) →
    s.arbCount = 0) ∧
  (∀ (s : State), s.arbCount ≤ 128)

/-- Each OP of fuse.cmd that waits ends with RESULT 5 outside MAIN, 8 while a save is committed, 4 without VDD_FUSE, 3 where the lifecycle state does not allow it, 2 where the authorisation it needs fails, and 6 for a word that is programmed, and else begins to program; OP 0x06 blows no fuse and unlocks; in RETIRED every OP is refused; programming that completes makes the word or the bit read from then on; a stop leaves a word that can never be programmed again; a change of the parameter store is committed to the other copy, or as a delta while PRESERVE is set. The order of the checks of one command and RESULT 8 while a save is committed are the model's reading (log entry 88), the stop's order that of log entry 89. -/
def Obligations.FuseCommands : Prop :=
  (∀ (s : State) (a : Bool) (w : Word), s.fuse.cmd = some w ∧ fld w 63 56 = 1 ∧ s.mode.mode = .main ∧ s.save.run = none ∧ s.pwr.vddFuse = true ∧ s.life = .mfg ∧ 4 ≤ fld w 15 8 ∧ fld w 15 8 ≤ 37 →
    s.fuse.progd.contains (fld w 15 8) = false ∧ s.fuse.dead.contains (fld w 15 8) = false →
    exec (.programWord a) s = .next { s with fuse := { s.fuse with cmd := none, busy := some (1, fld w 15 8, fld w 7 0, s.fuse.data), since := s.clock } }) ∧
  (∀ (s : State) (a : Bool) (w : Word), s.fuse.cmd = some w ∧ fld w 63 56 = 1 ∧ s.mode.mode = .main ∧ s.save.run = none ∧ s.pwr.vddFuse = true ∧ s.life = .mfg ∧ 4 ≤ fld w 15 8 ∧ fld w 15 8 ≤ 37 →
    s.fuse.progd.contains (fld w 15 8) = true ∨ s.fuse.dead.contains (fld w 15 8) = true →
    exec (.programWord a) s = .next { s with fuse := { s.fuse with cmd := none, result := 6 } }) ∧
  (∀ (s : State) (a : Bool) (w : Word), s.fuse.cmd = some w ∧ (fld w 63 56 = 1 ∨ fld w 63 56 = 3 ∨ fld w 63 56 = 4 ∨ fld w 63 56 = 5) ∧ (s.mode.mode ≠ .main ∨ s.save.run.isSome = true ∨ s.pwr.vddFuse = false) →
    let c := match fld w 63 56 with | 1 => Instr.programWord a | 3 => Instr.retiredTransition a | 4 => Instr.revokeSlot a | _ => Instr.setDebugBit a
    exec c s = .next { s with fuse := { s.fuse with cmd := none, result := if s.mode.mode ≠ .main then 5 else if s.save.run.isSome then 8 else 4 } }) ∧
  (∀ (s : State) (w : Word), s.fuse.cmd = some w ∧ fld w 63 56 = 2 ∧ s.mode.mode = .main ∧ s.save.run = none ∧ s.pwr.vddFuse = true ∧ s.life = .mfg →
    exec .ownedTransition s = .next (if [4, 5, 6, 7, 8, 9, 10, 11, 12, 13, 14, 15, 16, 35, 36, 37].all s.wordValid then { s with fuse := { s.fuse with cmd := none, busy := some (2, fld w 15 8, fld w 7 0, s.fuse.data), since := s.clock } } else { s with fuse := { s.fuse with cmd := none, result := 3 } })) ∧
  (∀ (s : State) (a : Bool) (w : Word), s.fuse.cmd = some w ∧ s.mode.mode = .main ∧ s.save.run = none ∧ s.pwr.vddFuse = true ∧ s.life = .mfg →
    let t : State := { s with fuse := { s.fuse with cmd := none, busy := some (fld w 63 56, fld w 15 8, fld w 7 0, s.fuse.data), since := s.clock } }
    (fld w 63 56 = 3 → exec (.retiredTransition a) s = .next t) ∧ (fld w 63 56 = 5 → exec (.setDebugBit a) s = .next t) ∧
    (fld w 63 56 = 4 → s.ownerOk (fld w 1 0) = false → exec (.revokeSlot a) s = .next t)) ∧
  (∀ (s : State) (a : Bool) (w : Word), s.fuse.cmd = some w ∧ fld w 63 56 = 4 ∧ s.mode.mode = .main ∧ s.save.run = none ∧ s.pwr.vddFuse = true ∧ s.ownerOk (fld w 1 0) = true →
    (List.range 4).all (fun k => decide (k = fld w 1 0) || !s.ownerOk k) = true →
    exec (.revokeSlot a) s = .next { s with fuse := { s.fuse with cmd := none, result := 3 } }) ∧
  (∀ (s : State) (w : Word), s.fuse.cmd = some w ∧ s.mode.mode = .main ∧ s.save.run = none ∧ s.pwr.vddFuse = true ∧ s.life = .owned →
    let t : State := { s with fuse := { s.fuse with cmd := none, result := 2 } }
    (fld w 63 56 = 3 → exec (.retiredTransition false) s = .next t) ∧ (fld w 63 56 = 5 → exec (.setDebugBit false) s = .next t)) ∧
  (∀ (s : State) (a : Bool) (w : Word), s.fuse.cmd = some w ∧ s.mode.mode = .main ∧ s.save.run = none ∧ s.pwr.vddFuse = true ∧ s.life = .retired →
    let t : State := { s with fuse := { s.fuse with cmd := none, result := 3 } }
    (fld w 63 56 = 1 → exec (.programWord a) s = .next t) ∧ (fld w 63 56 = 2 → exec .ownedTransition s = .next t) ∧ (fld w 63 56 = 3 → exec (.retiredTransition a) s = .next t) ∧
    (fld w 63 56 = 4 → exec (.revokeSlot a) s = .next t) ∧ (fld w 63 56 = 5 → exec (.setDebugBit a) s = .next t) ∧ (fld w 63 56 = 6 → exec (.debugUnlock a) s = .next t)) ∧
  (∀ (s : State) (a : Bool) (w : Word), s.fuse.cmd = some w ∧ fld w 63 56 = 6 ∧ s.life = .owned →
    exec (.debugUnlock a) s = .next (if (s.fuseWord 0).getLsbD 9 = true ∧ s.fuseAuth a = false then { s with fuse := { s.fuse with cmd := none, result := 2 } } else { s with fuse := { s.fuse with cmd := none, result := 0, unlocked := true } })) ∧
  (∀ (s : State) (w arg : Nat) (data : Word), s.fuse.stopped = false ∧ s.fuse.busy = some (1, w, arg, data) ∧ data ≠ 0 →
    s.due s.fuse.since (10 * us * fuseCount 1 data) = true →
    Answers (exec (.fuseProgramComplete []) s) (fun t => t.fuseWord w = data ∧ w ∈ t.fuse.progd ∧ t.fuse.busy = none ∧ t.fuse.result = 0 ∧ t.fuse.invalid = s.fuse.invalid ∧ t.fw = s.fw ∧ t.params = s.params)) ∧
  (∀ (s : State) (op w arg b : Nat) (data : Word), s.fuse.stopped = false ∧ s.fuse.busy = some (op, w, arg, data) ∧ (op = 2 ∧ b = 0 ∨ op = 3 ∧ b = 1 ∨ op = 4 ∧ b = 4 + arg % 4 ∨ op = 5 ∧ b = 8 + arg % 2) →
    s.due s.fuse.since (20 * us) = true →
    Answers (exec (.fuseProgramComplete []) s) (fun t => t.fuseWord 0 = s.fuseWord 0 ||| (1#64 <<< b) ∧ t.fuse.busy = none ∧ t.fuse.result = 0 ∧ (op = 3 → t.fw.stored = {} ∧ t.sealedKeys = []))) ∧
  (∀ (s : State) (k w arg : Nat) (data : Word), s.fuse.stopped = true ∧ s.fuse.busy = some (1, w, arg, data) →
    Answers (exec (.fuseProgramStop k) s) (fun t => w ∈ t.fuse.dead ∧ t.fuse.busy = none ∧ t.fuse.result = 8 ∧ (0 < k → w ∈ t.fuse.invalid) ∧ (k = 0 → t.fuse.progd = s.fuse.progd))) ∧
  (∀ (s : State) (k op w arg : Nat) (data : Word), s.fuse.busy = some (op, w, arg, data) ∧ op ≠ 1 →
    let t : State := { s with fuse := { s.fuse with stopped := false, busy := none, result := 8 } }
    (s.fuse.stopped = true → exec (.fuseProgramStop k) s = .next (if k = 0 then t else t.blowBit 0 (opBit op arg))) ∧
    (s.fuse.stopped = false → exec (.fuseProgramStop k) s = .next s)) ∧
  (∀ (s : State) (full : Bool), s.mode.mode ≠ .stby ∧ s.boot.done.contains 5 = true ∧ s.life ≠ .retired ∧ s.snapshot ≠ s.fw.stored ∧ s.fw.preserve = false →
    exec (.parameterStoreCommit full) s = .next { s with fw := { s.fw with stored := s.snapshot, gen := s.fw.gen + 1, copy := 1 - s.fw.copy, preserve := false, deltas := 0 } }) ∧
  (∀ (s : State), s.mode.mode ≠ .stby ∧ s.boot.done.contains 5 = true ∧ s.life ≠ .retired ∧ s.snapshot ≠ s.fw.stored ∧ s.fw.preserve = true →
    exec (.parameterStoreCommit false) s = .next { s with fw := { s.fw with stored := s.snapshot, deltas := s.fw.deltas + 1 } })

/-- ENTDAA gives the target its dynamic address; SUBMIT and FM_API put 1 to 64 items into the queue of context 0x103F at PL1 and do nothing in STBY and SAVE; RESULT hands over at most eight records, oldest first; EVENT sends the oldest event; PREAD answers each of 1 to 8 parameters with a status and a value, as GETP at PL1, and any other number with RANGE (the model's choice: log entry 96); a control message is answered in every mode (the code for an unsupported type is presumed: log entry 97); a component command reaches the mailbox of the management LD, which reads the health, the poison list and, on the management LD, the oldest violation record. Where a clause meets log entries 95, 97 and 144, it states the model's reading named there. -/
def Obligations.Management : Prop :=
  (∀ (s : State) (a : Nat), a < 128 →
    exec (.entdaa a) s = .next { s with mgmt := { s.mgmt with address := some a } }) ∧
  (∀ (s : State) (prio : Nat) (items : List Word), s.mode.mode ≠ .stby ∧ s.mode.mode ≠ .save ∧ prio < 8 ∧ 1 ≤ items.length ∧ items.length ≤ 64 →
    let v : State := { s with mgmt := { s.mgmt with waiting := s.mgmt.waiting ++ [{ items := items, prio := prio, path := .mctp, pl := 1 }] } }
    exec (.submit prio items) s = .next v.moveMctp ∧ exec (.fmApi prio items) s = .next v.moveMctp) ∧
  (∀ (s : State) (prio : Nat) (items : List Word), s.mode.mode = .stby ∨ s.mode.mode = .save →
    exec (.submit prio items) s = .next s ∧ exec (.fmApi prio items) s = .next s ∧ exec (.result prio) s = .next s) ∧
  (∀ (s : State) (count : Nat), s.mode.mode ≠ .stby ∧ s.mode.mode ≠ .save ∧ s.mgmt.results ≠ [] ∧ 0 < count →
    exec (.result count) s = .next ({ s with mgmt := { s.mgmt with results := s.mgmt.results.drop (min count 8) } }.emit (.mctp 0x02 (s.mgmt.results.take (min count 8)).flatten))) ∧
  (∀ (s : State) (e : List Word) (r : List (List Word)), s.mgmt.events = e :: r →
    exec .event s = .next ({ s with mgmt := { s.mgmt with events := r } }.emit (.mctp 0x05 e))) ∧
  (∀ (s : State) (id : Nat), exec (.pread [id]) s = .next ((s.pread (id % 2 ^ 24)).2.emit (.mctp 0x04 (s.pread (id % 2 ^ 24)).1))) ∧
  (∀ (s : State) (id : Nat), s.mayRead 0x103F 1 id false = true ∧ s.preadOk id = true ∧ s.idOk 0x103F 1 id = true ∧ s.idFenced id = false →
    s.pread id = ([0, (s.beforeRead id).view id (s.idSess 0x103F 1 id)], (s.beforeRead id).afterRead id (s.idSess 0x103F 1 id))) ∧
  (∀ (s : State) (ids : List Nat), ids = [] ∨ 8 < ids.length →
    exec (.pread ids) s = .next (s.emit (.mctp 0x04 [BitVec.ofNat 64 Status.range.code]))) ∧
  (∀ (s : State) (type : Nat), exec (.mctpControl type) s = .next (if type = 0 then s.emit (.mctp 0 [0]) else if type = 0x07 ∨ type = 0x08 ∨ type = 0x7E then s else s.emit (.mctp 0 [5]))) ∧
  (∀ (s : State) (addr opcode : Nat) (data : Line), s.mgmtLd.1 < s.tiles ∧ s.mode.mode ≠ .stby ∧ s.mode.mode ≠ .save ∧ s.mode.recovery = false →
    let t := s.mgmtLd.1
    let d := s.mgmtLd.2
    exec (.componentCommand 0x4301 addr data) s = .next (s.mailStore t d addr 0x4301 0 true) ∧ exec (.componentCommand 0x4302 addr data) s = .next (s.mailStore t d addr 0x4302 data false) ∧
    (opcode ≠ 0x4301 → opcode ≠ 0x4302 → exec (.componentCommand opcode addr data) s = .next (s.mailRead t d opcode))) ∧
  (∀ (s : State) (t d : Nat), s.mailRead t d 0x4200 = s.sendHealth t d ∧ s.mailRead t d 0x4300 = s.sendPoisonList t d ∧
    (s.isMgmt t d = true → s.mailRead t d 0x0100 = s.emit (.mailbox t d 0x0100 mbOk (s.mgmt.viols.headD [])) ∧
      s.mailRead t d 0x0101 = ({ s with mgmt := { s.mgmt with viols := s.mgmt.viols.drop 1 } }.emit (.mailbox t d 0x0101 mbOk []))))

/-- With IDCODE selected, Capture-DR takes 0x1C88_40D7 with bits 31 to 28 replaced by the stepping code of fuse word 4; bits 27 to 12 are 0xC884, bits 11 to 1 are 0x06B and bit 0 is 1; a part of stepping code 1 reads 0x1C88_40D7. The command idcode selects it. -/
def Obligations.Idcode : Prop :=
  (∀ (s : State) (lands : Nat), s.tap.instr = 1 →
    Answers (exec (.captureDr lands) s) (fun t => t.tap.dr % 2 = 1 ∧ t.tap.dr / 2 % 2 ^ 11 = 0x06B ∧ t.tap.dr / 2 ^ 12 % 2 ^ 16 = 0xC884 ∧ t.tap.dr / 2 ^ 28 = fld (s.fuseWord 4) 19 16 ∧ t.tap.dr % 2 ^ 28 = 0x1C88_40D7 % 2 ^ 28 ∧ t.tap.dr < 2 ^ 32)) ∧
  (∀ (s : State) (lands : Nat), s.tap.instr = 1 ∧ fld (s.fuseWord 4) 19 16 = 1 →
    Answers (exec (.captureDr lands) s) (fun t => t.tap.dr = 0x1C88_40D7)) ∧
  (∀ (s : State), Answers (exec .idcode s) (fun t => t.tap.instr = 1 ∧ t.fuse = s.fuse ∧ t.tap.scanHold = s.tap.scanHold))

/-- A driving instruction selects BYPASS while it is blocked and otherwise begins scan hold, which no later instruction ends; blocked means any mode but MAIN, the recovery form, a rail out of limits or a dirty page; Capture-IR has bit 2 set while they are blocked; SAMPLE/PRELOAD and the private instructions do not work in STBY; the entry of scan hold clears DRAMUP and hands the lands to the boundary register; before the hand-over the boundary register captures zeros and an update has no effect. That a save commit and a mode change block too is the model's reading. Where a clause meets log entries 98 and 99, it states the model's reading named there. -/
def Obligations.TapInstructions : Prop :=
  (∀ (s : State) (c : Instr), s.drivingBlocked = true ∧ (c = .extest ∨ c = .clamp ∨ c = .highz ∨ c = .extestPulse ∨ c = .extestTrain) →
    exec c s = .next { s with tap := { s.tap with instr := 0xFF, ir := 5 } }) ∧
  (∀ (s : State), s.drivingBlocked = false ∧ s.tap.scanHold = false →
    exec .extest s = .next { s with tap := { s.tap with instr := 0x00, ir := 1, scanHold := true, handed := false, since := s.clock } }) ∧
  (∀ (s : State), s.drivingBlocked = false ∧ s.tap.scanHold = false →
    let t := fun (k : Nat) => { s with tap := { s.tap with instr := k, ir := 1, scanHold := true, handed := false, since := s.clock } }
    exec .clamp s = .next (t 0x03) ∧ exec .highz s = .next (t 0x04) ∧ exec .extestPulse s = .next (t 0x05) ∧ exec .extestTrain s = .next (t 0x06)) ∧
  (∀ (s : State), s.drivingBlocked = false ∧ s.tap.scanHold = true →
    exec .highz s = .next { s with tap := { s.tap with instr := 0x04, ir := 1 } }) ∧
  (∀ (s : State), let ir := if s.drivingBlocked then 5 else 1
    exec .idcode s = .next { s with tap := { s.tap with instr := 1, ir := ir } } ∧ exec .bypass s = .next { s with tap := { s.tap with instr := 0xFF, ir := ir } } ∧ exec .tapReset s = .next { s with tap := { s.tap with instr := 1 } }) ∧
  (∀ (s : State), exec .samplePreload s = .next { s with tap := { s.tap with instr := if s.mode.mode = .stby then 0xFF else 0x02, ir := if s.drivingBlocked then 5 else 1 } }) ∧
  (∀ (s : State) (code : Nat), 0x80 ≤ code ∧ code ≤ 0xFE ∧ s.mode.mode ≠ .stby →
    exec (.privTapInstruction code) s = .next { s with tap := { s.tap with ir := if s.drivingBlocked then 5 else 1, instr := if s.life ≠ .owned ∨ ((s.fuseWord 0).getLsbD 8 = false ∧ ((s.fuseWord 0).getLsbD 9 = false ∨ s.fuse.unlocked = true)) then code else 0xFF } }) ∧
  (∀ (s : State), s.tap.scanHold = true ∧ s.tap.handed = false ∧ s.mode.mode = .main ∧ s.save.run.isSome = false →
    let u := (s.liveTiles.foldl State.linksDown s).loseTwin
    let v := u.quiesce
    let v := v.liveTiles.foldl (fun (w : State) t => w.savePhases t (u.atCommit t) 5 7 v.master false false) v
    exec .scanHold s = .next { v with pwr := { v.pwr with dramUp := 0 }, chans := v.chans.map (fun p => (p.1, { p.2 with validL := false, validH := false, rateH := 0 })), tap := { v.tap with handed := true } }) ∧
  (∀ (s : State) (lands : Nat), s.tap.instr = 0 ∨ s.tap.instr = 2 ∨ s.tap.instr = 5 ∨ s.tap.instr = 6 →
    let v := lands % 2 ^ (96 + 1248 * s.tiles)
    exec (.captureDr lands) s = .next { s with tap := { s.tap with lands := v, dr := if s.tap.scanHold ∧ !s.tap.handed then 0 else v } }) ∧
  (∀ (s : State) (lands : Nat), (s.tap.instr = 0xFF → exec (.captureDr lands) s = .next { s with tap := { s.tap with dr := 0 } }) ∧
    (0x80 ≤ s.tap.instr → s.tap.instr ≤ 0xFE → exec (.captureDr lands) s = .next { s.drawWord.2 with tap := { s.drawWord.2.tap with dr := s.drawWord.1.toNat } })) ∧
  (∀ (s : State) (value : Nat), (s.tap.instr = 0 ∨ s.tap.instr = 2 ∨ s.tap.instr = 5 ∨ s.tap.instr = 6) ∧ (s.tap.scanHold = false ∨ s.tap.handed = true) →
    exec (.updateDr value) s = .next { s with tap := { s.tap with update := value % 2 ^ (96 + 1248 * s.tiles), dr := value % 2 ^ (96 + 1248 * s.tiles) } }) ∧
  (∀ (s : State) (value : Nat), s.tap.scanHold = true ∧ s.tap.handed = false →
    exec (.updateDr value) s = .next s)

/-- A step with command c at the front of the queue of waiting commands is exec of c on the state with the queue's rest; on an empty queue a step is one cycle of TSCLK, which leaves the queue empty (the queue and the cycle are the model's choice, log entry 3). -/
def Obligations.StepRunsTheFront : Prop :=
  (∀ (c : Instr) (rest : List Instr) (s : State), step { s with pending := c :: rest } = exec c { s with pending := rest }) ∧
  (∀ (s : State), s.pending = [] →
    step s = .next s.tick)

/-- After power-on the device is in STBY with cause 0x00, no command waits, every parameter reads its reset value, no fence is in force and none is recorded, no context exists, nothing is staged, no counter has counted, the master count does not run, the rails are off, the TAP selects IDCODE and is not in scan hold, and no request, frame or merge is under way. That DRAM lists nothing then, so that a byte nothing has written reads 0, is the model's choice (log entry 4). -/
def Obligations.ResetState : Prop :=
  State.reset.mode.mode = .stby ∧ State.reset.mode.cause = 0 ∧ State.reset.pending = [] ∧ State.reset.dram = [] ∧
    State.reset.fences.inForce = [] ∧ State.reset.fences.log = [] ∧ State.reset.ctxs = [] ∧ State.reset.set.entries = [] ∧ State.reset.tides = [] ∧
    State.reset.time.master.on = false ∧ State.reset.pwr.state = .off ∧ State.reset.pwr.en = 0 ∧ State.reset.tap.instr = 1 ∧ State.reset.tap.scanHold = false ∧
    State.reset.waits = [] ∧ State.reset.out = [] ∧ State.reset.mgmt.waiting = [] ∧
    (∀ id sess, State.reset.param id sess = paramReset id) ∧ (∀ k, (State.reset.ctr k).cnt = 0 ∧ (State.reset.ctr k).ovf = false)

/-- The memory of the state after reset has the canonical form that MemoryOk names. -/
def Obligations.ResetMemoryOk : Prop :=
  MemoryOk State.reset

/-- From every state whose memory is in canonical form (addresses strictly rising, no cell equal to what an unlisted byte reads as), whatever command is at the front of its queue or when none is, a step answers a state whose memory is in canonical form too. -/
def Obligations.MemoryStaysOk : Prop :=
  ∀ (s t : State), MemoryOk s →
    step s = .next t →
    MemoryOk t

/-- No command changes the queue of waiting commands or the part that the device is, and none turns the clock of the model back; a step takes away the front of the queue and nothing else of it. -/
def Obligations.QueueFrame : Prop :=
  (∀ (c : Instr) (s t : State), exec c s = .next t →
    t.pending = s.pending ∧ t.part = s.part ∧ s.clock ≤ t.clock) ∧
  (∀ (s t : State), step s = .next t →
    t.pending = s.pending.tail ∧ t.part = s.part ∧ s.clock ≤ t.clock)

/-- Whatever command runs, in every mode, across every reset, save and shutdown, a write-once fuse word that is programmed is programmed after it. -/
def Obligations.ProgrammedFusesStay : Prop :=
  ∀ (s t : State) (w : Nat), step s = .next t ∧ w ∈ s.fuse.progd →
    w ∈ t.fuse.progd

/-- Every command, in every state, answers a next state: one that the spec refuses in that state completes with a status, is a violation or has no effect, as its own statement says, and none faults. -/
def Obligations.EveryCommandAnswers : Prop :=
  ∀ (c : Instr) (s : State), ∃ t, exec c s = .next t

/-- A line written to DRAM at DFA a reads back whole at every address in the same 64 bytes, with the poison it was written with; every byte outside that line, of this tile and of every other, reads as before, and so does the poison of every other line. -/
def Obligations.DramLines : Prop :=
  ∀ (s : State) (t a : Nat) (l : Line) (p : Bool), (s.putDram t a l p).dramLine t a = l ∧ (decide (dkey t a / 64 ∈ (s.putDram t a l p).poisoned) = p) ∧
      (∀ b, (b < dkey t (a / 64 * 64) ∨ dkey t (a / 64 * 64) + 64 ≤ b) → Memory.read (s.putDram t a l p).dram b = Memory.read s.dram b) ∧
      (∀ k, k ≠ dkey t a / 64 → (k ∈ (s.putDram t a l p).poisoned ↔ k ∈ s.poisoned))
end

