-- ==== Sys2Proof/Laws/Store.lean ====
section
/-! SUPPORT. The laws of sparse arrays and of memory: a read after a write, and the canonical form that every write keeps. -/

namespace Sys2Proof

variable {α : Type}

theorem Store.read_erase_same (l : Store α) (k : Nat) (d : α) : Store.read (Store.erase l k) k d = d := by
  induction l with
  | nil => rfl
  | cons p r ih => unfold Store.erase; split <;> simp_all [Store.read]

theorem Store.read_erase_ne (l : Store α) {k j : Nat} (d : α) (h : j ≠ k) : Store.read (Store.erase l k) j d = Store.read l j d := by
  induction l with
  | nil => rfl
  | cons p r ih =>
    unfold Store.erase
    split
    · subst_vars; rw [ih]; simp [Store.read, Ne.symm h]
    · simp [Store.read, ih]

theorem Store.read_put_same (l : Store α) (k : Nat) (v d : α) : Store.read (Store.put l k v) k d = v := by
  induction l with
  | nil => simp [Store.put, Store.read]
  | cons p r ih => unfold Store.put; repeat' split <;> simp_all [Store.read]; try omega

theorem Store.read_put_ne (l : Store α) {k j : Nat} (v d : α) (h : j ≠ k) : Store.read (Store.put l k v) j d = Store.read l j d := by
  induction l with
  | nil => simp [Store.put, Store.read, Ne.symm h]
  | cons p r ih =>
    unfold Store.put
    split
    · simp [Store.read, Ne.symm h]
    · split
      · subst_vars; simp [Store.read, Ne.symm h]
      · simp [Store.read, ih]

variable [DecidableEq α]

/-- A read after a write at the same key gives what was written. -/
@[simp] theorem Store.read_write_same (l : Store α) (k : Nat) (v d : α) : Store.read (Store.write l k v d) k d = v := by
  unfold Store.write
  split
  · subst_vars; exact Store.read_erase_same l k _
  · exact Store.read_put_same l k v d

/-- A write leaves every other key alone. -/
theorem Store.read_write_ne (l : Store α) {k j : Nat} (v d e : α) (h : j ≠ k) : Store.read (Store.write l k v d) j e = Store.read l j e := by
  unfold Store.write
  split
  · exact Store.read_erase_ne l e h
  · exact Store.read_put_ne l v e h

omit [DecidableEq α] in
theorem Store.erase_put (l : Store α) (k : Nat) (v : α) : Store.erase (Store.put l k v) k = Store.erase l k := by
  induction l with
  | nil => simp [Store.put, Store.erase]
  | cons p r ih =>
    simp only [Store.put]
    split
    · simp [Store.erase]
    · split
      · simp_all [Store.erase]
      · simp [Store.erase, ih]

omit [DecidableEq α] in
theorem Store.put_put (l : Store α) (k : Nat) (v w : α) : Store.put (Store.put l k v) k w = Store.put l k w := by
  induction l with
  | nil => simp [Store.put]
  | cons p r ih =>
    simp only [Store.put]
    split
    · simp [Store.put]
    · split
      · simp_all [Store.put]
      · rw [Store.put, if_neg ‹_›, if_neg ‹_›, ih]

/-- Of two writes at one key the second counts, where the first lists its value. -/
theorem Store.write_write (l : Store α) (k : Nat) {v d : α} (w : α) (h : v ≠ d) :
    Store.write (Store.write l k v d) k w d = Store.write l k w d := by
  unfold Store.write
  rw [if_neg h, Store.erase_put, Store.put_put]

theorem Store.read_write (l : Store α) (k j : Nat) (v d : α) :
    Store.read (Store.write l k v d) j d = if j = k then v else Store.read l j d := by
  split
  · subst_vars; simp
  · exact Store.read_write_ne l v d d ‹_›

omit [DecidableEq α] in
theorem Store.above_mono {a b : Nat} (h : a ≤ b) (l : Store α) (hl : Store.above b l = true) : Store.above a l = true := by
  cases l with
  | nil => rfl
  | cons p r => simp only [Store.above, Bool.and_eq_true, decide_eq_true_eq] at *; exact ⟨by omega, hl.2⟩

omit [DecidableEq α] in
theorem Store.above_erase (l : Store α) (b k : Nat) (h : Store.above b l = true) : Store.above b (Store.erase l k) = true := by
  induction l generalizing b with
  | nil => rfl
  | cons p r ih =>
    simp only [Store.above, Bool.and_eq_true, decide_eq_true_eq] at h
    unfold Store.erase
    split
    · exact ih b (Store.above_mono (by omega) r h.2)
    · simp only [Store.above, Bool.and_eq_true, decide_eq_true_eq]; exact ⟨h.1, ih _ h.2⟩

omit [DecidableEq α] in
theorem Store.above_put (l : Store α) (b k : Nat) (v : α) (h : Store.above b l = true) (hk : b < k) : Store.above b (Store.put l k v) = true := by
  induction l generalizing b with
  | nil => simp [Store.put, Store.above, hk]
  | cons p r ih =>
    simp only [Store.above, Bool.and_eq_true, decide_eq_true_eq] at h
    unfold Store.put
    split
    · simp only [Store.above, Bool.and_eq_true, decide_eq_true_eq]; exact ⟨hk, by assumption, h.2⟩
    · split
      · subst_vars; simp only [Store.above, Bool.and_eq_true, decide_eq_true_eq]; exact h
      · simp only [Store.above, Bool.and_eq_true, decide_eq_true_eq]; exact ⟨h.1, ih _ h.2 (by omega)⟩

omit [DecidableEq α] in
theorem Store.rising_of_above {b : Nat} {l : Store α} (h : Store.above b l = true) : Store.rising l = true := by
  cases l with
  | nil => rfl
  | cons p r => simp only [Store.above, Bool.and_eq_true] at h; exact h.2

omit [DecidableEq α] in
theorem Store.rising_erase (l : Store α) (k : Nat) (h : Store.rising l = true) : Store.rising (Store.erase l k) = true := by
  cases l with
  | nil => rfl
  | cons p r =>
    unfold Store.erase
    have h' : Store.above p.1 (Store.erase r k) = true := Store.above_erase r _ _ h
    split
    · exact Store.rising_of_above h'
    · exact h'

omit [DecidableEq α] in
theorem Store.rising_put (l : Store α) (k : Nat) (v : α) (h : Store.rising l = true) : Store.rising (Store.put l k v) = true := by
  cases l with
  | nil => rfl
  | cons p r =>
    unfold Store.put
    split
    · simp only [Store.rising, Store.above, Bool.and_eq_true, decide_eq_true_eq]; exact ⟨by assumption, h⟩
    · split
      · subst_vars; exact h
      · exact Store.above_put r _ _ _ h (by omega)

omit [DecidableEq α] in
theorem Store.mem_erase {l : Store α} {k : Nat} {p : Nat × α} (h : p ∈ Store.erase l k) : p ∈ l := by
  induction l with
  | nil => exact h
  | cons q r ih => unfold Store.erase at h; split at h <;> simp_all; tauto

omit [DecidableEq α] in
theorem Store.mem_put {l : Store α} {k : Nat} {v : α} {p : Nat × α} (h : p ∈ Store.put l k v) : p ∈ l ∨ p = (k, v) := by
  induction l with
  | nil => simp_all [Store.put]
  | cons q r ih =>
    unfold Store.put at h
    split at h
    · simp only [List.mem_cons] at *; tauto
    · split at h
      · simp only [List.mem_cons] at *; tauto
      · simp only [List.mem_cons] at *; tauto

/-- A write keeps the canonical form. -/
theorem Store.wf_write (l : Store α) (k : Nat) (v d : α) (h : Store.wf d l = true) : Store.wf d (Store.write l k v d) = true := by
  unfold Store.wf at *
  simp only [Bool.and_eq_true, List.all_eq_true, decide_eq_true_eq] at *
  unfold Store.write
  split
  · exact ⟨Store.rising_erase _ _ h.1, fun p hp => h.2 p (Store.mem_erase hp)⟩
  · refine ⟨Store.rising_put _ _ _ h.1, fun p hp => ?_⟩
    rcases Store.mem_put hp with hp | rfl
    · exact h.2 p hp
    · assumption

omit [DecidableEq α] in
theorem Store.above_filter (q : Nat × α → Bool) (l : Store α) (b : Nat) (h : Store.above b l = true) : Store.above b (l.filter q) = true := by
  induction l generalizing b with
  | nil => rfl
  | cons p r ih =>
    simp only [Store.above, Bool.and_eq_true, decide_eq_true_eq] at h
    rw [List.filter_cons]
    split
    · simp only [Store.above, Bool.and_eq_true, decide_eq_true_eq]; exact ⟨h.1, ih _ h.2⟩
    · exact ih b (Store.above_mono (by omega) r h.2)

/-- Leaving entries out keeps the canonical form. -/
theorem Store.wf_filter (d : α) (q : Nat × α → Bool) (l : Store α) (h : Store.wf d l = true) : Store.wf d (l.filter q) = true := by
  unfold Store.wf at *
  simp only [Bool.and_eq_true, List.all_eq_true, decide_eq_true_eq] at *
  refine ⟨?_, fun p hp => h.2 p (List.mem_of_mem_filter hp)⟩
  cases l with
  | nil => rfl
  | cons p r =>
    have h' : Store.above p.1 (r.filter q) = true := Store.above_filter q r _ h.1
    rw [List.filter_cons]
    split
    · exact h'
    · exact Store.rising_of_above h'

namespace Machine

/-- A byte read after a byte write. -/
theorem Memory.read_write (m : Memory) (a b : Nat) (v : Byte) :
    Memory.read (Memory.write m a v) b = if b = a then v else Memory.read m b := Store.read_write m a b v dramDefault

theorem Memory.wf_write (m : Memory) (a : Nat) (v : Byte) (h : Memory.wf m = true) : Memory.wf (Memory.write m a v) = true :=
  Store.wf_write m a v dramDefault h

theorem Memory.wf_writeBytes (m : Memory) (a : Nat) (l : List Byte) (h : Memory.wf m = true) : Memory.wf (Memory.writeBytes m a l) = true := by
  induction l generalizing m a with
  | nil => exact h
  | cons b r ih => exact ih _ _ (Memory.wf_write _ _ _ h)

theorem Memory.wf_setLine (m : Memory) (a : Nat) (l : Line) (h : Memory.wf m = true) : Memory.wf (Memory.setLine m a l) = true :=
  Memory.wf_writeBytes m a _ h

/-- The bytes of consecutive writes, and every other byte as before. -/
theorem Memory.read_writeBytes (m : Memory) (a b : Nat) (l : List Byte) :
    Memory.read (Memory.writeBytes m a l) b = if a ≤ b ∧ b < a + l.length then l.getD (b - a) 0 else Memory.read m b := by
  induction l generalizing m a with
  | nil => simp only [Memory.writeBytes, List.length_nil, Nat.add_zero]; rw [if_neg (by omega)]
  | cons v r ih =>
    simp only [Memory.writeBytes, ih, Memory.read_write, List.length_cons]
    by_cases h : b = a
    · subst h; rw [if_neg (by omega), if_pos rfl, if_pos (by omega)]; simp
    · rw [if_neg h]
      by_cases h2 : a + 1 ≤ b ∧ b < a + 1 + r.length
      · rw [if_pos h2, if_pos (by omega)]
        obtain ⟨k, hk⟩ : ∃ k, b - a = k + 1 := ⟨b - a - 1, by omega⟩
        rw [hk, List.getD_cons_succ]; congr 1; omega
      · rw [if_neg h2, if_neg (by omega)]

/-- A byte read after a line write: the line's own byte inside it, and as before outside it. -/
theorem Memory.read_setLine (m : Memory) (a b : Nat) (l : Line) :
    Memory.read (Memory.setLine m a l) b = if a ≤ b ∧ b < a + 64 then l.byte (b - a) else Memory.read m b := by
  have hlen : l.bytes.length = 64 := by simp [Line.bytes]
  rw [Memory.setLine, Memory.read_writeBytes, hlen]
  split
  · rw [Line.bytes, List.getD_eq_getElem?_getD, List.getElem?_map, List.getElem?_range (by omega)]; rfl
  · rfl

end Machine
end Sys2Proof
end

