-- ==== Sys2Proof/Laws/State.lean ====
section
/-! SUPPORT. What each update of the state leaves alone: one lemma per field per update, and the value read back after a write. -/

namespace Sys2Proof.Machine

@[simp] theorem State.setCtx_pending (s : State) (k : Nat) (x : Ctx) : (s.setCtx k x).pending = s.pending := rfl
@[simp] theorem State.setCtx_free (s : State) (k : Nat) (x : Ctx) : (s.setCtx k x).free = s.free := rfl
@[simp] theorem State.setCtx_out (s : State) (k : Nat) (x : Ctx) : (s.setCtx k x).out = s.out := rfl
@[simp] theorem State.setCtx_clock (s : State) (k : Nat) (x : Ctx) : (s.setCtx k x).clock = s.clock := rfl
@[simp] theorem State.setCtx_part (s : State) (k : Nat) (x : Ctx) : (s.setCtx k x).part = s.part := rfl
@[simp] theorem State.setCtx_time (s : State) (k : Nat) (x : Ctx) : (s.setCtx k x).time = s.time := rfl
@[simp] theorem State.setCtx_mode (s : State) (k : Nat) (x : Ctx) : (s.setCtx k x).mode = s.mode := rfl
@[simp] theorem State.setCtx_boot (s : State) (k : Nat) (x : Ctx) : (s.setCtx k x).boot = s.boot := rfl
@[simp] theorem State.setCtx_pwr (s : State) (k : Nat) (x : Ctx) : (s.setCtx k x).pwr = s.pwr := rfl
@[simp] theorem State.setCtx_recd (s : State) (k : Nat) (x : Ctx) : (s.setCtx k x).recd = s.recd := rfl
@[simp] theorem State.setCtx_pmc (s : State) (k : Nat) (x : Ctx) : (s.setCtx k x).pmc = s.pmc := rfl
@[simp] theorem State.setCtx_params (s : State) (k : Nat) (x : Ctx) : (s.setCtx k x).params = s.params := rfl
@[simp] theorem State.setCtx_dram (s : State) (k : Nat) (x : Ctx) : (s.setCtx k x).dram = s.dram := rfl
@[simp] theorem State.setCtx_set (s : State) (k : Nat) (x : Ctx) : (s.setCtx k x).set = s.set := rfl
@[simp] theorem State.setCtx_tides (s : State) (k : Nat) (x : Ctx) : (s.setCtx k x).tides = s.tides := rfl
@[simp] theorem State.setCtx_twinTides (s : State) (k : Nat) (x : Ctx) : (s.setCtx k x).twinTides = s.twinTides := rfl
@[simp] theorem State.setCtx_tideCount (s : State) (k : Nat) (x : Ctx) : (s.setCtx k x).tideCount = s.tideCount := rfl
@[simp] theorem State.setCtx_fences (s : State) (k : Nat) (x : Ctx) : (s.setCtx k x).fences = s.fences := rfl
@[simp] theorem State.setCtx_tide (s : State) (k : Nat) (x : Ctx) : (s.setCtx k x).tide = s.tide := rfl
@[simp] theorem State.setCtx_save (s : State) (k : Nat) (x : Ctx) : (s.setCtx k x).save = s.save := rfl
@[simp] theorem State.setCtx_fuse (s : State) (k : Nat) (x : Ctx) : (s.setCtx k x).fuse = s.fuse := rfl
@[simp] theorem State.setCtx_fw (s : State) (k : Nat) (x : Ctx) : (s.setCtx k x).fw = s.fw := rfl
@[simp] theorem State.setCtx_ich (s : State) (k : Nat) (x : Ctx) : (s.setCtx k x).ich = s.ich := rfl
@[simp] theorem State.setCtx_itile (s : State) (k : Nat) (x : Ctx) : (s.setCtx k x).itile = s.itile := rfl
@[simp] theorem State.setCtx_links (s : State) (k : Nat) (x : Ctx) : (s.setCtx k x).links = s.links := rfl
@[simp] theorem State.setCtx_bars (s : State) (k : Nat) (x : Ctx) : (s.setCtx k x).bars = s.bars := rfl
@[simp] theorem State.setCtx_sessions (s : State) (k : Nat) (x : Ctx) : (s.setCtx k x).sessions = s.sessions := rfl
@[simp] theorem State.setCtx_binds (s : State) (k : Nat) (x : Ctx) : (s.setCtx k x).binds = s.binds := rfl
@[simp] theorem State.setCtx_home (s : State) (k : Nat) (x : Ctx) : (s.setCtx k x).home = s.home := rfl
@[simp] theorem State.setCtx_eaves (s : State) (k : Nat) (x : Ctx) : (s.setCtx k x).eaves = s.eaves := rfl
@[simp] theorem State.setCtx_plru (s : State) (k : Nat) (x : Ctx) : (s.setCtx k x).plru = s.plru := rfl
@[simp] theorem State.setCtx_paths (s : State) (k : Nat) (x : Ctx) : (s.setCtx k x).paths = s.paths := rfl
@[simp] theorem State.setCtx_wq (s : State) (k : Nat) (x : Ctx) : (s.setCtx k x).wq = s.wq := rfl
@[simp] theorem State.setCtx_rq (s : State) (k : Nat) (x : Ctx) : (s.setCtx k x).rq = s.rq := rfl
@[simp] theorem State.setCtx_waits (s : State) (k : Nat) (x : Ctx) : (s.setCtx k x).waits = s.waits := rfl
@[simp] theorem State.setCtx_unacked (s : State) (k : Nat) (x : Ctx) : (s.setCtx k x).unacked = s.unacked := rfl
@[simp] theorem State.setCtx_groups (s : State) (k : Nat) (x : Ctx) : (s.setCtx k x).groups = s.groups := rfl
@[simp] theorem State.setCtx_chans (s : State) (k : Nat) (x : Ctx) : (s.setCtx k x).chans = s.chans := rfl
@[simp] theorem State.setCtx_dtiles (s : State) (k : Nat) (x : Ctx) : (s.setCtx k x).dtiles = s.dtiles := rfl
@[simp] theorem State.setCtx_poisoned (s : State) (k : Nat) (x : Ctx) : (s.setCtx k x).poisoned = s.poisoned := rfl
@[simp] theorem State.setCtx_thatch (s : State) (k : Nat) (x : Ctx) : (s.setCtx k x).thatch = s.thatch := rfl
@[simp] theorem State.setCtx_mirr (s : State) (k : Nat) (x : Ctx) : (s.setCtx k x).mirr = s.mirr := rfl
@[simp] theorem State.setCtx_lease (s : State) (k : Nat) (x : Ctx) : (s.setCtx k x).lease = s.lease := rfl
@[simp] theorem State.setCtx_wit (s : State) (k : Nat) (x : Ctx) : (s.setCtx k x).wit = s.wit := rfl
@[simp] theorem State.setCtx_tiers (s : State) (k : Nat) (x : Ctx) : (s.setCtx k x).tiers = s.tiers := rfl
@[simp] theorem State.setCtx_keys (s : State) (k : Nat) (x : Ctx) : (s.setCtx k x).keys = s.keys := rfl
@[simp] theorem State.setCtx_sealedKeys (s : State) (k : Nat) (x : Ctx) : (s.setCtx k x).sealedKeys = s.sealedKeys := rfl
@[simp] theorem State.setCtx_nonces (s : State) (k : Nat) (x : Ctx) : (s.setCtx k x).nonces = s.nonces := rfl
@[simp] theorem State.setCtx_imgKey (s : State) (k : Nat) (x : Ctx) : (s.setCtx k x).imgKey = s.imgKey := rfl
@[simp] theorem State.setCtx_progs (s : State) (k : Nat) (x : Ctx) : (s.setCtx k x).progs = s.progs := rfl
@[simp] theorem State.setCtx_tap (s : State) (k : Nat) (x : Ctx) : (s.setCtx k x).tap = s.tap := rfl
@[simp] theorem State.setCtx_mgmt (s : State) (k : Nat) (x : Ctx) : (s.setCtx k x).mgmt = s.mgmt := rfl
@[simp] theorem State.sess_setSess (s : State) (k : Nat) (x : Sess) : (s.setSess k x).sess k = x := Store.read_write_same _ _ _ _
@[simp] theorem State.setSess_pending (s : State) (k : Nat) (x : Sess) : (s.setSess k x).pending = s.pending := rfl
@[simp] theorem State.setSess_free (s : State) (k : Nat) (x : Sess) : (s.setSess k x).free = s.free := rfl
@[simp] theorem State.setSess_out (s : State) (k : Nat) (x : Sess) : (s.setSess k x).out = s.out := rfl
@[simp] theorem State.setSess_clock (s : State) (k : Nat) (x : Sess) : (s.setSess k x).clock = s.clock := rfl
@[simp] theorem State.setSess_part (s : State) (k : Nat) (x : Sess) : (s.setSess k x).part = s.part := rfl
@[simp] theorem State.setSess_time (s : State) (k : Nat) (x : Sess) : (s.setSess k x).time = s.time := rfl
@[simp] theorem State.setSess_mode (s : State) (k : Nat) (x : Sess) : (s.setSess k x).mode = s.mode := rfl
@[simp] theorem State.setSess_boot (s : State) (k : Nat) (x : Sess) : (s.setSess k x).boot = s.boot := rfl
@[simp] theorem State.setSess_pwr (s : State) (k : Nat) (x : Sess) : (s.setSess k x).pwr = s.pwr := rfl
@[simp] theorem State.setSess_recd (s : State) (k : Nat) (x : Sess) : (s.setSess k x).recd = s.recd := rfl
@[simp] theorem State.setSess_pmc (s : State) (k : Nat) (x : Sess) : (s.setSess k x).pmc = s.pmc := rfl
@[simp] theorem State.setSess_params (s : State) (k : Nat) (x : Sess) : (s.setSess k x).params = s.params := rfl
@[simp] theorem State.setSess_dram (s : State) (k : Nat) (x : Sess) : (s.setSess k x).dram = s.dram := rfl
@[simp] theorem State.setSess_set (s : State) (k : Nat) (x : Sess) : (s.setSess k x).set = s.set := rfl
@[simp] theorem State.setSess_tides (s : State) (k : Nat) (x : Sess) : (s.setSess k x).tides = s.tides := rfl
@[simp] theorem State.setSess_twinTides (s : State) (k : Nat) (x : Sess) : (s.setSess k x).twinTides = s.twinTides := rfl
@[simp] theorem State.setSess_tideCount (s : State) (k : Nat) (x : Sess) : (s.setSess k x).tideCount = s.tideCount := rfl
@[simp] theorem State.setSess_ctxs (s : State) (k : Nat) (x : Sess) : (s.setSess k x).ctxs = s.ctxs := rfl
@[simp] theorem State.setSess_fences (s : State) (k : Nat) (x : Sess) : (s.setSess k x).fences = s.fences := rfl
@[simp] theorem State.setSess_tide (s : State) (k : Nat) (x : Sess) : (s.setSess k x).tide = s.tide := rfl
@[simp] theorem State.setSess_save (s : State) (k : Nat) (x : Sess) : (s.setSess k x).save = s.save := rfl
@[simp] theorem State.setSess_fuse (s : State) (k : Nat) (x : Sess) : (s.setSess k x).fuse = s.fuse := rfl
@[simp] theorem State.setSess_fw (s : State) (k : Nat) (x : Sess) : (s.setSess k x).fw = s.fw := rfl
@[simp] theorem State.setSess_ich (s : State) (k : Nat) (x : Sess) : (s.setSess k x).ich = s.ich := rfl
@[simp] theorem State.setSess_itile (s : State) (k : Nat) (x : Sess) : (s.setSess k x).itile = s.itile := rfl
@[simp] theorem State.setSess_links (s : State) (k : Nat) (x : Sess) : (s.setSess k x).links = s.links := rfl
@[simp] theorem State.setSess_bars (s : State) (k : Nat) (x : Sess) : (s.setSess k x).bars = s.bars := rfl
@[simp] theorem State.setSess_binds (s : State) (k : Nat) (x : Sess) : (s.setSess k x).binds = s.binds := rfl
@[simp] theorem State.setSess_home (s : State) (k : Nat) (x : Sess) : (s.setSess k x).home = s.home := rfl
@[simp] theorem State.setSess_eaves (s : State) (k : Nat) (x : Sess) : (s.setSess k x).eaves = s.eaves := rfl
@[simp] theorem State.setSess_plru (s : State) (k : Nat) (x : Sess) : (s.setSess k x).plru = s.plru := rfl
@[simp] theorem State.setSess_paths (s : State) (k : Nat) (x : Sess) : (s.setSess k x).paths = s.paths := rfl
@[simp] theorem State.setSess_wq (s : State) (k : Nat) (x : Sess) : (s.setSess k x).wq = s.wq := rfl
@[simp] theorem State.setSess_rq (s : State) (k : Nat) (x : Sess) : (s.setSess k x).rq = s.rq := rfl
@[simp] theorem State.setSess_waits (s : State) (k : Nat) (x : Sess) : (s.setSess k x).waits = s.waits := rfl
@[simp] theorem State.setSess_unacked (s : State) (k : Nat) (x : Sess) : (s.setSess k x).unacked = s.unacked := rfl
@[simp] theorem State.setSess_groups (s : State) (k : Nat) (x : Sess) : (s.setSess k x).groups = s.groups := rfl
@[simp] theorem State.setSess_chans (s : State) (k : Nat) (x : Sess) : (s.setSess k x).chans = s.chans := rfl
@[simp] theorem State.setSess_dtiles (s : State) (k : Nat) (x : Sess) : (s.setSess k x).dtiles = s.dtiles := rfl
@[simp] theorem State.setSess_poisoned (s : State) (k : Nat) (x : Sess) : (s.setSess k x).poisoned = s.poisoned := rfl
@[simp] theorem State.setSess_thatch (s : State) (k : Nat) (x : Sess) : (s.setSess k x).thatch = s.thatch := rfl
@[simp] theorem State.setSess_mirr (s : State) (k : Nat) (x : Sess) : (s.setSess k x).mirr = s.mirr := rfl
@[simp] theorem State.setSess_lease (s : State) (k : Nat) (x : Sess) : (s.setSess k x).lease = s.lease := rfl
@[simp] theorem State.setSess_wit (s : State) (k : Nat) (x : Sess) : (s.setSess k x).wit = s.wit := rfl
@[simp] theorem State.setSess_tiers (s : State) (k : Nat) (x : Sess) : (s.setSess k x).tiers = s.tiers := rfl
@[simp] theorem State.setSess_keys (s : State) (k : Nat) (x : Sess) : (s.setSess k x).keys = s.keys := rfl
@[simp] theorem State.setSess_sealedKeys (s : State) (k : Nat) (x : Sess) : (s.setSess k x).sealedKeys = s.sealedKeys := rfl
@[simp] theorem State.setSess_nonces (s : State) (k : Nat) (x : Sess) : (s.setSess k x).nonces = s.nonces := rfl
@[simp] theorem State.setSess_imgKey (s : State) (k : Nat) (x : Sess) : (s.setSess k x).imgKey = s.imgKey := rfl
@[simp] theorem State.setSess_progs (s : State) (k : Nat) (x : Sess) : (s.setSess k x).progs = s.progs := rfl
@[simp] theorem State.setSess_tap (s : State) (k : Nat) (x : Sess) : (s.setSess k x).tap = s.tap := rfl
@[simp] theorem State.setSess_mgmt (s : State) (k : Nat) (x : Sess) : (s.setSess k x).mgmt = s.mgmt := rfl
@[simp] theorem State.setSlip_pending (s : State) (k : Nat) (x : Slip) : (s.setSlip k x).pending = s.pending := rfl
@[simp] theorem State.setSlip_free (s : State) (k : Nat) (x : Slip) : (s.setSlip k x).free = s.free := rfl
@[simp] theorem State.setSlip_out (s : State) (k : Nat) (x : Slip) : (s.setSlip k x).out = s.out := rfl
@[simp] theorem State.setSlip_clock (s : State) (k : Nat) (x : Slip) : (s.setSlip k x).clock = s.clock := rfl
@[simp] theorem State.setSlip_part (s : State) (k : Nat) (x : Slip) : (s.setSlip k x).part = s.part := rfl
@[simp] theorem State.setSlip_time (s : State) (k : Nat) (x : Slip) : (s.setSlip k x).time = s.time := rfl
@[simp] theorem State.setSlip_mode (s : State) (k : Nat) (x : Slip) : (s.setSlip k x).mode = s.mode := rfl
@[simp] theorem State.setSlip_boot (s : State) (k : Nat) (x : Slip) : (s.setSlip k x).boot = s.boot := rfl
@[simp] theorem State.setSlip_pwr (s : State) (k : Nat) (x : Slip) : (s.setSlip k x).pwr = s.pwr := rfl
@[simp] theorem State.setSlip_recd (s : State) (k : Nat) (x : Slip) : (s.setSlip k x).recd = s.recd := rfl
@[simp] theorem State.setSlip_pmc (s : State) (k : Nat) (x : Slip) : (s.setSlip k x).pmc = s.pmc := rfl
@[simp] theorem State.setSlip_params (s : State) (k : Nat) (x : Slip) : (s.setSlip k x).params = s.params := rfl
@[simp] theorem State.setSlip_dram (s : State) (k : Nat) (x : Slip) : (s.setSlip k x).dram = s.dram := rfl
@[simp] theorem State.setSlip_set (s : State) (k : Nat) (x : Slip) : (s.setSlip k x).set = s.set := rfl
@[simp] theorem State.setSlip_tides (s : State) (k : Nat) (x : Slip) : (s.setSlip k x).tides = s.tides := rfl
@[simp] theorem State.setSlip_twinTides (s : State) (k : Nat) (x : Slip) : (s.setSlip k x).twinTides = s.twinTides := rfl
@[simp] theorem State.setSlip_tideCount (s : State) (k : Nat) (x : Slip) : (s.setSlip k x).tideCount = s.tideCount := rfl
@[simp] theorem State.setSlip_ctxs (s : State) (k : Nat) (x : Slip) : (s.setSlip k x).ctxs = s.ctxs := rfl
@[simp] theorem State.setSlip_fences (s : State) (k : Nat) (x : Slip) : (s.setSlip k x).fences = s.fences := rfl
@[simp] theorem State.setSlip_tide (s : State) (k : Nat) (x : Slip) : (s.setSlip k x).tide = s.tide := rfl
@[simp] theorem State.setSlip_save (s : State) (k : Nat) (x : Slip) : (s.setSlip k x).save = s.save := rfl
@[simp] theorem State.setSlip_fuse (s : State) (k : Nat) (x : Slip) : (s.setSlip k x).fuse = s.fuse := rfl
@[simp] theorem State.setSlip_fw (s : State) (k : Nat) (x : Slip) : (s.setSlip k x).fw = s.fw := rfl
@[simp] theorem State.setSlip_ich (s : State) (k : Nat) (x : Slip) : (s.setSlip k x).ich = s.ich := rfl
@[simp] theorem State.setSlip_itile (s : State) (k : Nat) (x : Slip) : (s.setSlip k x).itile = s.itile := rfl
@[simp] theorem State.setSlip_links (s : State) (k : Nat) (x : Slip) : (s.setSlip k x).links = s.links := rfl
@[simp] theorem State.setSlip_bars (s : State) (k : Nat) (x : Slip) : (s.setSlip k x).bars = s.bars := rfl
@[simp] theorem State.setSlip_binds (s : State) (k : Nat) (x : Slip) : (s.setSlip k x).binds = s.binds := rfl
@[simp] theorem State.setSlip_home (s : State) (k : Nat) (x : Slip) : (s.setSlip k x).home = s.home := rfl
@[simp] theorem State.setSlip_eaves (s : State) (k : Nat) (x : Slip) : (s.setSlip k x).eaves = s.eaves := rfl
@[simp] theorem State.setSlip_plru (s : State) (k : Nat) (x : Slip) : (s.setSlip k x).plru = s.plru := rfl
@[simp] theorem State.setSlip_paths (s : State) (k : Nat) (x : Slip) : (s.setSlip k x).paths = s.paths := rfl
@[simp] theorem State.setSlip_wq (s : State) (k : Nat) (x : Slip) : (s.setSlip k x).wq = s.wq := rfl
@[simp] theorem State.setSlip_rq (s : State) (k : Nat) (x : Slip) : (s.setSlip k x).rq = s.rq := rfl
@[simp] theorem State.setSlip_waits (s : State) (k : Nat) (x : Slip) : (s.setSlip k x).waits = s.waits := rfl
@[simp] theorem State.setSlip_unacked (s : State) (k : Nat) (x : Slip) : (s.setSlip k x).unacked = s.unacked := rfl
@[simp] theorem State.setSlip_groups (s : State) (k : Nat) (x : Slip) : (s.setSlip k x).groups = s.groups := rfl
@[simp] theorem State.setSlip_chans (s : State) (k : Nat) (x : Slip) : (s.setSlip k x).chans = s.chans := rfl
@[simp] theorem State.setSlip_dtiles (s : State) (k : Nat) (x : Slip) : (s.setSlip k x).dtiles = s.dtiles := rfl
@[simp] theorem State.setSlip_poisoned (s : State) (k : Nat) (x : Slip) : (s.setSlip k x).poisoned = s.poisoned := rfl
@[simp] theorem State.setSlip_thatch (s : State) (k : Nat) (x : Slip) : (s.setSlip k x).thatch = s.thatch := rfl
@[simp] theorem State.setSlip_mirr (s : State) (k : Nat) (x : Slip) : (s.setSlip k x).mirr = s.mirr := rfl
@[simp] theorem State.setSlip_lease (s : State) (k : Nat) (x : Slip) : (s.setSlip k x).lease = s.lease := rfl
@[simp] theorem State.setSlip_wit (s : State) (k : Nat) (x : Slip) : (s.setSlip k x).wit = s.wit := rfl
@[simp] theorem State.setSlip_tiers (s : State) (k : Nat) (x : Slip) : (s.setSlip k x).tiers = s.tiers := rfl
@[simp] theorem State.setSlip_keys (s : State) (k : Nat) (x : Slip) : (s.setSlip k x).keys = s.keys := rfl
@[simp] theorem State.setSlip_sealedKeys (s : State) (k : Nat) (x : Slip) : (s.setSlip k x).sealedKeys = s.sealedKeys := rfl
@[simp] theorem State.setSlip_nonces (s : State) (k : Nat) (x : Slip) : (s.setSlip k x).nonces = s.nonces := rfl
@[simp] theorem State.setSlip_imgKey (s : State) (k : Nat) (x : Slip) : (s.setSlip k x).imgKey = s.imgKey := rfl
@[simp] theorem State.setSlip_progs (s : State) (k : Nat) (x : Slip) : (s.setSlip k x).progs = s.progs := rfl
@[simp] theorem State.setSlip_tap (s : State) (k : Nat) (x : Slip) : (s.setSlip k x).tap = s.tap := rfl
@[simp] theorem State.setSlip_mgmt (s : State) (k : Nat) (x : Slip) : (s.setSlip k x).mgmt = s.mgmt := rfl
@[simp] theorem State.link_setLink (s : State) (t k : Nat) (x : Link) : (s.setLink t k x).link t k = x := Store.read_write_same _ _ _ _
@[simp] theorem State.setLink_pending (s : State) (t k : Nat) (x : Link) : (s.setLink t k x).pending = s.pending := rfl
@[simp] theorem State.setLink_free (s : State) (t k : Nat) (x : Link) : (s.setLink t k x).free = s.free := rfl
@[simp] theorem State.setLink_out (s : State) (t k : Nat) (x : Link) : (s.setLink t k x).out = s.out := rfl
@[simp] theorem State.setLink_clock (s : State) (t k : Nat) (x : Link) : (s.setLink t k x).clock = s.clock := rfl
@[simp] theorem State.setLink_part (s : State) (t k : Nat) (x : Link) : (s.setLink t k x).part = s.part := rfl
@[simp] theorem State.setLink_time (s : State) (t k : Nat) (x : Link) : (s.setLink t k x).time = s.time := rfl
@[simp] theorem State.setLink_mode (s : State) (t k : Nat) (x : Link) : (s.setLink t k x).mode = s.mode := rfl
@[simp] theorem State.setLink_boot (s : State) (t k : Nat) (x : Link) : (s.setLink t k x).boot = s.boot := rfl
@[simp] theorem State.setLink_pwr (s : State) (t k : Nat) (x : Link) : (s.setLink t k x).pwr = s.pwr := rfl
@[simp] theorem State.setLink_recd (s : State) (t k : Nat) (x : Link) : (s.setLink t k x).recd = s.recd := rfl
@[simp] theorem State.setLink_pmc (s : State) (t k : Nat) (x : Link) : (s.setLink t k x).pmc = s.pmc := rfl
@[simp] theorem State.setLink_params (s : State) (t k : Nat) (x : Link) : (s.setLink t k x).params = s.params := rfl
@[simp] theorem State.setLink_dram (s : State) (t k : Nat) (x : Link) : (s.setLink t k x).dram = s.dram := rfl
@[simp] theorem State.setLink_set (s : State) (t k : Nat) (x : Link) : (s.setLink t k x).set = s.set := rfl
@[simp] theorem State.setLink_tides (s : State) (t k : Nat) (x : Link) : (s.setLink t k x).tides = s.tides := rfl
@[simp] theorem State.setLink_twinTides (s : State) (t k : Nat) (x : Link) : (s.setLink t k x).twinTides = s.twinTides := rfl
@[simp] theorem State.setLink_tideCount (s : State) (t k : Nat) (x : Link) : (s.setLink t k x).tideCount = s.tideCount := rfl
@[simp] theorem State.setLink_ctxs (s : State) (t k : Nat) (x : Link) : (s.setLink t k x).ctxs = s.ctxs := rfl
@[simp] theorem State.setLink_fences (s : State) (t k : Nat) (x : Link) : (s.setLink t k x).fences = s.fences := rfl
@[simp] theorem State.setLink_tide (s : State) (t k : Nat) (x : Link) : (s.setLink t k x).tide = s.tide := rfl
@[simp] theorem State.setLink_save (s : State) (t k : Nat) (x : Link) : (s.setLink t k x).save = s.save := rfl
@[simp] theorem State.setLink_fuse (s : State) (t k : Nat) (x : Link) : (s.setLink t k x).fuse = s.fuse := rfl
@[simp] theorem State.setLink_fw (s : State) (t k : Nat) (x : Link) : (s.setLink t k x).fw = s.fw := rfl
@[simp] theorem State.setLink_ich (s : State) (t k : Nat) (x : Link) : (s.setLink t k x).ich = s.ich := rfl
@[simp] theorem State.setLink_itile (s : State) (t k : Nat) (x : Link) : (s.setLink t k x).itile = s.itile := rfl
@[simp] theorem State.setLink_bars (s : State) (t k : Nat) (x : Link) : (s.setLink t k x).bars = s.bars := rfl
@[simp] theorem State.setLink_sessions (s : State) (t k : Nat) (x : Link) : (s.setLink t k x).sessions = s.sessions := rfl
@[simp] theorem State.setLink_binds (s : State) (t k : Nat) (x : Link) : (s.setLink t k x).binds = s.binds := rfl
@[simp] theorem State.setLink_home (s : State) (t k : Nat) (x : Link) : (s.setLink t k x).home = s.home := rfl
@[simp] theorem State.setLink_eaves (s : State) (t k : Nat) (x : Link) : (s.setLink t k x).eaves = s.eaves := rfl
@[simp] theorem State.setLink_plru (s : State) (t k : Nat) (x : Link) : (s.setLink t k x).plru = s.plru := rfl
@[simp] theorem State.setLink_paths (s : State) (t k : Nat) (x : Link) : (s.setLink t k x).paths = s.paths := rfl
@[simp] theorem State.setLink_wq (s : State) (t k : Nat) (x : Link) : (s.setLink t k x).wq = s.wq := rfl
@[simp] theorem State.setLink_rq (s : State) (t k : Nat) (x : Link) : (s.setLink t k x).rq = s.rq := rfl
@[simp] theorem State.setLink_waits (s : State) (t k : Nat) (x : Link) : (s.setLink t k x).waits = s.waits := rfl
@[simp] theorem State.setLink_unacked (s : State) (t k : Nat) (x : Link) : (s.setLink t k x).unacked = s.unacked := rfl
@[simp] theorem State.setLink_groups (s : State) (t k : Nat) (x : Link) : (s.setLink t k x).groups = s.groups := rfl
@[simp] theorem State.setLink_chans (s : State) (t k : Nat) (x : Link) : (s.setLink t k x).chans = s.chans := rfl
@[simp] theorem State.setLink_dtiles (s : State) (t k : Nat) (x : Link) : (s.setLink t k x).dtiles = s.dtiles := rfl
@[simp] theorem State.setLink_poisoned (s : State) (t k : Nat) (x : Link) : (s.setLink t k x).poisoned = s.poisoned := rfl
@[simp] theorem State.setLink_thatch (s : State) (t k : Nat) (x : Link) : (s.setLink t k x).thatch = s.thatch := rfl
@[simp] theorem State.setLink_mirr (s : State) (t k : Nat) (x : Link) : (s.setLink t k x).mirr = s.mirr := rfl
@[simp] theorem State.setLink_lease (s : State) (t k : Nat) (x : Link) : (s.setLink t k x).lease = s.lease := rfl
@[simp] theorem State.setLink_wit (s : State) (t k : Nat) (x : Link) : (s.setLink t k x).wit = s.wit := rfl
@[simp] theorem State.setLink_tiers (s : State) (t k : Nat) (x : Link) : (s.setLink t k x).tiers = s.tiers := rfl
@[simp] theorem State.setLink_keys (s : State) (t k : Nat) (x : Link) : (s.setLink t k x).keys = s.keys := rfl
@[simp] theorem State.setLink_sealedKeys (s : State) (t k : Nat) (x : Link) : (s.setLink t k x).sealedKeys = s.sealedKeys := rfl
@[simp] theorem State.setLink_nonces (s : State) (t k : Nat) (x : Link) : (s.setLink t k x).nonces = s.nonces := rfl
@[simp] theorem State.setLink_imgKey (s : State) (t k : Nat) (x : Link) : (s.setLink t k x).imgKey = s.imgKey := rfl
@[simp] theorem State.setLink_progs (s : State) (t k : Nat) (x : Link) : (s.setLink t k x).progs = s.progs := rfl
@[simp] theorem State.setLink_tap (s : State) (t k : Nat) (x : Link) : (s.setLink t k x).tap = s.tap := rfl
@[simp] theorem State.setLink_mgmt (s : State) (t k : Nat) (x : Link) : (s.setLink t k x).mgmt = s.mgmt := rfl
@[simp] theorem State.bar_setBar (s : State) (t k : Nat) (x : Bar) : (s.setBar t k x).bar t k = x := Store.read_write_same _ _ _ _
@[simp] theorem State.setBar_pending (s : State) (t k : Nat) (x : Bar) : (s.setBar t k x).pending = s.pending := rfl
@[simp] theorem State.setBar_free (s : State) (t k : Nat) (x : Bar) : (s.setBar t k x).free = s.free := rfl
@[simp] theorem State.setBar_out (s : State) (t k : Nat) (x : Bar) : (s.setBar t k x).out = s.out := rfl
@[simp] theorem State.setBar_clock (s : State) (t k : Nat) (x : Bar) : (s.setBar t k x).clock = s.clock := rfl
@[simp] theorem State.setBar_part (s : State) (t k : Nat) (x : Bar) : (s.setBar t k x).part = s.part := rfl
@[simp] theorem State.setBar_time (s : State) (t k : Nat) (x : Bar) : (s.setBar t k x).time = s.time := rfl
@[simp] theorem State.setBar_mode (s : State) (t k : Nat) (x : Bar) : (s.setBar t k x).mode = s.mode := rfl
@[simp] theorem State.setBar_boot (s : State) (t k : Nat) (x : Bar) : (s.setBar t k x).boot = s.boot := rfl
@[simp] theorem State.setBar_pwr (s : State) (t k : Nat) (x : Bar) : (s.setBar t k x).pwr = s.pwr := rfl
@[simp] theorem State.setBar_recd (s : State) (t k : Nat) (x : Bar) : (s.setBar t k x).recd = s.recd := rfl
@[simp] theorem State.setBar_pmc (s : State) (t k : Nat) (x : Bar) : (s.setBar t k x).pmc = s.pmc := rfl
@[simp] theorem State.setBar_params (s : State) (t k : Nat) (x : Bar) : (s.setBar t k x).params = s.params := rfl
@[simp] theorem State.setBar_dram (s : State) (t k : Nat) (x : Bar) : (s.setBar t k x).dram = s.dram := rfl
@[simp] theorem State.setBar_set (s : State) (t k : Nat) (x : Bar) : (s.setBar t k x).set = s.set := rfl
@[simp] theorem State.setBar_tides (s : State) (t k : Nat) (x : Bar) : (s.setBar t k x).tides = s.tides := rfl
@[simp] theorem State.setBar_twinTides (s : State) (t k : Nat) (x : Bar) : (s.setBar t k x).twinTides = s.twinTides := rfl
@[simp] theorem State.setBar_tideCount (s : State) (t k : Nat) (x : Bar) : (s.setBar t k x).tideCount = s.tideCount := rfl
@[simp] theorem State.setBar_ctxs (s : State) (t k : Nat) (x : Bar) : (s.setBar t k x).ctxs = s.ctxs := rfl
@[simp] theorem State.setBar_fences (s : State) (t k : Nat) (x : Bar) : (s.setBar t k x).fences = s.fences := rfl
@[simp] theorem State.setBar_tide (s : State) (t k : Nat) (x : Bar) : (s.setBar t k x).tide = s.tide := rfl
@[simp] theorem State.setBar_save (s : State) (t k : Nat) (x : Bar) : (s.setBar t k x).save = s.save := rfl
@[simp] theorem State.setBar_fuse (s : State) (t k : Nat) (x : Bar) : (s.setBar t k x).fuse = s.fuse := rfl
@[simp] theorem State.setBar_fw (s : State) (t k : Nat) (x : Bar) : (s.setBar t k x).fw = s.fw := rfl
@[simp] theorem State.setBar_ich (s : State) (t k : Nat) (x : Bar) : (s.setBar t k x).ich = s.ich := rfl
@[simp] theorem State.setBar_itile (s : State) (t k : Nat) (x : Bar) : (s.setBar t k x).itile = s.itile := rfl
@[simp] theorem State.setBar_links (s : State) (t k : Nat) (x : Bar) : (s.setBar t k x).links = s.links := rfl
@[simp] theorem State.setBar_sessions (s : State) (t k : Nat) (x : Bar) : (s.setBar t k x).sessions = s.sessions := rfl
@[simp] theorem State.setBar_binds (s : State) (t k : Nat) (x : Bar) : (s.setBar t k x).binds = s.binds := rfl
@[simp] theorem State.setBar_home (s : State) (t k : Nat) (x : Bar) : (s.setBar t k x).home = s.home := rfl
@[simp] theorem State.setBar_eaves (s : State) (t k : Nat) (x : Bar) : (s.setBar t k x).eaves = s.eaves := rfl
@[simp] theorem State.setBar_plru (s : State) (t k : Nat) (x : Bar) : (s.setBar t k x).plru = s.plru := rfl
@[simp] theorem State.setBar_paths (s : State) (t k : Nat) (x : Bar) : (s.setBar t k x).paths = s.paths := rfl
@[simp] theorem State.setBar_wq (s : State) (t k : Nat) (x : Bar) : (s.setBar t k x).wq = s.wq := rfl
@[simp] theorem State.setBar_rq (s : State) (t k : Nat) (x : Bar) : (s.setBar t k x).rq = s.rq := rfl
@[simp] theorem State.setBar_waits (s : State) (t k : Nat) (x : Bar) : (s.setBar t k x).waits = s.waits := rfl
@[simp] theorem State.setBar_unacked (s : State) (t k : Nat) (x : Bar) : (s.setBar t k x).unacked = s.unacked := rfl
@[simp] theorem State.setBar_groups (s : State) (t k : Nat) (x : Bar) : (s.setBar t k x).groups = s.groups := rfl
@[simp] theorem State.setBar_chans (s : State) (t k : Nat) (x : Bar) : (s.setBar t k x).chans = s.chans := rfl
@[simp] theorem State.setBar_dtiles (s : State) (t k : Nat) (x : Bar) : (s.setBar t k x).dtiles = s.dtiles := rfl
@[simp] theorem State.setBar_poisoned (s : State) (t k : Nat) (x : Bar) : (s.setBar t k x).poisoned = s.poisoned := rfl
@[simp] theorem State.setBar_thatch (s : State) (t k : Nat) (x : Bar) : (s.setBar t k x).thatch = s.thatch := rfl
@[simp] theorem State.setBar_mirr (s : State) (t k : Nat) (x : Bar) : (s.setBar t k x).mirr = s.mirr := rfl
@[simp] theorem State.setBar_lease (s : State) (t k : Nat) (x : Bar) : (s.setBar t k x).lease = s.lease := rfl
@[simp] theorem State.setBar_wit (s : State) (t k : Nat) (x : Bar) : (s.setBar t k x).wit = s.wit := rfl
@[simp] theorem State.setBar_tiers (s : State) (t k : Nat) (x : Bar) : (s.setBar t k x).tiers = s.tiers := rfl
@[simp] theorem State.setBar_keys (s : State) (t k : Nat) (x : Bar) : (s.setBar t k x).keys = s.keys := rfl
@[simp] theorem State.setBar_sealedKeys (s : State) (t k : Nat) (x : Bar) : (s.setBar t k x).sealedKeys = s.sealedKeys := rfl
@[simp] theorem State.setBar_nonces (s : State) (t k : Nat) (x : Bar) : (s.setBar t k x).nonces = s.nonces := rfl
@[simp] theorem State.setBar_imgKey (s : State) (t k : Nat) (x : Bar) : (s.setBar t k x).imgKey = s.imgKey := rfl
@[simp] theorem State.setBar_progs (s : State) (t k : Nat) (x : Bar) : (s.setBar t k x).progs = s.progs := rfl
@[simp] theorem State.setBar_tap (s : State) (t k : Nat) (x : Bar) : (s.setBar t k x).tap = s.tap := rfl
@[simp] theorem State.setBar_mgmt (s : State) (t k : Nat) (x : Bar) : (s.setBar t k x).mgmt = s.mgmt := rfl
@[simp] theorem State.pt_setPt (s : State) (t : Nat) (x : PathTile) : (s.setPt t x).pt t = x := Store.read_write_same _ _ _ _
@[simp] theorem State.setPt_pending (s : State) (t : Nat) (x : PathTile) : (s.setPt t x).pending = s.pending := rfl
@[simp] theorem State.setPt_free (s : State) (t : Nat) (x : PathTile) : (s.setPt t x).free = s.free := rfl
@[simp] theorem State.setPt_out (s : State) (t : Nat) (x : PathTile) : (s.setPt t x).out = s.out := rfl
@[simp] theorem State.setPt_clock (s : State) (t : Nat) (x : PathTile) : (s.setPt t x).clock = s.clock := rfl
@[simp] theorem State.setPt_part (s : State) (t : Nat) (x : PathTile) : (s.setPt t x).part = s.part := rfl
@[simp] theorem State.setPt_time (s : State) (t : Nat) (x : PathTile) : (s.setPt t x).time = s.time := rfl
@[simp] theorem State.setPt_mode (s : State) (t : Nat) (x : PathTile) : (s.setPt t x).mode = s.mode := rfl
@[simp] theorem State.setPt_boot (s : State) (t : Nat) (x : PathTile) : (s.setPt t x).boot = s.boot := rfl
@[simp] theorem State.setPt_pwr (s : State) (t : Nat) (x : PathTile) : (s.setPt t x).pwr = s.pwr := rfl
@[simp] theorem State.setPt_recd (s : State) (t : Nat) (x : PathTile) : (s.setPt t x).recd = s.recd := rfl
@[simp] theorem State.setPt_pmc (s : State) (t : Nat) (x : PathTile) : (s.setPt t x).pmc = s.pmc := rfl
@[simp] theorem State.setPt_params (s : State) (t : Nat) (x : PathTile) : (s.setPt t x).params = s.params := rfl
@[simp] theorem State.setPt_dram (s : State) (t : Nat) (x : PathTile) : (s.setPt t x).dram = s.dram := rfl
@[simp] theorem State.setPt_set (s : State) (t : Nat) (x : PathTile) : (s.setPt t x).set = s.set := rfl
@[simp] theorem State.setPt_tides (s : State) (t : Nat) (x : PathTile) : (s.setPt t x).tides = s.tides := rfl
@[simp] theorem State.setPt_twinTides (s : State) (t : Nat) (x : PathTile) : (s.setPt t x).twinTides = s.twinTides := rfl
@[simp] theorem State.setPt_tideCount (s : State) (t : Nat) (x : PathTile) : (s.setPt t x).tideCount = s.tideCount := rfl
@[simp] theorem State.setPt_ctxs (s : State) (t : Nat) (x : PathTile) : (s.setPt t x).ctxs = s.ctxs := rfl
@[simp] theorem State.setPt_fences (s : State) (t : Nat) (x : PathTile) : (s.setPt t x).fences = s.fences := rfl
@[simp] theorem State.setPt_tide (s : State) (t : Nat) (x : PathTile) : (s.setPt t x).tide = s.tide := rfl
@[simp] theorem State.setPt_save (s : State) (t : Nat) (x : PathTile) : (s.setPt t x).save = s.save := rfl
@[simp] theorem State.setPt_fuse (s : State) (t : Nat) (x : PathTile) : (s.setPt t x).fuse = s.fuse := rfl
@[simp] theorem State.setPt_fw (s : State) (t : Nat) (x : PathTile) : (s.setPt t x).fw = s.fw := rfl
@[simp] theorem State.setPt_ich (s : State) (t : Nat) (x : PathTile) : (s.setPt t x).ich = s.ich := rfl
@[simp] theorem State.setPt_itile (s : State) (t : Nat) (x : PathTile) : (s.setPt t x).itile = s.itile := rfl
@[simp] theorem State.setPt_links (s : State) (t : Nat) (x : PathTile) : (s.setPt t x).links = s.links := rfl
@[simp] theorem State.setPt_bars (s : State) (t : Nat) (x : PathTile) : (s.setPt t x).bars = s.bars := rfl
@[simp] theorem State.setPt_sessions (s : State) (t : Nat) (x : PathTile) : (s.setPt t x).sessions = s.sessions := rfl
@[simp] theorem State.setPt_binds (s : State) (t : Nat) (x : PathTile) : (s.setPt t x).binds = s.binds := rfl
@[simp] theorem State.setPt_home (s : State) (t : Nat) (x : PathTile) : (s.setPt t x).home = s.home := rfl
@[simp] theorem State.setPt_eaves (s : State) (t : Nat) (x : PathTile) : (s.setPt t x).eaves = s.eaves := rfl
@[simp] theorem State.setPt_plru (s : State) (t : Nat) (x : PathTile) : (s.setPt t x).plru = s.plru := rfl
@[simp] theorem State.setPt_wq (s : State) (t : Nat) (x : PathTile) : (s.setPt t x).wq = s.wq := rfl
@[simp] theorem State.setPt_rq (s : State) (t : Nat) (x : PathTile) : (s.setPt t x).rq = s.rq := rfl
@[simp] theorem State.setPt_waits (s : State) (t : Nat) (x : PathTile) : (s.setPt t x).waits = s.waits := rfl
@[simp] theorem State.setPt_unacked (s : State) (t : Nat) (x : PathTile) : (s.setPt t x).unacked = s.unacked := rfl
@[simp] theorem State.setPt_groups (s : State) (t : Nat) (x : PathTile) : (s.setPt t x).groups = s.groups := rfl
@[simp] theorem State.setPt_chans (s : State) (t : Nat) (x : PathTile) : (s.setPt t x).chans = s.chans := rfl
@[simp] theorem State.setPt_dtiles (s : State) (t : Nat) (x : PathTile) : (s.setPt t x).dtiles = s.dtiles := rfl
@[simp] theorem State.setPt_poisoned (s : State) (t : Nat) (x : PathTile) : (s.setPt t x).poisoned = s.poisoned := rfl
@[simp] theorem State.setPt_thatch (s : State) (t : Nat) (x : PathTile) : (s.setPt t x).thatch = s.thatch := rfl
@[simp] theorem State.setPt_mirr (s : State) (t : Nat) (x : PathTile) : (s.setPt t x).mirr = s.mirr := rfl
@[simp] theorem State.setPt_lease (s : State) (t : Nat) (x : PathTile) : (s.setPt t x).lease = s.lease := rfl
@[simp] theorem State.setPt_wit (s : State) (t : Nat) (x : PathTile) : (s.setPt t x).wit = s.wit := rfl
@[simp] theorem State.setPt_tiers (s : State) (t : Nat) (x : PathTile) : (s.setPt t x).tiers = s.tiers := rfl
@[simp] theorem State.setPt_keys (s : State) (t : Nat) (x : PathTile) : (s.setPt t x).keys = s.keys := rfl
@[simp] theorem State.setPt_sealedKeys (s : State) (t : Nat) (x : PathTile) : (s.setPt t x).sealedKeys = s.sealedKeys := rfl
@[simp] theorem State.setPt_nonces (s : State) (t : Nat) (x : PathTile) : (s.setPt t x).nonces = s.nonces := rfl
@[simp] theorem State.setPt_imgKey (s : State) (t : Nat) (x : PathTile) : (s.setPt t x).imgKey = s.imgKey := rfl
@[simp] theorem State.setPt_progs (s : State) (t : Nat) (x : PathTile) : (s.setPt t x).progs = s.progs := rfl
@[simp] theorem State.setPt_tap (s : State) (t : Nat) (x : PathTile) : (s.setPt t x).tap = s.tap := rfl
@[simp] theorem State.setPt_mgmt (s : State) (t : Nat) (x : PathTile) : (s.setPt t x).mgmt = s.mgmt := rfl
@[simp] theorem State.keySlot_setKey (s : State) (t k : Nat) (x : KeySlot) : (s.setKey t k x).keySlot t k = x := Store.read_write_same _ _ _ _
@[simp] theorem State.setKey_pending (s : State) (t k : Nat) (x : KeySlot) : (s.setKey t k x).pending = s.pending := rfl
@[simp] theorem State.setKey_free (s : State) (t k : Nat) (x : KeySlot) : (s.setKey t k x).free = s.free := rfl
@[simp] theorem State.setKey_out (s : State) (t k : Nat) (x : KeySlot) : (s.setKey t k x).out = s.out := rfl
@[simp] theorem State.setKey_clock (s : State) (t k : Nat) (x : KeySlot) : (s.setKey t k x).clock = s.clock := rfl
@[simp] theorem State.setKey_part (s : State) (t k : Nat) (x : KeySlot) : (s.setKey t k x).part = s.part := rfl
@[simp] theorem State.setKey_time (s : State) (t k : Nat) (x : KeySlot) : (s.setKey t k x).time = s.time := rfl
@[simp] theorem State.setKey_mode (s : State) (t k : Nat) (x : KeySlot) : (s.setKey t k x).mode = s.mode := rfl
@[simp] theorem State.setKey_boot (s : State) (t k : Nat) (x : KeySlot) : (s.setKey t k x).boot = s.boot := rfl
@[simp] theorem State.setKey_pwr (s : State) (t k : Nat) (x : KeySlot) : (s.setKey t k x).pwr = s.pwr := rfl
@[simp] theorem State.setKey_recd (s : State) (t k : Nat) (x : KeySlot) : (s.setKey t k x).recd = s.recd := rfl
@[simp] theorem State.setKey_pmc (s : State) (t k : Nat) (x : KeySlot) : (s.setKey t k x).pmc = s.pmc := rfl
@[simp] theorem State.setKey_params (s : State) (t k : Nat) (x : KeySlot) : (s.setKey t k x).params = s.params := rfl
@[simp] theorem State.setKey_dram (s : State) (t k : Nat) (x : KeySlot) : (s.setKey t k x).dram = s.dram := rfl
@[simp] theorem State.setKey_set (s : State) (t k : Nat) (x : KeySlot) : (s.setKey t k x).set = s.set := rfl
@[simp] theorem State.setKey_tides (s : State) (t k : Nat) (x : KeySlot) : (s.setKey t k x).tides = s.tides := rfl
@[simp] theorem State.setKey_twinTides (s : State) (t k : Nat) (x : KeySlot) : (s.setKey t k x).twinTides = s.twinTides := rfl
@[simp] theorem State.setKey_tideCount (s : State) (t k : Nat) (x : KeySlot) : (s.setKey t k x).tideCount = s.tideCount := rfl
@[simp] theorem State.setKey_ctxs (s : State) (t k : Nat) (x : KeySlot) : (s.setKey t k x).ctxs = s.ctxs := rfl
@[simp] theorem State.setKey_fences (s : State) (t k : Nat) (x : KeySlot) : (s.setKey t k x).fences = s.fences := rfl
@[simp] theorem State.setKey_tide (s : State) (t k : Nat) (x : KeySlot) : (s.setKey t k x).tide = s.tide := rfl
@[simp] theorem State.setKey_save (s : State) (t k : Nat) (x : KeySlot) : (s.setKey t k x).save = s.save := rfl
@[simp] theorem State.setKey_fuse (s : State) (t k : Nat) (x : KeySlot) : (s.setKey t k x).fuse = s.fuse := rfl
@[simp] theorem State.setKey_fw (s : State) (t k : Nat) (x : KeySlot) : (s.setKey t k x).fw = s.fw := rfl
@[simp] theorem State.setKey_ich (s : State) (t k : Nat) (x : KeySlot) : (s.setKey t k x).ich = s.ich := rfl
@[simp] theorem State.setKey_itile (s : State) (t k : Nat) (x : KeySlot) : (s.setKey t k x).itile = s.itile := rfl
@[simp] theorem State.setKey_links (s : State) (t k : Nat) (x : KeySlot) : (s.setKey t k x).links = s.links := rfl
@[simp] theorem State.setKey_bars (s : State) (t k : Nat) (x : KeySlot) : (s.setKey t k x).bars = s.bars := rfl
@[simp] theorem State.setKey_sessions (s : State) (t k : Nat) (x : KeySlot) : (s.setKey t k x).sessions = s.sessions := rfl
@[simp] theorem State.setKey_binds (s : State) (t k : Nat) (x : KeySlot) : (s.setKey t k x).binds = s.binds := rfl
@[simp] theorem State.setKey_home (s : State) (t k : Nat) (x : KeySlot) : (s.setKey t k x).home = s.home := rfl
@[simp] theorem State.setKey_eaves (s : State) (t k : Nat) (x : KeySlot) : (s.setKey t k x).eaves = s.eaves := rfl
@[simp] theorem State.setKey_plru (s : State) (t k : Nat) (x : KeySlot) : (s.setKey t k x).plru = s.plru := rfl
@[simp] theorem State.setKey_paths (s : State) (t k : Nat) (x : KeySlot) : (s.setKey t k x).paths = s.paths := rfl
@[simp] theorem State.setKey_wq (s : State) (t k : Nat) (x : KeySlot) : (s.setKey t k x).wq = s.wq := rfl
@[simp] theorem State.setKey_rq (s : State) (t k : Nat) (x : KeySlot) : (s.setKey t k x).rq = s.rq := rfl
@[simp] theorem State.setKey_waits (s : State) (t k : Nat) (x : KeySlot) : (s.setKey t k x).waits = s.waits := rfl
@[simp] theorem State.setKey_unacked (s : State) (t k : Nat) (x : KeySlot) : (s.setKey t k x).unacked = s.unacked := rfl
@[simp] theorem State.setKey_groups (s : State) (t k : Nat) (x : KeySlot) : (s.setKey t k x).groups = s.groups := rfl
@[simp] theorem State.setKey_chans (s : State) (t k : Nat) (x : KeySlot) : (s.setKey t k x).chans = s.chans := rfl
@[simp] theorem State.setKey_dtiles (s : State) (t k : Nat) (x : KeySlot) : (s.setKey t k x).dtiles = s.dtiles := rfl
@[simp] theorem State.setKey_poisoned (s : State) (t k : Nat) (x : KeySlot) : (s.setKey t k x).poisoned = s.poisoned := rfl
@[simp] theorem State.setKey_thatch (s : State) (t k : Nat) (x : KeySlot) : (s.setKey t k x).thatch = s.thatch := rfl
@[simp] theorem State.setKey_mirr (s : State) (t k : Nat) (x : KeySlot) : (s.setKey t k x).mirr = s.mirr := rfl
@[simp] theorem State.setKey_lease (s : State) (t k : Nat) (x : KeySlot) : (s.setKey t k x).lease = s.lease := rfl
@[simp] theorem State.setKey_wit (s : State) (t k : Nat) (x : KeySlot) : (s.setKey t k x).wit = s.wit := rfl
@[simp] theorem State.setKey_tiers (s : State) (t k : Nat) (x : KeySlot) : (s.setKey t k x).tiers = s.tiers := rfl
@[simp] theorem State.setKey_sealedKeys (s : State) (t k : Nat) (x : KeySlot) : (s.setKey t k x).sealedKeys = s.sealedKeys := rfl
@[simp] theorem State.setKey_nonces (s : State) (t k : Nat) (x : KeySlot) : (s.setKey t k x).nonces = s.nonces := rfl
@[simp] theorem State.setKey_imgKey (s : State) (t k : Nat) (x : KeySlot) : (s.setKey t k x).imgKey = s.imgKey := rfl
@[simp] theorem State.setKey_progs (s : State) (t k : Nat) (x : KeySlot) : (s.setKey t k x).progs = s.progs := rfl
@[simp] theorem State.setKey_tap (s : State) (t k : Nat) (x : KeySlot) : (s.setKey t k x).tap = s.tap := rfl
@[simp] theorem State.setKey_mgmt (s : State) (t k : Nat) (x : KeySlot) : (s.setKey t k x).mgmt = s.mgmt := rfl
@[simp] theorem State.mt_setMt (s : State) (t : Nat) (x : MirTile) : (s.setMt t x).mt t = x := Store.read_write_same _ _ _ _
@[simp] theorem State.setMt_pending (s : State) (t : Nat) (x : MirTile) : (s.setMt t x).pending = s.pending := rfl
@[simp] theorem State.setMt_free (s : State) (t : Nat) (x : MirTile) : (s.setMt t x).free = s.free := rfl
@[simp] theorem State.setMt_out (s : State) (t : Nat) (x : MirTile) : (s.setMt t x).out = s.out := rfl
@[simp] theorem State.setMt_clock (s : State) (t : Nat) (x : MirTile) : (s.setMt t x).clock = s.clock := rfl
@[simp] theorem State.setMt_part (s : State) (t : Nat) (x : MirTile) : (s.setMt t x).part = s.part := rfl
@[simp] theorem State.setMt_time (s : State) (t : Nat) (x : MirTile) : (s.setMt t x).time = s.time := rfl
@[simp] theorem State.setMt_mode (s : State) (t : Nat) (x : MirTile) : (s.setMt t x).mode = s.mode := rfl
@[simp] theorem State.setMt_boot (s : State) (t : Nat) (x : MirTile) : (s.setMt t x).boot = s.boot := rfl
@[simp] theorem State.setMt_pwr (s : State) (t : Nat) (x : MirTile) : (s.setMt t x).pwr = s.pwr := rfl
@[simp] theorem State.setMt_recd (s : State) (t : Nat) (x : MirTile) : (s.setMt t x).recd = s.recd := rfl
@[simp] theorem State.setMt_pmc (s : State) (t : Nat) (x : MirTile) : (s.setMt t x).pmc = s.pmc := rfl
@[simp] theorem State.setMt_params (s : State) (t : Nat) (x : MirTile) : (s.setMt t x).params = s.params := rfl
@[simp] theorem State.setMt_dram (s : State) (t : Nat) (x : MirTile) : (s.setMt t x).dram = s.dram := rfl
@[simp] theorem State.setMt_set (s : State) (t : Nat) (x : MirTile) : (s.setMt t x).set = s.set := rfl
@[simp] theorem State.setMt_tides (s : State) (t : Nat) (x : MirTile) : (s.setMt t x).tides = s.tides := rfl
@[simp] theorem State.setMt_twinTides (s : State) (t : Nat) (x : MirTile) : (s.setMt t x).twinTides = s.twinTides := rfl
@[simp] theorem State.setMt_tideCount (s : State) (t : Nat) (x : MirTile) : (s.setMt t x).tideCount = s.tideCount := rfl
@[simp] theorem State.setMt_ctxs (s : State) (t : Nat) (x : MirTile) : (s.setMt t x).ctxs = s.ctxs := rfl
@[simp] theorem State.setMt_fences (s : State) (t : Nat) (x : MirTile) : (s.setMt t x).fences = s.fences := rfl
@[simp] theorem State.setMt_tide (s : State) (t : Nat) (x : MirTile) : (s.setMt t x).tide = s.tide := rfl
@[simp] theorem State.setMt_save (s : State) (t : Nat) (x : MirTile) : (s.setMt t x).save = s.save := rfl
@[simp] theorem State.setMt_fuse (s : State) (t : Nat) (x : MirTile) : (s.setMt t x).fuse = s.fuse := rfl
@[simp] theorem State.setMt_fw (s : State) (t : Nat) (x : MirTile) : (s.setMt t x).fw = s.fw := rfl
@[simp] theorem State.setMt_ich (s : State) (t : Nat) (x : MirTile) : (s.setMt t x).ich = s.ich := rfl
@[simp] theorem State.setMt_itile (s : State) (t : Nat) (x : MirTile) : (s.setMt t x).itile = s.itile := rfl
@[simp] theorem State.setMt_links (s : State) (t : Nat) (x : MirTile) : (s.setMt t x).links = s.links := rfl
@[simp] theorem State.setMt_bars (s : State) (t : Nat) (x : MirTile) : (s.setMt t x).bars = s.bars := rfl
@[simp] theorem State.setMt_sessions (s : State) (t : Nat) (x : MirTile) : (s.setMt t x).sessions = s.sessions := rfl
@[simp] theorem State.setMt_binds (s : State) (t : Nat) (x : MirTile) : (s.setMt t x).binds = s.binds := rfl
@[simp] theorem State.setMt_home (s : State) (t : Nat) (x : MirTile) : (s.setMt t x).home = s.home := rfl
@[simp] theorem State.setMt_eaves (s : State) (t : Nat) (x : MirTile) : (s.setMt t x).eaves = s.eaves := rfl
@[simp] theorem State.setMt_plru (s : State) (t : Nat) (x : MirTile) : (s.setMt t x).plru = s.plru := rfl
@[simp] theorem State.setMt_paths (s : State) (t : Nat) (x : MirTile) : (s.setMt t x).paths = s.paths := rfl
@[simp] theorem State.setMt_wq (s : State) (t : Nat) (x : MirTile) : (s.setMt t x).wq = s.wq := rfl
@[simp] theorem State.setMt_rq (s : State) (t : Nat) (x : MirTile) : (s.setMt t x).rq = s.rq := rfl
@[simp] theorem State.setMt_waits (s : State) (t : Nat) (x : MirTile) : (s.setMt t x).waits = s.waits := rfl
@[simp] theorem State.setMt_unacked (s : State) (t : Nat) (x : MirTile) : (s.setMt t x).unacked = s.unacked := rfl
@[simp] theorem State.setMt_groups (s : State) (t : Nat) (x : MirTile) : (s.setMt t x).groups = s.groups := rfl
@[simp] theorem State.setMt_chans (s : State) (t : Nat) (x : MirTile) : (s.setMt t x).chans = s.chans := rfl
@[simp] theorem State.setMt_dtiles (s : State) (t : Nat) (x : MirTile) : (s.setMt t x).dtiles = s.dtiles := rfl
@[simp] theorem State.setMt_poisoned (s : State) (t : Nat) (x : MirTile) : (s.setMt t x).poisoned = s.poisoned := rfl
@[simp] theorem State.setMt_thatch (s : State) (t : Nat) (x : MirTile) : (s.setMt t x).thatch = s.thatch := rfl
@[simp] theorem State.setMt_lease (s : State) (t : Nat) (x : MirTile) : (s.setMt t x).lease = s.lease := rfl
@[simp] theorem State.setMt_wit (s : State) (t : Nat) (x : MirTile) : (s.setMt t x).wit = s.wit := rfl
@[simp] theorem State.setMt_tiers (s : State) (t : Nat) (x : MirTile) : (s.setMt t x).tiers = s.tiers := rfl
@[simp] theorem State.setMt_keys (s : State) (t : Nat) (x : MirTile) : (s.setMt t x).keys = s.keys := rfl
@[simp] theorem State.setMt_sealedKeys (s : State) (t : Nat) (x : MirTile) : (s.setMt t x).sealedKeys = s.sealedKeys := rfl
@[simp] theorem State.setMt_nonces (s : State) (t : Nat) (x : MirTile) : (s.setMt t x).nonces = s.nonces := rfl
@[simp] theorem State.setMt_imgKey (s : State) (t : Nat) (x : MirTile) : (s.setMt t x).imgKey = s.imgKey := rfl
@[simp] theorem State.setMt_progs (s : State) (t : Nat) (x : MirTile) : (s.setMt t x).progs = s.progs := rfl
@[simp] theorem State.setMt_tap (s : State) (t : Nat) (x : MirTile) : (s.setMt t x).tap = s.tap := rfl
@[simp] theorem State.setMt_mgmt (s : State) (t : Nat) (x : MirTile) : (s.setMt t x).mgmt = s.mgmt := rfl
@[simp] theorem State.tt_setTt (s : State) (t : Nat) (x : TierTile) : (s.setTt t x).tt t = x := Store.read_write_same _ _ _ _
@[simp] theorem State.setTt_pending (s : State) (t : Nat) (x : TierTile) : (s.setTt t x).pending = s.pending := rfl
@[simp] theorem State.setTt_free (s : State) (t : Nat) (x : TierTile) : (s.setTt t x).free = s.free := rfl
@[simp] theorem State.setTt_out (s : State) (t : Nat) (x : TierTile) : (s.setTt t x).out = s.out := rfl
@[simp] theorem State.setTt_clock (s : State) (t : Nat) (x : TierTile) : (s.setTt t x).clock = s.clock := rfl
@[simp] theorem State.setTt_part (s : State) (t : Nat) (x : TierTile) : (s.setTt t x).part = s.part := rfl
@[simp] theorem State.setTt_time (s : State) (t : Nat) (x : TierTile) : (s.setTt t x).time = s.time := rfl
@[simp] theorem State.setTt_mode (s : State) (t : Nat) (x : TierTile) : (s.setTt t x).mode = s.mode := rfl
@[simp] theorem State.setTt_boot (s : State) (t : Nat) (x : TierTile) : (s.setTt t x).boot = s.boot := rfl
@[simp] theorem State.setTt_pwr (s : State) (t : Nat) (x : TierTile) : (s.setTt t x).pwr = s.pwr := rfl
@[simp] theorem State.setTt_recd (s : State) (t : Nat) (x : TierTile) : (s.setTt t x).recd = s.recd := rfl
@[simp] theorem State.setTt_pmc (s : State) (t : Nat) (x : TierTile) : (s.setTt t x).pmc = s.pmc := rfl
@[simp] theorem State.setTt_params (s : State) (t : Nat) (x : TierTile) : (s.setTt t x).params = s.params := rfl
@[simp] theorem State.setTt_dram (s : State) (t : Nat) (x : TierTile) : (s.setTt t x).dram = s.dram := rfl
@[simp] theorem State.setTt_set (s : State) (t : Nat) (x : TierTile) : (s.setTt t x).set = s.set := rfl
@[simp] theorem State.setTt_tides (s : State) (t : Nat) (x : TierTile) : (s.setTt t x).tides = s.tides := rfl
@[simp] theorem State.setTt_twinTides (s : State) (t : Nat) (x : TierTile) : (s.setTt t x).twinTides = s.twinTides := rfl
@[simp] theorem State.setTt_tideCount (s : State) (t : Nat) (x : TierTile) : (s.setTt t x).tideCount = s.tideCount := rfl
@[simp] theorem State.setTt_ctxs (s : State) (t : Nat) (x : TierTile) : (s.setTt t x).ctxs = s.ctxs := rfl
@[simp] theorem State.setTt_fences (s : State) (t : Nat) (x : TierTile) : (s.setTt t x).fences = s.fences := rfl
@[simp] theorem State.setTt_tide (s : State) (t : Nat) (x : TierTile) : (s.setTt t x).tide = s.tide := rfl
@[simp] theorem State.setTt_save (s : State) (t : Nat) (x : TierTile) : (s.setTt t x).save = s.save := rfl
@[simp] theorem State.setTt_fuse (s : State) (t : Nat) (x : TierTile) : (s.setTt t x).fuse = s.fuse := rfl
@[simp] theorem State.setTt_fw (s : State) (t : Nat) (x : TierTile) : (s.setTt t x).fw = s.fw := rfl
@[simp] theorem State.setTt_ich (s : State) (t : Nat) (x : TierTile) : (s.setTt t x).ich = s.ich := rfl
@[simp] theorem State.setTt_itile (s : State) (t : Nat) (x : TierTile) : (s.setTt t x).itile = s.itile := rfl
@[simp] theorem State.setTt_links (s : State) (t : Nat) (x : TierTile) : (s.setTt t x).links = s.links := rfl
@[simp] theorem State.setTt_bars (s : State) (t : Nat) (x : TierTile) : (s.setTt t x).bars = s.bars := rfl
@[simp] theorem State.setTt_sessions (s : State) (t : Nat) (x : TierTile) : (s.setTt t x).sessions = s.sessions := rfl
@[simp] theorem State.setTt_binds (s : State) (t : Nat) (x : TierTile) : (s.setTt t x).binds = s.binds := rfl
@[simp] theorem State.setTt_home (s : State) (t : Nat) (x : TierTile) : (s.setTt t x).home = s.home := rfl
@[simp] theorem State.setTt_eaves (s : State) (t : Nat) (x : TierTile) : (s.setTt t x).eaves = s.eaves := rfl
@[simp] theorem State.setTt_plru (s : State) (t : Nat) (x : TierTile) : (s.setTt t x).plru = s.plru := rfl
@[simp] theorem State.setTt_paths (s : State) (t : Nat) (x : TierTile) : (s.setTt t x).paths = s.paths := rfl
@[simp] theorem State.setTt_wq (s : State) (t : Nat) (x : TierTile) : (s.setTt t x).wq = s.wq := rfl
@[simp] theorem State.setTt_rq (s : State) (t : Nat) (x : TierTile) : (s.setTt t x).rq = s.rq := rfl
@[simp] theorem State.setTt_waits (s : State) (t : Nat) (x : TierTile) : (s.setTt t x).waits = s.waits := rfl
@[simp] theorem State.setTt_unacked (s : State) (t : Nat) (x : TierTile) : (s.setTt t x).unacked = s.unacked := rfl
@[simp] theorem State.setTt_groups (s : State) (t : Nat) (x : TierTile) : (s.setTt t x).groups = s.groups := rfl
@[simp] theorem State.setTt_chans (s : State) (t : Nat) (x : TierTile) : (s.setTt t x).chans = s.chans := rfl
@[simp] theorem State.setTt_dtiles (s : State) (t : Nat) (x : TierTile) : (s.setTt t x).dtiles = s.dtiles := rfl
@[simp] theorem State.setTt_poisoned (s : State) (t : Nat) (x : TierTile) : (s.setTt t x).poisoned = s.poisoned := rfl
@[simp] theorem State.setTt_thatch (s : State) (t : Nat) (x : TierTile) : (s.setTt t x).thatch = s.thatch := rfl
@[simp] theorem State.setTt_mirr (s : State) (t : Nat) (x : TierTile) : (s.setTt t x).mirr = s.mirr := rfl
@[simp] theorem State.setTt_lease (s : State) (t : Nat) (x : TierTile) : (s.setTt t x).lease = s.lease := rfl
@[simp] theorem State.setTt_wit (s : State) (t : Nat) (x : TierTile) : (s.setTt t x).wit = s.wit := rfl
@[simp] theorem State.setTt_keys (s : State) (t : Nat) (x : TierTile) : (s.setTt t x).keys = s.keys := rfl
@[simp] theorem State.setTt_sealedKeys (s : State) (t : Nat) (x : TierTile) : (s.setTt t x).sealedKeys = s.sealedKeys := rfl
@[simp] theorem State.setTt_nonces (s : State) (t : Nat) (x : TierTile) : (s.setTt t x).nonces = s.nonces := rfl
@[simp] theorem State.setTt_imgKey (s : State) (t : Nat) (x : TierTile) : (s.setTt t x).imgKey = s.imgKey := rfl
@[simp] theorem State.setTt_progs (s : State) (t : Nat) (x : TierTile) : (s.setTt t x).progs = s.progs := rfl
@[simp] theorem State.setTt_tap (s : State) (t : Nat) (x : TierTile) : (s.setTt t x).tap = s.tap := rfl
@[simp] theorem State.setTt_mgmt (s : State) (t : Nat) (x : TierTile) : (s.setTt t x).mgmt = s.mgmt := rfl
@[simp] theorem State.th_setTh (s : State) (t : Nat) (x : ThTile) : (s.setTh t x).th t = x := Store.read_write_same _ _ _ _
@[simp] theorem State.setTh_pending (s : State) (t : Nat) (x : ThTile) : (s.setTh t x).pending = s.pending := rfl
@[simp] theorem State.setTh_free (s : State) (t : Nat) (x : ThTile) : (s.setTh t x).free = s.free := rfl
@[simp] theorem State.setTh_out (s : State) (t : Nat) (x : ThTile) : (s.setTh t x).out = s.out := rfl
@[simp] theorem State.setTh_clock (s : State) (t : Nat) (x : ThTile) : (s.setTh t x).clock = s.clock := rfl
@[simp] theorem State.setTh_part (s : State) (t : Nat) (x : ThTile) : (s.setTh t x).part = s.part := rfl
@[simp] theorem State.setTh_time (s : State) (t : Nat) (x : ThTile) : (s.setTh t x).time = s.time := rfl
@[simp] theorem State.setTh_mode (s : State) (t : Nat) (x : ThTile) : (s.setTh t x).mode = s.mode := rfl
@[simp] theorem State.setTh_boot (s : State) (t : Nat) (x : ThTile) : (s.setTh t x).boot = s.boot := rfl
@[simp] theorem State.setTh_pwr (s : State) (t : Nat) (x : ThTile) : (s.setTh t x).pwr = s.pwr := rfl
@[simp] theorem State.setTh_recd (s : State) (t : Nat) (x : ThTile) : (s.setTh t x).recd = s.recd := rfl
@[simp] theorem State.setTh_pmc (s : State) (t : Nat) (x : ThTile) : (s.setTh t x).pmc = s.pmc := rfl
@[simp] theorem State.setTh_params (s : State) (t : Nat) (x : ThTile) : (s.setTh t x).params = s.params := rfl
@[simp] theorem State.setTh_dram (s : State) (t : Nat) (x : ThTile) : (s.setTh t x).dram = s.dram := rfl
@[simp] theorem State.setTh_set (s : State) (t : Nat) (x : ThTile) : (s.setTh t x).set = s.set := rfl
@[simp] theorem State.setTh_tides (s : State) (t : Nat) (x : ThTile) : (s.setTh t x).tides = s.tides := rfl
@[simp] theorem State.setTh_twinTides (s : State) (t : Nat) (x : ThTile) : (s.setTh t x).twinTides = s.twinTides := rfl
@[simp] theorem State.setTh_tideCount (s : State) (t : Nat) (x : ThTile) : (s.setTh t x).tideCount = s.tideCount := rfl
@[simp] theorem State.setTh_ctxs (s : State) (t : Nat) (x : ThTile) : (s.setTh t x).ctxs = s.ctxs := rfl
@[simp] theorem State.setTh_fences (s : State) (t : Nat) (x : ThTile) : (s.setTh t x).fences = s.fences := rfl
@[simp] theorem State.setTh_tide (s : State) (t : Nat) (x : ThTile) : (s.setTh t x).tide = s.tide := rfl
@[simp] theorem State.setTh_save (s : State) (t : Nat) (x : ThTile) : (s.setTh t x).save = s.save := rfl
@[simp] theorem State.setTh_fuse (s : State) (t : Nat) (x : ThTile) : (s.setTh t x).fuse = s.fuse := rfl
@[simp] theorem State.setTh_fw (s : State) (t : Nat) (x : ThTile) : (s.setTh t x).fw = s.fw := rfl
@[simp] theorem State.setTh_ich (s : State) (t : Nat) (x : ThTile) : (s.setTh t x).ich = s.ich := rfl
@[simp] theorem State.setTh_itile (s : State) (t : Nat) (x : ThTile) : (s.setTh t x).itile = s.itile := rfl
@[simp] theorem State.setTh_links (s : State) (t : Nat) (x : ThTile) : (s.setTh t x).links = s.links := rfl
@[simp] theorem State.setTh_bars (s : State) (t : Nat) (x : ThTile) : (s.setTh t x).bars = s.bars := rfl
@[simp] theorem State.setTh_sessions (s : State) (t : Nat) (x : ThTile) : (s.setTh t x).sessions = s.sessions := rfl
@[simp] theorem State.setTh_binds (s : State) (t : Nat) (x : ThTile) : (s.setTh t x).binds = s.binds := rfl
@[simp] theorem State.setTh_home (s : State) (t : Nat) (x : ThTile) : (s.setTh t x).home = s.home := rfl
@[simp] theorem State.setTh_eaves (s : State) (t : Nat) (x : ThTile) : (s.setTh t x).eaves = s.eaves := rfl
@[simp] theorem State.setTh_plru (s : State) (t : Nat) (x : ThTile) : (s.setTh t x).plru = s.plru := rfl
@[simp] theorem State.setTh_paths (s : State) (t : Nat) (x : ThTile) : (s.setTh t x).paths = s.paths := rfl
@[simp] theorem State.setTh_wq (s : State) (t : Nat) (x : ThTile) : (s.setTh t x).wq = s.wq := rfl
@[simp] theorem State.setTh_rq (s : State) (t : Nat) (x : ThTile) : (s.setTh t x).rq = s.rq := rfl
@[simp] theorem State.setTh_waits (s : State) (t : Nat) (x : ThTile) : (s.setTh t x).waits = s.waits := rfl
@[simp] theorem State.setTh_unacked (s : State) (t : Nat) (x : ThTile) : (s.setTh t x).unacked = s.unacked := rfl
@[simp] theorem State.setTh_groups (s : State) (t : Nat) (x : ThTile) : (s.setTh t x).groups = s.groups := rfl
@[simp] theorem State.setTh_chans (s : State) (t : Nat) (x : ThTile) : (s.setTh t x).chans = s.chans := rfl
@[simp] theorem State.setTh_dtiles (s : State) (t : Nat) (x : ThTile) : (s.setTh t x).dtiles = s.dtiles := rfl
@[simp] theorem State.setTh_poisoned (s : State) (t : Nat) (x : ThTile) : (s.setTh t x).poisoned = s.poisoned := rfl
@[simp] theorem State.setTh_mirr (s : State) (t : Nat) (x : ThTile) : (s.setTh t x).mirr = s.mirr := rfl
@[simp] theorem State.setTh_lease (s : State) (t : Nat) (x : ThTile) : (s.setTh t x).lease = s.lease := rfl
@[simp] theorem State.setTh_wit (s : State) (t : Nat) (x : ThTile) : (s.setTh t x).wit = s.wit := rfl
@[simp] theorem State.setTh_tiers (s : State) (t : Nat) (x : ThTile) : (s.setTh t x).tiers = s.tiers := rfl
@[simp] theorem State.setTh_keys (s : State) (t : Nat) (x : ThTile) : (s.setTh t x).keys = s.keys := rfl
@[simp] theorem State.setTh_sealedKeys (s : State) (t : Nat) (x : ThTile) : (s.setTh t x).sealedKeys = s.sealedKeys := rfl
@[simp] theorem State.setTh_nonces (s : State) (t : Nat) (x : ThTile) : (s.setTh t x).nonces = s.nonces := rfl
@[simp] theorem State.setTh_imgKey (s : State) (t : Nat) (x : ThTile) : (s.setTh t x).imgKey = s.imgKey := rfl
@[simp] theorem State.setTh_progs (s : State) (t : Nat) (x : ThTile) : (s.setTh t x).progs = s.progs := rfl
@[simp] theorem State.setTh_tap (s : State) (t : Nat) (x : ThTile) : (s.setTh t x).tap = s.tap := rfl
@[simp] theorem State.setTh_mgmt (s : State) (t : Nat) (x : ThTile) : (s.setTh t x).mgmt = s.mgmt := rfl
@[simp] theorem State.tl_setTl (s : State) (t : Nat) (x : TideTile) : (s.setTl t x).tl t = x := Store.read_write_same _ _ _ _
@[simp] theorem State.setTl_pending (s : State) (t : Nat) (x : TideTile) : (s.setTl t x).pending = s.pending := rfl
@[simp] theorem State.setTl_free (s : State) (t : Nat) (x : TideTile) : (s.setTl t x).free = s.free := rfl
@[simp] theorem State.setTl_out (s : State) (t : Nat) (x : TideTile) : (s.setTl t x).out = s.out := rfl
@[simp] theorem State.setTl_clock (s : State) (t : Nat) (x : TideTile) : (s.setTl t x).clock = s.clock := rfl
@[simp] theorem State.setTl_part (s : State) (t : Nat) (x : TideTile) : (s.setTl t x).part = s.part := rfl
@[simp] theorem State.setTl_time (s : State) (t : Nat) (x : TideTile) : (s.setTl t x).time = s.time := rfl
@[simp] theorem State.setTl_mode (s : State) (t : Nat) (x : TideTile) : (s.setTl t x).mode = s.mode := rfl
@[simp] theorem State.setTl_boot (s : State) (t : Nat) (x : TideTile) : (s.setTl t x).boot = s.boot := rfl
@[simp] theorem State.setTl_pwr (s : State) (t : Nat) (x : TideTile) : (s.setTl t x).pwr = s.pwr := rfl
@[simp] theorem State.setTl_recd (s : State) (t : Nat) (x : TideTile) : (s.setTl t x).recd = s.recd := rfl
@[simp] theorem State.setTl_pmc (s : State) (t : Nat) (x : TideTile) : (s.setTl t x).pmc = s.pmc := rfl
@[simp] theorem State.setTl_params (s : State) (t : Nat) (x : TideTile) : (s.setTl t x).params = s.params := rfl
@[simp] theorem State.setTl_dram (s : State) (t : Nat) (x : TideTile) : (s.setTl t x).dram = s.dram := rfl
@[simp] theorem State.setTl_set (s : State) (t : Nat) (x : TideTile) : (s.setTl t x).set = s.set := rfl
@[simp] theorem State.setTl_tides (s : State) (t : Nat) (x : TideTile) : (s.setTl t x).tides = s.tides := rfl
@[simp] theorem State.setTl_twinTides (s : State) (t : Nat) (x : TideTile) : (s.setTl t x).twinTides = s.twinTides := rfl
@[simp] theorem State.setTl_tideCount (s : State) (t : Nat) (x : TideTile) : (s.setTl t x).tideCount = s.tideCount := rfl
@[simp] theorem State.setTl_ctxs (s : State) (t : Nat) (x : TideTile) : (s.setTl t x).ctxs = s.ctxs := rfl
@[simp] theorem State.setTl_fences (s : State) (t : Nat) (x : TideTile) : (s.setTl t x).fences = s.fences := rfl
@[simp] theorem State.setTl_save (s : State) (t : Nat) (x : TideTile) : (s.setTl t x).save = s.save := rfl
@[simp] theorem State.setTl_fuse (s : State) (t : Nat) (x : TideTile) : (s.setTl t x).fuse = s.fuse := rfl
@[simp] theorem State.setTl_fw (s : State) (t : Nat) (x : TideTile) : (s.setTl t x).fw = s.fw := rfl
@[simp] theorem State.setTl_ich (s : State) (t : Nat) (x : TideTile) : (s.setTl t x).ich = s.ich := rfl
@[simp] theorem State.setTl_itile (s : State) (t : Nat) (x : TideTile) : (s.setTl t x).itile = s.itile := rfl
@[simp] theorem State.setTl_links (s : State) (t : Nat) (x : TideTile) : (s.setTl t x).links = s.links := rfl
@[simp] theorem State.setTl_bars (s : State) (t : Nat) (x : TideTile) : (s.setTl t x).bars = s.bars := rfl
@[simp] theorem State.setTl_sessions (s : State) (t : Nat) (x : TideTile) : (s.setTl t x).sessions = s.sessions := rfl
@[simp] theorem State.setTl_binds (s : State) (t : Nat) (x : TideTile) : (s.setTl t x).binds = s.binds := rfl
@[simp] theorem State.setTl_home (s : State) (t : Nat) (x : TideTile) : (s.setTl t x).home = s.home := rfl
@[simp] theorem State.setTl_eaves (s : State) (t : Nat) (x : TideTile) : (s.setTl t x).eaves = s.eaves := rfl
@[simp] theorem State.setTl_plru (s : State) (t : Nat) (x : TideTile) : (s.setTl t x).plru = s.plru := rfl
@[simp] theorem State.setTl_paths (s : State) (t : Nat) (x : TideTile) : (s.setTl t x).paths = s.paths := rfl
@[simp] theorem State.setTl_wq (s : State) (t : Nat) (x : TideTile) : (s.setTl t x).wq = s.wq := rfl
@[simp] theorem State.setTl_rq (s : State) (t : Nat) (x : TideTile) : (s.setTl t x).rq = s.rq := rfl
@[simp] theorem State.setTl_waits (s : State) (t : Nat) (x : TideTile) : (s.setTl t x).waits = s.waits := rfl
@[simp] theorem State.setTl_unacked (s : State) (t : Nat) (x : TideTile) : (s.setTl t x).unacked = s.unacked := rfl
@[simp] theorem State.setTl_groups (s : State) (t : Nat) (x : TideTile) : (s.setTl t x).groups = s.groups := rfl
@[simp] theorem State.setTl_chans (s : State) (t : Nat) (x : TideTile) : (s.setTl t x).chans = s.chans := rfl
@[simp] theorem State.setTl_dtiles (s : State) (t : Nat) (x : TideTile) : (s.setTl t x).dtiles = s.dtiles := rfl
@[simp] theorem State.setTl_poisoned (s : State) (t : Nat) (x : TideTile) : (s.setTl t x).poisoned = s.poisoned := rfl
@[simp] theorem State.setTl_thatch (s : State) (t : Nat) (x : TideTile) : (s.setTl t x).thatch = s.thatch := rfl
@[simp] theorem State.setTl_mirr (s : State) (t : Nat) (x : TideTile) : (s.setTl t x).mirr = s.mirr := rfl
@[simp] theorem State.setTl_lease (s : State) (t : Nat) (x : TideTile) : (s.setTl t x).lease = s.lease := rfl
@[simp] theorem State.setTl_wit (s : State) (t : Nat) (x : TideTile) : (s.setTl t x).wit = s.wit := rfl
@[simp] theorem State.setTl_tiers (s : State) (t : Nat) (x : TideTile) : (s.setTl t x).tiers = s.tiers := rfl
@[simp] theorem State.setTl_keys (s : State) (t : Nat) (x : TideTile) : (s.setTl t x).keys = s.keys := rfl
@[simp] theorem State.setTl_sealedKeys (s : State) (t : Nat) (x : TideTile) : (s.setTl t x).sealedKeys = s.sealedKeys := rfl
@[simp] theorem State.setTl_nonces (s : State) (t : Nat) (x : TideTile) : (s.setTl t x).nonces = s.nonces := rfl
@[simp] theorem State.setTl_imgKey (s : State) (t : Nat) (x : TideTile) : (s.setTl t x).imgKey = s.imgKey := rfl
@[simp] theorem State.setTl_progs (s : State) (t : Nat) (x : TideTile) : (s.setTl t x).progs = s.progs := rfl
@[simp] theorem State.setTl_tap (s : State) (t : Nat) (x : TideTile) : (s.setTl t x).tap = s.tap := rfl
@[simp] theorem State.setTl_mgmt (s : State) (t : Nat) (x : TideTile) : (s.setTl t x).mgmt = s.mgmt := rfl
@[simp] theorem State.it_setIt (s : State) (t : Nat) (x : IntTile) : (s.setIt t x).it t = x := Store.read_write_same _ _ _ _
@[simp] theorem State.setIt_pending (s : State) (t : Nat) (x : IntTile) : (s.setIt t x).pending = s.pending := rfl
@[simp] theorem State.setIt_free (s : State) (t : Nat) (x : IntTile) : (s.setIt t x).free = s.free := rfl
@[simp] theorem State.setIt_out (s : State) (t : Nat) (x : IntTile) : (s.setIt t x).out = s.out := rfl
@[simp] theorem State.setIt_clock (s : State) (t : Nat) (x : IntTile) : (s.setIt t x).clock = s.clock := rfl
@[simp] theorem State.setIt_part (s : State) (t : Nat) (x : IntTile) : (s.setIt t x).part = s.part := rfl
@[simp] theorem State.setIt_time (s : State) (t : Nat) (x : IntTile) : (s.setIt t x).time = s.time := rfl
@[simp] theorem State.setIt_mode (s : State) (t : Nat) (x : IntTile) : (s.setIt t x).mode = s.mode := rfl
@[simp] theorem State.setIt_boot (s : State) (t : Nat) (x : IntTile) : (s.setIt t x).boot = s.boot := rfl
@[simp] theorem State.setIt_pwr (s : State) (t : Nat) (x : IntTile) : (s.setIt t x).pwr = s.pwr := rfl
@[simp] theorem State.setIt_recd (s : State) (t : Nat) (x : IntTile) : (s.setIt t x).recd = s.recd := rfl
@[simp] theorem State.setIt_pmc (s : State) (t : Nat) (x : IntTile) : (s.setIt t x).pmc = s.pmc := rfl
@[simp] theorem State.setIt_params (s : State) (t : Nat) (x : IntTile) : (s.setIt t x).params = s.params := rfl
@[simp] theorem State.setIt_dram (s : State) (t : Nat) (x : IntTile) : (s.setIt t x).dram = s.dram := rfl
@[simp] theorem State.setIt_set (s : State) (t : Nat) (x : IntTile) : (s.setIt t x).set = s.set := rfl
@[simp] theorem State.setIt_tides (s : State) (t : Nat) (x : IntTile) : (s.setIt t x).tides = s.tides := rfl
@[simp] theorem State.setIt_twinTides (s : State) (t : Nat) (x : IntTile) : (s.setIt t x).twinTides = s.twinTides := rfl
@[simp] theorem State.setIt_tideCount (s : State) (t : Nat) (x : IntTile) : (s.setIt t x).tideCount = s.tideCount := rfl
@[simp] theorem State.setIt_ctxs (s : State) (t : Nat) (x : IntTile) : (s.setIt t x).ctxs = s.ctxs := rfl
@[simp] theorem State.setIt_fences (s : State) (t : Nat) (x : IntTile) : (s.setIt t x).fences = s.fences := rfl
@[simp] theorem State.setIt_tide (s : State) (t : Nat) (x : IntTile) : (s.setIt t x).tide = s.tide := rfl
@[simp] theorem State.setIt_save (s : State) (t : Nat) (x : IntTile) : (s.setIt t x).save = s.save := rfl
@[simp] theorem State.setIt_fuse (s : State) (t : Nat) (x : IntTile) : (s.setIt t x).fuse = s.fuse := rfl
@[simp] theorem State.setIt_fw (s : State) (t : Nat) (x : IntTile) : (s.setIt t x).fw = s.fw := rfl
@[simp] theorem State.setIt_ich (s : State) (t : Nat) (x : IntTile) : (s.setIt t x).ich = s.ich := rfl
@[simp] theorem State.setIt_links (s : State) (t : Nat) (x : IntTile) : (s.setIt t x).links = s.links := rfl
@[simp] theorem State.setIt_bars (s : State) (t : Nat) (x : IntTile) : (s.setIt t x).bars = s.bars := rfl
@[simp] theorem State.setIt_sessions (s : State) (t : Nat) (x : IntTile) : (s.setIt t x).sessions = s.sessions := rfl
@[simp] theorem State.setIt_binds (s : State) (t : Nat) (x : IntTile) : (s.setIt t x).binds = s.binds := rfl
@[simp] theorem State.setIt_home (s : State) (t : Nat) (x : IntTile) : (s.setIt t x).home = s.home := rfl
@[simp] theorem State.setIt_eaves (s : State) (t : Nat) (x : IntTile) : (s.setIt t x).eaves = s.eaves := rfl
@[simp] theorem State.setIt_plru (s : State) (t : Nat) (x : IntTile) : (s.setIt t x).plru = s.plru := rfl
@[simp] theorem State.setIt_paths (s : State) (t : Nat) (x : IntTile) : (s.setIt t x).paths = s.paths := rfl
@[simp] theorem State.setIt_wq (s : State) (t : Nat) (x : IntTile) : (s.setIt t x).wq = s.wq := rfl
@[simp] theorem State.setIt_rq (s : State) (t : Nat) (x : IntTile) : (s.setIt t x).rq = s.rq := rfl
@[simp] theorem State.setIt_waits (s : State) (t : Nat) (x : IntTile) : (s.setIt t x).waits = s.waits := rfl
@[simp] theorem State.setIt_unacked (s : State) (t : Nat) (x : IntTile) : (s.setIt t x).unacked = s.unacked := rfl
@[simp] theorem State.setIt_groups (s : State) (t : Nat) (x : IntTile) : (s.setIt t x).groups = s.groups := rfl
@[simp] theorem State.setIt_chans (s : State) (t : Nat) (x : IntTile) : (s.setIt t x).chans = s.chans := rfl
@[simp] theorem State.setIt_dtiles (s : State) (t : Nat) (x : IntTile) : (s.setIt t x).dtiles = s.dtiles := rfl
@[simp] theorem State.setIt_poisoned (s : State) (t : Nat) (x : IntTile) : (s.setIt t x).poisoned = s.poisoned := rfl
@[simp] theorem State.setIt_thatch (s : State) (t : Nat) (x : IntTile) : (s.setIt t x).thatch = s.thatch := rfl
@[simp] theorem State.setIt_mirr (s : State) (t : Nat) (x : IntTile) : (s.setIt t x).mirr = s.mirr := rfl
@[simp] theorem State.setIt_lease (s : State) (t : Nat) (x : IntTile) : (s.setIt t x).lease = s.lease := rfl
@[simp] theorem State.setIt_wit (s : State) (t : Nat) (x : IntTile) : (s.setIt t x).wit = s.wit := rfl
@[simp] theorem State.setIt_tiers (s : State) (t : Nat) (x : IntTile) : (s.setIt t x).tiers = s.tiers := rfl
@[simp] theorem State.setIt_keys (s : State) (t : Nat) (x : IntTile) : (s.setIt t x).keys = s.keys := rfl
@[simp] theorem State.setIt_sealedKeys (s : State) (t : Nat) (x : IntTile) : (s.setIt t x).sealedKeys = s.sealedKeys := rfl
@[simp] theorem State.setIt_nonces (s : State) (t : Nat) (x : IntTile) : (s.setIt t x).nonces = s.nonces := rfl
@[simp] theorem State.setIt_imgKey (s : State) (t : Nat) (x : IntTile) : (s.setIt t x).imgKey = s.imgKey := rfl
@[simp] theorem State.setIt_progs (s : State) (t : Nat) (x : IntTile) : (s.setIt t x).progs = s.progs := rfl
@[simp] theorem State.setIt_tap (s : State) (t : Nat) (x : IntTile) : (s.setIt t x).tap = s.tap := rfl
@[simp] theorem State.setIt_mgmt (s : State) (t : Nat) (x : IntTile) : (s.setIt t x).mgmt = s.mgmt := rfl
@[simp] theorem State.ic_setIc (s : State) (t k : Nat) (x : IntCh) : (s.setIc t k x).ic t k = x := Store.read_write_same _ _ _ _
@[simp] theorem State.setIc_pending (s : State) (t k : Nat) (x : IntCh) : (s.setIc t k x).pending = s.pending := rfl
@[simp] theorem State.setIc_free (s : State) (t k : Nat) (x : IntCh) : (s.setIc t k x).free = s.free := rfl
@[simp] theorem State.setIc_out (s : State) (t k : Nat) (x : IntCh) : (s.setIc t k x).out = s.out := rfl
@[simp] theorem State.setIc_clock (s : State) (t k : Nat) (x : IntCh) : (s.setIc t k x).clock = s.clock := rfl
@[simp] theorem State.setIc_part (s : State) (t k : Nat) (x : IntCh) : (s.setIc t k x).part = s.part := rfl
@[simp] theorem State.setIc_time (s : State) (t k : Nat) (x : IntCh) : (s.setIc t k x).time = s.time := rfl
@[simp] theorem State.setIc_mode (s : State) (t k : Nat) (x : IntCh) : (s.setIc t k x).mode = s.mode := rfl
@[simp] theorem State.setIc_boot (s : State) (t k : Nat) (x : IntCh) : (s.setIc t k x).boot = s.boot := rfl
@[simp] theorem State.setIc_pwr (s : State) (t k : Nat) (x : IntCh) : (s.setIc t k x).pwr = s.pwr := rfl
@[simp] theorem State.setIc_recd (s : State) (t k : Nat) (x : IntCh) : (s.setIc t k x).recd = s.recd := rfl
@[simp] theorem State.setIc_pmc (s : State) (t k : Nat) (x : IntCh) : (s.setIc t k x).pmc = s.pmc := rfl
@[simp] theorem State.setIc_params (s : State) (t k : Nat) (x : IntCh) : (s.setIc t k x).params = s.params := rfl
@[simp] theorem State.setIc_dram (s : State) (t k : Nat) (x : IntCh) : (s.setIc t k x).dram = s.dram := rfl
@[simp] theorem State.setIc_set (s : State) (t k : Nat) (x : IntCh) : (s.setIc t k x).set = s.set := rfl
@[simp] theorem State.setIc_tides (s : State) (t k : Nat) (x : IntCh) : (s.setIc t k x).tides = s.tides := rfl
@[simp] theorem State.setIc_twinTides (s : State) (t k : Nat) (x : IntCh) : (s.setIc t k x).twinTides = s.twinTides := rfl
@[simp] theorem State.setIc_tideCount (s : State) (t k : Nat) (x : IntCh) : (s.setIc t k x).tideCount = s.tideCount := rfl
@[simp] theorem State.setIc_ctxs (s : State) (t k : Nat) (x : IntCh) : (s.setIc t k x).ctxs = s.ctxs := rfl
@[simp] theorem State.setIc_fences (s : State) (t k : Nat) (x : IntCh) : (s.setIc t k x).fences = s.fences := rfl
@[simp] theorem State.setIc_tide (s : State) (t k : Nat) (x : IntCh) : (s.setIc t k x).tide = s.tide := rfl
@[simp] theorem State.setIc_save (s : State) (t k : Nat) (x : IntCh) : (s.setIc t k x).save = s.save := rfl
@[simp] theorem State.setIc_fuse (s : State) (t k : Nat) (x : IntCh) : (s.setIc t k x).fuse = s.fuse := rfl
@[simp] theorem State.setIc_fw (s : State) (t k : Nat) (x : IntCh) : (s.setIc t k x).fw = s.fw := rfl
@[simp] theorem State.setIc_itile (s : State) (t k : Nat) (x : IntCh) : (s.setIc t k x).itile = s.itile := rfl
@[simp] theorem State.setIc_links (s : State) (t k : Nat) (x : IntCh) : (s.setIc t k x).links = s.links := rfl
@[simp] theorem State.setIc_bars (s : State) (t k : Nat) (x : IntCh) : (s.setIc t k x).bars = s.bars := rfl
@[simp] theorem State.setIc_sessions (s : State) (t k : Nat) (x : IntCh) : (s.setIc t k x).sessions = s.sessions := rfl
@[simp] theorem State.setIc_binds (s : State) (t k : Nat) (x : IntCh) : (s.setIc t k x).binds = s.binds := rfl
@[simp] theorem State.setIc_home (s : State) (t k : Nat) (x : IntCh) : (s.setIc t k x).home = s.home := rfl
@[simp] theorem State.setIc_eaves (s : State) (t k : Nat) (x : IntCh) : (s.setIc t k x).eaves = s.eaves := rfl
@[simp] theorem State.setIc_plru (s : State) (t k : Nat) (x : IntCh) : (s.setIc t k x).plru = s.plru := rfl
@[simp] theorem State.setIc_paths (s : State) (t k : Nat) (x : IntCh) : (s.setIc t k x).paths = s.paths := rfl
@[simp] theorem State.setIc_wq (s : State) (t k : Nat) (x : IntCh) : (s.setIc t k x).wq = s.wq := rfl
@[simp] theorem State.setIc_rq (s : State) (t k : Nat) (x : IntCh) : (s.setIc t k x).rq = s.rq := rfl
@[simp] theorem State.setIc_waits (s : State) (t k : Nat) (x : IntCh) : (s.setIc t k x).waits = s.waits := rfl
@[simp] theorem State.setIc_unacked (s : State) (t k : Nat) (x : IntCh) : (s.setIc t k x).unacked = s.unacked := rfl
@[simp] theorem State.setIc_groups (s : State) (t k : Nat) (x : IntCh) : (s.setIc t k x).groups = s.groups := rfl
@[simp] theorem State.setIc_chans (s : State) (t k : Nat) (x : IntCh) : (s.setIc t k x).chans = s.chans := rfl
@[simp] theorem State.setIc_dtiles (s : State) (t k : Nat) (x : IntCh) : (s.setIc t k x).dtiles = s.dtiles := rfl
@[simp] theorem State.setIc_poisoned (s : State) (t k : Nat) (x : IntCh) : (s.setIc t k x).poisoned = s.poisoned := rfl
@[simp] theorem State.setIc_thatch (s : State) (t k : Nat) (x : IntCh) : (s.setIc t k x).thatch = s.thatch := rfl
@[simp] theorem State.setIc_mirr (s : State) (t k : Nat) (x : IntCh) : (s.setIc t k x).mirr = s.mirr := rfl
@[simp] theorem State.setIc_lease (s : State) (t k : Nat) (x : IntCh) : (s.setIc t k x).lease = s.lease := rfl
@[simp] theorem State.setIc_wit (s : State) (t k : Nat) (x : IntCh) : (s.setIc t k x).wit = s.wit := rfl
@[simp] theorem State.setIc_tiers (s : State) (t k : Nat) (x : IntCh) : (s.setIc t k x).tiers = s.tiers := rfl
@[simp] theorem State.setIc_keys (s : State) (t k : Nat) (x : IntCh) : (s.setIc t k x).keys = s.keys := rfl
@[simp] theorem State.setIc_sealedKeys (s : State) (t k : Nat) (x : IntCh) : (s.setIc t k x).sealedKeys = s.sealedKeys := rfl
@[simp] theorem State.setIc_nonces (s : State) (t k : Nat) (x : IntCh) : (s.setIc t k x).nonces = s.nonces := rfl
@[simp] theorem State.setIc_imgKey (s : State) (t k : Nat) (x : IntCh) : (s.setIc t k x).imgKey = s.imgKey := rfl
@[simp] theorem State.setIc_progs (s : State) (t k : Nat) (x : IntCh) : (s.setIc t k x).progs = s.progs := rfl
@[simp] theorem State.setIc_tap (s : State) (t k : Nat) (x : IntCh) : (s.setIc t k x).tap = s.tap := rfl
@[simp] theorem State.setIc_mgmt (s : State) (t k : Nat) (x : IntCh) : (s.setIc t k x).mgmt = s.mgmt := rfl
@[simp] theorem State.rt_setRt (s : State) (t : Nat) (x : RecTile) : (s.setRt t x).rt t = x := Store.read_write_same _ _ _ _
@[simp] theorem State.setRt_pending (s : State) (t : Nat) (x : RecTile) : (s.setRt t x).pending = s.pending := rfl
@[simp] theorem State.setRt_free (s : State) (t : Nat) (x : RecTile) : (s.setRt t x).free = s.free := rfl
@[simp] theorem State.setRt_out (s : State) (t : Nat) (x : RecTile) : (s.setRt t x).out = s.out := rfl
@[simp] theorem State.setRt_clock (s : State) (t : Nat) (x : RecTile) : (s.setRt t x).clock = s.clock := rfl
@[simp] theorem State.setRt_part (s : State) (t : Nat) (x : RecTile) : (s.setRt t x).part = s.part := rfl
@[simp] theorem State.setRt_time (s : State) (t : Nat) (x : RecTile) : (s.setRt t x).time = s.time := rfl
@[simp] theorem State.setRt_mode (s : State) (t : Nat) (x : RecTile) : (s.setRt t x).mode = s.mode := rfl
@[simp] theorem State.setRt_boot (s : State) (t : Nat) (x : RecTile) : (s.setRt t x).boot = s.boot := rfl
@[simp] theorem State.setRt_pwr (s : State) (t : Nat) (x : RecTile) : (s.setRt t x).pwr = s.pwr := rfl
@[simp] theorem State.setRt_pmc (s : State) (t : Nat) (x : RecTile) : (s.setRt t x).pmc = s.pmc := rfl
@[simp] theorem State.setRt_params (s : State) (t : Nat) (x : RecTile) : (s.setRt t x).params = s.params := rfl
@[simp] theorem State.setRt_dram (s : State) (t : Nat) (x : RecTile) : (s.setRt t x).dram = s.dram := rfl
@[simp] theorem State.setRt_set (s : State) (t : Nat) (x : RecTile) : (s.setRt t x).set = s.set := rfl
@[simp] theorem State.setRt_tides (s : State) (t : Nat) (x : RecTile) : (s.setRt t x).tides = s.tides := rfl
@[simp] theorem State.setRt_twinTides (s : State) (t : Nat) (x : RecTile) : (s.setRt t x).twinTides = s.twinTides := rfl
@[simp] theorem State.setRt_tideCount (s : State) (t : Nat) (x : RecTile) : (s.setRt t x).tideCount = s.tideCount := rfl
@[simp] theorem State.setRt_ctxs (s : State) (t : Nat) (x : RecTile) : (s.setRt t x).ctxs = s.ctxs := rfl
@[simp] theorem State.setRt_fences (s : State) (t : Nat) (x : RecTile) : (s.setRt t x).fences = s.fences := rfl
@[simp] theorem State.setRt_tide (s : State) (t : Nat) (x : RecTile) : (s.setRt t x).tide = s.tide := rfl
@[simp] theorem State.setRt_save (s : State) (t : Nat) (x : RecTile) : (s.setRt t x).save = s.save := rfl
@[simp] theorem State.setRt_fuse (s : State) (t : Nat) (x : RecTile) : (s.setRt t x).fuse = s.fuse := rfl
@[simp] theorem State.setRt_fw (s : State) (t : Nat) (x : RecTile) : (s.setRt t x).fw = s.fw := rfl
@[simp] theorem State.setRt_ich (s : State) (t : Nat) (x : RecTile) : (s.setRt t x).ich = s.ich := rfl
@[simp] theorem State.setRt_itile (s : State) (t : Nat) (x : RecTile) : (s.setRt t x).itile = s.itile := rfl
@[simp] theorem State.setRt_links (s : State) (t : Nat) (x : RecTile) : (s.setRt t x).links = s.links := rfl
@[simp] theorem State.setRt_bars (s : State) (t : Nat) (x : RecTile) : (s.setRt t x).bars = s.bars := rfl
@[simp] theorem State.setRt_sessions (s : State) (t : Nat) (x : RecTile) : (s.setRt t x).sessions = s.sessions := rfl
@[simp] theorem State.setRt_binds (s : State) (t : Nat) (x : RecTile) : (s.setRt t x).binds = s.binds := rfl
@[simp] theorem State.setRt_home (s : State) (t : Nat) (x : RecTile) : (s.setRt t x).home = s.home := rfl
@[simp] theorem State.setRt_eaves (s : State) (t : Nat) (x : RecTile) : (s.setRt t x).eaves = s.eaves := rfl
@[simp] theorem State.setRt_plru (s : State) (t : Nat) (x : RecTile) : (s.setRt t x).plru = s.plru := rfl
@[simp] theorem State.setRt_paths (s : State) (t : Nat) (x : RecTile) : (s.setRt t x).paths = s.paths := rfl
@[simp] theorem State.setRt_wq (s : State) (t : Nat) (x : RecTile) : (s.setRt t x).wq = s.wq := rfl
@[simp] theorem State.setRt_rq (s : State) (t : Nat) (x : RecTile) : (s.setRt t x).rq = s.rq := rfl
@[simp] theorem State.setRt_waits (s : State) (t : Nat) (x : RecTile) : (s.setRt t x).waits = s.waits := rfl
@[simp] theorem State.setRt_unacked (s : State) (t : Nat) (x : RecTile) : (s.setRt t x).unacked = s.unacked := rfl
@[simp] theorem State.setRt_groups (s : State) (t : Nat) (x : RecTile) : (s.setRt t x).groups = s.groups := rfl
@[simp] theorem State.setRt_chans (s : State) (t : Nat) (x : RecTile) : (s.setRt t x).chans = s.chans := rfl
@[simp] theorem State.setRt_dtiles (s : State) (t : Nat) (x : RecTile) : (s.setRt t x).dtiles = s.dtiles := rfl
@[simp] theorem State.setRt_poisoned (s : State) (t : Nat) (x : RecTile) : (s.setRt t x).poisoned = s.poisoned := rfl
@[simp] theorem State.setRt_thatch (s : State) (t : Nat) (x : RecTile) : (s.setRt t x).thatch = s.thatch := rfl
@[simp] theorem State.setRt_mirr (s : State) (t : Nat) (x : RecTile) : (s.setRt t x).mirr = s.mirr := rfl
@[simp] theorem State.setRt_lease (s : State) (t : Nat) (x : RecTile) : (s.setRt t x).lease = s.lease := rfl
@[simp] theorem State.setRt_wit (s : State) (t : Nat) (x : RecTile) : (s.setRt t x).wit = s.wit := rfl
@[simp] theorem State.setRt_tiers (s : State) (t : Nat) (x : RecTile) : (s.setRt t x).tiers = s.tiers := rfl
@[simp] theorem State.setRt_keys (s : State) (t : Nat) (x : RecTile) : (s.setRt t x).keys = s.keys := rfl
@[simp] theorem State.setRt_sealedKeys (s : State) (t : Nat) (x : RecTile) : (s.setRt t x).sealedKeys = s.sealedKeys := rfl
@[simp] theorem State.setRt_nonces (s : State) (t : Nat) (x : RecTile) : (s.setRt t x).nonces = s.nonces := rfl
@[simp] theorem State.setRt_imgKey (s : State) (t : Nat) (x : RecTile) : (s.setRt t x).imgKey = s.imgKey := rfl
@[simp] theorem State.setRt_progs (s : State) (t : Nat) (x : RecTile) : (s.setRt t x).progs = s.progs := rfl
@[simp] theorem State.setRt_tap (s : State) (t : Nat) (x : RecTile) : (s.setRt t x).tap = s.tap := rfl
@[simp] theorem State.setRt_mgmt (s : State) (t : Nat) (x : RecTile) : (s.setRt t x).mgmt = s.mgmt := rfl
@[simp] theorem State.ctr_setCtr (s : State) (k : Nat) (x : Ctr) : (s.setCtr k x).ctr k = x := Store.read_write_same _ _ _ _
@[simp] theorem State.setCtr_pending (s : State) (k : Nat) (x : Ctr) : (s.setCtr k x).pending = s.pending := rfl
@[simp] theorem State.setCtr_free (s : State) (k : Nat) (x : Ctr) : (s.setCtr k x).free = s.free := rfl
@[simp] theorem State.setCtr_out (s : State) (k : Nat) (x : Ctr) : (s.setCtr k x).out = s.out := rfl
@[simp] theorem State.setCtr_clock (s : State) (k : Nat) (x : Ctr) : (s.setCtr k x).clock = s.clock := rfl
@[simp] theorem State.setCtr_part (s : State) (k : Nat) (x : Ctr) : (s.setCtr k x).part = s.part := rfl
@[simp] theorem State.setCtr_time (s : State) (k : Nat) (x : Ctr) : (s.setCtr k x).time = s.time := rfl
@[simp] theorem State.setCtr_mode (s : State) (k : Nat) (x : Ctr) : (s.setCtr k x).mode = s.mode := rfl
@[simp] theorem State.setCtr_boot (s : State) (k : Nat) (x : Ctr) : (s.setCtr k x).boot = s.boot := rfl
@[simp] theorem State.setCtr_pwr (s : State) (k : Nat) (x : Ctr) : (s.setCtr k x).pwr = s.pwr := rfl
@[simp] theorem State.setCtr_recd (s : State) (k : Nat) (x : Ctr) : (s.setCtr k x).recd = s.recd := rfl
@[simp] theorem State.setCtr_params (s : State) (k : Nat) (x : Ctr) : (s.setCtr k x).params = s.params := rfl
@[simp] theorem State.setCtr_dram (s : State) (k : Nat) (x : Ctr) : (s.setCtr k x).dram = s.dram := rfl
@[simp] theorem State.setCtr_set (s : State) (k : Nat) (x : Ctr) : (s.setCtr k x).set = s.set := rfl
@[simp] theorem State.setCtr_tides (s : State) (k : Nat) (x : Ctr) : (s.setCtr k x).tides = s.tides := rfl
@[simp] theorem State.setCtr_twinTides (s : State) (k : Nat) (x : Ctr) : (s.setCtr k x).twinTides = s.twinTides := rfl
@[simp] theorem State.setCtr_tideCount (s : State) (k : Nat) (x : Ctr) : (s.setCtr k x).tideCount = s.tideCount := rfl
@[simp] theorem State.setCtr_ctxs (s : State) (k : Nat) (x : Ctr) : (s.setCtr k x).ctxs = s.ctxs := rfl
@[simp] theorem State.setCtr_fences (s : State) (k : Nat) (x : Ctr) : (s.setCtr k x).fences = s.fences := rfl
@[simp] theorem State.setCtr_tide (s : State) (k : Nat) (x : Ctr) : (s.setCtr k x).tide = s.tide := rfl
@[simp] theorem State.setCtr_save (s : State) (k : Nat) (x : Ctr) : (s.setCtr k x).save = s.save := rfl
@[simp] theorem State.setCtr_fuse (s : State) (k : Nat) (x : Ctr) : (s.setCtr k x).fuse = s.fuse := rfl
@[simp] theorem State.setCtr_fw (s : State) (k : Nat) (x : Ctr) : (s.setCtr k x).fw = s.fw := rfl
@[simp] theorem State.setCtr_ich (s : State) (k : Nat) (x : Ctr) : (s.setCtr k x).ich = s.ich := rfl
@[simp] theorem State.setCtr_itile (s : State) (k : Nat) (x : Ctr) : (s.setCtr k x).itile = s.itile := rfl
@[simp] theorem State.setCtr_links (s : State) (k : Nat) (x : Ctr) : (s.setCtr k x).links = s.links := rfl
@[simp] theorem State.setCtr_bars (s : State) (k : Nat) (x : Ctr) : (s.setCtr k x).bars = s.bars := rfl
@[simp] theorem State.setCtr_sessions (s : State) (k : Nat) (x : Ctr) : (s.setCtr k x).sessions = s.sessions := rfl
@[simp] theorem State.setCtr_binds (s : State) (k : Nat) (x : Ctr) : (s.setCtr k x).binds = s.binds := rfl
@[simp] theorem State.setCtr_home (s : State) (k : Nat) (x : Ctr) : (s.setCtr k x).home = s.home := rfl
@[simp] theorem State.setCtr_eaves (s : State) (k : Nat) (x : Ctr) : (s.setCtr k x).eaves = s.eaves := rfl
@[simp] theorem State.setCtr_plru (s : State) (k : Nat) (x : Ctr) : (s.setCtr k x).plru = s.plru := rfl
@[simp] theorem State.setCtr_paths (s : State) (k : Nat) (x : Ctr) : (s.setCtr k x).paths = s.paths := rfl
@[simp] theorem State.setCtr_wq (s : State) (k : Nat) (x : Ctr) : (s.setCtr k x).wq = s.wq := rfl
@[simp] theorem State.setCtr_rq (s : State) (k : Nat) (x : Ctr) : (s.setCtr k x).rq = s.rq := rfl
@[simp] theorem State.setCtr_waits (s : State) (k : Nat) (x : Ctr) : (s.setCtr k x).waits = s.waits := rfl
@[simp] theorem State.setCtr_unacked (s : State) (k : Nat) (x : Ctr) : (s.setCtr k x).unacked = s.unacked := rfl
@[simp] theorem State.setCtr_groups (s : State) (k : Nat) (x : Ctr) : (s.setCtr k x).groups = s.groups := rfl
@[simp] theorem State.setCtr_chans (s : State) (k : Nat) (x : Ctr) : (s.setCtr k x).chans = s.chans := rfl
@[simp] theorem State.setCtr_dtiles (s : State) (k : Nat) (x : Ctr) : (s.setCtr k x).dtiles = s.dtiles := rfl
@[simp] theorem State.setCtr_poisoned (s : State) (k : Nat) (x : Ctr) : (s.setCtr k x).poisoned = s.poisoned := rfl
@[simp] theorem State.setCtr_thatch (s : State) (k : Nat) (x : Ctr) : (s.setCtr k x).thatch = s.thatch := rfl
@[simp] theorem State.setCtr_mirr (s : State) (k : Nat) (x : Ctr) : (s.setCtr k x).mirr = s.mirr := rfl
@[simp] theorem State.setCtr_lease (s : State) (k : Nat) (x : Ctr) : (s.setCtr k x).lease = s.lease := rfl
@[simp] theorem State.setCtr_wit (s : State) (k : Nat) (x : Ctr) : (s.setCtr k x).wit = s.wit := rfl
@[simp] theorem State.setCtr_tiers (s : State) (k : Nat) (x : Ctr) : (s.setCtr k x).tiers = s.tiers := rfl
@[simp] theorem State.setCtr_keys (s : State) (k : Nat) (x : Ctr) : (s.setCtr k x).keys = s.keys := rfl
@[simp] theorem State.setCtr_sealedKeys (s : State) (k : Nat) (x : Ctr) : (s.setCtr k x).sealedKeys = s.sealedKeys := rfl
@[simp] theorem State.setCtr_nonces (s : State) (k : Nat) (x : Ctr) : (s.setCtr k x).nonces = s.nonces := rfl
@[simp] theorem State.setCtr_imgKey (s : State) (k : Nat) (x : Ctr) : (s.setCtr k x).imgKey = s.imgKey := rfl
@[simp] theorem State.setCtr_progs (s : State) (k : Nat) (x : Ctr) : (s.setCtr k x).progs = s.progs := rfl
@[simp] theorem State.setCtr_tap (s : State) (k : Nat) (x : Ctr) : (s.setCtr k x).tap = s.tap := rfl
@[simp] theorem State.setCtr_mgmt (s : State) (k : Nat) (x : Ctr) : (s.setCtr k x).mgmt = s.mgmt := rfl
@[simp] theorem State.chan_setChan (s : State) (t k : Nat) (x : Chan) : (s.setChan t k x).chan t k = x := Store.read_write_same _ _ _ _
@[simp] theorem State.setChan_pending (s : State) (t k : Nat) (x : Chan) : (s.setChan t k x).pending = s.pending := rfl
@[simp] theorem State.setChan_free (s : State) (t k : Nat) (x : Chan) : (s.setChan t k x).free = s.free := rfl
@[simp] theorem State.setChan_out (s : State) (t k : Nat) (x : Chan) : (s.setChan t k x).out = s.out := rfl
@[simp] theorem State.setChan_clock (s : State) (t k : Nat) (x : Chan) : (s.setChan t k x).clock = s.clock := rfl
@[simp] theorem State.setChan_part (s : State) (t k : Nat) (x : Chan) : (s.setChan t k x).part = s.part := rfl
@[simp] theorem State.setChan_time (s : State) (t k : Nat) (x : Chan) : (s.setChan t k x).time = s.time := rfl
@[simp] theorem State.setChan_mode (s : State) (t k : Nat) (x : Chan) : (s.setChan t k x).mode = s.mode := rfl
@[simp] theorem State.setChan_boot (s : State) (t k : Nat) (x : Chan) : (s.setChan t k x).boot = s.boot := rfl
@[simp] theorem State.setChan_pwr (s : State) (t k : Nat) (x : Chan) : (s.setChan t k x).pwr = s.pwr := rfl
@[simp] theorem State.setChan_recd (s : State) (t k : Nat) (x : Chan) : (s.setChan t k x).recd = s.recd := rfl
@[simp] theorem State.setChan_pmc (s : State) (t k : Nat) (x : Chan) : (s.setChan t k x).pmc = s.pmc := rfl
@[simp] theorem State.setChan_params (s : State) (t k : Nat) (x : Chan) : (s.setChan t k x).params = s.params := rfl
@[simp] theorem State.setChan_dram (s : State) (t k : Nat) (x : Chan) : (s.setChan t k x).dram = s.dram := rfl
@[simp] theorem State.setChan_set (s : State) (t k : Nat) (x : Chan) : (s.setChan t k x).set = s.set := rfl
@[simp] theorem State.setChan_tides (s : State) (t k : Nat) (x : Chan) : (s.setChan t k x).tides = s.tides := rfl
@[simp] theorem State.setChan_twinTides (s : State) (t k : Nat) (x : Chan) : (s.setChan t k x).twinTides = s.twinTides := rfl
@[simp] theorem State.setChan_tideCount (s : State) (t k : Nat) (x : Chan) : (s.setChan t k x).tideCount = s.tideCount := rfl
@[simp] theorem State.setChan_ctxs (s : State) (t k : Nat) (x : Chan) : (s.setChan t k x).ctxs = s.ctxs := rfl
@[simp] theorem State.setChan_fences (s : State) (t k : Nat) (x : Chan) : (s.setChan t k x).fences = s.fences := rfl
@[simp] theorem State.setChan_tide (s : State) (t k : Nat) (x : Chan) : (s.setChan t k x).tide = s.tide := rfl
@[simp] theorem State.setChan_save (s : State) (t k : Nat) (x : Chan) : (s.setChan t k x).save = s.save := rfl
@[simp] theorem State.setChan_fuse (s : State) (t k : Nat) (x : Chan) : (s.setChan t k x).fuse = s.fuse := rfl
@[simp] theorem State.setChan_fw (s : State) (t k : Nat) (x : Chan) : (s.setChan t k x).fw = s.fw := rfl
@[simp] theorem State.setChan_ich (s : State) (t k : Nat) (x : Chan) : (s.setChan t k x).ich = s.ich := rfl
@[simp] theorem State.setChan_itile (s : State) (t k : Nat) (x : Chan) : (s.setChan t k x).itile = s.itile := rfl
@[simp] theorem State.setChan_links (s : State) (t k : Nat) (x : Chan) : (s.setChan t k x).links = s.links := rfl
@[simp] theorem State.setChan_bars (s : State) (t k : Nat) (x : Chan) : (s.setChan t k x).bars = s.bars := rfl
@[simp] theorem State.setChan_sessions (s : State) (t k : Nat) (x : Chan) : (s.setChan t k x).sessions = s.sessions := rfl
@[simp] theorem State.setChan_binds (s : State) (t k : Nat) (x : Chan) : (s.setChan t k x).binds = s.binds := rfl
@[simp] theorem State.setChan_home (s : State) (t k : Nat) (x : Chan) : (s.setChan t k x).home = s.home := rfl
@[simp] theorem State.setChan_eaves (s : State) (t k : Nat) (x : Chan) : (s.setChan t k x).eaves = s.eaves := rfl
@[simp] theorem State.setChan_plru (s : State) (t k : Nat) (x : Chan) : (s.setChan t k x).plru = s.plru := rfl
@[simp] theorem State.setChan_paths (s : State) (t k : Nat) (x : Chan) : (s.setChan t k x).paths = s.paths := rfl
@[simp] theorem State.setChan_wq (s : State) (t k : Nat) (x : Chan) : (s.setChan t k x).wq = s.wq := rfl
@[simp] theorem State.setChan_rq (s : State) (t k : Nat) (x : Chan) : (s.setChan t k x).rq = s.rq := rfl
@[simp] theorem State.setChan_waits (s : State) (t k : Nat) (x : Chan) : (s.setChan t k x).waits = s.waits := rfl
@[simp] theorem State.setChan_unacked (s : State) (t k : Nat) (x : Chan) : (s.setChan t k x).unacked = s.unacked := rfl
@[simp] theorem State.setChan_groups (s : State) (t k : Nat) (x : Chan) : (s.setChan t k x).groups = s.groups := rfl
@[simp] theorem State.setChan_dtiles (s : State) (t k : Nat) (x : Chan) : (s.setChan t k x).dtiles = s.dtiles := rfl
@[simp] theorem State.setChan_poisoned (s : State) (t k : Nat) (x : Chan) : (s.setChan t k x).poisoned = s.poisoned := rfl
@[simp] theorem State.setChan_thatch (s : State) (t k : Nat) (x : Chan) : (s.setChan t k x).thatch = s.thatch := rfl
@[simp] theorem State.setChan_mirr (s : State) (t k : Nat) (x : Chan) : (s.setChan t k x).mirr = s.mirr := rfl
@[simp] theorem State.setChan_lease (s : State) (t k : Nat) (x : Chan) : (s.setChan t k x).lease = s.lease := rfl
@[simp] theorem State.setChan_wit (s : State) (t k : Nat) (x : Chan) : (s.setChan t k x).wit = s.wit := rfl
@[simp] theorem State.setChan_tiers (s : State) (t k : Nat) (x : Chan) : (s.setChan t k x).tiers = s.tiers := rfl
@[simp] theorem State.setChan_keys (s : State) (t k : Nat) (x : Chan) : (s.setChan t k x).keys = s.keys := rfl
@[simp] theorem State.setChan_sealedKeys (s : State) (t k : Nat) (x : Chan) : (s.setChan t k x).sealedKeys = s.sealedKeys := rfl
@[simp] theorem State.setChan_nonces (s : State) (t k : Nat) (x : Chan) : (s.setChan t k x).nonces = s.nonces := rfl
@[simp] theorem State.setChan_imgKey (s : State) (t k : Nat) (x : Chan) : (s.setChan t k x).imgKey = s.imgKey := rfl
@[simp] theorem State.setChan_progs (s : State) (t k : Nat) (x : Chan) : (s.setChan t k x).progs = s.progs := rfl
@[simp] theorem State.setChan_tap (s : State) (t k : Nat) (x : Chan) : (s.setChan t k x).tap = s.tap := rfl
@[simp] theorem State.setChan_mgmt (s : State) (t k : Nat) (x : Chan) : (s.setChan t k x).mgmt = s.mgmt := rfl
@[simp] theorem State.dt_setDt (s : State) (t : Nat) (x : DramTile) : (s.setDt t x).dt t = x := Store.read_write_same _ _ _ _
@[simp] theorem State.setDt_pending (s : State) (t : Nat) (x : DramTile) : (s.setDt t x).pending = s.pending := rfl
@[simp] theorem State.setDt_free (s : State) (t : Nat) (x : DramTile) : (s.setDt t x).free = s.free := rfl
@[simp] theorem State.setDt_out (s : State) (t : Nat) (x : DramTile) : (s.setDt t x).out = s.out := rfl
@[simp] theorem State.setDt_clock (s : State) (t : Nat) (x : DramTile) : (s.setDt t x).clock = s.clock := rfl
@[simp] theorem State.setDt_part (s : State) (t : Nat) (x : DramTile) : (s.setDt t x).part = s.part := rfl
@[simp] theorem State.setDt_time (s : State) (t : Nat) (x : DramTile) : (s.setDt t x).time = s.time := rfl
@[simp] theorem State.setDt_mode (s : State) (t : Nat) (x : DramTile) : (s.setDt t x).mode = s.mode := rfl
@[simp] theorem State.setDt_boot (s : State) (t : Nat) (x : DramTile) : (s.setDt t x).boot = s.boot := rfl
@[simp] theorem State.setDt_pwr (s : State) (t : Nat) (x : DramTile) : (s.setDt t x).pwr = s.pwr := rfl
@[simp] theorem State.setDt_recd (s : State) (t : Nat) (x : DramTile) : (s.setDt t x).recd = s.recd := rfl
@[simp] theorem State.setDt_pmc (s : State) (t : Nat) (x : DramTile) : (s.setDt t x).pmc = s.pmc := rfl
@[simp] theorem State.setDt_params (s : State) (t : Nat) (x : DramTile) : (s.setDt t x).params = s.params := rfl
@[simp] theorem State.setDt_dram (s : State) (t : Nat) (x : DramTile) : (s.setDt t x).dram = s.dram := rfl
@[simp] theorem State.setDt_set (s : State) (t : Nat) (x : DramTile) : (s.setDt t x).set = s.set := rfl
@[simp] theorem State.setDt_tides (s : State) (t : Nat) (x : DramTile) : (s.setDt t x).tides = s.tides := rfl
@[simp] theorem State.setDt_twinTides (s : State) (t : Nat) (x : DramTile) : (s.setDt t x).twinTides = s.twinTides := rfl
@[simp] theorem State.setDt_tideCount (s : State) (t : Nat) (x : DramTile) : (s.setDt t x).tideCount = s.tideCount := rfl
@[simp] theorem State.setDt_ctxs (s : State) (t : Nat) (x : DramTile) : (s.setDt t x).ctxs = s.ctxs := rfl
@[simp] theorem State.setDt_fences (s : State) (t : Nat) (x : DramTile) : (s.setDt t x).fences = s.fences := rfl
@[simp] theorem State.setDt_tide (s : State) (t : Nat) (x : DramTile) : (s.setDt t x).tide = s.tide := rfl
@[simp] theorem State.setDt_save (s : State) (t : Nat) (x : DramTile) : (s.setDt t x).save = s.save := rfl
@[simp] theorem State.setDt_fuse (s : State) (t : Nat) (x : DramTile) : (s.setDt t x).fuse = s.fuse := rfl
@[simp] theorem State.setDt_fw (s : State) (t : Nat) (x : DramTile) : (s.setDt t x).fw = s.fw := rfl
@[simp] theorem State.setDt_ich (s : State) (t : Nat) (x : DramTile) : (s.setDt t x).ich = s.ich := rfl
@[simp] theorem State.setDt_itile (s : State) (t : Nat) (x : DramTile) : (s.setDt t x).itile = s.itile := rfl
@[simp] theorem State.setDt_links (s : State) (t : Nat) (x : DramTile) : (s.setDt t x).links = s.links := rfl
@[simp] theorem State.setDt_bars (s : State) (t : Nat) (x : DramTile) : (s.setDt t x).bars = s.bars := rfl
@[simp] theorem State.setDt_sessions (s : State) (t : Nat) (x : DramTile) : (s.setDt t x).sessions = s.sessions := rfl
@[simp] theorem State.setDt_binds (s : State) (t : Nat) (x : DramTile) : (s.setDt t x).binds = s.binds := rfl
@[simp] theorem State.setDt_home (s : State) (t : Nat) (x : DramTile) : (s.setDt t x).home = s.home := rfl
@[simp] theorem State.setDt_eaves (s : State) (t : Nat) (x : DramTile) : (s.setDt t x).eaves = s.eaves := rfl
@[simp] theorem State.setDt_plru (s : State) (t : Nat) (x : DramTile) : (s.setDt t x).plru = s.plru := rfl
@[simp] theorem State.setDt_paths (s : State) (t : Nat) (x : DramTile) : (s.setDt t x).paths = s.paths := rfl
@[simp] theorem State.setDt_wq (s : State) (t : Nat) (x : DramTile) : (s.setDt t x).wq = s.wq := rfl
@[simp] theorem State.setDt_rq (s : State) (t : Nat) (x : DramTile) : (s.setDt t x).rq = s.rq := rfl
@[simp] theorem State.setDt_waits (s : State) (t : Nat) (x : DramTile) : (s.setDt t x).waits = s.waits := rfl
@[simp] theorem State.setDt_unacked (s : State) (t : Nat) (x : DramTile) : (s.setDt t x).unacked = s.unacked := rfl
@[simp] theorem State.setDt_groups (s : State) (t : Nat) (x : DramTile) : (s.setDt t x).groups = s.groups := rfl
@[simp] theorem State.setDt_chans (s : State) (t : Nat) (x : DramTile) : (s.setDt t x).chans = s.chans := rfl
@[simp] theorem State.setDt_poisoned (s : State) (t : Nat) (x : DramTile) : (s.setDt t x).poisoned = s.poisoned := rfl
@[simp] theorem State.setDt_thatch (s : State) (t : Nat) (x : DramTile) : (s.setDt t x).thatch = s.thatch := rfl
@[simp] theorem State.setDt_mirr (s : State) (t : Nat) (x : DramTile) : (s.setDt t x).mirr = s.mirr := rfl
@[simp] theorem State.setDt_lease (s : State) (t : Nat) (x : DramTile) : (s.setDt t x).lease = s.lease := rfl
@[simp] theorem State.setDt_wit (s : State) (t : Nat) (x : DramTile) : (s.setDt t x).wit = s.wit := rfl
@[simp] theorem State.setDt_tiers (s : State) (t : Nat) (x : DramTile) : (s.setDt t x).tiers = s.tiers := rfl
@[simp] theorem State.setDt_keys (s : State) (t : Nat) (x : DramTile) : (s.setDt t x).keys = s.keys := rfl
@[simp] theorem State.setDt_sealedKeys (s : State) (t : Nat) (x : DramTile) : (s.setDt t x).sealedKeys = s.sealedKeys := rfl
@[simp] theorem State.setDt_nonces (s : State) (t : Nat) (x : DramTile) : (s.setDt t x).nonces = s.nonces := rfl
@[simp] theorem State.setDt_imgKey (s : State) (t : Nat) (x : DramTile) : (s.setDt t x).imgKey = s.imgKey := rfl
@[simp] theorem State.setDt_progs (s : State) (t : Nat) (x : DramTile) : (s.setDt t x).progs = s.progs := rfl
@[simp] theorem State.setDt_tap (s : State) (t : Nat) (x : DramTile) : (s.setDt t x).tap = s.tap := rfl
@[simp] theorem State.setDt_mgmt (s : State) (t : Nat) (x : DramTile) : (s.setDt t x).mgmt = s.mgmt := rfl
@[simp] theorem State.evLine_setEv (s : State) (k : Nat) (x : EvLine) : (s.setEv k x).evLine k = x := Store.read_write_same _ _ _ _
@[simp] theorem State.setEv_pending (s : State) (k : Nat) (x : EvLine) : (s.setEv k x).pending = s.pending := rfl
@[simp] theorem State.setEv_free (s : State) (k : Nat) (x : EvLine) : (s.setEv k x).free = s.free := rfl
@[simp] theorem State.setEv_out (s : State) (k : Nat) (x : EvLine) : (s.setEv k x).out = s.out := rfl
@[simp] theorem State.setEv_clock (s : State) (k : Nat) (x : EvLine) : (s.setEv k x).clock = s.clock := rfl
@[simp] theorem State.setEv_part (s : State) (k : Nat) (x : EvLine) : (s.setEv k x).part = s.part := rfl
@[simp] theorem State.setEv_time (s : State) (k : Nat) (x : EvLine) : (s.setEv k x).time = s.time := rfl
@[simp] theorem State.setEv_mode (s : State) (k : Nat) (x : EvLine) : (s.setEv k x).mode = s.mode := rfl
@[simp] theorem State.setEv_boot (s : State) (k : Nat) (x : EvLine) : (s.setEv k x).boot = s.boot := rfl
@[simp] theorem State.setEv_pwr (s : State) (k : Nat) (x : EvLine) : (s.setEv k x).pwr = s.pwr := rfl
@[simp] theorem State.setEv_recd (s : State) (k : Nat) (x : EvLine) : (s.setEv k x).recd = s.recd := rfl
@[simp] theorem State.setEv_pmc (s : State) (k : Nat) (x : EvLine) : (s.setEv k x).pmc = s.pmc := rfl
@[simp] theorem State.setEv_params (s : State) (k : Nat) (x : EvLine) : (s.setEv k x).params = s.params := rfl
@[simp] theorem State.setEv_dram (s : State) (k : Nat) (x : EvLine) : (s.setEv k x).dram = s.dram := rfl
@[simp] theorem State.setEv_set (s : State) (k : Nat) (x : EvLine) : (s.setEv k x).set = s.set := rfl
@[simp] theorem State.setEv_tides (s : State) (k : Nat) (x : EvLine) : (s.setEv k x).tides = s.tides := rfl
@[simp] theorem State.setEv_twinTides (s : State) (k : Nat) (x : EvLine) : (s.setEv k x).twinTides = s.twinTides := rfl
@[simp] theorem State.setEv_tideCount (s : State) (k : Nat) (x : EvLine) : (s.setEv k x).tideCount = s.tideCount := rfl
@[simp] theorem State.setEv_ctxs (s : State) (k : Nat) (x : EvLine) : (s.setEv k x).ctxs = s.ctxs := rfl
@[simp] theorem State.setEv_fences (s : State) (k : Nat) (x : EvLine) : (s.setEv k x).fences = s.fences := rfl
@[simp] theorem State.setEv_tide (s : State) (k : Nat) (x : EvLine) : (s.setEv k x).tide = s.tide := rfl
@[simp] theorem State.setEv_save (s : State) (k : Nat) (x : EvLine) : (s.setEv k x).save = s.save := rfl
@[simp] theorem State.setEv_fuse (s : State) (k : Nat) (x : EvLine) : (s.setEv k x).fuse = s.fuse := rfl
@[simp] theorem State.setEv_fw (s : State) (k : Nat) (x : EvLine) : (s.setEv k x).fw = s.fw := rfl
@[simp] theorem State.setEv_ich (s : State) (k : Nat) (x : EvLine) : (s.setEv k x).ich = s.ich := rfl
@[simp] theorem State.setEv_itile (s : State) (k : Nat) (x : EvLine) : (s.setEv k x).itile = s.itile := rfl
@[simp] theorem State.setEv_links (s : State) (k : Nat) (x : EvLine) : (s.setEv k x).links = s.links := rfl
@[simp] theorem State.setEv_bars (s : State) (k : Nat) (x : EvLine) : (s.setEv k x).bars = s.bars := rfl
@[simp] theorem State.setEv_sessions (s : State) (k : Nat) (x : EvLine) : (s.setEv k x).sessions = s.sessions := rfl
@[simp] theorem State.setEv_binds (s : State) (k : Nat) (x : EvLine) : (s.setEv k x).binds = s.binds := rfl
@[simp] theorem State.setEv_home (s : State) (k : Nat) (x : EvLine) : (s.setEv k x).home = s.home := rfl
@[simp] theorem State.setEv_plru (s : State) (k : Nat) (x : EvLine) : (s.setEv k x).plru = s.plru := rfl
@[simp] theorem State.setEv_paths (s : State) (k : Nat) (x : EvLine) : (s.setEv k x).paths = s.paths := rfl
@[simp] theorem State.setEv_wq (s : State) (k : Nat) (x : EvLine) : (s.setEv k x).wq = s.wq := rfl
@[simp] theorem State.setEv_rq (s : State) (k : Nat) (x : EvLine) : (s.setEv k x).rq = s.rq := rfl
@[simp] theorem State.setEv_waits (s : State) (k : Nat) (x : EvLine) : (s.setEv k x).waits = s.waits := rfl
@[simp] theorem State.setEv_unacked (s : State) (k : Nat) (x : EvLine) : (s.setEv k x).unacked = s.unacked := rfl
@[simp] theorem State.setEv_groups (s : State) (k : Nat) (x : EvLine) : (s.setEv k x).groups = s.groups := rfl
@[simp] theorem State.setEv_chans (s : State) (k : Nat) (x : EvLine) : (s.setEv k x).chans = s.chans := rfl
@[simp] theorem State.setEv_dtiles (s : State) (k : Nat) (x : EvLine) : (s.setEv k x).dtiles = s.dtiles := rfl
@[simp] theorem State.setEv_poisoned (s : State) (k : Nat) (x : EvLine) : (s.setEv k x).poisoned = s.poisoned := rfl
@[simp] theorem State.setEv_thatch (s : State) (k : Nat) (x : EvLine) : (s.setEv k x).thatch = s.thatch := rfl
@[simp] theorem State.setEv_mirr (s : State) (k : Nat) (x : EvLine) : (s.setEv k x).mirr = s.mirr := rfl
@[simp] theorem State.setEv_lease (s : State) (k : Nat) (x : EvLine) : (s.setEv k x).lease = s.lease := rfl
@[simp] theorem State.setEv_wit (s : State) (k : Nat) (x : EvLine) : (s.setEv k x).wit = s.wit := rfl
@[simp] theorem State.setEv_tiers (s : State) (k : Nat) (x : EvLine) : (s.setEv k x).tiers = s.tiers := rfl
@[simp] theorem State.setEv_keys (s : State) (k : Nat) (x : EvLine) : (s.setEv k x).keys = s.keys := rfl
@[simp] theorem State.setEv_sealedKeys (s : State) (k : Nat) (x : EvLine) : (s.setEv k x).sealedKeys = s.sealedKeys := rfl
@[simp] theorem State.setEv_nonces (s : State) (k : Nat) (x : EvLine) : (s.setEv k x).nonces = s.nonces := rfl
@[simp] theorem State.setEv_imgKey (s : State) (k : Nat) (x : EvLine) : (s.setEv k x).imgKey = s.imgKey := rfl
@[simp] theorem State.setEv_progs (s : State) (k : Nat) (x : EvLine) : (s.setEv k x).progs = s.progs := rfl
@[simp] theorem State.setEv_tap (s : State) (k : Nat) (x : EvLine) : (s.setEv k x).tap = s.tap := rfl
@[simp] theorem State.setEv_mgmt (s : State) (k : Nat) (x : EvLine) : (s.setEv k x).mgmt = s.mgmt := rfl
@[simp] theorem State.wqOf_setWq (s : State) (k : Nat) (x : List WqEnt) : (s.setWq k x).wqOf k = x := Store.read_write_same _ _ _ _
@[simp] theorem State.setWq_pending (s : State) (k : Nat) (x : List WqEnt) : (s.setWq k x).pending = s.pending := rfl
@[simp] theorem State.setWq_free (s : State) (k : Nat) (x : List WqEnt) : (s.setWq k x).free = s.free := rfl
@[simp] theorem State.setWq_out (s : State) (k : Nat) (x : List WqEnt) : (s.setWq k x).out = s.out := rfl
@[simp] theorem State.setWq_clock (s : State) (k : Nat) (x : List WqEnt) : (s.setWq k x).clock = s.clock := rfl
@[simp] theorem State.setWq_part (s : State) (k : Nat) (x : List WqEnt) : (s.setWq k x).part = s.part := rfl
@[simp] theorem State.setWq_time (s : State) (k : Nat) (x : List WqEnt) : (s.setWq k x).time = s.time := rfl
@[simp] theorem State.setWq_mode (s : State) (k : Nat) (x : List WqEnt) : (s.setWq k x).mode = s.mode := rfl
@[simp] theorem State.setWq_boot (s : State) (k : Nat) (x : List WqEnt) : (s.setWq k x).boot = s.boot := rfl
@[simp] theorem State.setWq_pwr (s : State) (k : Nat) (x : List WqEnt) : (s.setWq k x).pwr = s.pwr := rfl
@[simp] theorem State.setWq_recd (s : State) (k : Nat) (x : List WqEnt) : (s.setWq k x).recd = s.recd := rfl
@[simp] theorem State.setWq_pmc (s : State) (k : Nat) (x : List WqEnt) : (s.setWq k x).pmc = s.pmc := rfl
@[simp] theorem State.setWq_params (s : State) (k : Nat) (x : List WqEnt) : (s.setWq k x).params = s.params := rfl
@[simp] theorem State.setWq_dram (s : State) (k : Nat) (x : List WqEnt) : (s.setWq k x).dram = s.dram := rfl
@[simp] theorem State.setWq_set (s : State) (k : Nat) (x : List WqEnt) : (s.setWq k x).set = s.set := rfl
@[simp] theorem State.setWq_tides (s : State) (k : Nat) (x : List WqEnt) : (s.setWq k x).tides = s.tides := rfl
@[simp] theorem State.setWq_twinTides (s : State) (k : Nat) (x : List WqEnt) : (s.setWq k x).twinTides = s.twinTides := rfl
@[simp] theorem State.setWq_tideCount (s : State) (k : Nat) (x : List WqEnt) : (s.setWq k x).tideCount = s.tideCount := rfl
@[simp] theorem State.setWq_ctxs (s : State) (k : Nat) (x : List WqEnt) : (s.setWq k x).ctxs = s.ctxs := rfl
@[simp] theorem State.setWq_fences (s : State) (k : Nat) (x : List WqEnt) : (s.setWq k x).fences = s.fences := rfl
@[simp] theorem State.setWq_tide (s : State) (k : Nat) (x : List WqEnt) : (s.setWq k x).tide = s.tide := rfl
@[simp] theorem State.setWq_save (s : State) (k : Nat) (x : List WqEnt) : (s.setWq k x).save = s.save := rfl
@[simp] theorem State.setWq_fuse (s : State) (k : Nat) (x : List WqEnt) : (s.setWq k x).fuse = s.fuse := rfl
@[simp] theorem State.setWq_fw (s : State) (k : Nat) (x : List WqEnt) : (s.setWq k x).fw = s.fw := rfl
@[simp] theorem State.setWq_ich (s : State) (k : Nat) (x : List WqEnt) : (s.setWq k x).ich = s.ich := rfl
@[simp] theorem State.setWq_itile (s : State) (k : Nat) (x : List WqEnt) : (s.setWq k x).itile = s.itile := rfl
@[simp] theorem State.setWq_links (s : State) (k : Nat) (x : List WqEnt) : (s.setWq k x).links = s.links := rfl
@[simp] theorem State.setWq_bars (s : State) (k : Nat) (x : List WqEnt) : (s.setWq k x).bars = s.bars := rfl
@[simp] theorem State.setWq_sessions (s : State) (k : Nat) (x : List WqEnt) : (s.setWq k x).sessions = s.sessions := rfl
@[simp] theorem State.setWq_binds (s : State) (k : Nat) (x : List WqEnt) : (s.setWq k x).binds = s.binds := rfl
@[simp] theorem State.setWq_home (s : State) (k : Nat) (x : List WqEnt) : (s.setWq k x).home = s.home := rfl
@[simp] theorem State.setWq_eaves (s : State) (k : Nat) (x : List WqEnt) : (s.setWq k x).eaves = s.eaves := rfl
@[simp] theorem State.setWq_plru (s : State) (k : Nat) (x : List WqEnt) : (s.setWq k x).plru = s.plru := rfl
@[simp] theorem State.setWq_paths (s : State) (k : Nat) (x : List WqEnt) : (s.setWq k x).paths = s.paths := rfl
@[simp] theorem State.setWq_rq (s : State) (k : Nat) (x : List WqEnt) : (s.setWq k x).rq = s.rq := rfl
@[simp] theorem State.setWq_waits (s : State) (k : Nat) (x : List WqEnt) : (s.setWq k x).waits = s.waits := rfl
@[simp] theorem State.setWq_unacked (s : State) (k : Nat) (x : List WqEnt) : (s.setWq k x).unacked = s.unacked := rfl
@[simp] theorem State.setWq_groups (s : State) (k : Nat) (x : List WqEnt) : (s.setWq k x).groups = s.groups := rfl
@[simp] theorem State.setWq_chans (s : State) (k : Nat) (x : List WqEnt) : (s.setWq k x).chans = s.chans := rfl
@[simp] theorem State.setWq_dtiles (s : State) (k : Nat) (x : List WqEnt) : (s.setWq k x).dtiles = s.dtiles := rfl
@[simp] theorem State.setWq_poisoned (s : State) (k : Nat) (x : List WqEnt) : (s.setWq k x).poisoned = s.poisoned := rfl
@[simp] theorem State.setWq_thatch (s : State) (k : Nat) (x : List WqEnt) : (s.setWq k x).thatch = s.thatch := rfl
@[simp] theorem State.setWq_mirr (s : State) (k : Nat) (x : List WqEnt) : (s.setWq k x).mirr = s.mirr := rfl
@[simp] theorem State.setWq_lease (s : State) (k : Nat) (x : List WqEnt) : (s.setWq k x).lease = s.lease := rfl
@[simp] theorem State.setWq_wit (s : State) (k : Nat) (x : List WqEnt) : (s.setWq k x).wit = s.wit := rfl
@[simp] theorem State.setWq_tiers (s : State) (k : Nat) (x : List WqEnt) : (s.setWq k x).tiers = s.tiers := rfl
@[simp] theorem State.setWq_keys (s : State) (k : Nat) (x : List WqEnt) : (s.setWq k x).keys = s.keys := rfl
@[simp] theorem State.setWq_sealedKeys (s : State) (k : Nat) (x : List WqEnt) : (s.setWq k x).sealedKeys = s.sealedKeys := rfl
@[simp] theorem State.setWq_nonces (s : State) (k : Nat) (x : List WqEnt) : (s.setWq k x).nonces = s.nonces := rfl
@[simp] theorem State.setWq_imgKey (s : State) (k : Nat) (x : List WqEnt) : (s.setWq k x).imgKey = s.imgKey := rfl
@[simp] theorem State.setWq_progs (s : State) (k : Nat) (x : List WqEnt) : (s.setWq k x).progs = s.progs := rfl
@[simp] theorem State.setWq_tap (s : State) (k : Nat) (x : List WqEnt) : (s.setWq k x).tap = s.tap := rfl
@[simp] theorem State.setWq_mgmt (s : State) (k : Nat) (x : List WqEnt) : (s.setWq k x).mgmt = s.mgmt := rfl
@[simp] theorem State.rqOf_setRq (s : State) (k : Nat) (x : List RqEnt) : (s.setRq k x).rqOf k = x := Store.read_write_same _ _ _ _
@[simp] theorem State.setRq_pending (s : State) (k : Nat) (x : List RqEnt) : (s.setRq k x).pending = s.pending := rfl
@[simp] theorem State.setRq_free (s : State) (k : Nat) (x : List RqEnt) : (s.setRq k x).free = s.free := rfl
@[simp] theorem State.setRq_out (s : State) (k : Nat) (x : List RqEnt) : (s.setRq k x).out = s.out := rfl
@[simp] theorem State.setRq_clock (s : State) (k : Nat) (x : List RqEnt) : (s.setRq k x).clock = s.clock := rfl
@[simp] theorem State.setRq_part (s : State) (k : Nat) (x : List RqEnt) : (s.setRq k x).part = s.part := rfl
@[simp] theorem State.setRq_time (s : State) (k : Nat) (x : List RqEnt) : (s.setRq k x).time = s.time := rfl
@[simp] theorem State.setRq_mode (s : State) (k : Nat) (x : List RqEnt) : (s.setRq k x).mode = s.mode := rfl
@[simp] theorem State.setRq_boot (s : State) (k : Nat) (x : List RqEnt) : (s.setRq k x).boot = s.boot := rfl
@[simp] theorem State.setRq_pwr (s : State) (k : Nat) (x : List RqEnt) : (s.setRq k x).pwr = s.pwr := rfl
@[simp] theorem State.setRq_recd (s : State) (k : Nat) (x : List RqEnt) : (s.setRq k x).recd = s.recd := rfl
@[simp] theorem State.setRq_pmc (s : State) (k : Nat) (x : List RqEnt) : (s.setRq k x).pmc = s.pmc := rfl
@[simp] theorem State.setRq_params (s : State) (k : Nat) (x : List RqEnt) : (s.setRq k x).params = s.params := rfl
@[simp] theorem State.setRq_dram (s : State) (k : Nat) (x : List RqEnt) : (s.setRq k x).dram = s.dram := rfl
@[simp] theorem State.setRq_set (s : State) (k : Nat) (x : List RqEnt) : (s.setRq k x).set = s.set := rfl
@[simp] theorem State.setRq_tides (s : State) (k : Nat) (x : List RqEnt) : (s.setRq k x).tides = s.tides := rfl
@[simp] theorem State.setRq_twinTides (s : State) (k : Nat) (x : List RqEnt) : (s.setRq k x).twinTides = s.twinTides := rfl
@[simp] theorem State.setRq_tideCount (s : State) (k : Nat) (x : List RqEnt) : (s.setRq k x).tideCount = s.tideCount := rfl
@[simp] theorem State.setRq_ctxs (s : State) (k : Nat) (x : List RqEnt) : (s.setRq k x).ctxs = s.ctxs := rfl
@[simp] theorem State.setRq_fences (s : State) (k : Nat) (x : List RqEnt) : (s.setRq k x).fences = s.fences := rfl
@[simp] theorem State.setRq_tide (s : State) (k : Nat) (x : List RqEnt) : (s.setRq k x).tide = s.tide := rfl
@[simp] theorem State.setRq_save (s : State) (k : Nat) (x : List RqEnt) : (s.setRq k x).save = s.save := rfl
@[simp] theorem State.setRq_fuse (s : State) (k : Nat) (x : List RqEnt) : (s.setRq k x).fuse = s.fuse := rfl
@[simp] theorem State.setRq_fw (s : State) (k : Nat) (x : List RqEnt) : (s.setRq k x).fw = s.fw := rfl
@[simp] theorem State.setRq_ich (s : State) (k : Nat) (x : List RqEnt) : (s.setRq k x).ich = s.ich := rfl
@[simp] theorem State.setRq_itile (s : State) (k : Nat) (x : List RqEnt) : (s.setRq k x).itile = s.itile := rfl
@[simp] theorem State.setRq_links (s : State) (k : Nat) (x : List RqEnt) : (s.setRq k x).links = s.links := rfl
@[simp] theorem State.setRq_bars (s : State) (k : Nat) (x : List RqEnt) : (s.setRq k x).bars = s.bars := rfl
@[simp] theorem State.setRq_sessions (s : State) (k : Nat) (x : List RqEnt) : (s.setRq k x).sessions = s.sessions := rfl
@[simp] theorem State.setRq_binds (s : State) (k : Nat) (x : List RqEnt) : (s.setRq k x).binds = s.binds := rfl
@[simp] theorem State.setRq_home (s : State) (k : Nat) (x : List RqEnt) : (s.setRq k x).home = s.home := rfl
@[simp] theorem State.setRq_eaves (s : State) (k : Nat) (x : List RqEnt) : (s.setRq k x).eaves = s.eaves := rfl
@[simp] theorem State.setRq_plru (s : State) (k : Nat) (x : List RqEnt) : (s.setRq k x).plru = s.plru := rfl
@[simp] theorem State.setRq_paths (s : State) (k : Nat) (x : List RqEnt) : (s.setRq k x).paths = s.paths := rfl
@[simp] theorem State.setRq_wq (s : State) (k : Nat) (x : List RqEnt) : (s.setRq k x).wq = s.wq := rfl
@[simp] theorem State.setRq_waits (s : State) (k : Nat) (x : List RqEnt) : (s.setRq k x).waits = s.waits := rfl
@[simp] theorem State.setRq_unacked (s : State) (k : Nat) (x : List RqEnt) : (s.setRq k x).unacked = s.unacked := rfl
@[simp] theorem State.setRq_groups (s : State) (k : Nat) (x : List RqEnt) : (s.setRq k x).groups = s.groups := rfl
@[simp] theorem State.setRq_chans (s : State) (k : Nat) (x : List RqEnt) : (s.setRq k x).chans = s.chans := rfl
@[simp] theorem State.setRq_dtiles (s : State) (k : Nat) (x : List RqEnt) : (s.setRq k x).dtiles = s.dtiles := rfl
@[simp] theorem State.setRq_poisoned (s : State) (k : Nat) (x : List RqEnt) : (s.setRq k x).poisoned = s.poisoned := rfl
@[simp] theorem State.setRq_thatch (s : State) (k : Nat) (x : List RqEnt) : (s.setRq k x).thatch = s.thatch := rfl
@[simp] theorem State.setRq_mirr (s : State) (k : Nat) (x : List RqEnt) : (s.setRq k x).mirr = s.mirr := rfl
@[simp] theorem State.setRq_lease (s : State) (k : Nat) (x : List RqEnt) : (s.setRq k x).lease = s.lease := rfl
@[simp] theorem State.setRq_wit (s : State) (k : Nat) (x : List RqEnt) : (s.setRq k x).wit = s.wit := rfl
@[simp] theorem State.setRq_tiers (s : State) (k : Nat) (x : List RqEnt) : (s.setRq k x).tiers = s.tiers := rfl
@[simp] theorem State.setRq_keys (s : State) (k : Nat) (x : List RqEnt) : (s.setRq k x).keys = s.keys := rfl
@[simp] theorem State.setRq_sealedKeys (s : State) (k : Nat) (x : List RqEnt) : (s.setRq k x).sealedKeys = s.sealedKeys := rfl
@[simp] theorem State.setRq_nonces (s : State) (k : Nat) (x : List RqEnt) : (s.setRq k x).nonces = s.nonces := rfl
@[simp] theorem State.setRq_imgKey (s : State) (k : Nat) (x : List RqEnt) : (s.setRq k x).imgKey = s.imgKey := rfl
@[simp] theorem State.setRq_progs (s : State) (k : Nat) (x : List RqEnt) : (s.setRq k x).progs = s.progs := rfl
@[simp] theorem State.setRq_tap (s : State) (k : Nat) (x : List RqEnt) : (s.setRq k x).tap = s.tap := rfl
@[simp] theorem State.setRq_mgmt (s : State) (k : Nat) (x : List RqEnt) : (s.setRq k x).mgmt = s.mgmt := rfl
@[simp] theorem State.param_setParam (s : State) (i n : Nat) (x : Word) : (s.setParam i n x).param i n = x := Store.read_write_same _ _ _ _
@[simp] theorem State.setParam_pending (s : State) (i n : Nat) (x : Word) : (s.setParam i n x).pending = s.pending := rfl
@[simp] theorem State.setParam_free (s : State) (i n : Nat) (x : Word) : (s.setParam i n x).free = s.free := rfl
@[simp] theorem State.setParam_out (s : State) (i n : Nat) (x : Word) : (s.setParam i n x).out = s.out := rfl
@[simp] theorem State.setParam_clock (s : State) (i n : Nat) (x : Word) : (s.setParam i n x).clock = s.clock := rfl
@[simp] theorem State.setParam_part (s : State) (i n : Nat) (x : Word) : (s.setParam i n x).part = s.part := rfl
@[simp] theorem State.setParam_time (s : State) (i n : Nat) (x : Word) : (s.setParam i n x).time = s.time := rfl
@[simp] theorem State.setParam_mode (s : State) (i n : Nat) (x : Word) : (s.setParam i n x).mode = s.mode := rfl
@[simp] theorem State.setParam_boot (s : State) (i n : Nat) (x : Word) : (s.setParam i n x).boot = s.boot := rfl
@[simp] theorem State.setParam_pwr (s : State) (i n : Nat) (x : Word) : (s.setParam i n x).pwr = s.pwr := rfl
@[simp] theorem State.setParam_recd (s : State) (i n : Nat) (x : Word) : (s.setParam i n x).recd = s.recd := rfl
@[simp] theorem State.setParam_pmc (s : State) (i n : Nat) (x : Word) : (s.setParam i n x).pmc = s.pmc := rfl
@[simp] theorem State.setParam_dram (s : State) (i n : Nat) (x : Word) : (s.setParam i n x).dram = s.dram := rfl
@[simp] theorem State.setParam_set (s : State) (i n : Nat) (x : Word) : (s.setParam i n x).set = s.set := rfl
@[simp] theorem State.setParam_tides (s : State) (i n : Nat) (x : Word) : (s.setParam i n x).tides = s.tides := rfl
@[simp] theorem State.setParam_twinTides (s : State) (i n : Nat) (x : Word) : (s.setParam i n x).twinTides = s.twinTides := rfl
@[simp] theorem State.setParam_tideCount (s : State) (i n : Nat) (x : Word) : (s.setParam i n x).tideCount = s.tideCount := rfl
@[simp] theorem State.setParam_ctxs (s : State) (i n : Nat) (x : Word) : (s.setParam i n x).ctxs = s.ctxs := rfl
@[simp] theorem State.setParam_fences (s : State) (i n : Nat) (x : Word) : (s.setParam i n x).fences = s.fences := rfl
@[simp] theorem State.setParam_tide (s : State) (i n : Nat) (x : Word) : (s.setParam i n x).tide = s.tide := rfl
@[simp] theorem State.setParam_save (s : State) (i n : Nat) (x : Word) : (s.setParam i n x).save = s.save := rfl
@[simp] theorem State.setParam_fuse (s : State) (i n : Nat) (x : Word) : (s.setParam i n x).fuse = s.fuse := rfl
@[simp] theorem State.setParam_fw (s : State) (i n : Nat) (x : Word) : (s.setParam i n x).fw = s.fw := rfl
@[simp] theorem State.setParam_ich (s : State) (i n : Nat) (x : Word) : (s.setParam i n x).ich = s.ich := rfl
@[simp] theorem State.setParam_itile (s : State) (i n : Nat) (x : Word) : (s.setParam i n x).itile = s.itile := rfl
@[simp] theorem State.setParam_links (s : State) (i n : Nat) (x : Word) : (s.setParam i n x).links = s.links := rfl
@[simp] theorem State.setParam_bars (s : State) (i n : Nat) (x : Word) : (s.setParam i n x).bars = s.bars := rfl
@[simp] theorem State.setParam_sessions (s : State) (i n : Nat) (x : Word) : (s.setParam i n x).sessions = s.sessions := rfl
@[simp] theorem State.setParam_binds (s : State) (i n : Nat) (x : Word) : (s.setParam i n x).binds = s.binds := rfl
@[simp] theorem State.setParam_home (s : State) (i n : Nat) (x : Word) : (s.setParam i n x).home = s.home := rfl
@[simp] theorem State.setParam_eaves (s : State) (i n : Nat) (x : Word) : (s.setParam i n x).eaves = s.eaves := rfl
@[simp] theorem State.setParam_plru (s : State) (i n : Nat) (x : Word) : (s.setParam i n x).plru = s.plru := rfl
@[simp] theorem State.setParam_paths (s : State) (i n : Nat) (x : Word) : (s.setParam i n x).paths = s.paths := rfl
@[simp] theorem State.setParam_wq (s : State) (i n : Nat) (x : Word) : (s.setParam i n x).wq = s.wq := rfl
@[simp] theorem State.setParam_rq (s : State) (i n : Nat) (x : Word) : (s.setParam i n x).rq = s.rq := rfl
@[simp] theorem State.setParam_waits (s : State) (i n : Nat) (x : Word) : (s.setParam i n x).waits = s.waits := rfl
@[simp] theorem State.setParam_unacked (s : State) (i n : Nat) (x : Word) : (s.setParam i n x).unacked = s.unacked := rfl
@[simp] theorem State.setParam_groups (s : State) (i n : Nat) (x : Word) : (s.setParam i n x).groups = s.groups := rfl
@[simp] theorem State.setParam_chans (s : State) (i n : Nat) (x : Word) : (s.setParam i n x).chans = s.chans := rfl
@[simp] theorem State.setParam_dtiles (s : State) (i n : Nat) (x : Word) : (s.setParam i n x).dtiles = s.dtiles := rfl
@[simp] theorem State.setParam_poisoned (s : State) (i n : Nat) (x : Word) : (s.setParam i n x).poisoned = s.poisoned := rfl
@[simp] theorem State.setParam_thatch (s : State) (i n : Nat) (x : Word) : (s.setParam i n x).thatch = s.thatch := rfl
@[simp] theorem State.setParam_mirr (s : State) (i n : Nat) (x : Word) : (s.setParam i n x).mirr = s.mirr := rfl
@[simp] theorem State.setParam_lease (s : State) (i n : Nat) (x : Word) : (s.setParam i n x).lease = s.lease := rfl
@[simp] theorem State.setParam_wit (s : State) (i n : Nat) (x : Word) : (s.setParam i n x).wit = s.wit := rfl
@[simp] theorem State.setParam_tiers (s : State) (i n : Nat) (x : Word) : (s.setParam i n x).tiers = s.tiers := rfl
@[simp] theorem State.setParam_keys (s : State) (i n : Nat) (x : Word) : (s.setParam i n x).keys = s.keys := rfl
@[simp] theorem State.setParam_sealedKeys (s : State) (i n : Nat) (x : Word) : (s.setParam i n x).sealedKeys = s.sealedKeys := rfl
@[simp] theorem State.setParam_nonces (s : State) (i n : Nat) (x : Word) : (s.setParam i n x).nonces = s.nonces := rfl
@[simp] theorem State.setParam_imgKey (s : State) (i n : Nat) (x : Word) : (s.setParam i n x).imgKey = s.imgKey := rfl
@[simp] theorem State.setParam_progs (s : State) (i n : Nat) (x : Word) : (s.setParam i n x).progs = s.progs := rfl
@[simp] theorem State.setParam_tap (s : State) (i n : Nat) (x : Word) : (s.setParam i n x).tap = s.tap := rfl
@[simp] theorem State.setParam_mgmt (s : State) (i n : Nat) (x : Word) : (s.setParam i n x).mgmt = s.mgmt := rfl

end Sys2Proof.Machine
end

