-- ==== Sys2Proof/Laws/Log.lean ====
section
/-! SUPPORT. What logging an event and counting one leave alone: every field but the recorder, the parameters and, for a count, the
counters. -/

namespace Sys2Proof.Machine

/-- Only the recorder, the parameters and the counters differ. -/
def OnlyLog (s t : State) : Prop := ∃ r p c, t = { s with recd := r, params := p, pmc := c }

theorem OnlyLog.refl (s : State) : OnlyLog s s := ⟨s.recd, s.params, s.pmc, rfl⟩
theorem OnlyLog.trans {s t u : State} (h : OnlyLog s t) (k : OnlyLog t u) : OnlyLog s u := by
  obtain ⟨_, _, _, rfl⟩ := h; obtain ⟨_, _, _, rfl⟩ := k; exact ⟨_, _, _, rfl⟩
theorem OnlyLog.setRt (s : State) (t : Nat) (x : RecTile) : OnlyLog s (s.setRt t x) := ⟨_, _, _, rfl⟩
theorem OnlyLog.setParam (s : State) (i n : Nat) (w : Word) : OnlyLog s (s.setParam i n w) := ⟨_, _, _, rfl⟩
theorem OnlyLog.setCtr (s : State) (k : Nat) (c : Ctr) : OnlyLog s (s.setCtr k c) := ⟨_, _, _, rfl⟩
theorem OnlyLog.foldl {α : Type} (f : State → α → State) (h : ∀ s a, OnlyLog s (f s a)) (l : List α) (s : State) : OnlyLog s (l.foldl f s) := by
  induction l generalizing s with
  | nil => exact .refl s
  | cons a l ih => exact (h s a).trans (ih (f s a))

theorem State.dropRec_log (s : State) (t v : Nat) : OnlyLog s (s.dropRec t v) := .setParam _ _ _ _

theorem State.storeRec_log (s : State) (r : Rec) : OnlyLog s (s.storeRec r).1 := by
  unfold State.storeRec
  dsimp only
  repeat' split
  all_goals first
    | exact .setRt _ _ _
    | exact (OnlyLog.setRt _ _ _).trans (State.dropRec_log _ _ _)

theorem State.flushCauses_log (s : State) (t sev : Nat) : OnlyLog s (s.flushCauses t sev) := by
  unfold State.flushCauses
  split
  · exact .foldl _ (fun _ _ => .setRt _ _ _) _ _
  · split
    · exact .setRt _ _ _
    · exact .refl _

theorem State.applyTrig_log (s : State) (t j : Nat) : OnlyLog s (s.applyTrig t j) := by
  unfold State.applyTrig
  dsimp only
  split
  · exact (OnlyLog.setRt _ _ _).trans (.setParam _ _ _ _)
  · exact .setRt _ _ _

theorem State.makeRec_log (s : State) (t sev code src pl ctx arg : Nat) (l : List Word) : OnlyLog s (s.makeRec t sev code src pl ctx arg l).1 := by
  unfold State.makeRec
  split
  · exact .refl s
  · dsimp only
    split
    · split
      · exact (State.storeRec_log _ _).trans (State.flushCauses_log _ _ _)
      · exact ((State.storeRec_log _ _).trans (State.applyTrig_log _ _ _)).trans (State.flushCauses_log _ _ _)
    · exact (State.storeRec_log _ _).trans (State.flushCauses_log _ _ _)

theorem State.bump_log (s : State) (t b k : Nat) : OnlyLog s (s.bump t b k) := by
  unfold State.bump
  dsimp only
  split
  · exact .setCtr _ _ _
  · exact (OnlyLog.setCtr _ _ _).trans (State.makeRec_log _ _ _ _ _ _ _ _ _)

theorem State.tally_log (s : State) (t b e : Nat) (a : Attr) : OnlyLog s (s.tally t b e a) := by
  unfold State.tally
  split
  · exact .refl s
  · dsimp only
    have h : ∀ (c : State → Nat → Bool) (g : State → Nat → State), (∀ s k, OnlyLog s (g s k)) →
        ∀ (l : List Nat) (s : State), OnlyLog s (l.foldl (fun s k => if c s k then g s k else s) s) := by
      intro c g hg
      exact fun l s => .foldl _ (fun s k => by show OnlyLog s (if c s k then g s k else s); split; exacts [hg s k, .refl s]) l s
    exact (h _ _ (fun _ _ => State.bump_log _ _ _ _) _ _).trans (h _ _ (fun _ _ => State.bump_log _ _ _ _) _ _)

theorem State.tallyRec_log (s : State) (t : Nat) (m : Option Bool) : OnlyLog s (s.tallyRec t m) := by
  unfold State.tallyRec
  split
  · exact .refl s
  · dsimp only
    split
    · exact (State.tally_log _ _ _ _ _).trans (State.tally_log _ _ _ _ _)
    · exact State.tally_log _ _ _ _ _

theorem State.record_log (s : State) (t sev code src pl ctx arg : Nat) (l : List Word) : OnlyLog s (s.record t sev code src pl ctx arg l) :=
  (State.makeRec_log _ _ _ _ _ _ _ _ _).trans (State.tallyRec_log _ _ _)

theorem State.log_log (s : State) (t v b i k d a : Nat) : OnlyLog s (s.log t v b i k d a) := State.record_log _ _ _ _ _ _ _ _ _

theorem State.countInstr_log (s : State) (n : Nat) (i : Issue) (st : Status) : OnlyLog s (s.countInstr n i st) := by
  unfold State.countInstr
  dsimp only
  split
  · exact (State.tally_log _ _ _ _ _).trans (State.tally_log _ _ _ _ _)
  · exact State.tally_log _ _ _ _ _

theorem State.tallyLookup_log (s : State) (r : Req) (a : Nat) : OnlyLog s (s.tallyLookup r a) := by
  unfold State.tallyLookup State.tallyOnce
  split
  · exact .refl s
  · exact State.tally_log _ _ _ _ _

/-- While no counter runs, counting changes nothing. -/
theorem State.tally_uncounted {s : State} (h : s.uncounted = true) (t b e : Nat) (a : Attr) : s.tally t b e a = s := by
  unfold State.tally; rw [h]; rfl
theorem State.countInstr_uncounted {s : State} (h : s.uncounted = true) (n : Nat) (i : Issue) (st : Status) : s.countInstr n i st = s := by
  unfold State.countInstr
  simp [State.tally_uncounted h]

@[simp] theorem State.log_pending (s : State) (t v b i k d a : Nat) : (s.log t v b i k d a).pending = s.pending := by obtain ⟨_, _, _, e⟩ := State.log_log s t v b i k d a; rw [e]
@[simp] theorem State.log_free (s : State) (t v b i k d a : Nat) : (s.log t v b i k d a).free = s.free := by obtain ⟨_, _, _, e⟩ := State.log_log s t v b i k d a; rw [e]
@[simp] theorem State.log_out (s : State) (t v b i k d a : Nat) : (s.log t v b i k d a).out = s.out := by obtain ⟨_, _, _, e⟩ := State.log_log s t v b i k d a; rw [e]
@[simp] theorem State.log_clock (s : State) (t v b i k d a : Nat) : (s.log t v b i k d a).clock = s.clock := by obtain ⟨_, _, _, e⟩ := State.log_log s t v b i k d a; rw [e]
@[simp] theorem State.log_part (s : State) (t v b i k d a : Nat) : (s.log t v b i k d a).part = s.part := by obtain ⟨_, _, _, e⟩ := State.log_log s t v b i k d a; rw [e]
@[simp] theorem State.log_time (s : State) (t v b i k d a : Nat) : (s.log t v b i k d a).time = s.time := by obtain ⟨_, _, _, e⟩ := State.log_log s t v b i k d a; rw [e]
@[simp] theorem State.log_mode (s : State) (t v b i k d a : Nat) : (s.log t v b i k d a).mode = s.mode := by obtain ⟨_, _, _, e⟩ := State.log_log s t v b i k d a; rw [e]
@[simp] theorem State.log_boot (s : State) (t v b i k d a : Nat) : (s.log t v b i k d a).boot = s.boot := by obtain ⟨_, _, _, e⟩ := State.log_log s t v b i k d a; rw [e]
@[simp] theorem State.log_pwr (s : State) (t v b i k d a : Nat) : (s.log t v b i k d a).pwr = s.pwr := by obtain ⟨_, _, _, e⟩ := State.log_log s t v b i k d a; rw [e]
@[simp] theorem State.log_dram (s : State) (t v b i k d a : Nat) : (s.log t v b i k d a).dram = s.dram := by obtain ⟨_, _, _, e⟩ := State.log_log s t v b i k d a; rw [e]
@[simp] theorem State.log_set (s : State) (t v b i k d a : Nat) : (s.log t v b i k d a).set = s.set := by obtain ⟨_, _, _, e⟩ := State.log_log s t v b i k d a; rw [e]
@[simp] theorem State.log_tides (s : State) (t v b i k d a : Nat) : (s.log t v b i k d a).tides = s.tides := by obtain ⟨_, _, _, e⟩ := State.log_log s t v b i k d a; rw [e]
@[simp] theorem State.log_twinTides (s : State) (t v b i k d a : Nat) : (s.log t v b i k d a).twinTides = s.twinTides := by obtain ⟨_, _, _, e⟩ := State.log_log s t v b i k d a; rw [e]
@[simp] theorem State.log_tideCount (s : State) (t v b i k d a : Nat) : (s.log t v b i k d a).tideCount = s.tideCount := by obtain ⟨_, _, _, e⟩ := State.log_log s t v b i k d a; rw [e]
@[simp] theorem State.log_ctxs (s : State) (t v b i k d a : Nat) : (s.log t v b i k d a).ctxs = s.ctxs := by obtain ⟨_, _, _, e⟩ := State.log_log s t v b i k d a; rw [e]
@[simp] theorem State.log_fences (s : State) (t v b i k d a : Nat) : (s.log t v b i k d a).fences = s.fences := by obtain ⟨_, _, _, e⟩ := State.log_log s t v b i k d a; rw [e]
@[simp] theorem State.log_tide (s : State) (t v b i k d a : Nat) : (s.log t v b i k d a).tide = s.tide := by obtain ⟨_, _, _, e⟩ := State.log_log s t v b i k d a; rw [e]
@[simp] theorem State.log_save (s : State) (t v b i k d a : Nat) : (s.log t v b i k d a).save = s.save := by obtain ⟨_, _, _, e⟩ := State.log_log s t v b i k d a; rw [e]
@[simp] theorem State.log_fuse (s : State) (t v b i k d a : Nat) : (s.log t v b i k d a).fuse = s.fuse := by obtain ⟨_, _, _, e⟩ := State.log_log s t v b i k d a; rw [e]
@[simp] theorem State.log_fw (s : State) (t v b i k d a : Nat) : (s.log t v b i k d a).fw = s.fw := by obtain ⟨_, _, _, e⟩ := State.log_log s t v b i k d a; rw [e]
@[simp] theorem State.log_ich (s : State) (t v b i k d a : Nat) : (s.log t v b i k d a).ich = s.ich := by obtain ⟨_, _, _, e⟩ := State.log_log s t v b i k d a; rw [e]
@[simp] theorem State.log_itile (s : State) (t v b i k d a : Nat) : (s.log t v b i k d a).itile = s.itile := by obtain ⟨_, _, _, e⟩ := State.log_log s t v b i k d a; rw [e]
@[simp] theorem State.log_links (s : State) (t v b i k d a : Nat) : (s.log t v b i k d a).links = s.links := by obtain ⟨_, _, _, e⟩ := State.log_log s t v b i k d a; rw [e]
@[simp] theorem State.log_bars (s : State) (t v b i k d a : Nat) : (s.log t v b i k d a).bars = s.bars := by obtain ⟨_, _, _, e⟩ := State.log_log s t v b i k d a; rw [e]
@[simp] theorem State.log_sessions (s : State) (t v b i k d a : Nat) : (s.log t v b i k d a).sessions = s.sessions := by obtain ⟨_, _, _, e⟩ := State.log_log s t v b i k d a; rw [e]
@[simp] theorem State.log_binds (s : State) (t v b i k d a : Nat) : (s.log t v b i k d a).binds = s.binds := by obtain ⟨_, _, _, e⟩ := State.log_log s t v b i k d a; rw [e]
@[simp] theorem State.log_home (s : State) (t v b i k d a : Nat) : (s.log t v b i k d a).home = s.home := by obtain ⟨_, _, _, e⟩ := State.log_log s t v b i k d a; rw [e]
@[simp] theorem State.log_eaves (s : State) (t v b i k d a : Nat) : (s.log t v b i k d a).eaves = s.eaves := by obtain ⟨_, _, _, e⟩ := State.log_log s t v b i k d a; rw [e]
@[simp] theorem State.log_plru (s : State) (t v b i k d a : Nat) : (s.log t v b i k d a).plru = s.plru := by obtain ⟨_, _, _, e⟩ := State.log_log s t v b i k d a; rw [e]
@[simp] theorem State.log_paths (s : State) (t v b i k d a : Nat) : (s.log t v b i k d a).paths = s.paths := by obtain ⟨_, _, _, e⟩ := State.log_log s t v b i k d a; rw [e]
@[simp] theorem State.log_wq (s : State) (t v b i k d a : Nat) : (s.log t v b i k d a).wq = s.wq := by obtain ⟨_, _, _, e⟩ := State.log_log s t v b i k d a; rw [e]
@[simp] theorem State.log_rq (s : State) (t v b i k d a : Nat) : (s.log t v b i k d a).rq = s.rq := by obtain ⟨_, _, _, e⟩ := State.log_log s t v b i k d a; rw [e]
@[simp] theorem State.log_waits (s : State) (t v b i k d a : Nat) : (s.log t v b i k d a).waits = s.waits := by obtain ⟨_, _, _, e⟩ := State.log_log s t v b i k d a; rw [e]
@[simp] theorem State.log_unacked (s : State) (t v b i k d a : Nat) : (s.log t v b i k d a).unacked = s.unacked := by obtain ⟨_, _, _, e⟩ := State.log_log s t v b i k d a; rw [e]
@[simp] theorem State.log_groups (s : State) (t v b i k d a : Nat) : (s.log t v b i k d a).groups = s.groups := by obtain ⟨_, _, _, e⟩ := State.log_log s t v b i k d a; rw [e]
@[simp] theorem State.log_chans (s : State) (t v b i k d a : Nat) : (s.log t v b i k d a).chans = s.chans := by obtain ⟨_, _, _, e⟩ := State.log_log s t v b i k d a; rw [e]
@[simp] theorem State.log_dtiles (s : State) (t v b i k d a : Nat) : (s.log t v b i k d a).dtiles = s.dtiles := by obtain ⟨_, _, _, e⟩ := State.log_log s t v b i k d a; rw [e]
@[simp] theorem State.log_poisoned (s : State) (t v b i k d a : Nat) : (s.log t v b i k d a).poisoned = s.poisoned := by obtain ⟨_, _, _, e⟩ := State.log_log s t v b i k d a; rw [e]
@[simp] theorem State.log_thatch (s : State) (t v b i k d a : Nat) : (s.log t v b i k d a).thatch = s.thatch := by obtain ⟨_, _, _, e⟩ := State.log_log s t v b i k d a; rw [e]
@[simp] theorem State.log_mirr (s : State) (t v b i k d a : Nat) : (s.log t v b i k d a).mirr = s.mirr := by obtain ⟨_, _, _, e⟩ := State.log_log s t v b i k d a; rw [e]
@[simp] theorem State.log_lease (s : State) (t v b i k d a : Nat) : (s.log t v b i k d a).lease = s.lease := by obtain ⟨_, _, _, e⟩ := State.log_log s t v b i k d a; rw [e]
@[simp] theorem State.log_wit (s : State) (t v b i k d a : Nat) : (s.log t v b i k d a).wit = s.wit := by obtain ⟨_, _, _, e⟩ := State.log_log s t v b i k d a; rw [e]
@[simp] theorem State.log_tiers (s : State) (t v b i k d a : Nat) : (s.log t v b i k d a).tiers = s.tiers := by obtain ⟨_, _, _, e⟩ := State.log_log s t v b i k d a; rw [e]
@[simp] theorem State.log_keys (s : State) (t v b i k d a : Nat) : (s.log t v b i k d a).keys = s.keys := by obtain ⟨_, _, _, e⟩ := State.log_log s t v b i k d a; rw [e]
@[simp] theorem State.log_sealedKeys (s : State) (t v b i k d a : Nat) : (s.log t v b i k d a).sealedKeys = s.sealedKeys := by obtain ⟨_, _, _, e⟩ := State.log_log s t v b i k d a; rw [e]
@[simp] theorem State.log_nonces (s : State) (t v b i k d a : Nat) : (s.log t v b i k d a).nonces = s.nonces := by obtain ⟨_, _, _, e⟩ := State.log_log s t v b i k d a; rw [e]
@[simp] theorem State.log_imgKey (s : State) (t v b i k d a : Nat) : (s.log t v b i k d a).imgKey = s.imgKey := by obtain ⟨_, _, _, e⟩ := State.log_log s t v b i k d a; rw [e]
@[simp] theorem State.log_progs (s : State) (t v b i k d a : Nat) : (s.log t v b i k d a).progs = s.progs := by obtain ⟨_, _, _, e⟩ := State.log_log s t v b i k d a; rw [e]
@[simp] theorem State.log_tap (s : State) (t v b i k d a : Nat) : (s.log t v b i k d a).tap = s.tap := by obtain ⟨_, _, _, e⟩ := State.log_log s t v b i k d a; rw [e]
@[simp] theorem State.log_mgmt (s : State) (t v b i k d a : Nat) : (s.log t v b i k d a).mgmt = s.mgmt := by obtain ⟨_, _, _, e⟩ := State.log_log s t v b i k d a; rw [e]
@[simp] theorem State.record_pending (s : State) (t v c r p n a : Nat) (l : List Word) : (s.record t v c r p n a l).pending = s.pending := by obtain ⟨_, _, _, e⟩ := State.record_log s t v c r p n a l; rw [e]
@[simp] theorem State.record_free (s : State) (t v c r p n a : Nat) (l : List Word) : (s.record t v c r p n a l).free = s.free := by obtain ⟨_, _, _, e⟩ := State.record_log s t v c r p n a l; rw [e]
@[simp] theorem State.record_out (s : State) (t v c r p n a : Nat) (l : List Word) : (s.record t v c r p n a l).out = s.out := by obtain ⟨_, _, _, e⟩ := State.record_log s t v c r p n a l; rw [e]
@[simp] theorem State.record_clock (s : State) (t v c r p n a : Nat) (l : List Word) : (s.record t v c r p n a l).clock = s.clock := by obtain ⟨_, _, _, e⟩ := State.record_log s t v c r p n a l; rw [e]
@[simp] theorem State.record_part (s : State) (t v c r p n a : Nat) (l : List Word) : (s.record t v c r p n a l).part = s.part := by obtain ⟨_, _, _, e⟩ := State.record_log s t v c r p n a l; rw [e]
@[simp] theorem State.record_time (s : State) (t v c r p n a : Nat) (l : List Word) : (s.record t v c r p n a l).time = s.time := by obtain ⟨_, _, _, e⟩ := State.record_log s t v c r p n a l; rw [e]
@[simp] theorem State.record_mode (s : State) (t v c r p n a : Nat) (l : List Word) : (s.record t v c r p n a l).mode = s.mode := by obtain ⟨_, _, _, e⟩ := State.record_log s t v c r p n a l; rw [e]
@[simp] theorem State.record_boot (s : State) (t v c r p n a : Nat) (l : List Word) : (s.record t v c r p n a l).boot = s.boot := by obtain ⟨_, _, _, e⟩ := State.record_log s t v c r p n a l; rw [e]
@[simp] theorem State.record_pwr (s : State) (t v c r p n a : Nat) (l : List Word) : (s.record t v c r p n a l).pwr = s.pwr := by obtain ⟨_, _, _, e⟩ := State.record_log s t v c r p n a l; rw [e]
@[simp] theorem State.record_dram (s : State) (t v c r p n a : Nat) (l : List Word) : (s.record t v c r p n a l).dram = s.dram := by obtain ⟨_, _, _, e⟩ := State.record_log s t v c r p n a l; rw [e]
@[simp] theorem State.record_set (s : State) (t v c r p n a : Nat) (l : List Word) : (s.record t v c r p n a l).set = s.set := by obtain ⟨_, _, _, e⟩ := State.record_log s t v c r p n a l; rw [e]
@[simp] theorem State.record_tides (s : State) (t v c r p n a : Nat) (l : List Word) : (s.record t v c r p n a l).tides = s.tides := by obtain ⟨_, _, _, e⟩ := State.record_log s t v c r p n a l; rw [e]
@[simp] theorem State.record_twinTides (s : State) (t v c r p n a : Nat) (l : List Word) : (s.record t v c r p n a l).twinTides = s.twinTides := by obtain ⟨_, _, _, e⟩ := State.record_log s t v c r p n a l; rw [e]
@[simp] theorem State.record_tideCount (s : State) (t v c r p n a : Nat) (l : List Word) : (s.record t v c r p n a l).tideCount = s.tideCount := by obtain ⟨_, _, _, e⟩ := State.record_log s t v c r p n a l; rw [e]
@[simp] theorem State.record_ctxs (s : State) (t v c r p n a : Nat) (l : List Word) : (s.record t v c r p n a l).ctxs = s.ctxs := by obtain ⟨_, _, _, e⟩ := State.record_log s t v c r p n a l; rw [e]
@[simp] theorem State.record_fences (s : State) (t v c r p n a : Nat) (l : List Word) : (s.record t v c r p n a l).fences = s.fences := by obtain ⟨_, _, _, e⟩ := State.record_log s t v c r p n a l; rw [e]
@[simp] theorem State.record_tide (s : State) (t v c r p n a : Nat) (l : List Word) : (s.record t v c r p n a l).tide = s.tide := by obtain ⟨_, _, _, e⟩ := State.record_log s t v c r p n a l; rw [e]
@[simp] theorem State.record_save (s : State) (t v c r p n a : Nat) (l : List Word) : (s.record t v c r p n a l).save = s.save := by obtain ⟨_, _, _, e⟩ := State.record_log s t v c r p n a l; rw [e]
@[simp] theorem State.record_fuse (s : State) (t v c r p n a : Nat) (l : List Word) : (s.record t v c r p n a l).fuse = s.fuse := by obtain ⟨_, _, _, e⟩ := State.record_log s t v c r p n a l; rw [e]
@[simp] theorem State.record_fw (s : State) (t v c r p n a : Nat) (l : List Word) : (s.record t v c r p n a l).fw = s.fw := by obtain ⟨_, _, _, e⟩ := State.record_log s t v c r p n a l; rw [e]
@[simp] theorem State.record_ich (s : State) (t v c r p n a : Nat) (l : List Word) : (s.record t v c r p n a l).ich = s.ich := by obtain ⟨_, _, _, e⟩ := State.record_log s t v c r p n a l; rw [e]
@[simp] theorem State.record_itile (s : State) (t v c r p n a : Nat) (l : List Word) : (s.record t v c r p n a l).itile = s.itile := by obtain ⟨_, _, _, e⟩ := State.record_log s t v c r p n a l; rw [e]
@[simp] theorem State.record_links (s : State) (t v c r p n a : Nat) (l : List Word) : (s.record t v c r p n a l).links = s.links := by obtain ⟨_, _, _, e⟩ := State.record_log s t v c r p n a l; rw [e]
@[simp] theorem State.record_bars (s : State) (t v c r p n a : Nat) (l : List Word) : (s.record t v c r p n a l).bars = s.bars := by obtain ⟨_, _, _, e⟩ := State.record_log s t v c r p n a l; rw [e]
@[simp] theorem State.record_sessions (s : State) (t v c r p n a : Nat) (l : List Word) : (s.record t v c r p n a l).sessions = s.sessions := by obtain ⟨_, _, _, e⟩ := State.record_log s t v c r p n a l; rw [e]
@[simp] theorem State.record_binds (s : State) (t v c r p n a : Nat) (l : List Word) : (s.record t v c r p n a l).binds = s.binds := by obtain ⟨_, _, _, e⟩ := State.record_log s t v c r p n a l; rw [e]
@[simp] theorem State.record_home (s : State) (t v c r p n a : Nat) (l : List Word) : (s.record t v c r p n a l).home = s.home := by obtain ⟨_, _, _, e⟩ := State.record_log s t v c r p n a l; rw [e]
@[simp] theorem State.record_eaves (s : State) (t v c r p n a : Nat) (l : List Word) : (s.record t v c r p n a l).eaves = s.eaves := by obtain ⟨_, _, _, e⟩ := State.record_log s t v c r p n a l; rw [e]
@[simp] theorem State.record_plru (s : State) (t v c r p n a : Nat) (l : List Word) : (s.record t v c r p n a l).plru = s.plru := by obtain ⟨_, _, _, e⟩ := State.record_log s t v c r p n a l; rw [e]
@[simp] theorem State.record_paths (s : State) (t v c r p n a : Nat) (l : List Word) : (s.record t v c r p n a l).paths = s.paths := by obtain ⟨_, _, _, e⟩ := State.record_log s t v c r p n a l; rw [e]
@[simp] theorem State.record_wq (s : State) (t v c r p n a : Nat) (l : List Word) : (s.record t v c r p n a l).wq = s.wq := by obtain ⟨_, _, _, e⟩ := State.record_log s t v c r p n a l; rw [e]
@[simp] theorem State.record_rq (s : State) (t v c r p n a : Nat) (l : List Word) : (s.record t v c r p n a l).rq = s.rq := by obtain ⟨_, _, _, e⟩ := State.record_log s t v c r p n a l; rw [e]
@[simp] theorem State.record_waits (s : State) (t v c r p n a : Nat) (l : List Word) : (s.record t v c r p n a l).waits = s.waits := by obtain ⟨_, _, _, e⟩ := State.record_log s t v c r p n a l; rw [e]
@[simp] theorem State.record_unacked (s : State) (t v c r p n a : Nat) (l : List Word) : (s.record t v c r p n a l).unacked = s.unacked := by obtain ⟨_, _, _, e⟩ := State.record_log s t v c r p n a l; rw [e]
@[simp] theorem State.record_groups (s : State) (t v c r p n a : Nat) (l : List Word) : (s.record t v c r p n a l).groups = s.groups := by obtain ⟨_, _, _, e⟩ := State.record_log s t v c r p n a l; rw [e]
@[simp] theorem State.record_chans (s : State) (t v c r p n a : Nat) (l : List Word) : (s.record t v c r p n a l).chans = s.chans := by obtain ⟨_, _, _, e⟩ := State.record_log s t v c r p n a l; rw [e]
@[simp] theorem State.record_dtiles (s : State) (t v c r p n a : Nat) (l : List Word) : (s.record t v c r p n a l).dtiles = s.dtiles := by obtain ⟨_, _, _, e⟩ := State.record_log s t v c r p n a l; rw [e]
@[simp] theorem State.record_poisoned (s : State) (t v c r p n a : Nat) (l : List Word) : (s.record t v c r p n a l).poisoned = s.poisoned := by obtain ⟨_, _, _, e⟩ := State.record_log s t v c r p n a l; rw [e]
@[simp] theorem State.record_thatch (s : State) (t v c r p n a : Nat) (l : List Word) : (s.record t v c r p n a l).thatch = s.thatch := by obtain ⟨_, _, _, e⟩ := State.record_log s t v c r p n a l; rw [e]
@[simp] theorem State.record_mirr (s : State) (t v c r p n a : Nat) (l : List Word) : (s.record t v c r p n a l).mirr = s.mirr := by obtain ⟨_, _, _, e⟩ := State.record_log s t v c r p n a l; rw [e]
@[simp] theorem State.record_lease (s : State) (t v c r p n a : Nat) (l : List Word) : (s.record t v c r p n a l).lease = s.lease := by obtain ⟨_, _, _, e⟩ := State.record_log s t v c r p n a l; rw [e]
@[simp] theorem State.record_wit (s : State) (t v c r p n a : Nat) (l : List Word) : (s.record t v c r p n a l).wit = s.wit := by obtain ⟨_, _, _, e⟩ := State.record_log s t v c r p n a l; rw [e]
@[simp] theorem State.record_tiers (s : State) (t v c r p n a : Nat) (l : List Word) : (s.record t v c r p n a l).tiers = s.tiers := by obtain ⟨_, _, _, e⟩ := State.record_log s t v c r p n a l; rw [e]
@[simp] theorem State.record_keys (s : State) (t v c r p n a : Nat) (l : List Word) : (s.record t v c r p n a l).keys = s.keys := by obtain ⟨_, _, _, e⟩ := State.record_log s t v c r p n a l; rw [e]
@[simp] theorem State.record_sealedKeys (s : State) (t v c r p n a : Nat) (l : List Word) : (s.record t v c r p n a l).sealedKeys = s.sealedKeys := by obtain ⟨_, _, _, e⟩ := State.record_log s t v c r p n a l; rw [e]
@[simp] theorem State.record_nonces (s : State) (t v c r p n a : Nat) (l : List Word) : (s.record t v c r p n a l).nonces = s.nonces := by obtain ⟨_, _, _, e⟩ := State.record_log s t v c r p n a l; rw [e]
@[simp] theorem State.record_imgKey (s : State) (t v c r p n a : Nat) (l : List Word) : (s.record t v c r p n a l).imgKey = s.imgKey := by obtain ⟨_, _, _, e⟩ := State.record_log s t v c r p n a l; rw [e]
@[simp] theorem State.record_progs (s : State) (t v c r p n a : Nat) (l : List Word) : (s.record t v c r p n a l).progs = s.progs := by obtain ⟨_, _, _, e⟩ := State.record_log s t v c r p n a l; rw [e]
@[simp] theorem State.record_tap (s : State) (t v c r p n a : Nat) (l : List Word) : (s.record t v c r p n a l).tap = s.tap := by obtain ⟨_, _, _, e⟩ := State.record_log s t v c r p n a l; rw [e]
@[simp] theorem State.record_mgmt (s : State) (t v c r p n a : Nat) (l : List Word) : (s.record t v c r p n a l).mgmt = s.mgmt := by obtain ⟨_, _, _, e⟩ := State.record_log s t v c r p n a l; rw [e]
@[simp] theorem State.countInstr_pending (s : State) (n : Nat) (i : Issue) (st : Status) : (s.countInstr n i st).pending = s.pending := by obtain ⟨_, _, _, e⟩ := State.countInstr_log s n i st; rw [e]
@[simp] theorem State.countInstr_free (s : State) (n : Nat) (i : Issue) (st : Status) : (s.countInstr n i st).free = s.free := by obtain ⟨_, _, _, e⟩ := State.countInstr_log s n i st; rw [e]
@[simp] theorem State.countInstr_out (s : State) (n : Nat) (i : Issue) (st : Status) : (s.countInstr n i st).out = s.out := by obtain ⟨_, _, _, e⟩ := State.countInstr_log s n i st; rw [e]
@[simp] theorem State.countInstr_clock (s : State) (n : Nat) (i : Issue) (st : Status) : (s.countInstr n i st).clock = s.clock := by obtain ⟨_, _, _, e⟩ := State.countInstr_log s n i st; rw [e]
@[simp] theorem State.countInstr_part (s : State) (n : Nat) (i : Issue) (st : Status) : (s.countInstr n i st).part = s.part := by obtain ⟨_, _, _, e⟩ := State.countInstr_log s n i st; rw [e]
@[simp] theorem State.countInstr_time (s : State) (n : Nat) (i : Issue) (st : Status) : (s.countInstr n i st).time = s.time := by obtain ⟨_, _, _, e⟩ := State.countInstr_log s n i st; rw [e]
@[simp] theorem State.countInstr_mode (s : State) (n : Nat) (i : Issue) (st : Status) : (s.countInstr n i st).mode = s.mode := by obtain ⟨_, _, _, e⟩ := State.countInstr_log s n i st; rw [e]
@[simp] theorem State.countInstr_boot (s : State) (n : Nat) (i : Issue) (st : Status) : (s.countInstr n i st).boot = s.boot := by obtain ⟨_, _, _, e⟩ := State.countInstr_log s n i st; rw [e]
@[simp] theorem State.countInstr_pwr (s : State) (n : Nat) (i : Issue) (st : Status) : (s.countInstr n i st).pwr = s.pwr := by obtain ⟨_, _, _, e⟩ := State.countInstr_log s n i st; rw [e]
@[simp] theorem State.countInstr_dram (s : State) (n : Nat) (i : Issue) (st : Status) : (s.countInstr n i st).dram = s.dram := by obtain ⟨_, _, _, e⟩ := State.countInstr_log s n i st; rw [e]
@[simp] theorem State.countInstr_set (s : State) (n : Nat) (i : Issue) (st : Status) : (s.countInstr n i st).set = s.set := by obtain ⟨_, _, _, e⟩ := State.countInstr_log s n i st; rw [e]
@[simp] theorem State.countInstr_tides (s : State) (n : Nat) (i : Issue) (st : Status) : (s.countInstr n i st).tides = s.tides := by obtain ⟨_, _, _, e⟩ := State.countInstr_log s n i st; rw [e]
@[simp] theorem State.countInstr_twinTides (s : State) (n : Nat) (i : Issue) (st : Status) : (s.countInstr n i st).twinTides = s.twinTides := by obtain ⟨_, _, _, e⟩ := State.countInstr_log s n i st; rw [e]
@[simp] theorem State.countInstr_tideCount (s : State) (n : Nat) (i : Issue) (st : Status) : (s.countInstr n i st).tideCount = s.tideCount := by obtain ⟨_, _, _, e⟩ := State.countInstr_log s n i st; rw [e]
@[simp] theorem State.countInstr_ctxs (s : State) (n : Nat) (i : Issue) (st : Status) : (s.countInstr n i st).ctxs = s.ctxs := by obtain ⟨_, _, _, e⟩ := State.countInstr_log s n i st; rw [e]
@[simp] theorem State.countInstr_fences (s : State) (n : Nat) (i : Issue) (st : Status) : (s.countInstr n i st).fences = s.fences := by obtain ⟨_, _, _, e⟩ := State.countInstr_log s n i st; rw [e]
@[simp] theorem State.countInstr_tide (s : State) (n : Nat) (i : Issue) (st : Status) : (s.countInstr n i st).tide = s.tide := by obtain ⟨_, _, _, e⟩ := State.countInstr_log s n i st; rw [e]
@[simp] theorem State.countInstr_save (s : State) (n : Nat) (i : Issue) (st : Status) : (s.countInstr n i st).save = s.save := by obtain ⟨_, _, _, e⟩ := State.countInstr_log s n i st; rw [e]
@[simp] theorem State.countInstr_fuse (s : State) (n : Nat) (i : Issue) (st : Status) : (s.countInstr n i st).fuse = s.fuse := by obtain ⟨_, _, _, e⟩ := State.countInstr_log s n i st; rw [e]
@[simp] theorem State.countInstr_fw (s : State) (n : Nat) (i : Issue) (st : Status) : (s.countInstr n i st).fw = s.fw := by obtain ⟨_, _, _, e⟩ := State.countInstr_log s n i st; rw [e]
@[simp] theorem State.countInstr_ich (s : State) (n : Nat) (i : Issue) (st : Status) : (s.countInstr n i st).ich = s.ich := by obtain ⟨_, _, _, e⟩ := State.countInstr_log s n i st; rw [e]
@[simp] theorem State.countInstr_itile (s : State) (n : Nat) (i : Issue) (st : Status) : (s.countInstr n i st).itile = s.itile := by obtain ⟨_, _, _, e⟩ := State.countInstr_log s n i st; rw [e]
@[simp] theorem State.countInstr_links (s : State) (n : Nat) (i : Issue) (st : Status) : (s.countInstr n i st).links = s.links := by obtain ⟨_, _, _, e⟩ := State.countInstr_log s n i st; rw [e]
@[simp] theorem State.countInstr_bars (s : State) (n : Nat) (i : Issue) (st : Status) : (s.countInstr n i st).bars = s.bars := by obtain ⟨_, _, _, e⟩ := State.countInstr_log s n i st; rw [e]
@[simp] theorem State.countInstr_sessions (s : State) (n : Nat) (i : Issue) (st : Status) : (s.countInstr n i st).sessions = s.sessions := by obtain ⟨_, _, _, e⟩ := State.countInstr_log s n i st; rw [e]
@[simp] theorem State.countInstr_binds (s : State) (n : Nat) (i : Issue) (st : Status) : (s.countInstr n i st).binds = s.binds := by obtain ⟨_, _, _, e⟩ := State.countInstr_log s n i st; rw [e]
@[simp] theorem State.countInstr_home (s : State) (n : Nat) (i : Issue) (st : Status) : (s.countInstr n i st).home = s.home := by obtain ⟨_, _, _, e⟩ := State.countInstr_log s n i st; rw [e]
@[simp] theorem State.countInstr_eaves (s : State) (n : Nat) (i : Issue) (st : Status) : (s.countInstr n i st).eaves = s.eaves := by obtain ⟨_, _, _, e⟩ := State.countInstr_log s n i st; rw [e]
@[simp] theorem State.countInstr_plru (s : State) (n : Nat) (i : Issue) (st : Status) : (s.countInstr n i st).plru = s.plru := by obtain ⟨_, _, _, e⟩ := State.countInstr_log s n i st; rw [e]
@[simp] theorem State.countInstr_paths (s : State) (n : Nat) (i : Issue) (st : Status) : (s.countInstr n i st).paths = s.paths := by obtain ⟨_, _, _, e⟩ := State.countInstr_log s n i st; rw [e]
@[simp] theorem State.countInstr_wq (s : State) (n : Nat) (i : Issue) (st : Status) : (s.countInstr n i st).wq = s.wq := by obtain ⟨_, _, _, e⟩ := State.countInstr_log s n i st; rw [e]
@[simp] theorem State.countInstr_rq (s : State) (n : Nat) (i : Issue) (st : Status) : (s.countInstr n i st).rq = s.rq := by obtain ⟨_, _, _, e⟩ := State.countInstr_log s n i st; rw [e]
@[simp] theorem State.countInstr_waits (s : State) (n : Nat) (i : Issue) (st : Status) : (s.countInstr n i st).waits = s.waits := by obtain ⟨_, _, _, e⟩ := State.countInstr_log s n i st; rw [e]
@[simp] theorem State.countInstr_unacked (s : State) (n : Nat) (i : Issue) (st : Status) : (s.countInstr n i st).unacked = s.unacked := by obtain ⟨_, _, _, e⟩ := State.countInstr_log s n i st; rw [e]
@[simp] theorem State.countInstr_groups (s : State) (n : Nat) (i : Issue) (st : Status) : (s.countInstr n i st).groups = s.groups := by obtain ⟨_, _, _, e⟩ := State.countInstr_log s n i st; rw [e]
@[simp] theorem State.countInstr_chans (s : State) (n : Nat) (i : Issue) (st : Status) : (s.countInstr n i st).chans = s.chans := by obtain ⟨_, _, _, e⟩ := State.countInstr_log s n i st; rw [e]
@[simp] theorem State.countInstr_dtiles (s : State) (n : Nat) (i : Issue) (st : Status) : (s.countInstr n i st).dtiles = s.dtiles := by obtain ⟨_, _, _, e⟩ := State.countInstr_log s n i st; rw [e]
@[simp] theorem State.countInstr_poisoned (s : State) (n : Nat) (i : Issue) (st : Status) : (s.countInstr n i st).poisoned = s.poisoned := by obtain ⟨_, _, _, e⟩ := State.countInstr_log s n i st; rw [e]
@[simp] theorem State.countInstr_thatch (s : State) (n : Nat) (i : Issue) (st : Status) : (s.countInstr n i st).thatch = s.thatch := by obtain ⟨_, _, _, e⟩ := State.countInstr_log s n i st; rw [e]
@[simp] theorem State.countInstr_mirr (s : State) (n : Nat) (i : Issue) (st : Status) : (s.countInstr n i st).mirr = s.mirr := by obtain ⟨_, _, _, e⟩ := State.countInstr_log s n i st; rw [e]
@[simp] theorem State.countInstr_lease (s : State) (n : Nat) (i : Issue) (st : Status) : (s.countInstr n i st).lease = s.lease := by obtain ⟨_, _, _, e⟩ := State.countInstr_log s n i st; rw [e]
@[simp] theorem State.countInstr_wit (s : State) (n : Nat) (i : Issue) (st : Status) : (s.countInstr n i st).wit = s.wit := by obtain ⟨_, _, _, e⟩ := State.countInstr_log s n i st; rw [e]
@[simp] theorem State.countInstr_tiers (s : State) (n : Nat) (i : Issue) (st : Status) : (s.countInstr n i st).tiers = s.tiers := by obtain ⟨_, _, _, e⟩ := State.countInstr_log s n i st; rw [e]
@[simp] theorem State.countInstr_keys (s : State) (n : Nat) (i : Issue) (st : Status) : (s.countInstr n i st).keys = s.keys := by obtain ⟨_, _, _, e⟩ := State.countInstr_log s n i st; rw [e]
@[simp] theorem State.countInstr_sealedKeys (s : State) (n : Nat) (i : Issue) (st : Status) : (s.countInstr n i st).sealedKeys = s.sealedKeys := by obtain ⟨_, _, _, e⟩ := State.countInstr_log s n i st; rw [e]
@[simp] theorem State.countInstr_nonces (s : State) (n : Nat) (i : Issue) (st : Status) : (s.countInstr n i st).nonces = s.nonces := by obtain ⟨_, _, _, e⟩ := State.countInstr_log s n i st; rw [e]
@[simp] theorem State.countInstr_imgKey (s : State) (n : Nat) (i : Issue) (st : Status) : (s.countInstr n i st).imgKey = s.imgKey := by obtain ⟨_, _, _, e⟩ := State.countInstr_log s n i st; rw [e]
@[simp] theorem State.countInstr_progs (s : State) (n : Nat) (i : Issue) (st : Status) : (s.countInstr n i st).progs = s.progs := by obtain ⟨_, _, _, e⟩ := State.countInstr_log s n i st; rw [e]
@[simp] theorem State.countInstr_tap (s : State) (n : Nat) (i : Issue) (st : Status) : (s.countInstr n i st).tap = s.tap := by obtain ⟨_, _, _, e⟩ := State.countInstr_log s n i st; rw [e]
@[simp] theorem State.countInstr_mgmt (s : State) (n : Nat) (i : Issue) (st : Status) : (s.countInstr n i st).mgmt = s.mgmt := by obtain ⟨_, _, _, e⟩ := State.countInstr_log s n i st; rw [e]
@[simp] theorem State.tally_pending (s : State) (t b e : Nat) (a : Attr) : (s.tally t b e a).pending = s.pending := by obtain ⟨_, _, _, e⟩ := State.tally_log s t b e a; rw [e]
@[simp] theorem State.tally_free (s : State) (t b e : Nat) (a : Attr) : (s.tally t b e a).free = s.free := by obtain ⟨_, _, _, e⟩ := State.tally_log s t b e a; rw [e]
@[simp] theorem State.tally_out (s : State) (t b e : Nat) (a : Attr) : (s.tally t b e a).out = s.out := by obtain ⟨_, _, _, e⟩ := State.tally_log s t b e a; rw [e]
@[simp] theorem State.tally_clock (s : State) (t b e : Nat) (a : Attr) : (s.tally t b e a).clock = s.clock := by obtain ⟨_, _, _, e⟩ := State.tally_log s t b e a; rw [e]
@[simp] theorem State.tally_part (s : State) (t b e : Nat) (a : Attr) : (s.tally t b e a).part = s.part := by obtain ⟨_, _, _, e⟩ := State.tally_log s t b e a; rw [e]
@[simp] theorem State.tally_time (s : State) (t b e : Nat) (a : Attr) : (s.tally t b e a).time = s.time := by obtain ⟨_, _, _, e⟩ := State.tally_log s t b e a; rw [e]
@[simp] theorem State.tally_mode (s : State) (t b e : Nat) (a : Attr) : (s.tally t b e a).mode = s.mode := by obtain ⟨_, _, _, e⟩ := State.tally_log s t b e a; rw [e]
@[simp] theorem State.tally_boot (s : State) (t b e : Nat) (a : Attr) : (s.tally t b e a).boot = s.boot := by obtain ⟨_, _, _, e⟩ := State.tally_log s t b e a; rw [e]
@[simp] theorem State.tally_pwr (s : State) (t b e : Nat) (a : Attr) : (s.tally t b e a).pwr = s.pwr := by obtain ⟨_, _, _, e⟩ := State.tally_log s t b e a; rw [e]
@[simp] theorem State.tally_dram (s : State) (t b e : Nat) (a : Attr) : (s.tally t b e a).dram = s.dram := by obtain ⟨_, _, _, e⟩ := State.tally_log s t b e a; rw [e]
@[simp] theorem State.tally_set (s : State) (t b e : Nat) (a : Attr) : (s.tally t b e a).set = s.set := by obtain ⟨_, _, _, e⟩ := State.tally_log s t b e a; rw [e]
@[simp] theorem State.tally_tides (s : State) (t b e : Nat) (a : Attr) : (s.tally t b e a).tides = s.tides := by obtain ⟨_, _, _, e⟩ := State.tally_log s t b e a; rw [e]
@[simp] theorem State.tally_twinTides (s : State) (t b e : Nat) (a : Attr) : (s.tally t b e a).twinTides = s.twinTides := by obtain ⟨_, _, _, e⟩ := State.tally_log s t b e a; rw [e]
@[simp] theorem State.tally_tideCount (s : State) (t b e : Nat) (a : Attr) : (s.tally t b e a).tideCount = s.tideCount := by obtain ⟨_, _, _, e⟩ := State.tally_log s t b e a; rw [e]
@[simp] theorem State.tally_ctxs (s : State) (t b e : Nat) (a : Attr) : (s.tally t b e a).ctxs = s.ctxs := by obtain ⟨_, _, _, e⟩ := State.tally_log s t b e a; rw [e]
@[simp] theorem State.tally_fences (s : State) (t b e : Nat) (a : Attr) : (s.tally t b e a).fences = s.fences := by obtain ⟨_, _, _, e⟩ := State.tally_log s t b e a; rw [e]
@[simp] theorem State.tally_tide (s : State) (t b e : Nat) (a : Attr) : (s.tally t b e a).tide = s.tide := by obtain ⟨_, _, _, e⟩ := State.tally_log s t b e a; rw [e]
@[simp] theorem State.tally_save (s : State) (t b e : Nat) (a : Attr) : (s.tally t b e a).save = s.save := by obtain ⟨_, _, _, e⟩ := State.tally_log s t b e a; rw [e]
@[simp] theorem State.tally_fuse (s : State) (t b e : Nat) (a : Attr) : (s.tally t b e a).fuse = s.fuse := by obtain ⟨_, _, _, e⟩ := State.tally_log s t b e a; rw [e]
@[simp] theorem State.tally_fw (s : State) (t b e : Nat) (a : Attr) : (s.tally t b e a).fw = s.fw := by obtain ⟨_, _, _, e⟩ := State.tally_log s t b e a; rw [e]
@[simp] theorem State.tally_ich (s : State) (t b e : Nat) (a : Attr) : (s.tally t b e a).ich = s.ich := by obtain ⟨_, _, _, e⟩ := State.tally_log s t b e a; rw [e]
@[simp] theorem State.tally_itile (s : State) (t b e : Nat) (a : Attr) : (s.tally t b e a).itile = s.itile := by obtain ⟨_, _, _, e⟩ := State.tally_log s t b e a; rw [e]
@[simp] theorem State.tally_links (s : State) (t b e : Nat) (a : Attr) : (s.tally t b e a).links = s.links := by obtain ⟨_, _, _, e⟩ := State.tally_log s t b e a; rw [e]
@[simp] theorem State.tally_bars (s : State) (t b e : Nat) (a : Attr) : (s.tally t b e a).bars = s.bars := by obtain ⟨_, _, _, e⟩ := State.tally_log s t b e a; rw [e]
@[simp] theorem State.tally_sessions (s : State) (t b e : Nat) (a : Attr) : (s.tally t b e a).sessions = s.sessions := by obtain ⟨_, _, _, e⟩ := State.tally_log s t b e a; rw [e]
@[simp] theorem State.tally_binds (s : State) (t b e : Nat) (a : Attr) : (s.tally t b e a).binds = s.binds := by obtain ⟨_, _, _, e⟩ := State.tally_log s t b e a; rw [e]
@[simp] theorem State.tally_home (s : State) (t b e : Nat) (a : Attr) : (s.tally t b e a).home = s.home := by obtain ⟨_, _, _, e⟩ := State.tally_log s t b e a; rw [e]
@[simp] theorem State.tally_eaves (s : State) (t b e : Nat) (a : Attr) : (s.tally t b e a).eaves = s.eaves := by obtain ⟨_, _, _, e⟩ := State.tally_log s t b e a; rw [e]
@[simp] theorem State.tally_plru (s : State) (t b e : Nat) (a : Attr) : (s.tally t b e a).plru = s.plru := by obtain ⟨_, _, _, e⟩ := State.tally_log s t b e a; rw [e]
@[simp] theorem State.tally_paths (s : State) (t b e : Nat) (a : Attr) : (s.tally t b e a).paths = s.paths := by obtain ⟨_, _, _, e⟩ := State.tally_log s t b e a; rw [e]
@[simp] theorem State.tally_wq (s : State) (t b e : Nat) (a : Attr) : (s.tally t b e a).wq = s.wq := by obtain ⟨_, _, _, e⟩ := State.tally_log s t b e a; rw [e]
@[simp] theorem State.tally_rq (s : State) (t b e : Nat) (a : Attr) : (s.tally t b e a).rq = s.rq := by obtain ⟨_, _, _, e⟩ := State.tally_log s t b e a; rw [e]
@[simp] theorem State.tally_waits (s : State) (t b e : Nat) (a : Attr) : (s.tally t b e a).waits = s.waits := by obtain ⟨_, _, _, e⟩ := State.tally_log s t b e a; rw [e]
@[simp] theorem State.tally_unacked (s : State) (t b e : Nat) (a : Attr) : (s.tally t b e a).unacked = s.unacked := by obtain ⟨_, _, _, e⟩ := State.tally_log s t b e a; rw [e]
@[simp] theorem State.tally_groups (s : State) (t b e : Nat) (a : Attr) : (s.tally t b e a).groups = s.groups := by obtain ⟨_, _, _, e⟩ := State.tally_log s t b e a; rw [e]
@[simp] theorem State.tally_chans (s : State) (t b e : Nat) (a : Attr) : (s.tally t b e a).chans = s.chans := by obtain ⟨_, _, _, e⟩ := State.tally_log s t b e a; rw [e]
@[simp] theorem State.tally_dtiles (s : State) (t b e : Nat) (a : Attr) : (s.tally t b e a).dtiles = s.dtiles := by obtain ⟨_, _, _, e⟩ := State.tally_log s t b e a; rw [e]
@[simp] theorem State.tally_poisoned (s : State) (t b e : Nat) (a : Attr) : (s.tally t b e a).poisoned = s.poisoned := by obtain ⟨_, _, _, e⟩ := State.tally_log s t b e a; rw [e]
@[simp] theorem State.tally_thatch (s : State) (t b e : Nat) (a : Attr) : (s.tally t b e a).thatch = s.thatch := by obtain ⟨_, _, _, e⟩ := State.tally_log s t b e a; rw [e]
@[simp] theorem State.tally_mirr (s : State) (t b e : Nat) (a : Attr) : (s.tally t b e a).mirr = s.mirr := by obtain ⟨_, _, _, e⟩ := State.tally_log s t b e a; rw [e]
@[simp] theorem State.tally_lease (s : State) (t b e : Nat) (a : Attr) : (s.tally t b e a).lease = s.lease := by obtain ⟨_, _, _, e⟩ := State.tally_log s t b e a; rw [e]
@[simp] theorem State.tally_wit (s : State) (t b e : Nat) (a : Attr) : (s.tally t b e a).wit = s.wit := by obtain ⟨_, _, _, e⟩ := State.tally_log s t b e a; rw [e]
@[simp] theorem State.tally_tiers (s : State) (t b e : Nat) (a : Attr) : (s.tally t b e a).tiers = s.tiers := by obtain ⟨_, _, _, e⟩ := State.tally_log s t b e a; rw [e]
@[simp] theorem State.tally_keys (s : State) (t b e : Nat) (a : Attr) : (s.tally t b e a).keys = s.keys := by obtain ⟨_, _, _, e⟩ := State.tally_log s t b e a; rw [e]
@[simp] theorem State.tally_sealedKeys (s : State) (t b e : Nat) (a : Attr) : (s.tally t b e a).sealedKeys = s.sealedKeys := by obtain ⟨_, _, _, e⟩ := State.tally_log s t b e a; rw [e]
@[simp] theorem State.tally_nonces (s : State) (t b e : Nat) (a : Attr) : (s.tally t b e a).nonces = s.nonces := by obtain ⟨_, _, _, e⟩ := State.tally_log s t b e a; rw [e]
@[simp] theorem State.tally_imgKey (s : State) (t b e : Nat) (a : Attr) : (s.tally t b e a).imgKey = s.imgKey := by obtain ⟨_, _, _, e⟩ := State.tally_log s t b e a; rw [e]
@[simp] theorem State.tally_progs (s : State) (t b e : Nat) (a : Attr) : (s.tally t b e a).progs = s.progs := by obtain ⟨_, _, _, e⟩ := State.tally_log s t b e a; rw [e]
@[simp] theorem State.tally_tap (s : State) (t b e : Nat) (a : Attr) : (s.tally t b e a).tap = s.tap := by obtain ⟨_, _, _, e⟩ := State.tally_log s t b e a; rw [e]
@[simp] theorem State.tally_mgmt (s : State) (t b e : Nat) (a : Attr) : (s.tally t b e a).mgmt = s.mgmt := by obtain ⟨_, _, _, e⟩ := State.tally_log s t b e a; rw [e]
@[simp] theorem State.countInstr_ctx (s : State) (n : Nat) (i : Issue) (st : Status) (k : Nat) : (s.countInstr n i st).ctx k = s.ctx k := by obtain ⟨_, _, _, e⟩ := State.countInstr_log s n i st; rw [e]; rfl
@[simp] theorem State.countInstr_localCount (s : State) (n : Nat) (i : Issue) (st : Status) (k : Nat) : (s.countInstr n i st).localCount k = s.localCount k := by obtain ⟨_, _, _, e⟩ := State.countInstr_log s n i st; rw [e]; rfl
@[simp] theorem State.tallyLookup_evFind (s : State) (r : Req) (k : Nat) (t d : Nat) : (s.tallyLookup r k).evFind t d = s.evFind t d := by obtain ⟨_, _, _, e⟩ := State.tallyLookup_log s r k; rw [e]; rfl
@[simp] theorem State.tallyLookup_evLine (s : State) (r : Req) (k : Nat) (j : Nat) : (s.tallyLookup r k).evLine j = s.evLine j := by obtain ⟨_, _, _, e⟩ := State.tallyLookup_log s r k; rw [e]; rfl
@[simp] theorem State.tallyLookup_mergeOf (s : State) (r : Req) (k : Nat) (t o : Nat) : (s.tallyLookup r k).mergeOf t o = s.mergeOf t o := by obtain ⟨_, _, _, e⟩ := State.tallyLookup_log s r k; rw [e]; rfl
@[simp] theorem State.tallyLookup_wqNewest (s : State) (r : Req) (k : Nat) (t d : Nat) : (s.tallyLookup r k).wqNewest t d = s.wqNewest t d := by obtain ⟨_, _, _, e⟩ := State.tallyLookup_log s r k; rw [e]; rfl
@[simp] theorem State.tallyLookup_rqFull (s : State) (r : Req) (k : Nat) (t d : Nat) : (s.tallyLookup r k).rqFull t d = s.rqFull t d := by obtain ⟨_, _, _, e⟩ := State.tallyLookup_log s r k; rw [e]; rfl

end Sys2Proof.Machine
end

