-- ==== Sys2Proof/Laws/Context.lean ====
section
/-! SUPPORT. What the shared operations on a Rhozil context do: one lemma for each, which later proofs cite. -/

namespace Sys2Proof.Safety

open Sys2Proof.Machine

theorem CtxSteps.trans {s t u : State} {n : Nat} (a : CtxSteps n s t) (b : CtxSteps n t u) : CtxSteps n s u := by
  induction b with
  | refl => exact a
  | ctxs cs ss _ ih => exact .ctxs cs ss ih
  | count i st _ ih => exact .count i st ih

/-- Only contexts, sessions, the recorder, the parameters and the counters differ. -/
theorem CtxSteps.fields {s t : State} {n : Nat} (h : CtxSteps n s t) :
    ∃ cs ss r p c, t = { s with ctxs := cs, sessions := ss, recd := r, params := p, pmc := c } := by
  induction h with
  | refl => exact ⟨_, _, _, _, _, rfl⟩
  | ctxs cs ss _ ih => obtain ⟨_, _, _, _, _, rfl⟩ := ih; exact ⟨_, _, _, _, _, rfl⟩
  | count i st _ ih =>
    obtain ⟨_, _, _, _, _, rfl⟩ := ih
    obtain ⟨_, _, _, e⟩ := State.countInstr_log _ n i st
    exact ⟨_, _, _, _, _, e⟩

/-- While no counter runs, the recorder, the parameters and the counters are as they were too. -/
theorem CtxSteps.uncounted {s t : State} {n : Nat} (h : CtxSteps n s t) (u : s.uncounted = true) :
    ∃ cs ss, t = { s with ctxs := cs, sessions := ss } := by
  induction h with
  | refl => exact ⟨_, _, rfl⟩
  | ctxs cs ss _ ih => obtain ⟨_, _, rfl⟩ := ih; exact ⟨_, _, rfl⟩
  | count i st _ ih => obtain ⟨_, _, rfl⟩ := ih; exact ⟨_, _, State.countInstr_uncounted (by exact u) _ _ _⟩

theorem OnlyContext.refl (s : State) (n : Nat) : OnlyContext s s n := ⟨.refl s, fun _ _ => rfl⟩

theorem OnlyContext.trans {s t u : State} {n : Nat} (a : OnlyContext s t n) (b : OnlyContext t u n) : OnlyContext s u n :=
  ⟨a.1.trans b.1, fun m h => (b.2 m h).trans (a.2 m h)⟩

end Sys2Proof.Safety

namespace Sys2Proof.Machine

open Sys2Proof.Safety

@[simp] theorem State.ctx_setCtx (s : State) (n : Nat) (c : Ctx) : (s.setCtx n c).ctx n = c := Store.read_write_same _ _ _ _

theorem State.ctx_setCtx_ne (s : State) {n m : Nat} (c : Ctx) (h : m ≠ n) : (s.setCtx n c).ctx m = s.ctx m := Store.read_write_ne _ _ _ _ h

/-- An update of a context changes nothing else. -/
theorem State.setCtx_only (s : State) (n : Nat) (c : Ctx) : OnlyContext s (s.setCtx n c) n :=
  ⟨.ctxs _ s.sessions (.refl s), fun _ h => s.ctx_setCtx_ne c h⟩

/-- Counting an instruction of a context is no other change. -/
theorem State.countInstr_only (s : State) (n : Nat) (i : Issue) (st : Status) : OnlyContext s (s.countInstr n i st) n :=
  ⟨.count i st (.refl s), fun _ _ => by simp⟩

/-- Consuming an instruction sets the context and may mark a Slipway page RUNNING. -/
@[simp] theorem State.consume_ctx (s : State) (n : Nat) (i : Issue) (c : Ctx) : (s.consume n i c).ctx n = { c with long := none } := by
  unfold State.consume
  dsimp only
  split
  · split
    · exact s.ctx_setCtx n _
    · exact s.ctx_setCtx n _
  · exact s.ctx_setCtx n _

theorem State.consume_only (s : State) (n : Nat) (i : Issue) (c : Ctx) : OnlyContext s (s.consume n i c) n := by
  have h := s.setCtx_only n { c with long := none }
  unfold State.consume
  dsimp only
  split
  · split
    · exact ⟨.ctxs _ _ h.1, h.2⟩
    · exact h
  · exact h

/-- Consuming an instruction changes contexts and sessions. -/
theorem State.consume_fields (s : State) (n : Nat) (i : Issue) (c : Ctx) : ∃ cs ss, s.consume n i c = { s with ctxs := cs, sessions := ss } := by
  unfold State.consume
  dsimp only
  split
  · split <;> exact ⟨_, _, rfl⟩
  · exact ⟨_, _, rfl⟩

theorem Ctx.begin_g (c : Ctx) : c.begin.g = c.g := by unfold Ctx.begin; split <;> rfl
theorem Ctx.begin_outbox (c : Ctx) : c.begin.outbox = c.outbox := by unfold Ctx.begin; split <;> rfl
theorem Ctx.begin_tile (c : Ctx) : c.begin.tile = c.tile := by unfold Ctx.begin; split <;> rfl
theorem Ctx.begin_level (c : Ctx) : c.begin.level = c.level := by unfold Ctx.begin; split <;> rfl

/-- Reading the next instruction leaves the registers and the records of the context alone. -/
theorem State.readNext_keeps_regs {s : State} {n : Nat} {i : Issue} {c : Ctx} (h : s.readNext n = some (i, c)) :
    c.g = (s.ctx n).g ∧ c.outbox = (s.ctx n).outbox ∧ c.tile = (s.ctx n).tile ∧ c.level = (s.ctx n).level := by
  unfold State.readNext at h
  dsimp only at h
  repeat' split at h
  all_goals first
    | (cases h; exact ⟨rfl, rfl, rfl, rfl⟩)
    | (cases h; exact ⟨Ctx.begin_g _, Ctx.begin_outbox _, Ctx.begin_tile _, Ctx.begin_level _⟩)
    | cases h

theorem Ctx.reg_eq_of_g {c d : Ctx} (h : c.g = d.g) (k : Nat) : c.reg k = d.reg k := by unfold Ctx.reg; rw [h]

theorem Ctx.reg_setReg (c : Ctx) (k j : Nat) (w : Word) : (c.setReg k w).reg j = if j = k ∧ j ≠ 0 then w else c.reg j := by
  unfold Ctx.setReg Ctx.reg
  by_cases hk : k = 0
  · by_cases hj : j = 0 <;> simp_all
  · by_cases hj : j = 0
    · simp [hj]
    · simp only [hk, if_false, hj, ne_eq, not_false_eq_true, and_true, Store.read_write]

theorem Ctx.outbox_setReg (c : Ctx) (k : Nat) (w : Word) : (c.setReg k w).outbox = c.outbox := by unfold Ctx.setReg; split <;> rfl

theorem Ctx.endSub_g (c : Ctx) : c.endSub.g = c.g := rfl

/-- A condition on the encoding: an item that is a command is of an opcode that takes commands. -/
theorem Issue.encOk_cmd {i : Issue} {d : Desc} (h : i.encOk = true) (hd : desc i.opcode = some d) (hc : d.cmd = false) : i.cmd = false := by
  unfold Issue.encOk at h
  rw [hd] at h
  simp_all

/-- Completing an instruction with a status that is no failure, and one result: the registers. -/
theorem State.completeR_ok_regs (s : State) (n : Nat) (i : Issue) (r : Word) (hc : i.cmd = false) :
    WritesReg s (s.completeR n i .ok r) n (iGd i.word) r := by
  intro k
  unfold State.completeR State.complete
  simp only [State.countInstr_ctx, hc, Status.fails, Bool.false_and, Bool.or_self, Bool.false_eq_true, if_false, Ctx.setRegs, State.ctx_setCtx]
  have key : ∀ c : Ctx, c.g = ((s.ctx n).setReg (iGd i.word) r).g → c.reg k = if k = iGd i.word ∧ k ≠ 0 then r else (s.ctx n).reg k :=
    fun c h => (Ctx.reg_eq_of_g h k).trans (Ctx.reg_setReg _ _ _ _)
  apply key
  repeat' split
  all_goals rfl

/-- The same for every item: a command-class item writes no register. -/
theorem State.completeR_ok_regs' (s : State) (n : Nat) (i : Issue) (r : Word) :
    WritesReg s (s.completeR n i .ok r) n (if i.cmd then 0 else iGd i.word) r := by
  by_cases hc : i.cmd = true
  · intro k
    have hk : ¬ (k = 0 ∧ k ≠ 0) := by omega
    rw [if_pos hc, if_neg hk]
    unfold State.completeR State.complete
    simp only [State.countInstr_ctx, hc, Bool.true_or, if_true, State.ctx_setCtx]
    exact Ctx.reg_eq_of_g rfl k
  · simp only [Bool.not_eq_true] at hc
    simp only [hc, Bool.false_eq_true, if_false]
    exact State.completeR_ok_regs s n i r hc

theorem Ctx.exhausted_setRegs (c : Ctx) (k : Nat) (l : List Word) : (c.setRegs k l).exhausted = c.exhausted := by
  induction l generalizing c k with
  | nil => rfl
  | cons w r ih =>
    rw [Ctx.setRegs, ih]
    unfold Ctx.setReg
    split <;> rfl

/-- The last instruction of a submission to execute ends it: the mark clears and a called program returns through every level. -/
theorem State.completeR_last {s : State} {n : Nat} {i : Issue} {r : Word} (hc : i.cmd = false) (he : (s.ctx n).exhausted = true) :
    ((s.completeR n i .ok r).ctx n).cur = none ∧ ((s.completeR n i .ok r).ctx n).stack = [] ∧ ((s.completeR n i .ok r).ctx n).fetch = false ∧
      ((s.completeR n i .ok r).ctx n).mark = none := by
  unfold State.completeR State.complete
  simp only [State.countInstr_ctx, hc, Status.fails, Bool.false_and, Bool.or_self, Bool.false_eq_true, if_false, Ctx.exhausted_setRegs, he, Bool.or_true, if_true, State.ctx_setCtx]
  exact ⟨rfl, rfl, rfl, rfl⟩

/-- A completion changes nothing but its context. -/
theorem State.complete_only (s : State) (n : Nat) (i : Issue) (st : Status) (r : Word) (rs : List Word) (f : Bool) :
    OnlyContext s (s.complete n i st r rs f) n := by
  unfold State.complete
  dsimp only
  split
  all_goals exact (s.countInstr_only n i st).trans (State.setCtx_only _ n _)

theorem State.finishLong_eq {s : State} {n : Nat} {i : Issue} {op : LongOp} {st : Status} {r : Word} {rs : List Word} {f : Bool}
    (h : (s.ctx n).long = some (i, op)) :
    s.finishLong n st r rs f = (s.setCtx n { s.ctx n with long := none, cryp := if op = .cryp then none else (s.ctx n).cryp }).complete n i st r rs f := by
  unfold State.finishLong
  rw [h]

/-- The end of a long instruction with OK writes its result as the instruction itself would. -/
theorem State.finishR_ok {s : State} {n : Nat} {i : Issue} {op : LongOp} (r : Word) (h : (s.ctx n).long = some (i, op)) :
    WritesReg s (s.finishR n .ok r) n (if i.cmd then 0 else iGd i.word) r ∧ OnlyContext s (s.finishR n .ok r) n := by
  rw [State.finishR, State.finishLong_eq h]
  refine ⟨fun k => ?_, (s.setCtx_only n _).trans (State.complete_only _ _ _ _ _ _ _)⟩
  have := State.completeR_ok_regs' (s.setCtx n { s.ctx n with long := none, cryp := if op = .cryp then none else (s.ctx n).cryp }) n i r k
  rw [State.completeR] at this
  rw [this]
  simp only [State.ctx_setCtx]
  rfl

/-- An instruction that is ready acts: its row's effect on the state with its items consumed. -/
theorem State.issueOp_ready {s : State} {n op : Nat} {i : Issue} {c : Ctx} {enc level : State → Issue → Bool} {act : State → Issue → State}
    (h : Ready s n op i c) (he : enc (s.consume n i c) i = true) (hl : level (s.consume n i c) i = true) :
    s.issueOp n op enc level act = act (s.consume n i c) i := by
  obtain ⟨h1, h2, h3, h4, h5, h6, h7⟩ := h
  unfold State.issueOp State.refuse
  simp [h1, h2, h3, h4, h5, h6, h7, he, hl]

theorem State.issue_ready {s : State} {n op : Nat} {i : Issue} {c : Ctx} {act : State → Issue → State} (h : Ready s n op i c) :
    s.issue n op act = act (s.consume n i c) i := State.issueOp_ready h rfl rfl

/-- The registers of a context are those before it consumed an instruction. -/
theorem State.consume_reg {s : State} {n op : Nat} {i : Issue} {c : Ctx} (h : Ready s n op i c) (k : Nat) :
    ((s.consume n i c).ctx n).reg k = (s.ctx n).reg k := by
  rw [State.consume_ctx]
  exact Ctx.reg_eq_of_g (State.readNext_keeps_regs h.2.1).1 k

end Sys2Proof.Machine
end

