-- ==== Sys2Proof/Laws/Consume.lean ====
section
/-! SUPPORT. What consuming and completing an instruction leave alone: every field of the state but contexts and the pages of Slipway
sessions, and for a completion but what counting it changes. -/

namespace Sys2Proof.Machine

open Sys2Proof.Safety

@[simp] theorem State.consume_pending (s : State) (n : Nat) (i : Issue) (c : Ctx) : (s.consume n i c).pending = s.pending := by
  obtain ⟨_, _, e⟩ := State.consume_fields s n i c; rw [e]
@[simp] theorem State.consume_free (s : State) (n : Nat) (i : Issue) (c : Ctx) : (s.consume n i c).free = s.free := by
  obtain ⟨_, _, e⟩ := State.consume_fields s n i c; rw [e]
@[simp] theorem State.consume_out (s : State) (n : Nat) (i : Issue) (c : Ctx) : (s.consume n i c).out = s.out := by
  obtain ⟨_, _, e⟩ := State.consume_fields s n i c; rw [e]
@[simp] theorem State.consume_clock (s : State) (n : Nat) (i : Issue) (c : Ctx) : (s.consume n i c).clock = s.clock := by
  obtain ⟨_, _, e⟩ := State.consume_fields s n i c; rw [e]
@[simp] theorem State.consume_part (s : State) (n : Nat) (i : Issue) (c : Ctx) : (s.consume n i c).part = s.part := by
  obtain ⟨_, _, e⟩ := State.consume_fields s n i c; rw [e]
@[simp] theorem State.consume_time (s : State) (n : Nat) (i : Issue) (c : Ctx) : (s.consume n i c).time = s.time := by
  obtain ⟨_, _, e⟩ := State.consume_fields s n i c; rw [e]
@[simp] theorem State.consume_mode (s : State) (n : Nat) (i : Issue) (c : Ctx) : (s.consume n i c).mode = s.mode := by
  obtain ⟨_, _, e⟩ := State.consume_fields s n i c; rw [e]
@[simp] theorem State.consume_boot (s : State) (n : Nat) (i : Issue) (c : Ctx) : (s.consume n i c).boot = s.boot := by
  obtain ⟨_, _, e⟩ := State.consume_fields s n i c; rw [e]
@[simp] theorem State.consume_pwr (s : State) (n : Nat) (i : Issue) (c : Ctx) : (s.consume n i c).pwr = s.pwr := by
  obtain ⟨_, _, e⟩ := State.consume_fields s n i c; rw [e]
@[simp] theorem State.consume_recd (s : State) (n : Nat) (i : Issue) (c : Ctx) : (s.consume n i c).recd = s.recd := by
  obtain ⟨_, _, e⟩ := State.consume_fields s n i c; rw [e]
@[simp] theorem State.consume_pmc (s : State) (n : Nat) (i : Issue) (c : Ctx) : (s.consume n i c).pmc = s.pmc := by
  obtain ⟨_, _, e⟩ := State.consume_fields s n i c; rw [e]
@[simp] theorem State.consume_params (s : State) (n : Nat) (i : Issue) (c : Ctx) : (s.consume n i c).params = s.params := by
  obtain ⟨_, _, e⟩ := State.consume_fields s n i c; rw [e]
@[simp] theorem State.consume_dram (s : State) (n : Nat) (i : Issue) (c : Ctx) : (s.consume n i c).dram = s.dram := by
  obtain ⟨_, _, e⟩ := State.consume_fields s n i c; rw [e]
@[simp] theorem State.consume_set (s : State) (n : Nat) (i : Issue) (c : Ctx) : (s.consume n i c).set = s.set := by
  obtain ⟨_, _, e⟩ := State.consume_fields s n i c; rw [e]
@[simp] theorem State.consume_tides (s : State) (n : Nat) (i : Issue) (c : Ctx) : (s.consume n i c).tides = s.tides := by
  obtain ⟨_, _, e⟩ := State.consume_fields s n i c; rw [e]
@[simp] theorem State.consume_twinTides (s : State) (n : Nat) (i : Issue) (c : Ctx) : (s.consume n i c).twinTides = s.twinTides := by
  obtain ⟨_, _, e⟩ := State.consume_fields s n i c; rw [e]
@[simp] theorem State.consume_tideCount (s : State) (n : Nat) (i : Issue) (c : Ctx) : (s.consume n i c).tideCount = s.tideCount := by
  obtain ⟨_, _, e⟩ := State.consume_fields s n i c; rw [e]
@[simp] theorem State.consume_fences (s : State) (n : Nat) (i : Issue) (c : Ctx) : (s.consume n i c).fences = s.fences := by
  obtain ⟨_, _, e⟩ := State.consume_fields s n i c; rw [e]
@[simp] theorem State.consume_tide (s : State) (n : Nat) (i : Issue) (c : Ctx) : (s.consume n i c).tide = s.tide := by
  obtain ⟨_, _, e⟩ := State.consume_fields s n i c; rw [e]
@[simp] theorem State.consume_save (s : State) (n : Nat) (i : Issue) (c : Ctx) : (s.consume n i c).save = s.save := by
  obtain ⟨_, _, e⟩ := State.consume_fields s n i c; rw [e]
@[simp] theorem State.consume_fuse (s : State) (n : Nat) (i : Issue) (c : Ctx) : (s.consume n i c).fuse = s.fuse := by
  obtain ⟨_, _, e⟩ := State.consume_fields s n i c; rw [e]
@[simp] theorem State.consume_fw (s : State) (n : Nat) (i : Issue) (c : Ctx) : (s.consume n i c).fw = s.fw := by
  obtain ⟨_, _, e⟩ := State.consume_fields s n i c; rw [e]
@[simp] theorem State.consume_ich (s : State) (n : Nat) (i : Issue) (c : Ctx) : (s.consume n i c).ich = s.ich := by
  obtain ⟨_, _, e⟩ := State.consume_fields s n i c; rw [e]
@[simp] theorem State.consume_itile (s : State) (n : Nat) (i : Issue) (c : Ctx) : (s.consume n i c).itile = s.itile := by
  obtain ⟨_, _, e⟩ := State.consume_fields s n i c; rw [e]
@[simp] theorem State.consume_links (s : State) (n : Nat) (i : Issue) (c : Ctx) : (s.consume n i c).links = s.links := by
  obtain ⟨_, _, e⟩ := State.consume_fields s n i c; rw [e]
@[simp] theorem State.consume_bars (s : State) (n : Nat) (i : Issue) (c : Ctx) : (s.consume n i c).bars = s.bars := by
  obtain ⟨_, _, e⟩ := State.consume_fields s n i c; rw [e]
@[simp] theorem State.consume_binds (s : State) (n : Nat) (i : Issue) (c : Ctx) : (s.consume n i c).binds = s.binds := by
  obtain ⟨_, _, e⟩ := State.consume_fields s n i c; rw [e]
@[simp] theorem State.consume_home (s : State) (n : Nat) (i : Issue) (c : Ctx) : (s.consume n i c).home = s.home := by
  obtain ⟨_, _, e⟩ := State.consume_fields s n i c; rw [e]
@[simp] theorem State.consume_eaves (s : State) (n : Nat) (i : Issue) (c : Ctx) : (s.consume n i c).eaves = s.eaves := by
  obtain ⟨_, _, e⟩ := State.consume_fields s n i c; rw [e]
@[simp] theorem State.consume_plru (s : State) (n : Nat) (i : Issue) (c : Ctx) : (s.consume n i c).plru = s.plru := by
  obtain ⟨_, _, e⟩ := State.consume_fields s n i c; rw [e]
@[simp] theorem State.consume_paths (s : State) (n : Nat) (i : Issue) (c : Ctx) : (s.consume n i c).paths = s.paths := by
  obtain ⟨_, _, e⟩ := State.consume_fields s n i c; rw [e]
@[simp] theorem State.consume_wq (s : State) (n : Nat) (i : Issue) (c : Ctx) : (s.consume n i c).wq = s.wq := by
  obtain ⟨_, _, e⟩ := State.consume_fields s n i c; rw [e]
@[simp] theorem State.consume_rq (s : State) (n : Nat) (i : Issue) (c : Ctx) : (s.consume n i c).rq = s.rq := by
  obtain ⟨_, _, e⟩ := State.consume_fields s n i c; rw [e]
@[simp] theorem State.consume_waits (s : State) (n : Nat) (i : Issue) (c : Ctx) : (s.consume n i c).waits = s.waits := by
  obtain ⟨_, _, e⟩ := State.consume_fields s n i c; rw [e]
@[simp] theorem State.consume_unacked (s : State) (n : Nat) (i : Issue) (c : Ctx) : (s.consume n i c).unacked = s.unacked := by
  obtain ⟨_, _, e⟩ := State.consume_fields s n i c; rw [e]
@[simp] theorem State.consume_groups (s : State) (n : Nat) (i : Issue) (c : Ctx) : (s.consume n i c).groups = s.groups := by
  obtain ⟨_, _, e⟩ := State.consume_fields s n i c; rw [e]
@[simp] theorem State.consume_chans (s : State) (n : Nat) (i : Issue) (c : Ctx) : (s.consume n i c).chans = s.chans := by
  obtain ⟨_, _, e⟩ := State.consume_fields s n i c; rw [e]
@[simp] theorem State.consume_dtiles (s : State) (n : Nat) (i : Issue) (c : Ctx) : (s.consume n i c).dtiles = s.dtiles := by
  obtain ⟨_, _, e⟩ := State.consume_fields s n i c; rw [e]
@[simp] theorem State.consume_poisoned (s : State) (n : Nat) (i : Issue) (c : Ctx) : (s.consume n i c).poisoned = s.poisoned := by
  obtain ⟨_, _, e⟩ := State.consume_fields s n i c; rw [e]
@[simp] theorem State.consume_thatch (s : State) (n : Nat) (i : Issue) (c : Ctx) : (s.consume n i c).thatch = s.thatch := by
  obtain ⟨_, _, e⟩ := State.consume_fields s n i c; rw [e]
@[simp] theorem State.consume_mirr (s : State) (n : Nat) (i : Issue) (c : Ctx) : (s.consume n i c).mirr = s.mirr := by
  obtain ⟨_, _, e⟩ := State.consume_fields s n i c; rw [e]
@[simp] theorem State.consume_lease (s : State) (n : Nat) (i : Issue) (c : Ctx) : (s.consume n i c).lease = s.lease := by
  obtain ⟨_, _, e⟩ := State.consume_fields s n i c; rw [e]
@[simp] theorem State.consume_wit (s : State) (n : Nat) (i : Issue) (c : Ctx) : (s.consume n i c).wit = s.wit := by
  obtain ⟨_, _, e⟩ := State.consume_fields s n i c; rw [e]
@[simp] theorem State.consume_tiers (s : State) (n : Nat) (i : Issue) (c : Ctx) : (s.consume n i c).tiers = s.tiers := by
  obtain ⟨_, _, e⟩ := State.consume_fields s n i c; rw [e]
@[simp] theorem State.consume_keys (s : State) (n : Nat) (i : Issue) (c : Ctx) : (s.consume n i c).keys = s.keys := by
  obtain ⟨_, _, e⟩ := State.consume_fields s n i c; rw [e]
@[simp] theorem State.consume_sealedKeys (s : State) (n : Nat) (i : Issue) (c : Ctx) : (s.consume n i c).sealedKeys = s.sealedKeys := by
  obtain ⟨_, _, e⟩ := State.consume_fields s n i c; rw [e]
@[simp] theorem State.consume_nonces (s : State) (n : Nat) (i : Issue) (c : Ctx) : (s.consume n i c).nonces = s.nonces := by
  obtain ⟨_, _, e⟩ := State.consume_fields s n i c; rw [e]
@[simp] theorem State.consume_imgKey (s : State) (n : Nat) (i : Issue) (c : Ctx) : (s.consume n i c).imgKey = s.imgKey := by
  obtain ⟨_, _, e⟩ := State.consume_fields s n i c; rw [e]
@[simp] theorem State.consume_progs (s : State) (n : Nat) (i : Issue) (c : Ctx) : (s.consume n i c).progs = s.progs := by
  obtain ⟨_, _, e⟩ := State.consume_fields s n i c; rw [e]
@[simp] theorem State.consume_tap (s : State) (n : Nat) (i : Issue) (c : Ctx) : (s.consume n i c).tap = s.tap := by
  obtain ⟨_, _, e⟩ := State.consume_fields s n i c; rw [e]
@[simp] theorem State.consume_mgmt (s : State) (n : Nat) (i : Issue) (c : Ctx) : (s.consume n i c).mgmt = s.mgmt := by
  obtain ⟨_, _, e⟩ := State.consume_fields s n i c; rw [e]
@[simp] theorem State.consume_master (s : State) (n : Nat) (i : Issue) (c : Ctx) : (s.consume n i c).master = s.master := by
  obtain ⟨_, _, e⟩ := State.consume_fields s n i c; rw [e]; rfl
@[simp] theorem State.consume_localCount (s : State) (n : Nat) (i : Issue) (c : Ctx) : (s.consume n i c).localCount = s.localCount := by
  obtain ⟨_, _, e⟩ := State.consume_fields s n i c; rw [e]; rfl
@[simp] theorem State.consume_slot (s : State) (n : Nat) (i : Issue) (c : Ctx) : (s.consume n i c).slot = s.slot := by
  obtain ⟨_, _, e⟩ := State.consume_fields s n i c; rw [e]; rfl
@[simp] theorem State.consume_inactive (s : State) (n : Nat) (i : Issue) (c : Ctx) : (s.consume n i c).inactive = s.inactive := by
  obtain ⟨_, _, e⟩ := State.consume_fields s n i c; rw [e]; rfl
@[simp] theorem State.consume_fenced (s : State) (n : Nat) (i : Issue) (c : Ctx) : (s.consume n i c).fenced = s.fenced := by
  obtain ⟨_, _, e⟩ := State.consume_fields s n i c; rw [e]; rfl
@[simp] theorem State.consume_tileFenced (s : State) (n : Nat) (i : Issue) (c : Ctx) : (s.consume n i c).tileFenced = s.tileFenced := by
  obtain ⟨_, _, e⟩ := State.consume_fields s n i c; rw [e]; rfl
@[simp] theorem State.consume_unitExists (s : State) (n : Nat) (i : Issue) (c : Ctx) : (s.consume n i c).unitExists = s.unitExists := by
  obtain ⟨_, _, e⟩ := State.consume_fields s n i c; rw [e]; rfl
@[simp] theorem State.consume_param (s : State) (n : Nat) (i : Issue) (c : Ctx) : (s.consume n i c).param = s.param := by
  obtain ⟨_, _, e⟩ := State.consume_fields s n i c; rw [e]; rfl
@[simp] theorem State.consume_devP (s : State) (n : Nat) (i : Issue) (c : Ctx) : (s.consume n i c).devP = s.devP := by
  obtain ⟨_, _, e⟩ := State.consume_fields s n i c; rw [e]; rfl
@[simp] theorem State.consume_tileP (s : State) (n : Nat) (i : Issue) (c : Ctx) : (s.consume n i c).tileP = s.tileP := by
  obtain ⟨_, _, e⟩ := State.consume_fields s n i c; rw [e]; rfl
@[simp] theorem State.consume_ctr (s : State) (n : Nat) (i : Issue) (c : Ctx) : (s.consume n i c).ctr = s.ctr := by
  obtain ⟨_, _, e⟩ := State.consume_fields s n i c; rw [e]; rfl
@[simp] theorem State.consume_tl (s : State) (n : Nat) (i : Issue) (c : Ctx) : (s.consume n i c).tl = s.tl := by
  obtain ⟨_, _, e⟩ := State.consume_fields s n i c; rw [e]; rfl
@[simp] theorem State.consume_it (s : State) (n : Nat) (i : Issue) (c : Ctx) : (s.consume n i c).it = s.it := by
  obtain ⟨_, _, e⟩ := State.consume_fields s n i c; rw [e]; rfl
@[simp] theorem State.consume_ic (s : State) (n : Nat) (i : Issue) (c : Ctx) : (s.consume n i c).ic = s.ic := by
  obtain ⟨_, _, e⟩ := State.consume_fields s n i c; rw [e]; rfl
@[simp] theorem State.consume_chan (s : State) (n : Nat) (i : Issue) (c : Ctx) : (s.consume n i c).chan = s.chan := by
  obtain ⟨_, _, e⟩ := State.consume_fields s n i c; rw [e]; rfl
@[simp] theorem State.consume_dt (s : State) (n : Nat) (i : Issue) (c : Ctx) : (s.consume n i c).dt = s.dt := by
  obtain ⟨_, _, e⟩ := State.consume_fields s n i c; rw [e]; rfl
@[simp] theorem State.consume_mt (s : State) (n : Nat) (i : Issue) (c : Ctx) : (s.consume n i c).mt = s.mt := by
  obtain ⟨_, _, e⟩ := State.consume_fields s n i c; rw [e]; rfl
@[simp] theorem State.consume_tt (s : State) (n : Nat) (i : Issue) (c : Ctx) : (s.consume n i c).tt = s.tt := by
  obtain ⟨_, _, e⟩ := State.consume_fields s n i c; rw [e]; rfl
@[simp] theorem State.consume_th (s : State) (n : Nat) (i : Issue) (c : Ctx) : (s.consume n i c).th = s.th := by
  obtain ⟨_, _, e⟩ := State.consume_fields s n i c; rw [e]; rfl
@[simp] theorem State.consume_pt (s : State) (n : Nat) (i : Issue) (c : Ctx) : (s.consume n i c).pt = s.pt := by
  obtain ⟨_, _, e⟩ := State.consume_fields s n i c; rw [e]; rfl
@[simp] theorem State.consume_bar (s : State) (n : Nat) (i : Issue) (c : Ctx) : (s.consume n i c).bar = s.bar := by
  obtain ⟨_, _, e⟩ := State.consume_fields s n i c; rw [e]; rfl
@[simp] theorem State.consume_link (s : State) (n : Nat) (i : Issue) (c : Ctx) : (s.consume n i c).link = s.link := by
  obtain ⟨_, _, e⟩ := State.consume_fields s n i c; rw [e]; rfl
@[simp] theorem State.consume_keySlot (s : State) (n : Nat) (i : Issue) (c : Ctx) : (s.consume n i c).keySlot = s.keySlot := by
  obtain ⟨_, _, e⟩ := State.consume_fields s n i c; rw [e]; rfl
@[simp] theorem State.consume_fuseWord (s : State) (n : Nat) (i : Issue) (c : Ctx) : (s.consume n i c).fuseWord = s.fuseWord := by
  obtain ⟨_, _, e⟩ := State.consume_fields s n i c; rw [e]; rfl
@[simp] theorem State.consume_life (s : State) (n : Nat) (i : Issue) (c : Ctx) : (s.consume n i c).life = s.life := by
  obtain ⟨_, _, e⟩ := State.consume_fields s n i c; rw [e]; rfl
@[simp] theorem State.consume_arbCount (s : State) (n : Nat) (i : Issue) (c : Ctx) : (s.consume n i c).arbCount = s.arbCount := by
  obtain ⟨_, _, e⟩ := State.consume_fields s n i c; rw [e]; rfl
@[simp] theorem State.complete_pending (s : State) (n : Nat) (i : Issue) (st : Status) (r : Word) (l : List Word) (f : Bool) : (s.complete n i st r l f).pending = s.pending := by
  obtain ⟨_, _, _, _, _, e⟩ := (State.complete_only s n i st r l f).1.fields; rw [e]
@[simp] theorem State.complete_free (s : State) (n : Nat) (i : Issue) (st : Status) (r : Word) (l : List Word) (f : Bool) : (s.complete n i st r l f).free = s.free := by
  obtain ⟨_, _, _, _, _, e⟩ := (State.complete_only s n i st r l f).1.fields; rw [e]
@[simp] theorem State.complete_out (s : State) (n : Nat) (i : Issue) (st : Status) (r : Word) (l : List Word) (f : Bool) : (s.complete n i st r l f).out = s.out := by
  obtain ⟨_, _, _, _, _, e⟩ := (State.complete_only s n i st r l f).1.fields; rw [e]
@[simp] theorem State.complete_clock (s : State) (n : Nat) (i : Issue) (st : Status) (r : Word) (l : List Word) (f : Bool) : (s.complete n i st r l f).clock = s.clock := by
  obtain ⟨_, _, _, _, _, e⟩ := (State.complete_only s n i st r l f).1.fields; rw [e]
@[simp] theorem State.complete_part (s : State) (n : Nat) (i : Issue) (st : Status) (r : Word) (l : List Word) (f : Bool) : (s.complete n i st r l f).part = s.part := by
  obtain ⟨_, _, _, _, _, e⟩ := (State.complete_only s n i st r l f).1.fields; rw [e]
@[simp] theorem State.complete_time (s : State) (n : Nat) (i : Issue) (st : Status) (r : Word) (l : List Word) (f : Bool) : (s.complete n i st r l f).time = s.time := by
  obtain ⟨_, _, _, _, _, e⟩ := (State.complete_only s n i st r l f).1.fields; rw [e]
@[simp] theorem State.complete_mode (s : State) (n : Nat) (i : Issue) (st : Status) (r : Word) (l : List Word) (f : Bool) : (s.complete n i st r l f).mode = s.mode := by
  obtain ⟨_, _, _, _, _, e⟩ := (State.complete_only s n i st r l f).1.fields; rw [e]
@[simp] theorem State.complete_boot (s : State) (n : Nat) (i : Issue) (st : Status) (r : Word) (l : List Word) (f : Bool) : (s.complete n i st r l f).boot = s.boot := by
  obtain ⟨_, _, _, _, _, e⟩ := (State.complete_only s n i st r l f).1.fields; rw [e]
@[simp] theorem State.complete_pwr (s : State) (n : Nat) (i : Issue) (st : Status) (r : Word) (l : List Word) (f : Bool) : (s.complete n i st r l f).pwr = s.pwr := by
  obtain ⟨_, _, _, _, _, e⟩ := (State.complete_only s n i st r l f).1.fields; rw [e]
@[simp] theorem State.complete_dram (s : State) (n : Nat) (i : Issue) (st : Status) (r : Word) (l : List Word) (f : Bool) : (s.complete n i st r l f).dram = s.dram := by
  obtain ⟨_, _, _, _, _, e⟩ := (State.complete_only s n i st r l f).1.fields; rw [e]
@[simp] theorem State.complete_set (s : State) (n : Nat) (i : Issue) (st : Status) (r : Word) (l : List Word) (f : Bool) : (s.complete n i st r l f).set = s.set := by
  obtain ⟨_, _, _, _, _, e⟩ := (State.complete_only s n i st r l f).1.fields; rw [e]
@[simp] theorem State.complete_tides (s : State) (n : Nat) (i : Issue) (st : Status) (r : Word) (l : List Word) (f : Bool) : (s.complete n i st r l f).tides = s.tides := by
  obtain ⟨_, _, _, _, _, e⟩ := (State.complete_only s n i st r l f).1.fields; rw [e]
@[simp] theorem State.complete_twinTides (s : State) (n : Nat) (i : Issue) (st : Status) (r : Word) (l : List Word) (f : Bool) : (s.complete n i st r l f).twinTides = s.twinTides := by
  obtain ⟨_, _, _, _, _, e⟩ := (State.complete_only s n i st r l f).1.fields; rw [e]
@[simp] theorem State.complete_tideCount (s : State) (n : Nat) (i : Issue) (st : Status) (r : Word) (l : List Word) (f : Bool) : (s.complete n i st r l f).tideCount = s.tideCount := by
  obtain ⟨_, _, _, _, _, e⟩ := (State.complete_only s n i st r l f).1.fields; rw [e]
@[simp] theorem State.complete_fences (s : State) (n : Nat) (i : Issue) (st : Status) (r : Word) (l : List Word) (f : Bool) : (s.complete n i st r l f).fences = s.fences := by
  obtain ⟨_, _, _, _, _, e⟩ := (State.complete_only s n i st r l f).1.fields; rw [e]
@[simp] theorem State.complete_tide (s : State) (n : Nat) (i : Issue) (st : Status) (r : Word) (l : List Word) (f : Bool) : (s.complete n i st r l f).tide = s.tide := by
  obtain ⟨_, _, _, _, _, e⟩ := (State.complete_only s n i st r l f).1.fields; rw [e]
@[simp] theorem State.complete_save (s : State) (n : Nat) (i : Issue) (st : Status) (r : Word) (l : List Word) (f : Bool) : (s.complete n i st r l f).save = s.save := by
  obtain ⟨_, _, _, _, _, e⟩ := (State.complete_only s n i st r l f).1.fields; rw [e]
@[simp] theorem State.complete_fuse (s : State) (n : Nat) (i : Issue) (st : Status) (r : Word) (l : List Word) (f : Bool) : (s.complete n i st r l f).fuse = s.fuse := by
  obtain ⟨_, _, _, _, _, e⟩ := (State.complete_only s n i st r l f).1.fields; rw [e]
@[simp] theorem State.complete_fw (s : State) (n : Nat) (i : Issue) (st : Status) (r : Word) (l : List Word) (f : Bool) : (s.complete n i st r l f).fw = s.fw := by
  obtain ⟨_, _, _, _, _, e⟩ := (State.complete_only s n i st r l f).1.fields; rw [e]
@[simp] theorem State.complete_ich (s : State) (n : Nat) (i : Issue) (st : Status) (r : Word) (l : List Word) (f : Bool) : (s.complete n i st r l f).ich = s.ich := by
  obtain ⟨_, _, _, _, _, e⟩ := (State.complete_only s n i st r l f).1.fields; rw [e]
@[simp] theorem State.complete_itile (s : State) (n : Nat) (i : Issue) (st : Status) (r : Word) (l : List Word) (f : Bool) : (s.complete n i st r l f).itile = s.itile := by
  obtain ⟨_, _, _, _, _, e⟩ := (State.complete_only s n i st r l f).1.fields; rw [e]
@[simp] theorem State.complete_links (s : State) (n : Nat) (i : Issue) (st : Status) (r : Word) (l : List Word) (f : Bool) : (s.complete n i st r l f).links = s.links := by
  obtain ⟨_, _, _, _, _, e⟩ := (State.complete_only s n i st r l f).1.fields; rw [e]
@[simp] theorem State.complete_bars (s : State) (n : Nat) (i : Issue) (st : Status) (r : Word) (l : List Word) (f : Bool) : (s.complete n i st r l f).bars = s.bars := by
  obtain ⟨_, _, _, _, _, e⟩ := (State.complete_only s n i st r l f).1.fields; rw [e]
@[simp] theorem State.complete_binds (s : State) (n : Nat) (i : Issue) (st : Status) (r : Word) (l : List Word) (f : Bool) : (s.complete n i st r l f).binds = s.binds := by
  obtain ⟨_, _, _, _, _, e⟩ := (State.complete_only s n i st r l f).1.fields; rw [e]
@[simp] theorem State.complete_home (s : State) (n : Nat) (i : Issue) (st : Status) (r : Word) (l : List Word) (f : Bool) : (s.complete n i st r l f).home = s.home := by
  obtain ⟨_, _, _, _, _, e⟩ := (State.complete_only s n i st r l f).1.fields; rw [e]
@[simp] theorem State.complete_eaves (s : State) (n : Nat) (i : Issue) (st : Status) (r : Word) (l : List Word) (f : Bool) : (s.complete n i st r l f).eaves = s.eaves := by
  obtain ⟨_, _, _, _, _, e⟩ := (State.complete_only s n i st r l f).1.fields; rw [e]
@[simp] theorem State.complete_plru (s : State) (n : Nat) (i : Issue) (st : Status) (r : Word) (l : List Word) (f : Bool) : (s.complete n i st r l f).plru = s.plru := by
  obtain ⟨_, _, _, _, _, e⟩ := (State.complete_only s n i st r l f).1.fields; rw [e]
@[simp] theorem State.complete_paths (s : State) (n : Nat) (i : Issue) (st : Status) (r : Word) (l : List Word) (f : Bool) : (s.complete n i st r l f).paths = s.paths := by
  obtain ⟨_, _, _, _, _, e⟩ := (State.complete_only s n i st r l f).1.fields; rw [e]
@[simp] theorem State.complete_wq (s : State) (n : Nat) (i : Issue) (st : Status) (r : Word) (l : List Word) (f : Bool) : (s.complete n i st r l f).wq = s.wq := by
  obtain ⟨_, _, _, _, _, e⟩ := (State.complete_only s n i st r l f).1.fields; rw [e]
@[simp] theorem State.complete_rq (s : State) (n : Nat) (i : Issue) (st : Status) (r : Word) (l : List Word) (f : Bool) : (s.complete n i st r l f).rq = s.rq := by
  obtain ⟨_, _, _, _, _, e⟩ := (State.complete_only s n i st r l f).1.fields; rw [e]
@[simp] theorem State.complete_waits (s : State) (n : Nat) (i : Issue) (st : Status) (r : Word) (l : List Word) (f : Bool) : (s.complete n i st r l f).waits = s.waits := by
  obtain ⟨_, _, _, _, _, e⟩ := (State.complete_only s n i st r l f).1.fields; rw [e]
@[simp] theorem State.complete_unacked (s : State) (n : Nat) (i : Issue) (st : Status) (r : Word) (l : List Word) (f : Bool) : (s.complete n i st r l f).unacked = s.unacked := by
  obtain ⟨_, _, _, _, _, e⟩ := (State.complete_only s n i st r l f).1.fields; rw [e]
@[simp] theorem State.complete_groups (s : State) (n : Nat) (i : Issue) (st : Status) (r : Word) (l : List Word) (f : Bool) : (s.complete n i st r l f).groups = s.groups := by
  obtain ⟨_, _, _, _, _, e⟩ := (State.complete_only s n i st r l f).1.fields; rw [e]
@[simp] theorem State.complete_chans (s : State) (n : Nat) (i : Issue) (st : Status) (r : Word) (l : List Word) (f : Bool) : (s.complete n i st r l f).chans = s.chans := by
  obtain ⟨_, _, _, _, _, e⟩ := (State.complete_only s n i st r l f).1.fields; rw [e]
@[simp] theorem State.complete_dtiles (s : State) (n : Nat) (i : Issue) (st : Status) (r : Word) (l : List Word) (f : Bool) : (s.complete n i st r l f).dtiles = s.dtiles := by
  obtain ⟨_, _, _, _, _, e⟩ := (State.complete_only s n i st r l f).1.fields; rw [e]
@[simp] theorem State.complete_poisoned (s : State) (n : Nat) (i : Issue) (st : Status) (r : Word) (l : List Word) (f : Bool) : (s.complete n i st r l f).poisoned = s.poisoned := by
  obtain ⟨_, _, _, _, _, e⟩ := (State.complete_only s n i st r l f).1.fields; rw [e]
@[simp] theorem State.complete_thatch (s : State) (n : Nat) (i : Issue) (st : Status) (r : Word) (l : List Word) (f : Bool) : (s.complete n i st r l f).thatch = s.thatch := by
  obtain ⟨_, _, _, _, _, e⟩ := (State.complete_only s n i st r l f).1.fields; rw [e]
@[simp] theorem State.complete_mirr (s : State) (n : Nat) (i : Issue) (st : Status) (r : Word) (l : List Word) (f : Bool) : (s.complete n i st r l f).mirr = s.mirr := by
  obtain ⟨_, _, _, _, _, e⟩ := (State.complete_only s n i st r l f).1.fields; rw [e]
@[simp] theorem State.complete_lease (s : State) (n : Nat) (i : Issue) (st : Status) (r : Word) (l : List Word) (f : Bool) : (s.complete n i st r l f).lease = s.lease := by
  obtain ⟨_, _, _, _, _, e⟩ := (State.complete_only s n i st r l f).1.fields; rw [e]
@[simp] theorem State.complete_wit (s : State) (n : Nat) (i : Issue) (st : Status) (r : Word) (l : List Word) (f : Bool) : (s.complete n i st r l f).wit = s.wit := by
  obtain ⟨_, _, _, _, _, e⟩ := (State.complete_only s n i st r l f).1.fields; rw [e]
@[simp] theorem State.complete_tiers (s : State) (n : Nat) (i : Issue) (st : Status) (r : Word) (l : List Word) (f : Bool) : (s.complete n i st r l f).tiers = s.tiers := by
  obtain ⟨_, _, _, _, _, e⟩ := (State.complete_only s n i st r l f).1.fields; rw [e]
@[simp] theorem State.complete_keys (s : State) (n : Nat) (i : Issue) (st : Status) (r : Word) (l : List Word) (f : Bool) : (s.complete n i st r l f).keys = s.keys := by
  obtain ⟨_, _, _, _, _, e⟩ := (State.complete_only s n i st r l f).1.fields; rw [e]
@[simp] theorem State.complete_sealedKeys (s : State) (n : Nat) (i : Issue) (st : Status) (r : Word) (l : List Word) (f : Bool) : (s.complete n i st r l f).sealedKeys = s.sealedKeys := by
  obtain ⟨_, _, _, _, _, e⟩ := (State.complete_only s n i st r l f).1.fields; rw [e]
@[simp] theorem State.complete_nonces (s : State) (n : Nat) (i : Issue) (st : Status) (r : Word) (l : List Word) (f : Bool) : (s.complete n i st r l f).nonces = s.nonces := by
  obtain ⟨_, _, _, _, _, e⟩ := (State.complete_only s n i st r l f).1.fields; rw [e]
@[simp] theorem State.complete_imgKey (s : State) (n : Nat) (i : Issue) (st : Status) (r : Word) (l : List Word) (f : Bool) : (s.complete n i st r l f).imgKey = s.imgKey := by
  obtain ⟨_, _, _, _, _, e⟩ := (State.complete_only s n i st r l f).1.fields; rw [e]
@[simp] theorem State.complete_progs (s : State) (n : Nat) (i : Issue) (st : Status) (r : Word) (l : List Word) (f : Bool) : (s.complete n i st r l f).progs = s.progs := by
  obtain ⟨_, _, _, _, _, e⟩ := (State.complete_only s n i st r l f).1.fields; rw [e]
@[simp] theorem State.complete_tap (s : State) (n : Nat) (i : Issue) (st : Status) (r : Word) (l : List Word) (f : Bool) : (s.complete n i st r l f).tap = s.tap := by
  obtain ⟨_, _, _, _, _, e⟩ := (State.complete_only s n i st r l f).1.fields; rw [e]
@[simp] theorem State.complete_mgmt (s : State) (n : Nat) (i : Issue) (st : Status) (r : Word) (l : List Word) (f : Bool) : (s.complete n i st r l f).mgmt = s.mgmt := by
  obtain ⟨_, _, _, _, _, e⟩ := (State.complete_only s n i st r l f).1.fields; rw [e]
@[simp] theorem State.complete_master (s : State) (n : Nat) (i : Issue) (st : Status) (r : Word) (l : List Word) (f : Bool) : (s.complete n i st r l f).master = s.master := by
  obtain ⟨_, _, _, _, _, e⟩ := (State.complete_only s n i st r l f).1.fields; rw [e]; rfl
@[simp] theorem State.complete_localCount (s : State) (n : Nat) (i : Issue) (st : Status) (r : Word) (l : List Word) (f : Bool) : (s.complete n i st r l f).localCount = s.localCount := by
  obtain ⟨_, _, _, _, _, e⟩ := (State.complete_only s n i st r l f).1.fields; rw [e]; rfl
@[simp] theorem State.complete_slot (s : State) (n : Nat) (i : Issue) (st : Status) (r : Word) (l : List Word) (f : Bool) : (s.complete n i st r l f).slot = s.slot := by
  obtain ⟨_, _, _, _, _, e⟩ := (State.complete_only s n i st r l f).1.fields; rw [e]; rfl
@[simp] theorem State.complete_inactive (s : State) (n : Nat) (i : Issue) (st : Status) (r : Word) (l : List Word) (f : Bool) : (s.complete n i st r l f).inactive = s.inactive := by
  obtain ⟨_, _, _, _, _, e⟩ := (State.complete_only s n i st r l f).1.fields; rw [e]; rfl
@[simp] theorem State.complete_fenced (s : State) (n : Nat) (i : Issue) (st : Status) (r : Word) (l : List Word) (f : Bool) : (s.complete n i st r l f).fenced = s.fenced := by
  obtain ⟨_, _, _, _, _, e⟩ := (State.complete_only s n i st r l f).1.fields; rw [e]; rfl
@[simp] theorem State.complete_tileFenced (s : State) (n : Nat) (i : Issue) (st : Status) (r : Word) (l : List Word) (f : Bool) : (s.complete n i st r l f).tileFenced = s.tileFenced := by
  obtain ⟨_, _, _, _, _, e⟩ := (State.complete_only s n i st r l f).1.fields; rw [e]; rfl
@[simp] theorem State.complete_unitExists (s : State) (n : Nat) (i : Issue) (st : Status) (r : Word) (l : List Word) (f : Bool) : (s.complete n i st r l f).unitExists = s.unitExists := by
  obtain ⟨_, _, _, _, _, e⟩ := (State.complete_only s n i st r l f).1.fields; rw [e]; rfl
@[simp] theorem State.complete_tl (s : State) (n : Nat) (i : Issue) (st : Status) (r : Word) (l : List Word) (f : Bool) : (s.complete n i st r l f).tl = s.tl := by
  obtain ⟨_, _, _, _, _, e⟩ := (State.complete_only s n i st r l f).1.fields; rw [e]; rfl
@[simp] theorem State.complete_it (s : State) (n : Nat) (i : Issue) (st : Status) (r : Word) (l : List Word) (f : Bool) : (s.complete n i st r l f).it = s.it := by
  obtain ⟨_, _, _, _, _, e⟩ := (State.complete_only s n i st r l f).1.fields; rw [e]; rfl
@[simp] theorem State.complete_ic (s : State) (n : Nat) (i : Issue) (st : Status) (r : Word) (l : List Word) (f : Bool) : (s.complete n i st r l f).ic = s.ic := by
  obtain ⟨_, _, _, _, _, e⟩ := (State.complete_only s n i st r l f).1.fields; rw [e]; rfl
@[simp] theorem State.complete_chan (s : State) (n : Nat) (i : Issue) (st : Status) (r : Word) (l : List Word) (f : Bool) : (s.complete n i st r l f).chan = s.chan := by
  obtain ⟨_, _, _, _, _, e⟩ := (State.complete_only s n i st r l f).1.fields; rw [e]; rfl
@[simp] theorem State.complete_dt (s : State) (n : Nat) (i : Issue) (st : Status) (r : Word) (l : List Word) (f : Bool) : (s.complete n i st r l f).dt = s.dt := by
  obtain ⟨_, _, _, _, _, e⟩ := (State.complete_only s n i st r l f).1.fields; rw [e]; rfl
@[simp] theorem State.complete_mt (s : State) (n : Nat) (i : Issue) (st : Status) (r : Word) (l : List Word) (f : Bool) : (s.complete n i st r l f).mt = s.mt := by
  obtain ⟨_, _, _, _, _, e⟩ := (State.complete_only s n i st r l f).1.fields; rw [e]; rfl
@[simp] theorem State.complete_tt (s : State) (n : Nat) (i : Issue) (st : Status) (r : Word) (l : List Word) (f : Bool) : (s.complete n i st r l f).tt = s.tt := by
  obtain ⟨_, _, _, _, _, e⟩ := (State.complete_only s n i st r l f).1.fields; rw [e]; rfl
@[simp] theorem State.complete_th (s : State) (n : Nat) (i : Issue) (st : Status) (r : Word) (l : List Word) (f : Bool) : (s.complete n i st r l f).th = s.th := by
  obtain ⟨_, _, _, _, _, e⟩ := (State.complete_only s n i st r l f).1.fields; rw [e]; rfl
@[simp] theorem State.complete_pt (s : State) (n : Nat) (i : Issue) (st : Status) (r : Word) (l : List Word) (f : Bool) : (s.complete n i st r l f).pt = s.pt := by
  obtain ⟨_, _, _, _, _, e⟩ := (State.complete_only s n i st r l f).1.fields; rw [e]; rfl
@[simp] theorem State.complete_bar (s : State) (n : Nat) (i : Issue) (st : Status) (r : Word) (l : List Word) (f : Bool) : (s.complete n i st r l f).bar = s.bar := by
  obtain ⟨_, _, _, _, _, e⟩ := (State.complete_only s n i st r l f).1.fields; rw [e]; rfl
@[simp] theorem State.complete_link (s : State) (n : Nat) (i : Issue) (st : Status) (r : Word) (l : List Word) (f : Bool) : (s.complete n i st r l f).link = s.link := by
  obtain ⟨_, _, _, _, _, e⟩ := (State.complete_only s n i st r l f).1.fields; rw [e]; rfl
@[simp] theorem State.complete_keySlot (s : State) (n : Nat) (i : Issue) (st : Status) (r : Word) (l : List Word) (f : Bool) : (s.complete n i st r l f).keySlot = s.keySlot := by
  obtain ⟨_, _, _, _, _, e⟩ := (State.complete_only s n i st r l f).1.fields; rw [e]; rfl
@[simp] theorem State.complete_fuseWord (s : State) (n : Nat) (i : Issue) (st : Status) (r : Word) (l : List Word) (f : Bool) : (s.complete n i st r l f).fuseWord = s.fuseWord := by
  obtain ⟨_, _, _, _, _, e⟩ := (State.complete_only s n i st r l f).1.fields; rw [e]; rfl
@[simp] theorem State.complete_life (s : State) (n : Nat) (i : Issue) (st : Status) (r : Word) (l : List Word) (f : Bool) : (s.complete n i st r l f).life = s.life := by
  obtain ⟨_, _, _, _, _, e⟩ := (State.complete_only s n i st r l f).1.fields; rw [e]; rfl
@[simp] theorem State.complete_arbCount (s : State) (n : Nat) (i : Issue) (st : Status) (r : Word) (l : List Word) (f : Bool) : (s.complete n i st r l f).arbCount = s.arbCount := by
  obtain ⟨_, _, _, _, _, e⟩ := (State.complete_only s n i st r l f).1.fields; rw [e]; rfl

/-- The context that an instruction reads has its registers, its tile and its note of a lost set as before it was consumed. -/
theorem Ready.ctx_dropped {s : State} (n : Nat) (i : Issue) (c : Ctx) :
    ((s.consume n i c).ctx n).dropped = c.dropped := by rw [State.consume_ctx]
theorem Ready.ctx_reg {s : State} (n : Nat) (i : Issue) (c : Ctx) (k : Nat) :
    ((s.consume n i c).ctx n).reg k = c.reg k := by rw [State.consume_ctx]; rfl
theorem Ready.ctx_opA {s : State} (n : Nat) (i : Issue) (c : Ctx) (w : Word) :
    ((s.consume n i c).ctx n).opA w = c.opA w := Ready.ctx_reg n i c _
theorem Ready.ctx_tile {s : State} {n op : Nat} {i : Issue} {c : Ctx} (h : Ready s n op i c) :
    ((s.consume n i c).ctx n).tile = (s.ctx n).tile := by rw [State.consume_ctx]; exact (State.readNext_keeps_regs h.2.1).2.2.1

/-- A field of a word is below the power of its width. -/
theorem fld_lt (w : Word) (hi lo : Nat) : fld w hi lo < 2 ^ (hi + 1 - lo) := by
  unfold fld; exact Nat.mod_lt _ (by positivity)

end Sys2Proof.Machine
end

