-- ==== Sys2Proof/Laws/Keeps.lean ====
section
/-! SUPPORT. What every command keeps: DRAM stays in canonical form, the queue of commands and the part stay as they are, time and the use
of free values never go back, and a fuse word that has been programmed stays so. -/

namespace Sys2Proof.Machine

theorem mem_insertNat {a n : Nat} {l : List Nat} : a ∈ insertNat n l ↔ a = n ∨ a ∈ l := by
  induction l with
  | nil => simp [insertNat]
  | cons b r ih =>
    unfold insertNat
    repeat' split
    all_goals simp_all only [List.mem_cons]
    all_goals tauto

/-- What holds between the state before any operation of the model and the state after it. -/
structure Keeps (s t : State) : Prop where
  dram : Memory.wf s.dram = true → Memory.wf t.dram = true
  pending : t.pending = s.pending
  part : t.part = s.part
  clock : s.clock ≤ t.clock
  free : s.free ≤ t.free
  fuses : ∀ w ∈ s.fuse.progd, w ∈ t.fuse.progd

theorem Keeps.refl (s : State) : Keeps s s := ⟨id, rfl, rfl, Nat.le_refl _, Nat.le_refl _, fun _ h => h⟩

theorem Keeps.trans {s t u : State} (a : Keeps s t) (b : Keeps t u) : Keeps s u :=
  ⟨b.dram ∘ a.dram, b.pending.trans a.pending, b.part.trans a.part, Nat.le_trans a.clock b.clock, Nat.le_trans a.free b.free,
    fun w h => b.fuses w (a.fuses w h)⟩

/-- A command answers a next state that keeps what every operation keeps. -/
def KeepsRun (s : State) : Run → Prop
  | .next t => Keeps s t
  | _ => False

theorem KeepsRun.next {s t : State} (h : Keeps s t) : KeepsRun s (.next t) := h
theorem KeepsRun.answers {s : State} {o : Run} (h : KeepsRun s o) : ∃ t, o = .next t ∧ Keeps s t := by
  cases o with
  | next t => exact ⟨t, rfl, h⟩
  | fault f => exact h.elim
  | refused r => exact h.elim

theorem Keeps.cut {s0 x t : State} (a : Keeps s0 x) (b : Keeps s0 x → Keeps s0 t) : Keeps s0 t := b a

theorem Keeps.foldl {β : Type} {s0 s : State} {f : State → β → State} {l : List β} (hf : ∀ s b, Keeps s0 s → Keeps s0 (f s b)) (h : Keeps s0 s) :
    Keeps s0 (l.foldl f s) := by
  induction l generalizing s with
  | nil => exact h
  | cons b r ih => exact ih (hf _ _ h)

theorem Keeps.foldr {β : Type} {s0 s : State} {f : β → State → State} {l : List β} (hf : ∀ b s, Keeps s0 s → Keeps s0 (f b s)) (h : Keeps s0 s) :
    Keeps s0 (l.foldr f s) := by
  induction l with
  | nil => exact h
  | cons b r ih => exact hf _ _ ih

theorem Keeps.foldlFst {α β : Type} {s0 : State} {p : State × α} {f : State × α → β → State × α} {l : List β}
    (hf : ∀ p b, Keeps s0 p.1 → Keeps s0 (f p b).1) (h : Keeps s0 p.1) : Keeps s0 (l.foldl f p).1 := by
  induction l generalizing p with
  | nil => exact h
  | cons b r ih => exact ih (hf _ _ h)

theorem Keeps.foldlSnd {α β : Type} {s0 : State} {p : α × State} {f : α × State → β → α × State} {l : List β}
    (hf : ∀ p b, Keeps s0 p.2 → Keeps s0 (f p b).2) (h : Keeps s0 p.2) : Keeps s0 (l.foldl f p).2 := by
  induction l generalizing p with
  | nil => exact h
  | cons b r ih => exact ih (hf _ _ h)

theorem Keeps.ite {s0 a b : State} {c : Prop} [Decidable c] (ha : Keeps s0 a) (hb : Keeps s0 b) : Keeps s0 (if c then a else b) := by
  split <;> assumption

theorem Keeps.getD {s0 d : State} {o : Option State} (a : ∀ t, o = some t → Keeps s0 t) (b : Keeps s0 d) : Keeps s0 (o.getD d) := by
  cases o with
  | none => exact b
  | some t => exact a t rfl

theorem Keeps.snd {α : Type} {a : α} {s0 s : State} (h : Keeps s0 s) : Keeps s0 (a, s).2 := h
theorem Keeps.fst {α : Type} {a : α} {s0 s : State} (h : Keeps s0 s) : Keeps s0 (s, a).1 := h
theorem Keeps.ofSnd {α : Type} {a : α} {p : α × State} {s0 t : State} (h : Keeps s0 p.2) (e : p = (a, t)) : Keeps s0 t := by rw [e] at h; exact h
theorem Keeps.ofFst {α : Type} {a : α} {p : State × α} {s0 t : State} (h : Keeps s0 p.1) (e : p = (t, a)) : Keeps s0 t := by rw [e] at h; exact h

/-- A state made from another by an update of its fields. -/
theorem Keeps.lit {s0 e : State}
    {n : Nat} {v_out : List Output} {c : Nat} {v_time : TimeS}
    {v_mode : ModeS} {v_boot : BootS} {v_pwr : PwrS} {v_recd : RecS}
    {v_pmc : PmcS} {v_params : Store Word} {v_set : SetS} {v_tides : List Tide}
    {v_twinTides : List Tide} {v_tideCount : Nat} {v_ctxs : Store Ctx} {v_fences : FenceS}
    {v_tide : Store TideTile} {v_save : SaveS} {z : FuseS} {v_fw : FwS}
    {v_ich : Store IntCh} {v_itile : Store IntTile} {v_links : Store Link} {v_bars : Store Bar}
    {v_sessions : Store Sess} {v_binds : List Bind} {v_home : Store Word} {v_eaves : Store EvLine}
    {v_plru : Store Nat} {v_paths : Store PathTile} {v_wq : Store (List WqEnt)} {v_rq : Store (List RqEnt)}
    {v_waits : List Wait} {v_unacked : List Unack} {v_groups : List Group} {v_chans : Store Chan}
    {v_dtiles : Store DramTile} {v_poisoned : List Nat} {v_thatch : Store ThTile} {v_mirr : Store MirTile}
    {v_lease : LeaseS} {v_wit : Store Witness} {v_tiers : Store TierTile} {v_keys : Store KeySlot}
    {v_sealedKeys : Store KeySlot} {v_nonces : Store Nat} {v_imgKey : Store Nat} {v_progs : Store Word}
    {v_tap : TapS} {v_mgmt : MgmtS}
    (h : Keeps s0 e) (hc : e.clock ≤ c) (hn : e.free ≤ n) (hz : ∀ w ∈ e.fuse.progd, w ∈ z.progd) :
    Keeps s0 { e with
      free := n, out := v_out, clock := c, time := v_time, mode := v_mode, boot := v_boot,
      pwr := v_pwr, recd := v_recd, pmc := v_pmc, params := v_params, set := v_set, tides := v_tides,
      twinTides := v_twinTides, tideCount := v_tideCount, ctxs := v_ctxs, fences := v_fences, tide := v_tide, save := v_save,
      fuse := z, fw := v_fw, ich := v_ich, itile := v_itile, links := v_links, bars := v_bars,
      sessions := v_sessions, binds := v_binds, home := v_home, eaves := v_eaves, plru := v_plru, paths := v_paths,
      wq := v_wq, rq := v_rq, waits := v_waits, unacked := v_unacked, groups := v_groups, chans := v_chans,
      dtiles := v_dtiles, poisoned := v_poisoned, thatch := v_thatch, mirr := v_mirr, lease := v_lease, wit := v_wit,
      tiers := v_tiers, keys := v_keys, sealedKeys := v_sealedKeys, nonces := v_nonces, imgKey := v_imgKey, progs := v_progs,
      tap := v_tap, mgmt := v_mgmt } :=
  h.trans ⟨id, rfl, rfl, hc, hn, hz⟩

end Sys2Proof.Machine
end

