-- ==== Sys2Proof/Laws/KeepsParams.lean ====
section
/-! SUPPORT. What the operations of Machine/Params.lean keep. -/

namespace Sys2Proof.Machine

theorem State.setParam_keeps {s0 : State} {s : State} {id : Nat} {sess : Nat} {w : Word} (hk : Keeps s0 s) :
    Keeps s0 (State.setParam s id sess w) := by
  unfold State.setParam
  repeat' first
    | with_reducible assumption
    | with_reducible exact Keeps.refl _
    | fail_if_no_progress (with_reducible refine Keeps.lit ?_ (by first | exact Nat.le_refl _ | omega) (by first | exact Nat.le_refl _ | omega) (fun w hw => hw))

theorem State.countP_keeps {s0 : State} {s : State} {id : Nat} {sess : Nat} (hk : Keeps s0 s) :
    Keeps s0 (State.countP s id sess) := by
  unfold State.countP
  repeat' first
    | with_reducible assumption
    | with_reducible exact Keeps.refl _
    | with_reducible apply State.setParam_keeps

end Sys2Proof.Machine
end

