-- ==== Sys2Proof/Laws/KeepsOps.lean ====
section
/-! SUPPORT. What the operations of Machine/Ops.lean keep. -/

namespace Sys2Proof.Machine

theorem State.emit_keeps {s0 : State} {s : State} {o : Output} (hk : Keeps s0 s) :
    Keeps s0 (State.emit s o) := by
  unfold State.emit
  repeat' first
    | with_reducible assumption
    | with_reducible exact Keeps.refl _
    | fail_if_no_progress (with_reducible refine Keeps.lit ?_ (by first | exact Nat.le_refl _ | omega) (by first | exact Nat.le_refl _ | omega) (fun w hw => hw))

theorem State.emits_keeps {s0 : State} {s : State} {os : List Output} (hk : Keeps s0 s) :
    Keeps s0 (State.emits s os) := by
  unfold State.emits
  repeat' first
    | with_reducible assumption
    | (intro _; try beta_reduce)
    | with_reducible exact Keeps.refl _
    | with_reducible apply State.emit_keeps
    | with_reducible apply Keeps.foldl

theorem State.drawWord_keeps {s0 : State} {s : State} (hk : Keeps s0 s) :
    Keeps s0 (State.drawWord s).2 := by
  unfold State.drawWord
  repeat' first
    | with_reducible assumption
    | with_reducible exact Keeps.refl _
    | fail_if_no_progress (with_reducible refine Keeps.lit ?_ (by first | exact Nat.le_refl _ | omega) (by first | exact Nat.le_refl _ | omega) (fun w hw => hw))

theorem State.setTl_keeps {s0 : State} {s : State} {t : Nat} {x : TideTile} (hk : Keeps s0 s) :
    Keeps s0 (State.setTl s t x) := by
  unfold State.setTl
  repeat' first
    | with_reducible assumption
    | with_reducible exact Keeps.refl _
    | fail_if_no_progress (with_reducible refine Keeps.lit ?_ (by first | exact Nat.le_refl _ | omega) (by first | exact Nat.le_refl _ | omega) (fun w hw => hw))

theorem State.setRt_keeps {s0 : State} {s : State} {t : Nat} {x : RecTile} (hk : Keeps s0 s) :
    Keeps s0 (State.setRt s t x) := by
  unfold State.setRt
  repeat' first
    | with_reducible assumption
    | with_reducible exact Keeps.refl _
    | (extract_lets +onlyGivenNames x; refine Keeps.cut (x := x) ?_ ?_; (on_goal 2 => intro _; clear_value x); (on_goal 1 => subst x))
    | (extract_lets +onlyGivenNames x; clear_value x)
    | fail_if_no_progress (with_reducible refine Keeps.lit ?_ (by first | exact Nat.le_refl _ | omega) (by first | exact Nat.le_refl _ | omega) (fun w hw => hw))

theorem State.setIt_keeps {s0 : State} {s : State} {t : Nat} {x : IntTile} (hk : Keeps s0 s) :
    Keeps s0 (State.setIt s t x) := by
  unfold State.setIt
  repeat' first
    | with_reducible assumption
    | with_reducible exact Keeps.refl _
    | fail_if_no_progress (with_reducible refine Keeps.lit ?_ (by first | exact Nat.le_refl _ | omega) (by first | exact Nat.le_refl _ | omega) (fun w hw => hw))

theorem State.setIc_keeps {s0 : State} {s : State} {t : Nat} {c : Nat} {x : IntCh} (hk : Keeps s0 s) :
    Keeps s0 (State.setIc s t c x) := by
  unfold State.setIc
  repeat' first
    | with_reducible assumption
    | with_reducible exact Keeps.refl _
    | fail_if_no_progress (with_reducible refine Keeps.lit ?_ (by first | exact Nat.le_refl _ | omega) (by first | exact Nat.le_refl _ | omega) (fun w hw => hw))

theorem State.setCtx_keeps {s0 : State} {s : State} {c : Nat} {x : Ctx} (hk : Keeps s0 s) :
    Keeps s0 (State.setCtx s c x) := by
  unfold State.setCtx
  repeat' first
    | with_reducible assumption
    | with_reducible exact Keeps.refl _
    | fail_if_no_progress (with_reducible refine Keeps.lit ?_ (by first | exact Nat.le_refl _ | omega) (by first | exact Nat.le_refl _ | omega) (fun w hw => hw))

theorem State.failedAt_keeps {s0 : State} {s : State} {step : Nat} (hk : Keeps s0 s) :
    Keeps s0 (State.failedAt s step) := by
  unfold State.failedAt
  repeat' first
    | with_reducible assumption
    | with_reducible exact Keeps.refl _
    | (extract_lets +onlyGivenNames x; refine Keeps.cut (x := x) ?_ ?_; (on_goal 2 => intro _; clear_value x); (on_goal 1 => subst x))
    | (extract_lets +onlyGivenNames x; clear_value x)
    | fail_if_no_progress (with_reducible refine Keeps.lit ?_ (by first | exact Nat.le_refl _ | omega) (by first | exact Nat.le_refl _ | omega) (fun w hw => hw))

theorem State.setSess_keeps {s0 : State} {s : State} {n : Nat} {x : Sess} (hk : Keeps s0 s) :
    Keeps s0 (State.setSess s n x) := by
  unfold State.setSess
  repeat' first
    | with_reducible assumption
    | with_reducible exact Keeps.refl _
    | fail_if_no_progress (with_reducible refine Keeps.lit ?_ (by first | exact Nat.le_refl _ | omega) (by first | exact Nat.le_refl _ | omega) (fun w hw => hw))

theorem State.setLink_keeps {s0 : State} {s : State} {t : Nat} {k : Nat} {x : Link} (hk : Keeps s0 s) :
    Keeps s0 (State.setLink s t k x) := by
  unfold State.setLink
  repeat' first
    | with_reducible assumption
    | with_reducible exact Keeps.refl _
    | fail_if_no_progress (with_reducible refine Keeps.lit ?_ (by first | exact Nat.le_refl _ | omega) (by first | exact Nat.le_refl _ | omega) (fun w hw => hw))

theorem State.setBar_keeps {s0 : State} {s : State} {t : Nat} {d : Nat} {x : Bar} (hk : Keeps s0 s) :
    Keeps s0 (State.setBar s t d x) := by
  unfold State.setBar
  repeat' first
    | with_reducible assumption
    | with_reducible exact Keeps.refl _
    | fail_if_no_progress (with_reducible refine Keeps.lit ?_ (by first | exact Nat.le_refl _ | omega) (by first | exact Nat.le_refl _ | omega) (fun w hw => hw))

theorem State.setPt_keeps {s0 : State} {s : State} {t : Nat} {x : PathTile} (hk : Keeps s0 s) :
    Keeps s0 (State.setPt s t x) := by
  unfold State.setPt
  repeat' first
    | with_reducible assumption
    | with_reducible exact Keeps.refl _
    | fail_if_no_progress (with_reducible refine Keeps.lit ?_ (by first | exact Nat.le_refl _ | omega) (by first | exact Nat.le_refl _ | omega) (fun w hw => hw))

theorem State.setKey_keeps {s0 : State} {s : State} {t : Nat} {k : Nat} {x : KeySlot} (hk : Keeps s0 s) :
    Keeps s0 (State.setKey s t k x) := by
  unfold State.setKey
  repeat' first
    | with_reducible assumption
    | with_reducible exact Keeps.refl _
    | fail_if_no_progress (with_reducible refine Keeps.lit ?_ (by first | exact Nat.le_refl _ | omega) (by first | exact Nat.le_refl _ | omega) (fun w hw => hw))

theorem State.setMt_keeps {s0 : State} {s : State} {t : Nat} {x : MirTile} (hk : Keeps s0 s) :
    Keeps s0 (State.setMt s t x) := by
  unfold State.setMt
  repeat' first
    | with_reducible assumption
    | with_reducible exact Keeps.refl _
    | fail_if_no_progress (with_reducible refine Keeps.lit ?_ (by first | exact Nat.le_refl _ | omega) (by first | exact Nat.le_refl _ | omega) (fun w hw => hw))

theorem State.setTt_keeps {s0 : State} {s : State} {t : Nat} {x : TierTile} (hk : Keeps s0 s) :
    Keeps s0 (State.setTt s t x) := by
  unfold State.setTt
  repeat' first
    | with_reducible assumption
    | with_reducible exact Keeps.refl _
    | fail_if_no_progress (with_reducible refine Keeps.lit ?_ (by first | exact Nat.le_refl _ | omega) (by first | exact Nat.le_refl _ | omega) (fun w hw => hw))

theorem State.setTh_keeps {s0 : State} {s : State} {t : Nat} {x : ThTile} (hk : Keeps s0 s) :
    Keeps s0 (State.setTh s t x) := by
  unfold State.setTh
  repeat' first
    | with_reducible assumption
    | with_reducible exact Keeps.refl _
    | fail_if_no_progress (with_reducible refine Keeps.lit ?_ (by first | exact Nat.le_refl _ | omega) (by first | exact Nat.le_refl _ | omega) (fun w hw => hw))

end Sys2Proof.Machine
end

