-- ==== Sys2Proof/Laws/KeepsFlags.lean ====
section
/-! SUPPORT. What the operations of Machine/Flags.lean keep. -/

namespace Sys2Proof.Machine

theorem State.setCtr_keeps {s0 : State} {s : State} {key : Nat} {c : Ctr} (hk : Keeps s0 s) :
    Keeps s0 (State.setCtr s key c) := by
  unfold State.setCtr
  repeat' first
    | with_reducible assumption
    | with_reducible exact Keeps.refl _
    | (extract_lets +onlyGivenNames x; refine Keeps.cut (x := x) ?_ ?_; (on_goal 2 => intro _; clear_value x); (on_goal 1 => subst x))
    | (extract_lets +onlyGivenNames x; clear_value x)
    | fail_if_no_progress (with_reducible refine Keeps.lit ?_ (by first | exact Nat.le_refl _ | omega) (by first | exact Nat.le_refl _ | omega) (fun w hw => hw))

theorem State.stopFuses_keeps {s0 : State} {s : State} (hk : Keeps s0 s) :
    Keeps s0 (State.stopFuses s) := by
  unfold State.stopFuses
  repeat' first
    | with_reducible assumption
    | with_reducible exact Keeps.refl _
    | with_reducible apply Keeps.ite
    | (extract_lets +onlyGivenNames x; refine Keeps.cut (x := x) ?_ ?_; (on_goal 2 => intro _; clear_value x); (on_goal 1 => subst x))
    | (extract_lets +onlyGivenNames x; (have h1 : FuseS := x); clear h1; subst x)
    | split
    | fail_if_no_progress (with_reducible refine Keeps.lit ?_ (by first | exact Nat.le_refl _ | omega) (by first | exact Nat.le_refl _ | omega) (fun w hw => by first | exact hw | exact mem_insertNat.2 (Or.inr hw)))

theorem State.setSlot_keeps {s0 : State} {s : State} {i : Nat} {x : SlotS} (hk : Keeps s0 s) :
    Keeps s0 (State.setSlot s i x) := by
  unfold State.setSlot
  repeat' first
    | with_reducible assumption
    | with_reducible exact Keeps.refl _
    | with_reducible apply Keeps.ite
    | (extract_lets +onlyGivenNames x; refine Keeps.cut (x := x) ?_ ?_; (on_goal 2 => intro _; clear_value x); (on_goal 1 => subst x))
    | (extract_lets +onlyGivenNames x; clear_value x)
    | split
    | fail_if_no_progress (with_reducible refine Keeps.lit ?_ (by first | exact Nat.le_refl _ | omega) (by first | exact Nat.le_refl _ | omega) (fun w hw => hw))

end Sys2Proof.Machine
end

