-- ==== Sys2Proof/Laws/KeepsGeom.lean ====
section
/-! SUPPORT. What the operations of Machine/Geom.lean keep. -/

namespace Sys2Proof.Machine

theorem State.setChan_keeps {s0 : State} {s : State} {t : Nat} {c : Nat} {x : Chan} (hk : Keeps s0 s) :
    Keeps s0 (State.setChan s t c x) := by
  unfold State.setChan
  repeat' first
    | with_reducible assumption
    | with_reducible exact Keeps.refl _
    | fail_if_no_progress (with_reducible refine Keeps.lit ?_ (by first | exact Nat.le_refl _ | omega) (by first | exact Nat.le_refl _ | omega) (fun w hw => hw))

theorem State.setDt_keeps {s0 : State} {s : State} {t : Nat} {x : DramTile} (hk : Keeps s0 s) :
    Keeps s0 (State.setDt s t x) := by
  unfold State.setDt
  repeat' first
    | with_reducible assumption
    | with_reducible exact Keeps.refl _
    | fail_if_no_progress (with_reducible refine Keeps.lit ?_ (by first | exact Nat.le_refl _ | omega) (by first | exact Nat.le_refl _ | omega) (fun w hw => hw))

end Sys2Proof.Machine
end

