-- ==== Sys2Proof/Laws/KeepsFlash.lean ====
section
/-! SUPPORT. What the operations of Machine/Flash.lean keep. -/

namespace Sys2Proof.Machine

theorem State.setBlk_keeps {s0 : State} {s : State} {t : Nat} {b : Nat} {x : Blk} (hk : Keeps s0 s) :
    Keeps s0 (State.setBlk s t b x) := by
  unfold State.setBlk
  repeat' first
    | with_reducible assumption
    | with_reducible exact Keeps.refl _
    | with_reducible apply State.setTh_keeps

theorem State.setPhys_keeps {s0 : State} {s : State} {t : Nat} {b : Nat} {m : Nat} {x : Phys} (hk : Keeps s0 s) :
    Keeps s0 (State.setPhys s t b m x) := by
  unfold State.setPhys
  repeat' first
    | with_reducible assumption
    | with_reducible exact Keeps.refl _
    | with_reducible apply State.setTh_keeps

end Sys2Proof.Machine
end

