-- ==== Sys2Proof/Laws/KeepsRecorder.lean ====
section
/-! SUPPORT. What the operations of Machine/Recorder.lean keep. -/

namespace Sys2Proof.Machine

theorem State.dropRec_keeps {s0 : State} {s : State} {t : Nat} {v : Nat} (hk : Keeps s0 s) :
    Keeps s0 (State.dropRec s t v) := by
  unfold State.dropRec
  repeat' first
    | with_reducible assumption
    | with_reducible exact Keeps.refl _
    | with_reducible apply State.countP_keeps

theorem State.storeRec_keeps {s0 s : State} {r : Rec} (hk : Keeps s0 s) : Keeps s0 (State.storeRec s r).1 := by
  unfold State.storeRec
  dsimp only
  repeat' split
  all_goals first
    | exact State.setRt_keeps hk
    | exact State.dropRec_keeps (State.setRt_keeps hk)

theorem State.wantFlush_keeps {s0 : State} {s : State} {t : Nat} (hk : Keeps s0 s) :
    Keeps s0 (State.wantFlush s t) := by
  unfold State.wantFlush
  repeat' first
    | with_reducible assumption
    | with_reducible exact Keeps.refl _
    | with_reducible apply State.setRt_keeps

theorem State.flushCauses_keeps {s0 : State} {s : State} {t : Nat} {sev : Nat} (hk : Keeps s0 s) :
    Keeps s0 (State.flushCauses s t sev) := by
  unfold State.flushCauses
  repeat' first
    | with_reducible assumption
    | (intro _; try beta_reduce)
    | with_reducible exact Keeps.refl _
    | with_reducible apply State.wantFlush_keeps
    | with_reducible apply Keeps.foldl
    | with_reducible apply Keeps.foldlFst
    | with_reducible apply Keeps.foldlSnd
    | with_reducible apply Keeps.ite

theorem State.applyTrig_keeps {s0 : State} {s : State} {t : Nat} {j : Nat} (hk : Keeps s0 s) :
    Keeps s0 (State.applyTrig s t j) := by
  unfold State.applyTrig
  repeat' first
    | with_reducible assumption
    | with_reducible exact Keeps.refl _
    | with_reducible apply State.setRt_keeps
    | with_reducible apply State.setParam_keeps
    | with_reducible apply Keeps.ite

theorem State.makeRec_keeps {s0 : State} {s : State} {t : Nat} {sev : Nat} {code : Nat} {src : Nat} {pl : Nat} {ctx : Nat} {arg : Nat} {snaps : List Word} (hk : Keeps s0 s) :
    Keeps s0 (State.makeRec s t sev code src pl ctx arg snaps).1 := by
  unfold State.makeRec
  repeat' first
    | with_reducible assumption
    | with_reducible exact Keeps.refl _
    | with_reducible apply State.storeRec_keeps
    | (refine Keeps.ofFst (State.storeRec_keeps ?_) (by assumption))
    | with_reducible apply State.flushCauses_keeps
    | with_reducible apply State.applyTrig_keeps
    | with_reducible apply Keeps.ite
    | (extract_lets +onlyGivenNames x; refine Keeps.cut (x := x) ?_ ?_; (on_goal 2 => intro _; clear_value x); (on_goal 1 => subst x))
    | (extract_lets +onlyGivenNames x; clear_value x)
    | split

theorem State.bump_keeps {s0 : State} {s : State} {t : Nat} {b : Nat} {k : Nat} (hk : Keeps s0 s) :
    Keeps s0 (State.bump s t b k) := by
  unfold State.bump
  repeat' first
    | with_reducible assumption
    | with_reducible exact Keeps.refl _
    | with_reducible apply State.setCtr_keeps
    | with_reducible apply State.makeRec_keeps
    | (refine Keeps.ofFst (State.makeRec_keeps ?_) (by assumption))
    | with_reducible apply Keeps.ite

theorem State.tally_keeps {s0 : State} {s : State} {t : Nat} {b : Nat} {ev : Nat} {a : Attr} (hk : Keeps s0 s) :
    Keeps s0 (State.tally s t b ev a) := by
  unfold State.tally
  repeat' first
    | with_reducible assumption
    | (intro _; try beta_reduce)
    | with_reducible exact Keeps.refl _
    | with_reducible apply State.bump_keeps
    | with_reducible apply Keeps.foldl
    | with_reducible apply Keeps.foldlFst
    | with_reducible apply Keeps.foldlSnd
    | with_reducible apply Keeps.ite

theorem State.tallyRec_keeps {s0 : State} {s : State} {t : Nat} {made : Option Bool} (hk : Keeps s0 s) :
    Keeps s0 (State.tallyRec s t made) := by
  unfold State.tallyRec
  repeat' first
    | with_reducible assumption
    | with_reducible exact Keeps.refl _
    | with_reducible apply State.tally_keeps
    | with_reducible apply Keeps.ite
    | (extract_lets +onlyGivenNames x; refine Keeps.cut (x := x) ?_ ?_; (on_goal 2 => intro _; clear_value x); (on_goal 1 => subst x))
    | split

theorem State.record_keeps {s0 : State} {s : State} {t : Nat} {sev : Nat} {code : Nat} {src : Nat} {pl : Nat} {ctx : Nat} {arg : Nat} {snaps : List Word} (hk : Keeps s0 s) :
    Keeps s0 (State.record s t sev code src pl ctx arg snaps) := by
  unfold State.record
  repeat' first
    | with_reducible assumption
    | with_reducible exact Keeps.refl _
    | with_reducible apply State.makeRec_keeps
    | (refine Keeps.ofFst (State.makeRec_keeps ?_) (by assumption))
    | with_reducible apply State.tallyRec_keeps

theorem State.log_keeps {s0 : State} {s : State} {t : Nat} {sev : Nat} {block : Nat} {inst : Nat} {kind : Nat} {detail : Nat} {arg : Nat} (hk : Keeps s0 s) :
    Keeps s0 (State.log s t sev block inst kind detail arg) := by
  unfold State.log
  repeat' first
    | with_reducible assumption
    | with_reducible exact Keeps.refl _
    | with_reducible apply State.record_keeps

theorem State.bmcEvent_keeps {s0 : State} {s : State} {t : Nat} {sev : Nat} {block : Nat} {inst : Nat} {kind : Nat} {detail : Nat} {arg : Nat} (hk : Keeps s0 s) :
    Keeps s0 (State.bmcEvent s t sev block inst kind detail arg) := by
  unfold State.bmcEvent
  repeat' first
    | with_reducible assumption
    | with_reducible exact Keeps.refl _
    | with_reducible apply State.log_keeps
    | with_reducible apply Keeps.ite
    | (extract_lets +onlyGivenNames x; refine Keeps.cut (x := x) ?_ ?_; (on_goal 2 => intro _; clear_value x); (on_goal 1 => subst x))
    | (extract_lets +onlyGivenNames x; clear_value x)
    | split
    | fail_if_no_progress (with_reducible refine Keeps.lit ?_ (by first | exact Nat.le_refl _ | omega) (by first | exact Nat.le_refl _ | omega) (fun w hw => hw))

theorem execEventRecord_keeps (tile : Nat) (sev : Nat) (block : Nat) (inst : Nat) (kind : Nat) (detail : Nat) (arg : Nat) (s : State) :
    KeepsRun s (execEventRecord tile sev block inst kind detail arg s) := by
  unfold execEventRecord
  repeat' first
    | with_reducible refine KeepsRun.next ?_
    | with_reducible assumption
    | with_reducible exact Keeps.refl _
    | with_reducible apply State.log_keeps
    | with_reducible apply Keeps.ite

theorem execRecorderFlush_keeps (tile : Nat) (s : State) :
    KeepsRun s (execRecorderFlush tile s) := by
  unfold execRecorderFlush
  repeat' first
    | with_reducible refine KeepsRun.next ?_
    | with_reducible assumption
    | with_reducible exact Keeps.refl _
    | with_reducible apply State.tally_keeps
    | with_reducible apply State.setRt_keeps
    | with_reducible apply Keeps.ite

theorem State.commitBatch_keeps {s0 : State} {s : State} {t : Nat} {n : Nat} (hk : Keeps s0 s) :
    Keeps s0 (State.commitBatch s t n) := by
  unfold State.commitBatch
  repeat' first
    | with_reducible assumption
    | (intro _; try beta_reduce)
    | with_reducible exact Keeps.refl _
    | with_reducible apply State.setRt_keeps
    | with_reducible apply State.tally_keeps
    | with_reducible apply State.dropRec_keeps
    | with_reducible apply Keeps.foldl
    | with_reducible apply Keeps.foldlFst
    | with_reducible apply Keeps.foldlSnd
    | (extract_lets +onlyGivenNames x; refine Keeps.cut (x := x) ?_ ?_; (on_goal 2 => intro _; clear_value x); (on_goal 1 => subst x))
    | (extract_lets +onlyGivenNames x; clear_value x)
    | split
    | fail_if_no_progress (with_reducible refine Keeps.lit ?_ (by first | exact Nat.le_refl _ | omega) (by first | exact Nat.le_refl _ | omega) (fun w hw => hw))

theorem execFlushCommit_keeps (tile : Nat) (s : State) :
    KeepsRun s (execFlushCommit tile s) := by
  unfold execFlushCommit
  repeat' first
    | with_reducible refine KeepsRun.next ?_
    | with_reducible assumption
    | with_reducible exact Keeps.refl _
    | with_reducible apply State.commitBatch_keeps
    | with_reducible apply Keeps.ite
    | split

theorem State.fetchRec_keeps {s0 : State} {s : State} {k : Nat} (hk : Keeps s0 s) :
    Keeps s0 (State.fetchRec s k) := by
  unfold State.fetchRec
  repeat' first
    | with_reducible assumption
    | with_reducible exact Keeps.refl _
    | with_reducible apply State.setParam_keeps
    | with_reducible apply Keeps.ite
    | (extract_lets +onlyGivenNames x; refine Keeps.cut (x := x) ?_ ?_; (on_goal 2 => intro _; clear_value x); (on_goal 1 => subst x))
    | (extract_lets +onlyGivenNames x; clear_value x)
    | split
    | fail_if_no_progress (with_reducible refine Keeps.lit ?_ (by first | exact Nat.le_refl _ | omega) (by first | exact Nat.le_refl _ | omega) (fun w hw => hw))

theorem execRecRdData_keeps (k : Nat) (s : State) :
    KeepsRun s (execRecRdData k s) := by
  unfold execRecRdData
  repeat' first
    | with_reducible refine KeepsRun.next ?_
    | with_reducible assumption
    | with_reducible exact Keeps.refl _
    | with_reducible apply State.fetchRec_keeps
    | with_reducible apply Keeps.ite

theorem execCounterOverflow_keeps (tile : Nat) (b : Nat) (k : Nat) (s : State) :
    KeepsRun s (execCounterOverflow tile b k s) := by
  unfold execCounterOverflow
  repeat' first
    | with_reducible refine KeepsRun.next ?_
    | with_reducible assumption
    | with_reducible exact Keeps.refl _
    | with_reducible apply State.bump_keeps
    | with_reducible apply Keeps.ite

theorem State.writeCnt_keeps {s0 : State} {s : State} {t : Nat} {b : Nat} {k : Nat} {w : Word} (hk : Keeps s0 s) :
    Keeps s0 (State.writeCnt s t b k w) := by
  unfold State.writeCnt
  repeat' first
    | with_reducible assumption
    | with_reducible exact Keeps.refl _
    | with_reducible apply State.setCtr_keeps

theorem execPmcCntWrite_keeps (tile : Nat) (b : Nat) (k : Nat) (pl : Nat) (value : Word) (events : Nat) (s : State) :
    KeepsRun s (execPmcCntWrite tile b k pl value events s) := by
  unfold execPmcCntWrite
  repeat' first
    | with_reducible refine KeepsRun.next ?_
    | (intro _; try beta_reduce)
    | with_reducible assumption
    | with_reducible exact Keeps.refl _
    | with_reducible apply State.bump_keeps
    | with_reducible apply State.writeCnt_keeps
    | with_reducible apply Keeps.foldl
    | with_reducible apply Keeps.foldlFst
    | with_reducible apply Keeps.foldlSnd
    | with_reducible apply Keeps.ite

theorem execOptimeWrite_keeps (s : State) :
    KeepsRun s (execOptimeWrite s) := by
  unfold execOptimeWrite
  repeat' first
    | with_reducible refine KeepsRun.next ?_
    | with_reducible assumption
    | with_reducible exact Keeps.refl _
    | with_reducible apply Keeps.ite
    | (extract_lets +onlyGivenNames x; refine Keeps.cut (x := x) ?_ ?_; (on_goal 2 => intro _; clear_value x); (on_goal 1 => subst x))
    | (extract_lets +onlyGivenNames x; clear_value x)
    | split
    | fail_if_no_progress (with_reducible refine Keeps.lit ?_ (by first | exact Nat.le_refl _ | omega) (by first | exact Nat.le_refl _ | omega) (fun w hw => hw))

end Sys2Proof.Machine
end

