-- ==== Sys2Proof/Laws/KeepsCtx.lean ====
section
/-! SUPPORT. What the operations of Machine/Ctx.lean keep. -/

namespace Sys2Proof.Machine

theorem State.countInstr_keeps {s0 : State} {s : State} {n : Nat} {i : Issue} {st : Status} (hk : Keeps s0 s) :
    Keeps s0 (State.countInstr s n i st) := by
  unfold State.countInstr
  repeat' first
    | with_reducible assumption
    | with_reducible exact Keeps.refl _
    | with_reducible apply State.tally_keeps
    | with_reducible apply Keeps.ite

theorem State.complete_keeps {s0 : State} {s : State} {n : Nat} {i : Issue} {st : Status} {result : Word} {regs : List Word} {force : Bool} (hk : Keeps s0 s) :
    Keeps s0 (State.complete s n i st result regs force) := by
  unfold State.complete
  repeat' first
    | with_reducible assumption
    | with_reducible exact Keeps.refl _
    | with_reducible apply State.countInstr_keeps
    | with_reducible apply State.setCtx_keeps
    | with_reducible apply Keeps.ite

theorem State.completeR_keeps {s0 : State} {s : State} {n : Nat} {i : Issue} {st : Status} {result : Word} (hk : Keeps s0 s) :
    Keeps s0 (State.completeR s n i st result) := by
  unfold State.completeR
  repeat' first
    | with_reducible assumption
    | with_reducible exact Keeps.refl _
    | with_reducible apply State.complete_keeps

theorem State.pendRec_keeps {s0 : State} {s : State} {n : Nat} {i : Issue} (hk : Keeps s0 s) :
    Keeps s0 (State.pendRec s n i) := by
  unfold State.pendRec
  repeat' first
    | with_reducible assumption
    | with_reducible exact Keeps.refl _
    | with_reducible apply State.setCtx_keeps
    | with_reducible apply Keeps.ite

theorem State.startLong_keeps {s0 : State} {s : State} {n : Nat} {i : Issue} {op : LongOp} (hk : Keeps s0 s) :
    Keeps s0 (State.startLong s n i op) := by
  unfold State.startLong
  repeat' first
    | with_reducible assumption
    | with_reducible exact Keeps.refl _
    | with_reducible apply State.setCtx_keeps

theorem State.finishLong_keeps {s0 : State} {s : State} {n : Nat} {st : Status} {result : Word} {regs : List Word} {force : Bool} (hk : Keeps s0 s) :
    Keeps s0 (State.finishLong s n st result regs force) := by
  unfold State.finishLong
  repeat' first
    | with_reducible assumption
    | with_reducible exact Keeps.refl _
    | with_reducible apply State.complete_keeps
    | with_reducible apply State.setCtx_keeps
    | with_reducible apply Keeps.ite
    | (extract_lets +onlyGivenNames x; refine Keeps.cut (x := x) ?_ ?_; (on_goal 2 => intro _; clear_value x); (on_goal 1 => subst x))
    | (extract_lets +onlyGivenNames x; clear_value x)
    | split

theorem State.finishR_keeps {s0 : State} {s : State} {n : Nat} {st : Status} {result : Word} (hk : Keeps s0 s) :
    Keeps s0 (State.finishR s n st result) := by
  unfold State.finishR
  repeat' first
    | with_reducible assumption
    | with_reducible exact Keeps.refl _
    | with_reducible apply State.finishLong_keeps

theorem State.finishAll_keeps {s0 : State} {s : State} {p : LongOp → Bool} {st : Status} {result : Word} (hk : Keeps s0 s) :
    Keeps s0 (State.finishAll s p st result) := by
  unfold State.finishAll
  repeat' first
    | with_reducible assumption
    | (intro _; try beta_reduce)
    | with_reducible exact Keeps.refl _
    | with_reducible apply State.finishR_keeps
    | with_reducible apply Keeps.foldl
    | with_reducible apply Keeps.foldlFst
    | with_reducible apply Keeps.foldlSnd
    | with_reducible apply Keeps.ite
    | split

theorem State.dropSet_keeps {s0 : State} {s : State} (hk : Keeps s0 s) :
    Keeps s0 (State.dropSet s) := by
  unfold State.dropSet
  repeat' first
    | with_reducible assumption
    | with_reducible exact Keeps.refl _
    | with_reducible apply State.setCtx_keeps
    | (extract_lets +onlyGivenNames x; refine Keeps.cut (x := x) ?_ ?_; (on_goal 2 => intro _; clear_value x); (on_goal 1 => subst x))
    | (extract_lets +onlyGivenNames x; clear_value x)
    | split
    | fail_if_no_progress (with_reducible refine Keeps.lit ?_ (by first | exact Nat.le_refl _ | omega) (by first | exact Nat.le_refl _ | omega) (fun w hw => hw))

theorem State.emptySet_keeps {s0 : State} {s : State} (hk : Keeps s0 s) :
    Keeps s0 (State.emptySet s) := by
  unfold State.emptySet
  repeat' first
    | with_reducible assumption
    | with_reducible exact Keeps.refl _
    | fail_if_no_progress (with_reducible refine Keeps.lit ?_ (by first | exact Nat.le_refl _ | omega) (by first | exact Nat.le_refl _ | omega) (fun w hw => hw))

end Sys2Proof.Machine
end

