-- ==== Sys2Proof/Laws/KeepsTideOps.lean ====
section
/-! SUPPORT. What the operations of Machine/TideOps.lean keep. -/

namespace Sys2Proof.Machine

theorem State.restore_keeps {s0 : State} {s : State} {undo : List (Nat × Nat × Word)} (hk : Keeps s0 s) :
    Keeps s0 (State.restore s undo) := by
  unfold State.restore
  repeat' first
    | with_reducible assumption
    | (intro _; try beta_reduce)
    | with_reducible exact Keeps.refl _
    | with_reducible apply State.setParam_keeps
    | with_reducible apply Keeps.foldl

theorem State.tellTide_keeps {s0 : State} {s : State} {name : Nat} {m : TideMsg} (hk : Keeps s0 s) :
    Keeps s0 (State.tellTide s name m) := by
  unfold State.tellTide
  repeat' first
    | with_reducible assumption
    | with_reducible exact Keeps.refl _
    | with_reducible apply State.emit_keeps
    | with_reducible apply Keeps.ite

theorem State.addTide_keeps {s0 : State} {s : State} {at_ : Nat} {changes : List Entry} {ctx : Option Nat} (hk : Keeps s0 s) :
    Keeps s0 (State.addTide s at_ changes ctx) := by
  unfold State.addTide
  repeat' first
    | with_reducible assumption
    | with_reducible exact Keeps.refl _
    | with_reducible apply State.tellTide_keeps
    | (extract_lets +onlyGivenNames x; refine Keeps.cut (x := x) ?_ ?_; (on_goal 2 => intro _; clear_value x); (on_goal 1 => subst x))
    | fail_if_no_progress (with_reducible refine Keeps.lit ?_ (by first | exact Nat.le_refl _ | omega) (by first | exact Nat.le_refl _ | omega) (fun w hw => hw))

theorem State.nameTide_keeps {s0 : State} {s : State} {changes : List Change} (hk : Keeps s0 s) :
    Keeps s0 (State.nameTide s changes) := by
  unfold State.nameTide
  repeat' first
    | with_reducible assumption
    | with_reducible exact Keeps.refl _
    | with_reducible apply State.addTide_keeps

theorem State.nameMode_keeps {s0 : State} {s : State} {m : Mode} {cause : Nat} (hk : Keeps s0 s) :
    Keeps s0 (State.nameMode s m cause) := by
  unfold State.nameMode
  repeat' first
    | with_reducible assumption
    | with_reducible exact Keeps.refl _
    | with_reducible apply State.nameTide_keeps
    | with_reducible apply Keeps.ite

theorem State.setMode_keeps {s0 : State} {s : State} {m : Mode} {cause : Nat} (hk : Keeps s0 s) :
    Keeps s0 (State.setMode s m cause) := by
  unfold State.setMode
  repeat' first
    | with_reducible assumption
    | with_reducible exact Keeps.refl _
    | (extract_lets +onlyGivenNames x; refine Keeps.cut (x := x) ?_ ?_; (on_goal 2 => intro _; clear_value x); (on_goal 1 => subst x))
    | (extract_lets +onlyGivenNames x; clear_value x)
    | fail_if_no_progress (with_reducible refine Keeps.lit ?_ (by first | exact Nat.le_refl _ | omega) (by first | exact Nat.le_refl _ | omega) (fun w hw => hw))

theorem State.cancelTides_keeps {s0 : State} {s : State} (hk : Keeps s0 s) :
    Keeps s0 (State.cancelTides s) := by
  unfold State.cancelTides
  repeat' first
    | with_reducible assumption
    | (intro _; try beta_reduce)
    | with_reducible exact Keeps.refl _
    | with_reducible apply State.finishLong_keeps
    | with_reducible apply State.dropSet_keeps
    | with_reducible apply Keeps.foldl
    | with_reducible apply Keeps.foldlFst
    | with_reducible apply Keeps.foldlSnd
    | with_reducible apply Keeps.ite
    | (extract_lets +onlyGivenNames x; refine Keeps.cut (x := x) ?_ ?_; (on_goal 2 => intro _; clear_value x); (on_goal 1 => subst x))
    | (extract_lets +onlyGivenNames x; clear_value x)
    | split
    | fail_if_no_progress (with_reducible refine Keeps.lit ?_ (by first | exact Nat.le_refl _ | omega) (by first | exact Nat.le_refl _ | omega) (fun w hw => hw))

theorem State.nameSaveTide_keeps {s0 : State} {s : State} (hk : Keeps s0 s) :
    Keeps s0 (State.nameSaveTide s) := by
  unfold State.nameSaveTide
  repeat' first
    | with_reducible assumption
    | with_reducible exact Keeps.refl _
    | with_reducible apply State.addTide_keeps
    | with_reducible apply Keeps.ite
    | split

end Sys2Proof.Machine
end

