-- ==== Sys2Proof/Laws/KeepsDramOps.lean ====
section
/-! SUPPORT. What the operations of Machine/DramOps.lean keep. -/

namespace Sys2Proof.Machine

theorem State.putDram_keeps {s0 s : State} {t a : Nat} {l : Line} {p : Bool} (h : Keeps s0 s) : Keeps s0 (s.putDram t a l p) := by
  refine h.trans ?_
  unfold State.putDram
  split <;> exact ⟨fun w => Memory.wf_setLine _ _ _ w, rfl, rfl, Nat.le_refl _, Nat.le_refl _, fun _ hw => hw⟩

theorem State.enterPoison_keeps {s0 : State} {s : State} {t : Nat} {off : Nat} (hk : Keeps s0 s) :
    Keeps s0 (State.enterPoison s t off) := by
  unfold State.enterPoison
  repeat' first
    | with_reducible assumption
    | with_reducible exact Keeps.refl _
    | with_reducible apply State.setIt_keeps
    | with_reducible apply Keeps.ite

theorem State.leavePoison_keeps {s0 : State} {s : State} {t : Nat} {off : Nat} (hk : Keeps s0 s) :
    Keeps s0 (State.leavePoison s t off) := by
  unfold State.leavePoison
  repeat' first
    | with_reducible assumption
    | with_reducible exact Keeps.refl _
    | with_reducible apply State.setIt_keeps

theorem State.activate_keeps {s0 : State} {s : State} {t : Nat} {c : Nat} {bank : Nat} {row : Nat} (hk : Keeps s0 s) :
    Keeps s0 (State.activate s t c bank row) := by
  unfold State.activate
  repeat' first
    | with_reducible assumption
    | with_reducible exact Keeps.refl _
    | with_reducible apply State.setChan_keeps

theorem State.touchRow_keeps {s0 : State} {s : State} {t : Nat} {a : Nat} (hk : Keeps s0 s) :
    Keeps s0 (State.touchRow s t a) := by
  unfold State.touchRow
  repeat' first
    | with_reducible assumption
    | with_reducible exact Keeps.refl _
    | with_reducible apply State.setChan_keeps
    | with_reducible apply State.tally_keeps
    | with_reducible apply State.activate_keeps
    | with_reducible apply Keeps.ite

theorem State.readRow_keeps {s0 : State} {s : State} {t : Nat} {a : Nat} (hk : Keeps s0 s) :
    Keeps s0 (State.readRow s t a) := by
  unfold State.readRow
  repeat' first
    | with_reducible assumption
    | with_reducible exact Keeps.refl _
    | with_reducible apply State.tally_keeps
    | with_reducible apply State.touchRow_keeps

theorem State.closeRows_keeps {s0 : State} {s : State} {t : Nat} {c : Nat} (hk : Keeps s0 s) :
    Keeps s0 (State.closeRows s t c) := by
  unfold State.closeRows
  repeat' first
    | with_reducible assumption
    | with_reducible exact Keeps.refl _
    | with_reducible apply State.setChan_keeps

theorem State.setWq_keeps {s0 : State} {s : State} {k : Nat} {l : List WqEnt} (hk : Keeps s0 s) :
    Keeps s0 (State.setWq s k l) := by
  unfold State.setWq
  repeat' first
    | with_reducible assumption
    | with_reducible exact Keeps.refl _
    | fail_if_no_progress (with_reducible refine Keeps.lit ?_ (by first | exact Nat.le_refl _ | omega) (by first | exact Nat.le_refl _ | omega) (fun w hw => hw))

theorem State.setRq_keeps {s0 : State} {s : State} {k : Nat} {l : List RqEnt} (hk : Keeps s0 s) :
    Keeps s0 (State.setRq s k l) := by
  unfold State.setRq
  repeat' first
    | with_reducible assumption
    | with_reducible exact Keeps.refl _
    | fail_if_no_progress (with_reducible refine Keeps.lit ?_ (by first | exact Nat.le_refl _ | omega) (by first | exact Nat.le_refl _ | omega) (fun w hw => hw))

theorem State.dropBack_keeps {s0 : State} {s : State} {t : Nat} {a : Nat} (hk : Keeps s0 s) :
    Keeps s0 (State.dropBack s t a) := by
  unfold State.dropBack
  repeat' first
    | with_reducible assumption
    | with_reducible exact Keeps.refl _
    | with_reducible apply State.setIt_keeps
    | with_reducible apply Keeps.ite

theorem State.queueWrite_keeps {s0 : State} {s : State} {t : Nat} {a : Nat} {l : Line} {p : Bool} {pend : Nat} (hk : Keeps s0 s) :
    Keeps s0 (State.queueWrite s t a l p pend) := by
  unfold State.queueWrite
  repeat' first
    | with_reducible assumption
    | with_reducible exact Keeps.refl _
    | with_reducible apply State.setWq_keeps
    | with_reducible apply State.dropBack_keeps

theorem State.issueAt_keeps {s0 : State} {s : State} {k : Nat} {i : Nat} (hk : Keeps s0 s) :
    Keeps s0 (State.issueAt s k i) := by
  unfold State.issueAt
  repeat' first
    | with_reducible assumption
    | with_reducible exact Keeps.refl _
    | with_reducible apply State.tally_keeps
    | with_reducible apply State.touchRow_keeps
    | with_reducible apply State.setWq_keeps
    | with_reducible apply State.putDram_keeps
    | split

theorem State.issueWrite_keeps {s0 : State} {s : State} {k : Nat} (hk : Keeps s0 s) :
    Keeps s0 (State.issueWrite s k) := by
  unfold State.issueWrite
  repeat' first
    | with_reducible assumption
    | with_reducible exact Keeps.refl _
    | with_reducible apply State.issueAt_keeps

theorem State.drainSub_keeps {s0 : State} {s : State} {k : Nat} (hk : Keeps s0 s) :
    Keeps s0 (State.drainSub s k) := by
  unfold State.drainSub
  repeat' first
    | with_reducible assumption
    | (intro _; try beta_reduce)
    | with_reducible exact Keeps.refl _
    | with_reducible apply State.issueAt_keeps
    | with_reducible apply Keeps.foldl

theorem State.drainChan_keeps {s0 : State} {s : State} {t : Nat} {c : Nat} (hk : Keeps s0 s) :
    Keeps s0 (State.drainChan s t c) := by
  unfold State.drainChan
  repeat' first
    | with_reducible assumption
    | with_reducible exact Keeps.refl _
    | with_reducible apply State.drainSub_keeps

theorem State.refreshNeighbours_keeps {s0 : State} {s : State} {t : Nat} {c : Nat} (hk : Keeps s0 s) :
    Keeps s0 (State.refreshNeighbours s t c) := by
  unfold State.refreshNeighbours
  repeat' first
    | with_reducible assumption
    | (intro _; try beta_reduce)
    | with_reducible exact Keeps.refl _
    | with_reducible apply State.activate_keeps
    | with_reducible apply State.setChan_keeps
    | with_reducible apply State.tally_keeps
    | with_reducible apply Keeps.foldl
    | with_reducible apply Keeps.foldlFst
    | with_reducible apply Keeps.foldlSnd
    | split

theorem State.refreshLoop_keeps {s0 s : State} {k t c : Nat} (h : Keeps s0 s) : Keeps s0 (State.refreshLoop k s t c) := by
  induction k generalizing s with
  | zero => exact h
  | succ k ih =>
    unfold State.refreshLoop
    split
    · exact h
    · exact ih (State.refreshNeighbours_keeps h)

theorem State.refreshAll_keeps {s0 : State} {s : State} {t : Nat} {c : Nat} (hk : Keeps s0 s) :
    Keeps s0 (State.refreshAll s t c) := by
  unfold State.refreshAll
  repeat' first
    | with_reducible assumption
    | with_reducible exact Keeps.refl _
    | with_reducible apply State.refreshLoop_keeps

theorem State.quietChan_keeps {s0 : State} {s : State} {t : Nat} {c : Nat} (hk : Keeps s0 s) :
    Keeps s0 (State.quietChan s t c) := by
  unfold State.quietChan
  repeat' first
    | with_reducible assumption
    | with_reducible exact Keeps.refl _
    | with_reducible apply State.closeRows_keeps
    | with_reducible apply State.refreshAll_keeps
    | with_reducible apply State.drainChan_keeps
    | with_reducible apply State.setChan_keeps

end Sys2Proof.Machine
end

