-- ==== Sys2Proof/Laws/KeepsPower.lean ====
section
/-! SUPPORT. What the operations of Machine/Power.lean keep. -/

namespace Sys2Proof.Machine

theorem State.dramOff_keeps {s0 s : State} {ts : List Nat} {um : Nat} (h : Keeps s0 s) : Keeps s0 (s.dramOff ts um) :=
  h.trans ⟨fun w => Store.wf_filter _ _ _ w, rfl, rfl, Nat.le_refl _, Nat.le_refl _, fun _ hw => hw⟩

theorem State.cutFlush_keeps {s0 : State} {s : State} {ts : List Nat} (hk : Keeps s0 s) :
    Keeps s0 (State.cutFlush s ts) := by
  unfold State.cutFlush
  repeat' first
    | with_reducible assumption
    | (intro _; try beta_reduce)
    | with_reducible exact Keeps.refl _
    | with_reducible apply State.setRt_keeps
    | with_reducible apply State.log_keeps
    | with_reducible apply Keeps.foldl
    | with_reducible apply Keeps.foldlFst
    | with_reducible apply Keeps.foldlSnd
    | with_reducible apply Keeps.ite
    | (extract_lets +onlyGivenNames x; refine Keeps.cut (x := x) ?_ ?_; (on_goal 2 => intro _; clear_value x); (on_goal 1 => subst x))
    | (extract_lets +onlyGivenNames x; clear_value x)
    | split
    | fail_if_no_progress (with_reducible refine Keeps.lit ?_ (by first | exact Nat.le_refl _ | omega) (by first | exact Nat.le_refl _ | omega) (fun w hw => hw))

theorem State.dropEnables_keeps {s0 : State} {s : State} {cs : List Nat} (hk : Keeps s0 s) :
    Keeps s0 (State.dropEnables s cs) := by
  unfold State.dropEnables
  repeat' first
    | with_reducible assumption
    | (intro _; try beta_reduce)
    | with_reducible exact Keeps.refl _
    | with_reducible apply State.dramOff_keeps
    | with_reducible apply State.cutFlush_keeps
    | with_reducible apply Keeps.foldl
    | with_reducible apply Keeps.foldlFst
    | with_reducible apply Keeps.foldlSnd
    | with_reducible apply Keeps.ite
    | (extract_lets +onlyGivenNames x; refine Keeps.cut (x := x) ?_ ?_; (on_goal 2 => intro _; clear_value x); (on_goal 1 => subst x))
    | (extract_lets +onlyGivenNames x; clear_value x)
    | split
    | fail_if_no_progress (with_reducible refine Keeps.lit ?_ (by first | exact Nat.le_refl _ | omega) (by first | exact Nat.le_refl _ | omega) (fun w hw => hw))

theorem State.enterStby_keeps {s0 : State} {s : State} {cause : Nat} (hk : Keeps s0 s) :
    Keeps s0 (State.enterStby s cause) := by
  unfold State.enterStby
  repeat' first
    | with_reducible assumption
    | with_reducible exact Keeps.refl _
    | with_reducible apply State.setMode_keeps
    | with_reducible apply Keeps.ite
    | (extract_lets +onlyGivenNames x; refine Keeps.cut (x := x) ?_ ?_; (on_goal 2 => intro _; clear_value x); (on_goal 1 => subst x))
    | (extract_lets +onlyGivenNames x; clear_value x)
    | split
    | fail_if_no_progress (with_reducible refine Keeps.lit ?_ (by first | exact Nat.le_refl _ | omega) (by first | exact Nat.le_refl _ | omega) (fun w hw => hw))

theorem State.shutStep_keeps {s0 : State} {s : State} {k : Nat} (hk : Keeps s0 s) :
    Keeps s0 (State.shutStep s k) := by
  unfold State.shutStep
  repeat' first
    | with_reducible assumption
    | with_reducible exact Keeps.refl _
    | with_reducible apply State.dropEnables_keeps
    | with_reducible apply State.enterStby_keeps
    | (extract_lets +onlyGivenNames x; refine Keeps.cut (x := x) ?_ ?_; (on_goal 2 => intro _; clear_value x); (on_goal 1 => subst x))
    | (extract_lets +onlyGivenNames x; clear_value x)
    | split
    | fail_if_no_progress (with_reducible refine Keeps.lit ?_ (by first | exact Nat.le_refl _ | omega) (by first | exact Nat.le_refl _ | omega) (fun w hw => hw))

theorem State.shutdown_keeps {s0 : State} {s : State} {cause : Nat} (hk : Keeps s0 s) :
    Keeps s0 (State.shutdown s cause) := by
  unfold State.shutdown
  repeat' first
    | with_reducible assumption
    | with_reducible exact Keeps.refl _
    | with_reducible apply State.shutStep_keeps
    | with_reducible apply State.enterStby_keeps
    | with_reducible apply Keeps.ite
    | (extract_lets +onlyGivenNames x; refine Keeps.cut (x := x) ?_ ?_; (on_goal 2 => intro _; clear_value x); (on_goal 1 => subst x))
    | (extract_lets +onlyGivenNames x; clear_value x)
    | split
    | fail_if_no_progress (with_reducible refine Keeps.lit ?_ (by first | exact Nat.le_refl _ | omega) (by first | exact Nat.le_refl _ | omega) (fun w hw => hw))

theorem execShutdownStep_keeps (s : State) :
    KeepsRun s (execShutdownStep s) := by
  unfold execShutdownStep
  repeat' first
    | with_reducible refine KeepsRun.next ?_
    | with_reducible assumption
    | with_reducible exact Keeps.refl _
    | with_reducible apply State.shutStep_keeps
    | with_reducible apply Keeps.ite

theorem State.assertFault_keeps {s0 : State} {s : State} (hk : Keeps s0 s) :
    Keeps s0 (State.assertFault s) := by
  unfold State.assertFault
  repeat' first
    | with_reducible assumption
    | with_reducible exact Keeps.refl _
    | with_reducible apply Keeps.ite
    | (extract_lets +onlyGivenNames x; refine Keeps.cut (x := x) ?_ ?_; (on_goal 2 => intro _; clear_value x); (on_goal 1 => subst x))
    | (extract_lets +onlyGivenNames x; clear_value x)
    | split
    | fail_if_no_progress (with_reducible refine Keeps.lit ?_ (by first | exact Nat.le_refl _ | omega) (by first | exact Nat.le_refl _ | omega) (fun w hw => hw))

theorem execFaultLRelease_keeps (s : State) :
    KeepsRun s (execFaultLRelease s) := by
  unfold execFaultLRelease
  repeat' first
    | with_reducible refine KeepsRun.next ?_
    | with_reducible assumption
    | with_reducible exact Keeps.refl _
    | with_reducible apply Keeps.ite
    | (extract_lets +onlyGivenNames x; refine Keeps.cut (x := x) ?_ ?_; (on_goal 2 => intro _; clear_value x); (on_goal 1 => subst x))
    | (extract_lets +onlyGivenNames x; clear_value x)
    | split
    | fail_if_no_progress (with_reducible refine Keeps.lit ?_ (by first | exact Nat.le_refl _ | omega) (by first | exact Nat.le_refl _ | omega) (fun w hw => hw))

theorem State.seqFault_keeps {s0 : State} {s : State} {kind : Nat} {ch : Nat} (hk : Keeps s0 s) :
    Keeps s0 (State.seqFault s kind ch) := by
  unfold State.seqFault
  repeat' first
    | with_reducible assumption
    | with_reducible exact Keeps.refl _
    | with_reducible apply State.failedAt_keeps
    | with_reducible apply State.assertFault_keeps
    | with_reducible apply State.log_keeps
    | with_reducible apply State.shutdown_keeps
    | with_reducible apply Keeps.ite
    | (extract_lets +onlyGivenNames x; refine Keeps.cut (x := x) ?_ ?_; (on_goal 2 => intro _; clear_value x); (on_goal 1 => subst x))
    | (extract_lets +onlyGivenNames x; clear_value x)
    | split
    | fail_if_no_progress (with_reducible refine Keeps.lit ?_ (by first | exact Nat.le_refl _ | omega) (by first | exact Nat.le_refl _ | omega) (fun w hw => hw))

theorem State.restartStep_keeps {s0 : State} {s : State} {ch : Nat} (hk : Keeps s0 s) :
    Keeps s0 (State.restartStep s ch) := by
  unfold State.restartStep
  repeat' first
    | with_reducible assumption
    | with_reducible exact Keeps.refl _
    | with_reducible apply State.seqFault_keeps
    | with_reducible apply Keeps.ite
    | (extract_lets +onlyGivenNames x; refine Keeps.cut (x := x) ?_ ?_; (on_goal 2 => intro _; clear_value x); (on_goal 1 => subst x))
    | (extract_lets +onlyGivenNames x; clear_value x)
    | split
    | fail_if_no_progress (with_reducible refine Keeps.lit ?_ (by first | exact Nat.le_refl _ | omega) (by first | exact Nat.le_refl _ | omega) (fun w hw => hw))

theorem State.seqPg_keeps {s0 : State} {s : State} {i : Nat} {high : Bool} (hk : Keeps s0 s) :
    Keeps s0 (State.seqPg s i high) := by
  unfold State.seqPg
  repeat' first
    | with_reducible assumption
    | with_reducible exact Keeps.refl _
    | with_reducible apply State.seqFault_keeps
    | with_reducible apply State.restartStep_keeps
    | with_reducible apply Keeps.ite
    | (extract_lets +onlyGivenNames x; refine Keeps.cut (x := x) ?_ ?_; (on_goal 2 => intro _; clear_value x); (on_goal 1 => subst x))
    | (extract_lets +onlyGivenNames x; clear_value x)
    | split
    | fail_if_no_progress (with_reducible refine Keeps.lit ?_ (by first | exact Nat.le_refl _ | omega) (by first | exact Nat.le_refl _ | omega) (fun w hw => hw))

theorem execRailStepStart_keeps (s : State) :
    KeepsRun s (execRailStepStart s) := by
  unfold execRailStepStart
  repeat' first
    | with_reducible refine KeepsRun.next ?_
    | with_reducible assumption
    | with_reducible exact Keeps.refl _
    | with_reducible apply Keeps.ite
    | (extract_lets +onlyGivenNames x; refine Keeps.cut (x := x) ?_ ?_; (on_goal 2 => intro _; clear_value x); (on_goal 1 => subst x))
    | (extract_lets +onlyGivenNames x; clear_value x)
    | split
    | fail_if_no_progress (with_reducible refine Keeps.lit ?_ (by first | exact Nat.le_refl _ | omega) (by first | exact Nat.le_refl _ | omega) (fun w hw => hw))

theorem execStepWindowEnd_keeps (s : State) :
    KeepsRun s (execStepWindowEnd s) := by
  unfold execStepWindowEnd
  repeat' first
    | with_reducible refine KeepsRun.next ?_
    | with_reducible assumption
    | with_reducible exact Keeps.refl _
    | with_reducible apply Keeps.ite
    | (extract_lets +onlyGivenNames x; refine Keeps.cut (x := x) ?_ ?_; (on_goal 2 => intro _; clear_value x); (on_goal 1 => subst x))
    | (extract_lets +onlyGivenNames x; clear_value x)
    | split
    | fail_if_no_progress (with_reducible refine Keeps.lit ?_ (by first | exact Nat.le_refl _ | omega) (by first | exact Nat.le_refl _ | omega) (fun w hw => hw))

theorem execStepDelayEnd_keeps (s : State) :
    KeepsRun s (execStepDelayEnd s) := by
  unfold execStepDelayEnd
  repeat' first
    | with_reducible refine KeepsRun.next ?_
    | with_reducible assumption
    | with_reducible exact Keeps.refl _
    | with_reducible apply Keeps.ite
    | (extract_lets +onlyGivenNames x; refine Keeps.cut (x := x) ?_ ?_; (on_goal 2 => intro _; clear_value x); (on_goal 1 => subst x))
    | (extract_lets +onlyGivenNames x; clear_value x)
    | split
    | fail_if_no_progress (with_reducible refine Keeps.lit ?_ (by first | exact Nat.le_refl _ | omega) (by first | exact Nat.le_refl _ | omega) (fun w hw => hw))

theorem execStepTimeout_keeps (s : State) :
    KeepsRun s (execStepTimeout s) := by
  unfold execStepTimeout
  repeat' first
    | with_reducible refine KeepsRun.next ?_
    | with_reducible assumption
    | with_reducible exact Keeps.refl _
    | with_reducible apply State.seqFault_keeps
    | with_reducible apply Keeps.ite

end Sys2Proof.Machine
end

