-- ==== Sys2Proof/Laws/KeepsCacheOps.lean ====
section
/-! SUPPORT. What the operations of Machine/CacheOps.lean keep. -/

namespace Sys2Proof.Machine

theorem State.inlineUnit_keeps {s0 : State} {s : State} {t : Nat} {off : Nat} (hk : Keeps s0 s) :
    Keeps s0 (State.inlineUnit s t off) := by
  unfold State.inlineUnit
  repeat' first
    | with_reducible assumption
    | with_reducible exact Keeps.refl _
    | with_reducible apply State.tally_keeps
    | with_reducible apply Keeps.ite

theorem State.bitmapFill_keeps {s0 : State} {s : State} {t : Nat} {a : Nat} (hk : Keeps s0 s) :
    Keeps s0 (State.bitmapFill s t a) := by
  unfold State.bitmapFill
  repeat' first
    | with_reducible assumption
    | with_reducible exact Keeps.refl _
    | with_reducible apply State.setTl_keeps

theorem State.markPage_keeps {s0 : State} {s : State} {t : Nat} {p : Nat} (hk : Keeps s0 s) :
    Keeps s0 (State.markPage s t p) := by
  unfold State.markPage
  repeat' first
    | with_reducible assumption
    | with_reducible exact Keeps.refl _
    | with_reducible apply State.setTl_keeps

theorem State.clearPage_keeps {s0 : State} {s : State} {t : Nat} {p : Nat} (hk : Keeps s0 s) :
    Keeps s0 (State.clearPage s t p) := by
  unfold State.clearPage
  repeat' first
    | with_reducible assumption
    | with_reducible exact Keeps.refl _
    | with_reducible apply State.setTl_keeps

theorem State.setEv_keeps {s0 : State} {s : State} {k : Nat} {x : EvLine} (hk : Keeps s0 s) :
    Keeps s0 (State.setEv s k x) := by
  unfold State.setEv
  repeat' first
    | with_reducible assumption
    | with_reducible exact Keeps.refl _
    | fail_if_no_progress (with_reducible refine Keeps.lit ?_ (by first | exact Nat.le_refl _ | omega) (by first | exact Nat.le_refl _ | omega) (fun w hw => hw))

theorem State.evDropAll_keeps {s0 : State} {s : State} {t : Nat} {a : Nat} (hk : Keeps s0 s) :
    Keeps s0 (State.evDropAll s t a) := by
  unfold State.evDropAll
  repeat' first
    | with_reducible assumption
    | (intro _; try beta_reduce)
    | with_reducible exact Keeps.refl _
    | with_reducible apply State.setEv_keeps
    | with_reducible apply Keeps.foldl

theorem State.touchWay_keeps {s0 : State} {s : State} {k : Nat} (hk : Keeps s0 s) :
    Keeps s0 (State.touchWay s k) := by
  unfold State.touchWay
  repeat' first
    | with_reducible assumption
    | with_reducible exact Keeps.refl _
    | fail_if_no_progress (with_reducible refine Keeps.lit ?_ (by first | exact Nat.le_refl _ | omega) (by first | exact Nat.le_refl _ | omega) (fun w hw => hw))

theorem State.cleanWay_keeps {s0 : State} {s : State} {k : Nat} (hk : Keeps s0 s) :
    Keeps s0 (State.cleanWay s k) := by
  unfold State.cleanWay
  repeat' first
    | with_reducible assumption
    | with_reducible exact Keeps.refl _
    | with_reducible apply State.setEv_keeps
    | with_reducible apply State.issueWrite_keeps
    | with_reducible apply State.queueWrite_keeps
    | with_reducible apply State.inlineUnit_keeps
    | with_reducible apply Keeps.ite

theorem State.dropWay_keeps {s0 : State} {s : State} {k : Nat} (hk : Keeps s0 s) :
    Keeps s0 (State.dropWay s k) := by
  unfold State.dropWay
  repeat' first
    | with_reducible assumption
    | with_reducible exact Keeps.refl _
    | with_reducible apply State.tally_keeps
    | with_reducible apply State.setEv_keeps
    | with_reducible apply Keeps.ite

theorem State.evAlloc_keeps {s0 : State} {s : State} {t : Nat} {a : Nat} {off : Nat} {n : Nat} (hk : Keeps s0 s) :
    Keeps s0 (State.evAlloc s t a off n).2 := by
  unfold State.evAlloc
  repeat' first
    | with_reducible assumption
    | with_reducible exact Keeps.refl _
    | with_reducible apply State.touchWay_keeps
    | with_reducible apply State.dropWay_keeps
    | with_reducible apply State.cleanWay_keeps
    | with_reducible apply State.setEv_keeps

theorem State.setMerge_keeps {s0 : State} {s : State} {t : Nat} {m : Merge} (hk : Keeps s0 s) :
    Keeps s0 (State.setMerge s t m) := by
  unfold State.setMerge
  repeat' first
    | with_reducible assumption
    | with_reducible exact Keeps.refl _
    | with_reducible apply State.setPt_keeps

theorem State.freeMerge_keeps {s0 : State} {s : State} {t : Nat} {off : Nat} (hk : Keeps s0 s) :
    Keeps s0 (State.freeMerge s t off) := by
  unfold State.freeMerge
  repeat' first
    | with_reducible assumption
    | with_reducible exact Keeps.refl _
    | with_reducible apply State.setPt_keeps

theorem State.mergeOut_keeps {s0 : State} {s : State} {t : Nat} {m : Merge} {base : Line} {p : Bool} (hk : Keeps s0 s) :
    Keeps s0 (State.mergeOut s t m base p) := by
  unfold State.mergeOut
  repeat' first
    | with_reducible assumption
    | with_reducible exact Keeps.refl _
    | with_reducible apply State.issueWrite_keeps
    | with_reducible apply State.freeMerge_keeps
    | with_reducible apply State.queueWrite_keeps
    | with_reducible apply State.inlineUnit_keeps
    | with_reducible apply Keeps.ite

theorem State.placeQuiet_keeps {s0 : State} {s : State} {t : Nat} {off : Nat} {a : Nat} {l : Line} {p : Bool} (hk : Keeps s0 s) :
    Keeps s0 (State.placeQuiet s t off a l p) := by
  unfold State.placeQuiet
  repeat' first
    | with_reducible assumption
    | with_reducible exact Keeps.refl _
    | with_reducible apply State.freeMerge_keeps
    | with_reducible apply State.evDropAll_keeps
    | with_reducible apply State.issueWrite_keeps
    | with_reducible apply State.queueWrite_keeps
    | with_reducible apply State.inlineUnit_keeps
    | with_reducible apply Keeps.ite

theorem State.cleanRange_keeps {s0 : State} {s : State} {t : Nat} {lo : Nat} {hi : Nat} (hk : Keeps s0 s) :
    Keeps s0 (State.cleanRange s t lo hi) := by
  unfold State.cleanRange
  repeat' first
    | with_reducible assumption
    | (intro _; try beta_reduce)
    | with_reducible exact Keeps.refl _
    | with_reducible apply State.cleanWay_keeps
    | with_reducible apply State.mergeOut_keeps
    | with_reducible apply Keeps.foldl

theorem State.decPend_keeps {s0 : State} {s : State} {t : Nat} {off : Nat} {a : Nat} (hk : Keeps s0 s) :
    Keeps s0 (State.decPend s t off a) := by
  unfold State.decPend
  repeat' first
    | with_reducible assumption
    | with_reducible exact Keeps.refl _
    | with_reducible apply State.setWq_keeps
    | with_reducible apply State.setMerge_keeps
    | with_reducible apply State.setEv_keeps
    | with_reducible apply Keeps.ite
    | (extract_lets +onlyGivenNames x; refine Keeps.cut (x := x) ?_ ?_; (on_goal 2 => intro _; clear_value x); (on_goal 1 => subst x))
    | (extract_lets +onlyGivenNames x; clear_value x)
    | split

end Sys2Proof.Machine
end

