-- ==== Sys2Proof/Laws/KeepsMirOps.lean ====
section
/-! SUPPORT. What the operations of Machine/MirOps.lean keep. -/

namespace Sys2Proof.Machine

theorem State.assignFrame_keeps {s0 : State} {s : State} {t : Nat} {mk : Nat → Frame} {resync : Bool} (hk : Keeps s0 s) :
    Keeps s0 (State.assignFrame s t mk resync) := by
  unfold State.assignFrame
  repeat' first
    | with_reducible assumption
    | with_reducible exact Keeps.refl _
    | with_reducible apply State.setMt_keeps

theorem State.issueNonce_keeps {s0 : State} {s : State} {t : Nat} {src : Nat} (hk : Keeps s0 s) :
    Keeps s0 (State.issueNonce s t src).2 := by
  unfold State.issueNonce
  repeat' first
    | with_reducible assumption
    | with_reducible exact Keeps.refl _
    | (extract_lets +onlyGivenNames x; refine Keeps.cut (x := x) ?_ ?_; (on_goal 2 => intro _; clear_value x); (on_goal 1 => subst x))
    | (extract_lets +onlyGivenNames x; clear_value x)
    | fail_if_no_progress (with_reducible refine Keeps.lit ?_ (by first | exact Nat.le_refl _ | omega) (by first | exact Nat.le_refl _ | omega) (fun w hw => hw))

theorem State.countEnc_keeps {s0 : State} {s : State} {t : Nat} {slot : Nat} (hk : Keeps s0 s) :
    Keeps s0 (State.countEnc s t slot).2 := by
  unfold State.countEnc
  repeat' first
    | with_reducible assumption
    | with_reducible exact Keeps.refl _
    | with_reducible apply State.log_keeps
    | with_reducible apply State.setKey_keeps
    | with_reducible apply Keeps.ite
    | (extract_lets +onlyGivenNames x; refine Keeps.cut (x := x) ?_ ?_; (on_goal 2 => intro _; clear_value x); (on_goal 1 => subst x))
    | (extract_lets +onlyGivenNames x; clear_value x)
    | split

theorem State.gcmSeal_keeps {s0 : State} {s : State} {t : Nat} {src : Nat} {slot : Nat} {aad : List Byte} {d : List Byte} (hk : Keeps s0 s) :
    Keeps s0 (State.gcmSeal s t src slot aad d).2 := by
  unfold State.gcmSeal
  repeat' first
    | with_reducible assumption
    | (intro _; try beta_reduce)
    | with_reducible exact Keeps.refl _
    | with_reducible apply State.countEnc_keeps
    | (refine Keeps.ofSnd (State.countEnc_keeps ?_) (by assumption))
    | with_reducible apply State.issueNonce_keeps
    | (refine Keeps.ofSnd (State.issueNonce_keeps ?_) (by assumption))
    | with_reducible apply State.tally_keeps
    | with_reducible apply Keeps.foldl
    | with_reducible apply Keeps.foldlFst
    | with_reducible apply Keeps.foldlSnd
    | with_reducible apply Keeps.ite
    | split

theorem State.sealBody_keeps {s0 : State} {s : State} {t : Nat} {clear : Nat} {b : List Byte} (hk : Keeps s0 s) :
    Keeps s0 (State.sealBody s t clear b).2 := by
  unfold State.sealBody
  repeat' first
    | with_reducible assumption
    | with_reducible exact Keeps.refl _
    | with_reducible apply State.gcmSeal_keeps
    | (refine Keeps.ofSnd (State.gcmSeal_keeps ?_) (by assumption))
    | with_reducible apply Keeps.ite
    | split

theorem State.sendMsg_keeps {s0 : State} {s : State} {c : Nat} {t : Nat} {type : Nat} {clear : Nat} {seq0 : Nat} {frames : Nat} {path : Nat} {b : List Byte} (hk : Keeps s0 s) :
    Keeps s0 (State.sendMsg s c t type clear seq0 frames path b) := by
  unfold State.sendMsg
  repeat' first
    | with_reducible assumption
    | with_reducible exact Keeps.refl _
    | with_reducible apply State.sealBody_keeps
    | (refine Keeps.ofSnd (State.sealBody_keeps ?_) (by assumption))
    | with_reducible apply State.emit_keeps
    | with_reducible apply State.setMt_keeps
    | (extract_lets +onlyGivenNames x; refine Keeps.cut (x := x) ?_ ?_; (on_goal 2 => intro _; clear_value x); (on_goal 1 => subst x))
    | (extract_lets +onlyGivenNames x; clear_value x)
    | split

theorem State.isahar_keeps {s0 : State} {s : State} {t : Nat} {type : Nat} {ws : List Word} (hk : Keeps s0 s) :
    Keeps s0 (State.isahar s t type ws) := by
  unfold State.isahar
  repeat' first
    | with_reducible assumption
    | with_reducible exact Keeps.refl _
    | with_reducible apply State.sendMsg_keeps
    | split

theorem State.sendLrq_keeps {s0 : State} {s : State} {t : Nat} {off : Nat} {count : Nat} {why : LrqFor} {urgency : Nat} (hk : Keeps s0 s) :
    Keeps s0 (State.sendLrq s t off count why urgency) := by
  unfold State.sendLrq
  repeat' first
    | with_reducible assumption
    | with_reducible exact Keeps.refl _
    | with_reducible apply State.isahar_keeps
    | with_reducible apply State.setMt_keeps

end Sys2Proof.Machine
end

