-- ==== Sys2Proof/Laws/KeepsServe.lean ====
section
/-! SUPPORT. What the operations of Machine/Serve.lean keep. -/

namespace Sys2Proof.Machine

theorem State.tallyOnce_keeps {s0 : State} {s : State} {r : Req} {k : Nat} {t : Nat} {b : Nat} {ev : Nat} (hk : Keeps s0 s) :
    Keeps s0 (State.tallyOnce s r k t b ev) := by
  unfold State.tallyOnce
  repeat' first
    | with_reducible assumption
    | with_reducible exact Keeps.refl _
    | with_reducible apply State.tally_keeps
    | with_reducible apply Keeps.ite

theorem State.addStall_keeps {s0 : State} {s : State} {sess : Nat} {t : Nat} {k : Nat} {n : Nat} (hk : Keeps s0 s) :
    Keeps s0 (State.addStall s sess t k n) := by
  unfold State.addStall
  repeat' first
    | with_reducible assumption
    | with_reducible exact Keeps.refl _
    | with_reducible apply State.setCtr_keeps

theorem State.stallNs_keeps {s0 : State} {s : State} {r : Req} {st : Option (Nat × Nat)} (hk : Keeps s0 s) :
    Keeps s0 (State.stallNs s r st) := by
  unfold State.stallNs
  repeat' first
    | with_reducible assumption
    | with_reducible exact Keeps.refl _
    | with_reducible apply State.addStall_keeps
    | with_reducible apply Keeps.ite
    | split

theorem State.endStall_keeps {s0 : State} {s : State} {r : Req} {st : Option (Nat × Nat)} (hk : Keeps s0 s) :
    Keeps s0 (State.endStall s r st) := by
  unfold State.endStall
  repeat' first
    | with_reducible assumption
    | with_reducible exact Keeps.refl _
    | with_reducible apply State.tally_keeps
    | with_reducible apply State.addStall_keeps
    | with_reducible apply State.stallNs_keeps
    | with_reducible apply Keeps.ite
    | split

theorem State.hold_keeps {s0 : State} {s : State} {r : Req} {why : Why} {cause : Option Nat} {prev : Option (Nat × Nat)} (hk : Keeps s0 s) :
    Keeps s0 (State.hold s r why cause prev) := by
  unfold State.hold
  repeat' first
    | with_reducible assumption
    | with_reducible exact Keeps.refl _
    | with_reducible apply State.stallNs_keeps
    | with_reducible apply State.endStall_keeps
    | with_reducible apply Keeps.ite
    | (extract_lets +onlyGivenNames x; refine Keeps.cut (x := x) ?_ ?_; (on_goal 2 => intro _; clear_value x); (on_goal 1 => subst x))
    | (extract_lets +onlyGivenNames x; clear_value x)
    | split
    | fail_if_no_progress (with_reducible refine Keeps.lit ?_ (by first | exact Nat.le_refl _ | omega) (by first | exact Nat.le_refl _ | omega) (fun w hw => hw))

theorem State.ctxStored_keeps {s0 : State} {s : State} {n : Nat} {ok : Bool} {st : Status} (hk : Keeps s0 s) :
    Keeps s0 (State.ctxStored s n ok st) := by
  unfold State.ctxStored
  repeat' first
    | with_reducible assumption
    | with_reducible exact Keeps.refl _
    | with_reducible apply State.finishR_keeps
    | with_reducible apply State.finishLong_keeps
    | with_reducible apply State.setCtx_keeps
    | with_reducible apply Keeps.ite
    | (extract_lets +onlyGivenNames x; refine Keeps.cut (x := x) ?_ ?_; (on_goal 2 => intro _; clear_value x); (on_goal 1 => subst x))
    | (extract_lets +onlyGivenNames x; clear_value x)
    | split
    | fail_if_no_progress (with_reducible refine Keeps.lit ?_ (by first | exact Nat.le_refl _ | omega) (by first | exact Nat.le_refl _ | omega) (fun w hw => hw))

theorem State.tallyUrgency_keeps {s0 : State} {s : State} {r : Req} (hk : Keeps s0 s) :
    Keeps s0 (State.tallyUrgency s r) := by
  unfold State.tallyUrgency
  repeat' first
    | with_reducible assumption
    | (intro _; try beta_reduce)
    | with_reducible exact Keeps.refl _
    | with_reducible apply State.tally_keeps
    | with_reducible apply Keeps.foldl
    | with_reducible apply Keeps.foldlFst
    | with_reducible apply Keeps.foldlSnd
    | with_reducible apply Keeps.ite

theorem State.answer_keeps {s0 : State} {s : State} {r : Req} {code : Nat} {data : Line} {poison : Bool} {st : Status} (hk : Keeps s0 s) :
    Keeps s0 (State.answer s r code data poison st) := by
  unfold State.answer
  repeat' first
    | with_reducible assumption
    | with_reducible exact Keeps.refl _
    | with_reducible apply State.tally_keeps
    | with_reducible apply State.tallyUrgency_keeps
    | with_reducible apply State.ctxStored_keeps
    | with_reducible apply State.emit_keeps
    | with_reducible apply Keeps.ite
    | (extract_lets +onlyGivenNames x; refine Keeps.cut (x := x) ?_ ?_; (on_goal 2 => intro _; clear_value x); (on_goal 1 => subst x))
    | (extract_lets +onlyGivenNames x; clear_value x)
    | split
    | fail_if_no_progress (with_reducible refine Keeps.lit ?_ (by first | exact Nat.le_refl _ | omega) (by first | exact Nat.le_refl _ | omega) (fun w hw => hw))

theorem State.setHome_keeps {s0 : State} {s : State} {t : Nat} {p : Nat} {w : Word} (hk : Keeps s0 s) :
    Keeps s0 (State.setHome s t p w) := by
  unfold State.setHome
  repeat' first
    | with_reducible assumption
    | with_reducible exact Keeps.refl _
    | fail_if_no_progress (with_reducible refine Keeps.lit ?_ (by first | exact Nat.le_refl _ | omega) (by first | exact Nat.le_refl _ | omega) (fun w hw => hw))

theorem State.wantMove_keeps {s0 : State} {s : State} {t : Nat} {p : Nat} {sess : Nat} {dest : Nat} {demand : Bool} (hk : Keeps s0 s) :
    Keeps s0 (State.wantMove s t p sess dest demand) := by
  unfold State.wantMove
  repeat' first
    | with_reducible assumption
    | with_reducible exact Keeps.refl _
    | with_reducible apply State.setTt_keeps
    | with_reducible apply Keeps.ite

theorem State.tlbTouch_keeps {s0 : State} {s : State} {t : Nat} {p : Nat} (hk : Keeps s0 s) :
    Keeps s0 (State.tlbTouch s t p) := by
  unfold State.tlbTouch
  repeat' first
    | with_reducible assumption
    | with_reducible exact Keeps.refl _
    | with_reducible apply State.setPt_keeps

theorem State.enqRead_keeps {s0 : State} {s : State} {t : Nat} {a : Nat} {off : Nat} {sess : Nat} {why : RdFor} {stamp : Nat} {target : Nat} (hk : Keeps s0 s) :
    Keeps s0 (State.enqRead s t a off sess why stamp target) := by
  unfold State.enqRead
  repeat' first
    | with_reducible assumption
    | with_reducible exact Keeps.refl _
    | with_reducible apply State.setRq_keeps
    | with_reducible apply Keeps.ite

theorem State.awaitRead_keeps {s0 : State} {s : State} {r : Req} {a : Nat} {off : Nat} {sess : Nat} {why : RdFor} {w : Why} {prev : Option (Nat × Nat)} (hk : Keeps s0 s) :
    Keeps s0 (State.awaitRead s r a off sess why w prev) := by
  unfold State.awaitRead
  repeat' first
    | with_reducible assumption
    | with_reducible exact Keeps.refl _
    | with_reducible apply State.hold_keeps
    | with_reducible apply State.enqRead_keeps
    | with_reducible apply Keeps.ite

theorem State.setStream_keeps {s0 : State} {s : State} {t : Nat} {x : Stream} (hk : Keeps s0 s) :
    Keeps s0 (State.setStream s t x) := by
  unfold State.setStream
  repeat' first
    | with_reducible assumption
    | with_reducible exact Keeps.refl _
    | with_reducible apply State.setPt_keeps

theorem State.noteStore_keeps {s0 : State} {s : State} {t : Nat} {r : Req} (hk : Keeps s0 s) :
    Keeps s0 (State.noteStore s t r) := by
  unfold State.noteStore
  repeat' first
    | with_reducible assumption
    | with_reducible exact Keeps.refl _
    | with_reducible apply State.setStream_keeps
    | with_reducible apply Keeps.ite

theorem State.noteRead_keeps {s0 : State} {s : State} {t : Nat} {r : Req} (hk : Keeps s0 s) :
    Keeps s0 (State.noteRead s t r) := by
  unfold State.noteRead
  repeat' first
    | with_reducible assumption
    | with_reducible exact Keeps.refl _
    | with_reducible apply State.tally_keeps
    | with_reducible apply State.setStream_keeps
    | with_reducible apply Keeps.ite

theorem State.noteStream_keeps {s0 : State} {s : State} {r : Req} (hk : Keeps s0 s) :
    Keeps s0 (State.noteStream s r) := by
  unfold State.noteStream
  repeat' first
    | with_reducible assumption
    | with_reducible exact Keeps.refl _
    | with_reducible apply State.noteRead_keeps
    | with_reducible apply State.noteStore_keeps
    | with_reducible apply Keeps.ite

theorem State.ackStore_keeps {s0 : State} {s : State} {r : Req} {old : BitVec 128} {before : Option (Line × Bool)} (hk : Keeps s0 s) :
    Keeps s0 (State.ackStore s r old before) := by
  unfold State.ackStore
  repeat' first
    | with_reducible assumption
    | with_reducible exact Keeps.refl _
    | with_reducible apply State.assignFrame_keeps
    | with_reducible apply State.answer_keeps
    | with_reducible apply Keeps.ite
    | (extract_lets +onlyGivenNames x; refine Keeps.cut (x := x) ?_ ?_; (on_goal 2 => intro _; clear_value x); (on_goal 1 => subst x))
    | (extract_lets +onlyGivenNames x; clear_value x)
    | split
    | fail_if_no_progress (with_reducible refine Keeps.lit ?_ (by first | exact Nat.le_refl _ | omega) (by first | exact Nat.le_refl _ | omega) (fun w hw => hw))

theorem State.placeStore_keeps {s0 : State} {s : State} {r : Req} {a : Nat} (hk : Keeps s0 s) :
    Keeps s0 (State.placeStore s r a) := by
  unfold State.placeStore
  repeat' first
    | with_reducible assumption
    | with_reducible exact Keeps.refl _
    | with_reducible apply State.setEv_keeps
    | with_reducible apply State.touchWay_keeps
    | with_reducible apply State.evAlloc_keeps
    | (refine Keeps.ofSnd (State.evAlloc_keeps ?_) (by assumption))
    | with_reducible apply State.freeMerge_keeps
    | with_reducible apply State.setMerge_keeps
    | with_reducible apply State.tally_keeps
    | with_reducible apply Keeps.ite
    | (extract_lets +onlyGivenNames x; refine Keeps.cut (x := x) ?_ ?_; (on_goal 2 => intro _; clear_value x); (on_goal 1 => subst x))
    | (extract_lets +onlyGivenNames x; clear_value x)
    | split

theorem State.notePoison_keeps {s0 : State} {s : State} {r : Req} (hk : Keeps s0 s) :
    Keeps s0 (State.notePoison s r) := by
  unfold State.notePoison
  repeat' first
    | with_reducible assumption
    | with_reducible exact Keeps.refl _
    | with_reducible apply State.enterPoison_keeps
    | with_reducible apply State.leavePoison_keeps
    | with_reducible apply Keeps.ite

theorem State.tallyLookup_keeps {s0 : State} {s : State} {r : Req} {a : Nat} (hk : Keeps s0 s) :
    Keeps s0 (State.tallyLookup s r a) := by
  unfold State.tallyLookup
  repeat' first
    | with_reducible assumption
    | with_reducible exact Keeps.refl _
    | with_reducible apply State.tallyOnce_keeps

theorem State.roomWait_keeps {s0 : State} {s : State} {r : Req} {prev : Option (Nat × Nat)} (hk : Keeps s0 s) :
    Keeps s0 (State.roomWait s r prev) := by
  unfold State.roomWait
  repeat' first
    | with_reducible assumption
    | with_reducible exact Keeps.refl _
    | with_reducible apply State.countP_keeps
    | with_reducible apply State.tally_keeps
    | with_reducible apply State.hold_keeps
    | with_reducible apply Keeps.ite

theorem State.serveStore_keeps {s0 : State} {s : State} {r : Req} {a : Nat} {prev : Option (Nat × Nat)} (hk : Keeps s0 s) :
    Keeps s0 (State.serveStore s r a prev) := by
  unfold State.serveStore
  repeat' first
    | with_reducible assumption
    | with_reducible exact Keeps.refl _
    | with_reducible apply State.hold_keeps
    | with_reducible apply State.awaitRead_keeps
    | with_reducible apply State.roomWait_keeps
    | with_reducible apply State.tallyLookup_keeps
    | with_reducible apply State.endStall_keeps
    | with_reducible apply State.ackStore_keeps
    | with_reducible apply State.notePoison_keeps
    | with_reducible apply State.placeStore_keeps
    | with_reducible apply State.markPage_keeps
    | with_reducible apply State.bitmapFill_keeps
    | with_reducible apply Keeps.ite

theorem State.giveRead_keeps {s0 : State} {s : State} {r : Req} {l : Line} {p : Bool} (hk : Keeps s0 s) :
    Keeps s0 (State.giveRead s r l p) := by
  unfold State.giveRead
  repeat' first
    | with_reducible assumption
    | with_reducible exact Keeps.refl _
    | with_reducible apply State.answer_keeps

theorem State.serveRead_keeps {s0 : State} {s : State} {r : Req} {a : Nat} {prev : Option (Nat × Nat)} (hk : Keeps s0 s) :
    Keeps s0 (State.serveRead s r a prev) := by
  unfold State.serveRead
  repeat' first
    | with_reducible assumption
    | with_reducible exact Keeps.refl _
    | with_reducible apply State.tallyLookup_keeps
    | with_reducible apply State.endStall_keeps
    | with_reducible apply State.giveRead_keeps
    | with_reducible apply State.setEv_keeps
    | with_reducible apply State.touchWay_keeps
    | with_reducible apply State.awaitRead_keeps
    | with_reducible apply Keeps.ite
    | (extract_lets +onlyGivenNames x; refine Keeps.cut (x := x) ?_ ?_; (on_goal 2 => intro _; clear_value x); (on_goal 1 => subst x))
    | (extract_lets +onlyGivenNames x; clear_value x)
    | split

theorem State.serveAtomic_keeps {s0 : State} {s : State} {r : Req} {a : Nat} {prev : Option (Nat × Nat)} (hk : Keeps s0 s) :
    Keeps s0 (State.serveAtomic s r a prev) := by
  unfold State.serveAtomic
  repeat' first
    | with_reducible assumption
    | with_reducible exact Keeps.refl _
    | with_reducible apply State.hold_keeps
    | with_reducible apply State.awaitRead_keeps
    | with_reducible apply State.roomWait_keeps
    | with_reducible apply State.tallyLookup_keeps
    | with_reducible apply State.answer_keeps
    | with_reducible apply State.endStall_keeps
    | with_reducible apply State.tally_keeps
    | with_reducible apply State.markPage_keeps
    | with_reducible apply State.bitmapFill_keeps
    | with_reducible apply State.ackStore_keeps
    | with_reducible apply State.placeStore_keeps
    | with_reducible apply Keeps.ite
    | (extract_lets +onlyGivenNames x; refine Keeps.cut (x := x) ?_ ?_; (on_goal 2 => intro _; clear_value x); (on_goal 1 => subst x))
    | (extract_lets +onlyGivenNames x; clear_value x)
    | split

theorem State.serveFenced_keeps {s0 : State} {s : State} {r : Req} {a : Option Nat} {prev : Option (Nat × Nat)} (hk : Keeps s0 s) :
    Keeps s0 (State.serveFenced s r a prev) := by
  unfold State.serveFenced
  repeat' first
    | with_reducible assumption
    | with_reducible exact Keeps.refl _
    | with_reducible apply State.endStall_keeps
    | with_reducible apply State.hold_keeps
    | with_reducible apply State.sendLrq_keeps
    | with_reducible apply State.answer_keeps
    | with_reducible apply State.ackStore_keeps
    | with_reducible apply State.markPage_keeps
    | with_reducible apply Keeps.ite
    | (extract_lets +onlyGivenNames x; refine Keeps.cut (x := x) ?_ ?_; (on_goal 2 => intro _; clear_value x); (on_goal 1 => subst x))
    | (extract_lets +onlyGivenNames x; (first | (have h1 := fun q => x q; clear h1; subst x; beta_reduce) | clear_value x))
    | split

theorem State.fencedAtomic_keeps {s0 : State} {s : State} {r : Req} {l : Line} {p : Bool} (hk : Keeps s0 s) :
    Keeps s0 (State.fencedAtomic s r l p) := by
  unfold State.fencedAtomic
  repeat' first
    | with_reducible assumption
    | with_reducible exact Keeps.refl _
    | with_reducible apply State.answer_keeps
    | with_reducible apply State.hold_keeps
    | with_reducible apply State.ackStore_keeps
    | with_reducible apply Keeps.ite

theorem State.serveHome_keeps {s0 : State} {s : State} {r : Req} {prev : Option (Nat × Nat)} (hk : Keeps s0 s) :
    Keeps s0 (State.serveHome s r prev) := by
  unfold State.serveHome
  repeat' first
    | with_reducible assumption
    | with_reducible exact Keeps.refl _
    | with_reducible apply State.serveFenced_keeps
    | with_reducible apply State.hold_keeps
    | with_reducible apply State.serveRead_keeps
    | with_reducible apply State.serveStore_keeps
    | with_reducible apply State.serveAtomic_keeps
    | with_reducible apply State.awaitRead_keeps
    | with_reducible apply State.tallyOnce_keeps
    | with_reducible apply State.tlbTouch_keeps
    | with_reducible apply State.answer_keeps
    | with_reducible apply State.endStall_keeps
    | with_reducible apply State.wantMove_keeps
    | with_reducible apply Keeps.ite
    | (extract_lets +onlyGivenNames x; refine Keeps.cut (x := x) ?_ ?_; (on_goal 2 => intro _; clear_value x); (on_goal 1 => subst x))
    | (extract_lets +onlyGivenNames x; (first | (have h1 := fun q => x q; clear h1; subst x; beta_reduce) | clear_value x))
    | split

end Sys2Proof.Machine
end

