-- ==== Sys2Proof/Laws/KeepsRequest.lean ====
section
/-! SUPPORT. What the operations of Machine/Request.lean keep. -/

namespace Sys2Proof.Machine

theorem State.enterSub_keeps {s0 s t : State} {n : Nat} {b : Sub} (h : Keeps s0 s) (e : s.enterSub n b = some t) : Keeps s0 t := by
  unfold State.enterSub at e
  dsimp only at e
  split at e <;> cases e
  exact State.setCtx_keeps h

theorem State.slipStray_keeps {s0 : State} {s : State} {n : Nat} (hk : Keeps s0 s) :
    Keeps s0 (State.slipStray s n) := by
  unfold State.slipStray
  repeat' first
    | with_reducible assumption
    | with_reducible exact Keeps.refl _
    | with_reducible apply State.countP_keeps

theorem State.setSlip_keeps {s0 : State} {s : State} {n : Nat} {x : Slip} (hk : Keeps s0 s) :
    Keeps s0 (State.setSlip s n x) := by
  unfold State.setSlip
  repeat' first
    | with_reducible assumption
    | with_reducible exact Keeps.refl _
    | with_reducible apply State.setSess_keeps

theorem State.slipBreak_keeps {s0 : State} {s : State} {n : Nat} (hk : Keeps s0 s) :
    Keeps s0 (State.slipBreak s n) := by
  unfold State.slipBreak
  repeat' first
    | with_reducible assumption
    | with_reducible exact Keeps.refl _
    | with_reducible apply State.slipStray_keeps
    | with_reducible apply State.setSlip_keeps

theorem State.slipCommit_keeps {s0 : State} {s : State} {n : Nat} {w : Word} (hk : Keeps s0 s) :
    Keeps s0 (State.slipCommit s n w) := by
  unfold State.slipCommit
  repeat' first
    | with_reducible assumption
    | with_reducible exact Keeps.refl _
    | (refine State.enterSub_keeps ?_ (by assumption))
    | (refine Keeps.getD (fun _ e => State.enterSub_keeps ?_ e) ?_)
    | with_reducible apply State.setSlip_keeps
    | with_reducible apply State.slipBreak_keeps
    | with_reducible apply Keeps.ite
    | (extract_lets +onlyGivenNames x; refine Keeps.cut (x := x) ?_ ?_; (on_goal 2 => intro _; clear_value x); (on_goal 1 => subst x))
    | (extract_lets +onlyGivenNames x; clear_value x)
    | split

theorem State.slipWord_keeps {s0 : State} {s : State} {n : Nat} {off : Nat} {w : Word} {stamp : Nat} (hk : Keeps s0 s) :
    Keeps s0 (State.slipWord s n off w stamp).1 := by
  unfold State.slipWord
  repeat' first
    | with_reducible assumption
    | with_reducible exact Keeps.refl _
    | with_reducible apply State.setSlip_keeps
    | with_reducible apply State.slipBreak_keeps
    | with_reducible apply State.slipCommit_keeps
    | with_reducible apply State.slipStray_keeps
    | with_reducible apply Keeps.ite
    | (extract_lets +onlyGivenNames x; refine Keeps.cut (x := x) ?_ ?_; (on_goal 2 => intro _; clear_value x); (on_goal 1 => subst x))
    | (extract_lets +onlyGivenNames x; clear_value x)
    | split

theorem State.slipWrite_keeps {s0 : State} {s : State} {r : Req} (hk : Keeps s0 s) :
    Keeps s0 (State.slipWrite s r) := by
  unfold State.slipWrite
  repeat' first
    | with_reducible assumption
    | (intro _; try beta_reduce)
    | with_reducible exact Keeps.refl _
    | with_reducible apply State.slipStray_keeps
    | with_reducible apply State.slipBreak_keeps
    | with_reducible apply State.slipWord_keeps
    | (refine Keeps.ofFst (State.slipWord_keeps ?_) (by assumption))
    | with_reducible apply State.setSlip_keeps
    | with_reducible apply Keeps.foldl
    | with_reducible apply Keeps.foldlFst
    | with_reducible apply Keeps.foldlSnd
    | with_reducible apply Keeps.ite
    | split

theorem State.serveReq_keeps {s0 : State} {s : State} {r : Req} {prev : Option (Nat × Nat)} (hk : Keeps s0 s) :
    Keeps s0 (State.serveReq s r prev) := by
  unfold State.serveReq
  repeat' first
    | with_reducible assumption
    | with_reducible exact Keeps.refl _
    | with_reducible apply State.hold_keeps
    | with_reducible apply State.tallyOnce_keeps
    | with_reducible apply State.noteStream_keeps
    | with_reducible apply State.answer_keeps
    | with_reducible apply State.slipWrite_keeps
    | with_reducible apply State.serveHome_keeps
    | with_reducible apply Keeps.ite

theorem State.leaveIngress_keeps {s0 : State} {s : State} {w : Wait} (hk : Keeps s0 s) :
    Keeps s0 (State.leaveIngress s w) := by
  unfold State.leaveIngress
  repeat' first
    | with_reducible assumption
    | with_reducible exact Keeps.refl _
    | with_reducible apply State.setLink_keeps
    | with_reducible apply Keeps.ite

theorem State.settle_keeps {s0 : State} {k : Nat} {s : State} (h : Keeps s0 s) : Keeps s0 (State.settle k s) := by
  induction k generalizing s with
  | zero => exact h
  | succ k ih =>
    unfold State.settle
    split
    · exact ih (State.serveReq_keeps (State.leaveIngress_keeps (h.trans ⟨id, rfl, rfl, Nat.le_refl _, Nat.le_refl _, fun _ hw => hw⟩)))
    · exact h

theorem State.release_keeps {s0 : State} {s : State} {p : Wait → Bool} (hk : Keeps s0 s) :
    Keeps s0 (State.release s p) := by
  unfold State.release
  repeat' first
    | with_reducible assumption
    | (intro _; try beta_reduce)
    | with_reducible exact Keeps.refl _
    | with_reducible apply State.serveReq_keeps
    | with_reducible apply State.settle_keeps
    | with_reducible apply Keeps.foldl
    | with_reducible apply Keeps.foldlFst
    | with_reducible apply Keeps.foldlSnd
    | (extract_lets +onlyGivenNames x; refine Keeps.cut (x := x) ?_ ?_; (on_goal 2 => intro _; clear_value x); (on_goal 1 => subst x))
    | (extract_lets +onlyGivenNames x; clear_value x)
    | fail_if_no_progress (with_reducible refine Keeps.lit ?_ (by first | exact Nat.le_refl _ | omega) (by first | exact Nat.le_refl _ | omega) (fun w hw => hw))

theorem State.kick_keeps {s0 : State} {s : State} {t : Nat} {ys : List Why} (hk : Keeps s0 s) :
    Keeps s0 (State.kick s t ys) := by
  unfold State.kick
  repeat' first
    | with_reducible assumption
    | with_reducible exact Keeps.refl _
    | with_reducible apply State.release_keeps

theorem State.logViol_keeps {s0 : State} {s : State} {e : VEntry} {t : Nat} {d : Nat} (hk : Keeps s0 s) :
    Keeps s0 (State.logViol s e t d) := by
  unfold State.logViol
  repeat' first
    | with_reducible assumption
    | with_reducible exact Keeps.refl _
    | with_reducible apply State.setBar_keeps

theorem State.violate_keeps {s0 : State} {s : State} {v : Via} {k : RKind} {tile : Nat} {link : Nat} {ld : Nat} {tag : Nat} {hpa : Nat} {stamp : Nat} {cause : Nat} {sess : Option Nat} {pbr : Option Nat} (hk : Keeps s0 s) :
    Keeps s0 (State.violate s v k tile link ld tag hpa stamp cause sess pbr) := by
  unfold State.violate
  repeat' first
    | with_reducible assumption
    | with_reducible exact Keeps.refl _
    | with_reducible apply State.setBar_keeps
    | with_reducible apply State.tally_keeps
    | with_reducible apply State.logViol_keeps
    | with_reducible apply State.emit_keeps
    | with_reducible apply Keeps.ite
    | (extract_lets +onlyGivenNames x; refine Keeps.cut (x := x) ?_ ?_; (on_goal 2 => intro _; clear_value x); (on_goal 1 => subst x))
    | (extract_lets +onlyGivenNames x; clear_value x)
    | split
    | fail_if_no_progress (with_reducible refine Keeps.lit ?_ (by first | exact Nat.le_refl _ | omega) (by first | exact Nat.le_refl _ | omega) (fun w hw => hw))

theorem State.refuseReq_keeps {s0 : State} {s : State} {v : Via} {q : Req} {cause : Nat} {sess : Option Nat} (hk : Keeps s0 s) :
    Keeps s0 (State.refuseReq s v q cause sess) := by
  unfold State.refuseReq
  repeat' first
    | with_reducible assumption
    | with_reducible exact Keeps.refl _
    | with_reducible apply State.violate_keeps
    | with_reducible apply Keeps.ite
    | split
    | fail_if_no_progress (with_reducible refine Keeps.lit ?_ (by first | exact Nat.le_refl _ | omega) (by first | exact Nat.le_refl _ | omega) (fun w hw => hw))

theorem State.noteCredits_keeps {s0 : State} {s : State} {t : Nat} {k : Nat} (hk : Keeps s0 s) :
    Keeps s0 (State.noteCredits s t k) := by
  unfold State.noteCredits
  repeat' first
    | with_reducible assumption
    | (intro _; try beta_reduce)
    | with_reducible exact Keeps.refl _
    | with_reducible apply State.tally_keeps
    | with_reducible apply State.setLink_keeps
    | with_reducible apply Keeps.foldl
    | with_reducible apply Keeps.foldlFst
    | with_reducible apply Keeps.foldlSnd
    | with_reducible apply Keeps.ite

theorem State.keepCredit_keeps {s0 : State} {s : State} {r : Req} (hk : Keeps s0 s) :
    Keeps s0 (State.keepCredit s r) := by
  unfold State.keepCredit
  repeat' first
    | with_reducible assumption
    | with_reducible exact Keeps.refl _
    | with_reducible apply State.setLink_keeps
    | with_reducible apply Keeps.ite

theorem State.dispatch_keeps {s0 : State} {s : State} {r : Req} (hk : Keeps s0 s) :
    Keeps s0 (State.dispatch s r) := by
  unfold State.dispatch
  repeat' first
    | with_reducible assumption
    | with_reducible exact Keeps.refl _
    | with_reducible apply State.noteCredits_keeps
    | with_reducible apply State.hold_keeps
    | with_reducible apply State.keepCredit_keeps
    | with_reducible apply State.serveReq_keeps
    | with_reducible apply Keeps.ite

theorem State.takeIn_keeps {s0 : State} {s : State} {v : Via} {q : Req} (hk : Keeps s0 s) :
    Keeps s0 (State.takeIn s v q) := by
  unfold State.takeIn
  repeat' first
    | with_reducible assumption
    | with_reducible exact Keeps.refl _
    | with_reducible apply State.refuseReq_keeps
    | with_reducible apply State.keepCredit_keeps
    | with_reducible apply State.serveReq_keeps
    | with_reducible apply State.tally_keeps
    | with_reducible apply State.setPt_keeps
    | with_reducible apply State.dispatch_keeps
    | with_reducible apply Keeps.ite
    | split

theorem State.oneLine_keeps {s0 : State} {s : State} {v : Via} {q : Req} (hk : Keeps s0 s) :
    Keeps s0 (State.oneLine s v q) := by
  unfold State.oneLine
  repeat' first
    | with_reducible assumption
    | with_reducible exact Keeps.refl _
    | with_reducible apply State.hold_keeps
    | with_reducible apply State.takeIn_keeps
    | with_reducible apply Keeps.ite

theorem State.letIn_keeps {s0 : State} {s : State} {t : Nat} (hk : Keeps s0 s) :
    Keeps s0 (State.letIn s t) := by
  unfold State.letIn
  repeat' first
    | with_reducible assumption
    | (intro _; try beta_reduce)
    | with_reducible exact Keeps.refl _
    | with_reducible apply State.takeIn_keeps
    | with_reducible apply Keeps.foldl
    | with_reducible apply Keeps.foldlFst
    | with_reducible apply Keeps.foldlSnd
    | (extract_lets +onlyGivenNames x; refine Keeps.cut (x := x) ?_ ?_; (on_goal 2 => intro _; clear_value x); (on_goal 1 => subst x))
    | (extract_lets +onlyGivenNames x; (first | (have h1 := fun q => x q; clear h1; subst x; beta_reduce) | clear_value x))
    | split
    | fail_if_no_progress (with_reducible refine Keeps.lit ?_ (by first | exact Nat.le_refl _ | omega) (by first | exact Nat.le_refl _ | omega) (fun w hw => hw))

theorem execCxlMemRead_keeps (tile : Nat) (link : Nat) (ld : Nat) (tag : Nat) (hpa : Nat) (s : State) :
    KeepsRun s (execCxlMemRead tile link ld tag hpa s) := by
  unfold execCxlMemRead
  repeat' first
    | with_reducible refine KeepsRun.next ?_
    | with_reducible assumption
    | with_reducible exact Keeps.refl _
    | with_reducible apply State.oneLine_keeps
    | with_reducible apply Keeps.ite

theorem execCxlMemStore_keeps (tile : Nat) (link : Nat) (ld : Nat) (tag : Nat) (hpa : Nat) (mask : Mask) (data : Line) (poison : Bool) (s : State) :
    KeepsRun s (execCxlMemStore tile link ld tag hpa mask data poison s) := by
  unfold execCxlMemStore
  repeat' first
    | with_reducible refine KeepsRun.next ?_
    | with_reducible assumption
    | with_reducible exact Keeps.refl _
    | with_reducible apply State.oneLine_keeps
    | with_reducible apply Keeps.ite

theorem execSlipwayWrite_keeps (tile : Nat) (link : Nat) (ld : Nat) (tag : Nat) (hpa : Nat) (mask : Mask) (data : Line) (s : State) :
    KeepsRun s (execSlipwayWrite tile link ld tag hpa mask data s) := by
  unfold execSlipwayWrite
  repeat' first
    | with_reducible refine KeepsRun.next ?_
    | with_reducible assumption
    | with_reducible exact Keeps.refl _
    | with_reducible apply State.oneLine_keeps
    | with_reducible apply Keeps.ite
    | (extract_lets +onlyGivenNames x; refine Keeps.cut (x := x) ?_ ?_; (on_goal 2 => intro _; clear_value x); (on_goal 1 => subst x))
    | (extract_lets +onlyGivenNames x; clear_value x)
    | split

theorem State.uioRequest_keeps {s0 : State} {s : State} {via : Via} {write : Bool} {tile : Nat} {link : Nat} {ld : Nat} {tag : Nat} {hpa : Nat} {len : Nat} {data : List Byte} (hk : Keeps s0 s) :
    Keeps s0 (State.uioRequest s via write tile link ld tag hpa len data) := by
  unfold State.uioRequest
  repeat' first
    | with_reducible assumption
    | (intro _; try beta_reduce)
    | with_reducible exact Keeps.refl _
    | with_reducible apply State.oneLine_keeps
    | with_reducible apply Keeps.foldl
    | with_reducible apply Keeps.foldlFst
    | with_reducible apply Keeps.foldlSnd
    | with_reducible apply Keeps.ite
    | (extract_lets +onlyGivenNames x; refine Keeps.cut (x := x) ?_ ?_; (on_goal 2 => intro _; clear_value x); (on_goal 1 => subst x))
    | (extract_lets +onlyGivenNames x; clear_value x)
    | split
    | fail_if_no_progress (with_reducible refine Keeps.lit ?_ (by first | exact Nat.le_refl _ | omega) (by first | exact Nat.le_refl _ | omega) (fun w hw => hw))

theorem execRemoteAtomic_keeps (via : Via) (op : Atomic) (bytes : Nat) (tile : Nat) (link : Nat) (ld : Nat) (tag : Nat) (hpa : Nat) (a : BitVec 128) (b : BitVec 128) (s : State) :
    KeepsRun s (execRemoteAtomic via op bytes tile link ld tag hpa a b s) := by
  unfold execRemoteAtomic
  repeat' first
    | with_reducible refine KeepsRun.next ?_
    | with_reducible assumption
    | with_reducible exact Keeps.refl _
    | with_reducible apply State.emit_keeps
    | with_reducible apply State.oneLine_keeps
    | with_reducible apply Keeps.ite

theorem execUnsupportedRequest_keeps (tile : Nat) (link : Nat) (ld : Nat) (tag : Nat) (s : State) :
    KeepsRun s (execUnsupportedRequest tile link ld tag s) := by
  unfold execUnsupportedRequest
  repeat' first
    | with_reducible refine KeepsRun.next ?_
    | with_reducible assumption
    | with_reducible exact Keeps.refl _
    | with_reducible apply State.emit_keeps
    | with_reducible apply Keeps.ite

theorem execViolationInterrupt_keeps (tile : Nat) (ld : Nat) (s : State) :
    KeepsRun s (execViolationInterrupt tile ld s) := by
  unfold execViolationInterrupt
  repeat' first
    | with_reducible refine KeepsRun.next ?_
    | with_reducible assumption
    | with_reducible exact Keeps.refl _
    | with_reducible apply State.emit_keeps
    | with_reducible apply State.setBar_keeps
    | with_reducible apply Keeps.ite

theorem execOrderGateRelease_keeps (owner : Nat) (source : Nat) (stamp : Nat) (s : State) :
    KeepsRun s (execOrderGateRelease owner source stamp s) := by
  unfold execOrderGateRelease
  repeat' first
    | with_reducible refine KeepsRun.next ?_
    | with_reducible assumption
    | with_reducible exact Keeps.refl _
    | with_reducible apply State.release_keeps
    | with_reducible apply State.setPt_keeps
    | with_reducible apply Keeps.ite

theorem execUnackedReadRelease_keeps (tile : Nat) (s : State) :
    KeepsRun s (execUnackedReadRelease tile s) := by
  unfold execUnackedReadRelease
  repeat' first
    | with_reducible refine KeepsRun.next ?_
    | with_reducible assumption
    | with_reducible exact Keeps.refl _
    | with_reducible apply State.kick_keeps

theorem State.prefetch_keeps {s0 : State} {s : State} {t : Nat} {sess : Nat} {ld : Nat} (hk : Keeps s0 s) :
    Keeps s0 (State.prefetch s t sess ld) := by
  unfold State.prefetch
  repeat' first
    | with_reducible assumption
    | with_reducible exact Keeps.refl _
    | with_reducible apply State.setPt_keeps
    | with_reducible apply State.tally_keeps
    | with_reducible apply State.enqRead_keeps
    | with_reducible apply Keeps.ite
    | (extract_lets +onlyGivenNames x; refine Keeps.cut (x := x) ?_ ?_; (on_goal 2 => intro _; clear_value x); (on_goal 1 => subst x))
    | (extract_lets +onlyGivenNames x; clear_value x)
    | split

theorem execStridePrefetch_keeps (tile : Nat) (sess : Nat) (ld : Nat) (s : State) :
    KeepsRun s (execStridePrefetch tile sess ld s) := by
  unfold execStridePrefetch
  repeat' first
    | with_reducible refine KeepsRun.next ?_
    | with_reducible assumption
    | with_reducible exact Keeps.refl _
    | with_reducible apply State.prefetch_keeps

theorem execCreditReturn_keeps (tile : Nat) (link : Nat) (s : State) :
    KeepsRun s (execCreditReturn tile link s) := by
  unfold execCreditReturn
  repeat' first
    | with_reducible refine KeepsRun.next ?_
    | with_reducible assumption
    | with_reducible exact Keeps.refl _
    | with_reducible apply State.setLink_keeps
    | with_reducible apply Keeps.ite

theorem execSlipwayIdleTimeout_keeps (sess : Nat) (s : State) :
    KeepsRun s (execSlipwayIdleTimeout sess s) := by
  unfold execSlipwayIdleTimeout
  repeat' first
    | with_reducible refine KeepsRun.next ?_
    | with_reducible assumption
    | with_reducible exact Keeps.refl _
    | with_reducible apply State.slipBreak_keeps
    | with_reducible apply Keeps.ite

end Sys2Proof.Machine
end

