-- ==== Sys2Proof/Laws/KeepsReadPath.lean ====
section
/-! SUPPORT. What the operations of Machine/ReadPath.lean keep. -/

namespace Sys2Proof.Machine

theorem State.bucket_keeps {s0 : State} {s : State} {t : Nat} {b : Nat} {place : Nat} (hk : Keeps s0 s) :
    Keeps s0 (State.bucket s t b place) := by
  unfold State.bucket
  repeat' first
    | with_reducible assumption
    | with_reducible exact Keeps.refl _
    | with_reducible apply State.bmcEvent_keeps
    | with_reducible apply State.countP_keeps
    | with_reducible apply State.setParam_keeps
    | with_reducible apply State.emit_keeps
    | with_reducible apply State.setBar_keeps
    | with_reducible apply Keeps.ite

theorem State.fillEaves_keeps {s0 : State} {s : State} {t : Nat} {a : Nat} {off : Nat} {n : Nat} {l : Line} {pf : Bool} (hk : Keeps s0 s) :
    Keeps s0 (State.fillEaves s t a off n l pf) := by
  unfold State.fillEaves
  repeat' first
    | with_reducible assumption
    | with_reducible exact Keeps.refl _
    | with_reducible apply State.evAlloc_keeps
    | (refine Keeps.ofSnd (State.evAlloc_keeps ?_) (by assumption))
    | with_reducible apply State.freeMerge_keeps
    | with_reducible apply State.setEv_keeps
    | with_reducible apply Keeps.ite

theorem State.deliverRead_keeps {s0 : State} {s : State} {t : Nat} {e : RqEnt} {raw : Line} {p : Bool} (hk : Keeps s0 s) :
    Keeps s0 (State.deliverRead s t e raw p) := by
  unfold State.deliverRead
  repeat' first
    | with_reducible assumption
    | (intro _; try beta_reduce)
    | with_reducible exact Keeps.refl _
    | with_reducible apply State.answer_keeps
    | with_reducible apply State.enterPoison_keeps
    | with_reducible apply State.settle_keeps
    | with_reducible apply State.release_keeps
    | with_reducible apply State.fillEaves_keeps
    | with_reducible apply Keeps.foldl
    | with_reducible apply Keeps.foldlFst
    | with_reducible apply Keeps.foldlSnd
    | with_reducible apply Keeps.ite
    | (extract_lets +onlyGivenNames x; refine Keeps.cut (x := x) ?_ ?_; (on_goal 2 => intro _; clear_value x); (on_goal 1 => subst x))
    | (extract_lets +onlyGivenNames x; clear_value x)
    | split
    | fail_if_no_progress (with_reducible refine Keeps.lit ?_ (by first | exact Nat.le_refl _ | omega) (by first | exact Nat.le_refl _ | omega) (fun w hw => hw))

theorem State.deliver_keeps {s0 : State} {s : State} {t : Nat} {e : RqEnt} {raw : Line} {p : Bool} (hk : Keeps s0 s) :
    Keeps s0 (State.deliver s t e raw p) := by
  unfold State.deliver
  repeat' first
    | with_reducible assumption
    | (intro _; try beta_reduce)
    | with_reducible exact Keeps.refl _
    | with_reducible apply State.tlbTouch_keeps
    | with_reducible apply State.setTt_keeps
    | with_reducible apply State.release_keeps
    | with_reducible apply State.bitmapFill_keeps
    | with_reducible apply State.enterPoison_keeps
    | with_reducible apply State.mergeOut_keeps
    | with_reducible apply State.deliverRead_keeps
    | with_reducible apply State.fillEaves_keeps
    | with_reducible apply Keeps.foldl
    | with_reducible apply Keeps.foldlFst
    | with_reducible apply Keeps.foldlSnd
    | with_reducible apply Keeps.ite
    | (extract_lets +onlyGivenNames x; refine Keeps.cut (x := x) ?_ ?_; (on_goal 2 => intro _; clear_value x); (on_goal 1 => subst x))
    | (extract_lets +onlyGivenNames x; clear_value x)
    | split

theorem State.failRead_keeps {s0 : State} {s : State} {t : Nat} {e : RqEnt} (hk : Keeps s0 s) :
    Keeps s0 (State.failRead s t e) := by
  unfold State.failRead
  repeat' first
    | with_reducible assumption
    | with_reducible exact Keeps.refl _
    | with_reducible apply State.setRq_keeps
    | with_reducible apply State.setPt_keeps
    | with_reducible apply Keeps.ite

theorem State.returnRead_keeps {s0 : State} {s : State} {k : Nat} {e : RqEnt} {err : BitVec 640} (hk : Keeps s0 s) :
    Keeps s0 (State.returnRead s k e err) := by
  unfold State.returnRead
  repeat' first
    | with_reducible assumption
    | with_reducible exact Keeps.refl _
    | with_reducible apply State.touchRow_keeps
    | with_reducible apply State.setRq_keeps
    | with_reducible apply State.tally_keeps
    | with_reducible apply State.kick_keeps
    | with_reducible apply State.deliver_keeps
    | with_reducible apply State.log_keeps
    | with_reducible apply State.bucket_keeps
    | with_reducible apply State.failRead_keeps
    | with_reducible apply Keeps.ite
    | (extract_lets +onlyGivenNames x; refine Keeps.cut (x := x) ?_ ?_; (on_goal 2 => intro _; clear_value x); (on_goal 1 => subst x))
    | (extract_lets +onlyGivenNames x; (first | (have h1 := fun q => x q; clear h1; subst x; beta_reduce) | clear_value x))
    | split

theorem execDramReadReturn_keeps (tile : Nat) (channel : Nat) (sub : Nat) (err : BitVec 640) (s : State) :
    KeepsRun s (execDramReadReturn tile channel sub err s) := by
  unfold execDramReadReturn
  repeat' first
    | with_reducible refine KeepsRun.next ?_
    | with_reducible assumption
    | with_reducible exact Keeps.refl _
    | with_reducible apply State.returnRead_keeps
    | with_reducible apply Keeps.ite
    | (extract_lets +onlyGivenNames x; refine Keeps.cut (x := x) ?_ ?_; (on_goal 2 => intro _; clear_value x); (on_goal 1 => subst x))
    | (extract_lets +onlyGivenNames x; clear_value x)
    | split

theorem execHomeTlbFill_keeps (tile : Nat) (page : Nat) (s : State) :
    KeepsRun s (execHomeTlbFill tile page s) := by
  unfold execHomeTlbFill
  repeat' first
    | with_reducible refine KeepsRun.next ?_
    | with_reducible assumption
    | with_reducible exact Keeps.refl _
    | with_reducible apply State.returnRead_keeps
    | with_reducible apply Keeps.ite
    | (extract_lets +onlyGivenNames x; refine Keeps.cut (x := x) ?_ ?_; (on_goal 2 => intro _; clear_value x); (on_goal 1 => subst x))
    | (extract_lets +onlyGivenNames x; clear_value x)
    | split

theorem execTidelineBitmapFill_keeps (tile : Nat) (group : Nat) (s : State) :
    KeepsRun s (execTidelineBitmapFill tile group s) := by
  unfold execTidelineBitmapFill
  repeat' first
    | with_reducible refine KeepsRun.next ?_
    | with_reducible assumption
    | with_reducible exact Keeps.refl _
    | with_reducible apply State.returnRead_keeps
    | with_reducible apply Keeps.ite
    | (extract_lets +onlyGivenNames x; refine Keeps.cut (x := x) ?_ ?_; (on_goal 2 => intro _; clear_value x); (on_goal 1 => subst x))
    | (extract_lets +onlyGivenNames x; clear_value x)
    | split

theorem execTidelineRoomGrant_keeps (tile : Nat) (s : State) :
    KeepsRun s (execTidelineRoomGrant tile s) := by
  unfold execTidelineRoomGrant
  repeat' first
    | with_reducible refine KeepsRun.next ?_
    | with_reducible assumption
    | with_reducible exact Keeps.refl _
    | with_reducible apply State.kick_keeps
    | with_reducible apply Keeps.ite

theorem execMergeEntryFree_keeps (tile : Nat) (s : State) :
    KeepsRun s (execMergeEntryFree tile s) := by
  unfold execMergeEntryFree
  repeat' first
    | with_reducible refine KeepsRun.next ?_
    | with_reducible assumption
    | with_reducible exact Keeps.refl _
    | with_reducible apply State.kick_keeps
    | with_reducible apply Keeps.ite

theorem State.startOut_keeps {s0 : State} {s : State} {t : Nat} {m : Merge} (hk : Keeps s0 s) :
    Keeps s0 (State.startOut s t m) := by
  unfold State.startOut
  repeat' first
    | with_reducible assumption
    | with_reducible exact Keeps.refl _
    | with_reducible apply State.kick_keeps
    | with_reducible apply State.mergeOut_keeps
    | with_reducible apply State.tally_keeps
    | with_reducible apply State.enqRead_keeps
    | with_reducible apply State.setMerge_keeps
    | with_reducible apply Keeps.ite
    | split

theorem execMergeWriteOut_keeps (tile : Nat) (off : Nat) (s : State) :
    KeepsRun s (execMergeWriteOut tile off s) := by
  unfold execMergeWriteOut
  repeat' first
    | with_reducible refine KeepsRun.next ?_
    | with_reducible assumption
    | with_reducible exact Keeps.refl _
    | with_reducible apply State.startOut_keeps
    | with_reducible apply Keeps.ite
    | split

theorem execMergeEntryAge_keeps (tile : Nat) (off : Nat) (s : State) :
    KeepsRun s (execMergeEntryAge tile off s) := by
  unfold execMergeEntryAge
  repeat' first
    | with_reducible refine KeepsRun.next ?_
    | with_reducible assumption
    | with_reducible exact Keeps.refl _
    | with_reducible apply State.startOut_keeps
    | with_reducible apply Keeps.ite
    | split

theorem execEavesEviction_keeps (tile : Nat) (set : Nat) (way : Nat) (s : State) :
    KeepsRun s (execEavesEviction tile set way s) := by
  unfold execEavesEviction
  repeat' first
    | with_reducible refine KeepsRun.next ?_
    | with_reducible assumption
    | with_reducible exact Keeps.refl _
    | with_reducible apply State.kick_keeps
    | with_reducible apply State.cleanWay_keeps
    | with_reducible apply Keeps.ite

theorem execHardTimeout_keeps (tile : Nat) (link : Nat) (tag : Nat) (s : State) :
    KeepsRun s (execHardTimeout tile link tag s) := by
  unfold execHardTimeout
  repeat' first
    | with_reducible refine KeepsRun.next ?_
    | with_reducible assumption
    | with_reducible exact Keeps.refl _
    | with_reducible apply State.endStall_keeps
    | with_reducible apply State.log_keeps
    | with_reducible apply State.countP_keeps
    | with_reducible apply State.answer_keeps
    | with_reducible apply State.settle_keeps
    | with_reducible apply Keeps.ite
    | (extract_lets +onlyGivenNames x; refine Keeps.cut (x := x) ?_ ?_; (on_goal 2 => intro _; clear_value x); (on_goal 1 => subst x))
    | (extract_lets +onlyGivenNames x; clear_value x)
    | split
    | fail_if_no_progress (with_reducible refine Keeps.lit ?_ (by first | exact Nat.le_refl _ | omega) (by first | exact Nat.le_refl _ | omega) (fun w hw => hw))

end Sys2Proof.Machine
end

