-- ==== Sys2Proof/Laws/KeepsMirApply.lean ====
section
/-! SUPPORT. What the operations of Machine/MirApply.lean keep. -/

namespace Sys2Proof.Machine

theorem State.witSend_keeps {s0 : State} {s : State} {type : Nat} {value : Nat} (hk : Keeps s0 s) :
    Keeps s0 (State.witSend s type value) := by
  unfold State.witSend
  repeat' first
    | with_reducible assumption
    | with_reducible exact Keeps.refl _
    | with_reducible apply State.emit_keeps
    | with_reducible apply Keeps.ite
    | (extract_lets +onlyGivenNames x; refine Keeps.cut (x := x) ?_ ?_; (on_goal 2 => intro _; clear_value x); (on_goal 1 => subst x))
    | (extract_lets +onlyGivenNames x; clear_value x)
    | split
    | fail_if_no_progress (with_reducible refine Keeps.lit ?_ (by first | exact Nat.le_refl _ | omega) (by first | exact Nat.le_refl _ | omega) (fun w hw => hw))

theorem State.report_keeps {s0 : State} {s : State} {cause : Nat} {arg : Nat} (hk : Keeps s0 s) :
    Keeps s0 (State.report s cause arg) := by
  unfold State.report
  repeat' first
    | with_reducible assumption
    | with_reducible exact Keeps.refl _
    | with_reducible apply State.emit_keeps
    | with_reducible apply Keeps.ite
    | (extract_lets +onlyGivenNames x; refine Keeps.cut (x := x) ?_ ?_; (on_goal 2 => intro _; clear_value x); (on_goal 1 => subst x))
    | (extract_lets +onlyGivenNames x; clear_value x)
    | split
    | fail_if_no_progress (with_reducible refine Keeps.lit ?_ (by first | exact Nat.le_refl _ | omega) (by first | exact Nat.le_refl _ | omega) (fun w hw => hw))

theorem State.failover_keeps {s0 : State} {s : State} (hk : Keeps s0 s) :
    Keeps s0 (State.failover s) := by
  unfold State.failover
  repeat' first
    | with_reducible assumption
    | with_reducible exact Keeps.refl _
    | with_reducible apply State.witSend_keeps
    | with_reducible apply Keeps.ite
    | (extract_lets +onlyGivenNames x; refine Keeps.cut (x := x) ?_ ?_; (on_goal 2 => intro _; clear_value x); (on_goal 1 => subst x))
    | (extract_lets +onlyGivenNames x; clear_value x)
    | split
    | fail_if_no_progress (with_reducible refine Keeps.lit ?_ (by first | exact Nat.le_refl _ | omega) (by first | exact Nat.le_refl _ | omega) (fun w hw => hw))

theorem State.tryTakeOver_keeps {s0 : State} {s : State} (hk : Keeps s0 s) :
    Keeps s0 (State.tryTakeOver s) := by
  unfold State.tryTakeOver
  repeat' first
    | with_reducible assumption
    | with_reducible exact Keeps.refl _
    | with_reducible apply State.nameMode_keeps
    | with_reducible apply Keeps.ite

theorem State.applyLine_keeps {s0 : State} {s : State} {t : Nat} {f : Frame} {off : Nat} {a : Nat} {d : Line} {mask : Mask} {p : Bool} (hk : Keeps s0 s) :
    Keeps s0 (State.applyLine s t f off a d mask p) := by
  unfold State.applyLine
  repeat' first
    | with_reducible assumption
    | with_reducible exact Keeps.refl _
    | with_reducible apply State.notePoison_keeps
    | with_reducible apply State.placeStore_keeps
    | with_reducible apply State.markPage_keeps
    | with_reducible apply State.bitmapFill_keeps

theorem State.applyAtomic_keeps {s0 : State} {s : State} {t : Nat} {f : Frame} {off : Nat} {a : Nat} (hk : Keeps s0 s) :
    Keeps s0 (State.applyAtomic s t f off a) := by
  unfold State.applyAtomic
  repeat' first
    | with_reducible assumption
    | with_reducible exact Keeps.refl _
    | with_reducible apply State.applyLine_keeps
    | with_reducible apply State.report_keeps
    | with_reducible apply State.countP_keeps
    | with_reducible apply State.log_keeps
    | with_reducible apply State.sendLrq_keeps
    | with_reducible apply Keeps.ite

theorem State.applyNext_keeps {s0 : State} {s : State} {t : Nat} {force : Bool} (hk : Keeps s0 s) :
    Keeps s0 (State.applyNext s t force) := by
  unfold State.applyNext
  repeat' first
    | with_reducible assumption
    | (intro _; try beta_reduce)
    | with_reducible exact Keeps.refl _
    | with_reducible apply State.wantMove_keeps
    | with_reducible apply State.applyLine_keeps
    | with_reducible apply State.applyAtomic_keeps
    | with_reducible apply State.setMt_keeps
    | with_reducible apply Keeps.foldl
    | with_reducible apply Keeps.foldlFst
    | with_reducible apply Keeps.foldlSnd
    | with_reducible apply Keeps.ite
    | (extract_lets +onlyGivenNames x; refine Keeps.cut (x := x) ?_ ?_; (on_goal 2 => intro _; clear_value x); (on_goal 1 => subst x))
    | (extract_lets +onlyGivenNames x; clear_value x)
    | split

theorem State.storeLrs_keeps {s0 : State} {s : State} {t : Nat} {w : LrsWait} (hk : Keeps s0 s) :
    Keeps s0 (State.storeLrs s t w) := by
  unfold State.storeLrs
  repeat' first
    | with_reducible assumption
    | (intro _; try beta_reduce)
    | with_reducible exact Keeps.refl _
    | with_reducible apply State.giveRead_keeps
    | with_reducible apply State.fencedAtomic_keeps
    | with_reducible apply State.serveReq_keeps
    | with_reducible apply State.putDram_keeps
    | with_reducible apply State.evDropAll_keeps
    | with_reducible apply State.enterPoison_keeps
    | with_reducible apply State.placeQuiet_keeps
    | with_reducible apply State.setPt_keeps
    | with_reducible apply State.release_keeps
    | with_reducible apply Keeps.foldl
    | with_reducible apply Keeps.foldlFst
    | with_reducible apply Keeps.foldlSnd
    | with_reducible apply Keeps.ite
    | (extract_lets +onlyGivenNames x; refine Keeps.cut (x := x) ?_ ?_; (on_goal 2 => intro _; clear_value x); (on_goal 1 => subst x))
    | (extract_lets +onlyGivenNames x; clear_value x)
    | split
    | fail_if_no_progress (with_reducible refine Keeps.lit ?_ (by first | exact Nat.le_refl _ | omega) (by first | exact Nat.le_refl _ | omega) (fun w hw => hw))

theorem State.creditMsync_keeps {s0 : State} {s : State} {t : Nat} {pages : Nat} (hk : Keeps s0 s) :
    Keeps s0 (State.creditMsync s t pages) := by
  unfold State.creditMsync
  repeat' first
    | with_reducible assumption
    | (intro _; try beta_reduce)
    | with_reducible exact Keeps.refl _
    | with_reducible apply State.finishR_keeps
    | with_reducible apply State.setCtx_keeps
    | with_reducible apply Keeps.foldl
    | with_reducible apply Keeps.foldlFst
    | with_reducible apply Keeps.foldlSnd
    | with_reducible apply Keeps.ite
    | (extract_lets +onlyGivenNames x; refine Keeps.cut (x := x) ?_ ?_; (on_goal 2 => intro _; clear_value x); (on_goal 1 => subst x))
    | (extract_lets +onlyGivenNames x; clear_value x)
    | split

theorem State.compareCkpt_keeps {s0 : State} {s : State} {t : Nat} (hk : Keeps s0 s) :
    Keeps s0 (State.compareCkpt s t) := by
  unfold State.compareCkpt
  repeat' first
    | with_reducible assumption
    | with_reducible exact Keeps.refl _
    | with_reducible apply State.setMt_keeps
    | with_reducible apply State.creditMsync_keeps
    | with_reducible apply State.failover_keeps
    | with_reducible apply State.isahar_keeps
    | with_reducible apply State.report_keeps
    | with_reducible apply State.countP_keeps
    | with_reducible apply State.log_keeps
    | with_reducible apply Keeps.ite
    | (extract_lets +onlyGivenNames x; refine Keeps.cut (x := x) ?_ ?_; (on_goal 2 => intro _; clear_value x); (on_goal 1 => subst x))
    | (extract_lets +onlyGivenNames x; clear_value x)
    | split
    | fail_if_no_progress (with_reducible refine Keeps.lit ?_ (by first | exact Nat.le_refl _ | omega) (by first | exact Nat.le_refl _ | omega) (fun w hw => hw))

theorem State.answerLrq_keeps {s0 : State} {s : State} {t : Nat} {off : Nat} {count : Nat} (hk : Keeps s0 s) :
    Keeps s0 (State.answerLrq s t off count) := by
  unfold State.answerLrq
  repeat' first
    | with_reducible assumption
    | with_reducible exact Keeps.refl _
    | with_reducible apply State.sendMsg_keeps
    | with_reducible apply Keeps.ite
    | (extract_lets +onlyGivenNames x; refine Keeps.cut (x := x) ?_ ?_; (on_goal 2 => intro _; clear_value x); (on_goal 1 => subst x))
    | (extract_lets +onlyGivenNames x; clear_value x)
    | split

theorem State.afterApply_keeps {s0 : State} {s : State} {t : Nat} (hk : Keeps s0 s) :
    Keeps s0 (State.afterApply s t) := by
  unfold State.afterApply
  repeat' first
    | with_reducible assumption
    | (intro _; try beta_reduce)
    | with_reducible exact Keeps.refl _
    | with_reducible apply State.answerLrq_keeps
    | with_reducible apply State.setMt_keeps
    | with_reducible apply State.storeLrs_keeps
    | with_reducible apply State.compareCkpt_keeps
    | with_reducible apply Keeps.foldl

theorem State.applyAll_keeps {s0 : State} {s : State} {t : Nat} (hk : Keeps s0 s) :
    Keeps s0 (State.applyAll s t) := by
  unfold State.applyAll
  repeat' first
    | with_reducible assumption
    | (intro _; try beta_reduce)
    | with_reducible exact Keeps.refl _
    | with_reducible apply State.afterApply_keeps
    | with_reducible apply State.applyNext_keeps
    | with_reducible apply Keeps.foldl

end Sys2Proof.Machine
end

