-- ==== Sys2Proof/Laws/KeepsThatchOps.lean ====
section
/-! SUPPORT. What the operations of Machine/ThatchOps.lean keep. -/

namespace Sys2Proof.Machine

theorem State.recompute_keeps {s0 : State} {s : State} {t : Nat} (hk : Keeps s0 s) :
    Keeps s0 (State.recompute s t) := by
  unfold State.recompute
  repeat' first
    | with_reducible assumption
    | with_reducible exact Keeps.refl _
    | with_reducible apply State.setTl_keeps
    | with_reducible apply Keeps.ite
    | (extract_lets +onlyGivenNames x; refine Keeps.cut (x := x) ?_ ?_; (on_goal 2 => intro _; clear_value x); (on_goal 1 => subst x))
    | (extract_lets +onlyGivenNames x; clear_value x)
    | split

theorem State.nandRate_keeps {s0 : State} {s : State} {t : Nat} (hk : Keeps s0 s) :
    Keeps s0 (State.nandRate s t) := by
  unfold State.nandRate
  repeat' first
    | with_reducible assumption
    | with_reducible exact Keeps.refl _
    | with_reducible apply State.recompute_keeps
    | with_reducible apply State.setTl_keeps

theorem State.openBlk_keeps {s0 : State} {s : State} {t : Nat} {b : Nat} {u : BUse} (hk : Keeps s0 s) :
    Keeps s0 (State.openBlk s t b u) := by
  unfold State.openBlk
  repeat' first
    | with_reducible assumption
    | with_reducible exact Keeps.refl _
    | with_reducible apply State.setBlk_keeps

theorem State.releaseBlk_keeps {s0 : State} {s : State} {t : Nat} {b : Nat} (hk : Keeps s0 s) :
    Keeps s0 (State.releaseBlk s t b) := by
  unfold State.releaseBlk
  repeat' first
    | with_reducible assumption
    | (intro _; try beta_reduce)
    | with_reducible exact Keeps.refl _
    | with_reducible apply State.setTh_keeps
    | with_reducible apply State.setPhys_keeps
    | with_reducible apply State.setBlk_keeps
    | with_reducible apply Keeps.foldl
    | with_reducible apply Keeps.foldlFst
    | with_reducible apply Keeps.foldlSnd
    | with_reducible apply Keeps.ite

theorem State.flashRead_keeps {s0 : State} {s : State} {t : Nat} {r : TRec} (hk : Keeps s0 s) :
    Keeps s0 (State.flashRead s t r) := by
  unfold State.flashRead
  repeat' first
    | with_reducible assumption
    | with_reducible exact Keeps.refl _
    | with_reducible apply State.tally_keeps
    | with_reducible apply State.setBlk_keeps

theorem State.putRec_keeps {s0 : State} {s : State} {t : Nat} {r : TRec} {reloc : Bool} (hk : Keeps s0 s) :
    Keeps s0 (State.putRec s t r reloc) := by
  unfold State.putRec
  repeat' first
    | with_reducible assumption
    | with_reducible exact Keeps.refl _
    | with_reducible apply State.openBlk_keeps
    | with_reducible apply State.setTh_keeps
    | with_reducible apply State.setBlk_keeps
    | with_reducible apply Keeps.ite
    | (extract_lets +onlyGivenNames x; refine Keeps.cut (x := x) ?_ ?_; (on_goal 2 => intro _; clear_value x); (on_goal 1 => subst x))
    | (extract_lets +onlyGivenNames x; clear_value x)
    | split

theorem State.padRow_keeps {s0 : State} {s : State} {t : Nat} {w : Row} (hk : Keeps s0 s) :
    Keeps s0 (State.padRow s t w) := by
  unfold State.padRow
  repeat' first
    | with_reducible assumption
    | with_reducible exact Keeps.refl _
    | with_reducible apply State.setBlk_keeps
    | with_reducible apply State.setTh_keeps
    | with_reducible apply Keeps.ite

theorem State.programRow_keeps {s0 : State} {s : State} {t : Nat} {w : Row} (hk : Keeps s0 s) :
    Keeps s0 (State.programRow s t w) := by
  unfold State.programRow
  repeat' first
    | with_reducible assumption
    | with_reducible exact Keeps.refl _
    | with_reducible apply State.setTh_keeps

theorem State.rewriteRows_keeps {s0 : State} {s : State} {t : Nat} {b : Nat} {more : List TRec} {reloc : Bool} (hk : Keeps s0 s) :
    Keeps s0 (State.rewriteRows s t b more reloc) := by
  unfold State.rewriteRows
  repeat' first
    | with_reducible assumption
    | (intro _; try beta_reduce)
    | with_reducible exact Keeps.refl _
    | with_reducible apply State.setTh_keeps
    | with_reducible apply State.setBlk_keeps
    | with_reducible apply State.putRec_keeps
    | with_reducible apply Keeps.foldl

theorem State.recordDone_keeps {s0 : State} {s : State} {t : Nat} {page : Nat} (hk : Keeps s0 s) :
    Keeps s0 (State.recordDone s t page) := by
  unfold State.recordDone
  repeat' first
    | with_reducible assumption
    | with_reducible exact Keeps.refl _
    | with_reducible apply State.setTl_keeps
    | with_reducible apply State.countP_keeps
    | with_reducible apply State.clearPage_keeps
    | with_reducible apply Keeps.ite
    | (extract_lets +onlyGivenNames x; refine Keeps.cut (x := x) ?_ ?_; (on_goal 2 => intro _; clear_value x); (on_goal 1 => subst x))
    | (extract_lets +onlyGivenNames x; clear_value x)
    | split

theorem State.headDrain_keeps {s0 : State} {s : State} {t : Nat} {f : Nat} (hk : Keeps s0 s) :
    Keeps s0 (State.headDrain s t f) := by
  unfold State.headDrain
  repeat' first
    | with_reducible assumption
    | with_reducible exact Keeps.refl _
    | with_reducible apply State.setTl_keeps
    | with_reducible apply Keeps.ite

end Sys2Proof.Machine
end

