-- ==== Sys2Proof/Laws/KeepsSaveOps.lean ====
section
/-! SUPPORT. What the operations of Machine/SaveOps.lean keep. -/

namespace Sys2Proof.Machine

theorem State.newBank_keeps {s0 s : State} {t c rate : Nat} {bankH : Bool} (h : Keeps s0 s) : Keeps s0 (s.newBank t c bankH rate) :=
  h.trans ⟨id, rfl, rfl, Nat.le_refl _, Nat.le_add_right _ 7, fun _ hw => hw⟩

theorem State.newDelays_keeps {s0 s : State} {t c : Nat} {bankH all : Bool} (h : Keeps s0 s) : Keeps s0 (s.newDelays t c bankH all) :=
  h.trans ⟨id, rfl, rfl, Nat.le_refl _, Nat.le_add_right _ 2, fun _ hw => hw⟩

theorem State.readTemps_keeps {s0 : State} {s : State} {t : Nat} {c : Nat} {t0 : Option Nat} {t1 : Option Nat} (hk : Keeps s0 s) :
    Keeps s0 (State.readTemps s t c t0 t1) := by
  unfold State.readTemps
  repeat' first
    | with_reducible assumption
    | (intro _; try beta_reduce)
    | with_reducible exact Keeps.refl _
    | with_reducible apply State.setChan_keeps
    | with_reducible apply State.log_keeps
    | with_reducible apply Keeps.foldl

theorem State.evalRetrain_keeps {s0 : State} {s : State} {t : Nat} {c : Nat} (hk : Keeps s0 s) :
    Keeps s0 (State.evalRetrain s t c) := by
  unfold State.evalRetrain
  repeat' first
    | with_reducible assumption
    | with_reducible exact Keeps.refl _
    | with_reducible apply State.setChan_keeps

theorem State.exitSelfRefresh_keeps {s0 : State} {s : State} {t : Nat} {c : Nat} {toH : Bool} (hk : Keeps s0 s) :
    Keeps s0 (State.exitSelfRefresh s t c toH) := by
  unfold State.exitSelfRefresh
  repeat' first
    | with_reducible assumption
    | (intro _; try beta_reduce)
    | with_reducible exact Keeps.refl _
    | with_reducible apply State.setChan_keeps

theorem State.endChange_keeps {s0 : State} {s : State} {t : Nat} {c : Nat} {toH : Bool} (hk : Keeps s0 s) :
    Keeps s0 (State.endChange s t c toH) := by
  unfold State.endChange
  repeat' first
    | with_reducible assumption
    | with_reducible exact Keeps.refl _
    | with_reducible apply State.evalRetrain_keeps
    | with_reducible apply State.exitSelfRefresh_keeps
    | with_reducible apply State.kick_keeps
    | with_reducible apply State.setChan_keeps

theorem State.stopTraining_keeps {s0 : State} {s : State} {t : Nat} {c : Nat} (hk : Keeps s0 s) :
    Keeps s0 (State.stopTraining s t c) := by
  unfold State.stopTraining
  repeat' first
    | with_reducible assumption
    | with_reducible exact Keeps.refl _
    | with_reducible apply State.endChange_keeps
    | with_reducible apply State.quietChan_keeps
    | with_reducible apply State.setChan_keeps
    | with_reducible apply State.kick_keeps
    | with_reducible apply Keeps.ite
    | (extract_lets +onlyGivenNames x; refine Keeps.cut (x := x) ?_ ?_; (on_goal 2 => intro _; clear_value x); (on_goal 1 => subst x))
    | (extract_lets +onlyGivenNames x; clear_value x)
    | split

theorem State.stopTile_keeps {s0 : State} {s : State} {t : Nat} (hk : Keeps s0 s) :
    Keeps s0 (State.stopTile s t) := by
  unfold State.stopTile
  repeat' first
    | with_reducible assumption
    | (intro _; try beta_reduce)
    | with_reducible exact Keeps.refl _
    | with_reducible apply State.stopTraining_keeps
    | with_reducible apply State.setDt_keeps
    | with_reducible apply Keeps.foldl

theorem State.linksDown_keeps {s0 : State} {s : State} {t : Nat} (hk : Keeps s0 s) :
    Keeps s0 (State.linksDown s t) := by
  unfold State.linksDown
  repeat' first
    | with_reducible assumption
    | (intro _; try beta_reduce)
    | with_reducible exact Keeps.refl _
    | with_reducible apply State.setLink_keeps
    | with_reducible apply State.setMt_keeps
    | with_reducible apply Keeps.foldl

theorem State.abandonMoves_keeps {s0 : State} {s : State} {t : Nat} (hk : Keeps s0 s) :
    Keeps s0 (State.abandonMoves s t) := by
  unfold State.abandonMoves
  repeat' first
    | with_reducible assumption
    | (intro _; try beta_reduce)
    | with_reducible exact Keeps.refl _
    | with_reducible apply State.setHome_keeps
    | with_reducible apply State.setTt_keeps
    | with_reducible apply Keeps.foldl
    | with_reducible apply Keeps.foldlFst
    | with_reducible apply Keeps.foldlSnd
    | with_reducible apply Keeps.ite

theorem State.quiesce_keeps {s0 : State} {s : State} (hk : Keeps s0 s) :
    Keeps s0 (State.quiesce s) := by
  unfold State.quiesce
  repeat' first
    | with_reducible assumption
    | (intro _; try beta_reduce)
    | with_reducible exact Keeps.refl _
    | with_reducible apply State.finishAll_keeps
    | with_reducible apply State.applyAll_keeps
    | with_reducible apply State.abandonMoves_keeps
    | with_reducible apply State.linksDown_keeps
    | with_reducible apply State.setPt_keeps
    | with_reducible apply State.setIc_keeps
    | with_reducible apply State.setTh_keeps
    | with_reducible apply Keeps.foldl
    | with_reducible apply Keeps.foldlFst
    | with_reducible apply Keeps.foldlSnd
    | with_reducible apply Keeps.ite
    | (extract_lets +onlyGivenNames x; refine Keeps.cut (x := x) ?_ ?_; (on_goal 2 => intro _; clear_value x); (on_goal 1 => subst x))
    | (extract_lets +onlyGivenNames x; clear_value x)
    | split
    | fail_if_no_progress (with_reducible refine Keeps.lit ?_ (by first | exact Nat.le_refl _ | omega) (by first | exact Nat.le_refl _ | omega) (fun w hw => hw))

theorem State.drainAll_keeps {s0 : State} {s : State} {t : Nat} (hk : Keeps s0 s) :
    Keeps s0 (State.drainAll s t).1 := by
  unfold State.drainAll
  repeat' first
    | with_reducible assumption
    | (intro _; try beta_reduce)
    | with_reducible exact Keeps.refl _
    | with_reducible apply State.clearPage_keeps
    | with_reducible apply State.putRec_keeps
    | with_reducible apply Keeps.foldl
    | with_reducible apply Keeps.foldlFst
    | with_reducible apply Keeps.foldlSnd
    | with_reducible apply Keeps.ite
    | (extract_lets +onlyGivenNames x; refine Keeps.cut (x := x) ?_ ?_; (on_goal 2 => intro _; clear_value x); (on_goal 1 => subst x))
    | (extract_lets +onlyGivenNames x; clear_value x)
    | split

theorem State.closeLogs_keeps {s0 : State} {s : State} {t : Nat} (hk : Keeps s0 s) :
    Keeps s0 (State.closeLogs s t) := by
  unfold State.closeLogs
  repeat' first
    | with_reducible assumption
    | (intro _; try beta_reduce)
    | with_reducible exact Keeps.refl _
    | with_reducible apply State.padRow_keeps
    | with_reducible apply State.programRow_keeps
    | with_reducible apply State.setTh_keeps
    | with_reducible apply Keeps.foldl

theorem State.flushTile_keeps {s0 : State} {s : State} {t : Nat} (hk : Keeps s0 s) :
    Keeps s0 (State.flushTile s t) := by
  unfold State.flushTile
  repeat' first
    | with_reducible assumption
    | with_reducible exact Keeps.refl _
    | with_reducible apply State.tally_keeps
    | with_reducible apply State.commitBatch_keeps
    | with_reducible apply State.setRt_keeps
    | with_reducible apply Keeps.ite

theorem State.persistCkpt_keeps {s0 : State} {s : State} {t : Nat} (hk : Keeps s0 s) :
    Keeps s0 (State.persistCkpt s t) := by
  unfold State.persistCkpt
  repeat' first
    | with_reducible assumption
    | with_reducible exact Keeps.refl _
    | with_reducible apply State.setTh_keeps
    | (extract_lets +onlyGivenNames x; refine Keeps.cut (x := x) ?_ ?_; (on_goal 2 => intro _; clear_value x); (on_goal 1 => subst x))
    | (extract_lets +onlyGivenNames x; clear_value x)
    | split

theorem State.savePhases_keeps {s0 : State} {s : State} {t : Nat} {x : CommitTile} {cause : Nat} {mode : Nat} {tc : Nat} {armed : Bool} {sref : Bool} (hk : Keeps s0 s) :
    Keeps s0 (State.savePhases s t x cause mode tc armed sref) := by
  unfold State.savePhases
  repeat' first
    | with_reducible assumption
    | (intro _; try beta_reduce)
    | with_reducible exact Keeps.refl _
    | with_reducible apply State.stopTile_keeps
    | with_reducible apply State.cleanRange_keeps
    | with_reducible apply State.setPt_keeps
    | with_reducible apply State.drainChan_keeps
    | with_reducible apply State.padRow_keeps
    | with_reducible apply State.programRow_keeps
    | with_reducible apply State.recordDone_keeps
    | with_reducible apply State.drainAll_keeps
    | (refine Keeps.ofFst (State.drainAll_keeps ?_) (by assumption))
    | with_reducible apply State.flushTile_keeps
    | with_reducible apply State.persistCkpt_keeps
    | with_reducible apply State.closeLogs_keeps
    | with_reducible apply Keeps.foldl
    | with_reducible apply Keeps.foldlFst
    | with_reducible apply Keeps.foldlSnd
    | with_reducible apply Keeps.ite
    | (extract_lets +onlyGivenNames x; refine Keeps.cut (x := x) ?_ ?_; (on_goal 2 => intro _; clear_value x); (on_goal 1 => subst x))
    | (extract_lets +onlyGivenNames x; clear_value x)
    | split
    | fail_if_no_progress (with_reducible refine Keeps.lit ?_ (by first | exact Nat.le_refl _ | omega) (by first | exact Nat.le_refl _ | omega) (fun w hw => hw))

theorem State.sleepTile_keeps {s0 : State} {s : State} {t : Nat} (hk : Keeps s0 s) :
    Keeps s0 (State.sleepTile s t) := by
  unfold State.sleepTile
  repeat' first
    | with_reducible assumption
    | (intro _; try beta_reduce)
    | with_reducible exact Keeps.refl _
    | with_reducible apply State.quietChan_keeps
    | with_reducible apply State.setChan_keeps
    | with_reducible apply Keeps.foldl
    | with_reducible apply Keeps.foldlFst
    | with_reducible apply Keeps.foldlSnd
    | with_reducible apply Keeps.ite

theorem State.tapReset_keeps {s0 : State} {s : State} (hk : Keeps s0 s) :
    Keeps s0 (State.tapReset s) := by
  unfold State.tapReset
  repeat' first
    | with_reducible assumption
    | with_reducible exact Keeps.refl _
    | (extract_lets +onlyGivenNames x; refine Keeps.cut (x := x) ?_ ?_; (on_goal 2 => intro _; clear_value x); (on_goal 1 => subst x))
    | (extract_lets +onlyGivenNames x; clear_value x)
    | fail_if_no_progress (with_reducible refine Keeps.lit ?_ (by first | exact Nat.le_refl _ | omega) (by first | exact Nat.le_refl _ | omega) (fun w hw => hw))

theorem State.commitTap_keeps {s0 : State} {s : State} (hk : Keeps s0 s) :
    Keeps s0 (State.commitTap s) := by
  unfold State.commitTap
  repeat' first
    | with_reducible assumption
    | with_reducible exact Keeps.refl _
    | with_reducible apply State.tapReset_keeps
    | with_reducible apply Keeps.ite
    | (extract_lets +onlyGivenNames x; refine Keeps.cut (x := x) ?_ ?_; (on_goal 2 => intro _; clear_value x); (on_goal 1 => subst x))
    | (extract_lets +onlyGivenNames x; clear_value x)
    | split
    | fail_if_no_progress (with_reducible refine Keeps.lit ?_ (by first | exact Nat.le_refl _ | omega) (by first | exact Nat.le_refl _ | omega) (fun w hw => hw))

theorem State.commitSave_keeps {s0 : State} {s : State} {cause : Nat} {planned : Bool} {warm : Bool} (hk : Keeps s0 s) :
    Keeps s0 (State.commitSave s cause planned warm) := by
  unfold State.commitSave
  repeat' first
    | with_reducible assumption
    | (intro _; try beta_reduce)
    | with_reducible exact Keeps.refl _
    | with_reducible apply State.cancelTides_keeps
    | with_reducible apply State.commitTap_keeps
    | with_reducible apply State.stopFuses_keeps
    | with_reducible apply State.stopTile_keeps
    | with_reducible apply State.nameSaveTide_keeps
    | with_reducible apply Keeps.foldl
    | with_reducible apply Keeps.foldlFst
    | with_reducible apply Keeps.foldlSnd
    | with_reducible apply Keeps.ite
    | (extract_lets +onlyGivenNames x; refine Keeps.cut (x := x) ?_ ?_; (on_goal 2 => intro _; clear_value x); (on_goal 1 => subst x))
    | (extract_lets +onlyGivenNames x; clear_value x)
    | split
    | fail_if_no_progress (with_reducible refine Keeps.lit ?_ (by first | exact Nat.le_refl _ | omega) (by first | exact Nat.le_refl _ | omega) (fun w hw => hw))

theorem State.enterSave_keeps {s0 : State} {s : State} {cause : Nat} (hk : Keeps s0 s) :
    Keeps s0 (State.enterSave s cause) := by
  unfold State.enterSave
  repeat' first
    | with_reducible assumption
    | with_reducible exact Keeps.refl _
    | with_reducible apply State.setMode_keeps
    | with_reducible apply State.quiesce_keeps
    | (extract_lets +onlyGivenNames x; refine Keeps.cut (x := x) ?_ ?_; (on_goal 2 => intro _; clear_value x); (on_goal 1 => subst x))
    | (extract_lets +onlyGivenNames x; clear_value x)
    | fail_if_no_progress (with_reducible refine Keeps.lit ?_ (by first | exact Nat.le_refl _ | omega) (by first | exact Nat.le_refl _ | omega) (fun w hw => hw))

theorem State.saveTile_keeps {s0 : State} {s : State} {t : Nat} (hk : Keeps s0 s) :
    Keeps s0 (State.saveTile s t) := by
  unfold State.saveTile
  repeat' first
    | with_reducible assumption
    | with_reducible exact Keeps.refl _
    | with_reducible apply State.sleepTile_keeps
    | with_reducible apply State.savePhases_keeps
    | with_reducible apply State.setParam_keeps
    | (extract_lets +onlyGivenNames x; refine Keeps.cut (x := x) ?_ ?_; (on_goal 2 => intro _; clear_value x); (on_goal 1 => subst x))
    | (extract_lets +onlyGivenNames x; clear_value x)
    | split
    | fail_if_no_progress (with_reducible refine Keeps.lit ?_ (by first | exact Nat.le_refl _ | omega) (by first | exact Nat.le_refl _ | omega) (fun w hw => hw))

theorem State.clearFences_keeps {s0 : State} {s : State} (hk : Keeps s0 s) :
    Keeps s0 (State.clearFences s) := by
  unfold State.clearFences
  repeat' first
    | with_reducible assumption
    | (intro _; try beta_reduce)
    | with_reducible exact Keeps.refl _
    | with_reducible apply State.log_keeps
    | with_reducible apply Keeps.foldl
    | with_reducible apply Keeps.foldlFst
    | with_reducible apply Keeps.foldlSnd
    | (extract_lets +onlyGivenNames x; refine Keeps.cut (x := x) ?_ ?_; (on_goal 2 => intro _; clear_value x); (on_goal 1 => subst x))
    | (extract_lets +onlyGivenNames x; clear_value x)
    | fail_if_no_progress (with_reducible refine Keeps.lit ?_ (by first | exact Nat.le_refl _ | omega) (by first | exact Nat.le_refl _ | omega) (fun w hw => hw))

theorem State.startRate_keeps {s0 : State} {s : State} {t : Nat} (hk : Keeps s0 s) :
    Keeps s0 (State.startRate s t) := by
  unfold State.startRate
  repeat' first
    | with_reducible assumption
    | with_reducible exact Keeps.refl _
    | with_reducible apply State.setTl_keeps

theorem State.backToBrup_keeps {s0 : State} {s : State} (hk : Keeps s0 s) :
    Keeps s0 (State.backToBrup s) := by
  unfold State.backToBrup
  repeat' first
    | with_reducible assumption
    | (intro _; try beta_reduce)
    | with_reducible exact Keeps.refl _
    | with_reducible apply State.startRate_keeps
    | with_reducible apply Keeps.foldl
    | with_reducible apply Keeps.foldlFst
    | with_reducible apply Keeps.foldlSnd
    | with_reducible apply Keeps.ite
    | (extract_lets +onlyGivenNames x; refine Keeps.cut (x := x) ?_ ?_; (on_goal 2 => intro _; clear_value x); (on_goal 1 => subst x))
    | (extract_lets +onlyGivenNames x; clear_value x)
    | split
    | fail_if_no_progress (with_reducible refine Keeps.lit ?_ (by first | exact Nat.le_refl _ | omega) (by first | exact Nat.le_refl _ | omega) (fun w hw => hw))

theorem State.leaveService_keeps {s0 : State} {s : State} (hk : Keeps s0 s) :
    Keeps s0 (State.leaveService s) := by
  unfold State.leaveService
  repeat' first
    | with_reducible assumption
    | (intro _; try beta_reduce)
    | with_reducible exact Keeps.refl _
    | with_reducible apply State.linksDown_keeps
    | with_reducible apply State.stopFuses_keeps
    | with_reducible apply State.log_keeps
    | with_reducible apply State.setMode_keeps
    | with_reducible apply State.quiesce_keeps
    | with_reducible apply Keeps.foldl
    | with_reducible apply Keeps.foldlFst
    | with_reducible apply Keeps.foldlSnd
    | with_reducible apply Keeps.ite
    | (extract_lets +onlyGivenNames x; refine Keeps.cut (x := x) ?_ ?_; (on_goal 2 => intro _; clear_value x); (on_goal 1 => subst x))
    | (extract_lets +onlyGivenNames x; clear_value x)
    | split
    | fail_if_no_progress (with_reducible refine Keeps.lit ?_ (by first | exact Nat.le_refl _ | omega) (by first | exact Nat.le_refl _ | omega) (fun w hw => hw))

theorem State.endSave_keeps {s0 : State} {s : State} {run : SaveRun} (hk : Keeps s0 s) :
    Keeps s0 (State.endSave s run) := by
  unfold State.endSave
  repeat' first
    | with_reducible assumption
    | with_reducible exact Keeps.refl _
    | with_reducible apply State.shutdown_keeps
    | with_reducible apply State.nameTide_keeps
    | with_reducible apply Keeps.ite

end Sys2Proof.Machine
end

