-- ==== Sys2Proof/Laws/KeepsFenceOps.lean ====
section
/-! SUPPORT. What the operations of Machine/FenceOps.lean keep. -/

namespace Sys2Proof.Machine

theorem State.dropLrqs_keeps {s0 : State} {s : State} (hk : Keeps s0 s) :
    Keeps s0 (State.dropLrqs s) := by
  unfold State.dropLrqs
  repeat' first
    | with_reducible assumption
    | (intro _; try beta_reduce)
    | with_reducible exact Keeps.refl _
    | with_reducible apply State.answer_keeps
    | with_reducible apply State.setTl_keeps
    | with_reducible apply State.setMt_keeps
    | with_reducible apply Keeps.foldl
    | with_reducible apply Keeps.foldlFst
    | with_reducible apply Keeps.foldlSnd
    | with_reducible apply Keeps.ite
    | (extract_lets +onlyGivenNames x; refine Keeps.cut (x := x) ?_ ?_; (on_goal 2 => intro _; clear_value x); (on_goal 1 => subst x))
    | (extract_lets +onlyGivenNames x; clear_value x)
    | split
    | fail_if_no_progress (with_reducible refine Keeps.lit ?_ (by first | exact Nat.le_refl _ | omega) (by first | exact Nat.le_refl _ | omega) (fun w hw => hw))

theorem State.loseTwin_keeps {s0 : State} {s : State} (hk : Keeps s0 s) :
    Keeps s0 (State.loseTwin s) := by
  unfold State.loseTwin
  repeat' first
    | with_reducible assumption
    | (intro _; try beta_reduce)
    | with_reducible exact Keeps.refl _
    | with_reducible apply State.dropLrqs_keeps
    | with_reducible apply State.finishAll_keeps
    | with_reducible apply State.restore_keeps
    | with_reducible apply State.setMt_keeps
    | with_reducible apply State.witSend_keeps
    | with_reducible apply State.failover_keeps
    | with_reducible apply Keeps.foldl
    | with_reducible apply Keeps.foldlFst
    | with_reducible apply Keeps.foldlSnd
    | with_reducible apply Keeps.ite
    | (extract_lets +onlyGivenNames x; refine Keeps.cut (x := x) ?_ ?_; (on_goal 2 => intro _; clear_value x); (on_goal 1 => subst x))
    | (extract_lets +onlyGivenNames x; clear_value x)
    | split
    | fail_if_no_progress (with_reducible refine Keeps.lit ?_ (by first | exact Nat.le_refl _ | omega) (by first | exact Nat.le_refl _ | omega) (fun w hw => hw))

theorem State.dropThreads_keeps {s0 : State} {s : State} {p : Ctx → Bool} (hk : Keeps s0 s) :
    Keeps s0 (State.dropThreads s p) := by
  unfold State.dropThreads
  repeat' first
    | with_reducible assumption
    | (intro _; try beta_reduce)
    | with_reducible exact Keeps.refl _
    | with_reducible apply State.setCtx_keeps
    | with_reducible apply Keeps.foldl
    | with_reducible apply Keeps.foldlFst
    | with_reducible apply Keeps.foldlSnd
    | with_reducible apply Keeps.ite

theorem State.fenceThread_keeps {s0 : State} {s : State} {t : Nat} {inst : Nat} (hk : Keeps s0 s) :
    Keeps s0 (State.fenceThread s t inst) := by
  unfold State.fenceThread
  repeat' first
    | with_reducible assumption
    | (intro _; try beta_reduce)
    | with_reducible exact Keeps.refl _
    | with_reducible apply State.setCtx_keeps
    | with_reducible apply State.finishLong_keeps
    | with_reducible apply Keeps.foldl
    | with_reducible apply Keeps.foldlFst
    | with_reducible apply Keeps.foldlSnd
    | with_reducible apply Keeps.ite
    | (extract_lets +onlyGivenNames x; refine Keeps.cut (x := x) ?_ ?_; (on_goal 2 => intro _; clear_value x); (on_goal 1 => subst x))
    | (extract_lets +onlyGivenNames x; clear_value x)
    | split

theorem State.reissue_keeps {s0 : State} {s : State} {t : Nat} (hk : Keeps s0 s) :
    Keeps s0 (State.reissue s t) := by
  unfold State.reissue
  repeat' first
    | with_reducible assumption
    | (intro _; try beta_reduce)
    | with_reducible exact Keeps.refl _
    | with_reducible apply State.setRq_keeps
    | with_reducible apply State.setWq_keeps
    | with_reducible apply State.setPt_keeps
    | with_reducible apply State.kick_keeps
    | with_reducible apply Keeps.foldl

theorem State.reissueCut_keeps {s0 : State} {s : State} (hk : Keeps s0 s) :
    Keeps s0 (State.reissueCut s) := by
  unfold State.reissueCut
  repeat' first
    | with_reducible assumption
    | with_reducible exact Keeps.refl _
    | with_reducible apply State.release_keeps

theorem State.nandFence_keeps {s0 : State} {s : State} {t : Nat} {cls : Nat} {inst : Nat} (hk : Keeps s0 s) :
    Keeps s0 (State.nandFence s t cls inst) := by
  unfold State.nandFence
  repeat' first
    | with_reducible assumption
    | (intro _; try beta_reduce)
    | with_reducible exact Keeps.refl _
    | with_reducible apply State.nandRate_keeps
    | with_reducible apply State.setTh_keeps
    | with_reducible apply State.setBlk_keeps
    | with_reducible apply State.rewriteRows_keeps
    | with_reducible apply Keeps.foldl
    | with_reducible apply Keeps.foldlFst
    | with_reducible apply Keeps.foldlSnd
    | with_reducible apply Keeps.ite

theorem State.fenceEffect_keeps {s0 : State} {s : State} {cls : Nat} {inst : Nat} {t : Nat} (hk : Keeps s0 s) :
    Keeps s0 (State.fenceEffect s cls inst t) := by
  unfold State.fenceEffect
  repeat' first
    | with_reducible assumption
    | with_reducible exact Keeps.refl _
    | with_reducible apply State.reissue_keeps
    | with_reducible apply State.nandFence_keeps
    | with_reducible apply State.fenceThread_keeps
    | with_reducible apply State.setLink_keeps
    | with_reducible apply State.loseTwin_keeps
    | with_reducible apply State.reissueCut_keeps
    | with_reducible apply State.dropThreads_keeps
    | with_reducible apply State.linksDown_keeps
    | with_reducible apply State.leaveService_keeps
    | with_reducible apply Keeps.ite
    | (extract_lets +onlyGivenNames x; refine Keeps.cut (x := x) ?_ ?_; (on_goal 2 => intro _; clear_value x); (on_goal 1 => subst x))
    | (extract_lets +onlyGivenNames x; (first | (have h1 := fun q => x q; clear h1; subst x; beta_reduce) | clear_value x))
    | split
    | fail_if_no_progress (with_reducible refine Keeps.lit ?_ (by first | exact Nat.le_refl _ | omega) (by first | exact Nat.le_refl _ | omega) (fun w hw => hw))

theorem State.fenceRec_keeps {s0 : State} {s : State} {r : FenceRec} (hk : Keeps s0 s) :
    Keeps s0 (State.fenceRec s r) := by
  unfold State.fenceRec
  repeat' first
    | with_reducible assumption
    | with_reducible exact Keeps.refl _
    | (extract_lets +onlyGivenNames x; refine Keeps.cut (x := x) ?_ ?_; (on_goal 2 => intro _; clear_value x); (on_goal 1 => subst x))
    | (extract_lets +onlyGivenNames x; clear_value x)
    | fail_if_no_progress (with_reducible refine Keeps.lit ?_ (by first | exact Nat.le_refl _ | omega) (by first | exact Nat.le_refl _ | omega) (fun w hw => hw))

theorem State.raiseFence_keeps {s0 : State} {s : State} {cls : Nat} {inst : Nat} {t : Nat} {cause : Nat} {src : Nat} (hk : Keeps s0 s) :
    Keeps s0 (State.raiseFence s cls inst t cause src) := by
  unfold State.raiseFence
  repeat' first
    | with_reducible assumption
    | with_reducible exact Keeps.refl _
    | with_reducible apply State.log_keeps
    | with_reducible apply State.fenceRec_keeps
    | with_reducible apply State.fenceEffect_keeps
    | with_reducible apply Keeps.ite
    | (extract_lets +onlyGivenNames x; refine Keeps.cut (x := x) ?_ ?_; (on_goal 2 => intro _; clear_value x); (on_goal 1 => subst x))
    | (extract_lets +onlyGivenNames x; clear_value x)
    | split
    | fail_if_no_progress (with_reducible refine Keeps.lit ?_ (by first | exact Nat.le_refl _ | omega) (by first | exact Nat.le_refl _ | omega) (fun w hw => hw))

theorem State.lowerFence_keeps {s0 : State} {s : State} {cls : Nat} {inst : Nat} {t : Nat} {tm : Nat} (hk : Keeps s0 s) :
    Keeps s0 (State.lowerFence s cls inst t tm) := by
  unfold State.lowerFence
  repeat' first
    | with_reducible assumption
    | with_reducible exact Keeps.refl _
    | with_reducible apply State.fenceRec_keeps
    | with_reducible apply State.log_keeps
    | with_reducible apply Keeps.ite
    | (extract_lets +onlyGivenNames x; refine Keeps.cut (x := x) ?_ ?_; (on_goal 2 => intro _; clear_value x); (on_goal 1 => subst x))
    | (extract_lets +onlyGivenNames x; clear_value x)
    | split
    | fail_if_no_progress (with_reducible refine Keeps.lit ?_ (by first | exact Nat.le_refl _ | omega) (by first | exact Nat.le_refl _ | omega) (fun w hw => hw))

end Sys2Proof.Machine
end

