-- ==== Sys2Proof/Laws/KeepsDramRows.lean ====
section
/-! SUPPORT. What the operations of Machine/DramRows.lean keep. -/

namespace Sys2Proof.Machine

theorem State.startTrain_keeps {s0 : State} {s : State} {t : Nat} {c : Nat} {bankH : Bool} {why : TrainFor} {rate : Nat} {step : Nat} (hk : Keeps s0 s) :
    Keeps s0 (State.startTrain s t c bankH why rate step) := by
  unfold State.startTrain
  repeat' first
    | with_reducible assumption
    | with_reducible exact Keeps.refl _
    | with_reducible apply State.setChan_keeps

theorem State.populate_keeps {s0 : State} {s : State} {tile : Nat} {slots : List SlotRead} {d : Spd} {sb : Nat} {rate : Option Nat} (hk : Keeps s0 s) :
    Keeps s0 (State.populate s tile slots d sb rate) := by
  unfold State.populate
  repeat' first
    | with_reducible assumption
    | (intro _; try beta_reduce)
    | with_reducible exact Keeps.refl _
    | with_reducible apply State.raiseFence_keeps
    | with_reducible apply State.log_keeps
    | with_reducible apply State.failedAt_keeps
    | with_reducible apply State.setDt_keeps
    | with_reducible apply State.setChan_keeps
    | with_reducible apply State.startTrain_keeps
    | with_reducible apply State.setIc_keeps
    | with_reducible apply Keeps.foldl
    | with_reducible apply Keeps.foldlFst
    | with_reducible apply Keeps.foldlSnd
    | with_reducible apply Keeps.ite
    | (extract_lets +onlyGivenNames x; refine Keeps.cut (x := x) ?_ ?_; (on_goal 2 => intro _; clear_value x); (on_goal 1 => subst x))
    | (extract_lets +onlyGivenNames x; clear_value x)
    | split
    | fail_if_no_progress (with_reducible refine Keeps.lit ?_ (by first | exact Nat.le_refl _ | omega) (by first | exact Nat.le_refl _ | omega) (fun w hw => hw))

theorem State.discovered_keeps {s0 : State} {s : State} {tile : Nat} {slots : List SlotRead} (hk : Keeps s0 s) :
    Keeps s0 (State.discovered s tile slots) := by
  unfold State.discovered
  repeat' first
    | with_reducible assumption
    | with_reducible exact Keeps.refl _
    | with_reducible apply State.raiseFence_keeps
    | with_reducible apply State.log_keeps
    | with_reducible apply State.failedAt_keeps
    | with_reducible apply State.populate_keeps
    | split

theorem execDimmDiscovery_keeps (tile : Nat) (s0 : SlotRead) (s1 : SlotRead) (s2 : SlotRead) (s3 : SlotRead) (s4 : SlotRead) (s5 : SlotRead) (s6 : SlotRead) (s7 : SlotRead) (s : State) :
    KeepsRun s (execDimmDiscovery tile s0 s1 s2 s3 s4 s5 s6 s7 s) := by
  unfold execDimmDiscovery
  repeat' first
    | with_reducible refine KeepsRun.next ?_
    | with_reducible assumption
    | with_reducible exact Keeps.refl _
    | with_reducible apply State.discovered_keeps
    | with_reducible apply Keeps.ite

theorem State.nextRetrain_keeps {s0 : State} {s : State} {t : Nat} (hk : Keeps s0 s) :
    Keeps s0 (State.nextRetrain s t) := by
  unfold State.nextRetrain
  repeat' first
    | with_reducible assumption
    | with_reducible exact Keeps.refl _
    | with_reducible apply State.startTrain_keeps
    | with_reducible apply State.setDt_keeps
    | (extract_lets +onlyGivenNames x; refine Keeps.cut (x := x) ?_ ?_; (on_goal 2 => intro _; clear_value x); (on_goal 1 => subst x))
    | (extract_lets +onlyGivenNames x; clear_value x)
    | split

theorem State.trainFailed_keeps {s0 : State} {s : State} {t : Nat} {c : Nat} {r : Train} (hk : Keeps s0 s) :
    Keeps s0 (State.trainFailed s t c r) := by
  unfold State.trainFailed
  repeat' first
    | with_reducible assumption
    | with_reducible exact Keeps.refl _
    | with_reducible apply State.log_keeps
    | with_reducible apply State.startTrain_keeps
    | with_reducible apply State.setChan_keeps
    | with_reducible apply State.nextRetrain_keeps
    | with_reducible apply State.raiseFence_keeps
    | with_reducible apply State.failedAt_keeps
    | with_reducible apply Keeps.ite
    | (extract_lets +onlyGivenNames x; refine Keeps.cut (x := x) ?_ ?_; (on_goal 2 => intro _; clear_value x); (on_goal 1 => subst x))
    | split

theorem State.trainActs_keeps {s0 : State} {s : State} {t : Nat} {c : Nat} {step : Nat} (hk : Keeps s0 s) :
    Keeps s0 (State.trainActs s t c step) := by
  unfold State.trainActs
  repeat' first
    | with_reducible assumption
    | (intro _; try beta_reduce)
    | with_reducible exact Keeps.refl _
    | with_reducible apply State.activate_keeps
    | with_reducible apply Keeps.foldl
    | with_reducible apply Keeps.foldlFst
    | with_reducible apply Keeps.foldlSnd
    | with_reducible apply Keeps.ite

theorem execDramTrainingStep_keeps (tile : Nat) (channel : Nat) (pass : Bool) (s : State) :
    KeepsRun s (execDramTrainingStep tile channel pass s) := by
  unfold execDramTrainingStep
  repeat' first
    | with_reducible refine KeepsRun.next ?_
    | with_reducible assumption
    | with_reducible exact Keeps.refl _
    | with_reducible apply State.trainActs_keeps
    | with_reducible apply State.setChan_keeps
    | with_reducible apply State.trainFailed_keeps
    | with_reducible apply Keeps.ite
    | (extract_lets +onlyGivenNames x; refine Keeps.cut (x := x) ?_ ?_; (on_goal 2 => intro _; clear_value x); (on_goal 1 => subst x))
    | (extract_lets +onlyGivenNames x; clear_value x)
    | split

theorem State.markReset_keeps {s0 : State} {s : State} {t : Nat} {c : Nat} (hk : Keeps s0 s) :
    Keeps s0 (State.markReset s t c) := by
  unfold State.markReset
  repeat' first
    | with_reducible assumption
    | with_reducible exact Keeps.refl _
    | with_reducible apply Keeps.ite
    | (extract_lets +onlyGivenNames x; refine Keeps.cut (x := x) ?_ ?_; (on_goal 2 => intro _; clear_value x); (on_goal 1 => subst x))
    | (extract_lets +onlyGivenNames x; clear_value x)
    | split
    | fail_if_no_progress (with_reducible refine Keeps.lit ?_ (by first | exact Nat.le_refl _ | omega) (by first | exact Nat.le_refl _ | omega) (fun w hw => hw))

theorem State.doneFull_keeps {s0 : State} {s : State} {t : Nat} {c : Nat} (hk : Keeps s0 s) :
    Keeps s0 (State.doneFull s t c) := by
  unfold State.doneFull
  repeat' first
    | with_reducible assumption
    | with_reducible exact Keeps.refl _
    | (extract_lets +onlyGivenNames x; refine Keeps.cut (x := x) ?_ ?_; (on_goal 2 => intro _; clear_value x); (on_goal 1 => subst x))
    | (extract_lets +onlyGivenNames x; clear_value x)
    | fail_if_no_progress (with_reducible refine Keeps.lit ?_ (by first | exact Nat.le_refl _ | omega) (by first | exact Nat.le_refl _ | omega) (fun w hw => hw))

theorem State.trained_keeps {s0 : State} {s : State} {t : Nat} {c : Nat} {r : Train} {x : Chan} (hk : Keeps s0 s) :
    Keeps s0 (State.trained s t c r x) := by
  unfold State.trained
  repeat' first
    | with_reducible assumption
    | with_reducible exact Keeps.refl _
    | with_reducible apply State.setChan_keeps
    | with_reducible apply State.markReset_keeps
    | with_reducible apply State.startTrain_keeps
    | with_reducible apply State.kick_keeps
    | with_reducible apply State.doneFull_keeps
    | with_reducible apply State.nextRetrain_keeps
    | with_reducible apply Keeps.ite
    | (extract_lets +onlyGivenNames x; refine Keeps.cut (x := x) ?_ ?_; (on_goal 2 => intro _; clear_value x); (on_goal 1 => subst x))
    | (extract_lets +onlyGivenNames x; clear_value x)
    | split

theorem execDramTrainingComplete_keeps (tile : Nat) (channel : Nat) (s : State) :
    KeepsRun s (execDramTrainingComplete tile channel s) := by
  unfold execDramTrainingComplete
  repeat' first
    | with_reducible refine KeepsRun.next ?_
    | with_reducible assumption
    | with_reducible exact Keeps.refl _
    | with_reducible apply State.newBank_keeps
    | with_reducible apply State.trained_keeps
    | with_reducible apply Keeps.ite
    | (extract_lets +onlyGivenNames x; refine Keeps.cut (x := x) ?_ ?_; (on_goal 2 => intro _; clear_value x); (on_goal 1 => subst x))
    | (extract_lets +onlyGivenNames x; clear_value x)
    | split

theorem State.startChange_keeps {s0 : State} {s : State} {t : Nat} {c : Nat} {toH : Bool} {full : Bool} (hk : Keeps s0 s) :
    Keeps s0 (State.startChange s t c toH full) := by
  unfold State.startChange
  repeat' first
    | with_reducible assumption
    | with_reducible exact Keeps.refl _
    | with_reducible apply State.quietChan_keeps
    | with_reducible apply State.setChan_keeps

theorem execFrequencyChange_keeps (tile : Nat) (s : State) :
    KeepsRun s (execFrequencyChange tile s) := by
  unfold execFrequencyChange
  repeat' first
    | with_reducible refine KeepsRun.next ?_
    | with_reducible assumption
    | with_reducible exact Keeps.refl _
    | with_reducible apply State.setDt_keeps
    | with_reducible apply State.startChange_keeps
    | with_reducible apply Keeps.ite
    | (extract_lets +onlyGivenNames x; refine Keeps.cut (x := x) ?_ ?_; (on_goal 2 => intro _; clear_value x); (on_goal 1 => subst x))
    | (extract_lets +onlyGivenNames x; clear_value x)
    | split

theorem execFullSpeedStep_keeps (tile : Nat) (channel : Nat) (s : State) :
    KeepsRun s (execFullSpeedStep tile channel s) := by
  unfold execFullSpeedStep
  repeat' first
    | with_reducible refine KeepsRun.next ?_
    | with_reducible assumption
    | with_reducible exact Keeps.refl _
    | with_reducible apply State.setChan_keeps
    | with_reducible apply State.startChange_keeps
    | with_reducible apply Keeps.ite

theorem State.trainFull_keeps {s0 : State} {s : State} {t : Nat} {c : Nat} (hk : Keeps s0 s) :
    Keeps s0 (State.trainFull s t c) := by
  unfold State.trainFull
  repeat' first
    | with_reducible assumption
    | with_reducible exact Keeps.refl _
    | with_reducible apply State.exitSelfRefresh_keeps
    | with_reducible apply State.setChan_keeps
    | with_reducible apply State.startTrain_keeps
    | (extract_lets +onlyGivenNames x; refine Keeps.cut (x := x) ?_ ?_; (on_goal 2 => intro _; clear_value x); (on_goal 1 => subst x))
    | (extract_lets +onlyGivenNames x; clear_value x)
    | split

theorem State.enterBank_keeps {s0 : State} {s : State} {t : Nat} {c : Nat} {toH : Bool} {drift : Nat} (hk : Keeps s0 s) :
    Keeps s0 (State.enterBank s t c toH drift) := by
  unfold State.enterBank
  repeat' first
    | with_reducible assumption
    | with_reducible exact Keeps.refl _
    | with_reducible apply State.endChange_keeps
    | with_reducible apply State.quietChan_keeps
    | with_reducible apply State.newDelays_keeps
    | with_reducible apply State.evalRetrain_keeps
    | with_reducible apply State.setChan_keeps
    | with_reducible apply Keeps.ite

theorem execFrequencyChangeComplete_keeps (tile : Nat) (channel : Nat) (found : DriftTemps) (s : State) :
    KeepsRun s (execFrequencyChangeComplete tile channel found s) := by
  unfold execFrequencyChangeComplete
  repeat' first
    | with_reducible refine KeepsRun.next ?_
    | with_reducible assumption
    | with_reducible exact Keeps.refl _
    | with_reducible apply State.readTemps_keeps
    | with_reducible apply State.setDt_keeps
    | with_reducible apply State.trainFull_keeps
    | with_reducible apply State.enterBank_keeps
    | with_reducible apply State.doneFull_keeps
    | with_reducible apply Keeps.ite
    | (extract_lets +onlyGivenNames x; refine Keeps.cut (x := x) ?_ ?_; (on_goal 2 => intro _; clear_value x); (on_goal 1 => subst x))
    | (extract_lets +onlyGivenNames x; clear_value x)
    | split

theorem State.retrained_keeps {s0 : State} {s : State} {t : Nat} {c : Nat} (hk : Keeps s0 s) :
    Keeps s0 (State.retrained s t c) := by
  unfold State.retrained
  repeat' first
    | with_reducible assumption
    | with_reducible exact Keeps.refl _
    | with_reducible apply State.newDelays_keeps
    | with_reducible apply State.setChan_keeps

theorem State.sliceFailed_keeps {s0 : State} {s : State} {t : Nat} {c : Nat} (hk : Keeps s0 s) :
    Keeps s0 (State.sliceFailed s t c) := by
  unfold State.sliceFailed
  repeat' first
    | with_reducible assumption
    | with_reducible exact Keeps.refl _
    | with_reducible apply State.setChan_keeps
    | with_reducible apply State.log_keeps
    | with_reducible apply Keeps.ite

theorem execRetrainingSlice_keeps (tile : Nat) (channel : Nat) (finished : Bool) (pass : Bool) (s : State) :
    KeepsRun s (execRetrainingSlice tile channel finished pass s) := by
  unfold execRetrainingSlice
  repeat' first
    | with_reducible refine KeepsRun.next ?_
    | with_reducible assumption
    | with_reducible exact Keeps.refl _
    | with_reducible apply State.setChan_keeps
    | with_reducible apply State.trainActs_keeps
    | with_reducible apply State.sliceFailed_keeps
    | with_reducible apply State.retrained_keeps
    | with_reducible apply State.kick_keeps
    | with_reducible apply Keeps.ite
    | (extract_lets +onlyGivenNames x; refine Keeps.cut (x := x) ?_ ?_; (on_goal 2 => intro _; clear_value x); (on_goal 1 => subst x))
    | (extract_lets +onlyGivenNames x; clear_value x)
    | split

theorem execDimmTemperatureRead_keeps (tile : Nat) (channel : Nat) (t0 : Option Nat) (t1 : Option Nat) (s : State) :
    KeepsRun s (execDimmTemperatureRead tile channel t0 t1 s) := by
  unfold execDimmTemperatureRead
  repeat' first
    | with_reducible refine KeepsRun.next ?_
    | with_reducible assumption
    | with_reducible exact Keeps.refl _
    | with_reducible apply State.readTemps_keeps
    | with_reducible apply State.evalRetrain_keeps
    | with_reducible apply Keeps.ite

theorem execDqsOscillatorCheck_keeps (tile : Nat) (channel : Nat) (rank : Nat) (drift : Nat) (s : State) :
    KeepsRun s (execDqsOscillatorCheck tile channel rank drift s) := by
  unfold execDqsOscillatorCheck
  repeat' first
    | with_reducible refine KeepsRun.next ?_
    | with_reducible assumption
    | with_reducible exact Keeps.refl _
    | with_reducible apply State.setChan_keeps
    | with_reducible apply State.newDelays_keeps
    | with_reducible apply Keeps.ite

theorem execZqCalibration_keeps (tile : Nat) (channel : Nat) (rank : Nat) (s : State) :
    KeepsRun s (execZqCalibration tile channel rank s) := by
  unfold execZqCalibration
  repeat' first
    | with_reducible refine KeepsRun.next ?_
    | with_reducible assumption
    | with_reducible exact Keeps.refl _
    | with_reducible apply State.setChan_keeps
    | with_reducible apply Keeps.ite

theorem State.closeRank_keeps {s0 : State} {s : State} {t : Nat} {c : Nat} {rank : Nat} {bank : Option Nat} (hk : Keeps s0 s) :
    Keeps s0 (State.closeRank s t c rank bank) := by
  unfold State.closeRank
  repeat' first
    | with_reducible assumption
    | with_reducible exact Keeps.refl _
    | with_reducible apply State.setChan_keeps

theorem State.issueRefresh_keeps {s0 : State} {s : State} {t : Nat} {c : Nat} {rank : Nat} {r : RefRank} (hk : Keeps s0 s) :
    Keeps s0 (State.issueRefresh s t c rank r) := by
  unfold State.issueRefresh
  repeat' first
    | with_reducible assumption
    | with_reducible exact Keeps.refl _
    | with_reducible apply State.closeRank_keeps
    | with_reducible apply State.setChan_keeps

theorem execRefreshDue_keeps (tile : Nat) (channel : Nat) (rank : Nat) (s : State) :
    KeepsRun s (execRefreshDue tile channel rank s) := by
  unfold execRefreshDue
  repeat' first
    | with_reducible refine KeepsRun.next ?_
    | with_reducible assumption
    | with_reducible exact Keeps.refl _
    | with_reducible apply State.setChan_keeps
    | with_reducible apply State.issueRefresh_keeps
    | with_reducible apply Keeps.ite

theorem execNeighbourRefresh_keeps (tile : Nat) (channel : Nat) (s : State) :
    KeepsRun s (execNeighbourRefresh tile channel s) := by
  unfold execNeighbourRefresh
  repeat' first
    | with_reducible refine KeepsRun.next ?_
    | with_reducible assumption
    | with_reducible exact Keeps.refl _
    | with_reducible apply State.refreshNeighbours_keeps
    | with_reducible apply Keeps.ite

theorem execActivateTableClear_keeps (tile : Nat) (channel : Nat) (s : State) :
    KeepsRun s (execActivateTableClear tile channel s) := by
  unfold execActivateTableClear
  repeat' first
    | with_reducible refine KeepsRun.next ?_
    | with_reducible assumption
    | with_reducible exact Keeps.refl _
    | with_reducible apply State.refreshAll_keeps
    | with_reducible apply State.setChan_keeps
    | with_reducible apply Keeps.ite

theorem execPageIdleClose_keeps (tile : Nat) (channel : Nat) (bank : Nat) (s : State) :
    KeepsRun s (execPageIdleClose tile channel bank s) := by
  unfold execPageIdleClose
  repeat' first
    | with_reducible refine KeepsRun.next ?_
    | with_reducible assumption
    | with_reducible exact Keeps.refl _
    | with_reducible apply State.setChan_keeps
    | with_reducible apply Keeps.ite

theorem execPowerDownEntry_keeps (tile : Nat) (channel : Nat) (rank : Nat) (s : State) :
    KeepsRun s (execPowerDownEntry tile channel rank s) := by
  unfold execPowerDownEntry
  repeat' first
    | with_reducible refine KeepsRun.next ?_
    | with_reducible assumption
    | with_reducible exact Keeps.refl _
    | with_reducible apply State.closeRank_keeps
    | with_reducible apply State.setChan_keeps
    | with_reducible apply Keeps.ite

theorem execSelfRefreshEntry_keeps (tile : Nat) (channel : Nat) (s : State) :
    KeepsRun s (execSelfRefreshEntry tile channel s) := by
  unfold execSelfRefreshEntry
  repeat' first
    | with_reducible refine KeepsRun.next ?_
    | with_reducible assumption
    | with_reducible exact Keeps.refl _
    | with_reducible apply State.quietChan_keeps
    | with_reducible apply State.setChan_keeps
    | with_reducible apply Keeps.ite

theorem execSelfRefreshExit_keeps (tile : Nat) (channel : ChanTemps) (s : State) :
    KeepsRun s (execSelfRefreshExit tile channel s) := by
  unfold execSelfRefreshExit
  repeat' first
    | with_reducible refine KeepsRun.next ?_
    | with_reducible assumption
    | with_reducible exact Keeps.refl _
    | with_reducible apply State.readTemps_keeps
    | with_reducible apply State.exitSelfRefresh_keeps
    | with_reducible apply State.startTrain_keeps
    | with_reducible apply State.evalRetrain_keeps
    | with_reducible apply State.setChan_keeps
    | with_reducible apply Keeps.ite

theorem State.closeSub_keeps {s0 : State} {s : State} {t : Nat} {c : Nat} {sub : Nat} (hk : Keeps s0 s) :
    Keeps s0 (State.closeSub s t c sub) := by
  unfold State.closeSub
  repeat' first
    | with_reducible assumption
    | with_reducible exact Keeps.refl _
    | with_reducible apply State.setChan_keeps

theorem execPracAlert_keeps (tile : Nat) (channel : Nat) (sub : Nat) (s : State) :
    KeepsRun s (execPracAlert tile channel sub s) := by
  unfold execPracAlert
  repeat' first
    | with_reducible refine KeepsRun.next ?_
    | with_reducible assumption
    | with_reducible exact Keeps.refl _
    | with_reducible apply State.tally_keeps
    | with_reducible apply State.closeSub_keeps
    | with_reducible apply Keeps.ite

theorem execCaParityAlert_keeps (tile : Nat) (channel : Nat) (sub : Nat) (s : State) :
    KeepsRun s (execCaParityAlert tile channel sub s) := by
  unfold execCaParityAlert
  repeat' first
    | with_reducible refine KeepsRun.next ?_
    | with_reducible assumption
    | with_reducible exact Keeps.refl _
    | with_reducible apply State.countP_keeps
    | with_reducible apply State.closeSub_keeps
    | with_reducible apply State.setIc_keeps
    | with_reducible apply State.raiseFence_keeps
    | with_reducible apply Keeps.ite

end Sys2Proof.Machine
end

