-- ==== Sys2Proof/Laws/KeepsIntegRows.lean ====
section
/-! SUPPORT. What the operations of Machine/IntegRows.lean keep. -/

namespace Sys2Proof.Machine

theorem State.countUe_keeps {s0 : State} {s : State} {t : Nat} {a : Nat} (hk : Keeps s0 s) :
    Keeps s0 (State.countUe s t a) := by
  unfold State.countUe
  repeat' first
    | with_reducible assumption
    | with_reducible exact Keeps.refl _
    | with_reducible apply State.setIc_keeps
    | with_reducible apply State.raiseFence_keeps
    | with_reducible apply Keeps.ite

theorem State.poisonLine_keeps {s0 : State} {s : State} {t : Nat} {off : Nat} {a : Nat} (hk : Keeps s0 s) :
    Keeps s0 (State.poisonLine s t off a) := by
  unfold State.poisonLine
  repeat' first
    | with_reducible assumption
    | with_reducible exact Keeps.refl _
    | with_reducible apply State.markPage_keeps
    | with_reducible apply State.enterPoison_keeps
    | with_reducible apply State.placeQuiet_keeps
    | with_reducible apply State.log_keeps
    | with_reducible apply State.assignFrame_keeps
    | with_reducible apply Keeps.ite

theorem State.endRecovery_keeps {s0 : State} {s : State} {t : Nat} {off : Nat} (hk : Keeps s0 s) :
    Keeps s0 (State.endRecovery s t off) := by
  unfold State.endRecovery
  repeat' first
    | with_reducible assumption
    | with_reducible exact Keeps.refl _
    | with_reducible apply State.release_keeps

theorem execLineRecovery_keeps (tile : Nat) (dfa : Nat) (readable : Bool) (s : State) :
    KeepsRun s (execLineRecovery tile dfa readable s) := by
  unfold execLineRecovery
  repeat' first
    | with_reducible refine KeepsRun.next ?_
    | with_reducible assumption
    | with_reducible exact Keeps.refl _
    | with_reducible apply State.setPt_keeps
    | with_reducible apply State.log_keeps
    | with_reducible apply State.putDram_keeps
    | with_reducible apply State.enterPoison_keeps
    | with_reducible apply State.endRecovery_keeps
    | with_reducible apply State.countUe_keeps
    | with_reducible apply State.deliver_keeps
    | with_reducible apply State.sendLrq_keeps
    | with_reducible apply State.poisonLine_keeps
    | with_reducible apply Keeps.ite
    | (extract_lets +onlyGivenNames x; refine Keeps.cut (x := x) ?_ ?_; (on_goal 2 => intro _; clear_value x); (on_goal 1 => subst x))
    | (extract_lets +onlyGivenNames x; clear_value x)
    | split

theorem State.refetch_keeps {s0 : State} {s : State} {t : Nat} {a : Nat} (hk : Keeps s0 s) :
    Keeps s0 (State.refetch s t a) := by
  unfold State.refetch
  repeat' first
    | with_reducible assumption
    | with_reducible exact Keeps.refl _
    | with_reducible apply State.failRead_keeps

theorem State.convRead_keeps {s0 : State} {s : State} {t : Nat} {a : Nat} {err : BitVec 640} (hk : Keeps s0 s) :
    Keeps s0 (State.convRead s t a err) := by
  unfold State.convRead
  repeat' first
    | with_reducible assumption
    | with_reducible exact Keeps.refl _
    | with_reducible apply State.enterPoison_keeps
    | with_reducible apply State.readRow_keeps
    | with_reducible apply State.putDram_keeps
    | with_reducible apply State.refetch_keeps
    | with_reducible apply Keeps.ite
    | (extract_lets +onlyGivenNames x; refine Keeps.cut (x := x) ?_ ?_; (on_goal 2 => intro _; clear_value x); (on_goal 1 => subst x))
    | split

theorem State.convBegin_keeps {s0 : State} {s : State} {t : Nat} {c : Nat} {errs : List (Nat × BitVec 640)} (hk : Keeps s0 s) :
    Keeps s0 (State.convBegin s t c errs) := by
  unfold State.convBegin
  repeat' first
    | with_reducible assumption
    | (intro _; try beta_reduce)
    | with_reducible exact Keeps.refl _
    | with_reducible apply State.setIt_keeps
    | with_reducible apply State.setIc_keeps
    | with_reducible apply State.convRead_keeps
    | with_reducible apply Keeps.foldl

theorem State.convMove_keeps {s0 : State} {s : State} {t : Nat} {c : Nat} (hk : Keeps s0 s) :
    Keeps s0 (State.convMove s t c) := by
  unfold State.convMove
  repeat' first
    | with_reducible assumption
    | with_reducible exact Keeps.refl _
    | with_reducible apply State.setIc_keeps

theorem State.convEnd_keeps {s0 : State} {s : State} {t : Nat} {c : Nat} (hk : Keeps s0 s) :
    Keeps s0 (State.convEnd s t c) := by
  unfold State.convEnd
  repeat' first
    | with_reducible assumption
    | (intro _; try beta_reduce)
    | with_reducible exact Keeps.refl _
    | with_reducible apply State.kick_keeps
    | with_reducible apply State.queueWrite_keeps
    | with_reducible apply State.convMove_keeps
    | with_reducible apply Keeps.foldl

theorem execConversionLapGroup_keeps (tile : Nat) (channel : Nat) (ends : Bool) (errs : List (Nat × BitVec 640)) (s : State) :
    KeepsRun s (execConversionLapGroup tile channel ends errs s) := by
  unfold execConversionLapGroup
  repeat' first
    | with_reducible refine KeepsRun.next ?_
    | with_reducible assumption
    | with_reducible exact Keeps.refl _
    | with_reducible apply State.convMove_keeps
    | with_reducible apply State.convBegin_keeps
    | with_reducible apply State.convEnd_keeps
    | with_reducible apply Keeps.ite

theorem State.lapStep_keeps {s0 : State} {s : State} {t : Nat} {c : Nat} (hk : Keeps s0 s) :
    Keeps s0 (State.lapStep s t c) := by
  unfold State.lapStep
  repeat' first
    | with_reducible assumption
    | with_reducible exact Keeps.refl _
    | with_reducible apply State.setIc_keeps
    | with_reducible apply State.setIt_keeps
    | with_reducible apply Keeps.ite

theorem State.lapGood_keeps {s0 : State} {s : State} {t : Nat} {c : Nat} {off : Nat} {p : Bool} (hk : Keeps s0 s) :
    Keeps s0 (State.lapGood s t c off p) := by
  unfold State.lapGood
  repeat' first
    | with_reducible assumption
    | with_reducible exact Keeps.refl _
    | with_reducible apply State.lapStep_keeps
    | with_reducible apply State.enterPoison_keeps
    | with_reducible apply Keeps.ite

theorem State.lapBad_keeps {s0 : State} {s : State} {t : Nat} {c : Nat} {a : Nat} (hk : Keeps s0 s) :
    Keeps s0 (State.lapBad s t c a) := by
  unfold State.lapBad
  repeat' first
    | with_reducible assumption
    | with_reducible exact Keeps.refl _
    | with_reducible apply State.lapStep_keeps
    | with_reducible apply State.refetch_keeps

theorem State.queueBack_keeps {s0 : State} {s : State} {t : Nat} {a : Nat} (hk : Keeps s0 s) :
    Keeps s0 (State.queueBack s t a) := by
  unfold State.queueBack
  repeat' first
    | with_reducible assumption
    | with_reducible exact Keeps.refl _
    | with_reducible apply State.setIt_keeps

theorem execUndertowRead_keeps (tile : Nat) (channel : Nat) (err : BitVec 640) (s : State) :
    KeepsRun s (execUndertowRead tile channel err s) := by
  unfold execUndertowRead
  repeat' first
    | with_reducible refine KeepsRun.next ?_
    | with_reducible assumption
    | with_reducible exact Keeps.refl _
    | with_reducible apply State.readRow_keeps
    | with_reducible apply State.lapGood_keeps
    | with_reducible apply State.queueBack_keeps
    | with_reducible apply State.bucket_keeps
    | with_reducible apply State.lapBad_keeps
    | with_reducible apply Keeps.ite
    | (extract_lets +onlyGivenNames x; refine Keeps.cut (x := x) ?_ ?_; (on_goal 2 => intro _; clear_value x); (on_goal 1 => subst x))
    | (extract_lets +onlyGivenNames x; clear_value x)
    | split

theorem execUndertowWriteBack_keeps (tile : Nat) (s : State) :
    KeepsRun s (execUndertowWriteBack tile s) := by
  unfold execUndertowWriteBack
  repeat' first
    | with_reducible refine KeepsRun.next ?_
    | with_reducible assumption
    | with_reducible exact Keeps.refl _
    | with_reducible apply State.setIt_keeps
    | with_reducible apply State.queueWrite_keeps
    | with_reducible apply Keeps.ite
    | (extract_lets +onlyGivenNames x; refine Keeps.cut (x := x) ?_ ?_; (on_goal 2 => intro _; clear_value x); (on_goal 1 => subst x))
    | (extract_lets +onlyGivenNames x; clear_value x)
    | split

theorem execLapMaxReached_keeps (tile : Nat) (channel : Nat) (s : State) :
    KeepsRun s (execLapMaxReached tile channel s) := by
  unfold execLapMaxReached
  repeat' first
    | with_reducible refine KeepsRun.next ?_
    | with_reducible assumption
    | with_reducible exact Keeps.refl _
    | with_reducible apply State.countP_keeps
    | with_reducible apply State.log_keeps
    | with_reducible apply State.setIc_keeps
    | with_reducible apply Keeps.ite

theorem execCeBucketLeak_keeps (tile : Nat) (b : Nat) (s : State) :
    KeepsRun s (execCeBucketLeak tile b s) := by
  unfold execCeBucketLeak
  repeat' first
    | with_reducible refine KeepsRun.next ?_
    | with_reducible assumption
    | with_reducible exact Keeps.refl _
    | with_reducible apply State.setParam_keeps
    | with_reducible apply State.setIt_keeps
    | with_reducible apply Keeps.ite

theorem State.poisonWait_keeps {s0 : State} {s : State} {t : Nat} {l : Nat} {tag : Nat} (hk : Keeps s0 s) :
    Keeps s0 (State.poisonWait s t l tag) := by
  unfold State.poisonWait
  repeat' first
    | with_reducible assumption
    | with_reducible exact Keeps.refl _
    | with_reducible apply Keeps.ite
    | split
    | fail_if_no_progress (with_reducible refine Keeps.lit ?_ (by first | exact Nat.le_refl _ | omega) (by first | exact Nat.le_refl _ | omega) (fun w hw => hw))

theorem State.poisonRead_keeps {s0 : State} {s : State} {t : Nat} {l : Nat} {tag : Nat} (hk : Keeps s0 s) :
    Keeps s0 (State.poisonRead s t l tag) := by
  unfold State.poisonRead
  repeat' first
    | with_reducible assumption
    | with_reducible exact Keeps.refl _
    | with_reducible apply State.answer_keeps
    | with_reducible apply State.settle_keeps
    | (extract_lets +onlyGivenNames x; refine Keeps.cut (x := x) ?_ ?_; (on_goal 2 => intro _; clear_value x); (on_goal 1 => subst x))
    | (extract_lets +onlyGivenNames x; clear_value x)
    | split
    | fail_if_no_progress (with_reducible refine Keeps.lit ?_ (by first | exact Nat.le_refl _ | omega) (by first | exact Nat.le_refl _ | omega) (fun w hw => hw))

theorem execParityError_keeps (tile : Nat) (place : Parity) (s : State) :
    KeepsRun s (execParityError tile place s) := by
  unfold execParityError
  repeat' first
    | with_reducible refine KeepsRun.next ?_
    | with_reducible assumption
    | with_reducible exact Keeps.refl _
    | with_reducible apply State.tally_keeps
    | with_reducible apply State.log_keeps
    | with_reducible apply State.poisonRead_keeps
    | with_reducible apply State.poisonWait_keeps
    | with_reducible apply State.raiseFence_keeps
    | with_reducible apply Keeps.ite
    | (extract_lets +onlyGivenNames x; refine Keeps.cut (x := x) ?_ ?_; (on_goal 2 => intro _; clear_value x); (on_goal 1 => subst x))
    | split

theorem execResidueMismatch_keeps (tile : Nat) (cls : Nat) (inst : Nat) (s : State) :
    KeepsRun s (execResidueMismatch tile cls inst s) := by
  unfold execResidueMismatch
  repeat' first
    | with_reducible refine KeepsRun.next ?_
    | with_reducible assumption
    | with_reducible exact Keeps.refl _
    | with_reducible apply State.tally_keeps
    | with_reducible apply State.log_keeps
    | with_reducible apply State.setCtr_keeps
    | with_reducible apply State.raiseFence_keeps
    | with_reducible apply Keeps.ite

theorem State.discardItem_keeps {s0 : State} {s : State} {n : Nat} (hk : Keeps s0 s) :
    Keeps s0 (State.discardItem s n) := by
  unfold State.discardItem
  repeat' first
    | with_reducible assumption
    | with_reducible exact Keeps.refl _
    | with_reducible apply State.setSlip_keeps
    | with_reducible apply State.setCtx_keeps
    | with_reducible apply Keeps.ite
    | (extract_lets +onlyGivenNames x; refine Keeps.cut (x := x) ?_ ?_; (on_goal 2 => intro _; clear_value x); (on_goal 1 => subst x))
    | (extract_lets +onlyGivenNames x; clear_value x)
    | split

theorem execQueueEccError_keeps (tile : Nat) (what : QueueError) (s : State) :
    KeepsRun s (execQueueEccError tile what s) := by
  unfold execQueueEccError
  repeat' first
    | with_reducible refine KeepsRun.next ?_
    | with_reducible assumption
    | with_reducible exact Keeps.refl _
    | with_reducible apply State.bucket_keeps
    | with_reducible apply State.setCtx_keeps
    | with_reducible apply State.poisonRead_keeps
    | with_reducible apply State.poisonWait_keeps
    | with_reducible apply State.setTt_keeps
    | with_reducible apply State.raiseFence_keeps
    | with_reducible apply State.discardItem_keeps
    | with_reducible apply Keeps.ite
    | (extract_lets +onlyGivenNames x; refine Keeps.cut (x := x) ?_ ?_; (on_goal 2 => intro _; clear_value x); (on_goal 1 => subst x))
    | (extract_lets +onlyGivenNames x; clear_value x)
    | split

theorem execEavesTagError_keeps (tile : Nat) (set : Nat) (way : Nat) (what : EavesError) (s : State) :
    KeepsRun s (execEavesTagError tile set way what s) := by
  unfold execEavesTagError
  repeat' first
    | with_reducible refine KeepsRun.next ?_
    | with_reducible assumption
    | with_reducible exact Keeps.refl _
    | with_reducible apply State.tally_keeps
    | with_reducible apply State.bucket_keeps
    | with_reducible apply State.dropWay_keeps
    | with_reducible apply State.setPt_keeps
    | with_reducible apply State.log_keeps
    | with_reducible apply State.markPage_keeps
    | with_reducible apply State.enterPoison_keeps
    | with_reducible apply State.setEv_keeps
    | with_reducible apply State.assignFrame_keeps
    | with_reducible apply State.raiseFence_keeps
    | with_reducible apply Keeps.ite
    | (extract_lets +onlyGivenNames x; refine Keeps.cut (x := x) ?_ ?_; (on_goal 2 => intro _; clear_value x); (on_goal 1 => subst x))
    | (extract_lets +onlyGivenNames x; clear_value x)
    | split

theorem execUcieReplayLimit_keeps (tile : Nat) (link : Nat) (count : Nat) (s : State) :
    KeepsRun s (execUcieReplayLimit tile link count s) := by
  unfold execUcieReplayLimit
  repeat' first
    | with_reducible refine KeepsRun.next ?_
    | with_reducible assumption
    | with_reducible exact Keeps.refl _
    | with_reducible apply State.tally_keeps
    | with_reducible apply State.setIt_keeps
    | with_reducible apply State.raiseFence_keeps
    | with_reducible apply Keeps.ite

theorem execFlashing_keeps (cls : Nat) (inst : Nat) (tile : Nat) (cause : Nat) (s : State) :
    KeepsRun s (execFlashing cls inst tile cause s) := by
  unfold execFlashing
  repeat' first
    | with_reducible refine KeepsRun.next ?_
    | with_reducible assumption
    | with_reducible exact Keeps.refl _
    | with_reducible apply State.raiseFence_keeps

theorem execFenceNotice_keeps (holder : Nat) (cls : Nat) (inst : Nat) (tile : Nat) (s : State) :
    KeepsRun s (execFenceNotice holder cls inst tile s) := by
  unfold execFenceNotice
  repeat' first
    | with_reducible refine KeepsRun.next ?_
    | with_reducible assumption
    | with_reducible exact Keeps.refl _
    | with_reducible apply Keeps.ite
    | (extract_lets +onlyGivenNames x; refine Keeps.cut (x := x) ?_ ?_; (on_goal 2 => intro _; clear_value x); (on_goal 1 => subst x))
    | (extract_lets +onlyGivenNames x; clear_value x)
    | split
    | fail_if_no_progress (with_reducible refine Keeps.lit ?_ (by first | exact Nat.le_refl _ | omega) (by first | exact Nat.le_refl _ | omega) (fun w hw => hw))

theorem State.resetChan_keeps {s0 : State} {s : State} {t : Nat} {c : Nat} (hk : Keeps s0 s) :
    Keeps s0 (State.resetChan s t c) := by
  unfold State.resetChan
  repeat' first
    | with_reducible assumption
    | with_reducible exact Keeps.refl _
    | with_reducible apply State.startTrain_keeps
    | with_reducible apply State.setChan_keeps
    | with_reducible apply Keeps.ite

theorem execUnitReset_keeps (cls : Nat) (inst : Nat) (tile : Nat) (trains : Bool) (s : State) :
    KeepsRun s (execUnitReset cls inst tile trains s) := by
  unfold execUnitReset
  repeat' first
    | with_reducible refine KeepsRun.next ?_
    | with_reducible assumption
    | with_reducible exact Keeps.refl _
    | with_reducible apply State.resetChan_keeps
    | with_reducible apply Keeps.ite
    | (extract_lets +onlyGivenNames x; refine Keeps.cut (x := x) ?_ ?_; (on_goal 2 => intro _; clear_value x); (on_goal 1 => subst x))
    | (extract_lets +onlyGivenNames x; clear_value x)
    | split
    | fail_if_no_progress (with_reducible refine Keeps.lit ?_ (by first | exact Nat.le_refl _ | omega) (by first | exact Nat.le_refl _ | omega) (fun w hw => hw))

theorem State.reloadTo_keeps {s0 : State} {s : State} {f : Fence} {page : Nat} (hk : Keeps s0 s) :
    Keeps s0 (State.reloadTo s f page) := by
  unfold State.reloadTo
  repeat' first
    | with_reducible assumption
    | with_reducible exact Keeps.refl _
    | with_reducible apply Keeps.ite
    | (extract_lets +onlyGivenNames x; refine Keeps.cut (x := x) ?_ ?_; (on_goal 2 => intro _; clear_value x); (on_goal 1 => subst x))
    | (extract_lets +onlyGivenNames x; clear_value x)
    | split
    | fail_if_no_progress (with_reducible refine Keeps.lit ?_ (by first | exact Nat.le_refl _ | omega) (by first | exact Nat.le_refl _ | omega) (fun w hw => hw))

theorem State.reloadPage_keeps {s0 : State} {s : State} {f : Fence} {page : Nat} (hk : Keeps s0 s) :
    Keeps s0 (State.reloadPage s f page) := by
  unfold State.reloadPage
  repeat' first
    | with_reducible assumption
    | (intro _; try beta_reduce)
    | with_reducible exact Keeps.refl _
    | with_reducible apply State.enterPoison_keeps
    | with_reducible apply State.placeQuiet_keeps
    | with_reducible apply Keeps.foldl
    | with_reducible apply Keeps.foldlFst
    | with_reducible apply Keeps.foldlSnd
    | with_reducible apply Keeps.ite
    | (extract_lets +onlyGivenNames x; refine Keeps.cut (x := x) ?_ ?_; (on_goal 2 => intro _; clear_value x); (on_goal 1 => subst x))
    | (extract_lets +onlyGivenNames x; clear_value x)
    | split

theorem execChannelReload_keeps (cls : Nat) (inst : Nat) (tile : Nat) (s : State) :
    KeepsRun s (execChannelReload cls inst tile s) := by
  unfold execChannelReload
  repeat' first
    | with_reducible refine KeepsRun.next ?_
    | with_reducible assumption
    | with_reducible exact Keeps.refl _
    | with_reducible apply State.sendLrq_keeps
    | with_reducible apply State.reloadTo_keeps
    | with_reducible apply State.reloadPage_keeps
    | with_reducible apply Keeps.ite
    | (extract_lets +onlyGivenNames x; refine Keeps.cut (x := x) ?_ ?_; (on_goal 2 => intro _; clear_value x); (on_goal 1 => subst x))
    | (extract_lets +onlyGivenNames x; clear_value x)
    | split

end Sys2Proof.Machine
end

