-- ==== Sys2Proof/Laws/KeepsBoot.lean ====
section
/-! SUPPORT. What the operations of Machine/Boot.lean keep. -/

namespace Sys2Proof.Machine

theorem State.countDirty_keeps {s0 : State} {s : State} (hk : Keeps s0 s) :
    Keeps s0 (State.countDirty s) := by
  unfold State.countDirty
  repeat' first
    | with_reducible assumption
    | with_reducible exact Keeps.refl _
    | with_reducible apply Keeps.ite
    | (extract_lets +onlyGivenNames x; refine Keeps.cut (x := x) ?_ ?_; (on_goal 2 => intro _; clear_value x); (on_goal 1 => subst x))
    | (extract_lets +onlyGivenNames x; clear_value x)
    | split
    | fail_if_no_progress (with_reducible refine Keeps.lit ?_ (by first | exact Nat.le_refl _ | omega) (by first | exact Nat.le_refl _ | omega) (fun w hw => hw))

theorem State.resetTiles_keeps {s0 s : State} {warm : Bool} (h : Keeps s0 s) : Keeps s0 (s.resetTiles warm) :=
  (State.stopFuses_keeps h).trans ⟨id, rfl, rfl, Nat.le_refl _, Nat.le_refl _, fun _ hw => hw⟩

theorem State.latchPwr_keeps {s0 : State} {s : State} (hk : Keeps s0 s) :
    Keeps s0 (State.latchPwr s) := by
  unfold State.latchPwr
  repeat' first
    | with_reducible assumption
    | (intro _; try beta_reduce)
    | with_reducible exact Keeps.refl _
    | with_reducible apply Keeps.foldl
    | with_reducible apply Keeps.foldlFst
    | with_reducible apply Keeps.foldlSnd
    | (extract_lets +onlyGivenNames x; refine Keeps.cut (x := x) ?_ ?_; (on_goal 2 => intro _; clear_value x); (on_goal 1 => subst x))
    | (extract_lets +onlyGivenNames x; clear_value x)
    | fail_if_no_progress (with_reducible refine Keeps.lit ?_ (by first | exact Nat.le_refl _ | omega) (by first | exact Nat.le_refl _ | omega) (fun w hw => hw))

theorem State.beginStart_keeps {s0 : State} {s : State} (hk : Keeps s0 s) :
    Keeps s0 (State.beginStart s) := by
  unfold State.beginStart
  repeat' first
    | with_reducible assumption
    | with_reducible exact Keeps.refl _
    | with_reducible apply State.latchPwr_keeps
    | with_reducible apply State.setMode_keeps
    | with_reducible apply State.resetTiles_keeps
    | with_reducible apply State.clearFences_keeps
    | (extract_lets +onlyGivenNames x; refine Keeps.cut (x := x) ?_ ?_; (on_goal 2 => intro _; clear_value x); (on_goal 1 => subst x))
    | (extract_lets +onlyGivenNames x; clear_value x)
    | fail_if_no_progress (with_reducible refine Keeps.lit ?_ (by first | exact Nat.le_refl _ | omega) (by first | exact Nat.le_refl _ | omega) (fun w hw => hw))

theorem State.takeStart_keeps {s0 : State} {s : State} (hk : Keeps s0 s) :
    Keeps s0 (State.takeStart s) := by
  unfold State.takeStart
  repeat' first
    | with_reducible assumption
    | with_reducible exact Keeps.refl _
    | with_reducible apply State.beginStart_keeps
    | with_reducible apply Keeps.ite
    | (extract_lets +onlyGivenNames x; refine Keeps.cut (x := x) ?_ ?_; (on_goal 2 => intro _; clear_value x); (on_goal 1 => subst x))
    | (extract_lets +onlyGivenNames x; clear_value x)
    | split
    | fail_if_no_progress (with_reducible refine Keeps.lit ?_ (by first | exact Nat.le_refl _ | omega) (by first | exact Nat.le_refl _ | omega) (fun w hw => hw))

theorem State.refuseStart_keeps {s0 : State} {s : State} {st : Status} (hk : Keeps s0 s) :
    Keeps s0 (State.refuseStart s st) := by
  unfold State.refuseStart
  repeat' first
    | with_reducible assumption
    | with_reducible exact Keeps.refl _
    | with_reducible apply State.emit_keeps
    | with_reducible apply State.log_keeps

theorem State.answerStart_keeps {s0 : State} {s : State} (hk : Keeps s0 s) :
    Keeps s0 (State.answerStart s) := by
  unfold State.answerStart
  repeat' first
    | with_reducible assumption
    | with_reducible exact Keeps.refl _
    | with_reducible apply State.refuseStart_keeps
    | with_reducible apply State.log_keeps
    | with_reducible apply State.takeStart_keeps
    | with_reducible apply State.emit_keeps
    | with_reducible apply Keeps.ite
    | (extract_lets +onlyGivenNames x; refine Keeps.cut (x := x) ?_ ?_; (on_goal 2 => intro _; clear_value x); (on_goal 1 => subst x))
    | (extract_lets +onlyGivenNames x; clear_value x)
    | split
    | fail_if_no_progress (with_reducible refine Keeps.lit ?_ (by first | exact Nat.le_refl _ | omega) (by first | exact Nat.le_refl _ | omega) (fun w hw => hw))

theorem State.warmBoot_keeps {s0 : State} {s : State} (hk : Keeps s0 s) :
    Keeps s0 (State.warmBoot s) := by
  unfold State.warmBoot
  repeat' first
    | with_reducible assumption
    | with_reducible exact Keeps.refl _
    | with_reducible apply State.resetTiles_keeps
    | with_reducible apply State.clearFences_keeps
    | (extract_lets +onlyGivenNames x; refine Keeps.cut (x := x) ?_ ?_; (on_goal 2 => intro _; clear_value x); (on_goal 1 => subst x))
    | (extract_lets +onlyGivenNames x; clear_value x)
    | fail_if_no_progress (with_reducible refine Keeps.lit ?_ (by first | exact Nat.le_refl _ | omega) (by first | exact Nat.le_refl _ | omega) (fun w hw => hw))

theorem State.warmStart_keeps {s0 : State} {s : State} (hk : Keeps s0 s) :
    Keeps s0 (State.warmStart s) := by
  unfold State.warmStart
  repeat' first
    | with_reducible assumption
    | with_reducible exact Keeps.refl _
    | with_reducible apply State.warmBoot_keeps
    | with_reducible apply State.setMode_keeps

theorem State.powerOn_keeps {s0 s : State} (h : Keeps s0 s) : Keeps s0 s.powerOn :=
  (State.stopFuses_keeps h).trans ⟨fun _ => rfl, rfl, rfl, Nat.le_refl _, Nat.le_refl _, fun _ hw => hw⟩

theorem State.eraseStore_keeps {s0 : State} {s : State} (hk : Keeps s0 s) :
    Keeps s0 (State.eraseStore s) := by
  unfold State.eraseStore
  repeat' first
    | with_reducible assumption
    | with_reducible exact Keeps.refl _
    | (extract_lets +onlyGivenNames x; refine Keeps.cut (x := x) ?_ ?_; (on_goal 2 => intro _; clear_value x); (on_goal 1 => subst x))
    | (extract_lets +onlyGivenNames x; clear_value x)
    | fail_if_no_progress (with_reducible refine Keeps.lit ?_ (by first | exact Nat.le_refl _ | omega) (by first | exact Nat.le_refl _ | omega) (fun w hw => hw))

theorem State.floorTo_keeps {s0 : State} {s : State} {f : Nat} (hk : Keeps s0 s) :
    Keeps s0 (State.floorTo s f) := by
  unfold State.floorTo
  repeat' first
    | with_reducible assumption
    | with_reducible exact Keeps.refl _
    | with_reducible apply Keeps.ite
    | (extract_lets +onlyGivenNames x; refine Keeps.cut (x := x) ?_ ?_; (on_goal 2 => intro _; clear_value x); (on_goal 1 => subst x))
    | (extract_lets +onlyGivenNames x; clear_value x)
    | split
    | fail_if_no_progress (with_reducible refine Keeps.lit ?_ (by first | exact Nat.le_refl _ | omega) (by first | exact Nat.le_refl _ | omega) (fun w hw => hw))

theorem State.appendFloor_keeps {s0 : State} {s : State} (hk : Keeps s0 s) :
    Keeps s0 (State.appendFloor s) := by
  unfold State.appendFloor
  repeat' first
    | with_reducible assumption
    | with_reducible exact Keeps.refl _
    | with_reducible apply State.floorTo_keeps

theorem State.requestAuth_keeps {s0 : State} {s : State} {force : Bool} (hk : Keeps s0 s) :
    Keeps s0 (State.requestAuth s force) := by
  unfold State.requestAuth
  repeat' first
    | with_reducible assumption
    | with_reducible exact Keeps.refl _
    | with_reducible apply State.witSend_keeps
    | with_reducible apply Keeps.ite
    | (extract_lets +onlyGivenNames x; refine Keeps.cut (x := x) ?_ ?_; (on_goal 2 => intro _; clear_value x); (on_goal 1 => subst x))
    | (extract_lets +onlyGivenNames x; clear_value x)
    | split
    | fail_if_no_progress (with_reducible refine Keeps.lit ?_ (by first | exact Nat.le_refl _ | omega) (by first | exact Nat.le_refl _ | omega) (fun w hw => hw))

theorem State.becomeAuth_keeps {s0 : State} {s : State} (hk : Keeps s0 s) :
    Keeps s0 (State.becomeAuth s) := by
  unfold State.becomeAuth
  repeat' first
    | with_reducible assumption
    | with_reducible exact Keeps.refl _
    | with_reducible apply State.requestAuth_keeps
    | (extract_lets +onlyGivenNames x; refine Keeps.cut (x := x) ?_ ?_; (on_goal 2 => intro _; clear_value x); (on_goal 1 => subst x))
    | (extract_lets +onlyGivenNames x; clear_value x)
    | fail_if_no_progress (with_reducible refine Keeps.lit ?_ (by first | exact Nat.le_refl _ | omega) (by first | exact Nat.le_refl _ | omega) (fun w hw => hw))

theorem State.decideAuth_keeps {s0 : State} {s : State} {mine : Summary} {twin : Summary} (hk : Keeps s0 s) :
    Keeps s0 (State.decideAuth s mine twin) := by
  unfold State.decideAuth
  repeat' first
    | with_reducible assumption
    | with_reducible exact Keeps.refl _
    | with_reducible apply State.becomeAuth_keeps
    | with_reducible apply State.requestAuth_keeps
    | (extract_lets +onlyGivenNames x; refine Keeps.cut (x := x) ?_ ?_; (on_goal 2 => intro _; clear_value x); (on_goal 1 => subst x))
    | (extract_lets +onlyGivenNames x; clear_value x)
    | split
    | fail_if_no_progress (with_reducible refine Keeps.lit ?_ (by first | exact Nat.le_refl _ | omega) (by first | exact Nat.le_refl _ | omega) (fun w hw => hw))

theorem State.sendSummary_keeps {s0 : State} {s : State} (hk : Keeps s0 s) :
    Keeps s0 (State.sendSummary s) := by
  unfold State.sendSummary
  repeat' first
    | with_reducible assumption
    | with_reducible exact Keeps.refl _
    | with_reducible apply State.isahar_keeps
    | split

theorem State.stepTen_keeps {s0 : State} {s : State} (hk : Keeps s0 s) :
    Keeps s0 (State.stepTen s) := by
  unfold State.stepTen
  repeat' first
    | with_reducible assumption
    | with_reducible exact Keeps.refl _
    | with_reducible apply State.becomeAuth_keeps
    | with_reducible apply State.sendSummary_keeps
    | with_reducible apply State.decideAuth_keeps
    | with_reducible apply Keeps.ite
    | (extract_lets +onlyGivenNames x; refine Keeps.cut (x := x) ?_ ?_; (on_goal 2 => intro _; clear_value x); (on_goal 1 => subst x))
    | (extract_lets +onlyGivenNames x; clear_value x)
    | split
    | fail_if_no_progress (with_reducible refine Keeps.lit ?_ (by first | exact Nat.le_refl _ | omega) (by first | exact Nat.le_refl _ | omega) (fun w hw => hw))

theorem State.resumeStart_keeps {s0 : State} {s : State} (hk : Keeps s0 s) :
    Keeps s0 (State.resumeStart s) := by
  unfold State.resumeStart
  repeat' first
    | with_reducible assumption
    | with_reducible exact Keeps.refl _
    | with_reducible apply State.decideAuth_keeps
    | with_reducible apply State.stepTen_keeps
    | with_reducible apply Keeps.ite
    | split

theorem State.returnToBrup_keeps {s0 : State} {s : State} (hk : Keeps s0 s) :
    Keeps s0 (State.returnToBrup s) := by
  unfold State.returnToBrup
  repeat' first
    | with_reducible assumption
    | with_reducible exact Keeps.refl _
    | with_reducible apply State.warmBoot_keeps
    | with_reducible apply State.countDirty_keeps
    | with_reducible apply State.backToBrup_keeps
    | with_reducible apply Keeps.ite

theorem State.missingLines_keeps {s0 : State} {s : State} {t : Nat} {off : Nat} {n : Nat} (hk : Keeps s0 s) :
    Keeps s0 (State.missingLines s t off n) := by
  unfold State.missingLines
  repeat' first
    | with_reducible assumption
    | (intro _; try beta_reduce)
    | with_reducible exact Keeps.refl _
    | with_reducible apply State.sendLrq_keeps
    | with_reducible apply State.enterPoison_keeps
    | with_reducible apply State.putDram_keeps
    | with_reducible apply Keeps.foldl
    | with_reducible apply Keeps.foldlFst
    | with_reducible apply Keeps.foldlSnd
    | with_reducible apply Keeps.ite
    | split

theorem State.loadPage_keeps {s0 : State} {s : State} {t : Nat} {lp : Nat} (hk : Keeps s0 s) :
    Keeps s0 (State.loadPage s t lp) := by
  unfold State.loadPage
  repeat' first
    | with_reducible assumption
    | (intro _; try beta_reduce)
    | with_reducible exact Keeps.refl _
    | with_reducible apply State.missingLines_keeps
    | with_reducible apply State.putDram_keeps
    | with_reducible apply State.evDropAll_keeps
    | with_reducible apply State.enterPoison_keeps
    | with_reducible apply Keeps.foldl
    | with_reducible apply Keeps.foldlFst
    | with_reducible apply Keeps.foldlSnd
    | with_reducible apply Keeps.ite
    | (extract_lets +onlyGivenNames x; refine Keeps.cut (x := x) ?_ ?_; (on_goal 2 => intro _; clear_value x); (on_goal 1 => subst x))
    | (extract_lets +onlyGivenNames x; clear_value x)
    | split

theorem State.openLoans_keeps {s0 : State} {s : State} {t : Nat} (hk : Keeps s0 s) :
    Keeps s0 (State.openLoans s t) := by
  unfold State.openLoans
  repeat' first
    | with_reducible assumption
    | (intro _; try beta_reduce)
    | with_reducible exact Keeps.refl _
    | with_reducible apply State.setTt_keeps
    | with_reducible apply Keeps.foldl
    | with_reducible apply Keeps.foldlFst
    | with_reducible apply Keeps.foldlSnd
    | with_reducible apply Keeps.ite

theorem State.loadHome_keeps {s0 : State} {s : State} {t : Nat} (hk : Keeps s0 s) :
    Keeps s0 (State.loadHome s t) := by
  unfold State.loadHome
  repeat' first
    | with_reducible assumption
    | (intro _; try beta_reduce)
    | with_reducible exact Keeps.refl _
    | with_reducible apply State.setHome_keeps
    | with_reducible apply Keeps.foldl
    | with_reducible apply Keeps.foldlFst
    | with_reducible apply Keeps.foldlSnd
    | split

theorem State.loadOwners_keeps {s0 : State} {s : State} {t : Nat} (hk : Keeps s0 s) :
    Keeps s0 (State.loadOwners s t) := by
  unfold State.loadOwners
  repeat' first
    | with_reducible assumption
    | (intro _; try beta_reduce)
    | with_reducible exact Keeps.refl _
    | with_reducible apply State.setTt_keeps
    | with_reducible apply State.setTh_keeps

theorem State.loadGroup_keeps {s0 : State} {s : State} {t : Nat} {g : Nat} (hk : Keeps s0 s) :
    Keeps s0 (State.loadGroup s t g) := by
  unfold State.loadGroup
  repeat' first
    | with_reducible assumption
    | (intro _; try beta_reduce)
    | with_reducible exact Keeps.refl _
    | with_reducible apply State.loadPage_keeps
    | with_reducible apply State.setTl_keeps
    | with_reducible apply Keeps.foldl
    | with_reducible apply Keeps.foldlFst
    | with_reducible apply Keeps.foldlSnd
    | with_reducible apply Keeps.ite

theorem State.endRestore_keeps {s0 : State} {s : State} {t : Nat} (hk : Keeps s0 s) :
    Keeps s0 (State.endRestore s t) := by
  unfold State.endRestore
  repeat' first
    | with_reducible assumption
    | with_reducible exact Keeps.refl _
    | (extract_lets +onlyGivenNames x; refine Keeps.cut (x := x) ?_ ?_; (on_goal 2 => intro _; clear_value x); (on_goal 1 => subst x))
    | (extract_lets +onlyGivenNames x; clear_value x)
    | fail_if_no_progress (with_reducible refine Keeps.lit ?_ (by first | exact Nat.le_refl _ | omega) (by first | exact Nat.le_refl _ | omega) (fun w hw => hw))

end Sys2Proof.Machine
end

