-- ==== Sys2Proof/Laws/KeepsSuperRows.lean ====
section
/-! SUPPORT. What the operations of Machine/SuperRows.lean keep. -/

namespace Sys2Proof.Machine

theorem State.noteInput_keeps {s0 : State} {s : State} (hk : Keeps s0 s) :
    Keeps s0 (State.noteInput s) := by
  unfold State.noteInput
  repeat' first
    | with_reducible assumption
    | with_reducible exact Keeps.refl _
    | (extract_lets +onlyGivenNames x; refine Keeps.cut (x := x) ?_ ?_; (on_goal 2 => intro _; clear_value x); (on_goal 1 => subst x))
    | (extract_lets +onlyGivenNames x; clear_value x)
    | split
    | fail_if_no_progress (with_reducible refine Keeps.lit ?_ (by first | exact Nat.le_refl _ | omega) (by first | exact Nat.le_refl _ | omega) (fun w hw => hw))

theorem State.railWarn_keeps {s0 : State} {s : State} {ch : Nat} (hk : Keeps s0 s) :
    Keeps s0 (State.railWarn s ch) := by
  unfold State.railWarn
  repeat' first
    | with_reducible assumption
    | with_reducible exact Keeps.refl _
    | with_reducible apply State.setBar_keeps
    | with_reducible apply State.emit_keeps
    | with_reducible apply State.bmcEvent_keeps

theorem State.railFence_keeps {s0 : State} {s : State} {ch : Nat} (hk : Keeps s0 s) :
    Keeps s0 (State.railFence s ch) := by
  unfold State.railFence
  repeat' first
    | with_reducible assumption
    | (intro _; try beta_reduce)
    | with_reducible exact Keeps.refl _
    | with_reducible apply State.raiseFence_keeps
    | with_reducible apply Keeps.foldl

theorem State.allOff_keeps {s0 : State} {s : State} (hk : Keeps s0 s) :
    Keeps s0 (State.allOff s) := by
  unfold State.allOff
  repeat' first
    | with_reducible assumption
    | (intro _; try beta_reduce)
    | with_reducible exact Keeps.refl _
    | with_reducible apply State.linksDown_keeps
    | with_reducible apply State.enterStby_keeps
    | with_reducible apply State.dropEnables_keeps
    | with_reducible apply Keeps.foldl
    | with_reducible apply Keeps.foldlFst
    | with_reducible apply Keeps.foldlSnd
    | (extract_lets +onlyGivenNames x; refine Keeps.cut (x := x) ?_ ?_; (on_goal 2 => intro _; clear_value x); (on_goal 1 => subst x))
    | (extract_lets +onlyGivenNames x; clear_value x)
    | fail_if_no_progress (with_reducible refine Keeps.lit ?_ (by first | exact Nat.le_refl _ | omega) (by first | exact Nat.le_refl _ | omega) (fun w hw => hw))

theorem State.railSave_keeps {s0 : State} {s : State} (hk : Keeps s0 s) :
    Keeps s0 (State.railSave s) := by
  unfold State.railSave
  repeat' first
    | with_reducible assumption
    | with_reducible exact Keeps.refl _
    | with_reducible apply State.commitSave_keeps
    | (extract_lets +onlyGivenNames x; refine Keeps.cut (x := x) ?_ ?_; (on_goal 2 => intro _; clear_value x); (on_goal 1 => subst x))
    | (extract_lets +onlyGivenNames x; clear_value x)
    | fail_if_no_progress (with_reducible refine Keeps.lit ?_ (by first | exact Nat.le_refl _ | omega) (by first | exact Nat.le_refl _ | omega) (fun w hw => hw))

theorem State.railDrop_keeps {s0 : State} {s : State} {ch : Nat} (hk : Keeps s0 s) :
    Keeps s0 (State.railDrop s ch) := by
  unfold State.railDrop
  repeat' first
    | with_reducible assumption
    | with_reducible exact Keeps.refl _
    | with_reducible apply State.shutdown_keeps
    | with_reducible apply State.commitSave_keeps
    | with_reducible apply State.assertFault_keeps
    | with_reducible apply State.allOff_keeps
    | with_reducible apply State.railWarn_keeps
    | with_reducible apply State.railSave_keeps
    | with_reducible apply State.railFence_keeps
    | with_reducible apply Keeps.ite
    | (extract_lets +onlyGivenNames x; refine Keeps.cut (x := x) ?_ ?_; (on_goal 2 => intro _; clear_value x); (on_goal 1 => subst x))
    | (extract_lets +onlyGivenNames x; clear_value x)
    | split
    | fail_if_no_progress (with_reducible refine Keeps.lit ?_ (by first | exact Nat.le_refl _ | omega) (by first | exact Nat.le_refl _ | omega) (fun w hw => hw))

theorem State.acceptPg_keeps {s0 : State} {s : State} {i : Nat} {high : Bool} (hk : Keeps s0 s) :
    Keeps s0 (State.acceptPg s i high) := by
  unfold State.acceptPg
  repeat' first
    | with_reducible assumption
    | with_reducible exact Keeps.refl _
    | with_reducible apply State.dramOff_keeps
    | with_reducible apply State.noteInput_keeps
    | with_reducible apply State.shutdown_keeps
    | with_reducible apply State.seqPg_keeps
    | with_reducible apply State.railDrop_keeps
    | with_reducible apply Keeps.ite
    | (extract_lets +onlyGivenNames x; refine Keeps.cut (x := x) ?_ ?_; (on_goal 2 => intro _; clear_value x); (on_goal 1 => subst x))
    | (extract_lets +onlyGivenNames x; clear_value x)
    | split
    | fail_if_no_progress (with_reducible refine Keeps.lit ?_ (by first | exact Nat.le_refl _ | omega) (by first | exact Nat.le_refl _ | omega) (fun w hw => hw))

theorem State.acceptBbu_keeps {s0 : State} {s : State} {high : Bool} (hk : Keeps s0 s) :
    Keeps s0 (State.acceptBbu s high) := by
  unfold State.acceptBbu
  repeat' first
    | with_reducible assumption
    | with_reducible exact Keeps.refl _
    | with_reducible apply State.log_keeps
    | with_reducible apply Keeps.ite
    | (extract_lets +onlyGivenNames x; refine Keeps.cut (x := x) ?_ ?_; (on_goal 2 => intro _; clear_value x); (on_goal 1 => subst x))
    | (extract_lets +onlyGivenNames x; clear_value x)
    | split
    | fail_if_no_progress (with_reducible refine Keeps.lit ?_ (by first | exact Nat.le_refl _ | omega) (by first | exact Nat.le_refl _ | omega) (fun w hw => hw))

theorem execPsPgAccept_keeps (input : Nat) (high : Bool) (s : State) :
    KeepsRun s (execPsPgAccept input high s) := by
  unfold execPsPgAccept
  repeat' first
    | with_reducible refine KeepsRun.next ?_
    | with_reducible assumption
    | with_reducible exact Keeps.refl _
    | with_reducible apply State.acceptPg_keeps
    | with_reducible apply State.acceptBbu_keeps
    | with_reducible apply Keeps.ite
    | (extract_lets +onlyGivenNames x; refine Keeps.cut (x := x) ?_ ?_; (on_goal 2 => intro _; clear_value x); (on_goal 1 => subst x))
    | (extract_lets +onlyGivenNames x; clear_value x)
    | split
    | fail_if_no_progress (with_reducible refine Keeps.lit ?_ (by first | exact Nat.le_refl _ | omega) (by first | exact Nat.le_refl _ | omega) (fun w hw => hw))

theorem State.arm_keeps {s0 : State} {s : State} (hk : Keeps s0 s) :
    Keeps s0 (State.arm s) := by
  unfold State.arm
  repeat' first
    | with_reducible assumption
    | with_reducible exact Keeps.refl _
    | with_reducible apply State.bmcEvent_keeps
    | (extract_lets +onlyGivenNames x; refine Keeps.cut (x := x) ?_ ?_; (on_goal 2 => intro _; clear_value x); (on_goal 1 => subst x))
    | (extract_lets +onlyGivenNames x; clear_value x)
    | fail_if_no_progress (with_reducible refine Keeps.lit ?_ (by first | exact Nat.le_refl _ | omega) (by first | exact Nat.le_refl _ | omega) (fun w hw => hw))

theorem State.acceptPfw_keeps {s0 : State} {s : State} {asserted : Bool} (hk : Keeps s0 s) :
    Keeps s0 (State.acceptPfw s asserted) := by
  unfold State.acceptPfw
  repeat' first
    | with_reducible assumption
    | with_reducible exact Keeps.refl _
    | with_reducible apply State.noteInput_keeps
    | with_reducible apply State.shutdown_keeps
    | with_reducible apply State.arm_keeps
    | with_reducible apply Keeps.ite
    | (extract_lets +onlyGivenNames x; refine Keeps.cut (x := x) ?_ ?_; (on_goal 2 => intro _; clear_value x); (on_goal 1 => subst x))
    | (extract_lets +onlyGivenNames x; clear_value x)
    | split
    | fail_if_no_progress (with_reducible refine Keeps.lit ?_ (by first | exact Nat.le_refl _ | omega) (by first | exact Nat.le_refl _ | omega) (fun w hw => hw))

theorem State.acceptFault_keeps {s0 : State} {s : State} {low : Bool} (hk : Keeps s0 s) :
    Keeps s0 (State.acceptFault s low) := by
  unfold State.acceptFault
  repeat' first
    | with_reducible assumption
    | with_reducible exact Keeps.refl _
    | with_reducible apply State.beginStart_keeps
    | with_reducible apply State.seqFault_keeps
    | with_reducible apply State.shutdown_keeps
    | with_reducible apply State.commitSave_keeps
    | with_reducible apply Keeps.ite
    | (extract_lets +onlyGivenNames x; refine Keeps.cut (x := x) ?_ ?_; (on_goal 2 => intro _; clear_value x); (on_goal 1 => subst x))
    | (extract_lets +onlyGivenNames x; clear_value x)
    | split
    | fail_if_no_progress (with_reducible refine Keeps.lit ?_ (by first | exact Nat.le_refl _ | omega) (by first | exact Nat.le_refl _ | omega) (fun w hw => hw))

theorem execSignalFilterAccept_keeps (pfw : Bool) (asserted : Bool) (s : State) :
    KeepsRun s (execSignalFilterAccept pfw asserted s) := by
  unfold execSignalFilterAccept
  repeat' first
    | with_reducible refine KeepsRun.next ?_
    | with_reducible assumption
    | with_reducible exact Keeps.refl _
    | with_reducible apply State.acceptPfw_keeps
    | with_reducible apply State.acceptFault_keeps
    | with_reducible apply Keeps.ite

theorem execPfwLAssert_keeps (s : State) :
    KeepsRun s (execPfwLAssert s) := by
  unfold execPfwLAssert
  repeat' first
    | with_reducible refine KeepsRun.next ?_
    | with_reducible assumption
    | with_reducible exact Keeps.refl _
    | with_reducible apply State.acceptPfw_keeps

theorem execPfwHoldExpiry_keeps (s : State) :
    KeepsRun s (execPfwHoldExpiry s) := by
  unfold execPfwHoldExpiry
  repeat' first
    | with_reducible refine KeepsRun.next ?_
    | with_reducible assumption
    | with_reducible exact Keeps.refl _
    | with_reducible apply State.commitSave_keeps
    | with_reducible apply Keeps.ite
    | split

theorem execArmedMaxExpiry_keeps (s : State) :
    KeepsRun s (execArmedMaxExpiry s) := by
  unfold execArmedMaxExpiry
  repeat' first
    | with_reducible refine KeepsRun.next ?_
    | with_reducible assumption
    | with_reducible exact Keeps.refl _
    | with_reducible apply State.commitSave_keeps
    | with_reducible apply Keeps.ite
    | split

theorem execSaveArmedLapse_keeps (s : State) :
    KeepsRun s (execSaveArmedLapse s) := by
  unfold execSaveArmedLapse
  repeat' first
    | with_reducible refine KeepsRun.next ?_
    | with_reducible assumption
    | with_reducible exact Keeps.refl _
    | with_reducible apply State.log_keeps
    | with_reducible apply Keeps.ite
    | (extract_lets +onlyGivenNames x; refine Keeps.cut (x := x) ?_ ?_; (on_goal 2 => intro _; clear_value x); (on_goal 1 => subst x))
    | (extract_lets +onlyGivenNames x; clear_value x)
    | split
    | fail_if_no_progress (with_reducible refine Keeps.lit ?_ (by first | exact Nat.le_refl _ | omega) (by first | exact Nat.le_refl _ | omega) (fun w hw => hw))

theorem execInputPowerGoodDrop_keeps (channel : Nat) (s : State) :
    KeepsRun s (execInputPowerGoodDrop channel s) := by
  unfold execInputPowerGoodDrop
  repeat' first
    | with_reducible refine KeepsRun.next ?_
    | with_reducible assumption
    | with_reducible exact Keeps.refl _
    | with_reducible apply State.acceptPg_keeps
    | with_reducible apply Keeps.ite

theorem execFaultLLow_keeps (s : State) :
    KeepsRun s (execFaultLLow s) := by
  unfold execFaultLLow
  repeat' first
    | with_reducible refine KeepsRun.next ?_
    | with_reducible assumption
    | with_reducible exact Keeps.refl _
    | with_reducible apply State.acceptFault_keeps

theorem execBbuOkLow_keeps (s : State) :
    KeepsRun s (execBbuOkLow s) := by
  unfold execBbuOkLow
  repeat' first
    | with_reducible refine KeepsRun.next ?_
    | with_reducible assumption
    | with_reducible exact Keeps.refl _
    | with_reducible apply State.acceptBbu_keeps

theorem execDeviceRailDrop_keeps (channel : Nat) (s : State) :
    KeepsRun s (execDeviceRailDrop channel s) := by
  unfold execDeviceRailDrop
  repeat' first
    | with_reducible refine KeepsRun.next ?_
    | with_reducible assumption
    | with_reducible exact Keeps.refl _
    | with_reducible apply State.acceptPg_keeps
    | with_reducible apply Keeps.ite

theorem execApplianceRailDrop_keeps (channel : Nat) (s : State) :
    KeepsRun s (execApplianceRailDrop channel s) := by
  unfold execApplianceRailDrop
  repeat' first
    | with_reducible refine KeepsRun.next ?_
    | with_reducible assumption
    | with_reducible exact Keeps.refl _
    | with_reducible apply State.acceptPg_keeps
    | with_reducible apply Keeps.ite

theorem execMemoryRailDrop_keeps (channel : Nat) (s : State) :
    KeepsRun s (execMemoryRailDrop channel s) := by
  unfold execMemoryRailDrop
  repeat' first
    | with_reducible refine KeepsRun.next ?_
    | with_reducible assumption
    | with_reducible exact Keeps.refl _
    | with_reducible apply State.acceptPg_keeps
    | with_reducible apply Keeps.ite

theorem execSaveCommit_keeps (cause : Nat) (s : State) :
    KeepsRun s (execSaveCommit cause s) := by
  unfold execSaveCommit
  repeat' first
    | with_reducible refine KeepsRun.next ?_
    | with_reducible assumption
    | with_reducible exact Keeps.refl _
    | with_reducible apply State.railSave_keeps
    | with_reducible apply State.commitSave_keeps
    | with_reducible apply Keeps.ite

end Sys2Proof.Machine
end

