-- ==== Sys2Proof/Laws/KeepsBootRows.lean ====
section
/-! SUPPORT. What the operations of Machine/BootRows.lean keep. -/

namespace Sys2Proof.Machine

theorem execPowerOnReset_keeps (s : State) :
    KeepsRun s (execPowerOnReset s) := by
  unfold execPowerOnReset
  repeat' first
    | with_reducible refine KeepsRun.next ?_
    | with_reducible assumption
    | with_reducible exact Keeps.refl _
    | with_reducible apply State.powerOn_keeps

theorem execStepTableRead_keeps (s : State) :
    KeepsRun s (execStepTableRead s) := by
  unfold execStepTableRead
  repeat' first
    | with_reducible refine KeepsRun.next ?_
    | (intro _; try beta_reduce)
    | with_reducible assumption
    | with_reducible exact Keeps.refl _
    | with_reducible apply State.eraseStore_keeps
    | with_reducible apply State.setParam_keeps
    | with_reducible apply State.latchPwr_keeps
    | with_reducible apply State.answerStart_keeps
    | with_reducible apply Keeps.foldl
    | with_reducible apply Keeps.foldlFst
    | with_reducible apply Keeps.foldlSnd
    | with_reducible apply Keeps.ite
    | (extract_lets +onlyGivenNames x; refine Keeps.cut (x := x) ?_ ?_; (on_goal 2 => intro _; clear_value x); (on_goal 1 => subst x))
    | (extract_lets +onlyGivenNames x; clear_value x)
    | split
    | fail_if_no_progress (with_reducible refine Keeps.lit ?_ (by first | exact Nat.le_refl _ | omega) (by first | exact Nat.le_refl _ | omega) (fun w hw => hw))

theorem execStart_keeps (s : State) :
    KeepsRun s (execStart s) := by
  unfold execStart
  repeat' first
    | with_reducible refine KeepsRun.next ?_
    | with_reducible assumption
    | with_reducible exact Keeps.refl _
    | with_reducible apply State.refuseStart_keeps
    | with_reducible apply State.answerStart_keeps
    | with_reducible apply Keeps.ite
    | (extract_lets +onlyGivenNames x; refine Keeps.cut (x := x) ?_ ?_; (on_goal 2 => intro _; clear_value x); (on_goal 1 => subst x))
    | (extract_lets +onlyGivenNames x; clear_value x)
    | split
    | fail_if_no_progress (with_reducible refine Keeps.lit ?_ (by first | exact Nat.le_refl _ | omega) (by first | exact Nat.le_refl _ | omega) (fun w hw => hw))

theorem execAutoStart_keeps (s : State) :
    KeepsRun s (execAutoStart s) := by
  unfold execAutoStart
  repeat' first
    | with_reducible refine KeepsRun.next ?_
    | with_reducible assumption
    | with_reducible exact Keeps.refl _
    | with_reducible apply State.takeStart_keeps
    | with_reducible apply Keeps.ite

theorem State.newCtx_keeps {s0 : State} {s : State} {n : Nat} {tile : Nat} {level : Nat} (hk : Keeps s0 s) :
    Keeps s0 (State.newCtx s n tile level) := by
  unfold State.newCtx
  repeat' first
    | with_reducible assumption
    | with_reducible exact Keeps.refl _
    | with_reducible apply State.setCtx_keeps

theorem State.createCtxs_keeps {s0 : State} {s : State} (hk : Keeps s0 s) :
    Keeps s0 (State.createCtxs s) := by
  unfold State.createCtxs
  repeat' first
    | with_reducible assumption
    | (intro _; try beta_reduce)
    | with_reducible exact Keeps.refl _
    | with_reducible apply State.newCtx_keeps
    | with_reducible apply Keeps.foldl
    | with_reducible apply Keeps.foldlFst
    | with_reducible apply Keeps.foldlSnd
    | with_reducible apply Keeps.ite

theorem execBootSlotCheck_keeps (vendor : Bool) (digest : Bool) (owner : Bool) (s : State) :
    KeepsRun s (execBootSlotCheck vendor digest owner s) := by
  unfold execBootSlotCheck
  repeat' first
    | with_reducible refine KeepsRun.next ?_
    | with_reducible assumption
    | with_reducible exact Keeps.refl _
    | with_reducible apply State.log_keeps
    | with_reducible apply State.setMode_keeps
    | with_reducible apply State.createCtxs_keeps
    | with_reducible apply Keeps.ite
    | (extract_lets +onlyGivenNames x; refine Keeps.cut (x := x) ?_ ?_; (on_goal 2 => intro _; clear_value x); (on_goal 1 => subst x))
    | (extract_lets +onlyGivenNames x; clear_value x)
    | split
    | fail_if_no_progress (with_reducible refine Keeps.lit ?_ (by first | exact Nat.le_refl _ | omega) (by first | exact Nat.le_refl _ | omega) (fun w hw => hw))

theorem State.drawKey_keeps {s0 : State} {s : State} (hk : Keeps s0 s) :
    Keeps s0 (State.drawKey s).2 := by
  unfold State.drawKey
  repeat' first
    | with_reducible assumption
    | with_reducible exact Keeps.refl _
    | with_reducible apply State.drawWord_keeps

theorem State.newImageKey_keeps {s0 : State} {s : State} {t : Nat} {slot : Nat} (hk : Keeps s0 s) :
    Keeps s0 (State.newImageKey s t slot) := by
  unfold State.newImageKey
  repeat' first
    | with_reducible assumption
    | with_reducible exact Keeps.refl _
    | with_reducible apply State.drawKey_keeps
    | (refine Keeps.ofSnd (State.drawKey_keeps ?_) (by assumption))
    | with_reducible apply State.setKey_keeps
    | (extract_lets +onlyGivenNames x; refine Keeps.cut (x := x) ?_ ?_; (on_goal 2 => intro _; clear_value x); (on_goal 1 => subst x))
    | (extract_lets +onlyGivenNames x; clear_value x)
    | split
    | fail_if_no_progress (with_reducible refine Keeps.lit ?_ (by first | exact Nat.le_refl _ | omega) (by first | exact Nat.le_refl _ | omega) (fun w hw => hw))

theorem State.loadKeys_keeps {s0 : State} {s : State} {bad : List Nat} (hk : Keeps s0 s) :
    Keeps s0 (State.loadKeys s bad) := by
  unfold State.loadKeys
  repeat' first
    | with_reducible assumption
    | (intro _; try beta_reduce)
    | with_reducible exact Keeps.refl _
    | with_reducible apply State.drawKey_keeps
    | (refine Keeps.ofSnd (State.drawKey_keeps ?_) (by assumption))
    | with_reducible apply State.setKey_keeps
    | with_reducible apply State.log_keeps
    | with_reducible apply State.raiseFence_keeps
    | with_reducible apply State.newImageKey_keeps
    | with_reducible apply Keeps.foldl
    | with_reducible apply Keeps.foldlFst
    | with_reducible apply Keeps.foldlSnd
    | with_reducible apply Keeps.ite

theorem execFirmwareStart_keeps (migrate : Bool) (older : Bool) (badBlocks : List Nat) (badKeys : List Nat) (programs : List (Nat × Word)) (s : State) :
    KeepsRun s (execFirmwareStart migrate older badBlocks badKeys programs s) := by
  unfold execFirmwareStart
  repeat' first
    | with_reducible refine KeepsRun.next ?_
    | (intro _; try beta_reduce)
    | with_reducible assumption
    | with_reducible exact Keeps.refl _
    | with_reducible apply State.log_keeps
    | with_reducible apply State.loadKeys_keeps
    | with_reducible apply State.createCtxs_keeps
    | with_reducible apply State.appendFloor_keeps
    | with_reducible apply State.openLoans_keeps
    | with_reducible apply Keeps.foldl
    | with_reducible apply Keeps.foldlFst
    | with_reducible apply Keeps.foldlSnd
    | with_reducible apply Keeps.ite
    | (extract_lets +onlyGivenNames x; refine Keeps.cut (x := x) ?_ ?_; (on_goal 2 => intro _; clear_value x); (on_goal 1 => subst x))
    | (extract_lets +onlyGivenNames x; clear_value x)
    | split
    | fail_if_no_progress (with_reducible refine Keeps.lit ?_ (by first | exact Nat.le_refl _ | omega) (by first | exact Nat.le_refl _ | omega) (fun w hw => hw))

theorem execUcieLinkTrained_keeps (tile : Nat) (s : State) :
    KeepsRun s (execUcieLinkTrained tile s) := by
  unfold execUcieLinkTrained
  repeat' first
    | with_reducible refine KeepsRun.next ?_
    | with_reducible assumption
    | with_reducible exact Keeps.refl _
    | with_reducible apply State.stepTen_keeps
    | with_reducible apply Keeps.ite
    | (extract_lets +onlyGivenNames x; refine Keeps.cut (x := x) ?_ ?_; (on_goal 2 => intro _; clear_value x); (on_goal 1 => subst x))
    | (extract_lets +onlyGivenNames x; clear_value x)
    | split
    | fail_if_no_progress (with_reducible refine Keeps.lit ?_ (by first | exact Nat.le_refl _ | omega) (by first | exact Nat.le_refl _ | omega) (fun w hw => hw))

theorem State.undoMerge_keeps {s0 : State} {s : State} {t : Nat} {m : Nat × Nat} (hk : Keeps s0 s) :
    Keeps s0 (State.undoMerge s t m) := by
  unfold State.undoMerge
  repeat' first
    | with_reducible assumption
    | with_reducible exact Keeps.refl _
    | with_reducible apply State.releaseBlk_keeps
    | with_reducible apply State.setTh_keeps

theorem State.mountTail_keeps {s0 : State} {s : State} {t : Nat} (hk : Keeps s0 s) :
    Keeps s0 (State.mountTail s t) := by
  unfold State.mountTail
  repeat' first
    | with_reducible assumption
    | with_reducible exact Keeps.refl _
    | with_reducible apply State.setTh_keeps
    | with_reducible apply State.setMt_keeps
    | with_reducible apply Keeps.ite

theorem State.mountFailed_keeps {s0 : State} {s : State} {t : Nat} (hk : Keeps s0 s) :
    Keeps s0 (State.mountFailed s t) := by
  unfold State.mountFailed
  repeat' first
    | with_reducible assumption
    | with_reducible exact Keeps.refl _
    | with_reducible apply State.raiseFence_keeps
    | with_reducible apply State.setTh_keeps
    | with_reducible apply State.failedAt_keeps

theorem State.mountFlash_keeps {s0 : State} {s : State} {tile : Nat} {p : NandPage} {bad : Nat} (hk : Keeps s0 s) :
    Keeps s0 (State.mountFlash s tile p bad) := by
  unfold State.mountFlash
  repeat' first
    | with_reducible assumption
    | (intro _; try beta_reduce)
    | with_reducible exact Keeps.refl _
    | with_reducible apply State.setTh_keeps
    | with_reducible apply State.raiseFence_keeps
    | with_reducible apply State.undoMerge_keeps
    | with_reducible apply Keeps.foldl
    | with_reducible apply Keeps.foldlFst
    | with_reducible apply Keeps.foldlSnd
    | with_reducible apply Keeps.ite

theorem State.mountPath_keeps {s0 : State} {s : State} {tile : Nat} {path : Nat} (hk : Keeps s0 s) :
    Keeps s0 (State.mountPath s tile path) := by
  unfold State.mountPath
  repeat' first
    | with_reducible assumption
    | (intro _; try beta_reduce)
    | with_reducible exact Keeps.refl _
    | with_reducible apply State.loadOwners_keeps
    | with_reducible apply State.setIc_keeps
    | with_reducible apply Keeps.foldl
    | with_reducible apply Keeps.foldlFst
    | with_reducible apply Keeps.foldlSnd
    | with_reducible apply Keeps.ite
    | (extract_lets +onlyGivenNames x; refine Keeps.cut (x := x) ?_ ?_; (on_goal 2 => intro _; clear_value x); (on_goal 1 => subst x))
    | (extract_lets +onlyGivenNames x; clear_value x)
    | split
    | fail_if_no_progress (with_reducible refine Keeps.lit ?_ (by first | exact Nat.le_refl _ | omega) (by first | exact Nat.le_refl _ | omega) (fun w hw => hw))

theorem State.noteMounted_keeps {s0 : State} {s : State} {tile : Nat} {path : Nat} (hk : Keeps s0 s) :
    Keeps s0 (State.noteMounted s tile path) := by
  unfold State.noteMounted
  repeat' first
    | with_reducible assumption
    | with_reducible exact Keeps.refl _
    | (extract_lets +onlyGivenNames x; refine Keeps.cut (x := x) ?_ ?_; (on_goal 2 => intro _; clear_value x); (on_goal 1 => subst x))
    | (extract_lets +onlyGivenNames x; clear_value x)
    | fail_if_no_progress (with_reducible refine Keeps.lit ?_ (by first | exact Nat.le_refl _ | omega) (by first | exact Nat.le_refl _ | omega) (fun w hw => hw))

theorem State.mountDone_keeps {s0 : State} {s : State} {tile : Nat} {path : Nat} (hk : Keeps s0 s) :
    Keeps s0 (State.mountDone s tile path) := by
  unfold State.mountDone
  repeat' first
    | with_reducible assumption
    | with_reducible exact Keeps.refl _
    | with_reducible apply State.noteMounted_keeps
    | with_reducible apply State.mountTail_keeps
    | with_reducible apply State.nandRate_keeps
    | with_reducible apply State.startRate_keeps
    | with_reducible apply State.wantFlush_keeps
    | with_reducible apply State.stepTen_keeps
    | with_reducible apply State.countDirty_keeps
    | with_reducible apply Keeps.ite
    | (extract_lets +onlyGivenNames x; refine Keeps.cut (x := x) ?_ ?_; (on_goal 2 => intro _; clear_value x); (on_goal 1 => subst x))
    | (extract_lets +onlyGivenNames x; clear_value x)
    | split
    | fail_if_no_progress (with_reducible refine Keeps.lit ?_ (by first | exact Nat.le_refl _ | omega) (by first | exact Nat.le_refl _ | omega) (fun w hw => hw))

theorem execThatchMount_keeps (tile : Nat) (page : Option NandPage) (scan : MountScan) (s : State) :
    KeepsRun s (execThatchMount tile page scan s) := by
  unfold execThatchMount
  repeat' first
    | with_reducible refine KeepsRun.next ?_
    | with_reducible assumption
    | with_reducible exact Keeps.refl _
    | with_reducible apply State.mountFailed_keeps
    | with_reducible apply State.raiseFence_keeps
    | with_reducible apply State.failedAt_keeps
    | with_reducible apply State.mountFlash_keeps
    | with_reducible apply State.mountDone_keeps
    | with_reducible apply State.mountPath_keeps
    | with_reducible apply Keeps.ite
    | (extract_lets +onlyGivenNames x; refine Keeps.cut (x := x) ?_ ?_; (on_goal 2 => intro _; clear_value x); (on_goal 1 => subst x))
    | (extract_lets +onlyGivenNames x; clear_value x)
    | split

theorem execRecordSummary_keeps (epoch : Nat) (lastSeq : List Nat) (valid : Bool) (preferred : Bool) (s : State) :
    KeepsRun s (execRecordSummary epoch lastSeq valid preferred s) := by
  unfold execRecordSummary
  repeat' first
    | with_reducible refine KeepsRun.next ?_
    | with_reducible assumption
    | with_reducible exact Keeps.refl _
    | with_reducible apply State.decideAuth_keeps
    | with_reducible apply Keeps.ite
    | (extract_lets +onlyGivenNames x; refine Keeps.cut (x := x) ?_ ?_; (on_goal 2 => intro _; clear_value x); (on_goal 1 => subst x))
    | (extract_lets +onlyGivenNames x; clear_value x)
    | split
    | fail_if_no_progress (with_reducible refine Keeps.lit ?_ (by first | exact Nat.le_refl _ | omega) (by first | exact Nat.le_refl _ | omega) (fun w hw => hw))

theorem execPairWaitExpiry_keeps (s : State) :
    KeepsRun s (execPairWaitExpiry s) := by
  unfold execPairWaitExpiry
  repeat' first
    | with_reducible refine KeepsRun.next ?_
    | with_reducible assumption
    | with_reducible exact Keeps.refl _
    | with_reducible apply State.requestAuth_keeps
    | with_reducible apply Keeps.ite
    | (extract_lets +onlyGivenNames x; refine Keeps.cut (x := x) ?_ ?_; (on_goal 2 => intro _; clear_value x); (on_goal 1 => subst x))
    | (extract_lets +onlyGivenNames x; clear_value x)
    | split
    | fail_if_no_progress (with_reducible refine Keeps.lit ?_ (by first | exact Nat.le_refl _ | omega) (by first | exact Nat.le_refl _ | omega) (fun w hw => hw))

theorem execBringUpComplete_keeps (s : State) :
    KeepsRun s (execBringUpComplete s) := by
  unfold execBringUpComplete
  repeat' first
    | with_reducible refine KeepsRun.next ?_
    | with_reducible assumption
    | with_reducible exact Keeps.refl _
    | with_reducible apply State.nameMode_keeps
    | with_reducible apply Keeps.ite

theorem execOpenRecordWrite_keeps (tile : Nat) (s : State) :
    KeepsRun s (execOpenRecordWrite tile s) := by
  unfold execOpenRecordWrite
  repeat' first
    | with_reducible refine KeepsRun.next ?_
    | with_reducible assumption
    | with_reducible exact Keeps.refl _
    | with_reducible apply State.setTl_keeps
    | with_reducible apply Keeps.ite
    | (extract_lets +onlyGivenNames x; refine Keeps.cut (x := x) ?_ ?_; (on_goal 2 => intro _; clear_value x); (on_goal 1 => subst x))
    | (extract_lets +onlyGivenNames x; clear_value x)
    | split
    | fail_if_no_progress (with_reducible refine Keeps.lit ?_ (by first | exact Nat.le_refl _ | omega) (by first | exact Nat.le_refl _ | omega) (fun w hw => hw))

theorem execRestoreLoad_keeps (tile : Nat) (s : State) :
    KeepsRun s (execRestoreLoad tile s) := by
  unfold execRestoreLoad
  repeat' first
    | with_reducible refine KeepsRun.next ?_
    | (intro _; try beta_reduce)
    | with_reducible assumption
    | with_reducible exact Keeps.refl _
    | with_reducible apply State.loadOwners_keeps
    | with_reducible apply State.loadHome_keeps
    | with_reducible apply State.setTl_keeps
    | with_reducible apply State.endRestore_keeps
    | with_reducible apply State.loadGroup_keeps
    | with_reducible apply State.sendLrq_keeps
    | with_reducible apply State.kick_keeps
    | with_reducible apply Keeps.foldl
    | with_reducible apply Keeps.foldlFst
    | with_reducible apply Keeps.foldlSnd
    | with_reducible apply Keeps.ite
    | (extract_lets +onlyGivenNames x; refine Keeps.cut (x := x) ?_ ?_; (on_goal 2 => intro _; clear_value x); (on_goal 1 => subst x))
    | (extract_lets +onlyGivenNames x; clear_value x)
    | split

theorem execRestoreDemandFault_keeps (tile : Nat) (page : Nat) (s : State) :
    KeepsRun s (execRestoreDemandFault tile page s) := by
  unfold execRestoreDemandFault
  repeat' first
    | with_reducible refine KeepsRun.next ?_
    | with_reducible assumption
    | with_reducible exact Keeps.refl _
    | with_reducible apply State.setTl_keeps
    | with_reducible apply State.loadOwners_keeps
    | with_reducible apply State.loadHome_keeps
    | with_reducible apply State.loadPage_keeps
    | with_reducible apply State.kick_keeps
    | with_reducible apply Keeps.ite

theorem State.repairLine_keeps {s0 : State} {s : State} {t : Nat} {a : Nat} (hk : Keeps s0 s) :
    Keeps s0 (State.repairLine s t a) := by
  unfold State.repairLine
  repeat' first
    | with_reducible assumption
    | (intro _; try beta_reduce)
    | with_reducible exact Keeps.refl _
    | with_reducible apply State.setHome_keeps
    | with_reducible apply State.missingLines_keeps
    | with_reducible apply State.putDram_keeps
    | with_reducible apply State.enterPoison_keeps
    | with_reducible apply Keeps.foldl
    | with_reducible apply Keeps.foldlFst
    | with_reducible apply Keeps.foldlSnd
    | with_reducible apply Keeps.ite

theorem execVerifyLine_keeps (tile : Nat) (err : BitVec 640) (s : State) :
    KeepsRun s (execVerifyLine tile err s) := by
  unfold execVerifyLine
  repeat' first
    | with_reducible refine KeepsRun.next ?_
    | with_reducible assumption
    | with_reducible exact Keeps.refl _
    | with_reducible apply State.enterPoison_keeps
    | with_reducible apply State.repairLine_keeps
    | with_reducible apply State.setTl_keeps
    | with_reducible apply State.endRestore_keeps
    | with_reducible apply State.kick_keeps
    | with_reducible apply Keeps.ite

theorem State.bankWritten_keeps {s0 : State} {s : State} (hk : Keeps s0 s) :
    Keeps s0 (State.bankWritten s) := by
  unfold State.bankWritten
  repeat' first
    | with_reducible assumption
    | (intro _; try beta_reduce)
    | with_reducible exact Keeps.refl _
    | with_reducible apply State.setParam_keeps
    | with_reducible apply Keeps.foldl

theorem execRestoreComplete_keeps (s : State) :
    KeepsRun s (execRestoreComplete s) := by
  unfold execRestoreComplete
  repeat' first
    | with_reducible refine KeepsRun.next ?_
    | with_reducible assumption
    | with_reducible exact Keeps.refl _
    | with_reducible apply State.bankWritten_keeps
    | with_reducible apply State.nameMode_keeps
    | with_reducible apply Keeps.ite

theorem State.warmReset_keeps {s0 s t : State} (h : Keeps s0 s) (e : s.warmReset = some t) : Keeps s0 t := by
  have hw : ∀ b : Bool, Keeps s0 { s with mode := { s.mode with warmReset := b } } := fun b => h.trans ⟨id, rfl, rfl, Nat.le_refl _, Nat.le_refl _, fun _ hw => hw⟩
  unfold State.warmReset at e
  dsimp only at e
  repeat' split at e
  all_goals cases e
  all_goals first
    | exact State.warmStart_keeps h
    | exact State.commitSave_keeps (hw true)
    | exact hw true

theorem execWarmReset_keeps (s : State) :
    KeepsRun s (execWarmReset s) := by
  unfold execWarmReset
  repeat' first
    | with_reducible refine KeepsRun.next ?_
    | with_reducible assumption
    | with_reducible exact Keeps.refl _
    | (refine State.warmReset_keeps ?_ (by assumption))
    | (refine Keeps.getD (fun _ e => State.warmReset_keeps ?_ e) ?_)
    | with_reducible apply State.finishAll_keeps
    | with_reducible apply Keeps.ite
    | split

theorem State.freshCtxs_keeps {s0 : State} {s : State} {t : Nat} (hk : Keeps s0 s) :
    Keeps s0 (State.freshCtxs s t) := by
  unfold State.freshCtxs
  repeat' first
    | with_reducible assumption
    | (intro _; try beta_reduce)
    | with_reducible exact Keeps.refl _
    | with_reducible apply State.newCtx_keeps
    | with_reducible apply Keeps.foldl
    | with_reducible apply Keeps.foldlFst
    | with_reducible apply Keeps.foldlSnd
    | with_reducible apply Keeps.ite

theorem State.clearTile_keeps {s0 : State} {s : State} {t : Nat} (hk : Keeps s0 s) :
    Keeps s0 (State.clearTile s t) := by
  unfold State.clearTile
  repeat' first
    | with_reducible assumption
    | with_reducible exact Keeps.refl _
    | with_reducible apply Keeps.ite
    | (extract_lets +onlyGivenNames x; refine Keeps.cut (x := x) ?_ ?_; (on_goal 2 => intro _; clear_value x); (on_goal 1 => subst x))
    | (extract_lets +onlyGivenNames x; (first | (have h1 := fun q => x q; clear h1; subst x; beta_reduce) | clear_value x))
    | split
    | fail_if_no_progress (with_reducible refine Keeps.lit ?_ (by first | exact Nat.le_refl _ | omega) (by first | exact Nat.le_refl _ | omega) (fun w hw => hw))

theorem State.resetTile_keeps {s0 : State} {s : State} {t : Nat} (hk : Keeps s0 s) :
    Keeps s0 (State.resetTile s t) := by
  unfold State.resetTile
  repeat' first
    | with_reducible assumption
    | (intro _; try beta_reduce)
    | with_reducible exact Keeps.refl _
    | with_reducible apply State.openLoans_keeps
    | with_reducible apply State.freshCtxs_keeps
    | with_reducible apply State.clearTile_keeps
    | with_reducible apply State.drawKey_keeps
    | (refine Keeps.ofSnd (State.drawKey_keeps ?_) (by assumption))
    | with_reducible apply State.setKey_keeps
    | with_reducible apply Keeps.foldl
    | with_reducible apply Keeps.foldlFst
    | with_reducible apply Keeps.foldlSnd
    | with_reducible apply Keeps.ite
    | (extract_lets +onlyGivenNames x; refine Keeps.cut (x := x) ?_ ?_; (on_goal 2 => intro _; clear_value x); (on_goal 1 => subst x))
    | (extract_lets +onlyGivenNames x; clear_value x)
    | split
    | fail_if_no_progress (with_reducible refine Keeps.lit ?_ (by first | exact Nat.le_refl _ | omega) (by first | exact Nat.le_refl _ | omega) (fun w hw => hw))

theorem execTileReset_keeps (tile : Nat) (s : State) :
    KeepsRun s (execTileReset tile s) := by
  unfold execTileReset
  repeat' first
    | with_reducible refine KeepsRun.next ?_
    | with_reducible assumption
    | with_reducible exact Keeps.refl _
    | with_reducible apply State.resetTile_keeps
    | with_reducible apply Keeps.ite

theorem execSaveComplete_keeps (tile : Nat) (s : State) :
    KeepsRun s (execSaveComplete tile s) := by
  unfold execSaveComplete
  repeat' first
    | with_reducible refine KeepsRun.next ?_
    | with_reducible assumption
    | with_reducible exact Keeps.refl _
    | with_reducible apply State.saveTile_keeps
    | with_reducible apply State.endSave_keeps
    | with_reducible apply Keeps.ite
    | (extract_lets +onlyGivenNames x; refine Keeps.cut (x := x) ?_ ?_; (on_goal 2 => intro _; clear_value x); (on_goal 1 => subst x))
    | (extract_lets +onlyGivenNames x; clear_value x)
    | split

theorem execSaveTimeout_keeps (s : State) :
    KeepsRun s (execSaveTimeout s) := by
  unfold execSaveTimeout
  repeat' first
    | with_reducible refine KeepsRun.next ?_
    | with_reducible assumption
    | with_reducible exact Keeps.refl _
    | with_reducible apply State.shutdown_keeps
    | with_reducible apply Keeps.ite
    | split

theorem execAclkStop_keeps (s : State) :
    KeepsRun s (execAclkStop s) := by
  unfold execAclkStop
  repeat' first
    | with_reducible refine KeepsRun.next ?_
    | with_reducible assumption
    | with_reducible exact Keeps.refl _
    | (extract_lets +onlyGivenNames x; refine Keeps.cut (x := x) ?_ ?_; (on_goal 2 => intro _; clear_value x); (on_goal 1 => subst x))
    | (extract_lets +onlyGivenNames x; clear_value x)
    | fail_if_no_progress (with_reducible refine Keeps.lit ?_ (by first | exact Nat.le_refl _ | omega) (by first | exact Nat.le_refl _ | omega) (fun w hw => hw))

end Sys2Proof.Machine
end

