-- ==== Sys2Proof/Laws/KeepsRhozil.lean ====
section
/-! SUPPORT. What the operations of Machine/Rhozil.lean keep. -/

namespace Sys2Proof.Machine

theorem State.consume_keeps {s0 : State} {s : State} {n : Nat} {i : Issue} {c : Ctx} (hk : Keeps s0 s) :
    Keeps s0 (State.consume s n i c) := by
  unfold State.consume
  repeat' first
    | with_reducible assumption
    | with_reducible exact Keeps.refl _
    | with_reducible apply State.setCtx_keeps
    | with_reducible apply State.setSlip_keeps
    | with_reducible apply Keeps.ite
    | (extract_lets +onlyGivenNames x; refine Keeps.cut (x := x) ?_ ?_; (on_goal 2 => intro _; clear_value x); (on_goal 1 => subst x))
    | (extract_lets +onlyGivenNames x; clear_value x)
    | split

theorem State.issueOp_keeps {s0 : State} {s : State} {n : Nat} {op : Nat} {enc : State → Issue → Bool} {level : State → Issue → Bool} {act : State → Issue → State} (hk : Keeps s0 s) (h_act : ∀ x0 x1, Keeps s0 x0 → Keeps s0 (act x0 x1)) :
    Keeps s0 (State.issueOp s n op enc level act) := by
  unfold State.issueOp
  repeat' first
    | with_reducible assumption
    | with_reducible apply h_act
    | (intro _; try beta_reduce)
    | with_reducible exact Keeps.refl _
    | with_reducible apply State.consume_keeps
    | with_reducible apply State.complete_keeps
    | with_reducible apply State.setCtx_keeps
    | with_reducible apply Keeps.ite
    | (extract_lets +onlyGivenNames x; refine Keeps.cut (x := x) ?_ ?_; (on_goal 2 => intro _; clear_value x); (on_goal 1 => subst x))
    | (extract_lets +onlyGivenNames x; clear_value x)
    | split

theorem State.issue_keeps {s0 : State} {s : State} {n : Nat} {op : Nat} {act : State → Issue → State} (hk : Keeps s0 s) (h_act : ∀ x0 x1, Keeps s0 x0 → Keeps s0 (act x0 x1)) :
    Keeps s0 (State.issue s n op act) := by
  unfold State.issue
  repeat' first
    | with_reducible assumption
    | with_reducible apply h_act
    | (intro _; try beta_reduce)
    | with_reducible exact Keeps.refl _
    | with_reducible apply State.issueOp_keeps

theorem State.enterCmd_keeps {s0 s t : State} {n : Nat} {l : List Word} {p : Path} {k : Nat} (h : Keeps s0 s) (e : s.enterCmd n l p k = some t) : Keeps s0 t := by
  unfold State.enterCmd at e
  dsimp only at e
  split at e <;> cases e
  exact State.setCtx_keeps h

theorem State.moveRing_keeps {s0 : State} {s : State} {t : Nat} {d : Nat} (hk : Keeps s0 s) :
    Keeps s0 (State.moveRing s t d) := by
  unfold State.moveRing
  repeat' first
    | with_reducible assumption
    | with_reducible exact Keeps.refl _
    | with_reducible apply State.setBar_keeps
    | (refine State.enterSub_keeps ?_ (by assumption))
    | (refine Keeps.getD (fun _ e => State.enterSub_keeps ?_ e) ?_)
    | with_reducible apply Keeps.ite
    | (extract_lets +onlyGivenNames x; refine Keeps.cut (x := x) ?_ ?_; (on_goal 2 => intro _; clear_value x); (on_goal 1 => subst x))
    | (extract_lets +onlyGivenNames x; clear_value x)
    | split

theorem State.moveCmd_keeps {s0 : State} {s : State} {t : Nat} {d : Nat} (hk : Keeps s0 s) :
    Keeps s0 (State.moveCmd s t d) := by
  unfold State.moveCmd
  repeat' first
    | with_reducible assumption
    | with_reducible exact Keeps.refl _
    | (refine State.enterCmd_keeps ?_ (by assumption))
    | (refine Keeps.getD (fun _ e => State.enterCmd_keeps ?_ e) ?_)
    | with_reducible apply State.setBar_keeps
    | with_reducible apply Keeps.ite
    | (extract_lets +onlyGivenNames x; refine Keeps.cut (x := x) ?_ ?_; (on_goal 2 => intro _; clear_value x); (on_goal 1 => subst x))
    | (extract_lets +onlyGivenNames x; clear_value x)
    | split

theorem State.moveSlip_keeps {s0 : State} {s : State} {n : Nat} (hk : Keeps s0 s) :
    Keeps s0 (State.moveSlip s n) := by
  unfold State.moveSlip
  repeat' first
    | with_reducible assumption
    | with_reducible exact Keeps.refl _
    | (refine State.enterSub_keeps ?_ (by assumption))
    | (refine Keeps.getD (fun _ e => State.enterSub_keeps ?_ e) ?_)
    | with_reducible apply State.setSlip_keeps
    | with_reducible apply Keeps.ite
    | (extract_lets +onlyGivenNames x; refine Keeps.cut (x := x) ?_ ?_; (on_goal 2 => intro _; clear_value x); (on_goal 1 => subst x))
    | (extract_lets +onlyGivenNames x; clear_value x)
    | split

theorem State.moveMctp_keeps {s0 : State} {s : State} (hk : Keeps s0 s) :
    Keeps s0 (State.moveMctp s) := by
  unfold State.moveMctp
  repeat' first
    | with_reducible assumption
    | with_reducible exact Keeps.refl _
    | (refine State.enterSub_keeps ?_ (by assumption))
    | (refine Keeps.getD (fun _ e => State.enterSub_keeps ?_ e) ?_)
    | (extract_lets +onlyGivenNames x; refine Keeps.cut (x := x) ?_ ?_; (on_goal 2 => intro _; clear_value x); (on_goal 1 => subst x))
    | (extract_lets +onlyGivenNames x; clear_value x)
    | split
    | fail_if_no_progress (with_reducible refine Keeps.lit ?_ (by first | exact Nat.le_refl _ | omega) (by first | exact Nat.le_refl _ | omega) (fun w hw => hw))

theorem execSubmission_keeps (ctx : Nat) (s : State) :
    KeepsRun s (execSubmission ctx s) := by
  unfold execSubmission
  repeat' first
    | with_reducible refine KeepsRun.next ?_
    | (intro _; try beta_reduce)
    | with_reducible assumption
    | with_reducible exact Keeps.refl _
    | with_reducible apply State.moveCmd_keeps
    | with_reducible apply State.moveRing_keeps
    | with_reducible apply State.moveSlip_keeps
    | with_reducible apply State.moveMctp_keeps
    | with_reducible apply Keeps.foldl
    | with_reducible apply Keeps.foldlFst
    | with_reducible apply Keeps.foldlSnd
    | with_reducible apply Keeps.ite

theorem State.unload_keeps {s0 : State} {s : State} {n : Nat} (hk : Keeps s0 s) :
    Keeps s0 (State.unload s n) := by
  unfold State.unload
  repeat' first
    | with_reducible assumption
    | with_reducible exact Keeps.refl _
    | with_reducible apply State.setCtx_keeps

theorem State.countLoad_keeps {s0 : State} {s : State} {m : Nat} {tile : Nat} {thread : Nat} (hk : Keeps s0 s) :
    Keeps s0 (State.countLoad s m tile thread) := by
  unfold State.countLoad
  repeat' first
    | with_reducible assumption
    | with_reducible exact Keeps.refl _
    | with_reducible apply State.tally_keeps

theorem execContextLoad_keeps (tile : Nat) (thread : Nat) (s : State) :
    KeepsRun s (execContextLoad tile thread s) := by
  unfold execContextLoad
  repeat' first
    | with_reducible refine KeepsRun.next ?_
    | with_reducible assumption
    | with_reducible exact Keeps.refl _
    | with_reducible apply State.countLoad_keeps
    | with_reducible apply State.setCtx_keeps
    | with_reducible apply State.unload_keeps
    | with_reducible apply Keeps.ite
    | (extract_lets +onlyGivenNames x; refine Keeps.cut (x := x) ?_ ?_; (on_goal 2 => intro _; clear_value x); (on_goal 1 => subst x))
    | (extract_lets +onlyGivenNames x; clear_value x)
    | split

theorem execQuantumExpiry_keeps (tile : Nat) (thread : Nat) (s : State) :
    KeepsRun s (execQuantumExpiry tile thread s) := by
  unfold execQuantumExpiry
  repeat' first
    | with_reducible refine KeepsRun.next ?_
    | with_reducible assumption
    | with_reducible exact Keeps.refl _
    | with_reducible apply State.unload_keeps
    | with_reducible apply Keeps.ite
    | split

theorem execIdle_keeps (ctx : Nat) (s : State) :
    KeepsRun s (execIdle ctx s) := by
  unfold execIdle
  repeat' first
    | with_reducible refine KeepsRun.next ?_
    | with_reducible assumption
    | with_reducible exact Keeps.refl _
    | with_reducible apply State.unload_keeps
    | with_reducible apply State.setCtx_keeps
    | with_reducible apply State.consume_keeps
    | with_reducible apply State.complete_keeps
    | with_reducible apply Keeps.ite
    | (extract_lets +onlyGivenNames x; refine Keeps.cut (x := x) ?_ ?_; (on_goal 2 => intro _; clear_value x); (on_goal 1 => subst x))
    | (extract_lets +onlyGivenNames x; (first | (have h1 := fun q => x q; clear h1; subst x; beta_reduce) | clear_value x))
    | split

theorem execIdleTimeout_keeps (ctx : Nat) (s : State) :
    KeepsRun s (execIdleTimeout ctx s) := by
  unfold execIdleTimeout
  repeat' first
    | with_reducible refine KeepsRun.next ?_
    | with_reducible assumption
    | with_reducible exact Keeps.refl _
    | with_reducible apply State.unload_keeps
    | with_reducible apply State.setCtx_keeps
    | with_reducible apply Keeps.ite
    | (extract_lets +onlyGivenNames x; refine Keeps.cut (x := x) ?_ ?_; (on_goal 2 => intro _; clear_value x); (on_goal 1 => subst x))
    | (extract_lets +onlyGivenNames x; clear_value x)
    | split

theorem State.writeWindow_keeps {s0 : State} {s : State} {t : Nat} {d : Nat} {r : Cpl} (hk : Keeps s0 s) :
    Keeps s0 (State.writeWindow s t d r) := by
  unfold State.writeWindow
  repeat' first
    | with_reducible assumption
    | with_reducible exact Keeps.refl _
    | with_reducible apply State.setBar_keeps

theorem State.slipRecord_keeps {s0 : State} {s : State} {ctx : Nat} {n : Nat} {r : Cpl} {rest : List Cpl} (hk : Keeps s0 s) :
    Keeps s0 (State.slipRecord s ctx n r rest) := by
  unfold State.slipRecord
  repeat' first
    | with_reducible assumption
    | with_reducible exact Keeps.refl _
    | with_reducible apply State.setSlip_keeps
    | with_reducible apply Keeps.ite

theorem execCompletionRecord_keeps (ctx : Nat) (s : State) :
    KeepsRun s (execCompletionRecord ctx s) := by
  unfold execCompletionRecord
  repeat' first
    | with_reducible refine KeepsRun.next ?_
    | with_reducible assumption
    | with_reducible exact Keeps.refl _
    | with_reducible apply State.setCtx_keeps
    | with_reducible apply State.slipRecord_keeps
    | with_reducible apply State.writeWindow_keeps
    | with_reducible apply Keeps.ite
    | (extract_lets +onlyGivenNames x; refine Keeps.cut (x := x) ?_ ?_; (on_goal 2 => intro _; clear_value x); (on_goal 1 => subst x))
    | (extract_lets +onlyGivenNames x; clear_value x)
    | split
    | fail_if_no_progress (with_reducible refine Keeps.lit ?_ (by first | exact Nat.le_refl _ | omega) (by first | exact Nat.le_refl _ | omega) (fun w hw => hw))

theorem execCompletionSpace_keeps (ctx : Nat) (s : State) :
    KeepsRun s (execCompletionSpace ctx s) := by
  unfold execCompletionSpace
  repeat' first
    | with_reducible refine KeepsRun.next ?_
    | with_reducible assumption
    | with_reducible exact Keeps.refl _
    | with_reducible apply State.setCtx_keeps
    | with_reducible apply Keeps.ite
    | (extract_lets +onlyGivenNames x; refine Keeps.cut (x := x) ?_ ?_; (on_goal 2 => intro _; clear_value x); (on_goal 1 => subst x))
    | (extract_lets +onlyGivenNames x; clear_value x)
    | split

end Sys2Proof.Machine
end

