-- ==== Sys2Proof/Laws/KeepsRhozilCtl.lean ====
section
/-! SUPPORT. What the operations of Machine/RhozilCtl.lean keep. -/

namespace Sys2Proof.Machine

theorem State.done_keeps {s0 : State} {s : State} {n : Nat} {i : Issue} {r : Word} (hk : Keeps s0 s) :
    Keeps s0 (State.done s n i r) := by
  unfold State.done
  repeat' first
    | with_reducible assumption
    | with_reducible exact Keeps.refl _
    | with_reducible apply State.completeR_keeps

theorem State.fail_keeps {s0 : State} {s : State} {n : Nat} {i : Issue} {st : Status} (hk : Keeps s0 s) :
    Keeps s0 (State.fail s n i st) := by
  unfold State.fail
  repeat' first
    | with_reducible assumption
    | with_reducible exact Keeps.refl _
    | with_reducible apply State.complete_keeps

theorem execNop_keeps (ctx : Nat) (s : State) :
    KeepsRun s (execNop ctx s) := by
  unfold execNop
  repeat' first
    | with_reducible refine KeepsRun.next ?_
    | (intro _; try beta_reduce)
    | with_reducible assumption
    | with_reducible exact Keeps.refl _
    | with_reducible apply State.issue_keeps
    | with_reducible apply State.done_keeps

theorem execWait_keeps (ctx : Nat) (s : State) :
    KeepsRun s (execWait ctx s) := by
  unfold execWait
  repeat' first
    | with_reducible refine KeepsRun.next ?_
    | (intro _; try beta_reduce)
    | with_reducible assumption
    | with_reducible exact Keeps.refl _
    | with_reducible apply State.issue_keeps
    | with_reducible apply State.fail_keeps
    | with_reducible apply State.startLong_keeps
    | with_reducible apply Keeps.ite

theorem execWaitEnd_keeps (ctx : Nat) (s : State) :
    KeepsRun s (execWaitEnd ctx s) := by
  unfold execWaitEnd
  repeat' first
    | with_reducible refine KeepsRun.next ?_
    | with_reducible assumption
    | with_reducible exact Keeps.refl _
    | with_reducible apply State.finishR_keeps
    | with_reducible apply Keeps.ite
    | split

theorem State.haltCmd_keeps {s0 : State} {s : State} {n : Nat} {i : Issue} (hk : Keeps s0 s) :
    Keeps s0 (State.haltCmd s n i) := by
  unfold State.haltCmd
  repeat' first
    | with_reducible assumption
    | with_reducible exact Keeps.refl _
    | with_reducible apply State.setCtx_keeps
    | with_reducible apply State.setSlip_keeps
    | with_reducible apply State.done_keeps
    | with_reducible apply State.fail_keeps
    | with_reducible apply Keeps.ite
    | (extract_lets +onlyGivenNames x; refine Keeps.cut (x := x) ?_ ?_; (on_goal 2 => intro _; clear_value x); (on_goal 1 => subst x))
    | (extract_lets +onlyGivenNames x; clear_value x)
    | split

theorem State.interruptCryp_keeps {s0 : State} {s : State} {n : Nat} (hk : Keeps s0 s) :
    Keeps s0 (State.interruptCryp s n) := by
  unfold State.interruptCryp
  repeat' first
    | with_reducible assumption
    | with_reducible exact Keeps.refl _
    | with_reducible apply State.finishR_keeps
    | with_reducible apply State.setCtx_keeps
    | split

theorem execHalt_keeps (ctx : Nat) (s : State) :
    KeepsRun s (execHalt ctx s) := by
  unfold execHalt
  repeat' first
    | with_reducible refine KeepsRun.next ?_
    | (intro _; try beta_reduce)
    | with_reducible assumption
    | with_reducible exact Keeps.refl _
    | with_reducible apply State.done_keeps
    | with_reducible apply State.interruptCryp_keeps
    | with_reducible apply State.setCtx_keeps
    | with_reducible apply State.issue_keeps
    | with_reducible apply State.haltCmd_keeps
    | with_reducible apply Keeps.ite
    | (extract_lets +onlyGivenNames x; refine Keeps.cut (x := x) ?_ ?_; (on_goal 2 => intro _; clear_value x); (on_goal 1 => subst x))
    | (extract_lets +onlyGivenNames x; clear_value x)
    | split

theorem execTime_keeps (ctx : Nat) (s : State) :
    KeepsRun s (execTime ctx s) := by
  unfold execTime
  repeat' first
    | with_reducible refine KeepsRun.next ?_
    | (intro _; try beta_reduce)
    | with_reducible assumption
    | with_reducible exact Keeps.refl _
    | with_reducible apply State.issue_keeps
    | with_reducible apply State.done_keeps

theorem State.branch_keeps {s0 : State} {s : State} {n : Nat} {i : Issue} (hk : Keeps s0 s) :
    Keeps s0 (State.branch s n i) := by
  unfold State.branch
  repeat' first
    | with_reducible assumption
    | with_reducible exact Keeps.refl _
    | with_reducible apply State.done_keeps
    | with_reducible apply State.setCtx_keeps
    | with_reducible apply State.fail_keeps
    | with_reducible apply Keeps.ite
    | (extract_lets +onlyGivenNames x; refine Keeps.cut (x := x) ?_ ?_; (on_goal 2 => intro _; clear_value x); (on_goal 1 => subst x))
    | (extract_lets +onlyGivenNames x; clear_value x)
    | split

theorem execBr_keeps (ctx : Nat) (s : State) :
    KeepsRun s (execBr ctx s) := by
  unfold execBr
  repeat' first
    | with_reducible refine KeepsRun.next ?_
    | (intro _; try beta_reduce)
    | with_reducible assumption
    | with_reducible exact Keeps.refl _
    | with_reducible apply State.issue_keeps
    | with_reducible apply State.branch_keeps

theorem execBz_keeps (ctx : Nat) (s : State) :
    KeepsRun s (execBz ctx s) := by
  unfold execBz
  repeat' first
    | with_reducible refine KeepsRun.next ?_
    | (intro _; try beta_reduce)
    | with_reducible assumption
    | with_reducible exact Keeps.refl _
    | with_reducible apply State.issue_keeps
    | with_reducible apply State.branch_keeps
    | with_reducible apply State.done_keeps
    | with_reducible apply Keeps.ite

theorem execBnz_keeps (ctx : Nat) (s : State) :
    KeepsRun s (execBnz ctx s) := by
  unfold execBnz
  repeat' first
    | with_reducible refine KeepsRun.next ?_
    | (intro _; try beta_reduce)
    | with_reducible assumption
    | with_reducible exact Keeps.refl _
    | with_reducible apply State.issue_keeps
    | with_reducible apply State.done_keeps
    | with_reducible apply State.branch_keeps
    | with_reducible apply Keeps.ite

theorem execLoop_keeps (ctx : Nat) (s : State) :
    KeepsRun s (execLoop ctx s) := by
  unfold execLoop
  repeat' first
    | with_reducible refine KeepsRun.next ?_
    | (intro _; try beta_reduce)
    | with_reducible assumption
    | with_reducible exact Keeps.refl _
    | with_reducible apply State.issue_keeps
    | with_reducible apply State.fail_keeps
    | with_reducible apply State.done_keeps
    | with_reducible apply State.setCtx_keeps
    | with_reducible apply Keeps.ite

theorem execCallp_keeps (ctx : Nat) (s : State) :
    KeepsRun s (execCallp ctx s) := by
  unfold execCallp
  repeat' first
    | with_reducible refine KeepsRun.next ?_
    | (intro _; try beta_reduce)
    | with_reducible assumption
    | with_reducible exact Keeps.refl _
    | with_reducible apply State.issue_keeps
    | with_reducible apply State.fail_keeps
    | with_reducible apply State.done_keeps
    | with_reducible apply State.setCtx_keeps
    | with_reducible apply Keeps.ite

theorem State.alu_keeps {s0 : State} {s : State} {n : Nat} {op : Nat} {f : Word → Word → Word} (hk : Keeps s0 s) :
    Keeps s0 (State.alu s n op f) := by
  unfold State.alu
  repeat' first
    | with_reducible assumption
    | (intro _; try beta_reduce)
    | with_reducible exact Keeps.refl _
    | with_reducible apply State.issue_keeps
    | with_reducible apply State.done_keeps

theorem execAdd_keeps (ctx : Nat) (s : State) :
    KeepsRun s (execAdd ctx s) := by
  unfold execAdd
  repeat' first
    | with_reducible refine KeepsRun.next ?_
    | with_reducible assumption
    | with_reducible exact Keeps.refl _
    | with_reducible apply State.alu_keeps

theorem execSub_keeps (ctx : Nat) (s : State) :
    KeepsRun s (execSub ctx s) := by
  unfold execSub
  repeat' first
    | with_reducible refine KeepsRun.next ?_
    | with_reducible assumption
    | with_reducible exact Keeps.refl _
    | with_reducible apply State.alu_keeps

theorem execAnd_keeps (ctx : Nat) (s : State) :
    KeepsRun s (execAnd ctx s) := by
  unfold execAnd
  repeat' first
    | with_reducible refine KeepsRun.next ?_
    | with_reducible assumption
    | with_reducible exact Keeps.refl _
    | with_reducible apply State.alu_keeps

theorem execOr_keeps (ctx : Nat) (s : State) :
    KeepsRun s (execOr ctx s) := by
  unfold execOr
  repeat' first
    | with_reducible refine KeepsRun.next ?_
    | with_reducible assumption
    | with_reducible exact Keeps.refl _
    | with_reducible apply State.alu_keeps

theorem execXor_keeps (ctx : Nat) (s : State) :
    KeepsRun s (execXor ctx s) := by
  unfold execXor
  repeat' first
    | with_reducible refine KeepsRun.next ?_
    | with_reducible assumption
    | with_reducible exact Keeps.refl _
    | with_reducible apply State.alu_keeps

theorem execShl_keeps (ctx : Nat) (s : State) :
    KeepsRun s (execShl ctx s) := by
  unfold execShl
  repeat' first
    | with_reducible refine KeepsRun.next ?_
    | with_reducible assumption
    | with_reducible exact Keeps.refl _
    | with_reducible apply State.alu_keeps

theorem execShr_keeps (ctx : Nat) (s : State) :
    KeepsRun s (execShr ctx s) := by
  unfold execShr
  repeat' first
    | with_reducible refine KeepsRun.next ?_
    | with_reducible assumption
    | with_reducible exact Keeps.refl _
    | with_reducible apply State.alu_keeps

theorem execLdi_keeps (ctx : Nat) (s : State) :
    KeepsRun s (execLdi ctx s) := by
  unfold execLdi
  repeat' first
    | with_reducible refine KeepsRun.next ?_
    | (intro _; try beta_reduce)
    | with_reducible assumption
    | with_reducible exact Keeps.refl _
    | with_reducible apply State.issue_keeps
    | with_reducible apply State.done_keeps

theorem execCmp_keeps (ctx : Nat) (s : State) :
    KeepsRun s (execCmp ctx s) := by
  unfold execCmp
  repeat' first
    | with_reducible refine KeepsRun.next ?_
    | with_reducible assumption
    | with_reducible exact Keeps.refl _
    | with_reducible apply State.alu_keeps

theorem execMark_keeps (ctx : Nat) (s : State) :
    KeepsRun s (execMark ctx s) := by
  unfold execMark
  repeat' first
    | with_reducible refine KeepsRun.next ?_
    | (intro _; try beta_reduce)
    | with_reducible assumption
    | with_reducible exact Keeps.refl _
    | with_reducible apply State.issue_keeps
    | with_reducible apply State.setCtx_keeps
    | with_reducible apply State.done_keeps

theorem execRwnd_keeps (ctx : Nat) (s : State) :
    KeepsRun s (execRwnd ctx s) := by
  unfold execRwnd
  repeat' first
    | with_reducible refine KeepsRun.next ?_
    | (intro _; try beta_reduce)
    | with_reducible assumption
    | with_reducible exact Keeps.refl _
    | with_reducible apply State.issue_keeps
    | with_reducible apply State.fail_keeps
    | with_reducible apply State.done_keeps
    | with_reducible apply State.setCtx_keeps
    | with_reducible apply Keeps.ite

theorem execRel_keeps (ctx : Nat) (s : State) :
    KeepsRun s (execRel ctx s) := by
  unfold execRel
  repeat' first
    | with_reducible refine KeepsRun.next ?_
    | (intro _; try beta_reduce)
    | with_reducible assumption
    | with_reducible exact Keeps.refl _
    | with_reducible apply State.issue_keeps
    | with_reducible apply State.setCtx_keeps
    | with_reducible apply State.done_keeps

end Sys2Proof.Machine
end

