-- ==== Sys2Proof/Laws/KeepsTierGeom.lean ====
section
/-! SUPPORT. What the operations of Machine/TierGeom.lean keep. -/

namespace Sys2Proof.Machine

theorem State.setFrame_keeps {s0 : State} {s : State} {t : Nat} {f : Nat} {o : Owner} (hk : Keeps s0 s) :
    Keeps s0 (State.setFrame s t f o) := by
  unfold State.setFrame
  repeat' first
    | with_reducible assumption
    | with_reducible exact Keeps.refl _
    | with_reducible apply State.setTt_keeps

end Sys2Proof.Machine
end

