-- ==== Sys2Proof/Laws/KeepsParamOps.lean ====
section
/-! SUPPORT. What the operations of Machine/ParamOps.lean keep. -/

namespace Sys2Proof.Machine

theorem State.beforeRead_keeps {s0 : State} {s : State} {id : Nat} (hk : Keeps s0 s) :
    Keeps s0 (State.beforeRead s id) := by
  unfold State.beforeRead
  repeat' first
    | with_reducible assumption
    | with_reducible exact Keeps.refl _
    | with_reducible apply State.fetchRec_keeps
    | with_reducible apply Keeps.ite

theorem State.afterRead_keeps {s0 : State} {s : State} {id : Nat} {sess : Nat} (hk : Keeps s0 s) :
    Keeps s0 (State.afterRead s id sess) := by
  unfold State.afterRead
  repeat' first
    | with_reducible assumption
    | (intro _; try beta_reduce)
    | with_reducible exact Keeps.refl _
    | with_reducible apply State.setRt_keeps
    | with_reducible apply State.setParam_keeps
    | with_reducible apply Keeps.foldl
    | with_reducible apply Keeps.foldlFst
    | with_reducible apply Keeps.foldlSnd
    | with_reducible apply Keeps.ite
    | (extract_lets +onlyGivenNames x; refine Keeps.cut (x := x) ?_ ?_; (on_goal 2 => intro _; clear_value x); (on_goal 1 => subst x))
    | (extract_lets +onlyGivenNames x; clear_value x)
    | split

theorem State.stage_keeps {s0 : State} {s : State} {n : Nat} {level : Nat} {cs : List Change} (hk : Keeps s0 s) :
    Keeps s0 (State.stage s n level cs) := by
  unfold State.stage
  repeat' first
    | with_reducible assumption
    | with_reducible exact Keeps.refl _
    | (extract_lets +onlyGivenNames x; refine Keeps.cut (x := x) ?_ ?_; (on_goal 2 => intro _; clear_value x); (on_goal 1 => subst x))
    | (extract_lets +onlyGivenNames x; clear_value x)
    | fail_if_no_progress (with_reducible refine Keeps.lit ?_ (by first | exact Nat.le_refl _ | omega) (by first | exact Nat.le_refl _ | omega) (fun w hw => hw))

theorem State.noteDrop_keeps {s0 : State} {s : State} {n : Nat} (hk : Keeps s0 s) :
    Keeps s0 (State.noteDrop s n) := by
  unfold State.noteDrop
  repeat' first
    | with_reducible assumption
    | with_reducible exact Keeps.refl _
    | with_reducible apply State.setCtx_keeps

theorem State.applyField_keeps {s0 : State} {s : State} {c : Change} (hk : Keeps s0 s) :
    Keeps s0 (State.applyField s c) := by
  unfold State.applyField
  repeat' first
    | with_reducible assumption
    | with_reducible exact Keeps.refl _
    | with_reducible apply State.setParam_keeps
    | split

theorem State.overlay_keeps {s0 : State} {s : State} (hk : Keeps s0 s) :
    Keeps s0 (State.overlay s) := by
  unfold State.overlay
  repeat' first
    | with_reducible assumption
    | (intro _; try beta_reduce)
    | with_reducible exact Keeps.refl _
    | with_reducible apply State.applyField_keeps
    | with_reducible apply Keeps.foldl

theorem State.writeFuseCmd_keeps {s0 : State} {s : State} {w : Word} (hk : Keeps s0 s) :
    Keeps s0 (State.writeFuseCmd s w) := by
  unfold State.writeFuseCmd
  repeat' first
    | with_reducible assumption
    | with_reducible exact Keeps.refl _
    | with_reducible apply State.drawWord_keeps
    | (refine Keeps.ofSnd (State.drawWord_keeps ?_) (by assumption))
    | with_reducible apply Keeps.ite
    | (extract_lets +onlyGivenNames x; refine Keeps.cut (x := x) ?_ ?_; (on_goal 2 => intro _; clear_value x); (on_goal 1 => subst x))
    | (extract_lets +onlyGivenNames x; (have h1 : FuseS := x); clear h1; subst x)
    | split
    | fail_if_no_progress (with_reducible refine Keeps.lit ?_ (by first | exact Nat.le_refl _ | omega) (by first | exact Nat.le_refl _ | omega) (fun w hw => by first | exact hw | exact mem_insertNat.2 (Or.inr hw)))

theorem State.forceAuth_keeps {s0 : State} {s : State} (hk : Keeps s0 s) :
    Keeps s0 (State.forceAuth s) := by
  unfold State.forceAuth
  repeat' first
    | with_reducible assumption
    | with_reducible exact Keeps.refl _
    | with_reducible apply State.log_keeps
    | with_reducible apply State.requestAuth_keeps
    | (extract_lets +onlyGivenNames x; refine Keeps.cut (x := x) ?_ ?_; (on_goal 2 => intro _; clear_value x); (on_goal 1 => subst x))
    | (extract_lets +onlyGivenNames x; clear_value x)
    | fail_if_no_progress (with_reducible refine Keeps.lit ?_ (by first | exact Nat.le_refl _ | omega) (by first | exact Nat.le_refl _ | omega) (fun w hw => hw))

theorem State.startBist_keeps {s0 : State} {s : State} {t : Nat} {mask : Nat} (hk : Keeps s0 s) :
    Keeps s0 (State.startBist s t mask) := by
  unfold State.startBist
  repeat' first
    | with_reducible assumption
    | (intro _; try beta_reduce)
    | with_reducible exact Keeps.refl _
    | with_reducible apply Keeps.foldl
    | with_reducible apply Keeps.foldlFst
    | with_reducible apply Keeps.foldlSnd
    | with_reducible apply Keeps.ite
    | (extract_lets +onlyGivenNames x; refine Keeps.cut (x := x) ?_ ?_; (on_goal 2 => intro _; clear_value x); (on_goal 1 => subst x))
    | (extract_lets +onlyGivenNames x; clear_value x)
    | split
    | fail_if_no_progress (with_reducible refine Keeps.lit ?_ (by first | exact Nat.le_refl _ | omega) (by first | exact Nat.le_refl _ | omega) (fun w hw => hw))

theorem State.writePlain_keeps {s0 : State} {s : State} {n : Nat} {fs : List PField} {id : Nat} {sess : Nat} {v : Word} (hk : Keeps s0 s) :
    Keeps s0 (State.writePlain s n fs id sess v) := by
  unfold State.writePlain
  repeat' first
    | with_reducible assumption
    | with_reducible exact Keeps.refl _
    | (refine State.warmReset_keeps ?_ (by assumption))
    | (refine Keeps.getD (fun _ e => State.warmReset_keeps ?_ e) ?_)
    | with_reducible apply State.resetTile_keeps
    | with_reducible apply State.forceAuth_keeps
    | with_reducible apply State.setParam_keeps
    | with_reducible apply State.writeCnt_keeps
    | with_reducible apply State.writeFuseCmd_keeps
    | with_reducible apply State.startBist_keeps
    | with_reducible apply Keeps.ite
    | (extract_lets +onlyGivenNames x; refine Keeps.cut (x := x) ?_ ?_; (on_goal 2 => intro _; clear_value x); (on_goal 1 => subst x))
    | (extract_lets +onlyGivenNames x; (have h1 : FuseS := x); clear h1; subst x)
    | (extract_lets +onlyGivenNames x; clear_value x)
    | split
    | fail_if_no_progress (with_reducible refine Keeps.lit ?_ (by first | exact Nat.le_refl _ | omega) (by first | exact Nat.le_refl _ | omega) (fun w hw => by first | exact hw | exact mem_insertNat.2 (Or.inr hw)))

end Sys2Proof.Machine
end

