-- ==== Sys2Proof/Laws/KeepsRhozilPar.lean ====
section
/-! SUPPORT. What the operations of Machine/RhozilPar.lean keep. -/

namespace Sys2Proof.Machine

theorem State.getp_keeps {s0 : State} {s : State} {n : Nat} {i : Issue} (hk : Keeps s0 s) :
    Keeps s0 (State.getp s n i) := by
  unfold State.getp
  repeat' first
    | with_reducible assumption
    | with_reducible exact Keeps.refl _
    | with_reducible apply State.fail_keeps
    | with_reducible apply State.beforeRead_keeps
    | with_reducible apply State.done_keeps
    | with_reducible apply State.afterRead_keeps
    | with_reducible apply Keeps.ite

theorem execGetp_keeps (ctx : Nat) (s : State) :
    KeepsRun s (execGetp ctx s) := by
  unfold execGetp
  repeat' first
    | with_reducible refine KeepsRun.next ?_
    | (intro _; try beta_reduce)
    | with_reducible assumption
    | with_reducible exact Keeps.refl _
    | with_reducible apply State.issueOp_keeps
    | with_reducible apply State.getp_keeps
    | with_reducible apply Keeps.ite

theorem State.stgp_keeps {s0 : State} {s : State} {n : Nat} {i : Issue} (hk : Keeps s0 s) :
    Keeps s0 (State.stgp s n i) := by
  unfold State.stgp
  repeat' first
    | with_reducible assumption
    | with_reducible exact Keeps.refl _
    | with_reducible apply State.fail_keeps
    | with_reducible apply State.noteDrop_keeps
    | with_reducible apply State.done_keeps
    | with_reducible apply State.stage_keeps
    | with_reducible apply State.writePlain_keeps
    | with_reducible apply Keeps.ite
    | (extract_lets +onlyGivenNames x; refine Keeps.cut (x := x) ?_ ?_; (on_goal 2 => intro _; clear_value x); (on_goal 1 => subst x))
    | (extract_lets +onlyGivenNames x; clear_value x)
    | split

theorem execStgp_keeps (ctx : Nat) (s : State) :
    KeepsRun s (execStgp ctx s) := by
  unfold execStgp
  repeat' first
    | with_reducible refine KeepsRun.next ?_
    | (intro _; try beta_reduce)
    | with_reducible assumption
    | with_reducible exact Keeps.refl _
    | with_reducible apply State.issueOp_keeps
    | with_reducible apply State.stgp_keeps

theorem State.touch_keeps {s0 : State} {s : State} {checked : Bool} (hk : Keeps s0 s) :
    Keeps s0 (State.touch s checked) := by
  unfold State.touch
  repeat' first
    | with_reducible assumption
    | with_reducible exact Keeps.refl _
    | (extract_lets +onlyGivenNames x; refine Keeps.cut (x := x) ?_ ?_; (on_goal 2 => intro _; clear_value x); (on_goal 1 => subst x))
    | (extract_lets +onlyGivenNames x; clear_value x)
    | fail_if_no_progress (with_reducible refine Keeps.lit ?_ (by first | exact Nat.le_refl _ | omega) (by first | exact Nat.le_refl _ | omega) (fun w hw => hw))

theorem execChks_keeps (ctx : Nat) (s : State) :
    KeepsRun s (execChks ctx s) := by
  unfold execChks
  repeat' first
    | with_reducible refine KeepsRun.next ?_
    | (intro _; try beta_reduce)
    | with_reducible assumption
    | with_reducible exact Keeps.refl _
    | with_reducible apply State.issue_keeps
    | with_reducible apply State.fail_keeps
    | with_reducible apply State.noteDrop_keeps
    | with_reducible apply State.done_keeps
    | with_reducible apply State.touch_keeps
    | with_reducible apply State.complete_keeps
    | with_reducible apply Keeps.ite
    | split

theorem execApls_keeps (ctx : Nat) (s : State) :
    KeepsRun s (execApls ctx s) := by
  unfold execApls
  repeat' first
    | with_reducible refine KeepsRun.next ?_
    | (intro _; try beta_reduce)
    | with_reducible assumption
    | with_reducible exact Keeps.refl _
    | with_reducible apply State.issue_keeps
    | with_reducible apply State.fail_keeps
    | with_reducible apply State.noteDrop_keeps
    | with_reducible apply State.startLong_keeps
    | with_reducible apply State.addTide_keeps
    | with_reducible apply State.touch_keeps
    | with_reducible apply Keeps.ite

theorem execDrops_keeps (ctx : Nat) (s : State) :
    KeepsRun s (execDrops ctx s) := by
  unfold execDrops
  repeat' first
    | with_reducible refine KeepsRun.next ?_
    | (intro _; try beta_reduce)
    | with_reducible assumption
    | with_reducible exact Keeps.refl _
    | with_reducible apply State.issue_keeps
    | with_reducible apply State.fail_keeps
    | with_reducible apply State.noteDrop_keeps
    | with_reducible apply State.completeR_keeps
    | with_reducible apply State.emptySet_keeps
    | with_reducible apply State.done_keeps
    | with_reducible apply Keeps.ite

theorem execLockp_keeps (ctx : Nat) (s : State) :
    KeepsRun s (execLockp ctx s) := by
  unfold execLockp
  repeat' first
    | with_reducible refine KeepsRun.next ?_
    | (intro _; try beta_reduce)
    | with_reducible assumption
    | with_reducible exact Keeps.refl _
    | with_reducible apply State.issueOp_keeps
    | with_reducible apply State.fail_keeps
    | with_reducible apply State.done_keeps
    | with_reducible apply Keeps.ite
    | (extract_lets +onlyGivenNames x; refine Keeps.cut (x := x) ?_ ?_; (on_goal 2 => intro _; clear_value x); (on_goal 1 => subst x))
    | (extract_lets +onlyGivenNames x; clear_value x)
    | split
    | fail_if_no_progress (with_reducible refine Keeps.lit ?_ (by first | exact Nat.le_refl _ | omega) (by first | exact Nat.le_refl _ | omega) (fun w hw => hw))

theorem execCrd_keeps (ctx : Nat) (s : State) :
    KeepsRun s (execCrd ctx s) := by
  unfold execCrd
  repeat' first
    | with_reducible refine KeepsRun.next ?_
    | (intro _; try beta_reduce)
    | with_reducible assumption
    | with_reducible exact Keeps.refl _
    | with_reducible apply State.issueOp_keeps
    | with_reducible apply State.fail_keeps
    | with_reducible apply State.done_keeps
    | with_reducible apply Keeps.ite

theorem execStagedSetTimeout_keeps (s : State) :
    KeepsRun s (execStagedSetTimeout s) := by
  unfold execStagedSetTimeout
  repeat' first
    | with_reducible refine KeepsRun.next ?_
    | with_reducible assumption
    | with_reducible exact Keeps.refl _
    | with_reducible apply State.log_keeps
    | with_reducible apply State.dropSet_keeps
    | with_reducible apply Keeps.ite
    | split

end Sys2Proof.Machine
end

