-- ==== Sys2Proof/Laws/KeepsRhozilSys.lean ====
section
/-! SUPPORT. What the operations of Machine/RhozilSys.lean keep. -/

namespace Sys2Proof.Machine

theorem execEvtw_keeps (ctx : Nat) (s : State) :
    KeepsRun s (execEvtw ctx s) := by
  unfold execEvtw
  repeat' first
    | with_reducible refine KeepsRun.next ?_
    | (intro _; try beta_reduce)
    | with_reducible assumption
    | with_reducible exact Keeps.refl _
    | with_reducible apply State.issueOp_keeps
    | with_reducible apply State.record_keeps
    | with_reducible apply State.done_keeps

theorem execCsnp_keeps (ctx : Nat) (s : State) :
    KeepsRun s (execCsnp ctx s) := by
  unfold execCsnp
  repeat' first
    | with_reducible refine KeepsRun.next ?_
    | (intro _; try beta_reduce)
    | with_reducible assumption
    | with_reducible exact Keeps.refl _
    | with_reducible apply State.issue_keeps
    | with_reducible apply State.fail_keeps
    | with_reducible apply State.startLong_keeps
    | split

theorem execCfrz_keeps (ctx : Nat) (s : State) :
    KeepsRun s (execCfrz ctx s) := by
  unfold execCfrz
  repeat' first
    | with_reducible refine KeepsRun.next ?_
    | (intro _; try beta_reduce)
    | with_reducible assumption
    | with_reducible exact Keeps.refl _
    | with_reducible apply State.issue_keeps
    | with_reducible apply State.fail_keeps
    | with_reducible apply State.completeR_keeps
    | with_reducible apply State.startLong_keeps
    | with_reducible apply Keeps.ite
    | split

theorem State.takeSnapshot_keeps {s0 : State} {s : State} {t : Nat} (hk : Keeps s0 s) :
    Keeps s0 (State.takeSnapshot s t) := by
  unfold State.takeSnapshot
  repeat' first
    | with_reducible assumption
    | with_reducible exact Keeps.refl _
    | (extract_lets +onlyGivenNames x; refine Keeps.cut (x := x) ?_ ?_; (on_goal 2 => intro _; clear_value x); (on_goal 1 => subst x))
    | (extract_lets +onlyGivenNames x; clear_value x)
    | fail_if_no_progress (with_reducible refine Keeps.lit ?_ (by first | exact Nat.le_refl _ | omega) (by first | exact Nat.le_refl _ | omega) (fun w hw => hw))

theorem execCounterSnapshot_keeps (s : State) :
    KeepsRun s (execCounterSnapshot s) := by
  unfold execCounterSnapshot
  repeat' first
    | with_reducible refine KeepsRun.next ?_
    | with_reducible assumption
    | with_reducible exact Keeps.refl _
    | with_reducible apply State.takeSnapshot_keeps
    | with_reducible apply State.setCtx_keeps
    | with_reducible apply State.finishR_keeps
    | (extract_lets +onlyGivenNames x; refine Keeps.cut (x := x) ?_ ?_; (on_goal 2 => intro _; clear_value x); (on_goal 1 => subst x))
    | (extract_lets +onlyGivenNames x; clear_value x)
    | split

theorem execCounterFreeze_keeps (s : State) :
    KeepsRun s (execCounterFreeze s) := by
  unfold execCounterFreeze
  repeat' first
    | with_reducible refine KeepsRun.next ?_
    | with_reducible assumption
    | with_reducible exact Keeps.refl _
    | with_reducible apply State.setCtx_keeps
    | with_reducible apply State.finishR_keeps
    | with_reducible apply Keeps.ite
    | (extract_lets +onlyGivenNames x; refine Keeps.cut (x := x) ?_ ?_; (on_goal 2 => intro _; clear_value x); (on_goal 1 => subst x))
    | (extract_lets +onlyGivenNames x; clear_value x)
    | split
    | fail_if_no_progress (with_reducible refine Keeps.lit ?_ (by first | exact Nat.le_refl _ | omega) (by first | exact Nat.le_refl _ | omega) (fun w hw => hw))

theorem State.beginTransfer_keeps {s0 : State} {s : State} {n : Nat} (hk : Keeps s0 s) :
    Keeps s0 (State.beginTransfer s n) := by
  unfold State.beginTransfer
  repeat' first
    | with_reducible assumption
    | with_reducible exact Keeps.refl _
    | with_reducible apply State.setSlot_keeps
    | with_reducible apply Keeps.ite
    | (extract_lets +onlyGivenNames x; refine Keeps.cut (x := x) ?_ ?_; (on_goal 2 => intro _; clear_value x); (on_goal 1 => subst x))
    | (extract_lets +onlyGivenNames x; clear_value x)
    | split
    | fail_if_no_progress (with_reducible refine Keeps.lit ?_ (by first | exact Nat.le_refl _ | omega) (by first | exact Nat.le_refl _ | omega) (fun w hw => hw))

theorem State.fwst_keeps {s0 : State} {s : State} {n : Nat} {i : Issue} (hk : Keeps s0 s) :
    Keeps s0 (State.fwst s n i) := by
  unfold State.fwst
  repeat' first
    | with_reducible assumption
    | with_reducible exact Keeps.refl _
    | with_reducible apply State.fail_keeps
    | with_reducible apply State.done_keeps
    | with_reducible apply State.pendRec_keeps
    | with_reducible apply State.beginTransfer_keeps
    | with_reducible apply State.setSlot_keeps
    | with_reducible apply Keeps.ite
    | (extract_lets +onlyGivenNames x; refine Keeps.cut (x := x) ?_ ?_; (on_goal 2 => intro _; clear_value x); (on_goal 1 => subst x))
    | (extract_lets +onlyGivenNames x; clear_value x)
    | split
    | fail_if_no_progress (with_reducible refine Keeps.lit ?_ (by first | exact Nat.le_refl _ | omega) (by first | exact Nat.le_refl _ | omega) (fun w hw => hw))

theorem execFwst_keeps (ctx : Nat) (s : State) :
    KeepsRun s (execFwst ctx s) := by
  unfold execFwst
  repeat' first
    | with_reducible refine KeepsRun.next ?_
    | (intro _; try beta_reduce)
    | with_reducible assumption
    | with_reducible exact Keeps.refl _
    | with_reducible apply State.issue_keeps
    | with_reducible apply State.fwst_keeps

theorem execFwsel_keeps (ctx : Nat) (s : State) :
    KeepsRun s (execFwsel ctx s) := by
  unfold execFwsel
  repeat' first
    | with_reducible refine KeepsRun.next ?_
    | (intro _; try beta_reduce)
    | with_reducible assumption
    | with_reducible exact Keeps.refl _
    | with_reducible apply State.issue_keeps
    | with_reducible apply State.fail_keeps
    | with_reducible apply State.done_keeps
    | with_reducible apply Keeps.ite
    | (extract_lets +onlyGivenNames x; refine Keeps.cut (x := x) ?_ ?_; (on_goal 2 => intro _; clear_value x); (on_goal 1 => subst x))
    | (extract_lets +onlyGivenNames x; clear_value x)
    | split
    | fail_if_no_progress (with_reducible refine Keeps.lit ?_ (by first | exact Nat.le_refl _ | omega) (by first | exact Nat.le_refl _ | omega) (fun w hw => hw))

theorem State.saveInstr_keeps {s0 : State} {s : State} {n : Nat} {i : Issue} (hk : Keeps s0 s) :
    Keeps s0 (State.saveInstr s n i) := by
  unfold State.saveInstr
  repeat' first
    | with_reducible assumption
    | with_reducible exact Keeps.refl _
    | with_reducible apply State.completeR_keeps
    | with_reducible apply State.fail_keeps
    | with_reducible apply State.commitSave_keeps
    | with_reducible apply State.done_keeps
    | (refine State.warmReset_keeps ?_ (by assumption))
    | (refine Keeps.getD (fun _ e => State.warmReset_keeps ?_ e) ?_)
    | with_reducible apply State.startLong_keeps
    | with_reducible apply Keeps.ite
    | (extract_lets +onlyGivenNames x; refine Keeps.cut (x := x) ?_ ?_; (on_goal 2 => intro _; clear_value x); (on_goal 1 => subst x))
    | (extract_lets +onlyGivenNames x; clear_value x)
    | split
    | fail_if_no_progress (with_reducible refine Keeps.lit ?_ (by first | exact Nat.le_refl _ | omega) (by first | exact Nat.le_refl _ | omega) (fun w hw => hw))

theorem execSave_keeps (ctx : Nat) (s : State) :
    KeepsRun s (execSave ctx s) := by
  unfold execSave
  repeat' first
    | with_reducible refine KeepsRun.next ?_
    | (intro _; try beta_reduce)
    | with_reducible assumption
    | with_reducible exact Keeps.refl _
    | with_reducible apply State.issue_keeps
    | with_reducible apply State.saveInstr_keeps

theorem execHold_keeps (ctx : Nat) (s : State) :
    KeepsRun s (execHold ctx s) := by
  unfold execHold
  repeat' first
    | with_reducible refine KeepsRun.next ?_
    | (intro _; try beta_reduce)
    | with_reducible assumption
    | with_reducible exact Keeps.refl _
    | with_reducible apply State.issue_keeps
    | with_reducible apply State.done_keeps
    | (extract_lets +onlyGivenNames x; refine Keeps.cut (x := x) ?_ ?_; (on_goal 2 => intro _; clear_value x); (on_goal 1 => subst x))
    | (extract_lets +onlyGivenNames x; clear_value x)
    | fail_if_no_progress (with_reducible refine Keeps.lit ?_ (by first | exact Nat.le_refl _ | omega) (by first | exact Nat.le_refl _ | omega) (fun w hw => hw))

theorem execFence_keeps (ctx : Nat) (s : State) :
    KeepsRun s (execFence ctx s) := by
  unfold execFence
  repeat' first
    | with_reducible refine KeepsRun.next ?_
    | (intro _; try beta_reduce)
    | with_reducible assumption
    | with_reducible exact Keeps.refl _
    | with_reducible apply State.issue_keeps
    | with_reducible apply State.fail_keeps
    | with_reducible apply State.completeR_keeps
    | with_reducible apply State.raiseFence_keeps
    | with_reducible apply State.done_keeps
    | with_reducible apply State.noteDrop_keeps
    | with_reducible apply State.stage_keeps
    | with_reducible apply Keeps.ite

theorem execForceAuth_keeps (s : State) :
    KeepsRun s (execForceAuth s) := by
  unfold execForceAuth
  repeat' first
    | with_reducible refine KeepsRun.next ?_
    | with_reducible assumption
    | with_reducible exact Keeps.refl _
    | with_reducible apply State.forceAuth_keeps
    | with_reducible apply Keeps.ite

theorem execFwSoc_keeps (soc : Nat) (s : State) :
    KeepsRun s (execFwSoc soc s) := by
  unfold execFwSoc
  repeat' first
    | with_reducible refine KeepsRun.next ?_
    | with_reducible assumption
    | with_reducible exact Keeps.refl _
    | with_reducible apply State.writePlain_keeps
    | with_reducible apply Keeps.ite

theorem execBistCtl_keeps (tile : Nat) (mask : Nat) (s : State) :
    KeepsRun s (execBistCtl tile mask s) := by
  unfold execBistCtl
  repeat' first
    | with_reducible refine KeepsRun.next ?_
    | with_reducible assumption
    | with_reducible exact Keeps.refl _
    | with_reducible apply State.writePlain_keeps
    | with_reducible apply Keeps.ite

theorem execBistComplete_keeps (tile : Nat) (endpoint : Nat) (fails : Option Nat) (s : State) :
    KeepsRun s (execBistComplete tile endpoint fails s) := by
  unfold execBistComplete
  repeat' first
    | with_reducible refine KeepsRun.next ?_
    | with_reducible assumption
    | with_reducible exact Keeps.refl _
    | with_reducible apply Keeps.ite
    | (extract_lets +onlyGivenNames x; refine Keeps.cut (x := x) ?_ ?_; (on_goal 2 => intro _; clear_value x); (on_goal 1 => subst x))
    | (extract_lets +onlyGivenNames x; clear_value x)
    | split
    | fail_if_no_progress (with_reducible refine Keeps.lit ?_ (by first | exact Nat.le_refl _ | omega) (by first | exact Nat.le_refl _ | omega) (fun w hw => hw))

end Sys2Proof.Machine
end

