-- ==== Sys2Proof/Laws/KeepsTierOps.lean ====
section
/-! SUPPORT. What the operations of Machine/TierOps.lean keep. -/

namespace Sys2Proof.Machine

theorem State.setEntry_keeps {s0 : State} {s : State} {t : Nat} {p : Nat} {w : Word} (hk : Keeps s0 s) :
    Keeps s0 (State.setEntry s t p w) := by
  unfold State.setEntry
  repeat' first
    | with_reducible assumption
    | with_reducible exact Keeps.refl _
    | with_reducible apply State.markPage_keeps
    | with_reducible apply State.setHome_keeps
    | with_reducible apply Keeps.ite

theorem State.dropFrame_keeps {s0 : State} {s : State} {t : Nat} {f : Nat} (hk : Keeps s0 s) :
    Keeps s0 (State.dropFrame s t f) := by
  unfold State.dropFrame
  repeat' first
    | with_reducible assumption
    | (intro _; try beta_reduce)
    | with_reducible exact Keeps.refl _
    | with_reducible apply State.dropWay_keeps
    | with_reducible apply State.setPt_keeps
    | with_reducible apply Keeps.foldl

theorem State.vacate_keeps {s0 : State} {s : State} {t : Nat} {f : Nat} {p : Nat} (hk : Keeps s0 s) :
    Keeps s0 (State.vacate s t f p) := by
  unfold State.vacate
  repeat' first
    | with_reducible assumption
    | with_reducible exact Keeps.refl _
    | with_reducible apply State.setFrame_keeps
    | with_reducible apply State.dropFrame_keeps

theorem State.foAdd_keeps {s0 : State} {s : State} {t : Nat} {p : Nat} (hk : Keeps s0 s) :
    Keeps s0 (State.foAdd s t p) := by
  unfold State.foAdd
  repeat' first
    | with_reducible assumption
    | with_reducible exact Keeps.refl _
    | with_reducible apply State.setTh_keeps
    | with_reducible apply Keeps.ite

theorem State.foDrop_keeps {s0 : State} {s : State} {t : Nat} {p : Nat} (hk : Keeps s0 s) :
    Keeps s0 (State.foDrop s t p) := by
  unfold State.foDrop
  repeat' first
    | with_reducible assumption
    | with_reducible exact Keeps.refl _
    | with_reducible apply State.setTh_keeps

theorem State.endMove_keeps {s0 : State} {s : State} {t : Nat} {p : Nat} (hk : Keeps s0 s) :
    Keeps s0 (State.endMove s t p) := by
  unfold State.endMove
  repeat' first
    | with_reducible assumption
    | with_reducible exact Keeps.refl _
    | with_reducible apply State.release_keeps
    | with_reducible apply State.setTt_keeps

theorem State.makeUnit_keeps {s0 : State} {s : State} {t : Nat} {key : Nat} {wire : Nat} {l : List Byte} (hk : Keeps s0 s) :
    Keeps s0 (State.makeUnit s t key wire l).2 := by
  unfold State.makeUnit
  repeat' first
    | with_reducible assumption
    | with_reducible exact Keeps.refl _
    | with_reducible apply State.gcmSeal_keeps
    | (refine Keeps.ofSnd (State.gcmSeal_keeps ?_) (by assumption))
    | split

theorem State.unitReq_keeps {s0 : State} {s : State} {t : Nat} {i : Nat} {p : Nat} {line : Nat} {frame : Nat} {write : Bool} {l : Line} (hk : Keeps s0 s) :
    Keeps s0 (State.unitReq s t i p line frame write l) := by
  unfold State.unitReq
  repeat' first
    | with_reducible assumption
    | with_reducible exact Keeps.refl _
    | with_reducible apply State.setTt_keeps
    | with_reducible apply State.makeUnit_keeps
    | (refine Keeps.ofSnd (State.makeUnit_keeps ?_) (by assumption))
    | with_reducible apply State.emit_keeps
    | with_reducible apply Keeps.ite
    | (extract_lets +onlyGivenNames x; refine Keeps.cut (x := x) ?_ ?_; (on_goal 2 => intro _; clear_value x); (on_goal 1 => subst x))
    | (extract_lets +onlyGivenNames x; clear_value x)
    | split

theorem State.mailUnit_keeps {s0 : State} {s : State} {t : Nat} {i : Nat} {type : Nat} {value : Nat} (hk : Keeps s0 s) :
    Keeps s0 (State.mailUnit s t i type value) := by
  unfold State.mailUnit
  repeat' first
    | with_reducible assumption
    | with_reducible exact Keeps.refl _
    | with_reducible apply State.makeUnit_keeps
    | (refine Keeps.ofSnd (State.makeUnit_keeps ?_) (by assumption))
    | with_reducible apply State.emit_keeps
    | (extract_lets +onlyGivenNames x; refine Keeps.cut (x := x) ?_ ?_; (on_goal 2 => intro _; clear_value x); (on_goal 1 => subst x))
    | (extract_lets +onlyGivenNames x; clear_value x)
    | split

theorem State.setLoan_keeps {s0 : State} {s : State} {t : Nat} {i : Nat} {x : Loan} (hk : Keeps s0 s) :
    Keeps s0 (State.setLoan s t i x) := by
  unfold State.setLoan
  repeat' first
    | with_reducible assumption
    | with_reducible exact Keeps.refl _
    | with_reducible apply State.setTt_keeps

theorem State.loanDone_keeps {s0 : State} {s : State} {t : Nat} {i : Nat} (hk : Keeps s0 s) :
    Keeps s0 (State.loanDone s t i) := by
  unfold State.loanDone
  repeat' first
    | with_reducible assumption
    | with_reducible exact Keeps.refl _
    | with_reducible apply State.setLoan_keeps
    | with_reducible apply Keeps.ite

theorem State.stopUnits_keeps {s0 : State} {s : State} {t : Nat} {i : Nat} (hk : Keeps s0 s) :
    Keeps s0 (State.stopUnits s t i) := by
  unfold State.stopUnits
  repeat' first
    | with_reducible assumption
    | (intro _; try beta_reduce)
    | with_reducible exact Keeps.refl _
    | with_reducible apply State.setHome_keeps
    | with_reducible apply State.setTt_keeps
    | with_reducible apply Keeps.foldl
    | with_reducible apply Keeps.foldlFst
    | with_reducible apply Keeps.foldlSnd
    | with_reducible apply Keeps.ite

theorem State.endBorrow_keeps {s0 : State} {s : State} {t : Nat} {i : Nat} (hk : Keeps s0 s) :
    Keeps s0 (State.endBorrow s t i) := by
  unfold State.endBorrow
  repeat' first
    | with_reducible assumption
    | (intro _; try beta_reduce)
    | with_reducible exact Keeps.refl _
    | with_reducible apply State.setLoan_keeps
    | with_reducible apply State.stopUnits_keeps
    | with_reducible apply State.wantMove_keeps
    | with_reducible apply State.loanDone_keeps
    | with_reducible apply State.release_keeps
    | with_reducible apply Keeps.foldl
    | with_reducible apply Keeps.foldlFst
    | with_reducible apply Keeps.foldlSnd
    | with_reducible apply Keeps.ite

theorem State.sendReturned_keeps {s0 : State} {s : State} {t : Nat} {i : Nat} (hk : Keeps s0 s) :
    Keeps s0 (State.sendReturned s t i) := by
  unfold State.sendReturned
  repeat' first
    | with_reducible assumption
    | with_reducible exact Keeps.refl _
    | with_reducible apply State.mailUnit_keeps
    | with_reducible apply State.setLoan_keeps
    | with_reducible apply Keeps.ite

theorem State.anyFrame_keeps {s0 : State} {s : State} {t : Nat} (hk : Keeps s0 s) :
    Keeps s0 (State.anyFrame s t).2 := by
  unfold State.anyFrame
  repeat' first
    | with_reducible assumption
    | with_reducible exact Keeps.refl _
    | with_reducible apply State.drawWord_keeps

theorem State.takeFrame_keeps {s0 : State} {s : State} {t : Nat} {p : Nat} {n : Nat} {f : Nat} (hk : Keeps s0 s) :
    Keeps s0 (State.takeFrame s t p n f) := by
  unfold State.takeFrame
  repeat' first
    | with_reducible assumption
    | with_reducible exact Keeps.refl _
    | with_reducible apply State.setEntry_keeps
    | with_reducible apply State.setFrame_keeps

theorem State.leaveLender_keeps {s0 : State} {s : State} {t : Nat} {w : Word} (hk : Keeps s0 s) :
    Keeps s0 (State.leaveLender s t w) := by
  unfold State.leaveLender
  repeat' first
    | with_reducible assumption
    | with_reducible exact Keeps.refl _
    | with_reducible apply State.setFrame_keeps
    | split

theorem State.fillFrame_keeps {s0 : State} {s : State} {t : Nat} {p : Nat} {f : Nat} {ls : List (Line × Bool)} (hk : Keeps s0 s) :
    Keeps s0 (State.fillFrame s t p f ls) := by
  unfold State.fillFrame
  repeat' first
    | with_reducible assumption
    | (intro _; try beta_reduce)
    | with_reducible exact Keeps.refl _
    | with_reducible apply State.putDram_keeps
    | with_reducible apply State.dropBack_keeps
    | with_reducible apply State.enterPoison_keeps
    | with_reducible apply Keeps.foldl
    | with_reducible apply Keeps.foldlFst
    | with_reducible apply Keeps.foldlSnd
    | with_reducible apply Keeps.ite

theorem State.moved_keeps {s0 : State} {s : State} {t : Nat} {p : Nat} {nb : Bool} (hk : Keeps s0 s) :
    Keeps s0 (State.moved s t p nb) := by
  unfold State.moved
  repeat' first
    | with_reducible assumption
    | with_reducible exact Keeps.refl _
    | with_reducible apply State.endMove_keeps
    | with_reducible apply State.tally_keeps

theorem State.nbPace_keeps {s0 : State} {s : State} {t : Nat} (hk : Keeps s0 s) :
    Keeps s0 (State.nbPace s t) := by
  unfold State.nbPace
  repeat' first
    | with_reducible assumption
    | with_reducible exact Keeps.refl _
    | with_reducible apply State.setTt_keeps

theorem State.moveLocal_keeps {s0 : State} {s : State} {t : Nat} {m : Move} (hk : Keeps s0 s) :
    Keeps s0 (State.moveLocal s t m) := by
  unfold State.moveLocal
  repeat' first
    | with_reducible assumption
    | (intro _; try beta_reduce)
    | with_reducible exact Keeps.refl _
    | with_reducible apply State.endMove_keeps
    | with_reducible apply State.unitReq_keeps
    | with_reducible apply State.setHome_keeps
    | with_reducible apply State.nbPace_keeps
    | with_reducible apply State.anyFrame_keeps
    | (refine Keeps.ofSnd (State.anyFrame_keeps ?_) (by assumption))
    | with_reducible apply State.moved_keeps
    | with_reducible apply State.takeFrame_keeps
    | with_reducible apply State.fillFrame_keeps
    | with_reducible apply State.leaveLender_keeps
    | with_reducible apply State.sendLrq_keeps
    | with_reducible apply State.flashRead_keeps
    | with_reducible apply State.foDrop_keeps
    | with_reducible apply Keeps.foldl
    | with_reducible apply Keeps.foldlFst
    | with_reducible apply Keeps.foldlSnd
    | with_reducible apply Keeps.ite
    | (extract_lets +onlyGivenNames x; refine Keeps.cut (x := x) ?_ ?_; (on_goal 2 => intro _; clear_value x); (on_goal 1 => subst x))
    | (extract_lets +onlyGivenNames x; clear_value x)
    | split

theorem State.moveFlash_keeps {s0 : State} {s : State} {t : Nat} {m : Move} (hk : Keeps s0 s) :
    Keeps s0 (State.moveFlash s t m) := by
  unfold State.moveFlash
  repeat' first
    | with_reducible assumption
    | with_reducible exact Keeps.refl _
    | with_reducible apply State.headDrain_keeps
    | with_reducible apply State.moved_keeps
    | with_reducible apply State.setEntry_keeps
    | with_reducible apply State.vacate_keeps
    | with_reducible apply State.foAdd_keeps
    | with_reducible apply State.loanDone_keeps
    | with_reducible apply State.leaveLender_keeps
    | with_reducible apply State.endMove_keeps
    | with_reducible apply Keeps.ite
    | (extract_lets +onlyGivenNames x; refine Keeps.cut (x := x) ?_ ?_; (on_goal 2 => intro _; clear_value x); (on_goal 1 => subst x))
    | (extract_lets +onlyGivenNames x; clear_value x)
    | split

theorem State.moveNeighbour_keeps {s0 : State} {s : State} {t : Nat} {m : Move} (hk : Keeps s0 s) :
    Keeps s0 (State.moveNeighbour s t m) := by
  unfold State.moveNeighbour
  repeat' first
    | with_reducible assumption
    | (intro _; try beta_reduce)
    | with_reducible exact Keeps.refl _
    | with_reducible apply State.endMove_keeps
    | with_reducible apply State.headDrain_keeps
    | with_reducible apply State.setFrame_keeps
    | with_reducible apply State.setHome_keeps
    | with_reducible apply State.setTt_keeps
    | with_reducible apply State.unitReq_keeps
    | with_reducible apply State.nbPace_keeps
    | with_reducible apply State.moved_keeps
    | with_reducible apply State.setEntry_keeps
    | with_reducible apply State.vacate_keeps
    | with_reducible apply Keeps.foldl
    | with_reducible apply Keeps.foldlFst
    | with_reducible apply Keeps.foldlSnd
    | with_reducible apply Keeps.ite
    | (extract_lets +onlyGivenNames x; refine Keeps.cut (x := x) ?_ ?_; (on_goal 2 => intro _; clear_value x); (on_goal 1 => subst x))
    | (extract_lets +onlyGivenNames x; clear_value x)
    | split

theorem State.doMove_keeps {s0 : State} {s : State} {t : Nat} {m : Move} (hk : Keeps s0 s) :
    Keeps s0 (State.doMove s t m) := by
  unfold State.doMove
  repeat' first
    | with_reducible assumption
    | with_reducible exact Keeps.refl _
    | with_reducible apply State.moveLocal_keeps
    | with_reducible apply State.moveNeighbour_keeps
    | with_reducible apply State.moveFlash_keeps
    | with_reducible apply Keeps.ite
    | (extract_lets +onlyGivenNames x; refine Keeps.cut (x := x) ?_ ?_; (on_goal 2 => intro _; clear_value x); (on_goal 1 => subst x))
    | (extract_lets +onlyGivenNames x; clear_value x)
    | split

theorem State.unmapExt_keeps {s0 : State} {s : State} {n : Nat} {e : Nat} (hk : Keeps s0 s) :
    Keeps s0 (State.unmapExt s n e) := by
  unfold State.unmapExt
  repeat' first
    | with_reducible assumption
    | (intro _; try beta_reduce)
    | with_reducible exact Keeps.refl _
    | with_reducible apply State.clearPage_keeps
    | with_reducible apply State.vacate_keeps
    | with_reducible apply State.leaveLender_keeps
    | with_reducible apply State.foDrop_keeps
    | with_reducible apply State.setEntry_keeps
    | with_reducible apply State.setTt_keeps
    | with_reducible apply Keeps.foldl
    | with_reducible apply Keeps.foldlFst
    | with_reducible apply Keeps.foldlSnd
    | with_reducible apply Keeps.ite
    | (extract_lets +onlyGivenNames x; refine Keeps.cut (x := x) ?_ ?_; (on_goal 2 => intro _; clear_value x); (on_goal 1 => subst x))
    | (extract_lets +onlyGivenNames x; clear_value x)
    | split

end Sys2Proof.Machine
end

