-- ==== Sys2Proof/Laws/KeepsTierRows.lean ====
section
/-! SUPPORT. What the operations of Machine/TierRows.lean keep. -/

namespace Sys2Proof.Machine

theorem execTierMove_keeps (tile : Nat) (lpage : Nat) (s : State) :
    KeepsRun s (execTierMove tile lpage s) := by
  unfold execTierMove
  repeat' first
    | with_reducible refine KeepsRun.next ?_
    | with_reducible assumption
    | with_reducible exact Keeps.refl _
    | with_reducible apply State.doMove_keeps
    | split

theorem execPendrelClear_keeps (tile : Nat) (frame : Nat) (s : State) :
    KeepsRun s (execPendrelClear tile frame s) := by
  unfold execPendrelClear
  repeat' first
    | with_reducible refine KeepsRun.next ?_
    | with_reducible assumption
    | with_reducible exact Keeps.refl _
    | with_reducible apply State.setFrame_keeps
    | with_reducible apply Keeps.ite

theorem execHtpendClear_keeps (tile : Nat) (frame : Nat) (s : State) :
    KeepsRun s (execHtpendClear tile frame s) := by
  unfold execHtpendClear
  repeat' first
    | with_reducible refine KeepsRun.next ?_
    | with_reducible assumption
    | with_reducible exact Keeps.refl _
    | with_reducible apply State.setFrame_keeps
    | with_reducible apply Keeps.ite

theorem State.evict_keeps {s0 : State} {s : State} {t : Nat} {f : Nat} (hk : Keeps s0 s) :
    Keeps s0 (State.evict s t f) := by
  unfold State.evict
  repeat' first
    | with_reducible assumption
    | with_reducible exact Keeps.refl _
    | with_reducible apply State.wantMove_keeps
    | with_reducible apply State.setTt_keeps

theorem State.clockSweep_keeps {s0 s : State} {t : Nat} {l : List Nat} (h : Keeps s0 s) : Keeps s0 (State.clockSweep s t l) := by
  induction l generalizing s with
  | nil => exact h
  | cons f l ih =>
    unfold State.clockSweep
    extract_lets o
    split
    · exact ih h
    · split
      · exact ih (State.headDrain_keeps h)
      · split
        · exact ih (State.setFrame_keeps h)
        · exact State.evict_keeps h

theorem execVictimSweep_keeps (tile : Nat) (sess : Nat) (s : State) :
    KeepsRun s (execVictimSweep tile sess s) := by
  unfold execVictimSweep
  repeat' first
    | with_reducible refine KeepsRun.next ?_
    | with_reducible assumption
    | with_reducible exact Keeps.refl _
    | with_reducible apply State.evict_keeps
    | with_reducible apply State.clockSweep_keeps
    | with_reducible apply Keeps.ite
    | split

theorem execNeighbourRead_keeps (tile : Nat) (lpage : Nat) (line : Nat) (s : State) :
    KeepsRun s (execNeighbourRead tile lpage line s) := by
  unfold execNeighbourRead
  repeat' first
    | with_reducible refine KeepsRun.next ?_
    | with_reducible assumption
    | with_reducible exact Keeps.refl _
    | with_reducible apply State.unitReq_keeps
    | with_reducible apply Keeps.ite
    | split

theorem State.unitLine_keeps {s0 : State} {s : State} {t : Nat} {u : UnitReq} {l : Line} (hk : Keeps s0 s) :
    Keeps s0 (State.unitLine s t u l) := by
  unfold State.unitLine
  repeat' first
    | with_reducible assumption
    | (intro _; try beta_reduce)
    | with_reducible exact Keeps.refl _
    | with_reducible apply State.setTt_keeps
    | with_reducible apply State.giveRead_keeps
    | with_reducible apply State.endStall_keeps
    | with_reducible apply State.settle_keeps
    | with_reducible apply Keeps.foldl
    | with_reducible apply Keeps.foldlFst
    | with_reducible apply Keeps.foldlSnd
    | with_reducible apply Keeps.ite
    | (extract_lets +onlyGivenNames x; refine Keeps.cut (x := x) ?_ ?_; (on_goal 2 => intro _; clear_value x); (on_goal 1 => subst x))
    | (extract_lets +onlyGivenNames x; (first | (have h1 := fun q => x q; clear h1; subst x; beta_reduce) | clear_value x))
    | split
    | fail_if_no_progress (with_reducible refine Keeps.lit ?_ (by first | exact Nat.le_refl _ | omega) (by first | exact Nat.le_refl _ | omega) (fun w hw => hw))

theorem State.retryUnit_keeps {s0 : State} {s : State} {t : Nat} {u : UnitReq} (hk : Keeps s0 s) :
    Keeps s0 (State.retryUnit s t u) := by
  unfold State.retryUnit
  repeat' first
    | with_reducible assumption
    | with_reducible exact Keeps.refl _
    | with_reducible apply State.unitReq_keeps
    | with_reducible apply State.setTt_keeps

theorem execUnitRequestCompletion_keeps (tile : Nat) (id : Nat) (status : Nat) (data : List Byte) (s : State) :
    KeepsRun s (execUnitRequestCompletion tile id status data s) := by
  unfold execUnitRequestCompletion
  repeat' first
    | with_reducible refine KeepsRun.next ?_
    | with_reducible assumption
    | with_reducible exact Keeps.refl _
    | with_reducible apply State.setTt_keeps
    | with_reducible apply State.sendReturned_keeps
    | with_reducible apply State.endBorrow_keeps
    | with_reducible apply State.unitLine_keeps
    | with_reducible apply State.retryUnit_keeps
    | with_reducible apply Keeps.ite
    | (extract_lets +onlyGivenNames x; refine Keeps.cut (x := x) ?_ ?_; (on_goal 2 => intro _; clear_value x); (on_goal 1 => subst x))
    | (extract_lets +onlyGivenNames x; clear_value x)
    | split

theorem execNeighbourTimeout_keeps (tile : Nat) (id : Nat) (s : State) :
    KeepsRun s (execNeighbourTimeout tile id s) := by
  unfold execNeighbourTimeout
  repeat' first
    | with_reducible refine KeepsRun.next ?_
    | with_reducible assumption
    | with_reducible exact Keeps.refl _
    | with_reducible apply State.sendReturned_keeps
    | with_reducible apply State.endBorrow_keeps
    | with_reducible apply State.setTt_keeps
    | (extract_lets +onlyGivenNames x; refine Keeps.cut (x := x) ?_ ?_; (on_goal 2 => intro _; clear_value x); (on_goal 1 => subst x))
    | (extract_lets +onlyGivenNames x; clear_value x)
    | split

theorem execNeighbourLate_keeps (tile : Nat) (id : Nat) (s : State) :
    KeepsRun s (execNeighbourLate tile id s) := by
  unfold execNeighbourLate
  repeat' first
    | with_reducible refine KeepsRun.next ?_
    | with_reducible assumption
    | with_reducible exact Keeps.refl _
    | with_reducible apply State.setTt_keeps
    | with_reducible apply Keeps.ite
    | (extract_lets +onlyGivenNames x; refine Keeps.cut (x := x) ?_ ?_; (on_goal 2 => intro _; clear_value x); (on_goal 1 => subst x))
    | (extract_lets +onlyGivenNames x; clear_value x)
    | split
    | fail_if_no_progress (with_reducible refine Keeps.lit ?_ (by first | exact Nat.le_refl _ | omega) (by first | exact Nat.le_refl _ | omega) (fun w hw => hw))

theorem State.gotOpen_keeps {s0 : State} {s : State} {t : Nat} {i : Nat} (hk : Keeps s0 s) :
    Keeps s0 (State.gotOpen s t i) := by
  unfold State.gotOpen
  repeat' first
    | with_reducible assumption
    | with_reducible exact Keeps.refl _
    | with_reducible apply State.mailUnit_keeps
    | with_reducible apply State.setLoan_keeps
    | with_reducible apply Keeps.ite

theorem State.gotOpenOk_keeps {s0 : State} {s : State} {t : Nat} {i : Nat} (hk : Keeps s0 s) :
    Keeps s0 (State.gotOpenOk s t i) := by
  unfold State.gotOpenOk
  repeat' first
    | with_reducible assumption
    | with_reducible exact Keeps.refl _
    | with_reducible apply State.setLoan_keeps
    | with_reducible apply Keeps.ite

theorem execOpen_keeps (tile : Nat) (loan : Nat) (received : Bool) (s : State) :
    KeepsRun s (execOpen tile loan received s) := by
  unfold execOpen
  repeat' first
    | with_reducible refine KeepsRun.next ?_
    | with_reducible assumption
    | with_reducible exact Keeps.refl _
    | with_reducible apply State.gotOpen_keeps
    | with_reducible apply State.mailUnit_keeps
    | with_reducible apply State.setLoan_keeps
    | with_reducible apply Keeps.ite

theorem execOpenok_keeps (tile : Nat) (loan : Nat) (s : State) :
    KeepsRun s (execOpenok tile loan s) := by
  unfold execOpenok
  repeat' first
    | with_reducible refine KeepsRun.next ?_
    | with_reducible assumption
    | with_reducible exact Keeps.refl _
    | with_reducible apply State.gotOpenOk_keeps

theorem State.gotRecall_keeps {s0 : State} {s : State} {t : Nat} {i : Nat} {notice : Nat} (hk : Keeps s0 s) :
    Keeps s0 (State.gotRecall s t i notice) := by
  unfold State.gotRecall
  repeat' first
    | with_reducible assumption
    | (intro _; try beta_reduce)
    | with_reducible exact Keeps.refl _
    | with_reducible apply State.setLoan_keeps
    | with_reducible apply State.wantMove_keeps
    | with_reducible apply Keeps.foldl
    | with_reducible apply Keeps.foldlFst
    | with_reducible apply Keeps.foldlSnd
    | with_reducible apply Keeps.ite

theorem execRecall_keeps (tile : Nat) (loan : Nat) (notice : Nat) (s : State) :
    KeepsRun s (execRecall tile loan notice s) := by
  unfold execRecall
  repeat' first
    | with_reducible refine KeepsRun.next ?_
    | with_reducible assumption
    | with_reducible exact Keeps.refl _
    | with_reducible apply State.gotRecall_keeps

theorem execRecallNoticeEnd_keeps (tile : Nat) (loan : Nat) (s : State) :
    KeepsRun s (execRecallNoticeEnd tile loan s) := by
  unfold execRecallNoticeEnd
  repeat' first
    | with_reducible refine KeepsRun.next ?_
    | with_reducible assumption
    | with_reducible exact Keeps.refl _
    | with_reducible apply State.sendReturned_keeps
    | with_reducible apply State.endBorrow_keeps
    | with_reducible apply State.setLoan_keeps
    | with_reducible apply Keeps.ite

theorem State.gotReturned_keeps {s0 : State} {s : State} {t : Nat} {i : Nat} (hk : Keeps s0 s) :
    Keeps s0 (State.gotReturned s t i) := by
  unfold State.gotReturned
  repeat' first
    | with_reducible assumption
    | with_reducible exact Keeps.refl _
    | with_reducible apply State.setLoan_keeps
    | with_reducible apply Keeps.ite

theorem execReturned_keeps (tile : Nat) (loan : Nat) (s : State) :
    KeepsRun s (execReturned tile loan s) := by
  unfold execReturned
  repeat' first
    | with_reducible refine KeepsRun.next ?_
    | with_reducible assumption
    | with_reducible exact Keeps.refl _
    | with_reducible apply State.gotReturned_keeps

theorem State.gotEnd_keeps {s0 : State} {s : State} {t : Nat} {i : Nat} (hk : Keeps s0 s) :
    Keeps s0 (State.gotEnd s t i) := by
  unfold State.gotEnd
  repeat' first
    | with_reducible assumption
    | with_reducible exact Keeps.refl _
    | with_reducible apply State.endBorrow_keeps
    | with_reducible apply State.setLoan_keeps
    | with_reducible apply Keeps.ite

theorem execEnd_keeps (tile : Nat) (loan : Nat) (s : State) :
    KeepsRun s (execEnd tile loan s) := by
  unfold execEnd
  repeat' first
    | with_reducible refine KeepsRun.next ?_
    | with_reducible assumption
    | with_reducible exact Keeps.refl _
    | with_reducible apply State.gotEnd_keeps

theorem execLoanRestage_keeps (tile : Nat) (loan : Nat) (s : State) :
    KeepsRun s (execLoanRestage tile loan s) := by
  unfold execLoanRestage
  repeat' first
    | with_reducible refine KeepsRun.next ?_
    | with_reducible assumption
    | with_reducible exact Keeps.refl _
    | with_reducible apply State.setLoan_keeps
    | with_reducible apply Keeps.ite

theorem State.mailIn_keeps {s0 : State} {s : State} {t : Nat} {i : Nat} {b : List Byte} (hk : Keeps s0 s) :
    Keeps s0 (State.mailIn s t i b) := by
  unfold State.mailIn
  repeat' first
    | with_reducible assumption
    | with_reducible exact Keeps.refl _
    | with_reducible apply State.gotOpen_keeps
    | with_reducible apply State.gotOpenOk_keeps
    | with_reducible apply State.gotRecall_keeps
    | with_reducible apply State.gotReturned_keeps
    | with_reducible apply State.gotEnd_keeps
    | split

theorem execPeerUnitRequest_keeps (tile : Nat) (link : Nat) (ld : Nat) (tag : Nat) (peer : Nat) (addr : Nat) (write : Bool) (data : List Byte) (s : State) :
    KeepsRun s (execPeerUnitRequest tile link ld tag peer addr write data s) := by
  unfold execPeerUnitRequest
  repeat' first
    | with_reducible refine KeepsRun.next ?_
    | with_reducible assumption
    | with_reducible exact Keeps.refl _
    | with_reducible apply State.emit_keeps
    | with_reducible apply State.violate_keeps
    | with_reducible apply State.mailIn_keeps
    | with_reducible apply State.queueWrite_keeps
    | with_reducible apply State.makeUnit_keeps
    | (refine Keeps.ofSnd (State.makeUnit_keeps ?_) (by assumption))
    | with_reducible apply Keeps.ite
    | (extract_lets +onlyGivenNames x; refine Keeps.cut (x := x) ?_ ?_; (on_goal 2 => intro _; clear_value x); (on_goal 1 => subst x))
    | (extract_lets +onlyGivenNames x; (first | (have h1 := fun q => x q; clear h1; subst x; beta_reduce) | clear_value x))
    | split

theorem State.prefetchLine_keeps {s0 : State} {s : State} {n : Nat} {t : Nat} {off : Nat} (hk : Keeps s0 s) :
    Keeps s0 (State.prefetchLine s n t off) := by
  unfold State.prefetchLine
  repeat' first
    | with_reducible assumption
    | with_reducible exact Keeps.refl _
    | with_reducible apply State.tally_keeps
    | with_reducible apply State.enqRead_keeps
    | with_reducible apply Keeps.ite
    | (extract_lets +onlyGivenNames x; refine Keeps.cut (x := x) ?_ ?_; (on_goal 2 => intro _; clear_value x); (on_goal 1 => subst x))
    | (extract_lets +onlyGivenNames x; clear_value x)
    | split

theorem State.enterRegion_keeps {s0 : State} {s : State} {n : Nat} {j : Nat} {k : Nat} {x : Sched} (hk : Keeps s0 s) :
    Keeps s0 (State.enterRegion s n j k x) := by
  unfold State.enterRegion
  repeat' first
    | with_reducible assumption
    | (intro _; try beta_reduce)
    | with_reducible exact Keeps.refl _
    | with_reducible apply State.setSess_keeps
    | with_reducible apply State.setTt_keeps
    | with_reducible apply State.countP_keeps
    | with_reducible apply State.wantMove_keeps
    | with_reducible apply State.prefetchLine_keeps
    | with_reducible apply Keeps.foldl
    | with_reducible apply Keeps.foldlFst
    | with_reducible apply Keeps.foldlSnd
    | with_reducible apply Keeps.ite
    | (extract_lets +onlyGivenNames x; refine Keeps.cut (x := x) ?_ ?_; (on_goal 2 => intro _; clear_value x); (on_goal 1 => subst x))
    | (extract_lets +onlyGivenNames x; (first | (have h1 := fun q => x q; clear h1; subst x; beta_reduce) | clear_value x))
    | split

theorem execRegionEntry_keeps (sess : Nat) (sched : Nat) (page : Nat) (s : State) :
    KeepsRun s (execRegionEntry sess sched page s) := by
  unfold execRegionEntry
  repeat' first
    | with_reducible refine KeepsRun.next ?_
    | with_reducible assumption
    | with_reducible exact Keeps.refl _
    | with_reducible apply State.enterRegion_keeps
    | with_reducible apply Keeps.ite
    | (extract_lets +onlyGivenNames x; refine Keeps.cut (x := x) ?_ ?_; (on_goal 2 => intro _; clear_value x); (on_goal 1 => subst x))
    | (extract_lets +onlyGivenNames x; clear_value x)
    | split

theorem State.battStep_keeps {s0 : State} {s : State} {t : Nat} {cmdItem : Bool} {raised : List BattAsk} {ended : List Nat} (hk : Keeps s0 s) :
    Keeps s0 (State.battStep s t cmdItem raised ended) := by
  unfold State.battStep
  repeat' first
    | with_reducible assumption
    | (intro _; try beta_reduce)
    | with_reducible exact Keeps.refl _
    | with_reducible apply State.tally_keeps
    | with_reducible apply State.setTt_keeps
    | with_reducible apply State.countP_keeps
    | with_reducible apply Keeps.foldl
    | with_reducible apply Keeps.foldlFst
    | with_reducible apply Keeps.foldlSnd
    | with_reducible apply Keeps.ite
    | (extract_lets +onlyGivenNames x; refine Keeps.cut (x := x) ?_ ?_; (on_goal 2 => intro _; clear_value x); (on_goal 1 => subst x))
    | (extract_lets +onlyGivenNames x; clear_value x)
    | split

theorem execBattenGrant_keeps (tile : Nat) (cmdItem : Bool) (raised : List BattAsk) (ended : List Nat) (s : State) :
    KeepsRun s (execBattenGrant tile cmdItem raised ended s) := by
  unfold execBattenGrant
  repeat' first
    | with_reducible refine KeepsRun.next ?_
    | with_reducible assumption
    | with_reducible exact Keeps.refl _
    | with_reducible apply State.battStep_keeps
    | with_reducible apply Keeps.ite

theorem execForcedWin_keeps (tile : Nat) (s : State) :
    KeepsRun s (execForcedWin tile s) := by
  unfold execForcedWin
  repeat' first
    | with_reducible refine KeepsRun.next ?_
    | with_reducible assumption
    | with_reducible exact Keeps.refl _
    | with_reducible apply State.battStep_keeps
    | with_reducible apply Keeps.ite
    | split

end Sys2Proof.Machine
end

