-- ==== Sys2Proof/Laws/KeepsSessOps.lean ====
section
/-! SUPPORT. What the operations of Machine/SessOps.lean keep. -/

namespace Sys2Proof.Machine

theorem State.pickWays_keeps {s0 s : State} {n t k m : Nat} (h : Keeps s0 s) : Keeps s0 (State.pickWays s n t k m).2 := by
  induction k generalizing s m with
  | zero => exact h
  | succ k ih => exact ih (State.drawWord_keeps h)

theorem State.dropWays_keeps {s0 s : State} {k m : Nat} (h : Keeps s0 s) : Keeps s0 (State.dropWays s k m).2 := by
  induction k generalizing s m with
  | zero => exact h
  | succ k ih => exact ih (State.drawWord_keeps h)

theorem State.giveWays_keeps {s0 : State} {s : State} {n : Nat} {t : Nat} {mask : Nat} (hk : Keeps s0 s) :
    Keeps s0 (State.giveWays s n t mask) := by
  unfold State.giveWays
  repeat' first
    | with_reducible assumption
    | (intro _; try beta_reduce)
    | with_reducible exact Keeps.refl _
    | with_reducible apply State.dropWay_keeps
    | with_reducible apply State.cleanWay_keeps
    | with_reducible apply Keeps.foldl

theorem State.grant_keeps {s0 : State} {s : State} {n : Nat} {t : Nat} {r : Resv} (hk : Keeps s0 s) :
    Keeps s0 (State.grant s n t r) := by
  unfold State.grant
  repeat' first
    | with_reducible assumption
    | with_reducible exact Keeps.refl _
    | with_reducible apply State.pickWays_keeps
    | (refine Keeps.ofSnd (State.pickWays_keeps ?_) (by assumption))
    | with_reducible apply State.dropWays_keeps
    | (refine Keeps.ofSnd (State.dropWays_keeps ?_) (by assumption))
    | with_reducible apply State.giveWays_keeps
    | with_reducible apply State.drawWord_keeps
    | (refine Keeps.ofSnd (State.drawWord_keeps ?_) (by assumption))
    | with_reducible apply State.setSess_keeps
    | with_reducible apply Keeps.ite
    | (extract_lets +onlyGivenNames x; refine Keeps.cut (x := x) ?_ ?_; (on_goal 2 => intro _; clear_value x); (on_goal 1 => subst x))
    | (extract_lets +onlyGivenNames x; clear_value x)
    | split

theorem State.clearSessParams_keeps {s0 : State} {s : State} {n : Nat} (hk : Keeps s0 s) :
    Keeps s0 (State.clearSessParams s n) := by
  unfold State.clearSessParams
  repeat' first
    | with_reducible assumption
    | with_reducible exact Keeps.refl _
    | (extract_lets +onlyGivenNames x; refine Keeps.cut (x := x) ?_ ?_; (on_goal 2 => intro _; clear_value x); (on_goal 1 => subst x))
    | (extract_lets +onlyGivenNames x; clear_value x)
    | fail_if_no_progress (with_reducible refine Keeps.lit ?_ (by first | exact Nat.le_refl _ | omega) (by first | exact Nat.le_refl _ | omega) (fun w hw => hw))

theorem State.openSess_keeps {s0 : State} {s : State} {n : Nat} {o : Nat × Nat × Nat} {cpr : Bool} {rs : List (Nat × Resv)} (hk : Keeps s0 s) :
    Keeps s0 (State.openSess s n o cpr rs) := by
  unfold State.openSess
  repeat' first
    | with_reducible assumption
    | (intro _; try beta_reduce)
    | with_reducible exact Keeps.refl _
    | with_reducible apply State.clearSessParams_keeps
    | with_reducible apply State.setSess_keeps
    | with_reducible apply State.newCtx_keeps
    | with_reducible apply State.grant_keeps
    | with_reducible apply Keeps.foldl
    | with_reducible apply Keeps.foldlFst
    | with_reducible apply Keeps.foldlSnd
    | (extract_lets +onlyGivenNames x; refine Keeps.cut (x := x) ?_ ?_; (on_goal 2 => intro _; clear_value x); (on_goal 1 => subst x))
    | fail_if_no_progress (with_reducible refine Keeps.lit ?_ (by first | exact Nat.le_refl _ | omega) (by first | exact Nat.le_refl _ | omega) (fun w hw => hw))

theorem State.unstageBinds_keeps {s0 : State} {s : State} {n : Nat} {e : Nat} {keep : List ((Nat × Nat × Nat) × Nat)} (hk : Keeps s0 s) :
    Keeps s0 (State.unstageBinds s n e keep) := by
  unfold State.unstageBinds
  repeat' first
    | with_reducible assumption
    | with_reducible exact Keeps.refl _
    | (extract_lets +onlyGivenNames x; refine Keeps.cut (x := x) ?_ ?_; (on_goal 2 => intro _; clear_value x); (on_goal 1 => subst x))
    | (extract_lets +onlyGivenNames x; clear_value x)
    | split
    | fail_if_no_progress (with_reducible refine Keeps.lit ?_ (by first | exact Nat.le_refl _ | omega) (by first | exact Nat.le_refl _ | omega) (fun w hw => hw))

theorem State.clearKey_keeps {s0 : State} {s : State} {t : Nat} {k : Nat} (hk : Keeps s0 s) :
    Keeps s0 (State.clearKey s t k) := by
  unfold State.clearKey
  repeat' first
    | with_reducible assumption
    | with_reducible exact Keeps.refl _
    | with_reducible apply State.setKey_keeps
    | (extract_lets +onlyGivenNames x; refine Keeps.cut (x := x) ?_ ?_; (on_goal 2 => intro _; clear_value x); (on_goal 1 => subst x))
    | fail_if_no_progress (with_reducible refine Keeps.lit ?_ (by first | exact Nat.le_refl _ | omega) (by first | exact Nat.le_refl _ | omega) (fun w hw => hw))

theorem State.closeSess_keeps {s0 : State} {s : State} {n : Nat} (hk : Keeps s0 s) :
    Keeps s0 (State.closeSess s n) := by
  unfold State.closeSess
  repeat' first
    | with_reducible assumption
    | (intro _; try beta_reduce)
    | with_reducible exact Keeps.refl _
    | with_reducible apply State.dropWay_keeps
    | with_reducible apply State.cleanWay_keeps
    | with_reducible apply State.unmapExt_keeps
    | with_reducible apply State.clearKey_keeps
    | with_reducible apply State.setSess_keeps
    | with_reducible apply State.clearSessParams_keeps
    | with_reducible apply Keeps.foldl
    | with_reducible apply Keeps.foldlFst
    | with_reducible apply Keeps.foldlSnd
    | with_reducible apply Keeps.ite
    | (extract_lets +onlyGivenNames x; refine Keeps.cut (x := x) ?_ ?_; (on_goal 2 => intro _; clear_value x); (on_goal 1 => subst x))
    | split
    | fail_if_no_progress (with_reducible refine Keeps.lit ?_ (by first | exact Nat.le_refl _ | omega) (by first | exact Nat.le_refl _ | omega) (fun w hw => hw))

end Sys2Proof.Machine
end

