-- ==== Sys2Proof/Laws/KeepsSessRows.lean ====
section
/-! SUPPORT. What the operations of Machine/SessRows.lean keep. -/

namespace Sys2Proof.Machine

theorem execZln_keeps (ctx : Nat) (s : State) :
    KeepsRun s (execZln ctx s) := by
  unfold execZln
  repeat' first
    | with_reducible refine KeepsRun.next ?_
    | (intro _; try beta_reduce)
    | with_reducible assumption
    | with_reducible exact Keeps.refl _
    | with_reducible apply State.issue_keeps
    | with_reducible apply State.fail_keeps
    | with_reducible apply State.done_keeps
    | with_reducible apply State.serveReq_keeps
    | with_reducible apply State.startLong_keeps
    | with_reducible apply Keeps.foldl
    | with_reducible apply Keeps.foldlFst
    | with_reducible apply Keeps.foldlSnd
    | with_reducible apply Keeps.ite
    | split

theorem State.storeLine_keeps {s0 : State} {s : State} {n : Nat} {i : Issue} {l : Line} {poison : Bool} (hk : Keeps s0 s) :
    Keeps s0 (State.storeLine s n i l poison) := by
  unfold State.storeLine
  repeat' first
    | with_reducible assumption
    | with_reducible exact Keeps.refl _
    | with_reducible apply State.fail_keeps
    | with_reducible apply State.serveReq_keeps
    | with_reducible apply State.startLong_keeps
    | split

theorem execPois_keeps (ctx : Nat) (s : State) :
    KeepsRun s (execPois ctx s) := by
  unfold execPois
  repeat' first
    | with_reducible refine KeepsRun.next ?_
    | (intro _; try beta_reduce)
    | with_reducible assumption
    | with_reducible exact Keeps.refl _
    | with_reducible apply State.issue_keeps
    | with_reducible apply State.storeLine_keeps

theorem execClrp_keeps (ctx : Nat) (s : State) :
    KeepsRun s (execClrp ctx s) := by
  unfold execClrp
  repeat' first
    | with_reducible refine KeepsRun.next ?_
    | (intro _; try beta_reduce)
    | with_reducible assumption
    | with_reducible exact Keeps.refl _
    | with_reducible apply State.issue_keeps
    | with_reducible apply State.storeLine_keeps

theorem State.mergeRange_keeps {s0 : State} {s : State} {t : Nat} {lo : Nat} {hi : Nat} (hk : Keeps s0 s) :
    Keeps s0 (State.mergeRange s t lo hi) := by
  unfold State.mergeRange
  repeat' first
    | with_reducible assumption
    | (intro _; try beta_reduce)
    | with_reducible exact Keeps.refl _
    | with_reducible apply State.mergeOut_keeps
    | with_reducible apply Keeps.foldl

theorem execFln_keeps (ctx : Nat) (s : State) :
    KeepsRun s (execFln ctx s) := by
  unfold execFln
  repeat' first
    | with_reducible refine KeepsRun.next ?_
    | (intro _; try beta_reduce)
    | with_reducible assumption
    | with_reducible exact Keeps.refl _
    | with_reducible apply State.issue_keeps
    | with_reducible apply State.fail_keeps
    | with_reducible apply State.mergeRange_keeps
    | with_reducible apply State.cleanWay_keeps
    | with_reducible apply State.dropWay_keeps
    | with_reducible apply State.kick_keeps
    | with_reducible apply State.done_keeps
    | with_reducible apply Keeps.foldl
    | with_reducible apply Keeps.foldlFst
    | with_reducible apply Keeps.foldlSnd
    | with_reducible apply Keeps.ite
    | split

theorem State.flushMerge_keeps {s0 : State} {s : State} {t : Nat} {lo : Nat} {hi : Nat} {stamp : Nat} (hk : Keeps s0 s) :
    Keeps s0 (State.flushMerge s t lo hi stamp) := by
  unfold State.flushMerge
  repeat' first
    | with_reducible assumption
    | (intro _; try beta_reduce)
    | with_reducible exact Keeps.refl _
    | with_reducible apply State.startOut_keeps
    | with_reducible apply Keeps.foldl

theorem State.pbarStep_keeps {s0 : State} {s : State} {n : Nat} {t : Nat} {lo : Nat} {hi : Nat} {flash : Bool} {stamp : Nat} (hk : Keeps s0 s) :
    Keeps s0 (State.pbarStep s n t lo hi flash stamp) := by
  unfold State.pbarStep
  repeat' first
    | with_reducible assumption
    | with_reducible exact Keeps.refl _
    | with_reducible apply State.flushMerge_keeps
    | with_reducible apply State.finishLong_keeps
    | with_reducible apply State.finishR_keeps
    | with_reducible apply Keeps.ite

theorem execPbar_keeps (ctx : Nat) (s : State) :
    KeepsRun s (execPbar ctx s) := by
  unfold execPbar
  repeat' first
    | with_reducible refine KeepsRun.next ?_
    | (intro _; try beta_reduce)
    | with_reducible assumption
    | with_reducible exact Keeps.refl _
    | with_reducible apply State.pbarStep_keeps
    | with_reducible apply State.issue_keeps
    | with_reducible apply State.fail_keeps
    | with_reducible apply State.headDrain_keeps
    | with_reducible apply State.startLong_keeps
    | with_reducible apply Keeps.foldl
    | with_reducible apply Keeps.foldlFst
    | with_reducible apply Keeps.foldlSnd
    | with_reducible apply Keeps.ite
    | (extract_lets +onlyGivenNames x; refine Keeps.cut (x := x) ?_ ?_; (on_goal 2 => intro _; clear_value x); (on_goal 1 => subst x))
    | (extract_lets +onlyGivenNames x; clear_value x)
    | split

theorem State.movpStep_keeps {s0 : State} {s : State} {n : Nat} {t : Nat} {lo : Nat} {hi : Nat} {dest : Nat} {total : Nat} (hk : Keeps s0 s) :
    Keeps s0 (State.movpStep s n t lo hi dest total) := by
  unfold State.movpStep
  repeat' first
    | with_reducible assumption
    | (intro _; try beta_reduce)
    | with_reducible exact Keeps.refl _
    | with_reducible apply State.finishR_keeps
    | with_reducible apply State.wantMove_keeps
    | with_reducible apply State.setTt_keeps
    | with_reducible apply Keeps.foldl
    | with_reducible apply Keeps.foldlFst
    | with_reducible apply Keeps.foldlSnd
    | with_reducible apply Keeps.ite

theorem execMovp_keeps (ctx : Nat) (s : State) :
    KeepsRun s (execMovp ctx s) := by
  unfold execMovp
  repeat' first
    | with_reducible refine KeepsRun.next ?_
    | (intro _; try beta_reduce)
    | with_reducible assumption
    | with_reducible exact Keeps.refl _
    | with_reducible apply State.movpStep_keeps
    | with_reducible apply State.issue_keeps
    | with_reducible apply State.fail_keeps
    | with_reducible apply State.pendRec_keeps
    | with_reducible apply State.startLong_keeps
    | with_reducible apply Keeps.ite
    | (extract_lets +onlyGivenNames x; refine Keeps.cut (x := x) ?_ ?_; (on_goal 2 => intro _; clear_value x); (on_goal 1 => subst x))
    | (extract_lets +onlyGivenNames x; clear_value x)
    | split

theorem execFlashOnlyHome_keeps (tile : Nat) (lpage : Nat) (s : State) :
    KeepsRun s (execFlashOnlyHome tile lpage s) := by
  unfold execFlashOnlyHome
  repeat' first
    | with_reducible refine KeepsRun.next ?_
    | with_reducible assumption
    | with_reducible exact Keeps.refl _
    | with_reducible apply State.doMove_keeps
    | with_reducible apply Keeps.ite
    | split

theorem execPfsc_keeps (ctx : Nat) (s : State) :
    KeepsRun s (execPfsc ctx s) := by
  unfold execPfsc
  repeat' first
    | with_reducible refine KeepsRun.next ?_
    | (intro _; try beta_reduce)
    | with_reducible assumption
    | with_reducible exact Keeps.refl _
    | with_reducible apply State.issue_keeps
    | with_reducible apply State.fail_keeps
    | with_reducible apply State.done_keeps
    | with_reducible apply State.setSess_keeps
    | with_reducible apply Keeps.ite

theorem execPfgo_keeps (ctx : Nat) (s : State) :
    KeepsRun s (execPfgo ctx s) := by
  unfold execPfgo
  repeat' first
    | with_reducible refine KeepsRun.next ?_
    | (intro _; try beta_reduce)
    | with_reducible assumption
    | with_reducible exact Keeps.refl _
    | with_reducible apply State.issue_keeps
    | with_reducible apply State.setSess_keeps
    | with_reducible apply State.fail_keeps
    | with_reducible apply State.completeR_keeps
    | with_reducible apply State.done_keeps
    | with_reducible apply State.setTt_keeps
    | with_reducible apply Keeps.foldl
    | with_reducible apply Keeps.foldlFst
    | with_reducible apply Keeps.foldlSnd
    | with_reducible apply Keeps.ite

theorem execSopen_keeps (ctx : Nat) (s : State) :
    KeepsRun s (execSopen ctx s) := by
  unfold execSopen
  repeat' first
    | with_reducible refine KeepsRun.next ?_
    | (intro _; try beta_reduce)
    | with_reducible assumption
    | with_reducible exact Keeps.refl _
    | with_reducible apply State.issue_keeps
    | with_reducible apply State.fail_keeps
    | with_reducible apply State.setSess_keeps
    | with_reducible apply State.setCtx_keeps
    | with_reducible apply State.done_keeps
    | with_reducible apply State.grant_keeps
    | with_reducible apply State.openSess_keeps
    | with_reducible apply Keeps.foldl
    | with_reducible apply Keeps.foldlFst
    | with_reducible apply Keeps.foldlSnd
    | with_reducible apply Keeps.ite

theorem State.sext_keeps {s0 : State} {s : State} {n : Nat} {i : Issue} (hk : Keeps s0 s) :
    Keeps s0 (State.sext s n i) := by
  unfold State.sext
  repeat' first
    | with_reducible assumption
    | with_reducible exact Keeps.refl _
    | with_reducible apply State.unstageBinds_keeps
    | with_reducible apply State.fail_keeps
    | with_reducible apply State.noteDrop_keeps
    | with_reducible apply State.setSess_keeps
    | with_reducible apply State.done_keeps
    | with_reducible apply State.stage_keeps
    | with_reducible apply Keeps.ite
    | (extract_lets +onlyGivenNames x; refine Keeps.cut (x := x) ?_ ?_; (on_goal 2 => intro _; clear_value x); (on_goal 1 => subst x))
    | (extract_lets +onlyGivenNames x; clear_value x)
    | split
    | fail_if_no_progress (with_reducible refine Keeps.lit ?_ (by first | exact Nat.le_refl _ | omega) (by first | exact Nat.le_refl _ | omega) (fun w hw => hw))

theorem execSext_keeps (ctx : Nat) (s : State) :
    KeepsRun s (execSext ctx s) := by
  unfold execSext
  repeat' first
    | with_reducible refine KeepsRun.next ?_
    | (intro _; try beta_reduce)
    | with_reducible assumption
    | with_reducible exact Keeps.refl _
    | with_reducible apply State.issue_keeps
    | with_reducible apply State.sext_keeps

theorem execSqos_keeps (ctx : Nat) (s : State) :
    KeepsRun s (execSqos ctx s) := by
  unfold execSqos
  repeat' first
    | with_reducible refine KeepsRun.next ?_
    | (intro _; try beta_reduce)
    | with_reducible assumption
    | with_reducible exact Keeps.refl _
    | with_reducible apply State.issueOp_keeps
    | with_reducible apply State.fail_keeps
    | with_reducible apply State.noteDrop_keeps
    | with_reducible apply State.stage_keeps
    | with_reducible apply State.done_keeps
    | with_reducible apply Keeps.ite

theorem State.scloseStep_keeps {s0 : State} {s : State} {n : Nat} {m : Nat} (hk : Keeps s0 s) :
    Keeps s0 (State.scloseStep s n m) := by
  unfold State.scloseStep
  repeat' first
    | with_reducible assumption
    | with_reducible exact Keeps.refl _
    | with_reducible apply State.finishR_keeps
    | with_reducible apply State.closeSess_keeps
    | with_reducible apply Keeps.ite

theorem State.sclose_keeps {s0 : State} {s : State} {n : Nat} {i : Issue} (hk : Keeps s0 s) :
    Keeps s0 (State.sclose s n i) := by
  unfold State.sclose
  repeat' first
    | with_reducible assumption
    | (intro _; try beta_reduce)
    | with_reducible exact Keeps.refl _
    | with_reducible apply State.fail_keeps
    | with_reducible apply State.noteDrop_keeps
    | with_reducible apply State.dropSet_keeps
    | with_reducible apply State.unstageBinds_keeps
    | with_reducible apply State.stage_keeps
    | with_reducible apply State.scloseStep_keeps
    | with_reducible apply State.pendRec_keeps
    | with_reducible apply State.startLong_keeps
    | with_reducible apply State.addTide_keeps
    | with_reducible apply State.touch_keeps
    | with_reducible apply Keeps.foldl
    | with_reducible apply Keeps.foldlFst
    | with_reducible apply Keeps.foldlSnd
    | with_reducible apply Keeps.ite

theorem execSclose_keeps (ctx : Nat) (s : State) :
    KeepsRun s (execSclose ctx s) := by
  unfold execSclose
  repeat' first
    | with_reducible refine KeepsRun.next ?_
    | (intro _; try beta_reduce)
    | with_reducible assumption
    | with_reducible exact Keeps.refl _
    | with_reducible apply State.scloseStep_keeps
    | with_reducible apply State.issue_keeps
    | with_reducible apply State.sclose_keeps
    | split

end Sys2Proof.Machine
end

