-- ==== Sys2Proof/Laws/KeepsModeOps.lean ====
section
/-! SUPPORT. What the operations of Machine/ModeOps.lean keep. -/

namespace Sys2Proof.Machine

theorem State.startLaps_keeps {s0 : State} {s : State} (hk : Keeps s0 s) :
    Keeps s0 (State.startLaps s) := by
  unfold State.startLaps
  repeat' first
    | with_reducible assumption
    | (intro _; try beta_reduce)
    | with_reducible exact Keeps.refl _
    | with_reducible apply State.setIc_keeps
    | with_reducible apply Keeps.foldl
    | with_reducible apply Keeps.foldlFst
    | with_reducible apply Keeps.foldlSnd
    | with_reducible apply Keeps.ite

theorem State.refuseWaits_keeps {s0 : State} {s : State} (hk : Keeps s0 s) :
    Keeps s0 (State.refuseWaits s) := by
  unfold State.refuseWaits
  repeat' first
    | with_reducible assumption
    | (intro _; try beta_reduce)
    | with_reducible exact Keeps.refl _
    | with_reducible apply State.refuseReq_keeps
    | with_reducible apply Keeps.foldl
    | with_reducible apply Keeps.foldlFst
    | with_reducible apply Keeps.foldlSnd
    | with_reducible apply Keeps.ite
    | (extract_lets +onlyGivenNames x; refine Keeps.cut (x := x) ?_ ?_; (on_goal 2 => intro _; clear_value x); (on_goal 1 => subst x))
    | (extract_lets +onlyGivenNames x; (first | (have h1 := fun q => x q; clear h1; subst x; beta_reduce) | clear_value x))
    | split
    | fail_if_no_progress (with_reducible refine Keeps.lit ?_ (by first | exact Nat.le_refl _ | omega) (by first | exact Nat.le_refl _ | omega) (fun w hw => hw))

theorem State.abandonHosts_keeps {s0 : State} {s : State} (hk : Keeps s0 s) :
    Keeps s0 (State.abandonHosts s) := by
  unfold State.abandonHosts
  repeat' first
    | with_reducible assumption
    | with_reducible exact Keeps.refl _
    | fail_if_no_progress (with_reducible refine Keeps.lit ?_ (by first | exact Nat.le_refl _ | omega) (by first | exact Nat.le_refl _ | omega) (fun w hw => hw))

theorem State.ackOne_keeps {s0 : State} {s : State} {u : Unack} (hk : Keeps s0 s) :
    Keeps s0 (State.ackOne s u) := by
  unfold State.ackOne
  repeat' first
    | with_reducible assumption
    | with_reducible exact Keeps.refl _
    | with_reducible apply State.decPend_keeps
    | with_reducible apply State.answer_keeps
    | (extract_lets +onlyGivenNames x; refine Keeps.cut (x := x) ?_ ?_; (on_goal 2 => intro _; clear_value x); (on_goal 1 => subst x))
    | (extract_lets +onlyGivenNames x; clear_value x)
    | split

theorem State.ackAll_keeps {s0 : State} {s : State} (hk : Keeps s0 s) :
    Keeps s0 (State.ackAll s) := by
  unfold State.ackAll
  repeat' first
    | with_reducible assumption
    | (intro _; try beta_reduce)
    | with_reducible exact Keeps.refl _
    | with_reducible apply State.ackOne_keeps
    | with_reducible apply State.setMt_keeps
    | with_reducible apply State.release_keeps
    | with_reducible apply Keeps.foldl
    | with_reducible apply Keeps.foldlFst
    | with_reducible apply Keeps.foldlSnd
    | (extract_lets +onlyGivenNames x; refine Keeps.cut (x := x) ?_ ?_; (on_goal 2 => intro _; clear_value x); (on_goal 1 => subst x))
    | (extract_lets +onlyGivenNames x; clear_value x)
    | fail_if_no_progress (with_reducible refine Keeps.lit ?_ (by first | exact Nat.le_refl _ | omega) (by first | exact Nat.le_refl _ | omega) (fun w hw => hw))

theorem State.becomeStandby_keeps {s0 : State} {s : State} {synced : Bool} (hk : Keeps s0 s) :
    Keeps s0 (State.becomeStandby s synced) := by
  unfold State.becomeStandby
  repeat' first
    | with_reducible assumption
    | (intro _; try beta_reduce)
    | with_reducible exact Keeps.refl _
    | with_reducible apply State.setMt_keeps
    | with_reducible apply Keeps.foldl

theorem State.becomeActive_keeps {s0 : State} {s : State} {synced : Bool} (hk : Keeps s0 s) :
    Keeps s0 (State.becomeActive s synced) := by
  unfold State.becomeActive
  repeat' first
    | with_reducible assumption
    | (intro _; try beta_reduce)
    | with_reducible exact Keeps.refl _
    | with_reducible apply State.setMt_keeps
    | with_reducible apply Keeps.foldl

theorem State.retryRecovery_keeps {s0 : State} {s : State} (hk : Keeps s0 s) :
    Keeps s0 (State.retryRecovery s) := by
  unfold State.retryRecovery
  repeat' first
    | with_reducible assumption
    | with_reducible exact Keeps.refl _
    | with_reducible apply State.release_keeps

theorem State.becomeFormer_keeps {s0 : State} {s : State} (hk : Keeps s0 s) :
    Keeps s0 (State.becomeFormer s) := by
  unfold State.becomeFormer
  repeat' first
    | with_reducible assumption
    | with_reducible exact Keeps.refl _
    | with_reducible apply State.abandonHosts_keeps
    | with_reducible apply Keeps.ite
    | (extract_lets +onlyGivenNames x; refine Keeps.cut (x := x) ?_ ?_; (on_goal 2 => intro _; clear_value x); (on_goal 1 => subst x))
    | (extract_lets +onlyGivenNames x; clear_value x)
    | split
    | fail_if_no_progress (with_reducible refine Keeps.lit ?_ (by first | exact Nat.le_refl _ | omega) (by first | exact Nat.le_refl _ | omega) (fun w hw => hw))

theorem State.modeEntered_keeps {s0 : State} {s : State} {old : Mode} (hk : Keeps s0 s) :
    Keeps s0 (State.modeEntered s old) := by
  unfold State.modeEntered
  repeat' first
    | with_reducible assumption
    | (intro _; try beta_reduce)
    | with_reducible exact Keeps.refl _
    | with_reducible apply State.finishAll_keeps
    | with_reducible apply State.retryRecovery_keeps
    | with_reducible apply State.becomeActive_keeps
    | with_reducible apply State.refuseWaits_keeps
    | with_reducible apply State.startLaps_keeps
    | with_reducible apply State.nameMode_keeps
    | with_reducible apply State.ackAll_keeps
    | with_reducible apply State.setMt_keeps
    | with_reducible apply State.becomeStandby_keeps
    | with_reducible apply State.becomeFormer_keeps
    | with_reducible apply State.tryTakeOver_keeps
    | with_reducible apply State.returnToBrup_keeps
    | with_reducible apply State.resumeStart_keeps
    | with_reducible apply Keeps.foldl
    | with_reducible apply Keeps.foldlFst
    | with_reducible apply Keeps.foldlSnd
    | with_reducible apply Keeps.ite
    | (extract_lets +onlyGivenNames x; refine Keeps.cut (x := x) ?_ ?_; (on_goal 2 => intro _; clear_value x); (on_goal 1 => subst x))
    | (extract_lets +onlyGivenNames x; clear_value x)
    | split
    | fail_if_no_progress (with_reducible refine Keeps.lit ?_ (by first | exact Nat.le_refl _ | omega) (by first | exact Nat.le_refl _ | omega) (fun w hw => hw))

end Sys2Proof.Machine
end

