-- ==== Sys2Proof/Laws/KeepsTideRows.lean ====
section
/-! SUPPORT. What the operations of Machine/TideRows.lean keep. -/

namespace Sys2Proof.Machine

theorem State.dcEvent_keeps {s0 : State} {s : State} {t : Nat} {d : Nat} {kind : Nat} {w : Nat} {len : Nat} (hk : Keeps s0 s) :
    Keeps s0 (State.dcEvent s t d kind w len) := by
  unfold State.dcEvent
  repeat' first
    | with_reducible assumption
    | with_reducible exact Keeps.refl _
    | with_reducible apply State.setBar_keeps
    | with_reducible apply State.emit_keeps

theorem State.bindNow_keeps {s0 : State} {s : State} {n : Nat} {e : Nat} {t : Nat} {k : Nat} {d : Nat} {w : Nat} (hk : Keeps s0 s) :
    Keeps s0 (State.bindNow s n e t k d w) := by
  unfold State.bindNow
  repeat' first
    | with_reducible assumption
    | with_reducible exact Keeps.refl _
    | with_reducible apply State.dcEvent_keeps
    | (extract_lets +onlyGivenNames x; refine Keeps.cut (x := x) ?_ ?_; (on_goal 2 => intro _; clear_value x); (on_goal 1 => subst x))
    | (extract_lets +onlyGivenNames x; clear_value x)
    | fail_if_no_progress (with_reducible refine Keeps.lit ?_ (by first | exact Nat.le_refl _ | omega) (by first | exact Nat.le_refl _ | omega) (fun w hw => hw))

theorem State.unbindNow_keeps {s0 : State} {s : State} {n : Nat} {e : Nat} {t : Nat} {k : Nat} {d : Nat} (hk : Keeps s0 s) :
    Keeps s0 (State.unbindNow s n e t k d) := by
  unfold State.unbindNow
  repeat' first
    | with_reducible assumption
    | with_reducible exact Keeps.refl _
    | with_reducible apply State.dcEvent_keeps
    | with_reducible apply Keeps.ite
    | (extract_lets +onlyGivenNames x; refine Keeps.cut (x := x) ?_ ?_; (on_goal 2 => intro _; clear_value x); (on_goal 1 => subst x))
    | (extract_lets +onlyGivenNames x; clear_value x)
    | split
    | fail_if_no_progress (with_reducible refine Keeps.lit ?_ (by first | exact Nat.le_refl _ | omega) (by first | exact Nat.le_refl _ | omega) (fun w hw => hw))

theorem State.removeExt_keeps {s0 : State} {s : State} {n : Nat} {e : Nat} (hk : Keeps s0 s) :
    Keeps s0 (State.removeExt s n e) := by
  unfold State.removeExt
  repeat' first
    | with_reducible assumption
    | with_reducible exact Keeps.refl _
    | with_reducible apply State.unmapExt_keeps
    | with_reducible apply State.setSess_keeps

theorem State.unstageLoan_keeps {s0 : State} {s : State} {t : Nat} {i : Nat} (hk : Keeps s0 s) :
    Keeps s0 (State.unstageLoan s t i) := by
  unfold State.unstageLoan
  repeat' first
    | with_reducible assumption
    | with_reducible exact Keeps.refl _
    | with_reducible apply State.mailUnit_keeps
    | with_reducible apply State.setLoan_keeps
    | with_reducible apply State.endBorrow_keeps
    | with_reducible apply Keeps.ite

theorem State.loanNow_keeps {s0 : State} {s : State} {old : List (Nat × Nat × Word)} {es : List Entry} {p : Nat × Nat} (hk : Keeps s0 s) :
    Keeps s0 (State.loanNow s old es p) := by
  unfold State.loanNow
  repeat' first
    | with_reducible assumption
    | with_reducible exact Keeps.refl _
    | with_reducible apply State.restore_keeps
    | with_reducible apply State.mailUnit_keeps
    | with_reducible apply State.setLoan_keeps
    | with_reducible apply State.unstageLoan_keeps
    | with_reducible apply Keeps.ite
    | (extract_lets +onlyGivenNames x; refine Keeps.cut (x := x) ?_ ?_; (on_goal 2 => intro _; clear_value x); (on_goal 1 => subst x))
    | (extract_lets +onlyGivenNames x; clear_value x)
    | split
    | fail_if_no_progress (with_reducible refine Keeps.lit ?_ (by first | exact Nat.le_refl _ | omega) (by first | exact Nat.le_refl _ | omega) (fun w hw => hw))

theorem State.setHtLen_keeps {s0 : State} {s : State} {t : Nat} (hk : Keeps s0 s) :
    Keeps s0 (State.setHtLen s t) := by
  unfold State.setHtLen
  repeat' first
    | with_reducible assumption
    | (intro _; try beta_reduce)
    | with_reducible exact Keeps.refl _
    | with_reducible apply State.setDt_keeps
    | with_reducible apply State.setTl_keeps
    | with_reducible apply Keeps.foldl
    | with_reducible apply Keeps.foldlFst
    | with_reducible apply Keeps.foldlSnd
    | with_reducible apply Keeps.ite

theorem State.fcNow_keeps {s0 : State} {s : State} {t : Nat} {v : Word} (hk : Keeps s0 s) :
    Keeps s0 (State.fcNow s t v) := by
  unfold State.fcNow
  repeat' first
    | with_reducible assumption
    | with_reducible exact Keeps.refl _
    | with_reducible apply State.nextRetrain_keeps
    | with_reducible apply State.setDt_keeps
    | with_reducible apply Keeps.ite

theorem State.rekeyNow_keeps {s0 : State} {s : State} {t : Nat} (hk : Keeps s0 s) :
    Keeps s0 (State.rekeyNow s t) := by
  unfold State.rekeyNow
  repeat' first
    | with_reducible assumption
    | with_reducible exact Keeps.refl _
    | with_reducible apply State.newImageKey_keeps
    | split

theorem State.arbNow_keeps {s0 : State} {s : State} (hk : Keeps s0 s) :
    Keeps s0 (State.arbNow s) := by
  unfold State.arbNow
  repeat' first
    | with_reducible assumption
    | with_reducible exact Keeps.refl _
    | with_reducible apply Keeps.ite
    | (extract_lets +onlyGivenNames x; refine Keeps.cut (x := x) ?_ ?_; (on_goal 2 => intro _; clear_value x); (on_goal 1 => subst x))
    | (extract_lets +onlyGivenNames x; (have h1 : FuseS := x); clear h1; subst x)
    | split
    | fail_if_no_progress (with_reducible refine Keeps.lit ?_ (by first | exact Nat.le_refl _ | omega) (by first | exact Nat.le_refl _ | omega) (fun w hw => by first | exact hw | exact mem_insertNat.2 (Or.inr hw)))

theorem State.fieldNow_keeps {s0 : State} {s : State} {id : Nat} {v : Word} (hk : Keeps s0 s) :
    Keeps s0 (State.fieldNow s id v) := by
  unfold State.fieldNow
  repeat' first
    | with_reducible assumption
    | (intro _; try beta_reduce)
    | with_reducible exact Keeps.refl _
    | with_reducible apply State.fcNow_keeps
    | with_reducible apply State.rekeyNow_keeps
    | with_reducible apply State.arbNow_keeps
    | with_reducible apply State.recompute_keeps
    | with_reducible apply Keeps.foldl
    | with_reducible apply Keeps.foldlFst
    | with_reducible apply Keeps.foldlSnd
    | with_reducible apply Keeps.ite
    | (extract_lets +onlyGivenNames x; refine Keeps.cut (x := x) ?_ ?_; (on_goal 2 => intro _; clear_value x); (on_goal 1 => subst x))
    | (extract_lets +onlyGivenNames x; clear_value x)
    | split
    | fail_if_no_progress (with_reducible refine Keeps.lit ?_ (by first | exact Nat.le_refl _ | omega) (by first | exact Nat.le_refl _ | omega) (fun w hw => hw))

theorem State.trigNow_keeps {s0 : State} {s : State} {inst : Nat} (hk : Keeps s0 s) :
    Keeps s0 (State.trigNow s inst) := by
  unfold State.trigNow
  repeat' first
    | with_reducible assumption
    | with_reducible exact Keeps.refl _
    | with_reducible apply State.setRt_keeps

theorem State.entryNow_keeps {s0 : State} {s : State} {tm : Nat} {c : Change} (hk : Keeps s0 s) :
    Keeps s0 (State.entryNow s tm c) := by
  unfold State.entryNow
  repeat' first
    | with_reducible assumption
    | with_reducible exact Keeps.refl _
    | with_reducible apply State.fieldNow_keeps
    | with_reducible apply State.bindNow_keeps
    | with_reducible apply State.unbindNow_keeps
    | with_reducible apply State.removeExt_keeps
    | with_reducible apply State.lowerFence_keeps
    | with_reducible apply State.raiseFence_keeps
    | with_reducible apply Keeps.ite
    | (extract_lets +onlyGivenNames x; refine Keeps.cut (x := x) ?_ ?_; (on_goal 2 => intro _; clear_value x); (on_goal 1 => subst x))
    | (extract_lets +onlyGivenNames x; clear_value x)
    | split
    | fail_if_no_progress (with_reducible refine Keeps.lit ?_ (by first | exact Nat.le_refl _ | omega) (by first | exact Nat.le_refl _ | omega) (fun w hw => hw))

theorem State.tideEffects_keeps {s0 : State} {s : State} {d : Tide} (hk : Keeps s0 s) :
    Keeps s0 (State.tideEffects s d) := by
  unfold State.tideEffects
  repeat' first
    | with_reducible assumption
    | (intro _; try beta_reduce)
    | with_reducible exact Keeps.refl _
    | with_reducible apply State.entryNow_keeps
    | with_reducible apply State.loanNow_keeps
    | with_reducible apply State.trigNow_keeps
    | with_reducible apply State.setHtLen_keeps
    | with_reducible apply Keeps.foldl
    | with_reducible apply Keeps.foldlFst
    | with_reducible apply Keeps.foldlSnd
    | (extract_lets +onlyGivenNames x; refine Keeps.cut (x := x) ?_ ?_; (on_goal 2 => intro _; clear_value x); (on_goal 1 => subst x))
    | (extract_lets +onlyGivenNames x; clear_value x)
    | fail_if_no_progress (with_reducible refine Keeps.lit ?_ (by first | exact Nat.le_refl _ | omega) (by first | exact Nat.le_refl _ | omega) (fun w hw => hw))

theorem State.swapMode_keeps {s0 : State} {s : State} {c : Change} (hk : Keeps s0 s) :
    Keeps s0 (State.swapMode s c) := by
  unfold State.swapMode
  repeat' first
    | with_reducible assumption
    | with_reducible exact Keeps.refl _
    | with_reducible apply State.enterSave_keeps
    | with_reducible apply State.dropSet_keeps
    | with_reducible apply State.setMode_keeps
    | with_reducible apply Keeps.ite
    | (extract_lets +onlyGivenNames x; refine Keeps.cut (x := x) ?_ ?_; (on_goal 2 => intro _; clear_value x); (on_goal 1 => subst x))
    | (extract_lets +onlyGivenNames x; clear_value x)
    | split
    | fail_if_no_progress (with_reducible refine Keeps.lit ?_ (by first | exact Nat.le_refl _ | omega) (by first | exact Nat.le_refl _ | omega) (fun w hw => hw))

theorem State.setTide_keeps {s0 : State} {s : State} {d : Tide} (hk : Keeps s0 s) :
    Keeps s0 (State.setTide s d) := by
  unfold State.setTide
  repeat' first
    | with_reducible assumption
    | with_reducible exact Keeps.refl _
    | with_reducible apply Keeps.ite
    | split
    | fail_if_no_progress (with_reducible refine Keeps.lit ?_ (by first | exact Nat.le_refl _ | omega) (by first | exact Nat.le_refl _ | omega) (fun w hw => hw))

theorem State.swap_keeps {s0 : State} {s : State} {d : Tide} (hk : Keeps s0 s) :
    Keeps s0 (State.swap s d) := by
  unfold State.swap
  repeat' first
    | with_reducible assumption
    | (intro _; try beta_reduce)
    | with_reducible exact Keeps.refl _
    | with_reducible apply State.setTide_keeps
    | with_reducible apply State.applyField_keeps
    | with_reducible apply State.swapMode_keeps
    | with_reducible apply Keeps.foldl

theorem State.swapTwin_keeps {s0 : State} {s : State} {d : Tide} (hk : Keeps s0 s) :
    Keeps s0 (State.swapTwin s d) := by
  unfold State.swapTwin
  repeat' first
    | with_reducible assumption
    | (intro _; try beta_reduce)
    | with_reducible exact Keeps.refl _
    | with_reducible apply State.applyField_keeps
    | with_reducible apply State.isahar_keeps
    | with_reducible apply Keeps.foldl
    | with_reducible apply Keeps.foldlFst
    | with_reducible apply Keeps.foldlSnd
    | with_reducible apply Keeps.ite
    | (extract_lets +onlyGivenNames x; refine Keeps.cut (x := x) ?_ ?_; (on_goal 2 => intro _; clear_value x); (on_goal 1 => subst x))
    | (extract_lets +onlyGivenNames x; clear_value x)
    | split
    | fail_if_no_progress (with_reducible refine Keeps.lit ?_ (by first | exact Nat.le_refl _ | omega) (by first | exact Nat.le_refl _ | omega) (fun w hw => hw))

theorem execSpringTide_keeps (s : State) :
    KeepsRun s (execSpringTide s) := by
  unfold execSpringTide
  repeat' first
    | with_reducible refine KeepsRun.next ?_
    | with_reducible assumption
    | with_reducible exact Keeps.refl _
    | with_reducible apply State.swapTwin_keeps
    | with_reducible apply State.swap_keeps
    | with_reducible apply Keeps.ite
    | split

theorem execTideConfirm_keeps (standby : Bool) (tile : Nat) (s : State) :
    KeepsRun s (execTideConfirm standby tile s) := by
  unfold execTideConfirm
  repeat' first
    | with_reducible refine KeepsRun.next ?_
    | with_reducible assumption
    | with_reducible exact Keeps.refl _
    | with_reducible apply State.setTide_keeps
    | with_reducible apply Keeps.ite
    | (extract_lets +onlyGivenNames x; refine Keeps.cut (x := x) ?_ ?_; (on_goal 2 => intro _; clear_value x); (on_goal 1 => subst x))
    | (extract_lets +onlyGivenNames x; clear_value x)
    | split

theorem State.tideOutcome_keeps {s0 : State} {s : State} {d : Tide} {ok : Bool} (hk : Keeps s0 s) :
    Keeps s0 (State.tideOutcome s d ok) := by
  unfold State.tideOutcome
  repeat' first
    | with_reducible assumption
    | with_reducible exact Keeps.refl _
    | with_reducible apply State.scloseStep_keeps
    | with_reducible apply State.setCtx_keeps
    | with_reducible apply State.emptySet_keeps
    | with_reducible apply State.finishLong_keeps
    | with_reducible apply State.finishR_keeps
    | with_reducible apply Keeps.ite
    | (extract_lets +onlyGivenNames x; refine Keeps.cut (x := x) ?_ ?_; (on_goal 2 => intro _; clear_value x); (on_goal 1 => subst x))
    | (extract_lets +onlyGivenNames x; clear_value x)
    | split
    | fail_if_no_progress (with_reducible refine Keeps.lit ?_ (by first | exact Nat.le_refl _ | omega) (by first | exact Nat.le_refl _ | omega) (fun w hw => hw))

theorem State.clearTarget_keeps {s0 : State} {s : State} (hk : Keeps s0 s) :
    Keeps s0 (State.clearTarget s) := by
  unfold State.clearTarget
  repeat' first
    | with_reducible assumption
    | with_reducible exact Keeps.refl _
    | with_reducible apply State.setParam_keeps
    | with_reducible apply Keeps.ite

theorem State.followSave_keeps {s0 : State} {s : State} (hk : Keeps s0 s) :
    Keeps s0 (State.followSave s) := by
  unfold State.followSave
  repeat' first
    | with_reducible assumption
    | with_reducible exact Keeps.refl _
    | with_reducible apply State.nameSaveTide_keeps
    | with_reducible apply Keeps.ite
    | split

theorem State.tideHeld_keeps {s0 : State} {s : State} {d : Tide} (hk : Keeps s0 s) :
    Keeps s0 (State.tideHeld s d) := by
  unfold State.tideHeld
  repeat' first
    | with_reducible assumption
    | with_reducible exact Keeps.refl _
    | with_reducible apply State.tellTide_keeps
    | with_reducible apply State.setTide_keeps
    | with_reducible apply State.tideEffects_keeps
    | with_reducible apply State.modeEntered_keeps
    | with_reducible apply State.followSave_keeps
    | with_reducible apply State.tideOutcome_keeps
    | with_reducible apply State.clearTarget_keeps
    | with_reducible apply Keeps.ite

theorem State.liftHold_keeps {s0 : State} {s : State} {d : Tide} {u : TideUnit} (hk : Keeps s0 s) :
    Keeps s0 (State.liftHold s d u) := by
  unfold State.liftHold
  repeat' first
    | with_reducible assumption
    | with_reducible exact Keeps.refl _
    | with_reducible apply State.setTide_keeps
    | with_reducible apply State.letIn_keeps
    | with_reducible apply Keeps.ite
    | (extract_lets +onlyGivenNames x; refine Keeps.cut (x := x) ?_ ?_; (on_goal 2 => intro _; clear_value x); (on_goal 1 => subst x))
    | (extract_lets +onlyGivenNames x; clear_value x)
    | split
    | fail_if_no_progress (with_reducible refine Keeps.lit ?_ (by first | exact Nat.le_refl _ | omega) (by first | exact Nat.le_refl _ | omega) (fun w hw => hw))

theorem execTideRelease_keeps (standby : Bool) (tile : Nat) (s : State) :
    KeepsRun s (execTideRelease standby tile s) := by
  unfold execTideRelease
  repeat' first
    | with_reducible refine KeepsRun.next ?_
    | with_reducible assumption
    | with_reducible exact Keeps.refl _
    | with_reducible apply State.tideHeld_keeps
    | with_reducible apply State.liftHold_keeps
    | with_reducible apply Keeps.ite
    | (extract_lets +onlyGivenNames x; refine Keeps.cut (x := x) ?_ ?_; (on_goal 2 => intro _; clear_value x); (on_goal 1 => subst x))
    | (extract_lets +onlyGivenNames x; clear_value x)
    | split

theorem State.fenceLate_keeps {s0 : State} {s : State} {u : TideUnit} (hk : Keeps s0 s) :
    Keeps s0 (State.fenceLate s u) := by
  unfold State.fenceLate
  repeat' first
    | with_reducible assumption
    | (intro _; try beta_reduce)
    | with_reducible exact Keeps.refl _
    | with_reducible apply State.raiseFence_keeps
    | with_reducible apply Keeps.foldl
    | with_reducible apply Keeps.foldlFst
    | with_reducible apply Keeps.foldlSnd
    | with_reducible apply Keeps.ite

theorem execTideConfirmDeadline_keeps (s : State) :
    KeepsRun s (execTideConfirmDeadline s) := by
  unfold execTideConfirmDeadline
  repeat' first
    | with_reducible refine KeepsRun.next ?_
    | (intro _; try beta_reduce)
    | with_reducible assumption
    | with_reducible exact Keeps.refl _
    | with_reducible apply State.setTide_keeps
    | with_reducible apply State.fenceLate_keeps
    | with_reducible apply Keeps.foldl
    | with_reducible apply Keeps.foldlFst
    | with_reducible apply Keeps.foldlSnd
    | with_reducible apply Keeps.ite
    | (extract_lets +onlyGivenNames x; refine Keeps.cut (x := x) ?_ ?_; (on_goal 2 => intro _; clear_value x); (on_goal 1 => subst x))
    | (extract_lets +onlyGivenNames x; clear_value x)
    | split

theorem State.leaveAgain_keeps {s0 : State} {s : State} (hk : Keeps s0 s) :
    Keeps s0 (State.leaveAgain s) := by
  unfold State.leaveAgain
  repeat' first
    | with_reducible assumption
    | with_reducible exact Keeps.refl _
    | with_reducible apply State.endSave_keeps
    | with_reducible apply Keeps.ite
    | split

theorem execSwapBack_keeps (s : State) :
    KeepsRun s (execSwapBack s) := by
  unfold execSwapBack
  repeat' first
    | with_reducible refine KeepsRun.next ?_
    | with_reducible assumption
    | with_reducible exact Keeps.refl _
    | with_reducible apply State.restore_keeps
    | with_reducible apply State.leaveAgain_keeps
    | with_reducible apply State.followSave_keeps
    | with_reducible apply State.tideOutcome_keeps
    | with_reducible apply State.tellTide_keeps
    | with_reducible apply State.setTide_keeps
    | with_reducible apply Keeps.ite
    | (extract_lets +onlyGivenNames x; refine Keeps.cut (x := x) ?_ ?_; (on_goal 2 => intro _; clear_value x); (on_goal 1 => subst x))
    | (extract_lets +onlyGivenNames x; clear_value x)
    | split
    | fail_if_no_progress (with_reducible refine Keeps.lit ?_ (by first | exact Nat.le_refl _ | omega) (by first | exact Nat.le_refl _ | omega) (fun w hw => hw))

theorem execMainEntry_keeps (s : State) :
    KeepsRun s (execMainEntry s) := by
  unfold execMainEntry
  repeat' first
    | with_reducible refine KeepsRun.next ?_
    | with_reducible assumption
    | with_reducible exact Keeps.refl _
    | with_reducible apply State.nameMode_keeps
    | with_reducible apply Keeps.ite

end Sys2Proof.Machine
end

