-- ==== Sys2Proof/Laws/KeepsHostRows.lean ====
section
/-! SUPPORT. What the operations of Machine/HostRows.lean keep. -/

namespace Sys2Proof.Machine

theorem execHostLinkTrained_keeps (tile : Nat) (link : Nat) (partner : Nat) (width : Nat) (s : State) :
    KeepsRun s (execHostLinkTrained tile link partner width s) := by
  unfold execHostLinkTrained
  repeat' first
    | with_reducible refine KeepsRun.next ?_
    | with_reducible assumption
    | with_reducible exact Keeps.refl _
    | with_reducible apply State.setLink_keeps
    | with_reducible apply Keeps.ite

theorem State.clearSlots_keeps {s0 : State} {s : State} {t : Nat} {ks : List Nat} (hk : Keeps s0 s) :
    Keeps s0 (State.clearSlots s t ks) := by
  unfold State.clearSlots
  repeat' first
    | with_reducible assumption
    | (intro _; try beta_reduce)
    | with_reducible exact Keeps.refl _
    | with_reducible apply State.setKey_keeps
    | with_reducible apply Keeps.foldl

theorem State.endSpdm_keeps {s0 : State} {s : State} {t : Nat} {d : Nat} (hk : Keeps s0 s) :
    Keeps s0 (State.endSpdm s t d) := by
  unfold State.endSpdm
  repeat' first
    | with_reducible assumption
    | (intro _; try beta_reduce)
    | with_reducible exact Keeps.refl _
    | with_reducible apply State.setBar_keeps
    | with_reducible apply State.clearSlots_keeps
    | with_reducible apply Keeps.foldl
    | with_reducible apply Keeps.foldlFst
    | with_reducible apply Keeps.foldlSnd
    | with_reducible apply Keeps.ite

theorem State.withdraw_keeps {s0 : State} {s : State} {u : Unack} (hk : Keeps s0 s) :
    Keeps s0 (State.withdraw s u) := by
  unfold State.withdraw
  repeat' first
    | with_reducible assumption
    | (intro _; try beta_reduce)
    | with_reducible exact Keeps.refl _
    | with_reducible apply State.decPend_keeps
    | with_reducible apply State.serveReq_keeps
    | with_reducible apply Keeps.foldl
    | with_reducible apply Keeps.foldlFst
    | with_reducible apply Keeps.foldlSnd
    | with_reducible apply Keeps.ite
    | (extract_lets +onlyGivenNames x; refine Keeps.cut (x := x) ?_ ?_; (on_goal 2 => intro _; clear_value x); (on_goal 1 => subst x))
    | (extract_lets +onlyGivenNames x; (first | (have h1 := fun q => x q; clear h1; subst x; beta_reduce) | clear_value x))
    | split
    | fail_if_no_progress (with_reducible refine Keeps.lit ?_ (by first | exact Nat.le_refl _ | omega) (by first | exact Nat.le_refl _ | omega) (fun w hw => hw))

theorem State.portReset_keeps {s0 : State} {s : State} {t : Nat} {k : Nat} (hk : Keeps s0 s) :
    Keeps s0 (State.portReset s t k) := by
  unfold State.portReset
  repeat' first
    | with_reducible assumption
    | (intro _; try beta_reduce)
    | with_reducible exact Keeps.refl _
    | with_reducible apply State.withdraw_keeps
    | with_reducible apply State.endSpdm_keeps
    | with_reducible apply State.setBar_keeps
    | with_reducible apply State.clearSlots_keeps
    | with_reducible apply State.setLink_keeps
    | with_reducible apply State.settle_keeps
    | with_reducible apply Keeps.foldl
    | with_reducible apply Keeps.foldlFst
    | with_reducible apply Keeps.foldlSnd
    | (extract_lets +onlyGivenNames x; refine Keeps.cut (x := x) ?_ ?_; (on_goal 2 => intro _; clear_value x); (on_goal 1 => subst x))
    | (extract_lets +onlyGivenNames x; (first | (have h1 := fun q => x q; clear h1; subst x; beta_reduce) | clear_value x))
    | fail_if_no_progress (with_reducible refine Keeps.lit ?_ (by first | exact Nat.le_refl _ | omega) (by first | exact Nat.le_refl _ | omega) (fun w hw => hw))

theorem execPerstAssert_keeps (tile : Nat) (link : Nat) (s : State) :
    KeepsRun s (execPerstAssert tile link s) := by
  unfold execPerstAssert
  repeat' first
    | with_reducible refine KeepsRun.next ?_
    | with_reducible assumption
    | with_reducible exact Keeps.refl _
    | with_reducible apply State.setLink_keeps
    | with_reducible apply State.portReset_keeps
    | with_reducible apply Keeps.ite

theorem execPerstDeassert_keeps (tile : Nat) (link : Nat) (s : State) :
    KeepsRun s (execPerstDeassert tile link s) := by
  unfold execPerstDeassert
  repeat' first
    | with_reducible refine KeepsRun.next ?_
    | with_reducible assumption
    | with_reducible exact Keeps.refl _
    | with_reducible apply State.setLink_keeps
    | with_reducible apply Keeps.ite

theorem execHotReset_keeps (tile : Nat) (link : Nat) (s : State) :
    KeepsRun s (execHotReset tile link s) := by
  unfold execHotReset
  repeat' first
    | with_reducible refine KeepsRun.next ?_
    | with_reducible assumption
    | with_reducible exact Keeps.refl _
    | with_reducible apply State.portReset_keeps
    | with_reducible apply State.setLink_keeps
    | with_reducible apply Keeps.ite

theorem execConfigurationRequest_keeps (tile : Nat) (link : Nat) (ld : Nat) (tag : Nat) (request : CfgReq) (s : State) :
    KeepsRun s (execConfigurationRequest tile link ld tag request s) := by
  unfold execConfigurationRequest
  repeat' first
    | with_reducible refine KeepsRun.next ?_
    | with_reducible assumption
    | with_reducible exact Keeps.refl _
    | with_reducible apply State.emit_keeps
    | with_reducible apply State.setBar_keeps
    | with_reducible apply Keeps.ite
    | (extract_lets +onlyGivenNames x; refine Keeps.cut (x := x) ?_ ?_; (on_goal 2 => intro _; clear_value x); (on_goal 1 => subst x))
    | (extract_lets +onlyGivenNames x; clear_value x)
    | split

theorem execGpfPhase1_keeps (tile : Nat) (link : Nat) (tag : Nat) (s : State) :
    KeepsRun s (execGpfPhase1 tile link tag s) := by
  unfold execGpfPhase1
  repeat' first
    | with_reducible refine KeepsRun.next ?_
    | with_reducible assumption
    | with_reducible exact Keeps.refl _
    | with_reducible apply State.emit_keeps
    | with_reducible apply Keeps.ite

theorem execGpfPhase2_keeps (tile : Nat) (link : Nat) (tag : Nat) (s : State) :
    KeepsRun s (execGpfPhase2 tile link tag s) := by
  unfold execGpfPhase2
  repeat' first
    | with_reducible refine KeepsRun.next ?_
    | with_reducible assumption
    | with_reducible exact Keeps.refl _
    | with_reducible apply State.emit_keeps
    | with_reducible apply Keeps.ite

theorem execHdmDecoderCommit_keeps (tile : Nat) (ld : Nat) (decoder : Nat) (base : Nat) (size : Nat) (ways : HdmWays) (gran : Nat) (s : State) :
    KeepsRun s (execHdmDecoderCommit tile ld decoder base size ways gran s) := by
  unfold execHdmDecoderCommit
  repeat' first
    | with_reducible refine KeepsRun.next ?_
    | with_reducible assumption
    | with_reducible exact Keeps.refl _
    | with_reducible apply State.setBar_keeps
    | with_reducible apply Keeps.ite

theorem State.pollClose_keeps {s0 : State} {s : State} (hk : Keeps s0 s) :
    Keeps s0 (State.pollClose s) := by
  unfold State.pollClose
  repeat' first
    | with_reducible assumption
    | (intro _; try beta_reduce)
    | with_reducible exact Keeps.refl _
    | with_reducible apply State.scloseStep_keeps
    | with_reducible apply Keeps.foldl
    | with_reducible apply Keeps.foldlFst
    | with_reducible apply Keeps.foldlSnd
    | split

theorem execAddDynamicCapacityResponse_keeps (tile : Nat) (ld : Nat) (window : Nat) (s : State) :
    KeepsRun s (execAddDynamicCapacityResponse tile ld window s) := by
  unfold execAddDynamicCapacityResponse
  repeat' first
    | with_reducible refine KeepsRun.next ?_
    | with_reducible assumption
    | with_reducible exact Keeps.refl _
    | with_reducible apply Keeps.ite
    | split
    | fail_if_no_progress (with_reducible refine Keeps.lit ?_ (by first | exact Nat.le_refl _ | omega) (by first | exact Nat.le_refl _ | omega) (fun w hw => hw))

theorem State.releaseWindow_keeps {s0 : State} {s : State} {t : Nat} {d : Nat} {w : Nat} (hk : Keeps s0 s) :
    Keeps s0 (State.releaseWindow s t d w) := by
  unfold State.releaseWindow
  repeat' first
    | with_reducible assumption
    | with_reducible exact Keeps.refl _
    | with_reducible apply State.pollClose_keeps
    | with_reducible apply Keeps.ite
    | split
    | fail_if_no_progress (with_reducible refine Keeps.lit ?_ (by first | exact Nat.le_refl _ | omega) (by first | exact Nat.le_refl _ | omega) (fun w hw => hw))

theorem execReleaseDynamicCapacity_keeps (tile : Nat) (ld : Nat) (window : Nat) (s : State) :
    KeepsRun s (execReleaseDynamicCapacity tile ld window s) := by
  unfold execReleaseDynamicCapacity
  repeat' first
    | with_reducible refine KeepsRun.next ?_
    | with_reducible assumption
    | with_reducible exact Keeps.refl _
    | with_reducible apply State.releaseWindow_keeps
    | with_reducible apply Keeps.ite

theorem execDcReleaseTimeout_keeps (tile : Nat) (ld : Nat) (window : Nat) (s : State) :
    KeepsRun s (execDcReleaseTimeout tile ld window s) := by
  unfold execDcReleaseTimeout
  repeat' first
    | with_reducible refine KeepsRun.next ?_
    | with_reducible assumption
    | with_reducible exact Keeps.refl _
    | with_reducible apply State.emit_keeps
    | with_reducible apply State.log_keeps
    | with_reducible apply State.releaseWindow_keeps
    | with_reducible apply Keeps.ite

theorem State.sendPoisonList_keeps {s0 : State} {s : State} {t : Nat} {d : Nat} (hk : Keeps s0 s) :
    Keeps s0 (State.sendPoisonList s t d) := by
  unfold State.sendPoisonList
  repeat' first
    | with_reducible assumption
    | with_reducible exact Keeps.refl _
    | with_reducible apply State.emit_keeps

theorem execGetPoisonList_keeps (tile : Nat) (ld : Nat) (s : State) :
    KeepsRun s (execGetPoisonList tile ld s) := by
  unfold execGetPoisonList
  repeat' first
    | with_reducible refine KeepsRun.next ?_
    | with_reducible assumption
    | with_reducible exact Keeps.refl _
    | with_reducible apply State.sendPoisonList_keeps
    | with_reducible apply Keeps.ite

theorem State.mailStore_keeps {s0 : State} {s : State} {t : Nat} {d : Nat} {a : Nat} {op : Nat} {data : Line} {poison : Bool} (hk : Keeps s0 s) :
    Keeps s0 (State.mailStore s t d a op data poison) := by
  unfold State.mailStore
  repeat' first
    | with_reducible assumption
    | with_reducible exact Keeps.refl _
    | with_reducible apply State.emit_keeps
    | with_reducible apply State.serveReq_keeps
    | with_reducible apply Keeps.ite
    | (extract_lets +onlyGivenNames x; refine Keeps.cut (x := x) ?_ ?_; (on_goal 2 => intro _; clear_value x); (on_goal 1 => subst x))
    | (extract_lets +onlyGivenNames x; clear_value x)
    | split

theorem execInjectPoison_keeps (tile : Nat) (ld : Nat) (addr : Nat) (s : State) :
    KeepsRun s (execInjectPoison tile ld addr s) := by
  unfold execInjectPoison
  repeat' first
    | with_reducible refine KeepsRun.next ?_
    | with_reducible assumption
    | with_reducible exact Keeps.refl _
    | with_reducible apply State.mailStore_keeps
    | with_reducible apply Keeps.ite

theorem execClearPoison_keeps (tile : Nat) (ld : Nat) (addr : Nat) (data : Line) (s : State) :
    KeepsRun s (execClearPoison tile ld addr data s) := by
  unfold execClearPoison
  repeat' first
    | with_reducible refine KeepsRun.next ?_
    | with_reducible assumption
    | with_reducible exact Keeps.refl _
    | with_reducible apply State.mailStore_keeps
    | with_reducible apply Keeps.ite

theorem State.sendHealth_keeps {s0 : State} {s : State} {t : Nat} {d : Nat} (hk : Keeps s0 s) :
    Keeps s0 (State.sendHealth s t d) := by
  unfold State.sendHealth
  repeat' first
    | with_reducible assumption
    | with_reducible exact Keeps.refl _
    | with_reducible apply State.emit_keeps

theorem execGetHealthInfo_keeps (tile : Nat) (ld : Nat) (s : State) :
    KeepsRun s (execGetHealthInfo tile ld s) := by
  unfold execGetHealthInfo
  repeat' first
    | with_reducible refine KeepsRun.next ?_
    | with_reducible assumption
    | with_reducible exact Keeps.refl _
    | with_reducible apply State.sendHealth_keeps
    | with_reducible apply Keeps.ite

theorem State.mailRead_keeps {s0 : State} {s : State} {t : Nat} {d : Nat} {op : Nat} (hk : Keeps s0 s) :
    Keeps s0 (State.mailRead s t d op) := by
  unfold State.mailRead
  repeat' first
    | with_reducible assumption
    | with_reducible exact Keeps.refl _
    | with_reducible apply State.emit_keeps
    | with_reducible apply State.sendHealth_keeps
    | with_reducible apply State.sendPoisonList_keeps
    | with_reducible apply Keeps.ite
    | (extract_lets +onlyGivenNames x; refine Keeps.cut (x := x) ?_ ?_; (on_goal 2 => intro _; clear_value x); (on_goal 1 => subst x))
    | (extract_lets +onlyGivenNames x; clear_value x)
    | split
    | fail_if_no_progress (with_reducible refine Keeps.lit ?_ (by first | exact Nat.le_refl _ | omega) (by first | exact Nat.le_refl _ | omega) (fun w hw => hw))

theorem State.installFresh_keeps {s0 : State} {s : State} {t : Nat} {k : Nat} {usage : Nat} (hk : Keeps s0 s) :
    Keeps s0 (State.installFresh s t k usage) := by
  unfold State.installFresh
  repeat' first
    | with_reducible assumption
    | with_reducible exact Keeps.refl _
    | with_reducible apply State.drawKey_keeps
    | (refine Keeps.ofSnd (State.drawKey_keeps ?_) (by assumption))
    | with_reducible apply State.setKey_keeps

theorem execIdeKm_keeps (tile : Nat) (ld : Nat) (keySet : Nat) (containment : Bool) (s : State) :
    KeepsRun s (execIdeKm tile ld keySet containment s) := by
  unfold execIdeKm
  repeat' first
    | with_reducible refine KeepsRun.next ?_
    | (intro _; try beta_reduce)
    | with_reducible assumption
    | with_reducible exact Keeps.refl _
    | with_reducible apply State.emit_keeps
    | with_reducible apply State.installFresh_keeps
    | with_reducible apply State.setLink_keeps
    | with_reducible apply Keeps.foldl
    | with_reducible apply Keeps.foldlFst
    | with_reducible apply Keeps.foldlSnd
    | with_reducible apply Keeps.ite

theorem execIdeIntegrityFail_keeps (tile : Nat) (link : Nat) (s : State) :
    KeepsRun s (execIdeIntegrityFail tile link s) := by
  unfold execIdeIntegrityFail
  repeat' first
    | with_reducible refine KeepsRun.next ?_
    | with_reducible assumption
    | with_reducible exact Keeps.refl _
    | with_reducible apply State.log_keeps
    | with_reducible apply State.setLink_keeps
    | with_reducible apply Keeps.ite

theorem State.spdm_keeps {s0 : State} {s : State} {t : Nat} {d : Nat} {q : Spdm} (hk : Keeps s0 s) :
    Keeps s0 (State.spdm s t d q).1 := by
  unfold State.spdm
  repeat' first
    | with_reducible assumption
    | (intro _; try beta_reduce)
    | with_reducible exact Keeps.refl _
    | with_reducible apply State.drawKey_keeps
    | (refine Keeps.ofSnd (State.drawKey_keeps ?_) (by assumption))
    | with_reducible apply State.setBar_keeps
    | with_reducible apply State.installFresh_keeps
    | with_reducible apply State.endSpdm_keeps
    | with_reducible apply Keeps.foldl
    | with_reducible apply Keeps.foldlFst
    | with_reducible apply Keeps.foldlSnd
    | with_reducible apply Keeps.ite
    | (extract_lets +onlyGivenNames x; refine Keeps.cut (x := x) ?_ ?_; (on_goal 2 => intro _; clear_value x); (on_goal 1 => subst x))
    | (extract_lets +onlyGivenNames x; clear_value x)
    | split
    | fail_if_no_progress (with_reducible refine Keeps.lit ?_ (by first | exact Nat.le_refl _ | omega) (by first | exact Nat.le_refl _ | omega) (fun w hw => hw))

theorem execSpdmRequest_keeps (tile : Nat) (ld : Nat) (request : Spdm) (s : State) :
    KeepsRun s (execSpdmRequest tile ld request s) := by
  unfold execSpdmRequest
  repeat' first
    | with_reducible refine KeepsRun.next ?_
    | with_reducible assumption
    | with_reducible exact Keeps.refl _
    | with_reducible apply State.spdm_keeps
    | (refine Keeps.ofFst (State.spdm_keeps ?_) (by assumption))
    | with_reducible apply State.emit_keeps
    | with_reducible apply Keeps.ite

theorem State.strayWrite_keeps {s0 : State} {s : State} {t : Nat} {d : Nat} (hk : Keeps s0 s) :
    Keeps s0 (State.strayWrite s t d) := by
  unfold State.strayWrite
  repeat' first
    | with_reducible assumption
    | with_reducible exact Keeps.refl _
    | with_reducible apply State.setBar_keeps

theorem State.ringDoorbell_keeps {s0 : State} {s : State} {t : Nat} {d : Nat} {value : Word} (hk : Keeps s0 s) :
    Keeps s0 (State.ringDoorbell s t d value) := by
  unfold State.ringDoorbell
  repeat' first
    | with_reducible assumption
    | with_reducible exact Keeps.refl _
    | with_reducible apply State.strayWrite_keeps
    | with_reducible apply State.moveRing_keeps
    | with_reducible apply State.setBar_keeps
    | with_reducible apply Keeps.ite

theorem execSqDoorbell_keeps (tile : Nat) (ld : Nat) (value : Word) (items : List Word) (s : State) :
    KeepsRun s (execSqDoorbell tile ld value items s) := by
  unfold execSqDoorbell
  repeat' first
    | with_reducible refine KeepsRun.next ?_
    | (intro _; try beta_reduce)
    | with_reducible assumption
    | with_reducible exact Keeps.refl _
    | with_reducible apply State.ringDoorbell_keeps
    | with_reducible apply State.setBar_keeps
    | with_reducible apply Keeps.foldl
    | with_reducible apply Keeps.foldlFst
    | with_reducible apply Keeps.foldlSnd
    | with_reducible apply Keeps.ite

theorem State.cmdGo_keeps {s0 : State} {s : State} {t : Nat} {d : Nat} {value : Word} (hk : Keeps s0 s) :
    Keeps s0 (State.cmdGo s t d value) := by
  unfold State.cmdGo
  repeat' first
    | with_reducible assumption
    | with_reducible exact Keeps.refl _
    | with_reducible apply State.strayWrite_keeps
    | with_reducible apply State.moveCmd_keeps
    | with_reducible apply State.setBar_keeps
    | with_reducible apply Keeps.ite

theorem execCmdDoorbell_keeps (tile : Nat) (ld : Nat) (value : Word) (item0 : Word) (item1 : Word) (s : State) :
    KeepsRun s (execCmdDoorbell tile ld value item0 item1 s) := by
  unfold execCmdDoorbell
  repeat' first
    | with_reducible refine KeepsRun.next ?_
    | with_reducible assumption
    | with_reducible exact Keeps.refl _
    | with_reducible apply State.cmdGo_keeps
    | with_reducible apply State.setBar_keeps
    | with_reducible apply Keeps.ite

theorem State.readTo_keeps {s0 : State} {s : State} {t : Nat} {d : Nat} {value : Word} (hk : Keeps s0 s) :
    Keeps s0 (State.readTo s t d value) := by
  unfold State.readTo
  repeat' first
    | with_reducible assumption
    | (intro _; try beta_reduce)
    | with_reducible exact Keeps.refl _
    | with_reducible apply State.setBar_keeps
    | with_reducible apply State.setCtx_keeps
    | with_reducible apply Keeps.foldl
    | with_reducible apply Keeps.foldlFst
    | with_reducible apply Keeps.foldlSnd
    | with_reducible apply Keeps.ite
    | (extract_lets +onlyGivenNames x; refine Keeps.cut (x := x) ?_ ?_; (on_goal 2 => intro _; clear_value x); (on_goal 1 => subst x))
    | (extract_lets +onlyGivenNames x; clear_value x)
    | split

theorem execCqHead_keeps (tile : Nat) (ld : Nat) (value : Word) (s : State) :
    KeepsRun s (execCqHead tile ld value s) := by
  unfold execCqHead
  repeat' first
    | with_reducible refine KeepsRun.next ?_
    | with_reducible assumption
    | with_reducible exact Keeps.refl _
    | with_reducible apply State.readTo_keeps
    | with_reducible apply Keeps.ite

theorem execVlogHead_keeps (tile : Nat) (ld : Nat) (value : Word) (s : State) :
    KeepsRun s (execVlogHead tile ld value s) := by
  unfold execVlogHead
  repeat' first
    | with_reducible refine KeepsRun.next ?_
    | with_reducible assumption
    | with_reducible exact Keeps.refl _
    | with_reducible apply State.setBar_keeps
    | with_reducible apply Keeps.ite

theorem State.barRead_keeps {s0 : State} {s : State} {t : Nat} {d : Nat} {tag : Nat} {w : Word} (hk : Keeps s0 s) :
    Keeps s0 (State.barRead s t d tag w) := by
  unfold State.barRead
  repeat' first
    | with_reducible assumption
    | with_reducible exact Keeps.refl _
    | with_reducible apply State.emit_keeps

theorem execTidemarkRead_keeps (tile : Nat) (ld : Nat) (tag : Nat) (four : Bool) (s : State) :
    KeepsRun s (execTidemarkRead tile ld tag four s) := by
  unfold execTidemarkRead
  repeat' first
    | with_reducible refine KeepsRun.next ?_
    | with_reducible assumption
    | with_reducible exact Keeps.refl _
    | with_reducible apply State.barRead_keeps
    | with_reducible apply State.setBar_keeps
    | with_reducible apply Keeps.ite

theorem execViolLost_keeps (tile : Nat) (ld : Nat) (tag : Nat) (s : State) :
    KeepsRun s (execViolLost tile ld tag s) := by
  unfold execViolLost
  repeat' first
    | with_reducible refine KeepsRun.next ?_
    | with_reducible assumption
    | with_reducible exact Keeps.refl _
    | with_reducible apply State.barRead_keeps
    | with_reducible apply State.setBar_keeps
    | with_reducible apply Keeps.ite

theorem execMsiX_keeps (tile : Nat) (ld : Nat) (vector : Nat) (s : State) :
    KeepsRun s (execMsiX tile ld vector s) := by
  unfold execMsiX
  repeat' first
    | with_reducible refine KeepsRun.next ?_
    | with_reducible assumption
    | with_reducible exact Keeps.refl _
    | with_reducible apply State.emit_keeps
    | with_reducible apply State.setBar_keeps
    | with_reducible apply Keeps.ite
    | (extract_lets +onlyGivenNames x; refine Keeps.cut (x := x) ?_ ?_; (on_goal 2 => intro _; clear_value x); (on_goal 1 => subst x))
    | (extract_lets +onlyGivenNames x; clear_value x)
    | split

theorem State.barWrite_keeps {s0 : State} {s : State} {t : Nat} {d : Nat} {off : Nat} {w : Word} (hk : Keeps s0 s) :
    Keeps s0 (State.barWrite s t d off w) := by
  unfold State.barWrite
  repeat' first
    | with_reducible assumption
    | with_reducible exact Keeps.refl _
    | with_reducible apply State.mailRead_keeps
    | with_reducible apply State.ringDoorbell_keeps
    | with_reducible apply State.cmdGo_keeps
    | with_reducible apply State.readTo_keeps
    | with_reducible apply State.setBar_keeps
    | with_reducible apply Keeps.ite
    | (extract_lets +onlyGivenNames x; refine Keeps.cut (x := x) ?_ ?_; (on_goal 2 => intro _; clear_value x); (on_goal 1 => subst x))
    | (extract_lets +onlyGivenNames x; clear_value x)
    | split

theorem State.barReadAt_keeps {s0 : State} {s : State} {t : Nat} {d : Nat} {tag : Nat} {off : Nat} {n : Nat} (hk : Keeps s0 s) :
    Keeps s0 (State.barReadAt s t d tag off n) := by
  unfold State.barReadAt
  repeat' first
    | with_reducible assumption
    | with_reducible exact Keeps.refl _
    | with_reducible apply State.setBar_keeps
    | with_reducible apply State.emit_keeps
    | with_reducible apply Keeps.ite

theorem State.barWriteAt_keeps {s0 : State} {s : State} {t : Nat} {d : Nat} {off : Nat} {n : Nat} {bytes : List Byte} (hk : Keeps s0 s) :
    Keeps s0 (State.barWriteAt s t d off n bytes) := by
  unfold State.barWriteAt
  repeat' first
    | with_reducible assumption
    | (intro _; try beta_reduce)
    | with_reducible exact Keeps.refl _
    | with_reducible apply State.barWrite_keeps
    | with_reducible apply Keeps.foldl
    | with_reducible apply Keeps.foldlFst
    | with_reducible apply Keeps.foldlSnd
    | with_reducible apply Keeps.ite

theorem execUioRequest_keeps (via : Via) (write : Bool) (tile : Nat) (link : Nat) (ld : Nat) (tag : Nat) (hpa : Nat) (len : Nat) (data : List Byte) (s : State) :
    KeepsRun s (execUioRequest via write tile link ld tag hpa len data s) := by
  unfold execUioRequest
  repeat' first
    | with_reducible refine KeepsRun.next ?_
    | (intro _; try beta_reduce)
    | with_reducible assumption
    | with_reducible exact Keeps.refl _
    | with_reducible apply State.emit_keeps
    | with_reducible apply State.barWriteAt_keeps
    | with_reducible apply State.barReadAt_keeps
    | with_reducible apply State.uioRequest_keeps
    | with_reducible apply Keeps.foldl
    | with_reducible apply Keeps.foldlFst
    | with_reducible apply Keeps.foldlSnd
    | with_reducible apply Keeps.ite
    | (extract_lets +onlyGivenNames x; refine Keeps.cut (x := x) ?_ ?_; (on_goal 2 => intro _; clear_value x); (on_goal 1 => subst x))
    | (extract_lets +onlyGivenNames x; clear_value x)
    | split

end Sys2Proof.Machine
end

