-- ==== Sys2Proof/Laws/KeepsDrainRows.lean ====
section
/-! SUPPORT. What the operations of Machine/DrainRows.lean keep. -/

namespace Sys2Proof.Machine

theorem State.queueMerge_keeps {s0 : State} {s : State} {t : Nat} {seg : Nat} (hk : Keeps s0 s) :
    Keeps s0 (State.queueMerge s t seg) := by
  unfold State.queueMerge
  repeat' first
    | with_reducible assumption
    | with_reducible exact Keeps.refl _
    | with_reducible apply State.setTh_keeps
    | with_reducible apply Keeps.ite

theorem State.takePage_keeps {s0 : State} {s : State} {t : Nat} {page : Nat} (hk : Keeps s0 s) :
    Keeps s0 (State.takePage s t page) := by
  unfold State.takePage
  repeat' first
    | with_reducible assumption
    | with_reducible exact Keeps.refl _
    | with_reducible apply State.setTl_keeps
    | with_reducible apply State.cleanRange_keeps
    | with_reducible apply State.sendLrq_keeps
    | with_reducible apply State.putRec_keeps
    | with_reducible apply Keeps.ite

theorem State.holdMerge_keeps {s0 : State} {s : State} {t : Nat} {p : Nat} (hk : Keeps s0 s) :
    Keeps s0 (State.holdMerge s t p) := by
  unfold State.holdMerge
  repeat' first
    | with_reducible assumption
    | with_reducible exact Keeps.refl _
    | with_reducible apply State.queueMerge_keeps
    | with_reducible apply Keeps.ite

theorem State.headFirst_keeps {s0 : State} {s : State} {t : Nat} {h : Option Nat} (hk : Keeps s0 s) :
    Keeps s0 (State.headFirst s t h) := by
  unfold State.headFirst
  repeat' first
    | with_reducible assumption
    | with_reducible exact Keeps.refl _
    | with_reducible apply State.headDrain_keeps
    | split

theorem State.passOver_keeps {s0 : State} {s : State} {t : Nat} {p : Nat} (hk : Keeps s0 s) :
    Keeps s0 (State.passOver s t p) := by
  unfold State.passOver
  repeat' first
    | with_reducible assumption
    | with_reducible exact Keeps.refl _
    | with_reducible apply State.holdMerge_keeps
    | with_reducible apply State.headFirst_keeps

theorem execDrainPage_keeps (tile : Nat) (s : State) :
    KeepsRun s (execDrainPage tile s) := by
  unfold execDrainPage
  repeat' first
    | with_reducible refine KeepsRun.next ?_
    | (intro _; try beta_reduce)
    | with_reducible assumption
    | with_reducible exact Keeps.refl _
    | with_reducible apply State.passOver_keeps
    | with_reducible apply State.takePage_keeps
    | with_reducible apply Keeps.foldl
    | with_reducible apply Keeps.foldlFst
    | with_reducible apply Keeps.foldlSnd
    | with_reducible apply Keeps.ite
    | (extract_lets +onlyGivenNames x; refine Keeps.cut (x := x) ?_ ?_; (on_goal 2 => intro _; clear_value x); (on_goal 1 => subst x))
    | (extract_lets +onlyGivenNames x; (first | (have h1 := fun q => x q; clear h1; subst x; beta_reduce) | clear_value x))
    | split

theorem execRecordVerified_keeps (tile : Nat) (page : Nat) (s : State) :
    KeepsRun s (execRecordVerified tile page s) := by
  unfold execRecordVerified
  repeat' first
    | with_reducible refine KeepsRun.next ?_
    | with_reducible assumption
    | with_reducible exact Keeps.refl _
    | with_reducible apply State.recordDone_keeps
    | with_reducible apply State.tally_keeps
    | with_reducible apply Keeps.ite
    | (extract_lets +onlyGivenNames x; refine Keeps.cut (x := x) ?_ ?_; (on_goal 2 => intro _; clear_value x); (on_goal 1 => subst x))
    | (extract_lets +onlyGivenNames x; clear_value x)
    | split

theorem execDrainRateUpdate_keeps (tile : Nat) (s : State) :
    KeepsRun s (execDrainRateUpdate tile s) := by
  unfold execDrainRateUpdate
  repeat' first
    | with_reducible refine KeepsRun.next ?_
    | with_reducible assumption
    | with_reducible exact Keeps.refl _
    | with_reducible apply State.setTl_keeps
    | with_reducible apply State.recompute_keeps
    | with_reducible apply State.setTh_keeps
    | with_reducible apply Keeps.ite

theorem execBudgetRecompute_keeps (tile : Nat) (s : State) :
    KeepsRun s (execBudgetRecompute tile s) := by
  unfold execBudgetRecompute
  repeat' first
    | with_reducible refine KeepsRun.next ?_
    | with_reducible assumption
    | with_reducible exact Keeps.refl _
    | with_reducible apply State.recompute_keeps
    | with_reducible apply Keeps.ite

theorem State.retire_keeps {s0 : State} {s : State} {t : Nat} {b : Nat} {m : Nat} (hk : Keeps s0 s) :
    Keeps s0 (State.retire s t b m) := by
  unfold State.retire
  repeat' first
    | with_reducible assumption
    | with_reducible exact Keeps.refl _
    | with_reducible apply State.setPhys_keeps
    | with_reducible apply State.setTh_keeps
    | with_reducible apply State.raiseFence_keeps
    | with_reducible apply Keeps.ite

theorem State.releaseIdle_keeps {s0 : State} {s : State} {t : Nat} (hk : Keeps s0 s) :
    Keeps s0 (State.releaseIdle s t) := by
  unfold State.releaseIdle
  repeat' first
    | with_reducible assumption
    | (intro _; try beta_reduce)
    | with_reducible exact Keeps.refl _
    | with_reducible apply State.releaseBlk_keeps
    | with_reducible apply Keeps.foldl
    | with_reducible apply Keeps.foldlFst
    | with_reducible apply Keeps.foldlSnd
    | with_reducible apply Keeps.ite

theorem State.dropSources_keeps {s0 : State} {s : State} {t : Nat} {l : List TRec} (hk : Keeps s0 s) :
    Keeps s0 (State.dropSources s t l) := by
  unfold State.dropSources
  repeat' first
    | with_reducible assumption
    | with_reducible exact Keeps.refl _
    | with_reducible apply State.setTh_keeps

theorem State.endFret_keeps {s0 : State} {s : State} {t : Nat} (hk : Keeps s0 s) :
    Keeps s0 (State.endFret s t) := by
  unfold State.endFret
  repeat' first
    | with_reducible assumption
    | (intro _; try beta_reduce)
    | with_reducible exact Keeps.refl _
    | with_reducible apply State.finishR_keeps
    | with_reducible apply State.retire_keeps
    | with_reducible apply Keeps.foldl
    | with_reducible apply Keeps.foldlFst
    | with_reducible apply Keeps.foldlSnd
    | with_reducible apply Keeps.ite
    | split

theorem execThatchRowProgrammed_keeps (tile : Nat) (blk : Nat) (took : Nat) (s : State) :
    KeepsRun s (execThatchRowProgrammed tile blk took s) := by
  unfold execThatchRowProgrammed
  repeat' first
    | with_reducible refine KeepsRun.next ?_
    | (intro _; try beta_reduce)
    | with_reducible assumption
    | with_reducible exact Keeps.refl _
    | with_reducible apply State.setTh_keeps
    | with_reducible apply State.tally_keeps
    | with_reducible apply State.recompute_keeps
    | with_reducible apply State.endFret_keeps
    | with_reducible apply State.releaseIdle_keeps
    | with_reducible apply State.dropSources_keeps
    | with_reducible apply State.programRow_keeps
    | with_reducible apply Keeps.foldl
    | with_reducible apply Keeps.foldlFst
    | with_reducible apply Keeps.foldlSnd
    | with_reducible apply Keeps.ite
    | (extract_lets +onlyGivenNames x; refine Keeps.cut (x := x) ?_ ?_; (on_goal 2 => intro _; clear_value x); (on_goal 1 => subst x))
    | (extract_lets +onlyGivenNames x; clear_value x)
    | split

theorem execRowAgeExpiry_keeps (tile : Nat) (blk : Nat) (s : State) :
    KeepsRun s (execRowAgeExpiry tile blk s) := by
  unfold execRowAgeExpiry
  repeat' first
    | with_reducible refine KeepsRun.next ?_
    | with_reducible assumption
    | with_reducible exact Keeps.refl _
    | with_reducible apply State.padRow_keeps
    | with_reducible apply Keeps.ite
    | (extract_lets +onlyGivenNames x; refine Keeps.cut (x := x) ?_ ?_; (on_goal 2 => intro _; clear_value x); (on_goal 1 => subst x))
    | (extract_lets +onlyGivenNames x; clear_value x)
    | split

theorem execProgramFail_keeps (tile : Nat) (blk : Nat) (member : Nat) (s : State) :
    KeepsRun s (execProgramFail tile blk member s) := by
  unfold execProgramFail
  repeat' first
    | with_reducible refine KeepsRun.next ?_
    | with_reducible assumption
    | with_reducible exact Keeps.refl _
    | with_reducible apply State.recompute_keeps
    | with_reducible apply State.retire_keeps
    | with_reducible apply State.rewriteRows_keeps
    | with_reducible apply Keeps.ite

theorem execBlockVerify_keeps (tile : Nat) (blk : Nat) (s : State) :
    KeepsRun s (execBlockVerify tile blk s) := by
  unfold execBlockVerify
  repeat' first
    | with_reducible refine KeepsRun.next ?_
    | with_reducible assumption
    | with_reducible exact Keeps.refl _
    | with_reducible apply State.setPhys_keeps
    | with_reducible apply State.setBlk_keeps
    | with_reducible apply Keeps.ite

theorem execParityRebuild_keeps (tile : Nat) (blk : Nat) (slot : Nat) (s : State) :
    KeepsRun s (execParityRebuild tile blk slot s) := by
  unfold execParityRebuild
  repeat' first
    | with_reducible refine KeepsRun.next ?_
    | (intro _; try beta_reduce)
    | with_reducible assumption
    | with_reducible exact Keeps.refl _
    | with_reducible apply State.setBlk_keeps
    | with_reducible apply State.putRec_keeps
    | with_reducible apply State.log_keeps
    | with_reducible apply Keeps.foldl
    | with_reducible apply Keeps.foldlFst
    | with_reducible apply Keeps.foldlSnd
    | with_reducible apply Keeps.ite
    | (extract_lets +onlyGivenNames x; refine Keeps.cut (x := x) ?_ ?_; (on_goal 2 => intro _; clear_value x); (on_goal 1 => subst x))
    | (extract_lets +onlyGivenNames x; (first | (have h1 := fun q => x q; clear h1; subst x; beta_reduce) | clear_value x))
    | split

theorem State.startMerge_keeps {s0 : State} {s : State} {t : Nat} {m : SegMerge} (hk : Keeps s0 s) :
    Keeps s0 (State.startMerge s t m) := by
  unfold State.startMerge
  repeat' first
    | with_reducible assumption
    | with_reducible exact Keeps.refl _
    | with_reducible apply State.openBlk_keeps
    | with_reducible apply State.setTh_keeps

theorem execMergeStart_keeps (tile : Nat) (seg : Nat) (s : State) :
    KeepsRun s (execMergeStart tile seg s) := by
  unfold execMergeStart
  repeat' first
    | with_reducible refine KeepsRun.next ?_
    | with_reducible assumption
    | with_reducible exact Keeps.refl _
    | with_reducible apply State.recompute_keeps
    | with_reducible apply State.startMerge_keeps
    | with_reducible apply Keeps.ite
    | (extract_lets +onlyGivenNames x; refine Keeps.cut (x := x) ?_ ?_; (on_goal 2 => intro _; clear_value x); (on_goal 1 => subst x))
    | (extract_lets +onlyGivenNames x; clear_value x)
    | split

theorem execMapSwitch_keeps (tile : Nat) (seg : Nat) (s : State) :
    KeepsRun s (execMapSwitch tile seg s) := by
  unfold execMapSwitch
  repeat' first
    | with_reducible refine KeepsRun.next ?_
    | with_reducible assumption
    | with_reducible exact Keeps.refl _
    | with_reducible apply State.setTh_keeps
    | with_reducible apply State.releaseBlk_keeps
    | with_reducible apply State.setPhys_keeps
    | with_reducible apply State.setBlk_keeps
    | with_reducible apply State.releaseIdle_keeps
    | with_reducible apply State.recompute_keeps
    | with_reducible apply State.endFret_keeps
    | with_reducible apply State.tally_keeps
    | with_reducible apply Keeps.ite
    | (extract_lets +onlyGivenNames x; refine Keeps.cut (x := x) ?_ ?_; (on_goal 2 => intro _; clear_value x); (on_goal 1 => subst x))
    | (extract_lets +onlyGivenNames x; (first | (have h1 := fun q => x q; clear h1; subst x; beta_reduce) | clear_value x))
    | split

theorem State.failFret_keeps {s0 : State} {s : State} {t : Nat} {seg : Nat} (hk : Keeps s0 s) :
    Keeps s0 (State.failFret s t seg) := by
  unfold State.failFret
  repeat' first
    | with_reducible assumption
    | (intro _; try beta_reduce)
    | with_reducible exact Keeps.refl _
    | with_reducible apply State.finishR_keeps
    | with_reducible apply Keeps.foldl
    | with_reducible apply Keeps.foldlFst
    | with_reducible apply Keeps.foldlSnd
    | with_reducible apply Keeps.ite
    | split

theorem execMergeTargetFail_keeps (tile : Nat) (blk : Nat) (member : Nat) (s : State) :
    KeepsRun s (execMergeTargetFail tile blk member s) := by
  unfold execMergeTargetFail
  repeat' first
    | with_reducible refine KeepsRun.next ?_
    | with_reducible assumption
    | with_reducible exact Keeps.refl _
    | with_reducible apply State.tally_keeps
    | with_reducible apply State.retire_keeps
    | with_reducible apply State.releaseBlk_keeps
    | with_reducible apply State.startMerge_keeps
    | with_reducible apply State.setTh_keeps
    | with_reducible apply State.failFret_keeps
    | with_reducible apply State.log_keeps
    | with_reducible apply State.rewriteRows_keeps
    | with_reducible apply State.releaseIdle_keeps
    | with_reducible apply State.setBlk_keeps
    | with_reducible apply Keeps.ite
    | (extract_lets +onlyGivenNames x; refine Keeps.cut (x := x) ?_ ?_; (on_goal 2 => intro _; clear_value x); (on_goal 1 => subst x))
    | (extract_lets +onlyGivenNames x; clear_value x)
    | split

theorem execMergeRetry_keeps (tile : Nat) (seg : Nat) (s : State) :
    KeepsRun s (execMergeRetry tile seg s) := by
  unfold execMergeRetry
  repeat' first
    | with_reducible refine KeepsRun.next ?_
    | with_reducible assumption
    | with_reducible exact Keeps.refl _
    | with_reducible apply State.startMerge_keeps
    | with_reducible apply Keeps.ite
    | split

theorem execRelocation_keeps (tile : Nat) (blk : Nat) (s : State) :
    KeepsRun s (execRelocation tile blk s) := by
  unfold execRelocation
  repeat' first
    | with_reducible refine KeepsRun.next ?_
    | (intro _; try beta_reduce)
    | with_reducible assumption
    | with_reducible exact Keeps.refl _
    | with_reducible apply State.setBlk_keeps
    | with_reducible apply State.queueMerge_keeps
    | with_reducible apply State.putRec_keeps
    | with_reducible apply State.recompute_keeps
    | with_reducible apply State.releaseIdle_keeps
    | with_reducible apply State.tally_keeps
    | with_reducible apply Keeps.foldl
    | with_reducible apply Keeps.foldlFst
    | with_reducible apply Keeps.foldlSnd
    | with_reducible apply Keeps.ite

theorem execReadRetry_keeps (tile : Nat) (blk : Nat) (member : Nat) (retries : Nat) (soft : Bool) (sess : Nat) (s : State) :
    KeepsRun s (execReadRetry tile blk member retries soft sess s) := by
  unfold execReadRetry
  repeat' first
    | with_reducible refine KeepsRun.next ?_
    | (intro _; try beta_reduce)
    | with_reducible assumption
    | with_reducible exact Keeps.refl _
    | with_reducible apply State.tally_keeps
    | with_reducible apply State.addStall_keeps
    | with_reducible apply State.setBlk_keeps
    | with_reducible apply Keeps.foldl
    | with_reducible apply Keeps.foldlFst
    | with_reducible apply Keeps.foldlSnd
    | with_reducible apply Keeps.ite

theorem execFlashScrub_keeps (tile : Nat) (blk : Nat) (retries : Nat) (s : State) :
    KeepsRun s (execFlashScrub tile blk retries s) := by
  unfold execFlashScrub
  repeat' first
    | with_reducible refine KeepsRun.next ?_
    | with_reducible assumption
    | with_reducible exact Keeps.refl _
    | with_reducible apply State.setBlk_keeps
    | with_reducible apply Keeps.ite

theorem State.lostFlash_keeps {s0 : State} {s : State} {t : Nat} {lp : Nat} (hk : Keeps s0 s) :
    Keeps s0 (State.lostFlash s t lp) := by
  unfold State.lostFlash
  repeat' first
    | with_reducible assumption
    | (intro _; try beta_reduce)
    | with_reducible exact Keeps.refl _
    | with_reducible apply State.sendLrq_keeps
    | with_reducible apply State.enterPoison_keeps
    | with_reducible apply State.log_keeps
    | with_reducible apply State.putRec_keeps
    | with_reducible apply Keeps.foldl
    | with_reducible apply Keeps.foldlFst
    | with_reducible apply Keeps.foldlSnd
    | with_reducible apply Keeps.ite

theorem execUnreadableRecord_keeps (tile : Nat) (blk : Nat) (slot : Nat) (merge : Bool) (s : State) :
    KeepsRun s (execUnreadableRecord tile blk slot merge s) := by
  unfold execUnreadableRecord
  repeat' first
    | with_reducible refine KeepsRun.next ?_
    | with_reducible assumption
    | with_reducible exact Keeps.refl _
    | with_reducible apply State.setTh_keeps
    | with_reducible apply State.log_keeps
    | with_reducible apply State.markPage_keeps
    | with_reducible apply State.lostFlash_keeps
    | with_reducible apply State.raiseFence_keeps
    | with_reducible apply Keeps.ite
    | (extract_lets +onlyGivenNames x; refine Keeps.cut (x := x) ?_ ?_; (on_goal 2 => intro _; clear_value x); (on_goal 1 => subst x))
    | (extract_lets +onlyGivenNames x; clear_value x)
    | split

theorem execErase_keeps (tile : Nat) (blk : Nat) (member : Nat) (s : State) :
    KeepsRun s (execErase tile blk member s) := by
  unfold execErase
  repeat' first
    | with_reducible refine KeepsRun.next ?_
    | with_reducible assumption
    | with_reducible exact Keeps.refl _
    | with_reducible apply State.setPhys_keeps
    | with_reducible apply State.setTh_keeps
    | with_reducible apply Keeps.ite

theorem execEraseSuspend_keeps (tile : Nat) (blk : Nat) (member : Nat) (resumes : Bool) (s : State) :
    KeepsRun s (execEraseSuspend tile blk member resumes s) := by
  unfold execEraseSuspend
  repeat' first
    | with_reducible refine KeepsRun.next ?_
    | with_reducible assumption
    | with_reducible exact Keeps.refl _
    | with_reducible apply State.setPhys_keeps
    | with_reducible apply Keeps.ite

theorem State.freeSealed_keeps {s0 : State} {s : State} {t : Nat} {b : Nat} (hk : Keeps s0 s) :
    Keeps s0 (State.freeSealed s t b) := by
  unfold State.freeSealed
  repeat' first
    | with_reducible assumption
    | with_reducible exact Keeps.refl _
    | with_reducible apply State.setBlk_keeps
    | with_reducible apply Keeps.ite

theorem State.dropImageKeys_keeps {s0 : State} {s : State} {t : Nat} (hk : Keeps s0 s) :
    Keeps s0 (State.dropImageKeys s t) := by
  unfold State.dropImageKeys
  repeat' first
    | with_reducible assumption
    | (intro _; try beta_reduce)
    | with_reducible exact Keeps.refl _
    | with_reducible apply State.clearKey_keeps
    | with_reducible apply Keeps.foldl
    | with_reducible apply Keeps.foldlFst
    | with_reducible apply Keeps.foldlSnd
    | with_reducible apply Keeps.ite

theorem execEraseComplete_keeps (tile : Nat) (blk : Nat) (member : Nat) (ok : Bool) (s : State) :
    KeepsRun s (execEraseComplete tile blk member ok s) := by
  unfold execEraseComplete
  repeat' first
    | with_reducible refine KeepsRun.next ?_
    | with_reducible assumption
    | with_reducible exact Keeps.refl _
    | with_reducible apply State.setTh_keeps
    | with_reducible apply State.recompute_keeps
    | with_reducible apply State.dropImageKeys_keeps
    | with_reducible apply State.freeSealed_keeps
    | with_reducible apply State.setPhys_keeps
    | with_reducible apply State.retire_keeps
    | with_reducible apply Keeps.ite

theorem execTargetNotReady_keeps (tile : Nat) (target : Nat) (s : State) :
    KeepsRun s (execTargetNotReady tile target s) := by
  unfold execTargetNotReady
  repeat' first
    | with_reducible refine KeepsRun.next ?_
    | with_reducible assumption
    | with_reducible exact Keeps.refl _
    | with_reducible apply State.raiseFence_keeps
    | with_reducible apply Keeps.ite

theorem execBacklogWalk_keeps (tile : Nat) (s : State) :
    KeepsRun s (execBacklogWalk tile s) := by
  unfold execBacklogWalk
  repeat' first
    | with_reducible refine KeepsRun.next ?_
    | with_reducible assumption
    | with_reducible exact Keeps.refl _
    | with_reducible apply State.setTh_keeps
    | with_reducible apply State.markPage_keeps
    | with_reducible apply State.lostFlash_keeps
    | with_reducible apply Keeps.ite
    | (extract_lets +onlyGivenNames x; refine Keeps.cut (x := x) ?_ ?_; (on_goal 2 => intro _; clear_value x); (on_goal 1 => subst x))
    | (extract_lets +onlyGivenNames x; (first | (have h1 := fun q => x q; clear h1; subst x; beta_reduce) | clear_value x))
    | split

theorem execCheckpointPersist_keeps (tile : Nat) (s : State) :
    KeepsRun s (execCheckpointPersist tile s) := by
  unfold execCheckpointPersist
  repeat' first
    | with_reducible refine KeepsRun.next ?_
    | with_reducible assumption
    | with_reducible exact Keeps.refl _
    | with_reducible apply State.persistCkpt_keeps
    | with_reducible apply Keeps.ite

end Sys2Proof.Machine
end

