-- ==== Sys2Proof/Laws/KeepsMirRows.lean ====
section
/-! SUPPORT. What the operations of Machine/MirRows.lean keep. -/

namespace Sys2Proof.Machine

theorem State.slew_keeps {s0 : State} {s : State} {diff : Int} (hk : Keeps s0 s) :
    Keeps s0 (State.slew s diff).2 := by
  unfold State.slew
  repeat' first
    | with_reducible assumption
    | with_reducible exact Keeps.refl _
    | with_reducible apply State.drawWord_keeps

theorem State.slewMaster_keeps {s0 : State} {s : State} {diff : Int} (hk : Keeps s0 s) :
    Keeps s0 (State.slewMaster s diff) := by
  unfold State.slewMaster
  repeat' first
    | with_reducible assumption
    | with_reducible exact Keeps.refl _
    | with_reducible apply State.slew_keeps
    | (refine Keeps.ofSnd (State.slew_keeps ?_) (by assumption))
    | (extract_lets +onlyGivenNames x; refine Keeps.cut (x := x) ?_ ?_; (on_goal 2 => intro _; clear_value x); (on_goal 1 => subst x))
    | (extract_lets +onlyGivenNames x; clear_value x)
    | split
    | fail_if_no_progress (with_reducible refine Keeps.lit ?_ (by first | exact Nat.le_refl _ | omega) (by first | exact Nat.le_refl _ | omega) (fun w hw => hw))

theorem State.stepForward_keeps {s0 : State} {s : State} {goal : Nat} (hk : Keeps s0 s) :
    Keeps s0 (State.stepForward s goal) := by
  unfold State.stepForward
  repeat' first
    | with_reducible assumption
    | with_reducible exact Keeps.refl _
    | with_reducible apply State.floorTo_keeps
    | with_reducible apply Keeps.ite
    | (extract_lets +onlyGivenNames x; refine Keeps.cut (x := x) ?_ ?_; (on_goal 2 => intro _; clear_value x); (on_goal 1 => subst x))
    | (extract_lets +onlyGivenNames x; clear_value x)
    | split
    | fail_if_no_progress (with_reducible refine Keeps.lit ?_ (by first | exact Nat.le_refl _ | omega) (by first | exact Nat.le_refl _ | omega) (fun w hw => hw))

theorem execIsaharLinkTrained_keeps (tile : Nat) (part : Nat) (tiles : Nat) (pair : Nat) (master : Nat) (flight : Nat) (rate : Nat) (gcm : Bool) (ok0 : Bool) (ok1 : Bool) (s : State) :
    KeepsRun s (execIsaharLinkTrained tile part tiles pair master flight rate gcm ok0 ok1 s) := by
  unfold execIsaharLinkTrained
  repeat' first
    | with_reducible refine KeepsRun.next ?_
    | (intro _; try beta_reduce)
    | with_reducible assumption
    | with_reducible exact Keeps.refl _
    | with_reducible apply State.raiseFence_keeps
    | with_reducible apply State.setMt_keeps
    | with_reducible apply State.stepForward_keeps
    | with_reducible apply State.sendSummary_keeps
    | with_reducible apply Keeps.foldl
    | with_reducible apply Keeps.foldlFst
    | with_reducible apply Keeps.foldlSnd
    | with_reducible apply Keeps.ite
    | (extract_lets +onlyGivenNames x; refine Keeps.cut (x := x) ?_ ?_; (on_goal 2 => intro _; clear_value x); (on_goal 1 => subst x))
    | (extract_lets +onlyGivenNames x; (first | (have h1 := fun q => x q; clear h1; subst x; beta_reduce) | clear_value x))
    | split
    | fail_if_no_progress (with_reducible refine Keeps.lit ?_ (by first | exact Nat.le_refl _ | omega) (by first | exact Nat.le_refl _ | omega) (fun w hw => hw))

theorem execFrameSend_keeps (tile : Nat) (path : Nat) (s : State) :
    KeepsRun s (execFrameSend tile path s) := by
  unfold execFrameSend
  repeat' first
    | with_reducible refine KeepsRun.next ?_
    | (intro _; try beta_reduce)
    | with_reducible assumption
    | with_reducible exact Keeps.refl _
    | with_reducible apply State.sendMsg_keeps
    | with_reducible apply State.setMt_keeps
    | with_reducible apply State.tally_keeps
    | with_reducible apply Keeps.foldl
    | with_reducible apply Keeps.foldlFst
    | with_reducible apply Keeps.foldlSnd
    | with_reducible apply Keeps.ite
    | (extract_lets +onlyGivenNames x; refine Keeps.cut (x := x) ?_ ?_; (on_goal 2 => intro _; clear_value x); (on_goal 1 => subst x))
    | (extract_lets +onlyGivenNames x; clear_value x)
    | split

theorem State.setReasm_keeps {s0 : State} {s : State} {t : Nat} {m : Reasm} {keep : Bool} (hk : Keeps s0 s) :
    Keeps s0 (State.setReasm s t m keep) := by
  unfold State.setReasm
  repeat' first
    | with_reducible assumption
    | with_reducible exact Keeps.refl _
    | with_reducible apply State.setMt_keeps

theorem State.takeKey_keeps {s0 : State} {s : State} {t : Nat} {b : List Byte} (hk : Keeps s0 s) :
    Keeps s0 (State.takeKey s t b) := by
  unfold State.takeKey
  repeat' first
    | with_reducible assumption
    | with_reducible exact Keeps.refl _
    | with_reducible apply State.setKey_keeps
    | with_reducible apply Keeps.ite
    | (extract_lets +onlyGivenNames x; refine Keeps.cut (x := x) ?_ ?_; (on_goal 2 => intro _; clear_value x); (on_goal 1 => subst x))
    | (extract_lets +onlyGivenNames x; clear_value x)
    | split

theorem execMessageReassembly_keeps (tile : Nat) (path : Nat) (envelope : Nat) (payload : List Byte) (s : State) :
    KeepsRun s (execMessageReassembly tile path envelope payload s) := by
  unfold execMessageReassembly
  repeat' first
    | with_reducible refine KeepsRun.next ?_
    | with_reducible assumption
    | with_reducible exact Keeps.refl _
    | with_reducible apply State.setMt_keeps
    | with_reducible apply State.raiseFence_keeps
    | with_reducible apply State.setReasm_keeps
    | with_reducible apply State.takeKey_keeps
    | with_reducible apply State.isahar_keeps
    | with_reducible apply Keeps.ite
    | (extract_lets +onlyGivenNames x; refine Keeps.cut (x := x) ?_ ?_; (on_goal 2 => intro _; clear_value x); (on_goal 1 => subst x))
    | (extract_lets +onlyGivenNames x; clear_value x)
    | split

theorem execReassemblyTimeout_keeps (tile : Nat) (chan : Nat) (msgid : Nat) (s : State) :
    KeepsRun s (execReassemblyTimeout tile chan msgid s) := by
  unfold execReassemblyTimeout
  repeat' first
    | with_reducible refine KeepsRun.next ?_
    | with_reducible assumption
    | with_reducible exact Keeps.refl _
    | with_reducible apply State.isahar_keeps
    | with_reducible apply State.setReasm_keeps
    | with_reducible apply Keeps.ite
    | split

theorem execNak_keeps (tile : Nat) (chan : Nat) (msgid : Nat) (bitmap : Nat) (s : State) :
    KeepsRun s (execNak tile chan msgid bitmap s) := by
  unfold execNak
  repeat' first
    | with_reducible refine KeepsRun.next ?_
    | (intro _; try beta_reduce)
    | with_reducible assumption
    | with_reducible exact Keeps.refl _
    | with_reducible apply State.setMt_keeps
    | with_reducible apply State.tally_keeps
    | with_reducible apply State.raiseFence_keeps
    | with_reducible apply State.emit_keeps
    | with_reducible apply Keeps.foldl
    | with_reducible apply Keeps.foldlFst
    | with_reducible apply Keeps.foldlSnd
    | with_reducible apply Keeps.ite
    | (extract_lets +onlyGivenNames x; refine Keeps.cut (x := x) ?_ ?_; (on_goal 2 => intro _; clear_value x); (on_goal 1 => subst x))
    | (extract_lets +onlyGivenNames x; (first | (have h1 := fun q => x q; clear h1; subst x; beta_reduce) | clear_value x))
    | split

theorem State.receiveFrame_keeps {s0 s : State} {t : Nat} {f : Frame} (h : Keeps s0 s) : Keeps s0 (State.receiveFrame s t f).1 := by
  unfold State.receiveFrame
  dsimp only
  repeat' split
  all_goals first
    | exact h
    | exact State.setMt_keeps h

theorem State.sendReceipts_keeps {s0 s : State} {t n : Nat} {l : List Word} (h : Keeps s0 s) : Keeps s0 (State.sendReceipts s t n l) := by
  induction n generalizing s l with
  | zero => exact h
  | succ n ih =>
    unfold State.sendReceipts
    split
    · exact h
    · exact ih (State.isahar_keeps h)

theorem execFrameReceive_keeps (tile : Nat) (s : State) :
    KeepsRun s (execFrameReceive tile s) := by
  unfold execFrameReceive
  repeat' first
    | with_reducible refine KeepsRun.next ?_
    | (intro _; try beta_reduce)
    | with_reducible assumption
    | with_reducible exact Keeps.refl _
    | with_reducible apply State.setMt_keeps
    | with_reducible apply State.receiveFrame_keeps
    | (refine Keeps.ofFst (State.receiveFrame_keeps ?_) (by assumption))
    | with_reducible apply State.sendReceipts_keeps
    | with_reducible apply Keeps.foldl
    | with_reducible apply Keeps.foldlFst
    | with_reducible apply Keeps.foldlSnd
    | (extract_lets +onlyGivenNames x; refine Keeps.cut (x := x) ?_ ?_; (on_goal 2 => intro _; clear_value x); (on_goal 1 => subst x))
    | (extract_lets +onlyGivenNames x; clear_value x)
    | split

theorem State.ackSeq_keeps {s0 : State} {s : State} {t : Nat} {seq : Nat} (hk : Keeps s0 s) :
    Keeps s0 (State.ackSeq s t seq) := by
  unfold State.ackSeq
  repeat' first
    | with_reducible assumption
    | with_reducible exact Keeps.refl _
    | with_reducible apply State.ackOne_keeps
    | with_reducible apply Keeps.ite
    | (extract_lets +onlyGivenNames x; refine Keeps.cut (x := x) ?_ ?_; (on_goal 2 => intro _; clear_value x); (on_goal 1 => subst x))
    | (extract_lets +onlyGivenNames x; clear_value x)
    | split
    | fail_if_no_progress (with_reducible refine Keeps.lit ?_ (by first | exact Nat.le_refl _ | omega) (by first | exact Nat.le_refl _ | omega) (fun w hw => hw))

theorem State.freeSlots_keeps {s0 : State} {s : State} {t : Nat} {applied : Nat} (hk : Keeps s0 s) :
    Keeps s0 (State.freeSlots s t applied) := by
  unfold State.freeSlots
  repeat' first
    | with_reducible assumption
    | with_reducible exact Keeps.refl _
    | with_reducible apply State.kick_keeps
    | with_reducible apply State.setMt_keeps

theorem execReceipt_keeps (tile : Nat) (gen : Nat) (seq : Nat) (status : Nat) (applied : Nat) (s : State) :
    KeepsRun s (execReceipt tile gen seq status applied s) := by
  unfold execReceipt
  repeat' first
    | with_reducible refine KeepsRun.next ?_
    | with_reducible assumption
    | with_reducible exact Keeps.refl _
    | with_reducible apply State.nameMode_keeps
    | with_reducible apply State.setMt_keeps
    | with_reducible apply State.ackSeq_keeps
    | with_reducible apply State.freeSlots_keeps
    | with_reducible apply Keeps.ite
    | (extract_lets +onlyGivenNames x; refine Keeps.cut (x := x) ?_ ?_; (on_goal 2 => intro _; clear_value x); (on_goal 1 => subst x))
    | (extract_lets +onlyGivenNames x; clear_value x)
    | split
    | fail_if_no_progress (with_reducible refine Keeps.lit ?_ (by first | exact Nat.le_refl _ | omega) (by first | exact Nat.le_refl _ | omega) (fun w hw => hw))

theorem execReceiptTimeout_keeps (tile : Nat) (seq : Nat) (s : State) :
    KeepsRun s (execReceiptTimeout tile seq s) := by
  unfold execReceiptTimeout
  repeat' first
    | with_reducible refine KeepsRun.next ?_
    | with_reducible assumption
    | with_reducible exact Keeps.refl _
    | with_reducible apply State.tally_keeps
    | with_reducible apply State.setMt_keeps
    | with_reducible apply Keeps.ite
    | (extract_lets +onlyGivenNames x; refine Keeps.cut (x := x) ?_ ?_; (on_goal 2 => intro _; clear_value x); (on_goal 1 => subst x))
    | (extract_lets +onlyGivenNames x; clear_value x)
    | split

theorem execFrameApply_keeps (tile : Nat) (s : State) :
    KeepsRun s (execFrameApply tile s) := by
  unfold execFrameApply
  repeat' first
    | with_reducible refine KeepsRun.next ?_
    | with_reducible assumption
    | with_reducible exact Keeps.refl _
    | with_reducible apply State.tryTakeOver_keeps
    | with_reducible apply State.afterApply_keeps
    | with_reducible apply State.applyNext_keeps
    | with_reducible apply Keeps.ite

theorem execLrq_keeps (tile : Nat) (off : Nat) (count : Nat) (seqR : Nat) (s : State) :
    KeepsRun s (execLrq tile off count seqR s) := by
  unfold execLrq
  repeat' first
    | with_reducible refine KeepsRun.next ?_
    | with_reducible assumption
    | with_reducible exact Keeps.refl _
    | with_reducible apply State.setMt_keeps
    | with_reducible apply State.answerLrq_keeps
    | with_reducible apply Keeps.ite

theorem State.takeLrs_keeps {s0 : State} {s : State} {t : Nat} {why : LrqFor} {w : LrsWait} (hk : Keeps s0 s) :
    Keeps s0 (State.takeLrs s t why w) := by
  unfold State.takeLrs
  repeat' first
    | with_reducible assumption
    | (intro _; try beta_reduce)
    | with_reducible exact Keeps.refl _
    | with_reducible apply State.storeLrs_keeps
    | with_reducible apply State.reloadTo_keeps
    | with_reducible apply State.putRec_keeps
    | with_reducible apply State.anyFrame_keeps
    | (refine Keeps.ofSnd (State.anyFrame_keeps ?_) (by assumption))
    | with_reducible apply State.endMove_keeps
    | with_reducible apply State.foDrop_keeps
    | with_reducible apply State.markPage_keeps
    | with_reducible apply State.takeFrame_keeps
    | with_reducible apply State.fillFrame_keeps
    | with_reducible apply State.setTh_keeps
    | with_reducible apply Keeps.foldl
    | with_reducible apply Keeps.foldlFst
    | with_reducible apply Keeps.foldlSnd
    | with_reducible apply Keeps.ite
    | (extract_lets +onlyGivenNames x; refine Keeps.cut (x := x) ?_ ?_; (on_goal 2 => intro _; clear_value x); (on_goal 1 => subst x))
    | (extract_lets +onlyGivenNames x; clear_value x)
    | split

theorem execLrs_keeps (tile : Nat) (s : State) :
    KeepsRun s (execLrs tile s) := by
  unfold execLrs
  repeat' first
    | with_reducible refine KeepsRun.next ?_
    | with_reducible assumption
    | with_reducible exact Keeps.refl _
    | with_reducible apply State.setMt_keeps
    | with_reducible apply State.takeLrs_keeps
    | with_reducible apply Keeps.ite
    | (extract_lets +onlyGivenNames x; refine Keeps.cut (x := x) ?_ ?_; (on_goal 2 => intro _; clear_value x); (on_goal 1 => subst x))
    | (extract_lets +onlyGivenNames x; (first | (have h1 := fun q => x q; clear h1; subst x; beta_reduce) | clear_value x))
    | split

theorem execLrqTimeout_keeps (tile : Nat) (off : Nat) (s : State) :
    KeepsRun s (execLrqTimeout tile off s) := by
  unfold execLrqTimeout
  repeat' first
    | with_reducible refine KeepsRun.next ?_
    | with_reducible assumption
    | with_reducible exact Keeps.refl _
    | with_reducible apply State.isahar_keeps
    | with_reducible apply State.setMt_keeps
    | with_reducible apply Keeps.ite
    | (extract_lets +onlyGivenNames x; refine Keeps.cut (x := x) ?_ ?_; (on_goal 2 => intro _; clear_value x); (on_goal 1 => subst x))
    | (extract_lets +onlyGivenNames x; clear_value x)
    | split

theorem State.sendCkpt_keeps {s0 : State} {s : State} {t : Nat} (hk : Keeps s0 s) :
    Keeps s0 (State.sendCkpt s t) := by
  unfold State.sendCkpt
  repeat' first
    | with_reducible assumption
    | with_reducible exact Keeps.refl _
    | with_reducible apply State.isahar_keeps
    | with_reducible apply State.setMt_keeps

theorem execCkpt_keeps (tile : Nat) (seq : Nat) (tm : Nat) (digest : Word) (s : State) :
    KeepsRun s (execCkpt tile seq tm digest s) := by
  unfold execCkpt
  repeat' first
    | with_reducible refine KeepsRun.next ?_
    | with_reducible assumption
    | with_reducible exact Keeps.refl _
    | with_reducible apply State.sendCkpt_keeps
    | with_reducible apply State.compareCkpt_keeps
    | with_reducible apply State.setMt_keeps
    | with_reducible apply Keeps.ite

theorem State.endMdig_keeps {s0 : State} {s : State} {t : Nat} {st : Status} {r : Word} (hk : Keeps s0 s) :
    Keeps s0 (State.endMdig s t st r) := by
  unfold State.endMdig
  repeat' first
    | with_reducible assumption
    | with_reducible exact Keeps.refl _
    | with_reducible apply State.finishAll_keeps

theorem execCkok_keeps (tile : Nat) (seq : Nat) (tm : Nat) (digest : Word) (s : State) :
    KeepsRun s (execCkok tile seq tm digest s) := by
  unfold execCkok
  repeat' first
    | with_reducible refine KeepsRun.next ?_
    | with_reducible assumption
    | with_reducible exact Keeps.refl _
    | with_reducible apply State.setMt_keeps
    | with_reducible apply State.freeSlots_keeps
    | with_reducible apply State.endMdig_keeps
    | with_reducible apply Keeps.ite

theorem State.beginResync_keeps {s0 : State} {s : State} {t : Nat} {full : Bool} (hk : Keeps s0 s) :
    Keeps s0 (State.beginResync s t full) := by
  unfold State.beginResync
  repeat' first
    | with_reducible assumption
    | with_reducible exact Keeps.refl _
    | with_reducible apply State.setMt_keeps

theorem execCkbad_keeps (tile : Nat) (seq : Nat) (s : State) :
    KeepsRun s (execCkbad tile seq s) := by
  unfold execCkbad
  repeat' first
    | with_reducible refine KeepsRun.next ?_
    | with_reducible assumption
    | with_reducible exact Keeps.refl _
    | with_reducible apply State.endMdig_keeps
    | with_reducible apply State.beginResync_keeps
    | with_reducible apply Keeps.ite

theorem execSync_keeps (tile : Nat) (path : Nat) (tidemark : Nat) (s : State) :
    KeepsRun s (execSync tile path tidemark s) := by
  unfold execSync
  repeat' first
    | with_reducible refine KeepsRun.next ?_
    | with_reducible assumption
    | with_reducible exact Keeps.refl _
    | with_reducible apply State.setMt_keeps
    | with_reducible apply State.slewMaster_keeps
    | with_reducible apply Keeps.ite

theorem execHeartbeatTimeout_keeps (tile : Nat) (path : Nat) (s : State) :
    KeepsRun s (execHeartbeatTimeout tile path s) := by
  unfold execHeartbeatTimeout
  repeat' first
    | with_reducible refine KeepsRun.next ?_
    | with_reducible assumption
    | with_reducible exact Keeps.refl _
    | with_reducible apply State.raiseFence_keeps
    | with_reducible apply Keeps.ite

theorem execEpoch_keeps (epoch : Nat) (next : List Nat) (s : State) :
    KeepsRun s (execEpoch epoch next s) := by
  unfold execEpoch
  repeat' first
    | with_reducible refine KeepsRun.next ?_
    | (intro _; try beta_reduce)
    | with_reducible assumption
    | with_reducible exact Keeps.refl _
    | with_reducible apply State.finishAll_keeps
    | with_reducible apply State.setMt_keeps
    | with_reducible apply State.nameMode_keeps
    | with_reducible apply Keeps.foldl
    | with_reducible apply Keeps.foldlFst
    | with_reducible apply Keeps.foldlSnd
    | with_reducible apply Keeps.ite
    | (extract_lets +onlyGivenNames x; refine Keeps.cut (x := x) ?_ ?_; (on_goal 2 => intro _; clear_value x); (on_goal 1 => subst x))
    | (extract_lets +onlyGivenNames x; clear_value x)
    | split
    | fail_if_no_progress (with_reducible refine Keeps.lit ?_ (by first | exact Nat.le_refl _ | omega) (by first | exact Nat.le_refl _ | omega) (fun w hw => hw))

theorem execTide_keeps (name : Nat) (message : TideMsg) (s : State) :
    KeepsRun s (execTide name message s) := by
  unfold execTide
  repeat' first
    | with_reducible refine KeepsRun.next ?_
    | (intro _; try beta_reduce)
    | with_reducible assumption
    | with_reducible exact Keeps.refl _
    | with_reducible apply State.entryNow_keeps
    | with_reducible apply State.setHtLen_keeps
    | with_reducible apply State.letIn_keeps
    | with_reducible apply State.restore_keeps
    | with_reducible apply Keeps.foldl
    | with_reducible apply Keeps.foldlFst
    | with_reducible apply Keeps.foldlSnd
    | with_reducible apply Keeps.ite
    | (extract_lets +onlyGivenNames x; refine Keeps.cut (x := x) ?_ ?_; (on_goal 2 => intro _; clear_value x); (on_goal 1 => subst x))
    | (extract_lets +onlyGivenNames x; clear_value x)
    | split
    | fail_if_no_progress (with_reducible refine Keeps.lit ?_ (by first | exact Nat.le_refl _ | omega) (by first | exact Nat.le_refl _ | omega) (fun w hw => hw))

theorem execFenceMessage_keeps (cls : Nat) (inst : Nat) (cause : Nat) (s : State) :
    KeepsRun s (execFenceMessage cls inst cause s) := by
  unfold execFenceMessage
  repeat' first
    | with_reducible refine KeepsRun.next ?_
    | with_reducible assumption
    | with_reducible exact Keeps.refl _
    | with_reducible apply Keeps.ite
    | (extract_lets +onlyGivenNames x; refine Keeps.cut (x := x) ?_ ?_; (on_goal 2 => intro _; clear_value x); (on_goal 1 => subst x))
    | (extract_lets +onlyGivenNames x; clear_value x)
    | split
    | fail_if_no_progress (with_reducible refine Keeps.lit ?_ (by first | exact Nat.le_refl _ | omega) (by first | exact Nat.le_refl _ | omega) (fun w hw => hw))

theorem execRset_keeps (tile : Nat) (point : Nat) (pages : List Nat) (confirmed : Bool) (s : State) :
    KeepsRun s (execRset tile point pages confirmed s) := by
  unfold execRset
  repeat' first
    | with_reducible refine KeepsRun.next ?_
    | (intro _; try beta_reduce)
    | with_reducible assumption
    | with_reducible exact Keeps.refl _
    | with_reducible apply State.isahar_keeps
    | with_reducible apply State.setMt_keeps
    | with_reducible apply State.beginResync_keeps
    | with_reducible apply Keeps.foldl
    | with_reducible apply Keeps.foldlFst
    | with_reducible apply Keeps.foldlSnd
    | with_reducible apply Keeps.ite
    | (extract_lets +onlyGivenNames x; refine Keeps.cut (x := x) ?_ ?_; (on_goal 2 => intro _; clear_value x); (on_goal 1 => subst x))
    | (extract_lets +onlyGivenNames x; clear_value x)
    | split
    | fail_if_no_progress (with_reducible refine Keeps.lit ?_ (by first | exact Nat.le_refl _ | omega) (by first | exact Nat.le_refl _ | omega) (fun w hw => hw))

theorem State.takeConfig_keeps {s0 : State} {s : State} {c : TwinConfig} (hk : Keeps s0 s) :
    Keeps s0 (State.takeConfig s c) := by
  unfold State.takeConfig
  repeat' first
    | with_reducible assumption
    | (intro _; try beta_reduce)
    | with_reducible exact Keeps.refl _
    | with_reducible apply State.setParam_keeps
    | with_reducible apply State.setKey_keeps
    | with_reducible apply State.setHtLen_keeps
    | with_reducible apply Keeps.foldl
    | with_reducible apply Keeps.foldlFst
    | with_reducible apply Keeps.foldlSnd
    | (extract_lets +onlyGivenNames x; refine Keeps.cut (x := x) ?_ ?_; (on_goal 2 => intro _; clear_value x); (on_goal 1 => subst x))
    | (extract_lets +onlyGivenNames x; clear_value x)
    | fail_if_no_progress (with_reducible refine Keeps.lit ?_ (by first | exact Nat.le_refl _ | omega) (by first | exact Nat.le_refl _ | omega) (fun w hw => hw))

theorem State.pageFrame_keeps {s0 : State} {s : State} {t : Nat} {p : Nat} (hk : Keeps s0 s) :
    Keeps s0 (State.pageFrame s t p) := by
  unfold State.pageFrame
  repeat' first
    | with_reducible assumption
    | (intro _; try beta_reduce)
    | with_reducible exact Keeps.refl _
    | with_reducible apply State.assignFrame_keeps

theorem State.resyncStep_keeps {s0 : State} {s : State} {t : Nat} {r : Resync} (hk : Keeps s0 s) :
    Keeps s0 (State.resyncStep s t r) := by
  unfold State.resyncStep
  repeat' first
    | with_reducible assumption
    | (intro _; try beta_reduce)
    | with_reducible exact Keeps.refl _
    | with_reducible apply State.emit_keeps
    | with_reducible apply State.setMt_keeps
    | with_reducible apply State.pageFrame_keeps
    | with_reducible apply Keeps.foldl
    | with_reducible apply Keeps.foldlFst
    | with_reducible apply Keeps.foldlSnd
    | with_reducible apply Keeps.ite
    | (extract_lets +onlyGivenNames x; refine Keeps.cut (x := x) ?_ ?_; (on_goal 2 => intro _; clear_value x); (on_goal 1 => subst x))
    | (extract_lets +onlyGivenNames x; clear_value x)
    | split

theorem execResync_keeps (tile : Nat) (next : Nat) (pages : Nat) (follows : Bool) (config : TwinConfig) (s : State) :
    KeepsRun s (execResync tile next pages follows config s) := by
  unfold execResync
  repeat' first
    | with_reducible refine KeepsRun.next ?_
    | with_reducible assumption
    | with_reducible exact Keeps.refl _
    | with_reducible apply State.takeConfig_keeps
    | with_reducible apply State.setMt_keeps
    | with_reducible apply State.resyncStep_keeps
    | with_reducible apply Keeps.ite
    | (extract_lets +onlyGivenNames x; refine Keeps.cut (x := x) ?_ ?_; (on_goal 2 => intro _; clear_value x); (on_goal 1 => subst x))
    | (extract_lets +onlyGivenNames x; clear_value x)
    | split
    | fail_if_no_progress (with_reducible refine Keeps.lit ?_ (by first | exact Nat.le_refl _ | omega) (by first | exact Nat.le_refl _ | omega) (fun w hw => hw))

theorem execResyncComplete_keeps (tile : Nat) (s : State) :
    KeepsRun s (execResyncComplete tile s) := by
  unfold execResyncComplete
  repeat' first
    | with_reducible refine KeepsRun.next ?_
    | with_reducible assumption
    | with_reducible exact Keeps.refl _
    | with_reducible apply State.creditMsync_keeps
    | with_reducible apply State.setMt_keeps
    | with_reducible apply State.nameMode_keeps
    | with_reducible apply Keeps.ite
    | (extract_lets +onlyGivenNames x; refine Keeps.cut (x := x) ?_ ?_; (on_goal 2 => intro _; clear_value x); (on_goal 1 => subst x))
    | (extract_lets +onlyGivenNames x; clear_value x)
    | split

end Sys2Proof.Machine
end

