-- ==== Sys2Proof/Laws/KeepsLeaseRows.lean ====
section
/-! SUPPORT. What the operations of Machine/LeaseRows.lean keep. -/

namespace Sys2Proof.Machine

theorem execLeaseRenew_keeps (s : State) :
    KeepsRun s (execLeaseRenew s) := by
  unfold execLeaseRenew
  repeat' first
    | with_reducible refine KeepsRun.next ?_
    | with_reducible assumption
    | with_reducible exact Keeps.refl _
    | with_reducible apply State.witSend_keeps
    | with_reducible apply Keeps.ite
    | (extract_lets +onlyGivenNames x; refine Keeps.cut (x := x) ?_ ?_; (on_goal 2 => intro _; clear_value x); (on_goal 1 => subst x))
    | (extract_lets +onlyGivenNames x; clear_value x)
    | split
    | fail_if_no_progress (with_reducible refine Keeps.lit ?_ (by first | exact Nat.le_refl _ | omega) (by first | exact Nat.le_refl _ | omega) (fun w hw => hw))

theorem execReqRetry_keeps (s : State) :
    KeepsRun s (execReqRetry s) := by
  unfold execReqRetry
  repeat' first
    | with_reducible refine KeepsRun.next ?_
    | with_reducible assumption
    | with_reducible exact Keeps.refl _
    | with_reducible apply State.finishAll_keeps
    | with_reducible apply State.witSend_keeps
    | with_reducible apply Keeps.ite
    | (extract_lets +onlyGivenNames x; refine Keeps.cut (x := x) ?_ ?_; (on_goal 2 => intro _; clear_value x); (on_goal 1 => subst x))
    | (extract_lets +onlyGivenNames x; clear_value x)
    | split
    | fail_if_no_progress (with_reducible refine Keeps.lit ?_ (by first | exact Nat.le_refl _ | omega) (by first | exact Nat.le_refl _ | omega) (fun w hw => hw))

theorem State.heard_keeps {s0 : State} {s : State} {type : Nat} (hk : Keeps s0 s) :
    Keeps s0 (State.heard s type) := by
  unfold State.heard
  repeat' first
    | with_reducible assumption
    | with_reducible exact Keeps.refl _
    | (extract_lets +onlyGivenNames x; refine Keeps.cut (x := x) ?_ ?_; (on_goal 2 => intro _; clear_value x); (on_goal 1 => subst x))
    | (extract_lets +onlyGivenNames x; clear_value x)
    | fail_if_no_progress (with_reducible refine Keeps.lit ?_ (by first | exact Nat.le_refl _ | omega) (by first | exact Nat.le_refl _ | omega) (fun w hw => hw))

theorem State.sendEpoch_keeps {s0 : State} {s : State} (hk : Keeps s0 s) :
    Keeps s0 (State.sendEpoch s) := by
  unfold State.sendEpoch
  repeat' first
    | with_reducible assumption
    | with_reducible exact Keeps.refl _
    | with_reducible apply State.isahar_keeps
    | with_reducible apply Keeps.ite

theorem execGrant_keeps (epoch : Nat) (req : PairReq) (value : Nat) (s : State) :
    KeepsRun s (execGrant epoch req value s) := by
  unfold execGrant
  repeat' first
    | with_reducible refine KeepsRun.next ?_
    | with_reducible assumption
    | with_reducible exact Keeps.refl _
    | with_reducible apply State.heard_keeps
    | with_reducible apply State.finishAll_keeps
    | with_reducible apply State.nameMode_keeps
    | with_reducible apply State.tryTakeOver_keeps
    | with_reducible apply State.sendEpoch_keeps
    | with_reducible apply State.release_keeps
    | with_reducible apply Keeps.ite
    | (extract_lets +onlyGivenNames x; refine Keeps.cut (x := x) ?_ ?_; (on_goal 2 => intro _; clear_value x); (on_goal 1 => subst x))
    | (extract_lets +onlyGivenNames x; clear_value x)
    | split
    | fail_if_no_progress (with_reducible refine Keeps.lit ?_ (by first | exact Nat.le_refl _ | omega) (by first | exact Nat.le_refl _ | omega) (fun w hw => hw))

theorem execDeny_keeps (epoch : Nat) (req : PairReq) (value : Nat) (s : State) :
    KeepsRun s (execDeny epoch req value s) := by
  unfold execDeny
  repeat' first
    | with_reducible refine KeepsRun.next ?_
    | with_reducible assumption
    | with_reducible exact Keeps.refl _
    | with_reducible apply State.heard_keeps
    | with_reducible apply State.finishAll_keeps
    | with_reducible apply State.emit_keeps
    | with_reducible apply Keeps.ite
    | (extract_lets +onlyGivenNames x; refine Keeps.cut (x := x) ?_ ?_; (on_goal 2 => intro _; clear_value x); (on_goal 1 => subst x))
    | (extract_lets +onlyGivenNames x; clear_value x)
    | split
    | fail_if_no_progress (with_reducible refine Keeps.lit ?_ (by first | exact Nat.le_refl _ | omega) (by first | exact Nat.le_refl _ | omega) (fun w hw => hw))

theorem execDenyWaitEnd_keeps (s : State) :
    KeepsRun s (execDenyWaitEnd s) := by
  unfold execDenyWaitEnd
  repeat' first
    | with_reducible refine KeepsRun.next ?_
    | with_reducible assumption
    | with_reducible exact Keeps.refl _
    | with_reducible apply State.witSend_keeps
    | with_reducible apply Keeps.ite
    | (extract_lets +onlyGivenNames x; refine Keeps.cut (x := x) ?_ ?_; (on_goal 2 => intro _; clear_value x); (on_goal 1 => subst x))
    | (extract_lets +onlyGivenNames x; clear_value x)
    | split
    | fail_if_no_progress (with_reducible refine Keeps.lit ?_ (by first | exact Nat.le_refl _ | omega) (by first | exact Nat.le_refl _ | omega) (fun w hw => hw))

theorem execAck_keeps (req : PairReq) (s : State) :
    KeepsRun s (execAck req s) := by
  unfold execAck
  repeat' first
    | with_reducible refine KeepsRun.next ?_
    | with_reducible assumption
    | with_reducible exact Keeps.refl _
    | with_reducible apply State.heard_keeps
    | with_reducible apply State.nameMode_keeps
    | with_reducible apply State.emit_keeps
    | with_reducible apply Keeps.ite
    | (extract_lets +onlyGivenNames x; refine Keeps.cut (x := x) ?_ ?_; (on_goal 2 => intro _; clear_value x); (on_goal 1 => subst x))
    | (extract_lets +onlyGivenNames x; clear_value x)
    | split
    | fail_if_no_progress (with_reducible refine Keeps.lit ?_ (by first | exact Nat.le_refl _ | omega) (by first | exact Nat.le_refl _ | omega) (fun w hw => hw))

theorem execLeaseDeadline_keeps (s : State) :
    KeepsRun s (execLeaseDeadline s) := by
  unfold execLeaseDeadline
  repeat' first
    | with_reducible refine KeepsRun.next ?_
    | with_reducible assumption
    | with_reducible exact Keeps.refl _
    | with_reducible apply State.report_keeps
    | with_reducible apply State.log_keeps
    | with_reducible apply State.emit_keeps
    | with_reducible apply State.nameMode_keeps
    | with_reducible apply Keeps.ite
    | (extract_lets +onlyGivenNames x; refine Keeps.cut (x := x) ?_ ?_; (on_goal 2 => intro _; clear_value x); (on_goal 1 => subst x))
    | (extract_lets +onlyGivenNames x; clear_value x)
    | split
    | fail_if_no_progress (with_reducible refine Keeps.lit ?_ (by first | exact Nat.le_refl _ | omega) (by first | exact Nat.le_refl _ | omega) (fun w hw => hw))

theorem execReadAbandon_keeps (s : State) :
    KeepsRun s (execReadAbandon s) := by
  unfold execReadAbandon
  repeat' first
    | with_reducible refine KeepsRun.next ?_
    | with_reducible assumption
    | with_reducible exact Keeps.refl _
    | with_reducible apply State.abandonHosts_keeps
    | with_reducible apply Keeps.ite
    | (extract_lets +onlyGivenNames x; refine Keeps.cut (x := x) ?_ ?_; (on_goal 2 => intro _; clear_value x); (on_goal 1 => subst x))
    | (extract_lets +onlyGivenNames x; clear_value x)
    | split
    | fail_if_no_progress (with_reducible refine Keeps.lit ?_ (by first | exact Nat.le_refl _ | omega) (by first | exact Nat.le_refl _ | omega) (fun w hw => hw))

theorem State.startHandover_keeps {s0 : State} {s : State} (hk : Keeps s0 s) :
    Keeps s0 (State.startHandover s) := by
  unfold State.startHandover
  repeat' first
    | with_reducible assumption
    | with_reducible exact Keeps.refl _
    | with_reducible apply State.emit_keeps
    | (extract_lets +onlyGivenNames x; refine Keeps.cut (x := x) ?_ ?_; (on_goal 2 => intro _; clear_value x); (on_goal 1 => subst x))
    | (extract_lets +onlyGivenNames x; clear_value x)
    | fail_if_no_progress (with_reducible refine Keeps.lit ?_ (by first | exact Nat.le_refl _ | omega) (by first | exact Nat.le_refl _ | omega) (fun w hw => hw))

theorem State.endMrole_keeps {s0 : State} {s : State} {k : Nat} {st : Status} (hk : Keeps s0 s) :
    Keeps s0 (State.endMrole s k st) := by
  unfold State.endMrole
  repeat' first
    | with_reducible assumption
    | with_reducible exact Keeps.refl _
    | with_reducible apply State.finishAll_keeps

theorem execRole_keeps (message : RoleMsg) (s : State) :
    KeepsRun s (execRole message s) := by
  unfold execRole
  repeat' first
    | with_reducible refine KeepsRun.next ?_
    | with_reducible assumption
    | with_reducible exact Keeps.refl _
    | with_reducible apply State.failover_keeps
    | with_reducible apply State.startHandover_keeps
    | with_reducible apply State.emit_keeps
    | with_reducible apply State.witSend_keeps
    | with_reducible apply State.endMrole_keeps
    | with_reducible apply Keeps.ite
    | (extract_lets +onlyGivenNames x; refine Keeps.cut (x := x) ?_ ?_; (on_goal 2 => intro _; clear_value x); (on_goal 1 => subst x))
    | (extract_lets +onlyGivenNames x; clear_value x)
    | split
    | fail_if_no_progress (with_reducible refine Keeps.lit ?_ (by first | exact Nat.le_refl _ | omega) (by first | exact Nat.le_refl _ | omega) (fun w hw => hw))

theorem execHandover_keeps (s : State) :
    KeepsRun s (execHandover s) := by
  unfold execHandover
  repeat' first
    | with_reducible refine KeepsRun.next ?_
    | with_reducible assumption
    | with_reducible exact Keeps.refl _
    | with_reducible apply State.witSend_keeps
    | with_reducible apply Keeps.ite
    | (extract_lets +onlyGivenNames x; refine Keeps.cut (x := x) ?_ ?_; (on_goal 2 => intro _; clear_value x); (on_goal 1 => subst x))
    | (extract_lets +onlyGivenNames x; clear_value x)
    | split
    | fail_if_no_progress (with_reducible refine Keeps.lit ?_ (by first | exact Nat.le_refl _ | omega) (by first | exact Nat.le_refl _ | omega) (fun w hw => hw))

theorem execFailbackRequest_keeps (s : State) :
    KeepsRun s (execFailbackRequest s) := by
  unfold execFailbackRequest
  repeat' first
    | with_reducible refine KeepsRun.next ?_
    | with_reducible assumption
    | with_reducible exact Keeps.refl _
    | with_reducible apply State.emit_keeps
    | with_reducible apply Keeps.ite
    | (extract_lets +onlyGivenNames x; refine Keeps.cut (x := x) ?_ ?_; (on_goal 2 => intro _; clear_value x); (on_goal 1 => subst x))
    | (extract_lets +onlyGivenNames x; clear_value x)
    | split
    | fail_if_no_progress (with_reducible refine Keeps.lit ?_ (by first | exact Nat.le_refl _ | omega) (by first | exact Nat.le_refl _ | omega) (fun w hw => hw))

theorem State.setWit_keeps {s0 : State} {s : State} {pair : Nat} {w : Witness} (hk : Keeps s0 s) :
    Keeps s0 (State.setWit s pair w) := by
  unfold State.setWit
  repeat' first
    | with_reducible assumption
    | with_reducible exact Keeps.refl _
    | fail_if_no_progress (with_reducible refine Keeps.lit ?_ (by first | exact Nat.le_refl _ | omega) (by first | exact Nat.le_refl _ | omega) (fun w hw => hw))

theorem execReq_keeps (pair : Nat) (port : Nat) (epoch : Nat) (reqno : Nat) (value : Nat) (force : Bool) (s : State) :
    KeepsRun s (execReq pair port epoch reqno value force s) := by
  unfold execReq
  repeat' first
    | with_reducible refine KeepsRun.next ?_
    | with_reducible assumption
    | with_reducible exact Keeps.refl _
    | with_reducible apply State.emit_keeps
    | with_reducible apply State.setWit_keeps
    | with_reducible apply Keeps.ite

theorem execBump_keeps (pair : Nat) (port : Nat) (epoch : Nat) (reqno : Nat) (s : State) :
    KeepsRun s (execBump pair port epoch reqno s) := by
  unfold execBump
  repeat' first
    | with_reducible refine KeepsRun.next ?_
    | with_reducible assumption
    | with_reducible exact Keeps.refl _
    | with_reducible apply State.emit_keeps
    | with_reducible apply State.setWit_keeps
    | with_reducible apply Keeps.ite

theorem execRelease_keeps (pair : Nat) (port : Nat) (reqno : Nat) (s : State) :
    KeepsRun s (execRelease pair port reqno s) := by
  unfold execRelease
  repeat' first
    | with_reducible refine KeepsRun.next ?_
    | with_reducible assumption
    | with_reducible exact Keeps.refl _
    | with_reducible apply State.emit_keeps
    | with_reducible apply State.setWit_keeps
    | with_reducible apply Keeps.ite

theorem execReport_keeps (pair : Nat) (port : Nat) (reqno : Nat) (cause : WitReport) (s : State) :
    KeepsRun s (execReport pair port reqno cause s) := by
  unfold execReport
  repeat' first
    | with_reducible refine KeepsRun.next ?_
    | with_reducible assumption
    | with_reducible exact Keeps.refl _
    | with_reducible apply State.emit_keeps
    | with_reducible apply State.setWit_keeps
    | with_reducible apply Keeps.ite

theorem execWitnessLeaseExpiry_keeps (pair : Nat) (s : State) :
    KeepsRun s (execWitnessLeaseExpiry pair s) := by
  unfold execWitnessLeaseExpiry
  repeat' first
    | with_reducible refine KeepsRun.next ?_
    | with_reducible assumption
    | with_reducible exact Keeps.refl _
    | with_reducible apply State.setWit_keeps
    | with_reducible apply Keeps.ite

theorem execWitnessRestart_keeps (s : State) :
    KeepsRun s (execWitnessRestart s) := by
  unfold execWitnessRestart
  repeat' first
    | with_reducible refine KeepsRun.next ?_
    | with_reducible assumption
    | with_reducible exact Keeps.refl _
    | with_reducible apply Keeps.ite
    | (extract_lets +onlyGivenNames x; refine Keeps.cut (x := x) ?_ ?_; (on_goal 2 => intro _; clear_value x); (on_goal 1 => subst x))
    | (extract_lets +onlyGivenNames x; clear_value x)
    | split
    | fail_if_no_progress (with_reducible refine Keeps.lit ?_ (by first | exact Nat.le_refl _ | omega) (by first | exact Nat.le_refl _ | omega) (fun w hw => hw))

theorem execMrole_keeps (ctx : Nat) (s : State) :
    KeepsRun s (execMrole ctx s) := by
  unfold execMrole
  repeat' first
    | with_reducible refine KeepsRun.next ?_
    | (intro _; try beta_reduce)
    | with_reducible assumption
    | with_reducible exact Keeps.refl _
    | with_reducible apply State.issue_keeps
    | with_reducible apply State.fail_keeps
    | with_reducible apply State.startHandover_keeps
    | with_reducible apply State.startLong_keeps
    | with_reducible apply State.emit_keeps
    | with_reducible apply Keeps.ite
    | (extract_lets +onlyGivenNames x; refine Keeps.cut (x := x) ?_ ?_; (on_goal 2 => intro _; clear_value x); (on_goal 1 => subst x))
    | (extract_lets +onlyGivenNames x; clear_value x)
    | split
    | fail_if_no_progress (with_reducible refine Keeps.lit ?_ (by first | exact Nat.le_refl _ | omega) (by first | exact Nat.le_refl _ | omega) (fun w hw => hw))

theorem execMsync_keeps (ctx : Nat) (s : State) :
    KeepsRun s (execMsync ctx s) := by
  unfold execMsync
  repeat' first
    | with_reducible refine KeepsRun.next ?_
    | (intro _; try beta_reduce)
    | with_reducible assumption
    | with_reducible exact Keeps.refl _
    | with_reducible apply State.issue_keeps
    | with_reducible apply State.fail_keeps
    | with_reducible apply State.done_keeps
    | with_reducible apply State.pendRec_keeps
    | with_reducible apply State.startLong_keeps
    | with_reducible apply State.isahar_keeps
    | with_reducible apply State.setMt_keeps
    | with_reducible apply State.beginResync_keeps
    | with_reducible apply Keeps.foldl
    | with_reducible apply Keeps.foldlFst
    | with_reducible apply Keeps.foldlSnd
    | with_reducible apply Keeps.ite

theorem execMdig_keeps (ctx : Nat) (s : State) :
    KeepsRun s (execMdig ctx s) := by
  unfold execMdig
  repeat' first
    | with_reducible refine KeepsRun.next ?_
    | (intro _; try beta_reduce)
    | with_reducible assumption
    | with_reducible exact Keeps.refl _
    | with_reducible apply State.issue_keeps
    | with_reducible apply State.fail_keeps
    | with_reducible apply State.sendCkpt_keeps
    | with_reducible apply State.startLong_keeps
    | with_reducible apply Keeps.ite

theorem execLease_keeps (ctx : Nat) (s : State) :
    KeepsRun s (execLease ctx s) := by
  unfold execLease
  repeat' first
    | with_reducible refine KeepsRun.next ?_
    | (intro _; try beta_reduce)
    | with_reducible assumption
    | with_reducible exact Keeps.refl _
    | with_reducible apply State.issue_keeps
    | with_reducible apply State.done_keeps
    | with_reducible apply State.fail_keeps
    | with_reducible apply State.startLong_keeps
    | with_reducible apply State.witSend_keeps
    | with_reducible apply Keeps.ite
    | (extract_lets +onlyGivenNames x; refine Keeps.cut (x := x) ?_ ?_; (on_goal 2 => intro _; clear_value x); (on_goal 1 => subst x))
    | (extract_lets +onlyGivenNames x; clear_value x)
    | split
    | fail_if_no_progress (with_reducible refine Keeps.lit ?_ (by first | exact Nat.le_refl _ | omega) (by first | exact Nat.le_refl _ | omega) (fun w hw => hw))

end Sys2Proof.Machine
end

