-- ==== Sys2Proof/Laws/KeepsFlashRows.lean ====
section
/-! SUPPORT. What the operations of Machine/FlashRows.lean keep. -/

namespace Sys2Proof.Machine

theorem State.drawWords_keeps {s0 s : State} {n : Nat} (h : Keeps s0 s) : Keeps s0 (State.drawWords s n).2 := by
  induction n generalizing s with
  | zero => exact h
  | succ n ih => exact ih (State.drawWord_keeps h)

theorem execFraw_keeps (ctx : Nat) (decodes : Bool) (s : State) :
    KeepsRun s (execFraw ctx decodes s) := by
  unfold execFraw
  repeat' first
    | with_reducible refine KeepsRun.next ?_
    | (intro _; try beta_reduce)
    | with_reducible assumption
    | with_reducible exact Keeps.refl _
    | with_reducible apply State.issue_keeps
    | with_reducible apply State.fail_keeps
    | with_reducible apply State.setBlk_keeps
    | with_reducible apply State.complete_keeps
    | with_reducible apply State.drawWords_keeps
    | (refine Keeps.ofSnd (State.drawWords_keeps ?_) (by assumption))
    | with_reducible apply Keeps.ite
    | (extract_lets +onlyGivenNames x; refine Keeps.cut (x := x) ?_ ?_; (on_goal 2 => intro _; clear_value x); (on_goal 1 => subst x))
    | (extract_lets +onlyGivenNames x; clear_value x)
    | split

theorem execFerc_keeps (ctx : Nat) (s : State) :
    KeepsRun s (execFerc ctx s) := by
  unfold execFerc
  repeat' first
    | with_reducible refine KeepsRun.next ?_
    | (intro _; try beta_reduce)
    | with_reducible assumption
    | with_reducible exact Keeps.refl _
    | with_reducible apply State.issue_keeps
    | with_reducible apply State.fail_keeps
    | with_reducible apply State.done_keeps
    | with_reducible apply Keeps.ite

theorem State.closeBlk_keeps {s0 : State} {s : State} {t : Nat} {b : Nat} (hk : Keeps s0 s) :
    Keeps s0 (State.closeBlk s t b) := by
  unfold State.closeBlk
  repeat' first
    | with_reducible assumption
    | (intro _; try beta_reduce)
    | with_reducible exact Keeps.refl _
    | with_reducible apply State.padRow_keeps
    | with_reducible apply State.setTh_keeps
    | with_reducible apply State.setBlk_keeps
    | with_reducible apply Keeps.foldl
    | with_reducible apply Keeps.foldlFst
    | with_reducible apply Keeps.foldlSnd
    | with_reducible apply Keeps.ite

theorem execFret_keeps (ctx : Nat) (s : State) :
    KeepsRun s (execFret ctx s) := by
  unfold execFret
  repeat' first
    | with_reducible refine KeepsRun.next ?_
    | (intro _; try beta_reduce)
    | with_reducible assumption
    | with_reducible exact Keeps.refl _
    | with_reducible apply State.issue_keeps
    | with_reducible apply State.fail_keeps
    | with_reducible apply State.done_keeps
    | with_reducible apply State.pendRec_keeps
    | with_reducible apply State.startLong_keeps
    | with_reducible apply State.closeBlk_keeps
    | with_reducible apply State.setBlk_keeps
    | with_reducible apply State.queueMerge_keeps
    | with_reducible apply State.putRec_keeps
    | with_reducible apply State.endFret_keeps
    | with_reducible apply Keeps.foldl
    | with_reducible apply Keeps.foldlFst
    | with_reducible apply Keeps.foldlSnd
    | with_reducible apply Keeps.ite

theorem State.putScrb_keeps {s0 : State} {s : State} {n : Nat} {i : Issue} {r : ScrbRun} (hk : Keeps s0 s) :
    Keeps s0 (State.putScrb s n i r) := by
  unfold State.putScrb
  repeat' first
    | with_reducible assumption
    | with_reducible exact Keeps.refl _
    | with_reducible apply State.setCtx_keeps

theorem State.scrbGood_keeps {s0 : State} {s : State} {n : Nat} {i : Issue} {r : ScrbRun} {off : Nat} {p : Bool} (hk : Keeps s0 s) :
    Keeps s0 (State.scrbGood s n i r off p) := by
  unfold State.scrbGood
  repeat' first
    | with_reducible assumption
    | with_reducible exact Keeps.refl _
    | with_reducible apply State.putScrb_keeps
    | with_reducible apply State.enterPoison_keeps
    | with_reducible apply Keeps.ite

theorem State.scrbBad_keeps {s0 : State} {s : State} {n : Nat} {i : Issue} {r : ScrbRun} {a : Nat} (hk : Keeps s0 s) :
    Keeps s0 (State.scrbBad s n i r a) := by
  unfold State.scrbBad
  repeat' first
    | with_reducible assumption
    | with_reducible exact Keeps.refl _
    | with_reducible apply State.putScrb_keeps
    | with_reducible apply State.refetch_keeps

theorem State.scrbLine_keeps {s0 : State} {s : State} {n : Nat} {i : Issue} {r : ScrbRun} {err : BitVec 640} (hk : Keeps s0 s) :
    Keeps s0 (State.scrbLine s n i r err) := by
  unfold State.scrbLine
  repeat' first
    | with_reducible assumption
    | with_reducible exact Keeps.refl _
    | with_reducible apply State.putScrb_keeps
    | with_reducible apply State.readRow_keeps
    | with_reducible apply State.scrbGood_keeps
    | with_reducible apply State.queueBack_keeps
    | with_reducible apply State.bucket_keeps
    | with_reducible apply State.scrbBad_keeps
    | with_reducible apply Keeps.ite
    | (extract_lets +onlyGivenNames x; refine Keeps.cut (x := x) ?_ ?_; (on_goal 2 => intro _; clear_value x); (on_goal 1 => subst x))
    | (extract_lets +onlyGivenNames x; clear_value x)
    | split

theorem execScrb_keeps (ctx : Nat) (err : BitVec 640) (s : State) :
    KeepsRun s (execScrb ctx err s) := by
  unfold execScrb
  repeat' first
    | with_reducible refine KeepsRun.next ?_
    | (intro _; try beta_reduce)
    | with_reducible assumption
    | with_reducible exact Keeps.refl _
    | with_reducible apply State.setCtx_keeps
    | with_reducible apply State.finishLong_keeps
    | with_reducible apply State.scrbLine_keeps
    | with_reducible apply State.issueOp_keeps
    | with_reducible apply State.fail_keeps
    | with_reducible apply State.pendRec_keeps
    | with_reducible apply State.startLong_keeps
    | with_reducible apply Keeps.ite
    | (extract_lets +onlyGivenNames x; refine Keeps.cut (x := x) ?_ ?_; (on_goal 2 => intro _; clear_value x); (on_goal 1 => subst x))
    | (extract_lets +onlyGivenNames x; clear_value x)
    | split

theorem execTidemarkSync_keeps (tile : Nat) (s : State) :
    KeepsRun s (execTidemarkSync tile s) := by
  unfold execTidemarkSync
  repeat' first
    | with_reducible refine KeepsRun.next ?_
    | with_reducible assumption
    | with_reducible exact Keeps.refl _
    | with_reducible apply State.slew_keeps
    | (refine Keeps.ofSnd (State.slew_keeps ?_) (by assumption))
    | with_reducible apply Keeps.ite
    | (extract_lets +onlyGivenNames x; refine Keeps.cut (x := x) ?_ ?_; (on_goal 2 => intro _; clear_value x); (on_goal 1 => subst x))
    | (extract_lets +onlyGivenNames x; clear_value x)
    | split
    | fail_if_no_progress (with_reducible refine Keeps.lit ?_ (by first | exact Nat.le_refl _ | omega) (by first | exact Nat.le_refl _ | omega) (fun w hw => hw))

theorem State.discipline_keeps {s0 : State} {s : State} (hk : Keeps s0 s) :
    Keeps s0 (State.discipline s) := by
  unfold State.discipline
  repeat' first
    | with_reducible assumption
    | with_reducible exact Keeps.refl _
    | with_reducible apply State.drawWord_keeps
    | (refine Keeps.ofSnd (State.drawWord_keeps ?_) (by assumption))
    | (extract_lets +onlyGivenNames x; refine Keeps.cut (x := x) ?_ ?_; (on_goal 2 => intro _; clear_value x); (on_goal 1 => subst x))
    | (extract_lets +onlyGivenNames x; clear_value x)
    | split
    | fail_if_no_progress (with_reducible refine Keeps.lit ?_ (by first | exact Nat.le_refl _ | omega) (by first | exact Nat.le_refl _ | omega) (fun w hw => hw))

theorem execTsyncIn_keeps (s : State) :
    KeepsRun s (execTsyncIn s) := by
  unfold execTsyncIn
  repeat' first
    | with_reducible refine KeepsRun.next ?_
    | with_reducible assumption
    | with_reducible exact Keeps.refl _
    | with_reducible apply State.log_keeps
    | with_reducible apply State.discipline_keeps
    | with_reducible apply Keeps.ite
    | (extract_lets +onlyGivenNames x; refine Keeps.cut (x := x) ?_ ?_; (on_goal 2 => intro _; clear_value x); (on_goal 1 => subst x))
    | (extract_lets +onlyGivenNames x; clear_value x)
    | split
    | fail_if_no_progress (with_reducible refine Keeps.lit ?_ (by first | exact Nat.le_refl _ | omega) (by first | exact Nat.le_refl _ | omega) (fun w hw => hw))

theorem execPtmExchange_keeps (tile : Nat) (link : Nat) (s : State) :
    KeepsRun s (execPtmExchange tile link s) := by
  unfold execPtmExchange
  repeat' first
    | with_reducible refine KeepsRun.next ?_
    | with_reducible assumption
    | with_reducible exact Keeps.refl _
    | with_reducible apply State.discipline_keeps
    | with_reducible apply Keeps.ite

theorem execDisciplineTimeout_keeps (s : State) :
    KeepsRun s (execDisciplineTimeout s) := by
  unfold execDisciplineTimeout
  repeat' first
    | with_reducible refine KeepsRun.next ?_
    | with_reducible assumption
    | with_reducible exact Keeps.refl _
    | with_reducible apply State.log_keeps
    | with_reducible apply Keeps.ite
    | (extract_lets +onlyGivenNames x; refine Keeps.cut (x := x) ?_ ?_; (on_goal 2 => intro _; clear_value x); (on_goal 1 => subst x))
    | (extract_lets +onlyGivenNames x; clear_value x)
    | split
    | fail_if_no_progress (with_reducible refine Keeps.lit ?_ (by first | exact Nat.le_refl _ | omega) (by first | exact Nat.le_refl _ | omega) (fun w hw => hw))

theorem execTidemarkFloorAppend_keeps (s : State) :
    KeepsRun s (execTidemarkFloorAppend s) := by
  unfold execTidemarkFloorAppend
  repeat' first
    | with_reducible refine KeepsRun.next ?_
    | with_reducible assumption
    | with_reducible exact Keeps.refl _
    | with_reducible apply State.appendFloor_keeps
    | with_reducible apply Keeps.ite

theorem execSkewLimit_keeps (between : Nat) (tile : Nat) (ticks : Nat) (s : State) :
    KeepsRun s (execSkewLimit between tile ticks s) := by
  unfold execSkewLimit
  repeat' first
    | with_reducible refine KeepsRun.next ?_
    | with_reducible assumption
    | with_reducible exact Keeps.refl _
    | with_reducible apply State.log_keeps
    | with_reducible apply Keeps.ite

end Sys2Proof.Machine
end

