-- ==== Sys2Proof/Laws/KeepsCipherRows.lean ====
section
/-! SUPPORT. What the operations of Machine/CipherRows.lean keep. -/

namespace Sys2Proof.Machine

theorem State.installKey_keeps {s0 : State} {s : State} {t : Nat} {slot : Nat} {k : KeySlot} {sealIt : Bool} (hk : Keeps s0 s) :
    Keeps s0 (State.installKey s t slot k sealIt) := by
  unfold State.installKey
  repeat' first
    | with_reducible assumption
    | with_reducible exact Keeps.refl _
    | with_reducible apply State.setKey_keeps
    | with_reducible apply Keeps.ite
    | (extract_lets +onlyGivenNames x; refine Keeps.cut (x := x) ?_ ?_; (on_goal 2 => intro _; clear_value x); (on_goal 1 => subst x))
    | (extract_lets +onlyGivenNames x; clear_value x)
    | split
    | fail_if_no_progress (with_reducible refine Keeps.lit ?_ (by first | exact Nat.le_refl _ | omega) (by first | exact Nat.le_refl _ | omega) (fun w hw => hw))

theorem execKunw_keeps (ctx : Nat) (twin : Bool) (s : State) :
    KeepsRun s (execKunw ctx twin s) := by
  unfold execKunw
  repeat' first
    | with_reducible refine KeepsRun.next ?_
    | (intro _; try beta_reduce)
    | with_reducible assumption
    | with_reducible exact Keeps.refl _
    | with_reducible apply State.issueOp_keeps
    | with_reducible apply State.fail_keeps
    | with_reducible apply State.isahar_keeps
    | with_reducible apply State.done_keeps
    | with_reducible apply State.installKey_keeps
    | with_reducible apply Keeps.ite
    | (extract_lets +onlyGivenNames x; refine Keeps.cut (x := x) ?_ ?_; (on_goal 2 => intro _; clear_value x); (on_goal 1 => subst x))
    | (extract_lets +onlyGivenNames x; clear_value x)
    | split

theorem execKdrop_keeps (ctx : Nat) (s : State) :
    KeepsRun s (execKdrop ctx s) := by
  unfold execKdrop
  repeat' first
    | with_reducible refine KeepsRun.next ?_
    | (intro _; try beta_reduce)
    | with_reducible assumption
    | with_reducible exact Keeps.refl _
    | with_reducible apply State.issueOp_keeps
    | with_reducible apply State.fail_keeps
    | with_reducible apply State.done_keeps
    | with_reducible apply State.clearKey_keeps
    | with_reducible apply Keeps.ite

theorem State.putLineIn_keeps {s0 : State} {s : State} {t : Nat} {a : Nat} {l : Line} {a4 : Option Nat} (hk : Keeps s0 s) :
    Keeps s0 (State.putLineIn s t a l a4) := by
  unfold State.putLineIn
  repeat' first
    | with_reducible assumption
    | (intro _; try beta_reduce)
    | with_reducible exact Keeps.refl _
    | with_reducible apply State.setHome_keeps
    | with_reducible apply State.placeQuiet_keeps
    | with_reducible apply Keeps.foldl
    | with_reducible apply Keeps.foldlFst
    | with_reducible apply Keeps.foldlSnd
    | split

theorem State.putLineAt_keeps {s0 : State} {s : State} {t : Nat} {a : Nat} {l : Line} (hk : Keeps s0 s) :
    Keeps s0 (State.putLineAt s t a l) := by
  unfold State.putLineAt
  repeat' first
    | with_reducible assumption
    | with_reducible exact Keeps.refl _
    | with_reducible apply State.putLineIn_keeps

theorem State.putDfa_keeps {s0 : State} {s : State} {t : Nat} {a : Nat} {l : Line} (hk : Keeps s0 s) :
    Keeps s0 (State.putDfa s t a l) := by
  unfold State.putDfa
  repeat' first
    | with_reducible assumption
    | with_reducible exact Keeps.refl _
    | with_reducible apply State.putLineAt_keeps
    | with_reducible apply State.markPage_keeps
    | with_reducible apply State.bitmapFill_keeps

theorem State.writeDfa_keeps {s0 : State} {s : State} {t : Nat} {a : Nat} {b : List Byte} (hk : Keeps s0 s) :
    Keeps s0 (State.writeDfa s t a b) := by
  unfold State.writeDfa
  repeat' first
    | with_reducible assumption
    | (intro _; try beta_reduce)
    | with_reducible exact Keeps.refl _
    | with_reducible apply State.putDfa_keeps
    | with_reducible apply Keeps.foldl

theorem State.setCryp_keeps {s0 : State} {s : State} {n : Nat} {k : Cryp} (hk : Keeps s0 s) :
    Keeps s0 (State.setCryp s n k) := by
  unfold State.setCryp
  repeat' first
    | with_reducible assumption
    | with_reducible exact Keeps.refl _
    | with_reducible apply State.setCtx_keeps

theorem State.crypPage_keeps {s0 : State} {s : State} {n : Nat} {k : Cryp} {k1 : BitVec 256} {nonce : List Byte} {acc : Nat} (hk : Keeps s0 s) :
    Keeps s0 (State.crypPage s n k k1 nonce acc) := by
  unfold State.crypPage
  repeat' first
    | with_reducible assumption
    | with_reducible exact Keeps.refl _
    | with_reducible apply State.setCryp_keeps
    | with_reducible apply State.finishR_keeps
    | with_reducible apply State.writeDfa_keeps
    | with_reducible apply Keeps.ite

theorem State.crypStep_keeps {s0 : State} {s : State} {n : Nat} (hk : Keeps s0 s) :
    Keeps s0 (State.crypStep s n) := by
  unfold State.crypStep
  repeat' first
    | with_reducible assumption
    | with_reducible exact Keeps.refl _
    | with_reducible apply State.finishR_keeps
    | with_reducible apply State.tally_keeps
    | with_reducible apply State.writeDfa_keeps
    | with_reducible apply State.setCryp_keeps
    | with_reducible apply State.crypPage_keeps
    | with_reducible apply Keeps.ite
    | split

theorem State.takeRange_keeps {s0 : State} {s : State} {t : Nat} {pages : Nat} (hk : Keeps s0 s) :
    Keeps s0 (State.takeRange s t pages).2 := by
  unfold State.takeRange
  repeat' first
    | with_reducible assumption
    | with_reducible exact Keeps.refl _
    | (extract_lets +onlyGivenNames x; refine Keeps.cut (x := x) ?_ ?_; (on_goal 2 => intro _; clear_value x); (on_goal 1 => subst x))
    | (extract_lets +onlyGivenNames x; clear_value x)
    | fail_if_no_progress (with_reducible refine Keeps.lit ?_ (by first | exact Nat.le_refl _ | omega) (by first | exact Nat.le_refl _ | omega) (fun w hw => hw))

theorem State.startGcm_keeps {s0 : State} {s : State} {n : Nat} {i : Issue} {k : Cryp} (hk : Keeps s0 s) :
    Keeps s0 (State.startGcm s n i k) := by
  unfold State.startGcm
  repeat' first
    | with_reducible assumption
    | with_reducible exact Keeps.refl _
    | with_reducible apply State.takeRange_keeps
    | (refine Keeps.ofSnd (State.takeRange_keeps ?_) (by assumption))
    | with_reducible apply State.setKey_keeps
    | with_reducible apply State.pendRec_keeps
    | with_reducible apply State.setCryp_keeps
    | with_reducible apply State.startLong_keeps

theorem execCryp_keeps (ctx : Nat) (units : Nat) (s : State) :
    KeepsRun s (execCryp ctx units s) := by
  unfold execCryp
  repeat' first
    | with_reducible refine KeepsRun.next ?_
    | (intro _; try beta_reduce)
    | with_reducible assumption
    | with_reducible exact Keeps.refl _
    | with_reducible apply State.crypStep_keeps
    | with_reducible apply State.issueOp_keeps
    | with_reducible apply State.fail_keeps
    | with_reducible apply State.countEnc_keeps
    | (refine Keeps.ofSnd (State.countEnc_keeps ?_) (by assumption))
    | with_reducible apply State.startGcm_keeps
    | with_reducible apply State.pendRec_keeps
    | with_reducible apply State.setCryp_keeps
    | with_reducible apply State.startLong_keeps
    | with_reducible apply Keeps.foldl
    | with_reducible apply Keeps.foldlFst
    | with_reducible apply Keeps.foldlSnd
    | with_reducible apply Keeps.ite
    | (extract_lets +onlyGivenNames x; refine Keeps.cut (x := x) ?_ ?_; (on_goal 2 => intro _; clear_value x); (on_goal 1 => subst x))
    | (extract_lets +onlyGivenNames x; clear_value x)
    | split

theorem execCsav_keeps (ctx : Nat) (s : State) :
    KeepsRun s (execCsav ctx s) := by
  unfold execCsav
  repeat' first
    | with_reducible refine KeepsRun.next ?_
    | (intro _; try beta_reduce)
    | with_reducible assumption
    | with_reducible exact Keeps.refl _
    | with_reducible apply State.issueOp_keeps
    | with_reducible apply State.fail_keeps
    | with_reducible apply State.drawWord_keeps
    | (refine Keeps.ofSnd (State.drawWord_keeps ?_) (by assumption))
    | with_reducible apply State.writeDfa_keeps
    | with_reducible apply State.setCtx_keeps
    | with_reducible apply State.done_keeps
    | with_reducible apply Keeps.ite
    | (extract_lets +onlyGivenNames x; refine Keeps.cut (x := x) ?_ ?_; (on_goal 2 => intro _; clear_value x); (on_goal 1 => subst x))
    | (extract_lets +onlyGivenNames x; clear_value x)
    | split

theorem execCrst_keeps (ctx : Nat) (s : State) :
    KeepsRun s (execCrst ctx s) := by
  unfold execCrst
  repeat' first
    | with_reducible refine KeepsRun.next ?_
    | (intro _; try beta_reduce)
    | with_reducible assumption
    | with_reducible exact Keeps.refl _
    | with_reducible apply State.issueOp_keeps
    | with_reducible apply State.fail_keeps
    | with_reducible apply State.setCryp_keeps
    | with_reducible apply State.startLong_keeps
    | with_reducible apply State.setCtx_keeps
    | with_reducible apply Keeps.ite
    | (extract_lets +onlyGivenNames x; refine Keeps.cut (x := x) ?_ ?_; (on_goal 2 => intro _; clear_value x); (on_goal 1 => subst x))
    | (extract_lets +onlyGivenNames x; clear_value x)
    | split

end Sys2Proof.Machine
end

