-- ==== Sys2Proof/Laws/KeepsFuseRows.lean ====
section
/-! SUPPORT. What the operations of Machine/FuseRows.lean keep. -/

namespace Sys2Proof.Machine

theorem State.fuseEnd_keeps {s0 : State} {s : State} {r : Nat} (hk : Keeps s0 s) :
    Keeps s0 (State.fuseEnd s r) := by
  unfold State.fuseEnd
  repeat' first
    | with_reducible assumption
    | with_reducible exact Keeps.refl _
    | (extract_lets +onlyGivenNames x; refine Keeps.cut (x := x) ?_ ?_; (on_goal 2 => intro _; clear_value x); (on_goal 1 => subst x))
    | (extract_lets +onlyGivenNames x; (have h1 : FuseS := x); clear h1; subst x)
    | fail_if_no_progress (with_reducible refine Keeps.lit ?_ (by first | exact Nat.le_refl _ | omega) (by first | exact Nat.le_refl _ | omega) (fun w hw => by first | exact hw | exact mem_insertNat.2 (Or.inr hw)))

theorem State.program_keeps {s0 : State} {s : State} {op : Nat} {word : Nat} {arg : Nat} {data : Word} (hk : Keeps s0 s) :
    Keeps s0 (State.program s op word arg data) := by
  unfold State.program
  repeat' first
    | with_reducible assumption
    | with_reducible exact Keeps.refl _
    | (extract_lets +onlyGivenNames x; refine Keeps.cut (x := x) ?_ ?_; (on_goal 2 => intro _; clear_value x); (on_goal 1 => subst x))
    | (extract_lets +onlyGivenNames x; (have h1 : FuseS := x); clear h1; subst x)
    | fail_if_no_progress (with_reducible refine Keeps.lit ?_ (by first | exact Nat.le_refl _ | omega) (by first | exact Nat.le_refl _ | omega) (fun w hw => by first | exact hw | exact mem_insertNat.2 (Or.inr hw)))

theorem State.fuseTake_keeps {s0 : State} {s : State} {op : Nat} {allowed : Word → Bool} {needsAuth : Bool} {sig : Bool} {more : Word → Nat} (hk : Keeps s0 s) :
    Keeps s0 (State.fuseTake s op allowed needsAuth sig more) := by
  unfold State.fuseTake
  repeat' first
    | with_reducible assumption
    | with_reducible exact Keeps.refl _
    | with_reducible apply State.fuseEnd_keeps
    | with_reducible apply State.program_keeps
    | with_reducible apply Keeps.ite
    | split

theorem execProgramWord_keeps (authorised : Bool) (s : State) :
    KeepsRun s (execProgramWord authorised s) := by
  unfold execProgramWord
  repeat' first
    | with_reducible refine KeepsRun.next ?_
    | with_reducible assumption
    | with_reducible exact Keeps.refl _
    | with_reducible apply State.fuseTake_keeps

theorem execOwnedTransition_keeps (s : State) :
    KeepsRun s (execOwnedTransition s) := by
  unfold execOwnedTransition
  repeat' first
    | with_reducible refine KeepsRun.next ?_
    | with_reducible assumption
    | with_reducible exact Keeps.refl _
    | with_reducible apply State.fuseTake_keeps

theorem execRetiredTransition_keeps (authorised : Bool) (s : State) :
    KeepsRun s (execRetiredTransition authorised s) := by
  unfold execRetiredTransition
  repeat' first
    | with_reducible refine KeepsRun.next ?_
    | with_reducible assumption
    | with_reducible exact Keeps.refl _
    | with_reducible apply State.fuseTake_keeps

theorem execRevokeSlot_keeps (authorised : Bool) (s : State) :
    KeepsRun s (execRevokeSlot authorised s) := by
  unfold execRevokeSlot
  repeat' first
    | with_reducible refine KeepsRun.next ?_
    | with_reducible assumption
    | with_reducible exact Keeps.refl _
    | with_reducible apply State.fuseTake_keeps

theorem execSetDebugBit_keeps (authorised : Bool) (s : State) :
    KeepsRun s (execSetDebugBit authorised s) := by
  unfold execSetDebugBit
  repeat' first
    | with_reducible refine KeepsRun.next ?_
    | with_reducible assumption
    | with_reducible exact Keeps.refl _
    | with_reducible apply State.fuseTake_keeps

theorem execDebugUnlock_keeps (authorised : Bool) (s : State) :
    KeepsRun s (execDebugUnlock authorised s) := by
  unfold execDebugUnlock
  repeat' first
    | with_reducible refine KeepsRun.next ?_
    | with_reducible assumption
    | with_reducible exact Keeps.refl _
    | with_reducible apply State.fuseEnd_keeps
    | with_reducible apply Keeps.ite
    | (extract_lets +onlyGivenNames x; refine Keeps.cut (x := x) ?_ ?_; (on_goal 2 => intro _; clear_value x); (on_goal 1 => subst x))
    | (extract_lets +onlyGivenNames x; (have h1 : FuseS := x); clear h1; subst x)
    | (extract_lets +onlyGivenNames x; clear_value x)
    | split
    | fail_if_no_progress (with_reducible refine Keeps.lit ?_ (by first | exact Nat.le_refl _ | omega) (by first | exact Nat.le_refl _ | omega) (fun w hw => by first | exact hw | exact mem_insertNat.2 (Or.inr hw)))

theorem State.setFuse_keeps {s0 : State} {s : State} {i : Nat} {v : Word} (hk : Keeps s0 s) :
    Keeps s0 (State.setFuse s i v) := by
  unfold State.setFuse
  repeat' first
    | with_reducible assumption
    | with_reducible exact Keeps.refl _
    | (extract_lets +onlyGivenNames x; refine Keeps.cut (x := x) ?_ ?_; (on_goal 2 => intro _; clear_value x); (on_goal 1 => subst x))
    | (extract_lets +onlyGivenNames x; (have h1 : FuseS := x); clear h1; subst x)
    | fail_if_no_progress (with_reducible refine Keeps.lit ?_ (by first | exact Nat.le_refl _ | omega) (by first | exact Nat.le_refl _ | omega) (fun w hw => by first | exact hw | exact mem_insertNat.2 (Or.inr hw)))

theorem State.blowBit_keeps {s0 : State} {s : State} {i : Nat} {b : Nat} (hk : Keeps s0 s) :
    Keeps s0 (State.blowBit s i b) := by
  unfold State.blowBit
  repeat' first
    | with_reducible assumption
    | with_reducible exact Keeps.refl _
    | with_reducible apply State.setFuse_keeps

theorem State.blowArb_keeps {s0 : State} {s : State} {n : Nat} {blown : Nat → Bool} (hk : Keeps s0 s) :
    Keeps s0 (State.blowArb s n blown) := by
  unfold State.blowArb
  repeat' first
    | with_reducible assumption
    | (intro _; try beta_reduce)
    | with_reducible exact Keeps.refl _
    | with_reducible apply State.blowBit_keeps
    | with_reducible apply Keeps.foldl
    | with_reducible apply Keeps.foldlFst
    | with_reducible apply Keeps.foldlSnd
    | with_reducible apply Keeps.ite

theorem execFuseProgramComplete_keeps (failed : List Nat) (s : State) :
    KeepsRun s (execFuseProgramComplete failed s) := by
  unfold execFuseProgramComplete
  repeat' first
    | with_reducible refine KeepsRun.next ?_
    | with_reducible assumption
    | with_reducible exact Keeps.refl _
    | with_reducible apply State.setFuse_keeps
    | with_reducible apply State.blowBit_keeps
    | with_reducible apply State.eraseStore_keeps
    | with_reducible apply State.blowArb_keeps
    | with_reducible apply Keeps.ite
    | (extract_lets +onlyGivenNames x; refine Keeps.cut (x := x) ?_ ?_; (on_goal 2 => intro _; clear_value x); (on_goal 1 => subst x))
    | (extract_lets +onlyGivenNames x; (have h1 : FuseS := x); clear h1; subst x)
    | (extract_lets +onlyGivenNames x; (first | (have h1 := fun q => x q; clear h1; subst x; beta_reduce) | clear_value x))
    | split
    | fail_if_no_progress (with_reducible refine Keeps.lit ?_ (by first | exact Nat.le_refl _ | omega) (by first | exact Nat.le_refl _ | omega) (fun w hw => by first | exact hw | exact mem_insertNat.2 (Or.inr hw)))

theorem execFuseProgramStop_keeps (fuses : Nat) (s : State) :
    KeepsRun s (execFuseProgramStop fuses s) := by
  unfold execFuseProgramStop
  repeat' first
    | with_reducible refine KeepsRun.next ?_
    | with_reducible assumption
    | with_reducible exact Keeps.refl _
    | with_reducible apply State.setFuse_keeps
    | with_reducible apply State.blowBit_keeps
    | with_reducible apply State.blowArb_keeps
    | with_reducible apply Keeps.ite
    | (extract_lets +onlyGivenNames x; refine Keeps.cut (x := x) ?_ ?_; (on_goal 2 => intro _; clear_value x); (on_goal 1 => subst x))
    | (extract_lets +onlyGivenNames x; (have h1 : FuseS := x); clear h1; subst x)
    | (extract_lets +onlyGivenNames x; clear_value x)
    | split
    | fail_if_no_progress (with_reducible refine Keeps.lit ?_ (by first | exact Nat.le_refl _ | omega) (by first | exact Nat.le_refl _ | omega) (fun w hw => by first | exact hw | exact mem_insertNat.2 (Or.inr hw)))

theorem execParameterStoreCommit_keeps (full : Bool) (s : State) :
    KeepsRun s (execParameterStoreCommit full s) := by
  unfold execParameterStoreCommit
  repeat' first
    | with_reducible refine KeepsRun.next ?_
    | with_reducible assumption
    | with_reducible exact Keeps.refl _
    | with_reducible apply State.log_keeps
    | with_reducible apply Keeps.ite
    | (extract_lets +onlyGivenNames x; refine Keeps.cut (x := x) ?_ ?_; (on_goal 2 => intro _; clear_value x); (on_goal 1 => subst x))
    | (extract_lets +onlyGivenNames x; (first | (have h1 := fun q => x q; clear h1; subst x; beta_reduce) | clear_value x))
    | split
    | fail_if_no_progress (with_reducible refine Keeps.lit ?_ (by first | exact Nat.le_refl _ | omega) (by first | exact Nat.le_refl _ | omega) (fun w hw => hw))

end Sys2Proof.Machine
end

