-- ==== Sys2Proof/Laws/KeepsMgmtRows.lean ====
section
/-! SUPPORT. What the operations of Machine/MgmtRows.lean keep. -/

namespace Sys2Proof.Machine

theorem execEntdaa_keeps (address : Nat) (s : State) :
    KeepsRun s (execEntdaa address s) := by
  unfold execEntdaa
  repeat' first
    | with_reducible refine KeepsRun.next ?_
    | with_reducible assumption
    | with_reducible exact Keeps.refl _
    | with_reducible apply Keeps.ite
    | (extract_lets +onlyGivenNames x; refine Keeps.cut (x := x) ?_ ?_; (on_goal 2 => intro _; clear_value x); (on_goal 1 => subst x))
    | (extract_lets +onlyGivenNames x; clear_value x)
    | split
    | fail_if_no_progress (with_reducible refine Keeps.lit ?_ (by first | exact Nat.le_refl _ | omega) (by first | exact Nat.le_refl _ | omega) (fun w hw => hw))

theorem State.mctpSubmit_keeps {s0 : State} {s : State} {prio : Nat} {items : List Word} (hk : Keeps s0 s) :
    Keeps s0 (State.mctpSubmit s prio items) := by
  unfold State.mctpSubmit
  repeat' first
    | with_reducible assumption
    | with_reducible exact Keeps.refl _
    | with_reducible apply State.moveMctp_keeps
    | with_reducible apply Keeps.ite
    | (extract_lets +onlyGivenNames x; refine Keeps.cut (x := x) ?_ ?_; (on_goal 2 => intro _; clear_value x); (on_goal 1 => subst x))
    | (extract_lets +onlyGivenNames x; clear_value x)
    | split
    | fail_if_no_progress (with_reducible refine Keeps.lit ?_ (by first | exact Nat.le_refl _ | omega) (by first | exact Nat.le_refl _ | omega) (fun w hw => hw))

theorem execSubmit_keeps (prio : Nat) (items : List Word) (s : State) :
    KeepsRun s (execSubmit prio items s) := by
  unfold execSubmit
  repeat' first
    | with_reducible refine KeepsRun.next ?_
    | with_reducible assumption
    | with_reducible exact Keeps.refl _
    | with_reducible apply State.mctpSubmit_keeps

theorem execFmApi_keeps (prio : Nat) (items : List Word) (s : State) :
    KeepsRun s (execFmApi prio items s) := by
  unfold execFmApi
  repeat' first
    | with_reducible refine KeepsRun.next ?_
    | with_reducible assumption
    | with_reducible exact Keeps.refl _
    | with_reducible apply State.mctpSubmit_keeps

theorem execResult_keeps (count : Nat) (s : State) :
    KeepsRun s (execResult count s) := by
  unfold execResult
  repeat' first
    | with_reducible refine KeepsRun.next ?_
    | with_reducible assumption
    | with_reducible exact Keeps.refl _
    | with_reducible apply State.emit_keeps
    | with_reducible apply Keeps.ite
    | (extract_lets +onlyGivenNames x; refine Keeps.cut (x := x) ?_ ?_; (on_goal 2 => intro _; clear_value x); (on_goal 1 => subst x))
    | (extract_lets +onlyGivenNames x; clear_value x)
    | split
    | fail_if_no_progress (with_reducible refine Keeps.lit ?_ (by first | exact Nat.le_refl _ | omega) (by first | exact Nat.le_refl _ | omega) (fun w hw => hw))

theorem execEvent_keeps (s : State) :
    KeepsRun s (execEvent s) := by
  unfold execEvent
  repeat' first
    | with_reducible refine KeepsRun.next ?_
    | with_reducible assumption
    | with_reducible exact Keeps.refl _
    | with_reducible apply State.emit_keeps
    | (extract_lets +onlyGivenNames x; refine Keeps.cut (x := x) ?_ ?_; (on_goal 2 => intro _; clear_value x); (on_goal 1 => subst x))
    | (extract_lets +onlyGivenNames x; clear_value x)
    | split
    | fail_if_no_progress (with_reducible refine Keeps.lit ?_ (by first | exact Nat.le_refl _ | omega) (by first | exact Nat.le_refl _ | omega) (fun w hw => hw))

theorem State.pread_keeps {s0 : State} {s : State} {id : Nat} (hk : Keeps s0 s) :
    Keeps s0 (State.pread s id).2 := by
  unfold State.pread
  repeat' first
    | with_reducible assumption
    | with_reducible exact Keeps.refl _
    | with_reducible apply State.beforeRead_keeps
    | with_reducible apply State.afterRead_keeps
    | with_reducible apply Keeps.ite
    | (extract_lets +onlyGivenNames x; refine Keeps.cut (x := x) ?_ ?_; (on_goal 2 => intro _; clear_value x); (on_goal 1 => subst x))
    | (extract_lets +onlyGivenNames x; clear_value x)
    | split

theorem execPread_keeps (ids : List Nat) (s : State) :
    KeepsRun s (execPread ids s) := by
  unfold execPread
  repeat' first
    | with_reducible refine KeepsRun.next ?_
    | (intro _; try beta_reduce)
    | with_reducible assumption
    | with_reducible exact Keeps.refl _
    | with_reducible apply State.emit_keeps
    | with_reducible apply State.pread_keeps
    | (refine Keeps.ofSnd (State.pread_keeps ?_) (by assumption))
    | with_reducible apply Keeps.foldl
    | with_reducible apply Keeps.foldlFst
    | with_reducible apply Keeps.foldlSnd
    | with_reducible apply Keeps.ite

theorem execMctpControl_keeps (type : Nat) (s : State) :
    KeepsRun s (execMctpControl type s) := by
  unfold execMctpControl
  repeat' first
    | with_reducible refine KeepsRun.next ?_
    | with_reducible assumption
    | with_reducible exact Keeps.refl _
    | with_reducible apply State.emit_keeps
    | with_reducible apply Keeps.ite

theorem execComponentCommand_keeps (opcode : Nat) (addr : Nat) (data : Line) (s : State) :
    KeepsRun s (execComponentCommand opcode addr data s) := by
  unfold execComponentCommand
  repeat' first
    | with_reducible refine KeepsRun.next ?_
    | with_reducible assumption
    | with_reducible exact Keeps.refl _
    | with_reducible apply State.mailStore_keeps
    | with_reducible apply State.mailRead_keeps
    | with_reducible apply Keeps.ite

end Sys2Proof.Machine
end

