-- ==== Sys2Proof/Laws/KeepsTapRows.lean ====
section
/-! SUPPORT. What the operations of Machine/TapRows.lean keep. -/

namespace Sys2Proof.Machine

theorem State.loadIr_keeps {s0 : State} {s : State} {code : Nat} (hk : Keeps s0 s) :
    Keeps s0 (State.loadIr s code) := by
  unfold State.loadIr
  repeat' first
    | with_reducible assumption
    | with_reducible exact Keeps.refl _
    | (extract_lets +onlyGivenNames x; refine Keeps.cut (x := x) ?_ ?_; (on_goal 2 => intro _; clear_value x); (on_goal 1 => subst x))
    | (extract_lets +onlyGivenNames x; clear_value x)
    | fail_if_no_progress (with_reducible refine Keeps.lit ?_ (by first | exact Nat.le_refl _ | omega) (by first | exact Nat.le_refl _ | omega) (fun w hw => hw))

theorem State.loadDriving_keeps {s0 : State} {s : State} {code : Nat} (hk : Keeps s0 s) :
    Keeps s0 (State.loadDriving s code) := by
  unfold State.loadDriving
  repeat' first
    | with_reducible assumption
    | with_reducible exact Keeps.refl _
    | with_reducible apply State.loadIr_keeps
    | with_reducible apply Keeps.ite
    | (extract_lets +onlyGivenNames x; refine Keeps.cut (x := x) ?_ ?_; (on_goal 2 => intro _; clear_value x); (on_goal 1 => subst x))
    | (extract_lets +onlyGivenNames x; clear_value x)
    | split
    | fail_if_no_progress (with_reducible refine Keeps.lit ?_ (by first | exact Nat.le_refl _ | omega) (by first | exact Nat.le_refl _ | omega) (fun w hw => hw))

theorem execExtest_keeps (s : State) :
    KeepsRun s (execExtest s) := by
  unfold execExtest
  repeat' first
    | with_reducible refine KeepsRun.next ?_
    | with_reducible assumption
    | with_reducible exact Keeps.refl _
    | with_reducible apply State.loadDriving_keeps

theorem execIdcode_keeps (s : State) :
    KeepsRun s (execIdcode s) := by
  unfold execIdcode
  repeat' first
    | with_reducible refine KeepsRun.next ?_
    | with_reducible assumption
    | with_reducible exact Keeps.refl _
    | with_reducible apply State.loadIr_keeps

theorem execSamplePreload_keeps (s : State) :
    KeepsRun s (execSamplePreload s) := by
  unfold execSamplePreload
  repeat' first
    | with_reducible refine KeepsRun.next ?_
    | with_reducible assumption
    | with_reducible exact Keeps.refl _
    | with_reducible apply State.loadIr_keeps

theorem execClamp_keeps (s : State) :
    KeepsRun s (execClamp s) := by
  unfold execClamp
  repeat' first
    | with_reducible refine KeepsRun.next ?_
    | with_reducible assumption
    | with_reducible exact Keeps.refl _
    | with_reducible apply State.loadDriving_keeps

theorem execHighz_keeps (s : State) :
    KeepsRun s (execHighz s) := by
  unfold execHighz
  repeat' first
    | with_reducible refine KeepsRun.next ?_
    | with_reducible assumption
    | with_reducible exact Keeps.refl _
    | with_reducible apply State.loadDriving_keeps

theorem execExtestPulse_keeps (s : State) :
    KeepsRun s (execExtestPulse s) := by
  unfold execExtestPulse
  repeat' first
    | with_reducible refine KeepsRun.next ?_
    | with_reducible assumption
    | with_reducible exact Keeps.refl _
    | with_reducible apply State.loadDriving_keeps

theorem execExtestTrain_keeps (s : State) :
    KeepsRun s (execExtestTrain s) := by
  unfold execExtestTrain
  repeat' first
    | with_reducible refine KeepsRun.next ?_
    | with_reducible assumption
    | with_reducible exact Keeps.refl _
    | with_reducible apply State.loadDriving_keeps

theorem execBypass_keeps (s : State) :
    KeepsRun s (execBypass s) := by
  unfold execBypass
  repeat' first
    | with_reducible refine KeepsRun.next ?_
    | with_reducible assumption
    | with_reducible exact Keeps.refl _
    | with_reducible apply State.loadIr_keeps

theorem execPrivateTapInstruction_keeps (code : Nat) (s : State) :
    KeepsRun s (execPrivateTapInstruction code s) := by
  unfold execPrivateTapInstruction
  repeat' first
    | with_reducible refine KeepsRun.next ?_
    | with_reducible assumption
    | with_reducible exact Keeps.refl _
    | with_reducible apply State.loadIr_keeps

theorem execScanHold_keeps (s : State) :
    KeepsRun s (execScanHold s) := by
  unfold execScanHold
  repeat' first
    | with_reducible refine KeepsRun.next ?_
    | (intro _; try beta_reduce)
    | with_reducible assumption
    | with_reducible exact Keeps.refl _
    | with_reducible apply State.linksDown_keeps
    | with_reducible apply State.loseTwin_keeps
    | with_reducible apply State.quiesce_keeps
    | with_reducible apply State.savePhases_keeps
    | with_reducible apply Keeps.foldl
    | with_reducible apply Keeps.foldlFst
    | with_reducible apply Keeps.foldlSnd
    | with_reducible apply Keeps.ite
    | (extract_lets +onlyGivenNames x; refine Keeps.cut (x := x) ?_ ?_; (on_goal 2 => intro _; clear_value x); (on_goal 1 => subst x))
    | (extract_lets +onlyGivenNames x; (first | (have h1 := fun q => x q; clear h1; subst x; beta_reduce) | clear_value x))
    | split
    | fail_if_no_progress (with_reducible refine Keeps.lit ?_ (by first | exact Nat.le_refl _ | omega) (by first | exact Nat.le_refl _ | omega) (fun w hw => hw))

theorem execCaptureDr_keeps (lands : Nat) (s : State) :
    KeepsRun s (execCaptureDr lands s) := by
  unfold execCaptureDr
  repeat' first
    | with_reducible refine KeepsRun.next ?_
    | with_reducible assumption
    | with_reducible exact Keeps.refl _
    | with_reducible apply State.drawWord_keeps
    | (refine Keeps.ofSnd (State.drawWord_keeps ?_) (by assumption))
    | with_reducible apply Keeps.ite
    | (extract_lets +onlyGivenNames x; refine Keeps.cut (x := x) ?_ ?_; (on_goal 2 => intro _; clear_value x); (on_goal 1 => subst x))
    | (extract_lets +onlyGivenNames x; clear_value x)
    | split
    | fail_if_no_progress (with_reducible refine Keeps.lit ?_ (by first | exact Nat.le_refl _ | omega) (by first | exact Nat.le_refl _ | omega) (fun w hw => hw))

theorem execUpdateDr_keeps (value : Nat) (s : State) :
    KeepsRun s (execUpdateDr value s) := by
  unfold execUpdateDr
  repeat' first
    | with_reducible refine KeepsRun.next ?_
    | with_reducible assumption
    | with_reducible exact Keeps.refl _
    | with_reducible apply Keeps.ite
    | (extract_lets +onlyGivenNames x; refine Keeps.cut (x := x) ?_ ?_; (on_goal 2 => intro _; clear_value x); (on_goal 1 => subst x))
    | (extract_lets +onlyGivenNames x; clear_value x)
    | split
    | fail_if_no_progress (with_reducible refine Keeps.lit ?_ (by first | exact Nat.le_refl _ | omega) (by first | exact Nat.le_refl _ | omega) (fun w hw => hw))

theorem execTapReset_keeps (s : State) :
    KeepsRun s (execTapReset s) := by
  unfold execTapReset
  repeat' first
    | with_reducible refine KeepsRun.next ?_
    | with_reducible assumption
    | with_reducible exact Keeps.refl _
    | (extract_lets +onlyGivenNames x; refine Keeps.cut (x := x) ?_ ?_; (on_goal 2 => intro _; clear_value x); (on_goal 1 => subst x))
    | (extract_lets +onlyGivenNames x; clear_value x)
    | fail_if_no_progress (with_reducible refine Keeps.lit ?_ (by first | exact Nat.le_refl _ | omega) (by first | exact Nat.le_refl _ | omega) (fun w hw => hw))

end Sys2Proof.Machine
end

