-- ==== Sys2Proof/Laws/KeepsTick.lean ====
section
/-! SUPPORT. What the operations of Machine/Tick.lean keep. -/

namespace Sys2Proof.Machine

theorem State.drainStep_keeps {s0 : State} {s : State} {k : Nat} (hk : Keeps s0 s) :
    Keeps s0 (State.drainStep s k) := by
  unfold State.drainStep
  repeat' first
    | with_reducible assumption
    | with_reducible exact Keeps.refl _
    | with_reducible apply State.setChan_keeps
    | with_reducible apply State.issueWrite_keeps
    | with_reducible apply Keeps.ite

theorem State.countTime_keeps {s0 : State} {s : State} (hk : Keeps s0 s) :
    Keeps s0 (State.countTime s) := by
  unfold State.countTime
  repeat' first
    | with_reducible assumption
    | with_reducible exact Keeps.refl _
    | with_reducible apply State.drawWord_keeps
    | (refine Keeps.ofSnd (State.drawWord_keeps ?_) (by assumption))
    | (extract_lets +onlyGivenNames x; refine Keeps.cut (x := x) ?_ ?_; (on_goal 2 => intro _; clear_value x); (on_goal 1 => subst x))
    | (extract_lets +onlyGivenNames x; clear_value x)
    | split
    | fail_if_no_progress (with_reducible refine Keeps.lit ?_ (by first | exact Nat.le_refl _ | omega) (by first | exact Nat.le_refl _ | omega) (fun w hw => hw))

theorem State.countCycles_keeps {s0 : State} {s : State} {id : Nat} (hk : Keeps s0 s) :
    Keeps s0 (State.countCycles s id) := by
  unfold State.countCycles
  repeat' first
    | with_reducible assumption
    | (intro _; try beta_reduce)
    | with_reducible exact Keeps.refl _
    | with_reducible apply State.bump_keeps
    | with_reducible apply Keeps.foldl
    | with_reducible apply Keeps.foldlFst
    | with_reducible apply Keeps.foldlSnd
    | with_reducible apply Keeps.ite

theorem State.tick_keeps {s0 : State} {s : State} (hk : Keeps s0 s) :
    Keeps s0 (State.tick s) := by
  unfold State.tick
  repeat' first
    | with_reducible assumption
    | (intro _; try beta_reduce)
    | with_reducible exact Keeps.refl _
    | with_reducible apply State.countTime_keeps
    | with_reducible apply State.countCycles_keeps
    | with_reducible apply State.drainStep_keeps
    | with_reducible apply Keeps.foldl

end Sys2Proof.Machine
end

