-- ==== Sys2Proof/Laws/KeepsStep.lean ====
section
/-! SUPPORT. What every command keeps, over all commands. -/

namespace Sys2Proof.Machine

/-- Every command answers a next state, and keeps what every operation of the model keeps. -/
theorem exec_keeps (c : Instr) (s : State) : KeepsRun s (exec c s) := by
  match c with
  | .powerOnReset => exact execPowerOnReset_keeps s
  | .stepTableRead => exact execStepTableRead_keeps s
  | .start => exact execStart_keeps s
  | .autoStart => exact execAutoStart_keeps s
  | .psPgAccept input high => exact execPsPgAccept_keeps input high s
  | .signalFilterAccept pfw asserted => exact execSignalFilterAccept_keeps pfw asserted s
  | .railStepStart => exact execRailStepStart_keeps s
  | .stepWindowEnd => exact execStepWindowEnd_keeps s
  | .stepDelayEnd => exact execStepDelayEnd_keeps s
  | .stepTimeout => exact execStepTimeout_keeps s
  | .bootSlotCheck vendor digest owner => exact execBootSlotCheck_keeps vendor digest owner s
  | .firmwareStart migrate older badBlocks badKeys programs => exact execFirmwareStart_keeps migrate older badBlocks badKeys programs s
  | .ucieLinkTrained tile => exact execUcieLinkTrained_keeps tile s
  | .hostLinkTrained tile link partner width => exact execHostLinkTrained_keeps tile link partner width s
  | .dimmDiscovery tile s0 s1 s2 s3 s4 s5 s6 s7 => exact execDimmDiscovery_keeps tile s0 s1 s2 s3 s4 s5 s6 s7 s
  | .dramTrainingStep tile channel pass => exact execDramTrainingStep_keeps tile channel pass s
  | .dramTrainingComplete tile channel => exact execDramTrainingComplete_keeps tile channel s
  | .thatchMount tile page scan => exact execThatchMount_keeps tile page scan s
  | .isaharLinkTrained tile part tiles pair master flight rate gcm ok0 ok1 => exact execIsaharLinkTrained_keeps tile part tiles pair master flight rate gcm ok0 ok1 s
  | .recordSummary epoch lastSeq valid preferred => exact execRecordSummary_keeps epoch lastSeq valid preferred s
  | .pairWaitExpiry => exact execPairWaitExpiry_keeps s
  | .bringUpComplete => exact execBringUpComplete_keeps s
  | .openRecordWrite tile => exact execOpenRecordWrite_keeps tile s
  | .restoreLoad tile => exact execRestoreLoad_keeps tile s
  | .restoreDemandFault tile page => exact execRestoreDemandFault_keeps tile page s
  | .verifyLine tile err => exact execVerifyLine_keeps tile err s
  | .restoreComplete => exact execRestoreComplete_keeps s
  | .fullSpeedStep tile channel => exact execFullSpeedStep_keeps tile channel s
  | .conversionLapGroup tile channel ends errs => exact execConversionLapGroup_keeps tile channel ends errs s
  | .warmReset => exact execWarmReset_keeps s
  | .tileReset tile => exact execTileReset_keeps tile s
  | .tapReset => exact execTapReset_keeps s
  | .perstAssert tile link => exact execPerstAssert_keeps tile link s
  | .perstDeassert tile link => exact execPerstDeassert_keeps tile link s
  | .hotReset tile link => exact execHotReset_keeps tile link s
  | .cxlMemRead tile link ld tag hpa => exact execCxlMemRead_keeps tile link ld tag hpa s
  | .cxlMemStore tile link ld tag hpa mask data poison => exact execCxlMemStore_keeps tile link ld tag hpa mask data poison s
  | .uioRequest via write tile link ld tag hpa len data => exact execUioRequest_keeps via write tile link ld tag hpa len data s
  | .remoteAtomic via op bytes tile link ld tag hpa a b => exact execRemoteAtomic_keeps via op bytes tile link ld tag hpa a b s
  | .unsupportedRequest tile link ld tag => exact execUnsupportedRequest_keeps tile link ld tag s
  | .violationInterrupt tile ld => exact execViolationInterrupt_keeps tile ld s
  | .orderGateRelease owner source stamp => exact execOrderGateRelease_keeps owner source stamp s
  | .unackedReadRelease tile => exact execUnackedReadRelease_keeps tile s
  | .homeTlbFill tile page => exact execHomeTlbFill_keeps tile page s
  | .tidelineRoomGrant tile => exact execTidelineRoomGrant_keeps tile s
  | .tidelineBitmapFill tile group => exact execTidelineBitmapFill_keeps tile group s
  | .mergeEntryFree tile => exact execMergeEntryFree_keeps tile s
  | .mergeWriteOut tile off => exact execMergeWriteOut_keeps tile off s
  | .mergeEntryAge tile off => exact execMergeEntryAge_keeps tile off s
  | .eavesEviction tile set way => exact execEavesEviction_keeps tile set way s
  | .stridePrefetch tile sess ld => exact execStridePrefetch_keeps tile sess ld s
  | .creditReturn tile link => exact execCreditReturn_keeps tile link s
  | .gpfPhase1 tile link tag => exact execGpfPhase1_keeps tile link tag s
  | .gpfPhase2 tile link tag => exact execGpfPhase2_keeps tile link tag s
  | .getPoisonList tile ld => exact execGetPoisonList_keeps tile ld s
  | .injectPoison tile ld addr => exact execInjectPoison_keeps tile ld addr s
  | .clearPoison tile ld addr data => exact execClearPoison_keeps tile ld addr data s
  | .getHealthInfo tile ld => exact execGetHealthInfo_keeps tile ld s
  | .hdmDecoderCommit tile ld decoder base size ways gran => exact execHdmDecoderCommit_keeps tile ld decoder base size ways gran s
  | .addDynamicCapacityResponse tile ld window => exact execAddDynamicCapacityResponse_keeps tile ld window s
  | .releaseDynamicCapacity tile ld window => exact execReleaseDynamicCapacity_keeps tile ld window s
  | .dcReleaseTimeout tile ld window => exact execDcReleaseTimeout_keeps tile ld window s
  | .ideKm tile ld keySet containment => exact execIdeKm_keeps tile ld keySet containment s
  | .ideIntegrityFail tile link => exact execIdeIntegrityFail_keeps tile link s
  | .spdmRequest tile ld request => exact execSpdmRequest_keeps tile ld request s
  | .sqDoorbell tile ld value items => exact execSqDoorbell_keeps tile ld value items s
  | .cmdDoorbell tile ld value item0 item1 => exact execCmdDoorbell_keeps tile ld value item0 item1 s
  | .cqHead tile ld value => exact execCqHead_keeps tile ld value s
  | .vlogHead tile ld value => exact execVlogHead_keeps tile ld value s
  | .tidemarkRead tile ld tag four => exact execTidemarkRead_keeps tile ld tag four s
  | .violLost tile ld tag => exact execViolLost_keeps tile ld tag s
  | .slipwayWrite tile link ld tag hpa mask data => exact execSlipwayWrite_keeps tile link ld tag hpa mask data s
  | .slipwayIdleTimeout sess => exact execSlipwayIdleTimeout_keeps sess s
  | .msiX tile ld vector => exact execMsiX_keeps tile ld vector s
  | .submission ctx => exact execSubmission_keeps ctx s
  | .contextLoad tile thread => exact execContextLoad_keeps tile thread s
  | .quantumExpiry tile thread => exact execQuantumExpiry_keeps tile thread s
  | .completionRecord ctx => exact execCompletionRecord_keeps ctx s
  | .completionSpace ctx => exact execCompletionSpace_keeps ctx s
  | .idle ctx => exact execIdle_keeps ctx s
  | .idleTimeout ctx => exact execIdleTimeout_keeps ctx s
  | .nop ctx => exact execNop_keeps ctx s
  | .wait ctx => exact execWait_keeps ctx s
  | .waitEnd ctx => exact execWaitEnd_keeps ctx s
  | .halt ctx => exact execHalt_keeps ctx s
  | .time ctx => exact execTime_keeps ctx s
  | .br ctx => exact execBr_keeps ctx s
  | .bz ctx => exact execBz_keeps ctx s
  | .bnz ctx => exact execBnz_keeps ctx s
  | .loop ctx => exact execLoop_keeps ctx s
  | .callp ctx => exact execCallp_keeps ctx s
  | .add ctx => exact execAdd_keeps ctx s
  | .sub ctx => exact execSub_keeps ctx s
  | .and ctx => exact execAnd_keeps ctx s
  | .or ctx => exact execOr_keeps ctx s
  | .xor ctx => exact execXor_keeps ctx s
  | .shl ctx => exact execShl_keeps ctx s
  | .shr ctx => exact execShr_keeps ctx s
  | .ldi ctx => exact execLdi_keeps ctx s
  | .cmp ctx => exact execCmp_keeps ctx s
  | .getp ctx => exact execGetp_keeps ctx s
  | .stgp ctx => exact execStgp_keeps ctx s
  | .chks ctx => exact execChks_keeps ctx s
  | .apls ctx => exact execApls_keeps ctx s
  | .drops ctx => exact execDrops_keeps ctx s
  | .lockp ctx => exact execLockp_keeps ctx s
  | .stagedSetTimeout => exact execStagedSetTimeout_keeps s
  | .springTide => exact execSpringTide_keeps s
  | .tideConfirm standby tile => exact execTideConfirm_keeps standby tile s
  | .tideRelease standby tile => exact execTideRelease_keeps standby tile s
  | .tideConfirmDeadline => exact execTideConfirmDeadline_keeps s
  | .swapBack => exact execSwapBack_keeps s
  | .mainEntry => exact execMainEntry_keeps s
  | .zln ctx => exact execZln_keeps ctx s
  | .fln ctx => exact execFln_keeps ctx s
  | .pbar ctx => exact execPbar_keeps ctx s
  | .movp ctx => exact execMovp_keeps ctx s
  | .pfsc ctx => exact execPfsc_keeps ctx s
  | .pfgo ctx => exact execPfgo_keeps ctx s
  | .sopen ctx => exact execSopen_keeps ctx s
  | .sclose ctx => exact execSclose_keeps ctx s
  | .sext ctx => exact execSext_keeps ctx s
  | .sqos ctx => exact execSqos_keeps ctx s
  | .mrole ctx => exact execMrole_keeps ctx s
  | .msync ctx => exact execMsync_keeps ctx s
  | .mdig ctx => exact execMdig_keeps ctx s
  | .lease ctx => exact execLease_keeps ctx s
  | .fraw ctx decodes => exact execFraw_keeps ctx decodes s
  | .ferc ctx => exact execFerc_keeps ctx s
  | .fret ctx => exact execFret_keeps ctx s
  | .scrb ctx err => exact execScrb_keeps ctx err s
  | .pois ctx => exact execPois_keeps ctx s
  | .clrp ctx => exact execClrp_keeps ctx s
  | .fence ctx => exact execFence_keeps ctx s
  | .kunw ctx twin => exact execKunw_keeps ctx twin s
  | .kdrop ctx => exact execKdrop_keeps ctx s
  | .csav ctx => exact execCsav_keeps ctx s
  | .crst ctx => exact execCrst_keeps ctx s
  | .cryp ctx units => exact execCryp_keeps ctx units s
  | .evtw ctx => exact execEvtw_keeps ctx s
  | .csnp ctx => exact execCsnp_keeps ctx s
  | .cfrz ctx => exact execCfrz_keeps ctx s
  | .counterSnapshot => exact execCounterSnapshot_keeps s
  | .counterFreeze => exact execCounterFreeze_keeps s
  | .crd ctx => exact execCrd_keeps ctx s
  | .mark ctx => exact execMark_keeps ctx s
  | .rwnd ctx => exact execRwnd_keeps ctx s
  | .rel ctx => exact execRel_keeps ctx s
  | .fwst ctx => exact execFwst_keeps ctx s
  | .fwsel ctx => exact execFwsel_keeps ctx s
  | .save ctx => exact execSave_keeps ctx s
  | .hold ctx => exact execHold_keeps ctx s
  | .forceAuth => exact execForceAuth_keeps s
  | .frequencyChange tile => exact execFrequencyChange_keeps tile s
  | .frequencyChangeComplete tile channel found => exact execFrequencyChangeComplete_keeps tile channel found s
  | .retrainingSlice tile channel finished pass => exact execRetrainingSlice_keeps tile channel finished pass s
  | .dimmTemperatureRead tile channel t0 t1 => exact execDimmTemperatureRead_keeps tile channel t0 t1 s
  | .dqsOscillatorCheck tile channel rank drift => exact execDqsOscillatorCheck_keeps tile channel rank drift s
  | .zqCalibration tile channel rank => exact execZqCalibration_keeps tile channel rank s
  | .refreshDue tile channel rank => exact execRefreshDue_keeps tile channel rank s
  | .neighbourRefresh tile channel => exact execNeighbourRefresh_keeps tile channel s
  | .activateTableClear tile channel => exact execActivateTableClear_keeps tile channel s
  | .pageIdleClose tile channel bank => exact execPageIdleClose_keeps tile channel bank s
  | .powerDownEntry tile channel rank => exact execPowerDownEntry_keeps tile channel rank s
  | .selfRefreshEntry tile channel => exact execSelfRefreshEntry_keeps tile channel s
  | .selfRefreshExit tile channel => exact execSelfRefreshExit_keeps tile channel s
  | .pracAlert tile channel sub => exact execPracAlert_keeps tile channel sub s
  | .caParityAlert tile channel sub => exact execCaParityAlert_keeps tile channel sub s
  | .dramReadReturn tile channel sub err => exact execDramReadReturn_keeps tile channel sub err s
  | .lineRecovery tile dfa readable => exact execLineRecovery_keeps tile dfa readable s
  | .undertowRead tile channel err => exact execUndertowRead_keeps tile channel err s
  | .undertowWriteBack tile => exact execUndertowWriteBack_keeps tile s
  | .lapMaxReached tile channel => exact execLapMaxReached_keeps tile channel s
  | .ceBucketLeak tile b => exact execCeBucketLeak_keeps tile b s
  | .parityError tile place => exact execParityError_keeps tile place s
  | .residueMismatch tile cls inst => exact execResidueMismatch_keeps tile cls inst s
  | .queueEccError tile what => exact execQueueEccError_keeps tile what s
  | .eavesTagError tile set way what => exact execEavesTagError_keeps tile set way what s
  | .ucieReplayLimit tile link count => exact execUcieReplayLimit_keeps tile link count s
  | .flashing cls inst tile cause => exact execFlashing_keeps cls inst tile cause s
  | .fenceNotice holder cls inst tile => exact execFenceNotice_keeps holder cls inst tile s
  | .unitReset cls inst tile trains => exact execUnitReset_keeps cls inst tile trains s
  | .channelReload cls inst tile => exact execChannelReload_keeps cls inst tile s
  | .drainPage tile => exact execDrainPage_keeps tile s
  | .recordVerified tile page => exact execRecordVerified_keeps tile page s
  | .drainRateUpdate tile => exact execDrainRateUpdate_keeps tile s
  | .budgetRecompute tile => exact execBudgetRecompute_keeps tile s
  | .pfwLAssert => exact execPfwLAssert_keeps s
  | .pfwHoldExpiry => exact execPfwHoldExpiry_keeps s
  | .armedMaxExpiry => exact execArmedMaxExpiry_keeps s
  | .saveArmedLapse => exact execSaveArmedLapse_keeps s
  | .inputPowerGoodDrop channel => exact execInputPowerGoodDrop_keeps channel s
  | .faultLLow => exact execFaultLLow_keeps s
  | .bbuOkLow => exact execBbuOkLow_keeps s
  | .deviceRailDrop channel => exact execDeviceRailDrop_keeps channel s
  | .applianceRailDrop channel => exact execApplianceRailDrop_keeps channel s
  | .memoryRailDrop channel => exact execMemoryRailDrop_keeps channel s
  | .saveCommit cause => exact execSaveCommit_keeps cause s
  | .saveComplete tile => exact execSaveComplete_keeps tile s
  | .saveTimeout => exact execSaveTimeout_keeps s
  | .shutdownStep => exact execShutdownStep_keeps s
  | .faultLRelease => exact execFaultLRelease_keeps s
  | .thatchRowProgrammed tile blk took => exact execThatchRowProgrammed_keeps tile blk took s
  | .rowAgeExpiry tile blk => exact execRowAgeExpiry_keeps tile blk s
  | .programFail tile blk member => exact execProgramFail_keeps tile blk member s
  | .blockVerify tile blk => exact execBlockVerify_keeps tile blk s
  | .parityRebuild tile blk slot => exact execParityRebuild_keeps tile blk slot s
  | .mergeStart tile seg => exact execMergeStart_keeps tile seg s
  | .mapSwitch tile seg => exact execMapSwitch_keeps tile seg s
  | .mergeTargetFail tile blk member => exact execMergeTargetFail_keeps tile blk member s
  | .mergeRetry tile seg => exact execMergeRetry_keeps tile seg s
  | .relocation tile blk => exact execRelocation_keeps tile blk s
  | .readRetry tile blk member retries soft sess => exact execReadRetry_keeps tile blk member retries soft sess s
  | .unreadableRecord tile blk slot merge => exact execUnreadableRecord_keeps tile blk slot merge s
  | .flashScrub tile blk retries => exact execFlashScrub_keeps tile blk retries s
  | .erase tile blk member => exact execErase_keeps tile blk member s
  | .eraseSuspend tile blk member resumes => exact execEraseSuspend_keeps tile blk member resumes s
  | .targetNotReady tile target => exact execTargetNotReady_keeps tile target s
  | .flashOnlyHome tile lpage => exact execFlashOnlyHome_keeps tile lpage s
  | .backlogWalk tile => exact execBacklogWalk_keeps tile s
  | .frameSend tile path => exact execFrameSend_keeps tile path s
  | .frameReceive tile => exact execFrameReceive_keeps tile s
  | .messageReassembly tile path envelope payload => exact execMessageReassembly_keeps tile path envelope payload s
  | .reassemblyTimeout tile chan msgid => exact execReassemblyTimeout_keeps tile chan msgid s
  | .nak tile chan msgid bitmap => exact execNak_keeps tile chan msgid bitmap s
  | .receipt tile gen seq status applied => exact execReceipt_keeps tile gen seq status applied s
  | .receiptTimeout tile seq => exact execReceiptTimeout_keeps tile seq s
  | .frameApply tile => exact execFrameApply_keeps tile s
  | .lrq tile off count seqR => exact execLrq_keeps tile off count seqR s
  | .lrs tile => exact execLrs_keeps tile s
  | .lrqTimeout tile off => exact execLrqTimeout_keeps tile off s
  | .ckpt tile seq tm digest => exact execCkpt_keeps tile seq tm digest s
  | .ckok tile seq tm digest => exact execCkok_keeps tile seq tm digest s
  | .ckbad tile seq => exact execCkbad_keeps tile seq s
  | .sync tile path tidemark => exact execSync_keeps tile path tidemark s
  | .heartbeatTimeout tile path => exact execHeartbeatTimeout_keeps tile path s
  | .epoch epoch next => exact execEpoch_keeps epoch next s
  | .role message => exact execRole_keeps message s
  | .handover => exact execHandover_keeps s
  | .failbackRequest => exact execFailbackRequest_keeps s
  | .tide name message => exact execTide_keeps name message s
  | .fenceMessage cls inst cause => exact execFenceMessage_keeps cls inst cause s
  | .rset tile point pages confirmed => exact execRset_keeps tile point pages confirmed s
  | .resync tile next pages follows config => exact execResync_keeps tile next pages follows config s
  | .resyncComplete tile => exact execResyncComplete_keeps tile s
  | .leaseRenew => exact execLeaseRenew_keeps s
  | .reqRetry => exact execReqRetry_keeps s
  | .grant epoch req value => exact execGrant_keeps epoch req value s
  | .deny epoch req value => exact execDeny_keeps epoch req value s
  | .denyWaitEnd => exact execDenyWaitEnd_keeps s
  | .ack req => exact execAck_keeps req s
  | .leaseDeadline => exact execLeaseDeadline_keeps s
  | .readAbandon => exact execReadAbandon_keeps s
  | .req pair port epoch reqno value force => exact execReq_keeps pair port epoch reqno value force s
  | .bump pair port epoch reqno => exact execBump_keeps pair port epoch reqno s
  | .release pair port reqno => exact execRelease_keeps pair port reqno s
  | .report pair port reqno cause => exact execReport_keeps pair port reqno cause s
  | .witnessLeaseExpiry pair => exact execWitnessLeaseExpiry_keeps pair s
  | .tierMove tile lpage => exact execTierMove_keeps tile lpage s
  | .pendrelClear tile frame => exact execPendrelClear_keeps tile frame s
  | .htpendClear tile frame => exact execHtpendClear_keeps tile frame s
  | .victimSweep tile sess => exact execVictimSweep_keeps tile sess s
  | .neighbourRead tile lpage line => exact execNeighbourRead_keeps tile lpage line s
  | .peerUnitRequest tile link ld tag peer addr write data => exact execPeerUnitRequest_keeps tile link ld tag peer addr write data s
  | .neighbourTimeout tile id => exact execNeighbourTimeout_keeps tile id s
  | .neighbourLate tile id => exact execNeighbourLate_keeps tile id s
  | .openLoan tile loan received => exact execOpen_keeps tile loan received s
  | .openok tile loan => exact execOpenok_keeps tile loan s
  | .recall tile loan notice => exact execRecall_keeps tile loan notice s
  | .recallNoticeEnd tile loan => exact execRecallNoticeEnd_keeps tile loan s
  | .returned tile loan => exact execReturned_keeps tile loan s
  | .endLoan tile loan => exact execEnd_keeps tile loan s
  | .loanRestage tile loan => exact execLoanRestage_keeps tile loan s
  | .regionEntry sess sched page => exact execRegionEntry_keeps sess sched page s
  | .hardTimeout tile link tag => exact execHardTimeout_keeps tile link tag s
  | .battenGrant tile cmdItem raised ended => exact execBattenGrant_keeps tile cmdItem raised ended s
  | .forcedWin tile => exact execForcedWin_keeps tile s
  | .eventRecord tile sev block inst kind detail arg => exact execEventRecord_keeps tile sev block inst kind detail arg s
  | .recorderFlush tile => exact execRecorderFlush_keeps tile s
  | .flushCommit tile => exact execFlushCommit_keeps tile s
  | .recRdData reader => exact execRecRdData_keeps reader s
  | .counterOverflow tile block counter => exact execCounterOverflow_keeps tile block counter s
  | .pmcCntWrite tile block counter pl value events => exact execPmcCntWrite_keeps tile block counter pl value events s
  | .optimeWrite => exact execOptimeWrite_keeps s
  | .tidemarkSync tile => exact execTidemarkSync_keeps tile s
  | .tsyncIn => exact execTsyncIn_keeps s
  | .ptmExchange tile link => exact execPtmExchange_keeps tile link s
  | .disciplineTimeout => exact execDisciplineTimeout_keeps s
  | .tidemarkFloorAppend => exact execTidemarkFloorAppend_keeps s
  | .skewLimit between tile ticks => exact execSkewLimit_keeps between tile ticks s
  | .parameterStoreCommit full => exact execParameterStoreCommit_keeps full s
  | .fwSoc soc => exact execFwSoc_keeps soc s
  | .programWord authorised => exact execProgramWord_keeps authorised s
  | .ownedTransition => exact execOwnedTransition_keeps s
  | .retiredTransition authorised => exact execRetiredTransition_keeps authorised s
  | .revokeSlot authorised => exact execRevokeSlot_keeps authorised s
  | .setDebugBit authorised => exact execSetDebugBit_keeps authorised s
  | .debugUnlock authorised => exact execDebugUnlock_keeps authorised s
  | .fuseProgramStop fuses => exact execFuseProgramStop_keeps fuses s
  | .bistCtl tile mask => exact execBistCtl_keeps tile mask s
  | .submit prio items => exact execSubmit_keeps prio items s
  | .result count => exact execResult_keeps count s
  | .pread ids => exact execPread_keeps ids s
  | .event => exact execEvent_keeps s
  | .mctpControl type => exact execMctpControl_keeps type s
  | .fmApi prio items => exact execFmApi_keeps prio items s
  | .componentCommand opcode addr data => exact execComponentCommand_keeps opcode addr data s
  | .entdaa address => exact execEntdaa_keeps address s
  | .extest => exact execExtest_keeps s
  | .idcode => exact execIdcode_keeps s
  | .samplePreload => exact execSamplePreload_keeps s
  | .clamp => exact execClamp_keeps s
  | .highz => exact execHighz_keeps s
  | .extestPulse => exact execExtestPulse_keeps s
  | .extestTrain => exact execExtestTrain_keeps s
  | .bypass => exact execBypass_keeps s
  | .privTapInstruction code => exact execPrivateTapInstruction_keeps code s
  | .scanHold => exact execScanHold_keeps s
  | .configurationRequest tile link ld tag request => exact execConfigurationRequest_keeps tile link ld tag request s
  | .eraseComplete tile blk member ok => exact execEraseComplete_keeps tile blk member ok s
  | .fuseProgramComplete failed => exact execFuseProgramComplete_keeps failed s
  | .unitRequestCompletion tile id status data => exact execUnitRequestCompletion_keeps tile id status data s
  | .witnessRestart => exact execWitnessRestart_keeps s
  | .aclkStop => exact execAclkStop_keeps s
  | .captureDr lands => exact execCaptureDr_keeps lands s
  | .updateDr value => exact execUpdateDr_keeps value s
  | .checkpointPersist tile => exact execCheckpointPersist_keeps tile s
  | .bistComplete tile endpoint fails => exact execBistComplete_keeps tile endpoint fails s

end Sys2Proof.Machine
end

