-- ==== Sys2Proof/Tests/Slice0.lean ====
section
/-! SUPPORT. Tests of the model: small states, the words written out from the spec, and for every statement states and operands that
meet its hypotheses. -/

namespace Sys2Proof.Tests

set_option Elab.async false

open Sys2Proof.Machine Sys2Proof.Safety

/-- A firmware context of tile 0, loaded, with g2 = 5 and g3 = 7, and one submission of the given words. -/
def dCtx (ws : List Word) : Ctx :=
  { created := true, tile := 0, level := 0, thread := some 15, g := [(2, 5), (3, 7)],
    waiting := [{ items := ws, prio := 0, path := .firmware, pl := 0 }] }

/-- A device in MAIN with that context. -/
def dS (ws : List Word) : State := { State.reset with mode := { mode := .main }, ctxs := [(0x1000, dCtx ws)] }

/-- An instruction that stands for none. -/
def noIssue : Issue := { word := 0, opcode := 0, index := 0, pc := 0, stored := false, cmd := false, prio := 0, path := .firmware, pl := 0, subid := 0 }

/-- The next instruction of a context, and the context with its items consumed. -/
def nI (s : State) (n : Nat) : Issue := ((s.readNext n).getD (noIssue, {})).1
def nC (s : State) (n : Nat) : Ctx := ((s.readNext n).getD (noIssue, {})).2

/-- The same device with the context inside a called program of its program store, at the given word; g4 = 1. -/
def dProg (w : Word) : State :=
  { State.reset with
    mode := { mode := .main }, progs := [(0x101, w)],
    ctxs := [(0x1000, { created := true, thread := some 15, g := [(2, 5), (4, 1)], fetch := true, pc := 0x101, stack := [⟨false, 0⟩],
                        cur := some { sub := { items := [0x0C000000_00000001], prio := 0, path := .firmware, pl := 0 }, next := 1, high := 1 } })] }

/-- The same device with a command-class item, and a submission that runs or none. -/
def dCmd (w : Word) (running : Bool) : State :=
  { State.reset with
    mode := { mode := .main },
    ctxs := [(0x1000, { created := true, thread := some 15, g := [(2, 5), (3, 7)], cmds := [{ items := [w], prio := 7, path := .firmware, pl := 0 }],
                        cur := if running then some { sub := { items := [0, 0], prio := 0, path := .firmware, pl := 0 }, next := 1, high := 1 } else none })] }

/-- The state after a MARK of that context. -/
def dStep (s : State) : State := match exec (.mark 0x1000) s with | .next t => t | _ => s

/-- A firmware context that is ready, in a thread or in none. -/
def dIdle (th : Option Nat) : State :=
  { State.reset with mode := { mode := .main }, ctxs := [(0x1000, { dCtx [0] with thread := th })] }

/-- A message of one item that waits to enter context 0x103F, and the same where the queue has no room. -/
def dMctp : State :=
  { State.reset with
    mode := { mode := .main }, ctxs := [(0x103F, { created := true, level := 1 })],
    mgmt := { waiting := [{ items := [0x01000000_00000000], prio := 3, path := .mctp, pl := 1 }] } }
def dMctpFull : State :=
  { State.reset with
    ctxs := [(0x103F, { created := true, waiting := [{ items := List.replicate 512 0, prio := 0, path := .mctp, pl := 1 }] })],
    mgmt := { waiting := [{ items := [0], prio := 3, path := .mctp, pl := 1 }] } }

/-- A committed Slipway program of one word. -/
def dSlip : State :=
  { State.reset with
    ctxs := [(0x2C3, { created := true, level := 2 })],
    sessions := [(0x2C3, { slip := { state := .queued, count := 1, words := [(0x40, 0x01000000_00000000)] } })] }

/-- A doorbell of one item from the management LD. -/
def dBell : State :=
  { State.reset with
    ctxs := [(0x103E, { created := true, level := 1 })],
    bars := [(0, { sq := [(0, 0x01000000_00000000)], sqWait := [(1, 4)] })] }

/-- A completion record, and a context that holds it. -/
def dCpl (p : Machine.Path) : Cpl :=
  { tidemark := 0, status := .ok, opcode := 1, prio := 0, last := true, ended := false, cmd := false, pl := 0, index := 0, pc := 0, ctx := 0x1000,
    result := 0, subid := 0, path := p }
def dOut (r : Cpl) : State := { State.reset with ctxs := [(0x1000, { created := true, outbox := [r] })] }

/-- The device with a staged set of one entry, which the context owns. -/
def dSet (ws : List Word) : State :=
  { dS ws with set := { owner := some 0x1000, entries := [⟨.field 0x0FFF01 0 63 0 4000000000, 0⟩] } }

/-- Supply channels that meet every rule. -/
def powerParams : List (Nat × Word) :=
  [(pid bPwr 1023 0, 2), (pid bPwr 1023 0x10, word [(28, 1)]), (pid bPwr 1023 0x11, word [(28, 3), (8, 255), (0, 15)]),
   (pid bPwr 1023 0x12, word [(28, 4), (24, 1), (8, 255), (0, 255)])]

/-- The device with those channels, and a checked empty set that the context owns. -/
def dPower (ws : List Word) : State :=
  { dS ws with params := powerParams, set := { owner := some 0x1000, checked := true } }

/-- A session's context at PL2. -/
def dUser (ws : List Word) : State :=
  { State.reset with mode := { mode := .main },
                     ctxs := [(0x2C3, { created := true, level := 2, thread := some 1, waiting := [{ items := ws, prio := 0, path := .firmware, pl := 2 }] })] }


/-- The device where nothing refuses a firmware update, and the running slot is 0. -/
def dFw (ws : List Word) : State :=
  { dS ws with pwr := { State.reset.pwr with bbuOk := true }, params := [(pid bFw 1023 2, 100)], fw := { State.reset.fw with socAt := some 0 } }

/-- The same in a transfer: one word of the inactive slot has come. -/
def dFwX (ws : List Word) : State :=
  let s := (dFw ws).setSlot (dFw ws).inactive { words := [0x11] }
  { s with fw := { s.fw with xfer := some 0x1000 }, ctxs := [(0x1000, { dCtx ws with g := [(2, 8), (3, 7)] })] }

/-- The master count at a time. -/
def dAt (c : Nat) : TimeS := { State.reset.time with master := { count := c } }

/-- The supervisor's copy of a step table of two steps: channel 0 the input, channel 1 a rail of the appliance at step 0, channel 2 a NAND
rail at step 1. The device is about to raise step 0. -/
def dSeq : State :=
  { State.reset with
    mode := { mode := .brup },
    pwr := { State.reset.pwr with state := .sequencing, toRaise := true, cfg := [(0, 2), (0x10, 0x1000_0000), (0x11, 0x5000_0000), (0x12, 0x4100_0101)] } }

/-- The enables of step 0 are up and its power good is awaited. -/
def dSeqWait : State := { dSeq with pwr := { dSeq.pwr with toRaise := false, en := 2 } }

/-- The device runs on those rails. -/
def dRun : State := { dSeq with mode := { mode := .main }, pwr := { dSeq.pwr with state := .running, toRaise := false, en := 6, pg := 7 } }

/-- The device at the end of its bring-up: every channel is trained, every store is mounted and authority is decided. -/
def dBring : State :=
  { State.reset with
    mode := { mode := .brup }, boot := { State.reset.boot with mounted := List.range 8, dimms := List.range 8, decided := true },
    chans := (List.range 32).map (fun k => (k, { validL := true, power := .active })) }

/-- A tile that restores from an image: one extent of 2 MiB at offset 2 MiB. -/
def dImage : State :=
  { dBring with
    mode := { mode := .rstr }, boot := { dBring.boot with paths := [(0, 1)] }, tide := [(0, { htLoaded := true })],
    sessions := [(0x2C3, { isOpen := true, exts := [(0, { defined := true, dpa := 2 ^ 21, len := 2 ^ 21 })] })] }

/-- A host read of offset 2 MiB of tile 0 that waits for its page. -/
def dLoadReq : Req :=
  { src := .ctx 0x2C3, kind := .read, tile := 0, link := 0, ld := 0, tag := 0, hpa := 0, stamp := 0, since := 0, sess := 0x2C3, off := 0, dpa := 2 ^ 21 }

/-- Every tile has restored and every channel runs at full speed; this unit is authoritative. -/
def dDone : State :=
  { (List.range 8).foldl (fun s t => s.setTl t { opened := true }) dBring with
    mode := { mode := .rstr }, boot := { dBring.boot with auth := true, restored := List.range 8, fullSpeed := List.range 32 } }

/-- A save that has swapped, before any tile has ended. -/
def dSaveRun : SaveRun := { cause := 1, mode := 5, armed := false, tidemark := 0, since := 0, instant := some 0 }
def dSaving : State := { State.reset with mode := { mode := .save }, save := { State.reset.save with run := some dSaveRun } }

/-- A standalone unit in SOLO with an open session 0x2C3 on tile 0: one pinned extent of 2 MiB, bound to LD 0 of link 0. -/
def dHost : State :=
  { State.reset with
    mode := { mode := .solo }, lease := { State.reset.lease with held := true }, params := [(pid bPort 0 0x10, 0), (pid bMirr 1023 2, 1)],
    links := [(0, { up := true, perst := false, width := 16 })],
    bars := [(0, { decoders := [(0, { size := 2 ^ 21, committed := true })] })],
    binds := [{ tile := 0, link := 0, ld := 0, sess := 0x2C3, ext := 0, w := 0, state := .accepted }],
    sessions := [(0x2C3, { isOpen := true, exts := [(0, { defined := true, len := 2 ^ 21 })] })] }

/-- A read of line 1 of that extent. -/
def dRead : Req :=
  { src := .host .uio, kind := .read, tile := 0, link := 0, ld := 0, tag := 0, hpa := 0x40, stamp := 0, since := 0, sess := 0x2C3, off := 0x40, dpa := 0x40 }

/-- A tide with changes. -/
def dTide (cs : List Entry) : Tide := { name := 1, at_ := 20000, changes := cs, ctx := none }

/-- The SPD of a DIMM: a monolithic single-rank RDIMM of x4 devices of 16 Gb. -/
def dSpd : Spd := { kind := 1, rate := 64, width := 4, density := 1, rowBits := 16, rankBits := 0, cidBits := 0, banks := 32, groups := 8, prac := true, times := [] }

/-- Tile 0 populated with it, and channel 0 as given, in a mode. -/
def dDram (m : Mode) (x : Chan) : State :=
  { State.reset with
    mode := { mode := m }, boot := { State.reset.boot with dimms := [0], done := [1, 2, 3, 4, 5, 6] }, chans := [(0, x)],
    dtiles := [(0, { geom := geomWord dSpd 0 64, spdRate := 64 })] }

/-- The unit of `dHost` with a PL1 context whose g2 and g3 name line 1 of the extent and 64 bytes. -/
def dHC (ws : List Word) : Ctx := { dCtx ws with level := 1, g := [(2, 0x40), (3, 0x40)], waiting := [{ items := ws, prio := 0, path := .firmware, pl := 1 }] }
def dHX (ws : List Word) : State := { dHost with ctxs := [(0x1000, dHC ws)] }

/-- The unit of `dHost` with a tiered extent whose page 5 is to come home. -/
def dTier : State :=
  { dHost with tiers := [(0, { moves := [{ lpage := 5, sess := 0x2C3, dest := 1 }] })],
               sessions := [(0x2C3, { isOpen := true, exts := [(0, { defined := true, len := 2 ^ 21, tiered := true })] })] }

/-- Loan 0 of tile 0 with device 7, as borrower or as lender of 512 frames at DPA 0x800000 under key slot 64, in a state. -/
def dLoanR (role st : Nat) : State :=
  { dTier with
    params := [(pid bPort 0 0x10, 0), (pid bPort 1023 1, 3), (pid bTier 0 0x40, BitVec.ofNat 64 (role * 2 ^ 62 + 7 * 2 ^ 32 + 512)),
               (pid bTier 0 0x41, 0x800000), (pid bTier 0 0x42, 64), (pid bMirr 1023 2, 1)],
    keys := [(64, { usage := 4 })], tiers := [(0, { loans := [(0, { state := st })] })] }
def dLoan (st : Nat) : State := dLoanR 2 st
def dLend (st : Nat) : State := dLoanR 1 st

/-- Page 5 of the borrower has its home in lender frame 1, and a read of its line 0 waits for the unit. -/
def dUnitWait : Wait := { req := { dRead with off := 0x5000, dpa := 0x5000 }, why := .unit, since := 0 }
def dBorrow : State := { dLoan 2 with home := [(5, word [(16, 0x801), (4, 7), (0, 2)])], waits := [dUnitWait] }

/-- The read of that unit is in flight, and its data of zeros as the lender sends it; a unit of zeros for the lender's first frame. -/
def dUnit : UnitReq := { id := 3, loan := 0, lpage := 5, line := 0, write := false, at_ := 0 }
def dInFlight : State := { dBorrow with tiers := [(0, { loans := [(0, { state := 2 })], units := [dUnit], unitNo := 4 })] }
def dUnitOf (wire peer : Nat) : List Byte :=
  let p := gcmEnc 0 (List.replicate 12 0) (leBytes 8 wire ++ leBytes 2 peer) (List.replicate 64 0)
  p.1 ++ List.replicate 12 0 ++ p.2 ++ List.replicate 36 0
def dUnitData : List Byte := dUnitOf (wireOf 0x801 0) 7
def dLendData : List Byte := dUnitOf 0x1000000 7

/-- A session at its reservation of one frame: its page 0, of region 0 that has become the demotion region, is in frame 40, and page 5 must
come home. -/
def dDemote : State :=
  { dHost with
    home := [(0, word [(16, 40), (0, 1)])],
    tiers := [(0, { owners := [(40, { sess := 0x2C3, lpage := 0, valid := true })], moves := [{ lpage := 5, sess := 0x2C3, dest := 1 }] })],
    sessions := [(0x2C3, { isOpen := true, exts := [(0, { defined := true, len := 2 ^ 21, tiered := true })], resv := [(0, { frames := 1 })],
                           scheds := [(0, { regions := [(0, 1), (0x1000, 1), (0x2000, 1), (0x3000, 1)], total := 4, depth := 1, defined := true, running := true, current := some 1 })] })] }

/-- A tile whose Batten bus runs. -/
def dBatt : State := dHost

/-- Tile 0 with a flash store of one stripe set of three blocks and four word lines; page 3 is dirty. -/
def dThatch : State :=
  { State.reset with
    mode := { mode := .main }, tide := [(0, { dirty := [3] })], dtiles := [(0, { geom := geomWord dSpd 0 64, spdRate := 64 })],
    thatch := [(0, { state := 1, rate := 48, wls := 4, blocks := 3, luns := 2, tgts := 1 })] }

/-- A row of block 1 that has one record or, padded, is complete; a record of page 3 in a log block of four rows; a member under erase. -/
def dRowOf (full : Bool) : Row := { blk := 1, recs := [{ lpage := 3, tm := 7, blk := 1 }], full := full }
def dRow (full : Bool) : State :=
  { dThatch with thatch := [(0, { dThatch.th 0 with blks := [(1, { use := .log, isOpen := true, parity := true })], drainBlk := some 1, rowsOpen := [dRowOf full] })] }
def dRecs : State :=
  { dThatch with thatch := [(0, { dThatch.th 0 with blks := [(1, { use := .log, parity := true, rows := 4 })], recs := [{ lpage := 3, tm := 7, blk := 1 }] })] }
def dErase (p : Phys) : State :=
  { dThatch with thatch := [(0, { dThatch.th 0 with blks := [(1, { use := .released })], phys := [(physKey 1 3, if p.erasing then p else { unsealed := true })] })] }

/-- Segment 0 is queued for merge; it is merged into block 2, which is verified or not. -/
def dQueued : State := { dRecs with thatch := [(0, { dRecs.th 0 with mergeQ := [0] })] }
def dMerge (v : Bool) : State :=
  { dThatch with thatch := [(0, { dThatch.th 0 with blks := [(2, { use := .data, isOpen := true, parity := true, verified := v })], merges := [{ seg := 0, target := 2, stamp := 9 }], journal := [(0, 2)] })] }

/-- The flash store of `dThatch` with the PL0 context, whose g2 is the address of block 0 of die 0; with g2 the address of block 1 the
same with a record there, and with a retired block there. -/
def dFlash (ws : List Word) : State := { dThatch with ctxs := [(0x1000, { dCtx ws with g := [] })] }
def dFrawS : State :=
  { dRecs with ctxs := [(0x1000, { dCtx [0x60120000_00000000] with g := [(2, word [(10, 1), (23, 1)])] })] }
def dFretS : State :=
  { dRecs with thatch := [(0, { dRecs.th 0 with phys := [(physKey 1 0, { retired := true })] })],
               ctxs := [(0x1000, { dCtx [0x62120000_00000000] with g := [(2, word [(10, 1)])] })] }

/-- A device whose Tidemarks run. -/
def dClock : State :=
  { State.reset with
    mode := { mode := .main }, clock := 10,
    time := { State.reset.time with master := { on := true, count := 100 }, edgeSeen := true, locals := [(0, { on := true, count := 100 }), (1, { on := true, count := 101 })] } }

/-- A unit of pair 1 in a mode under epoch 4, whose twin is in reach on both paths of tile 0. -/
def dPair (m : Mode) : State :=
  { State.reset with
    mode := { mode := m }, params := [(pid bMirr 1023 0, 1)], lease := { State.reset.lease with pairIn := 1, epoch := 4, held := decide (m ≠ .mirs) },
    mirr := [(0, { up0 := true, up1 := true })] }

/-- A zero-line frame; an active unit whose tile 0 has such a frame to send. -/
def dFrame (n : Nat) : Frame := { seq := n, epoch := 4, tm := 9, sess := 0x2C3, off := 64, fk := 3 }
def dActv : State := { dPair .actv with mirr := [(0, { up0 := true, slots := [{ frame := dFrame 1 }], seq := 2 })] }

/-- The body of a data message of one frame of zeros, as the standby has it; line resync data of one line of zeros. -/
def dBody : List Byte := ([4, 1, 9, word [(0, 3), (15, 0x2C3), (27, 1)]] : List Word).flatMap wordBytes
def dInbox : State := { dPair .mirs with mirr := [(0, { up0 := true, inbox := [dBody] })] }
def dLrs : List Byte := ([4, word [(56, 1)], 9, word [(0, 0), (27, 1)], 0, 0, 0, 0, 0, 0, 0, 0] : List Word).flatMap wordBytes
def dLrsLate : List Byte := ([4, word [(56, 1), (0, 5)], 9, word [(0, 0), (27, 1)], 0, 0, 0, 0, 0, 0, 0, 0] : List Word).flatMap wordBytes

/-- A witness of pair 1 at epoch 4, with a holder or none. -/
def dWit (h : Option Nat) : State := { State.reset with wit := [(1, { epoch := 4, holder := h, len := 8000, timer := 0 })] }

/-- The pair with every tile synced, and a context at PL0. -/
def dRole (m : Mode) (ws : List Word) : State :=
  { dPair m with mirr := (List.range 8).map (fun t => (t, { up0 := true, synced := true })), ctxs := [(0x1000, dCtx ws)] }

/-- KUNW of slot 100 of tile 0 with the KEK in slot 64 and six items; the items here wrap nothing. -/
def dKunw : List Word := [0x70020000_00060064, 1, 2, 3, 4, 5, 6]

/-- A CRYP of one page under the XTS pair of slots 100 and 101, and a context that holds an interrupted one. -/
def dCryp : State :=
  { dThatch with keys := [(100, { usage := 2, key := 1 }), (101, { usage := 3, key := 2 })],
                 ctxs := [(0x1000, { dCtx [0x74023000_00100064] with g := [(2, 0x1000), (3, 0x4000)] })] }
/-- A GCM encryption of one page under slot 100. -/
def dCrypG : State :=
  { dThatch with keys := [(100, { usage := 4, key := 1 })],
                 ctxs := [(0x1000, { dCtx [0x74023000_00120064] with g := [(2, 0x1000), (3, 0x4000)] })] }
def dCsav : State :=
  { dThatch with ctxs := [(0x1000, { dCtx [0x72020000_00000000] with g := [(2, 0x3000)], cryp := some { slot := 100, mode := 0, tile := 0, pages := 2, src := 0x1000, dst := 0x4000, installs := 0, base := 0, done := 1, interrupted := true } })] }

/-- A context whose move stands inside a page. -/
def dCsavIn : State :=
  { dThatch with ctxs := [(0x1000, { dCtx [0x72020000_00000000] with g := [(2, 0x3000)], cryp := some { slot := 100, mode := 0, tile := 0, pages := 2, src := 0x1000, dst := 0x4000, installs := 0, base := 0, unit := 5, interrupted := true } })] }

/-- KUNW where slot 64 holds a KEK, and CRST of a record in page 3. -/
def dKunwS : State := { dS dKunw with keys := [(64, { usage := 1 })], ctxs := [(0x1000, { dCtx dKunw with g := [(2, 64)] })] }
def dCrst : State := { dThatch with ctxs := [(0x1000, { dCtx [0x73020000_00000000] with g := [(2, 0x3000)] })] }

/-- ARB bits 3 and 66 read 1; the stepping code is 1. -/
def dArb : State := { State.reset with fuse := { State.reset.fuse with sensed := [(1, 8), (2, 4)] } }
def dStepping : State := { State.reset with fuse := { State.reset.fuse with sensed := [(4, word [(16, 1), (0, 3)])] } }

/-- A fuse command that waits, in MAIN with VDD_FUSE: in MFG, in OWNED, and in RETIRED. -/
def dFuse (w : Word) : State :=
  { State.reset with mode := { mode := .main }, pwr := { State.reset.pwr with vddFuse := true }, fuse := { State.reset.fuse with cmd := some w, result := 1 } }
def dFuseO (w : Word) : State := { dFuse w with fuse := { (dFuse w).fuse with sensed := [(0, 1)] } }
def dFuseR (w : Word) : State := { dFuse w with fuse := { (dFuse w).fuse with sensed := [(0, 3)] } }

/-- A word or a bit is being programmed. -/
def dBlow (op : Nat) : State :=
  { dFuse 0 with clock := 100000000, fuse := { State.reset.fuse with busy := some (op, 6, 0, 0xFF), result := 1 } }

/-- A parameter of the store has changed since its last commit. -/
def dCommit (p : Bool) : State :=
  { dS [] with params := [(pid bTime 1023 0, 2)], boot := { State.reset.boot with done := [1, 2, 3, 4, 5] }, fw := { State.reset.fw with preserve := p } }

/-- MAIN with every rail good and nothing dirty. -/
def dScan : State := { dS [] with pwr := { State.reset.pwr with pg := 0xFFFF } }

/-- A pair whose first part is something, written as such. -/
theorem some_getD_pair {α β : Type} (p : Option α × β) (d : α) (h : p.1.isSome = true) : p = (some (p.1.getD d), p.2) := by
  obtain ⟨_ | _, _⟩ := p <;> simp_all

/-! ### Well-formedness refuses an operand out of its range, and takes the same command with the operand in range -/

theorem test_wf_input : wellFormed (.psPgAccept 18 false) = false ∧ wellFormed (.psPgAccept 0 false) = true := by decide

theorem test_wf_tile : wellFormed (.ucieLinkTrained 8) = false ∧ wellFormed (.ucieLinkTrained 0) = true := by decide

theorem test_wf_link : wellFormed (.hostLinkTrained 0 4 0 0) = false ∧ wellFormed (.hostLinkTrained 0 0 0 0) = true := by decide

theorem test_wf_channel : wellFormed (.dramTrainingStep 0 4 false) = false ∧ wellFormed (.dramTrainingStep 0 0 false) = true := by decide

theorem test_wf_page : wellFormed (.restoreDemandFault 0 2147483648) = false ∧ wellFormed (.restoreDemandFault 0 0) = true := by decide

theorem test_wf_ld : wellFormed (.cxlMemRead 0 0 16 0 0) = false ∧ wellFormed (.cxlMemRead 0 0 0 0 0) = true := by decide

theorem test_wf_set : wellFormed (.eavesEviction 0 131072 0) = false ∧ wellFormed (.eavesEviction 0 0 0) = true := by decide

theorem test_wf_way : wellFormed (.eavesEviction 0 0 16) = false ∧ wellFormed (.eavesEviction 0 0 0) = true := by decide

theorem test_wf_sess : wellFormed (.stridePrefetch 0 4096 0) = false ∧ wellFormed (.stridePrefetch 0 0 0) = true := by decide

theorem test_wf_stream : wellFormed (.stridePrefetch 0 0 129) = false ∧ wellFormed (.stridePrefetch 0 0 0) = true := by decide

theorem test_wf_keySet : wellFormed (.ideKm 0 0 2 false) = false ∧ wellFormed (.ideKm 0 0 0 false) = true := by decide

theorem test_wf_vector : wellFormed (.msiX 0 0 5) = false ∧ wellFormed (.msiX 0 0 0) = true := by decide

theorem test_wf_ctx : wellFormed (.submission 0x1040) = false ∧ wellFormed (.submission 0) = true := by decide

theorem test_wf_thread : wellFormed (.contextLoad 0 128) = false ∧ wellFormed (.contextLoad 0 0) = true := by decide

theorem test_wf_member : wellFormed (.programFail 0 0 16) = false ∧ wellFormed (.programFail 0 0 0) = true := by decide

theorem test_wf_path : wellFormed (.frameSend 0 2) = false ∧ wellFormed (.frameSend 0 0) = true := by decide

theorem test_wf_envelope : wellFormed (.messageReassembly 0 0 4294967296 [0]) = false ∧ wellFormed (.messageReassembly 0 0 0 [0]) = true := by decide

theorem test_wf_payload : wellFormed (.messageReassembly 0 0 0 []) = false ∧ wellFormed (.messageReassembly 0 0 0 [0]) = true := by decide

theorem test_wf_chan : wellFormed (.reassemblyTimeout 0 4 0) = false ∧ wellFormed (.reassemblyTimeout 0 0 0) = true := by decide

theorem test_wf_msgid : wellFormed (.reassemblyTimeout 0 0 65536) = false ∧ wellFormed (.reassemblyTimeout 0 0 0) = true := by decide

theorem test_wf_seq : wellFormed (.receipt 0 0 281474976710656 0 0) = false ∧ wellFormed (.receipt 0 0 0 0 0) = true := by decide

theorem test_wf_lineNo : wellFormed (.neighbourRead 0 0 64) = false ∧ wellFormed (.neighbourRead 0 0 0) = true := by decide

theorem test_wf_loan : wellFormed (.openLoan 0 16 false) = false ∧ wellFormed (.openLoan 0 0 false) = true := by decide

theorem test_wf_sev : wellFormed (.eventRecord 0 8 0 0 0 0 0) = false ∧ wellFormed (.eventRecord 0 0 0 0 0 0 0) = true := by decide

theorem test_wf_block : wellFormed (.eventRecord 0 0 64 0 0 0 0) = false ∧ wellFormed (.eventRecord 0 0 0 0 0 0 0) = true := by decide

theorem test_wf_reader : wellFormed (.recRdData 4) = false ∧ wellFormed (.recRdData 0) = true := by decide

theorem test_wf_counter : wellFormed (.counterOverflow 0 0 16) = false ∧ wellFormed (.counterOverflow 0 0 0) = true := by decide

theorem test_wf_between : wellFormed (.skewLimit 3 0 0) = false ∧ wellFormed (.skewLimit 0 0 0) = true := by decide

theorem test_wf_soc : wellFormed (.fwSoc 101) = false ∧ wellFormed (.fwSoc 0) = true := by decide

theorem test_wf_prio : wellFormed (.submit 8 []) = false ∧ wellFormed (.submit 0 []) = true := by decide

theorem test_wf_items : wellFormed (.submit 0 (List.replicate 65 0)) = false ∧ wellFormed (.submit 0 []) = true := by decide

theorem test_wf_ids : wellFormed (.pread []) = false ∧ wellFormed (.pread [1]) = true := by decide

theorem test_wf_address : wellFormed (.entdaa 128) = false ∧ wellFormed (.entdaa 0) = true := by decide

theorem test_wf_private : wellFormed (.privTapInstruction 0x7F) = false ∧ wellFormed (.privTapInstruction 0x80) = true := by decide

theorem test_wf_endpoint : wellFormed (.bistComplete 0 8 none) = false ∧ wellFormed (.bistComplete 0 0 none) = true := by decide

/-! ### The worked examples and the check value that the spec gives -/

/-- The check value of CRC-64 over the nine ASCII bytes 123456789 (07 R186). -/
theorem test_crc64_check_value : crc64 [0x31, 0x32, 0x33, 0x34, 0x35, 0x36, 0x37, 0x38, 0x39] = 0x995DC9BBDF1939FA#64 := by decide +kernel

/-- The tile of the examples in 01 and 05: two 256 GiB RDIMMs per channel of 2 physical ranks of 4-die stacks, and 4 TiB of tiered space. -/
def dTwoTiB : State :=
  { State.reset with dtiles := [(0, { geom := geomWord { dSpd with rankBits := 1, cidBits := 2 } 1 64, htLen := 2 ^ 33 })] }

/-- One DFA through the mapping (05): T = 0x01A5_C3E9_B2C0. -/
theorem test_dfa_mapping :
    dfaSub 0x01A5C3E9B2C0 = 1 ∧ dfaChan 0x01A5C3E9B2C0 = 1 ∧ dfaGroup 0x01A5C3E9B2C0 = 4 ∧ dfaBank 0x01A5C3E9B2C0 = 0 ∧
    dfaColumn 0x01A5C3E9B2C0 = 0x210 ∧ dTwoTiB.dfaRow 0 0x01A5C3E9B2C0 = 0x2E1F ∧ dTwoTiB.dfaCs 0 0x01A5C3E9B2C0 = 2 * 2 + 1 ∧
    dTwoTiB.dfaSlot 0 0x01A5C3E9B2C0 = 1 ∧ dTwoTiB.training 0 0x01A5C3E9B2C0 = false := by decide +kernel

/-- What `sys.dfa_map` reads on that tile (18). -/
theorem test_dfa_map :
    (List.range 8).map (fun i => dTwoTiB.view (pid bSys 0 i) 0) =
      [0x020000000000, 0x01FDFB000000, 0x01FFFB000000, 0x000004000000, 0x01FDFB000000, 0x000200000000, 0x002000000000, 16] := by decide +kernel

/-- The IDs of 18, and the fields of the CRD word there. -/
theorem test_parameter_ids :
    pid bPort 2 0x11 = 0x0C0211 ∧ pid bPort 2 0x21 = 0x0C0221 ∧ pid bSess 1 0x15 = 0x100115 ∧ pid bCiph 97 0 = 0x406100 ∧
    pid bSeq 528 0x3E = 0x3E103E ∧ iParam 0x7B60020000100115 = pid bSess 1 0x15 ∧ iCont 0x7B60020000100115 = true ∧ iCmpl 0x7B60020000100115 = false := by decide +kernel

/-- Word 3 of the Slipway program of 13: `PBAR.x.k.c g4, g2, g3, #0x2C3`. -/
theorem test_pbar_word :
    iOp 0x32423700000002C3 = 0x32 ∧ iGd 0x32423700000002C3 = 4 ∧ iGa 0x32423700000002C3 = 2 ∧ iGb 0x32423700000002C3 = 3 ∧
    iX 0x32423700000002C3 = false ∧ iXf 0x32423700000002C3 = true ∧ iCont 0x32423700000002C3 = true ∧ iCmpl 0x32423700000002C3 = true ∧
    iSess 0x32423700000002C3 = 0x2C3 := by decide +kernel

/-- The decoded addresses of the four-way interleave of 03, with `port.hdm_ira` 1 and 0. -/
theorem test_interleave :
    ({ base := 0x4000000000, size := 2 ^ 38, ways := 4, ira := true, committed := true } : Decoder).addr 0x4000123740 = 0x123740 ∧
    ({ base := 0x4000000000, size := 2 ^ 38, ways := 4, ira := false, committed := true } : Decoder).addr 0x4000123740 = 0x48D40 := by decide +kernel

/-- The hold-up term of the budget in MiB (08), at 34,000 MB/s and with a NAND channel fenced. -/
theorem test_budget :
    (({ State.reset with params := [(pid bTide 1023 0, 1500)], tide := [(0, { rate := 34000 })] } : State).budgetTerms 0)[1]! = 38261 ∧
    (({ State.reset with params := [(pid bTide 1023 0, 1500)], tide := [(0, { rate := 29750 })] } : State).budgetTerms 0)[1]! = 33478 := by decide +kernel

/-- The Batten bus of 11: at BCLK 11 the tier mover (5) wins by urgency over the drain (1), at BCLK 59 the drain wins by force, and a forced
owner is not preempted when the counter of the tier mover reaches its limit. -/
theorem test_batten :
    State.reset.battWin 0 { owner := some 1, batt := [(1, { req := true, urgency := 1, beats := 64 }), (5, { req := true, urgency := 2, beats := 64 })] } = some (5, false) ∧
    State.reset.battWin 0 { owner := some 5, batt := [(1, { req := true, urgency := 1, beats := 64, done := 10, wait := 48 }), (5, { req := true, urgency := 2, beats := 64 })] } = some (1, true) ∧
    State.reset.battWin 0 { owner := some 1, ownerForced := true, batt := [(1, { req := true, urgency := 1 }), (5, { req := true, urgency := 2, done := 48, wait := 32 })] } = none := by decide +kernel

/-! ### Single steps -/

/-- ADD wraps at 64 bits (13 R395). -/
theorem test_add_wraps :
    (match exec (.add 0x1000) { dS [0x10123000_00000000] with ctxs := [(0x1000, { dCtx [0x10123000_00000000] with g := [(2, 0xFFFFFFFFFFFFFFFF), (3, 2)] })] } with
      | .next t => (t.ctx 0x1000).reg 1 | _ => 0) = 1 := by decide +kernel

/-- A step takes the command at the front of the queue and no other. -/
theorem test_step_takes_the_front :
    (match step { State.reset with pending := [.aclkStop, .idcode] } with | .next t => t.pending | _ => []) = [.idcode] := by decide +kernel

/-- The machine after reset is in STBY and waits. -/
theorem test_reset_mode : State.reset.mode.mode = .stby ∧ State.reset.pending = [] := by decide

/-- 07 R202: a poisoned line in RS form passes only with the mask removed; 07 Table 7-3: one symbol in error is corrected on x4 devices and only detected on x8. -/
theorem test_rs_forms : rsLine false true 0 = (.pass, true, 0) ∧ rsLine true true 0 = (.pass, true, 0) ∧
    rsLine false false (1#640 <<< 9) = (.corrected [1], false, 0) ∧ (rsLine true false (1#640 <<< 9)).1 = .bad := by decide +kernel

/-- 07 R186: in CRC form an error of one data bit fails the check, and the form word tells poison. -/
theorem test_crc_form : crcLine true 0 = (.pass, true, 0) ∧ (crcLine false (1#640 <<< 9)).1 = .bad := by decide +kernel

/-- States and operands that meet the hypotheses of `Obligations.Arithmetic`, clause by clause. -/
theorem witness_Arithmetic :
    (∃ (s : State) (n : Nat) (i : Issue) (c : Ctx), (Ready s n 0x10 i c)) ∧
    (∃ (s : State) (n : Nat) (i : Issue) (c : Ctx), (Ready s n 0x11 i c)) ∧
    (∃ (s : State) (n : Nat) (i : Issue) (c : Ctx), (Ready s n 0x12 i c)) ∧
    (∃ (s : State) (n : Nat) (i : Issue) (c : Ctx), (Ready s n 0x13 i c)) ∧
    (∃ (s : State) (n : Nat) (i : Issue) (c : Ctx), (Ready s n 0x14 i c)) ∧
    (∃ (s : State) (n : Nat) (i : Issue) (c : Ctx), (Ready s n 0x15 i c)) ∧
    (∃ (s : State) (n : Nat) (i : Issue) (c : Ctx), (Ready s n 0x16 i c)) ∧
    (∃ (s : State) (n : Nat) (i : Issue) (c : Ctx), (Ready s n 0x18 i c)) ∧
    (∃ (s : State) (n : Nat) (i : Issue) (c : Ctx), (Ready s n 0x17 i c)) :=
  ⟨⟨dS [0x10123000_00000001], 0x1000, nI (dS [0x10123000_00000001]) 0x1000, nC (dS [0x10123000_00000001]) 0x1000, by decide +kernel⟩,
    ⟨dS [0x11123000_00000001], 0x1000, nI (dS [0x11123000_00000001]) 0x1000, nC (dS [0x11123000_00000001]) 0x1000, by decide +kernel⟩,
    ⟨dS [0x12123000_00000001], 0x1000, nI (dS [0x12123000_00000001]) 0x1000, nC (dS [0x12123000_00000001]) 0x1000, by decide +kernel⟩,
    ⟨dS [0x13123000_00000001], 0x1000, nI (dS [0x13123000_00000001]) 0x1000, nC (dS [0x13123000_00000001]) 0x1000, by decide +kernel⟩,
    ⟨dS [0x14123000_00000001], 0x1000, nI (dS [0x14123000_00000001]) 0x1000, nC (dS [0x14123000_00000001]) 0x1000, by decide +kernel⟩,
    ⟨dS [0x15123000_00000001], 0x1000, nI (dS [0x15123000_00000001]) 0x1000, nC (dS [0x15123000_00000001]) 0x1000, by decide +kernel⟩,
    ⟨dS [0x16123000_00000001], 0x1000, nI (dS [0x16123000_00000001]) 0x1000, nC (dS [0x16123000_00000001]) 0x1000, by decide +kernel⟩,
    ⟨dS [0x18123000_00000001], 0x1000, nI (dS [0x18123000_00000001]) 0x1000, nC (dS [0x18123000_00000001]) 0x1000, by decide +kernel⟩,
    ⟨dS [0x17480000_00000000, 0x1234], 0x1000, nI (dS [0x17480000_00000000, 0x1234]) 0x1000, nC (dS [0x17480000_00000000, 0x1234]) 0x1000, by decide +kernel⟩⟩

/-- States and operands that meet the hypotheses of `Obligations.ControlInstructions`, clause by clause. -/
theorem witness_ControlInstructions :
    (∃ (s : State) (n : Nat) (i : Issue) (c : Ctx), (Ready s n 0x01 i c)) ∧
    (∃ (s : State) (n : Nat) (i : Issue) (c : Ctx), (Ready s n 0x04 i c)) ∧
    (∃ (s : State) (n : Nat) (i : Issue) (c : Ctx), (Ready s n 0x02 i c) ∧ ((if iXf i.word then ((s.ctx n).reg (iGa i.word)).toNat else s.localCount (s.ctx n).tile) + iImm i.word ≤ s.localCount (s.ctx n).tile + 4000000000)) ∧
    (∃ (s : State) (n : Nat) (i : Issue) (c : Ctx), (Ready s n 0x02 i c) ∧ (s.localCount (s.ctx n).tile + 4000000000 < (if iXf i.word then ((s.ctx n).reg (iGa i.word)).toNat else s.localCount (s.ctx n).tile) + iImm i.word)) ∧
    (∃ (s : State) (n : Nat) (i : Issue) (u : Nat), ((s.ctx n).long = some (i, .waitUntil u)) ∧ (u ≤ s.localCount (s.ctx n).tile)) ∧
    (∃ (s : State) (n : Nat) (i : Issue) (c : Ctx), (Ready s n 0x03 i c) ∧ (s.haltsCryp n = false) ∧ (i.cmd = false) ∧ (i.stored = false) ∧ (c.cur.isSome = true)) ∧
    (∃ (s : State) (n : Nat) (i : Issue) (c : Ctx) (p : RetPt) (r : List RetPt), (Ready s n 0x03 i c) ∧ (s.haltsCryp n = false) ∧ (i.cmd = false) ∧ (i.stored = true) ∧ (c.stack = p :: r)) ∧
    (∃ (s : State) (n : Nat) (i : Issue) (c : Ctx), (Ready s n 0x03 i c) ∧ (s.haltsCryp n = false) ∧ (i.cmd = true) ∧ (c.cur.isSome = true)) ∧
    (∃ (s : State) (n : Nat) (i : Issue) (c : Ctx), (Ready s n 0x03 i c) ∧ (s.haltsCryp n = false) ∧ (i.cmd = true) ∧ (c.cur = none)) ∧
    (∃ (s : State) (n : Nat) (i : Issue) (c : Ctx) (u : Cur), (Ready s n 0x08 i c) ∧ (i.stored = false) ∧ (c.cur = some u) ∧ (u.next + fld i.word 11 0 ≤ u.sub.items.length)) ∧
    (∃ (s : State) (n : Nat) (i : Issue) (c : Ctx) (u : Cur), (Ready s n 0x08 i c) ∧ (i.stored = false) ∧ (c.cur = some u) ∧ (u.sub.items.length < u.next + fld i.word 11 0)) ∧
    (∃ (s : State) (n : Nat) (i : Issue) (c : Ctx), (Ready s n 0x08 i c) ∧ (i.stored = true)) ∧
    (∃ (s : State) (n : Nat) (i : Issue) (c : Ctx), (Ready s n 0x09 i c)) ∧
    (∃ (s : State) (n : Nat) (i : Issue) (c : Ctx), (Ready s n 0x0A i c)) ∧
    (∃ (s : State) (n : Nat) (i : Issue) (c : Ctx) (m : Nat), (Ready s n 0x0B i c) ∧ (i.stored = false) ∧ (c.mark = some m) ∧ (1 < ((s.ctx n).reg (iGd i.word)).toNat)) ∧
    (∃ (s : State) (n : Nat) (i : Issue) (c : Ctx), (Ready s n 0x0B i c) ∧ (i.stored = true) ∧ (1 < ((s.ctx n).reg (iGd i.word)).toNat)) ∧
    (∃ (s : State) (n : Nat) (i : Issue) (c : Ctx), (Ready s n 0x0B i c) ∧ (i.stored = true ∨ c.mark.isSome = true) ∧ ((s.ctx n).reg (iGd i.word) = 1)) ∧
    (∃ (s : State) (n : Nat) (i : Issue) (c : Ctx), (Ready s n 0x0B i c) ∧ ((s.ctx n).reg (iGd i.word) = 0 ∨ (i.stored = false ∧ c.mark = none))) ∧
    (∃ (s : State) (n : Nat) (i : Issue) (c : Ctx), (Ready s n 0x0C i c) ∧ (fld (s.progWord c.level (fld i.word 7 0)) 11 0 ≠ 0) ∧ (c.stack.length < 4)) ∧
    (∃ (s : State) (n : Nat) (i : Issue) (c : Ctx), (Ready s n 0x0C i c) ∧ (fld (s.progWord c.level (fld i.word 7 0)) 11 0 = 0 ∨ 4 ≤ c.stack.length)) :=
  ⟨⟨dS [0x01100000_00000000], 0x1000, nI (dS [0x01100000_00000000]) 0x1000, nC (dS [0x01100000_00000000]) 0x1000, by decide +kernel⟩,
    ⟨dS [0x04500000_00000000], 0x1000, nI (dS [0x04500000_00000000]) 0x1000, nC (dS [0x04500000_00000000]) 0x1000, by decide +kernel⟩,
    ⟨dS [0x02000000_00000010], 0x1000, nI (dS [0x02000000_00000010]) 0x1000, nC (dS [0x02000000_00000010]) 0x1000, by decide +kernel⟩,
    ⟨dS [0x02000000_EE6B2801], 0x1000, nI (dS [0x02000000_EE6B2801]) 0x1000, nC (dS [0x02000000_EE6B2801]) 0x1000, by decide +kernel⟩,
    ⟨{ State.reset with ctxs := [(0, { created := true, long := some (noIssue, .waitUntil 0) })] }, 0, noIssue, 0, by decide +kernel⟩,
    ⟨dS [0x03000000_00000000], 0x1000, nI (dS [0x03000000_00000000]) 0x1000, nC (dS [0x03000000_00000000]) 0x1000, by decide +kernel⟩,
    ⟨dProg 0x03000000_00000000, 0x1000, nI (dProg 0x03000000_00000000) 0x1000, nC (dProg 0x03000000_00000000) 0x1000, ⟨false, 0⟩, [], by decide +kernel⟩,
    ⟨dCmd 0x03000000_00000000 true, 0x1000, nI (dCmd 0x03000000_00000000 true) 0x1000, nC (dCmd 0x03000000_00000000 true) 0x1000, by decide +kernel⟩,
    ⟨dCmd 0x03000000_00000000 false, 0x1000, nI (dCmd 0x03000000_00000000 false) 0x1000, nC (dCmd 0x03000000_00000000 false) 0x1000, by decide +kernel⟩,
    ⟨dS [0x08000000_00000001, 0, 0], 0x1000, nI (dS [0x08000000_00000001, 0, 0]) 0x1000, nC (dS [0x08000000_00000001, 0, 0]) 0x1000, { sub := { items := [0x08000000_00000001, 0, 0], prio := 0, path := .firmware, pl := 0 }, next := 1, high := 1 }, by decide +kernel⟩,
    ⟨dS [0x08000000_00000002, 0], 0x1000, nI (dS [0x08000000_00000002, 0]) 0x1000, nC (dS [0x08000000_00000002, 0]) 0x1000, { sub := { items := [0x08000000_00000002, 0], prio := 0, path := .firmware, pl := 0 }, next := 1, high := 1 }, by decide +kernel⟩,
    ⟨dProg 0x08000000_00000010, 0x1000, nI (dProg 0x08000000_00000010) 0x1000, nC (dProg 0x08000000_00000010) 0x1000, by decide +kernel⟩,
    ⟨dS [0x09020000_00000001, 0], 0x1000, nI (dS [0x09020000_00000001, 0]) 0x1000, nC (dS [0x09020000_00000001, 0]) 0x1000, by decide +kernel⟩,
    ⟨dS [0x0A020000_00000001, 0], 0x1000, nI (dS [0x0A020000_00000001, 0]) 0x1000, nC (dS [0x0A020000_00000001, 0]) 0x1000, by decide +kernel⟩,
    ⟨dS [0x7C000000_00000000, 0x0B200000_00000000] |> dStep, 0x1000, nI (dS [0x7C000000_00000000, 0x0B200000_00000000] |> dStep) 0x1000, nC (dS [0x7C000000_00000000, 0x0B200000_00000000] |> dStep) 0x1000, 1, by decide +kernel⟩,
    ⟨dProg 0x0B200000_00000010, 0x1000, nI (dProg 0x0B200000_00000010) 0x1000, nC (dProg 0x0B200000_00000010) 0x1000, by decide +kernel⟩,
    ⟨dProg 0x0B400000_00000010, 0x1000, nI (dProg 0x0B400000_00000010) 0x1000, nC (dProg 0x0B400000_00000010) 0x1000, by decide +kernel⟩,
    ⟨dS [0x0B500000_00000000], 0x1000, nI (dS [0x0B500000_00000000]) 0x1000, nC (dS [0x0B500000_00000000]) 0x1000, by decide +kernel⟩,
    ⟨{ dS [0x0C000000_00000003] with progs := [(3, 0x100)] }, 0x1000, nI (dS [0x0C000000_00000003]) 0x1000, nC (dS [0x0C000000_00000003]) 0x1000, by decide +kernel⟩,
    ⟨dS [0x0C000000_00000004], 0x1000, nI (dS [0x0C000000_00000004]) 0x1000, nC (dS [0x0C000000_00000004]) 0x1000, by decide +kernel⟩⟩

/-- States and operands that meet the hypotheses of `Obligations.QueueInstructions`, clause by clause. -/
theorem witness_QueueInstructions :
    (∃ (s : State) (n : Nat) (i : Issue) (c : Ctx), (Ready s n 0x7C i c)) ∧
    (∃ (s : State) (n : Nat) (i : Issue) (c : Ctx) (m : Nat) (v : Cur), (Ready s n 0x7D i c) ∧ (c.mark = some m) ∧ (c.cur = some v)) ∧
    (∃ (s : State) (n : Nat) (i : Issue) (c : Ctx), (Ready s n 0x7D i c) ∧ (c.mark = none)) ∧
    (∃ (s : State) (n : Nat) (i : Issue) (c : Ctx), (Ready s n 0x7E i c)) :=
  ⟨⟨dS [0x7C100000_00000000, 0], 0x1000, nI (dS [0x7C100000_00000000, 0]) 0x1000, nC (dS [0x7C100000_00000000, 0]) 0x1000, by decide +kernel⟩,
    ⟨dS [0x7C000000_00000000, 0x7D000000_00000000] |> dStep, 0x1000, nI (dS [0x7C000000_00000000, 0x7D000000_00000000] |> dStep) 0x1000, nC (dS [0x7C000000_00000000, 0x7D000000_00000000] |> dStep) 0x1000, 1, { sub := { items := [0x7C000000_00000000, 0x7D000000_00000000], prio := 0, path := .firmware, pl := 0 }, next := 2, high := 2 }, by decide +kernel⟩,
    ⟨dS [0x7D100000_00000000, 0], 0x1000, nI (dS [0x7D100000_00000000, 0]) 0x1000, nC (dS [0x7D100000_00000000, 0]) 0x1000, by decide +kernel⟩,
    ⟨dS [0x7E100000_00000000, 0], 0x1000, nI (dS [0x7E100000_00000000, 0]) 0x1000, nC (dS [0x7E100000_00000000, 0]) 0x1000, by decide +kernel⟩⟩

/-- States and operands that meet the hypotheses of `Obligations.ThreadsAndIdle`, clause by clause. -/
theorem witness_ThreadsAndIdle :
    (∃ (s : State) (tile thread m : Nat), (s.threadOk tile thread = true) ∧ (s.nextReady tile thread = some m) ∧ (s.onThread tile thread = none)) ∧
    (∃ (s : State) (tile thread m k : Nat), (s.threadOk tile thread = true) ∧ (s.nextReady tile thread = some m) ∧ (s.onThread tile thread = some k) ∧ (s.givesWay tile thread k m = false)) ∧
    (∃ (s : State) (tile thread n m : Nat), (s.onThread tile thread = some n) ∧ (s.nextReady tile thread = some m) ∧ ((s.ctx n).atBoundary = true) ∧ ((s.ctx n).since + s.tileP bSeq tile 0 * us ≤ s.clock)) ∧
    (∃ (s : State) (n : Nat), (s.canIssue n = true) ∧ ((s.ctx n).long = none) ∧ (s.readNext n = none) ∧ (s.ctxNums.any (fun m => (s.ctx m).isReady (s.ctx n).tile) = true)) ∧
    (∃ (s : State) (n : Nat), (s.canIssue n = true) ∧ ((s.ctx n).long = none) ∧ (s.readNext n = none) ∧ (s.ctxNums.any (fun m => (s.ctx m).isReady (s.ctx n).tile) = false)) ∧
    (∃ (s : State) (n : Nat) (i : Issue) (c : Ctx), (s.canIssue n = true) ∧ ((s.ctx n).long = none) ∧ (s.readNext n = some (i, c)) ∧ (i.opcode = 0) ∧ (i.cmd = false) ∧ (i.encOk = true)) ∧
    (∃ (s : State) (n since : Nat) (i : Issue), ((s.ctx n).long = some (i, .idle since)) ∧ (since + us ≤ s.clock)) :=
  ⟨⟨dIdle none, 0, 3, 0x1000, by decide +kernel⟩,
    ⟨{ dIdle none with ctxs := [(0x1000, dCtx [0]), (0x1008, { dCtx [0] with thread := none })] }, 0, 15, 0x1008, 0x1000, by decide +kernel⟩,
    ⟨{ dIdle none with clock := 1000000000000, ctxs := [(0x1000, dCtx [0]), (0x1008, { dCtx [0] with thread := none })] }, 0, 15, 0x1000, 0x1008, by decide +kernel⟩,
    ⟨{ dIdle (some 3) with ctxs := [(0x1000, { dCtx [] with waiting := [] }), (0x1008, { dCtx [0] with thread := none })] }, 0x1000, by decide +kernel⟩,
    ⟨{ dIdle (some 3) with ctxs := [(0x1000, { dCtx [] with waiting := [] })] }, 0x1000, by decide +kernel⟩,
    ⟨dS [0, 0x01000000_00000000], 0x1000, nI (dS [0, 0x01000000_00000000]) 0x1000, nC (dS [0, 0x01000000_00000000]) 0x1000, by decide +kernel⟩,
    ⟨{ State.reset with clock := 4000, ctxs := [(0, { created := true, thread := some 1, long := some (noIssue, .idle 0) })] }, 0, 0, noIssue, by decide +kernel⟩⟩

/-- States and operands that meet the hypotheses of `Obligations.Submissions`, clause by clause. -/
theorem witness_Submissions :
    (∃ (s : State) (b : Sub) (r : List Sub), ((List.range (16 * s.tiles)).filter (fun k => decide (s.ldCtx (k / 16) (k % 16) = some 0x103F)) = []) ∧ (s.mgmt.waiting = b :: r) ∧ ((s.ctx 0x103F).created = true) ∧ (b.items.length ≤ (s.ctx 0x103F).freeItems)) ∧
    (∃ (s : State) (b : Sub) (r : List Sub), ((List.range (16 * s.tiles)).filter (fun k => decide (s.ldCtx (k / 16) (k % 16) = some 0x103F)) = []) ∧ (s.mgmt.waiting = b :: r) ∧ ((s.ctx 0x103F).freeItems < b.items.length)) ∧
    (∃ (s : State) (n : Nat), ((List.range (16 * s.tiles)).filter (fun k => decide (s.ldCtx (k / 16) (k % 16) = some n)) = []) ∧ (n < 0x1000) ∧ ((s.sess n).slip.state = .queued) ∧ ((s.sess n).slip.entered = false) ∧ ((s.ctx n).created = true) ∧ ((s.sess n).slip.count ≤ (s.ctx n).freeItems)) ∧
    (∃ (s : State) (n t d tail prio : Nat) (rest : List (Nat × Nat)) (u : State), ((List.range (16 * s.tiles)).filter (fun k => decide (s.ldCtx (k / 16) (k % 16) = some n)) = [16 * t + d]) ∧ (d < 16) ∧ (n = 0x103E) ∧ (s.ldCtx t d = some n) ∧ ((s.bar t d).cmdBusy = false) ∧ ((s.bar t d).sqWait = (tail, prio) :: rest) ∧ (0 < (tail + 1024 - (s.bar t d).sqHead) % 1024) ∧ ((tail + 1024 - (s.bar t d).sqHead) % 1024 ≤ 512) ∧ (s.enterSub n { items := (List.range ((tail + 1024 - (s.bar t d).sqHead) % 1024)).map (fun i => Store.read (s.bar t d).sq (((s.bar t d).sqHead + i) % 1024) 0), prio, path := .bar0 t d, pl := s.ldLevel t d } = some u)) :=
  ⟨⟨dMctp, { items := [0x01000000_00000000], prio := 3, path := .mctp, pl := 1 }, [], by decide +kernel⟩,
    ⟨dMctpFull, { items := [0], prio := 3, path := .mctp, pl := 1 }, [], by decide +kernel⟩,
    ⟨dSlip, 0x2C3, by decide +kernel⟩,
    ⟨dBell, 0x103E, 0, 0, 1, 4, [], (match dBell.enterSub 0x103E { items := [0x01000000_00000000], prio := 4, path := .bar0 0 0, pl := 1 } with | some u => u | none => dBell), by decide +kernel⟩⟩

/-- States and operands that meet the hypotheses of `Obligations.CompletionRecords`, clause by clause. -/
theorem witness_CompletionRecords :
    (∃ (s : State) (n : Nat) (r : Cpl) (rest : List Cpl), ((s.ctx n).outbox = r :: rest) ∧ (r.path = .firmware)) ∧
    (∃ (s : State) (n : Nat) (r : Cpl) (rest : List Cpl), ((s.ctx n).outbox = r :: rest) ∧ (r.path = .mctp) ∧ (s.mgmt.results.length < 16)) ∧
    (∃ (s : State) (n t d : Nat) (r : Cpl) (rest : List Cpl), ((s.ctx n).outbox = r :: rest) ∧ (r.path = .bar0 t d ∨ r.path = .cmd t d) ∧ ((s.bar t d).cqUsed < 255)) ∧
    (∃ (s : State) (n m : Nat) (r : Cpl) (rest : List Cpl), ((s.ctx n).outbox = r :: rest) ∧ (r.path = .slipway m) ∧ (s.ownerWindow m = false) ∧ ((s.sess m).slip.state = .running)) ∧
    (∃ (s : State) (n : Nat) (r : Cpl) (rest : List Cpl), ((s.ctx n).outbox = r :: rest) ∧ (s.sinkShut r.path = true)) ∧
    (∃ (s : State) (n : Nat) (i : Issue) (c : Ctx), ((s.ctx n).held = true) ∧ (s.readNext n = some (i, c)) ∧ (s.sinkFull n i.path = false)) :=
  ⟨⟨dOut (dCpl .firmware), 0x1000, dCpl .firmware, [], by decide +kernel⟩,
    ⟨dOut (dCpl .mctp), 0x1000, dCpl .mctp, [], by decide +kernel⟩,
    ⟨dOut (dCpl (.bar0 0 1)), 0x1000, 0, 1, dCpl (.bar0 0 1), [], by decide +kernel⟩,
    ⟨{ dOut (dCpl (.slipway 5)) with sessions := [(5, { slip := { state := .running } })] }, 0x1000, 5, dCpl (.slipway 5), [], by decide +kernel⟩,
    ⟨{ dOut (dCpl .mctp) with mgmt := { results := List.replicate 16 [] } }, 0x1000, dCpl .mctp, [], by decide +kernel⟩,
    ⟨{ dS [0] with ctxs := [(0x1000, { dCtx [0] with held := true })] }, 0x1000, nI (dS [0]) 0x1000, { nC (dS [0]) 0x1000 with held := true }, by decide +kernel⟩⟩

/-- States and operands that meet the hypotheses of `Obligations.ParameterReadsAndWrites`, clause by clause. -/
theorem witness_ParameterReadsAndWrites :
    (∃ (s : State) (n : Nat) (i : Issue) (c : Ctx), (Ready s n 0x20 i c) ∧ (s.getWaits n = false) ∧ ((s.consume n i c).mayRead n i.pl (iParam i.word) false = true) ∧ ((s.consume n i c).idOk n i.pl (iParam i.word) = true) ∧ ((s.consume n i c).idFenced (iParam i.word) = false) ∧ (iXf i.word = false ∨ s.set.owner ≠ some n)) ∧
    (∃ (s : State) (n : Nat) (i : Issue) (c : Ctx) (w : Word), (Ready s n 0x20 i c) ∧ (s.getWaits n = false) ∧ ((s.consume n i c).mayRead n i.pl (iParam i.word) false = true) ∧ ((s.consume n i c).idOk n i.pl (iParam i.word) = true) ∧ ((s.consume n i c).idFenced (iParam i.word) = false) ∧ (iXf i.word = true) ∧ (s.set.owner = some n) ∧ ((s.consume n i c).stagedValue (iParam i.word) ((s.consume n i c).idSess n i.pl (iParam i.word)) = some w)) ∧
    (∃ (s : State) (n : Nat) (i : Issue) (c : Ctx), (Ready s n 0x20 i c) ∧ (s.getWaits n = false) ∧ ((s.consume n i c).mayRead n i.pl (iParam i.word) false = false)) ∧
    (∃ (s : State) (n : Nat) (i : Issue) (c : Ctx), (Ready s n 0x20 i c) ∧ (s.getWaits n = false) ∧ ((s.consume n i c).mayRead n i.pl (iParam i.word) false = true) ∧ ((s.consume n i c).idOk n i.pl (iParam i.word) = false)) ∧
    (∃ (s : State) (n : Nat) (i : Issue) (c : Ctx) (p : PSpec), (Ready s n 0x21 i c) ∧ (stgpEnc (s.consume n i c) i = true) ∧ ((s.consume n i c).stgpLevel n i = true) ∧ (pspec (s.consume n i c).tiles (iParam i.word) = some p) ∧ (hasStg p.fields = true) ∧ (p.fields.any (fun f => f.writable && !f.stg) = false) ∧ ((s.consume n i c).idOk n i.pl (iParam i.word) = true) ∧ ((s.consume n i c).writeRange (iParam i.word) p.fields (i.stgpValue c) = true) ∧ ((s.consume n i c).idFenced (iParam i.word) = false) ∧ ((s.consume n i c).writeMode (iParam i.word) (i.stgpValue c) = true) ∧ (c.dropped = false) ∧ ((s.consume n i c).canStage n [.field (iParam i.word) ((s.consume n i c).idSess n i.pl (iParam i.word)) 63 0 (i.stgpValue c).toNat] = true)) ∧
    (∃ (s : State) (n : Nat) (i : Issue) (c : Ctx) (p : PSpec), (Ready s n 0x21 i c) ∧ (stgpEnc (s.consume n i c) i = true) ∧ ((s.consume n i c).stgpLevel n i = true) ∧ (pspec (s.consume n i c).tiles (iParam i.word) = some p) ∧ (hasStg p.fields = false) ∧ (p.fields.any (fun f => f.writable && !f.stg) = true) ∧ ((s.consume n i c).idOk n i.pl (iParam i.word) = true) ∧ ((s.consume n i c).writeRange (iParam i.word) p.fields (i.stgpValue c) = true) ∧ ((s.consume n i c).idFenced (iParam i.word) = false) ∧ ((s.consume n i c).writeMode (iParam i.word) (i.stgpValue c) = true)) ∧
    (∃ (s : State) (n : Nat) (i : Issue) (c : Ctx), (Ready s n 0x25 i c) ∧ (iXf i.word = false ∨ i.pl = 0) ∧ ((s.consume n i c).isStg (iParam i.word) = true) ∧ ((s.consume n i c).idFenced (iParam i.word) = false)) ∧
    (∃ (s : State) (n : Nat) (i : Issue) (c : Ctx), (Ready s n 0x7B i c) ∧ ((s.consume n i c).mayRead n i.pl (iParam i.word) true = true) ∧ (crdParam (iParam i.word) = true) ∧ ((s.consume n i c).idOk n i.pl (iParam i.word) = true) ∧ (iXf i.word = false ∨ s.pmc.snapped = true) ∧ ((s.consume n i c).idFenced (iParam i.word) = false)) :=
  ⟨⟨dS [0x2010_0000_0007_FF00], 0x1000, nI (dS [0x2010_0000_0007_FF00]) 0x1000, nC (dS [0x2010_0000_0007_FF00]) 0x1000, by decide +kernel⟩,
    ⟨dSet [0x2010_0400_000F_FF01], 0x1000, nI (dSet [0x2010_0400_000F_FF01]) 0x1000, nC (dSet [0x2010_0400_000F_FF01]) 0x1000, 4000000000, by decide +kernel⟩,
    ⟨dUser [0x2010_0000_0004_0105], 0x2C3, nI (dUser [0x2010_0000_0004_0105]) 0x2C3, nC (dUser [0x2010_0000_0004_0105]) 0x2C3, by decide +kernel⟩,
    ⟨dS [0x2010_0000_0000_0000], 0x1000, nI (dS [0x2010_0000_0000_0000]) 0x1000, nC (dS [0x2010_0000_0000_0000]) 0x1000, by decide +kernel⟩,
    ⟨dS [0x2102_0000_000F_FF01], 0x1000, nI (dS [0x2102_0000_000F_FF01]) 0x1000, nC (dS [0x2102_0000_000F_FF01]) 0x1000, (pspec 8 0x0FFF01).getD ⟨0, .dev, 0, 0, []⟩, by decide +kernel⟩,
    ⟨dS [0x2102_0000_0053_FE02], 0x1000, nI (dS [0x2102_0000_0053_FE02]) 0x1000, nC (dS [0x2102_0000_0053_FE02]) 0x1000, (pspec 8 0x53FE02).getD ⟨0, .dev, 0, 0, []⟩, by decide +kernel⟩,
    ⟨dS [0x2510_0000_000F_FF01], 0x1000, nI (dS [0x2510_0000_000F_FF01]) 0x1000, nC (dS [0x2510_0000_000F_FF01]) 0x1000, by decide +kernel⟩,
    ⟨dS [0x7B10_0000_004C_0010], 0x1000, nI (dS [0x7B10_0000_004C_0010]) 0x1000, nC (dS [0x7B10_0000_004C_0010]) 0x1000, by decide +kernel⟩⟩

/-- States and operands that meet the hypotheses of `Obligations.StagedSet`, clause by clause. -/
theorem witness_StagedSet :
    (∃ (s : State) (n : Nat) (i : Issue) (c : Ctx), (Ready s n 0x22 i c) ∧ (c.dropped = false) ∧ ((s.consume n i c).setTaken n = false) ∧ ((s.consume n i c).checkSet = none)) ∧
    (∃ (s : State) (n : Nat) (i : Issue) (c : Ctx) (r : Nat × Nat), (Ready s n 0x22 i c) ∧ (c.dropped = false) ∧ ((s.consume n i c).setTaken n = false) ∧ ((s.consume n i c).checkSet = some r)) ∧
    (∃ (s : State) (n : Nat) (i : Issue) (c : Ctx), (Ready s n 0x22 i c) ∧ (c.dropped = false) ∧ ((s.consume n i c).setTaken n = true)) ∧
    (∃ (s : State) (n : Nat) (i : Issue) (c : Ctx), (Ready s n 0x22 i c) ∧ (c.dropped = true)) ∧
    (∃ (s : State) (n : Nat) (i : Issue) (c : Ctx), (Ready s n 0x23 i c) ∧ (c.dropped = false) ∧ (s.set.owner = some n) ∧ ((s.consume n i c).aplsTime n i ≤ (s.consume n i c).master + 4000000000) ∧ (s.set.checked = true) ∧ ((s.consume n i c).checkSet = none) ∧ ((s.consume n i c).master + tideAhead ≤ (s.consume n i c).aplsTime n i) ∧ (s.tides.any (fun v => decide ((s.consume n i c).aplsTime n i ≤ v.at_ + tideSpace ∧ v.at_ ≤ (s.consume n i c).aplsTime n i + tideSpace)) = false)) ∧
    (∃ (s : State) (n : Nat) (i : Issue) (c : Ctx), (Ready s n 0x23 i c) ∧ (c.dropped = false) ∧ (s.set.owner = some n) ∧ ((s.consume n i c).aplsTime n i ≤ (s.consume n i c).master + 4000000000) ∧ (s.set.checked = false ∨ (s.consume n i c).checkSet.isSome = true)) ∧
    (∃ (s : State) (n : Nat) (i : Issue) (c : Ctx), (Ready s n 0x24 i c) ∧ (c.dropped = false) ∧ ((s.consume n i c).setTaken n = false) ∧ (s.set.entries ≠ [])) ∧
    (∃ (s : State) (n : Nat) (i : Issue) (c : Ctx), (Ready s n 0x24 i c) ∧ (c.dropped = false) ∧ ((s.consume n i c).setTaken n = false) ∧ (s.set.entries = [])) ∧
    (∃ (s : State) (n : Nat), (s.set.owner = some n) ∧ (s.set.touched + s.devP bSeq 0 * ms ≤ s.clock) ∧ ((s.ctx n).long = none)) :=
  ⟨⟨dPower [0x22100000_00000000], 0x1000, nI (dPower [0x22100000_00000000]) 0x1000, nC (dPower [0x22100000_00000000]) 0x1000, by decide +kernel⟩,
    ⟨dS [0x22100000_00000000], 0x1000, nI (dS [0x22100000_00000000]) 0x1000, nC (dS [0x22100000_00000000]) 0x1000, (0x47FF10, 0xFFFF), by decide +kernel⟩,
    ⟨{ dS [0x22100000_00000000] with set := { owner := some 5 } }, 0x1000, nI (dS [0x22100000_00000000]) 0x1000, nC (dS [0x22100000_00000000]) 0x1000, by decide +kernel⟩,
    ⟨{ State.reset with mode := { mode := .main }, ctxs := [(0x1000, { dCtx [0x22100000_00000000] with dropped := true })] }, 0x1000, nI (dS [0x22100000_00000000]) 0x1000, { nC (dS [0x22100000_00000000]) 0x1000 with dropped := true }, by decide +kernel⟩,
    ⟨dPower [0x23100000_00000000], 0x1000, nI (dPower [0x23100000_00000000]) 0x1000, nC (dPower [0x23100000_00000000]) 0x1000, by decide +kernel⟩,
    ⟨{ dS [0x23100000_00000000] with set := { owner := some 0x1000 } }, 0x1000, nI (dS [0x23100000_00000000]) 0x1000, nC (dS [0x23100000_00000000]) 0x1000, by decide +kernel⟩,
    ⟨dSet [0x24100000_00000000], 0x1000, nI (dSet [0x24100000_00000000]) 0x1000, nC (dSet [0x24100000_00000000]) 0x1000, by decide +kernel⟩,
    ⟨dS [0x24100000_00000000], 0x1000, nI (dS [0x24100000_00000000]) 0x1000, nC (dS [0x24100000_00000000]) 0x1000, by decide +kernel⟩,
    ⟨{ dSet [] with clock := 4000000000 }, 0x1000, by decide +kernel⟩⟩

/-- States and operands that meet the hypotheses of `Obligations.RecorderAndCounterInstructions`, clause by clause. -/
theorem witness_RecorderAndCounterInstructions :
    (∃ (s : State) (n : Nat) (i : Issue) (c : Ctx), (Ready s n 0x78 i c) ∧ (i.pl ≤ 1 ∨ fld i.word 2 0 ≤ 2)) ∧
    (∃ (s : State) (n : Nat) (i : Issue) (c : Ctx), (Ready s n 0x79 i c) ∧ (s.master + tideAhead ≤ (s.consume n i c).namedT n i) ∧ ((s.consume n i c).namedT n i ≤ s.master + 4000000000)) ∧
    (∃ (s : State) (n : Nat) (i : Issue) (c : Ctx), (Ready s n 0x7A i c) ∧ (s.master + tideAhead ≤ (s.consume n i c).namedT n i) ∧ ((s.consume n i c).namedT n i ≤ s.master + 4000000000) ∧ (s.pmc.frozen = iXf i.word)) ∧
    (∃ (s : State) (n : Nat) (i : Issue) (c : Ctx), (Ready s n 0x7A i c) ∧ (s.master + tideAhead ≤ (s.consume n i c).namedT n i) ∧ ((s.consume n i c).namedT n i ≤ s.master + 4000000000) ∧ (s.pmc.frozen = !iXf i.word)) ∧
    (∃ (s : State) (n : Nat) (i : Issue) (c : Ctx), (Ready s n 0x79 i c) ∧ ((s.consume n i c).namedT n i < s.master + tideAhead)) ∧
    (∃ (s : State) (n t : Nat) (i : Issue), (leastBy (fun e => e.2.1) (s.snapsDue.filter (fun e => !e.2.2)) = some (n, t, false)) ∧ ((s.ctx n).long = some (i, .snap t false))) ∧
    (∃ (s : State) (t k : Nat), (Store.rising s.pmc.ctrs = true)) ∧
    (∃ (s : State) (n t : Nat), (s.snapsDue.filter (fun e => !e.2.2) = []) ∧ (leastBy (fun e => e.2.1) (s.snapsDue.filter (fun e => e.2.2 && decide (e.2.1 + us ≤ s.master))) = some (n, t, true))) ∧
    (∃ (s : State) (n t : Nat) (on : Bool) (i : Issue), (leastBy (fun e => e.2.1) (s.freezesDue.filter (fun e => !e.2.2.2)) = some (n, t, on, false)) ∧ (s.snapsDue.any (fun e => !e.2.2 && decide (e.2.1 ≤ t)) = false) ∧ ((s.ctx n).long = some (i, .freeze t on false))) ∧
    (∃ (s : State) (n t : Nat) (on : Bool), (s.freezesDue.filter (fun e => !e.2.2.2) = []) ∧ (leastBy (fun e => e.2.1) (s.freezesDue.filter (fun e => e.2.2.2 && decide (e.2.1 + us ≤ s.master))) = some (n, t, on, true))) :=
  ⟨⟨dS [0x78100000_00020003, 0x77, 0x1234], 0x1000, nI (dS [0x78100000_00020003, 0x77, 0x1234]) 0x1000, nC (dS [0x78100000_00020003, 0x77, 0x1234]) 0x1000, by decide +kernel⟩,
    ⟨dS [0x79000000_00000000], 0x1000, nI (dS [0x79000000_00000000]) 0x1000, nC (dS [0x79000000_00000000]) 0x1000, by decide +kernel⟩,
    ⟨dS [0x7A000000_00000000], 0x1000, nI (dS [0x7A000000_00000000]) 0x1000, nC (dS [0x7A000000_00000000]) 0x1000, by decide +kernel⟩,
    ⟨dS [0x7A000400_00000000], 0x1000, nI (dS [0x7A000400_00000000]) 0x1000, nC (dS [0x7A000400_00000000]) 0x1000, by decide +kernel⟩,
    ⟨dS [0x79020000_00000000], 0x1000, nI (dS [0x79020000_00000000]) 0x1000, nC (dS [0x79020000_00000000]) 0x1000, by decide +kernel⟩,
    ⟨{ State.reset with ctxs := [(0x1000, { created := true, long := some (noIssue, .snap 0 false) })] }, 0x1000, 0, noIssue, by decide +kernel⟩,
    ⟨{ State.reset with pmc := { State.reset.pmc with ctrs := [(3, { cnt := 7 })] } }, 0, 3, by decide +kernel⟩,
    ⟨{ State.reset with time := dAt 4000, ctxs := [(0x1000, { created := true, long := some (noIssue, .snap 0 true) })] }, 0x1000, 0, by decide +kernel⟩,
    ⟨{ State.reset with ctxs := [(0x1000, { created := true, long := some (noIssue, .freeze 0 true false) })] }, 0x1000, 0, true, noIssue, by decide +kernel⟩,
    ⟨{ State.reset with time := dAt 4000, ctxs := [(0x1000, { created := true, long := some (noIssue, .freeze 0 true true) })] }, 0x1000, 0, true, by decide +kernel⟩⟩

/-- States and operands that meet the hypotheses of `Obligations.FirmwareInstructions`, clause by clause. -/
theorem witness_FirmwareInstructions :
    (∃ (s : State) (n : Nat) (i : Issue) (c : Ctx), (Ready s n 0x80 i c) ∧ (iN i.word = 0) ∧ (i.data = []) ∧ (8 * (s.slot s.inactive).words.length ≤ 0x380_0000) ∧ (s.fw.xfer = none ∨ s.fw.xfer = some n) ∧ ((s.consume n i c).fwRefusal = none)) ∧
    (∃ (s : State) (n : Nat) (i : Issue) (c : Ctx), (Ready s n 0x80 i c) ∧ (iN i.word = i.data.length ∧ 0 < i.data.length) ∧ (c.opA i.word = 0) ∧ (iXf i.word = false) ∧ (s.fw.xfer = none ∨ s.fw.xfer = some n) ∧ ((s.consume n i c).fwRefusal = none)) ∧
    (∃ (s : State) (n : Nat) (i : Issue) (c : Ctx), (Ready s n 0x80 i c) ∧ (iN i.word ≠ 0) ∧ (s.fw.xfer = some n) ∧ ((c.opA i.word).toNat = 8 * (s.slot s.inactive).words.length) ∧ ((s.slot s.inactive).words ≠ []) ∧ (8 * ((s.slot s.inactive).words.length + i.data.length) ≤ 0x380_0000) ∧ (iXf i.word = false) ∧ ((s.consume n i c).fwRefusal = none)) ∧
    (∃ (s : State) (n : Nat) (i : Issue) (c : Ctx), (Ready s n 0x80 i c) ∧ (iN i.word ≠ 0) ∧ (s.fw.xfer = some n) ∧ ((c.opA i.word).toNat = 8 * (s.slot s.inactive).words.length) ∧ ((s.slot s.inactive).words ≠ []) ∧ (8 * ((s.slot s.inactive).words.length + i.data.length) ≤ 0x380_0000) ∧ (iXf i.word = true) ∧ ((s.consume n i c).fwRefusal = none)) ∧
    (∃ (s : State) (n : Nat) (i : Issue) (c : Ctx) (st : Status), (Ready s n 0x80 i c) ∧ (iN i.word = 0) ∧ (i.data = []) ∧ (8 * (s.slot s.inactive).words.length ≤ 0x380_0000) ∧ (s.fw.xfer = none ∨ s.fw.xfer = some n) ∧ ((s.consume n i c).fwRefusal = some st)) ∧
    (∃ (s : State) (n : Nat) (i : Issue) (c : Ctx), (Ready s n 0x81 i c) ∧ ((s.consume n i c).fwRefusal = none) ∧ ((s.slot (fld i.word 0 0)).complete = true)) ∧
    (∃ (s : State) (n : Nat) (i : Issue) (c : Ctx), (Ready s n 0x81 i c) ∧ ((s.consume n i c).fwRefusal = none) ∧ ((s.slot (fld i.word 0 0)).complete = false)) ∧
    (∃ (s : State), (s.mode.mode = .rstr) ∧ (s.boot.auth = false ∧ s.boot.twinAuth = false)) ∧
    (∃ (s : State) (soc : Nat), (soc ≤ 100) ∧ (s.boot.done.contains 5 = true) ∧ (s.mode.mode ≠ .stby ∧ s.mode.mode ≠ .save)) :=
  ⟨⟨dFw [0x80100000_00000000], 0x1000, nI (dFw [0x80100000_00000000]) 0x1000, nC (dFw [0x80100000_00000000]) 0x1000, by decide +kernel⟩,
    ⟨dFw [0x80100000_00010000, 0x55], 0x1000, nI (dFw [0x80100000_00010000, 0x55]) 0x1000, nC (dFw [0x80100000_00010000, 0x55]) 0x1000, by decide +kernel⟩,
    ⟨dFwX [0x80120000_00010000, 0x55], 0x1000, nI (dFwX [0x80120000_00010000, 0x55]) 0x1000, nC (dFwX [0x80120000_00010000, 0x55]) 0x1000, by decide +kernel⟩,
    ⟨dFwX [0x80123400_00010000, 0x55], 0x1000, nI (dFwX [0x80123400_00010000, 0x55]) 0x1000, nC (dFwX [0x80123400_00010000, 0x55]) 0x1000, by decide +kernel⟩,
    ⟨dS [0x80100000_00000000], 0x1000, nI (dS [0x80100000_00000000]) 0x1000, nC (dS [0x80100000_00000000]) 0x1000, .fwbatt, by decide +kernel⟩,
    ⟨{ dFw [0x81100000_00000001] with fw := { (dFw []).fw with slotA := { complete := true }, slotB := { complete := true } } }, 0x1000, nI (dFw [0x81100000_00000001]) 0x1000, nC (dFw [0x81100000_00000001]) 0x1000, by decide +kernel⟩,
    ⟨dFw [0x81100000_00000001], 0x1000, nI (dFw [0x81100000_00000001]) 0x1000, nC (dFw [0x81100000_00000001]) 0x1000, by decide +kernel⟩,
    ⟨{ State.reset with mode := { mode := .rstr } }, by decide +kernel⟩,
    ⟨{ State.reset with mode := { mode := .main }, boot := { State.reset.boot with done := [5] } }, 80, by decide +kernel⟩⟩

/-- States and operands that meet the hypotheses of `Obligations.PowerAndFenceInstructions`, clause by clause. -/
theorem witness_PowerAndFenceInstructions :
    (∃ (s : State) (n : Nat) (i : Issue) (c : Ctx), (Ready s n 0x82 i c) ∧ (iXf i.word = false) ∧ (s.save.run = none) ∧ (s.mode.mode.serving = true)) ∧
    (∃ (s : State) (n : Nat) (i : Issue) (c : Ctx) (r : SaveRun), (Ready s n 0x82 i c) ∧ (s.save.run = some r)) ∧
    (∃ (s : State) (n : Nat) (i : Issue) (c : Ctx), (Ready s n 0x82 i c) ∧ (iXf i.word = false) ∧ (s.save.run = none) ∧ (s.mode.mode.serving = false)) ∧
    (∃ (s : State) (n : Nat) (i : Issue) (c : Ctx), (Ready s n 0x83 i c)) ∧
    (∃ (s : State) (n : Nat) (i : Issue) (c : Ctx), (Ready s n 0x6B i c) ∧ (s.unitExists (fld i.word 3 0) (fld i.word 15 8) (fld i.word 18 16) = true) ∧ (iXf i.word = false) ∧ (s.fenced (fld i.word 3 0) (fld i.word 15 8) (fld i.word 18 16) = false)) ∧
    (∃ (s : State) (n : Nat) (i : Issue) (c : Ctx), (Ready s n 0x6B i c) ∧ (s.unitExists (fld i.word 3 0) (fld i.word 15 8) (fld i.word 18 16) = true) ∧ (s.fenced (fld i.word 3 0) (fld i.word 15 8) (fld i.word 18 16) = !iXf i.word)) ∧
    (∃ (s : State) (n : Nat) (i : Issue) (c : Ctx), (Ready s n 0x6B i c) ∧ (s.unitExists (fld i.word 3 0) (fld i.word 15 8) (fld i.word 18 16) = true) ∧ (iXf i.word = true) ∧ (s.fenced (fld i.word 3 0) (fld i.word 15 8) (fld i.word 18 16) = true) ∧ (c.dropped = false) ∧ (s.canStage n [.clearFence (fld i.word 3 0) (fld i.word 15 8) (fld i.word 18 16)] = true)) ∧
    (∃ (s : State) (n : Nat) (i : Issue) (c : Ctx), (Ready s n 0x6B i c) ∧ (s.unitExists (fld i.word 3 0) (fld i.word 15 8) (fld i.word 18 16) = false)) ∧
    (∃ (s : State) (tile mask : Nat), (tile < s.tiles) ∧ (s.mode.mode = .main) ∧ (s.tileFenced tile = false)) ∧
    (∃ (s : State) (tile endpoint : Nat) (fails : Option Nat), (s.mgmt.bistRun.contains (256 * tile + endpoint) = true)) :=
  ⟨⟨dS [0x82100000_00000000], 0x1000, nI (dS [0x82100000_00000000]) 0x1000, nC (dS [0x82100000_00000000]) 0x1000, by decide +kernel⟩,
    ⟨{ dS [0x82100000_00000000] with save := { State.reset.save with run := some { cause := 5, mode := 7, armed := false, tidemark := 0, since := 0 } } }, 0x1000, nI (dS [0x82100000_00000000]) 0x1000, nC (dS [0x82100000_00000000]) 0x1000, { cause := 5, mode := 7, armed := false, tidemark := 0, since := 0 }, by decide +kernel⟩,
    ⟨{ dS [0x82100000_00000000] with mode := { mode := .brup } }, 0x1000, nI (dS [0x82100000_00000000]) 0x1000, nC (dS [0x82100000_00000000]) 0x1000, by decide +kernel⟩,
    ⟨dS [0x83100000_00000000], 0x1000, nI (dS [0x83100000_00000000]) 0x1000, nC (dS [0x83100000_00000000]) 0x1000, by decide +kernel⟩,
    ⟨dS [0x6B100000_00000101], 0x1000, nI (dS [0x6B100000_00000101]) 0x1000, nC (dS [0x6B100000_00000101]) 0x1000, by decide +kernel⟩,
    ⟨dS [0x6B100400_00000101], 0x1000, nI (dS [0x6B100400_00000101]) 0x1000, nC (dS [0x6B100400_00000101]) 0x1000, by decide +kernel⟩,
    ⟨{ dS [0x6B100400_00000101] with fences := { inForce := [{ cls := 1, inst := 1, tile := 0, cause := 1, tidemark := 0 }] } }, 0x1000, nI (dS [0x6B100400_00000101]) 0x1000, nC (dS [0x6B100400_00000101]) 0x1000, by decide +kernel⟩,
    ⟨dS [0x6B100000_0000FF01], 0x1000, nI (dS [0x6B100000_0000FF01]) 0x1000, nC (dS [0x6B100000_0000FF01]) 0x1000, by decide +kernel⟩,
    ⟨{ State.reset with mode := { mode := .main } }, 0, 5, by decide +kernel⟩,
    ⟨{ State.reset with mgmt := { State.reset.mgmt with bistRun := [2] } }, 0, 2, some 5, by decide +kernel⟩⟩

/-- States and operands that meet the hypotheses of `Obligations.RecorderRows`, clause by clause. -/
theorem witness_RecorderRows :
    (∃ (s : State) (tile sev block inst kind detail arg : Nat), (tile < s.tiles) ∧ (sev < 5) ∧ (s.boot.tableRead = true) ∧ (s.trigMatch tile (evCode block inst detail kind) 1 = none) ∧ (sramUsed (s.rt tile).sram + 64 ≤ 131072)) ∧
    (∃ (s : State) (tile sev block inst kind detail arg : Nat), (tile < s.tiles) ∧ (sev < 5) ∧ (s.boot.tableRead = true) ∧ (s.trigMatch tile (evCode block inst detail kind) 1 = none) ∧ (262144 < sramUsed (s.rt tile).sram + 64)) ∧
    (∃ (s : State) (tile : Nat), (s.canFlush tile = true)) ∧
    (∃ (s : State) (tile n : Nat), ((s.rt tile).batch = some n) ∧ (s.areaUp tile = true) ∧ ((s.rt tile).area.length + ((s.rt tile).sram.take n).length ≤ recSlots)) ∧
    (∃ (s : State) (k : Nat) (r : Rec), (k < 4) ∧ (leastBy (fun r => r.pcycle * 2 ^ 32 + r.seq) (((if bit (s.param (pid bRec 1023 (4 + k)) 0) 3 || decide (s.mode.mode = .stby ∨ s.mode.mode = .save) || !s.boot.mounted.contains (fld (s.param (pid bRec 1023 (4 + k)) 0) 2 0) then [] else (s.rt (fld (s.param (pid bRec 1023 (4 + k)) 0) 2 0)).area) ++ (s.rt (fld (s.param (pid bRec 1023 (4 + k)) 0) 2 0)).sram).filter (fun r => r.atOrAfter (s.param (pid bRec 1023 (8 + k)) 0) && decide (fld (s.param (pid bRec 1023 (4 + k)) 0) 6 4 ≤ r.sev))) = some r)) ∧
    (∃ (s : State), (s.recd.opWritten + 3600 * sec ≤ s.clock)) :=
  ⟨⟨{ State.reset with boot := { State.reset.boot with tableRead := true } }, 0, 3, 5, 7, 1, 0, 9, by decide +kernel⟩,
    ⟨({ State.reset with boot := { State.reset.boot with tableRead := true } }).setRt 0 { sram := List.replicate 1400 ⟨0, 0, 0, 0, 0, 0, 0, 0, 0, 0, 0, 0, 0, List.replicate 16 0⟩ }, 0, 3, 5, 7, 1, 0, 9, by decide +kernel⟩,
    ⟨({ State.reset with mode := { mode := .main }, boot := { State.reset.boot with mounted := [0] } }).setRt 0 { wanted := true }, 0, by decide +kernel⟩,
    ⟨({ dS [] with boot := { State.reset.boot with mounted := [0] } } : State).setRt 0 { batch := some 0 }, 0, 0, by decide +kernel⟩,
    ⟨State.reset.setRt 0 { sram := [⟨0, 0, 0, 0, 0, 0, 0, 0, 0, 0, 0, 0, 0, []⟩] }, 1, ⟨0, 0, 0, 0, 0, 0, 0, 0, 0, 0, 0, 0, 0, []⟩, by decide +kernel⟩,
    ⟨{ State.reset with clock := 3600 * sec }, by decide +kernel⟩⟩

/-- States and operands that meet the hypotheses of `Obligations.CounterRows`, clause by clause. -/
theorem witness_CounterRows :
    (∃ (s : State) (tile b k : Nat), (tile < s.tiles ∧ b < 40 ∧ k < 16) ∧ ((s.ctr (ctrKey tile b k)).cnt = 2 ^ 48 - 1) ∧ (bit (s.param (pid bPmc (64 * tile + b) k) 0) 63 = true) ∧ (s.pmc.frozen = false)) ∧
    (∃ (s : State) (tile b k pl events : Nat) (value : Word), (tile < s.tiles ∧ b < 40 ∧ k < 16) ∧ (pl ≤ 1) ∧ (s.tileFenced tile = false) ∧ (s.pmc.frozen = true ∨ events = 0)) ∧
    (∃ (s : State) (tile b k pl events : Nat) (value : Word), (tile < s.tiles ∧ b < 40 ∧ k < 16) ∧ (pl ≤ 1) ∧ (s.tileFenced tile = false) ∧ (s.pmc.frozen = false) ∧ (fld value 47 0 + events < 2 ^ 48)) :=
  ⟨⟨{ State.reset.setCtr 0 { cnt := 2 ^ 48 - 1 } with params := [(pid bPmc 0 0, 0x8000_0000_0000_0000)] }, 0, 0, 0, by decide +kernel⟩,
    ⟨State.reset, 7, 39, 15, 1, 0, 0x8000_0000_0000_0001, by decide +kernel⟩,
    ⟨State.reset, 7, 39, 15, 1, 3, 0x8000_0000_0000_0001, by decide +kernel⟩⟩

/-- States and operands that meet the hypotheses of `Obligations.RailSequence`, clause by clause. -/
theorem witness_RailSequence :
    (∃ (s : State), (s.pwr.state = .sequencing ∧ s.pwr.toRaise = true ∧ s.pwr.faultIn = false) ∧ (s.stepGood s.pwr.step = false)) ∧
    (∃ (s : State) (i : Nat), (i < 16) ∧ (s.pwr.pg.getLsbD i = false) ∧ (s.save.run = none) ∧ (s.pwr.state = .sequencing ∧ s.pwr.toRaise = false ∧ s.pwr.phase = .wait ∧ s.chanClass i ≠ 1) ∧ (({ s with pwr := { s.pwr with pg := setBits s.pwr.pg [i] } } : State).stepGood s.pwr.step = true)) ∧
    (∃ (s : State) (i : Nat), (i < 16) ∧ (s.pwr.pg.getLsbD i = true) ∧ (s.save.run = none) ∧ (s.pwr.state = .sequencing ∧ s.pwr.toRaise = false ∧ s.pwr.phase ≠ .wait) ∧ (s.switched i = true ∧ s.chanClass i ≠ 3 ∧ s.chanStep i = s.pwr.step) ∧ (s.pwr.restarts < 3)) ∧
    (∃ (s : State), (s.pwr.state = .sequencing ∧ s.pwr.toRaise = false ∧ s.pwr.phase = .window) ∧ (s.pwr.since + s.stepWindow s.pwr.step ≤ s.clock)) ∧
    (∃ (s : State), (s.pwr.state = .sequencing ∧ s.pwr.toRaise = false ∧ s.pwr.phase = .delay) ∧ (s.pwr.since + s.stepDelay s.pwr.step ≤ s.clock) ∧ (s.pwr.step + 1 < s.seqLen)) ∧
    (∃ (s : State), (s.pwr.state = .sequencing ∧ s.pwr.toRaise = false ∧ s.pwr.phase = .delay) ∧ (s.pwr.since + s.stepDelay s.pwr.step ≤ s.clock) ∧ (s.seqLen ≤ s.pwr.step + 1)) ∧
    (∃ (s : State), (s.pwr.state = .sequencing ∧ s.pwr.toRaise = false ∧ s.pwr.phase = .wait) ∧ (s.pwr.since + s.stepTimeout s.pwr.step ≤ s.clock)) ∧
    (∃ (s : State) (k : Nat), (s.shutting = true) ∧ (s.pwr.offSince + s.offGap ≤ s.clock) ∧ ((s.dropEnables (s.stepChans s.pwr.offStep)).enabledBelow s.pwr.offStep = some k)) ∧
    (∃ (s : State), (s.shutting = true) ∧ (s.pwr.offSince + s.offGap ≤ s.clock) ∧ ((s.dropEnables (s.stepChans s.pwr.offStep)).enabledBelow s.pwr.offStep = none)) ∧
    (∃ (s : State), (s.pwr.faultOut = true ∧ s.mode.mode = .stby ∧ s.shutting = false) ∧ (s.pwr.faultSince + 100 * us ≤ s.clock)) :=
  ⟨⟨dSeq, by decide +kernel⟩,
    ⟨dSeqWait, 1, by decide +kernel⟩,
    ⟨{ dSeqWait with pwr := { dSeqWait.pwr with pg := 2, phase := .window } }, 1, by decide +kernel⟩,
    ⟨{ dSeqWait with pwr := { dSeqWait.pwr with phase := .window }, clock := 1000000 }, by decide +kernel⟩,
    ⟨{ dSeqWait with pwr := { dSeqWait.pwr with phase := .delay }, clock := 1000000000 }, by decide +kernel⟩,
    ⟨{ dSeqWait with pwr := { dSeqWait.pwr with phase := .delay, step := 1 }, clock := 1000000000 }, by decide +kernel⟩,
    ⟨{ dSeqWait with clock := 1000000000 }, by decide +kernel⟩,
    ⟨{ dSeqWait with pwr := { dSeqWait.pwr with state := .shutting, en := 6, offStep := 1 }, clock := 1000000000 }, 0, by decide +kernel⟩,
    ⟨{ dSeqWait with pwr := { dSeqWait.pwr with state := .shutting, en := 2, offStep := 0 }, clock := 1000000000 }, by decide +kernel⟩,
    ⟨{ State.reset with pwr := { State.reset.pwr with faultOut := true }, clock := 1000000 }, by decide +kernel⟩⟩

/-- States and operands that meet the hypotheses of `Obligations.SupervisorEvents`, clause by clause. -/
theorem witness_SupervisorEvents :
    (∃ (s : State), (s.pwr.pfw = false) ∧ (s.mode.mode.serving = true) ∧ (s.save.run = none ∧ s.save.armed = none)) ∧
    (∃ (s : State), (s.pwr.pfw = false) ∧ (s.mode.mode = .brup ∧ s.pwr.state ≠ .shutting ∧ s.pwr.state ≠ .faulted) ∧ (s.save.run = none)) ∧
    (∃ (s : State), (s.pwr.faultIn = false ∧ s.pwr.faultOut = false) ∧ (s.mode.mode ≠ .brup ∧ s.pwr.state ≠ .sequencing)) ∧
    (∃ (s : State) (t : Nat), (s.save.pfwSince = some t) ∧ (s.pwr.pfw = true) ∧ (t + 200 * us ≤ s.clock)) ∧
    (∃ (s : State) (t : Nat), (s.save.armed = some t) ∧ (t + s.devP bTide 1 * ms ≤ s.clock)) ∧
    (∃ (s : State) (a t : Nat), (s.save.armed = some a) ∧ (s.save.pfwOff = some t) ∧ (s.pwr.pfw = false) ∧ (t + 5 * ms ≤ s.clock)) ∧
    (∃ (s : State) (i : Nat), (i < 16 ∧ s.chanClass i = 1 ∧ s.pwr.pg.getLsbD i = true) ∧ (s.save.run = none ∧ s.pwr.state = .running) ∧ (s.mode.mode ≠ .brup)) ∧
    (∃ (s : State) (i : Nat), (i < 16 ∧ s.chanClass i = 2 ∧ s.pwr.pg.getLsbD i = true) ∧ (s.save.run = none ∧ s.pwr.state = .running ∧ s.pwr.en.getLsbD i = true) ∧ (s.mode.mode ≠ .brup)) ∧
    (∃ (s : State) (i : Nat), (i < 16 ∧ s.chanClass i = 5 ∧ s.pwr.pg.getLsbD i = true) ∧ (s.save.run = none ∧ s.pwr.state = .running ∧ s.pwr.en.getLsbD i = true) ∧ (s.mode.mode ≠ .brup)) ∧
    (∃ (s : State) (i : Nat), (i < 16 ∧ s.chanClass i = 4 ∧ s.pwr.pg.getLsbD i = true) ∧ (s.save.run = none ∧ s.pwr.state = .running ∧ s.pwr.en.getLsbD i = true) ∧ (s.mode.mode ≠ .brup)) ∧
    (∃ (s : State), (s.pwr.faultIn = false ∧ s.pwr.faultOut = false) ∧ (s.pwr.state = .sequencing ∧ 0 < s.pwr.step)) ∧
    (∃ (s : State), (s.pwr.bbuOk = true) ∧ (s.mode.mode ≠ .stby ∧ s.mode.mode ≠ .save)) ∧
    (∃ (s : State) (cause : Nat), (s.saveDue cause = true) ∧ (cause ≠ 4)) :=
  ⟨⟨dS [], by decide +kernel⟩,
    ⟨{ dSeqWait with pwr := { dSeqWait.pwr with state := .running } }, by decide +kernel⟩,
    ⟨{ dS [] with pwr := { State.reset.pwr with state := .running } }, by decide +kernel⟩,
    ⟨{ dS [] with pwr := { State.reset.pwr with pfw := true }, save := { State.reset.save with pfwSince := some 0 }, clock := 1000000 }, 0, by decide +kernel⟩,
    ⟨{ dS [] with save := { State.reset.save with armed := some 0 }, clock := 1000000000 }, 0, by decide +kernel⟩,
    ⟨{ dS [] with save := { State.reset.save with armed := some 0, pfwOff := some 0 }, clock := 1000000000 }, 0, 0, by decide +kernel⟩,
    ⟨{ dRun with pwr := { dRun.pwr with pg := 15 } }, 0, by decide +kernel⟩,
    ⟨{ dRun with pwr := { dRun.pwr with pg := 15, en := 6, cfg := [(0x10, 0x1000_0000), (0x11, 0x2000_0000)] } }, 1, by decide +kernel⟩,
    ⟨{ dRun with pwr := { dRun.pwr with pg := 15, en := 6, cfg := [(0x10, 0x1000_0000), (0x11, 0x5000_0000)] } }, 1, by decide +kernel⟩,
    ⟨{ dRun with pwr := { dRun.pwr with pg := 15, en := 6 } }, 2, by decide +kernel⟩,
    ⟨{ dSeqWait with pwr := { dSeqWait.pwr with step := 1 } }, by decide +kernel⟩,
    ⟨{ dS [] with pwr := { State.reset.pwr with bbuOk := true } }, by decide +kernel⟩,
    ⟨{ dRun with pwr := { dRun.pwr with pg := 0 } }, 2, by decide +kernel⟩⟩

/-- States and operands that meet the hypotheses of `Obligations.StartOfTheDevice`, clause by clause. -/
theorem witness_StartOfTheDevice :
    (∃ (s : State), (s.mode.mode = .stby ∧ s.boot.tableRead = false ∧ s.boot.heldStart = false) ∧ (s.life ≠ .retired)) ∧
    (∃ (s : State), (s.mode.mode ≠ .stby)) ∧
    (∃ (s : State), (s.mode.mode = .stby ∧ s.boot.tableRead = false)) ∧
    (∃ (s : State), (s.mode.mode = .stby ∧ s.boot.tableRead = true) ∧ (s.life ≠ .retired ∧ 0 < s.devP bPwr 0 ∧ s.pwr.bbuOk = true)) ∧
    (∃ (s : State), (s.mode.mode = .stby ∧ s.boot.tableRead = true) ∧ (s.life ≠ .retired ∧ 0 < s.devP bPwr 0 ∧ s.pwr.bbuOk = false)) ∧
    (∃ (s : State), (s.mode.mode = .stby ∧ s.boot.tableRead = true) ∧ (s.devP bPwr 2 = 1 ∧ s.pwr.bbuOk = true ∧ s.pwr.pfw = false ∧ 0 < s.devP bPwr 0 ∧ s.life ≠ .retired) ∧ (s.boot.startHold = false ∧ s.boot.autoBlock = false ∧ s.pwr.wanted = false)) ∧
    (∃ (s : State) (vendor digest owner : Bool) (k : Nat), (s.mode.mode = .brup ∧ s.boot.done.contains 3 = true ∧ s.boot.done.contains 4 = false) ∧ (k = (if s.boot.failed.contains s.fw.mark then 1 - s.fw.mark else s.fw.mark)) ∧ (s.slotCheck (s.slot k) vendor digest owner = 0)) ∧
    (∃ (s : State) (vendor digest owner : Bool), (s.mode.mode = .brup ∧ s.boot.done.contains 3 = true ∧ s.boot.done.contains 4 = false) ∧ (s.boot.failed = []) ∧ (s.slotCheck (s.slot s.fw.mark) vendor digest owner ≠ 0)) ∧
    (∃ (s : State) (programs : List (Nat × Word)), (s.mode.mode = .brup ∧ s.boot.done.contains 4 = true ∧ s.boot.done.contains 5 = false)) :=
  ⟨⟨State.reset, by decide +kernel⟩,
    ⟨dS [], by decide +kernel⟩,
    ⟨State.reset, by decide +kernel⟩,
    ⟨{ State.reset with boot := { State.reset.boot with tableRead := true }, pwr := { State.reset.pwr with bbuOk := true }, params := [(pid bPwr 1023 0, 1)] }, by decide +kernel⟩,
    ⟨{ State.reset with boot := { State.reset.boot with tableRead := true }, params := [(pid bPwr 1023 0, 1)] }, by decide +kernel⟩,
    ⟨{ State.reset with boot := { State.reset.boot with tableRead := true }, pwr := { State.reset.pwr with bbuOk := true }, params := [(pid bPwr 1023 0, 1), (pid bPwr 1023 2, 1)] }, by decide +kernel⟩,
    ⟨{ State.reset with mode := { mode := .brup }, boot := { State.reset.boot with done := [3] }, fuse := { State.reset.fuse with sensed := [(4, 3)] }, fw := { State.reset.fw with slotA := { words := [0x0F00_0001_4657_4B50, 0xFFFF, 0, 1], complete := true } } }, true, true, true, 0, by decide +kernel⟩,
    ⟨{ State.reset with mode := { mode := .brup }, boot := { State.reset.boot with done := [3] } }, true, true, true, by decide +kernel⟩,
    ⟨{ State.reset with mode := { mode := .brup }, boot := { State.reset.boot with done := [3, 4] } }, [], by decide +kernel⟩⟩

/-- States and operands that meet the hypotheses of `Obligations.BringUp`, clause by clause. -/
theorem witness_BringUp :
    (∃ (s : State) (tile : Nat), (tile < s.tiles ∧ s.boot.done.contains 5 = true ∧ s.boot.ucie.contains tile = false) ∧ (s.mode.mode ≠ .stby) ∧ (s.tileFenced tile = false) ∧ (s.stepRuns 5 = false ∨ ∃ k ∈ s.liveTiles, k ≠ tile ∧ k ∉ s.boot.ucie)) ∧
    (∃ (s : State) (tile : Nat), (tile < s.tiles ∧ s.boot.done.contains 5 = true ∧ s.boot.ucie.contains tile = false) ∧ (s.tileFenced tile = false) ∧ (s.mode.mode = .brup ∧ ∀ k ∈ s.liveTiles, k = tile ∨ k ∈ s.boot.ucie)) ∧
    (∃ (s : State) (tile bad : Nat) (page : Option NandPage) (system : Bool), (tile < s.tiles ∧ s.boot.mounted.contains tile = false ∧ s.boot.ucie.contains tile = true) ∧ (s.mode.mode = .brup ∧ s.boot.done.contains 6 = true ∧ s.tileFenced tile = false) ∧ (∀ p, page = some p → nandOk p = false)) ∧
    (∃ (s : State) (tile bad : Nat) (p : NandPage), (tile < s.tiles ∧ s.boot.mounted.contains tile = false ∧ s.boot.ucie.contains tile = true) ∧ (s.mode.mode = .brup ∧ s.boot.done.contains 6 = true ∧ s.tileFenced tile = false) ∧ (nandOk p = true)) ∧
    (∃ (s : State) (tile : Nat) (p : NandPage), (tile < s.tiles ∧ s.boot.mounted.contains tile = false ∧ s.boot.ucie.contains tile = true) ∧ (s.mode.mode = .brup ∧ s.boot.done.contains 6 = true ∧ s.tileFenced tile = false) ∧ (nandOk p = true) ∧ ((s.th tile).journal = [])) ∧
    (∃ (s : State) (epoch : Nat) (lastSeq : List Nat) (valid preferred : Bool) (m : Summary), (s.pairId ≠ 0) ∧ (s.mode.mode = .brup ∨ s.mode.mode = .rstr) ∧ (s.boot.own = some m) ∧ (s.boot.auth = false ∧ s.boot.twinAuth = false ∧ s.boot.decided = false)) ∧
    (∃ (a b : Summary), (a.valid ≠ b.valid)) ∧
    (∃ (a b : Summary), (a.valid = true ∧ b.valid = true) ∧ (b.epoch < a.epoch)) ∧
    (∃ (a b : Summary), (a.valid = false ∧ b.valid = false)) ∧
    (∃ (s : State) (m : Summary), (s.boot.own = some m ∧ s.boot.twin = none) ∧ (s.pairId ≠ 0 ∧ s.boot.decided = false ∧ s.mode.mode = .brup) ∧ (s.boot.pairSince + s.devP bSys 6 * sec ≤ s.clock)) ∧
    (∃ (s : State) (tile : Nat), (tile < s.tiles ∧ s.tileFenced tile = false ∧ (s.tl tile).opened = false) ∧ (s.mode.mode = .brup ∧ s.bringReady = true)) ∧
    (∃ (s : State), (s.mode.mode = .brup ∧ s.bringReady = true) ∧ (s.liveTiles.all (fun t => (s.tl t).opened) = true)) :=
  ⟨⟨{ dS [] with boot := { State.reset.boot with done := [5] } }, 3, by decide +kernel⟩,
    ⟨{ State.reset with mode := { mode := .brup }, boot := { State.reset.boot with done := [5], ucie := [0, 1, 2, 4, 5, 6, 7] } }, 3, by decide +kernel⟩,
    ⟨{ State.reset with mode := { mode := .brup }, boot := { State.reset.boot with done := [6], ucie := [1] } }, 1, 0, none, true, by decide +kernel⟩,
    ⟨{ State.reset with mode := { mode := .brup }, boot := { State.reset.boot with done := [6], ucie := [1] } }, 1, 0, ⟨4, 16384, 960, true, 1152, 8, 1, 2, []⟩, by decide +kernel⟩,
    ⟨{ State.reset with mode := { mode := .brup }, boot := { State.reset.boot with done := [6], ucie := [1] } }, 1, ⟨4, 16384, 960, true, 1152, 8, 1, 2, [48, 48, 48, 48, 48, 48, 48, 48]⟩, by decide +kernel⟩,
    ⟨{ State.reset with mode := { mode := .brup }, params := [(pid bMirr 1023 0, 7)], lease := { State.reset.lease with pairIn := 7 }, boot := { State.reset.boot with own := some ⟨1, [], true, true⟩ } }, 1, [], true, false, ⟨1, [], true, true⟩, by decide +kernel⟩,
    ⟨⟨0, [], true, false⟩, ⟨5, [], false, true⟩, by decide +kernel⟩,
    ⟨⟨6, [], true, false⟩, ⟨5, [], true, true⟩, by decide +kernel⟩,
    ⟨⟨6, [], false, false⟩, ⟨5, [], false, true⟩, by decide +kernel⟩,
    ⟨{ State.reset with mode := { mode := .brup }, clock := 600 * sec, params := [(pid bMirr 1023 0, 7)], lease := { State.reset.lease with pairIn := 7 }, boot := { State.reset.boot with own := some ⟨1, [], true, true⟩ } }, ⟨1, [], true, true⟩, by decide +kernel⟩,
    ⟨dBring, 0, by decide +kernel⟩,
    ⟨(List.range 8).foldl (fun s t => s.setTl t { opened := true }) dBring, by decide +kernel⟩⟩

/-- States and operands that meet the hypotheses of `Obligations.RestoreAndResets`, clause by clause. -/
theorem witness_RestoreAndResets :
    (∃ (s : State) (tile : Nat), (tile < s.tiles ∧ s.restoring tile = true ∧ Store.read s.boot.paths tile 0 = 1) ∧ ((s.tl tile).htLoaded = false)) ∧
    (∃ (s : State) (tile g : Nat), (tile < s.tiles ∧ s.restoring tile = true ∧ Store.read s.boot.paths tile 0 = 1) ∧ ((s.tl tile).htLoaded = true ∧ s.boot.tileReset.contains tile = false) ∧ (s.nextGroup tile = some g)) ∧
    (∃ (s : State) (tile : Nat), (tile < s.tiles ∧ s.restoring tile = true ∧ Store.read s.boot.paths tile 0 = 1) ∧ ((s.tl tile).htLoaded = true ∧ s.boot.tileReset.contains tile = false) ∧ (s.nextGroup tile = none)) ∧
    (∃ (s : State) (tile : Nat), (tile < s.tiles ∧ s.restoring tile = true ∧ Store.read s.boot.paths tile 0 = 0) ∧ ((s.tl tile).htLoaded = true ∧ s.boot.tileReset.contains tile = false)) ∧
    (∃ (s : State) (tile page : Nat), (s.waits.any (fun w => decide (w.why = .load ∧ w.req.owner = tile ∧ w.req.toff / 4096 = page)) = true) ∧ (s.needsLoad tile (page * 4096) = true) ∧ ((s.tl tile).htLoaded = true ∧ Store.read s.boot.paths tile 0 ≠ 2)) ∧
    (∃ (s : State) (tile : Nat) (err : BitVec 640), (tile < s.tiles ∧ s.restoring tile = true ∧ s.mode.mode = .rstr ∧ Store.read s.boot.paths tile 0 = 2) ∧ ((s.lineCheck tile (s.tl tile).verifyAt err).good = true ∧ (s.lineGot tile (s.tl tile).verifyAt err).2 = false) ∧ (((s.tl tile).verifyAt + 64) % 2097152 ≠ 0 ∧ (s.tl tile).verifyAt + 64 < s.dfaSize tile)) ∧
    (∃ (s u : State) (tile : Nat) (err : BitVec 640), (tile < s.tiles ∧ s.restoring tile = true ∧ s.mode.mode = .rstr ∧ Store.read s.boot.paths tile 0 = 2) ∧ ((s.lineCheck tile (s.tl tile).verifyAt err).good = false) ∧ (u = s.repairLine tile (s.tl tile).verifyAt) ∧ (((s.tl tile).verifyAt + 64) % 2097152 ≠ 0 ∧ (s.tl tile).verifyAt + 64 < u.dfaSize tile)) ∧
    (∃ (s : State), (s.mode.mode = .rstr ∧ s.restoreDone = true) ∧ (s.boot.auth = true ∧ s.leaseOk = true) ∧ (s.twinUp = true ∧ s.lease.twinMirs = true ∧ s.pairId ≠ 0)) ∧
    (∃ (s : State), (s.mode.mode = .rstr ∧ s.restoreDone = true) ∧ (s.boot.auth = true ∧ s.leaseOk = true) ∧ (s.pairId = 0)) ∧
    (∃ (s : State), (s.mode.mode = .rstr ∧ s.restoreDone = true) ∧ (s.boot.auth = false ∧ s.boot.twinAuth = true)) ∧
    (∃ (s : State), (s.mode.mode = .brup)) ∧
    (∃ (s : State), (s.mode.mode = .rstr ∨ s.mode.mode = .actv ∨ s.mode.mode = .mirs ∨ s.mode.mode = .solo)) ∧
    (∃ (s : State) (tile : Nat), (tile ≠ 0 ∧ tile < s.tiles ∧ s.tileFenced tile = true ∧ s.mode.leaving = false)) ∧
    (∃ (s : State) (tile : Nat) (r q : SaveRun), (s.save.run = some r) ∧ (r.instant.isSome = true ∧ r.complete.contains tile = false ∧ s.liveTiles.contains tile = true ∧ s.shutting = false) ∧ ((s.saveTile tile).save.run = some q) ∧ ((s.saveTile tile).liveTiles.all (fun t => q.complete.contains t) = false)) ∧
    (∃ (s : State) (tile : Nat) (r q : SaveRun), (s.save.run = some r) ∧ (r.instant.isSome = true ∧ r.complete.contains tile = false ∧ s.liveTiles.contains tile = true ∧ s.shutting = false) ∧ ((s.saveTile tile).save.run = some q) ∧ ((s.saveTile tile).liveTiles.all (fun t => q.complete.contains t) = true)) ∧
    (∃ (s : State) (r : SaveRun) (f : Nat), (s.save.run = some r ∧ r.runFrom = some f) ∧ (s.shutting = false ∧ (∃ k ∈ s.liveTiles, k ∉ r.complete) ∧ s.saveLimit ≤ r.used + (s.clock - f))) :=
  ⟨⟨{ dBring with mode := { mode := .rstr }, boot := { dBring.boot with paths := [(0, 1)] } }, 0, by decide +kernel⟩,
    ⟨dImage, 0, 1, by decide +kernel⟩,
    ⟨{ dBring with mode := { mode := .rstr }, boot := { dBring.boot with paths := [(0, 1)] }, tide := [(0, { htLoaded := true })] }, 0, by decide +kernel⟩,
    ⟨{ dBring with mode := { mode := .rstr }, tide := [(0, { htLoaded := true })] }, 0, by decide +kernel⟩,
    ⟨{ dImage with waits := [{ req := dLoadReq, why := .load, since := 0 }] }, 0, 512, by decide +kernel⟩,
    ⟨{ dBring with mode := { mode := .rstr }, boot := { dBring.boot with paths := [(0, 2)] }, dtiles := [(0, { geom := word [(32, 16)] })] }, 0, 0, by decide +kernel⟩,
    ⟨{ dBring with mode := { mode := .rstr }, boot := { dBring.boot with paths := [(0, 2)] }, dtiles := [(0, { geom := word [(32, 16)] })] }, (({ dBring with mode := { mode := .rstr }, boot := { dBring.boot with paths := [(0, 2)] }, dtiles := [(0, { geom := word [(32, 16)] })] } : State).repairLine 0 0), 0, 3 * 2 ^ 600 + 2 ^ 80 + 1, by decide +kernel⟩,
    ⟨{ dDone with params := [(pid bMirr 1023 0, 7)], lease := { State.reset.lease with pairIn := 7, held := true, twinMirs := true }, mirr := (List.range 8).map (fun t => (t, { up0 := true })) }, by decide +kernel⟩,
    ⟨{ dDone with lease := { State.reset.lease with held := true } }, by decide +kernel⟩,
    ⟨{ dDone with boot := { dDone.boot with auth := false, twinAuth := true } }, by decide +kernel⟩,
    ⟨{ State.reset with mode := { mode := .brup } }, by decide +kernel⟩,
    ⟨{ State.reset with mode := { mode := .solo } }, by decide +kernel⟩,
    ⟨{ dS [] with fences := { inForce := [{ cls := 0xA, inst := 0, tile := 3, cause := 1, tidemark := 0 }] } }, 3, by decide +kernel⟩,
    ⟨dSaving, 0, dSaveRun, ((dSaving.saveTile 0).save.run).getD dSaveRun, by decide +kernel⟩,
    ⟨{ dSaving with save := { dSaving.save with run := some { dSaveRun with complete := [1, 2, 3, 4, 5, 6, 7] } } }, 0, { dSaveRun with complete := [1, 2, 3, 4, 5, 6, 7] }, { dSaveRun with complete := [0, 1, 2, 3, 4, 5, 6, 7] }, by decide +kernel⟩,
    ⟨{ dSaving with save := { dSaving.save with run := some { dSaveRun with runFrom := some 0 } }, clock := 4000000000 }, { dSaveRun with runFrom := some 0 }, 0, by decide +kernel⟩⟩

/-- States and operands that meet the hypotheses of `Obligations.HostRequests`, clause by clause. -/
theorem witness_HostRequests :
    (∃ (s : State) (tile link ld tag hpa n x off dpa : Nat) (tiered : Bool), (s.takes .mem tile link ld = true ∧ s.hasCredit tile link true = true ∧ s.tideStops tile = false) ∧ (s.lookup tile link ld (hpa / 64 * 64) 64 = .hit n x off dpa tiered) ∧ (s.modeServes .read tile ld = true ∧ dpa / 2 ^ 43 = tile) ∧ (s.slipOff n = none)) ∧
    (∃ (s : State) (tile link ld tag hpa n x off dpa : Nat) (tiered : Bool) (mask : Mask) (data : Line) (poison : Bool), (s.takes .mem tile link ld = true ∧ s.hasCredit tile link false = true ∧ s.tideStops tile = false) ∧ (s.lookup tile link ld (hpa / 64 * 64) 64 = .hit n x off dpa tiered) ∧ (s.modeServes .store tile ld = true ∧ dpa / 2 ^ 43 = tile) ∧ (s.slipOff n = none) ∧ (s.waits = [])) ∧
    (∃ (s : State) (tile link ld tag hpa n x off dpa : Nat) (tiered : Bool) (mask : Mask) (data : Line) (poison : Bool), (s.takes .mem tile link ld = true ∧ s.hasCredit tile link false = true ∧ s.tideStops tile = false) ∧ (s.lookup tile link ld (hpa / 64 * 64) 64 = .hit n x off dpa tiered) ∧ (s.modeServes .store tile ld = true ∧ dpa / 2 ^ 43 = tile) ∧ (s.slipOff n = none) ∧ (s.queueFull tile link tile = true)) ∧
    (∃ (s : State) (tile link ld tag hpa : Nat), (s.takes .mem tile link ld = true ∧ s.hasCredit tile link true = true ∧ s.tideStops tile = false) ∧ (s.lookup tile link ld (hpa / 64 * 64) 64 = .viol 1 none)) ∧
    (∃ (s : State) (tile link ld tag hpa n x off dpa : Nat) (tiered : Bool) (mask : Mask) (data : Line) (poison : Bool), (s.takes .mem tile link ld = true ∧ s.hasCredit tile link false = true ∧ s.tideStops tile = false) ∧ (s.lookup tile link ld (hpa / 64 * 64) 64 = .hit n x off dpa tiered) ∧ (s.modeServes .store tile ld = false) ∧ (s.slipOff n = none)) ∧
    (∃ (s : State) (tile link ld tag hpa : Nat), (s.takes .mem tile link ld = true ∧ s.hasCredit tile link true = true ∧ s.tideStops tile = true)) ∧
    (∃ (s : State) (via : Via) (tile link ld tag hpa len : Nat) (data : List Byte), (via ≠ .mem ∧ s.takes via tile link ld = true) ∧ ((s.bar tile ld).base = none) ∧ (0 < len ∧ hpa % 64 + len ≤ 64)) ∧
    (∃ (s : State) (tile link ld tag b off : Nat), (s.ldUp tile ld = true ∧ s.ldLink tile ld = link) ∧ ((s.bar tile ld).base = some b ∧ off + 8 ≤ 0x40000 ∧ (b + off) % 64 + 8 ≤ 64 ∧ off % 64 + 8 ≤ 64)) ∧
    (∃ (s : State) (via : Via) (tile link ld tag hpa : Nat) (a b : BitVec 128), (via ≠ .mem ∧ s.takes via tile link ld = true) ∧ (hpa % 8 = 0)) ∧
    (∃ (s : State) (via : Via) (op : Sys2Proof.Atomic) (bytes tile link ld tag hpa : Nat) (a b : BitVec 128), (via ≠ .mem ∧ s.takes via tile link ld = true) ∧ (atomicSizeOk op bytes = false ∨ hpa % bytes ≠ 0)) ∧
    (∃ (s : State) (tile link ld tag : Nat), (s.takes .io tile link ld = true)) ∧
    (∃ (s : State) (tile ld : Nat), ((s.bar tile ld).vec1Wait = true) ∧ ((s.bar tile ld).vec1At = none)) ∧
    (∃ (s : State) (tile ld t0 : Nat), ((s.bar tile ld).vec1At = some t0) ∧ (s.clock < t0 + s.tileP bPort tile 2 * us)) ∧
    (∃ (s : State) (tile link : Nat), (tile < s.tiles ∧ link < 4) ∧ ((∀ y ∈ (s.link tile link).heldFor, y ∉ s.blockedFor tile link ∧ (s.pt y).mergeFull = false) ∧ s.readsBlocked tile link = false)) ∧
    (∃ (s : State) (tile link y : Nat), (tile < s.tiles ∧ link < 4) ∧ (y ∈ (s.link tile link).heldFor ∧ (s.pt y).mergeFull = true)) :=
  ⟨⟨dHost, 0, 0, 0, 5, 0x40, 0x2C3, 0, 0x40, 0x40, false, by decide +kernel⟩,
    ⟨dHost, 0, 0, 0, 5, 0x40, 0x2C3, 0, 0x40, 0x40, false, 0xFF, 7, false, by decide +kernel⟩,
    ⟨{ dHost with waits := List.replicate 64 { req := { dRead with src := .host .mem, kind := .store }, why := .queue, since := 0 } }, 0, 0, 0, 5, 0x40, 0x2C3, 0, 0x40, 0x40, false, 0xFF, 7, false, by decide +kernel⟩,
    ⟨dHost, 0, 0, 0, 5, 0x1000000, by decide +kernel⟩,
    ⟨{ dHost with mode := { mode := .mirs } }, 0, 0, 0, 5, 0x40, 0x2C3, 0, 0x40, 0x40, false, 0xFF, 7, false, by decide +kernel⟩,
    ⟨{ dHost with tides := [{ (dTide []) with phase := .swapped, units := [⟨false, 0⟩] }] }, 0, 0, 0, 5, 0x40, by decide +kernel⟩,
    ⟨dHost, .uio, 0, 0, 0, 5, 0x48, 8, [1, 2, 3, 4, 5, 6, 7, 8], by decide +kernel⟩,
    ⟨{ dHost with bars := [(0, { decoders := [(0, { size := 2 ^ 21, committed := true })], base := some 0x40000 })] }, 0, 0, 0, 5, 0x40000, 8, by decide +kernel⟩,
    ⟨dHost, .uio, 0, 0, 0, 5, 0x48, 1, 0, by decide +kernel⟩,
    ⟨dHost, .uio, .swap, 8, 0, 0, 0, 5, 0x48, 1, 0, by decide +kernel⟩,
    ⟨dHost, 0, 0, 0, 5, by decide +kernel⟩,
    ⟨{ dHost with bars := [(0, { vec1Wait := true })] }, 0, 0, by decide +kernel⟩,
    ⟨{ dHost with bars := [(0, { vec1Wait := true, vec1At := some 0 })] }, 0, 0, 0, by decide +kernel⟩,
    ⟨dHost, 0, 0, by decide +kernel⟩,
    ⟨{ dHost with links := [(0, { up := true, perst := false, width := 16, heldRwD := true, heldFor := [0], keptRwD := 3 })], paths := [(0, { mergeFull := true })] }, 0, 0, 0, by decide +kernel⟩⟩

/-- States and operands that meet the hypotheses of `Obligations.ReadAndStorePath`, clause by clause. -/
theorem witness_ReadAndStorePath :
    (∃ (s : State) (r : Req) (prev : Option (Nat × Nat)), (s.gateOpen r = false)) ∧
    (∃ (s : State) (r : Req) (prev : Option (Nat × Nat)) (w : Wait), (s.gateOpen r = true) ∧ (w ∈ s.waits ∧ w.req.sameLine r = true ∧ w.req.key ≤ r.key)) ∧
    (∃ (s u : State) (r : Req), (s.gateOpen r = true ∧ s.waits = [] ∧ u = s.noteStream r) ∧ (u.inSlip (r.note 5) = false ∧ r.tiered = false) ∧ (u.fences.inForce = [] ∧ u.mode.mode ≠ .rstr) ∧ ((u.pt r.owner).recov = [] ∧ (u.chan r.owner (dfaChan r.toff)).holding = false ∧ u.converting r.owner r.toff = false) ∧ (u.pendOf r.owner r.toff = 0 ∧ u.mergeOf r.owner r.toff = none)) ∧
    (∃ (s : State) (r : Req) (a k : Nat), (s.evFind r.owner a r.sess = some k)) ∧
    (∃ (s : State) (r : Req) (a : Nat) (e : WqEnt), (s.evFind r.owner a r.sess = none) ∧ (s.mergeOf r.owner r.toff = none) ∧ (s.wqNewest r.owner a = some e)) ∧
    (∃ (s : State) (r : Req) (a : Nat), (s.evFind r.owner a r.sess = none) ∧ (s.mergeOf r.owner r.toff = none) ∧ (s.wqNewest r.owner a = none) ∧ (s.rqFull r.owner a .demand = false)) ∧
    (∃ (s : State) (r : Req) (a k : Nat), (s.evFind r.owner a r.sess = some k) ∧ (r.poison = false)) ∧
    (∃ (s : State) (owner source stamp : Nat), (owner < s.tiles ∧ source < s.tiles ∧ owner ≠ source)) ∧
    (∃ (s : State) (tile : Nat) (w : Wait), (s.waits = [w] ∧ w.why = .pend ∧ w.req.owner = tile)) ∧
    (∃ (s : State) (tile page : Nat) (e : RqEnt), (s.nextRead (subKey tile (s.homeAddr tile (page * 8) / 64 * 64)) = some e) ∧ (e.dfa = s.homeAddr tile (page * 8) / 64 * 64 ∧ e.why = .homeTlb)) ∧
    (∃ (s : State) (tile group : Nat) (e : RqEnt), (s.nextRead (subKey tile ((s.bitmapBase tile + group * 64) / 64 * 64)) = some e) ∧ (e.dfa = (s.bitmapBase tile + group * 64) / 64 * 64 ∧ e.why = .bitmap)) ∧
    (∃ (s : State) (tile : Nat), (s.hasRoom tile = true)) ∧
    (∃ (s : State) (tile : Nat), ((s.pt tile).merge.length < 512)) ∧
    (∃ (s : State) (tile off : Nat) (m : Merge), (s.mergeOf tile off = some m) ∧ (m.mask = Mask.full ∧ m.writing = false ∧ s.lineFenced tile m.dfa = false ∧ s.writeWaits tile m.dfa = false) ∧ ((∀ x ∈ (s.pt tile).merge, s.outDue tile x = false ∨ s.outRank tile m ≤ s.outRank tile x))) ∧
    (∃ (s : State) (tile off : Nat) (m : Merge), (s.mergeOf tile off = some m) ∧ (s.entryAged tile m = true) ∧ (m.mask ≠ Mask.full ∧ m.writing = false ∧ s.lineFenced tile m.dfa = false) ∧ (s.wqNewest tile m.dfa = none ∧ s.rqFull tile m.dfa .mergeOut = false)) ∧
    (∃ (s : State) (tile set way : Nat), (tile < s.tiles ∧ set < 2 ^ 17 ∧ way < 16) ∧ (s.writeWaits tile (s.evLine (evKey tile set way)).dfa = false)) ∧
    (∃ (s : State) (tile set way : Nat), (s.writeWaits tile (s.evLine (evKey tile set way)).dfa = true)) ∧
    (∃ (s : State) (tile sess ld n e : Nat) (x : Stream) (st : Int) (l : Nat), ((s.pt tile).streams.find? (fun x => decide (x.sess = sess ∧ x.ld = ld)) = some x) ∧ (x.trained = some st ∧ x.lastRead = some l ∧ x.ahead < s.tileP bEaves tile 1) ∧ (s.extentAt tile (Int.toNat ((l : Int) + st * (x.ahead + 1)) * 64 % 2 ^ 43) = some (n, e) ∧ (s.ext n e).tiered = false) ∧ (s.extentAt tile (l * 64 % 2 ^ 43) = some (n, e) ∧ Int.toNat ((l : Int) + st * (x.ahead + 1)) * 64 / 2 ^ 43 = tile) ∧ (s.slipOff n = none) ∧ (s.evFind tile (Int.toNat ((l : Int) + st * (x.ahead + 1)) * 64 % 2 ^ 43) sess = none ∧ s.lineFenced tile (Int.toNat ((l : Int) + st * (x.ahead + 1)) * 64 % 2 ^ 43) = false) ∧ ((s.rqOf (subKey tile (Int.toNat ((l : Int) + st * (x.ahead + 1)) * 64 % 2 ^ 43))).length ≤ 48)) ∧
    (∃ (s : State) (tile channel sub : Nat) (err : BitVec 640) (e : RqEnt), (channel < 4 ∧ sub < 2) ∧ (s.nextRead (8 * tile + 2 * channel + sub) = some e) ∧ ((((s.setRq (8 * tile + 2 * channel + sub) ((s.rqOf (8 * tile + 2 * channel + sub)).erase e)).touchRow tile e.dfa).tally tile (5 + channel) 0x0001 { tile }).lineCheck tile e.dfa err = .bad) ∧ (e.tries < 3)) ∧
    (∃ (s : State) (tile channel sub : Nat) (e : RqEnt), (channel < 4 ∧ sub < 2) ∧ (s.nextRead (8 * tile + 2 * channel + sub) = some e) ∧ (e.tries = 0) ∧ ((((s.setRq (8 * tile + 2 * channel + sub) ((s.rqOf (8 * tile + 2 * channel + sub)).erase e)).touchRow tile e.dfa).tally tile (5 + channel) 0x0001 { tile }).lineCheck tile e.dfa 0 = .pass)) ∧
    (∃ (s : State) (tile link tag : Nat) (w : Wait), (s.waits.find? (fun w => w.stall.isSome && decide (w.req.tile = tile ∧ w.req.link = link ∧ w.req.tag = tag) && s.due (w.req.since + w.req.exempt) ((s.param (pid bSess 1023 4) w.req.sess).toNat * us)) = some w) ∧ (w.req.via = some .mem ∧ w.req.kind = .read)) :=
  ⟨⟨{ dHost with binds := dHost.binds ++ [{ tile := 1, link := 0, ld := 0, sess := 0x2C3, ext := 0, w := 0, state := .accepted }] }, { dRead with stamp := 5 }, none, by decide +kernel⟩,
    ⟨{ dHost with waits := [{ req := dRead, why := .dram, since := 0 }] }, dRead, none, { req := dRead, why := .dram, since := 0 }, by decide +kernel⟩,
    ⟨dHost, dHost.noteStream dRead, dRead, by decide +kernel⟩,
    ⟨{ dHost with eaves := [(evKey 0 1 0, { valid := true, dfa := 0x40, off := 0x40, sess := 0x2C3, data := 7 })] }, dRead, 0x40, evKey 0 1 0, by decide +kernel⟩,
    ⟨{ dHost with wq := [(subKey 0 0x40, [{ dfa := 0x40, data := 7, poison := false, rs := true }])] }, dRead, 0x40, { dfa := 0x40, data := 7, poison := false, rs := true }, by decide +kernel⟩,
    ⟨dHost, dRead, 0x40, by decide +kernel⟩,
    ⟨{ dHost with eaves := [(evKey 0 1 0, { valid := true, dfa := 0x40, off := 0x40, sess := 0x2C3, data := 7 })] }, { dRead with kind := .store, mask := 1 }, 0x40, evKey 0 1 0, by decide +kernel⟩,
    ⟨dHost, 0, 1, 9, by decide +kernel⟩,
    ⟨{ dHost with waits := [{ req := dRead, why := .pend, since := 0 }] }, 0, { req := dRead, why := .pend, since := 0 }, by decide +kernel⟩,
    ⟨{ dHost with chans := [(0, { power := .active, refresh := [(0, { pulled := 1 })] })], rq := [(subKey 0 (dHost.homeAddr 0 0 / 64 * 64), [{ dfa := dHost.homeAddr 0 0 / 64 * 64, off := 0, sess := 0, why := .homeTlb, since := 0, target := 0 }])] }, 0, 0, { dfa := dHost.homeAddr 0 0 / 64 * 64, off := 0, sess := 0, why := .homeTlb, since := 0, target := 0 }, by decide +kernel⟩,
    ⟨{ dHost with chans := [(0, { power := .active, refresh := [(0, { pulled := 1 })] })], rq := [(subKey 0 (dHost.bitmapBase 0 / 64 * 64), [{ dfa := dHost.bitmapBase 0 / 64 * 64, off := 0, sess := 0, why := .bitmap, since := 0, target := 0 }])] }, 0, 0, { dfa := dHost.bitmapBase 0 / 64 * 64, off := 0, sess := 0, why := .bitmap, since := 0, target := 0 }, by decide +kernel⟩,
    ⟨{ dHost with tide := [(0, { eff := 100, limit := 100 })] }, 0, by decide +kernel⟩,
    ⟨dHost, 0, by decide +kernel⟩,
    ⟨{ dHost with paths := [(0, { merge := [{ off := 0x40, dfa := 0x40, sess := 0, data := 1, mask := Mask.full, stamp := 0 }] })] }, 0, 0x40, { off := 0x40, dfa := 0x40, sess := 0, data := 1, mask := Mask.full, stamp := 0 }, by decide +kernel⟩,
    ⟨{ dHost with time := { State.reset.time with locals := [(0, { count := 1000000 })] }, paths := [(0, { merge := [{ off := 0x40, dfa := 0x40, sess := 0, data := 1, mask := 1, stamp := 0 }] })] }, 0, 0x40, { off := 0x40, dfa := 0x40, sess := 0, data := 1, mask := 1, stamp := 0 }, by decide +kernel⟩,
    ⟨dHost, 0, 1, 0, by decide +kernel⟩,
    ⟨{ dHost with ich := [(0, { lapRun := true, lapStart := 1 })], eaves := [(evKey 0 1 0, { valid := true, dfa := 0x40, off := 0x40, sess := 0x2C3, data := 7, dirty := true })] }, 0, 1, 0, by decide +kernel⟩,
    ⟨{ dHost with paths := [(0, { streams := [{ sess := 0x2C3, ld := 0, trained := some 1, lastRead := some 1 }] })] }, 0, 0x2C3, 0, 0x2C3, 0, { sess := 0x2C3, ld := 0, trained := some 1, lastRead := some 1 }, 1, 1, by decide +kernel⟩,
    ⟨{ dHost with chans := [(0, { power := .active, refresh := [(0, { pulled := 1 })] })], rq := [(0, [{ dfa := 0, off := 0, sess := 0, why := .scrub, since := 0, target := 0 }])] }, 0, 0, 0, 1, { dfa := 0, off := 0, sess := 0, why := .scrub, since := 0, target := 0 }, by decide +kernel⟩,
    ⟨{ dHost with chans := [(0, { power := .active, refresh := [(0, { pulled := 1 })] })], rq := [(0, [{ dfa := 0, off := 0, sess := 0, why := .scrub, since := 0, target := 0 }])] }, 0, 0, 0, { dfa := 0, off := 0, sess := 0, why := .scrub, since := 0, target := 0 }, by decide +kernel⟩,
    ⟨{ dHost with clock := 1000000000, waits := [{ req := { dRead with src := .host .mem }, why := .move, since := 0, stall := some (5, 0) }] }, 0, 0, 0, { req := { dRead with src := .host .mem }, why := .move, since := 0, stall := some (5, 0) }, by decide +kernel⟩⟩

/-- States and operands that meet the hypotheses of `Obligations.SlipwayProtocol`, clause by clause. -/
theorem witness_SlipwayProtocol :
    (∃ (s : State) (n stamp : Nat), ((s.sess n).slip.state = .locked ∨ (s.sess n).slip.state = .done)) ∧
    (∃ (s : State) (n stamp : Nat), ((s.sess n).slip.state = .half) ∧ (stamp ≤ (s.sess n).slip.t1 + 4000)) ∧
    (∃ (s : State) (n stamp : Nat), ((s.sess n).slip.state = .half) ∧ ((s.sess n).slip.t1 + 4000 < stamp)) ∧
    (∃ (s : State) (n off stamp : Nat) (w : Word), ((s.sess n).slip.state = .open_) ∧ (0x40 ≤ off ∧ off ≤ 0xFF0)) ∧
    (∃ (s : State) (n stamp : Nat) (w : Word), ((s.sess n).slip.state = .open_) ∧ (fld w 63 32 ≠ (crc32cWords ((List.range (fld w 8 0)).map (fun i => Store.read (s.sess n).slip.words (0x40 + 8 * i) 0))).toNat)) ∧
    (∃ (s : State) (tile link ld tag hpa n x off dpa : Nat) (tiered : Bool) (mask : Mask) (data : Line), (s.takes .mem tile link ld = true ∧ s.hasCredit tile link false = true ∧ s.tideStops tile = false) ∧ (s.lookup tile link ld (hpa / 64 * 64) 64 = .hit n x off dpa tiered) ∧ (s.slipOff n = some (off / 4096 * 4096) ∧ s.slipServes = true)) ∧
    (∃ (s u : State) (r : Req) (prev : Option (Nat × Nat)), (s.gateOpen r = true ∧ s.waits = [] ∧ u = s.noteStream r) ∧ (u.inSlip (r.note 5) = true ∧ r.kind = .store)) ∧
    (∃ (s : State) (n : Nat), ((s.sess n).slip.state = .open_) ∧ ((s.sess n).slip.lastWrite + 100 * us ≤ s.clock)) :=
  ⟨⟨dHost, 0x2C3, 9, by decide +kernel⟩,
    ⟨{ dHost with sessions := [(0x2C3, { slip := { state := .half } })] }, 0x2C3, 4000, by decide +kernel⟩,
    ⟨{ dHost with sessions := [(0x2C3, { slip := { state := .half } })] }, 0x2C3, 4001, by decide +kernel⟩,
    ⟨{ dHost with sessions := [(0x2C3, { slip := { state := .open_ } })] }, 0x2C3, 0xFF0, 0, 5, by decide +kernel⟩,
    ⟨{ dHost with sessions := [(0x2C3, { slip := { state := .open_ } })] }, 0x2C3, 0, 1, by decide +kernel⟩,
    ⟨{ dHost with params := [(pkey (pid bSess 1023 0) 0x2C3, 0)] }, 0, 0, 0, 5, 0x40, 0x2C3, 0, 0x40, 0x40, false, 0xFF, 7, by decide +kernel⟩,
    ⟨{ dHost with params := [(pkey (pid bSess 1023 0) 0x2C3, 0)] }, ({ dHost with params := [(pkey (pid bSess 1023 0) 0x2C3, 0)] } : State).noteStream { dRead with src := .host .mem, kind := .store }, { dRead with src := .host .mem, kind := .store }, none, by decide +kernel⟩,
    ⟨{ dHost with clock := 1000000, sessions := [(0x2C3, { slip := { state := .open_ } })] }, 0x2C3, by decide +kernel⟩⟩

/-- States and operands that meet the hypotheses of `Obligations.LinksAndResets`, clause by clause. -/
theorem witness_LinksAndResets :
    (∃ (s : State) (tile link partner width : Nat), (s.mayTrain tile link = true) ∧ (width ∈ [1, 2, 4, 8, 16] ∧ width * s.linkCount tile ≤ 16)) ∧
    (∃ (s : State) (tile link : Nat), (tile < s.tiles ∧ link < 4 ∧ s.hasLink tile link = true ∧ s.portsLive = true)) ∧
    (∃ (s : State) (tile link : Nat), (tile < s.tiles ∧ link < 4 ∧ (s.portsLive = false ∨ s.hasLink tile link = false))) ∧
    (∃ (s : State) (tile link : Nat), (s.waits.all (fun w => w.req.fromHost && decide (w.req.tile = tile ∧ w.req.link = link)) = true ∧ s.unacked = [])) ∧
    (∃ (s : State) (tile link : Nat), (tile < s.tiles ∧ link < 4)) ∧
    (∃ (s : State) (tile link : Nat), (s.portsLive = true ∧ s.hasLink tile link = true ∧ (s.link tile link).up = true)) ∧
    (∃ (s : State) (tile link ld tag : Nat) (request : CfgReq), (s.ioUp tile link = true) ∧ (¬ (s.ldLink tile ld = link ∧ ld < 16 ∧ 5 ∈ s.boot.done))) ∧
    (∃ (s : State) (tile link ld tag : Nat), (s.ioUp tile link = true ∧ s.ldLink tile ld = link ∧ ld < 16 ∧ 5 ∈ s.boot.done)) ∧
    (∃ (s : State) (tile link ld tag addr : Nat) (v : Bool), (s.ioUp tile link = true ∧ s.ldLink tile ld = link ∧ ld < 16 ∧ 5 ∈ s.boot.done)) ∧
    (∃ (s : State) (tile link tag : Nat), (s.ioUp tile link = true)) ∧
    (∃ (s : State) (tile link tag : Nat), (s.ioUp tile link = true)) ∧
    (∃ (s : State) (tile ld decoder base size ways gran pos : Nat), (s.ldUp tile ld = true ∧ decoder < 4)) ∧
    (∃ (s : State) (tile ld keySet : Nat), (s.ldUp tile ld = true ∧ (s.bar tile ld).spdm = true)) ∧
    (∃ (s : State) (tile ld keySet : Nat), (s.ldUp tile ld = true ∧ (s.bar tile ld).spdm = true)) ∧
    (∃ (s : State) (tile link : Nat), (s.hasLink tile link = true ∧ (s.link tile link).ide = .secure)) ∧
    (∃ (s : State) (tile ld : Nat) (cert : List Word), (s.ldUp tile ld = true)) ∧
    (∃ (s : State) (tile ld k : Nat), (s.ldUp tile ld = true)) ∧
    (∃ (s : State) (tile ld : Nat), (s.ldUp tile ld = true)) :=
  ⟨⟨{ dHost with boot := { State.reset.boot with done := [1, 2, 3] } }, 0, 0, 2, 8, by decide +kernel⟩,
    ⟨dHost, 0, 0, by decide +kernel⟩,
    ⟨State.reset, 0, 0, by decide +kernel⟩,
    ⟨{ dHost with waits := [{ req := dRead, why := .dram, since := 0 }] }, 0, 0, by decide +kernel⟩,
    ⟨dHost, 0, 0, by decide +kernel⟩,
    ⟨dHost, 0, 0, by decide +kernel⟩,
    ⟨{ dHost with boot := { dHost.boot with done := [1, 2, 3] } }, 0, 0, 0, 5, .read .ids, by decide +kernel⟩,
    ⟨{ dHost with boot := { dHost.boot with done := [5] } }, 0, 0, 0, 5, by decide +kernel⟩,
    ⟨{ dHost with boot := { dHost.boot with done := [5] } }, 0, 0, 0, 5, 0x80000, true, by decide +kernel⟩,
    ⟨dHost, 0, 0, 5, by decide +kernel⟩,
    ⟨dHost, 0, 0, 5, by decide +kernel⟩,
    ⟨dHost, 0, 0, 1, 0x1000000, 0x100000, 3, 256, 0, by decide +kernel⟩,
    ⟨{ dHost with bars := [(0, { decoders := [(0, { size := 2 ^ 21, committed := true })], spdm := true })] }, 0, 0, 0, by decide +kernel⟩,
    ⟨{ dHost with bars := [(0, { decoders := [(0, { size := 2 ^ 21, committed := true })], spdm := true })] }, 0, 0, 0, by decide +kernel⟩,
    ⟨{ dHost with links := [(0, { up := true, perst := false, width := 16, ide := .secure })] }, 0, 0, by decide +kernel⟩,
    ⟨{ dHost with fuse := { State.reset.fuse with sensed := [(0, 1)] } }, 0, 0, [5], by decide +kernel⟩,
    ⟨dHost, 0, 0, 0, by decide +kernel⟩,
    ⟨dHost, 0, 0, by decide +kernel⟩⟩

/-- States and operands that meet the hypotheses of `Obligations.CapacityAndMailbox`, clause by clause. -/
theorem witness_CapacityAndMailbox :
    (∃ (s : State) (tile ld window : Nat), (s.ldUp tile ld = true)) ∧
    (∃ (s : State) (tile ld window : Nat), (s.ldUp tile ld = true) ∧ (s.binds.any (fun b => bindAt b tile ld window .releasing) = true)) ∧
    (∃ (s : State) (tile ld window : Nat), (s.binds.any (fun b => bindAt b tile ld window .releasing && s.due b.since (s.tileP bPort tile 1 * sec)) = true)) ∧
    (∃ (s : State) (tile ld : Nat), (s.ldUp tile ld = true)) ∧
    (∃ (s : State) (tile ld addr : Nat) (data : Line), (s.ldUp tile ld = true ∧ s.isMgmt tile ld = false)) ∧
    (∃ (s : State) (tile ld addr : Nat) (data : Line) (b : Bind), (s.ldUp tile ld = true ∧ s.isMgmt tile ld = true ∧ s.servesStores = true) ∧ (s.window tile (s.ldLink tile ld) ld addr = some b ∧ b.state ≠ .offered ∧ b.state ≠ .released)) ∧
    (∃ (s : State) (tile ld : Nat), (s.ldUp tile ld = true)) :=
  ⟨⟨{ dHost with binds := [{ tile := 0, link := 0, ld := 0, sess := 0x2C3, ext := 0, w := 0, state := .offered }] }, 0, 0, 0, by decide +kernel⟩,
    ⟨{ dHost with binds := [{ tile := 0, link := 0, ld := 0, sess := 0x2C3, ext := 0, w := 0, state := .releasing }] }, 0, 0, 0, by decide +kernel⟩,
    ⟨{ dHost with clock := 2 ^ 50, binds := [{ tile := 0, link := 0, ld := 0, sess := 0x2C3, ext := 0, w := 0, state := .releasing }] }, 0, 0, 0, by decide +kernel⟩,
    ⟨dHost, 0, 0, by decide +kernel⟩,
    ⟨{ dHost with params := (pid bPort 1023 0, 1) :: dHost.params }, 0, 0, 0x40, 5, by decide +kernel⟩,
    ⟨dHost, 0, 0, 0x40, 5, { tile := 0, link := 0, ld := 0, sess := 0x2C3, ext := 0, w := 0, state := .accepted }, by decide +kernel⟩,
    ⟨dHost, 0, 0, by decide +kernel⟩⟩

/-- States and operands that meet the hypotheses of `Obligations.DoorbellWindow`, clause by clause. -/
theorem witness_DoorbellWindow :
    (∃ (s : State) (tile ld : Nat) (value : Word) (items : List Word), (s.ldUp tile ld = true ∧ (s.ldCtx tile ld).isSome = true) ∧ (((s.bar tile ld).sqTail + 1024 - (s.bar tile ld).sqHead) % 1024 < (fld value 9 0 + 1024 - (s.bar tile ld).sqHead) % 1024)) ∧
    (∃ (s : State) (tile ld : Nat) (value item0 item1 : Word) (items : List Word), (s.ldUp tile ld = true ∧ s.ldCtx tile ld = none)) ∧
    (∃ (s : State) (tile ld : Nat) (value item0 item1 : Word), (s.ldUp tile ld = true ∧ (s.ldCtx tile ld).isSome = true ∧ bit value 0 = true ∧ (s.bar tile ld).cmdBusy = true)) ∧
    (∃ (s : State) (tile ld : Nat) (value item0 item1 : Word), (s.ldUp tile ld = true ∧ (s.ldCtx tile ld).isSome = true ∧ bit value 0 = true ∧ (s.bar tile ld).cmdBusy = false)) ∧
    (∃ (s : State) (tile ld : Nat) (value : Word), (s.ldUp tile ld = true) ∧ (s.ctxNums.all (fun n => !(s.ctx n).held) = true)) ∧
    (∃ (s : State) (tile ld : Nat) (value : Word), (s.ldUp tile ld = true)) ∧
    (∃ (s : State) (tile ld tag : Nat), (s.ldUp tile ld = true)) ∧
    (∃ (s : State) (tile ld tag : Nat), (s.ldUp tile ld = true)) ∧
    (∃ (s : State) (tile ld tag : Nat), (s.ldUp tile ld = true)) ∧
    (∃ (s : State) (tile ld : Nat), (s.ldUp tile ld = true)) :=
  ⟨⟨dHost, 0, 0, 0x30001, [0x01000000_00000000], by decide +kernel⟩,
    ⟨{ dHost with params := (pid bPort 1023 0, 1) :: dHost.params }, 0, 0, 1, 2, 3, [1], by decide +kernel⟩,
    ⟨{ dHost with bars := [(0, { dHost.bar 0 0 with cmdBusy := true })] }, 0, 0, 1, 2, 3, by decide +kernel⟩,
    ⟨dHost, 0, 0, 1, 2, 3, by decide +kernel⟩,
    ⟨dHost, 0, 0, 9, by decide +kernel⟩,
    ⟨dHost, 0, 0, 9, by decide +kernel⟩,
    ⟨dHost, 0, 0, 9, by decide +kernel⟩,
    ⟨dHost, 0, 0, 9, by decide +kernel⟩,
    ⟨dHost, 0, 0, 9, by decide +kernel⟩,
    ⟨dHost, 0, 0, by decide +kernel⟩⟩

/-- States and operands that meet the hypotheses of `Obligations.SpringTides`, clause by clause. -/
theorem witness_SpringTides :
    (∃ (s : State) (d : Tide), (s.twinTides = [] ∧ s.tideNow = none) ∧ (leastBy Tide.at_ s.tides = some d)) ∧
    (∃ (s : State) (d : Tide) (id v : Nat) (p : PSpec), (s.tides = [d] ∧ d.changes = [⟨.field id 0 63 0 v, 0⟩]) ∧ (id ≠ pid bSys 1023 2 ∧ pspec s.tiles id = some p)) ∧
    (∃ (s : State) (d : Tide), (s.twinTides = [d] ∧ d.phase = .named ∧ d.at_ ≤ s.master)) ∧
    (∃ (s : State) (d : Tide) (standby : Bool) (tile : Nat), (s.tideNow = some d ∧ d.phase = .swapped) ∧ (⟨standby, tile⟩ ∈ d.units ∧ ⟨standby, tile⟩ ∉ d.confirmed)) ∧
    (∃ (s : State) (d : Tide) (standby : Bool) (tile : Nat) (u : TideUnit), (s.tideNow = some d ∧ d.phase = .swapped) ∧ (u ∈ d.units ∧ s.unitWaits u = true ∧ u ∉ d.confirmed)) ∧
    (∃ (s : State) (d : Tide) (standby : Bool) (tile : Nat), (s.tideNow = some d ∧ d.phase = .swapped ∧ ⟨standby, tile⟩ ∈ d.units) ∧ (d.units.all (fun v => !s.unitWaits v || d.confirmed.contains v) = true)) ∧
    (∃ (s : State) (d : Tide), (s.tideNow = some d ∧ d.phase = .swapped ∧ d.toSave = false) ∧ (d.units.filter (fun u => s.unitWaits u && !d.confirmed.contains u && decide (s.confirmBy d u < s.master)) = [⟨false, 3⟩])) ∧
    (∃ (s : State) (d : Tide), (s.tideNow = some d ∧ d.phase = .swapped ∧ d.toSave = true) ∧ (d.units.filter (fun u => s.unitWaits u && !d.confirmed.contains u && decide (s.confirmBy d u < s.master)) = [⟨false, 3⟩])) ∧
    (∃ (s : State) (d : Tide) (m : ModeS), (s.tideNow = some d ∧ d.phase = .swapBack ∧ d.oldMode = some m) ∧ (d.at_ + 32000 ≤ s.master ∧ d.ctx = none ∧ s.save.run = none)) ∧
    (∃ (s : State) (d : Tide), (s.tideNow = some d ∧ s.master < d.at_ + 32000)) ∧
    (∃ (s : State), (s.mode.soloMain = true ∧ s.mode.mode = .solo ∧ s.modeNamed = false) ∧ ((∀ t ∈ s.tileList, s.dirtyCount t = 0))) :=
  ⟨⟨{ dHost with tides := [dTide []], time := dAt 20000 }, dTide [], by decide +kernel⟩,
    ⟨{ dHost with tides := [dTide [⟨.field (pid bDram 0 3) 0 63 0 5, 0⟩]] }, dTide [⟨.field (pid bDram 0 3) 0 63 0 5, 0⟩], pid bDram 0 3, 5, { block := 6, inst := .tile, base := 3, count := 1, fields := [{ hi := 63, lo := 0, acc := .rw, stg := true, reset := 32, least := 4, most := 1024 }] }, by decide +kernel⟩,
    ⟨{ dHost with twinTides := [dTide []], time := dAt 20000 }, dTide [], by decide +kernel⟩,
    ⟨{ dHost with tides := [{ (dTide []) with phase := .swapped, units := [⟨false, 0⟩] }] }, { (dTide []) with phase := .swapped, units := [⟨false, 0⟩] }, false, 0, by decide +kernel⟩,
    ⟨{ dHost with tides := [{ (dTide []) with phase := .swapped, units := [⟨false, 0⟩] }] }, { (dTide []) with phase := .swapped, units := [⟨false, 0⟩] }, false, 0, ⟨false, 0⟩, by decide +kernel⟩,
    ⟨{ dHost with tides := [{ (dTide []) with phase := .swapped, units := [⟨false, 0⟩], confirmed := [⟨false, 0⟩] }] }, { (dTide []) with phase := .swapped, units := [⟨false, 0⟩], confirmed := [⟨false, 0⟩] }, false, 0, by decide +kernel⟩,
    ⟨{ dHost with time := dAt 28001, tides := [{ (dTide []) with phase := .swapped, units := [⟨false, 0⟩, ⟨false, 3⟩], confirmed := [⟨false, 0⟩] }] }, { (dTide []) with phase := .swapped, units := [⟨false, 0⟩, ⟨false, 3⟩], confirmed := [⟨false, 0⟩] }, by decide +kernel⟩,
    ⟨{ dHost with time := dAt 28001, tides := [{ (dTide [⟨.mode .save 7, 0⟩]) with phase := .swapped, units := [⟨false, 0⟩, ⟨false, 3⟩], confirmed := [⟨false, 0⟩] }] }, { (dTide [⟨.mode .save 7, 0⟩]) with phase := .swapped, units := [⟨false, 0⟩, ⟨false, 3⟩], confirmed := [⟨false, 0⟩] }, by decide +kernel⟩,
    ⟨{ dHost with time := dAt 52000, tides := [{ (dTide []) with phase := .swapBack, oldMode := some dHost.mode }] }, { (dTide []) with phase := .swapBack, oldMode := some dHost.mode }, dHost.mode, by decide +kernel⟩,
    ⟨{ dHost with time := dAt 51999, tides := [{ (dTide []) with phase := .swapBack, oldMode := some dHost.mode }] }, { (dTide []) with phase := .swapBack, oldMode := some dHost.mode }, by decide +kernel⟩,
    ⟨{ dHost with mode := { mode := .solo, soloMain := true } }, by decide +kernel⟩⟩

/-- States and operands that meet the hypotheses of `Obligations.DramTraining`, clause by clause. -/
theorem witness_DramTraining :
    (∃ (s : State) (tile i : Nat) (s0 s1 s2 s3 s4 s5 s6 s7 : SlotRead), (tile < s.tiles ∧ s.stepRuns 6 = true ∧ tile ∉ s.boot.dimms ∧ s.tileFenced tile = false) ∧ (populationOf [s0, s1, s2, s3, s4, s5, s6, s7] = .inl i)) ∧
    (∃ (s : State) (tile r sb : Nat) (d : Spd) (s0 s1 s2 s3 s4 s5 s6 s7 : SlotRead), (tile < s.tiles ∧ s.stepRuns 6 = true ∧ tile ∉ s.boot.dimms ∧ s.tileFenced tile = false) ∧ (populationOf [s0, s1, s2, s3, s4, s5, s6, s7] = .inr (d, sb) ∧ chooseRate (ratesOf d.kind sb) (min d.rate (s.tileP bDram tile 0)) = some r)) ∧
    (∃ (s : State) (tile channel : Nat) (r : Train), ((s.chan tile channel).train = some r ∧ r.passed = false ∧ s.chStops tile channel = false) ∧ (r.step ≠ 8 ∧ r.step ≠ 10)) ∧
    (∃ (s : State) (tile channel : Nat) (r : Train), ((s.chan tile channel).train = some r ∧ r.passed = false ∧ s.chStops tile channel = false ∧ r.step = 10)) ∧
    (∃ (s : State) (tile channel q : Nat) (r : Train), (r.why ≠ .unitReset) ∧ (lowerRate (s.rates tile) r.rate = some q)) ∧
    (∃ (s : State) (tile channel : Nat) (r : Train), ((s.chan tile channel).train = some r ∧ r.passed = true ∧ r.why = .start ∧ s.chStops tile channel = false)) ∧
    (∃ (s : State) (tile : Nat), (tile < s.tiles ∧ s.mode.mode = .rstr ∧ tile ∈ s.boot.restored ∧ 4 * tile ∉ s.boot.fullSpeed ∧ s.chStops tile 0 = false ∧ s.save.run = none) ∧ ((List.range 4).all (fun k => (s.chan tile k).fc.isNone && (s.chan tile k).train.isNone) = true)) ∧
    (∃ (s : State) (tile c : Nat) (r : List Nat), ((s.dt tile).fcQueue = c :: r ∧ s.mode.mode = .solo ∧ (s.chan tile c).slice = none ∧ s.save.run = none ∧ (s.ic tile c).lapStart = 0) ∧ ((List.range 4).all (fun k => (s.chan tile k).fc.isNone) = true ∧ s.due (s.dt tile).fcAt (fld (s.param (pid bDram tile 0xD) 0) 23 16 * us) = true) ∧ (s.chFenced tile c = false ∧ (s.chan tile c).inUseH ≠ (s.dt tile).fcToH ∧ (s.chan tile c).train = none)) ∧
    (∃ (s : State) (tile channel drift : Nat) (t0 t1 : Option Nat) (f : FreqChange), ((s.chan tile channel).fc = some f ∧ f.fullSpeed = false ∧ s.chStops tile channel = false) ∧ (s.rqOf (8 * tile + 2 * channel) = [] ∧ s.rqOf (8 * tile + 2 * channel + 1) = [])) ∧
    (∃ (s : State) (tile channel drift : Nat) (toH : Bool), (drift < s.tileP bDram tile 0xF)) ∧
    (∃ (s : State) (tile channel : Nat) (f p : Bool), (s.chFenced tile channel = false ∧ channel < 4 ∧ tile < s.tiles ∧ s.mode.mode = .solo) ∧ ((List.range 4).all (fun k => (s.chan tile k).slice.isNone) = true ∧ (s.chan tile channel).slice = none ∧ (s.chan tile channel).sliceLast = 0) ∧ (s.save.run = none ∧ (s.chan tile channel).rtPend = true ∧ (s.chan tile channel).fc = none ∧ (s.chan tile channel).train = none)) ∧
    (∃ (s : State) (tile channel b : Nat) (p : Bool), (s.chFenced tile channel = false ∧ channel < 4 ∧ tile < s.tiles) ∧ ((s.chan tile channel).slice = some b)) :=
  ⟨⟨{ (dDram .brup {}) with boot := { State.reset.boot with done := [6] } }, 0, 4, .spd dSpd, .empty, .spd dSpd, .empty, .spd { dSpd with rowBits := 17 }, .empty, .spd dSpd, .empty, by decide +kernel⟩,
    ⟨{ (dDram .brup {}) with boot := { State.reset.boot with done := [6] } }, 0, 64, 0, dSpd, .spd dSpd, .empty, .spd dSpd, .empty, .spd dSpd, .empty, .spd dSpd, .empty, by decide +kernel⟩,
    ⟨dDram .brup { train := some { bankH := false, why := .start, rate := 32 } }, 0, 0, { bankH := false, why := .start, rate := 32 }, by decide +kernel⟩,
    ⟨dDram .brup { train := some { bankH := false, why := .start, rate := 32, step := 10 } }, 0, 0, { bankH := false, why := .start, rate := 32, step := 10 }, by decide +kernel⟩,
    ⟨dDram .brup {}, 0, 0, 60, { bankH := true, why := .start, rate := 64 }, by decide +kernel⟩,
    ⟨dDram .brup { train := some { bankH := false, why := .start, rate := 32, step := 10, passed := true } }, 0, 0, { bankH := false, why := .start, rate := 32, step := 10, passed := true }, by decide +kernel⟩,
    ⟨{ (dDram .rstr {}) with boot := { State.reset.boot with restored := [0] } }, 0, by decide +kernel⟩,
    ⟨{ (dDram .solo {}) with clock := 2 ^ 30, dtiles := [(0, { geom := geomWord dSpd 0 64, fcQueue := [0], fcToH := true })] }, 0, 0, [], by decide +kernel⟩,
    ⟨dDram .solo { fc := some { toH := true, since := 0 } }, 0, 0, 0, some 200, none, { toH := true, since := 0 }, by decide +kernel⟩,
    ⟨dDram .solo {}, 0, 0, 0, true, by decide +kernel⟩,
    ⟨dDram .solo { rtPend := true }, 0, 0, true, true, by decide +kernel⟩,
    ⟨dDram .solo { slice := some 0, phase := 3 }, 0, 0, 0, true, by decide +kernel⟩⟩

/-- States and operands that meet the hypotheses of `Obligations.DramUpkeep`, clause by clause. -/
theorem witness_DramUpkeep :
    (∃ (s : State) (tile channel rank : Nat), (tile < s.tiles ∧ channel < 4 ∧ s.chFenced tile channel = false ∧ (s.chan tile channel).power = .active ∧ rank ∈ s.ranks tile) ∧ ((let r : RefRank := Store.read (s.chan tile channel).refresh rank {}
    s.due r.since (s.tRefi tile channel) = true ∧ r.pulled = 0 ∧ s.urgentReads tile channel rank = true ∧ r.postponed < 4))) ∧
    (∃ (s : State) (tile channel rank : Nat), (tile < s.tiles ∧ channel < 4 ∧ s.chFenced tile channel = false ∧ (s.chan tile channel).power = .active ∧ rank ∈ s.ranks tile) ∧ ((let r : RefRank := Store.read (s.chan tile channel).refresh rank {}
    s.due r.since (s.tRefi tile channel) = true ∧ 0 < r.pulled))) ∧
    (∃ (s : State) (tile channel rank : Nat), (tile < s.tiles ∧ channel < 4 ∧ s.chFenced tile channel = false ∧ (s.chan tile channel).power = .active ∧ rank ∈ s.ranks tile) ∧ ((let r : RefRank := Store.read (s.chan tile channel).refresh rank {}
    s.due r.since (s.tRefi tile channel) = true ∧ r.pulled = 0 ∧ (s.urgentReads tile channel rank = false ∨ 4 ≤ r.postponed)))) ∧
    (∃ (s : State) (tile channel rank : Nat), (tile < s.tiles ∧ channel < 4 ∧ s.chFenced tile channel = false ∧ (s.chan tile channel).power = .active ∧ rank ∈ s.ranks tile) ∧ ((let r : RefRank := Store.read (s.chan tile channel).refresh rank {}
    s.due r.since (s.tRefi tile channel) = false ∧ 0 < r.postponed))) ∧
    (∃ (s : State) (tile channel rank : Nat), (tile < s.tiles ∧ channel < 4 ∧ s.chFenced tile channel = false ∧ (s.chan tile channel).power = .active ∧ rank ∈ s.ranks tile) ∧ ((let r : RefRank := Store.read (s.chan tile channel).refresh rank {}
    s.due r.since (s.tRefi tile channel) = false ∧ r.postponed = 0))) ∧
    (∃ (s : State) (tile channel k : Nat), (tile < s.tiles ∧ channel < 4 ∧ tile ∈ s.boot.dimms ∧ (s.chan tile channel).tempAt = 0 ∧ s.slotBits tile = 0 ∧ s.mode.mode = .brup)) ∧
    (∃ (s : State) (tile channel : Nat), (tile < s.tiles ∧ channel < 4 ∧ tile ∈ s.boot.dimms ∧ (s.chan tile channel).tempAt = 0 ∧ s.slotBits tile = 0 ∧ s.mode.mode = .brup)) ∧
    (∃ (s : State) (tile channel rank drift : Nat), (s.inService tile channel = true ∧ s.mode.mode.serving = true ∧ rank ∈ s.ranks tile) ∧ (s.due (Store.read (s.chan tile channel).oscAt rank 0) (s.tileP bDram tile 0xE * ms) = true)) ∧
    (∃ (s : State) (tile channel rank : Nat), (s.inService tile channel = true ∧ rank ∈ s.ranks tile) ∧ (s.due (Store.read (s.chan tile channel).zqAt rank 0) (s.tileP bDram tile 0x10 * ms) = true)) ∧
    (∃ (s : State) (tile channel bank row : Nat) (rest : List (Nat × Nat)), (tile < s.tiles ∧ channel < 4 ∧ (s.chan tile channel).power = .active ∧ s.chFenced tile channel = false) ∧ ((s.chan tile channel).nbr = (bank, row) :: rest)) ∧
    (∃ (s : State) (tile channel : Nat), (tile < s.tiles ∧ channel < 4 ∧ (s.chan tile channel).nbr = []) ∧ (s.due (s.chan tile channel).actsSince ((if (s.chan tile channel).hot then 16 else 32) * ms) = true)) ∧
    (∃ (s : State) (tile channel bank : Nat), (tile < s.tiles ∧ channel < 4 ∧ (Store.read (s.chan tile channel).rows bank {}).isOpen = true) ∧ (s.due (Store.read (s.chan tile channel).rows bank {}).last (s.dclk tile channel (s.tileP bDram tile 3)) = true) ∧ (s.rqOf (8 * tile + 2 * channel + bank % 2) = [] ∧ s.wqOf (8 * tile + 2 * channel + bank % 2) = [])) ∧
    (∃ (s : State) (tile channel rank : Nat), (s.inService tile channel = true ∧ 0 < s.tileP bDram tile 0xB ∧ rank ∈ s.ranks tile ∧ s.rankWanted tile channel rank = false) ∧ (s.due (Store.read (s.chan tile channel).idleAt rank 0) (s.dclk tile channel (s.tileP bDram tile 0xB)) = true ∧ rank ∉ (s.chan tile channel).powerDown)) ∧
    (∃ (s : State) (tile channel : Nat), (s.inService tile channel = true ∧ s.mode.mode = .main ∧ s.tileP bDram tile 0xC = 1 ∧ s.dirtyCount tile = 0 ∧ s.tileBusy tile = false) ∧ (s.rqOf (8 * tile + 2 * channel) = [] ∧ s.rqOf (8 * tile + 2 * channel + 1) = [] ∧ (s.chan tile channel).mainUse = false ∧ (s.chan tile channel).slice = none)) ∧
    (∃ (s : State) (tile channel : Nat) (t0 t1 : Option Nat), (tile < s.tiles ∧ channel < 4 ∧ (s.chan tile channel).power = .selfRefresh ∧ (s.chan tile channel).fc = none ∧ s.chFenced tile channel = false) ∧ (s.mode.mode = .main ∧ s.stepRuns 6 = false)) ∧
    (∃ (s : State) (tile channel sub : Nat), (s.inService tile channel = true ∧ (s.chan tile channel).prac = true ∧ sub < 2)) ∧
    (∃ (s : State) (tile channel sub : Nat), (s.inService tile channel = true ∧ sub < 2)) :=
  ⟨⟨{ (dDram .solo { power := .active }) with clock := 100000000, time := { (dAt 0) with locals := [(0, { count := 100000000 })] }, rq := [(0, [{ dfa := 0, off := 0, sess := 0, why := .demand, since := 0, target := 4 }])] }, 0, 0, 0, by decide +kernel⟩,
    ⟨{ (dDram .solo { power := .active, refresh := [(0, { pulled := 2 })] }) with clock := 100000000 }, 0, 0, 0, by decide +kernel⟩,
    ⟨{ (dDram .solo { power := .active }) with clock := 100000000 }, 0, 0, 0, by decide +kernel⟩,
    ⟨dDram .solo { power := .active, refresh := [(0, { since := 1, postponed := 2 })] }, 0, 0, 0, by decide +kernel⟩,
    ⟨dDram .solo { power := .active, refresh := [(0, { since := 1 })] }, 0, 0, 0, by decide +kernel⟩,
    ⟨dDram .brup {}, 0, 0, 341, by decide +kernel⟩,
    ⟨dDram .brup {}, 0, 0, by decide +kernel⟩,
    ⟨{ (dDram .solo { power := .active }) with clock := 2 ^ 50 }, 0, 0, 0, 9, by decide +kernel⟩,
    ⟨{ (dDram .solo { power := .active }) with clock := 2 ^ 50 }, 0, 0, 0, by decide +kernel⟩,
    ⟨dDram .solo { power := .active, nbr := [(5, 0)] }, 0, 0, 5, 0, [], by decide +kernel⟩,
    ⟨{ (dDram .solo { power := .active }) with clock := 2 ^ 50 }, 0, 0, by decide +kernel⟩,
    ⟨{ (dDram .solo { power := .active, rows := [(4, { isOpen := true, row := 9 })] }) with clock := 2 ^ 50 }, 0, 0, 4, by decide +kernel⟩,
    ⟨{ (dDram .solo { power := .active }) with clock := 2 ^ 50, params := [(pkey (pid bDram 0 0xB) 0, 16)] }, 0, 0, 0, by decide +kernel⟩,
    ⟨{ (dDram .main { power := .active }) with params := [(pkey (pid bDram 0 0xC) 0, 1)] }, 0, 0, by decide +kernel⟩,
    ⟨{ (dDram .main { power := .selfRefresh }) with rq := [(0, [{ dfa := 0, off := 0, sess := 0, why := .demand, since := 0, target := 4 }])] }, 0, 0, some 200, none, by decide +kernel⟩,
    ⟨dDram .solo { power := .active, prac := true }, 0, 0, 1, by decide +kernel⟩,
    ⟨dDram .solo { power := .active }, 0, 0, 1, by decide +kernel⟩⟩

/-- States and operands that meet the hypotheses of `Obligations.LinesInError`, clause by clause. -/
theorem witness_LinesInError :
    (∃ (s : State) (tile dfa : Nat) (e : RqEnt) (r : TRec), ((s.pt tile).recov = [e] ∧ e.dfa = dfa / 64 * 64) ∧ (s.recomputes tile (dfa / 64 * 64) = true ∧ s.mergeOf tile (s.offOf tile (dfa / 64 * 64)) = none) ∧ (s.image tile (s.logicalOf tile (dfa / 64 * 64 / 4096)).1 (s.logicalOf tile (dfa / 64 * 64 / 4096)).2 = some r ∧ r.kind ≠ 6)) ∧
    (∃ (s : State) (tile dfa : Nat) (readable : Bool) (e : RqEnt), ((s.pt tile).recov = [e] ∧ e.dfa = dfa / 64 * 64) ∧ (s.recomputes tile (dfa / 64 * 64) = false ∨ (readable = false ∧ s.twinServes = false)) ∧ (s.mode.mode ≠ .mirs ∧ s.sendsFrames tile = false)) ∧
    (∃ (s : State) (tile dfa : Nat) (readable : Bool) (e : RqEnt), ((s.pt tile).recov = [e] ∧ e.dfa = dfa / 64 * 64) ∧ (s.recomputes tile (dfa / 64 * 64) = false ∧ s.mode.mode = .mirs ∧ s.twinUp = true ∧ (s.mt tile).lrqs = [])) ∧
    (∃ (s : State) (tile channel : Nat) (errs : List (Nat × BitVec 640)), (s.convRuns tile channel = true ∧ s.training tile (s.ic tile channel).convPtr = false ∧ (s.ic tile channel).lapStart = 1) ∧ ((groupLines channel (s.ic tile channel).convPtr).all (fun a => !s.scrubOpen tile a) = true) ∧ ((s.wqOf (8 * tile + 2 * channel)).length ≤ 32 ∧ (s.wqOf (8 * tile + 2 * channel + 1)).length ≤ 32)) ∧
    (∃ (s : State) (tile channel : Nat) (errs : List (Nat × BitVec 640)), (s.convRuns tile channel = true ∧ s.training tile (s.ic tile channel).convPtr = false ∧ (s.ic tile channel).lapStart = 0) ∧ (s.busFree tile 8 = true ∧ (s.it tile).convNext ≤ s.clock)) ∧
    (∃ (s : State) (tile channel : Nat) (err : BitVec 640), (s.undertow tile channel = true ∧ s.behind tile channel = true ∧ 0 < s.dfaSize tile) ∧ ((s.readRow tile (s.ic tile channel).lapPos).lineCheck tile (s.ic tile channel).lapPos err = .pass)) ∧
    (∃ (s : State) (tile channel : Nat) (fix : List Nat) (err : BitVec 640), (s.undertow tile channel = true ∧ s.behind tile channel = true ∧ 0 < s.dfaSize tile) ∧ ((s.readRow tile (s.ic tile channel).lapPos).lineCheck tile (s.ic tile channel).lapPos err = .corrected fix)) ∧
    (∃ (s : State) (tile a : Nat) (r : List Nat), ((s.it tile).writeBack = a :: r ∧ s.newerHeld tile a = false ∧ s.lineFenced tile a = false) ∧ (s.writeWaits tile a = false ∧ s.chanAway tile (dfaChan a) = false ∧ s.busFree tile 7 = true ∧ s.rqOf (subKey tile a) = [])) ∧
    (∃ (s : State) (tile a : Nat) (r : List Nat), ((s.it tile).writeBack = a :: r ∧ s.newerHeld tile a = true)) ∧
    (∃ (s : State) (tile channel : Nat), (tile < s.tiles ∧ channel < 4 ∧ (s.ic tile channel).convDone = true ∧ (s.ic tile channel).lapLate = false) ∧ (s.due (s.ic tile channel).lapBegan (s.tileP bEcc tile 2 * 3600 * sec) = true)) ∧
    (∃ (s : State) (cls inst tile : Nat) (f : Fence), (s.fence? cls inst tile = some f ∧ f.reloading = true ∧ s.twinServes = false ∧ s.mode.mode ≠ .mirs)) :=
  ⟨⟨{ (dDram .solo { power := .active }) with paths := [(0, { recov := [{ dfa := 0x1040, off := 0x1040, sess := 0, why := .scrub, since := 0, target := 0 }] })], thatch := [(0, { recs := [{ blk := 8, tm := 5, lpage := 1, lines := List.replicate 64 9, key := 0 }] })] }, 0, 0x1040, { dfa := 0x1040, off := 0x1040, sess := 0, why := .scrub, since := 0, target := 0 }, { blk := 8, tm := 5, lpage := 1, lines := List.replicate 64 9, key := 0 }, by decide +kernel⟩,
    ⟨{ (dDram .solo { power := .active }) with paths := [(0, { recov := [{ dfa := 0x1040, off := 0x1040, sess := 0, why := .scrub, since := 0, target := 0 }] })], tide := [(0, { dirty := [1] })] }, 0, 0x1040, true, { dfa := 0x1040, off := 0x1040, sess := 0, why := .scrub, since := 0, target := 0 }, by decide +kernel⟩,
    ⟨{ (dDram .mirs { power := .active }) with lease := { State.reset.lease with twinLost := false }, mirr := [(0, { up0 := true })], paths := [(0, { recov := [{ dfa := 0x1040, off := 0x1040, sess := 0, why := .scrub, since := 0, target := 0 }] })], tide := [(0, { dirty := [1] })] }, 0, 0x1040, true, { dfa := 0x1040, off := 0x1040, sess := 0, why := .scrub, since := 0, target := 0 }, by decide +kernel⟩,
    ⟨{ (dDram .solo { power := .active }) with ich := [(0, { lapRun := true, lapStart := 1 })] }, 0, 0, [], by decide +kernel⟩,
    ⟨{ (dDram .solo { power := .active }) with ich := [(0, { lapRun := true })] }, 0, 0, [], by decide +kernel⟩,
    ⟨{ (dDram .solo { power := .active }) with ich := [(0, { convDone := true, convPtr := 2 ^ 37 })], clock := 5 }, 0, 0, 0, by decide +kernel⟩,
    ⟨{ (dDram .solo { power := .active }) with ich := [(0, { convDone := true, convPtr := 2 ^ 37 })], clock := 5 }, 0, 0, [0], 1, by decide +kernel⟩,
    ⟨{ (dDram .solo { power := .active }) with itile := [(0, { writeBack := [0x40] })] }, 0, 0x40, [], by decide +kernel⟩,
    ⟨{ dHost with itile := [(0, { writeBack := [0x40] })], eaves := [(evKey 0 1 0, { valid := true, dirty := true, dfa := 0x40, off := 0x40, data := 7 })] }, 0, 0x40, [], by decide +kernel⟩,
    ⟨{ dHost with clock := 2 ^ 60, ich := [(0, { convDone := true })] }, 0, 0, by decide +kernel⟩,
    ⟨{ dHost with fences := { State.reset.fences with inForce := [{ cls := 1, inst := 0, tile := 0, cause := 1, tidemark := 0, reloading := true }] } }, 1, 0, 0, { cls := 1, inst := 0, tile := 0, cause := 1, tidemark := 0, reloading := true }, by decide +kernel⟩⟩

/-- States and operands that meet the hypotheses of `Obligations.ChecksAndFences`, clause by clause. -/
theorem witness_ChecksAndFences :
    (∃ (s : State) (tile cls inst : Nat), (tile < s.tiles)) ∧
    (∃ (s : State) (tile t l tag : Nat) (w : Wait), (tile < s.tiles) ∧ ((((s.log tile 4 bEcc tile 0x08 0 0).tally tile 32 0x0001 {}).waits.find? (fun w => w.req.isRead && w.req.fromHost && decide (w.req.tile = t ∧ w.req.link = l ∧ w.req.tag = tag)) = some w))) ∧
    (∃ (s : State) (tile inst : Nat), (tile < s.tiles)) ∧
    (∃ (s : State) (tile n : Nat) (x : Cpl) (r : List Cpl), (tile < s.tiles ∧ (s.ctx n).outbox = x :: r)) ∧
    (∃ (s : State) (tile n : Nat) (w : Word) (rest : List Word) (u : Cur), (tile < s.tiles ∧ (s.ctx n).cur = some u) ∧ (u.sub.items[u.next]? = some w ∧ u.next + 1 < u.sub.items.length)) ∧
    (∃ (s : State) (tile : Nat), (tile < s.tiles)) ∧
    (∃ (s : State) (tile b place : Nat), ((s.param (pid bEcc tile (0x20 + b)) 0).toNat + 1 ≤ s.tileP bEcc tile (0x30 + b))) ∧
    (∃ (s : State) (tile b : Nat), (tile < s.tiles ∧ b < 6) ∧ (s.due (Store.read (s.it tile).leakAt b 0) (s.tileP bEcc tile (0x28 + b) * sec) = true)) ∧
    (∃ (s : State) (tile set way : Nat), (tile < s.tiles ∧ set < 2 ^ 17 ∧ way < 16) ∧ ((s.evLine (evKey tile set way)).valid = true)) ∧
    (∃ (s : State) (tile link : Nat), (tile < s.tiles ∧ link < 4 ∧ Store.read (s.it tile).replays link [] = [])) ∧
    (∃ (s : State) (cls inst tile cause : Nat), (s.unitExists cls inst tile = true ∧ (s.log 0 (if cls = 0xA then 6 else 5) (fenceBlock cls) inst 0x01 cause tile).fenced cls inst tile = false) ∧ ((s.log 0 (if cls = 0xA then 6 else 5) (fenceBlock cls) inst 0x01 cause tile).enclosed cls inst tile = false)) ∧
    (∃ (s : State) (holder cls inst tile : Nat), (holder < s.tiles)) ∧
    (∃ (s : State) (tile inst : Nat), (s.fenced 1 inst tile = true ∧ s.enclosed 1 inst tile = false) ∧ ((s.chan tile inst).train = none)) :=
  ⟨⟨dHost, 0, 1, 2, by decide +kernel⟩,
    ⟨{ dHost with waits := [{ req := { dRead with src := .host .mem }, why := .dram, since := 0 }] }, 0, 0, 0, 0, { req := { dRead with src := .host .mem }, why := .dram, since := 0 }, by decide +kernel⟩,
    ⟨dHost, 0, 2, by decide +kernel⟩,
    ⟨dOut (dCpl .firmware), 0, 0x1000, dCpl .firmware, [], by decide +kernel⟩,
    ⟨{ dHost with ctxs := [(0x1000, { created := true, cur := some { sub := { items := [0, 0, 0], prio := 0, path := .firmware, pl := 0 }, next := 1, high := 1 } })] }, 0, 0x1000, 0, [], { sub := { items := [0, 0, 0], prio := 0, path := .firmware, pl := 0 }, next := 1, high := 1 }, by decide +kernel⟩,
    ⟨dHost, 0, by decide +kernel⟩,
    ⟨dHost, 0, 5, 5, by decide +kernel⟩,
    ⟨{ dHost with clock := 2 ^ 50 }, 0, 5, by decide +kernel⟩,
    ⟨{ dHost with eaves := [(evKey 0 1 0, { valid := true, dfa := 0x40, off := 0x40, data := 7 })] }, 0, 1, 0, by decide +kernel⟩,
    ⟨dHost, 0, 0, by decide +kernel⟩,
    ⟨dHost, 1, 2, 0, 0x55, by decide +kernel⟩,
    ⟨dHost, 3, 1, 2, 0, by decide +kernel⟩,
    ⟨{ dHost with fences := { State.reset.fences with inForce := [{ cls := 1, inst := 0, tile := 0, cause := 1, tidemark := 0 }] } }, 0, 0, by decide +kernel⟩⟩

/-- States and operands that meet the hypotheses of `Obligations.LineInstructions`, clause by clause. -/
theorem witness_LineInstructions :
    (∃ (s : State) (n : Nat) (i : Issue) (c : Ctx) (e : Ext) (t lo : Nat), (Ready s n 0x30 i c) ∧ ((s.consume n i c).rangeAB n i 64 0x20_0000 = some (e, t, lo, lo + 64))) ∧
    (∃ (s : State) (n : Nat) (i : Issue) (c : Ctx) (e : Ext) (t lo : Nat), (Ready s n 0x30 i c) ∧ ((s.consume n i c).rangeAB n i 64 0x20_0000 = some (e, t, lo, lo))) ∧
    (∃ (s : State) (n : Nat) (i : Issue) (c : Ctx), (Ready s n 0x30 i c) ∧ ((s.consume n i c).rangeAB n i 64 0x20_0000 = none)) ∧
    (∃ (s : State) (n : Nat) (i : Issue) (c : Ctx) (e : Ext) (t lo hi : Nat), (Ready s n 0x69 i c) ∧ ((s.consume n i c).rangeOf i (((s.consume n i c).ctx n).opA i.word).toNat 64 64 64 = some (e, t, lo, hi))) ∧
    (∃ (s : State) (n : Nat) (i : Issue) (c : Ctx) (e : Ext) (t lo hi : Nat), (Ready s n 0x6A i c) ∧ ((s.consume n i c).rangeOf i (((s.consume n i c).ctx n).opA i.word).toNat 64 64 64 = some (e, t, lo, hi))) ∧
    (∃ (s : State) (n : Nat) (i : Issue) (c : Ctx) (e : Ext) (t lo hi : Nat), (Ready s n 0x31 i c) ∧ ((s.consume n i c).rangeAB n i 64 0x400_0000 = some (e, t, lo, hi))) ∧
    (∃ (s : State) (n : Nat) (i : Issue) (c : Ctx) (e : Ext) (t lo hi : Nat), (Ready s n 0x32 i c ∧ (s.ctx n).long = none) ∧ ((s.consume n i c).rangeAB n i 64 (2 ^ 46) = some (e, t, lo, hi) ∧ iXf i.word = false)) ∧
    (∃ (s : State) (n t lo hi stamp : Nat) (i : Issue), ((s.ctx n).long = some (i, .pbar t lo hi false stamp) ∧ s.ctxPending n t lo hi = false) ∧ ((s.pt t).merge.all (fun m => decide (¬ (lo ≤ m.off ∧ m.off < hi ∧ m.stamp ≤ stamp))) = true)) ∧
    (∃ (s : State) (n t lo hi stamp : Nat) (i : Issue), ((s.ctx n).long = some (i, .pbar t lo hi false stamp) ∧ (s.flushMerge t lo hi stamp).ctxPending n t lo hi = true)) ∧
    (∃ (s : State) (n : Nat) (i : Issue) (c : Ctx) (e : Ext) (t lo hi : Nat), (Ready s n 0x33 i c ∧ (s.ctx n).long = none) ∧ ((s.consume n i c).rangeAB n i 4096 0x4000_0000 = some (e, t, lo, hi) ∧ e.tiered = true ∧ fld i.word 21 20 ≠ 0) ∧ ((s.consume n i c).movpLeft t (lo / 4096) (hi / 4096) (fld i.word 21 20) = [])) ∧
    (∃ (s : State) (n : Nat) (i : Issue) (c : Ctx) (e : Ext) (t lo hi : Nat), (Ready s n 0x33 i c ∧ (s.ctx n).long = none) ∧ ((s.consume n i c).rangeAB n i 4096 0x4000_0000 = some (e, t, lo, hi) ∧ e.tiered = true ∧ fld i.word 21 20 = 1) ∧ ((s.consume n i c).movpLeft t (lo / 4096) (hi / 4096) 1 ≠ []) ∧ (((s.consume n i c).resvOf (iSess i.word) t).frames < (s.consume n i c).homed t (iSess i.word) 1 + ((s.consume n i c).movpLeft t (lo / 4096) (hi / 4096) 1).length)) ∧
    (∃ (s : State) (tile lpage : Nat) (m : Move), ((s.tt tile).moves.find? (fun m => decide (m.lpage = lpage ∧ m.dest = 1)) = some m) ∧ (s.homeKind tile lpage = 3)) :=
  ⟨⟨dHX [0x30123000_000002C3], 0x1000, nI (dHX [0x30123000_000002C3]) 0x1000, nC (dHX [0x30123000_000002C3]) 0x1000, { defined := true, len := 2 ^ 21 }, 0, 0x40, by decide +kernel⟩,
    ⟨dHX [0x30120000_000002C3], 0x1000, nI (dHX [0x30120000_000002C3]) 0x1000, nC (dHX [0x30120000_000002C3]) 0x1000, { defined := true, len := 2 ^ 21 }, 0, 0x40, by decide +kernel⟩,
    ⟨dHX [0x30100000_00000123], 0x1000, nI (dHX [0x30100000_00000123]) 0x1000, nC (dHX [0x30100000_00000123]) 0x1000, by decide +kernel⟩,
    ⟨dHX [0x69120000_000002C3], 0x1000, nI (dHX [0x69120000_000002C3]) 0x1000, nC (dHX [0x69120000_000002C3]) 0x1000, { defined := true, len := 2 ^ 21 }, 0, 0x40, 0x80, by decide +kernel⟩,
    ⟨dHX [0x6A120000_000002C3], 0x1000, nI (dHX [0x6A120000_000002C3]) 0x1000, nC (dHX [0x6A120000_000002C3]) 0x1000, { defined := true, len := 2 ^ 21 }, 0, 0x40, 0x80, by decide +kernel⟩,
    ⟨dHX [0x31123000_000002C3], 0x1000, nI (dHX [0x31123000_000002C3]) 0x1000, nC (dHX [0x31123000_000002C3]) 0x1000, { defined := true, len := 2 ^ 21 }, 0, 0x40, 0x80, by decide +kernel⟩,
    ⟨dHX [0x32123000_000002C3], 0x1000, nI (dHX [0x32123000_000002C3]) 0x1000, nC (dHX [0x32123000_000002C3]) 0x1000, { defined := true, len := 2 ^ 21 }, 0, 0x40, 0x80, by decide +kernel⟩,
    ⟨{ dHX [] with ctxs := [(0x1000, { dHC [] with long := some (noIssue, .pbar 0 0 64 false 9) })] }, 0x1000, 0, 0, 64, 9, noIssue, by decide +kernel⟩,
    ⟨{ dHX [] with ctxs := [(0x1000, { dHC [] with long := some (noIssue, .pbar 0 0 64 false 9) })], waits := [{ req := { dRead with src := .ctx 0x1000, off := 0, dpa := 0 }, why := .merge, since := 0 }] }, 0x1000, 0, 0, 64, 9, noIssue, by decide +kernel⟩,
    ⟨{ dHX [0x33100000_001002C3] with sessions := [(0x2C3, { isOpen := true, exts := [(0, { defined := true, len := 2 ^ 21, tiered := true })] })] }, 0x1000, nI { dHX [0x33100000_001002C3] with sessions := [(0x2C3, { isOpen := true, exts := [(0, { defined := true, len := 2 ^ 21, tiered := true })] })] } 0x1000, nC (dHX [0x33100000_001002C3]) 0x1000, { defined := true, len := 2 ^ 21, tiered := true }, 0, 0, 0, by decide +kernel⟩,
    ⟨{ dHX [0x33123000_001002C3] with ctxs := [(0x1000, { dHC [0x33123000_001002C3] with g := [(3, 4096)] })], home := [(0, 3)], sessions := [(0x2C3, { isOpen := true, exts := [(0, { defined := true, len := 2 ^ 21, tiered := true })] })] }, 0x1000, nI { dHX [0x33123000_001002C3] with ctxs := [(0x1000, { dHC [0x33123000_001002C3] with g := [(3, 4096)] })] } 0x1000, nC { dHX [0x33123000_001002C3] with ctxs := [(0x1000, { dHC [0x33123000_001002C3] with g := [(3, 4096)] })] } 0x1000, { defined := true, len := 2 ^ 21, tiered := true }, 0, 0, 4096, by decide +kernel⟩,
    ⟨{ dHost with home := [(0, 3)], tiers := [(0, { moves := [{ lpage := 0, dest := 1, sess := 0x2C3 }] })] }, 0, 0, { lpage := 0, dest := 1, sess := 0x2C3 }, by decide +kernel⟩⟩

/-- States and operands that meet the hypotheses of `Obligations.SessionInstructions`, clause by clause. -/
theorem witness_SessionInstructions :
    (∃ (s : State) (n : Nat) (i : Issue) (c : Ctx), (Ready s n 0x40 i c) ∧ (iXf i.word = false ∧ ((s.consume n i c).sess (iSess i.word)).isOpen = false) ∧ ((s.consume n i c).portOk (bindWord (i.data.getD 0 0)) = true) ∧ (((resvRecs ((iN i.word - 1) / 6) (i.data.drop 1)).all (fun r => decide (r.1 < (s.consume n i c).tiles) && (s.consume n i c).resvFits (iSess i.word) r.1 r.2)) = true ∧ ((resvRecs ((iN i.word - 1) / 6) (i.data.drop 1)).map Prod.fst).Nodup)) ∧
    (∃ (s : State) (n : Nat) (i : Issue) (c : Ctx), (Ready s n 0x40 i c) ∧ (iXf i.word = false ∧ ((s.consume n i c).sess (iSess i.word)).isOpen = true) ∧ ((s.consume n i c).portOk (bindWord (i.data.getD 0 0)) = true) ∧ (((resvRecs ((iN i.word - 1) / 6) (i.data.drop 1)).all (fun r => decide (r.1 < (s.consume n i c).tiles))) = true ∧ ((resvRecs ((iN i.word - 1) / 6) (i.data.drop 1)).map Prod.fst).Nodup)) ∧
    (∃ (s : State) (n : Nat) (i : Issue) (c : Ctx) (h0 dpa len : Word), (Ready s n 0x42 i c ∧ i.data = [h0, dpa, len] ∧ fld h0 1 0 = 1) ∧ (((s.consume n i c).sess (iSess i.word)).isOpen = true ∧ ((s.consume n i c).ext (iSess i.word) (fld h0 13 8)).defined = false) ∧ ((s.consume n i c).binds.any (fun b => decide (b.sess = iSess i.word ∧ b.ext = fld h0 13 8 ∧ b.state ≠ .released)) = false ∧ (s.consume n i c).setTaken n = false) ∧ ((let x : Ext := { defined := true, tiered := false, start := fld h0 45 21 * 2 ^ 21, dpa := dpa.toNat, len := len.toNat }; (s.consume n i c).placeOk (iSess i.word) x = true ∧ (s.consume n i c).bindsOk (iSess i.word) (fld h0 13 8) x [] [] false = true ∧ (s.consume n i c).windowsFit [] = true))) ∧
    (∃ (s : State) (n : Nat) (i : Issue) (c : Ctx), (Ready s n 0x42 i c ∧ fld (i.data.getD 0 0) 1 0 = 0 ∧ ((s.consume n i c).ext (iSess i.word) (fld (i.data.getD 0 0) 13 8)).defined = false)) ∧
    (∃ (s : State) (n : Nat) (i : Issue) (c : Ctx), (Ready s n 0x43 i c ∧ ((s.consume n i c).sess (iSess i.word)).isOpen = true ∧ ((s.consume n i c).ctx n).dropped = false ∧ (s.consume n i c).sqosLevel i = true) ∧ ((s.consume n i c).canStage n [.field (pid bSess 1023 3) (iSess i.word) 63 0 (((s.consume n i c).ctx n).opA i.word).toNat] = true)) ∧
    (∃ (s : State) (n k : Nat) (i : Issue) (c : Ctx), (Ready s n 0x43 i c ∧ ((s.consume n i c).sess (iSess i.word)).isOpen = true ∧ ((s.consume n i c).ctx n).dropped = false ∧ (s.consume n i c).sqosLevel i = true) ∧ ((s.consume n i c).set.owner = some k ∧ k ≠ n)) ∧
    (∃ (s : State) (n : Nat) (i : Issue) (c : Ctx), (Ready s n 0x41 i c ∧ (s.ctx n).long = none) ∧ (((s.consume n i c).sess (iSess i.word)).isOpen = true ∧ ((s.consume n i c).sess (iSess i.word)).exts = [] ∧ ((s.consume n i c).ctx n).dropped = false) ∧ ((s.consume n i c).set.owner = none ∧ (s.consume n i c).set.entries = [])) ∧
    (∃ (s : State) (n m : Nat) (i : Issue), ((s.ctx n).long = some (i, .sclose m 2))) ∧
    (∃ (s : State) (n : Nat) (i : Issue) (c : Ctx), (Ready s n 0x34 i c ∧ iXf i.word = false ∧ ((s.consume n i c).sess (iSess i.word)).isOpen = true) ∧ ((let h := i.data.getD 0 0; let l := regionList (i.data.drop 1); 0 < fld h 42 32 ∧ fld h 42 32 ≤ 1024 ∧ 0 < fld h 12 8 ∧ fld h 12 8 ≤ 16 ∧ l.length ≤ fld h 42 32 ∧ regionsApart l = true ∧
      l.all (fun r => decide (0 < r.2) && ((s.consume n i c).pagesTile (iSess i.word) 64 (regionStart r) r.2 none).isSome) = true)) ∧ ((Store.read ((s.consume n i c).sess (iSess i.word)).scheds (fld (i.data.getD 0 0) 2 0) {}).running = false)) ∧
    (∃ (s : State) (n : Nat) (i : Issue) (c : Ctx), (Ready s n 0x35 i c ∧ ((s.consume n i c).sess (iSess i.word)).isOpen = true ∧ bit i.word 20 = true) ∧ ((let x := Store.read ((s.consume n i c).sess (iSess i.word)).scheds (fld i.word 18 16) {}; x.running = false ∧ x.defined = true ∧ x.regions.length = x.total))) ∧
    (∃ (s : State) (n : Nat) (i : Issue) (c : Ctx), (Ready s n 0x35 i c ∧ ((s.consume n i c).sess (iSess i.word)).isOpen = true) ∧ ((Store.read ((s.consume n i c).sess (iSess i.word)).scheds (fld i.word 18 16) {}).running = bit i.word 20)) :=
  ⟨⟨dHX [0x40100000_000700A4, 0, 0, 0, 0, 0, 0, 0], 0x1000, nI (dHX [0x40100000_000700A4, 0, 0, 0, 0, 0, 0, 0]) 0x1000, nC (dHX [0x40100000_000700A4, 0, 0, 0, 0, 0, 0, 0]) 0x1000, by decide +kernel⟩,
    ⟨dHX [0x40100000_000702C3, 0, 0, 0, 0, 0, 0, 0], 0x1000, nI (dHX [0x40100000_000702C3, 0, 0, 0, 0, 0, 0, 0]) 0x1000, nC (dHX [0x40100000_000702C3, 0, 0, 0, 0, 0, 0, 0]) 0x1000, by decide +kernel⟩,
    ⟨{ dHX [0x42100000_000302C3, 0x200101, 0x200000, 0x200000] with dtiles := [(0, { geom := geomWord dSpd 0 64 })] }, 0x1000, nI (dHX [0x42100000_000302C3, 0x200101, 0x200000, 0x200000]) 0x1000, nC (dHX [0x42100000_000302C3, 0x200101, 0x200000, 0x200000]) 0x1000, 0x200101, 0x200000, 0x200000, by decide +kernel⟩,
    ⟨dHX [0x42100000_000102C3, 0x100], 0x1000, nI (dHX [0x42100000_000102C3, 0x100]) 0x1000, nC (dHX [0x42100000_000102C3, 0x100]) 0x1000, by decide +kernel⟩,
    ⟨dHX [0x43120000_000002C3], 0x1000, nI (dHX [0x43120000_000002C3]) 0x1000, nC (dHX [0x43120000_000002C3]) 0x1000, by decide +kernel⟩,
    ⟨{ dHX [0x43120000_000002C3] with set := { owner := some 5 } }, 0x1000, 5, nI (dHX [0x43120000_000002C3]) 0x1000, nC (dHX [0x43120000_000002C3]) 0x1000, by decide +kernel⟩,
    ⟨{ dHX [0x41100000_000002C3] with sessions := [(0x2C3, { isOpen := true })] }, 0x1000, nI (dHX [0x41100000_000002C3]) 0x1000, nC (dHX [0x41100000_000002C3]) 0x1000, by decide +kernel⟩,
    ⟨{ dHX [] with ctxs := [(0x1000, { dHC [] with long := some (noIssue, .sclose 5 2) })] }, 0x1000, 5, noIssue, by decide +kernel⟩,
    ⟨dHX [0x34100000_000302C3, 0x00000001_00010200, 0, 0x10], 0x1000, nI (dHX [0x34100000_000302C3, 0x00000001_00010200, 0, 0x10]) 0x1000, nC (dHX [0x34100000_000302C3, 0x00000001_00010200, 0, 0x10]) 0x1000, by decide +kernel⟩,
    ⟨{ dHX [0x35100000_001002C3] with sessions := [(0x2C3, { isOpen := true, scheds := [(0, { defined := true })] })] }, 0x1000, nI (dHX [0x35100000_001002C3]) 0x1000, nC (dHX [0x35100000_001002C3]) 0x1000, by decide +kernel⟩,
    ⟨dHX [0x35100000_000002C3], 0x1000, nI (dHX [0x35100000_000002C3]) 0x1000, nC (dHX [0x35100000_000002C3]) 0x1000, by decide +kernel⟩⟩

/-- States and operands that meet the hypotheses of `Obligations.TierMoves`, clause by clause. -/
theorem witness_TierMoves :
    (∃ (s : State) (tile lpage : Nat) (m : Move), ((s.tt tile).moves.find? (fun m => decide (m.lpage = lpage)) = some m)) ∧
    (∃ (s : State) (tile lpage : Nat), (s.moverRoom tile = false ∧ hMoving (s.homeEntry tile lpage) = false)) ∧
    (∃ (s : State) (tile sess f : Nat), (s.moversRun tile = true ∧ (s.resvOf sess tile).frames ≤ s.homed tile sess 1 ∧ s.leaving tile sess < s.homeWaits tile sess) ∧ ((s.sweepOrder tile sess).find? (fun f => s.inDemotion tile (s.frame tile f).lpage && s.victimOk tile f) = some f)) ∧
    (∃ (s : State) (tile lpage line i : Nat) (w : Wait), (s.pageLoan tile lpage = some i ∧ line < 64 ∧ w ∈ s.waits ∧ w.why = .unit ∧ w.req.owner = tile ∧ w.req.toff / 64 = lpage * 64 + line) ∧ (s.neighbourRuns tile = true ∧ (s.tt tile).units.any (fun u => decide (u.lpage = lpage ∧ u.line = line)) = false)) ∧
    (∃ (s : State) (tile id status : Nat) (data : List Byte) (u : UnitReq), ((s.tt tile).units.find? (fun u => decide (u.id = id)) = some u) ∧ (status ≠ 0 ∧ (s.loan tile u.loan).state = 2)) ∧
    (∃ (s : State) (tile id : Nat) (data : List Byte) (u : UnitReq), ((s.tt tile).units.find? (fun u => decide (u.id = id)) = some u ∧ u.write = true ∧ (s.loan tile u.loan).state = 2)) ∧
    (∃ (s : State) (tile id : Nat) (data : List Byte) (u : UnitReq), ((s.tt tile).units.find? (fun u => decide (u.id = id)) = some u ∧ u.write = false ∧ (s.loan tile u.loan).state = 2)) ∧
    (∃ (s : State) (tile id : Nat) (u : UnitReq), ((s.tt tile).units.find? (fun u => decide (u.id = id) && s.due u.at_ (s.tileP bTier tile 4 * us)) = some u)) ∧
    (∃ (s : State) (tile id : Nat) (u : UnitReq), ((s.tt tile).units.find? (fun u => decide (u.id = id) && !u.late && !u.write && s.due u.at_ (s.tileP bTier tile 5 * 4)) = some u)) ∧
    (∃ (s : State) (sess sched page k : Nat), ((s.sess sess).isOpen = true ∧ (Store.read (s.sess sess).scheds sched {}).running = true ∧ (Store.read (s.sess sess).scheds sched {}).current ≠ some k) ∧ (regionOf (Store.read (s.sess sess).scheds sched {}) page = some k)) :=
  ⟨⟨dTier, 0, 5, { lpage := 5, sess := 0x2C3, dest := 1 }, by decide +kernel⟩,
    ⟨{ dTier with tide := [(0, { eff := 0 })] }, 0, 5, by decide +kernel⟩,
    ⟨dDemote, 0, 0x2C3, 40, by decide +kernel⟩,
    ⟨dBorrow, 0, 5, 0, 0, dUnitWait, by decide +kernel⟩,
    ⟨dInFlight, 0, 3, 1, [], dUnit, by decide +kernel⟩,
    ⟨{ dInFlight with tiers := [(0, { (dInFlight.tt 0) with units := [{ dUnit with write := true }] })] }, 0, 3, [], { dUnit with write := true }, by decide +kernel⟩,
    ⟨dInFlight, 0, 3, [], dUnit, by decide +kernel⟩,
    ⟨{ dInFlight with clock := 100000000 }, 0, 3, dUnit, by decide +kernel⟩,
    ⟨{ dInFlight with clock := 100000000 }, 0, 3, dUnit, by decide +kernel⟩,
    ⟨dDemote, 0x2C3, 0, 2, 2, by decide +kernel⟩⟩

/-- States and operands that meet the hypotheses of `Obligations.LoansAndPeers`, clause by clause. -/
theorem witness_LoansAndPeers :
    (∃ (s : State) (tile loan : Nat), (s.loanRole tile loan = 1 ∧ ((s.loan tile loan).state = 1 ∨ (s.loan tile loan).state = 2))) ∧
    (∃ (s : State) (tile loan : Nat), (s.loanRole tile loan = 2 ∧ (s.loan tile loan).state = 1 ∧ (s.loan tile loan).openAt = 0)) ∧
    (∃ (s : State) (tile loan : Nat), (s.loanRole tile loan = 2 ∧ (s.loan tile loan).state = 1)) ∧
    (∃ (s : State) (tile loan notice : Nat), (s.loanRole tile loan = 2 ∧ (s.loan tile loan).state = 2)) ∧
    (∃ (s : State) (tile loan : Nat), (s.loanRole tile loan = 2 ∧ (s.loan tile loan).state = 4 ∧ (s.loan tile loan).recallEnd ≤ s.clock + 5 * ms)) ∧
    (∃ (s : State) (tile loan : Nat), (s.loanRole tile loan = 1 ∧ (s.loan tile loan).state = 4 ∧ (s.loan tile loan).recallEnd ≤ s.clock)) ∧
    (∃ (s : State) (tile loan : Nat), (s.loanRole tile loan = 1 ∧ (s.loan tile loan).state = 4)) ∧
    (∃ (s : State) (tile loan : Nat), (s.loanRole tile loan = 1 ∧ (s.loan tile loan).state ≠ 0 ∧ (s.loan tile loan).state ≠ 5)) ∧
    (∃ (s : State) (tile loan : Nat), (s.loanRole tile loan = 2)) ∧
    (∃ (s : State) (tile loan : Nat), (loan < 16 ∧ (s.loan tile loan).state = 5 ∧ s.due (s.loan tile loan).since sec = true ∧ s.loanRole tile loan = 2)) ∧
    (∃ (s : State) (tile link ld tag peer addr : Nat) (write : Bool) (data : List Byte), (s.takes .uio tile link ld = true ∧ s.peerLoan peer = false)) ∧
    (∃ (s : State) (tile link ld tag peer addr : Nat) (data : List Byte), (s.takes .uio tile link ld = true ∧ s.peerLoan peer = true) ∧ (s.lendLoan (addr / 2 / 2 ^ 43) peer (addr / 8192) = none)) ∧
    (∃ (s : State) (tile link ld tag peer addr i : Nat) (data : List Byte), (s.takes .uio tile link ld = true ∧ s.peerLoan peer = true) ∧ (s.lendLoan (addr / 2 / 2 ^ 43) peer (addr / 8192) = some i ∧ (s.lends = false ∨ ¬ ((s.loan (addr / 2 / 2 ^ 43) i).state = 2 ∨ (s.loan (addr / 2 / 2 ^ 43) i).state = 4) ∨ addr % 128 ≠ 0 ∨ s.lineFenced (addr / 2 / 2 ^ 43) (addr / 2 % 2 ^ 42 / 64 * 64) = true))) ∧
    (∃ (s : State) (tile link ld tag peer addr i : Nat) (data : List Byte), (s.takes .uio tile link ld = true ∧ s.peerLoan peer = true ∧ addr ≠ mailbox) ∧ (s.lendLoan (addr / 2 / 2 ^ 43) peer (addr / 8192) = some i ∧ s.lends = true ∧ ((s.loan (addr / 2 / 2 ^ 43) i).state = 2 ∨ (s.loan (addr / 2 / 2 ^ 43) i).state = 4) ∧ addr % 128 = 0) ∧ (s.lineFenced (addr / 2 / 2 ^ 43) (addr / 2 % 2 ^ 42 / 64 * 64) = false ∧ s.chanAway (addr / 2 / 2 ^ 43) (dfaChan (addr / 2 % 2 ^ 42 / 64 * 64)) = false ∧ s.writeWaits (addr / 2 / 2 ^ 43) (addr / 2 % 2 ^ 42 / 64 * 64) = false)) ∧
    (∃ (s v : State) (tile link ld tag peer addr i : Nat) (data u : List Byte), (s.takes .uio tile link ld = true ∧ s.peerLoan peer = true) ∧ (s.lendLoan (addr / 2 / 2 ^ 43) peer (addr / 8192) = some i ∧ s.lends = true ∧ ((s.loan (addr / 2 / 2 ^ 43) i).state = 2 ∨ (s.loan (addr / 2 / 2 ^ 43) i).state = 4) ∧ addr % 128 = 0) ∧ (s.lineFenced (addr / 2 / 2 ^ 43) (addr / 2 % 2 ^ 42 / 64 * 64) = false ∧ s.chanAway (addr / 2 / 2 ^ 43) (dfaChan (addr / 2 % 2 ^ 42 / 64 * 64)) = false ∧ (s.stored (addr / 2 / 2 ^ 43) (addr / 2 % 2 ^ 42 / 64 * 64)).2 = false) ∧ (s.makeUnit (addr / 2 / 2 ^ 43) (s.loanKey (addr / 2 / 2 ^ 43) i) addr (s.stored (addr / 2 / 2 ^ 43) (addr / 2 % 2 ^ 42 / 64 * 64)).1.bytes = (some u, v))) :=
  ⟨⟨dLend 1, 0, 0, by decide +kernel⟩,
    ⟨dLoan 1, 0, 0, by decide +kernel⟩,
    ⟨dLoan 1, 0, 0, by decide +kernel⟩,
    ⟨dLoan 2, 0, 0, 50000, by decide +kernel⟩,
    ⟨dLoan 4, 0, 0, by decide +kernel⟩,
    ⟨dLend 4, 0, 0, by decide +kernel⟩,
    ⟨dLend 4, 0, 0, by decide +kernel⟩,
    ⟨dLend 2, 0, 0, by decide +kernel⟩,
    ⟨dLoan 2, 0, 0, by decide +kernel⟩,
    ⟨{ dLoan 5 with clock := 5000000000 }, 0, 0, by decide +kernel⟩,
    ⟨dHost, 0, 0, 0, 1, 7, 0, false, [], by decide +kernel⟩,
    ⟨dLend 2, 0, 0, 0, 1, 7, 0x200000000, [], by decide +kernel⟩,
    ⟨{ dLend 2 with mode := { mode := .rstr } }, 0, 0, 0, 1, 7, 0x1000000, 0, [], by decide +kernel⟩,
    ⟨dLend 2, 0, 0, 0, 1, 7, 0x1000000, 0, [], by decide +kernel⟩,
    ⟨dLend 2, ((dLend 2).makeUnit 0 ((dLend 2).loanKey 0 0) 0x1000000 ((dLend 2).stored 0 0x800000).1.bytes).2, 0, 0, 0, 1, 7, 0x1000000, 0, [], (((dLend 2).makeUnit 0 ((dLend 2).loanKey 0 0) 0x1000000 ((dLend 2).stored 0 0x800000).1.bytes).1.getD []), by exact ⟨by decide +kernel, by decide +kernel, by decide +kernel, some_getD_pair _ _ (by decide +kernel)⟩⟩⟩

/-- States and operands that meet the hypotheses of `Obligations.BattenBus`, clause by clause. -/
theorem witness_BattenBus :
    (∃ (s : State) (tile : Nat) (cmdItem : Bool) (raised : List BattAsk) (ended : List Nat), (s.battOn tile = true)) ∧
    (∃ (x : TierTile) (q : BattAsk), ((x.bat q.requester).req = false)) ∧
    (∃ (s : State) (t r : Nat) (x : TierTile), (r ∈ s.battAsks t x)) ∧
    (∃ (s : State) (t q r : Nat) (fd : Bool) (x : TierTile), (s.battWin t x = some (r, fd) ∧ q ∈ s.battAsks t x ∧ q ≠ r)) ∧
    (∃ (s : State) (t r : Nat) (x : TierTile), (x.owner = none ∧ s.battDue t x = none ∧ r ∈ s.battAsks t x ∧ (x.bat r).urgency ≤ 3) ∧ ((∀ q ∈ s.battAsks t x, (x.bat q).urgency < (x.bat r).urgency ∨ ((x.bat q).urgency = (x.bat r).urgency ∧ r ≤ q)))) ∧
    (∃ (s : State) (t r : Nat), (s.battWin t (s.beat t (s.tt t)) = some (r, true) ∧ (s.tt t).owner = none)) ∧
    (∃ (s : State) (tile r : Nat), (s.battOn tile = true ∧ s.battWin tile (s.beat tile (s.tt tile)) = some (r, true))) ∧
    (∃ (s : State) (t : Nat) (x : TierTile), (x.owner.isSome = true ∧ x.ownerForced = true)) ∧
    (∃ (s : State) (t r : Nat) (x : TierTile), (x.owner = none ∨ x.ownerForced = false) ∧ (r ∈ s.battAsks t x ∧ s.tileP bBatt t r ≤ (x.bat r).wait) ∧ ((∀ q ∈ s.battAsks t x, s.tileP bBatt t q ≤ (x.bat q).wait → r ≤ q))) ∧
    (∃ (s : State) (t o : Nat) (x : TierTile), (x.owner = some o ∧ s.battDue t x = none) ∧ ((∀ q ∈ s.battAsks t x, (x.bat q).urgency ≤ (x.bat o).urgency))) ∧
    (∃ (s : State) (t o r : Nat) (x : TierTile), (x.owner = some o ∧ s.battWin t x = some (r, false) ∧ o ≠ r)) :=
  ⟨⟨dBatt, 0, false, [{ requester := 5, urgency := 2, beats := 64, tag := 9, dfa := none }], [], by decide +kernel⟩,
    ⟨{}, { requester := 5, urgency := 2, beats := 64, tag := 9, dfa := none }, by decide +kernel⟩,
    ⟨dBatt, 0, 1, { batt := [(1, { req := true, wait := 48 })] }, by decide +kernel⟩,
    ⟨dBatt, 0, 5, 1, true, { batt := [(1, { req := true, wait := 48 }), (5, { req := true })] }, by decide +kernel⟩,
    ⟨dBatt, 0, 5, { batt := [(1, { req := true, urgency := 1 }), (5, { req := true, urgency := 2 }), (6, { req := true, urgency := 2 })] }, by decide +kernel⟩,
    ⟨{ dBatt with tiers := [(0, { batt := [(1, { req := true, urgency := 1, beats := 64, wait := 48 })] })] }, 0, 1, by decide +kernel⟩,
    ⟨{ dBatt with tiers := [(0, { batt := [(1, { req := true, urgency := 1, beats := 64, wait := 48 })] })] }, 0, 1, by decide +kernel⟩,
    ⟨dBatt, 0, { owner := some 1, ownerForced := true }, by decide +kernel⟩,
    ⟨dBatt, 0, 1, { batt := [(1, { req := true, wait := 48 })] }, by decide +kernel⟩,
    ⟨dBatt, 0, 1, { owner := some 1, batt := [(1, { req := true, urgency := 1 }), (2, { req := true, urgency := 1 })] }, by decide +kernel⟩,
    ⟨dBatt, 0, 1, 5, { owner := some 1, batt := [(1, { req := true, urgency := 1, beats := 64 }), (5, { req := true, urgency := 2, beats := 64 })] }, by decide +kernel⟩⟩

/-- States and operands that meet the hypotheses of `Obligations.TidelineDrain`, clause by clause. -/
theorem witness_TidelineDrain :
    (∃ (s : State) (tile p : Nat) (l : List Nat), (s.thatchRuns tile = true ∧ s.pageAway tile = false ∧ (s.tl tile).inflight.length < 256 ∧ s.canPut tile false = true) ∧ ((s.walk tile).filter (fun p => !(s.tl tile).inflight.any (fun f => decide (f.page = p)) && (!s.pageStopped tile p || (s.twinInMirs && (s.htPageOf tile p).isNone))) = p :: l) ∧ (s.heldBack tile p = false ∧ s.htFirst tile p = none ∧ s.pageConverting tile p = false)) ∧
    (∃ (s : State) (t p : Nat), (s.heldBack t p = true ∧ (s.th t).segOf (s.logicalOf t p).2 ∉ (s.th t).mergeQ ∧ (s.th t).merges = []) ∧ ((s.holdMerge t p).htFirst t p = none)) ∧
    (∃ (s : State) (tile : Nat), (256 ≤ (s.tl tile).inflight.length)) ∧
    (∃ (s : State) (t page : Nat), ((s.tl t).inflight.all (fun f => decide (f.page ≠ page)) = true)) ∧
    (∃ (s : State) (tile page : Nat) (f : Inflight), ((s.tl tile).inflight.find? (fun f => decide (f.page = page)) = some f) ∧ ((s.th tile).recs.any (fun r => decide (r.ht = (s.logicalOf tile page).1 ∧ r.lpage = (s.logicalOf tile page).2 ∧ r.tm = f.ts)) = true)) ∧
    (∃ (s : State) (t page : Nat) (f : Inflight), ((s.tl t).inflight.find? (fun f => decide (f.page = page)) = some f ∧ f.redirty = true)) ∧
    (∃ (s : State) (t page : Nat) (f : Inflight), ((s.tl t).inflight.find? (fun f => decide (f.page = page)) = some f ∧ f.redirty = false)) ∧
    (∃ (s : State) (tile : Nat), (tile < s.tiles ∧ s.due (s.tl tile).rateAt sec = true ∧ (s.th tile).progN ≠ 0) ∧ ((s.tl tile).rateMeasured = false ∨ s.rateFor tile ((s.th tile).progSum / (s.th tile).progN) ≤ (s.tl tile).rate)) ∧
    (∃ (s : State) (tile : Nat), (tile < s.tiles ∧ s.due (s.tl tile).rateAt sec = true ∧ (s.th tile).progN ≠ 0) ∧ ((s.tl tile).rateMeasured = true ∧ (s.tl tile).rate < s.rateFor tile ((s.th tile).progSum / (s.th tile).progN) ∧ (s.tl tile).rateHigh = none)) ∧
    (∃ (s : State) (tile : Nat), (tile < s.tiles ∧ s.due (s.tl tile).rateAt sec = true ∧ (s.th tile).progN = 0)) ∧
    (∃ (s : State) (tile : Nat), (tile < s.tiles)) :=
  ⟨⟨dThatch, 0, 3, [], by decide +kernel⟩,
    ⟨{ dThatch with thatch := [(0, { dThatch.th 0 with blks := (List.range 4).map (fun b => (b + 1, { use := .log, parity := true, rows := 4 })), recs := (List.range 4).map (fun b => { lpage := 3, tm := 7 + b, blk := b + 1 }) })] }, 0, 3, by decide +kernel⟩,
    ⟨{ dThatch with tide := [(0, { dirty := [3], inflight := List.replicate 256 { page := 3, ts := 0 } })] }, 0, by decide +kernel⟩,
    ⟨dThatch, 0, 3, by decide +kernel⟩,
    ⟨{ dThatch with tide := [(0, { dirty := [3], inflight := [{ page := 3, ts := 7 }] })], thatch := [(0, { dThatch.th 0 with recs := [{ lpage := 3, tm := 7 }] })] }, 0, 3, { page := 3, ts := 7 }, by decide +kernel⟩,
    ⟨{ dThatch with tide := [(0, { dirty := [3], inflight := [{ page := 3, ts := 7, redirty := true }] })] }, 0, 3, { page := 3, ts := 7, redirty := true }, by decide +kernel⟩,
    ⟨{ dThatch with tide := [(0, { dirty := [3], inflight := [{ page := 3, ts := 7 }] })] }, 0, 3, { page := 3, ts := 7 }, by decide +kernel⟩,
    ⟨{ dThatch with clock := 5000000000, thatch := [(0, { dThatch.th 0 with progSum := 400, progN := 2 })] }, 0, by decide +kernel⟩,
    ⟨{ dThatch with clock := 5000000000, tide := [(0, { dThatch.tl 0 with rateMeasured := true, rate := 1 })], thatch := [(0, { dThatch.th 0 with progSum := 400, progN := 2 })] }, 0, by decide +kernel⟩,
    ⟨{ dThatch with clock := 5000000000 }, 0, by decide +kernel⟩,
    ⟨dThatch, 0, by decide +kernel⟩⟩

/-- States and operands that meet the hypotheses of `Obligations.ThatchRowsAndBlocks`, clause by clause. -/
theorem witness_ThatchRowsAndBlocks :
    (∃ (s : State) (tile blk took : Nat) (w : Row), (s.fullRow tile blk = some w ∧ w.recs.any (fun r => decide (r.kind = 3)) = false)) ∧
    (∃ (s : State) (tile blk : Nat) (w : Row), ((s.th tile).rowsOpen.find? (fun w => decide (w.blk = blk) && !w.full) = some w) ∧ (s.due w.since (s.tileP bThatch tile 1 * ms) = true)) ∧
    (∃ (s : State) (tile blk member : Nat), ((s.fullRow tile blk).isSome = true ∧ member < 16)) ∧
    (∃ (s : State) (t b m : Nat), ((s.physB t b m).retired = true)) ∧
    (∃ (s : State) (tile blk : Nat), (s.thatchRuns tile = true ∧ (s.blk tile blk).parity = true ∧ (s.blk tile blk).verified = false ∧ (s.blk tile blk).use = .log ∧ (s.blk tile blk).isOpen = false) ∧ ((s.th tile).rowsOpen.all (fun w => decide (w.blk ≠ blk)) = true)) ∧
    (∃ (s : State) (tile blk slot : Nat), (2 ≤ (List.range 16).countP (fun m => (s.blk tile blk).members.testBit m && !s.memberOk tile (blk / 8192) m))) ∧
    (∃ (s : State) (tile blk slot : Nat) (r : TRec), ((s.th tile).recs.find? (fun r => decide (r.blk = blk ∧ r.slot / 4 = slot / 4)) = some r) ∧ (s.thatchRuns tile = true ∧ (s.blk tile blk).parity = true ∧ (s.blk tile blk).use = .log ∧ s.canPut tile true = true) ∧ ((List.range 16).all (fun m => s.memberOk tile (blk / 8192) m) = true)) ∧
    (∃ (s : State) (tile blk member retries sess : Nat), ((s.blk tile blk).use ≠ .free ∧ member < 16 ∧ 0 < retries ∧ retries < s.tileP bThatch tile 6 )) ∧
    (∃ (s : State) (tile blk retries : Nat), (s.thatchRuns tile = true ∧ (s.blk tile blk).use = .log ∧ (s.blk tile blk).isOpen = false ∧ s.due (s.blk tile blk).scrubAt (s.tileP bThatch tile 9 * (86400 * sec)) = true)) ∧
    (∃ (s : State) (tile blk slot : Nat) (merge : Bool), ((s.blk tile blk).parity = true ∧ (List.range 16).all (fun m => s.memberOk tile (blk / 8192) m) = true)) ∧
    (∃ (s : State) (tile blk slot : Nat) (r : TRec), ((s.th tile).recs.find? (fun r => decide (r.blk = blk ∧ r.slot = slot ∧ r.kind ≠ 6)) = some r) ∧ ((s.blk tile blk).parity = false)) ∧
    (∃ (s : State) (tile blk member : Nat), (s.thatchRuns tile = true ∧ s.save.run.isNone = true ∧ member < 16 ∧ s.eraseDue tile blk member = true)) ∧
    (∃ (s : State) (tile blk member : Nat), ((s.physB tile blk member).erasing = true ∧ (s.physB tile blk member).suspended = false)) ∧
    (∃ (s : State) (tile blk member : Nat), (s.save.run.isSome = true)) ∧
    (∃ (s : State) (tile blk member : Nat), ((s.physB tile blk member).erasing = true ∧ (s.physB tile blk member).suspended = false)) ∧
    (∃ (s : State) (tile blk member : Nat), ((s.physB tile blk member).erasing = true ∧ (s.physB tile blk member).suspended = false)) ∧
    (∃ (s : State) (tile target : Nat), ((Store.read (s.th tile).busyAt target (0, 0)).2 ≠ 0 ∧ s.due (Store.read (s.th tile).busyAt target (0, 0)).1 (Store.read (s.th tile).busyAt target (0, 0)).2 = true)) ∧
    (∃ (s : State) (tile e p : Nat), (s.thatchRuns tile = true ∧ leastBy id ((s.th tile).backlog.filter (fun e => !(s.mt tile).lrqs.any (fun q => decide (q.why = .flashPage e)))) = some e) ∧ (s.dramHome tile (decide (2 ^ 31 ≤ e)) (e % 2 ^ 31) = some p ∧ (s.tl tile).dirty.contains p = true)) ∧
    (∃ (s : State) (tile e p : Nat), (s.thatchRuns tile = true ∧ leastBy id ((s.th tile).backlog.filter (fun e => !(s.mt tile).lrqs.any (fun q => decide (q.why = .flashPage e)))) = some e) ∧ (s.dramHome tile (decide (2 ^ 31 ≤ e)) (e % 2 ^ 31) = some p ∧ (s.tl tile).dirty.contains p = false ∧ s.hasRoom tile = true)) ∧
    (∃ (s : State) (tile : Nat) (c : Ckpt), ((s.mt tile).ckpt = some c ∧ s.thatchRuns tile = true)) :=
  ⟨⟨dRow true, 0, 1, 200, dRowOf true, by decide +kernel⟩,
    ⟨{ dRow false with clock := 5000000000 }, 0, 1, dRowOf false, by decide +kernel⟩,
    ⟨dRow true, 0, 1, 3, by decide +kernel⟩,
    ⟨{ dThatch with thatch := [(0, { dThatch.th 0 with phys := [(physKey 1 3, { retired := true })] })] }, 0, 1, 3, by decide +kernel⟩,
    ⟨{ dThatch with thatch := [(0, { dThatch.th 0 with blks := [(1, { use := .log, parity := true, rows := 4 })] })] }, 0, 1, by decide +kernel⟩,
    ⟨{ dThatch with fences := { inForce := [{ cls := 3, inst := 0, tile := 0, cause := 0x32, tidemark := 0 }] } }, 0, 1, 0, by decide +kernel⟩,
    ⟨dRecs, 0, 1, 0, { lpage := 3, tm := 7, blk := 1 }, by decide +kernel⟩,
    ⟨dRecs, 0, 1, 0, 1, 0x2C3, by decide +kernel⟩,
    ⟨{ dRecs with clock := 8 * 86400 * 4000000000 }, 0, 1, 0, by decide +kernel⟩,
    ⟨dRecs, 0, 1, 0, false, by decide +kernel⟩,
    ⟨{ dRecs with params := [(pid bThatch 0 0x0A, 0)], thatch := [(0, { dRecs.th 0 with blks := [(1, { use := .log, rows := 4 })] })] }, 0, 1, 0, { lpage := 3, tm := 7, blk := 1 }, by decide +kernel⟩,
    ⟨dErase {}, 0, 1, 3, by decide +kernel⟩,
    ⟨dErase { unsealed := true, erasing := true }, 0, 1, 3, by decide +kernel⟩,
    ⟨dSaving, 0, 1, 3, by decide +kernel⟩,
    ⟨dErase { unsealed := true, erasing := true }, 0, 1, 3, by decide +kernel⟩,
    ⟨dErase { unsealed := true, erasing := true }, 0, 1, 3, by decide +kernel⟩,
    ⟨{ dThatch with clock := 400000000, thatch := [(0, { dThatch.th 0 with busyAt := [(9, (0, 160000000))] })] }, 0, 9, by decide +kernel⟩,
    ⟨{ dThatch with thatch := [(0, { dThatch.th 0 with backlog := [3] })] }, 0, 3, 3, by decide +kernel⟩,
    ⟨{ dThatch with tide := [(0, { eff := 4 })], thatch := [(0, { dThatch.th 0 with backlog := [3] })] }, 0, 3, 3, by decide +kernel⟩,
    ⟨{ dThatch with mirr := [(0, { ckpt := some { tm := 9, seq := 4 } })] }, 0, { tm := 9, seq := 4 }, by decide +kernel⟩⟩

/-- States and operands that meet the hypotheses of `Obligations.SegmentMerges`, clause by clause. -/
theorem witness_SegmentMerges :
    (∃ (s : State) (tile seg b : Nat), (s.thatchRuns tile = true ∧ (s.th tile).merges.any (fun m => decide (m.seg = seg)) = false ∧ s.mergeDue tile seg = true) ∧ ((s.th tile).merges.countP (fun m => m.parked.isNone) < s.tileP bThatch tile 3 ∧ s.mergeTarget tile seg = some b)) ∧
    (∃ (s : State) (tile blk : Nat), (s.thatchRuns tile = true ∧ (s.blk tile blk).parity = true ∧ (s.blk tile blk).verified = false ∧ (s.blk tile blk).use = .data) ∧ ((s.th tile).merges.any (fun g => decide (g.target = blk) && g.parked.isNone) = true ∧ s.wholeBlk tile blk = true)) ∧
    (∃ (s : State) (tile seg : Nat) (m : SegMerge), ((s.th tile).merges.find? (fun m => decide (m.seg = seg) && m.parked.isNone) = some m ∧ (s.blk tile m.target).verified = false)) ∧
    (∃ (s : State) (tile seg : Nat) (m : SegMerge), ((s.th tile).merges.find? (fun m => decide (m.seg = seg) && m.parked.isNone) = some m ∧ s.thatchRuns tile = true ∧ (s.blk tile m.target).verified = true ∧ s.dataBlk tile seg = none ∧ s.ctxNums = [])) ∧
    (∃ (s : State) (tile blk member b : Nat) (m : SegMerge), (s.thatchRuns tile = true ∧ member < 16 ∧ (s.th tile).merges.find? (fun m => decide (m.target = blk) && m.parked.isNone) = some m ∧ m.fails < 2) ∧ ((((s.releaseBlk tile blk).retire tile blk member).tally tile 18 0x0003 {}).mergeTarget tile m.seg = some b)) ∧
    (∃ (s : State) (tile blk member : Nat) (m : SegMerge), (s.thatchRuns tile = true ∧ member < 16 ∧ (s.th tile).merges.find? (fun m => decide (m.target = blk) && m.parked.isNone) = some m ∧ m.fails = 2)) ∧
    (∃ (s : State) (tile seg b t0 : Nat) (m : SegMerge), ((s.th tile).merges.find? (fun m => decide (m.seg = seg)) = some m ∧ m.parked = some t0 ∧ s.thatchRuns tile = true ∧ s.due t0 (10 * sec) = true) ∧ ((s.th tile).merges.countP (fun m => m.parked.isNone) < s.tileP bThatch tile 3 ∧ s.mergeTarget tile seg = some b)) ∧
    (∃ (s : State) (tile blk : Nat), (s.thatchRuns tile = true ∧ (s.blk tile blk).use = .log ∧ (s.blk tile blk).isOpen = false ∧ (s.blk tile blk).marked = true ∧ (s.th tile).relocBlk ≠ some blk ∧ s.canPut tile true = true) ∧ (s.liveRecs tile blk = [] ∧ (s.th tile).rowsOpen.all (fun w => decide (w.blk ≠ blk)) = true)) ∧
    (∃ (s : State) (tile blk : Nat) (r : TRec), (s.thatchRuns tile = true ∧ (s.blk tile blk).use = .log ∧ (s.blk tile blk).isOpen = false ∧ (s.blk tile blk).marked = true ∧ (s.th tile).relocBlk ≠ some blk ∧ s.canPut tile true = true) ∧ (s.liveRecs tile blk = [r] ∧ (s.th tile).rowsOpen = [] ∧ r.ht = true)) :=
  ⟨⟨dQueued, 0, 0, 2, by decide +kernel⟩,
    ⟨dMerge false, 0, 2, by decide +kernel⟩,
    ⟨dMerge false, 0, 0, { seg := 0, target := 2, stamp := 9 }, by decide +kernel⟩,
    ⟨dMerge true, 0, 0, { seg := 0, target := 2, stamp := 9 }, by decide +kernel⟩,
    ⟨dMerge false, 0, 2, 3, 1, { seg := 0, target := 2, stamp := 9 }, by decide +kernel⟩,
    ⟨{ dThatch with thatch := [(0, { dThatch.th 0 with blks := [(2, { use := .data, isOpen := true, parity := true })], merges := [{ seg := 0, target := 2, stamp := 9, fails := 2 }] })] }, 0, 2, 3, { seg := 0, target := 2, stamp := 9, fails := 2 }, by decide +kernel⟩,
    ⟨{ dThatch with clock := 50000000000, thatch := [(0, { dThatch.th 0 with merges := [{ seg := 0, target := 2, stamp := 9, fails := 3, parked := some 0 }] })] }, 0, 0, 1, 0, { seg := 0, target := 2, stamp := 9, fails := 3, parked := some 0 }, by decide +kernel⟩,
    ⟨{ dThatch with thatch := [(0, { dThatch.th 0 with blks := [(1, { use := .log, rows := 4, marked := true })] })] }, 0, 1, by decide +kernel⟩,
    ⟨{ dThatch with thatch := [(0, { dThatch.th 0 with blks := [(1, { use := .log, rows := 4, marked := true })], recs := [{ lpage := 0, ht := true, tm := 7, blk := 1 }] })] }, 0, 1, { lpage := 0, ht := true, tm := 7, blk := 1 }, by decide +kernel⟩⟩

/-- States and operands that meet the hypotheses of `Obligations.FlashEraseCount`, clause by clause. -/
theorem witness_FlashEraseCount :
    (∃ (s : State) (n : Nat) (i : Issue) (c : Ctx), (Ready s n 0x61 i c) ∧ ((s.consume n i c).flashOk (fld i.word 2 0) (((s.consume n i c).ctx n).opA i.word) = true)) :=
  ⟨dFlash [0x61120000_00000000], 0x1000, nI (dFlash [0x61120000_00000000]) 0x1000, nC (dFlash [0x61120000_00000000]) 0x1000, by decide +kernel⟩

/-- States and operands that meet the hypotheses of `Obligations.FlashDiagnostics`, clause by clause. -/
theorem witness_FlashDiagnostics :
    (∃ (s : State) (n : Nat) (i : Issue) (c : Ctx) (d : Bool), (Ready s n 0x60 i c) ∧ ((s.consume n i c).flashOk (fld i.word 2 0) (((s.consume n i c).ctx n).opA i.word) = false)) ∧
    (∃ (s : State) (n b m : Nat) (i : Issue) (c : Ctx) (d : Bool), (Ready s n 0x60 i c) ∧ ((s.consume n i c).flashOk (fld i.word 2 0) (((s.consume n i c).ctx n).opA i.word) = true ∧ (s.consume n i c).flashBlk (fld i.word 2 0) (flashAddr (((s.consume n i c).ctx n).opA i.word)) = (b, m)) ∧ ((s.consume n i c).memberOk (fld i.word 2 0) (b / 8192) m = false ∨ (s.consume n i c).tileFenced (fld i.word 2 0) = true ∨ ((s.consume n i c).physB (fld i.word 2 0) b m).erasing = true ∨ ((s.consume n i c).physB (fld i.word 2 0) b m).half = true)) ∧
    (∃ (s : State) (n b m k : Nat) (i : Issue) (c : Ctx) (r : TRec), (Ready s n 0x60 i c) ∧ ((s.consume n i c).flashOk (fld i.word 2 0) (((s.consume n i c).ctx n).opA i.word) = true ∧ (s.consume n i c).flashBlk (fld i.word 2 0) (flashAddr (((s.consume n i c).ctx n).opA i.word)) = (b, m)) ∧ ((s.consume n i c).memberOk (fld i.word 2 0) (b / 8192) m = true ∧ (s.consume n i c).tileFenced (fld i.word 2 0) = false ∧ ((s.consume n i c).physB (fld i.word 2 0) b m).erasing = false ∧ ((s.consume n i c).physB (fld i.word 2 0) b m).half = false) ∧ ((s.consume n i c).flashSlot (fld i.word 2 0) b m (flashAddr (((s.consume n i c).ctx n).opA i.word)) = some k ∧ ((s.consume n i c).th (fld i.word 2 0)).recs.find? (fun r => decide (r.blk = b ∧ r.slot = k ∧ ¬ (r.kind = 6 ∧ ((s.consume n i c).blk (fld i.word 2 0) b).use = .log))) = some r)) ∧
    (∃ (s : State) (n b m : Nat) (i : Issue) (c : Ctx), (Ready s n 0x62 i c) ∧ ((s.consume n i c).flashOk (fld i.word 2 0) (((s.consume n i c).ctx n).opA i.word) = true ∧ (flashAddr (((s.consume n i c).ctx n).opA i.word)).block ≠ 0) ∧ ((s.consume n i c).flashBlk (fld i.word 2 0) (flashAddr (((s.consume n i c).ctx n).opA i.word)) = (b, m) ∧ ((s.consume n i c).physB (fld i.word 2 0) b m).retired = true)) ∧
    (∃ (s : State) (n : Nat) (i : Issue) (c : Ctx), (Ready s n 0x62 i c ∧ (flashAddr (((s.consume n i c).ctx n).opA i.word)).block = 0)) ∧
    (∃ (s : State) (n b m : Nat) (i : Issue) (c : Ctx), (Ready s n 0x62 i c) ∧ ((s.consume n i c).flashOk (fld i.word 2 0) (((s.consume n i c).ctx n).opA i.word) = true ∧ (flashAddr (((s.consume n i c).ctx n).opA i.word)).block ≠ 0) ∧ ((s.consume n i c).flashBlk (fld i.word 2 0) (flashAddr (((s.consume n i c).ctx n).opA i.word)) = (b, m) ∧ ((s.consume n i c).physB (fld i.word 2 0) b m).retired = false ∧ ((s.consume n i c).blk (fld i.word 2 0) b).use = .data)) ∧
    (∃ (s : State) (n : Nat) (e : BitVec 640) (i : Issue) (c : Ctx), (Ready s n 0x68 i c ∧ (s.ctx n).long = none ∧ 1 ≤ iGd i.word ∧ iGd i.word ≤ 12) ∧ (fld i.word 2 0 < s.tiles ∧ (((s.consume n i c).ctx n).opA i.word).toNat % 64 = 0 ∧ 0 < (((s.consume n i c).ctx n).reg (iGb i.word)).toNat ∧ (((s.consume n i c).ctx n).reg (iGb i.word)).toNat < 2 ^ 36 ∧ (((s.consume n i c).ctx n).opA i.word).toNat + 64 * (((s.consume n i c).ctx n).reg (iGb i.word)).toNat ≤ (s.consume n i c).dfaSize (fld i.word 2 0))) ∧
    (∃ (s : State) (n : Nat) (e : BitVec 640) (i : Issue) (r : ScrbRun), ((s.ctx n).long = some (i, .scrb r) ∧ r.busy = none ∧ r.next < r.hi ∧ s.chanAway r.tile (dfaChan r.next) = false) ∧ (s.ctxs.all (fun p => decide (p.1 = n) || (match p.2.long with | some (_, .scrb _) => false | _ => true)) = true)) ∧
    (∃ (s : State) (n : Nat) (e : BitVec 640) (i : Issue) (r : ScrbRun), ((s.ctx n).long = some (i, .scrb r) ∧ r.busy = none ∧ r.hi ≤ r.next) ∧ (s.ctxs.all (fun p => decide (p.1 = n) || (match p.2.long with | some (_, .scrb _) => false | _ => true)) = true)) :=
  ⟨⟨dFlash [0x60120000_00000001], 0x1000, nI (dFlash [0x60120000_00000001]) 0x1000, nC (dFlash [0x60120000_00000001]) 0x1000, true, by decide +kernel⟩,
    ⟨{ dFlash [0x60120000_00000000] with thatch := [(0, { dThatch.th 0 with phys := [(0, { erasing := true })] })] }, 0x1000, 0, 0, nI (dFlash [0x60120000_00000000]) 0x1000, nC (dFlash [0x60120000_00000000]) 0x1000, true, by decide +kernel⟩,
    ⟨dFrawS, 0x1000, 1, 0, 0, nI dFrawS 0x1000, nC dFrawS 0x1000, { lpage := 3, tm := 7, blk := 1 }, by decide +kernel⟩,
    ⟨dFretS, 0x1000, 1, 0, nI dFretS 0x1000, nC dFretS 0x1000, by decide +kernel⟩,
    ⟨{ dFretS with ctxs := [(0x1000, { dCtx [0x62120000_00000000] with g := [] })] }, 0x1000, nI { dFretS with ctxs := [(0x1000, { dCtx [0x62120000_00000000] with g := [] })] } 0x1000, nC { dFretS with ctxs := [(0x1000, { dCtx [0x62120000_00000000] with g := [] })] } 0x1000, by decide +kernel⟩,
    ⟨{ dFretS with thatch := [(0, { dThatch.th 0 with blks := [(1, { use := .data })] })] }, 0x1000, 1, 0, nI dFretS 0x1000, nC dFretS 0x1000, by decide +kernel⟩,
    ⟨{ dFlash [0x68103000_00000000] with ctxs := [(0x1000, { dCtx [0x68103000_00000000] with g := [(3, 2)] })] }, 0x1000, 0, nI { dFlash [0x68103000_00000000] with ctxs := [(0x1000, { dCtx [0x68103000_00000000] with g := [(3, 2)] })] } 0x1000, nC { dFlash [0x68103000_00000000] with ctxs := [(0x1000, { dCtx [0x68103000_00000000] with g := [(3, 2)] })] } 0x1000, by decide +kernel⟩,
    ⟨{ dThatch with ctxs := [(0x1000, { dCtx [0] with long := some (noIssue, .scrb { tile := 0, next := 0, hi := 128 }) })] }, 0x1000, 0, noIssue, { tile := 0, next := 0, hi := 128 }, by decide +kernel⟩,
    ⟨{ dThatch with ctxs := [(0x1000, { dCtx [0] with long := some (noIssue, .scrb { tile := 0, next := 128, hi := 128 }) })] }, 0x1000, 0, noIssue, { tile := 0, next := 128, hi := 128 }, by decide +kernel⟩⟩

/-- States and operands that meet the hypotheses of `Obligations.TidemarkCommands`, clause by clause. -/
theorem witness_TidemarkCommands :
    (∃ (s : State) (tile : Nat), (s.time.master.on = true ∧ tile < s.tiles ∧ s.tileFenced tile = false ∧ (Store.read s.time.locals tile {}).on = true)) ∧
    (∃ (s : State), (s.mode.mode ≠ .stby ∧ s.mode.mode ≠ .mirs ∧ s.time.master.on = true ∧ s.devP bTime 0 = 2 ∧ s.time.edgeSeen = true) ∧ (sec - 400000 ≤ s.clock - s.time.lastEdge ∧ s.clock - s.time.lastEdge ≤ sec + 400000)) ∧
    (∃ (s : State), (s.mode.mode ≠ .stby ∧ s.time.master.on = true ∧ s.time.edgeSeen = true) ∧ (s.clock - s.time.lastEdge < sec - 400000 ∨ sec + 400000 < s.clock - s.time.lastEdge)) ∧
    (∃ (s : State) (tile link : Nat), (s.devP bTime 0 = 1 ∧ s.time.master.on = true ∧ s.mode.mode ≠ .mirs ∧ tile = fld (s.param (pid bTime 1023 1) 0) 10 8 ∧ link = fld (s.param (pid bTime 1023 1) 0) 1 0 ∧ (s.link tile link).up = true)) ∧
    (∃ (s : State), (s.time.disciplined = true ∧ s.mode.mode ≠ .mirs ∧ (s.devP bTime 0 = 1 ∨ s.devP bTime 0 = 2) ∧ s.due s.time.lastSync (3 * sec) = true)) ∧
    (∃ (s : State), (s.time.master.on = true ∧ s.time.floor ≤ s.master + 2 ^ 39)) ∧
    (∃ (s : State), (s.master + 2 ^ 39 < s.time.floor)) ∧
    (∃ (s : State) (tile ticks : Nat), ([Mode.actv, .mirs, .solo].contains s.mode.mode = true ∧ 80 < ticks)) :=
  ⟨⟨dClock, 1, by decide +kernel⟩,
    ⟨{ dClock with clock := 4000000000, params := [(pid bTime 1023 0, 2)] }, by decide +kernel⟩,
    ⟨dClock, by decide +kernel⟩,
    ⟨{ dClock with params := [(pid bTime 1023 0, 1)], links := [(0, { up := true })] }, 0, 0, by decide +kernel⟩,
    ⟨{ dClock with clock := 13000000000, params := [(pid bTime 1023 0, 1)], time := { dClock.time with disciplined := true } }, by decide +kernel⟩,
    ⟨dClock, by decide +kernel⟩,
    ⟨{ dClock with time := { dClock.time with floor := 2 ^ 41 } }, by decide +kernel⟩,
    ⟨dHost, 0, 81, by decide +kernel⟩⟩

/-- States and operands that meet the hypotheses of `Obligations.FramesAndReceipts`, clause by clause. -/
theorem witness_FramesAndReceipts :
    (∃ (s : State) (tile part tiles pair master flight rate : Nat) (gcm ok0 ok1 : Bool), (tile < s.tiles ∧ s.tileFenced tile = false ∧ s.pairId ≠ 0 ∧ s.tap.scanHold = false ∧ s.mode.recovery = false ∧ s.mode.leaving = false ∧ s.mode.mode = .brup) ∧ (part ≠ fld (s.fuseWord 4) 2 0 ∨ tiles ≠ s.tiles ∨ pair ≠ s.pairId ∨ 2000 < flight)) ∧
    (∃ (s : State) (tile part tiles pair master flight rate : Nat) (gcm : Bool), (tile < s.tiles ∧ s.tileFenced tile = false ∧ s.pairId ≠ 0 ∧ s.tap.scanHold = false ∧ s.mode.recovery = false ∧ s.mode.leaving = false ∧ s.mode.mode ≠ .stby ∧ s.mode.mode ≠ .save) ∧ (part = fld (s.fuseWord 4) 2 0 ∧ tiles = s.tiles ∧ pair = s.pairId ∧ flight ≤ 2000 ∧ gcm = decide (s.devP bCiph 0 = 1))) ∧
    (∃ (s : State) (tile part tiles pair master flight rate : Nat) (gcm : Bool), (tile < s.tiles ∧ s.tileFenced tile = false ∧ s.pairId ≠ 0 ∧ s.tap.scanHold = false ∧ s.mode.recovery = false ∧ s.mode.leaving = false ∧ s.mode.mode ≠ .stby ∧ s.mode.mode ≠ .save) ∧ (part = fld (s.fuseWord 4) 2 0 ∧ tiles = s.tiles ∧ pair = s.pairId ∧ flight ≤ 2000 ∧ gcm = decide (s.devP bCiph 0 = 1) ∧ s.fenced 0x8 1 tile = false)) ∧
    (∃ (s : State) (tile path c i : Nat) (f : Frame) (r : List Frame), (((s.mt tile).slots.filter (fun sl => sl.sent.isNone)).map Slot.frame = f :: r) ∧ (packFrames f.tm (65536 - (s.mt tile).unitsOut) 0 (if (s.mt tile).gcm then 52 else 24) none (f :: r) = [f]) ∧ (s.carrier tile = some c ∧ s.lease.twinLost = false ∧ s.freeMsgid tile 0 = some i)) ∧
    (∃ (s : State) (tile path c i : Nat) (f : Frame) (r fs : List Frame), (((s.mt tile).slots.filter (fun sl => sl.sent.isNone)).map Slot.frame = f :: r) ∧ (packFrames f.tm (65536 - (s.mt tile).unitsOut) 0 (if (s.mt tile).gcm then 52 else 24) none (f :: r) = fs ∧ fs ≠ []) ∧ (s.carrier tile = some c ∧ s.lease.twinLost = false ∧ s.freeMsgid tile 0 = some i)) ∧
    (∃ (s : State) (tile path : Nat), ((s.mt tile).slots.all (fun sl => sl.sent.isSome) = true)) ∧
    (∃ (s : State) (tile path envelope : Nat) (payload : List Byte), (s.carrier tile = some tile ∧ s.pathUp tile path = true ∧ payload ≠ [] ∧ payload.length ≤ 256 ∧ crc4 (envelope / 16 % 2 ^ 28) ≠ envelope % 16) ∧ (((path, s.clock) :: (s.mt tile).errs.filter (fun e => decide (s.clock < e.2 + sec))).countP (fun e => decide (e.1 = path)) ≤ s.tileP bMirr tile 2)) ∧
    (∃ (s : State) (tile path envelope : Nat) (payload : List Byte), (s.carrier tile = some tile ∧ s.pathUp tile path = true ∧ path ≠ 0 ∧ payload ≠ [] ∧ payload.length ≤ 256 ∧ crc4 (envelope / 16 % 2 ^ 28) = envelope % 16) ∧ (envelope / 16 % 4 ≠ 3 ∧ envelope / 2 ^ 11 % 32 ≤ envelope / 2 ^ 6 % 32 ∧ 0 < envelope / 2 ^ 6 % 32) ∧ ((s.mt tile).reasm.find? (fun r => decide (r.chan = envelope / 16 % 4 ∧ r.msgid = envelope / 2 ^ 16 % 2 ^ 16)) = none)) ∧
    (∃ (s : State) (tile chan msgid : Nat) (m : Reasm), ((s.mt tile).reasm.find? (fun r => decide (r.chan = chan ∧ r.msgid = msgid)) = some m ∧ s.due m.nakAt (20 * us) = true)) ∧
    (∃ (s : State) (tile chan msgid bitmap : Nat), ((s.mt tile).outMsgs.find? (fun m => decide (m.chan = chan ∧ m.msgid = msgid)) = none)) ∧
    (∃ (s : State) (tile chan msgid bitmap : Nat) (m : OutMsg), ((s.mt tile).outMsgs.find? (fun m => decide (m.chan = chan ∧ m.msgid = msgid)) = some m ∧ m.naks < 3)) ∧
    (∃ (s : State) (tile chan msgid bitmap c : Nat) (m : OutMsg), ((s.mt tile).outMsgs.find? (fun m => decide (m.chan = chan ∧ m.msgid = msgid)) = some m ∧ 3 ≤ m.naks ∧ s.carrier tile = some c ∧ s.pathUp c 0 = true ∧ s.pathUp c 1 = true)) ∧
    (∃ (s : State) (tile : Nat) (b : List Byte) (t : State) (ws : List Word), ((s.mt tile).inbox.find? (fun b => !msgLrs b) = some b) ∧ ((msgFrames b).foldl (fun (p : State × List Word) f => let (s, w) := p.1.receiveFrame tile f; (s, p.2 ++ w)) (s.setMt tile { s.mt tile with inbox := (s.mt tile).inbox.erase b }, []) = (t, ws))) ∧
    (∃ (s : State) (tile gen seq status applied : Nat) (sl : Slot), ((s.mt tile).slots.find? (fun sl => decide (sl.frame.seq % 8192 = seq % 8192)) = some sl ∧ sl.frame.seq / 8192 % 65536 ≠ gen)) ∧
    (∃ (s : State) (tile gen seq applied : Nat) (sl : Slot), ((s.mt tile).slots.find? (fun sl => decide (sl.frame.seq % 8192 = seq % 8192)) = some sl ∧ sl.frame.seq / 8192 % 65536 = gen)) ∧
    (∃ (s : State) (tile gen seq applied : Nat) (sl : Slot), ((s.mt tile).slots.find? (fun sl => decide (sl.frame.seq % 8192 = seq % 8192)) = some sl ∧ sl.frame.seq / 8192 % 65536 = gen)) ∧
    (∃ (s : State) (tile seq t0 : Nat) (sl : Slot), ((s.mt tile).slots.find? (fun sl => decide (sl.frame.seq = seq) && !sl.ok) = some sl ∧ sl.sent = some t0 ∧ s.due t0 (s.tileP bMirr tile 1 * us) = true ∧ s.lease.twinLost = false)) ∧
    (∃ (s : State) (tile : Nat), (s.mode.mode = .mirs ∧ tile < s.tiles ∧ s.tileFenced tile = false ∧ s.tideStops tile = false)) ∧
    (∃ (s : State) (tile : Nat), (s.tideStops tile = true ∨ s.mode.mode ≠ .mirs)) :=
  ⟨⟨{ dPair .brup with mode := { mode := .brup } }, 0, 0, 8, 2, 0, 10, 128, false, true, true, by decide +kernel⟩,
    ⟨{ dPair .brup with mode := { mode := .brup }, mirr := [] }, 0, 3, 8, 1, 0, 10, 128, false, by decide +kernel⟩,
    ⟨{ dPair .brup with mode := { mode := .brup }, mirr := [] }, 0, 3, 8, 1, 0, 10, 128, false, by decide +kernel⟩,
    ⟨dActv, 0, 0, 0, 0, dFrame 1, [], by decide +kernel⟩,
    ⟨dActv, 0, 0, 0, 0, dFrame 1, [], [dFrame 1], by decide +kernel⟩,
    ⟨dPair .actv, 0, 0, by decide +kernel⟩,
    ⟨dPair .mirs, 0, 0, 1, [0], by decide +kernel⟩,
    ⟨dPair .mirs, 0, 1, 0x4C, [0], by decide +kernel⟩,
    ⟨{ dPair .mirs with clock := 100000, mirr := [(0, { up0 := true, up1 := true, reasm := [{ chan := 0, msgid := 7, last := 1, since := 0, nakAt := 0 }] })] }, 0, 0, 7, { chan := 0, msgid := 7, last := 1, since := 0, nakAt := 0 }, by decide +kernel⟩,
    ⟨dPair .actv, 0, 0, 7, 0, by decide +kernel⟩,
    ⟨{ dPair .actv with mirr := [(0, { up0 := true, outMsgs := [{ chan := 0, msgid := 7, last := 1, seq0 := 1, frames := 1, sentAt := 0 }] })] }, 0, 0, 7, 1, { chan := 0, msgid := 7, last := 1, seq0 := 1, frames := 1, sentAt := 0 }, by decide +kernel⟩,
    ⟨{ dPair .actv with mirr := [(0, { up0 := true, up1 := true, outMsgs := [{ chan := 0, msgid := 7, last := 1, seq0 := 1, frames := 1, sentAt := 0, naks := 3 }] })] }, 0, 0, 7, 1, 0, { chan := 0, msgid := 7, last := 1, seq0 := 1, frames := 1, sentAt := 0, naks := 3 }, by decide +kernel⟩,
    ⟨dInbox, 0, dBody, (((msgFrames dBody).foldl (fun (p : State × List Word) f => let (s, w) := p.1.receiveFrame 0 f; (s, p.2 ++ w)) (dInbox.setMt 0 { dInbox.mt 0 with inbox := [] }, [])).1), (((msgFrames dBody).foldl (fun (p : State × List Word) f => let (s, w) := p.1.receiveFrame 0 f; (s, p.2 ++ w)) (dInbox.setMt 0 { dInbox.mt 0 with inbox := [] }, [])).2), by decide +kernel⟩,
    ⟨dActv, 0, 1, 1, 0, 1, { frame := dFrame 1 }, by decide +kernel⟩,
    ⟨dActv, 0, 0, 1, 1, { frame := dFrame 1 }, by decide +kernel⟩,
    ⟨dActv, 0, 0, 1, 1, { frame := dFrame 1 }, by decide +kernel⟩,
    ⟨{ dActv with clock := 100000, mirr := [(0, { up0 := true, slots := [{ frame := dFrame 1, sent := some 0 }], seq := 2 })] }, 0, 1, 0, { frame := dFrame 1, sent := some 0 }, by decide +kernel⟩,
    ⟨dPair .mirs, 0, by decide +kernel⟩,
    ⟨dPair .actv, 0, by decide +kernel⟩⟩

/-- States and operands that meet the hypotheses of `Obligations.ResyncAndCheckpoints`, clause by clause. -/
theorem witness_ResyncAndCheckpoints :
    (∃ (s : State) (tile off count seqR : Nat), (tile < s.tiles ∧ 0 < count ∧ count ≤ 64 ∧ off % 64 = 0 ∧ s.twinUp = true ∧ (s.mode.mode ≠ .mirs ∨ seqLe seqR (s.mt tile).applied = true))) ∧
    (∃ (s : State) (tile off count seqR : Nat), (tile < s.tiles ∧ 0 < count ∧ count ≤ 64 ∧ off % 64 = 0 ∧ s.twinUp = true ∧ s.mode.mode = .mirs ∧ seqLe seqR (s.mt tile).applied = false)) ∧
    (∃ (s : State) (tile : Nat) (b : List Byte) (q : Lrq), (s.mode.mode ≠ .mirs ∧ (s.mt tile).inbox.find? msgLrs = some b) ∧ ((s.mt tile).lrqs.find? (fun q => decide (q.off = ((msgFrames b).head?.map Frame.off).getD 0)) = some q) ∧ (q.why = .recovery ∨ s.lrsHeld tile q.off (msgFrames b).length = false)) ∧
    (∃ (s : State) (tile : Nat) (b : List Byte) (q : Lrq), (s.mode.mode = .mirs ∧ (s.mt tile).inbox = [b] ∧ msgLrs b = true ∧ seqLe (fld (msgWord b 1) 47 0) (s.mt tile).applied = false) ∧ ((s.mt tile).lrqs.find? (fun q => decide (q.off = ((msgFrames b).head?.map Frame.off).getD 0)) = some q)) ∧
    (∃ (s : State) (tile off : Nat) (q : Lrq), ((s.mt tile).lrqs.find? (fun q => decide (q.off = off)) = some q ∧ s.due q.sentAt (s.tileP bMirr tile 1 * us) = true)) ∧
    (∃ (s : State) (tile seq tm : Nat) (d : Word), (s.ckptGoes tile = true ∧ s.due (s.mt tile).ckptAt ms = true)) ∧
    (∃ (s : State) (tile seq tm : Nat) (d : Word), (s.mode.mode = .mirs ∧ tile < s.tiles ∧ s.ckptGoes tile = false)) ∧
    (∃ (s : State) (tile seq tm : Nat) (d : Word), (s.ckptGoes tile = true ∧ (s.mt tile).ckptSent = some { seq := seq, tm := tm, digest := d })) ∧
    (∃ (s : State) (tile seq : Nat), (s.ckptGoes tile = true ∧ (s.mt tile).ckptSent.map Ckpt.seq = some seq)) ∧
    (∃ (s : State) (tile path tidemark : Nat), (s.pathUp tile path = true ∧ s.mode.mode ≠ .mirs)) ∧
    (∃ (s : State) (tidemark : Nat), (s.pathUp 0 0 = true ∧ s.mode.mode = .mirs ∧ s.time.master.on = true)) ∧
    (∃ (s : State) (tile path : Nat), (path < 2 ∧ s.pathUp tile path = true ∧ s.due (if path = 0 then (s.mt tile).last0 else (s.mt tile).last1) (s.tileP bMirr tile 0 * us) = true)) ∧
    (∃ (s : State) (epoch : Nat) (next : List Nat), (epoch ≤ s.lease.epoch)) ∧
    (∃ (s : State) (epoch : Nat) (next : List Nat), (s.lease.epoch < epoch ∧ s.twinUp = true ∧ s.mode.mode = .actv ∧ s.ctxs = [])) ∧
    (∃ (s : State) (epoch : Nat) (next : List Nat), (s.lease.epoch < epoch ∧ s.twinUp = true ∧ s.mode.mode = .mirs ∧ s.ctxs = [] ∧ s.lease.wish ≠ .handoverFrom)) ∧
    (∃ (s : State) (name at_ : Nat) (cs : List TwinChange), (s.mode.mode = .mirs ∧ s.twinTides.any (fun d => decide (d.name = name)) = false)) ∧
    (∃ (s : State) (name : Nat) (d : Tide), (s.mode.mode = .mirs ∧ s.twinTides.find? (fun d => decide (d.name = name)) = some d) ∧ (s.twinTides.find? (fun d => decide (d.name = name) && d.passed) = some d)) ∧
    (∃ (s : State) (name : Nat) (m : TideMsg), (s.mode.mode ≠ .mirs)) ∧
    (∃ (s : State) (cls inst cause : Nat), (s.twinUp = true ∧ s.lease.twinFences.contains (cls, inst, cause) = false)) ∧
    (∃ (s : State) (tile point : Nat) (pages : List Nat) (confirmed : Bool), (tile < s.tiles ∧ s.resyncs = true ∧ s.mode.mode ≠ .mirs ∧ (s.mt tile).synced = true)) ∧
    (∃ (s : State) (tile point : Nat) (pages : List Nat) (confirmed : Bool), (tile < s.tiles ∧ s.twinUp = true ∧ s.mode.mode = .mirs ∧ (s.mt tile).synced = false)) ∧
    (∃ (s : State) (tile next pages : Nat) (follows : Bool) (config : TwinConfig) (r : Resync), (tile < s.tiles ∧ s.resyncs = true ∧ s.twinUp = true ∧ s.mode.mode ≠ .mirs ∧ (s.mt tile).resync = some r)) ∧
    (∃ (s : State) (tile next pages : Nat) (config : TwinConfig), (tile < s.tiles ∧ s.twinUp = true ∧ s.mode.mode = .mirs)) ∧
    (∃ (s : State) (t : Nat) (r : Resync), (r.kind = 1 ∧ r.full = true ∧ s.mode.mode = .actv)) ∧
    (∃ (s : State) (t p : Nat) (r : Resync) (rest : List Nat), (r.kind ≠ 1 ∧ r.todo = p :: rest ∧ (s.mt t).windowFull = false ∧ s.pageAway t = false ∧ r.nextAt ≤ s.clock ∧ (s.mt t).slots.countP (fun sl => sl.resync) < 4096)) ∧
    (∃ (s : State) (tile : Nat) (r : Resync), ((s.mt tile).resync = some r ∧ s.resyncs = true ∧ r.confirmed = true)) :=
  ⟨⟨dPair .actv, 0, 64, 1, 0, by decide +kernel⟩,
    ⟨dPair .mirs, 0, 64, 1, 5, by decide +kernel⟩,
    ⟨{ dPair .actv with mirr := [(0, { up0 := true, inbox := [dLrs], lrqs := [{ off := 64, count := 1, seqR := 0, why := .read, sentAt := 0 }] })] }, 0, dLrs, { off := 64, count := 1, seqR := 0, why := .read, sentAt := 0 }, by decide +kernel⟩,
    ⟨{ dPair .mirs with mirr := [(0, { up0 := true, inbox := [dLrsLate], lrqs := [{ off := 64, count := 1, seqR := 0, why := .read, sentAt := 0 }] })] }, 0, dLrsLate, { off := 64, count := 1, seqR := 0, why := .read, sentAt := 0 }, by decide +kernel⟩,
    ⟨{ dPair .actv with clock := 100000, mirr := [(0, { up0 := true, lrqs := [{ off := 64, count := 1, seqR := 0, why := .read, sentAt := 0 }] })] }, 0, 64, { off := 64, count := 1, seqR := 0, why := .read, sentAt := 0 }, by decide +kernel⟩,
    ⟨{ dPair .actv with clock := 10000000 }, 0, 0, 0, 0, by decide +kernel⟩,
    ⟨dPair .mirs, 0, 0, 0, 0, by decide +kernel⟩,
    ⟨{ dPair .actv with mirr := [(0, { up0 := true, ckptSent := some { seq := 1, tm := 9, digest := 7 } })] }, 0, 1, 9, 7, by decide +kernel⟩,
    ⟨{ dPair .actv with mirr := [(0, { up0 := true, ckptSent := some { seq := 1, tm := 9, digest := 7 } })] }, 0, 1, by decide +kernel⟩,
    ⟨dPair .actv, 0, 0, 0, by decide +kernel⟩,
    ⟨{ dPair .mirs with time := dClock.time }, 100, by decide +kernel⟩,
    ⟨{ dPair .actv with clock := 1000000 }, 0, 1, by decide +kernel⟩,
    ⟨dPair .actv, 4, [], by decide +kernel⟩,
    ⟨dPair .actv, 5, [], by decide +kernel⟩,
    ⟨dPair .mirs, 5, [7], by decide +kernel⟩,
    ⟨dPair .mirs, 7, 100, [], by decide +kernel⟩,
    ⟨{ dPair .mirs with twinTides := [{ name := 7, at_ := 0, changes := [], ctx := none, phase := .swapped }] }, 7, { name := 7, at_ := 0, changes := [], ctx := none, phase := .swapped }, by decide +kernel⟩,
    ⟨dPair .actv, 7, .release, by decide +kernel⟩,
    ⟨dPair .actv, 1, 0, 0x20, by decide +kernel⟩,
    ⟨{ dPair .actv with mirr := [(0, { up0 := true, synced := true })] }, 0, 0, [3], true, by decide +kernel⟩,
    ⟨dPair .mirs, 0, 0, [], true, by decide +kernel⟩,
    ⟨{ dPair .actv with mirr := [(0, { up0 := true, resync := some { kind := 1, full := false, point := 0 } })] }, 0, 0, 0, false, {}, { kind := 1, full := false, point := 0 }, by decide +kernel⟩,
    ⟨dPair .mirs, 0, 9, 2, {}, by decide +kernel⟩,
    ⟨dPair .actv, 0, { kind := 1, full := true, point := 0 }, by decide +kernel⟩,
    ⟨dPair .actv, 0, 3, { kind := 2, full := false, point := 0, todo := [3] }, [], by decide +kernel⟩,
    ⟨{ dPair .actv with mirr := [(0, { up0 := true, resync := some { kind := 2, full := false, point := 0, confirmed := true } })] }, 0, { kind := 2, full := false, point := 0, confirmed := true }, by decide +kernel⟩⟩

/-- States and operands that meet the hypotheses of `Obligations.WitnessRules`, clause by clause. -/
theorem witness_WitnessRules :
    (∃ (s : State) (pair port reqno value : Nat) (force : Bool), (pair ≠ 0 ∧ (s.witOf pair).holder = some port)) ∧
    (∃ (s : State) (pair port epoch reqno value : Nat) (force : Bool), (pair ≠ 0 ∧ (s.witOf pair).holder = none ∧ (epoch = (s.witOf pair).epoch ∨ force = true))) ∧
    (∃ (s : State) (pair port other epoch reqno value : Nat) (force : Bool), (pair ≠ 0 ∧ (s.witOf pair).holder = some other ∧ other ≠ port)) ∧
    (∃ (s : State) (pair port epoch reqno value : Nat) (force : Bool), (pair ≠ 0 ∧ epoch ≠ (s.witOf pair).epoch ∧ ((s.witOf pair).holder = some port ∨ (s.witOf pair).holder = none ∧ force = false))) ∧
    (∃ (s : State) (pair port reqno : Nat), (pair ≠ 0 ∧ (s.witOf pair).holder = some port)) ∧
    (∃ (s : State) (pair port epoch reqno : Nat), (pair ≠ 0 ∧ ((s.witOf pair).holder ≠ some port ∨ epoch ≠ (s.witOf pair).epoch))) ∧
    (∃ (s : State) (pair port reqno : Nat), (pair ≠ 0 ∧ (s.witOf pair).holder = some port)) ∧
    (∃ (s : State) (pair port reqno cause arg : Nat), (pair ≠ 0)) ∧
    (∃ (s : State) (pair : Nat), ((s.witOf pair).holder.isSome = true ∧ (s.witOf pair).timer + (s.witOf pair).len * us ≤ s.clock)) ∧
    (∃ (s : State) (pair : Nat), (s.clock < (s.witOf pair).timer + (s.witOf pair).len * us)) :=
  ⟨⟨dWit (some 0), 1, 0, 7, 8000, false, by decide +kernel⟩,
    ⟨dWit none, 1, 1, 9, 7, 8000, true, by decide +kernel⟩,
    ⟨dWit (some 0), 1, 1, 0, 9, 7, 8000, true, by decide +kernel⟩,
    ⟨dWit (some 0), 1, 0, 9, 7, 8000, true, by decide +kernel⟩,
    ⟨dWit (some 0), 1, 0, 7, by decide +kernel⟩,
    ⟨dWit (some 0), 1, 1, 4, 7, by decide +kernel⟩,
    ⟨dWit (some 0), 1, 0, 7, by decide +kernel⟩,
    ⟨dWit none, 1, 0, 7, 0x46, 0, by decide +kernel⟩,
    ⟨{ dWit (some 0) with clock := 100000000 }, 1, by decide +kernel⟩,
    ⟨dWit (some 0), 1, by decide +kernel⟩⟩

/-- States and operands that meet the hypotheses of `Obligations.LeaseOfTheUnit`, clause by clause. -/
theorem witness_LeaseOfTheUnit :
    (∃ (s : State), (s.renews = true ∧ s.lease.waiting = false ∧ s.due s.lease.renewAt (s.devP bMirr 4 * us) = true)) ∧
    (∃ (s : State), (s.lease.waiting = true ∧ s.due s.lease.sentAt (200 * us) = true ∧ s.lease.tries < 2)) ∧
    (∃ (s : State) (epoch reqno value : Nat), (s.pairId ≠ 0 ∧ (s.lease.waiting = false ∨ reqno ≠ s.lease.reqno))) ∧
    (∃ (s : State) (value : Nat), (s.pairId ≠ 0 ∧ s.lease.waiting = true ∧ s.mode.mode = .actv ∧ s.lease.expired = false ∧ s.lease.wish = .idle ∧ s.ctxs = [] ∧ s.lease.takeOver = false)) ∧
    (∃ (s : State) (pair epoch reqno value : Nat), (s.pairId = 0 ∨ pair ≠ s.pairId)) ∧
    (∃ (s : State) (epoch value : Nat), (s.pairId ≠ 0 ∧ s.lease.waiting = true ∧ s.lease.wish = .idle ∧ s.ctxs = [])) ∧
    (∃ (s : State) (t0 : Nat), (s.lease.denyUntil = some t0 ∧ t0 ≤ s.clock ∧ s.mode.mode = .mirs ∧ s.allSynced = true ∧ s.lease.twinLost = true)) ∧
    (∃ (s : State), (s.pairId ≠ 0 ∧ s.lease.waiting = true ∧ s.lease.kind = 4)) ∧
    (∃ (s : State), (s.pairId ≠ 0 ∧ s.lease.held = true ∧ s.lease.expired = false ∧ s.lease.deadline ≤ s.clock)) ∧
    (∃ (s : State) (t0 : Nat), (s.lease.readsUntil = some t0 ∧ t0 ≤ s.clock)) ∧
    (∃ (s : State), (s.twinUp = true ∧ s.mode.mode = .actv ∧ s.devP bMirr 1 ≠ 0)) ∧
    (∃ (s : State) (t : Nat), (s.twinUp = true ∧ s.mode.mode = .mirs)) ∧
    (∃ (s : State) (t0 : Nat), (s.lease.handoverAt = some t0 ∧ s.mode.mode = .actv ∧ s.lease.wish = .handoverFrom ∧ t0 ≤ s.master ∧ s.lease.released = false) ∧ (s.windowsEmpty = true)) ∧
    (∃ (s : State) (t0 : Nat), (s.lease.handoverAt = some t0 ∧ s.master < t0)) ∧
    (∃ (s : State) (t0 : Nat), (s.lease.fbSince = some t0 ∧ s.mode.mode = .mirs ∧ s.devP bMirr 1 = 1 ∧ s.devP bMirr 5 ≠ 0 ∧ s.allSynced = true ∧ s.twinUp = true ∧ s.due t0 (s.devP bMirr 5 * sec) = true)) ∧
    (∃ (s : State) (n : Nat) (i : Issue) (c : Ctx), (Ready s n 0x50 i c) ∧ ((s.consume n i c).allSynced = true ∧ (s.consume n i c).twinUp = true ∧ fld i.word 0 0 = 0 ∧ (s.consume n i c).mode.mode = .actv ∧ (s.consume n i c).lease.handoverAt = none)) ∧
    (∃ (s : State) (n : Nat) (i : Issue) (c : Ctx), (Ready s n 0x50 i c) ∧ ((s.consume n i c).allSynced = true ∧ (s.consume n i c).twinUp = true ∧ fld i.word 0 0 = 1 ∧ (s.consume n i c).mode.mode = .mirs)) ∧
    (∃ (s : State) (n : Nat) (i : Issue) (c : Ctx), (Ready s n 0x50 i c ∧ (s.consume n i c).twinUp = false)) ∧
    (∃ (s : State) (n : Nat) (i : Issue) (c : Ctx), (Ready s n 0x51 i c ∧ (s.consume n i c).twinUp = true ∧ fld i.word 7 0 = 0)) ∧
    (∃ (s : State) (n : Nat) (i : Issue) (c : Ctx), (Ready s n 0x51 i c) ∧ ((s.consume n i c).twinUp = true ∧ fld i.word 7 0 ≠ 0 ∧ fld i.word 7 0 < 2 ^ (s.consume n i c).tiles ∧ s.mode.mode ≠ .mirs)) ∧
    (∃ (s : State) (n : Nat) (i : Issue) (c : Ctx), (Ready s n 0x52 i c) ∧ (fld i.word 2 0 < s.tiles ∧ (s.consume n i c).ckptGoes (fld i.word 2 0) = true)) ∧
    (∃ (s : State) (n : Nat) (i : Issue) (c : Ctx), (Ready s n 0x53 i c ∧ fld i.word 0 0 = 0)) ∧
    (∃ (s : State) (n : Nat) (i : Issue) (c : Ctx), (Ready s n 0x53 i c ∧ fld i.word 0 0 = 1) ∧ ((s.consume n i c).mode.mode = .actv ∧ (s.consume n i c).pairId ≠ 0 ∧ ((s.consume n i c).startLong n i .lease).lease.waiting = false)) ∧
    (∃ (s : State) (n : Nat) (i : Issue) (c : Ctx), (Ready s n 0x53 i c ∧ fld i.word 0 0 = 1) ∧ ((s.consume n i c).mode.mode = .mirs ∨ (s.consume n i c).mode.mode = .main ∨ (s.consume n i c).mode.mode = .brup ∨ (s.consume n i c).mode.mode = .save)) :=
  ⟨⟨{ dPair .actv with clock := 100000000 }, by decide +kernel⟩,
    ⟨{ dPair .actv with clock := 100000000, lease := { (dPair .actv).lease with waiting := true, kind := 1 } }, by decide +kernel⟩,
    ⟨dPair .actv, 4, 9, 8000, by decide +kernel⟩,
    ⟨{ dPair .actv with lease := { (dPair .actv).lease with waiting := true } }, 8000, by decide +kernel⟩,
    ⟨dPair .actv, 9, 4, 1, 8000, by decide +kernel⟩,
    ⟨{ dPair .actv with lease := { (dPair .actv).lease with waiting := true } }, 4, 0, by decide +kernel⟩,
    ⟨{ dPair .mirs with mirr := (List.range 8).map (fun t => (t, { synced := true })), lease := { (dPair .mirs).lease with denyUntil := some 0, twinLost := true } }, 0, by decide +kernel⟩,
    ⟨{ dPair .actv with lease := { (dPair .actv).lease with waiting := true, kind := 4 } }, by decide +kernel⟩,
    ⟨dPair .actv, by decide +kernel⟩,
    ⟨{ dPair .actv with lease := { (dPair .actv).lease with readsUntil := some 0 } }, 0, by decide +kernel⟩,
    ⟨{ dPair .actv with params := [(pid bMirr 1023 0, 1), (pid bMirr 1023 1, 1)] }, by decide +kernel⟩,
    ⟨dPair .mirs, 100, by decide +kernel⟩,
    ⟨{ dPair .actv with lease := { (dPair .actv).lease with handoverAt := some 0, wish := .handoverFrom } }, 0, by decide +kernel⟩,
    ⟨{ dPair .actv with lease := { (dPair .actv).lease with handoverAt := some 9, wish := .handoverFrom } }, 9, by decide +kernel⟩,
    ⟨{ dPair .mirs with clock := 100000000000, params := [(pid bMirr 1023 0, 1), (pid bMirr 1023 1, 1)], mirr := (List.range 8).map (fun t => (t, { synced := true, up0 := true })), lease := { (dPair .mirs).lease with fbSince := some 0 } }, 0, by decide +kernel⟩,
    ⟨dRole .actv [0x50000000_00000000], 0x1000, nI (dRole .actv [0x50000000_00000000]) 0x1000, nC (dRole .actv [0x50000000_00000000]) 0x1000, by decide +kernel⟩,
    ⟨dRole .mirs [0x50000000_00000001], 0x1000, nI (dRole .mirs [0x50000000_00000001]) 0x1000, nC (dRole .mirs [0x50000000_00000001]) 0x1000, by decide +kernel⟩,
    ⟨{ dRole .actv [0x50000000_00000000] with mirr := [] }, 0x1000, nI (dRole .actv [0x50000000_00000000]) 0x1000, nC (dRole .actv [0x50000000_00000000]) 0x1000, by decide +kernel⟩,
    ⟨dRole .actv [0x51000000_00000000], 0x1000, nI (dRole .actv [0x51000000_00000000]) 0x1000, nC (dRole .actv [0x51000000_00000000]) 0x1000, by decide +kernel⟩,
    ⟨dRole .actv [0x51000000_00000001], 0x1000, nI (dRole .actv [0x51000000_00000001]) 0x1000, nC (dRole .actv [0x51000000_00000001]) 0x1000, by decide +kernel⟩,
    ⟨dRole .actv [0x52000000_00000000], 0x1000, nI (dRole .actv [0x52000000_00000000]) 0x1000, nC (dRole .actv [0x52000000_00000000]) 0x1000, by decide +kernel⟩,
    ⟨dS [0x53000000_00000000], 0x1000, nI (dS [0x53000000_00000000]) 0x1000, nC (dS [0x53000000_00000000]) 0x1000, by decide +kernel⟩,
    ⟨dRole .actv [0x53000000_00000001], 0x1000, nI (dRole .actv [0x53000000_00000001]) 0x1000, nC (dRole .actv [0x53000000_00000001]) 0x1000, by decide +kernel⟩,
    ⟨dS [0x53000000_00000001], 0x1000, nI (dS [0x53000000_00000001]) 0x1000, nC (dS [0x53000000_00000001]) 0x1000, by decide +kernel⟩⟩

/-- States and operands that meet the hypotheses of `Obligations.NonceIssue`, clause by clause. -/
theorem witness_NonceIssue :
    (∃ (s : State) (t src : Nat), (src < 4)) ∧
    (∃ (s : State) (t pages : Nat), (0 < pages)) ∧
    (∃ (s : State) (t src : Nat), (t < s.tiles ∧ 1 ≤ src ∧ src ≤ 3)) :=
  ⟨⟨dPair .actv, 0, 1, by decide +kernel⟩,
    ⟨dPair .actv, 0, 2048, by decide +kernel⟩,
    ⟨{ dPair .actv with nonces := [(1, 77)] }, 0, 1, by decide +kernel⟩⟩

/-- States and operands that meet the hypotheses of `Obligations.CipherInstructions`, clause by clause. -/
theorem witness_CipherInstructions :
    (∃ (s : State) (n : Nat) (b : Bool) (i : Issue) (c : Ctx), (Ready s n 0x70 i c ∧ fld i.word 15 13 < s.tiles ∧ i.pl < 2 ∧ s.tileFenced (fld i.word 15 13) = false) ∧ ((let u := s.consume n i c; (u.keySlot (fld i.word 15 13) (fld ((u.ctx n).opA i.word) 12 0)).usage ≠ 1 ∨ kunwSlot (fld i.word 12 0) i.pl = false ∨ (u.keySlot (fld i.word 15 13) (fld i.word 12 0)).usage ≠ 0))) ∧
    (∃ (s : State) (n : Nat) (b : Bool) (i : Issue) (c : Ctx), (Ready s n 0x70 i c ∧ fld i.word 15 13 < s.tiles ∧ i.pl < 2 ∧ s.tileFenced (fld i.word 15 13) = false) ∧ ((let u := s.consume n i c; (u.keySlot (fld i.word 15 13) (fld ((u.ctx n).opA i.word) 12 0)).usage = 1 ∧ kunwSlot (fld i.word 12 0) i.pl = true ∧ (u.keySlot (fld i.word 15 13) (fld i.word 12 0)).usage = 0))) ∧
    (∃ (s : State) (n : Nat) (b : Bool) (i : Issue) (c : Ctx), (Ready s n 0x70 i c ∧ fld i.word 15 13 < s.tiles ∧ 2 ≤ i.pl) ∧ ((let r := (s.consume n i c).resvOf n (fld i.word 15 13); fld i.word 12 0 < r.keyBase ∨ r.keyBase + r.keys ≤ fld i.word 12 0))) ∧
    (∃ (s : State) (n : Nat) (i : Issue) (c : Ctx), (Ready s n 0x71 i c ∧ fld i.word 15 13 < s.tiles ∧ i.pl < 2 ∧ s.tileFenced (fld i.word 15 13) = false) ∧ ((let u := s.consume n i c; let t := fld i.word 15 13; let k := fld i.word 12 0; (u.keySlot t k).usage ≠ 0 ∧ u.slotLoan t k = false ∧ u.slotIde t k = false ∧ u.slotRuns t k = false ∧ u.slotRegion t k = false))) ∧
    (∃ (s : State) (n : Nat) (i : Issue) (c : Ctx), (Ready s n 0x71 i c ∧ fld i.word 15 13 < s.tiles ∧ i.pl < 2 ∧ s.tileFenced (fld i.word 15 13) = false) ∧ (((s.consume n i c).keySlot (fld i.word 15 13) (fld i.word 12 0)).usage = 0)) ∧
    (∃ (s : State) (n m : Nat) (i : Issue) (c : Ctx) (k : Cryp), (Ready s n 0x74 i c ∧ (s.ctx n).long = none ∧ fld i.word 17 16 < 2) ∧ ((let u := s.consume n i c; k = { slot := fld i.word 12 0, mode := fld i.word 17 16, tile := fld i.word 38 36, pages := fld i.word 35 20, src := ((u.ctx n).opA i.word).toNat, dst := ((u.ctx n).reg (iGb i.word)).toNat, installs := (u.keySlot (fld i.word 38 36) (fld i.word 12 0)).installs, base := if iX i.word then i.ext.toNat else 0 })) ∧ ((s.consume n i c).crypRanges k = true ∧ (s.consume n i c).tileFenced k.tile = false ∧ (s.consume n i c).crypKey k = true)) ∧
    (∃ (s v : State) (n m : Nat) (i : Issue) (c : Ctx) (k : Cryp), (Ready s n 0x74 i c ∧ (s.ctx n).long = none ∧ fld i.word 17 16 = 2) ∧ ((let u := s.consume n i c; k = { slot := fld i.word 12 0, mode := 2, tile := fld i.word 38 36, pages := fld i.word 35 20, src := ((u.ctx n).opA i.word).toNat, dst := ((u.ctx n).reg (iGb i.word)).toNat, installs := (u.keySlot (fld i.word 38 36) (fld i.word 12 0)).installs, base := if iX i.word then i.ext.toNat else 0 })) ∧ ((s.consume n i c).crypRanges k = true ∧ (s.consume n i c).tileFenced k.tile = false ∧ (s.consume n i c).crypKey k = true ∧ (s.consume n i c).countEnc k.tile k.slot = (true, v))) ∧
    (∃ (s : State) (n m : Nat) (i : Issue) (c : Ctx), (Ready s n 0x74 i c ∧ (s.ctx n).long = none ∧ fld i.word 17 16 < 2 ∧ fld i.word 35 20 = 0)) ∧
    (∃ (s : State) (n m : Nat) (i : Issue), ((s.ctx n).long = some (i, .cryp))) ∧
    (∃ (s : State) (n : Nat) (i : Issue) (k : Cryp), ((s.ctx n).long = some (i, .cryp) ∧ (s.ctx n).cryp = some k ∧ s.fences.inForce = []) ∧ ((s.keySlot k.tile k.slot).installs ≠ k.installs)) ∧
    (∃ (s : State) (n : Nat) (i : Issue) (c : Ctx), (Ready s n 0x72 i c ∧ fld i.word 2 0 < s.tiles ∧ (s.ctx n).cryp = none ∧ (c.cryp = none))) ∧
    (∃ (s : State) (n : Nat) (i : Issue) (c : Ctx) (k : Cryp), (Ready s n 0x72 i c ∧ fld i.word 2 0 < s.tiles ∧ s.csavWaits n = false ∧ ((s.consume n i c).ctx n).cryp = some k ∧ k.unit = 0) ∧ ((let u := s.consume n i c; (((u.ctx n).opA i.word).toNat + 64 ≤ u.dfaSize (fld i.word 2 0)) ∧ u.fencedDfa (fld i.word 2 0) ((u.ctx n).opA i.word).toNat 64 = false))) ∧
    (∃ (s : State) (n : Nat) (i : Issue) (c : Ctx) (k : Cryp), (Ready s n 0x72 i c ∧ fld i.word 2 0 < s.tiles ∧ s.csavWaits n = false ∧ ((s.consume n i c).ctx n).cryp = some k ∧ k.unit ≠ 0) ∧ ((let u := s.consume n i c; (((u.ctx n).opA i.word).toNat + 104 ≤ u.dfaSize (fld i.word 2 0)) ∧ u.fencedDfa (fld i.word 2 0) ((u.ctx n).opA i.word).toNat 104 = false))) ∧
    (∃ (s : State) (n : Nat) (i : Issue) (c : Ctx), (Ready s n 0x73 i c ∧ fld i.word 2 0 < s.tiles) ∧ ((s.consume n i c).dfaSize (fld i.word 2 0) < (((s.consume n i c).ctx n).opA i.word).toNat + 64)) ∧
    (∃ (s : State) (n : Nat) (i : Issue) (c : Ctx), (Ready s n 0x73 i c ∧ fld i.word 2 0 < s.tiles) ∧ ((let u := s.consume n i c; let a := ((u.ctx n).opA i.word).toNat; (a + 64 ≤ u.dfaSize (fld i.word 2 0)) ∧ u.fencedDfa (fld i.word 2 0) a 64 = false ∧ (u.readDfa (fld i.word 2 0) a 64).2 = false))) :=
  ⟨⟨{ dS dKunw with keys := [] }, 0x1000, true, nI (dS dKunw) 0x1000, nC (dS dKunw) 0x1000, by decide +kernel⟩,
    ⟨dKunwS, 0x1000, true, nI dKunwS 0x1000, nC dKunwS 0x1000, by decide +kernel⟩,
    ⟨dUser dKunw, 0x2C3, true, nI (dUser dKunw) 0x2C3, nC (dUser dKunw) 0x2C3, by decide +kernel⟩,
    ⟨{ dS [0x71000000_00000064] with keys := [(100, { usage := 4 })] }, 0x1000, nI (dS [0x71000000_00000064]) 0x1000, nC (dS [0x71000000_00000064]) 0x1000, by decide +kernel⟩,
    ⟨dS [0x71000000_00000064], 0x1000, nI (dS [0x71000000_00000064]) 0x1000, nC (dS [0x71000000_00000064]) 0x1000, by decide +kernel⟩,
    ⟨dCryp, 0x1000, 1, nI dCryp 0x1000, nC dCryp 0x1000, { slot := 100, mode := 0, tile := 0, pages := 1, src := 0x1000, dst := 0x4000, installs := 0, base := 0 }, by decide +kernel⟩,
    ⟨dCrypG, ((dCrypG.consume 0x1000 (nI dCrypG 0x1000) (nC dCrypG 0x1000)).countEnc 0 100).2, 0x1000, 1, nI dCrypG 0x1000, nC dCrypG 0x1000, { slot := 100, mode := 2, tile := 0, pages := 1, src := 0x1000, dst := 0x4000, installs := 0, base := 0 }, by decide +kernel⟩,
    ⟨dS [0x74123000_00000064], 0x1000, 1, nI (dS [0x74123000_00000064]) 0x1000, nC (dS [0x74123000_00000064]) 0x1000, by decide +kernel⟩,
    ⟨{ dS [] with ctxs := [(0x1000, { dCtx [] with long := some (noIssue, .cryp) })] }, 0x1000, 1, noIssue, by decide +kernel⟩,
    ⟨{ dS [] with ctxs := [(0x1000, { dCtx [] with long := some (noIssue, .cryp), cryp := some { slot := 100, mode := 0, tile := 0, pages := 1, src := 0x1000, dst := 0x4000, installs := 3, base := 0 } })] }, 0x1000, noIssue, { slot := 100, mode := 0, tile := 0, pages := 1, src := 0x1000, dst := 0x4000, installs := 3, base := 0 }, by decide +kernel⟩,
    ⟨dS [0x72100000_00000000], 0x1000, nI (dS [0x72100000_00000000]) 0x1000, nC (dS [0x72100000_00000000]) 0x1000, by decide +kernel⟩,
    ⟨dCsav, 0x1000, nI dCsav 0x1000, nC dCsav 0x1000, { slot := 100, mode := 0, tile := 0, pages := 2, src := 0x1000, dst := 0x4000, installs := 0, base := 0, done := 1, interrupted := true }, by decide +kernel⟩,
    ⟨dCsavIn, 0x1000, nI dCsavIn 0x1000, nC dCsavIn 0x1000, { slot := 100, mode := 0, tile := 0, pages := 2, src := 0x1000, dst := 0x4000, installs := 0, base := 0, unit := 5, interrupted := true }, by decide +kernel⟩,
    ⟨dS [0x73100000_00000000], 0x1000, nI (dS [0x73100000_00000000]) 0x1000, nC (dS [0x73100000_00000000]) 0x1000, by decide +kernel⟩,
    ⟨dCrst, 0x1000, nI dCrst 0x1000, nC dCrst 0x1000, by decide +kernel⟩⟩

/-- States and operands that meet the hypotheses of `Obligations.AntiRollbackCount`, clause by clause. -/
theorem witness_AntiRollbackCount :
    (∃ (s : State) (k : Nat), (k < 128 ∧ (s.fuseWord (1 + k / 64)).getLsbD (k % 64) = true) ∧ ((∀ j < 128, k < j → (s.fuseWord (1 + j / 64)).getLsbD (j % 64) = false))) ∧
    (∃ (s : State), ((∀ j < 128, (s.fuseWord (1 + j / 64)).getLsbD (j % 64) = false))) :=
  ⟨⟨dArb, 66, by decide +kernel⟩,
    ⟨State.reset, by decide +kernel⟩⟩

/-- States and operands that meet the hypotheses of `Obligations.FuseCommands`, clause by clause. -/
theorem witness_FuseCommands :
    (∃ (s : State) (a : Bool) (w : Word), (s.fuse.cmd = some w ∧ fld w 63 56 = 1 ∧ s.mode.mode = .main ∧ s.save.run = none ∧ s.pwr.vddFuse = true ∧ s.life = .mfg ∧ 4 ≤ fld w 15 8 ∧ fld w 15 8 ≤ 37) ∧ (s.fuse.progd.contains (fld w 15 8) = false ∧ s.fuse.dead.contains (fld w 15 8) = false)) ∧
    (∃ (s : State) (a : Bool) (w : Word), (s.fuse.cmd = some w ∧ fld w 63 56 = 1 ∧ s.mode.mode = .main ∧ s.save.run = none ∧ s.pwr.vddFuse = true ∧ s.life = .mfg ∧ 4 ≤ fld w 15 8 ∧ fld w 15 8 ≤ 37) ∧ (s.fuse.progd.contains (fld w 15 8) = true ∨ s.fuse.dead.contains (fld w 15 8) = true)) ∧
    (∃ (s : State) (a : Bool) (w : Word), (s.fuse.cmd = some w ∧ (fld w 63 56 = 1 ∨ fld w 63 56 = 3 ∨ fld w 63 56 = 4 ∨ fld w 63 56 = 5) ∧ (s.mode.mode ≠ .main ∨ s.save.run.isSome = true ∨ s.pwr.vddFuse = false))) ∧
    (∃ (s : State) (w : Word), (s.fuse.cmd = some w ∧ fld w 63 56 = 2 ∧ s.mode.mode = .main ∧ s.save.run = none ∧ s.pwr.vddFuse = true ∧ s.life = .mfg)) ∧
    (∃ (s : State) (a : Bool) (w : Word), (s.fuse.cmd = some w ∧ s.mode.mode = .main ∧ s.save.run = none ∧ s.pwr.vddFuse = true ∧ s.life = .mfg)) ∧
    (∃ (s : State) (a : Bool) (w : Word), (s.fuse.cmd = some w ∧ fld w 63 56 = 4 ∧ s.mode.mode = .main ∧ s.save.run = none ∧ s.pwr.vddFuse = true ∧ s.ownerOk (fld w 1 0) = true) ∧ ((List.range 4).all (fun k => decide (k = fld w 1 0) || !s.ownerOk k) = true)) ∧
    (∃ (s : State) (w : Word), (s.fuse.cmd = some w ∧ s.mode.mode = .main ∧ s.save.run = none ∧ s.pwr.vddFuse = true ∧ s.life = .owned)) ∧
    (∃ (s : State) (a : Bool) (w : Word), (s.fuse.cmd = some w ∧ s.mode.mode = .main ∧ s.save.run = none ∧ s.pwr.vddFuse = true ∧ s.life = .retired)) ∧
    (∃ (s : State) (a : Bool) (w : Word), (s.fuse.cmd = some w ∧ fld w 63 56 = 6 ∧ s.life = .owned)) ∧
    (∃ (s : State) (w arg : Nat) (data : Word), (s.fuse.stopped = false ∧ s.fuse.busy = some (1, w, arg, data) ∧ data ≠ 0) ∧ (s.due s.fuse.since (10 * us * fuseCount 1 data) = true)) ∧
    (∃ (s : State) (op w arg b : Nat) (data : Word), (s.fuse.stopped = false ∧ s.fuse.busy = some (op, w, arg, data) ∧ (op = 2 ∧ b = 0 ∨ op = 3 ∧ b = 1 ∨ op = 4 ∧ b = 4 + arg % 4 ∨ op = 5 ∧ b = 8 + arg % 2)) ∧ (s.due s.fuse.since (20 * us) = true)) ∧
    (∃ (s : State) (k w arg : Nat) (data : Word), (s.fuse.stopped = true ∧ s.fuse.busy = some (1, w, arg, data))) ∧
    (∃ (s : State) (k op w arg : Nat) (data : Word), (s.fuse.busy = some (op, w, arg, data) ∧ op ≠ 1)) ∧
    (∃ (s : State) (full : Bool), (s.mode.mode ≠ .stby ∧ s.boot.done.contains 5 = true ∧ s.life ≠ .retired ∧ s.snapshot ≠ s.fw.stored ∧ s.fw.preserve = false)) ∧
    (∃ (s : State), (s.mode.mode ≠ .stby ∧ s.boot.done.contains 5 = true ∧ s.life ≠ .retired ∧ s.snapshot ≠ s.fw.stored ∧ s.fw.preserve = true)) :=
  ⟨⟨dFuse 0x01000000_00000600, false, 0x01000000_00000600, by decide +kernel⟩,
    ⟨{ dFuse 0x01000000_00000600 with fuse := { (dFuse 0x01000000_00000600).fuse with progd := [6] } }, false, 0x01000000_00000600, by decide +kernel⟩,
    ⟨{ dFuse 0x01000000_00000600 with pwr := { State.reset.pwr with vddFuse := false } }, false, 0x01000000_00000600, by decide +kernel⟩,
    ⟨dFuse 0x02000000_00000000, 0x02000000_00000000, by decide +kernel⟩,
    ⟨dFuse 0x03000000_00000000, false, 0x03000000_00000000, by decide +kernel⟩,
    ⟨{ dFuse 0x04000000_00000000 with fuse := { (dFuse 0x04000000_00000000).fuse with progd := [11, 12, 13, 14, 15, 16] } }, false, 0x04000000_00000000, by decide +kernel⟩,
    ⟨dFuseO 0x03000000_00000000, 0x03000000_00000000, by decide +kernel⟩,
    ⟨dFuseR 0x01000000_00000600, true, 0x01000000_00000600, by decide +kernel⟩,
    ⟨dFuseO 0x06000000_00000000, false, 0x06000000_00000000, by decide +kernel⟩,
    ⟨dBlow 1, 6, 0, 0xFF, by decide +kernel⟩,
    ⟨dBlow 3, 3, 6, 0, 1, 0xFF, by decide +kernel⟩,
    ⟨{ dBlow 1 with fuse := { (dBlow 1).fuse with stopped := true } }, 3, 6, 0, 0xFF, by decide +kernel⟩,
    ⟨dBlow 3, 0, 3, 6, 0, 0xFF, by decide +kernel⟩,
    ⟨dCommit false, false, by decide +kernel⟩,
    ⟨dCommit true, by decide +kernel⟩⟩

/-- States and operands that meet the hypotheses of `Obligations.Management`, clause by clause. -/
theorem witness_Management :
    (∃ (s : State) (a : Nat), (a < 128)) ∧
    (∃ (s : State) (prio : Nat) (items : List Word), (s.mode.mode ≠ .stby ∧ s.mode.mode ≠ .save ∧ prio < 8 ∧ 1 ≤ items.length ∧ items.length ≤ 64)) ∧
    (∃ (s : State) (prio : Nat) (items : List Word), (s.mode.mode = .stby ∨ s.mode.mode = .save)) ∧
    (∃ (s : State) (count : Nat), (s.mode.mode ≠ .stby ∧ s.mode.mode ≠ .save ∧ s.mgmt.results ≠ [] ∧ 0 < count)) ∧
    (∃ (s : State) (e : List Word) (r : List (List Word)), (s.mgmt.events = e :: r)) ∧
    (∃ (s : State) (id : Nat), (s.mayRead 0x103F 1 id false = true ∧ s.preadOk id = true ∧ s.idOk 0x103F 1 id = true ∧ s.idFenced id = false)) ∧
    (∃ (s : State) (ids : List Nat), (ids = [] ∨ 8 < ids.length)) ∧
    (∃ (s : State) (addr opcode : Nat) (data : Line), (s.mgmtLd.1 < s.tiles ∧ s.mode.mode ≠ .stby ∧ s.mode.mode ≠ .save ∧ s.mode.recovery = false)) :=
  ⟨⟨State.reset, 8, by decide +kernel⟩,
    ⟨dStep dMctp, 3, [0], by decide +kernel⟩,
    ⟨dSaving, 3, [0], by decide +kernel⟩,
    ⟨{ dMctp with mgmt := { results := [[1, 2], [3, 4]] } }, 1, by decide +kernel⟩,
    ⟨{ dMctp with mgmt := { events := [[1]] } }, [1], [], by decide +kernel⟩,
    ⟨dMctp, pid bTime 1023 0, by decide +kernel⟩,
    ⟨dMctp, [], by decide +kernel⟩,
    ⟨dMctp, 0, 0x4300, 0, by decide +kernel⟩⟩

/-- States and operands that meet the hypotheses of `Obligations.Idcode`, clause by clause. -/
theorem witness_Idcode :
    (∃ (s : State) (lands : Nat), (s.tap.instr = 1)) ∧
    (∃ (s : State) (lands : Nat), (s.tap.instr = 1 ∧ fld (s.fuseWord 4) 19 16 = 1)) :=
  ⟨⟨State.reset, 0, by decide +kernel⟩,
    ⟨dStepping, 0, by decide +kernel⟩⟩

/-- States and operands that meet the hypotheses of `Obligations.TapInstructions`, clause by clause. -/
theorem witness_TapInstructions :
    (∃ (s : State) (c : Instr), (s.drivingBlocked = true ∧ (c = .extest ∨ c = .clamp ∨ c = .highz ∨ c = .extestPulse ∨ c = .extestTrain))) ∧
    (∃ (s : State), (s.drivingBlocked = false ∧ s.tap.scanHold = false)) ∧
    (∃ (s : State), (s.drivingBlocked = false ∧ s.tap.scanHold = false)) ∧
    (∃ (s : State), (s.drivingBlocked = false ∧ s.tap.scanHold = true)) ∧
    (∃ (s : State) (code : Nat), (0x80 ≤ code ∧ code ≤ 0xFE ∧ s.mode.mode ≠ .stby)) ∧
    (∃ (s : State), (s.tap.scanHold = true ∧ s.tap.handed = false ∧ s.mode.mode = .main ∧ s.save.run.isSome = false)) ∧
    (∃ (s : State) (lands : Nat), (s.tap.instr = 0 ∨ s.tap.instr = 2 ∨ s.tap.instr = 5 ∨ s.tap.instr = 6)) ∧
    (∃ (s : State) (value : Nat), ((s.tap.instr = 0 ∨ s.tap.instr = 2 ∨ s.tap.instr = 5 ∨ s.tap.instr = 6) ∧ (s.tap.scanHold = false ∨ s.tap.handed = true))) ∧
    (∃ (s : State) (value : Nat), (s.tap.scanHold = true ∧ s.tap.handed = false)) :=
  ⟨⟨State.reset, .clamp, by decide +kernel⟩,
    ⟨dScan, by decide +kernel⟩,
    ⟨dScan, by decide +kernel⟩,
    ⟨{ dScan with tap := { scanHold := true } }, by decide +kernel⟩,
    ⟨dScan, 0x80, by decide +kernel⟩,
    ⟨{ dScan with tap := { scanHold := true } }, by decide +kernel⟩,
    ⟨{ dScan with tap := { instr := 0 } }, 9, by decide +kernel⟩,
    ⟨{ dScan with tap := { instr := 0 } }, 9, by decide +kernel⟩,
    ⟨{ dScan with tap := { scanHold := true } }, 9, by decide +kernel⟩⟩

/-- States and operands that meet the hypotheses of `Obligations.StepRunsTheFront`, clause by clause. -/
theorem witness_StepRunsTheFront :
    (∃ (s : State), (s.pending = [])) :=
  ⟨State.reset, by decide +kernel⟩

/-- States and operands that meet the hypotheses of `Obligations.MemoryStaysOk`, clause by clause. -/
theorem witness_MemoryStaysOk :
    (∃ (s t : State), (MemoryOk s) ∧ (step s = .next t)) :=
  ⟨{ State.reset with pending := [.nop 0x1000] }, { State.reset with pending := [] }, by exact ⟨rfl, rfl⟩⟩

/-- States and operands that meet the hypotheses of `Obligations.QueueFrame`, clause by clause. -/
theorem witness_QueueFrame :
    (∃ (c : Instr) (s t : State), (exec c s = .next t)) ∧
    (∃ (s t : State), (step s = .next t)) :=
  ⟨⟨.nop 0x1000, State.reset, State.reset, by rfl⟩,
    ⟨{ State.reset with pending := [.nop 0x1000] }, State.reset, by rfl⟩⟩

/-- States and operands that meet the hypotheses of `Obligations.ProgrammedFusesStay`, clause by clause. -/
theorem witness_ProgrammedFusesStay :
    (∃ (s t : State) (w : Nat), (step s = .next t ∧ w ∈ s.fuse.progd)) :=
  ⟨{ dFuse 0 with fuse := { (dFuse 0).fuse with progd := [6] }, pending := [.nop 0x1000] }, { dFuse 0 with fuse := { (dFuse 0).fuse with progd := [6] } }, 6, by exact ⟨rfl, by decide⟩⟩

end Sys2Proof.Tests
end

section
/-! What every step keeps, from what every command keeps, and the frame of the queue, the part and the clock. -/

namespace Sys2Proof.Machine

theorem KeepsRun.keeps {s t : State} {o : Run} (h : KeepsRun s o) (e : o = .next t) : Keeps s t := by
  rw [e] at h
  exact h

/-- A step is one command on the queue's rest, or a tick on an empty queue: either keeps what every operation keeps. -/
theorem step_keeps (s : State) : KeepsRun { s with pending := s.pending.tail } (step s) := by
  unfold step
  split
  next hp =>
    have hs : Keeps { s with pending := s.pending.tail } s := ⟨id, by simp [hp], rfl, Nat.le_refl _, Nat.le_refl _, fun _ h => h⟩
    exact KeepsRun.next (State.tick_keeps hs)
  next c rest hp =>
    rw [hp]
    exact exec_keeps c { s with pending := rest }

/-- Settles O56: the queue, the part and the clock are among what `exec_keeps` and `step_keeps` keep. -/
theorem queueFrame : Obligations.QueueFrame := by
  unfold Obligations.QueueFrame
  refine ⟨fun c s t h => ?_, fun s t h => ?_⟩
  · have hk : Keeps s t := (exec_keeps c s).keeps h
    exact ⟨hk.pending, hk.part, hk.clock⟩
  · have hk : Keeps { s with pending := s.pending.tail } t := (step_keeps s).keeps h
    exact ⟨hk.pending, hk.part, hk.clock⟩

end Sys2Proof.Machine
end

section
/-! The commands of the Tidemark (01 R31 to R35): what the rate adjustments and a floor entry leave of the state, and each command
under its conditions. -/

namespace Sys2Proof.Machine

/-- Discipline sets the rate of the master within ±100 ppm (01 R33) and notes its time; the count is not among what it writes. -/
theorem State.discipline_eq (s : State) : ∃ r : Int, -100000 ≤ r ∧ r ≤ 100000 ∧
    s.discipline = { s with free := s.free + 1,
                            time := { s.time with master := { s.time.master with rate := r }, disciplined := true, lastSync := s.clock } } := by
  refine ⟨((Config.freeWord s.free).toNat % 200001 : Nat) - 100000, ?_, ?_, rfl⟩
  · omega
  · have := Nat.mod_lt (Config.freeWord s.free).toNat (show 0 < 200001 by decide)
    omega

/-- The entry of a new floor is the last of the log of the copy in use, whether it was appended there or begins the other copy. -/
theorem State.floorTo_getLast (s : State) (f : Nat) :
    (Store.read (s.floorTo f).fw.floorLog (s.floorTo f).fw.floorCopy []).getLast? = some (floorEntry f s.fw.floors) := by
  unfold State.floorTo
  dsimp only
  rw [Store.read_write_same]
  split
  · rfl
  · exact List.getLast?_concat

/-- A sync message at a running tile (01 R31): the skew is what was measured, and of the local count only the rate is new. -/
theorem exec_tidemarkSync_running {s : State} {tile : Nat} (hon : s.time.master.on = true) (ht : tile < s.tiles)
    (hf : s.tileFenced tile = false) (hl : (Store.read s.time.locals tile {}).on = true) :
    ∃ r : Int, exec (.tidemarkSync tile) s = .next
      { s with free := s.free + 1,
               time := { s.time with
                 skew := Store.write s.time.skew tile (Int.ofNat (Store.read s.time.locals tile {}).count - Int.ofNat s.time.master.count) 0,
                 locals := Store.write s.time.locals tile { Store.read s.time.locals tile {} with rate := r } {} } } := by
  refine ⟨(s.slew (-(Int.ofNat (Store.read s.time.locals tile {}).count - Int.ofNat s.time.master.count))).1, ?_⟩
  show execTidemarkSync tile s = _
  unfold execTidemarkSync
  rw [if_pos ⟨hon, ht, by rw [hf]; rfl, hl⟩]
  rfl

/-- The state that has taken note of an edge of TSYNC_IN in this cycle (01 R33). -/
def State.noteEdge (s : State) : State := { s with time := { s.time with lastEdge := s.clock, edgeSeen := true } }

/-- An edge after an interval within 100 ppm of 1 s, with TSYNC_IN as the source (01 R33). -/
theorem exec_tsyncIn_accepted {s : State} (hm : s.mode.mode ≠ .stby) (hmirs : s.mode.mode ≠ .mirs) (hon : s.time.master.on = true)
    (hsrc : s.devP bTime 0 = 2) (hin : sec - 400000 ≤ s.clock - s.time.lastEdge ∧ s.clock - s.time.lastEdge ≤ sec + 400000) :
    exec .tsyncIn s = .next s.noteEdge.discipline := by
  have hgood : ¬ (!(!s.time.edgeSeen || decide (sec - 400000 ≤ s.clock - s.time.lastEdge ∧ s.clock - s.time.lastEdge ≤ sec + 400000))) = true := by
    rw [decide_eq_true hin, Bool.or_true]
    decide
  show execTsyncIn s = _
  unfold execTsyncIn
  rw [if_neg (by simp [hm, hon])]
  exact congrArg Host.Outcome.next ((if_neg hgood).trans (if_pos ⟨hsrc, hmirs⟩))

/-- An edge after an interval more than 100 ppm off (19 R536). -/
theorem exec_tsyncIn_refused {s : State} (hm : s.mode.mode ≠ .stby) (hon : s.time.master.on = true) (hseen : s.time.edgeSeen = true)
    (hoff : s.clock - s.time.lastEdge < sec - 400000 ∨ sec + 400000 < s.clock - s.time.lastEdge) :
    exec .tsyncIn s = .next (s.noteEdge.log 0 4 bTime 1023 0x08 0 0) := by
  have hbad : (!(!s.time.edgeSeen || decide (sec - 400000 ≤ s.clock - s.time.lastEdge ∧ s.clock - s.time.lastEdge ≤ sec + 400000))) = true := by
    rw [hseen, decide_eq_false (by omega)]
    rfl
  show execTsyncIn s = _
  unfold execTsyncIn
  rw [if_neg (by simp [hm, hon])]
  exact congrArg Host.Outcome.next (if_pos hbad)

/-- The bound of a skew in ticks (01 Table 1-9): of a tile, of the pair, in the fabric. -/
def skewBound : Nat → Nat
  | 0 => 1
  | 1 => 4
  | _ => 80

theorem skewBound_le (between : Nat) : skewBound between ≤ 80 := by
  unfold skewBound
  split <;> decide

/-- A skew above its bound is logged: on its tile, or on the lead tile (01 R32). -/
theorem exec_skewLimit_above {s : State} {between tile ticks : Nat} (hm : [Mode.actv, .mirs, .solo].contains s.mode.mode = true)
    (hb : skewBound between < ticks) :
    exec (.skewLimit between tile ticks) s = .next (s.log (if between = 0 then tile else 0) 4 bTime 1023 0x03 0 ticks) :=
  congrArg Host.Outcome.next (if_pos ⟨hm, hb⟩)

/-- Settles O40, clause by clause from what each command does under its conditions. -/
theorem tidemarkCommands : Obligations.TidemarkCommands := by
  unfold Obligations.TidemarkCommands
  refine ⟨?sync, ?edge, ?badEdge, ?exchange, ?timeout, ?floor, ?noFloor, ?skew⟩
  case sync =>
    rintro s tile ⟨hon, ht, hf, hl⟩
    obtain ⟨r, he⟩ := exec_tidemarkSync_running hon ht hf hl
    exact ⟨_, he, by simp⟩
  case edge =>
    rintro s ⟨hm, hmirs, hon, hsrc, -⟩ hin
    obtain ⟨r, hr, hr', he⟩ := s.noteEdge.discipline_eq
    refine ⟨_, exec_tsyncIn_accepted hm hmirs hon hsrc hin, ?_⟩
    rw [he]
    exact ⟨rfl, rfl, rfl, rfl, hr, hr'⟩
  case badEdge =>
    rintro s ⟨hm, hon, hseen⟩ hoff
    exact exec_tsyncIn_refused hm hon hseen hoff
  case exchange =>
    intro s tile link h
    obtain ⟨r, -, -, he⟩ := s.discipline_eq
    refine ⟨congrArg Host.Outcome.next (if_pos h), ?_⟩
    rw [he]
    exact ⟨rfl, rfl, rfl⟩
  case timeout =>
    intro s h
    exact congrArg Host.Outcome.next (if_pos h)
  case floor =>
    intro s h
    exact ⟨s.appendFloor, congrArg Host.Outcome.next (if_pos h), rfl, rfl, rfl, s.floorTo_getLast _, rfl, rfl, rfl⟩
  case noFloor =>
    intro s h
    exact congrArg Host.Outcome.next (if_neg fun hc => by omega)
  case skew =>
    rintro s tile ticks ⟨hm, ht⟩
    have hb : ∀ between, skewBound between < ticks := fun between => (skewBound_le between).trans_lt ht
    exact ⟨exec_skewLimit_above hm (hb 0), exec_skewLimit_above hm (hb 1), exec_skewLimit_above hm (hb 2)⟩

end Sys2Proof.Machine
end

section
/-! What reset leaves, and two statements of the bring-up that a cycle's sampler phase refutes: `State.master` is a stamp, the master's
count and the ticks that the four-phase sampler supplies in this cycle (01 R31; log 142), and the device works with one of them where the
statement names the other. -/

namespace Sys2Proof.Machine

/-- Settles O53: each field of `State.reset` stands in it, and a store that lists nothing reads its default. -/
theorem resetState : Obligations.ResetState := by
  unfold Obligations.ResetState
  refine ⟨rfl, rfl, rfl, rfl, rfl, rfl, rfl, rfl, rfl, rfl, rfl, rfl, rfl, rfl, rfl, rfl, rfl, ?params, ?counters⟩
  case params => exact fun _ _ => rfl
  case counters => exact fun _ => ⟨rfl, rfl⟩

/-- Reset, but in BRUP with the steps `done` of the start ended, in a cycle whose stamps fall one tick into it. -/
def brupAtPhaseOne (done : List Nat) : State :=
  { State.reset with mode := { mode := .brup }, boot := { State.reset.boot with done }, time := { State.reset.time with phase := 1 } }

/-- The floor after a command. -/
def floorAfter (o : Run) : Option Nat :=
  match o with
  | .next t => some t.time.floor
  | _ => none

/-- The floor entry of a start lies 2⁴⁰ above the stamp that the master gives, one tick above its count here. -/
theorem floorAfter_firmwareStart :
    floorAfter (exec (.firmwareStart false false [] [] []) (brupAtPhaseOne [3, 4])) = some (2 ^ 32 + 1 + 2 ^ 40) := by
  decide +kernel

/-- Refutes O16: the floor entry of a firmware start is 2⁴⁰ above the stamp of the master (`State.appendFloor`), and the statement puts it
2⁴⁰ above the count that was loaded; in a cycle of phase 1 the two are one tick apart. -/
theorem not_startOfTheDevice : ¬ Obligations.StartOfTheDevice := by
  unfold Obligations.StartOfTheDevice
  rintro ⟨-, -, -, -, -, -, -, -, -, -, start⟩
  obtain ⟨t, ht, -, hfloor, -⟩ := start (brupAtPhaseOne [3, 4]) [] (by decide)
  have hexec : some t.time.floor = some (2 ^ 32 + 1 + 2 ^ 40) := by
    rw [← floorAfter_firmwareStart, ht]
    rfl
  rw [hfloor] at hexec
  exact absurd hexec (by decide)

/-- Reset but for a master that runs and stands at 0, in ACTV after step 5, in a cycle of phase 1. -/
def masterAtPhaseOne : State :=
  { State.reset with mode := { mode := .actv }, boot := { State.reset.boot with done := [5] },
                     time := { State.reset.time with phase := 1, master := { on := true } } }

/-- The local counts after a command. -/
def localsAfter (o : Run) : Option (Store Count) :=
  match o with
  | .next t => some t.time.locals
  | _ => none

/-- Refutes O17: a trained UCIe link loads the local count with the count of the master (01 R31), and the statement with its stamp; in a
cycle of phase 1 the two are one tick apart. -/
theorem not_bringUp : ¬ Obligations.BringUp := by
  unfold Obligations.BringUp
  rintro ⟨trained, -⟩
  have hstated := congrArg localsAfter (trained masterAtPhaseOne 3 (by decide) (by decide) (by decide) (by decide))
  have hexec : localsAfter (exec (.ucieLinkTrained 3) masterAtPhaseOne) = some [(3, { on := true, count := 0 })] := by decide +kernel
  rw [hexec] at hstated
  exact absurd hstated (by decide)

end Sys2Proof.Machine
end

section
/-! The commands of the Spring tide (12 R380 to R383): each command under its conditions, and what restoring and telling a tide leave of the
state. -/

namespace Sys2Proof.Machine

/-- Restoring the values that a tide has replaced writes parameters alone. -/
theorem State.restore_eq (s : State) (undo : List (Nat × Nat × Word)) : s.restore undo = { s with params := (s.restore undo).params } := by
  unfold State.restore
  induction undo generalizing s with
  | nil => rfl
  | cons u us ih => exact ih (s.setParam u.1 u.2.1 u.2.2)

/-- A message to the standby is an output. -/
theorem State.tellTide_eq (s : State) (name : Nat) (m : TideMsg) : s.tellTide name m = { s with out := (s.tellTide name m).out } := by
  unfold State.tellTide
  split <;> rfl

/-- A tide that no context waits for has no outcome to tell. -/
theorem State.tideOutcome_of_ctx_none {s : State} {d : Tide} (h : d.ctx = none) (ok : Bool) : s.tideOutcome d ok = s := by
  unfold State.tideOutcome
  rw [h]

theorem State.followSave_of_run_none {s : State} (h : s.save.run = none) : s.followSave = s := by
  unfold State.followSave
  rw [h]

theorem State.leaveAgain_of_run_none {s : State} (h : s.save.run = none) : s.leaveAgain = s := by
  unfold State.leaveAgain
  rw [h]

/-- The state in which the old values and the old mode of a tide stand again (12 R382). -/
def State.turnedBack (s : State) (d : Tide) : State :=
  (({ s.restore d.undo with mode := match d.oldMode with
      | some m => { s.mode with mode := m.mode, prev := m.prev, cause := m.cause, stamp := m.stamp, soloMain := m.soloMain }
      | none => s.mode } : State).setTide { d with phase := .backSwapped }).tellTide d.name .rollback

theorem State.turnedBack_mode (s : State) {d : Tide} {m : ModeS} (h : d.oldMode = some m) :
    (s.turnedBack d).mode = { s.mode with mode := m.mode, prev := m.prev, cause := m.cause, stamp := m.stamp, soloMain := m.soloMain } := by
  rw [State.turnedBack, State.tellTide_eq, State.setTide]
  simp only [h]

@[simp] theorem State.turnedBack_params (s : State) (d : Tide) : (s.turnedBack d).params = (s.restore d.undo).params := by
  rw [State.turnedBack, State.tellTide_eq]
  rfl

@[simp] theorem State.turnedBack_tides (s : State) (d : Tide) :
    (s.turnedBack d).tides = s.tides.map (fun x => if x.name = d.name then { d with phase := .backSwapped } else x) := by
  rw [State.turnedBack, State.tellTide_eq, State.restore_eq]
  rfl

@[simp] theorem State.turnedBack_dram (s : State) (d : Tide) : (s.turnedBack d).dram = s.dram := by
  rw [State.turnedBack, State.tellTide_eq, State.restore_eq]
  rfl

@[simp] theorem State.turnedBack_save (s : State) (d : Tide) : (s.turnedBack d).save = s.save := by
  rw [State.turnedBack, State.tellTide_eq, State.restore_eq]
  rfl

/-- At T + 8 µs, of a tide of the device's own and without a save. -/
theorem exec_swapBack {s : State} {d : Tide} (hnow : s.tideNow = some d) (hphase : d.phase = .swapBack) (htime : d.at_ + 32000 ≤ s.master)
    (hctx : d.ctx = none) (hrun : s.save.run = none) :
    exec .swapBack s = .next (s.turnedBack d) := by
  have hrun' : (s.turnedBack d).save.run = none := by rw [State.turnedBack_save, hrun]
  have hmode : (s.restore d.undo).mode = s.mode := by rw [State.restore_eq]
  show execSwapBack s = _
  unfold execSwapBack
  simp only [hnow]
  rw [if_pos ⟨hphase, htime⟩, State.tideOutcome_of_ctx_none hctx, hmode]
  show Host.Outcome.next (s.turnedBack d).followSave.leaveAgain = _
  rw [State.followSave_of_run_none hrun', State.leaveAgain_of_run_none hrun']

theorem exec_swapBack_early {s : State} {d : Tide} (hnow : s.tideNow = some d) (htime : s.master < d.at_ + 32000) : exec .swapBack s = .next s := by
  show execSwapBack s = _
  unfold execSwapBack
  simp only [hnow]
  rw [if_neg fun hc => by omega]

/-- No tide of the standby and none in progress: the device looks at its earliest tide. -/
theorem exec_springTide_own {s : State} {d : Tide} (htwin : s.twinTides = []) (hnow : s.tideNow = none) (hleast : leastBy Tide.at_ s.tides = some d) :
    exec .springTide s = .next (if d.at_ ≤ s.master then s.swap d else s) := by
  show execSpringTide s = _
  simp only [execSpringTide, htwin, hnow, hleast, List.find?_nil]

/-- A tide of the active unit at its instant. -/
theorem exec_springTide_twin {s : State} {d : Tide} (htwin : s.twinTides = [d]) (hphase : d.phase = .named) (htime : d.at_ ≤ s.master) :
    exec .springTide s = .next (s.swapTwin d) := by
  have hdue : s.twinTides.find? (fun d => !d.passed && decide (d.at_ ≤ s.master)) = some d := by
    rw [htwin]
    simp [Tide.passed, hphase, htime]
  show execSpringTide s = _
  simp only [execSpringTide, hdue]

/-- A field of another parameter than `sys.mode_target` asks for no mode. -/
theorem State.swapMode_field (s : State) {id n hi lo v : Nat} (h : id ≠ pid bSys 1023 2) : s.swapMode (.field id n hi lo v) = s := by
  have hmode : s.entryMode (.field id n hi lo v) = none := by simp [State.entryMode, h]
  simp only [State.swapMode, hmode]

/-- The swap of a tide that stages one whole word. -/
theorem State.swap_field {s : State} {d : Tide} {id v : Nat} {p : PSpec} (hchanges : d.changes = [⟨.field id 0 63 0 v, 0⟩])
    (hid : id ≠ pid bSys 1023 2) (hspec : pspec s.tiles id = some p) :
    s.swap d = (s.setTide { d with phase := .swapped, undo := [(id, 0, s.param id 0)], oldMode := some s.mode, units := s.tideUnits }).setParam id 0
      (mergeStg p.fields 63 0 (s.param id 0) (BitVec.ofNat 64 v)) := by
  unfold State.swap
  simp only [hchanges, List.foldl_cons, List.foldl_nil, State.swapMode_field _ hid, State.undoOf, List.filterMap_cons, List.filterMap_nil]
  have hspec' (e : Tide) : pspec (s.setTide e).tiles id = some p := hspec
  simp only [State.applyField, hspec']
  rfl

/-- A confirmation of a unit of the tide that has not confirmed yet. -/
theorem exec_tideConfirm {s : State} {d : Tide} {u : TideUnit} (hnow : s.tideNow = some d) (hphase : d.phase = .swapped)
    (hu : u ∈ d.units) (hnew : u ∉ d.confirmed) :
    exec (.tideConfirm u.standby u.tile) s = .next (if s.master ≤ s.confirmBy d u then s.setTide { d with confirmed := d.confirmed ++ [u] } else s) := by
  show execTideConfirm u.standby u.tile s = _
  simp [execTideConfirm, hnow, hphase, hu, hnew]

/-- A unit that the coordinator waits for has not confirmed: no release. -/
theorem exec_tideRelease_waits {s : State} {d : Tide} {u : TideUnit} (standby : Bool) (tile : Nat) (hnow : s.tideNow = some d)
    (hphase : d.phase = .swapped) (hu : u ∈ d.units) (hwaits : s.unitWaits u = true) (hnew : u ∉ d.confirmed) :
    exec (.tideRelease standby tile) s = .next s := by
  have hall : ¬ d.units.all (fun v => !s.unitWaits v || d.confirmed.contains v) = true := by
    simp only [List.all_eq_true, not_forall]
    exact ⟨u, hu, by simp [hwaits, hnew]⟩
  show execTideRelease standby tile s = _
  simp only [execTideRelease, hnow, if_pos hphase, if_neg hall, ite_self]

/-- Every unit that the coordinator waits for has confirmed. -/
theorem exec_tideRelease_held {s : State} {d : Tide} {u : TideUnit} (hnow : s.tideNow = some d)
    (hphase : d.phase = .swapped) (hu : u ∈ d.units) (hall : d.units.all (fun v => !s.unitWaits v || d.confirmed.contains v) = true) :
    exec (.tideRelease u.standby u.tile) s = .next (match (s.tideHeld d).tides.find? (fun x => decide (x.name = d.name)) with
      | some d' => (s.tideHeld d).liftHold d' u
      | none => s.tideHeld d) := by
  have hc : ¬ (!d.units.contains u) = true := by simp [hu]
  show execTideRelease u.standby u.tile s = _
  unfold execTideRelease
  rw [hnow]
  exact congrArg Host.Outcome.next ((if_neg hc).trans ((if_pos hphase).trans (if_pos hall)))

/-- The units that are late at the deadline of a tide. -/
def State.lateUnits (s : State) (d : Tide) : List TideUnit :=
  d.units.filter (fun u => s.unitWaits u && !d.confirmed.contains u && decide (s.confirmBy d u < s.master))

/-- The tide that has one late unit: a tide into SAVE leaves the unit out (02 R55), any other turns back (12 R382). -/
def Tide.withLate (d : Tide) (u : TideUnit) : Tide :=
  if d.toSave then { d with late := [u], units := d.units.filter (fun v => decide (v ≠ u)) } else { d with phase := .swapBack, late := [u] }

/-- One tile is late at the deadline: it is fenced. -/
theorem exec_tideConfirmDeadline_tile {s : State} {d : Tide} {t : Nat} (hnow : s.tideNow = some d) (hphase : d.phase = .swapped)
    (hlate : s.lateUnits d = [⟨false, t⟩]) :
    exec .tideConfirmDeadline s = .next ((s.setTide (d.withLate ⟨false, t⟩)).raiseFence 0xA 0 t 0x02 3) := by
  have hunits : d.units.filter (fun u => !([⟨false, t⟩] : List TideUnit).contains u) = d.units.filter (fun v => decide (v ≠ ⟨false, t⟩)) :=
    List.filter_congr fun u _ => by simp
  have hgo : ¬ (d.phase ≠ .swapped ∨ (s.lateUnits d).isEmpty = true) := by simp [hphase, hlate]
  show execTideConfirmDeadline s = _
  unfold execTideConfirmDeadline
  rw [hnow]
  refine congrArg Host.Outcome.next ((if_neg hgo).trans ?_)
  show (s.lateUnits d).foldl State.fenceLate (s.setTide (if d.toSave then { d with late := s.lateUnits d, units := d.units.filter (fun u => !(s.lateUnits d).contains u) }
    else { d with phase := .swapBack, late := s.lateUnits d })) = _
  rw [hlate, hunits]
  rfl

theorem State.nameMode_of_not_named {s : State} (h : s.modeNamed = false) (m : Mode) (cause : Nat) :
    s.nameMode m cause = s.addTide s.deviceInstant [⟨.mode m cause, 0⟩] none := by
  unfold State.nameMode
  rw [h]
  rfl

/-- A request for MAIN from SOLO, once nothing is dirty. -/
theorem exec_mainEntry {s : State} (hsolo : s.mode.soloMain = true) (hmode : s.mode.mode = .solo) (hclean : ∀ t ∈ s.tileList, s.dirtyCount t = 0) :
    exec .mainEntry s = .next (s.nameMode .main 2) :=
  congrArg Host.Outcome.next (if_pos ⟨hsolo, hmode, by simpa using hclean⟩)

/-- Settles O25, clause by clause from what each command does under its conditions. -/
theorem springTides : Obligations.SpringTides := by
  unfold Obligations.SpringTides
  refine ⟨?own, ?field, ?twin, ?confirm, ?waits, ?held, ?late, ?lateSave, ?back, ?early, ?main⟩
  case own =>
    rintro s d ⟨htwin, hnow⟩ hleast
    exact exec_springTide_own htwin hnow hleast
  case field =>
    rintro s d id v p ⟨htides, hchanges⟩ ⟨hid, hspec⟩
    rw [State.swap_field hchanges hid hspec]
    refine ⟨State.param_setParam .., rfl, rfl, ?_⟩
    simp [State.setTide, htides]
  case twin =>
    rintro s d ⟨htwin, hphase, htime⟩
    exact exec_springTide_twin htwin hphase htime
  case confirm =>
    rintro s d standby tile ⟨hnow, hphase⟩ ⟨hu, hnew⟩
    exact exec_tideConfirm hnow hphase hu hnew
  case waits =>
    rintro s d standby tile u ⟨hnow, hphase⟩ ⟨hu, hwaits, hnew⟩
    exact exec_tideRelease_waits standby tile hnow hphase hu hwaits hnew
  case held =>
    rintro s d standby tile ⟨hnow, hphase, hu⟩ hall
    exact exec_tideRelease_held hnow hphase hu hall
  case late =>
    rintro s d ⟨hnow, hphase, hsave⟩ hlate
    rw [exec_tideConfirmDeadline_tile hnow hphase hlate, Tide.withLate, hsave]
    rfl
  case lateSave =>
    rintro s d ⟨hnow, hphase, hsave⟩ hlate
    rw [exec_tideConfirmDeadline_tile hnow hphase hlate, Tide.withLate, hsave]
    rfl
  case back =>
    rintro s d m ⟨hnow, hphase, hold⟩ ⟨htime, hctx, hrun⟩
    exact ⟨_, exec_swapBack hnow hphase htime hctx hrun, s.turnedBack_mode hold, s.turnedBack_params d, s.turnedBack_tides d, s.turnedBack_dram d⟩
  case early =>
    rintro s d ⟨hnow, htime⟩
    exact exec_swapBack_early hnow htime
  case main =>
    rintro s ⟨hsolo, hmode, hnamed⟩ hclean
    rw [exec_mainEntry hsolo hmode hclean, State.nameMode_of_not_named hnamed]

end Sys2Proof.Machine
end

section
/-! Events write parameters of the recorder alone: every parameter whose ID lies below those of its tile's recorder reads as before. -/

namespace Sys2Proof.Machine

/-- Every parameter whose ID lies below `b` reads the same. -/
def SameBelow (b : Nat) (s t : State) : Prop := ∀ id, id < b → t.param id 0 = s.param id 0

theorem SameBelow.refl (b : Nat) (s : State) : SameBelow b s s := fun _ _ => rfl

theorem SameBelow.trans {b : Nat} {s t u : State} (h : SameBelow b s t) (k : SameBelow b t u) : SameBelow b s u :=
  fun id hid => (k id hid).trans (h id hid)

theorem SameBelow.foldl {α : Type} {b : Nat} {f : State → α → State} (h : ∀ s a, SameBelow b s (f s a)) (l : List α) (s : State) :
    SameBelow b s (l.foldl f s) := by
  induction l generalizing s with
  | nil => exact .refl b s
  | cons a l ih => exact (h s a).trans (ih (f s a))

@[simp] theorem pkey_zero (id : Nat) : pkey id 0 = id := by
  unfold pkey
  split <;> simp

theorem State.param_setParam_ne (s : State) {i j : Nat} (w : Word) (h : j ≠ i) : (s.setParam i 0 w).param j 0 = s.param j 0 :=
  Store.read_write_ne _ _ _ _ (by simpa using h)

theorem SameBelow.setParam {b : Nat} (s : State) {i : Nat} (w : Word) (h : b ≤ i) : SameBelow b s (s.setParam i 0 w) :=
  fun id hid => s.param_setParam_ne w (by omega)

theorem SameBelow.setRt (b : Nat) (s : State) (t : Nat) (x : RecTile) : SameBelow b s (s.setRt t x) := fun _ _ => rfl

theorem SameBelow.setCtr (b : Nat) (s : State) (k : Nat) (c : Ctr) : SameBelow b s (s.setCtr k c) := fun _ _ => rfl

theorem State.dropRec_sameBelow (s : State) (t v : Nat) : SameBelow (pid bRec t 0) s (s.dropRec t v) :=
  .setParam s _ (by unfold pid; omega)

theorem State.storeRec_sameBelow (s : State) (r : Rec) : SameBelow (pid bRec r.tile 0) s (s.storeRec r).1 := by
  have hlost (x : RecTile) (v : Nat) : SameBelow (pid bRec r.tile 0) s ((s.setRt r.tile x).dropRec r.tile v) :=
    (SameBelow.setRt _ _ _ _).trans (State.dropRec_sameBelow _ _ _)
  unfold State.storeRec
  dsimp only
  split
  · exact .setRt _ _ _ _
  · split
    · split
      · split
        · exact hlost _ _
        · exact hlost _ _
      · exact hlost _ _
    · exact hlost _ _

theorem State.flushCauses_sameBelow (s : State) (b t sev : Nat) : SameBelow b s (s.flushCauses t sev) := by
  unfold State.flushCauses
  split
  · exact .foldl (fun _ _ => .setRt _ _ _ _) _ _
  · split
    · exact .setRt _ _ _ _
    · exact .refl b s

theorem State.applyTrig_sameBelow (s : State) (t j : Nat) : SameBelow (pid bRec t 0) s (s.applyTrig t j) := by
  unfold State.applyTrig
  dsimp only
  split
  · exact (SameBelow.setRt _ _ _ _).trans (.setParam _ _ (by unfold pid; omega))
  · exact .setRt _ _ _ _

theorem State.makeRec_sameBelow (s : State) (t sev code src pl ctx arg : Nat) (l : List Word) :
    SameBelow (pid bRec t 0) s (s.makeRec t sev code src pl ctx arg l).1 := by
  have hstore (r : Rec) (hr : r.tile = t) : SameBelow (pid bRec t 0) s (s.storeRec r).1 := hr ▸ s.storeRec_sameBelow r
  unfold State.makeRec
  split
  · exact .refl _ s
  · dsimp only
    split
    · split
      · exact (hstore _ rfl).trans (State.flushCauses_sameBelow _ _ _ _)
      · exact ((hstore _ rfl).trans (State.applyTrig_sameBelow _ _ _)).trans (State.flushCauses_sameBelow _ _ _ _)
    · exact (hstore _ rfl).trans (State.flushCauses_sameBelow _ _ _ _)

theorem State.bump_sameBelow (s : State) (t b k : Nat) : SameBelow (pid bRec t 0) s (s.bump t b k) := by
  unfold State.bump
  dsimp only
  split
  · exact .setCtr _ _ _ _
  · exact (SameBelow.setCtr _ _ _ _).trans (State.makeRec_sameBelow _ _ _ _ _ _ _ _ _)

theorem State.tally_sameBelow (s : State) (t b e : Nat) (a : Attr) : SameBelow (pid bRec t 0) s (s.tally t b e a) := by
  have hcounters (blk idx : Nat → Nat) (n : Nat) (s : State) : SameBelow (pid bRec t 0) s
      ((List.range n).foldl (fun s k => if s.counts t (blk k) (idx k) b e a then s.bump t (blk k) (idx k) else s) s) :=
    .foldl (fun s k => by split; exacts [s.bump_sameBelow _ _ _, .refl _ s]) _ _
  unfold State.tally
  split
  · exact .refl _ s
  · exact (hcounters (fun _ => b) (fun k => k) 16 s).trans (hcounters (fun k => 38 + k / 16) (fun k => k % 16) 32 _)

theorem State.tallyRec_sameBelow (s : State) (t : Nat) (m : Option Bool) : SameBelow (pid bRec t 0) s (s.tallyRec t m) := by
  unfold State.tallyRec
  split
  · exact .refl _ s
  · dsimp only
    split
    · exact (State.tally_sameBelow _ _ _ _ _).trans (State.tally_sameBelow _ _ _ _ _)
    · exact State.tally_sameBelow _ _ _ _ _

/-- An event of a tile leaves every parameter below those of the tile's recorder. -/
theorem State.log_sameBelow (s : State) (t v b i k d a : Nat) : SameBelow (pid bRec t 0) s (s.log t v b i k d a) :=
  (State.makeRec_sameBelow _ _ _ _ _ _ _ _ _).trans (State.tallyRec_sameBelow _ _ _)

end Sys2Proof.Machine
end

section
/-! The commands of DRAM discovery, training and changes of bank (05 R140 to R143; 06 R167 to R180): what the shared operations of a channel
leave of the state, and each command under its conditions. -/

namespace Sys2Proof.Machine

/-- Only the channels of the DRAM controllers and their integrity records differ. -/
def OnlyChans (s t : State) : Prop := ∃ ch ic, t = { s with chans := ch, ich := ic }

theorem OnlyChans.refl (s : State) : OnlyChans s s := ⟨s.chans, s.ich, rfl⟩

theorem OnlyChans.trans {s t u : State} (h : OnlyChans s t) (k : OnlyChans t u) : OnlyChans s u := by
  obtain ⟨_, _, rfl⟩ := h
  obtain ⟨_, _, rfl⟩ := k
  exact ⟨_, _, rfl⟩

theorem OnlyChans.foldl {α : Type} {f : State → α → State} (h : ∀ s a, OnlyChans s (f s a)) (l : List α) (s : State) : OnlyChans s (l.foldl f s) := by
  induction l generalizing s with
  | nil => exact .refl s
  | cons a l ih => exact (h s a).trans (ih (f s a))

theorem OnlyChans.setChan (s : State) (t c : Nat) (x : Chan) : OnlyChans s (s.setChan t c x) := ⟨_, _, rfl⟩

theorem OnlyChans.setIc (s : State) (t c : Nat) (x : IntCh) : OnlyChans s (s.setIc t c x) := ⟨_, _, rfl⟩

theorem State.startTrain_only (s : State) (t c : Nat) (bankH : Bool) (why : TrainFor) (rate step : Nat) :
    OnlyChans s (s.startTrain t c bankH why rate step) := .setChan _ _ _ _

/-- What follows a tile's geometry in its population: the channels take the times of their slots, the DIMMs count as found, and bank L trains. -/
def State.trainSlots (s : State) (tile : Nat) (slots : List SlotRead) : State :=
  let s := (List.range 4).foldl (fun (s : State) c => s.setChan tile c { s.chan tile c with spd := slotTimes slots c, pracDimm := slotPrac slots c }) s
  let s := { s with boot := { s.boot with dimms := insertNat tile s.boot.dimms } }
  (List.range 4).foldl (fun s c =>
    if s.chStops tile c then s
    else if (s.chan tile c).power = .selfRefresh ∧ (s.chan tile c).validL ∧ s.choosePath tile = 2 then s
    else (s.setIc tile c { s.ic tile c with convPtr := 0, convDone := false }).startTrain tile c false .start 32 1) s

theorem State.trainSlots_only (s : State) (tile : Nat) (slots : List SlotRead) :
    OnlyChans { s with boot := { s.boot with dimms := insertNat tile s.boot.dimms } } (s.trainSlots tile slots) := by
  have hslots (s : State) : OnlyChans s ((List.range 4).foldl (fun (s : State) c =>
      s.setChan tile c { s.chan tile c with spd := slotTimes slots c, pracDimm := slotPrac slots c }) s) :=
    .foldl (fun _ _ => .setChan _ _ _ _) _ s
  obtain ⟨ch, ic, he⟩ := hslots s
  unfold State.trainSlots
  rw [he]
  refine OnlyChans.trans ⟨ch, ic, rfl⟩ (.foldl (fun s c => ?_) _ _)
  split
  · exact .refl s
  · split
    · exact .refl s
    · exact (OnlyChans.setIc _ _ _ _).trans (State.startTrain_only _ _ _ _ _ _ _)

/-- A population that has a rate sets `dram.geom` (05 R142, R143). -/
theorem State.populate_some (s : State) (tile : Nat) (slots : List SlotRead) (d : Spd) (sb r : Nat) :
    ∃ x : DramTile, x.geom = geomWord d sb r ∧ s.populate tile slots d sb (some r) = (s.setDt tile x).trainSlots tile slots :=
  ⟨{ s.dt tile with geom := geomWord d sb r, spdRate := d.rate, htLen := s.htNeed tile }, rfl, rfl⟩

/-- DIMM_DISCOVERY of a tile that has not been discovered yet. -/
theorem exec_dimmDiscovery {s : State} {tile : Nat} (s0 s1 s2 s3 s4 s5 s6 s7 : SlotRead) (ht : tile < s.tiles) (hruns : s.stepRuns 6 = true)
    (hnew : tile ∉ s.boot.dimms) (hf : s.tileFenced tile = false) :
    exec (.dimmDiscovery tile s0 s1 s2 s3 s4 s5 s6 s7) s = .next (s.discovered tile [s0, s1, s2, s3, s4, s5, s6, s7]) :=
  congrArg Host.Outcome.next (if_pos (by simp [ht, hruns, hnew, hf]))

/-- A step without training rows makes no ACT. -/
theorem State.trainActs_of_ne (s : State) (t c : Nat) {step : Nat} (h8 : step ≠ 8) (h10 : step ≠ 10) : s.trainActs t c step = s :=
  if_neg (by simp [h8, h10])

theorem State.trainActs_ten (s : State) (t c : Nat) :
    s.trainActs t c 10 = (s.ranks t).foldl (fun (s : State) k => s.activate t c (k * 64) (2 ^ s.rowBits t - 8)) s := if_pos (.inr rfl)

section Step

variable {s : State} {tile channel : Nat} {r : Train}

/-- DRAM_TRAINING_STEP of a channel in training that no fence stops (06 R167, R168). -/
theorem exec_dramTrainingStep (htrain : (s.chan tile channel).train = some r) (hpassed : r.passed = false) (hstops : s.chStops tile channel = false)
    (pass : Bool) :
    exec (.dramTrainingStep tile channel pass) s = .next (
      let u := s.trainActs tile channel r.step
      let x := u.chan tile channel
      if pass then
        if r.step = 10 then u.setChan tile channel { x with train := some { r with passed := true, failed := false } }
        else u.setChan tile channel { x with train := some { r with step := r.step + 1, failed := false } }
      else if !r.failed then u.setChan tile channel { x with train := some { r with failed := true } }
      else u.trainFailed tile channel r) := by
  have hgo : ¬ (r.passed || (s.chStops tile channel && decide (r.why ≠ .unitReset))) = true := by simp [hpassed, hstops]
  show execDramTrainingStep tile channel pass s = _
  unfold execDramTrainingStep
  rw [htrain]
  exact congrArg Host.Outcome.next (if_neg hgo)

/-- DRAM_TRAINING_COMPLETE of a channel in training that no fence stops (06 R169). -/
theorem exec_dramTrainingComplete (htrain : (s.chan tile channel).train = some r) (hpassed : r.passed = true) (hstops : s.chStops tile channel = false) :
    exec (.dramTrainingComplete tile channel) s = .next (
      (s.newBank tile channel r.bankH r.rate).trained tile channel r ((s.newBank tile channel r.bankH r.rate).trainedBank tile channel r)) := by
  have hgo : ¬ (!r.passed || (s.chStops tile channel && decide (r.why ≠ .unitReset))) = true := by simp [hpassed, hstops]
  show execDramTrainingComplete tile channel s = _
  unfold execDramTrainingComplete
  rw [htrain]
  exact congrArg Host.Outcome.next (if_neg hgo)

end Step

/-- The channel whose bank has just been trained: only the bank of the training has new settings, with the counts of the rate. -/
theorem State.chan_newBank (s : State) (t c : Nat) (bankH : Bool) (rate : Nat) :
    ∃ b : Bank, b.counts = countsFor (s.chan t c).spd rate ∧ (s.newBank t c bankH rate).chan t c = (s.chan t c).setBank bankH b :=
  ⟨_, rfl, State.chan_setChan _ _ _ _⟩

theorem State.newBank_localCount (s : State) (t c : Nat) (bankH : Bool) (rate k : Nat) : (s.newBank t c bankH rate).localCount k = s.localCount k := rfl

theorem State.newBank_dram (s : State) (t c : Nat) (bankH : Bool) (rate : Nat) : (s.newBank t c bankH rate).dram = s.dram := rfl

/-- The bank that a training of bank H has left (06 R169). -/
theorem State.trainedBank_high (s : State) (t c : Nat) {r : Train} (h : r.bankH = true) : let x := s.trainedBank t c r
    x.train = none ∧ x.phase = 0 ∧ x.rtPend = false ∧ x.bankH = (s.chan t c).bankH ∧ x.validH = true ∧ x.rateH = r.rate ∧
      x.stampH = s.localCount t ∧ x.ttempH = (s.chan t c).temp / 4 := by
  simp [State.trainedBank, h]

/-- The bank that a training of bank L has left (06 R169). -/
theorem State.trainedBank_low (s : State) (t c : Nat) {r : Train} (h : r.bankH = false) : let x := s.trainedBank t c r
    x.train = none ∧ x.phase = 0 ∧ x.rtPend = false ∧ x.bankL = (s.chan t c).bankL ∧ x.validL = true ∧
      x.stampL = s.localCount t ∧ x.ttempL = (s.chan t c).temp / 4 := by
  simp [State.trainedBank, h]

/-- Training at the start leaves the new bank trained and bank L in use (06 R176). -/
theorem State.trained_start (s : State) (t c : Nat) {r : Train} (x : Chan) (h : r.why = .start) :
    s.trained t c r x = s.setChan t c { x with inUseH := false } := by
  unfold State.trained
  rw [h]

/-- After the accesses before self-refresh every row is closed (05 R156). -/
theorem State.quietChan_rows (s : State) (t c : Nat) : ((s.quietChan t c).chan t c).rows = [] := by
  unfold State.quietChan State.closeRows
  simp only [State.chan_setChan]

/-- FULL_SPEED_STEP of channel 0 of a restored tile (06 R174). -/
theorem exec_fullSpeedStep_zero {s : State} {tile : Nat} (ht : tile < s.tiles) (hmode : s.mode.mode = .rstr) (hrest : tile ∈ s.boot.restored)
    (hnew : 4 * tile ∉ s.boot.fullSpeed) (hstops : s.chStops tile 0 = false) (hrun : s.save.run = none)
    (hidle : (List.range 4).all (fun k => (s.chan tile k).fc.isNone && (s.chan tile k).train.isNone) = true) :
    exec (.fullSpeedStep tile 0) s = .next ((s.startChange tile 0 true true).setChan tile 0
      { (s.startChange tile 0 true true).chan tile 0 with fallbacks := 0 }) := by
  have hquiet : (List.range 4).all (fun k => ((s.chan tile k).fc.isNone && (s.chan tile k).train.isNone || s.chStops tile k)
      && (decide (0 ≤ k) || s.boot.fullSpeed.contains (4 * tile + k) || s.chStops tile k)) = true := by
    rw [List.all_eq_true] at hidle ⊢
    intro k hk
    simp only [hidle k hk, Bool.true_or, Nat.zero_le, decide_true, Bool.and_self]
  show execFullSpeedStep tile 0 s = _
  unfold execFullSpeedStep
  refine congrArg Host.Outcome.next (if_pos ?_)
  rw [hquiet]
  simp [ht, hmode, hrest, hnew, hstops, hrun]

/-- FREQUENCY_CHANGE in SOLO, of the channel at the head of the tile's request (06 R172, R173). -/
theorem exec_frequencyChange_head {s : State} {tile c : Nat} {r : List Nat} (hqueue : (s.dt tile).fcQueue = c :: r) (hmode : s.mode.mode = .solo)
    (hslice : (s.chan tile c).slice = none) (hrun : s.save.run = none) (hlap : (s.ic tile c).lapStart = 0)
    (hidle : (List.range 4).all (fun k => (s.chan tile k).fc.isNone) = true)
    (hgap : s.due (s.dt tile).fcAt (fld (s.param (pid bDram tile 0xD) 0) 23 16 * us) = true)
    (hmust : s.mustChange tile c = true) :
    exec (.frequencyChange tile) s = .next ((s.setDt tile { s.dt tile with fcQueue := r }).startChange tile c (s.dt tile).fcToH false) := by
  have hserves : ¬ (!decide (s.mode.mode = .actv ∨ s.mode.mode = .mirs ∨ s.mode.mode = .solo ∨ s.mode.mode = .main) = true ∨ s.save.run.isSome = true) := by
    simp [hmode, hrun]
  have hfind : (s.dt tile).fcQueue.find? (s.mustChange tile) = some c := by rw [hqueue, List.find?_cons_of_pos hmust]
  have hrest : ((s.dt tile).fcQueue.dropWhile (fun k => decide (k ≠ c))).drop 1 = r := by
    rw [hqueue, List.dropWhile_cons_of_neg (by simp)]
    rfl
  have hready : (List.range 4).all (fun k => (s.chan tile k).fc.isNone || s.chFenced tile k) = true := by
    rw [List.all_eq_true] at hidle ⊢
    intro k hk
    simp only [hidle k hk, Bool.true_or]
  show execFrequencyChange tile s = _
  unfold execFrequencyChange
  refine congrArg Host.Outcome.next ((if_neg (by simpa using hserves)).trans ?_)
  simp only [hfind, hrest]
  exact if_pos ⟨hready, hgap, by simp [hslice], hlap⟩

/-- Reading the temperatures of a channel leaves bank H and the parameters of the DRAM controller, and so whether bank H may be entered. -/
theorem State.readTemps_usableH (s : State) (t c : Nat) (t0 t1 : Option Nat) : (s.readTemps t c t0 t1).usableH t c = s.usableH t c := by
  have hlogs (l : List Nat) (u : State) : OnlyLog u (l.foldl (fun s i => s.log t 4 bDram t 0x08 8 (2 * c + i)) u) ∧
      SameBelow (pid bRec t 0) u (l.foldl (fun s i => s.log t 4 bDram t 0x08 8 (2 * c + i)) u) :=
    ⟨.foldl _ (fun s _ => s.log_log _ _ _ _ _ _ _) l u, .foldl (fun s _ => s.log_sameBelow _ _ _ _ _ _ _) l u⟩
  have hrate : pid bDram t 0 < pid bRec t 0 := by unfold pid; dsimp only [bDram, bRec]; omega
  unfold State.readTemps
  dsimp only
  obtain ⟨⟨rd, ps, pm, he⟩, hsame⟩ := hlogs _ _
  have hparam := hsame _ hrate
  rw [he] at hparam ⊢
  unfold State.usableH State.tileP
  rw [hparam]
  simp only [State.chan, State.setChan, Store.read_write_same]
  rfl

/-- FREQUENCY_CHANGE_COMPLETE of a change without full speed, whose channel has no queued read (06 R172, R181). -/
theorem exec_frequencyChangeComplete {s : State} {tile channel : Nat} {f : FreqChange} (found : DriftTemps) (hfc : (s.chan tile channel).fc = some f)
    (hfull : f.fullSpeed = false) (hstops : s.chStops tile channel = false) (ha : s.rqOf (8 * tile + 2 * channel) = [])
    (hb : s.rqOf (8 * tile + 2 * channel + 1) = []) :
    exec (.frequencyChangeComplete tile channel found) s = .next (
      ((s.setDt tile { s.dt tile with fcAt := s.clock }).readTemps tile channel found.t0 found.t1).enterBank tile channel
        (f.toH && s.usableH tile channel) found.drift) := by
  have hgo : ¬ (s.chStops tile channel || !(s.rqOf (8 * tile + 2 * channel)).isEmpty || !(s.rqOf (8 * tile + 2 * channel + 1)).isEmpty) = true := by
    simp [hstops, ha, hb]
  have husable := (s.setDt tile { s.dt tile with fcAt := s.clock }).readTemps_usableH tile channel found.t0 found.t1
  show execFrequencyChangeComplete tile channel found s = _
  unfold execFrequencyChangeComplete
  rw [hfc]
  refine congrArg Host.Outcome.next ((if_neg hgo).trans ?_)
  simp only [hfull, husable]
  rfl

/-- A drift below the limit changes no setting: the channel leaves self-refresh on the bank (06 R172). -/
theorem State.enterBank_of_lt (s : State) (t c : Nat) (toH : Bool) {drift : Nat} (h : drift < s.tileP bDram t 0xF) :
    s.enterBank t c toH drift = (s.quietChan t c).endChange t c toH := by
  unfold State.enterBank
  dsimp only
  rw [if_neg (by omega), if_neg (by omega)]

theorem State.chan_exitSelfRefresh (s : State) (t c : Nat) (toH : Bool) :
    ((s.exitSelfRefresh t c toH).chan t c).inUseH = toH ∧ ((s.exitSelfRefresh t c toH).chan t c).power = .active ∧
      ((s.exitSelfRefresh t c toH).chan t c).rows = [] := by
  simp [State.exitSelfRefresh]

/-- A slice that ends without its step finished (06 R180). -/
theorem exec_retrainingSlice_unfinished {s : State} {tile channel b : Nat} (pass : Bool) (hf : s.chFenced tile channel = false) (hc : channel < 4)
    (ht : tile < s.tiles) (hslice : (s.chan tile channel).slice = some b) :
    exec (.retrainingSlice tile channel false pass) s = .next (
      ((s.setChan tile channel { s.chan tile channel with slice := none, phase := 0 }).trainActs tile channel (s.chan tile channel).sliceStep).kick tile [.held]) := by
  show execRetrainingSlice tile channel false pass s = _
  unfold execRetrainingSlice
  refine congrArg Host.Outcome.next ((if_neg (by simp [hf]; omega)).trans ?_)
  simp only [hslice]
  rfl

/-- A slice starts (06 R180). -/
theorem exec_retrainingSlice_starts {s : State} {tile channel : Nat} (finished pass : Bool) (hf : s.chFenced tile channel = false) (hc : channel < 4)
    (ht : tile < s.tiles) (hslice : (s.chan tile channel).slice = none) (hdue : s.sliceDue tile channel = true) :
    exec (.retrainingSlice tile channel finished pass) s = .next (
      s.setChan tile channel { s.chan tile channel with slice := some s.clock, phase := 3, sliceLast := s.clock }) := by
  show execRetrainingSlice tile channel finished pass s = _
  unfold execRetrainingSlice
  refine congrArg Host.Outcome.next ((if_neg (by simp [hf]; omega)).trans ?_)
  simp only [hslice]
  exact if_pos hdue

/-- Settles O26, clause by clause from what each command does under its conditions. -/
theorem dramTraining : Obligations.DramTraining := by
  unfold Obligations.DramTraining
  refine ⟨?broken, ?found, ?step, ?lastStep, ?failed, ?complete, ?fullSpeed, ?change, ?phase1, ?phase8, ?enter, ?slice, ?unfinished⟩
  case broken =>
    rintro s tile i s0 s1 s2 s3 s4 s5 s6 s7 ⟨ht, hruns, hnew, hf⟩ hpop
    rw [exec_dimmDiscovery _ _ _ _ _ _ _ _ ht hruns hnew hf, State.discovered, hpop]
  case found =>
    rintro s tile r sb d s0 s1 s2 s3 s4 s5 s6 s7 ⟨ht, hruns, hnew, hf⟩ ⟨hpop, hrate⟩
    refine ⟨_, exec_dimmDiscovery _ _ _ _ _ _ _ _ ht hruns hnew hf, ?_⟩
    obtain ⟨x, hgeom, hx⟩ := s.populate_some tile [s0, s1, s2, s3, s4, s5, s6, s7] d sb r
    obtain ⟨ch, ic, he⟩ := (s.setDt tile x).trainSlots_only tile [s0, s1, s2, s3, s4, s5, s6, s7]
    simp only [State.discovered, hpop, hrate]
    rw [hx, he]
    exact ⟨(congrArg DramTile.geom (State.dt_setDt s tile x)).trans hgeom, rfl, rfl, rfl, rfl⟩
  case step =>
    rintro s tile channel r ⟨htrain, hpassed, hstops⟩ ⟨h8, h10⟩
    have hexec := exec_dramTrainingStep htrain hpassed hstops
    simp only [s.trainActs_of_ne tile channel h8 h10, if_neg h10] at hexec
    refine ⟨hexec true, (hexec false).trans ?_⟩
    cases r.failed <;> rfl
  case lastStep =>
    rintro s tile channel r ⟨htrain, hpassed, hstops, h10⟩
    rw [exec_dramTrainingStep htrain hpassed hstops true]
    simp only [h10, s.trainActs_ten, if_true]
  case failed =>
    rintro s tile channel q r hwhy hlower
    refine ⟨fun hL => ?_, fun hH => ?_⟩
    · simp [State.trainFailed, hL, hwhy]
    · simp [State.trainFailed, hH, hlower]
  case complete =>
    rintro s tile channel r ⟨htrain, hpassed, hwhy, hstops⟩
    refine ⟨_, exec_dramTrainingComplete htrain hpassed hstops, ?_⟩
    obtain ⟨b, hcounts, hchan⟩ := s.chan_newBank tile channel r.bankH r.rate
    rw [State.trained_start _ _ _ _ hwhy]
    dsimp only
    rw [State.chan_setChan, State.setChan_dram]
    cases hbank : r.bankH with
    | true =>
      rw [hbank] at hchan
      obtain ⟨htr, hph, hrt, hb, hval, hrate, hst, htt⟩ := (s.newBank tile channel true r.rate).trainedBank_high tile channel hbank
      rw [hchan] at hb htt
      exact ⟨htr, hph, hrt, rfl, rfl, by rw [← hcounts]; exact congrArg Bank.counts hb, hval, hrate, hst, htt⟩
    | false =>
      rw [hbank] at hchan
      obtain ⟨htr, hph, hrt, hb, hval, hst, htt⟩ := (s.newBank tile channel false r.rate).trainedBank_low tile channel hbank
      rw [hchan] at hb htt
      exact ⟨htr, hph, hrt, rfl, rfl, by rw [← hcounts]; exact congrArg Bank.counts hb, hval, hst, htt⟩
  case fullSpeed =>
    rintro s tile ⟨ht, hmode, hrest, hnew, hstops, hrun⟩ hidle
    exact exec_fullSpeedStep_zero ht hmode hrest hnew hstops hrun hidle
  case change =>
    rintro s tile c r ⟨hqueue, hmode, hslice, hrun, hlap⟩ ⟨hidle, hgap⟩ ⟨hf, hbank, htrain⟩
    have hmust : s.mustChange tile c = true := by simp [State.mustChange, hf, hbank, htrain]
    exact exec_frequencyChange_head hqueue hmode hslice hrun hlap hidle hgap hmust
  case phase1 =>
    intro s tile channel toH full
    have hrows := s.quietChan_rows tile channel
    simp [State.startChange, Chan.holding, hrows]
  case phase8 =>
    rintro s tile channel drift t0 t1 f ⟨hfc, hfull, hstops⟩ ⟨ha, hb⟩
    exact exec_frequencyChangeComplete ⟨drift, t0, t1⟩ hfc hfull hstops ha hb
  case enter =>
    intro s tile channel drift toH hdrift
    rw [s.enterBank_of_lt tile channel toH hdrift]
    exact ⟨rfl, (s.quietChan tile channel).chan_exitSelfRefresh tile channel toH⟩
  case slice =>
    rintro s tile channel f p ⟨hf, hc, ht, hmode⟩ ⟨hnone, hslice, hlast⟩ ⟨hrun, hpend, hfc, htrain⟩
    have hall : (List.range 4).all (fun k => (s.chan tile k).slice.isNone || s.chFenced tile k) = true := by
      rw [List.all_eq_true] at hnone ⊢
      intro k hk
      simp only [hnone k hk, Bool.true_or]
    have hdue : s.sliceDue tile channel = true := by simp only [State.sliceDue, hall]; simp [hmode, hpend, hfc, htrain, hrun, hlast]
    exact exec_retrainingSlice_starts f p hf hc ht hslice hdue
  case unfinished =>
    rintro s tile channel b p ⟨hf, hc, ht⟩ hslice
    exact exec_retrainingSlice_unfinished p hf hc ht hslice

end Sys2Proof.Machine
end

section
/-! Host links and their resets, configuration, decoders, link encryption and certificates (02 R50, R64; 03 R67 to R90): what the shared
operations leave of the state, and each command under its conditions. -/

namespace Sys2Proof.Machine

/-- Only key slots differ, and how many free values have been drawn for them. -/
def OnlyKeys (s t : State) : Prop := ∃ n ks, t = { s with free := n, keys := ks }

theorem OnlyKeys.refl (s : State) : OnlyKeys s s := ⟨s.free, s.keys, rfl⟩

theorem OnlyKeys.trans {s t u : State} (h : OnlyKeys s t) (k : OnlyKeys t u) : OnlyKeys s u := by
  obtain ⟨_, _, rfl⟩ := h
  obtain ⟨_, _, rfl⟩ := k
  exact ⟨_, _, rfl⟩

theorem OnlyKeys.foldl {α : Type} {f : State → α → State} (h : ∀ s a, OnlyKeys s (f s a)) (l : List α) (s : State) : OnlyKeys s (l.foldl f s) := by
  induction l generalizing s with
  | nil => exact .refl s
  | cons a l ih => exact (h s a).trans (ih (f s a))

theorem State.clearSlots_only (s : State) (t : Nat) (ks : List Nat) : OnlyKeys s (s.clearSlots t ks) :=
  .foldl (fun _ _ => ⟨_, _, rfl⟩) _ s

theorem State.installFresh_only (s : State) (t k usage : Nat) : OnlyKeys s (s.installFresh t k usage) := ⟨_, _, rfl⟩

/-- What a port reset leaves of an LD: no decoder and no SPDM session (02 Table 2-5). -/
def Bar.cleared (b : Bar) : Bool := b.decoders.isEmpty && !b.spdm

/-- The port reset of one LD: its SPDM session ends and its configuration space is reset (02 R50; 03 R90). -/
def State.resetLd (s : State) (t d : Nat) : State :=
  (s.endSpdm t d).setBar t d { (s.endSpdm t d).bar t d with decoders := [], vc1 := false, base := none }

/-- The end of an SPDM session writes the LD's registers, whose session then is closed, and key slots. -/
theorem State.endSpdm_eq (s : State) (t d : Nat) :
    ∃ b : Bar, b.spdm = false ∧ (OnlyKeys (s.setBar t d b) (s.endSpdm t d) ∨ s.endSpdm t d = s ∧ s.bar t d = b) := by
  unfold State.endSpdm
  split
  · exact ⟨{ s.bar t d with spdm := false, spdmKey := 0 }, rfl, .inl (.foldl (fun s t => s.clearSlots_only t [2]) _ _)⟩
  · exact ⟨s.bar t d, by simp_all, .inr ⟨rfl, rfl⟩⟩

/-- The reset of an LD writes key slots and BAR registers; the LD is cleared, and another LD of the tile is as before. -/
theorem State.resetLd_eq (s : State) (t d : Nat) : ∃ n ks bs, s.resetLd t d = { s with free := n, keys := ks, bars := bs } ∧
    ((s.resetLd t d).bar t d).cleared = true ∧ ∀ e, e ≠ d → (s.resetLd t d).bar t e = s.bar t e := by
  have hother (u : State) (b : Bar) {e : Nat} (he : e ≠ d) : (u.setBar t d b).bar t e = u.bar t e := Store.read_write_ne _ _ _ _ (by omega)
  unfold State.resetLd
  obtain ⟨b, hspdm, ⟨n, ks, he⟩ | ⟨he, hb⟩⟩ := s.endSpdm_eq t d
  · rw [he]
    have hbar : ({ s.setBar t d b with free := n, keys := ks } : State).bar t d = b := State.bar_setBar s t d b
    rw [hbar]
    refine ⟨n, ks, _, rfl, ?_, fun e h => (hother _ _ h).trans (hother s b h)⟩
    rw [State.bar_setBar]
    simp [Bar.cleared, hspdm]
  · rw [he, hb]
    refine ⟨s.free, s.keys, _, rfl, ?_, fun e h => hother s _ h⟩
    rw [State.bar_setBar]
    simp [Bar.cleared, hspdm]

/-- The reset of several LDs of a tile clears every one of them. -/
theorem State.resetLds_eq (s : State) (t : Nat) (l : List Nat) : ∃ n ks bs, l.foldl (fun s d => s.resetLd t d) s = { s with free := n, keys := ks, bars := bs } ∧
    ∀ d, d ∈ l ∨ (s.bar t d).cleared = true → ((l.foldl (fun s d => s.resetLd t d) s).bar t d).cleared = true := by
  induction l generalizing s with
  | nil => exact ⟨s.free, s.keys, s.bars, rfl, fun d h => h.resolve_left (List.not_mem_nil)⟩
  | cons a l ih =>
    obtain ⟨n, ks, bs, he, hcleared, hother⟩ := s.resetLd_eq t a
    obtain ⟨n', ks', bs', he', hall⟩ := ih (s.resetLd t a)
    refine ⟨n', ks', bs', ?_, fun d h => hall d ?_⟩
    · rw [List.foldl_cons, he', he]
    · by_cases hd : d = a
      · exact .inr (hd ▸ hcleared)
      · rw [hother d hd]
        exact h.imp_left fun hm => (List.mem_cons.mp hm).resolve_left hd

/-- Nothing waits: nothing is to be served again. -/
theorem State.settle_of_waits_nil {s : State} (h : s.waits = []) (n : Nat) : State.settle n s = s := by
  cases n with
  | zero => rfl
  | succ n =>
    unfold State.settle
    rw [h]
    rfl

/-- What a port reset leaves of the port: its LDs, the key slots of its streams, the link (02 Table 2-5). -/
def State.resetPort (s : State) (t k : Nat) : State :=
  let s := ((List.range 16).filter (fun d => decide (s.ldLink t d = k))).foldl (fun s d => s.resetLd t d) s
  let s := s.clearSlots t (ideSlots k)
  s.setLink t k { perst := (s.link t k).perst, hot := (s.link t k).hot }

/-- The requests received on a link and not answered are discarded. -/
def State.dropReceived (s : State) (t k : Nat) : State :=
  { s with waits := s.waits.filter (fun w => !(w.req.fromHost && decide (w.req.tile = t ∧ w.req.link = k))),
           groups := s.groups.filter (fun g => decide (¬ (g.tile = t ∧ g.link = k))) }

/-- A port reset in its parts (02 R50). -/
theorem State.portReset_eq_settle (s : State) (t k : Nat) :
    let u := ((s.unacked.reverse.filter (fun u => u.req.fromHost && decide (u.req.tile = t ∧ u.req.link = k))).foldl State.withdraw (s.dropReceived t k)).resetPort t k
    s.portReset t k = State.settle (2 * u.waits.length + 2) u := rfl

/-- The reset of the port writes key slots, the registers of its LDs, which are cleared, and the link. -/
theorem State.resetPort_eq (s : State) (t k : Nat) : ∃ n ks bs,
    s.resetPort t k = ({ s with free := n, keys := ks, bars := bs } : State).setLink t k { perst := (s.link t k).perst, hot := (s.link t k).hot } ∧
      ∀ d < 16, s.ldLink t d = k → ((s.resetPort t k).bar t d).cleared = true := by
  obtain ⟨n, ks, bs, he, hcleared⟩ := s.resetLds_eq t ((List.range 16).filter (fun d => decide (s.ldLink t d = k)))
  obtain ⟨n', ks', hslots⟩ := State.clearSlots_only { s with free := n, keys := ks, bars := bs } t (ideSlots k)
  have hreset : s.resetPort t k = ({ s with free := n', keys := ks', bars := bs } : State).setLink t k { perst := (s.link t k).perst, hot := (s.link t k).hot } := by
    unfold State.resetPort
    dsimp only
    rw [he, hslots]
    rfl
  refine ⟨n', ks', bs, hreset, fun d hd hlink => ?_⟩
  have hd' := hcleared d (.inl (List.mem_filter.mpr ⟨List.mem_range.mpr hd, by simpa using hlink⟩))
  rw [he] at hd'
  rw [hreset]
  exact hd'

/-- The port reset of a link whose requests alone wait, with no store unacknowledged (02 R50): the requests go, the LDs of the link are
cleared, and but for key slots and the link's groups nothing else changes. -/
theorem State.portReset_eq {s : State} {t k : Nat} (hwaits : s.waits.all (fun w => w.req.fromHost && decide (w.req.tile = t ∧ w.req.link = k)) = true)
    (hunacked : s.unacked = []) : ∃ gs n ks bs,
      s.portReset t k = ({ s with waits := [], groups := gs, free := n, keys := ks, bars := bs } : State).setLink t k { perst := (s.link t k).perst, hot := (s.link t k).hot } ∧
      ∀ d < 16, s.ldLink t d = k → ((s.portReset t k).bar t d).cleared = true := by
  have hnone : s.waits.filter (fun w => !(w.req.fromHost && decide (w.req.tile = t ∧ w.req.link = k))) = [] := by
    rw [List.filter_eq_nil_iff]
    intro w hw
    rw [List.all_eq_true.mp hwaits w hw]
    decide
  obtain ⟨n, ks, bs, he, hcleared⟩ := (s.dropReceived t k).resetPort_eq t k
  have hempty : ((s.dropReceived t k).resetPort t k).waits = [] := by
    rw [he]
    exact hnone
  have hport : s.portReset t k = (s.dropReceived t k).resetPort t k := by
    rw [State.portReset_eq_settle, show s.unacked.reverse.filter (fun u => u.req.fromHost && decide (u.req.tile = t ∧ u.req.link = k)) = [] by rw [hunacked]; rfl, List.foldl_nil,
      State.settle_of_waits_nil hempty]
  refine ⟨(s.dropReceived t k).groups, n, ks, bs, ?_, fun d hd hlink => by rw [hport]; exact hcleared d hd hlink⟩
  rw [hport, he, State.dropReceived, hnone]
  rfl

/-- HOST_LINK_TRAINED of a link that may train (03 R68, R69). -/
theorem exec_hostLinkTrained {s : State} {tile link width : Nat} (partner : Nat) (hmay : s.mayTrain tile link = true) (hw : width ∈ [1, 2, 4, 8, 16])
    (hlanes : width * s.linkCount tile ≤ 16) :
    exec (.hostLinkTrained tile link partner width) s = .next (s.setLink tile link
      { s.link tile link with up := true, hot := false, rate := min (min partner 3) (s.tileP bPort tile (4 + link)), width,
                              heldRwD := false, heldReq := false, heldFor := [], keptRwD := 0, keptReq := 0 }) :=
  congrArg Host.Outcome.next (if_pos ⟨hmay, List.contains_iff_mem.mpr hw, hlanes⟩)

/-- PERST_ASSERT of a link of the part: where it has an effect the port is reset (02 R50). -/
theorem exec_perstAssert {s : State} {tile link : Nat} (ht : tile < s.tiles) (hl : link < 4) :
    exec (.perstAssert tile link) s = .next (
      let u := s.setLink tile link { s.link tile link with perst := true }
      if s.portsLive = true ∧ s.hasLink tile link = true then u.portReset tile link else u) :=
  congrArg Host.Outcome.next (if_pos ⟨ht, hl⟩)

/-- CONFIGURATION_REQUEST on a link that carries CXL.io, before step 5 has ended or for an LD of another link (02 R64). -/
theorem exec_configurationRequest_not_ready {s : State} {tile link ld : Nat} (tag : Nat) (request : CfgReq) (hup : s.ioUp tile link = true)
    (h : ¬ (s.ldLink tile ld = link ∧ ld < 16 ∧ 5 ∈ s.boot.done)) :
    exec (.configurationRequest tile link ld tag request) s = .next (
      s.emit (.response tile link tag (if s.ldLink tile ld = link ∧ ld < 16 then rRetry else rUnsupported) 0 false)) := by
  refine congrArg Host.Outcome.next ((if_pos hup).trans ?_)
  by_cases hld : s.ldLink tile ld = link ∧ ld < 16
  · have hdone : (!s.boot.done.contains 5) = true := by simpa [hld] using h
    rw [if_neg (by omega), if_pos hdone, if_pos hld]
  · rw [if_pos (by omega), if_neg hld]

/-- CONFIGURATION_REQUEST once step 5 has ended (02 R64). -/
theorem exec_configurationRequest_ready {s : State} {tile link ld : Nat} (tag : Nat) (request : CfgReq) (hup : s.ioUp tile link = true)
    (hlink : s.ldLink tile ld = link) (hld : ld < 16) (hdone : 5 ∈ s.boot.done) :
    exec (.configurationRequest tile link ld tag request) s = .next (match request with
      | .read r => s.emit (.response tile link tag rOk ((s.cfgWord tile ld r).setWidth 512) false)
      | .vc1 v => (s.setBar tile ld { s.bar tile ld with vc1 := v }).emit (.response tile link tag rOk 0 false)
      | .bar0 h => (s.setBar tile ld { s.bar tile ld with base := some (h / 0x40000 * 0x40000) }).emit (.response tile link tag rOk 0 false)) :=
  congrArg Host.Outcome.next ((if_pos hup).trans ((if_neg (by omega)).trans (if_neg (by simpa using hdone))))

/-- The form of a decoder that a commit leaves (03 R75, Table 3-3). -/
theorem exec_hdmDecoderCommit {s : State} {tile ld decoder : Nat} (base size gran : Nat) (ways : HdmWays) (hup : s.ldUp tile ld = true) (hd : decoder < 4) :
    ∃ d : Decoder, (d.committed = ([1, 2, 4, 8, 16].contains ways.ways && decoderGrans.contains gran)) ∧ d.err = !d.committed ∧
      d.base = base ∧ d.size = size ∧ d.ways = ways.ways ∧ d.gran = gran ∧ d.pos = ways.pos ∧
      exec (.hdmDecoderCommit tile ld decoder base size ways gran) s = .next (
        s.setBar tile ld { s.bar tile ld with decoders := Store.write (s.bar tile ld).decoders decoder d {} }) :=
  ⟨_, rfl, rfl, rfl, rfl, rfl, rfl, rfl, congrArg Host.Outcome.next (if_pos ⟨hup, hd⟩)⟩

/-- IDE_KM with containment, and without it: keys of the link's streams are installed (03 R89). -/
theorem exec_ideKm {s : State} {tile ld : Nat} (keySet : Nat) (containment : Bool) (hup : s.ldUp tile ld = true) (hspdm : (s.bar tile ld).spdm = true) :
    ∃ u, OnlyKeys s u ∧ exec (.ideKm tile ld keySet containment) s = .next (
      if containment then s.emit (.mailbox tile ld 0x1DE mbUnsupported [])
      else (u.setLink tile (s.ldLink tile ld) { u.link tile (s.ldLink tile ld) with ide := .secure }).emit (.mailbox tile ld 0x1DE mbOk [])) :=
  ⟨_, .foldl (fun s _ => s.installFresh_only _ _ _) (List.range 4) s, congrArg Host.Outcome.next (if_pos ⟨hup, hspdm⟩)⟩

/-- SPDM_REQUEST to an LD that can be reached (03 R90). -/
theorem exec_spdmRequest {s : State} {tile ld : Nat} (request : Spdm) (hup : s.ldUp tile ld = true) :
    exec (.spdmRequest tile ld request) s = .next ((s.spdm tile ld request).1.emit (.mailbox tile ld 0x5BD (s.spdm tile ld request).2.1 (s.spdm tile ld request).2.2)) :=
  congrArg Host.Outcome.next (if_pos hup)

/-- Settles O22, clause by clause from what each command does under its conditions. -/
theorem linksAndResets : Obligations.LinksAndResets := by
  unfold Obligations.LinksAndResets
  refine ⟨?trained, ?perst, ?perstDead, ?reset, ?deassert, ?hot, ?early, ?read, ?write, ?gpf1, ?gpf2, ?decoder, ?containment, ?keys, ?integrity, ?provision,
    ?certificate, ?opens⟩
  case trained =>
    rintro s tile link partner width hmay ⟨hw, hlanes⟩
    refine ⟨_, exec_hostLinkTrained partner hmay hw hlanes, ?_⟩
    simp only [State.link_setLink, and_self]
  case perst =>
    rintro s tile link ⟨ht, hl, hhas, hlive⟩
    exact (exec_perstAssert ht hl).trans (congrArg Host.Outcome.next (if_pos ⟨hlive, hhas⟩))
  case perstDead =>
    rintro s tile link ⟨ht, hl, hdead⟩
    refine (exec_perstAssert ht hl).trans (congrArg Host.Outcome.next (if_neg ?_))
    rintro ⟨hlive, hhas⟩
    rw [hlive, hhas] at hdead
    simp at hdead
  case reset =>
    rintro s tile link ⟨hwaits, hunacked⟩
    obtain ⟨gs, n, ks, bs, he, hcleared⟩ := State.portReset_eq hwaits hunacked
    refine ⟨?_, ?_, ?_, ?_, ?_, ?_, ?_, ?_, ?_⟩
    case refine_8 => rw [he, State.link_setLink]
    case refine_9 =>
      rw [List.all_eq_true]
      intro d hd
      by_cases hlink : s.ldLink tile d = link
      · rw [show (_ && _) = true from hcleared d (List.mem_range.mp hd) hlink, Bool.or_true]
      · simp [hlink]
    all_goals rw [he]; rfl
  case deassert =>
    intro s tile link h
    exact congrArg Host.Outcome.next (if_pos h)
  case hot =>
    intro s tile link h
    exact congrArg Host.Outcome.next (if_pos h)
  case early =>
    intro s tile link ld tag request hup h
    exact exec_configurationRequest_not_ready tag request hup h
  case read =>
    rintro s tile link ld tag ⟨hup, hlink, hld, hdone⟩
    exact ⟨fun r => exec_configurationRequest_ready tag (.read r) hup hlink hld hdone, rfl, rfl, rfl, rfl⟩
  case write =>
    rintro s tile link ld tag addr v ⟨hup, hlink, hld, hdone⟩
    exact ⟨exec_configurationRequest_ready tag (.vc1 v) hup hlink hld hdone, exec_configurationRequest_ready tag (.bar0 addr) hup hlink hld hdone⟩
  case gpf1 =>
    intro s tile link tag hup
    exact congrArg Host.Outcome.next (if_pos hup)
  case gpf2 =>
    intro s tile link tag hup
    exact congrArg Host.Outcome.next (if_pos hup)
  case decoder =>
    rintro s tile ld decoder base size ways gran pos ⟨hup, hd⟩
    obtain ⟨d, hok, herr, hbase, hsize, hways, hgran, hpos, he⟩ := exec_hdmDecoderCommit base size gran ⟨ways, pos⟩ hup hd
    have hcommitted : d.committed = true ↔ ways ∈ [1, 2, 4, 8, 16] ∧ gran ∈ decoderGrans := by
      rw [hok, Bool.and_eq_true, List.contains_iff_mem, List.contains_iff_mem]
    refine ⟨_, he, ?_⟩
    simp only [State.bar_setBar, Store.read_write_same, true_and]
    refine ⟨hcommitted, ?_, hbase, hsize, hways, hgran, hpos⟩
    rw [herr, ← hcommitted]
    simp
  case containment =>
    rintro s tile ld keySet ⟨hup, hspdm⟩
    obtain ⟨u, -, he⟩ := exec_ideKm keySet true hup hspdm
    exact he
  case keys =>
    rintro s tile ld keySet ⟨hup, hspdm⟩
    obtain ⟨u, ⟨n, ks, rfl⟩, he⟩ := exec_ideKm keySet false hup hspdm
    exact ⟨_, he, congrArg Link.ide (State.link_setLink _ _ _ _), rfl, rfl, rfl, rfl⟩
  case integrity =>
    intro s tile link h
    exact congrArg Host.Outcome.next (if_pos h)
  case provision =>
    intro s tile ld cert hup
    rw [exec_spdmRequest _ hup]
    by_cases hlife : s.life = .mfg <;> simp [State.spdm, State.mayProvision, hlife]
  case certificate =>
    intro s tile ld k hup
    rw [exec_spdmRequest _ hup]
    rfl
  case opens =>
    intro s tile ld hup
    exact ⟨_, exec_spdmRequest _ hup, congrArg Bar.spdm (State.bar_setBar _ _ _ _), rfl, rfl, rfl⟩

end Sys2Proof.Machine
end

section
/-! Restore, the resets and the end of a save (02 R49 to R53; 08 R235 to R243): what the loader leaves of the state of the start, what the end
of a restore and a warm reset leave, and each command under its conditions. -/

namespace Sys2Proof.Machine

/-- A fold of steps that each leave what `g` reads leaves it. -/
theorem foldl_preserves {α β : Type} {f : State → α → State} {g : State → β} (h : ∀ s a, g (f s a) = g s) (l : List α) (s : State) :
    g (l.foldl f s) = g s := by
  induction l generalizing s with
  | nil => rfl
  | cons a l ih => exact (ih (f s a)).trans (h s a)

/-! ### The loader writes nothing of the start's state -/

@[simp] theorem State.countEnc_boot (s : State) (t slot : Nat) : (s.countEnc t slot).2.boot = s.boot := by
  unfold State.countEnc
  dsimp only
  split
  · exact State.log_boot ..
  · rfl

@[simp] theorem State.gcmSeal_boot (s : State) (t src slot : Nat) (aad d : List Byte) : (s.gcmSeal t src slot aad d).2.boot = s.boot := by
  unfold State.gcmSeal
  split
  · rfl
  · have hcount := s.countEnc_boot t slot
    split
    · next u he => rwa [he] at hcount
    · next u he =>
      rw [he] at hcount
      exact (foldl_preserves (fun s _ => State.tally_boot s t 31 2 {}) _ _).trans hcount

@[simp] theorem State.sealBody_boot (s : State) (t clear : Nat) (b : List Byte) : (s.sealBody t clear b).2.boot = s.boot := by
  unfold State.sealBody
  split
  · have hseal := s.gcmSeal_boot t 1 12 (b.take clear) (b.drop clear)
    split
    · next he => rwa [he] at hseal
    · next he => rwa [he] at hseal
  · rfl

@[simp] theorem State.sendMsg_boot (s : State) (c t type clear seq0 frames path : Nat) (b : List Byte) :
    (s.sendMsg c t type clear seq0 frames path b).boot = s.boot := by
  have hseal := s.sealBody_boot t clear b
  unfold State.sendMsg
  split
  · next he => rwa [he] at hseal
  · next he =>
    rw [he] at hseal
    split
    · exact hseal
    · exact hseal

@[simp] theorem State.isahar_boot (s : State) (t type : Nat) (ws : List Word) : (s.isahar t type ws).boot = s.boot := by
  unfold State.isahar
  split
  · rfl
  · exact State.sendMsg_boot ..

@[simp] theorem State.sendLrq_boot (s : State) (t off count : Nat) (why : LrqFor) (urgency : Nat) :
    (s.sendLrq t off count why urgency).boot = s.boot :=
  State.isahar_boot ..

@[simp] theorem State.enterPoison_boot (s : State) (t off : Nat) : (s.enterPoison t off).boot = s.boot := by
  unfold State.enterPoison
  dsimp only
  split <;> rfl

theorem State.evDropAll_boot (s : State) (t a : Nat) : (s.evDropAll t a).boot = s.boot := by
  unfold State.evDropAll
  exact foldl_preserves (g := State.boot) (fun s k => State.setEv_boot s k {}) _ s

@[simp] theorem State.missingLines_boot (s : State) (t off n : Nat) : (s.missingLines t off n).boot = s.boot := by
  unfold State.missingLines
  split
  · exact State.sendLrq_boot ..
  · refine foldl_preserves (g := State.boot) (fun s i => ?_) _ _
    split
    · exact State.enterPoison_boot ..
    · rfl

@[simp] theorem State.loadPage_boot (s : State) (t lp : Nat) : (s.loadPage t lp).boot = s.boot := by
  unfold State.loadPage
  split
  · split
    · exact State.missingLines_boot ..
    · refine foldl_preserves (g := State.boot) (fun s i => ?_) _ _
      have hline (a off : Nat) (l : Line) (p : Bool) : (if p = true then ((s.evDropAll t a).putDram t a l p).enterPoison t off
          else (s.evDropAll t a).putDram t a l p).boot = s.boot := by
        split
        · exact (State.enterPoison_boot ..).trans (s.evDropAll_boot t a)
        · exact s.evDropAll_boot t a
      exact hline ..
  · rfl

/-- The load of a group leaves what the start has reached. -/
theorem State.loadGroup_boot (s : State) (t g : Nat) : (s.loadGroup t g).boot = s.boot := by
  unfold State.loadGroup
  exact (State.setTl_boot ..).trans <| foldl_preserves (g := State.boot) (fun s p => by split; exacts [rfl, s.loadPage_boot t p]) _ s

/-! ### The restore -/

theorem exec_restoreLoad_home (s : State) (tile : Nat) (h : tile < s.tiles ∧ s.restoring tile = true ∧ Store.read s.boot.paths tile 0 = 1)
    (hht : (s.tl tile).htLoaded = false) : exec (.restoreLoad tile) s = .next (((s.loadHome tile).loadOwners tile).setTl tile
      { ((s.loadHome tile).loadOwners tile).tl tile with htLoaded := true }) := by
  obtain ⟨htile, hres, hpath⟩ := h
  simp [exec, execRestoreLoad, htile, hres, hpath, hht]

theorem exec_restoreLoad_group (s : State) (tile g : Nat) (h : tile < s.tiles ∧ s.restoring tile = true ∧ Store.read s.boot.paths tile 0 = 1)
    (hht : (s.tl tile).htLoaded = true ∧ s.boot.tileReset.contains tile = false) (hg : s.nextGroup tile = some g) :
    exec (.restoreLoad tile) s = .next ((s.loadGroup tile g).kick tile [.load]) := by
  obtain ⟨htile, hres, hpath⟩ := h
  obtain ⟨hht, hreset⟩ := hht
  simp only [exec, execRestoreLoad, htile, hres, hpath, hht, hg, hreset, State.loadGroup_boot]
  simp

theorem exec_restoreLoad_end (s : State) (tile : Nat) (h : tile < s.tiles ∧ s.restoring tile = true ∧ Store.read s.boot.paths tile 0 = 1)
    (hht : (s.tl tile).htLoaded = true ∧ s.boot.tileReset.contains tile = false) (hg : s.nextGroup tile = none) :
    exec (.restoreLoad tile) s = .next ((s.endRestore tile).kick tile [.load]) := by
  obtain ⟨htile, hres, hpath⟩ := h
  obtain ⟨hht, hreset⟩ := hht
  simp only [exec, execRestoreLoad, htile, hres, hpath, hht, hg, hreset]
  simp

theorem exec_restoreLoad_empty (s : State) (tile : Nat) (h : tile < s.tiles ∧ s.restoring tile = true ∧ Store.read s.boot.paths tile 0 = 0)
    (hht : (s.tl tile).htLoaded = true ∧ s.boot.tileReset.contains tile = false) :
    exec (.restoreLoad tile) s = .next (s.endRestore tile) := by
  obtain ⟨htile, hres, hpath⟩ := h
  obtain ⟨hht, hreset⟩ := hht
  simp only [exec, execRestoreLoad, htile, hres, hpath, hht, hreset]
  simp

theorem exec_restoreDemandFault (s : State) (tile page : Nat)
    (hw : s.waits.any (fun w => decide (w.why = .load ∧ w.req.owner = tile ∧ w.req.toff / 4096 = page)) = true)
    (hneed : s.needsLoad tile (page * 4096) = true) (hht : (s.tl tile).htLoaded = true) (hpath : Store.read s.boot.paths tile 0 ≠ 2) :
    exec (.restoreDemandFault tile page) s = .next (((s.loadPage tile page).setTl tile
      { (s.loadPage tile page).tl tile with pages := insertNat page ((s.loadPage tile page).tl tile).pages }).kick tile [.load]) := by
  simp only [exec, execRestoreDemandFault]
  rw [if_pos ⟨hw, hneed⟩, if_pos (Or.inl hht), if_neg hpath]

/-- A line of the verify-only path that is no last line of its group or of the tile: `u` is the state once the line has been checked. -/
theorem exec_verifyLine (s u : State) (tile : Nat) (err : BitVec 640)
    (h : tile < s.tiles ∧ s.restoring tile = true ∧ s.mode.mode = .rstr ∧ Store.read s.boot.paths tile 0 = 2)
    (hu : (if (s.lineCheck tile (s.tl tile).verifyAt err).good = true then
      (if (s.lineGot tile (s.tl tile).verifyAt err).2 = true then s.enterPoison tile (s.offOf tile (s.tl tile).verifyAt) else s)
      else s.repairLine tile (s.tl tile).verifyAt) = u)
    (hgroup : ((s.tl tile).verifyAt + 64) % 2097152 ≠ 0) (htile : (s.tl tile).verifyAt + 64 < u.dfaSize tile) :
    exec (.verifyLine tile err) s = .next (u.setTl tile { u.tl tile with verifyAt := (s.tl tile).verifyAt + 64 }) := by
  have hsize (x : TideTile) : ¬ (u.setTl tile x).dfaSize tile ≤ (s.tl tile).verifyAt + 64 := Nat.not_le.mpr htile
  have hpow : (2 : Nat) ^ 21 = 2097152 := rfl
  simp only [exec, execVerifyLine, hpow]
  rw [if_pos h, hu]
  simp only [hgroup, hsize, if_false, or_self]

/-! ### The end of the restore -/

theorem pid_mirr_ne_dram (t : Nat) : pid bMirr 1023 0 ≠ pid bDram t 0xD := by
  unfold pid
  dsimp only [bMirr, bDram]
  omega

/-- The end of step 12 writes parameters alone, and not the pair's. -/
theorem State.bankWritten_eq (s : State) : ∃ p, s.bankWritten = { s with params := p } ∧ s.bankWritten.devP bMirr 0 = s.devP bMirr 0 := by
  suffices h : ∀ (l : List Nat) (s : State), ∃ p, l.foldl (fun s t => s.setParam (pid bDram t 0xD) 0 (s.param (pid bDram t 0xD) 0 ||| 1)) s =
      { s with params := p } by
    obtain ⟨p, hp⟩ := h s.liveTiles s
    refine ⟨p, hp, congrArg BitVec.toNat (foldl_preserves (g := fun s => s.param (pid bMirr 1023 0) 0) (fun s t => ?_) _ s)⟩
    exact s.param_setParam_ne _ (pid_mirr_ne_dram t)
  intro l
  induction l with
  | nil => exact fun s => ⟨s.params, rfl⟩
  | cons t l ih =>
    intro s
    obtain ⟨p, hp⟩ := ih (s.setParam (pid bDram t 0xD) 0 (s.param (pid bDram t 0xD) 0 ||| 1))
    exact ⟨p, hp⟩

@[simp] theorem State.bankWritten_boot (s : State) : s.bankWritten.boot = s.boot := by
  obtain ⟨p, hp, -⟩ := s.bankWritten_eq
  rw [hp]

@[simp] theorem State.bankWritten_lease (s : State) : s.bankWritten.lease = s.lease := by
  obtain ⟨p, hp, -⟩ := s.bankWritten_eq
  rw [hp]

@[simp] theorem State.bankWritten_leaseOk (s : State) : s.bankWritten.leaseOk = s.leaseOk := by
  unfold State.leaseOk
  rw [s.bankWritten_lease]

@[simp] theorem State.bankWritten_twinUp (s : State) : s.bankWritten.twinUp = s.twinUp := by
  obtain ⟨p, hp, -⟩ := s.bankWritten_eq
  rw [hp]
  rfl

@[simp] theorem State.bankWritten_pairId (s : State) : s.bankWritten.pairId = s.pairId := by
  obtain ⟨p, -, hpair⟩ := s.bankWritten_eq
  unfold State.pairId
  rw [hpair, s.bankWritten_lease]

theorem exec_restoreComplete_actv (s : State) (h : s.mode.mode = .rstr ∧ s.restoreDone = true) (hauth : s.boot.auth = true ∧ s.leaseOk = true)
    (htwin : s.twinUp = true ∧ s.lease.twinMirs = true ∧ s.pairId ≠ 0) :
    exec .restoreComplete s = .next (s.bankWritten.nameMode .actv 0x0B) := by
  simp [exec, execRestoreComplete, h, hauth, htwin]

theorem exec_restoreComplete_solo (s : State) (h : s.mode.mode = .rstr ∧ s.restoreDone = true) (hauth : s.boot.auth = true ∧ s.leaseOk = true)
    (hpair : s.pairId = 0) : exec .restoreComplete s = .next (s.bankWritten.nameMode .solo 0x0B) := by
  simp [exec, execRestoreComplete, h, hauth, hpair]

theorem exec_restoreComplete_mirs (s : State) (h : s.mode.mode = .rstr ∧ s.restoreDone = true)
    (hauth : s.boot.auth = false ∧ s.boot.twinAuth = true) : exec .restoreComplete s = .next (s.bankWritten.nameMode .mirs 0x0B) := by
  simp [exec, execRestoreComplete, h, hauth]

/-! ### The warm reset and the tile reset -/

@[simp] theorem State.clearFences_mode (s : State) : s.clearFences.mode = s.mode :=
  foldl_preserves (g := State.mode) (fun _ _ => State.log_mode ..) _ s

@[simp] theorem State.clearFences_dram (s : State) : s.clearFences.dram = s.dram :=
  foldl_preserves (g := State.dram) (fun _ _ => State.log_dram ..) _ s

/-- The reset of every tile leaves the mode and DRAM, no context and no save under way. -/
theorem State.resetTiles_frame (s : State) (warm : Bool) : (s.resetTiles warm).mode = s.mode ∧ (s.resetTiles warm).dram = s.dram ∧
    (s.resetTiles warm).ctxs = [] ∧ (s.resetTiles warm).save.run = none := by
  have hfuses : s.stopFuses.mode = s.mode ∧ s.stopFuses.dram = s.dram := by
    unfold State.stopFuses
    split <;> exact ⟨rfl, rfl⟩
  exact ⟨hfuses.1, hfuses.2, rfl, rfl⟩

/-- What a warm reset leaves that takes effect at once (02 R49). -/
theorem State.warmStart_eq (s : State) : s.warmStart.mode.mode = .brup ∧ s.warmStart.mode.cause = 0x0A ∧ s.warmStart.pwr.state = .running ∧
    s.warmStart.dram = s.dram ∧ s.warmStart.ctxs = [] ∧ s.warmStart.save.run = none := by
  obtain ⟨hmode, hdram, hctxs, hrun⟩ := (s.setMode .brup 0x0A).clearFences.resetTiles_frame true
  have hm : s.warmStart.mode = (s.setMode .brup 0x0A).mode := hmode.trans (State.clearFences_mode _)
  exact ⟨congrArg _ hm, congrArg _ hm, rfl, hdram.trans (State.clearFences_dram _), hctxs, hrun⟩

theorem exec_warmReset_brup (s : State) (h : s.mode.mode = .brup) : exec .warmReset s = .next s.warmStart := by
  obtain ⟨_, _, _, _, _, hrun⟩ := s.warmStart_eq
  simp [exec, execWarmReset, State.warmReset, h, hrun]

/-- In a serving mode a warm reset commits a planned save. -/
theorem State.warmReset_serving (s : State) (h : s.mode.mode = .rstr ∨ s.mode.mode = .actv ∨ s.mode.mode = .mirs ∨ s.mode.mode = .solo) :
    s.warmReset = some (({ s with mode := { s.mode with warmReset := true } } : State).commitSave 5 true true) := by
  obtain h | h | h | h := h <;> simp only [State.warmReset, h]

theorem exec_warmReset_serving (s : State) (h : s.mode.mode = .rstr ∨ s.mode.mode = .actv ∨ s.mode.mode = .mirs ∨ s.mode.mode = .solo) :
    let r := ({ s with mode := { s.mode with warmReset := true } } : State).commitSave 5 true true
    exec .warmReset s = .next (if r.save.run.isSome then r.finishAll (fun o => decide (o = .save)) .ok (BitVec.ofNat 64 s.master) else r) := by
  simp only [exec, execWarmReset, s.warmReset_serving h]

theorem exec_tileReset (s : State) (tile : Nat) (h : tile ≠ 0 ∧ tile < s.tiles ∧ s.tileFenced tile = true ∧ s.mode.leaving = false) :
    exec (.tileReset tile) s = .next (s.resetTile tile) := by
  obtain ⟨h0, htile, hfenced, hleaving⟩ := h
  simp [exec, execTileReset, h0, htile, hfenced, hleaving]

/-! ### The end of a save -/

/-- A tile that ends phase 10: `q` is the save after it. -/
theorem exec_saveComplete (s : State) (tile : Nat) (r q : SaveRun) (hr : s.save.run = some r)
    (h : r.instant.isSome = true ∧ r.complete.contains tile = false ∧ s.liveTiles.contains tile = true ∧ s.shutting = false)
    (hq : (s.saveTile tile).save.run = some q) : exec (.saveComplete tile) s =
      .next (if (s.saveTile tile).liveTiles.all (fun t => q.complete.contains t) = true then (s.saveTile tile).endSave q else s.saveTile tile) := by
  obtain ⟨hinstant, hcomplete, hlive, hshutting⟩ := h
  have hnone : r.instant.isNone = false := by simpa using hinstant
  simp only [exec, execSaveComplete, hr, hnone, hcomplete, hlive, hshutting, hq]
  rfl

/-- A save in which a live tile has not ended phase 10 has not ended. -/
theorem State.saveEnded_of_not_mem {s : State} {r : SaveRun} {k : Nat} (hk : k ∈ s.liveTiles) (hr : k ∉ r.complete) : s.saveEnded r = false := by
  unfold State.saveEnded
  rw [List.all_eq_false]
  exact ⟨k, hk, by simpa using hr⟩

theorem exec_saveTimeout (s : State) (r : SaveRun) (f : Nat) (h : s.save.run = some r ∧ r.runFrom = some f)
    (hlate : s.shutting = false ∧ (∃ k ∈ s.liveTiles, k ∉ r.complete) ∧ s.saveLimit ≤ r.used + (s.clock - f)) :
    exec .saveTimeout s = .next (s.shutdown (if s.mode.leaving then 0x0C else 0x0F)) := by
  obtain ⟨hrun, hfrom⟩ := h
  obtain ⟨hshutting, ⟨k, hk, hmem⟩, hlimit⟩ := hlate
  simp [exec, execSaveTimeout, hrun, hfrom, hshutting, State.saveEnded_of_not_mem hk hmem, hlimit]

/-- Settles O18: each command under its conditions; the loader and the end of step 12 leave what the next decision reads. -/
theorem restoreAndResets : Obligations.RestoreAndResets := by
  unfold Obligations.RestoreAndResets
  refine ⟨exec_restoreLoad_home, exec_restoreLoad_group, exec_restoreLoad_end, exec_restoreLoad_empty, ?demand, ?good, ?repaired,
    exec_restoreComplete_actv, exec_restoreComplete_solo, exec_restoreComplete_mirs, ?warmBrup, exec_warmReset_serving, ?tileReset, ?saveOpen,
    ?saveLast, exec_saveTimeout, fun _ => rfl⟩
  case demand => exact fun s tile page hw hneed h => exec_restoreDemandFault s tile page hw hneed h.1 h.2
  case good =>
    intro s tile err h hline hlast
    refine exec_verifyLine s s tile err h ?_ hlast.1 hlast.2
    rw [if_pos hline.1, if_neg (by simp [hline.2])]
  case repaired =>
    intro s u tile err h hline hu hlast
    refine exec_verifyLine s u tile err h ?_ hlast.1 hlast.2
    rw [if_neg (by simp [hline]), hu]
  case warmBrup =>
    intro s h
    obtain ⟨hmode, hcause, hpwr, hdram, hctxs, -⟩ := s.warmStart_eq
    exact ⟨exec_warmReset_brup s h, hmode, hcause, hpwr, hdram, hctxs⟩
  case tileReset => exact fun s tile h => ⟨exec_tileReset s tile h, rfl, rfl, rfl, rfl, rfl⟩
  case saveOpen => exact fun s tile r q hr h hq hall => by rw [exec_saveComplete s tile r q hr h hq, if_neg (ne_true_of_eq_false hall)]
  case saveLast => exact fun s tile r q hr h hq hall => by rw [exec_saveComplete s tile r q hr h hq, if_pos hall]

end Sys2Proof.Machine
end

section
/-! Requests at the host ports (03 R72 to R96; 04 R108, R138; 12 R381): what a port does with a line that it lets in, what a violation leaves
of the state, and each command under its conditions. -/

namespace Sys2Proof.Machine

/-! ### A line that its port lets in -/

/-- The request of CXL_MEM_READ as its port receives it. -/
def State.memRead (s : State) (tile link ld tag hpa : Nat) : Req :=
  { s.received .mem .read tile link ld tag (hpa / 64 * 64) 64 with mask := Mask.full }

/-- The request of CXL_MEM_STORE as its port receives it. -/
def State.memStore (s : State) (tile link ld tag hpa : Nat) (mask : Mask) (data : Line) (poison : Bool) : Req :=
  { s.received .mem .store tile link ld tag (hpa / 64 * 64) 64 with mask, data, poison }

theorem exec_cxlMemRead {s : State} {tile link ld : Nat} (tag hpa : Nat) (htakes : s.takes .mem tile link ld = true)
    (hcredit : s.hasCredit tile link true = true) :
    exec (.cxlMemRead tile link ld tag hpa) s = .next (s.oneLine .mem (s.memRead tile link ld tag hpa)) :=
  congrArg Host.Outcome.next (if_pos ⟨htakes, hcredit⟩)

theorem exec_cxlMemStore {s : State} {tile link ld : Nat} (tag hpa : Nat) (mask : Mask) (data : Line) (poison : Bool)
    (htakes : s.takes .mem tile link ld = true) (hcredit : s.hasCredit tile link false = true) :
    exec (.cxlMemStore tile link ld tag hpa mask data poison) s = .next (s.oneLine .mem (s.memStore tile link ld tag hpa mask data poison)) :=
  congrArg Host.Outcome.next (if_pos ⟨htakes, hcredit⟩)

theorem State.oneLine_of_tide {s : State} {q : Req} (h : s.tideStops q.tile = true) (v : Via) : s.oneLine v q = s.hold q .tideHold none none := if_pos h

theorem State.oneLine_of_no_tide {s : State} {q : Req} (h : s.tideStops q.tile = false) (v : Via) : s.oneLine v q = s.takeIn v q :=
  if_neg (ne_true_of_eq_false h)

theorem State.inSlip_of_slipOff_none {s : State} {r : Req} (h : s.slipOff r.sess = none) : s.inSlip r = false := by
  unfold State.inSlip
  rw [h]

theorem State.rerouted_self (s : State) (t : Nat) : s.rerouted t t = false := if_pos (.inr rfl)

theorem State.takeIn_viol {s : State} {q : Req} {cause : Nat} {sess : Option Nat}
    (h : s.lookup q.tile q.link q.ld q.whole.1 q.whole.2 = .viol cause sess) (v : Via) : s.takeIn v q = s.refuseReq v q cause sess := by
  simp only [State.takeIn, h]

section Hit

variable {s : State} {q : Req} {n x off dpa : Nat} {tiered : Bool}
  (hwhole : s.lookup q.tile q.link q.ld q.whole.1 q.whole.2 = .hit n x off dpa tiered)
  (hline : s.lookup q.tile q.link q.ld q.hpa q.bytes = .hit n x off dpa tiered) (hslip : s.slipOff n = none)

include hwhole hline hslip

/-- The mode refuses a request that its window maps, off the Slipway page (03 R94, cause 3). -/
theorem State.takeIn_refused (hmode : s.modeServes q.kind q.tile q.ld = false) (v : Via) :
    s.takeIn v q = s.refuseReq v (s.withTarget { q with sess := n, off, dpa, tiered }) 3 (some n) := by
  have hout : s.inSlip (s.withTarget { q with sess := n, off, dpa, tiered }) = false := State.inSlip_of_slipOff_none hslip
  have hrefuses : s.modeServes (s.withTarget { q with sess := n, off, dpa, tiered }).kind q.tile q.ld = false := hmode
  simp [State.takeIn, hwhole, hline, hout, hrefuses]

/-- A request that its window maps into its own tile, off the Slipway page, is dispatched. -/
theorem State.takeIn_own (hmode : s.modeServes q.kind q.tile q.ld = true) (hown : dpa / 2 ^ 43 = q.tile) (v : Via) :
    s.takeIn v q = s.dispatch (s.withTarget { q with sess := n, off, dpa, tiered }) := by
  have hout : s.inSlip (s.withTarget { q with sess := n, off, dpa, tiered }) = false := State.inSlip_of_slipOff_none hslip
  have hserves : s.modeServes (s.withTarget { q with sess := n, off, dpa, tiered }).kind q.tile q.ld = true := hmode
  have howner : (s.withTarget { q with sess := n, off, dpa, tiered }).owner = q.tile := hown
  simp [State.takeIn, hwhole, hline, hout, hserves, howner, State.rerouted_self]

end Hit

/-- A read has no store queue: it is served at once. -/
theorem State.dispatch_of_not_store {s : State} {r : Req} (h : r.isStore = false) :
    s.dispatch r = ((s.serveReq r none).noteCredits r.tile r.link).keepCredit r := by
  unfold State.dispatch
  rw [h]
  rfl

theorem queueEntries_pos (width : Nat) : 0 < queueEntries width := by
  unfold queueEntries
  split
  · decide
  · split <;> decide

theorem State.queueFull_of_waits_nil {s : State} (h : s.waits = []) (t k y : Nat) : s.queueFull t k y = false := by
  have := queueEntries_pos (s.link t k).width
  simp only [State.queueFull, h, List.countP_nil, decide_eq_false_iff_not]
  omega

/-- Where nothing waits, a store finds the ingress buffer empty and room in its store queue. -/
theorem State.dispatch_of_waits_nil {s : State} (h : s.waits = []) (r : Req) :
    s.dispatch r = ((s.serveReq r none).noteCredits r.tile r.link).keepCredit r := by
  unfold State.dispatch
  rw [State.queueFull_of_waits_nil h, h]
  simp

/-- A store whose store queue is full stays in the ingress buffer (04 R138). -/
theorem State.dispatch_of_queueFull {s : State} {r : Req} (hstore : r.isStore = true) (hfull : s.queueFull r.tile r.link r.owner = true) :
    s.dispatch r = (s.hold r .ingress none none).noteCredits r.tile r.link := by
  unfold State.dispatch
  rw [hstore, hfull, Bool.or_true]
  rfl

/-! ### Violations -/

/-- The entry of a violation by CXL.mem: the LD is the requester, and the address is that of the line (03 Table 3-8). -/
def memViol (k : RKind) (tile link ld hpa stamp cause : Nat) (sess : Option Nat) : VEntry :=
  { tidemark := stamp, addr := hpa / 64 * 64, sess, pbr := none, reqid := ld, tile, link, ld, cause, op := opCode .mem k }

/-- The answer to a CXL.mem request that is a violation: a read gets a poisoned line, a store completes (03 R94). -/
def memViolAnswer (k : RKind) (tile link tag : Nat) : Output :=
  .response tile link tag rOk (if k = .read then BitVec.allOnes 512 else 0) (decide (k = .read))

/-- An entry goes to the log of the owner LD, which stands in its registers. -/
theorem State.logViol_eq (s : State) (e : VEntry) (t d : Nat) : ∃ bs, s.logViol e t d = { s with bars := bs } := ⟨_, rfl⟩

/-- The state that has counted a violation at the LD of its requester (03 R96). -/
def State.countViol (s : State) (tile ld : Nat) : State := s.setBar tile ld { s.bar tile ld with violReq := ((s.bar tile ld).violReq + 1) % 2 ^ 48 }

/-- An entry goes to the log of the LD that owns its session, where one does (03 R96). -/
def State.tellOwner (s : State) (e : VEntry) : State :=
  match e.sess with
  | some n => (match s.ownerOf n with | some (t, d) => s.logViol e t d | none => s)
  | none => s

theorem State.tellOwner_of_sess_none (s : State) {e : VEntry} (h : e.sess = none) : s.tellOwner e = s := by
  unfold State.tellOwner
  rw [h]

theorem State.tellOwner_eq (s : State) (e : VEntry) : ∃ bs, s.tellOwner e = { s with bars := bs } := by
  unfold State.tellOwner
  split
  · split
    · exact s.logViol_eq e _ _
    · exact ⟨s.bars, rfl⟩
  · exact ⟨s.bars, rfl⟩

/-- A violation by CXL.mem in its parts: counted, told to the owner of the session, kept for the fabric manager and answered (03 R94 to R96). -/
theorem State.violate_mem (s : State) (k : RKind) (tile link ld tag hpa stamp cause : Nat) (sess : Option Nat) :
    let e := memViol k tile link ld hpa stamp cause sess
    let u := ((s.countViol tile ld).tally tile 0 cause { sess, tile, link := some link, ld := some ld, pl := s.ldLevel tile ld }).tellOwner e
    s.violate .mem k tile link ld tag hpa stamp cause sess none =
      { u with mgmt := { u.mgmt with viols := u.mgmt.viols ++ [e.words] },
               out := memViolAnswer k tile link tag :: .event tile ld 0x96 (e.words.map BitVec.toNat) :: u.out } := by
  cases k <;> rfl

/-- What a violation by CXL.mem leaves of memory, and what it keeps for the fabric manager and answers. -/
theorem State.violate_mem_effect (s : State) (k : RKind) (tile link ld tag hpa stamp cause : Nat) (sess : Option Nat) :
    let t := s.violate .mem k tile link ld tag hpa stamp cause sess none
    t.dram = s.dram ∧ t.eaves = s.eaves ∧ t.wq = s.wq ∧ t.tide = s.tide ∧
      t.mgmt.viols = s.mgmt.viols ++ [(memViol k tile link ld hpa stamp cause sess).words] ∧ t.out.head? = some (memViolAnswer k tile link tag) := by
  intro t
  obtain ⟨rd, ps, pm, htally⟩ := (s.countViol tile ld).tally_log tile 0 cause { sess, tile, link := some link, ld := some ld, pl := s.ldLevel tile ld }
  obtain ⟨bs, htell⟩ := ({ s.countViol tile ld with recd := rd, params := ps, pmc := pm } : State).tellOwner_eq (memViol k tile link ld hpa stamp cause sess)
  have ht : t = _ := s.violate_mem k tile link ld tag hpa stamp cause sess
  rw [htally, htell] at ht
  rw [ht]
  exact ⟨rfl, rfl, rfl, rfl, rfl, rfl⟩

/-- A violation at an address that names no session counts once at the LD of its requester. -/
theorem State.violate_mem_violReq (s : State) (k : RKind) (tile link ld tag hpa stamp cause : Nat) :
    ((s.violate .mem k tile link ld tag hpa stamp cause none none).bar tile ld).violReq = ((s.bar tile ld).violReq + 1) % 2 ^ 48 := by
  have hbars : (s.violate .mem k tile link ld tag hpa stamp cause none none).bars = (s.countViol tile ld).bars := by
    rw [State.violate_mem, State.tellOwner_of_sess_none _ rfl]
    exact State.tally_bars _ _ _ _ _
  rw [State.bar, hbars]
  exact congrArg Bar.violReq (s.bar_setBar tile ld _)

/-- The request as a whole is refused where its first line is. -/
theorem State.refuseReq_whole {s : State} {q : Req} (h : q.hpa = q.whole.1) (v : Via) (cause : Nat) (sess : Option Nat) :
    ∃ gs, s.refuseReq v q cause sess = ({ s with groups := gs } : State).violate v q.kind q.tile q.link q.ld q.tag q.whole.1 q.stamp cause sess none :=
  ⟨_, if_pos h⟩

theorem memViol_line (k : RKind) (tile link ld hpa stamp cause : Nat) (sess : Option Nat) :
    memViol k tile link ld (hpa / 64 * 64) stamp cause sess = memViol k tile link ld hpa stamp cause sess := by
  unfold memViol
  rw [Nat.mul_div_cancel _ (by decide)]

/-! ### UIO, CXL.io and atomics -/

/-- Bytes within one line are one part. -/
theorem lineParts_of_le {h n : Nat} (hn : 0 < n) (hline : h % 64 + n ≤ 64) : lineParts h n = [(h, n)] := by
  have hone : (h + n + 63) / 64 - h / 64 = 1 := by omega
  have hlo : max h ((h / 64 + 0) * 64) = h := by omega
  have hlen : min (h + n) ((h / 64 + 0 + 1) * 64) - h = n := by omega
  simp only [lineParts, hone, List.range_one, List.map_cons, List.map_nil, hlo, hlen]

theorem State.barHit_of_base_none {s : State} {t d : Nat} (h : (s.bar t d).base = none) (hpa n : Nat) : s.barHit t d hpa n = none := by
  unfold State.barHit
  rw [h]

theorem State.barHit_of_base {s : State} {t d b off n : Nat} (h : (s.bar t d).base = some b) (hn : off + n ≤ 0x40000) :
    s.barHit t d (b + off) n = some off := by
  unfold State.barHit
  simp only [h]
  rw [if_pos ⟨by omega, by omega⟩, Nat.add_sub_cancel_left]

/-- UIO_REQUEST of an LD without BAR0 (03 R85). -/
theorem exec_uioRequest_of_base_none {s : State} {via : Via} {tile link ld hpa len : Nat} (write : Bool) (tag : Nat) (data : List Byte)
    (hvia : via ≠ .mem) (htakes : s.takes via tile link ld = true) (hbase : (s.bar tile ld).base = none) (hlen : 0 < len ∧ len ≤ 4096) :
    exec (.uioRequest via write tile link ld tag hpa len data) s = .next (s.uioRequest via write tile link ld tag hpa len data) := by
  have hhit : (if via = .io ∧ s.ldUp tile ld ∧ s.ldLink tile ld = link then s.barHit tile ld hpa len else none) = none := by
    rw [State.barHit_of_base_none hbase, ite_self]
  show execUioRequest via write tile link ld tag hpa len data s = _
  unfold execUioRequest
  rw [if_pos ⟨hvia, hlen⟩, hhit]
  exact congrArg Host.Outcome.next (if_pos htakes)

/-- A write within one line is one line (03 R85). -/
theorem State.uioRequest_write_line (s : State) (via : Via) (tile link ld tag : Nat) {hpa len : Nat} (data : List Byte) (hlen : 0 < len)
    (hline : hpa % 64 + len ≤ 64) :
    s.uioRequest via true tile link ld tag hpa len data = s.oneLine via { s.received via .store tile link ld tag hpa len with
      mask := partMask (hpa % 64) len, data := Line.ofBytes (List.replicate (hpa % 64) 0 ++ data.take len) } := by
  simp [State.uioRequest, lineParts_of_le hlen hline, State.received]

/-- A CXL.io read within one line of BAR0 (03 R98). -/
theorem exec_uioRequest_bar_read {s : State} {tile ld b off len : Nat} (tag : Nat) (hup : s.ldUp tile ld = true)
    (hbase : (s.bar tile ld).base = some b) (hbar : off + len ≤ 0x40000) (hlen : 0 < len) (hline : off % 64 + len ≤ 64) :
    exec (.uioRequest .io false tile (s.ldLink tile ld) ld tag (b + off) len []) s = .next (s.barReadAt tile ld tag off len) := by
  have hhit : (if Via.io = .io ∧ s.ldUp tile ld ∧ s.ldLink tile ld = s.ldLink tile ld then s.barHit tile ld (b + off) len else none) = some off := by
    rw [if_pos ⟨rfl, hup, rfl⟩, State.barHit_of_base hbase hbar]
  show execUioRequest .io false tile (s.ldLink tile ld) ld tag (b + off) len [] s = _
  unfold execUioRequest
  rw [if_pos ⟨nofun, hlen, by omega⟩, hhit]
  simp [lineParts_of_le hlen hline]

/-- REMOTE_ATOMIC that its port takes (03 R91, R92). -/
theorem exec_remoteAtomic {s : State} {via : Via} {tile link ld : Nat} (op : Atomic) (bytes tag hpa : Nat) (a b : BitVec 128) (hvia : via ≠ .mem)
    (htakes : s.takes via tile link ld = true) :
    exec (.remoteAtomic via op bytes tile link ld tag hpa a b) s = .next (
      if !atomicSizeOk op bytes then s.emit (.response tile link tag rUnsupported 0 false)
      else if hpa % bytes ≠ 0 then s.emit (.response tile link tag rMalformed 0 false)
      else s.oneLine via (s.received via (match op with | .fetchAdd => .fetchAdd bytes a | _ => .cas bytes a b) tile link ld tag hpa bytes)) :=
  congrArg Host.Outcome.next (if_pos ⟨hvia, htakes⟩)

/-! ### The interrupt of violations, and the return of credits -/

theorem exec_violationInterrupt_first {s : State} {tile ld : Nat} (hwait : (s.bar tile ld).vec1Wait = true) (hat : (s.bar tile ld).vec1At = none) :
    exec (.violationInterrupt tile ld) s = .next ((s.setBar tile ld { s.bar tile ld with vec1Wait := false, vec1At := some s.clock }).emit (.msix tile ld 1)) := by
  show execViolationInterrupt tile ld s = _
  simp only [execViolationInterrupt, hwait, hat]
  rfl

theorem exec_violationInterrupt_holdoff {s : State} {tile ld t0 : Nat} (hat : (s.bar tile ld).vec1At = some t0)
    (hearly : s.clock < t0 + s.tileP bPort tile 2 * us) : exec (.violationInterrupt tile ld) s = .next s := by
  have hdue : s.due t0 (s.tileP bPort tile 2 * us) = false := decide_eq_false (by omega)
  show execViolationInterrupt tile ld s = _
  simp only [execViolationInterrupt, hat, hdue, Bool.and_false]
  rfl

/-- The owning tiles for whose sake a link goes on withholding its RwD credits (03 R81; 04 R129). -/
def State.stillHeldFor (s : State) (t k : Nat) : List Nat :=
  (s.link t k).heldFor.filter (fun y => (s.blockedFor t k).contains y || (s.pt y).mergeFull)

/-- CREDIT_RETURN of a link of the part (03 R81). -/
theorem exec_creditReturn {s : State} {tile link : Nat} (ht : tile < s.tiles) (hl : link < 4) :
    exec (.creditReturn tile link) s = .next (s.setLink tile link { s.link tile link with
      heldRwD := !(s.stillHeldFor tile link).isEmpty, heldFor := s.stillHeldFor tile link,
      keptRwD := if (s.stillHeldFor tile link).isEmpty then 0 else (s.link tile link).keptRwD,
      heldReq := s.readsBlocked tile link && (s.link tile link).heldReq,
      keptReq := if s.readsBlocked tile link && (s.link tile link).heldReq then (s.link tile link).keptReq else 0 }) :=
  congrArg Host.Outcome.next (if_pos ⟨ht, hl⟩)

/-- Settles O19, clause by clause from what each command does under its conditions. -/
theorem hostRequests : Obligations.HostRequests := by
  unfold Obligations.HostRequests
  refine ⟨?read, ?store, ?queued, ?unmapped, ?refused, ?held, ?uio, ?bar, ?fetchAdd, ?badAtomic, ?unsupported, ?vector, ?holdoff, ?returned, ?kept⟩
  case read =>
    rintro s tile link ld tag hpa n x off dpa tiered ⟨htakes, hcredit, htide⟩ hhit ⟨hmode, hown⟩ hslip
    rw [exec_cxlMemRead tag hpa htakes hcredit, State.oneLine_of_no_tide htide, State.takeIn_own hhit hhit hslip hmode hown, State.dispatch_of_not_store rfl]
    rfl
  case store =>
    rintro s tile link ld tag hpa n x off dpa tiered mask data poison ⟨htakes, hcredit, htide⟩ hhit ⟨hmode, hown⟩ hslip hwaits
    rw [exec_cxlMemStore tag hpa mask data poison htakes hcredit, State.oneLine_of_no_tide htide, State.takeIn_own hhit hhit hslip hmode hown,
      State.dispatch_of_waits_nil hwaits]
    rfl
  case queued =>
    rintro s tile link ld tag hpa n x off dpa tiered mask data poison ⟨htakes, hcredit, htide⟩ hhit ⟨hmode, rfl⟩ hslip hfull
    rw [exec_cxlMemStore tag hpa mask data poison htakes hcredit, State.oneLine_of_no_tide htide, State.takeIn_own hhit hhit hslip hmode rfl,
      State.dispatch_of_queueFull rfl hfull]
    rfl
  case unmapped =>
    rintro s tile link ld tag hpa ⟨htakes, hcredit, htide⟩ hviol
    refine ⟨_, exec_cxlMemRead tag hpa htakes hcredit, ?_⟩
    rw [State.oneLine_of_no_tide htide, State.takeIn_viol hviol]
    obtain ⟨gs, he⟩ := State.refuseReq_whole (s := s) (q := s.memRead tile link ld tag hpa) rfl .mem 1 none
    rw [he]
    obtain ⟨hdram, heaves, hwq, htides, hviols, hout⟩ :=
      ({ s with groups := gs } : State).violate_mem_effect .read tile link ld tag (hpa / 64 * 64) (s.localCount tile) 1 none
    rw [memViol_line] at hviols
    exact ⟨hdram, heaves, hwq, htides, State.violate_mem_violReq _ _ _ _ _ _ _ _ _, hviols, hout⟩
  case refused =>
    rintro s tile link ld tag hpa n x off dpa tiered mask data poison ⟨htakes, hcredit, htide⟩ hhit hmode hslip
    refine ⟨_, exec_cxlMemStore tag hpa mask data poison htakes hcredit, ?_⟩
    rw [State.oneLine_of_no_tide htide, State.takeIn_refused hhit hhit hslip hmode]
    obtain ⟨gs, he⟩ := State.refuseReq_whole (s := s) (q := s.withTarget { s.memStore tile link ld tag hpa mask data poison with sess := n, off, dpa, tiered }) rfl
      .mem 3 (some n)
    rw [he]
    have heffect := ({ s with groups := gs } : State).violate_mem_effect .store tile link ld tag (hpa / 64 * 64) (s.localCount tile) 3 (some n)
    rw [memViol_line] at heffect
    exact heffect
  case held =>
    rintro s tile link ld tag hpa ⟨htakes, hcredit, htide⟩
    rw [exec_cxlMemRead tag hpa htakes hcredit, State.oneLine_of_tide htide]
    rfl
  case uio =>
    rintro s via tile link ld tag hpa len data ⟨hvia, htakes⟩ hbase ⟨hlen, hline⟩
    rw [exec_uioRequest_of_base_none true tag data hvia htakes hbase ⟨hlen, by omega⟩, State.uioRequest_write_line _ _ _ _ _ _ _ hlen hline]
  case bar =>
    rintro s tile link ld tag b off ⟨hup, rfl⟩ ⟨hbase, hbar, -, hline⟩
    exact exec_uioRequest_bar_read tag hup hbase hbar (by decide) hline
  case fetchAdd =>
    rintro s via tile link ld tag hpa a b ⟨hvia, htakes⟩ haligned
    rw [exec_remoteAtomic _ _ _ _ _ _ hvia htakes, if_neg (by decide), if_neg (by omega)]
  case badAtomic =>
    rintro s via op bytes tile link ld tag hpa a b ⟨hvia, htakes⟩ hbad
    rw [exec_remoteAtomic _ _ _ _ _ _ hvia htakes]
    cases hsize : atomicSizeOk op bytes with
    | false => rfl
    | true =>
      have hmis : hpa % bytes ≠ 0 := hbad.resolve_left (by simp [hsize])
      simp [hmis]
  case unsupported =>
    intro s tile link ld tag htakes
    exact congrArg Host.Outcome.next (if_pos htakes)
  case vector =>
    intro s tile ld hwait hat
    exact exec_violationInterrupt_first hwait hat
  case holdoff =>
    intro s tile ld t0 hat hearly
    exact exec_violationInterrupt_holdoff hat hearly
  case returned =>
    rintro s tile link ⟨ht, hl⟩ ⟨hfree, hreads⟩
    have hnone : s.stillHeldFor tile link = [] := by
      rw [State.stillHeldFor, List.filter_eq_nil_iff]
      intro y hy
      simp [hfree y hy]
    rw [exec_creditReturn ht hl, hnone, hreads]
    rfl
  case kept =>
    rintro s tile link y ⟨ht, hl⟩ ⟨hy, hfull⟩
    have hmem : y ∈ s.stillHeldFor tile link := List.mem_filter.mpr ⟨hy, by simp [hfull]⟩
    have hsome : (s.stillHeldFor tile link).isEmpty = false := by
      rw [List.isEmpty_eq_false_iff]
      exact List.ne_nil_of_mem hmem
    refine ⟨_, exec_creditReturn ht hl, ?_⟩
    dsimp only
    rw [State.link_setLink, hsome]
    exact ⟨rfl, rfl, hmem⟩

end Sys2Proof.Machine
end

section
/-! Dynamic capacity and the mailbox of an LD (03 R74 to R88): each command under its conditions. -/

namespace Sys2Proof.Machine

theorem bindAt_iff {b : Bind} {t d w : Nat} {st : WinState} : bindAt b t d w st = true ↔ b.tile = t ∧ b.ld = d ∧ b.w = w ∧ b.state = st := decide_eq_true_iff

theorem exec_addDynamicCapacityResponse {s : State} {tile ld : Nat} (window : Nat) (hup : s.ldUp tile ld = true) :
    exec (.addDynamicCapacityResponse tile ld window) s = .next { s with binds := s.binds.map (fun (b : Bind) =>
      if bindAt b tile ld window .offered then { b with state := .accepted, since := s.clock } else b) } :=
  congrArg Host.Outcome.next (if_pos hup)

theorem exec_injectPoison {s : State} {tile ld : Nat} (addr : Nat) (hup : s.ldUp tile ld = true) :
    exec (.injectPoison tile ld addr) s = .next (s.mailStore tile ld addr 0x4301 0 true) :=
  congrArg Host.Outcome.next (if_pos hup)

theorem exec_clearPoison {s : State} {tile ld : Nat} (addr : Nat) (data : Line) (hup : s.ldUp tile ld = true) :
    exec (.clearPoison tile ld addr data) s = .next (s.mailStore tile ld addr 0x4302 data false) :=
  congrArg Host.Outcome.next (if_pos hup)

/-- An LD that is not the management LD stores nothing through its mailbox (03 R74, R86). -/
theorem State.mailStore_of_not_mgmt {s : State} {t d : Nat} (h : s.isMgmt t d = false) (a op : Nat) (data : Line) (poison : Bool) :
    s.mailStore t d a op data poison = s.emit (.mailbox t d op mbUnsupported []) := by
  unfold State.mailStore
  rw [h]
  rfl

/-- The request of the device's own that stores a line at a decoded address of a window (03 R86). -/
def State.mailReq (s : State) (t d a : Nat) (b : Bind) (data : Line) (poison : Bool) : Req :=
  s.withTarget { src := .ctx noCtx, kind := .store, tile := t, link := s.ldLink t d, ld := d, tag := 0, hpa := 0, mask := Mask.full, data, poison,
                 stamp := s.localCount t, since := s.clock, sess := b.sess, off := (s.ext b.sess b.ext).start + (a / 64 * 64 - b.w),
                 dpa := (s.ext b.sess b.ext).dpa + (a / 64 * 64 - b.w), tiered := (s.ext b.sess b.ext).tiered, pl := s.ldLevel t d, order := 4 }

/-- The management LD stores one line in a window that a host holds. -/
theorem State.mailStore_mgmt {s : State} {t d a : Nat} {b : Bind} (hmgmt : s.isMgmt t d = true) (hserves : s.servesStores = true)
    (hwindow : s.window t (s.ldLink t d) d a = some b) (hoffered : b.state ≠ .offered) (hreleased : b.state ≠ .released) (op : Nat) (data : Line) (poison : Bool) :
    s.mailStore t d a op data poison = (s.emit (.mailbox t d op mbOk [])).serveReq (s.mailReq t d a b data poison) none := by
  simp [State.mailStore, hmgmt, hserves, hwindow, hoffered, hreleased, State.mailReq]

/-- The answer to Get Poison List. -/
theorem exec_getPoisonList {s : State} {tile ld : Nat} (hup : s.ldUp tile ld = true) :
    exec (.getPoisonList tile ld) s = .next (s.sendPoisonList tile ld) :=
  congrArg Host.Outcome.next (if_pos hup)

/-- Settles O23, clause by clause from what each command does under its conditions. -/
theorem capacityAndMailbox : Obligations.CapacityAndMailbox := by
  unfold Obligations.CapacityAndMailbox
  refine ⟨?add, ?release, ?timeout, ?poisonList, ?unsupported, ?stored, ?health⟩
  case add =>
    intro s tile ld window hup
    simp only [exec_addDynamicCapacityResponse window hup, bindAt_iff]
  case release =>
    intro s tile ld window hup hreleasing
    exact congrArg Host.Outcome.next (if_pos ⟨hup, hreleasing⟩)
  case timeout =>
    intro s tile ld window hlate
    exact congrArg Host.Outcome.next (if_pos hlate)
  case poisonList =>
    intro s tile ld hup
    refine ⟨_, exec_getPoisonList hup, ?_⟩
    simp only [State.sendPoisonList, Bool.or_eq_true, decide_eq_true_iff]
    rfl
  case unsupported =>
    rintro s tile ld addr data ⟨hup, hmgmt⟩
    rw [exec_injectPoison addr hup, exec_clearPoison addr data hup, State.mailStore_of_not_mgmt hmgmt, State.mailStore_of_not_mgmt hmgmt]
    exact ⟨rfl, rfl⟩
  case stored =>
    rintro s tile ld addr data b ⟨hup, hmgmt, hserves⟩ ⟨hwindow, hoffered, hreleased⟩
    have hstore := State.mailStore_mgmt hmgmt hserves hwindow hoffered hreleased
    rw [exec_injectPoison addr hup, exec_clearPoison addr data hup, hstore, hstore]
    exact ⟨rfl, rfl⟩
  case health =>
    intro s tile ld hup
    exact congrArg Host.Outcome.next (if_pos hup)

end Sys2Proof.Machine
end

section
/-! The doorbell and status window of an LD (03 R97 to R102): each command under its conditions. -/

namespace Sys2Proof.Machine

/-! ### Doorbells -/

theorem State.ldCtx_not_isNone {s : State} {t d : Nat} (h : (s.ldCtx t d).isSome = true) : ¬ (s.ldCtx t d).isNone = true :=
  ne_true_of_eq_false (Option.isNone_eq_false_iff.mpr h)

theorem State.ldCtx_isNone {s : State} {t d : Nat} (h : s.ldCtx t d = none) : (s.ldCtx t d).isNone = true := Option.isNone_iff_eq_none.mpr h

/-- The submission ring of an LD with the items that the host has written from its tail on (03 R99). -/
def Bar.withItems (b : Bar) (items : List Word) : Bar :=
  { b with sq := (List.range items.length).foldl (fun (q : Store Word) i => Store.write q ((b.sqTail + i) % 1024) (items.getD i 0) 0) b.sq }

/-- SQ_DOORBELL, of an LD with a context (03 R99). -/
theorem exec_sqDoorbell {s : State} {tile ld : Nat} (value : Word) (items : List Word) (hup : s.ldUp tile ld = true)
    (hctx : (s.ldCtx tile ld).isSome = true) :
    exec (.sqDoorbell tile ld value items) s = .next ((s.setBar tile ld ((s.bar tile ld).withItems items)).ringDoorbell tile ld value) :=
  congrArg Host.Outcome.next ((if_pos hup).trans (congrArg (fun u : State => u.ringDoorbell tile ld value) (if_neg (State.ldCtx_not_isNone hctx))))

/-- A doorbell that moves the tail. -/
theorem State.ringDoorbell_moves {s : State} {t d : Nat} {value : Word} (hctx : (s.ldCtx t d).isSome = true)
    (hmoves : ((s.bar t d).sqTail + 1024 - (s.bar t d).sqHead) % 1024 < (fld value 9 0 + 1024 - (s.bar t d).sqHead) % 1024) :
    s.ringDoorbell t d value = (s.setBar t d { s.bar t d with
      sqTail := fld value 9 0, sqWait := (s.bar t d).sqWait ++ [(fld value 9 0, fld value 18 16)] }).moveRing t d := by
  unfold State.ringDoorbell
  rw [if_neg (State.ldCtx_not_isNone hctx)]
  exact if_neg (by omega)

/-- An LD without a context counts a doorbell as a stray write (03 R102). -/
theorem State.ringDoorbell_stray {s : State} {t d : Nat} (hctx : s.ldCtx t d = none) (value : Word) : s.ringDoorbell t d value = s.strayWrite t d :=
  if_pos (State.ldCtx_isNone hctx)

/-- SQ_DOORBELL of an LD without a context leaves its ring (03 R102). -/
theorem exec_sqDoorbell_stray {s : State} {tile ld : Nat} (value : Word) (items : List Word) (hup : s.ldUp tile ld = true) (hctx : s.ldCtx tile ld = none) :
    exec (.sqDoorbell tile ld value items) s = .next (s.strayWrite tile ld) := by
  refine congrArg Host.Outcome.next ((if_pos hup).trans ?_)
  exact (congrArg (fun u : State => u.ringDoorbell tile ld value) (if_pos (State.ldCtx_isNone hctx))).trans (State.ringDoorbell_stray hctx value)

/-- An LD without a context counts a GO as a stray write (03 R102). -/
theorem State.cmdGo_stray {s : State} {t d : Nat} (hctx : s.ldCtx t d = none) (value : Word) : s.cmdGo t d value = s.strayWrite t d :=
  if_pos (State.ldCtx_isNone hctx)

/-- CMD_DOORBELL whose GO is ignored: the item registers stay (03 R100, R102). -/
theorem exec_cmdDoorbell_ignored {s : State} {tile ld : Nat} (value item0 item1 : Word) (hup : s.ldUp tile ld = true)
    (h : ((s.ldCtx tile ld).isNone || !bit value 0 || (s.bar tile ld).cmdBusy) = true) :
    exec (.cmdDoorbell tile ld value item0 item1) s = .next (s.cmdGo tile ld value) :=
  congrArg Host.Outcome.next ((if_pos hup).trans (congrArg (fun u : State => u.cmdGo tile ld value) (if_pos h)))

/-- CMD_DOORBELL with GO, to an LD that may take it: the item registers, and then the command (03 R100). -/
theorem exec_cmdDoorbell_go {s : State} {tile ld : Nat} {value : Word} (item0 item1 : Word) (hup : s.ldUp tile ld = true)
    (hctx : (s.ldCtx tile ld).isSome = true) (hgo : bit value 0 = true) (hbusy : (s.bar tile ld).cmdBusy = false) :
    exec (.cmdDoorbell tile ld value item0 item1) s = .next ((s.setBar tile ld { s.bar tile ld with item0, item1 }).cmdGo tile ld value) := by
  have htaken : ¬ ((s.ldCtx tile ld).isNone || !bit value 0 || (s.bar tile ld).cmdBusy) = true := by
    simpa [hgo, hbusy] using State.ldCtx_not_isNone hctx
  exact congrArg Host.Outcome.next ((if_pos hup).trans (congrArg (fun u : State => u.cmdGo tile ld value) (if_neg htaken)))

/-- A GO while the last command item has not entered is a stray write (03 R100). -/
theorem State.cmdGo_busy {s : State} {t d : Nat} {value : Word} (hctx : (s.ldCtx t d).isSome = true) (hgo : bit value 0 = true)
    (hbusy : (s.bar t d).cmdBusy = true) : s.cmdGo t d value = s.strayWrite t d := by
  unfold State.cmdGo
  rw [if_neg (State.ldCtx_not_isNone hctx), if_neg (by simp [hgo]), if_pos hbusy]

/-- A GO of an LD whose last command item has entered (03 R100). -/
theorem State.cmdGo_go {s : State} {t d : Nat} {value : Word} (hctx : (s.ldCtx t d).isSome = true) (hgo : bit value 0 = true)
    (hbusy : (s.bar t d).cmdBusy = false) :
    s.cmdGo t d value = (s.setBar t d { s.bar t d with cmdExt := bit value 1, cmdBusy := true }).moveCmd t d := by
  unfold State.cmdGo
  rw [if_neg (State.ldCtx_not_isNone hctx), if_neg (by simp [hgo]), if_neg (by simp [hbusy])]

/-! ### Pointers and the status window -/

/-- Where no context is held, CQ_HEAD is all that a write of it changes (03 R101). -/
theorem State.readTo_of_none_held {s : State} (h : ∀ n ∈ s.ctxNums, (s.ctx n).held = false) (t d : Nat) (value : Word) :
    s.readTo t d value = s.setBar t d { s.bar t d with cqHead := fld value 7 0 } := by
  let u := s.setBar t d { s.bar t d with cqHead := fld value 7 0 }
  unfold State.readTo
  refine List.foldlRecOn (motive := fun v => v = u) s.ctxNums _ rfl ?_
  rintro _ rfl n hn
  exact if_neg (ne_true_of_eq_false (h n hn))

/-- TIDEMARK_READ (03 R98). -/
theorem exec_tidemarkRead {s : State} {tile ld : Nat} (tag : Nat) (four : Bool) (hup : s.ldUp tile ld = true) :
    exec (.tidemarkRead tile ld tag four) s = .next (
      if four then (s.setBar tile ld { s.bar tile ld with tmHi := fld (BitVec.ofNat 64 (s.localCount tile) : Word) 63 32 }).barRead tile ld tag
        (BitVec.ofNat 64 (fld (BitVec.ofNat 64 (s.localCount tile) : Word) 31 0))
      else s.barRead tile ld tag (BitVec.ofNat 64 (s.localCount tile))) :=
  congrArg Host.Outcome.next (if_pos hup)

/-- Settles O24, clause by clause from what each command does under its conditions. -/
theorem doorbellWindow : Obligations.DoorbellWindow := by
  unfold Obligations.DoorbellWindow
  refine ⟨?ring, ?stray, ?busy, ?go, ?cqHead, ?vlogHead, ?latch, ?tidemark, ?violLost, ?vectors⟩
  case ring =>
    intro s tile ld value items ⟨hup, hctx⟩ hmoves u
    have hbar : u.bar tile ld = (s.bar tile ld).withItems items := State.bar_setBar _ _ _ _
    have hring := State.ringDoorbell_moves (s := u) (value := value) hctx (by rw [hbar]; exact hmoves)
    refine (exec_sqDoorbell value items hup hctx).trans (congrArg Host.Outcome.next (hring.trans ?_))
    rw [hbar]
    rfl
  case stray =>
    rintro s tile ld value item0 item1 items ⟨hup, hctx⟩
    refine ⟨exec_sqDoorbell_stray value items hup hctx, ?_⟩
    rw [exec_cmdDoorbell_ignored value item0 item1 hup (by simp [hctx]), State.cmdGo_stray hctx]
    rfl
  case busy =>
    rintro s tile ld value item0 item1 ⟨hup, hctx, hgo, hbusy⟩
    rw [exec_cmdDoorbell_ignored value item0 item1 hup (by simp [hbusy]), State.cmdGo_busy hctx hgo hbusy]
    rfl
  case go =>
    intro s tile ld value item0 item1 ⟨hup, hctx, hgo, hbusy⟩ u
    have hfree : (u.bar tile ld).cmdBusy = false := by rw [State.bar_setBar]; exact hbusy
    exact (exec_cmdDoorbell_go item0 item1 hup hctx hgo hbusy).trans (congrArg Host.Outcome.next (State.cmdGo_go (s := u) hctx hgo hfree))
  case cqHead =>
    intro s tile ld value hup hfree
    have hheld : ∀ n ∈ s.ctxNums, (s.ctx n).held = false := by simpa using hfree
    rw [← State.readTo_of_none_held hheld]
    exact congrArg Host.Outcome.next (if_pos hup)
  case vlogHead =>
    intro s tile ld value hup
    exact congrArg Host.Outcome.next (if_pos hup)
  case latch =>
    intro s tile ld tag hup
    exact ⟨_, exec_tidemarkRead tag true hup, rfl, rfl⟩
  case tidemark =>
    intro s tile ld tag hup
    exact exec_tidemarkRead tag false hup
  case violLost =>
    intro s tile ld tag hup
    exact congrArg Host.Outcome.next (if_pos hup)
  case vectors =>
    intro s tile ld hup
    exact ⟨congrArg Host.Outcome.next (if_pos hup), congrArg Host.Outcome.next (if_pos hup), congrArg Host.Outcome.next (if_pos hup)⟩

end Sys2Proof.Machine
end

section
/-! The request path at the owning tile (04 R113 to R132; 07 R185, R192): the turn of a request, reads and stores at the line, the releases of
what waits, and the merge buffer, Eaves and DRAM reads behind them. -/

namespace Sys2Proof.Machine

/-! ### The turn of a request -/

/-- Noting what has been counted of a request changes nothing else of it. -/
theorem Req.note_eq (r : Req) (k : Nat) : ∃ l, r.note k = { r with noted := l } := by
  unfold Req.note
  split
  · exact ⟨r.noted, rfl⟩
  · exact ⟨_, rfl⟩

@[simp] theorem Req.note_owner (r : Req) (k : Nat) : (r.note k).owner = r.owner := by obtain ⟨_, e⟩ := r.note_eq k; rw [e]; rfl
@[simp] theorem Req.note_kind (r : Req) (k : Nat) : (r.note k).kind = r.kind := by obtain ⟨_, e⟩ := r.note_eq k; rw [e]
@[simp] theorem Req.note_toff (r : Req) (k : Nat) : (r.note k).toff = r.toff := by obtain ⟨_, e⟩ := r.note_eq k; rw [e]; rfl
@[simp] theorem Req.note_sess (r : Req) (k : Nat) : (r.note k).sess = r.sess := by obtain ⟨_, e⟩ := r.note_eq k; rw [e]
@[simp] theorem Req.note_stamp (r : Req) (k : Nat) : (r.note k).stamp = r.stamp := by obtain ⟨_, e⟩ := r.note_eq k; rw [e]
@[simp] theorem Req.note_lat (r : Req) (k : Nat) : (r.note k).lat = r.lat := by obtain ⟨_, e⟩ := r.note_eq k; rw [e]
@[simp] theorem Req.note_tiered (r : Req) (k : Nat) : (r.note k).tiered = r.tiered := by obtain ⟨_, e⟩ := r.note_eq k; rw [e]

theorem State.fence?_of_no_fence {s : State} (h : s.fences.inForce = []) (c i t : Nat) : s.fence? c i t = none := by simp [State.fence?, h]

theorem State.tileFenced_of_no_fence {s : State} (h : s.fences.inForce = []) (t : Nat) : s.tileFenced t = false := by
  simp [State.tileFenced, State.fenced, State.fence?_of_no_fence h]

theorem State.lineFenced_of_no_fence {s : State} (h : s.fences.inForce = []) (t a : Nat) : s.lineFenced t a = false := by
  simp [State.lineFenced, State.tileFenced_of_no_fence h, State.holdsAt, State.fence?_of_no_fence h]

theorem State.needsLoad_of_not_rstr {s : State} (h : s.mode.mode ≠ .rstr) (t off : Nat) : s.needsLoad t off = false := by simp [State.needsLoad, h]

/-- A request whose gate is closed waits for it (04 R132). -/
theorem State.serveReq_gate {s : State} {r : Req} (h : s.gateOpen r = false) (prev : Option (Nat × Nat)) :
    s.serveReq r prev = (s.tallyOnce r 1 r.owner 1 0x0001).hold (r.note 1) .gate none prev := if_pos (by simp [h])

/-- A request stays behind an earlier one to its line (03 R84). -/
theorem State.serveReq_line {s : State} {r : Req} {w : Wait} (hopen : s.gateOpen r = true) (hw : w ∈ s.waits) (hline : w.req.sameLine r = true)
    (hkey : w.req.key ≤ r.key) (prev : Option (Nat × Nat)) : s.serveReq r prev = s.hold r .line none prev := by
  have hbefore : s.waits.any (fun w => w.req.sameLine r && decide (w.req.key ≤ r.key)) = true := List.any_eq_true.mpr ⟨w, hw, by simp [hline, hkey]⟩
  unfold State.serveReq
  rw [if_neg (by simp [hopen]), if_pos hbefore]

/-- A request outside the Slipway page, in its turn, is served at the home of its line. -/
theorem State.serveReq_turn {s : State} {r : Req} (hopen : s.gateOpen r = true) (hwaits : s.waits = []) (hslip : (s.noteStream r).inSlip (r.note 5) = false)
    (prev : Option (Nat × Nat)) : s.serveReq r prev = (s.noteStream r).serveHome (r.note 5) prev := by
  unfold State.serveReq
  rw [if_neg (by simp [hopen]), if_neg (by simp [hwaits])]
  exact if_neg (ne_true_of_eq_false hslip)

/-- A request of pinned memory that no fence, recovery, change of bank, conversion, PEND or write-out stops is served by its kind. -/
theorem State.serveHome_pinned {s : State} {r : Req} (hpinned : r.tiered = false) (hfence : s.fences.inForce = []) (hmode : s.mode.mode ≠ .rstr)
    (hrecov : (s.pt r.owner).recov = []) (hhold : (s.chan r.owner (dfaChan r.toff)).holding = false) (hconv : s.converting r.owner r.toff = false)
    (hpend : s.pendOf r.owner r.toff = 0) (hmerge : s.mergeOf r.owner r.toff = none) (prev : Option (Nat × Nat)) :
    s.serveHome r prev = if r.isRead then s.serveRead r r.toff prev else if r.isStore then s.serveStore r r.toff prev else s.serveAtomic r r.toff prev := by
  simp [State.serveHome, hpinned, hfence, hrecov, hhold, hconv, hpend, hmerge, State.tileFenced_of_no_fence hfence, State.lineFenced_of_no_fence hfence,
    State.needsLoad_of_not_rstr hmode]

/-! ### Reads and stores at the line -/

/-- A read that finds its line in Eaves (04 R113). -/
theorem State.serveRead_eaves {s : State} {r : Req} {a k : Nat} (h : s.evFind r.owner a r.sess = some k) :
    s.serveRead r a none =
      (((s.tallyLookup r a).touchWay k).setEv k { s.evLine k with pf := false }).answer (r.note 2) rOk (s.evLine k).data (s.evLine k).poison .ok := by
  unfold State.serveRead
  simp only [Req.note_sess, State.tallyLookup_evFind, State.tallyLookup_evLine, h]
  rfl

section Miss

variable {s : State} {r : Req} {a : Nat} (hmiss : s.evFind r.owner a r.sess = none) (hmerge : s.mergeOf r.owner r.toff = none)

include hmiss hmerge

/-- A read that finds its line in the write queue alone (04 R130). -/
theorem State.serveRead_queued {e : WqEnt} (hqueued : s.wqNewest r.owner a = some e) :
    s.serveRead r a none = (s.tallyLookup r a).answer (r.note 2) rOk
      ((s.tallyLookup r a).cipherLine false r.owner (r.toff / 64 * 64) a e.data) e.poison .ok := by
  unfold State.serveRead
  simp only [Req.note_sess, Req.note_toff, State.tallyLookup_evFind, State.tallyLookup_mergeOf, State.tallyLookup_wqNewest, hmiss, hmerge, hqueued]
  simp [State.giveRead, State.endStall]

/-- A read whose line is in DRAM alone waits for a DRAM read (04 R130; 05 R149). -/
theorem State.serveRead_dram (hqueued : s.wqNewest r.owner a = none) (hroom : s.rqFull r.owner a .demand = false) :
    s.serveRead r a none = ((s.tallyLookup r a).enqRead r.owner a r.toff r.sess .demand r.stamp r.lat).hold (r.note 2) .dram none none := by
  unfold State.serveRead
  simp only [Req.note_sess, Req.note_toff, State.tallyLookup_evFind, State.tallyLookup_mergeOf, State.tallyLookup_wqNewest, hmiss, hmerge, hqueued]
  simp [State.awaitRead, hroom]

end Miss

/-- A store without poison into an Eaves line of its session (04 R122). -/
theorem State.placeStore_eaves {s : State} {r : Req} {a k : Nat} (h : s.evFind r.owner a r.sess = some k) (hpoison : r.poison = false) :
    s.placeStore r a = (s.touchWay k).setEv k { s.evLine k with
      dirty := true, pf := false, poison := (s.evLine k).poison && !r.wide,
      data := if r.wide then r.data else Line.overlay (s.evLine k).data r.data r.mask, pend := (s.evLine k).pend + s.pendStep } := by
  simp [State.placeStore, h, hpoison]

theorem State.evLine_setEv_ne (s : State) {j k : Nat} (x : EvLine) (h : j ≠ k) : (s.setEv k x).evLine j = s.evLine j := Store.read_write_ne _ _ _ _ h

/-! ### What waits is served -/

/-- A stamp of another tile reaches an owning tile. -/
def State.stamped (s : State) (owner source stamp : Nat) : State :=
  s.setPt owner { s.pt owner with stamps := Store.write (s.pt owner).stamps source (max stamp (Store.read (s.pt owner).stamps source 0)) 0 }

theorem exec_orderGateRelease {s : State} {owner source : Nat} (stamp : Nat) (ho : owner < s.tiles) (hs : source < s.tiles) (hne : owner ≠ source) :
    exec (.orderGateRelease owner source stamp) s = .next ((s.stamped owner source stamp).release
      (fun w => decide (w.why = .gate ∧ w.req.owner = owner) && (s.stamped owner source stamp).gateOpen w.req)) :=
  congrArg Host.Outcome.next (if_pos ⟨ho, hs, hne⟩)

theorem urgencyOf_le (target age : Nat) : urgencyOf target age ≤ 3 := by
  unfold urgencyOf
  split_ifs <;> decide

theorem State.byUrgency_singleton (s : State) (w : Wait) : s.byUrgency [w] = [w] := by
  have hle : s.urgency w.req ≤ 3 := urgencyOf_le _ _
  have hcases : s.urgency w.req = 0 ∨ s.urgency w.req = 1 ∨ s.urgency w.req = 2 ∨ s.urgency w.req = 3 := by omega
  rcases hcases with h | h | h | h <;> simp [State.byUrgency, h]

/-- The one wait of a device, when its reason is that of the kick, is served again. -/
theorem State.kick_singleton {s : State} {w : Wait} {ys : List Why} (hwaits : s.waits = [w]) (hwhy : ys.contains w.why = true) (hheld : w.why ≠ .held) :
    s.kick w.req.owner ys =
      State.settle (2 * (({ s with waits := [] } : State).serveReq w.req w.stall).waits.length + 2) (({ s with waits := [] } : State).serveReq w.req w.stall) := by
  have hserved : s.waits.filter (fun v => decide (v.req.owner = w.req.owner) && ys.contains v.why) = [w] := by
    rw [hwaits]
    exact List.filter_cons_of_pos (by rw [hwhy]; simp)
  have hresumed : s.resumed w = w.req := if_neg (fun h => hheld h.1)
  unfold State.kick State.release
  rw [hserved, State.byUrgency_singleton]
  simp [hwaits, hresumed]

theorem exec_homeTlbFill {s : State} {tile page : Nat} {e : RqEnt} (hnext : s.nextRead (subKey tile (s.homeAddr tile (page * 8) / 64 * 64)) = some e)
    (hdfa : e.dfa = s.homeAddr tile (page * 8) / 64 * 64) (hwhy : e.why = .homeTlb) :
    exec (.homeTlbFill tile page) s = .next (s.returnRead (subKey tile e.dfa) e 0) := by
  show execHomeTlbFill tile page s = _
  rw [← hdfa] at hnext
  simp only [execHomeTlbFill, ← hdfa, hnext, hwhy, and_self, if_true]

theorem exec_tidelineBitmapFill {s : State} {tile group : Nat} {e : RqEnt}
    (hnext : s.nextRead (subKey tile ((s.bitmapBase tile + group * 64) / 64 * 64)) = some e)
    (hdfa : e.dfa = (s.bitmapBase tile + group * 64) / 64 * 64) (hwhy : e.why = .bitmap) :
    exec (.tidelineBitmapFill tile group) s = .next (s.returnRead (subKey tile e.dfa) e 0) := by
  show execTidelineBitmapFill tile group s = _
  rw [← hdfa] at hnext
  simp only [execTidelineBitmapFill, ← hdfa, hnext, hwhy, and_self, if_true]

/-! ### The merge buffer and Eaves -/

/-- The write-out of a full entry whose write need not wait (04 R128). -/
theorem State.startOut_full {s : State} {tile : Nat} {m : Merge} (hfull : m.mask = Mask.full) (hidle : m.writing = false)
    (hfence : s.lineFenced tile m.dfa = false) (hfree : s.writeWaits tile m.dfa = false) :
    s.startOut tile m = (s.mergeOut tile m 0 false).kick tile [.writeOut, .merge] := by
  simp [State.startOut, hfull, hidle, hfence, hfree]

/-- The write-out of a partial entry whose line is in DRAM alone reads that line first (04 R128, R547). -/
theorem State.startOut_partial {s : State} {tile : Nat} {m : Merge} (hpart : m.mask ≠ Mask.full) (hidle : m.writing = false)
    (hfence : s.lineFenced tile m.dfa = false) (hqueued : s.wqNewest tile m.dfa = none) (hroom : s.rqFull tile m.dfa .mergeOut = false) :
    s.startOut tile m = ((s.tally tile 4 0x0002 {}).setMerge tile { m with writing := true }).enqRead tile m.dfa m.off m.sess .mergeOut m.stamp m.lat := by
  simp [State.startOut, hpart, hidle, hfence, hqueued, hroom]

/-- A full entry is written out when none that is to be written out goes before it (04 R135). -/
theorem exec_mergeWriteOut {s : State} {tile off : Nat} {m : Merge} (hm : s.mergeOf tile off = some m) (hdue : s.outDue tile m = true)
    (hfirst : ∀ x ∈ (s.pt tile).merge, s.outDue tile x = false ∨ s.outRank tile m ≤ s.outRank tile x) :
    exec (.mergeWriteOut tile off) s = .next (s.startOut tile m) := by
  have hall : (s.pt tile).merge.all (fun x => !s.outDue tile x || decide (s.outRank tile m ≤ s.outRank tile x)) = true :=
    List.all_eq_true.mpr (fun x hx => by simpa using hfirst x hx)
  show execMergeWriteOut tile off s = _
  simp only [execMergeWriteOut, hm]
  exact congrArg Host.Outcome.next (if_pos ⟨hdue, hall⟩)

theorem State.outDue_full {s : State} {m : Merge} (hfull : m.mask = Mask.full) (hidle : m.writing = false) (tile : Nat) : s.outDue tile m = true := by
  simp [State.outDue, hfull, hidle]

theorem exec_mergeEntryAge {s : State} {tile off : Nat} {m : Merge} (hm : s.mergeOf tile off = some m) (haged : s.entryAged tile m = true) :
    exec (.mergeEntryAge tile off) s = .next (s.startOut tile m) := by
  show execMergeEntryAge tile off s = _
  simp only [execMergeEntryAge, hm]
  exact congrArg Host.Outcome.next (if_pos haged)

theorem exec_eavesEviction {s : State} {tile set way : Nat} (ht : tile < s.tiles) (hset : set < 2 ^ 17) (hway : way < 16)
    (hfree : s.writeWaits tile (s.evLine (evKey tile set way)).dfa = false) :
    exec (.eavesEviction tile set way) s = .next ((s.cleanWay (evKey tile set way)).kick tile [.evict]) :=
  congrArg Host.Outcome.next (if_pos ⟨ht, hset, hway, by simp [hfree]⟩)

theorem exec_eavesEviction_waits {s : State} {tile set way : Nat} (hwaits : s.writeWaits tile (s.evLine (evKey tile set way)).dfa = true) :
    exec (.eavesEviction tile set way) s = .next s :=
  congrArg Host.Outcome.next (if_neg (by simp [hwaits]))

/-! ### Prefetches -/

/-- The line that a stream of a stride prefetches next, after its last read `l` (04 R124). -/
def Stream.nextLine (x : Stream) (st : Int) (l : Nat) : Nat := Int.toNat ((l : Int) + st * (x.ahead + 1))

/-- A stream of a tile has issued one more prefetch. -/
def State.advanced (s : State) (t : Nat) (x : Stream) : State :=
  s.setPt t { s.pt t with streams := (s.pt t).streams.map (fun y => if y = x then { y with ahead := y.ahead + 1 } else y) }

theorem State.setPt_localCount (s : State) (t : Nat) (x : PathTile) : (s.setPt t x).localCount = s.localCount := rfl
theorem State.setPt_extentAt (s : State) (t : Nat) (x : PathTile) : (s.setPt t x).extentAt = s.extentAt := rfl
theorem State.setPt_ext (s : State) (t : Nat) (x : PathTile) : (s.setPt t x).ext = s.ext := rfl
theorem State.setPt_slipOff (s : State) (t : Nat) (x : PathTile) : (s.setPt t x).slipOff = s.slipOff := rfl
theorem State.setPt_evFind (s : State) (t : Nat) (x : PathTile) : (s.setPt t x).evFind = s.evFind := rfl
theorem State.setPt_lineFenced (s : State) (t : Nat) (x : PathTile) : (s.setPt t x).lineFenced = s.lineFenced := rfl
theorem State.setPt_rqOf (s : State) (t : Nat) (x : PathTile) : (s.setPt t x).rqOf = s.rqOf := rfl

/-- The next prefetch of a trained stream, within its extent of pinned memory and off the Slipway page (04 R122, R124). -/
theorem exec_stridePrefetch {s : State} {tile sess ld n e l off : Nat} {x : Stream} {st : Int}
    (hfind : (s.pt tile).streams.find? (fun x => decide (x.sess = sess ∧ x.ld = ld)) = some x) (htrained : x.trained = some st)
    (hlast : x.lastRead = some l) (hahead : x.ahead < s.tileP bEaves tile 1) (hoff : x.nextLine st l * 64 % 2 ^ 43 = off)
    (hext : s.extentAt tile off = some (n, e)) (hpinned : (s.ext n e).tiered = false) (hsame : s.extentAt tile (l * 64 % 2 ^ 43) = some (n, e))
    (htile : x.nextLine st l * 64 / 2 ^ 43 = tile) (hslip : s.slipOff n = none) (hmiss : s.evFind tile off sess = none)
    (hfence : s.lineFenced tile off = false) (hroom : (s.rqOf (subKey tile off)).length ≤ 48) :
    exec (.stridePrefetch tile sess ld) s = .next (((s.advanced tile x).enqRead tile off off sess (.prefetch sess) (s.localCount tile) 0).tally
      tile 35 0x0001 { sess := some sess, tile, cls := some 3 }) := by
  refine congrArg Host.Outcome.next ?_
  unfold Stream.nextLine at hoff htile
  unfold State.prefetch State.advanced
  simp only [hfind, htrained, hlast, if_pos hahead, hoff, htile, State.setPt_localCount, State.setPt_extentAt, State.setPt_ext, State.setPt_slipOff,
    State.setPt_evFind, State.setPt_lineFenced, State.setPt_rqOf, hext, hpinned, hsame, hslip, hmiss, hfence, hroom, reduceCtorEq, decide_false, decide_true,
    Bool.not_false, Bool.and_self, Bool.false_eq_true, if_false, if_true, Option.isNone_none]

/-! ### DRAM reads -/

/-- The sub-channel of queue `k` has issued a read of channel `c` of tile `t`. -/
def State.readIssued (s : State) (t c k : Nat) (e : RqEnt) : State :=
  ((s.setRq k ((s.rqOf k).erase e)).touchRow t e.dfa).tally t (5 + c) 0x0001 { tile := t }

theorem exec_dramReadReturn {s : State} {tile channel sub : Nat} {e : RqEnt} (hc : channel < 4) (hs : sub < 2)
    (hnext : s.nextRead (8 * tile + 2 * channel + sub) = some e) (err : BitVec 640) :
    exec (.dramReadReturn tile channel sub err) s = .next (s.returnRead (8 * tile + 2 * channel + sub) e err) := by
  show execDramReadReturn tile channel sub err s = _
  simp only [execDramReadReturn, hnext]
  exact congrArg Host.Outcome.next (if_pos ⟨hc, hs⟩)

section Return

variable {s : State} {t c k : Nat} {e : RqEnt} {err : BitVec 640} (ht : k / 8 = t) (hc : k % 8 / 2 = c)

include ht hc

/-- A read that fails its check (07 R192). -/
theorem State.returnRead_bad (h : (s.readIssued t c k e).lineCheck t e.dfa err = .bad) : s.returnRead k e err = (s.readIssued t c k e).failRead t e := by
  subst ht hc
  unfold State.readIssued at h ⊢
  simp only [State.returnRead, h]

/-- A first read that passes its check is delivered (07 R185). -/
theorem State.returnRead_pass (htries : e.tries = 0) (h : (s.readIssued t c k e).lineCheck t e.dfa err = .pass) :
    let g := (s.readIssued t c k e).readLine t e.dfa ((s.readIssued t c k e).lineGot t e.dfa err)
    s.returnRead k e err = ((s.readIssued t c k e).deliver t e g.1 g.2).kick t [.readq] := by
  subst ht hc
  unfold State.readIssued at h ⊢
  simp only [State.returnRead, h, htries, Nat.lt_irrefl, if_false]

end Return

/-- Up to three times a read that has failed its check is repeated (07 R192). -/
theorem State.failRead_again {e : RqEnt} (h : e.tries < 3) (s : State) (t : Nat) :
    s.failRead t e = s.setRq (subKey t e.dfa) ({ e with tries := e.tries + 1 } :: s.rqOf (subKey t e.dfa)) := if_pos h

/-! ### The hard timeout -/

/-- A stalled request of a link has reached `sess.hard_to` (11 R353). -/
def Wait.timedOut (s : State) (tile link tag : Nat) (w : Wait) : Bool :=
  w.stall.isSome && decide (w.req.tile = tile ∧ w.req.link = link ∧ w.req.tag = tag)
    && s.due (w.req.since + w.req.exempt) ((s.param (pid bSess 1023 4) w.req.sess).toNat * us)

/-- The stall of a request that has timed out ends, and is counted and logged. -/
def State.endTimedOut (s : State) (w : Wait) : State :=
  ((({ s with waits := s.waits.erase w } : State).endStall w.req w.stall).countP (pid bSess w.req.owner 5) w.req.sess).log w.req.owner 4 bSess w.req.owner 0x03 4
    (w.req.sess * 2 ^ 43 + w.req.toff)

/-- A CXL.mem read that has timed out is answered with poison (11 R353). -/
theorem exec_hardTimeout_memRead {s : State} {tile link tag : Nat} {w : Wait} (hfind : s.waits.find? (Wait.timedOut s tile link tag) = some w)
    (hvia : w.req.via = some .mem) (hkind : w.req.kind = .read) :
    let u := (s.endTimedOut w).answer w.req rOk (BitVec.allOnes 512) true .stallto
    exec (.hardTimeout tile link tag) s = .next (State.settle (2 * u.waits.length + 2) u) := by
  have hread : w.req.isRead = true := decide_eq_true hkind
  unfold Wait.timedOut at hfind
  show execHardTimeout tile link tag s = _
  simp only [execHardTimeout, hfind, hvia, hread, if_true]
  rfl

/-- Settles O20, clause by clause from what each step of the path does under its conditions. -/
theorem readAndStorePath : Obligations.ReadAndStorePath := by
  unfold Obligations.ReadAndStorePath
  refine ⟨?gate, ?line, ?served, ?eaves, ?queued, ?dram, ?placed, ?stamp, ?pend, ?home, ?bitmap, ?room, ?entry, ?writeOut, ?aged, ?evicted, ?evictWaits,
    ?prefetch, ?again, ?delivered, ?timeout⟩
  case gate =>
    intro s r prev hgate
    exact State.serveReq_gate hgate prev
  case line =>
    rintro s r prev w hopen ⟨hw, hline, hkey⟩
    exact State.serveReq_line hopen hw hline hkey prev
  case served =>
    rintro s _ r ⟨hopen, hwaits, rfl⟩ ⟨hslip, hpinned⟩ ⟨hfence, hmode⟩ ⟨hrecov, hhold, hconv⟩ ⟨hpend, hmerge⟩
    rw [State.serveReq_turn hopen hwaits hslip, State.serveHome_pinned (by simpa using hpinned) hfence hmode (by simpa using hrecov) (by simpa using hhold)
      (by simpa using hconv) (by simpa using hpend) (by simpa using hmerge)]
    simp [Req.isRead, Req.isStore]
  case eaves =>
    intro s r a k hfind
    exact State.serveRead_eaves hfind
  case queued =>
    intro s r a e hmiss hmerge hqueued
    exact State.serveRead_queued hmiss hmerge hqueued
  case dram =>
    intro s r a hmiss hmerge hqueued hroom
    exact State.serveRead_dram hmiss hmerge hqueued hroom
  case placed =>
    intro s r a k hfind hpoison
    rw [State.placeStore_eaves hfind hpoison]
    exact ⟨State.evLine_setEv _ _ _, fun j hj => State.evLine_setEv_ne _ _ hj, rfl, rfl⟩
  case stamp =>
    rintro s owner source stamp ⟨ho, hs, hne⟩
    exact exec_orderGateRelease stamp ho hs hne
  case pend =>
    rintro s _ w ⟨hwaits, hwhy, rfl⟩
    exact congrArg Host.Outcome.next (State.kick_singleton hwaits (by simp [hwhy]) (by simp [hwhy]))
  case home =>
    rintro s tile page e hnext ⟨hdfa, hwhy⟩
    exact exec_homeTlbFill hnext hdfa hwhy
  case bitmap =>
    rintro s tile group e hnext ⟨hdfa, hwhy⟩
    exact exec_tidelineBitmapFill hnext hdfa hwhy
  case room =>
    intro s tile hroom
    exact congrArg Host.Outcome.next (if_pos hroom)
  case entry =>
    intro s tile hfree
    exact congrArg Host.Outcome.next (if_pos hfree)
  case writeOut =>
    rintro s tile off m hm ⟨hfull, hidle, hfence, hfree⟩ hfirst
    rw [exec_mergeWriteOut hm (State.outDue_full hfull hidle tile) hfirst, State.startOut_full hfull hidle hfence hfree]
  case aged =>
    rintro s tile off m hm haged ⟨hpart, hidle, hfence⟩ ⟨hqueued, hroom⟩
    rw [exec_mergeEntryAge hm haged, State.startOut_partial hpart hidle hfence hqueued hroom]
  case evicted =>
    rintro s tile set way ⟨ht, hset, hway⟩ hfree
    exact exec_eavesEviction ht hset hway hfree
  case evictWaits =>
    intro s tile set way hwaits
    exact exec_eavesEviction_waits hwaits
  case prefetch =>
    rintro s tile sess ld n e x st l hfind ⟨htrained, hlast, hahead⟩ ⟨hext, hpinned⟩ ⟨hsame, htile⟩ hslip ⟨hmiss, hfence⟩ hroom
    exact exec_stridePrefetch hfind htrained hlast hahead rfl hext hpinned hsame htile hslip hmiss hfence hroom
  case again =>
    rintro s tile channel sub err e ⟨hc, hs⟩ hnext hbad htries
    rw [exec_dramReadReturn hc hs hnext, State.returnRead_bad (by omega) (by omega) hbad, State.failRead_again htries]
    rfl
  case delivered =>
    rintro s tile channel sub e ⟨hc, hs⟩ hnext htries hpass
    rw [exec_dramReadReturn hc hs hnext, State.returnRead_pass (by omega) (by omega) htries hpass]
    rfl
  case timeout =>
    rintro s tile link tag w hfind ⟨hvia, hkind⟩
    exact exec_hardTimeout_memRead hfind hvia hkind

end Sys2Proof.Machine
end

section
/-! The upkeep of a DRAM channel (05 R152 to R164; 07 R195, R196): what a refresh command and a reading of the sensors leave of the state, and
each command under its conditions. -/

namespace Sys2Proof.Machine

/-- Of two writes of a channel the second counts, where the first lists its value. -/
theorem State.setChan_setChan (s : State) (t c : Nat) {x : Chan} (y : Chan) (h : x ≠ {}) : (s.setChan t c x).setChan t c y = s.setChan t c y :=
  congrArg (fun l => { s with chans := l }) (Store.write_write s.chans (4 * t + c) y h)

/-- A channel as no store lists it is off; an active one is another. -/
theorem Chan.ne_default_of_active {x : Chan} (h : x.power = .active) : x ≠ {} := by
  rintro rfl
  cases h

/-- Closing rows of a rank leaves the refresh records and the power state of the channel. -/
theorem State.chan_closeRank (s : State) (t c rank : Nat) (bank : Option Nat) :
    ((s.closeRank t c rank bank).chan t c).refresh = (s.chan t c).refresh ∧ ((s.closeRank t c rank bank).chan t c).power = (s.chan t c).power := by
  simp [State.closeRank]

/-- A refresh command moves its rank to the next bank (05 R157). -/
theorem State.issueRefresh_refresh (s : State) (t c rank : Nat) (r : RefRank) :
    Store.read ((s.issueRefresh t c rank r).chan t c).refresh rank {} = ({ r with bank := (r.bank + 1) % 4 } : RefRank) := by
  simp [State.issueRefresh]

/-- A refresh command writes its channel alone. -/
theorem State.issueRefresh_eq_setChan (s : State) (t c rank : Nat) (r : RefRank) (h : (s.chan t c).power = .active) :
    s.issueRefresh t c rank r = s.setChan t c ((s.issueRefresh t c rank r).chan t c) := by
  unfold State.issueRefresh State.closeRank
  dsimp only
  rw [State.chan_setChan, State.chan_setChan]
  exact s.setChan_setChan t c _ (Chan.ne_default_of_active h)

/-- REFRESH_DUE of a rank of an active channel that no fence stops: what it does of the rank's record (05 R157, R158). -/
theorem exec_refreshDue {s : State} {tile channel rank : Nat} (hgo : tile < s.tiles ∧ channel < 4 ∧ s.chFenced tile channel = false ∧
      (s.chan tile channel).power = .active ∧ rank ∈ s.ranks tile) :
    exec (.refreshDue tile channel rank) s = .next (
      let x := s.chan tile channel
      let r := Store.read x.refresh rank {}
      if s.due r.since (s.tRefi tile channel) then
        if 0 < r.pulled then s.setChan tile channel { x with refresh := Store.write x.refresh rank { r with since := s.clock, pulled := r.pulled - 1 } {} }
        else if s.urgentReads tile channel rank ∧ r.postponed < 4 then
          s.setChan tile channel { x with refresh := Store.write x.refresh rank { r with since := s.clock, postponed := r.postponed + 1 } {} }
        else s.issueRefresh tile channel rank { r with since := s.clock }
      else if 0 < r.postponed then
        if s.urgentReads tile channel rank ∧ r.postponed < 4 then s else s.issueRefresh tile channel rank { r with postponed := r.postponed - 1 }
      else if s.rankIdle tile channel rank ∧ r.pulled < 4 then s.issueRefresh tile channel rank { r with pulled := r.pulled + 1 }
      else s) := by
  obtain ⟨ht, hc, hf, hp, hr⟩ := hgo
  exact congrArg Host.Outcome.next (if_pos (by simp [ht, hc, hf, hp, hr]))

/-- Reading the temperatures writes the channel and the event log; the power state and the open rows stay. -/
theorem State.readTemps_log (s : State) (t c : Nat) (t0 t1 : Option Nat) :
    ∃ x : Chan, OnlyLog (s.setChan t c x) (s.readTemps t c t0 t1) ∧ x.power = (s.chan t c).power ∧ x.rows = (s.chan t c).rows :=
  ⟨_, .foldl _ (fun s _ => s.log_log _ _ _ _ _ _ _) _ _, rfl, rfl⟩

theorem State.readTemps_mode (s : State) (t c : Nat) (t0 t1 : Option Nat) : (s.readTemps t c t0 t1).mode = s.mode := by
  obtain ⟨x, ⟨_, _, _, he⟩, -, -⟩ := s.readTemps_log t c t0 t1
  rw [he, State.setChan_mode]

theorem State.chan_readTemps (s : State) (t c : Nat) (t0 t1 : Option Nat) :
    ((s.readTemps t c t0 t1).chan t c).power = (s.chan t c).power ∧ ((s.readTemps t c t0 t1).chan t c).rows = (s.chan t c).rows := by
  obtain ⟨x, ⟨_, _, _, he⟩, hpower, hrows⟩ := s.readTemps_log t c t0 t1
  have hchan : (s.readTemps t c t0 t1).chan t c = x := by
    rw [he]
    exact s.chan_setChan t c x
  rw [hchan]
  exact ⟨hpower, hrows⟩

/-- The one sensor of a channel reads `k` quarters of a degree: above 85 °C is hot, at or below 83 °C is not (05 R159). -/
theorem State.readTemps_some (s : State) (t c k : Nat) (h : s.slotBits t = 0) :
    s.readTemps t c (some k) none = s.setChan t c { s.chan t c with
      temp := k, hot := if 340 < k then true else if k ≤ 332 then false else (s.chan t c).hot, tempAt := s.clock } := by
  simp [State.readTemps, h]

/-- The one sensor of a channel fails: the channel is hot, and the event names the slot (05 R159). -/
theorem State.readTemps_none (s : State) (t c : Nat) (h : s.slotBits t = 0) :
    s.readTemps t c none none = (s.setChan t c { s.chan t c with hot := true, tempAt := s.clock }).log t 4 bDram t 0x08 8 (2 * c) := by
  simp [State.readTemps, h]

/-- DIMM_TEMPERATURE_READ, the first of a channel, in BRUP. -/
theorem exec_dimmTemperatureRead_first {s : State} {tile channel : Nat} (t0 t1 : Option Nat) (ht : tile < s.tiles) (hc : channel < 4)
    (hdimm : tile ∈ s.boot.dimms) (hat : (s.chan tile channel).tempAt = 0) (hmode : s.mode.mode = .brup) :
    exec (.dimmTemperatureRead tile channel t0 t1) s = .next (s.readTemps tile channel t0 t1) := by
  have hserves : ¬ (s.readTemps tile channel t0 t1).mode.mode.serving = true := by simp [State.readTemps_mode, hmode, Mode.serving]
  exact congrArg Host.Outcome.next ((if_pos ⟨ht, hc, by simpa using hdimm, .inl hat⟩).trans (if_neg hserves))

/-- DQS_OSCILLATOR_CHECK when the interval of the rank has passed: the drift decides on new delays. -/
theorem exec_dqsOscillatorCheck_due {s : State} {tile channel rank : Nat} (drift : Nat) (hin : s.inService tile channel = true)
    (hserves : s.mode.mode.serving = true) (hr : rank ∈ s.ranks tile)
    (hdue : s.due (Store.read (s.chan tile channel).oscAt rank 0) (s.tileP bDram tile 0xE * ms) = true) :
    exec (.dqsOscillatorCheck tile channel rank drift) s = .next (
      let u := s.setChan tile channel { s.chan tile channel with oscAt := Store.write (s.chan tile channel).oscAt rank s.clock 0 }
      if s.tileP bDram tile 0xF ≤ drift then u.newDelays tile channel (s.chan tile channel).inUseH false else u) :=
  congrArg Host.Outcome.next (if_pos ⟨hin, hserves, by simpa using hr, hdue⟩)

/-- ZQ_CALIBRATION when the interval of the rank has passed. -/
theorem exec_zqCalibration_due {s : State} {tile channel rank : Nat} (hin : s.inService tile channel = true) (hr : rank ∈ s.ranks tile)
    (hdue : s.due (Store.read (s.chan tile channel).zqAt rank 0) (s.tileP bDram tile 0x10 * ms) = true) :
    exec (.zqCalibration tile channel rank) s = .next (
      s.setChan tile channel { s.chan tile channel with zqAt := Store.write (s.chan tile channel).zqAt rank s.clock 0 }) :=
  congrArg Host.Outcome.next (if_pos ⟨hin, by simpa using hr, hdue⟩)

/-- The neighbour refresh at the head of the channel's list (05 R160, R161). -/
theorem State.refreshNeighbours_cons (s : State) (t c : Nat) {bank row : Nat} {rest : List (Nat × Nat)} (h : (s.chan t c).nbr = (bank, row) :: rest) :
    s.refreshNeighbours t c = (
      let u := (neighbours (s.rowBits t) row).foldl (fun u n => u.activate t c bank n) s
      let x := u.chan t c
      (u.setChan t c { x with rows := Store.write x.rows bank {} {}, acts := Store.write x.acts bank (restRow (Store.read x.acts bank []) row) [],
                              nbr := x.nbr.filter (fun p => decide (p ≠ (bank, row))) }).tally t (5 + c) 0x0004 {}) := by
  unfold State.refreshNeighbours
  rw [h]

/-- No neighbour refresh is pending, and so none is made. -/
theorem State.refreshAll_of_nil (s : State) (t c : Nat) (h : (s.chan t c).nbr = []) : s.refreshAll t c = s := by
  simp [State.refreshAll, State.refreshLoop, h]

/-- ACTIVATE_TABLE_CLEAR at the end of the window, with no neighbour refresh pending (05 R160, R161). -/
theorem exec_activateTableClear_due {s : State} {tile channel : Nat} (ht : tile < s.tiles) (hc : channel < 4) (hnbr : (s.chan tile channel).nbr = [])
    (hdue : s.due (s.chan tile channel).actsSince ((if (s.chan tile channel).hot then 16 else 32) * ms) = true) :
    exec (.activateTableClear tile channel) s = .next (s.setChan tile channel { s.chan tile channel with acts := [], actsSince := s.clock }) := by
  show execActivateTableClear tile channel s = _
  unfold execActivateTableClear
  refine congrArg Host.Outcome.next ((if_pos ⟨ht, hc, hdue⟩).trans ?_)
  simp only [s.refreshAll_of_nil tile channel hnbr]

/-- PAGE_IDLE_CLOSE of an idle row whose sub-channel has no queued request (05 R152). -/
theorem exec_pageIdleClose_idle {s : State} {tile channel bank : Nat} (ht : tile < s.tiles) (hc : channel < 4)
    (hopen : (Store.read (s.chan tile channel).rows bank {}).isOpen = true)
    (hdue : s.due (Store.read (s.chan tile channel).rows bank {}).last (s.dclk tile channel (s.tileP bDram tile 3)) = true)
    (hrq : s.rqOf (8 * tile + 2 * channel + bank % 2) = []) (hwq : s.wqOf (8 * tile + 2 * channel + bank % 2) = []) :
    exec (.pageIdleClose tile channel bank) s = .next (
      s.setChan tile channel { s.chan tile channel with rows := Store.write (s.chan tile channel).rows bank {} {} }) :=
  congrArg Host.Outcome.next (if_pos ⟨ht, hc, hopen, hdue, by rw [hrq]; rfl, by rw [hwq]; rfl⟩)

/-- POWER_DOWN_ENTRY of an idle rank that no queued request wants (05 Table 5-8, R163, R164). -/
theorem exec_powerDownEntry_idle {s : State} {tile channel rank : Nat} (hin : s.inService tile channel = true) (hidle : 0 < s.tileP bDram tile 0xB)
    (hr : rank ∈ s.ranks tile) (hwant : s.rankWanted tile channel rank = false)
    (hdue : s.due (Store.read (s.chan tile channel).idleAt rank 0) (s.dclk tile channel (s.tileP bDram tile 0xB)) = true)
    (hup : rank ∉ (s.chan tile channel).powerDown) :
    exec (.powerDownEntry tile channel rank) s = .next (
      (s.closeRank tile channel rank none).setChan tile channel
        { (s.closeRank tile channel rank none).chan tile channel with powerDown := insertNat rank (s.chan tile channel).powerDown }) :=
  congrArg Host.Outcome.next (if_pos ⟨hin, hidle, by simpa using hr, by simp [hwant], hdue, by simpa using hup⟩)

/-- SELF_REFRESH_ENTRY in MAIN of an idle channel that has not left self-refresh there (05 Table 5-8). -/
theorem exec_selfRefreshEntry_idle {s : State} {tile channel : Nat} (hin : s.inService tile channel = true) (hmode : s.mode.mode = .main)
    (hsr : s.tileP bDram tile 0xC = 1) (hdirty : s.dirtyCount tile = 0) (hbusy : s.tileBusy tile = false)
    (ha : s.rqOf (8 * tile + 2 * channel) = []) (hb : s.rqOf (8 * tile + 2 * channel + 1) = [])
    (huse : (s.chan tile channel).mainUse = false) (hslice : (s.chan tile channel).slice = none) :
    exec (.selfRefreshEntry tile channel) s = .next ((s.quietChan tile channel).setChan tile channel
      { (s.quietChan tile channel).chan tile channel with power := .selfRefresh, powerDown := [] }) :=
  congrArg Host.Outcome.next (if_pos ⟨hin, hmode, hsr, hdirty, by simp [hbusy], by simp [hslice], by simp [ha], by simp [hb], .inl huse⟩)

/-- SELF_REFRESH_EXIT in MAIN, with no step of the start to follow step 6: only a channel that is wanted leaves (05 Table 5-8). -/
theorem exec_selfRefreshExit_main {s : State} {tile channel : Nat} (t0 t1 : Option Nat) (ht : tile < s.tiles) (hc : channel < 4)
    (hpower : (s.chan tile channel).power = .selfRefresh) (hfc : (s.chan tile channel).fc = none) (hf : s.chFenced tile channel = false)
    (hmode : s.mode.mode = .main) (hstep : s.stepRuns 6 = false) :
    exec (.selfRefreshExit tile ⟨channel, t0, t1⟩) s = .next (
      let u := ((s.exitSelfRefresh tile channel (s.chan tile channel).inUseH).readTemps tile channel t0 t1).evalRetrain tile channel
      if s.chanWanted tile channel then u.setChan tile channel { u.chan tile channel with mainUse := true } else s) :=
  congrArg Host.Outcome.next ((if_pos ⟨ht, hc, hpower, by simp [hfc], by simp [hf]⟩).trans
    ((if_neg (by simp [hstep, hmode])).trans (if_pos hmode)))

/-- A channel that leaves self-refresh and reads its temperatures is active, with every row closed. -/
theorem State.chan_afterSelfRefresh (s : State) (t c : Nat) (toH : Bool) (t0 t1 : Option Nat) :
    ((((s.exitSelfRefresh t c toH).readTemps t c t0 t1).evalRetrain t c).chan t c).power = .active ∧
      ((((s.exitSelfRefresh t c toH).readTemps t c t0 t1).evalRetrain t c).chan t c).rows = [] := by
  obtain ⟨-, hactive, hclosed⟩ := s.chan_exitSelfRefresh t c toH
  obtain ⟨hpower, hrows⟩ := (s.exitSelfRefresh t c toH).chan_readTemps t c t0 t1
  simp only [State.evalRetrain, State.chan_setChan]
  exact ⟨hpower.trans hactive, hrows.trans hclosed⟩

/-- Counting in one parameter leaves another of the same block and tile. -/
theorem State.countP_tileP (s : State) (block t : Nat) {i j : Nat} (h : j ≠ i) : (s.countP (pid block t i) 0).tileP block t j = s.tileP block t j :=
  congrArg BitVec.toNat (s.param_setParam_ne _ (by unfold pid; omega))

/-- CA_PARITY_ALERT of a channel in service: the limit of alerts within 1 s fences the channel (07 R195, R196). -/
theorem exec_caParityAlert {s : State} {tile channel sub : Nat} (hin : s.inService tile channel = true) (hsub : sub < 2) :
    exec (.caParityAlert tile channel sub) s = .next (
      let u := (s.closeSub tile channel sub).countP (pid bEcc tile (0x18 + channel)) 0
      let l := s.clock :: (s.ic tile channel).caAt.filter (fun t0 => decide (s.clock < t0 + sec))
      if s.tileP bEcc tile 3 ≤ l.length then (u.setIc tile channel { s.ic tile channel with caAt := l }).raiseFence 0x1 channel tile 0x55 0
      else u.setIc tile channel { s.ic tile channel with caAt := l }) := by
  have hlimit : ((s.closeSub tile channel sub).countP (pid bEcc tile (0x18 + channel)) 0).tileP bEcc tile 3 = s.tileP bEcc tile 3 :=
    State.countP_tileP _ _ _ (by omega)
  rw [← hlimit]
  exact congrArg Host.Outcome.next (if_pos ⟨hin, hsub⟩)

/-- Settles O27, clause by clause from what each command does under its conditions. -/
theorem dramUpkeep : Obligations.DramUpkeep := by
  unfold Obligations.DramUpkeep
  refine ⟨?postponed, ?paid, ?issued, ?made, ?pulledIn, ?sensor, ?sensorFails, ?drift, ?zq, ?neighbour, ?window, ?idleRow,
    ?powerDown, ?selfRefresh, ?leaves, ?prac, ?parity⟩
  case postponed =>
    rintro s tile channel rank hgo ⟨hdue, hpulled, hurgent, hroom⟩
    simp [exec_refreshDue hgo, hdue, hpulled, hurgent, hroom]
  case paid =>
    rintro s tile channel rank hgo ⟨hdue, hpulled⟩
    simp [exec_refreshDue hgo, hdue, hpulled]
  case issued =>
    rintro s tile channel rank hgo ⟨hdue, hpulled, hnow⟩
    have hlate : ¬ (s.urgentReads tile channel rank = true ∧ (Store.read (s.chan tile channel).refresh rank {}).postponed < 4) := by
      rintro ⟨hurgent, hroom⟩
      rcases hnow with hcalm | hfull
      · simp [hcalm] at hurgent
      · omega
    refine ⟨_, (exec_refreshDue hgo).trans (congrArg Host.Outcome.next ((if_pos hdue).trans ((if_neg (by omega)).trans (if_neg hlate)))), ?_⟩
    obtain ⟨-, -, -, hactive, -⟩ := hgo
    exact ⟨s.issueRefresh_refresh _ _ _ _, s.issueRefresh_eq_setChan _ _ _ _ hactive⟩
  case made =>
    rintro s tile channel rank hgo ⟨hdue, hpostponed⟩
    simp [exec_refreshDue hgo, hdue, hpostponed]
  case pulledIn =>
    rintro s tile channel rank hgo ⟨hdue, hpostponed⟩
    simp [exec_refreshDue hgo, hdue, hpostponed]
  case sensor =>
    rintro s tile channel k ⟨ht, hc, hdimm, hat, hslot, hmode⟩
    rw [exec_dimmTemperatureRead_first _ _ ht hc hdimm hat hmode, s.readTemps_some tile channel k hslot]
  case sensorFails =>
    rintro s tile channel ⟨ht, hc, hdimm, hat, hslot, hmode⟩
    rw [exec_dimmTemperatureRead_first _ _ ht hc hdimm hat hmode, s.readTemps_none tile channel hslot]
  case drift =>
    rintro s tile channel rank drift ⟨hin, hserves, hr⟩ hdue
    exact exec_dqsOscillatorCheck_due drift hin hserves hr hdue
  case zq =>
    rintro s tile channel rank ⟨hin, hr⟩ hdue
    exact exec_zqCalibration_due hin hr hdue
  case neighbour =>
    rintro s tile channel bank row rest ⟨ht, hc, hactive, hf⟩ hnbr
    exact congrArg Host.Outcome.next ((if_pos ⟨ht, hc, hactive, by simp [hf]⟩).trans (s.refreshNeighbours_cons tile channel hnbr))
  case window =>
    rintro s tile channel ⟨ht, hc, hnbr⟩ hdue
    exact exec_activateTableClear_due ht hc hnbr hdue
  case idleRow =>
    rintro s tile channel bank ⟨ht, hc, hopen⟩ hdue ⟨hrq, hwq⟩
    exact exec_pageIdleClose_idle ht hc hopen hdue hrq hwq
  case powerDown =>
    rintro s tile channel rank ⟨hin, hidle, hr, hwant⟩ ⟨hdue, hup⟩
    exact exec_powerDownEntry_idle hin hidle hr hwant hdue hup
  case selfRefresh =>
    rintro s tile channel ⟨hin, hmode, hsr, hdirty, hbusy⟩ ⟨ha, hb, huse, hslice⟩
    exact exec_selfRefreshEntry_idle hin hmode hsr hdirty hbusy ha hb huse hslice
  case leaves =>
    rintro s tile channel t0 t1 ⟨ht, hc, hpower, hfc, hf⟩ ⟨hmode, hstep⟩
    exact ⟨exec_selfRefreshExit_main t0 t1 ht hc hpower hfc hf hmode hstep, s.chan_afterSelfRefresh tile channel _ t0 t1⟩
  case prac =>
    intro s tile channel sub h
    exact congrArg Host.Outcome.next (if_pos h)
  case parity =>
    rintro s tile channel sub ⟨hin, hsub⟩
    exact exec_caParityAlert hin hsub

end Sys2Proof.Machine
end

section
/-! A line written to DRAM reads back (05, the DFA mapping; 07 R191, R192): a line is its 64 bytes, and a write of one changes those bytes and
the poison of that line alone. -/

namespace Sys2Proof

/-- Bit `j` of a line given by its bytes. -/
theorem Line.getLsbD_ofBytes (l : List Byte) {j : Nat} (hj : j < 512) : (Line.ofBytes l).getLsbD j = (l.getD (j / 8) 0).getLsbD (j % 8) := by
  induction l generalizing j with
  | nil => simp [Line.ofBytes]
  | cons b r ih =>
    simp only [Line.ofBytes, BitVec.getLsbD_or, BitVec.getLsbD_shiftLeft, BitVec.getLsbD_setWidth, hj, decide_true, Bool.true_and]
    by_cases h : j < 8
    · simp [h, Nat.div_eq_of_lt h, Nat.mod_eq_of_lt h]
    · have hdiv : j / 8 = (j - 8) / 8 + 1 := by omega
      have hmod : j % 8 = (j - 8) % 8 := by omega
      rw [hdiv, hmod, List.getD_cons_succ, ← ih (by omega), BitVec.getLsbD_of_ge b j (by omega)]
      simp [h]

/-- A line is its 64 bytes. -/
theorem Line.ofBytes_byte (l : Line) : Line.ofBytes ((List.range 64).map l.byte) = l := by
  refine BitVec.eq_of_getLsbD_eq fun j hj => ?_
  rw [Line.getLsbD_ofBytes _ hj, List.getD_eq_getElem?_getD, List.getElem?_map, List.getElem?_range (by omega)]
  simp only [Option.map_some, Option.getD_some, Line.byte, BitVec.getLsbD_extractLsb', Nat.div_add_mod]
  simp [Nat.mod_lt]

namespace Machine

/-- A line read after a write at its address is the line written. -/
theorem Memory.line_setLine (m : Memory) (a : Nat) (l : Line) : Memory.line (Memory.setLine m a l) a = l := by
  have hbyte : ∀ i ∈ List.range 64, Memory.read (Memory.setLine m a l) (a + i) = l.byte i := fun i hi => by
    rw [Memory.read_setLine, if_pos ⟨by omega, by simpa using hi⟩, Nat.add_sub_cancel_left]
  rw [Memory.line, List.map_congr_left hbyte, Line.ofBytes_byte]

/-- The line written to DRAM, read at any address in the same 64 bytes. -/
theorem State.dramLine_putDram (s : State) (t : Nat) {a b : Nat} (l : Line) (p : Bool) (h : b / 64 = a / 64) : (s.putDram t a l p).dramLine t b = l := by
  rw [State.dramLine, h]
  exact Memory.line_setLine _ _ l

/-- A byte outside the line that is written reads as before. -/
theorem State.read_putDram_outside (s : State) (t a : Nat) (l : Line) (p : Bool) {b : Nat} (h : b < dkey t (a / 64 * 64) ∨ dkey t (a / 64 * 64) + 64 ≤ b) :
    Memory.read (s.putDram t a l p).dram b = Memory.read s.dram b :=
  (Memory.read_setLine s.dram _ b l).trans (if_neg (by omega))

/-- The poisoned lines after a line is written: that line has the poison it was written with, every other what it had. -/
theorem State.mem_poisoned_putDram (s : State) (t a : Nat) (l : Line) (p : Bool) (k : Nat) :
    k ∈ (s.putDram t a l p).poisoned ↔ if k = dkey t a / 64 then p = true else k ∈ s.poisoned := by
  cases p with
  | true => by_cases h : k = dkey t a / 64 <;> simp [State.putDram, mem_insertNat, h]
  | false => by_cases h : k = dkey t a / 64 <;> simp [State.putDram, h]

/-- Settles O59: the line and the poison read back, and what lies outside the line stays. -/
theorem dramLines : Obligations.DramLines := by
  unfold Obligations.DramLines
  refine fun s t a l p => ⟨s.dramLine_putDram t l p rfl, ?poison, fun b hb => s.read_putDram_outside t a l p hb, fun k hk => ?others⟩
  case poison => simp [State.mem_poisoned_putDram]
  case others => rw [State.mem_poisoned_putDram, if_neg hk]

end Machine
end Sys2Proof
end

section
/-! Lines in error (07 R189 to R194, R205 to R207, R217): recovery of a line, the conversion lap, Undertow and the reload of a cleared channel,
each command under its conditions. -/

namespace Sys2Proof.Machine

/-! ### Recovery of a line -/

/-- The line of the current image, where the merge buffer holds nothing of it (07 R192). -/
theorem State.imageLine_of_image {s : State} {t a : Nat} {r : TRec} (hmerge : s.mergeOf t (s.offOf t a) = none)
    (himage : s.image t (s.logicalOf t (a / 4096)).1 (s.logicalOf t (a / 4096)).2 = some r) : s.imageLine t a = r.line (a / 64 % 64) := by
  unfold State.imageLine
  rw [himage, hmerge]

section Recovery
variable {s : State} {tile dfa : Nat} {e : RqEnt}

/-- LINE_RECOVERY of the only line in recovery: rewritten from the image, asked of the other unit, or poisoned (07 R192, R194). -/
theorem exec_lineRecovery_single (readable : Bool) (hrecov : (s.pt tile).recov = [e]) (hdfa : e.dfa = dfa / 64 * 64) :
    exec (.lineRecovery tile dfa readable) s = .next (
      let a := dfa / 64 * 64
      let off := s.offOf tile a
      let u := s.setPt tile { s.pt tile with recov := [] }
      let usable := readable && (s.image tile (s.logicalOf tile (a / 4096)).1 (s.logicalOf tile (a / 4096)).2).all (fun r => decide (r.kind ≠ 6))
      if s.recomputes tile a && usable then
        let l := s.imageLine tile a
        let raw := u.cipherLine true tile off a l.1
        let v := (u.putDram tile a raw l.2).log tile 4 bEcc tile 0x04 0x02 a
        let w := if l.2 then v.enterPoison tile off else v
        ((w.deliver tile { e with tries := 0 } raw l.2).countUe tile a).endRecovery tile off
      else if s.mode.mode = .mirs ∨ (s.recomputes tile a && s.twinServes) then
        if (s.mt tile).lrqs.any (fun q => decide (q.off = off ∧ q.why = .recovery)) then s
        else if s.twinUp then (s.sendLrq tile off 1 .recovery 0).countUe tile a else s
      else if s.sendsFrames tile && (s.mt tile).windowFull then s
      else (((u.poisonLine tile off a).deliver tile e 0 true).countUe tile a).endRecovery tile off) := by
  have hfind : (s.pt tile).recov.find? (fun e => decide (e.dfa = dfa / 64 * 64)) = some e := by simp [hrecov, hdfa]
  have hleft : (s.pt tile).recov.filter (fun x => decide (x.dfa ≠ dfa / 64 * 64)) = [] := by simp [hrecov, hdfa]
  show execLineRecovery tile dfa readable s = _
  unfold execLineRecovery
  dsimp only
  rewrite [hfind, hleft]
  cases s.image tile (s.logicalOf tile (dfa / 64 * 64 / 4096)).1 (s.logicalOf tile (dfa / 64 * 64 / 4096)).2 with
  | none => rfl
  | some r => rfl

/-- A line whose page's current image can be read is rewritten from it (07 R192, step 2). -/
theorem exec_lineRecovery_rewritten {r : TRec} (hrecov : (s.pt tile).recov = [e]) (hdfa : e.dfa = dfa / 64 * 64)
    (hclean : s.recomputes tile (dfa / 64 * 64) = true) (hmerge : s.mergeOf tile (s.offOf tile (dfa / 64 * 64)) = none)
    (himage : s.image tile (s.logicalOf tile (dfa / 64 * 64 / 4096)).1 (s.logicalOf tile (dfa / 64 * 64 / 4096)).2 = some r) (hkind : r.kind ≠ 6) :
    exec (.lineRecovery tile dfa true) s = .next (
      let a := dfa / 64 * 64
      let off := s.offOf tile a
      let l := r.line (a / 64 % 64)
      let u := s.setPt tile { s.pt tile with recov := [] }
      let raw := u.cipherLine true tile off a l.1
      let v := (u.putDram tile a raw l.2).log tile 4 bEcc tile 0x04 0x02 a
      let w := if l.2 then v.enterPoison tile off else v
      ((w.deliver tile { e with tries := 0 } raw l.2).countUe tile a).endRecovery tile off) := by
  rw [exec_lineRecovery_single true hrecov hdfa]
  refine congrArg Host.Outcome.next ((if_pos (by simp [hclean, himage, hkind])).trans ?_)
  simp only [State.imageLine_of_image hmerge himage]

/-- Outside a standby, a line that neither the image nor the twin gives back is poisoned, marked and counted (07 R192, step 3). -/
theorem exec_lineRecovery_poisoned {readable : Bool} (hrecov : (s.pt tile).recov = [e]) (hdfa : e.dfa = dfa / 64 * 64)
    (hlost : s.recomputes tile (dfa / 64 * 64) = false ∨ readable = false ∧ s.twinServes = false) (hmode : s.mode.mode ≠ .mirs)
    (hframes : s.sendsFrames tile = false) :
    exec (.lineRecovery tile dfa readable) s = .next (
      let a := dfa / 64 * 64
      let w := (s.setPt tile { s.pt tile with recov := [] }).poisonLine tile (s.offOf tile a) a
      ((w.deliver tile e 0 true).countUe tile a).endRecovery tile (s.offOf tile a)) := by
  have hunread : s.recomputes tile (dfa / 64 * 64) = false ∨ readable = false := hlost.imp_right And.left
  have hunserved : s.recomputes tile (dfa / 64 * 64) = false ∨ s.twinServes = false := hlost.imp_right And.right
  rw [exec_lineRecovery_single readable hrecov hdfa]
  refine congrArg Host.Outcome.next ((if_neg ?image).trans ((if_neg ?twin).trans (if_neg ?window)))
  case image => rcases hunread with h | h <;> simp [h]
  case twin => rcases hunserved with h | h <;> simp [hmode, h]
  case window => simp [hframes]

/-- A standby asks the active unit for a line that it cannot recompute (07 R194). -/
theorem exec_lineRecovery_asked (readable : Bool) (hrecov : (s.pt tile).recov = [e]) (hdfa : e.dfa = dfa / 64 * 64)
    (hlost : s.recomputes tile (dfa / 64 * 64) = false) (hmode : s.mode.mode = .mirs) (htwin : s.twinUp = true) (hlrqs : (s.mt tile).lrqs = []) :
    exec (.lineRecovery tile dfa readable) s = .next (
      (s.sendLrq tile (s.offOf tile (dfa / 64 * 64)) 1 .recovery 0).countUe tile (dfa / 64 * 64)) := by
  rw [exec_lineRecovery_single readable hrecov hdfa]
  exact congrArg Host.Outcome.next ((if_neg (by simp [hlost])).trans ((if_pos (.inl hmode)).trans ((if_neg (by simp [hlrqs])).trans (if_pos htwin))))

end Recovery

/-! ### The conversion lap -/

section Lap
variable {s : State} {tile channel : Nat} (errs : List (Nat × BitVec 640)) (hruns : s.convRuns tile channel = true)
  (hspan : s.training tile (s.ic tile channel).convPtr = false)
include hruns hspan

/-- CONVERSION_LAP_GROUP at the end of a group whose lines are recovered, with room in the write queues (07 R189, R190). -/
theorem exec_conversionLapGroup_ends (hbegun : (s.ic tile channel).lapStart = 1)
    (hrecovered : (groupLines channel (s.ic tile channel).convPtr).all (fun a => !s.scrubOpen tile a) = true)
    (hroom : (s.wqOf (8 * tile + 2 * channel)).length ≤ 32 ∧ (s.wqOf (8 * tile + 2 * channel + 1)).length ≤ 32) :
    exec (.conversionLapGroup tile channel true errs) s = .next (
      ((groupLines channel (s.ic tile channel).convPtr).foldl (fun (v : State) a => v.queueWrite tile a (v.stored tile a).1 (v.stored tile a).2 0)
        (s.convMove tile channel)).kick tile [.held]) :=
  congrArg Host.Outcome.next ((if_neg (by simp [hruns])).trans ((if_neg (by simp [hspan])).trans
    ((if_neg (by simp)).trans (if_pos ⟨hbegun, hrecovered, hroom⟩))))

/-- CONVERSION_LAP_GROUP at the beginning of a group, when the bus and the pace allow it (07 R189, R191). -/
theorem exec_conversionLapGroup_begins (hnext : (s.ic tile channel).lapStart = 0) (hbus : s.busFree tile 8 = true)
    (hpace : (s.it tile).convNext ≤ s.clock) :
    exec (.conversionLapGroup tile channel false errs) s = .next (s.convBegin tile channel errs) :=
  congrArg Host.Outcome.next ((if_neg (by simp [hruns])).trans ((if_neg (by simp [hspan])).trans
    ((if_pos (by simp)).trans (if_pos ⟨hnext, hbus, hpace⟩))))

end Lap

/-- The end of a group moves the pointer past its 16 KiB, for the next group to begin, and writes nothing else (07 R189). -/
theorem State.convMove_frame (s : State) (t c : Nat) :
    ((s.convMove t c).ic t c).convPtr = (s.ic t c).convPtr + 16384 ∧ ((s.convMove t c).ic t c).lapStart = 0 ∧
      (s.convMove t c).dram = s.dram ∧ (s.convMove t c).wq = s.wq := by
  simp [State.convMove]

/-! ### Undertow -/

/-- UNDERTOW_READ in an idle slot and behind its pace: what the lap makes of its next line (07 R205, R206). -/
theorem exec_undertowRead {s : State} {tile channel : Nat} (err : BitVec 640)
    (hgo : s.undertow tile channel = true ∧ s.behind tile channel = true ∧ 0 < s.dfaSize tile) :
    exec (.undertowRead tile channel err) s = .next (
      let a := (s.ic tile channel).lapPos
      let u := s.readRow tile a
      let p := (u.lineGot tile a err).2
      match u.lineCheck tile a err with
      | .pass => u.lapGood tile channel (u.offOf tile a) p
      | .corrected fix => ((u.bucket tile channel (u.fixPlace tile a fix)).queueBack tile a).lapGood tile channel (u.offOf tile a) p
      | .bad => u.lapBad tile channel a) :=
  congrArg Host.Outcome.next (if_pos (by simp [hgo]))

/-- UNDERTOW_WRITE_BACK of the oldest corrected line: dropped, kept waiting, or queued (07 R206). -/
theorem exec_undertowWriteBack_cons {s : State} {tile a : Nat} {r : List Nat} (hfirst : (s.it tile).writeBack = a :: r) :
    exec (.undertowWriteBack tile) s = .next (
      if s.newerHeld tile a || s.lineFenced tile a then s.setIt tile { s.it tile with writeBack := r }
      else if s.writeWaits tile a || s.chanAway tile (dfaChan a) || !s.busFree tile 7 || !(s.rqOf (subKey tile a)).isEmpty then s
      else (s.setIt tile { s.it tile with writeBack := r }).queueWrite tile a (s.dramLine tile a) (s.isPoisoned tile a) 0) := by
  show execUndertowWriteBack tile s = _
  unfold execUndertowWriteBack
  simp only [hfirst]

/-! ### The reload of a cleared channel -/

/-- CHANNEL_RELOAD without the twin and outside a standby: the next page comes from the flash image (07 R217). -/
theorem exec_channelReload_image {s : State} {cls inst tile : Nat} {f : Fence} (hfence : s.fence? cls inst tile = some f)
    (hreloading : f.reloading = true) (htwin : s.twinServes = false) (hmode : s.mode.mode ≠ .mirs) :
    exec (.channelReload cls inst tile) s = .next ((s.reloadPage f f.reloadAt).reloadTo f (f.reloadAt + 1)) := by
  show execChannelReload cls inst tile s = _
  unfold execChannelReload
  rw [hfence]
  exact congrArg Host.Outcome.next ((if_neg (by simp [hreloading])).trans ((if_neg (by simp [hmode])).trans (if_neg (by simp [htwin]))))

/-- Settles O28, clause by clause from what each command does under its conditions. -/
theorem linesInError : Obligations.LinesInError := by
  unfold Obligations.LinesInError
  refine ⟨?rewritten, ?poisoned, ?asked, ?groupEnds, ?groupBegins, ?good, ?corrected, ?writtenBack, ?discarded, ?late, ?reloaded⟩
  case rewritten =>
    rintro s tile dfa e r ⟨hrecov, hdfa⟩ ⟨hclean, hmerge⟩ ⟨himage, hkind⟩
    exact exec_lineRecovery_rewritten hrecov hdfa hclean hmerge himage hkind
  case poisoned =>
    rintro s tile dfa readable e ⟨hrecov, hdfa⟩ hlost ⟨hmode, hframes⟩
    exact exec_lineRecovery_poisoned hrecov hdfa hlost hmode hframes
  case asked =>
    rintro s tile dfa readable e ⟨hrecov, hdfa⟩ ⟨hlost, hmode, htwin, hlrqs⟩
    exact exec_lineRecovery_asked readable hrecov hdfa hlost hmode htwin hlrqs
  case groupEnds =>
    rintro s tile channel errs ⟨hruns, hspan, hbegun⟩ hrecovered hroom
    exact ⟨exec_conversionLapGroup_ends errs hruns hspan hbegun hrecovered hroom, s.convMove_frame tile channel⟩
  case groupBegins =>
    rintro s tile channel errs ⟨hruns, hspan, hnext⟩ ⟨hbus, hpace⟩
    exact exec_conversionLapGroup_begins errs hruns hspan hnext hbus hpace
  case good =>
    intro s tile channel err hgo hcheck
    simp only [exec_undertowRead err hgo, hcheck]
  case corrected =>
    intro s tile channel fix err hgo hcheck
    simp only [exec_undertowRead err hgo, hcheck]
  case writtenBack =>
    rintro s tile a r ⟨hfirst, hnewer, hfence⟩ ⟨hwait, haway, hbus, hreads⟩
    rw [exec_undertowWriteBack_cons hfirst, if_neg (by simp [hnewer, hfence]), if_neg (by simp [hwait, haway, hbus, hreads])]
  case discarded =>
    rintro s tile a r ⟨hfirst, hnewer⟩
    rw [exec_undertowWriteBack_cons hfirst, if_pos (by simp [hnewer])]
  case late =>
    rintro s tile channel ⟨ht, hc, hdone, hfirst⟩ hdue
    exact congrArg Host.Outcome.next (if_pos ⟨ht, hc, hdone, by simp [hfirst], hdue⟩)
  case reloaded =>
    rintro s cls inst tile f ⟨hfence, hreloading, htwin, hmode⟩
    exact exec_channelReload_image hfence hreloading htwin hmode

end Sys2Proof.Machine
end

section
/-! Checks inside a tile, corrected-error buckets and fences (07 R197 to R201, R209 to R216): what each operation leaves of the state, and each
command under its conditions. -/

namespace Sys2Proof.Machine

open Sys2Proof.Safety

/-! ### Parity and residue -/

/-- PARITY_ERROR: the event and the count, and then what the place of the error asks for (07 R197). -/
theorem exec_parityError {s : State} {tile : Nat} (place : Parity) (ht : tile < s.tiles) :
    exec (.parityError tile place) s = .next (
      let u := (s.log tile 4 bEcc tile 0x08 0 0).tally tile 32 0x0001 {}
      match place with
      | .readData t l tag again => if again then u.poisonRead t l tag else u
      | .storeData t l tag => u.poisonWait t l tag
      | .moved r again => if again then u.log tile 4 bBatt tile 0x08 r 0 else u
      | .control cls inst => u.raiseFence cls inst tile 0x11 0) :=
  congrArg Host.Outcome.next (if_pos ht)

/-- The host read that waits under a tag is answered with poison, and what it held goes on (07 R197, R199). -/
theorem State.poisonRead_of_find {s : State} {t l tag : Nat} {w : Wait}
    (h : s.waits.find? (fun w => w.req.isRead && w.req.fromHost && decide (w.req.tile = t ∧ w.req.link = l ∧ w.req.tag = tag)) = some w) :
    s.poisonRead t l tag = (
      let v := ({ s with waits := s.waits.erase w } : State).answer w.req rOk 0 true .poison
      State.settle (2 * v.waits.length + 2) v) := by
  unfold State.poisonRead
  rw [h]

/-- RESIDUE_MISMATCH of a performance counter: all ones, with its overflow bit (07 Table 7-5). -/
theorem exec_residueMismatch_counter {s : State} {tile : Nat} (inst : Nat) (ht : tile < s.tiles) :
    exec (.residueMismatch tile 0 inst) s = .next (
      let v := s.tally tile 32 0x0002 {}
      let k := ctrKey tile (inst / 16) (inst % 16)
      (v.setCtr k { v.ctr k with cnt := 2 ^ 48 - 1, ovf := true }).log tile 3 bPmc (64 * tile + inst / 16) 0x08 (inst % 16) 0) :=
  congrArg Host.Outcome.next ((if_pos ht).trans (if_pos rfl))

/-- RESIDUE_MISMATCH of a unit of a class that checks residues (07 R198, Table 7-5). -/
theorem exec_residueMismatch_unit {s : State} {tile cls : Nat} (inst : Nat) (ht : tile < s.tiles) (hctr : cls ≠ 0)
    (hcls : [0xA, 0x1, 0x3, 0x5, 0x6, 0x7, 0x8, 0x9].contains cls = true) :
    exec (.residueMismatch tile cls inst) s = .next ((s.tally tile 32 0x0002 {}).raiseFence cls inst tile 0x10 0) :=
  congrArg Host.Outcome.next ((if_pos ht).trans ((if_neg hctr).trans (if_pos hcls)))

/-! ### Queues of the contexts -/

/-- QUEUE_ECC_ERROR of a completion record: the first that waits completes UNCOR (07 R199, Table 7-6). -/
theorem exec_queueEccError_record {s : State} {tile n : Nat} {x : Cpl} {r : List Cpl} (ht : tile < s.tiles) (hout : (s.ctx n).outbox = x :: r) :
    exec (.queueEccError tile (.record n)) s = .next (s.setCtx n { s.ctx n with outbox := { x with status := .uncor, result := 0 } :: r }) := by
  refine congrArg Host.Outcome.next ((if_pos ht).trans ?_)
  simp only [hout]

/-- An item before the last of its submission is discarded: its record carries UNCOR, the submission goes on with the next item, and memory is
as it was (07 Table 7-6). -/
theorem State.discardItem_middle {s : State} {n : Nat} {u : Cur} (hcur : (s.ctx n).cur = some u) (hmore : u.next + 1 < u.sub.items.length) :
    LastRecord (s.discardItem n) n .uncor 0 ∧
      ((s.discardItem n).ctx n).cur = some { u with next := u.next + 1, high := max u.high (u.next + 1) } ∧ (s.discardItem n).dram = s.dram := by
  have hnext : u.next < u.sub.items.length := by omega
  have hlast : ¬ u.sub.items.length ≤ u.next + 1 := by omega
  unfold State.discardItem
  simp only [hcur, hnext, hlast, if_true, decide_false, Bool.false_eq_true, if_false, State.ctx_setCtx, State.setCtx_dram]
  refine ⟨⟨_, by simp only [State.ctx_setCtx, List.getLast?_append, List.getLast?_singleton, Option.some_or]; rfl, rfl, rfl⟩, trivial, ?_⟩
  split
  · split
    · exact s.setSlip_dram _ _
    · rfl
  · rfl

/-! ### Buckets -/

/-- A corrected error within the threshold of its bucket adds one (07 R209). -/
theorem State.bucket_within {s : State} {t b : Nat} (place : Nat) (h : (s.param (pid bEcc t (0x20 + b)) 0).toNat + 1 ≤ s.tileP bEcc t (0x30 + b)) :
    s.bucket t b place = s.setParam (pid bEcc t (0x20 + b)) 0 (BitVec.ofNat 64 ((s.param (pid bEcc t (0x20 + b)) 0).toNat + 1)) :=
  if_neg (by omega)

/-! ### Eaves -/

/-- EAVES_TAG_ERROR of a corrected word counts in bucket 4 (07 R200, R209). -/
theorem exec_eavesTagError_wordSingle {s : State} {tile set way : Nat} (hgo : tile < s.tiles ∧ set < 2 ^ 17 ∧ way < 16) :
    exec (.eavesTagError tile set way .wordSingle) s = .next ((s.bucket tile 4 4).tally tile (2 + set % 16 / 8) 0x0004 {}) :=
  congrArg Host.Outcome.next (if_pos hgo)

/-- A double error in a tag fences the tile where the line is dirty, and else drops the line (07 R201). -/
theorem exec_eavesTagError_tagDouble {s : State} {tile set way : Nat} (hgo : tile < s.tiles ∧ set < 2 ^ 17 ∧ way < 16)
    (hvalid : (s.evLine (evKey tile set way)).valid = true) :
    exec (.eavesTagError tile set way .tagDouble) s = .next (
      if (s.evLine (evKey tile set way)).dirty then s.raiseFence 0xA 0 tile 0x12 0 else s.dropWay (evKey tile set way)) :=
  congrArg Host.Outcome.next ((if_pos hgo).trans (if_neg (by simp [hvalid])))

/-- A double error in a data word drops a clean line (07 R200). -/
theorem exec_eavesTagError_wordDouble_clean {s : State} {tile set way : Nat} (hgo : tile < s.tiles ∧ set < 2 ^ 17 ∧ way < 16)
    (hvalid : (s.evLine (evKey tile set way)).valid = true) (hclean : (s.evLine (evKey tile set way)).dirty = false) :
    exec (.eavesTagError tile set way .wordDouble) s = .next (s.dropWay (evKey tile set way)) :=
  congrArg Host.Outcome.next ((if_pos hgo).trans ((if_neg (by simp [hvalid])).trans (if_pos (by simp [hclean]))))

/-! ### Fences -/

/-- The first replays on a UCIe link: 16 within 1 ms fence it (07 Table 7-10). -/
theorem exec_ucieReplayLimit_first {s : State} {tile link count : Nat} (ht : tile < s.tiles) (hl : link < 4)
    (hnone : Store.read (s.it tile).replays link [] = []) (hcount : count < 2 ^ 16) :
    exec (.ucieReplayLimit tile link count) s = .next (
      let u := (s.setIt tile { s.it tile with replays := Store.write (s.it tile).replays link (List.replicate count s.clock) [] }).tally tile 33 0x0001 {}
      if 16 ≤ count then u.raiseFence 0x9 link tile 0x48 0 else u) := by
  have hmin : min count 65535 = count := by omega
  have hrecent : (List.replicate count s.clock).countP (fun t0 => decide (s.clock < t0 + ms)) = count := by
    simp [List.countP_replicate, ms]
  refine congrArg Host.Outcome.next ((if_pos ⟨ht, hl⟩).trans ?_)
  simp only [hnone, hmin, List.filter_nil, List.append_nil, State.tally_clock, State.setIt_clock, hrecent]

/-- A fence of a unit that has none and lies in no fenced unit: in force once, recorded, logged, and its unit stops (07 R211, R212, R214). -/
theorem State.raiseFence_new {s : State} {cls inst tile : Nat} (cause src : Nat) (hunit : s.unitExists cls inst tile = true)
    (hnot : (s.log 0 (if cls = 0xA then 6 else 5) (fenceBlock cls) inst 0x01 cause tile).fenced cls inst tile = false)
    (hout : (s.log 0 (if cls = 0xA then 6 else 5) (fenceBlock cls) inst 0x01 cause tile).enclosed cls inst tile = false) :
    s.raiseFence cls inst tile cause src = (
      let u := s.log 0 (if cls = 0xA then 6 else 5) (fenceBlock cls) inst 0x01 cause tile
      let f : Fence := { cls, inst, tile, cause, tidemark := u.localCount tile }
      let rest := u.fences.inForce.filter (fun g => !(g.reloading && decide (g.cls = cls ∧ g.inst = inst ∧ g.tile = tile)))
      (({ u with fences := { u.fences with inForce := rest ++ [f] } } : State).fenceRec
        { tidemark := u.localCount tile, cause, inst, tile, src, clr := false, cls }).fenceEffect cls inst tile) :=
  (if_neg (by simp [hunit])).trans (if_neg (by simp [hnot, hout]))

/-- UNIT_RESET of a fenced channel that is not in training: full training from bank L (06 R178; 07 R216). -/
theorem exec_unitReset_channel {s : State} {tile inst : Nat} (trains : Bool) (hfenced : s.fenced 1 inst tile = true)
    (hout : s.enclosed 1 inst tile = false) (htrain : (s.chan tile inst).train = none) :
    exec (.unitReset 1 inst tile trains) s = .next (
      (s.setChan tile inst { s.chan tile inst with fc := none, slice := none }).startTrain tile inst false .unitReset 32 1) :=
  congrArg Host.Outcome.next ((if_pos (by simp [hfenced, hout])).trans (if_neg (by simp [htrain])))

/-- Settles O29, clause by clause from what each command does under its conditions. -/
theorem checksAndFences : Obligations.ChecksAndFences := by
  unfold Obligations.ChecksAndFences
  refine ⟨?control, ?readData, ?residue, ?record, ?item, ?corrected, ?within, ?leak, ?eaves, ?replays, ?raised, ?notice, ?reset⟩
  case control =>
    intro s tile cls inst ht
    exact exec_parityError (.control cls inst) ht
  case readData =>
    intro s tile t l tag w ht hfind
    exact ⟨exec_parityError (.readData t l tag false) ht,
      (exec_parityError (.readData t l tag true) ht).trans (congrArg Host.Outcome.next (State.poisonRead_of_find hfind))⟩
  case residue =>
    intro s tile inst ht
    exact ⟨exec_residueMismatch_unit inst ht (by decide) (by decide), exec_residueMismatch_counter inst ht, by simp, by simp⟩
  case record =>
    rintro s tile n x r ⟨ht, hout⟩
    exact exec_queueEccError_record ht hout
  case item =>
    rintro s tile n w rest u ⟨ht, hcur⟩ ⟨-, hmore⟩
    exact ⟨s.discardItem n, congrArg Host.Outcome.next (if_pos ht), State.discardItem_middle hcur hmore⟩
  case corrected =>
    intro s tile ht
    exact congrArg Host.Outcome.next (if_pos ht)
  case within =>
    intro s tile b place h
    exact State.bucket_within place h
  case leak =>
    rintro s tile b ⟨ht, hb⟩ hdue
    exact congrArg Host.Outcome.next (if_pos ⟨ht, hb, hdue⟩)
  case eaves =>
    intro s tile set way hgo hvalid
    exact ⟨exec_eavesTagError_wordSingle hgo, exec_eavesTagError_tagDouble hgo hvalid, exec_eavesTagError_wordDouble_clean hgo hvalid⟩
  case replays =>
    rintro s tile link ⟨ht, hl, hnone⟩
    exact ⟨exec_ucieReplayLimit_first (count := 15) ht hl hnone (by decide), exec_ucieReplayLimit_first (count := 16) ht hl hnone (by decide)⟩
  case raised =>
    rintro s cls inst tile cause ⟨hunit, hnot⟩ hout
    exact congrArg Host.Outcome.next (State.raiseFence_new cause 0 hunit hnot hout)
  case notice =>
    intro s holder cls inst tile h
    exact congrArg Host.Outcome.next (if_pos h)
  case reset =>
    rintro s tile inst ⟨hfenced, hout⟩ htrain
    exact exec_unitReset_channel true hfenced hout htrain

end Sys2Proof.Machine
end

section
/-! The drain of dirty pages, the drain rate and the effective budget (08 R224 to R229; 09 R263): what passing over a page and the verified
record of one leave, and each command under its conditions. -/

namespace Sys2Proof.Machine

/-! ### The walk -/

/-- A segment that is neither queued for merge nor under way in one joins the queue (09 R263). -/
theorem State.queueMerge_new {s : State} {t seg : Nat} (hq : seg ∉ (s.th t).mergeQ) (hm : (s.th t).merges = []) :
    s.queueMerge t seg = s.setTh t { s.th t with mergeQ := (s.th t).mergeQ ++ [seg] } := by
  unfold State.queueMerge
  exact if_neg (by simp [hq, hm])

/-- Passing over a page that its full segment alone holds back queues the merge of the segment (09 R263). -/
theorem State.passOver_heldBack {s : State} {t p : Nat} (hheld : s.heldBack t p = true) (hq : (s.th t).segOf (s.logicalOf t p).2 ∉ (s.th t).mergeQ)
    (hm : (s.th t).merges = []) (hfirst : (s.holdMerge t p).htFirst t p = none) :
    s.passOver t p = s.setTh t { s.th t with mergeQ := (s.th t).mergeQ ++ [(s.th t).segOf (s.logicalOf t p).2] } := by
  have hhold : s.holdMerge t p = s.queueMerge t ((s.th t).segOf (s.logicalOf t p).2) := if_pos hheld
  have hpass : s.passOver t p = s.holdMerge t p := congrArg (State.headFirst (s.holdMerge t p) t) hfirst
  rw [hpass, hhold, State.queueMerge_new hq hm]

/-- The pages of the walk that the drain may take: none is in flight, and one with lines on a fenced unit can be fetched from the twin
(08 R224, R227). -/
def State.drainable (s : State) (t : Nat) : List Nat :=
  (s.walk t).filter (fun p => !(s.tl t).inflight.any (fun f => decide (f.page = p)) && (!s.pageStopped t p || (s.twinInMirs && (s.htPageOf t p).isNone)))

/-- The first of those pages is not passed over: the drain takes it. -/
theorem exec_drainPage_takes {s : State} {tile p : Nat} {l : List Nat} (hruns : s.thatchRuns tile = true) (haway : s.pageAway tile = false)
    (hroom : (s.tl tile).inflight.length < 256) (hput : s.canPut tile false = true) (hwalk : s.drainable tile = p :: l)
    (hheld : s.heldBack tile p = false) (hfirst : s.htFirst tile p = none) (hconv : s.pageConverting tile p = false) :
    exec (.drainPage tile) s = .next (s.takePage tile p) := by
  have hgo : ¬ (!s.thatchRuns tile || s.pageAway tile || decide (256 ≤ (s.tl tile).inflight.length) || !s.canPut tile false) = true := by
    simp [hruns, haway, hroom, hput]
  refine congrArg Host.Outcome.next ((if_neg hgo).trans ?_)
  extract_lets cand passed u
  have hcand : cand s = p :: l := hwalk
  have hpassed : passed s p = false := by simp only [passed, hheld, hfirst, Option.isSome_none, Bool.or_self]
  have hnone : (cand s).takeWhile (passed s) = [] := by rw [hcand, List.takeWhile_cons_of_neg (by simp [hpassed])]
  have hu : u = s := congrArg (List.foldl _ s) hnone
  rw [hu, hcand, List.find?_cons_of_pos (by simp [hpassed])]
  exact if_neg (by simp [hconv])

/-- 256 pages in flight: the drain takes no other. -/
theorem exec_drainPage_full {s : State} {tile : Nat} (h : 256 ≤ (s.tl tile).inflight.length) : exec (.drainPage tile) s = .next s :=
  congrArg Host.Outcome.next (if_pos (by simp [h]))

/-! ### The verified record of a page -/

/-- The record of the page in flight is programmed. -/
theorem exec_recordVerified_programmed {s : State} {tile page : Nat} {f : Inflight}
    (hf : (s.tl tile).inflight.find? (fun f => decide (f.page = page)) = some f)
    (hrec : (s.th tile).recs.any (fun r => decide (r.ht = (s.logicalOf tile page).1 ∧ r.lpage = (s.logicalOf tile page).2 ∧ r.tm = f.ts)) = true) :
    exec (.recordVerified tile page) s = .next (((if f.redirty then s.tally tile 9 0x0003 {} else s).tally tile 9 0x0001 {}).recordDone tile page) := by
  show execRecordVerified tile page s = _
  unfold execRecordVerified
  simp only [hf]
  exact congrArg Host.Outcome.next (if_pos hrec)

/-- The page is no longer in flight, nor at the head of the walk. -/
def State.outOfFlight (s : State) (t page : Nat) : State :=
  s.setTl t { s.tl t with inflight := (s.tl t).inflight.filter (fun g => decide (g.page ≠ page)), head := (s.tl t).head.filter (fun p => decide (p ≠ page)) }

theorem State.recordDone_eq {s : State} {t page : Nat} {f : Inflight} (hf : (s.tl t).inflight.find? (fun f => decide (f.page = page)) = some f) :
    s.recordDone t page = if f.redirty then (s.outOfFlight t page).countP (pid bTide t 3) 0 else (s.outOfFlight t page).clearPage t page := by
  unfold State.recordDone
  simp only [hf]
  rfl

/-- A count in a parameter is no change of the Tideline. -/
@[simp] theorem State.countP_tl (s : State) (id sess t : Nat) : (s.countP id sess).tl t = s.tl t := rfl

/-- Of a page stored to since its record was taken, the bit stays (08 R224). -/
theorem State.recordDone_redirty {s : State} {t page : Nat} {f : Inflight}
    (hf : (s.tl t).inflight.find? (fun f => decide (f.page = page)) = some f) (hre : f.redirty = true) :
    (s.recordDone t page).tl t = (s.outOfFlight t page).tl t := by
  rw [State.recordDone_eq hf, if_pos hre, State.countP_tl]

/-- Of any other page the bit clears (08 R224). -/
theorem State.recordDone_clean {s : State} {t page : Nat} {f : Inflight}
    (hf : (s.tl t).inflight.find? (fun f => decide (f.page = page)) = some f) (hre : f.redirty = false) :
    page ∉ ((s.recordDone t page).tl t).dirty := by
  rw [State.recordDone_eq hf, hre]
  simp [State.clearPage]

/-! ### The drain rate and the budget -/

/-- No program was timed in the last second: the rate stays. -/
theorem exec_drainRateUpdate_untimed {s : State} {tile : Nat} (ht : tile < s.tiles) (hdue : s.due (s.tl tile).rateAt sec = true)
    (hn : (s.th tile).progN = 0) : exec (.drainRateUpdate tile) s = .next (s.setTl tile { s.tl tile with rateAt := s.clock }) :=
  congrArg Host.Outcome.next ((if_pos ⟨ht, hdue⟩).trans (if_pos hn))

/-- The state after a second in which programs were timed (08 R228): `y` holds the rate that is taken, and the higher one that is not taken
yet. -/
def State.timedRate (s : State) (tile : Nat) (y : TideTile) : State :=
  ((s.setTh tile { s.th tile with progSum := 0, progN := 0 }).setTl tile
    { y with rateMeasured := true, rateAt := s.clock, meanProg := (s.th tile).progSum / (s.th tile).progN }).recompute tile

/-- The first measured rate, and one that is no higher, is taken at once (08 R228). -/
theorem exec_drainRateUpdate_taken {s : State} {tile : Nat} (ht : tile < s.tiles) (hdue : s.due (s.tl tile).rateAt sec = true)
    (hn : (s.th tile).progN ≠ 0)
    (hrate : (s.tl tile).rateMeasured = false ∨ s.rateFor tile ((s.th tile).progSum / (s.th tile).progN) ≤ (s.tl tile).rate) :
    exec (.drainRateUpdate tile) s = .next (s.timedRate tile
      { s.tl tile with rate := s.rateFor tile ((s.th tile).progSum / (s.th tile).progN), rateHigh := none }) := by
  have htake : (!(s.tl tile).rateMeasured || decide (s.rateFor tile ((s.th tile).progSum / (s.th tile).progN) ≤ (s.tl tile).rate)) = true := by
    simpa using hrate
  show execDrainRateUpdate tile s = _
  unfold execDrainRateUpdate
  refine congrArg Host.Outcome.next ((if_pos ⟨ht, hdue⟩).trans ((if_neg hn).trans ?_))
  exact congrArg (s.timedRate tile) (if_pos htake)

/-- A higher rate is noted with its time: it has to hold before it is taken (08 R228). -/
theorem exec_drainRateUpdate_noted {s : State} {tile : Nat} (ht : tile < s.tiles) (hdue : s.due (s.tl tile).rateAt sec = true)
    (hn : (s.th tile).progN ≠ 0) (hmeasured : (s.tl tile).rateMeasured = true)
    (hhigher : (s.tl tile).rate < s.rateFor tile ((s.th tile).progSum / (s.th tile).progN)) (hnone : (s.tl tile).rateHigh = none) :
    exec (.drainRateUpdate tile) s = .next (s.timedRate tile
      { s.tl tile with rateHigh := some (s.rateFor tile ((s.th tile).progSum / (s.th tile).progN), s.clock) }) := by
  have hkeep : ¬ (!(s.tl tile).rateMeasured || decide (s.rateFor tile ((s.th tile).progSum / (s.th tile).progN) ≤ (s.tl tile).rate)) = true := by
    simp [hmeasured, hhigher]
  show execDrainRateUpdate tile s = _
  unfold execDrainRateUpdate
  refine congrArg Host.Outcome.next ((if_pos ⟨ht, hdue⟩).trans ((if_neg hn).trans ?_))
  refine congrArg (s.timedRate tile) ((if_neg hkeep).trans ?_)
  rw [hnone]

/-- Settles O35, clause by clause from what each command does under its conditions. -/
theorem tidelineDrain : Obligations.TidelineDrain := by
  unfold Obligations.TidelineDrain
  refine ⟨?takes, ?passes, ?full, ?take, ?verified, ?redirty, ?clean, ?taken, ?noted, ?untimed, ?budget⟩
  case takes =>
    rintro s tile p l ⟨hruns, haway, hroom, hput⟩ hwalk ⟨hheld, hfirst, hconv⟩
    exact exec_drainPage_takes hruns haway hroom hput hwalk hheld hfirst hconv
  case passes =>
    rintro s t p ⟨hheld, hq, hm⟩ hfirst
    exact State.passOver_heldBack hheld hq hm hfirst
  case full =>
    intro s tile h
    exact exec_drainPage_full h
  case take =>
    intro s t page _
    rfl
  case verified =>
    intro s tile page f hf hrec
    exact exec_recordVerified_programmed hf hrec
  case redirty =>
    rintro s t page f ⟨hf, hre⟩
    rw [State.recordDone_redirty hf hre]
    simp [State.outOfFlight]
  case clean =>
    rintro s t page f ⟨hf, hre⟩
    exact State.recordDone_clean hf hre
  case taken =>
    rintro s tile ⟨ht, hdue, hn⟩ hrate
    exact exec_drainRateUpdate_taken ht hdue hn hrate
  case noted =>
    rintro s tile ⟨ht, hdue, hn⟩ ⟨hmeasured, hhigher, hnone⟩
    exact exec_drainRateUpdate_noted ht hdue hn hmeasured hhigher hnone
  case untimed =>
    rintro s tile ⟨ht, hdue, hn⟩
    exact exec_drainRateUpdate_untimed ht hdue hn
  case budget =>
    intro s tile ht
    exact congrArg Host.Outcome.next (if_pos ht)

end Sys2Proof.Machine
end

section
/-! The inputs of the supervisor (08 R235, R245, R246; 15 R450, R457 to R460): what a new accepted level of each input causes, and each command
under its conditions. -/

namespace Sys2Proof.Machine

/-- Without a save under way no count of its timeout stands or runs. -/
theorem State.noteInput_of_run_none {s : State} (h : s.save.run = none) : s.noteInput = s := by
  unfold State.noteInput
  rw [h]

theorem State.due_of_le {s : State} {t0 d : Nat} (h : t0 + d ≤ s.clock) : s.due t0 d = true := decide_eq_true h

/-! ### PFW_L -/

/-- The state that has accepted PFW_L at a level (15 R450). -/
def State.pfwAt (s : State) (asserted : Bool) : State := { s with pwr := { s.pwr with pfw := asserted } }

/-- PFW_L in a serving mode, neither armed nor in a save: the device is armed, and the 200 µs begin (08 R245, R246). -/
theorem State.acceptPfw_arms {s : State} (hpfw : s.pwr.pfw = false) (hserving : s.mode.mode.serving = true) (hrun : s.save.run = none)
    (harmed : s.save.armed = none) :
    s.acceptPfw true = { (s.pfwAt true).arm with save := { (s.pfwAt true).arm.save with pfwSince := some (s.pfwAt true).arm.clock, pfwOff := none } } := by
  have hbrup : s.mode.mode ≠ .brup := fun h => by simp [h, Mode.serving] at hserving
  simp [State.acceptPfw, State.noteInput_of_run_none, State.pfwAt, hpfw, hserving, hrun, harmed, hbrup]

/-- PFW_L in BRUP shuts the device down (15 Table 15-5). -/
theorem State.acceptPfw_brup {s : State} (hpfw : s.pwr.pfw = false) (hbrup : s.mode.mode = .brup) (hshut : s.pwr.state ≠ .shutting)
    (hfault : s.pwr.state ≠ .faulted) (hrun : s.save.run = none) : s.acceptPfw true = (s.pfwAt true).shutdown 0x10 := by
  simp [State.acceptPfw, State.noteInput_of_run_none, State.pfwAt, hpfw, hrun, hbrup, hshut, hfault]

/-- PFW_L held for 200 µs (08 R246). -/
theorem exec_pfwHoldExpiry_due {s : State} {t : Nat} (hsince : s.save.pfwSince = some t) (hpfw : s.pwr.pfw = true) (hdue : t + 200 * us ≤ s.clock) :
    exec .pfwHoldExpiry s = .next (s.commitSave 1 false false) := by
  show execPfwHoldExpiry s = _
  unfold execPfwHoldExpiry
  simp only [hsince]
  exact congrArg Host.Outcome.next (if_pos (by rw [hpfw, State.due_of_le hdue]; rfl))

/-- `tide.armed_max` of arming (08 R246). -/
theorem exec_armedMaxExpiry_due {s : State} {t : Nat} (harmed : s.save.armed = some t) (hdue : t + s.devP bTide 1 * ms ≤ s.clock) :
    exec .armedMaxExpiry s = .next (s.commitSave 7 false false) := by
  show execArmedMaxExpiry s = _
  unfold execArmedMaxExpiry
  simp only [harmed]
  exact congrArg Host.Outcome.next (if_pos (State.due_of_le hdue))

/-- 5 ms without PFW_L (08 R246). -/
theorem exec_saveArmedLapse_due {s : State} {a t : Nat} (harmed : s.save.armed = some a) (hoff : s.save.pfwOff = some t) (hpfw : s.pwr.pfw = false)
    (hdue : t + 5 * ms ≤ s.clock) :
    exec .saveArmedLapse s = .next
      (({ s with save := { s.save with armed := none, pfwSince := none, pfwOff := none } }).log 0 3 bTide 1023 0x06 0 ((s.clock - a) / us)) := by
  show execSaveArmedLapse s = _
  unfold execSaveArmedLapse
  simp only [harmed, hoff]
  exact congrArg Host.Outcome.next (if_pos (by rw [hpfw, State.due_of_le hdue]; rfl))

/-! ### FAULT_L -/

/-- The state that has accepted FAULT_L low (15 R450). -/
def State.faultLow (s : State) : State := { s with pwr := { s.pwr with faultIn := true } }

/-- FAULT_L of another device in a running device commits a save (15 R458). -/
theorem State.acceptFault_commits {s : State} (hin : s.pwr.faultIn = false) (hout : s.pwr.faultOut = false) (hbrup : s.mode.mode ≠ .brup)
    (hseq : s.pwr.state ≠ .sequencing) : s.acceptFault true = s.faultLow.commitSave 3 false false := by
  simp [State.acceptFault, State.faultLow, hin, hout, hbrup, hseq]

/-- FAULT_L of another device in a sequence past its first step ends the sequence (15 R456). -/
theorem State.acceptFault_sequencing {s : State} (hin : s.pwr.faultIn = false) (hout : s.pwr.faultOut = false) (hseq : s.pwr.state = .sequencing)
    (hstep : 0 < s.pwr.step) : s.acceptFault true = s.faultLow.seqFault 4 0 := by
  simp [State.acceptFault, State.faultLow, hin, hout, hseq, hstep.ne']

/-! ### Power goods -/

/-- The state that has accepted power good `i` low (15 R450). -/
def State.pgLow (s : State) (i : Nat) : State := { s with pwr := { s.pwr with pg := clearBits s.pwr.pg [i] } }

/-- The rail of channel `i` has dropped, noted as the running-rail fault of kind 3 (15 R459). -/
def State.railLow (s : State) (i : Nat) : State := { s with pwr := { s.pwr with pg := clearBits s.pwr.pg [i], faultKind := 3, faultCh := i } }

/-- What the fall of power good `i` causes in the state that has accepted it (15 R454, R457). -/
def State.pgFell (s : State) (i : Nat) : State :=
  if s.pwr.state = .sequencing then (if s.chanClass i = 1 then s.shutdown 0x10 else s.seqPg i false)
  else if s.watched i then s.railDrop i else s

/-- With a power good of a class other than 0x3 no DIMM supply falls. -/
theorem State.acceptPg_low {s : State} {i : Nat} (hpg : s.pwr.pg.getLsbD i = true) (hclass : s.chanClass i ≠ 3) :
    s.acceptPg i false = (s.pgLow i).noteInput.pgFell i := by
  have hfalls : ¬ s.pwr.pg.getLsbD i = false := by simp [hpg]
  have hlow : (s.pgLow i).chanClass i ≠ 3 := hclass
  have hsupply : ¬ (!false && decide ((s.pgLow i).chanClass i = 3)) = true := by simp [hlow]
  exact (if_neg hfalls).trans (congrArg (fun u : State => u.noteInput.pgFell i) (if_neg hsupply))

/-- A watched power good that falls in a running device drops its rail (15 R457). -/
theorem State.acceptPg_watched {s : State} {i : Nat} (hpg : s.pwr.pg.getLsbD i = true) (hclass : s.chanClass i ≠ 3) (hrun : s.save.run = none)
    (hstate : s.pwr.state = .running) (hwatched : (s.pgLow i).watched i = true) : s.acceptPg i false = (s.pgLow i).railDrop i := by
  have hnote : (s.pgLow i).noteInput = s.pgLow i := State.noteInput_of_run_none hrun
  have hseq : ¬ (s.pgLow i).pwr.state = .sequencing := by simp [State.pgLow, hstate]
  rw [State.acceptPg_low hpg hclass, hnote, State.pgFell, if_neg hseq, if_pos hwatched]

/-- In a running device the channels of class 0x1 are watched (15 R457). -/
theorem State.watched_input {s : State} {i : Nat} (hclass : s.chanClass i = 1) (hstate : s.pwr.state = .running) : s.watched i = true := by
  simp [State.watched, hclass, hstate]

/-- In a running device the enabled channels of the classes that it switches are watched (15 R457). -/
theorem State.watched_enabled {s : State} {i : Nat} (hlow : 2 ≤ s.chanClass i) (hhigh : s.chanClass i ≤ 5) (hstate : s.pwr.state = .running)
    (hen : s.pwr.en.getLsbD i = true) : s.watched i = true := by
  simp [State.watched, State.switched, hlow, hhigh, hstate, hen]

/-- The effect of a dropped rail of a class that the device switches, by class, in a mode other than BRUP (15 R459, R460). -/
theorem State.railDrop_pgLow {s : State} {i : Nat} (hclass : s.chanClass i ≠ 1) (hbrup : s.mode.mode ≠ .brup) :
    (s.pgLow i).railDrop i = if s.chanClass i = 2 then ((s.railLow i).railWarn i).assertFault.allOff
      else if s.chanClass i = 5 then ((s.railLow i).railWarn i).assertFault.railSave
      else (((s.railLow i).railFence i).railWarn i).assertFault.railSave :=
  (if_neg hclass).trans (if_neg hbrup)

/-- An enabled rail of class 0x2, 0x4 or 0x5 drops while the device runs. -/
theorem State.acceptPg_rail {s : State} {i : Nat} (hpg : s.pwr.pg.getLsbD i = true) (hclass : s.chanClass i = 2 ∨ s.chanClass i = 4 ∨ s.chanClass i = 5)
    (hrun : s.save.run = none) (hstate : s.pwr.state = .running) (hen : s.pwr.en.getLsbD i = true) (hbrup : s.mode.mode ≠ .brup) :
    s.acceptPg i false = if s.chanClass i = 2 then ((s.railLow i).railWarn i).assertFault.allOff
      else if s.chanClass i = 5 then ((s.railLow i).railWarn i).assertFault.railSave
      else (((s.railLow i).railFence i).railWarn i).assertFault.railSave := by
  have hlow : 2 ≤ (s.pgLow i).chanClass i := show 2 ≤ s.chanClass i by omega
  have hhigh : (s.pgLow i).chanClass i ≤ 5 := show s.chanClass i ≤ 5 by omega
  rw [State.acceptPg_watched hpg (by omega) hrun hstate (State.watched_enabled hlow hhigh hstate hen), State.railDrop_pgLow (by omega) hbrup]

/-- The input power good of class 0x1 drops while the device runs (15 R458). -/
theorem State.acceptPg_input {s : State} {i : Nat} (hpg : s.pwr.pg.getLsbD i = true) (hclass : s.chanClass i = 1) (hrun : s.save.run = none)
    (hstate : s.pwr.state = .running) (hbrup : s.mode.mode ≠ .brup) : s.acceptPg i false = (s.pgLow i).commitSave 2 false false := by
  rw [State.acceptPg_watched hpg (by omega) hrun hstate (State.watched_input hclass hstate)]
  exact (if_pos hclass).trans (if_neg hbrup)

/-! ### BBU_OK -/

/-- The fall of BBU_OK is logged outside STBY and SAVE (15 Table 15-5). -/
theorem State.acceptBbu_low {s : State} (hok : s.pwr.bbuOk = true) (hstby : s.mode.mode ≠ .stby) (hsave : s.mode.mode ≠ .save) :
    s.acceptBbu false = ({ s with pwr := { s.pwr with bbuOk := false } } : State).log 0 3 bPwr 1023 0x06 0 0 := by
  simp [State.acceptBbu, hok, hstby, hsave]

/-- Settles O15, clause by clause from what each accepted level causes under its conditions. -/
theorem supervisorEvents : Obligations.SupervisorEvents := by
  unfold Obligations.SupervisorEvents
  refine ⟨?arms, ?brup, ?fault, ?hold, ?armedMax, ?lapse, ?input, ?device, ?appliance, ?memory, ?faultSeq, ?bbu, ?commit⟩
  case arms =>
    rintro s hpfw hserving ⟨hrun, harmed⟩
    exact congrArg Host.Outcome.next (State.acceptPfw_arms hpfw hserving hrun harmed)
  case brup =>
    rintro s hpfw ⟨hbrup, hshut, hfault⟩ hrun
    exact congrArg Host.Outcome.next (State.acceptPfw_brup hpfw hbrup hshut hfault hrun)
  case fault =>
    rintro s ⟨hin, hout⟩ ⟨hbrup, hseq⟩
    exact congrArg Host.Outcome.next (State.acceptFault_commits hin hout hbrup hseq)
  case hold =>
    intro s t hsince hpfw hdue
    exact exec_pfwHoldExpiry_due hsince hpfw hdue
  case armedMax =>
    intro s t harmed hdue
    exact exec_armedMaxExpiry_due harmed hdue
  case lapse =>
    intro s a t harmed hoff hpfw hdue
    exact exec_saveArmedLapse_due harmed hoff hpfw hdue
  case input =>
    rintro s i ⟨hi, hclass, hpg⟩ ⟨hrun, hstate⟩ hbrup
    exact congrArg Host.Outcome.next ((if_pos ⟨hi, hclass⟩).trans (State.acceptPg_input hpg hclass hrun hstate hbrup))
  case device =>
    rintro s i ⟨hi, hclass, hpg⟩ ⟨hrun, hstate, hen⟩ hbrup
    have hdrop := State.acceptPg_rail hpg (.inl hclass) hrun hstate hen hbrup
    rw [if_pos hclass] at hdrop
    exact congrArg Host.Outcome.next ((if_pos ⟨hi, hclass⟩).trans hdrop)
  case appliance =>
    rintro s i ⟨hi, hclass, hpg⟩ ⟨hrun, hstate, hen⟩ hbrup
    have hdrop := State.acceptPg_rail hpg (.inr (.inr hclass)) hrun hstate hen hbrup
    rw [if_neg (by omega), if_pos hclass] at hdrop
    exact congrArg Host.Outcome.next ((if_pos ⟨hi, hclass⟩).trans hdrop)
  case memory =>
    rintro s i ⟨hi, hclass, hpg⟩ ⟨hrun, hstate, hen⟩ hbrup
    have hdrop := State.acceptPg_rail hpg (.inr (.inl hclass)) hrun hstate hen hbrup
    rw [if_neg (by omega), if_neg (by omega)] at hdrop
    exact congrArg Host.Outcome.next ((if_pos ⟨hi, .inr hclass⟩).trans hdrop)
  case faultSeq =>
    rintro s ⟨hin, hout⟩ ⟨hseq, hstep⟩
    exact congrArg Host.Outcome.next (State.acceptFault_sequencing hin hout hseq hstep)
  case bbu =>
    rintro s hok ⟨hstby, hsave⟩
    exact congrArg Host.Outcome.next (State.acceptBbu_low hok hstby hsave)
  case commit =>
    intro s cause hdue hcause
    exact congrArg Host.Outcome.next ((if_pos hdue).trans (if_neg hcause))

end Sys2Proof.Machine
end

section
/-! ZLN, FLN, PBAR, MOVP, POIS and CLRP, and the move of a flash-only page home (13 R399 to R402, R417; 08 R234; 09 R286): each instruction
under its conditions, once it is ready. -/

namespace Sys2Proof.Machine

open Sys2Proof.Safety

section Ready

variable {s : State} {n : Nat} {i : Issue} {c : Ctx} {e : Ext} {t lo hi : Nat}

/-! ### Stores -/

/-- A context that begins a ZLN is in it. -/
theorem State.zlnRuns_startLong (s : State) (n : Nat) (i : Issue) (sess off got left total : Nat) :
    (s.startLong n i (.zln sess off got left total)).zlnRuns n = true := by
  simp [State.zlnRuns, State.startLong]

theorem exec_zln_line (hready : Ready s n 0x30 i c) (hrange : (s.consume n i c).rangeAB n i 64 0x20_0000 = some (e, t, lo, lo + 64)) :
    let v := (s.consume n i c).startLong n i (.zln (iSess i.word) (lo + 64) 0 0 1)
    exec (.zln n) s = .next (v.serveReq (v.ctxReq n i e t lo 0 false true) none) := by
  have hlines : (lo + 64 - lo) / 64 = 1 := by omega
  refine congrArg Host.Outcome.next ((State.issue_ready hready).trans ?_)
  simp only [hrange, hlines]
  exact if_pos (State.zlnRuns_startLong ..)

theorem exec_zln_empty (hready : Ready s n 0x30 i c) (hrange : (s.consume n i c).rangeAB n i 64 0x20_0000 = some (e, t, lo, lo)) :
    exec (.zln n) s = .next ((s.consume n i c).done n i 0) := by
  have hlines : (lo - lo) / 64 = 0 := by omega
  refine congrArg Host.Outcome.next ((State.issue_ready hready).trans ?_)
  simp only [hrange, hlines, if_true]

theorem exec_zln_outside (hready : Ready s n 0x30 i c) (hrange : (s.consume n i c).rangeAB n i 64 0x20_0000 = none) :
    exec (.zln n) s = .next ((s.consume n i c).fail n i .range) := by
  refine congrArg Host.Outcome.next ((State.issue_ready hready).trans ?_)
  simp only [hrange]

/-- POIS and CLRP store the one line that they name. -/
theorem State.storeLine_inside (l : Line) (poison : Bool)
    (hrange : s.rangeOf i ((s.ctx n).opA i.word).toNat 64 64 64 = some (e, t, lo, hi)) :
    s.storeLine n i l poison = (s.startLong n i .store1).serveReq (s.ctxReq n i e t lo l poison false) none := by
  unfold State.storeLine
  rw [hrange]

/-! ### Cleaning and barriers -/

theorem exec_fln (hready : Ready s n 0x31 i c) (hrange : (s.consume n i c).rangeAB n i 64 0x400_0000 = some (e, t, lo, hi)) :
    let u := s.consume n i c
    let ks := u.evOff t lo hi
    let k := ks.countP (fun k => (u.evLine k).dirty) + (u.pt t).merge.countP (fun m => decide (lo ≤ m.off ∧ m.off < hi))
    let v := (ks.foldl State.cleanWay u).mergeRange t lo hi
    exec (.fln n) s = .next (((if iXf i.word then ks.foldl State.dropWay v else v).done n i (BitVec.ofNat 64 k)).kick t [.writeOut, .merge]) := by
  refine congrArg Host.Outcome.next ((State.issue_ready hready).trans ?_)
  simp only [hrange]

theorem exec_pbar_start (hready : Ready s n 0x32 i c) (hlong : (s.ctx n).long = none)
    (hrange : (s.consume n i c).rangeAB n i 64 (2 ^ 46) = some (e, t, lo, hi)) (hxf : iXf i.word = false) :
    let u := s.consume n i c
    exec (.pbar n) s = .next ((u.startLong n i (.pbar t lo hi false (u.localCount t))).pbarStep n t lo hi false (u.localCount t)) := by
  show execPbar n s = _
  unfold execPbar
  rw [hlong]
  refine congrArg Host.Outcome.next ((State.issue_ready hready).trans ?_)
  simp only [hrange, hxf, Bool.false_eq_true, if_false]

/-- A PBAR under way looks at its conditions again. -/
theorem exec_pbar_again {flash : Bool} {stamp : Nat} (hlong : (s.ctx n).long = some (i, .pbar t lo hi flash stamp)) :
    exec (.pbar n) s = .next (s.pbarStep n t lo hi flash stamp) := by
  show execPbar n s = _
  unfold execPbar
  rw [hlong]

/-- With no merge entry of the range that PBAR names, none is written out. -/
theorem State.flushMerge_of_none {stamp : Nat}
    (h : (s.pt t).merge.all (fun m => decide (¬ (lo ≤ m.off ∧ m.off < hi ∧ m.stamp ≤ stamp))) = true) : s.flushMerge t lo hi stamp = s := by
  have hnone : (s.pt t).merge.filter (fun m => decide (lo ≤ m.off ∧ m.off < hi ∧ m.stamp ≤ stamp)) = [] := by
    simpa only [List.filter_eq_nil_iff, List.all_eq_true, decide_eq_true_eq] using h
  unfold State.flushMerge
  rw [hnone]
  rfl

/-- Nothing pending: PBAR completes with the Tidemark of its tile (08 R234). -/
theorem State.pbarStep_completes {stamp : Nat} (hpending : s.ctxPending n t lo hi = false)
    (hmerge : (s.pt t).merge.all (fun m => decide (¬ (lo ≤ m.off ∧ m.off < hi ∧ m.stamp ≤ stamp))) = true) :
    s.pbarStep n t lo hi false stamp = s.finishR n .ok (BitVec.ofNat 64 (s.localCount (s.ctx n).tile)) := by
  have hnone : (s.pt t).merge.any (fun m => decide (lo ≤ m.off ∧ m.off < hi ∧ m.stamp ≤ stamp)) = false := by
    rw [List.any_eq_not_all_not]
    simpa using hmerge
  unfold State.pbarStep
  rw [State.flushMerge_of_none hmerge]
  simp only [hpending, hnone, Bool.false_and, Bool.or_self, Bool.false_eq_true, if_false]

/-- A store of the context to the range is pending: PBAR waits (08 R234). -/
theorem State.pbarStep_waits {stamp : Nat} (hpending : (s.flushMerge t lo hi stamp).ctxPending n t lo hi = true) :
    s.pbarStep n t lo hi false stamp = s.flushMerge t lo hi stamp := by
  simp [State.pbarStep, hpending]

/-! ### Moves -/

/-- Every page of the range is in its new home, or has none: MOVP begins with nothing to move (13 R402). -/
theorem exec_movp_home (hready : Ready s n 0x33 i c) (hlong : (s.ctx n).long = none)
    (hrange : (s.consume n i c).rangeAB n i 4096 0x4000_0000 = some (e, t, lo, hi)) (htiered : e.tiered = true) (hdest : fld i.word 21 20 ≠ 0)
    (hleft : (s.consume n i c).movpLeft t (lo / 4096) (hi / 4096) (fld i.word 21 20) = []) :
    let u := s.consume n i c
    let d := fld i.word 21 20
    exec (.movp n) s = .next (((u.startLong n i (.movp (iSess i.word) t (lo / 4096) (hi / 4096) d 0)).pendRec n i).movpStep n t (lo / 4096) (hi / 4096) d 0) := by
  have hgo : ¬ (fld i.word 21 20 = 0 ∨ (!e.tiered) = true) := by simp [hdest, htiered]
  show execMovp n s = _
  unfold execMovp
  rw [hlong]
  refine congrArg Host.Outcome.next ((State.issue_ready hready).trans ?_)
  simp only [hrange, if_neg hgo, hleft, List.length_nil, Nat.lt_irrefl, false_and, if_false]

/-- The frames of the session's reservation do not hold the pages to move (13 R402). -/
theorem exec_movp_quota (hready : Ready s n 0x33 i c) (hlong : (s.ctx n).long = none)
    (hrange : (s.consume n i c).rangeAB n i 4096 0x4000_0000 = some (e, t, lo, hi)) (htiered : e.tiered = true) (hdest : fld i.word 21 20 = 1)
    (hleft : (s.consume n i c).movpLeft t (lo / 4096) (hi / 4096) 1 ≠ [])
    (hquota : ((s.consume n i c).resvOf (iSess i.word) t).frames <
      (s.consume n i c).homed t (iSess i.word) 1 + ((s.consume n i c).movpLeft t (lo / 4096) (hi / 4096) 1).length) :
    exec (.movp n) s = .next ((s.consume n i c).fail n i .resv) := by
  have hgo : ¬ ((1 : Nat) = 0 ∨ (!e.tiered) = true) := by simp [htiered]
  show execMovp n s = _
  unfold execMovp
  rw [hlong]
  refine congrArg Host.Outcome.next ((State.issue_ready hready).trans ?_)
  simp only [hrange, hdest, if_neg hgo, if_true]
  exact if_pos ⟨List.length_pos_iff.mpr hleft, .inl hquota⟩

/-- A flash-only page with a move to a local frame moves (09 R286). -/
theorem exec_flashOnlyHome_moves {tile lpage : Nat} {m : Move}
    (hmove : (s.tt tile).moves.find? (fun m => decide (m.lpage = lpage ∧ m.dest = 1)) = some m) (hhome : s.homeKind tile lpage = 3) :
    exec (.flashOnlyHome tile lpage) s = .next (s.doMove tile m) := by
  show execFlashOnlyHome tile lpage s = _
  unfold execFlashOnlyHome
  rw [hmove]
  exact congrArg Host.Outcome.next (if_pos hhome)

end Ready

/-- Settles O30, clause by clause from what each instruction does under its conditions. -/
theorem lineInstructions : Obligations.LineInstructions := by
  unfold Obligations.LineInstructions
  refine ⟨?line, ?empty, ?outside, ?pois, ?clrp, ?fln, ?start, ?completes, ?waits, ?home, ?quota, ?flashOnly⟩
  case line =>
    intro s n i c e t lo hready hrange
    exact exec_zln_line hready hrange
  case empty =>
    intro s n i c e t lo hready hrange
    exact exec_zln_empty hready hrange
  case outside =>
    intro s n i c hready hrange
    exact exec_zln_outside hready hrange
  case pois =>
    intro s n i c e t lo hi hready hrange
    exact congrArg Host.Outcome.next ((State.issue_ready hready).trans (State.storeLine_inside 0 true hrange))
  case clrp =>
    intro s n i c e t lo hi hready hrange
    exact congrArg Host.Outcome.next ((State.issue_ready hready).trans (State.storeLine_inside _ false hrange))
  case fln =>
    intro s n i c e t lo hi hready hrange
    exact exec_fln hready hrange
  case start =>
    rintro s n i c e t lo hi ⟨hready, hlong⟩ ⟨hrange, hxf⟩
    exact exec_pbar_start hready hlong hrange hxf
  case completes =>
    rintro s n t lo hi stamp i ⟨hlong, hpending⟩ hmerge
    rw [exec_pbar_again hlong, State.pbarStep_completes hpending hmerge]
  case waits =>
    rintro s n t lo hi stamp i ⟨hlong, hpending⟩
    rw [exec_pbar_again hlong, State.pbarStep_waits hpending]
    rfl
  case home =>
    rintro s n i c e t lo hi ⟨hready, hlong⟩ ⟨hrange, htiered, hdest⟩ hleft
    exact exec_movp_home hready hlong hrange htiered hdest hleft
  case quota =>
    rintro s n i c e t lo hi ⟨hready, hlong⟩ ⟨hrange, htiered, hdest⟩ hleft hquota
    exact exec_movp_quota hready hlong hrange htiered hdest hleft hquota
  case flashOnly =>
    intro s tile lpage m hmove hhome
    exact exec_flashOnlyHome_moves hmove hhome

end Sys2Proof.Machine
end

section
/-! Rows and blocks of the flash store (09 R264 to R289; 10 R314): what each command does with log rows, closed blocks, reads that fail, erases, the
rebuild backlog and the checkpoint, under its conditions. -/

namespace Sys2Proof.Machine

/-! ### Rows of log blocks -/

/-- A block whose members all work has none that is lost to a fence (09 R271). -/
theorem State.countP_lost_eq_zero {s : State} {t b : Nat} (h : (List.range 16).all (fun m => s.memberOk t (b / 8192) m) = true) :
    (List.range 16).countP (fun m => (s.blk t b).members.testBit m && !s.memberOk t (b / 8192) m) = 0 := by
  refine List.countP_eq_zero.mpr fun m hm => ?_
  simp [List.all_eq_true.mp h m hm]

/-- Of an unreadable page whose group has two members fenced nothing is rebuilt (09 R271). -/
theorem exec_parityRebuild_lost {s : State} {tile blk : Nat} (slot : Nat)
    (hlost : 2 ≤ (List.range 16).countP (fun m => (s.blk tile blk).members.testBit m && !s.memberOk tile (blk / 8192) m)) :
    exec (.parityRebuild tile blk slot) s = .next s := by
  show execParityRebuild tile blk slot s = _
  unfold execParityRebuild
  refine congrArg Host.Outcome.next ?_
  dsimp only
  split
  case h_1 => rfl
  case h_2 =>
    refine if_pos ?_
    simp only [Bool.or_eq_true, decide_eq_true_eq]
    exact .inl (.inl (.inr (Nat.le_add_right_of_le hlost)))

/-- A page of a whole log block that still has its parity is rebuilt: the records of it that are current are written to a new row (09 R271). -/
theorem exec_parityRebuild_whole {s : State} {tile blk slot : Nat} {r : TRec}
    (hfind : (s.th tile).recs.find? (fun r => decide (r.blk = blk ∧ r.slot / 4 = slot / 4)) = some r)
    (hruns : s.thatchRuns tile = true) (hparity : (s.blk tile blk).parity = true) (huse : (s.blk tile blk).use = .log)
    (hput : s.canPut tile true = true) (hall : (List.range 16).all (fun m => s.memberOk tile (blk / 8192) m) = true) :
    let rs := ((s.th tile).recs.filter (fun r => decide (r.blk = blk ∧ r.slot / 4 = slot / 4))).filter (fun r => decide (s.image tile r.ht r.lpage = some r))
    let v := s.setBlk tile blk { s.blk tile blk with marked := true }
    exec (.parityRebuild tile blk slot) s = .next ((rs.foldl (fun (v : State) r => v.putRec tile { r with kind := 3, key := v.imageKey tile, copyTm := v.localCount tile } true) v).log tile 4 bThatch tile 0x04 0x05 blk) := by
  show execParityRebuild tile blk slot s = _
  unfold execParityRebuild
  simp only [hfind]
  refine congrArg Host.Outcome.next (if_neg ?_)
  simp only [hruns, hparity, huse, hput, State.countP_lost_eq_zero hall]
  split <;> simp

/-- A row of the drain that is programmed: its time counts for the rate, and a page program for each member that works (08 R228; 09 R267). -/
theorem exec_thatchRowProgrammed_drain {s : State} {tile blk : Nat} {w : Row} (took : Nat) (hrow : s.fullRow tile blk = some w)
    (hdrain : w.recs.any (fun r => decide (r.kind = 3)) = false) :
    let v := s.setTh tile { s.th tile with progSum := (s.th tile).progSum + took, progN := (s.th tile).progN + 1 }
    let v := (List.range 16).foldl (fun (v : State) m => if v.memberOk tile (blk / 8192) m then v.tally tile (10 + m / 2) 0x0001 {} else v) v
    exec (.thatchRowProgrammed tile blk took) s = .next (((((v.programRow tile w).dropSources tile w.recs).releaseIdle tile).endFret tile).recompute tile) := by
  show execThatchRowProgrammed tile blk took s = _
  unfold execThatchRowProgrammed
  simp only [hrow, hdrain, Bool.false_eq_true, if_false]

/-- A row that is not full is padded when its oldest record has waited `thatch.row_age` (09 R267). -/
theorem exec_rowAgeExpiry_aged {s : State} {tile blk : Nat} {w : Row}
    (hrow : (s.th tile).rowsOpen.find? (fun w => decide (w.blk = blk) && !w.full) = some w)
    (hdue : s.due w.since (s.tileP bThatch tile 1 * ms) = true) : exec (.rowAgeExpiry tile blk) s = .next (s.padRow tile w) := by
  show execRowAgeExpiry tile blk s = _
  unfold execRowAgeExpiry
  simp only [hrow]
  exact congrArg Host.Outcome.next (if_pos (.inl hdue))

/-- A block that has its parity and is not verified awaits its read-back while Thatch runs (09 R270). -/
theorem State.awaits_verify {s : State} {tile blk : Nat} (hruns : s.thatchRuns tile = true) (hparity : (s.blk tile blk).parity = true)
    (hverified : (s.blk tile blk).verified = false) :
    ¬ (!s.thatchRuns tile || !(s.blk tile blk).parity || (s.blk tile blk).verified) = true := by
  simp [hruns, hparity, hverified]

/-! ### Reads -/

/-- A record of a whole block that still has its parity is not lost: it can be rebuilt (09 R271, R278). -/
theorem exec_unreadableRecord_whole {s : State} {tile blk : Nat} (slot : Nat) (merge : Bool)
    (hparity : (s.blk tile blk).parity = true) (hall : (List.range 16).all (fun m => s.memberOk tile (blk / 8192) m) = true) :
    exec (.unreadableRecord tile blk slot merge) s = .next s := by
  show execUnreadableRecord tile blk slot merge s = _
  unfold execUnreadableRecord
  refine congrArg Host.Outcome.next ?_
  dsimp only
  split
  · rfl
  · next r hr =>
    have hhit := List.find?_some hr
    simp only [decide_eq_true_eq] at hhit
    obtain ⟨hblk, -⟩ := hhit
    have hmarks : execUnreadableRecord.recMarks s tile r = true := by
      refine List.all_eq_true.mpr fun m hm => ?_
      simp [hblk, List.all_eq_true.mp hall m hm]
    exact if_pos (by simp [hparity, hmarks])

/-- A record of a block without parity is lost: it becomes one of KIND 6, and its target is fenced at the limit of losses in an hour
(09 R278). -/
theorem exec_unreadableRecord_lost {s : State} {tile blk slot : Nat} {r : TRec}
    (hfind : (s.th tile).recs.find? (fun r => decide (r.blk = blk ∧ r.slot = slot ∧ r.kind ≠ 6)) = some r)
    (hparity : (s.blk tile blk).parity = false) :
    let x := s.th tile
    let g := 8 * (s.recMember tile r / 2) + x.memberTarget (blk / 8192) (s.recMember tile r)
    let l := s.clock :: (Store.read x.ueAt g []).filter (fun t0 => decide (s.clock < t0 + 3600 * sec))
    let v := s.setTh tile { x with recs := x.recs.map (fun q => if q = r then { r with kind := 6, lines := [] } else q), ueAt := Store.write x.ueAt g l [] }
    let w := v.log tile 5 bThatch tile 0x05 0x02 (blk * 2 ^ 24 + slot)
    let lim := w.tileP bThatch tile 0x0A
    exec (.unreadableRecord tile blk slot false) s = .next (if 0 < lim ∧ lim ≤ l.length then w.raiseFence 0x4 g tile 0x34 0 else w) := by
  intro x g l v w lim
  show execUnreadableRecord tile blk slot false s = _
  unfold execUnreadableRecord
  simp only [hfind]
  refine congrArg Host.Outcome.next ((if_neg (by simp [hparity])).trans ((if_neg (by simp)).trans ?_))
  rfl

/-! ### The rebuild backlog and the checkpoint -/

/-- A page is no longer in the backlog of its tile. -/
def State.placed (s : State) (tile e : Nat) : State :=
  s.setTh tile { s.th tile with backlog := (s.th tile).backlog.filter (fun q => decide (q ≠ e)) }

/-- The next page of the backlog (09 R288), in the local DRAM at `p`: it is placed when it is dirty, or when it can be marked. -/
theorem exec_backlogWalk_home {s : State} {tile e p : Nat} (hruns : s.thatchRuns tile = true)
    (hnext : leastBy id ((s.th tile).backlog.filter (fun e => !(s.mt tile).lrqs.any (fun q => decide (q.why = .flashPage e)))) = some e)
    (hhome : s.dramHome tile (decide (2 ^ 31 ≤ e)) (e % 2 ^ 31) = some p) :
    exec (.backlogWalk tile) s = .next (if (s.tl tile).dirty.contains p then s.placed tile e
      else if s.hasRoom tile then (s.placed tile e).markPage tile p else s) := by
  show execBacklogWalk tile s = _
  unfold execBacklogWalk
  refine congrArg Host.Outcome.next ((if_neg (by simp [hruns])).trans ?_)
  simp only [hnext, hhome]
  rfl

/-- A confirmed checkpoint goes to the system area (10 R314). -/
theorem State.persistCkpt_some {s : State} {tile : Nat} {c : Ckpt} (hckpt : (s.mt tile).ckpt = some c) :
    s.persistCkpt tile = s.setTh tile { s.th tile with ckptTm := c.tm, ckptSeq := c.seq } := by
  unfold State.persistCkpt
  rw [hckpt]

/-- Settles O36, clause by clause from what each command does under its conditions. -/
theorem thatchRowsAndBlocks : Obligations.ThatchRowsAndBlocks := by
  unfold Obligations.ThatchRowsAndBlocks
  refine ⟨?programmed, ?programRow, ?aged, ?fails, ?retired, ?verified, ?lost, ?rebuilt, ?retry, ?scrub, ?rebuildable, ?unreadable, ?erase,
    ?suspend, ?saving, ?sealed, ?eraseFails, ?notReady, ?dirty, ?marked, ?checkpoint⟩
  case programmed =>
    rintro s tile blk took w ⟨hrow, hdrain⟩
    exact exec_thatchRowProgrammed_drain took hrow hdrain
  case programRow =>
    intro s t w
    simp [State.programRow]
  case aged =>
    intro s tile blk w hrow hdue
    exact exec_rowAgeExpiry_aged hrow hdue
  case fails =>
    intro s tile blk member h
    exact congrArg Host.Outcome.next (if_pos h)
  case retired =>
    intro s t b m h
    exact if_pos h
  case verified =>
    rintro s tile blk ⟨hruns, hparity, hverified, huse, hopen⟩ hidle
    refine congrArg Host.Outcome.next ((if_neg (State.awaits_verify hruns hparity hverified)).trans (if_pos ⟨huse, ?_, ?_⟩))
    · simp [hopen]
    · simpa using hidle
  case lost =>
    intro s tile blk slot hlost
    exact exec_parityRebuild_lost slot hlost
  case rebuilt =>
    rintro s tile blk slot r hfind ⟨hruns, hparity, huse, hput⟩ hall
    exact exec_parityRebuild_whole hfind hruns hparity huse hput hall
  case retry =>
    rintro s tile blk member retries sess ⟨huse, hm, hpos, hlim⟩
    refine congrArg Host.Outcome.next (if_neg ?_)
    simp [huse]
    omega
  case scrub =>
    rintro s tile blk retries ⟨hruns, huse, hopen, hdue⟩
    exact congrArg Host.Outcome.next (if_pos (by simp [hruns, huse, hopen, hdue]))
  case rebuildable =>
    rintro s tile blk slot merge ⟨hparity, hall⟩
    exact exec_unreadableRecord_whole slot merge hparity hall
  case unreadable =>
    intro s tile blk slot r hfind hparity
    exact exec_unreadableRecord_lost hfind hparity
  case erase =>
    intro s tile blk member h
    exact congrArg Host.Outcome.next (if_pos h)
  case suspend =>
    rintro s tile blk member ⟨herasing, hsuspended⟩
    exact congrArg Host.Outcome.next (if_pos ⟨herasing, hsuspended, by simp⟩)
  case saving =>
    intro s tile blk member hrun
    exact congrArg Host.Outcome.next (if_neg fun ⟨_, _, hfree⟩ => hfree ⟨rfl, hrun⟩)
  case sealed =>
    rintro s tile blk member ⟨herasing, hsuspended⟩
    exact congrArg Host.Outcome.next (if_pos ⟨herasing, by simp [hsuspended]⟩)
  case eraseFails =>
    rintro s tile blk member ⟨herasing, hsuspended⟩
    exact congrArg Host.Outcome.next (if_pos ⟨herasing, by simp [hsuspended]⟩)
  case notReady =>
    intro s tile target h
    exact congrArg Host.Outcome.next (if_pos (.inl h))
  case dirty =>
    rintro s tile e p ⟨hruns, hnext⟩ ⟨hhome, hdirty⟩
    rw [exec_backlogWalk_home hruns hnext hhome, if_pos hdirty]
    rfl
  case marked =>
    rintro s tile e p ⟨hruns, hnext⟩ ⟨hhome, hclean, hroom⟩
    rw [exec_backlogWalk_home hruns hnext hhome, hclean, if_neg Bool.false_ne_true, if_pos hroom]
    rfl
  case checkpoint =>
    rintro s tile c ⟨hckpt, hruns⟩
    exact congrArg Host.Outcome.next ((if_pos hruns).trans (State.persistCkpt_some hckpt))

end Sys2Proof.Machine
end

section
/-! Merges and relocation (09 R272 to R274, R285; 13 R415): what the release of log blocks leaves, and each command under its conditions. -/

namespace Sys2Proof.Machine

/-! ### The map of segments -/

/-- The contexts and the data block of every segment of a tile are as they were. -/
structure KeepsMap (t : Nat) (s u : State) : Prop where
  ctxs : u.ctxs = s.ctxs
  segData : (u.th t).segData = (s.th t).segData

theorem KeepsMap.refl (t : Nat) (s : State) : KeepsMap t s s := ⟨rfl, rfl⟩

theorem KeepsMap.trans {t : Nat} {s u v : State} (h : KeepsMap t s u) (k : KeepsMap t u v) : KeepsMap t s v :=
  ⟨k.ctxs.trans h.ctxs, k.segData.trans h.segData⟩

theorem KeepsMap.foldl {α : Type} {t : Nat} {f : State → α → State} (h : ∀ s a, KeepsMap t s (f s a)) (l : List α) (s : State) :
    KeepsMap t s (l.foldl f s) := by
  induction l generalizing s with
  | nil => exact .refl t s
  | cons a l ih => exact (h s a).trans (ih _)

theorem KeepsMap.setTh {t : Nat} (s : State) {x : ThTile} (h : x.segData = (s.th t).segData) : KeepsMap t s (s.setTh t x) :=
  ⟨rfl, by rw [State.th_setTh, h]⟩

theorem State.setBlk_keepsMap (s : State) (t b : Nat) (x : Blk) : KeepsMap t s (s.setBlk t b x) := .setTh s rfl

theorem State.setPhys_keepsMap (s : State) (t b m : Nat) (x : Phys) : KeepsMap t s (s.setPhys t b m x) := .setTh s rfl

theorem State.tally_keepsMap (s : State) (t k b e : Nat) (a : Attr) : KeepsMap t s (s.tally k b e a) :=
  ⟨State.tally_ctxs s k b e a, by simp only [State.th, State.tally_thatch]⟩

theorem State.recompute_keepsMap (s : State) (t : Nat) : KeepsMap t s (s.recompute t) := by
  constructor <;> simp [State.recompute, State.budgetTerms, State.th]

theorem State.releaseBlk_keepsMap (s : State) (t b : Nat) : KeepsMap t s (s.releaseBlk t b) := by
  unfold State.releaseBlk
  refine ((KeepsMap.setTh s ?_).trans (.foldl (fun s m => ?_) _ _)).trans (State.setBlk_keepsMap _ t b _)
  · rfl
  · split
    · exact .refl t s
    · exact State.setPhys_keepsMap s t b m _

theorem State.releaseIdle_keepsMap (s : State) (t : Nat) : KeepsMap t s (s.releaseIdle t) := by
  refine .foldl (fun s b => ?_) _ s
  split
  · exact .refl t s
  · exact State.releaseBlk_keepsMap s t b

/-- Without contexts no FRET waits. -/
theorem State.endFret_of_no_ctx {s : State} (h : s.ctxs = []) (t : Nat) : s.endFret t = s := by
  unfold State.endFret State.ctxNums
  rw [h]
  rfl

/-- A verified target becomes the data block of its segment, whether or not the segment had one (09 R272). -/
theorem exec_mapSwitch_verified {s : State} {tile seg : Nat} {m : SegMerge}
    (hfind : (s.th tile).merges.find? (fun m => decide (m.seg = seg) && m.parked.isNone) = some m) (hruns : s.thatchRuns tile = true)
    (hverified : (s.blk tile m.target).verified = true) (hctx : s.ctxNums = []) :
    Safety.Answers (exec (.mapSwitch tile seg) s) (fun v => Store.read (v.th tile).segData seg 0 = m.target + 1) := by
  show Safety.Answers (execMapSwitch tile seg s) _
  unfold execMapSwitch
  extract_lets x old
  rw [show x.merges.find? (fun m => decide (m.seg = seg) && m.parked.isNone) = some m from hfind]
  refine ⟨_, congrArg Host.Outcome.next (if_neg (by simp [hruns, hverified])), ?_⟩
  extract_lets copies held stay switched freed pm p closed idle y indexed
  have hfreed : KeepsMap tile switched freed := by
    clear_value old switched
    cases old with
    | none => exact .refl tile switched
    | some o => exact State.releaseBlk_keepsMap switched tile o
  have hclosed : KeepsMap tile freed closed := (State.setBlk_keepsMap freed tile _ _).trans (State.setPhys_keepsMap _ tile _ _ _)
  have hindexed : KeepsMap tile closed indexed := (State.releaseIdle_keepsMap closed tile).trans (.setTh idle rfl)
  -- From the switch on nothing names another data block, nor makes a context for a FRET to wait in.
  have hcounted : KeepsMap tile switched (indexed.tally tile 18 0x0001 {}) :=
    ((hfreed.trans hclosed).trans hindexed).trans (State.tally_keepsMap indexed tile _ _ _ _)
  have hctxs : s.ctxs = [] := List.map_eq_nil_iff.mp hctx
  show Store.read (State.th _ tile).segData seg 0 = m.target + 1
  rw [State.endFret_of_no_ctx (hcounted.ctxs.trans hctxs), (hcounted.trans (State.recompute_keepsMap _ tile)).segData]
  simp [switched]

/-- A merge whose target is not verified leaves the map as it is (09 R272). -/
theorem exec_mapSwitch_unverified {s : State} {tile seg : Nat} {m : SegMerge}
    (hfind : (s.th tile).merges.find? (fun m => decide (m.seg = seg) && m.parked.isNone) = some m)
    (hverified : (s.blk tile m.target).verified = false) : exec (.mapSwitch tile seg) s = .next s := by
  show execMapSwitch tile seg s = _
  unfold execMapSwitch
  simp only [hfind]
  exact congrArg Host.Outcome.next (if_pos (by simp [hverified]))

/-! ### Targets that fail -/

/-- The failed target of a merge is released, the physical block of the member that failed is retired, and the failure is counted (09 R274). -/
def State.failTarget (s : State) (tile blk member : Nat) : State := ((s.releaseBlk tile blk).retire tile blk member).tally tile 18 0x0003 {}

section Fail
variable {s : State} {tile blk member : Nat} {m : SegMerge} (hruns : s.thatchRuns tile = true) (hm : member < 16)
  (hfind : (s.th tile).merges.find? (fun m => decide (m.target = blk) && m.parked.isNone) = some m)
include hruns hm hfind

/-- Before its third failure a merge starts again with another target. -/
theorem exec_mergeTargetFail_again {b : Nat} (hfails : m.fails < 2) (htarget : (s.failTarget tile blk member).mergeTarget tile m.seg = some b) :
    exec (.mergeTargetFail tile blk member) s = .next ((s.failTarget tile blk member).startMerge tile { m with target := b, fails := m.fails + 1 }) := by
  unfold State.failTarget at htarget ⊢
  show execMergeTargetFail tile blk member s = _
  unfold execMergeTargetFail
  simp only [hfind]
  refine congrArg Host.Outcome.next ((if_neg (by simp [hruns, hm])).trans ((if_pos (by omega)).trans ?_))
  rw [htarget]

/-- At its third failure the merge is parked, and the segment is left with an event of severity 5. -/
theorem exec_mergeTargetFail_third (hfails : m.fails = 2) :
    let v := s.failTarget tile blk member
    let v := v.setTh tile { v.th tile with merges := (v.th tile).merges.map (fun q => if q.seg = m.seg then { m with fails := 3, parked := some v.clock } else q), journal := (v.th tile).journal.filter (fun q => decide (q.1 ≠ m.seg)) }
    exec (.mergeTargetFail tile blk member) s = .next ((v.log tile 5 bThatch tile 0x08 3 m.seg).failFret tile m.seg) := by
  show execMergeTargetFail tile blk member s = _
  unfold execMergeTargetFail
  simp only [hfind]
  exact congrArg Host.Outcome.next ((if_neg (by simp [hruns, hm])).trans (if_neg (by omega)))

end Fail

/-- A merge parked for 10 s starts again (09 R274). -/
theorem exec_mergeRetry_parked {s : State} {tile seg b t0 : Nat} {m : SegMerge} (hfind : (s.th tile).merges.find? (fun m => decide (m.seg = seg)) = some m)
    (hparked : m.parked = some t0) (hruns : s.thatchRuns tile = true) (hdue : s.due t0 (10 * sec) = true)
    (hroom : (s.th tile).merges.countP (fun m => m.parked.isNone) < s.tileP bThatch tile 3) (htarget : s.mergeTarget tile seg = some b) :
    exec (.mergeRetry tile seg) s = .next (s.startMerge tile { seg := seg, target := b, stamp := s.localCount tile }) := by
  obtain ⟨g, target, stamp, fails, parked, missing⟩ := m
  subst hparked
  show execMergeRetry tile seg s = _
  unfold execMergeRetry
  simp only [hfind, htarget]
  exact congrArg Host.Outcome.next (if_pos ⟨hruns, hdue, hroom⟩)

/-! ### Relocation -/

/-- What a relocation of a block that is marked ends with: a count, the release of the blocks that nothing needs, and the pool (09 R273). -/
def State.endRelocation (s : State) (tile : Nat) : State := ((s.tally tile 18 0x0002 {}).releaseIdle tile).recompute tile

section Relocate
variable {s : State} {tile blk : Nat} (hruns : s.thatchRuns tile = true) (huse : (s.blk tile blk).use = .log) (hopen : (s.blk tile blk).isOpen = false)
  (hmarked : (s.blk tile blk).marked = true) (hreloc : (s.th tile).relocBlk ≠ some blk) (hput : s.canPut tile true = true)
include hruns huse hopen hmarked hreloc hput

/-- A block without a current record: nothing moves (09 R273). -/
theorem exec_relocation_none (hlive : s.liveRecs tile blk = []) (hrows : (s.th tile).rowsOpen.all (fun w => decide (w.blk ≠ blk)) = true) :
    exec (.relocation tile blk) s = .next ((s.setBlk tile blk { s.blk tile blk with marked := true }).endRelocation tile) := by
  show execRelocation tile blk s = _
  unfold execRelocation
  refine congrArg Host.Outcome.next ((if_pos ?_).trans ?_)
  · simpa [hruns, huse, hopen, hmarked, hreloc, hput, hlive] using hrows
  · rw [hlive]
    rfl

/-- The one current record of a block, of a home-table page, moves to the relocation block as KIND 3 (09 R273). -/
theorem exec_relocation_one {r : TRec} (hlive : s.liveRecs tile blk = [r]) (hrows : (s.th tile).rowsOpen = []) (hht : r.ht = true) :
    let v := s.setBlk tile blk { s.blk tile blk with marked := true }
    exec (.relocation tile blk) s = .next ((v.putRec tile { r with kind := 3, key := v.imageKey tile, copyTm := v.localCount tile } true).endRelocation tile) := by
  show execRelocation tile blk s = _
  unfold execRelocation
  refine congrArg Host.Outcome.next ((if_pos ?_).trans ?_)
  · simp [hruns, huse, hopen, hmarked, hreloc, hput, hlive, hrows]
  · rw [hlive]
    simp only [List.foldl, hht, Bool.not_true, Bool.false_and]
    rfl

end Relocate

/-- Settles O37, clause by clause from what each command does under its conditions. -/
theorem segmentMerges : Obligations.SegmentMerges := by
  unfold Obligations.SegmentMerges
  refine ⟨?start, ?startMerge, ?verify, ?unverified, ?switch, ?again, ?third, ?retry, ?none, ?one⟩
  case start =>
    rintro s tile seg b ⟨hruns, hnone, hdue⟩ ⟨hroom, htarget⟩
    refine congrArg Host.Outcome.next ((if_pos (by simp [hruns, hnone, hdue, hroom])).trans ?_)
    rw [htarget]
  case startMerge =>
    intro s t m
    rfl
  case verify =>
    rintro s tile blk ⟨hruns, hparity, hverified, huse⟩ ⟨hmerge, hwhole⟩
    refine congrArg Host.Outcome.next ((if_neg (State.awaits_verify hruns hparity hverified)).trans ((if_neg ?_).trans (if_pos ?_)))
    · simp [huse]
    · simp only [hmerge, hwhole, Bool.and_self]
  case unverified =>
    rintro s tile seg m ⟨hfind, hverified⟩
    exact exec_mapSwitch_unverified hfind hverified
  case switch =>
    rintro s tile seg m ⟨hfind, hruns, hverified, -, hctx⟩
    exact exec_mapSwitch_verified hfind hruns hverified hctx
  case again =>
    rintro s tile blk member b m ⟨hruns, hm, hfind, hfails⟩ htarget
    exact exec_mergeTargetFail_again hruns hm hfind hfails htarget
  case third =>
    rintro s tile blk member m ⟨hruns, hm, hfind, hfails⟩
    exact exec_mergeTargetFail_third hruns hm hfind hfails
  case retry =>
    rintro s tile seg b t0 m ⟨hfind, hparked, hruns, hdue⟩ ⟨hroom, htarget⟩
    exact exec_mergeRetry_parked hfind hparked hruns hdue hroom htarget
  case none =>
    rintro s tile blk ⟨hruns, huse, hopen, hmarked, hreloc, hput⟩ ⟨hlive, hrows⟩
    exact exec_relocation_none hruns huse hopen hmarked hreloc hput hlive hrows
  case one =>
    rintro s tile blk r ⟨hruns, huse, hopen, hmarked, hreloc, hput⟩ ⟨hlive, hrows, hht⟩
    exact exec_relocation_one hruns huse hopen hmarked hreloc hput hlive hrows hht

end Sys2Proof.Machine
end

section
/-! The witness of a pair (10 R316, R317, Table 10-11): what each of its messages and its timer leave of the record of a pair. -/

namespace Sys2Proof.Machine

open Sys2Proof.Safety

/-! ### The record of a pair -/

theorem State.witOf_setWit (s : State) (p q : Nat) (w : Witness) : (s.setWit p w).witOf q = if q = p then w else s.witOf q :=
  Store.read_write s.wit p q w {}

/-- No pair has a lower epoch than before. -/
def EpochsKept (s t : State) : Prop := ∀ q, (s.witOf q).epoch ≤ (t.witOf q).epoch

theorem EpochsKept.refl (s : State) : EpochsKept s s := fun _ => le_rfl

/-- A record put in place of one of no higher epoch. -/
theorem EpochsKept.setWit {s : State} {p : Nat} {w : Witness} (h : (s.witOf p).epoch ≤ w.epoch) : EpochsKept s (s.setWit p w) := by
  intro q
  rw [State.witOf_setWit]
  split
  · next hq => rw [hq]; exact h
  · exact le_rfl

theorem EpochsKept.emit {s t : State} (h : EpochsKept s t) (o : Output) : EpochsKept s (t.emit o) := h

section Rules
variable {s : State} {pair port : Nat}

/-! ### REQ -/

/-- The holder under the epoch of the record is granted it, and its timer starts again. -/
theorem exec_req_renewed (reqno value : Nat) (force : Bool) (hpair : pair ≠ 0) (hholder : (s.witOf pair).holder = some port) :
    let w := s.witOf pair
    exec (.req pair port w.epoch reqno value force) s =
      .next ((s.setWit pair { w with len := value, timer := s.clock }).emit (.witnessAns pair port 2 w.epoch reqno value)) :=
  congrArg Host.Outcome.next ((if_neg hpair).trans (if_pos ⟨hholder, rfl⟩))

/-- With no holder, a sender under the epoch of the record or with FORCE becomes it, under the next epoch. -/
theorem exec_req_granted {epoch : Nat} (reqno value : Nat) {force : Bool} (hpair : pair ≠ 0) (hfree : (s.witOf pair).holder = none)
    (hmay : epoch = (s.witOf pair).epoch ∨ force = true) :
    let w := s.witOf pair
    exec (.req pair port epoch reqno value force) s =
      .next ((s.setWit pair { w with epoch := w.epoch + 1, holder := some port, len := value, timer := s.clock }).emit
        (.witnessAns pair port 2 (w.epoch + 1) reqno value)) :=
  congrArg Host.Outcome.next ((if_neg hpair).trans ((if_neg (by simp [hfree])).trans (if_pos ⟨by simp [hfree], hmay⟩)))

/-- While another unit holds the lease, the answer tells what remains of it. -/
theorem exec_req_held {other : Nat} (epoch reqno value : Nat) (force : Bool) (hpair : pair ≠ 0) (hholder : (s.witOf pair).holder = some other)
    (hother : other ≠ port) :
    exec (.req pair port epoch reqno value force) s =
      .next (s.emit (.witnessAns pair port 3 (s.witOf pair).epoch reqno (s.leaseLeft (s.witOf pair)))) :=
  congrArg Host.Outcome.next ((if_neg hpair).trans ((if_neg (by simp [hholder, hother])).trans
    ((if_neg (by simp [hholder])).trans (if_pos (by simp [hholder, hother])))))

/-- A sender under another epoch that holds the lease, or asks without FORCE while none does, is denied. -/
theorem exec_req_denied {epoch : Nat} (reqno value : Nat) {force : Bool} (hpair : pair ≠ 0) (hepoch : epoch ≠ (s.witOf pair).epoch)
    (hmay : (s.witOf pair).holder = some port ∨ (s.witOf pair).holder = none ∧ force = false) :
    exec (.req pair port epoch reqno value force) s = .next (s.emit (.witnessAns pair port 3 (s.witOf pair).epoch reqno 0)) := by
  refine congrArg Host.Outcome.next ((if_neg hpair).trans ((if_neg (fun h => hepoch h.2)).trans ?_))
  obtain hmine | ⟨hfree, hforce⟩ := hmay
  · exact (if_neg (by simp [hmine])).trans (if_neg (by simp [hmine]))
  · exact (if_neg (by simp [hepoch, hforce])).trans (if_neg (by simp [hfree]))

/-- REQ lowers no epoch, whichever rule it meets. -/
theorem exec_req_epochs (s : State) (pair port epoch reqno value : Nat) (force : Bool) :
    ∃ t, exec (.req pair port epoch reqno value force) s = .next t ∧ EpochsKept s t := by
  refine ⟨_, rfl, ?_⟩
  split
  · exact .refl s
  · split
    · exact .emit (.setWit (by simp)) _
    · split
      · exact .emit (.setWit (Nat.le_succ _)) _
      · split
        · exact .emit (.refl s) _
        · exact .emit (.refl s) _

/-! ### BUMP, RELEASE and REPORT -/

theorem exec_bump_granted (reqno : Nat) (hpair : pair ≠ 0) (hholder : (s.witOf pair).holder = some port) :
    let w := s.witOf pair
    exec (.bump pair port w.epoch reqno) s =
      .next ((s.setWit pair { w with epoch := w.epoch + 1, timer := s.clock }).emit (.witnessAns pair port 2 (w.epoch + 1) reqno w.len)) :=
  congrArg Host.Outcome.next ((if_neg hpair).trans (if_pos ⟨hholder, rfl⟩))

theorem exec_bump_denied {epoch : Nat} (reqno : Nat) (hpair : pair ≠ 0) (h : (s.witOf pair).holder ≠ some port ∨ epoch ≠ (s.witOf pair).epoch) :
    exec (.bump pair port epoch reqno) s = .next (s.emit (.witnessAns pair port 3 (s.witOf pair).epoch reqno 0)) :=
  congrArg Host.Outcome.next ((if_neg hpair).trans (if_neg (fun hmay => h.elim (· hmay.1) (· hmay.2))))

theorem exec_bump_epochs (s : State) (pair port epoch reqno : Nat) : ∃ t, exec (.bump pair port epoch reqno) s = .next t ∧ EpochsKept s t := by
  refine ⟨_, rfl, ?_⟩
  split
  · exact .refl s
  · split
    · exact .emit (.setWit (Nat.le_succ _)) _
    · exact .emit (.refl s) _

theorem exec_release_holder (reqno : Nat) (hpair : pair ≠ 0) (hholder : (s.witOf pair).holder = some port) :
    exec (.release pair port reqno) s =
      .next ((s.setWit pair { s.witOf pair with holder := none }).emit (.witnessAns pair port 7 (s.witOf pair).epoch reqno 0)) :=
  congrArg Host.Outcome.next (if_pos ⟨hpair, hholder⟩)

theorem exec_release_epochs (s : State) (pair port reqno : Nat) : ∃ t, exec (.release pair port reqno) s = .next t ∧ EpochsKept s t := by
  refine ⟨_, rfl, ?_⟩
  split
  · exact .emit (.setWit (by simp)) _
  · exact .refl s

theorem exec_report_epochs (s : State) (pair port reqno : Nat) (r : WitReport) : ∃ t, exec (.report pair port reqno r) s = .next t ∧ EpochsKept s t := by
  refine ⟨_, rfl, ?_⟩
  split
  · exact .refl s
  · exact .emit (.setWit (by simp)) _

/-! ### The timer -/

theorem exec_witnessLeaseExpiry_early (h : s.clock < (s.witOf pair).timer + (s.witOf pair).len * us) : exec (.witnessLeaseExpiry pair) s = .next s :=
  congrArg Host.Outcome.next (if_neg (fun hdue => by omega))

theorem exec_witnessLeaseExpiry_epochs (s : State) (pair : Nat) : ∃ t, exec (.witnessLeaseExpiry pair) s = .next t ∧ EpochsKept s t := by
  refine ⟨_, rfl, ?_⟩
  split
  · exact .setWit (by simp)
  · exact .refl s

end Rules

/-- Settles O43, clause by clause from what each message of the witness and its timer do under their conditions. -/
theorem witnessRules : Obligations.WitnessRules := by
  unfold Obligations.WitnessRules
  refine ⟨?renewed, ?granted, ?held, ?denied, ?bumped, ?notBumped, ?released, ?reported, ?gone, ?early, ?restart, ?epochs⟩
  case renewed =>
    rintro s pair port reqno value force ⟨hpair, hholder⟩
    exact exec_req_renewed reqno value force hpair hholder
  case granted =>
    rintro s pair port epoch reqno value force ⟨hpair, hfree, hmay⟩
    exact exec_req_granted reqno value hpair hfree hmay
  case held =>
    rintro s pair port other epoch reqno value force ⟨hpair, hholder, hother⟩
    exact exec_req_held epoch reqno value force hpair hholder hother
  case denied =>
    rintro s pair port epoch reqno value force ⟨hpair, hepoch, hmay⟩
    exact exec_req_denied reqno value hpair hepoch hmay
  case bumped =>
    rintro s pair port reqno ⟨hpair, hholder⟩
    exact exec_bump_granted reqno hpair hholder
  case notBumped =>
    rintro s pair port epoch reqno ⟨hpair, h⟩
    exact exec_bump_denied reqno hpair h
  case released =>
    rintro s pair port reqno ⟨hpair, hholder⟩
    exact exec_release_holder reqno hpair hholder
  case reported =>
    intro s pair port reqno cause arg hpair
    exact congrArg Host.Outcome.next (if_neg hpair)
  case gone =>
    intro s pair hdue
    exact congrArg Host.Outcome.next (if_pos hdue)
  case early =>
    intro s pair h
    exact exec_witnessLeaseExpiry_early h
  case restart =>
    intro s
    rfl
  case epochs =>
    intro s pair port epoch reqno value q force
    have at_q {o : Run} (h : ∃ t, o = .next t ∧ EpochsKept s t) : Answers o (fun t => (s.witOf q).epoch ≤ (t.witOf q).epoch) :=
      h.imp fun _ ht => ⟨ht.1, ht.2 q⟩
    exact ⟨at_q (exec_req_epochs ..), at_q (exec_bump_epochs ..), at_q (exec_release_epochs ..), at_q (exec_report_epochs ..),
      at_q (exec_witnessLeaseExpiry_epochs ..)⟩

end Sys2Proof.Machine
end

section
/-! The lease of the unit, its deadline and its roles (10 R318 to R330; 13 R409 to R412): each command of Headland under its conditions, and the
instructions MROLE, MSYNC, MDIG and LEASE. -/

namespace Sys2Proof.Machine

open Sys2Proof.Safety

/-! ### Long instructions -/

/-- With no context made, no long instruction runs that could end. -/
theorem State.finishAll_of_ctxs_nil {s : State} (h : s.ctxs = []) (p : LongOp → Bool) (st : Status) (r : Word) : s.finishAll p st r = s := by
  unfold State.finishAll State.ctxNums
  rw [h]
  rfl

@[simp] theorem State.startLong_mode (s : State) (n : Nat) (i : Issue) (op : LongOp) : (s.startLong n i op).mode = s.mode := rfl

@[simp] theorem State.pendRec_mode (s : State) (n : Nat) (i : Issue) : (s.pendRec n i).mode = s.mode := by
  unfold State.pendRec
  split <;> rfl

section Lease
variable {s : State}

/-! ### Requests and their answers -/

theorem State.tryTakeOver_of_not (h : s.lease.takeOver = false) : s.tryTakeOver = s :=
  if_neg (by simp [h])

theorem exec_leaseRenew_due (hrenews : s.renews = true) (hwaiting : s.lease.waiting = false) (hdue : s.due s.lease.renewAt (s.devP bMirr 4 * us) = true) :
    let v : State := { s with lease := { s.lease with renewAt := s.clock, tries := 0, force := false } }
    exec .leaseRenew s = .next (v.witSend 1 v.leaseLen) :=
  congrArg Host.Outcome.next (if_pos ⟨hrenews, by simp [hwaiting], hdue⟩)

/-- Before the third try a request is sent again, and no LEASE ends (10 R318; 13 R412). -/
theorem exec_reqRetry_again (hwaiting : s.lease.waiting = true) (hdue : s.due s.lease.sentAt (200 * us) = true) (htries : s.lease.tries < 2) :
    let v : State := { s with lease := { s.lease with tries := s.lease.tries + 1 } }
    exec .reqRetry s = .next (v.witSend s.lease.kind (if s.lease.kind = 1 then s.leaseLen else 0)) := by
  have hfew : ¬ 3 ≤ s.lease.tries + 1 := by omega
  refine congrArg Host.Outcome.next ((if_pos ⟨hwaiting, hdue⟩).trans ?_)
  simp only [if_neg hfew]

/-- An answer of the witness to another pair, or to a standalone unit, is nothing (10 R318). -/
theorem exec_answers_of_other_pair {pair : Nat} (epoch reqno value : Nat) (h : s.pairId = 0 ∨ pair ≠ s.pairId) :
    exec (.grant epoch ⟨pair, reqno⟩ value) s = .next s ∧ exec (.deny epoch ⟨pair, reqno⟩ value) s = .next s ∧
      exec (.ack ⟨pair, reqno⟩) s = .next s :=
  ⟨congrArg Host.Outcome.next (if_pos h), congrArg Host.Outcome.next (if_pos h), congrArg Host.Outcome.next (if_pos h)⟩

/-- An answer to this pair passes the first check. -/
theorem State.answered (hpair : s.pairId ≠ 0) (reqno : Nat) : ¬ (s.pairId = 0 ∨ (⟨s.pairId, reqno⟩ : PairReq).pair ≠ s.pairId) := by
  simp [hpair]

/-- A GRANT of another request than the open one is heard, and no more. -/
theorem exec_grant_unasked {reqno : Nat} (epoch value : Nat) (hpair : s.pairId ≠ 0) (h : s.lease.waiting = false ∨ reqno ≠ s.lease.reqno) :
    exec (.grant epoch ⟨s.pairId, reqno⟩ value) s = .next (s.heard 2) := by
  refine congrArg Host.Outcome.next ((if_neg (State.answered hpair reqno)).trans (if_pos ?_))
  obtain hwaiting | hreqno := h
  · exact .inl (by simp [State.heard, hwaiting])
  · exact .inr (.inl hreqno)

/-- The GRANT of a renewal under the epoch in force moves the deadline. -/
theorem exec_grant_renewal (value : Nat) (hpair : s.pairId ≠ 0) (hwaiting : s.lease.waiting = true) (hmode : s.mode.mode = .actv)
    (hexpired : s.lease.expired = false) (hwish : s.lease.wish = .idle) (hctxs : s.ctxs = []) (htake : s.lease.takeOver = false) :
    exec (.grant s.lease.epoch ⟨s.pairId, s.lease.reqno⟩ value) s = .next { s with lease := { s.lease with
      lastType := 2, lastWit := some s.clock, waiting := false, tries := 0, force := false, held := true, expired := false,
      readsUntil := none, denyUntil := none, deadline := leaseDeadline s.lease.sentAt value } } := by
  have hwants : (s.heard 2).wantsGrant = true := by simp only [State.wantsGrant, State.heard, hmode, hexpired, Bool.not_false]
  have huse : ¬ ((!(s.heard 2).lease.waiting) = true ∨ s.lease.reqno ≠ (s.heard 2).lease.reqno ∨ (!(s.heard 2).wantsGrant) = true) := by
    rw [hwants]
    simp [State.heard, hwaiting]
  refine congrArg Host.Outcome.next ((if_neg (State.answered hpair s.lease.reqno)).trans ((if_neg huse).trans ?_))
  simp only [State.heard, State.finishAll_of_ctxs_nil, State.tryTakeOver_of_not, hctxs, hwish, hexpired, htake, Nat.lt_irrefl, decide_false,
    Bool.false_eq_true, if_false, Nat.max_self]

/-- A DENY leaves the deadline. -/
theorem exec_deny_idle (epoch value : Nat) (hpair : s.pairId ≠ 0) (hwaiting : s.lease.waiting = true) (hwish : s.lease.wish = .idle) (hctxs : s.ctxs = []) :
    exec (.deny epoch ⟨s.pairId, s.lease.reqno⟩ value) s = .next { s with lease := { s.lease with
      lastType := 3, lastWit := some s.clock, waiting := false, tries := 0, force := false } } := by
  have huse : ¬ ((!(s.heard 3).lease.waiting) = true ∨ s.lease.reqno ≠ (s.heard 3).lease.reqno) := by
    simp [State.heard, hwaiting]
  refine congrArg Host.Outcome.next ((if_neg (State.answered hpair s.lease.reqno)).trans ((if_neg huse).trans ?_))
  simp only [State.heard, State.finishAll_of_ctxs_nil, hctxs, hwish]

/-- The ACK of a RELEASE ends the lease and takes the unit to MIRS (10 R330). -/
theorem exec_ack_release (hpair : s.pairId ≠ 0) (hwaiting : s.lease.waiting = true) (hkind : s.lease.kind = 4) :
    let v : State := { s with lease := { s.lease with lastType := 7, lastWit := some s.clock, waiting := false, tries := 0, held := false } }
    exec (.ack ⟨s.pairId, s.lease.reqno⟩) s = .next ((v.emit (.role .done)).nameMode .mirs 6) :=
  congrArg Host.Outcome.next ((if_neg (State.answered hpair s.lease.reqno)).trans (if_pos ⟨hwaiting, hkind, rfl⟩))

theorem exec_denyWaitEnd_asks {t0 : Nat} (hdeny : s.lease.denyUntil = some t0) (hdue : t0 ≤ s.clock) (hmode : s.mode.mode = .mirs)
    (hsynced : s.allSynced = true) (hlost : s.lease.twinLost = true) :
    let v : State := { s with lease := { s.lease with denyUntil := none } }
    exec .denyWaitEnd s = .next (v.witSend 1 v.leaseLen) := by
  show execDenyWaitEnd s = _
  unfold execDenyWaitEnd
  rw [hdeny]
  exact congrArg Host.Outcome.next ((if_pos hdue).trans (if_pos ⟨hmode, hsynced, .inl hlost⟩))

theorem exec_readAbandon_due {t0 : Nat} (huntil : s.lease.readsUntil = some t0) (hdue : t0 ≤ s.clock) :
    exec .readAbandon s = .next { s.abandonHosts with lease := { s.lease with readsUntil := none } } := by
  show execReadAbandon s = _
  unfold execReadAbandon
  rw [huntil]
  exact congrArg Host.Outcome.next (if_pos hdue)

/-! ### Roles -/

/-- An active unit whose `mirr.preferred` is not 0 refuses a request for handover (10 R329). -/
theorem exec_role_request_refused (hup : s.twinUp = true) (hmode : s.mode.mode = .actv) (hpreferred : s.devP bMirr 1 ≠ 0) :
    exec (.role .request) s = .next (s.emit (.role .refused)) :=
  congrArg Host.Outcome.next ((if_neg (by simp [hup])).trans ((if_neg (by simp [hmode])).trans (if_neg (fun h => hpreferred h.1))))

theorem exec_role_at (t : Nat) (hup : s.twinUp = true) (hmode : s.mode.mode = .mirs) :
    exec (.role (.at_ t)) s = .next { s with lease := { s.lease with handoverAt := some t, wish := .handoverTo } } :=
  congrArg Host.Outcome.next ((if_neg (by simp [hup])).trans (if_pos hmode))

/-- At the instant of a handover with empty windows, the ingress stops and RELEASE goes (10 R330). -/
theorem exec_handover_releases {t0 : Nat} (hat : s.lease.handoverAt = some t0) (hmode : s.mode.mode = .actv) (hwish : s.lease.wish = .handoverFrom)
    (hnow : t0 ≤ s.master) (hreleased : s.lease.released = false) (hempty : s.windowsEmpty = true) :
    let v : State := { s with lease := { s.lease with stopped := true, released := true, tries := 0 } }
    exec .handover s = .next (v.witSend 4 0) := by
  have hgo : ¬ (s.mode.mode ≠ .actv ∨ s.lease.wish ≠ .handoverFrom ∨ s.master < t0 ∨ s.lease.released = true) := by
    simp [hmode, hwish, hreleased, hnow]
  show execHandover s = _
  unfold execHandover
  rw [hat]
  exact congrArg Host.Outcome.next ((if_neg hgo).trans (if_pos hempty))

theorem exec_handover_early {t0 : Nat} (hat : s.lease.handoverAt = some t0) (hearly : s.master < t0) : exec .handover s = .next s := by
  show execHandover s = _
  unfold execHandover
  rw [hat]
  exact congrArg Host.Outcome.next (if_pos (.inr (.inr (.inl hearly))))

theorem exec_failbackRequest_due {t0 : Nat} (hsince : s.lease.fbSince = some t0)
    (h : s.mode.mode = .mirs ∧ s.devP bMirr 1 = 1 ∧ s.devP bMirr 5 ≠ 0 ∧ s.allSynced = true ∧ s.twinUp = true ∧
      s.due t0 (s.devP bMirr 5 * sec) = true) :
    exec .failbackRequest s = .next ({ s with lease := { s.lease with fbSince := some s.clock } }.emit (.role .request)) := by
  show execFailbackRequest s = _
  unfold execFailbackRequest
  rw [hsince]
  exact congrArg Host.Outcome.next (if_pos h)

end Lease

/-! ### Instructions -/

section Ready
variable {s : State} {n : Nat} {i : Issue} {c : Ctx}

/-- MROLE 0 on the active unit starts a handover (13 R409). -/
theorem exec_mrole_leaves (hready : Ready s n 0x50 i c) (hsynced : (s.consume n i c).allSynced = true) (hup : (s.consume n i c).twinUp = true)
    (hk : fld i.word 0 0 = 0) (hmode : (s.consume n i c).mode.mode = .actv) (hat : (s.consume n i c).lease.handoverAt = none) :
    exec (.mrole n) s = .next (((s.consume n i c).startLong n i (.mrole 0)).startHandover) :=
  congrArg Host.Outcome.next ((State.issue_ready hready).trans
    ((if_neg (by simp [hsynced, hup])).trans ((if_pos hk).trans (if_neg (by simp only [hmode, hat]; simp)))))

/-- MROLE 1 on the standby asks for the handover (13 R409). -/
theorem exec_mrole_asks (hready : Ready s n 0x50 i c) (hsynced : (s.consume n i c).allSynced = true) (hup : (s.consume n i c).twinUp = true)
    (hk : fld i.word 0 0 = 1) (hmode : (s.consume n i c).mode.mode = .mirs) :
    let u := (s.consume n i c).startLong n i (.mrole 1)
    exec (.mrole n) s = .next ({ u with lease := { (s.consume n i c).lease with mrole := true } }.emit (.role .request)) :=
  congrArg Host.Outcome.next ((State.issue_ready hready).trans
    ((if_neg (by simp [hsynced, hup])).trans ((if_neg (by simp [hk])).trans (if_neg (by simp only [hmode]; simp)))))

theorem exec_mrole_alone (hready : Ready s n 0x50 i c) (hup : (s.consume n i c).twinUp = false) :
    exec (.mrole n) s = .next ((s.consume n i c).complete n i .mode 0 [] false) :=
  congrArg Host.Outcome.next ((State.issue_ready hready).trans (if_pos (.inr (by simp [hup]))))

/-- MSYNC of no tile completes at once (13 R410). -/
theorem exec_msync_none (hready : Ready s n 0x51 i c) (hup : (s.consume n i c).twinUp = true) (hm : fld i.word 7 0 = 0) :
    exec (.msync n) s = .next ((s.consume n i c).done n i 0) :=
  congrArg Host.Outcome.next ((State.issue_ready hready).trans
    ((if_neg (by simp [hm])).trans ((if_neg (by simp [hup])).trans (if_pos hm))))

/-- MSYNC on a unit that is no standby begins the resync of each tile that it names (13 R410). -/
theorem exec_msync_serving (hready : Ready s n 0x51 i c) (hup : (s.consume n i c).twinUp = true) (hm : fld i.word 7 0 ≠ 0)
    (htiles : fld i.word 7 0 < 2 ^ (s.consume n i c).tiles) (hmode : s.mode.mode ≠ .mirs) :
    let u := s.consume n i c
    let ts := u.tileList.filter (fun t => (fld i.word 7 0).testBit t)
    exec (.msync n) s = .next (ts.foldl (fun (v : State) t => v.beginResync t (iXf i.word)) ((u.startLong n i (.msync (fld i.word 7 0) 0)).pendRec n i)) :=
  congrArg Host.Outcome.next ((State.issue_ready hready).trans
    ((if_neg (Nat.not_le.mpr htiles)).trans ((if_neg (by simp [hup])).trans ((if_neg hm).trans (if_neg (by simpa using hmode))))))

theorem exec_mdig_sends (hready : Ready s n 0x52 i c) (htile : fld i.word 2 0 < s.tiles) (hgoes : (s.consume n i c).ckptGoes (fld i.word 2 0) = true) :
    exec (.mdig n) s = .next (((s.consume n i c).startLong n i (.mdig (fld i.word 2 0))).sendCkpt (fld i.word 2 0)) :=
  congrArg Host.Outcome.next ((State.issue_ready hready).trans
    ((if_neg (by simpa [State.tiles] using htile)).trans (if_neg (by simp [hgoes]))))

theorem exec_lease_reads (hready : Ready s n 0x53 i c) (hread : fld i.word 0 0 = 0) :
    exec (.lease n) s = .next ((s.consume n i c).done n i (s.consume n i c).leaseWord) :=
  congrArg Host.Outcome.next ((State.issue_ready hready).trans (if_pos hread))

/-- LEASE of the active unit renews, unless another request is open (13 R412). -/
theorem exec_lease_renews (hready : Ready s n 0x53 i c) (hrenew : fld i.word 0 0 = 1) (hmode : (s.consume n i c).mode.mode = .actv)
    (hpair : (s.consume n i c).pairId ≠ 0) (hwaiting : ((s.consume n i c).startLong n i .lease).lease.waiting = false) :
    let u := (s.consume n i c).startLong n i .lease
    let v : State := { u with lease := { u.lease with tries := 0 } }
    exec (.lease n) s = .next (v.witSend 1 v.leaseLen) :=
  congrArg Host.Outcome.next ((State.issue_ready hready).trans
    ((if_neg (by simp [hrenew])).trans ((if_neg (by simp only [hmode]; simp)).trans ((if_neg hpair).trans (if_neg (by simp [hwaiting]))))))

/-- A renewal by LEASE outside ACTV, SOLO and RSTR is refused (13 R412). -/
theorem exec_lease_mode (hready : Ready s n 0x53 i c) (hrenew : fld i.word 0 0 = 1)
    (hmode : (s.consume n i c).mode.mode ∉ [Mode.actv, .solo, .rstr]) :
    exec (.lease n) s = .next ((s.consume n i c).complete n i .mode 0 [] false) := by
  simp only [List.mem_cons, List.not_mem_nil, or_false, not_or] at hmode
  obtain ⟨hactv, hsolo, hrstr⟩ := hmode
  exact congrArg Host.Outcome.next ((State.issue_ready hready).trans
    ((if_neg (by simp [hrenew])).trans (if_pos (by simp only [hactv, hsolo, hrstr]; simp))))

end Ready

/-- Settles O44, clause by clause from what each command and instruction does under its conditions. -/
theorem leaseOfTheUnit : Obligations.LeaseOfTheUnit := by
  unfold Obligations.LeaseOfTheUnit
  refine ⟨?renew, ?retry, ?unasked, ?granted, ?otherPair, ?denied, ?waited, ?acked, ?deadline, ?abandon, ?refused, ?roleAt, ?handover, ?early,
    ?failback, ?mroleLeaves, ?mroleAsks, ?mroleAlone, ?msyncNone, ?msync, ?mdig, ?leaseReads, ?leaseRenews, ?leaseMode⟩
  case renew =>
    rintro s ⟨hrenews, hwaiting, hdue⟩
    exact exec_leaseRenew_due hrenews hwaiting hdue
  case retry =>
    rintro s ⟨hwaiting, hdue, htries⟩
    exact exec_reqRetry_again hwaiting hdue htries
  case unasked =>
    rintro s epoch reqno value ⟨hpair, h⟩
    exact exec_grant_unasked epoch value hpair h
  case granted =>
    rintro s value ⟨hpair, hwaiting, hmode, hexpired, hwish, hctxs, htake⟩
    exact exec_grant_renewal value hpair hwaiting hmode hexpired hwish hctxs htake
  case otherPair =>
    intro s pair epoch reqno value h
    exact exec_answers_of_other_pair epoch reqno value h
  case denied =>
    rintro s epoch value ⟨hpair, hwaiting, hwish, hctxs⟩
    exact exec_deny_idle epoch value hpair hwaiting hwish hctxs
  case waited =>
    rintro s t0 ⟨hdeny, hdue, hmode, hsynced, hlost⟩
    exact exec_denyWaitEnd_asks hdeny hdue hmode hsynced hlost
  case acked =>
    rintro s ⟨hpair, hwaiting, hkind⟩
    exact exec_ack_release hpair hwaiting hkind
  case deadline =>
    rintro s ⟨hpair, hheld, hexpired, hpast⟩
    exact congrArg Host.Outcome.next (if_pos ⟨hpair, hheld, by simp [hexpired], hpast⟩)
  case abandon =>
    rintro s t0 ⟨huntil, hdue⟩
    exact exec_readAbandon_due huntil hdue
  case refused =>
    rintro s ⟨hup, hmode, hpreferred⟩
    exact exec_role_request_refused hup hmode hpreferred
  case roleAt =>
    rintro s t ⟨hup, hmode⟩
    exact exec_role_at t hup hmode
  case handover =>
    rintro s t0 ⟨hat, hmode, hwish, hnow, hreleased⟩ hempty
    exact exec_handover_releases hat hmode hwish hnow hreleased hempty
  case early =>
    rintro s t0 ⟨hat, hearly⟩
    exact exec_handover_early hat hearly
  case failback =>
    rintro s t0 ⟨hsince, h⟩
    exact exec_failbackRequest_due hsince h
  case mroleLeaves =>
    rintro s n i c hready ⟨hsynced, hup, hk, hmode, hat⟩
    exact exec_mrole_leaves hready hsynced hup hk hmode hat
  case mroleAsks =>
    rintro s n i c hready ⟨hsynced, hup, hk, hmode⟩
    exact exec_mrole_asks hready hsynced hup hk hmode
  case mroleAlone =>
    rintro s n i c ⟨hready, hup⟩
    exact exec_mrole_alone hready hup
  case msyncNone =>
    rintro s n i c ⟨hready, hup, hm⟩
    exact exec_msync_none hready hup hm
  case msync =>
    rintro s n i c hready ⟨hup, hm, htiles, hmode⟩
    exact exec_msync_serving hready hup hm htiles hmode
  case mdig =>
    rintro s n i c hready ⟨htile, hgoes⟩
    exact exec_mdig_sends hready htile hgoes
  case leaseReads =>
    rintro s n i c ⟨hready, hread⟩
    exact exec_lease_reads hready hread
  case leaseRenews =>
    rintro s n i c ⟨hready, hrenew⟩ ⟨hmode, hpair, hwaiting⟩
    exact exec_lease_renews hready hrenew hmode hpair hwaiting
  case leaseMode =>
    rintro s n i c ⟨hready, hrenew⟩ hmode
    refine exec_lease_mode hready hrenew ?_
    obtain h | h | h | h := hmode <;> simp only [h] <;> decide

end Sys2Proof.Machine
end

section
/-! Line resync, checkpoints, the messages of the command channel and the resync of a tile (10 R312 to R328): each command under its
conditions. -/

namespace Sys2Proof.Machine

/-- The first element that meets a condition is the first that meets a stronger one, if it does. -/
theorem find?_and {α : Type} {p : α → Bool} {l : List α} {b : α} (h : l.find? p = some b) {q : α → Bool} (hq : q b = true) :
    l.find? (fun x => p x && q x) = some b := by
  obtain ⟨hp, before, after, hl, hbefore⟩ := List.find?_eq_some_iff_append.mp h
  refine List.find?_eq_some_iff_append.mpr ⟨by simp [hp, hq], before, after, hl, fun a ha => ?_⟩
  have ha' : p a = false := by simpa using hbefore a ha
  simp [ha']

section Twin
variable {s : State} {tile : Nat}

/-! ### Line resync -/

/-- An LRQ of 1 to 64 whole lines of a tile while the twin is up passes the checks. -/
theorem State.lrq_passes {off count : Nat} (ht : tile < s.tiles) (hsome : 0 < count) (hmany : count ≤ 64) (hoff : off % 64 = 0) (hup : s.twinUp = true) :
    ¬ (s.tiles ≤ tile ∨ count = 0 ∨ 64 < count ∨ off % 64 ≠ 0 ∨ (!s.twinUp) = true) := by
  simp only [hup, hoff, ne_eq, not_true_eq_false, Bool.not_true, Bool.false_eq_true, or_false]
  omega

/-- An LRQ is answered, on a standby once APPLIED has reached SEQ_R (10 R312). -/
theorem exec_lrq_answered {off count seqR : Nat} (hgo : ¬ (s.tiles ≤ tile ∨ count = 0 ∨ 64 < count ∨ off % 64 ≠ 0 ∨ (!s.twinUp) = true))
    (hready : s.mode.mode ≠ .mirs ∨ seqLe seqR (s.mt tile).applied = true) :
    exec (.lrq tile off count seqR) s = .next (s.answerLrq tile off count) := by
  refine congrArg Host.Outcome.next ((if_neg hgo).trans (if_neg ?_))
  obtain hserving | happlied := hready
  · exact fun h => hserving h.1
  · simp [happlied]

theorem exec_lrq_waits {off count seqR : Nat} (hgo : ¬ (s.tiles ≤ tile ∨ count = 0 ∨ 64 < count ∨ off % 64 ≠ 0 ∨ (!s.twinUp) = true))
    (hmode : s.mode.mode = .mirs) (happlied : seqLe seqR (s.mt tile).applied = false) :
    exec (.lrq tile off count seqR) s = .next (s.setMt tile { s.mt tile with lrqWait := (s.mt tile).lrqWait ++ [(off, count, seqR)] }) :=
  congrArg Host.Outcome.next ((if_neg hgo).trans (if_pos ⟨hmode, by simp [happlied]⟩))

/-- The request of a tile that a message of lines answers. -/
def State.askedBy (s : State) (t : Nat) (b : List Byte) : Option Lrq :=
  (s.mt t).lrqs.find? (fun q => decide (q.off = ((msgFrames b).head?.map Frame.off).getD 0))

/-- APPLIED of a standby has not reached the sequence number of a message of lines (10 R312). -/
def State.lrsEarly (s : State) (t : Nat) (b : List Byte) : Bool := decide (s.mode.mode = .mirs) && !seqLe (fld (msgWord b 1) 47 0) (s.mt t).applied

/-- The lines that a request of a tile has brought cannot be taken yet. -/
def State.lrsWaits (s : State) (t : Nat) (q : Lrq) (b : List Byte) : Bool :=
  decide (q.why ≠ .recovery) && s.lrsHeld t q.off (msgFrames b).length || s.lrsEarly t b && !decide (q.why = .recovery ∨ q.why = .mismatch)

/-- The lines of a message do not wait for what asked for them. -/
def State.lrsTakes (s : State) (t : Nat) (b : List Byte) : Bool :=
  !(match s.askedBy t b with | some q => s.lrsWaits t q b | none => false)

/-- The state with a message and the request that it answers taken away. -/
def State.tookLrs (s : State) (t : Nat) (b : List Byte) (q : Lrq) : State :=
  let v := s.setMt t { s.mt t with inbox := (s.mt t).inbox.erase b }
  v.setMt t { v.mt t with lrqs := (v.mt t).lrqs.erase q }

/-- The lines of a message that answers a request. -/
def lrsOf (b : List Byte) (q : Lrq) : LrsWait := { off := q.off, seq0 := fld (msgWord b 1) 47 0, lines := lrsLines (msgFrames b) }

/-- LRS takes the first message whose lines do not wait: they go to what asked, or wait for APPLIED (10 R312). -/
theorem exec_lrs (s : State) (tile : Nat) :
    exec (.lrs tile) s = .next (match (s.mt tile).inbox.find? (fun b => msgLrs b && s.lrsTakes tile b) with
      | none => s
      | some b =>
        match s.askedBy tile b with
        | none => s.setMt tile { s.mt tile with inbox := (s.mt tile).inbox.erase b }
        | some q =>
          let v := s.tookLrs tile b q
          if s.lrsEarly tile b then v.setMt tile { v.mt tile with lrsWait := (v.mt tile).lrsWait ++ [lrsOf b q] } else v.takeLrs tile q.why (lrsOf b q)) := rfl

theorem State.lrsTakes_of_asked {b : List Byte} {q : Lrq} (h : s.askedBy tile b = some q) : s.lrsTakes tile b = !s.lrsWaits tile q b := by
  unfold State.lrsTakes
  rw [h]

/-- On a unit that is no standby the lines go to what asked for them. -/
theorem exec_lrs_serving {b : List Byte} {q : Lrq} (hmode : s.mode.mode ≠ .mirs) (hfirst : (s.mt tile).inbox.find? msgLrs = some b)
    (hasked : s.askedBy tile b = some q) (hfree : q.why = .recovery ∨ s.lrsHeld tile q.off (msgFrames b).length = false) :
    exec (.lrs tile) s = .next ((s.tookLrs tile b q).takeLrs tile q.why (lrsOf b q)) := by
  have hearly : s.lrsEarly tile b = false := by simp [State.lrsEarly, hmode]
  have htakes : s.lrsTakes tile b = true := by
    rw [State.lrsTakes_of_asked hasked, State.lrsWaits, hearly]
    obtain hwhy | hheld := hfree
    · simp [hwhy]
    · simp [hheld]
  rw [exec_lrs, find?_and hfirst htakes]
  simp only [hasked, hearly, Bool.false_eq_true, if_false]

section Early
variable {b : List Byte} {q : Lrq} (hmode : s.mode.mode = .mirs) (hinbox : (s.mt tile).inbox = [b])
  (happlied : seqLe (fld (msgWord b 1) 47 0) (s.mt tile).applied = false) (hasked : s.askedBy tile b = some q)
include hmode hinbox happlied hasked

/-- What a recovery asked for waits for APPLIED. -/
theorem exec_lrs_early_recovery (hlrs : msgLrs b = true) (hwhy : q.why = .recovery) :
    let v := s.tookLrs tile b q
    exec (.lrs tile) s = .next (v.setMt tile { v.mt tile with lrsWait := (v.mt tile).lrsWait ++ [lrsOf b q] }) := by
  have hearly : s.lrsEarly tile b = true := by simp [State.lrsEarly, hmode, happlied]
  have htakes : s.lrsTakes tile b = true := by simp [State.lrsTakes_of_asked hasked, State.lrsWaits, hwhy]
  rw [exec_lrs, hinbox, find?_and (List.find?_cons_of_pos hlrs) htakes]
  simp only [hasked, hearly, if_true]

/-- What a read asked for stays in its message until APPLIED has reached it. -/
theorem exec_lrs_early_read (hwhy : q.why = .read) : exec (.lrs tile) s = .next s := by
  have hearly : s.lrsEarly tile b = true := by simp [State.lrsEarly, hmode, happlied]
  have htakes : s.lrsTakes tile b = false := by simp [State.lrsTakes_of_asked hasked, State.lrsWaits, hearly, hwhy]
  rw [exec_lrs, hinbox, List.find?_cons_of_neg (by simp [htakes]), List.find?_nil]

end Early

theorem exec_lrqTimeout_due {off : Nat} {q : Lrq} (hfind : (s.mt tile).lrqs.find? (fun q => decide (q.off = off)) = some q)
    (hdue : s.due q.sentAt (s.tileP bMirr tile 1 * us) = true) :
    let v := s.setMt tile { s.mt tile with lrqs := (s.mt tile).lrqs.map (fun r => if r = q then { r with sentAt := s.clock } else r) }
    exec (.lrqTimeout tile off) s = .next (v.isahar tile xLrq q.words) := by
  show execLrqTimeout tile off s = _
  unfold execLrqTimeout
  simp only [hfind]
  exact congrArg Host.Outcome.next (if_pos hdue)

/-! ### Checkpoints -/

theorem exec_ckpt_compared {seq tm : Nat} {d : Word} (hmode : s.mode.mode = .mirs) (ht : tile < s.tiles) (hgoes : s.ckptGoes tile = false) :
    exec (.ckpt tile seq tm d) s = .next ((s.setMt tile { s.mt tile with ckptWait := some { seq := seq, tm := tm, digest := d } }).compareCkpt tile) :=
  congrArg Host.Outcome.next ((if_neg (by simp [hgoes])).trans (if_pos ⟨hmode, ht⟩))

/-! ### Messages of the command channel -/

/-- SYNC on a unit that is no standby is a heartbeat of its path (10 R321). -/
theorem exec_sync_heartbeat {path : Nat} (tidemark : Nat) (hup : s.pathUp tile path = true) (hmode : s.mode.mode ≠ .mirs) :
    exec (.sync tile path tidemark) s = .next (s.setMt tile (if path = 0 then { s.mt tile with last0 := s.clock } else { s.mt tile with last1 := s.clock })) :=
  congrArg Host.Outcome.next ((if_neg (by simp [hup])).trans (if_neg (fun h => hmode h.1)))

/-- SYNC on path 0 of tile 0 disciplines the master of a standby (01 R33). -/
theorem exec_sync_standby (tidemark : Nat) (hup : s.pathUp 0 0 = true) (hmode : s.mode.mode = .mirs) (hon : s.time.master.on = true) :
    exec (.sync 0 0 tidemark) s =
      .next ((s.setMt 0 { s.mt 0 with last0 := s.clock }).slewMaster (Int.ofNat (tidemark + 4 * (s.mt 0).flight) - Int.ofNat s.master)) :=
  congrArg Host.Outcome.next ((if_neg (by simp [hup])).trans (if_pos ⟨hmode, rfl, hon⟩))

/-- A higher epoch is news while the twin is up. -/
theorem State.epoch_news {epoch : Nat} (hhigher : s.lease.epoch < epoch) (hup : s.twinUp = true) : ¬ (epoch ≤ s.lease.epoch ∨ (!s.twinUp) = true) := by
  simp [hup, hhigher]

/-- An active unit that sees a higher epoch leaves (10 R306, R320). -/
theorem exec_epoch_active {epoch : Nat} (next : List Nat) (hhigher : s.lease.epoch < epoch) (hup : s.twinUp = true) (hmode : s.mode.mode = .actv)
    (hctxs : s.ctxs = []) :
    exec (.epoch epoch next) s = .next ({ s with lease := { s.lease with epoch := epoch, stopped := true }, unacked := [] }.nameMode .mirs 4) := by
  refine congrArg Host.Outcome.next ((if_neg (State.epoch_news hhigher hup)).trans ?_)
  have hfin := State.finishAll_of_ctxs_nil (s := { s with lease := { s.lease with epoch := epoch } }) hctxs (fun op => decide (op = .mrole 0)) .ok
    (BitVec.ofNat 64 epoch)
  simp only [hfin]
  exact (if_neg (by simp [hmode])).trans (if_pos hmode)

/-- The receive side of each tile of a standby stands before the next frame of the sender (10 R320). -/
def State.adoptNext (next : List Nat) (s : State) : State :=
  s.tileList.foldl (fun (u : State) t => match next[t]? with
    | some n => u.setMt t { u.mt t with
        applied := (n + (2 ^ 48 - 1)) % 2 ^ 48, received := (n + (2 ^ 48 - 1)) % 2 ^ 48, gens := [], store := [], ckptWait := none }
    | none => u) s

/-- A standby adopts a higher epoch, and the next sequence number of each tile of the sender (10 R320, R322). -/
theorem exec_epoch_standby {epoch : Nat} (next : List Nat) (hhigher : s.lease.epoch < epoch) (hup : s.twinUp = true) (hmode : s.mode.mode = .mirs)
    (hctxs : s.ctxs = []) (hwish : s.lease.wish ≠ .handoverFrom) :
    exec (.epoch epoch next) s = .next (({ s with lease := { s.lease with epoch := epoch } } : State).adoptNext next) := by
  refine congrArg Host.Outcome.next ((if_neg (State.epoch_news hhigher hup)).trans ?_)
  have hfin := State.finishAll_of_ctxs_nil (s := { s with lease := { s.lease with epoch := epoch } }) hctxs (fun op => decide (op = .mrole 0)) .ok
    (BitVec.ofNat 64 epoch)
  simp only [hfin]
  exact (if_pos hmode).trans (congrArg (State.adoptNext next) (if_neg hwish))

/-- A tide that the active unit names joins those of the standby (10 R295). -/
theorem exec_tide_announce {name : Nat} (at_ : Nat) (cs : List TwinChange) (hmode : s.mode.mode = .mirs)
    (hnew : s.twinTides.any (fun d => decide (d.name = name)) = false) :
    exec (.tide name (.announce at_ cs)) s = .next { s with
       twinTides := s.twinTides ++ [{ name := name, at_ := at_, changes := cs.map (fun c => ⟨hereChange c, 0⟩), ctx := none }] } :=
  congrArg Host.Outcome.next ((if_neg (by simp [hmode])).trans (if_neg (by simp [hnew])))

/-- The ingress of the live tiles goes on where no tide stops it. -/
def State.letInLive (s : State) : State := s.liveTiles.foldl (fun (u : State) t => if u.tideStops t then u else u.letIn t) s

/-- A tide released holds what it applied; the twin's tide is gone (10 R295). -/
theorem exec_tide_release {name : Nat} {d : Tide} (hmode : s.mode.mode = .mirs)
    (hfind : s.twinTides.find? (fun d => decide (d.name = name) && d.passed) = some d) :
    let v := d.changes.foldl (fun (u : State) e => u.entryNow d.at_ e.change) s
    let v := v.liveTiles.foldl State.setHtLen v
    exec (.tide name .release) s = .next ({ v with twinTides := v.twinTides.filter (fun e => decide (e.name ≠ name)) } : State).letInLive := by
  refine congrArg Host.Outcome.next ((if_neg (by simp [hmode])).trans ?_)
  simp only [hfind]
  rfl

/-- A tide rolled back restores what it changed (10 R295). -/
theorem exec_tide_rollback {name : Nat} {d : Tide} (hmode : s.mode.mode = .mirs) (hfind : s.twinTides.find? (fun d => decide (d.name = name)) = some d) :
    exec (.tide name .rollback) s =
      .next ({ s.restore d.undo with twinTides := s.twinTides.filter (fun e => decide (e.name ≠ name)) } : State).letInLive := by
  refine congrArg Host.Outcome.next ((if_neg (by simp [hmode])).trans ?_)
  simp only [hfind]
  rfl

/-! ### Resync -/

theorem State.twinUp_of_resyncs (h : s.resyncs = true) : s.twinUp = true := by
  unfold State.resyncs at h
  exact (Bool.and_eq_true_iff.mp h).1

/-- A message about a tile of this unit passes the checks while the twin is up. -/
theorem State.tile_passes (ht : tile < s.tiles) (hup : s.twinUp = true) : ¬ (s.tiles ≤ tile ∨ (!s.twinUp) = true) := by
  simpa [hup] using ht

/-- The serving unit takes the part of a standby's set, and a tile in service stays so (10 R326). -/
theorem exec_rset_serving {pages : List Nat} (point : Nat) (confirmed : Bool) (ht : tile < s.tiles) (hresyncs : s.resyncs = true)
    (hmode : s.mode.mode ≠ .mirs) (hsynced : (s.mt tile).synced = true) :
    let v : State := { s with lease := { s.lease with twinMirs := true } }
    exec (.rset tile point pages confirmed) s = .next (v.setMt tile { v.mt tile with rset := pages.foldl (fun (a : List Nat) p => insertNat p a) [] }) := by
  refine congrArg Host.Outcome.next ((if_neg (State.tile_passes ht (State.twinUp_of_resyncs hresyncs))).trans
    ((if_neg hmode).trans ((if_pos hresyncs).trans (if_neg ?_))))
  have hkept : (({ s with lease := { s.lease with twinMirs := true } } : State).mt tile).synced = true := hsynced
  simp [hkept]

/-- A standby that is not synced sends its part of the set (10 R326). -/
theorem exec_rset_standby (point : Nat) (pages : List Nat) (confirmed : Bool) (ht : tile < s.tiles) (hup : s.twinUp = true) (hmode : s.mode.mode = .mirs)
    (hsynced : (s.mt tile).synced = false) :
    exec (.rset tile point pages confirmed) s =
      .next (s.isahar tile xRset ([BitVec.ofNat 64 point, BitVec.ofNat 64 (b01 (s.mt tile).ckpt.isSome)] ++ (s.resyncPart tile point).map (BitVec.ofNat 64))) :=
  congrArg Host.Outcome.next ((if_neg (State.tile_passes ht hup)).trans ((if_pos hmode).trans (if_neg (by simp [hsynced]))))

theorem exec_resync_serving {r : Resync} (next pages : Nat) (follows : Bool) (config : TwinConfig) (ht : tile < s.tiles) (hresyncs : s.resyncs = true)
    (hup : s.twinUp = true) (hmode : s.mode.mode ≠ .mirs) (hr : (s.mt tile).resync = some r) :
    exec (.resync tile next pages follows config) s = .next (s.resyncStep tile r) := by
  refine congrArg Host.Outcome.next ((if_neg (State.tile_passes ht hup)).trans ((if_neg hmode).trans ((if_pos hresyncs).trans ?_)))
  rw [hr]

/-- The configuration step of a standby that no earlier frame follows: APPLIED stands before the next frame (10 R327). -/
theorem exec_resync_standby (next pages : Nat) (config : TwinConfig) (ht : tile < s.tiles) (hup : s.twinUp = true) (hmode : s.mode.mode = .mirs) :
    let u := s.takeConfig config
    let v : State := { u with lease := { u.lease with fbSince := none } }
    let n := (next + (2 ^ 48 - 1)) % 2 ^ 48
    exec (.resync tile next pages false config) s = .next (v.setMt tile { u.mt tile with
      synced := false, digestFrom := none, ckptWait := none, applied := n, received := n, store := [], gens := [], digest := BitVec.allOnes 64,
      resync := some { kind := 2, full := false, point := 0, started := true, left := pages, total := pages }, dEpoch := v.lease.epoch }) :=
  congrArg Host.Outcome.next ((if_neg (State.tile_passes ht hup)).trans ((if_pos hmode).trans (if_neg (by simp))))

/-- The configuration step of a full resync by the active unit, whose frames stay in the window (10 R327). -/
theorem State.resyncStep_config {t : Nat} {r : Resync} (hkind : r.kind = 1) (hfull : r.full = true) (hmode : s.mode.mode = .actv) :
    let todo := s.fullSet t
    s.resyncStep t r = (s.setMt t { s.mt t with
      rset := [], digest := BitVec.allOnes 64, dEpoch := s.epoch, ckptSent := none,
      resync := some { r with kind := 3, started := todo.isEmpty, todo := todo, left := todo.length, total := todo.length,
                              confirmed := false, lastSeq := (s.mt t).lastSeq } }).emit (.config t s.twinConfig) := by
  refine (if_pos hkind).trans ?_
  simp only [hfull, hmode, if_true]

/-- The next page of the set goes when the window, its channels and the rate allow it (10 R327). -/
theorem State.resyncStep_page {t p : Nat} {r : Resync} {rest : List Nat} (hkind : r.kind ≠ 1) (htodo : r.todo = p :: rest)
    (hgo : ¬ ((s.mt t).windowFull = true ∨ s.pageAway t = true ∨ 4096 ≤ (s.mt t).slots.countP (fun sl => sl.resync) ∨ s.clock < r.nextAt)) :
    let rate := s.tileP bMirr t 3
    let next := { r with started := true, todo := rest, lastSeq := (s.mt t).seq, nextAt := s.clock + (16384 + rate - 1) / rate }
    s.resyncStep t r = (s.setMt t { s.mt t with resync := some next }).pageFrame t p := by
  refine (if_neg hkind).trans ?_
  rw [htodo]
  exact if_neg hgo

/-- A resync whose first checkpoint after its last page has matched is complete (10 R328). -/
theorem exec_resyncComplete_confirmed {r : Resync} (hr : (s.mt tile).resync = some r) (hresyncs : s.resyncs = true) (hconfirmed : r.confirmed = true) :
    let v := (s.setMt tile { s.mt tile with synced := true, resync := none }).creditMsync tile r.total
    exec (.resyncComplete tile) s = .next (if v.mode.mode = .solo ∧ v.allSynced = true ∧ v.mode.soloMain = false then v.nameMode .actv 0x0D else v) := by
  show execResyncComplete tile s = _
  unfold execResyncComplete
  rw [hr]
  refine congrArg Host.Outcome.next ((if_pos ⟨hresyncs, hconfirmed⟩).trans ?_)
  simp only [Bool.not_eq_true']

end Twin

/-- Settles O42, clause by clause from what each command does under its conditions. -/
theorem resyncAndCheckpoints : Obligations.ResyncAndCheckpoints := by
  unfold Obligations.ResyncAndCheckpoints
  refine ⟨?answered, ?waits, ?lines, ?early, ?again, ?sent, ?compared, ?confirmed, ?differs, ?heartbeat, ?disciplines, ?silent, ?oldEpoch, ?epochActive,
    ?epochStandby, ?announced, ?ended, ?ownTides, ?notice, ?setTaken, ?setSent, ?stepServing, ?stepStandby, ?stepConfig, ?stepPage, ?complete⟩
  case answered =>
    rintro s tile off count seqR ⟨ht, hsome, hmany, hoff, hup, hready⟩
    exact exec_lrq_answered (State.lrq_passes ht hsome hmany hoff hup) hready
  case waits =>
    rintro s tile off count seqR ⟨ht, hsome, hmany, hoff, hup, hmode, happlied⟩
    exact exec_lrq_waits (State.lrq_passes ht hsome hmany hoff hup) hmode happlied
  case lines =>
    rintro s tile b q ⟨hmode, hfirst⟩ hasked hfree
    exact exec_lrs_serving hmode hfirst hasked hfree
  case early =>
    rintro s tile b q ⟨hmode, hinbox, hlrs, happlied⟩ hasked
    refine ⟨fun hwhy => ?_, exec_lrs_early_read hmode hinbox happlied hasked⟩
    have hempty : (s.mt tile).inbox.erase b = [] := by simp [hinbox]
    rw [exec_lrs_early_recovery hmode hinbox happlied hasked hlrs hwhy, State.tookLrs, hempty]
    rfl
  case again =>
    rintro s tile off q ⟨hfind, hdue⟩
    exact exec_lrqTimeout_due hfind hdue
  case sent =>
    rintro s tile seq tm d ⟨hgoes, hdue⟩
    exact congrArg Host.Outcome.next ((if_pos hgoes).trans (if_pos hdue))
  case compared =>
    rintro s tile seq tm d ⟨hmode, ht, hgoes⟩
    exact exec_ckpt_compared hmode ht hgoes
  case confirmed =>
    intro s tile seq tm d h
    exact congrArg Host.Outcome.next (if_pos h)
  case differs =>
    intro s tile seq h
    exact congrArg Host.Outcome.next (if_pos h)
  case heartbeat =>
    rintro s tile path tidemark ⟨hup, hmode⟩
    exact exec_sync_heartbeat tidemark hup hmode
  case disciplines =>
    rintro s tidemark ⟨hup, hmode, hon⟩
    exact exec_sync_standby tidemark hup hmode hon
  case silent =>
    intro s tile path h
    exact congrArg Host.Outcome.next (if_pos h)
  case oldEpoch =>
    intro s epoch next h
    exact congrArg Host.Outcome.next (if_pos (.inl h))
  case epochActive =>
    rintro s epoch next ⟨hhigher, hup, hmode, hctxs⟩
    exact exec_epoch_active next hhigher hup hmode hctxs
  case epochStandby =>
    rintro s epoch next ⟨hhigher, hup, hmode, hctxs, hwish⟩
    exact exec_epoch_standby next hhigher hup hmode hctxs hwish
  case announced =>
    rintro s name at_ cs ⟨hmode, hnew⟩
    exact exec_tide_announce at_ cs hmode hnew
  case ended =>
    rintro s name d ⟨hmode, hfind⟩ hpassed
    exact ⟨exec_tide_release hmode hpassed, exec_tide_rollback hmode hfind⟩
  case ownTides =>
    intro s name m hmode
    exact congrArg Host.Outcome.next (if_pos hmode)
  case notice =>
    rintro s cls inst cause ⟨hup, hnew⟩
    exact congrArg Host.Outcome.next (if_pos ⟨hup, by simp only [hnew, Bool.not_false]⟩)
  case setTaken =>
    rintro s tile point pages confirmed ⟨ht, hresyncs, hmode, hsynced⟩
    exact exec_rset_serving point confirmed ht hresyncs hmode hsynced
  case setSent =>
    rintro s tile point pages confirmed ⟨ht, hup, hmode, hsynced⟩
    exact exec_rset_standby point pages confirmed ht hup hmode hsynced
  case stepServing =>
    rintro s tile next pages follows config r ⟨ht, hresyncs, hup, hmode, hr⟩
    exact exec_resync_serving next pages follows config ht hresyncs hup hmode hr
  case stepStandby =>
    rintro s tile next pages config ⟨ht, hup, hmode⟩
    exact exec_resync_standby next pages config ht hup hmode
  case stepConfig =>
    rintro s t r ⟨hkind, hfull, hmode⟩
    exact State.resyncStep_config hkind hfull hmode
  case stepPage =>
    rintro s t p r rest ⟨hkind, htodo, hroom, haway, hdue, hfew⟩
    exact State.resyncStep_page hkind htodo (by simp only [hroom, haway, Bool.false_eq_true, false_or]; omega)
  case complete =>
    rintro s tile r ⟨hr, hresyncs, hconfirmed⟩
    exact exec_resyncComplete_confirmed hr hresyncs hconfirmed

end Sys2Proof.Machine
end

section
/-! The Isahar link, data messages, packets, receipts and the frames of the standby (10 R292 to R310): each command under its conditions. -/

namespace Sys2Proof.Machine

section Link
variable {s : State} {tile : Nat}

/-! ### Training of the link -/

/-- The link of a tile trains in this state (10 R292, R294). -/
def State.linkTrains (s : State) (tile : Nat) : Prop :=
  tile < s.tiles ∧ s.tileFenced tile = false ∧ s.pairId ≠ 0 ∧ s.tap.scanHold = false ∧ s.mode.recovery = false ∧ s.mode.leaving = false ∧
    s.mode.mode ≠ .stby ∧ s.mode.mode ≠ .save

/-- What the peer sent fits this unit (10 R292; 14 R436). -/
def State.peerFits (s : State) (part tiles pair flight : Nat) (gcm : Bool) : Prop :=
  part = fld (s.fuseWord 4) 2 0 ∧ tiles = s.tiles ∧ pair = s.pairId ∧ flight ≤ 2000 ∧ gcm = decide (s.devP bCiph 0 = 1)

/-- A path that did not train is fenced, unless it was before (10 R296). -/
def State.fencePath (s : State) (tile path : Nat) (ok before : Bool) : State := if ok ∨ before then s else s.raiseFence 0x8 path tile 0x41 0

/-- A link is taken with its paths, rate and flight (10 R296). -/
def State.takeLink (s : State) (tile flight rate : Nat) (gcm up0 up1 : Bool) : State :=
  s.setMt tile { s.mt tile with up0, up1, rate := if 128 ≤ min rate (s.tileP bMirr tile 7) then 128 else 64, flight, gcm, last0 := s.clock, last1 := s.clock }

/-- The first link with a path forms the pair (10 R296; 01 R34). -/
def State.formPair (v : State) (forms : Bool) (master : Nat) : State :=
  if v.noPaths then v
  else
    let w : State := if forms then { v.stepForward master with lease := { v.lease with twinLost := false } } else v
    if forms then w.sendSummary else w

theorem State.formPair_eq (v : State) (forms : Bool) (master : Nat) : v.formPair forms master =
    if v.noPaths then v
    else if forms then ({ v.stepForward master with lease := { v.lease with twinLost := false } } : State).sendSummary
    else v := by
  cases forms <;> rfl

theorem State.linkTrains.passes (h : s.linkTrains tile) : ¬ (s.tiles ≤ tile ∨ s.tileFenced tile = true ∨ s.pairId = 0 ∨ s.tap.scanHold = true ∨
    s.mode.leaving = true ∨ s.mode.recovery = true ∨ [Mode.stby, .save].contains s.mode.mode = true) := by
  obtain ⟨ht, hfence, hpair, hscan, hrecovery, hleaving, hstby, hsave⟩ := h
  simp [hfence, hpair, hscan, hrecovery, hleaving, hstby, hsave, ht]

/-- A peer that does not fit fences every path (10 R292). -/
theorem exec_isaharLinkTrained_refused {part tiles pair flight : Nat} (master rate : Nat) (gcm ok0 ok1 : Bool) (htrains : s.linkTrains tile)
    (h : part ≠ fld (s.fuseWord 4) 2 0 ∨ tiles ≠ s.tiles ∨ pair ≠ s.pairId ∨ 2000 < flight) :
    exec (.isaharLinkTrained tile part tiles pair master flight rate gcm ok0 ok1) s =
      .next (s.tileList.foldl (fun (s : State) t => (s.raiseFence 0x8 0 t 0x43 0).raiseFence 0x8 1 t 0x43 0) s) := by
  have hrefused : s.pairRefused part tiles pair flight = true := by
    unfold State.pairRefused
    refine decide_eq_true ?_
    tauto
  exact congrArg Host.Outcome.next ((if_neg htrains.passes).trans (if_pos (by simp [hrefused])))

/-- A peer that fits: the paths that did not train are fenced, and the link is taken (10 R292, R296). -/
theorem exec_isaharLinkTrained_fits {part tiles pair flight : Nat} {gcm : Bool} (master rate : Nat) (ok0 ok1 : Bool) (htrains : s.linkTrains tile)
    (hfits : s.peerFits part tiles pair flight gcm) :
    let u := (s.fencePath tile 0 ok0 (s.fenced 0x8 0 tile)).fencePath tile 1 ok1 (s.fenced 0x8 1 tile)
    exec (.isaharLinkTrained tile part tiles pair master flight rate gcm ok0 ok1) s =
      .next ((u.takeLink tile flight rate gcm (ok0 && !s.fenced 0x8 0 tile) (ok1 && !s.fenced 0x8 1 tile)).formPair u.noPaths master) := by
  obtain ⟨hpart, htiles, hpair, hflight, hgcm⟩ := hfits
  have hrefused : s.pairRefused part tiles pair flight = false := by
    have hown : s.pairId ≠ 0 := htrains.2.2.1
    simp [State.pairRefused, hpart, htiles, hpair, hown, hflight]
  exact congrArg Host.Outcome.next ((if_neg htrains.passes).trans (if_neg (by simp [hrefused, hgcm])))

/-! ### Data messages sent -/

/-- The frames of a tile that no message has carried yet. -/
def State.backlog (s : State) (tile : Nat) : List Frame := ((s.mt tile).slots.filter (fun sl => sl.sent.isNone)).map Slot.frame

/-- FRAME_SEND marks the frames that a message takes as sent, and sends them (10 R301, R303, R304). -/
theorem exec_frameSend_some {path c i : Nat} {f : Frame} {r fs : List Frame} (hready : s.backlog tile = f :: r)
    (hpack : packFrames f.tm (65536 - (s.mt tile).unitsOut) 0 (if (s.mt tile).gcm then 52 else 24) none (f :: r) = fs) (hfs : fs ≠ [])
    (hcarrier : s.carrier tile = some c) (htwin : s.lease.twinLost = false) (hfree : s.freeMsgid tile 0 = some i) :
    let last := (fs.getLast?.getD f).seq
    let v := s.setMt tile { s.mt tile with
      slots := (s.mt tile).slots.map (fun sl => if fs.any (fun g => decide (g.seq = sl.frame.seq)) then { sl with sent := some s.clock } else sl) }
    let v := v.sendMsg c tile xData 24 f.seq ((last + 2 ^ 48 - f.seq) % 2 ^ 48 + 1) path
      (msgHeader f.epoch fs.length false tile f.seq f.tm ++ fs.flatMap (fun g => g.wire f.tm))
    exec (.frameSend tile path) s = .next (fs.foldl (fun (s : State) _ => s.tally tile 19 0x0001 {}) v) := by
  have hgo : ¬ (s.lease.twinLost || fs.isEmpty || (s.freeMsgid tile 0).isNone) = true := by simp [htwin, hfs, hfree]
  unfold State.backlog at hready
  show execFrameSend tile path s = _
  unfold execFrameSend
  simp only [hready, hpack, hcarrier, if_neg hgo]

/-- A message of one frame. -/
theorem exec_frameSend_one {path c i : Nat} {f : Frame} {r : List Frame} (hready : s.backlog tile = f :: r)
    (hpack : packFrames f.tm (65536 - (s.mt tile).unitsOut) 0 (if (s.mt tile).gcm then 52 else 24) none (f :: r) = [f])
    (hcarrier : s.carrier tile = some c) (htwin : s.lease.twinLost = false) (hfree : s.freeMsgid tile 0 = some i) :
    let v := s.setMt tile { s.mt tile with slots := (s.mt tile).slots.map (fun sl => if f.seq = sl.frame.seq then { sl with sent := some s.clock } else sl) }
    exec (.frameSend tile path) s =
      .next ((v.sendMsg c tile xData 24 f.seq 1 path (msgHeader f.epoch 1 false tile f.seq f.tm ++ f.wire f.tm)).tally tile 19 0x0001 {}) := by
  have hframes : (f.seq + 2 ^ 48 - f.seq) % 2 ^ 48 + 1 = 1 := by omega
  have hmark (sl : Slot) : [f].any (fun g => decide (g.seq = sl.frame.seq)) = true ↔ f.seq = sl.frame.seq := by simp
  rw [exec_frameSend_some hready hpack (List.cons_ne_nil f []) hcarrier htwin hfree]
  simp only [hmark, List.getLast?_singleton, Option.getD_some, hframes, List.length_singleton, List.flatMap_singleton, List.foldl_cons, List.foldl_nil]

theorem exec_frameSend_none {path : Nat} (h : (s.mt tile).slots.all (fun sl => sl.sent.isSome) = true) : exec (.frameSend tile path) s = .next s := by
  have hnone : (s.mt tile).slots.filter (fun sl => sl.sent.isNone) = [] := by
    simpa [List.filter_eq_nil_iff, Option.isSome_iff_ne_none] using h
  show execFrameSend tile path s = _
  unfold execFrameSend
  simp only [hnone, List.map_nil]

/-! ### Packets -/

/-- A packet that its link carries and that holds 1 to 256 bytes passes the first check (10 R298). -/
theorem State.packet_passes {path : Nat} {payload : List Byte} (hup : s.pathUp tile path = true) (hsome : payload ≠ []) (hmany : payload.length ≤ 256) :
    ¬ (!s.pathUp tile path || payload.isEmpty || decide (256 < payload.length)) = true := by
  simp [hup, hsome, hmany]

/-- The envelope errors of the last second on the link of a tile, with one more on a path (10 R308). -/
def State.errsWith (s : State) (tile path : Nat) : List (Nat × Nat) :=
  (path, s.clock) :: (s.mt tile).errs.filter (fun e => decide (s.clock < e.2 + sec))

/-- A packet whose envelope fails its check is discarded and counted (10 R308). -/
theorem exec_messageReassembly_discarded {path envelope : Nat} {payload : List Byte} (hcarrier : s.carrier tile = some tile)
    (hpasses : ¬ (!s.pathUp tile path || payload.isEmpty || decide (256 < payload.length)) = true) (hcrc : crc4 (envelope / 16 % 2 ^ 28) ≠ envelope % 16)
    (hfew : (s.errsWith tile path).countP (fun e => decide (e.1 = path)) ≤ s.tileP bMirr tile 2) :
    exec (.messageReassembly tile path envelope payload) s = .next (s.setMt tile { s.mt tile with errs := s.errsWith tile path }) := by
  show execMessageReassembly tile path envelope payload s = _
  unfold execMessageReassembly
  simp only [hcarrier, Option.getD_some]
  exact congrArg Host.Outcome.next ((if_neg hpasses).trans ((if_pos hcrc).trans (if_neg (Nat.not_lt.mpr hfew))))

/-- The first packet of a message of several waits with it (10 R308, R309). -/
theorem exec_messageReassembly_begins {path envelope : Nat} {payload : List Byte} (hcarrier : s.carrier tile = some tile)
    (hpasses : ¬ (!s.pathUp tile path || payload.isEmpty || decide (256 < payload.length)) = true) (hcrc : crc4 (envelope / 16 % 2 ^ 28) = envelope % 16)
    (hpath : path ≠ 0) (hsome : payload ≠ [])
    (hchan : envelope / 16 % 4 ≠ 3) (hindex : envelope / 2 ^ 11 % 32 ≤ envelope / 2 ^ 6 % 32) (hlast : 0 < envelope / 2 ^ 6 % 32)
    (hnew : (s.mt tile).reasm.find? (fun r => decide (r.chan = envelope / 16 % 4 ∧ r.msgid = envelope / 2 ^ 16 % 2 ^ 16)) = none) :
    let v := s.setMt tile { s.mt tile with last1 := s.clock }
    let m : Reasm := { chan := envelope / 16 % 4, msgid := envelope / 2 ^ 16 % 2 ^ 16, last := envelope / 2 ^ 6 % 32, since := s.clock, nakAt := s.clock }
    exec (.messageReassembly tile path envelope payload) s =
      .next (v.setReasm tile { m with parts := Store.write [] (envelope / 2 ^ 11 % 32) payload [] } true) := by
  have hpart : Store.write [] (envelope / 2 ^ 11 % 32) payload [] = [(envelope / 2 ^ 11 % 32, payload)] := if_neg hsome
  have hfirst : ¬ (envelope / 2 ^ 6 % 32 < envelope / 2 ^ 11 % 32 ∨ Store.read [] (envelope / 2 ^ 11 % 32) ([] : List Byte) ≠ []) :=
    not_or.mpr ⟨Nat.not_lt.mpr hindex, fun h => h rfl⟩
  have hwaits : [(envelope / 2 ^ 11 % 32, payload)].length ≤ envelope / 2 ^ 6 % 32 := hlast
  show execMessageReassembly tile path envelope payload s = _
  unfold execMessageReassembly
  simp only [hcarrier, Option.getD_some]
  refine congrArg Host.Outcome.next ((if_neg hpasses).trans ((if_neg (not_not.mpr hcrc)).trans ?_))
  simp only [if_neg hpath, State.mt_setMt, State.setMt_clock, hnew, Option.getD_none, hpart]
  exact (if_neg hchan).trans ((if_neg hfirst).trans (if_pos hwaits))

/-- A message still incomplete asks for what it misses (10 R309). -/
theorem exec_reassemblyTimeout_due {chan msgid : Nat} {m : Reasm}
    (hfind : (s.mt tile).reasm.find? (fun r => decide (r.chan = chan ∧ r.msgid = msgid)) = some m)
    (hdue : s.due m.nakAt (20 * us) = true) :
    exec (.reassemblyTimeout tile chan msgid) s =
      .next ((s.setReasm tile { m with nakAt := s.clock } true).isahar tile xNak
        [BitVec.ofNat 64 chan, BitVec.ofNat 64 msgid, BitVec.ofNat 64 m.bitmap]) := by
  show execReassemblyTimeout tile chan msgid s = _
  unfold execReassemblyTimeout
  rw [hfind]
  exact congrArg Host.Outcome.next (if_pos hdue)

/-! ### NAK -/

/-- The packets of a message that a NAK asks for: those missing from the bitmap, or all of them (10 R309). -/
def OutMsg.missing (m : OutMsg) (bitmap : Nat) : List Nat := (List.range (m.last + 1)).filter (fun i => bitmap = 0 || !bitmap.testBit i)

/-- A message has had one more NAK, and its frames count as sent again (10 R309). -/
def State.heardNak (s : State) (tile : Nat) (m : OutMsg) : State :=
  let v := s.setMt tile { s.mt tile with
    outMsgs := (s.mt tile).outMsgs.map (fun q => if q = m then { m with naks := m.naks + 1, sentAt := s.clock } else q),
    slots := (s.mt tile).slots.map (fun sl =>
      if sl.sent.isSome = true ∧ (sl.frame.seq + 2 ^ 48 - m.seq0) % 2 ^ 48 < m.frames then { sl with sent := some s.clock } else sl) }
  (v.tally tile 19 0x0003 {}).tally tile 19 0x0002 {}

/-- Packets of a message go again on the link that carries the tile. -/
def State.sendAgain (w : State) (tile chan msgid : Nat) (missing : List Nat) : State :=
  match w.carrier tile with
  | some d => w.emit (.isaharAgain d tile chan msgid (missing.foldl (fun a i => a + 2 ^ i) 0))
  | none => w

theorem exec_nak_unknown {chan msgid : Nat} (bitmap : Nat) (hfind : (s.mt tile).outMsgs.find? (fun m => decide (m.chan = chan ∧ m.msgid = msgid)) = none) :
    exec (.nak tile chan msgid bitmap) s = .next s := by
  show execNak tile chan msgid bitmap s = _
  unfold execNak
  simp only [hfind]

section Nak
variable {chan msgid : Nat} (bitmap : Nat) {m : OutMsg} (hfind : (s.mt tile).outMsgs.find? (fun m => decide (m.chan = chan ∧ m.msgid = msgid)) = some m)
include hfind

/-- The first three NAKs of a message fence no path. -/
theorem exec_nak_few (hfew : m.naks < 3) :
    exec (.nak tile chan msgid bitmap) s = .next ((s.heardNak tile m).sendAgain tile chan msgid (m.missing bitmap)) := by
  have hfourth : ¬ 4 ≤ m.naks + 1 := by omega
  show execNak tile chan msgid bitmap s = _
  unfold execNak
  simp only [hfind, if_neg hfourth, Bool.and_eq_true, decide_eq_true_eq]
  rfl

/-- The fourth NAK of a message fences the path that carried most of what it asks for (10 R309). -/
theorem exec_nak_many {c : Nat} (hmany : 3 ≤ m.naks) (hcarrier : s.carrier tile = some c) (hup0 : s.pathUp c 0 = true) (hup1 : s.pathUp c 1 = true) :
    let n0 := (m.missing bitmap).countP (fun i => decide ((m.onPath + i) % 2 = 0))
    let most := if (m.missing bitmap).length - n0 < n0 then 0 else 1
    exec (.nak tile chan msgid bitmap) s = .next (((s.heardNak tile m).raiseFence 0x8 most c 0x42 0).sendAgain tile chan msgid (m.missing bitmap)) := by
  have hfourth : 4 ≤ m.naks + 1 := by omega
  show execNak tile chan msgid bitmap s = _
  unfold execNak
  simp only [hfind, hcarrier, Option.getD_some, hup0, hup1, Bool.and_self, if_true, if_pos hfourth, Bool.and_eq_true, decide_eq_true_eq]
  rfl

end Nak

/-! ### Frames received, receipts and frames applied -/

theorem exec_frameReceive_some {b : List Byte} {t : State} {ws : List Word} (hfind : (s.mt tile).inbox.find? (fun b => !msgLrs b) = some b)
    (hframes : (msgFrames b).foldl (fun (p : State × List Word) f => let (s, w) := p.1.receiveFrame tile f; (s, p.2 ++ w))
      (s.setMt tile { s.mt tile with inbox := (s.mt tile).inbox.erase b }, []) = (t, ws)) :
    exec (.frameReceive tile) s = .next (t.sendReceipts tile (ws.length / 26 + 1) ws) := by
  show execFrameReceive tile s = _
  unfold execFrameReceive
  simp only [hfind]
  exact congrArg (fun p : State × List Word => Host.Outcome.next (p.1.sendReceipts tile (p.2.length / 26 + 1) p.2)) hframes

/-- What a receipt does, by its generation and status, to the slot that it names (10 R304, R306). -/
theorem exec_receipt {gen seq : Nat} {sl : Slot} (hfind : (s.mt tile).slots.find? (fun sl => decide (sl.frame.seq % 8192 = seq % 8192)) = some sl)
    (status applied : Nat) :
    exec (.receipt tile gen seq status applied) s = .next (
      if sl.frame.seq / 8192 % 65536 ≠ gen then s
      else if status = 0x41 then { s with lease := { s.lease with stopped := true }, unacked := [] }.nameMode .mirs 4
      else if status = 0 then
        let v := s.setMt tile { s.mt tile with slots := (s.mt tile).slots.map (fun q => if q = sl then { q with ok := true } else q) }
        (v.freeSlots tile applied).ackSeq tile sl.frame.seq
      else s) := by
  show execReceipt tile gen seq status applied s = _
  unfold execReceipt
  simp only [hfind]

/-- A frame without a receipt in time is to be sent again (10 R307). -/
theorem exec_receiptTimeout_due {seq t0 : Nat} {sl : Slot} (hfind : (s.mt tile).slots.find? (fun sl => decide (sl.frame.seq = seq) && !sl.ok) = some sl)
    (hsent : sl.sent = some t0) (hdue : s.due t0 (s.tileP bMirr tile 1 * us) = true) (htwin : s.lease.twinLost = false) :
    let v := s.setMt tile { s.mt tile with slots := (s.mt tile).slots.map (fun q => if q = sl then { q with sent := none } else q) }
    exec (.receiptTimeout tile seq) s = .next (v.tally tile 19 0x0002 {}) := by
  show execReceiptTimeout tile seq s = _
  unfold execReceiptTimeout
  simp only [hfind, hsent]
  exact congrArg Host.Outcome.next (if_pos ⟨hdue, by simp [htwin]⟩)

theorem exec_frameApply_next (hmode : s.mode.mode = .mirs) (ht : tile < s.tiles) (hfence : s.tileFenced tile = false) (hstops : s.tideStops tile = false) :
    exec (.frameApply tile) s = .next (((s.applyNext tile false).afterApply tile).tryTakeOver) :=
  congrArg Host.Outcome.next (if_pos ⟨hmode, ht, by simp [hfence], by simp [hstops]⟩)

theorem exec_frameApply_stopped (h : s.tideStops tile = true ∨ s.mode.mode ≠ .mirs) : exec (.frameApply tile) s = .next s := by
  refine congrArg Host.Outcome.next (if_neg ?_)
  rintro ⟨hmode, -, -, hstops⟩
  obtain hheld | hother := h
  · simp [hheld] at hstops
  · exact hother hmode

end Link

/-- Settles O41, clause by clause from what each command does under its conditions. -/
theorem framesAndReceipts : Obligations.FramesAndReceipts := by
  unfold Obligations.FramesAndReceipts
  refine ⟨?refused, ?taken, ?untrained, ?sendOne, ?send, ?sendNone, ?discarded, ?begins, ?asksAgain, ?nakUnknown, ?nakFew, ?nakMany, ?receive, ?frame,
    ?otherGen, ?epoch, ?ok, ?sentAgain, ?apply, ?stopped⟩
  case refused =>
    rintro s tile part tiles pair master flight rate gcm ok0 ok1 ⟨ht, hfence, hpair, hscan, hrecovery, hleaving, hmode⟩ h
    exact exec_isaharLinkTrained_refused master rate gcm ok0 ok1 ⟨ht, hfence, hpair, hscan, hrecovery, hleaving, by simp [hmode], by simp [hmode]⟩ h
  case taken =>
    intro s tile part tiles pair master flight rate gcm htrains hfits
    exact (exec_isaharLinkTrained_fits master rate true true htrains hfits).trans (congrArg Host.Outcome.next (State.formPair_eq ..))
  case untrained =>
    rintro s tile part tiles pair master flight rate gcm htrains ⟨hpart, htiles, hpair, hflight, hgcm, hbefore⟩
    have hlink := exec_isaharLinkTrained_fits master rate true false htrains ⟨hpart, htiles, hpair, hflight, hgcm⟩
    have hfenced : (s.fencePath tile 0 true (s.fenced 0x8 0 tile)).fencePath tile 1 false (s.fenced 0x8 1 tile) = s.raiseFence 0x8 1 tile 0x41 0 :=
      if_neg (by simp [hbefore])
    rw [hfenced] at hlink
    exact hlink.trans (congrArg Host.Outcome.next (State.formPair_eq ..))
  case sendOne =>
    rintro s tile path c i f r hready hpack ⟨hcarrier, htwin, hfree⟩
    exact exec_frameSend_one hready hpack hcarrier htwin hfree
  case send =>
    rintro s tile path c i f r fs hready ⟨hpack, hfs⟩ ⟨hcarrier, htwin, hfree⟩
    exact exec_frameSend_some hready hpack hfs hcarrier htwin hfree
  case sendNone =>
    intro s tile path h
    exact exec_frameSend_none h
  case discarded =>
    rintro s tile path envelope payload ⟨hcarrier, hup, hsome, hmany, hcrc⟩ hfew
    exact exec_messageReassembly_discarded hcarrier (State.packet_passes hup hsome hmany) hcrc hfew
  case begins =>
    rintro s tile path envelope payload ⟨hcarrier, hup, hpath, hsome, hmany, hcrc⟩ ⟨hchan, hindex, hlast⟩ hnew
    exact exec_messageReassembly_begins hcarrier (State.packet_passes hup hsome hmany) hcrc hpath hsome hchan hindex hlast hnew
  case asksAgain =>
    rintro s tile chan msgid m ⟨hfind, hdue⟩
    exact exec_reassemblyTimeout_due hfind hdue
  case nakUnknown =>
    intro s tile chan msgid bitmap hfind
    exact exec_nak_unknown bitmap hfind
  case nakFew =>
    rintro s tile chan msgid bitmap m ⟨hfind, hfew⟩
    exact exec_nak_few bitmap hfind hfew
  case nakMany =>
    rintro s tile chan msgid bitmap c m ⟨hfind, hmany, hcarrier, hup0, hup1⟩
    exact exec_nak_many bitmap hfind hmany hcarrier hup0 hup1
  case receive =>
    intro s tile b t ws hfind hframes
    exact exec_frameReceive_some hfind hframes
  case frame =>
    intro s t f
    rfl
  case otherGen =>
    rintro s tile gen seq status applied sl ⟨hfind, hgen⟩
    rw [exec_receipt hfind, if_pos hgen]
  case epoch =>
    rintro s tile gen seq applied sl ⟨hfind, hgen⟩
    rw [exec_receipt hfind, if_neg (not_not.mpr hgen), if_pos rfl]
  case ok =>
    rintro s tile gen seq applied sl ⟨hfind, hgen⟩
    rw [exec_receipt hfind, if_neg (not_not.mpr hgen), if_neg (by decide), if_pos rfl]
  case sentAgain =>
    rintro s tile seq t0 sl ⟨hfind, hsent, hdue, htwin⟩
    exact exec_receiptTimeout_due hfind hsent hdue htwin
  case apply =>
    rintro s tile ⟨hmode, ht, hfence, hstops⟩
    exact exec_frameApply_next hmode ht hfence hstops
  case stopped =>
    intro s tile h
    exact exec_frameApply_stopped h

end Sys2Proof.Machine
end

section
/-! The Batten bus (11 R356 to R360): who asks, who wins an arbitration, and what an arbitration and a BCLK leave. -/

namespace Sys2Proof.Machine

/-- The element of least key is one of the list's. -/
theorem leastBy_mem {α : Type} {key : α → Nat} {l : List α} {b : α} (h : leastBy key l = some b) : b ∈ l := by
  induction l generalizing b with
  | nil => cases h
  | cons a l ih =>
    unfold leastBy at h
    split at h
    · cases h
      exact List.mem_cons_self
    · next c hc =>
      split at h <;> cases h
      · exact List.mem_cons_self
      · exact List.mem_cons_of_mem a (ih hc)

/-- Of a rising list the element of least key, and of equals the least, is the one that is found. -/
theorem leastBy_of_rising {key : Nat → Nat} {l : List Nat} {r : Nat} (hrising : l.Pairwise (· < ·)) (hr : r ∈ l)
    (hleast : ∀ q ∈ l, key r < key q ∨ (key r = key q ∧ r ≤ q)) : leastBy key l = some r := by
  induction l with
  | nil => cases hr
  | cons a l ih =>
    obtain ⟨ha, hl⟩ := List.pairwise_cons.mp hrising
    unfold leastBy
    rcases List.mem_cons.mp hr with rfl | hr
    · split
      · rfl
      · next b hb => exact if_pos (by rcases hleast b (List.mem_cons_of_mem _ (leastBy_mem hb)) with h | ⟨h, -⟩ <;> omega)
    · have hlt := ha r hr
      rw [ih hl hr fun q hq => hleast q (List.mem_cons_of_mem a hq)]
      exact if_neg (by rcases hleast a List.mem_cons_self with h | ⟨-, h⟩ <;> omega)

/-! ### Requesters of a bus -/

@[simp] theorem TierTile.bat_setBat (x : TierTile) (r : Nat) (b : Batt) : (x.setBat r b).bat r = b := Store.read_write_same _ _ _ _

theorem TierTile.bat_setBat_ne (x : TierTile) {q r : Nat} (b : Batt) (h : q ≠ r) : (x.setBat r b).bat q = x.bat q := Store.read_write_ne _ _ _ _ h

@[simp] theorem TierTile.owner_setBat (x : TierTile) (r : Nat) (b : Batt) : (x.setBat r b).owner = x.owner := rfl

/-- A request of a requester that asks for nothing yet is registered (11 R357). -/
theorem TierTile.ask_of_not_req {x : TierTile} {q : BattAsk} (h : (x.bat q.requester).req = false) :
    x.ask q = x.setBat q.requester { req := true, urgency := q.urgency % 4, beats := max 1 (min q.beats 64), tag := q.tag, dfa := q.dfa } :=
  if_neg (by simp [h])

@[simp] theorem TierTile.owner_lose (x : TierTile) (rs : List Nat) : (x.lose rs).owner = x.owner := by
  induction rs generalizing x with
  | nil => rfl
  | cons r rs ih => exact ih _

theorem TierTile.bat_lose_of_not_mem (x : TierTile) {rs : List Nat} {q : Nat} (h : q ∉ rs) : (x.lose rs).bat q = x.bat q := by
  induction rs generalizing x with
  | nil => rfl
  | cons r rs ih =>
    obtain ⟨hqr, hq⟩ := not_or.mp (List.mem_cons.not.mp h)
    exact (ih _ hq).trans (x.bat_setBat_ne _ hqr)

/-- Each of those who lose waits once more (11 R358). -/
theorem TierTile.bat_lose_of_mem (x : TierTile) {rs : List Nat} {q : Nat} (hnodup : rs.Nodup) (h : q ∈ rs) :
    (x.lose rs).bat q = { x.bat q with wait := (x.bat q).wait + 1 } := by
  induction rs generalizing x with
  | nil => cases h
  | cons r rs ih =>
    obtain ⟨hr, hrs⟩ := List.nodup_cons.mp hnodup
    show ((x.setBat r { x.bat r with wait := (x.bat r).wait + 1 }).lose rs).bat q = _
    rcases List.mem_cons.mp h with rfl | hq
    · rw [TierTile.bat_lose_of_not_mem _ hr, TierTile.bat_setBat]
    · rw [ih _ hrs hq, TierTile.bat_setBat_ne _ _ (ne_of_mem_of_not_mem hq hr)]

/-- The requesters that take part come in rising order. -/
theorem State.battAsks_rising (s : State) (t : Nat) (x : TierTile) : (s.battAsks t x).Pairwise (· < ·) := List.pairwise_lt_range.filter _

theorem State.battAsks_nodup (s : State) (t : Nat) (x : TierTile) : (s.battAsks t x).Nodup := List.nodup_range.filter _

/-- The owner of the bus does not ask for it. -/
theorem State.owner_not_mem_battAsks (s : State) (t : Nat) {x : TierTile} {o : Nat} (h : x.owner = some o) : o ∉ s.battAsks t x := by
  simp [State.battAsks, h]

/-! ### The winner -/

/-- The lowest of the requesters whose wait has reached its limit is the one due (11 R358). -/
theorem State.battDue_of_least {s : State} {t r : Nat} {x : TierTile} (hr : r ∈ s.battAsks t x) (hlimit : s.tileP bBatt t r ≤ (x.bat r).wait)
    (hleast : ∀ q ∈ s.battAsks t x, s.tileP bBatt t q ≤ (x.bat q).wait → r ≤ q) : s.battDue t x = some r := by
  obtain ⟨hrange, hasks⟩ := List.mem_filter.mp hr
  unfold State.battDue State.battAsks
  rw [List.find?_filter]
  refine List.find?_range_eq_some.mpr ⟨by simp only [hasks, decide_eq_true hlimit]; decide, hrange, fun q hq => ?_⟩
  by_contra hdue
  simp only [Bool.not_eq_true', Bool.not_eq_false, decide_eq_true_eq, Bool.and_eq_true] at hdue
  have hlt : q < 13 := hq.trans (List.mem_range.mp hrange)
  have hle := hleast q (List.mem_filter.mpr ⟨List.mem_range.mpr hlt, by simpa using hdue.1⟩) hdue.2
  omega

/-- A transfer that has won by force keeps the bus to its end (11 R358). -/
theorem State.battWin_of_ownerForced (s : State) (t : Nat) {x : TierTile} (howner : x.owner.isSome = true) (hforced : x.ownerForced = true) :
    s.battWin t x = none := by
  unfold State.battWin
  rw [howner, hforced]
  rfl

section Free

variable {s : State} {t : Nat} {x : TierTile} (hfree : x.owner = none ∨ x.ownerForced = false)
include hfree

theorem TierTile.not_held : ¬ (x.owner.isSome && x.ownerForced) = true := by
  rcases hfree with h | h <;> simp [h]

theorem State.battWin_of_due {r : Nat} (hdue : s.battDue t x = some r) : s.battWin t x = some (r, true) := by
  unfold State.battWin
  rw [if_neg (TierTile.not_held hfree), hdue]

/-- With none due, the requester of highest urgency wins a bus without an owner, or one whose owner is less urgent (11 R356, R357). -/
theorem State.battWin_of_top {r : Nat} (hdue : s.battDue t x = none) (htop : s.battTop t x = some r)
    (hurgent : ∀ o, x.owner = some o → (x.bat o).urgency < (x.bat r).urgency) : s.battWin t x = some (r, false) := by
  unfold State.battWin
  rw [if_neg (TierTile.not_held hfree), hdue, htop]
  dsimp only
  split
  · rfl
  · next o ho => exact if_pos (hurgent o ho)

end Free

/-- The requester of highest urgency, and of equals the lowest, is the top one (11 R357). -/
theorem State.battTop_of_urgent {s : State} {t r : Nat} {x : TierTile} (hr : r ∈ s.battAsks t x) (hlevel : (x.bat r).urgency ≤ 3)
    (hurgent : ∀ q ∈ s.battAsks t x, (x.bat q).urgency < (x.bat r).urgency ∨ ((x.bat q).urgency = (x.bat r).urgency ∧ r ≤ q)) :
    s.battTop t x = some r :=
  leastBy_of_rising (s.battAsks_rising t x) hr fun q hq => by
    rcases hurgent q hq with h | ⟨h, hle⟩
    · left; omega
    · right; omega

/-- An owner that none of those who ask exceeds in urgency keeps the bus, with none due. -/
theorem State.battWin_of_owner_urgent {s : State} {t o : Nat} {x : TierTile} (howner : x.owner = some o) (hdue : s.battDue t x = none)
    (hurgent : ∀ q ∈ s.battAsks t x, (x.bat q).urgency ≤ (x.bat o).urgency) : s.battWin t x = none := by
  unfold State.battWin
  split
  · rfl
  · rw [hdue]
    dsimp only
    split
    · rfl
    · next r htop =>
      rw [howner]
      exact if_neg (Nat.not_lt.mpr (hurgent r (leastBy_mem htop)))

/-! ### The arbitration -/

/-- The owner that loses the bus writes its progress and waits once more (11 R357). -/
def TierTile.leaveBus (x : TierTile) : Option Nat → TierTile
  | some o => x.setBat o { x.bat o with valid := true, wait := (x.bat o).wait + 1 }
  | none => x

/-- The winner takes the bus. -/
def TierTile.grantTo (x : TierTile) (r : Nat) (f : Bool) : TierTile :=
  { x.setBat r { x.bat r with wait := 0, valid := false, forced := if (x.bat r).done = 0 then f else (x.bat r).forced } with owner := some r, ownerForced := f }

theorem State.arbitrate_of_win {s : State} {t r : Nat} {f : Bool} {x : TierTile} (h : s.battWin t x = some (r, f)) :
    s.arbitrate t x false = (((x.lose ((s.battAsks t x).filter (fun q => decide (q ≠ r)))).leaveBus x.owner).grantTo r f, some (r, f)) := by
  unfold State.arbitrate
  rw [if_neg Bool.false_ne_true, h]
  cases hx : x.owner <;> rfl

theorem TierTile.bat_grantTo_wait (x : TierTile) (r : Nat) (f : Bool) : ((x.grantTo r f).bat r).wait = 0 :=
  congrArg Batt.wait (x.bat_setBat r _)

theorem TierTile.bat_grantTo_ne (x : TierTile) {q r : Nat} (f : Bool) (h : q ≠ r) : (x.grantTo r f).bat q = x.bat q := x.bat_setBat_ne _ h

theorem TierTile.bat_leaveBus_ne (x : TierTile) {q : Nat} {o : Option Nat} (h : o ≠ some q) : (x.leaveBus o).bat q = x.bat q := by
  cases o with
  | none => rfl
  | some o => exact x.bat_setBat_ne _ fun e => h (congrArg some e.symm)

/-- Each of the others that ask waits once more. -/
theorem State.arbitrate_loser {s : State} {t r q : Nat} {f : Bool} {x : TierTile} (hwin : s.battWin t x = some (r, f)) (hq : q ∈ s.battAsks t x)
    (hqr : q ≠ r) : ((s.arbitrate t x false).1.bat q).wait = (x.bat q).wait + 1 := by
  have hothers : q ∈ (s.battAsks t x).filter (fun q => decide (q ≠ r)) := List.mem_filter.mpr ⟨hq, decide_eq_true hqr⟩
  rw [State.arbitrate_of_win hwin, TierTile.bat_grantTo_ne _ f hqr, TierTile.bat_leaveBus_ne _ fun h => s.owner_not_mem_battAsks t h hq,
    TierTile.bat_lose_of_mem x ((s.battAsks_nodup t x).filter _) hothers]

/-- An owner that loses the bus keeps its request and its beats, and its progress is written. -/
theorem State.arbitrate_owner {s : State} {t r o : Nat} {f : Bool} {x : TierTile} (hwin : s.battWin t x = some (r, f)) (howner : x.owner = some o)
    (hor : o ≠ r) : (s.arbitrate t x false).1.bat o = { x.bat o with valid := true, wait := (x.bat o).wait + 1 } := by
  have hnot : o ∉ (s.battAsks t x).filter (fun q => decide (q ≠ r)) := fun h => s.owner_not_mem_battAsks t howner (List.mem_of_mem_filter h)
  rw [State.arbitrate_of_win hwin, TierTile.bat_grantTo_ne _ f hor, howner]
  exact (TierTile.bat_setBat _ _ _).trans (by rw [TierTile.bat_lose_of_not_mem x hnot])

/-! ### A BCLK -/

/-- A forced win on a bus without an owner is counted (11 R358). -/
theorem State.battStep_forced {s : State} {t r : Nat} (hwin : s.battWin t (s.beat t (s.tt t)) = some (r, true)) (howner : (s.tt t).owner = none) :
    s.battStep t false [] [] =
      ((s.setTt t (s.arbitrate t (s.beat t (s.tt t)) false).1).countP (pid bBatt t (0x20 + r)) 0).tally t 22 0x0010 { tile := t, cls := some 4 } := by
  unfold State.battStep
  rw [howner]
  dsimp only
  rw [State.arbitrate_of_win hwin]
  rfl

theorem exec_forcedWin {s : State} {tile r : Nat} (hon : s.battOn tile = true) (hwin : s.battWin tile (s.beat tile (s.tt tile)) = some (r, true)) :
    exec (.forcedWin tile) s = .next (s.battStep tile false [] []) := by
  show execForcedWin tile s = _
  unfold execForcedWin
  rw [if_pos hon, hwin]

/-- Settles O34, clause by clause from who asks, who wins and what the arbitration leaves. -/
theorem battenBus : Obligations.BattenBus := by
  unfold Obligations.BattenBus
  refine ⟨?grant, ?ask, ?command, ?loser, ?top, ?counted, ?forcedWin, ?forcedOwner, ?due, ?keeps, ?takes⟩
  case grant =>
    intro s tile cmdItem raised ended hon
    exact congrArg Host.Outcome.next (if_pos hon)
  case ask =>
    intro x q hreq
    rw [TierTile.ask_of_not_req hreq]
    exact ⟨x.bat_setBat _ _, rfl⟩
  case command =>
    intro s t r x hr
    exact ⟨rfl, x.owner_lose _, congrArg Batt.wait (x.bat_lose_of_mem (s.battAsks_nodup t x) hr), rfl⟩
  case loser =>
    rintro s t q r fd x ⟨hwin, hq, hqr⟩
    exact State.arbitrate_loser hwin hq hqr
  case top =>
    rintro s t r x ⟨howner, hdue, hr, hlevel⟩ hurgent
    exact State.battWin_of_top (.inl howner) hdue (State.battTop_of_urgent hr hlevel hurgent) (by simp [howner])
  case counted =>
    rintro s t r ⟨hwin, howner⟩
    exact State.battStep_forced hwin howner
  case forcedWin =>
    rintro s tile r ⟨hon, hwin⟩
    exact exec_forcedWin hon hwin
  case forcedOwner =>
    rintro s t x ⟨howner, hforced⟩
    exact s.battWin_of_ownerForced t howner hforced
  case due =>
    rintro s t r x hfree ⟨hr, hlimit⟩ hleast
    exact State.battWin_of_due hfree (State.battDue_of_least hr hlimit hleast)
  case keeps =>
    rintro s t o x ⟨howner, hdue⟩ hurgent
    exact State.battWin_of_owner_urgent howner hdue hurgent
  case takes =>
    rintro s t o r x ⟨howner, hwin, hor⟩
    have ho := State.arbitrate_owner hwin howner hor
    refine ⟨?_, ?_, by rw [ho], by rw [ho], by rw [ho]⟩
    · rw [State.arbitrate_of_win hwin]
      rfl
    · rw [State.arbitrate_of_win hwin]
      exact TierTile.bat_grantTo_wait _ r false

end Sys2Proof.Machine
end

section
/-! Loans and the requests of a peer (11 R343 to R348; 03 R78, R79): each loan message for the role and the state of its loan, and each
outcome of a unit request of a peer. -/

namespace Sys2Proof.Machine

/-! ### Loan messages -/

section Loan

variable {s : State} {tile loan : Nat}

/-- A lender that has received OPEN answers OPENOK (11 R346). -/
theorem exec_openLoan_lender (hrole : s.loanRole tile loan = 1) (hstate : (s.loan tile loan).state = 1 ∨ (s.loan tile loan).state = 2) :
    exec (.openLoan tile loan true) s =
      .next ((s.setLoan tile loan { s.loan tile loan with state := 2 }).mailUnit tile loan 2 (s.loanFrames tile loan)) :=
  congrArg Host.Outcome.next (if_pos (And.intro hrole hstate))

/-- A borrower that has not sent OPEN yet sends it. -/
theorem exec_openLoan_borrower (hrole : s.loanRole tile loan = 2) (hstate : (s.loan tile loan).state = 1) (hunsent : (s.loan tile loan).openAt = 0) :
    exec (.openLoan tile loan false) s =
      .next ((s.setLoan tile loan { s.loan tile loan with openAt := s.clock }).mailUnit tile loan 1 (s.loanFrames tile loan)) :=
  congrArg Host.Outcome.next (if_pos (And.intro hrole (And.intro hstate (Or.inl hunsent))))

/-- The notice of a borrower ends 5 ms before that of its lender (11 R347). -/
theorem exec_recallNoticeEnd_borrower (hrole : s.loanRole tile loan = 2) (hstate : (s.loan tile loan).state = 4)
    (hnotice : (s.loan tile loan).recallEnd ≤ s.clock + 5 * ms) :
    exec (.recallNoticeEnd tile loan) s = .next ((s.endBorrow tile loan).sendReturned tile loan) :=
  congrArg Host.Outcome.next ((if_pos hrole).trans (if_pos ⟨hstate, .inl hnotice⟩))

/-- A lender is no borrower. -/
theorem State.not_borrower_of_lender (hrole : s.loanRole tile loan = 1) : ¬ s.loanRole tile loan = 2 := by omega

theorem exec_recallNoticeEnd_lender (hrole : s.loanRole tile loan = 1) (hstate : (s.loan tile loan).state = 4)
    (hnotice : (s.loan tile loan).recallEnd ≤ s.clock) :
    exec (.recallNoticeEnd tile loan) s = .next (s.setLoan tile loan { s.loan tile loan with state := 5, since := s.clock }) :=
  congrArg Host.Outcome.next ((if_neg (State.not_borrower_of_lender hrole)).trans (if_pos ⟨hrole, hstate, hnotice⟩))

/-- END ends a lender's loan in force (11 R348). -/
theorem exec_endLoan_lender (hrole : s.loanRole tile loan = 1) (hstaged : (s.loan tile loan).state ≠ 0) (hgoes : (s.loan tile loan).state ≠ 5) :
    exec (.endLoan tile loan) s = .next (s.setLoan tile loan { s.loan tile loan with state := 5, since := s.clock }) :=
  congrArg Host.Outcome.next ((if_neg (State.not_borrower_of_lender hrole)).trans (if_pos ⟨hrole, hstaged, hgoes⟩))

end Loan

/-! ### Requests of a peer -/

/-- The completion of a unit request leaves on the link on which the request came. -/
def State.answerPeer (s : State) (tile link peer tag st : Nat) (u : List Byte) : State :=
  s.emit (.peer 0x102 ([tile, link, peer, tag, st] ++ u.map BitVec.toNat))

/-- What the lender makes of a unit request for the line at `a` of tile `y`, which its loan `i` lends; `answer` completes it (11 R343, R344). -/
def State.lendUnit (s : State) (y a i peer addr : Nat) (write : Bool) (data : List Byte) (answer : State → Nat → List Byte → State) : State :=
  if !s.lends ∨ !((s.loan y i).state = 2 ∨ (s.loan y i).state = 4) ∨ addr % 128 ≠ 0 ∨ s.lineFenced y a then answer s rAbort []
  else if s.chanAway y (dfaChan a) || write && s.writeWaits y a then s
  else if write then
    match s.openUnit y (s.loanKey y i) addr peer data with
    | some b => answer (s.queueWrite y a (Line.ofBytes b) false 0) 0 []
    | none => answer s rAbort []
  else if (s.stored y a).2 then answer s rAbort []
  else
    match s.makeUnit y (s.loanKey y i) addr (s.stored y a).1.bytes with
    | (some u, s) => answer s 0 u
    | (none, s) => answer s rAbort []

section Lender

variable {s : State} {y a i peer addr : Nat} (data : List Byte) (answer : State → Nat → List Byte → State)

/-- The lender does not answer: by its mode, the state of the loan, the alignment of the unit or a fence (11 R344). -/
theorem State.lendUnit_aborts (write : Bool)
    (h : s.lends = false ∨ ¬ ((s.loan y i).state = 2 ∨ (s.loan y i).state = 4) ∨ addr % 128 ≠ 0 ∨ s.lineFenced y a = true) :
    s.lendUnit y a i peer addr write data answer = answer s rAbort [] :=
  if_pos (by simpa using h)

variable (hlends : s.lends = true) (hstate : (s.loan y i).state = 2 ∨ (s.loan y i).state = 4) (halign : addr % 128 = 0)
  (hfence : s.lineFenced y a = false) (hchan : s.chanAway y (dfaChan a) = false)
include hlends hstate halign hfence hchan

/-- A unit write that the lender takes: the line that its unit opens to is queued, and a unit that does not open aborts. -/
theorem State.lendUnit_write (hqueue : s.writeWaits y a = false) :
    s.lendUnit y a i peer addr true data answer = (s.openUnit y (s.loanKey y i) addr peer data).elim (answer s rAbort [])
      (fun b => answer (s.queueWrite y a (Line.ofBytes b) false 0) 0 []) := by
  unfold State.lendUnit
  rw [if_neg (by simp [hlends, hstate, halign, hfence]), if_neg (by simp [hchan, hqueue]), if_pos rfl]
  cases s.openUnit y (s.loanKey y i) addr peer data <;> rfl

/-- A unit read that the lender takes: the stored line leaves in a unit. -/
theorem State.lendUnit_read {v : State} {u : List Byte} (hgood : (s.stored y a).2 = false)
    (hmake : s.makeUnit y (s.loanKey y i) addr (s.stored y a).1.bytes = (some u, v)) :
    s.lendUnit y a i peer addr false data answer = answer v 0 u := by
  unfold State.lendUnit
  rw [if_neg (by simp [hlends, hstate, halign, hfence]), if_neg (by simp [hchan]), if_neg Bool.false_ne_true, hgood, if_neg Bool.false_ne_true, hmake]

end Lender

section Peer

variable {s : State} {tile link ld peer addr : Nat} {write : Bool} (tag : Nat) (data : List Byte) (htakes : s.takes .uio tile link ld = true)
include htakes

/-- A peer without a loan in force (03 R79). -/
theorem exec_peerUnitRequest_no_loan (addr : Nat) (write : Bool) (hloan : s.peerLoan peer = false) :
    exec (.peerUnitRequest tile link ld tag peer addr write data) s =
      .next (s.violate .uio (if write then RKind.store else RKind.read) tile link ld tag addr (s.localCount tile) 6 none (some peer)) :=
  congrArg Host.Outcome.next ((if_neg (by simp [htakes])).trans (if_pos (by simp [hloan])))

/-- A unit request that is no loan message: its page names the loan, or is outside the lent ranges (11 R343, R344). -/
theorem exec_peerUnitRequest_unit (hloan : s.peerLoan peer = true) (hunit : ¬ (addr = mailbox ∧ write = true)) :
    exec (.peerUnitRequest tile link ld tag peer addr write data) s = .next (
      match s.lendLoan (addr / 2 / 2 ^ 43) peer (addr / 8192) with
      | none => s.violate .uio (if write then RKind.store else RKind.read) tile link ld tag addr (s.localCount tile) 1 none (some peer)
      | some i => s.lendUnit (addr / 2 / 2 ^ 43) (addr / 2 % 2 ^ 42 / 64 * 64) i peer addr write data (fun s => s.answerPeer tile link peer tag)) :=
  congrArg Host.Outcome.next (((if_neg (by simp [htakes])).trans (if_neg (by simp [hloan]))).trans (if_neg hunit))

theorem exec_peerUnitRequest_outside (hloan : s.peerLoan peer = true) (hunit : ¬ (addr = mailbox ∧ write = true))
    (houtside : s.lendLoan (addr / 2 / 2 ^ 43) peer (addr / 8192) = none) :
    exec (.peerUnitRequest tile link ld tag peer addr write data) s =
      .next (s.violate .uio (if write then RKind.store else RKind.read) tile link ld tag addr (s.localCount tile) 1 none (some peer)) := by
  rw [exec_peerUnitRequest_unit tag data htakes hloan hunit, houtside]

theorem exec_peerUnitRequest_lent {i : Nat} (hloan : s.peerLoan peer = true) (hunit : ¬ (addr = mailbox ∧ write = true))
    (hlent : s.lendLoan (addr / 2 / 2 ^ 43) peer (addr / 8192) = some i) :
    exec (.peerUnitRequest tile link ld tag peer addr write data) s =
      .next (s.lendUnit (addr / 2 / 2 ^ 43) (addr / 2 % 2 ^ 42 / 64 * 64) i peer addr write data (fun s => s.answerPeer tile link peer tag)) := by
  rw [exec_peerUnitRequest_unit tag data htakes hloan hunit, hlent]

end Peer

/-- Settles O33, clause by clause from what each loan message and each request of a peer does under its conditions. -/
theorem loansAndPeers : Obligations.LoansAndPeers := by
  unfold Obligations.LoansAndPeers
  refine ⟨?openReceived, ?openSent, ?openok, ?recalls, ?borrowerNotice, ?lenderNotice, ?returned, ?lenderEnd, ?borrowerEnd, ?restage,
    ?noLoan, ?outside, ?aborts, ?write, ?read⟩
  case openReceived =>
    rintro s tile loan ⟨hrole, hstate⟩
    exact exec_openLoan_lender hrole hstate
  case openSent =>
    rintro s tile loan ⟨hrole, hstate, hunsent⟩
    exact exec_openLoan_borrower hrole hstate hunsent
  case openok =>
    intro s tile loan h
    exact congrArg Host.Outcome.next (if_pos h)
  case recalls =>
    intro s tile loan notice h
    exact congrArg Host.Outcome.next (if_pos h)
  case borrowerNotice =>
    rintro s tile loan ⟨hrole, hstate, hnotice⟩
    exact exec_recallNoticeEnd_borrower hrole hstate hnotice
  case lenderNotice =>
    rintro s tile loan ⟨hrole, hstate, hnotice⟩
    exact exec_recallNoticeEnd_lender hrole hstate hnotice
  case returned =>
    intro s tile loan h
    exact congrArg Host.Outcome.next (if_pos h)
  case lenderEnd =>
    rintro s tile loan ⟨hrole, hstaged, hgoes⟩
    exact exec_endLoan_lender hrole hstaged hgoes
  case borrowerEnd =>
    intro s tile loan hrole
    exact congrArg Host.Outcome.next (if_pos hrole)
  case restage =>
    rintro s tile loan ⟨hloan, hstate, hdue, hrole⟩
    exact congrArg Host.Outcome.next (if_pos ⟨hloan, hstate, hdue, .inl hrole⟩)
  case noLoan =>
    rintro s tile link ld tag peer addr write data ⟨htakes, hloan⟩
    exact exec_peerUnitRequest_no_loan tag data htakes addr write hloan
  case outside =>
    rintro s tile link ld tag peer addr data ⟨htakes, hloan⟩ houtside
    exact exec_peerUnitRequest_outside tag data htakes hloan (by simp) houtside
  case aborts =>
    rintro s tile link ld tag peer addr i data ⟨htakes, hloan⟩ ⟨hlent, habort⟩
    rw [exec_peerUnitRequest_lent tag data htakes hloan (by simp) hlent, State.lendUnit_aborts data _ false habort]
    rfl
  case write =>
    rintro s tile link ld tag peer addr i data ⟨htakes, hloan, hbox⟩ ⟨hlent, hlends, hstate, halign⟩ ⟨hfence, hchan, hqueue⟩
    rw [exec_peerUnitRequest_lent tag data htakes hloan (fun h => hbox h.1) hlent,
      State.lendUnit_write data _ hlends hstate halign hfence hchan hqueue]
    rfl
  case read =>
    rintro s v tile link ld tag peer addr i data u ⟨htakes, hloan⟩ ⟨hlent, hlends, hstate, halign⟩ ⟨hfence, hchan, hgood⟩ hmake
    rw [exec_peerUnitRequest_lent tag data htakes hloan (by simp) hlent,
      State.lendUnit_read data _ hlends hstate halign hfence hchan hgood hmake]
    rfl

end Sys2Proof.Machine
end

section
/-! The movers of the tiers, the units of a borrower and the entry of a schedule's region (11 R335 to R351): each command under its
conditions. -/

namespace Sys2Proof.Machine

/-! ### Moves and victims -/

section Moves

variable {s : State} {tile : Nat}

theorem exec_tierMove {lpage : Nat} {m : Move} (hmove : (s.tt tile).moves.find? (fun m => decide (m.lpage = lpage)) = some m) :
    exec (.tierMove tile lpage) s = .next (s.doMove tile m) := by
  show execTierMove tile lpage s = _
  unfold execTierMove
  rw [hmove]

/-- Without room on the tile no move starts (08 R232). -/
theorem State.doMove_no_room {m : Move} (hroom : s.moverRoom tile = false) (hstill : hMoving (s.homeEntry tile m.lpage) = false) : s.doMove tile m = s :=
  if_pos (.inr (.inr (.inl (by simp [hroom, hstill]))))

theorem exec_tierMove_no_room {lpage : Nat} (hroom : s.moverRoom tile = false) (hstill : hMoving (s.homeEntry tile lpage) = false) :
    exec (.tierMove tile lpage) s = .next s := by
  cases hmove : (s.tt tile).moves.find? (fun m => decide (m.lpage = lpage)) with
  | none =>
    show execTierMove tile lpage s = _
    unfold execTierMove
    rw [hmove]
  | some m =>
    have hpage : m.lpage = lpage := by simpa using List.find?_some hmove
    rw [exec_tierMove hmove, State.doMove_no_room hroom (hpage ▸ hstill)]

/-- A session at its reservation gives up the first page of its demotion region that may leave (11 R340, R350). -/
theorem exec_victimSweep_demotes {sess f : Nat} (hruns : s.moversRun tile = true) (hfull : (s.resvOf sess tile).frames ≤ s.homed tile sess 1)
    (hwaits : s.leaving tile sess < s.homeWaits tile sess)
    (hfirst : (s.sweepOrder tile sess).find? (fun f => s.inDemotion tile (s.frame tile f).lpage && s.victimOk tile f) = some f) :
    exec (.victimSweep tile sess) s = .next (s.evict tile f) := by
  show execVictimSweep tile sess s = _
  unfold execVictimSweep
  rw [if_pos ⟨hruns, hfull, hwaits⟩, hfirst]

end Moves

/-! ### Units of a borrower -/

/-- A unit read joins the units in flight (11 R345). -/
theorem State.unitReq_read_units (s : State) (t i p line frame : Nat) (l : Line) : ((s.unitReq t i p line frame false l).tt t).units =
    (s.tt t).units ++ [{ id := (s.tt t).unitNo, loan := i, lpage := p, line := line, write := false, at_ := s.clock }] :=
  congrArg TierTile.units (s.tt_setTt t _)

section Units

variable {s : State} {tile : Nat}

theorem exec_neighbourRead {lpage line i : Nat} {w : Wait} (hloan : s.pageLoan tile lpage = some i) (hline : line < 64) (hruns : s.neighbourRuns tile = true)
    (hw : w ∈ s.waits) (hwaits : w.why = .unit ∧ w.req.owner = tile ∧ w.req.toff / 64 = lpage * 64 + line)
    (hnew : (s.tt tile).units.any (fun u => decide (u.lpage = lpage ∧ u.line = line)) = false) :
    exec (.neighbourRead tile lpage line) s = .next (s.unitReq tile i lpage line (hFrame (s.homeEntry tile lpage)) false 0) := by
  show execNeighbourRead tile lpage line s = _
  unfold execNeighbourRead
  rw [hloan]
  exact congrArg Host.Outcome.next (if_pos ⟨hruns, List.any_eq_true.mpr ⟨w, hw, decide_eq_true hwaits⟩, by rw [hnew]; rfl, hline⟩)

/-- A unit that has completed is no longer in flight. -/
def State.dropUnit (s : State) (t : Nat) (u : UnitReq) : State := s.setTt t { s.tt t with units := (s.tt t).units.erase u }

@[simp] theorem State.dropUnit_loan (s : State) (t : Nat) (u : UnitReq) (i : Nat) : (s.dropUnit t u).loan t i = s.loan t i := by
  unfold State.loan State.dropUnit
  rw [State.tt_setTt]

section Completion

variable {id : Nat} {u : UnitReq} (hunit : (s.tt tile).units.find? (fun u => decide (u.id = id)) = some u) (hactive : (s.loan tile u.loan).state = 2)
include hunit hactive

/-- The completion of a unit request while its loan is active (11 R345). -/
theorem exec_unitRequestCompletion_active (status : Nat) (data : List Byte) :
    let v := s.dropUnit tile u
    exec (.unitRequestCompletion tile id status data) s = .next (
      if status ≠ 0 then (v.endBorrow tile u.loan).sendReturned tile u.loan
      else if u.write then v.sendReturned tile u.loan
      else (v.openUnit tile (v.loanKey tile u.loan) (wireOf (hFrame (v.homeEntry tile u.lpage)) u.line) (v.loanPeer tile u.loan) data).elim
        (if u.retried then (v.endBorrow tile u.loan).sendReturned tile u.loan else v.retryUnit tile u)
        (fun b => (v.unitLine tile u (Line.ofBytes b)).sendReturned tile u.loan)) := by
  have hlent : ¬ (!decide (((s.dropUnit tile u).loan tile u.loan).state = 2 ∨ ((s.dropUnit tile u).loan tile u.loan).state = 4)) = true := by
    simp [hactive]
  show execUnitRequestCompletion tile id status data s = _
  unfold execUnitRequestCompletion
  rw [hunit]
  refine congrArg Host.Outcome.next ((if_neg hlent).trans ?_)
  split
  · rfl
  · split
    · rfl
    · dsimp only
      split <;> next h => rw [State.dropUnit, h]; rfl

end Completion

/-- A unit request without a completion within its timeout loses the loan (11 R345). -/
theorem exec_neighbourTimeout_due {id : Nat} {u : UnitReq}
    (hdue : (s.tt tile).units.find? (fun u => decide (u.id = id) && s.due u.at_ (s.tileP bTier tile 4 * us)) = some u) :
    exec (.neighbourTimeout tile id) s = .next (((s.dropUnit tile u).endBorrow tile u.loan).sendReturned tile u.loan) := by
  show execNeighbourTimeout tile id s = _
  unfold execNeighbourTimeout
  rw [hdue]
  rfl

/-- A late unit read becomes a stall of cause 1 of the accesses that wait for its line (11 R351). -/
theorem exec_neighbourLate_due {id : Nat} {u : UnitReq}
    (hdue : (s.tt tile).units.find? (fun u => decide (u.id = id) && !u.late && !u.write && s.due u.at_ (s.tileP bTier tile 5 * 4)) = some u) :
    let v := s.setTt tile { s.tt tile with units := (s.tt tile).units.map (fun x => if x.id = id then { x with late := true } else x) }
    exec (.neighbourLate tile id) s = .next { v with waits := v.waits.map (fun w =>
      if w.why = .unit ∧ w.req.owner = tile ∧ w.req.toff / 64 = u.lpage * 64 + u.line ∧ w.stall = none then { w with stall := some (1, v.clock) } else w) } := by
  show execNeighbourLate tile id s = _
  unfold execNeighbourLate
  rw [hdue]

end Units

/-! ### Stream schedules -/

/-- An access to a region of a running schedule that is not the current one makes it current (11 R350). -/
theorem exec_regionEntry {s : State} {sess sched page k : Nat} (hopen : (s.sess sess).isOpen = true)
    (hruns : (Store.read (s.sess sess).scheds sched {}).running = true) (hother : (Store.read (s.sess sess).scheds sched {}).current ≠ some k)
    (hregion : regionOf (Store.read (s.sess sess).scheds sched {}) page = some k) :
    exec (.regionEntry sess sched page) s = .next (s.enterRegion sess sched k (Store.read (s.sess sess).scheds sched {})) := by
  refine congrArg Host.Outcome.next ((if_neg (by simp [hopen, hruns])).trans ?_)
  rw [hregion]
  exact if_neg hother

/-- Settles O32, clause by clause from what each command does under its conditions. -/
theorem tierMoves : Obligations.TierMoves := by
  unfold Obligations.TierMoves
  refine ⟨?move, ?noRoom, ?pendrel, ?htpend, ?sweep, ?read, ?units, ?fails, ?written, ?arrives, ?timeout, ?late, ?region⟩
  case move =>
    intro s tile lpage m hmove
    exact exec_tierMove hmove
  case noRoom =>
    rintro s tile lpage ⟨hroom, hstill⟩
    exact exec_tierMove_no_room hroom hstill
  case pendrel =>
    intro s tile frame
    rfl
  case htpend =>
    intro s tile frame
    rfl
  case sweep =>
    rintro s tile sess f ⟨hruns, hfull, hwaits⟩ hfirst
    exact exec_victimSweep_demotes hruns hfull hwaits hfirst
  case read =>
    rintro s tile lpage line i w ⟨hloan, hline, hw, hwaits⟩ ⟨hruns, hnew⟩
    exact exec_neighbourRead hloan hline hruns hw hwaits hnew
  case units =>
    intro s t i p line frame
    exact s.unitReq_read_units t i p line frame 0
  case fails =>
    rintro s tile id status data u hunit ⟨hstatus, hactive⟩
    rw [exec_unitRequestCompletion_active hunit hactive, if_pos hstatus]
    rfl
  case written =>
    rintro s tile id data u ⟨hunit, hwrite, hactive⟩
    rw [exec_unitRequestCompletion_active hunit hactive, if_neg (by decide), if_pos hwrite]
    rfl
  case arrives =>
    rintro s tile id data u ⟨hunit, hread, hactive⟩
    rw [exec_unitRequestCompletion_active hunit hactive, if_neg (by decide), hread]
    rfl
  case timeout =>
    intro s tile id u hdue
    exact exec_neighbourTimeout_due hdue
  case late =>
    intro s tile id u hdue
    exact exec_neighbourLate_due hdue
  case region =>
    rintro s sess sched page k ⟨hopen, hruns, hother⟩ hregion
    exact exec_regionEntry hopen hruns hother hregion

end Sys2Proof.Machine
end

section
/-! The instructions of sessions, of extents and of stream schedules (13 R403 to R408; 11 R349): each instruction under its conditions, once
it is ready. -/

namespace Sys2Proof.Machine

open Sys2Proof.Safety

section Ready

variable {s : State} {n : Nat} {i : Issue} {c : Ctx}

/-! ### Sessions -/

/-- The reservation records of a SOPEN. -/
def Issue.records (i : Issue) : List (Nat × Resv) := resvRecs ((iN i.word - 1) / 6) (i.data.drop 1)

section Sopen

variable (hready : Ready s n 0x40 i c) (htiles : i.records.all (fun r => decide (r.1 < (s.consume n i c).tiles)) = true)
  (hnodup : (i.records.map Prod.fst).Nodup) (hport : (s.consume n i c).portOk (bindWord (i.data.getD 0 0)) = true) (hxf : iXf i.word = false)
include hready htiles hnodup hport hxf

/-- SOPEN with good operands and XF = 0: RESV for a session that is open or a record that does not fit (13 R405). -/
theorem exec_sopen_new :
    let u := s.consume n i c
    exec (.sopen n) s = .next (
      if (u.sess (iSess i.word)).isOpen ∨ !i.records.all (fun r => u.resvFits (iSess i.word) r.1 r.2) then u.fail n i .resv
      else (u.openSess (iSess i.word) (bindWord (i.data.getD 0 0)) (bit i.word 12) i.records).done n i
        (sopenResult (iSess i.word) (bindWord (i.data.getD 0 0)).1)) := by
  have hgood : ¬ ((!i.records.all (fun r => decide (r.1 < (s.consume n i c).tiles))) = true ∨ (!decide (i.records.map Prod.fst).Nodup) = true ∨
      (!(s.consume n i c).portOk (bindWord (i.data.getD 0 0))) = true) := by
    rw [htiles, decide_eq_true hnodup, hport]
    decide
  exact congrArg Host.Outcome.next ((State.issue_ready hready).trans ((if_neg hgood).trans (if_neg (by simp [hxf]))))

end Sopen

theorem State.canStage_of_other {k : Nat} (cs : List Change) (howner : s.set.owner = some k) (hother : k ≠ n) : s.canStage n cs = false := by
  simp [State.canStage, howner, hother]

/-- The change that SQOS stages: ga as `sess.qos` of its session (13 R407). -/
def State.qosChange (s : State) (n : Nat) (i : Issue) : Change := .field (pid bSess 1023 3) (iSess i.word) 63 0 ((s.ctx n).opA i.word).toNat

/-- SQOS of an open session, the note of a dropped set taken: it stages its change, or another context owns the set. -/
theorem exec_sqos (hready : Ready s n 0x43 i c) (hopen : ((s.consume n i c).sess (iSess i.word)).isOpen = true)
    (hdropped : ((s.consume n i c).ctx n).dropped = false) (hlevel : (s.consume n i c).sqosLevel i = true) :
    let u := s.consume n i c
    exec (.sqos n) s = .next (if u.canStage n [u.qosChange n i] then (u.done n i 0).stage n i.pl [u.qosChange n i] else u.fail n i .resv) := by
  show execSqos n s = _
  unfold execSqos
  rw [State.issueOp_ready hready rfl hlevel]
  dsimp only
  rw [hopen, hdropped]
  refine congrArg Host.Outcome.next ((if_neg (by decide)).trans ((if_neg (by decide)).trans ?_))
  by_cases hstage : (s.consume n i c).canStage n [(s.consume n i c).qosChange n i] = true
  · exact (if_neg (by rw [Bool.not_eq_true', Bool.not_eq_false]; exact hstage)).trans (if_pos hstage).symm
  · exact (if_pos (by rw [Bool.not_eq_true']; exact Bool.eq_false_of_not_eq_true hstage)).trans (if_neg hstage).symm

/-- With no owner and no entry, nothing need be staged and no context owns the set. -/
theorem State.canStage_nothing (hentries : s.set.entries = []) (howner : s.set.owner = none) : s.canStage n [] = true := by
  simp [State.canStage, hentries, howner, addChanges]

/-- SCLOSE of an open session without an extent: nothing is to be staged, and it waits for the releases (13 R408). -/
theorem State.sclose_no_extents (hopen : (s.sess (iSess i.word)).isOpen = true) (hexts : (s.sess (iSess i.word)).exts = [])
    (hdropped : (s.ctx n).dropped = false) (howner : s.set.owner = none) (hentries : s.set.entries = []) :
    s.sclose n i = ((s.startLong n i (.sclose (iSess i.word) 2)).pendRec n i).scloseStep n (iSess i.word) := by
  have htaken : s.setTaken n = false := by simp [State.setTaken, howner]
  unfold State.sclose
  simp [hopen, hexts, hdropped, howner, htaken, hentries, State.canStage_nothing hentries howner]

/-- A SCLOSE that waits for releases looks at them again. -/
theorem exec_sclose_again {m : Nat} (hlong : (s.ctx n).long = some (i, .sclose m 2)) : exec (.sclose n) s = .next (s.scloseStep n m) := by
  show execSclose n s = _
  unfold execSclose
  rw [hlong]
  rfl

theorem exec_sclose_first (hready : Ready s n 0x41 i c) (hlong : (s.ctx n).long = none) :
    exec (.sclose n) s = .next ((s.consume n i c).sclose n i) := by
  show execSclose n s = _
  unfold execSclose
  rw [hlong]
  exact congrArg Host.Outcome.next (State.issue_ready hready)

/-! ### Extents -/

/-- The pinned extent that the words of a SEXT define (13 R406). -/
def pinnedExt (h0 dpa len : Word) : Ext := { defined := true, tiered := false, start := fld h0 45 21 * 2 ^ 21, dpa := dpa.toNat, len := len.toNat }

/-- An extent is defined for a session, and noted for the set that is being staged (13 R406). -/
def State.defineExt (s : State) (m e : Nat) (x : Ext) : State :=
  let v := s.setSess m { s.sess m with exts := Store.write (s.sess m).exts e x {} }
  { v with set := { v.set with defined := if v.set.entries.isEmpty then [(m, e)] else (m, e) :: v.set.defined } }

/-- SEXT of a pinned extent without a binding, its placement good. -/
theorem State.sext_pinned {h0 dpa len : Word} (hdata : i.data = [h0, dpa, len]) (hkind : fld h0 1 0 = 1)
    (hopen : (s.sess (iSess i.word)).isOpen = true) (hnew : (s.ext (iSess i.word) (fld h0 13 8)).defined = false)
    (hbinds : s.binds.any (fun b => decide (b.sess = iSess i.word ∧ b.ext = fld h0 13 8 ∧ b.state ≠ .released)) = false)
    (htaken : s.setTaken n = false) (hplace : s.placeOk (iSess i.word) (pinnedExt h0 dpa len) = true)
    (hbindsOk : s.bindsOk (iSess i.word) (fld h0 13 8) (pinnedExt h0 dpa len) [] [] false = true) (hfit : s.windowsFit [] = true) :
    s.sext n i = (s.defineExt (iSess i.word) (fld h0 13 8) (pinnedExt h0 dpa len)).done n i (extHandle (iSess i.word) (fld h0 13 8)) := by
  unfold State.sext
  simp only [hdata, hkind, List.getD_cons_zero, List.getD_cons_succ]
  refine (if_neg ?closed).trans ((if_neg ?placement).trans ((if_neg ?bindings).trans ((if_neg ?cover).trans ((if_neg ?windows).trans
    ((if_neg ?dropped).trans ((if_neg ?taken).trans rfl))))))
  case closed =>
    rw [hopen]
    decide
  case placement =>
    rw [hnew, hbinds]
    show ¬ (!s.placeOk (iSess i.word) (pinnedExt h0 dpa len) || false) = true
    rw [hplace]
    decide
  case bindings =>
    show ¬ (!s.bindsOk (iSess i.word) (fld h0 13 8) (pinnedExt h0 dpa len) [] [] false) = true
    rw [hbindsOk]
    decide
  case cover =>
    exact Bool.false_ne_true
  case windows =>
    show ¬ (!s.windowsFit []) = true
    rw [hfit]
    decide
  case dropped =>
    exact Bool.false_ne_true
  case taken =>
    rw [htaken]
    exact Bool.false_ne_true

/-- KIND 0 of an extent that is not defined (13 R406). -/
theorem State.sext_remove_undefined (hkind : fld (i.data.getD 0 0) 1 0 = 0)
    (hnew : (s.ext (iSess i.word) (fld (i.data.getD 0 0) 13 8)).defined = false) : s.sext n i = s.fail n i .range := by
  cases hopen : (s.sess (iSess i.word)).isOpen
  · exact if_pos (by rw [hopen]; rfl)
  · refine (if_neg (by rw [hopen]; decide)).trans (if_pos ?_)
    simp only [hkind, hnew]
    rfl

/-! ### Stream schedules -/

/-- The schedule that a first PFSC holds (11 R349). -/
def Issue.schedule (i : Issue) : Sched :=
  { regions := regionList (i.data.drop 1), total := fld (i.data.getD 0 0) 42 32, cyclic := bit (i.data.getD 0 0) 16, depth := fld (i.data.getD 0 0) 12 8,
    defined := true }

/-- A schedule of a session is put in its place. -/
def State.setSched (s : State) (n j : Nat) (y : Sched) : State := s.setSess n { s.sess n with scheds := Store.write (s.sess n).scheds j y {} }

/-- The first PFSC of a schedule that does not run, its operands good (13 R403). -/
theorem exec_pfsc_first (hready : Ready s n 0x34 i c) (hxf : iXf i.word = false) (hopen : ((s.consume n i c).sess (iSess i.word)).isOpen = true)
    (htotal : 0 < i.schedule.total ∧ i.schedule.total ≤ 1024) (hdepth : 0 < i.schedule.depth ∧ i.schedule.depth ≤ 16)
    (hfits : i.schedule.regions.length ≤ i.schedule.total) (hapart : regionsApart i.schedule.regions = true)
    (hpages : i.schedule.regions.all (fun r => decide (0 < r.2) && ((s.consume n i c).pagesTile (iSess i.word) 64 (regionStart r) r.2 none).isSome) = true)
    (hidle : (Store.read ((s.consume n i c).sess (iSess i.word)).scheds (fld (i.data.getD 0 0) 2 0) {}).running = false) :
    exec (.pfsc n) s = .next (((s.consume n i c).setSched (iSess i.word) (fld (i.data.getD 0 0) 2 0) i.schedule).done n i
      (BitVec.ofNat 64 i.schedule.regions.length)) := by
  show execPfsc n s = _
  unfold execPfsc
  rw [State.issue_ready hready]
  simp only [hxf, Bool.false_eq_true, if_false]
  refine congrArg Host.Outcome.next ((if_neg ?closed).trans ((if_neg ?operands).trans ((if_neg ?running).trans rfl)))
  case closed =>
    rw [hopen]
    decide
  case operands =>
    rintro (h | h | h | h | h | h | h | h)
    · exact absurd h htotal.1.ne'
    · exact absurd h htotal.2.not_gt
    · exact absurd h hdepth.1.ne'
    · exact absurd h hdepth.2.not_gt
    · exact absurd h hfits.not_gt
    · cases h
    · exact absurd hpages (by rw [Bool.not_eq_true', ← Bool.not_eq_true] at h; exact h)
    · exact absurd hapart (by rw [Bool.not_eq_true', ← Bool.not_eq_true] at h; exact h)
  case running =>
    rw [hidle]
    decide

section Pfgo

variable (hready : Ready s n 0x35 i c) (hopen : ((s.consume n i c).sess (iSess i.word)).isOpen = true)
include hready hopen

/-- A schedule that is complete and does not run starts (13 R404). -/
theorem exec_pfgo_starts (hstart : bit i.word 20 = true)
    (hidle : (Store.read ((s.consume n i c).sess (iSess i.word)).scheds (fld i.word 18 16) {}).running = false)
    (hdefined : (Store.read ((s.consume n i c).sess (iSess i.word)).scheds (fld i.word 18 16) {}).defined = true)
    (hcomplete : (Store.read ((s.consume n i c).sess (iSess i.word)).scheds (fld i.word 18 16) {}).regions.length =
      (Store.read ((s.consume n i c).sess (iSess i.word)).scheds (fld i.word 18 16) {}).total) :
    exec (.pfgo n) s = .next (((s.consume n i c).setSched (iSess i.word) (fld i.word 18 16)
      { Store.read ((s.consume n i c).sess (iSess i.word)).scheds (fld i.word 18 16) {} with running := true, current := none }).done n i 0) := by
  refine congrArg Host.Outcome.next ((State.issue_ready hready).trans ?_)
  exact (if_neg (by rw [hopen]; decide)).trans ((if_pos hstart).trans ((if_neg (by rw [hidle]; decide)).trans
    (if_neg (by rw [hdefined, hcomplete]; simp))))

/-- A start of a schedule that runs and a stop of one that does not change nothing (13 R404). -/
theorem exec_pfgo_idle (hsame : (Store.read ((s.consume n i c).sess (iSess i.word)).scheds (fld i.word 18 16) {}).running = bit i.word 20) :
    exec (.pfgo n) s = .next ((s.consume n i c).completeR n i .idle 0) := by
  refine congrArg Host.Outcome.next ((State.issue_ready hready).trans ((if_neg (by rw [hopen]; decide)).trans ?_))
  by_cases hstart : bit i.word 20 = true
  · exact (if_pos hstart).trans (if_pos (hsame.trans hstart))
  · exact (if_neg hstart).trans (if_pos (by rw [hsame, Bool.eq_false_of_not_eq_true hstart]; rfl))

end Pfgo

end Ready

/-- Settles O31, clause by clause from what each instruction does under its conditions. -/
theorem sessionInstructions : Obligations.SessionInstructions := by
  unfold Obligations.SessionInstructions
  refine ⟨?opens, ?already, ?pinned, ?removed, ?stages, ?taken, ?closes, ?waits, ?holds, ?starts, ?idle⟩
  case opens =>
    rintro s n i c hready ⟨hxf, hclosed⟩ hport ⟨hall, hnodup⟩
    have htiles : i.records.all (fun r => decide (r.1 < (s.consume n i c).tiles)) = true :=
      List.all_eq_true.mpr fun r hr => (Bool.and_eq_true_iff.mp (List.all_eq_true.mp hall r hr)).1
    have hfits : i.records.all (fun r => (s.consume n i c).resvFits (iSess i.word) r.1 r.2) = true :=
      List.all_eq_true.mpr fun r hr => (Bool.and_eq_true_iff.mp (List.all_eq_true.mp hall r hr)).2
    rw [exec_sopen_new hready htiles hnodup hport hxf, hclosed, hfits, if_neg (by decide)]
    rfl
  case already =>
    rintro s n i c hready ⟨hxf, hopen⟩ hport ⟨htiles, hnodup⟩
    exact (exec_sopen_new hready htiles hnodup hport hxf).trans (congrArg Host.Outcome.next (if_pos (.inl hopen)))
  case pinned =>
    rintro s n i c h0 dpa len ⟨hready, hdata, hkind⟩ ⟨hopen, hnew⟩ ⟨hbinds, htaken⟩ ⟨hplace, hbindsOk, hfit⟩
    exact congrArg Host.Outcome.next ((State.issue_ready hready).trans
      (State.sext_pinned hdata hkind hopen hnew hbinds htaken hplace hbindsOk hfit))
  case removed =>
    rintro s n i c ⟨hready, hkind, hnew⟩
    exact congrArg Host.Outcome.next ((State.issue_ready hready).trans (State.sext_remove_undefined hkind hnew))
  case stages =>
    rintro s n i c ⟨hready, hopen, hdropped, hlevel⟩ hstage
    exact (exec_sqos hready hopen hdropped hlevel).trans (congrArg Host.Outcome.next (if_pos hstage))
  case taken =>
    rintro s n k i c ⟨hready, hopen, hdropped, hlevel⟩ ⟨howner, hother⟩
    rw [exec_sqos hready hopen hdropped hlevel, State.canStage_of_other _ howner hother]
    rfl
  case closes =>
    rintro s n i c ⟨hready, hlong⟩ ⟨hopen, hexts, hdropped⟩ ⟨howner, hentries⟩
    rw [exec_sclose_first hready hlong, State.sclose_no_extents hopen hexts hdropped howner hentries]
  case waits =>
    intro s n m i hlong
    exact exec_sclose_again hlong
  case holds =>
    rintro s n i c ⟨hready, hxf, hopen⟩ ⟨hsome, hmany, hdepth, hdeep, hfits, hapart, hpages⟩ hidle
    exact exec_pfsc_first hready hxf hopen ⟨hsome, hmany⟩ ⟨hdepth, hdeep⟩ hfits hapart hpages hidle
  case starts =>
    rintro s n i c ⟨hready, hopen, hstart⟩ ⟨hidle, hdefined, hcomplete⟩
    exact exec_pfgo_starts hready hopen hstart hidle hdefined hcomplete
  case idle =>
    rintro s n i c ⟨hready, hopen⟩ hsame
    exact exec_pfgo_idle hready hopen hsame

end Sys2Proof.Machine
end

section
/-! The instructions of control, flow and the queue (12 R366, R367, R372; 13 R392, R394, R423): each instruction under its conditions, once it
is ready. -/

namespace Sys2Proof.Machine

open Sys2Proof.Safety

/-! ### Records of command-class items -/

/-- A command-class item leaves its record and changes nothing else of its context (13 R392). -/
theorem State.complete_ctx_of_cmd (s : State) (n : Nat) {i : Issue} (st : Status) (r : Word) (rs : List Word) (f : Bool) (hcmd : i.cmd = true) :
    (s.complete n i st r rs f).ctx n =
      { s.ctx n with outbox := (s.ctx n).outbox ++ [mkCpl (s.countInstr n i st) n i st r true false], held := false } := by
  unfold State.complete
  simp only [State.countInstr_ctx, hcmd, Bool.true_or, if_true, State.ctx_setCtx]

theorem State.lastRecord_complete_of_cmd (s : State) (n : Nat) {i : Issue} (st : Status) (r : Word) (rs : List Word) (f : Bool)
    (hcmd : i.cmd = true) : LastRecord (s.complete n i st r rs f) n st r := by
  refine ⟨mkCpl (s.countInstr n i st) n i st r true false, ?_, rfl, rfl⟩
  rw [State.complete_ctx_of_cmd s n st r rs f hcmd]
  exact List.getLast?_concat

section Ready

variable {s : State} {n op : Nat} {i : Issue} {c : Ctx}

theorem State.consume_opA (hready : Ready s n op i c) (w : Word) : ((s.consume n i c).ctx n).opA w = (s.ctx n).reg (iGa w) :=
  State.consume_reg hready _

theorem State.consume_localTime (hready : Ready s n op i c) :
    (s.consume n i c).localCount ((s.consume n i c).ctx n).tile = s.localCount (s.ctx n).tile := by
  rw [Ready.ctx_tile hready, State.consume_localCount]

theorem State.consume_progWord (s : State) (n : Nat) (i : Issue) (c : Ctx) : (s.consume n i c).progWord = s.progWord := by
  unfold State.progWord
  rw [State.consume_progs]

/-- An instruction that completes with OK and one result writes gd and nothing else. -/
theorem State.consume_completeR (hready : Ready s n op i c) (r : Word) :
    WritesReg s ((s.consume n i c).completeR n i .ok r) n (if i.cmd then 0 else iGd i.word) r ∧
      OnlyContext s ((s.consume n i c).completeR n i .ok r) n := by
  refine ⟨fun k => ?_, (s.consume_only n i c).trans (State.complete_only ..)⟩
  rw [State.completeR_ok_regs' _ n i r k, State.consume_reg hready]

/-- Consuming an instruction and then updating its context changes that context alone. -/
theorem State.consume_setCtx_only (s : State) (n : Nat) (i : Issue) (c d : Ctx) : OnlyContext s ((s.consume n i c).setCtx n d) n :=
  (s.consume_only n i c).trans (State.setCtx_only ..)

/-! ### WAIT -/

theorem State.waitTarget_consume (hready : Ready s n op i c) :
    (s.consume n i c).waitTarget n i =
      (if iXf i.word then ((s.ctx n).reg (iGa i.word)).toNat else s.localCount (s.ctx n).tile) + iImm i.word := by
  unfold State.waitTarget
  rw [State.consume_opA hready, State.consume_localTime hready]

/-- WAIT refuses a target more than 1 s ahead and waits for any other (13 Table 13-3). -/
theorem exec_wait (hready : Ready s n 0x02 i c) :
    let target := (if iXf i.word then ((s.ctx n).reg (iGa i.word)).toNat else s.localCount (s.ctx n).tile) + iImm i.word
    exec (.wait n) s = .next (if s.localCount (s.ctx n).tile + 4000000000 < target then (s.consume n i c).fail n i .range
      else (s.consume n i c).startLong n i (.waitUntil target)) := by
  refine congrArg Host.Outcome.next ((State.issue_ready hready).trans ?_)
  rw [State.waitTarget_consume hready, State.consume_localTime hready]

/-- WAIT_END of a WAIT whose target has come completes it (13 Table 13-3). -/
theorem exec_waitEnd {u : Nat} (hlong : (s.ctx n).long = some (i, .waitUntil u)) (hdue : u ≤ s.localCount (s.ctx n).tile) :
    exec (.waitEnd n) s = .next (s.finishR n .ok (BitVec.ofNat 64 (s.localCount (s.ctx n).tile))) := by
  show execWaitEnd n s = _
  unfold execWaitEnd
  rw [hlong]
  exact congrArg Host.Outcome.next (if_pos hdue)

/-! ### HALT -/

/-- What a HALT skips is consumed: nothing is left to execute (12 R366). -/
theorem Ctx.exhausted_skipAll {c : Ctx} (hcur : c.cur.isSome = true) : c.skipAll.exhausted = true := by
  obtain ⟨u, hu⟩ := Option.isSome_iff_exists.mp hcur
  simp [Ctx.skipAll, Ctx.exhausted, hu]

theorem exec_halt_queued (hready : Ready s n 0x03 i c) (hcryp : s.haltsCryp n = false) (hcmd : i.cmd = false) (hstored : i.stored = false) :
    exec (.halt n) s = .next (((s.consume n i c).setCtx n (Ctx.skipAll { c with long := none })).completeR n i .ok 0) := by
  refine congrArg Host.Outcome.next ((if_neg (ne_true_of_eq_false hcryp)).trans ((State.issue_ready hready).trans ?_))
  simp only [hcmd, hstored, Bool.false_eq_true, if_false, State.consume_ctx]
  rfl

theorem exec_halt_called {p : RetPt} {r : List RetPt} (hready : Ready s n 0x03 i c) (hcryp : s.haltsCryp n = false) (hcmd : i.cmd = false)
    (hstored : i.stored = true) (hstack : c.stack = p :: r) :
    exec (.halt n) s = .next (((s.consume n i c).setCtx n { c with long := none, stack := r, fetch := p.fetch, pc := p.pc }).completeR n i .ok 0) := by
  refine congrArg Host.Outcome.next ((if_neg (ne_true_of_eq_false hcryp)).trans ((State.issue_ready hready).trans ?_))
  simp only [hcmd, hstored, hstack, Bool.false_eq_true, if_false, if_true, State.consume_ctx]
  rfl

theorem exec_halt_cmd (hready : Ready s n 0x03 i c) (hcryp : s.haltsCryp n = false) (hcmd : i.cmd = true) :
    exec (.halt n) s = .next ((s.consume n i c).haltCmd n i) :=
  congrArg Host.Outcome.next ((if_neg (ne_true_of_eq_false hcryp)).trans ((State.issue_ready hready).trans (if_pos hcmd)))

/-- A command-class HALT ends the submission that runs, and completes with OK (13 R392). -/
theorem State.haltCmd_running (hcmd : i.cmd = true) (hcur : (s.ctx n).cur.isSome = true) :
    ((s.haltCmd n i).ctx n).cur = none ∧ LastRecord (s.haltCmd n i) n .ok 0 := by
  obtain ⟨u, hu⟩ := Option.isSome_iff_exists.mp hcur
  -- The page of a Slipway program may become DONE on the way; the context is that at the end of its submission in either case.
  obtain ⟨v, hv, hhalt⟩ : ∃ v : State, v.ctx n = (s.ctx n).endSub ∧ s.haltCmd n i = v.completeR n i .ok 0 := by
    unfold State.haltCmd
    simp only [hu]
    refine ⟨_, ?_, rfl⟩
    split
    · split
      · exact s.ctx_setCtx n _
      · exact s.ctx_setCtx n _
    · exact s.ctx_setCtx n _
  rw [hhalt]
  refine ⟨?_, State.lastRecord_complete_of_cmd v n .ok 0 [0] false hcmd⟩
  rw [State.completeR, State.complete_ctx_of_cmd v n .ok 0 [0] false hcmd, hv]
  rfl

theorem State.haltCmd_idle (hcur : (s.ctx n).cur = none) : s.haltCmd n i = s.fail n i .idle := by
  unfold State.haltCmd
  rw [hcur]

/-! ### Branches -/

theorem State.branch_stored (hstored : i.stored = true) :
    s.branch n i = (s.setCtx n { s.ctx n with pc := fld i.word 11 0 }).completeR n i .ok 0 := if_pos hstored

/-- A branch in the queue moves the read point over as many items, or refuses a target past the submission (12 R366). -/
theorem State.branch_queued {u : Cur} (hstored : i.stored = false) (hcur : (s.ctx n).cur = some u) :
    s.branch n i =
      if u.sub.items.length < u.next + fld i.word 11 0 then s.fail n i .range
      else (s.setCtx n { s.ctx n with
        cur := some { u with next := u.next + fld i.word 11 0, high := max u.high (u.next + fld i.word 11 0) },
        rd := ((s.ctx n).rd + fld i.word 11 0) % 512 }).completeR n i .ok 0 := by
  refine (if_neg (ne_true_of_eq_false hstored)).trans ?_
  simp only [hcur]
  rfl

theorem exec_br (hready : Ready s n 0x08 i c) : exec (.br n) s = .next ((s.consume n i c).branch n i) :=
  congrArg Host.Outcome.next (State.issue_ready hready)

theorem exec_bz (hready : Ready s n 0x09 i c) :
    exec (.bz n) s = .next (if (s.ctx n).reg (iGa i.word) = 0 then (s.consume n i c).branch n i else (s.consume n i c).completeR n i .ok 0) := by
  refine congrArg Host.Outcome.next ((State.issue_ready hready).trans ?_)
  rw [State.consume_opA hready]
  rfl

theorem exec_bnz (hready : Ready s n 0x0A i c) :
    exec (.bnz n) s = .next (if (s.ctx n).reg (iGa i.word) ≠ 0 then (s.consume n i c).branch n i else (s.consume n i c).completeR n i .ok 0) := by
  refine congrArg Host.Outcome.next ((State.issue_ready hready).trans ?_)
  rw [State.consume_opA hready, ite_not]
  rfl

/-! ### LOOP and CALLP -/

/-- LOOP: it refuses a count of 0 and a queue without a mark, ends at a count of 1, and else counts down and goes back (12 R367). -/
theorem exec_loop (hready : Ready s n 0x0B i c) :
    let u := s.consume n i c
    let v := (s.ctx n).reg (iGd i.word)
    exec (.loop n) s = .next (
      if v = 0 ∨ (i.stored = false ∧ c.mark = none) then u.fail n i .range
      else if v = 1 then u.completeR n i .ok 0
      else (u.setCtx n (if i.stored then { c with long := none, pc := fld i.word 11 0 } else Ctx.rewind { c with long := none })).completeR n i .ok (v - 1)) := by
  refine congrArg Host.Outcome.next ((State.issue_ready hready).trans ?_)
  simp only [State.consume_reg hready]
  simp only [State.consume_ctx, Bool.not_eq_true', Option.isNone_iff_eq_none]
  cases hstored : i.stored <;> rfl

/-- A LOOP goes on with a count and a place to go back to: a mark, or the target that it names in a called program. -/
theorem loop_goes {v : Word} (hcount : v ≠ 0) (hplace : i.stored = true ∨ c.mark.isSome = true) :
    ¬ (v = 0 ∨ (i.stored = false ∧ c.mark = none)) := by
  rintro (hzero | ⟨hqueued, hnone⟩)
  · exact hcount hzero
  · rw [hqueued, hnone] at hplace
    exact hplace.elim (by decide) (by decide)

/-- LOOP with a count above 1 goes back and counts down (12 R367). -/
theorem exec_loop_back (hready : Ready s n 0x0B i c) (hplace : i.stored = true ∨ c.mark.isSome = true)
    (hcount : 1 < ((s.ctx n).reg (iGd i.word)).toNat) :
    exec (.loop n) s = .next (((s.consume n i c).setCtx n
      (if i.stored then { c with long := none, pc := fld i.word 11 0 } else Ctx.rewind { c with long := none })).completeR n i .ok
        ((s.ctx n).reg (iGd i.word) - 1)) := by
  have hzero : (s.ctx n).reg (iGd i.word) ≠ 0 := fun h => absurd (h ▸ hcount) (by decide)
  have hone : (s.ctx n).reg (iGd i.word) ≠ 1 := fun h => absurd (h ▸ hcount) (by decide)
  rw [exec_loop hready, if_neg (loop_goes hzero hplace), if_neg hone]

/-- CALLP enters a program that the level has, up to four deep (12 R366). -/
theorem exec_callp (hready : Ready s n 0x0C i c) :
    let u := s.consume n i c
    let entry := fld (s.progWord c.level (fld i.word 7 0)) 11 0
    exec (.callp n) s = .next (
      if entry = 0 ∨ 4 ≤ c.stack.length then u.fail n i .range
      else (u.setCtx n { c with long := none, stack := ⟨c.fetch, c.pc⟩ :: c.stack, fetch := true, pc := entry }).completeR n i .ok 0) := by
  refine congrArg Host.Outcome.next ((State.issue_ready hready).trans ?_)
  simp only [State.consume_ctx, State.consume_progWord]
  rfl

end Ready

/-- Settles O2, clause by clause from what each instruction does once it is ready. -/
theorem controlInstructions : Obligations.ControlInstructions := by
  unfold Obligations.ControlInstructions
  refine ⟨?nop, ?time, ?waits, ?waitRefused, ?waitEnd, ?haltQueued, ?haltCalled, ?haltRunning, ?haltIdle, ?brWithin, ?brBeyond, ?brStored, ?bz, ?bnz,
    ?loopQueued, ?loopStored, ?loopEnds, ?loopRefused, ?callp, ?callpRefused⟩
  case nop =>
    intro s n i c hready
    exact ⟨_, congrArg Host.Outcome.next (State.issue_ready hready), State.consume_completeR hready 0⟩
  case time =>
    intro s n i c hready
    refine ⟨_, congrArg Host.Outcome.next (State.issue_ready hready), ?_⟩
    rw [State.consume_localTime hready]
    exact State.consume_completeR hready _
  case waits =>
    intro s n i c hready hwithin
    exact (exec_wait hready).trans (congrArg Host.Outcome.next (if_neg (Nat.not_lt.mpr hwithin)))
  case waitRefused =>
    intro s n i c hready hbeyond
    exact (exec_wait hready).trans (congrArg Host.Outcome.next (if_pos hbeyond))
  case waitEnd =>
    intro s n i u hlong hdue
    exact ⟨_, exec_waitEnd hlong hdue, State.finishR_ok _ hlong⟩
  case haltQueued =>
    intro s n i c hready hcryp hcmd hstored hcur
    have hended : (((s.consume n i c).setCtx n (Ctx.skipAll { c with long := none })).ctx n).exhausted = true := by
      rw [State.ctx_setCtx]
      exact Ctx.exhausted_skipAll hcur
    obtain ⟨hnone, hstack, hfetch, -⟩ := State.completeR_last (r := 0) hcmd hended
    exact ⟨_, exec_halt_queued hready hcryp hcmd hstored, hnone, hstack, hfetch,
      (State.consume_setCtx_only ..).trans (State.complete_only ..)⟩
  case haltCalled =>
    intro s n i c p r hready hcryp hcmd hstored hstack
    exact exec_halt_called hready hcryp hcmd hstored hstack
  case haltRunning =>
    intro s n i c hready hcryp hcmd hcur
    exact ⟨_, exec_halt_cmd hready hcryp hcmd, State.haltCmd_running hcmd (by rw [State.consume_ctx]; exact hcur)⟩
  case haltIdle =>
    intro s n i c hready hcryp hcmd hcur
    refine ⟨_, exec_halt_cmd hready hcryp hcmd, ?_⟩
    rw [State.haltCmd_idle (by rw [State.consume_ctx]; exact hcur)]
    exact ⟨State.lastRecord_complete_of_cmd _ n .idle 0 [] false hcmd, (s.consume_only n i c).trans (State.complete_only ..)⟩
  case brWithin =>
    intro s n i c u hready hstored hcur hwithin
    rw [exec_br hready, State.branch_queued (u := u) hstored (by rw [State.consume_ctx]; exact hcur), if_neg (Nat.not_lt.mpr hwithin),
      State.consume_ctx]
  case brBeyond =>
    intro s n i c u hready hstored hcur hbeyond
    rw [exec_br hready, State.branch_queued (u := u) hstored (by rw [State.consume_ctx]; exact hcur), if_pos hbeyond]
  case brStored =>
    intro s n i c hready hstored
    rw [exec_br hready, State.branch_stored hstored, State.consume_ctx]
  case bz =>
    intro s n i c hready
    exact exec_bz hready
  case bnz =>
    intro s n i c hready
    exact exec_bnz hready
  case loopQueued =>
    intro s n i c m hready hstored hmark hcount
    rw [exec_loop_back hready (.inr (by rw [hmark]; rfl)) hcount, hstored]
    rfl
  case loopStored =>
    intro s n i c hready hstored hcount
    rw [exec_loop_back hready (.inl hstored) hcount, hstored]
    rfl
  case loopEnds =>
    intro s n i c hready hplace hone
    have hcount : (s.ctx n).reg (iGd i.word) ≠ 0 := by
      rw [hone]
      decide
    rw [exec_loop hready, if_neg (loop_goes hcount hplace), if_pos hone]
  case loopRefused =>
    intro s n i c hready hrefused
    rw [exec_loop hready, if_pos hrefused]
  case callp =>
    intro s n i c hready hentry hdeep
    exact (exec_callp hready).trans (congrArg Host.Outcome.next (if_neg (by omega)))
  case callpRefused =>
    intro s n i c hready hrefused
    exact (exec_callp hready).trans (congrArg Host.Outcome.next (if_pos hrefused))

/-! ### The queue instructions -/

/-- A rewind frees nothing and takes nothing: FREE stays (12 R372). -/
theorem Ctx.freeItems_rewind (c : Ctx) : c.rewind.freeItems = c.freeItems := by
  unfold Ctx.rewind
  split
  next hcur => simp only [Ctx.freeItems, Ctx.queued, hcur]
  next => rfl

section Ready

variable {s : State} {n : Nat} {i : Issue} {c : Ctx}

theorem exec_mark (hready : Ready s n 0x7C i c) :
    let u := (s.consume n i c).setCtx n { c with long := none, mark := c.cur.map Cur.next }
    exec (.mark n) s = .next (u.completeR n i .ok (BitVec.ofNat 64 (u.ctx n).freeItems)) := by
  refine congrArg Host.Outcome.next ((State.issue_ready hready).trans ?_)
  rw [State.consume_ctx]
  rfl

/-- RWND refuses without a mark, and else goes back to it (12 R372). -/
theorem exec_rwnd (hready : Ready s n 0x7D i c) :
    let u := (s.consume n i c).setCtx n (Ctx.rewind { c with long := none })
    exec (.rwnd n) s = .next (
      if c.mark = none then (s.consume n i c).fail n i .range else u.completeR n i .ok (BitVec.ofNat 64 (u.ctx n).freeItems)) := by
  refine congrArg Host.Outcome.next ((State.issue_ready hready).trans ?_)
  simp only [State.freeWordOf, State.consume_ctx, State.ctx_setCtx, Ctx.freeItems_rewind, Option.isNone_iff_eq_none]
  rfl

theorem exec_rel (hready : Ready s n 0x7E i c) :
    let u := (s.consume n i c).setCtx n { c with long := none, mark := none, cur := c.cur.map (fun v => { v with freed := v.next }) }
    exec (.rel n) s = .next (u.completeR n i .ok (BitVec.ofNat 64 (u.ctx n).freeItems)) := by
  refine congrArg Host.Outcome.next ((State.issue_ready hready).trans ?_)
  rw [State.consume_ctx]
  rfl

end Ready

/-- Settles O3, instruction by instruction. -/
theorem queueInstructions : Obligations.QueueInstructions := by
  unfold Obligations.QueueInstructions
  refine ⟨?mark, ?rwnd, ?unmarked, ?rel⟩
  case mark =>
    intro s n i c hready
    exact ⟨exec_mark hready, State.consume_setCtx_only ..⟩
  case rwnd =>
    intro s n i c m v hready hmark hcur
    have hrewind : Ctx.rewind { c with long := none } =
        { c with long := none, cur := some { v with next := m }, rd := (c.rd + 512 - (v.next - m)) % 512 } := by
      simp only [Ctx.rewind, hmark, hcur]
    refine ⟨?_, State.consume_setCtx_only ..⟩
    rw [exec_rwnd hready, if_neg (by simp [hmark]), hrewind]
  case unmarked =>
    intro s n i c hready hmark
    rw [exec_rwnd hready, if_pos hmark]
  case rel =>
    intro s n i c hready
    exact ⟨exec_rel hready, State.consume_setCtx_only ..⟩

end Sys2Proof.Machine
end

section
/-! The threads of a sequencer, and IDLE (12 R362, R363, R374): each command under its conditions. -/

namespace Sys2Proof.Machine

open Sys2Proof.Safety

/-! ### Threads -/

section Threads

variable {s : State} {tile thread m n : Nat}

theorem exec_contextLoad_free (hthread : s.threadOk tile thread = true) (hnext : s.nextReady tile thread = some m)
    (hfree : s.onThread tile thread = none) :
    exec (.contextLoad tile thread) s =
      .next ((s.setCtx m { s.ctx m with thread := some thread, since := s.clock }).countLoad m tile thread) := by
  refine congrArg Host.Outcome.next ((if_neg (by rw [hthread]; decide)).trans ?_)
  simp only [hnext, hfree]

theorem exec_contextLoad_stays {k : Nat} (hthread : s.threadOk tile thread = true) (hnext : s.nextReady tile thread = some m)
    (hbusy : s.onThread tile thread = some k) (hstays : s.givesWay tile thread k m = false) : exec (.contextLoad tile thread) s = .next s := by
  refine congrArg Host.Outcome.next ((if_neg (by rw [hthread]; decide)).trans ?_)
  simp only [hnext, hbusy]
  exact if_neg (ne_true_of_eq_false hstays)

/-- A context at a boundary whose quantum has passed gives its thread up to another that waits (12 R363). -/
theorem exec_quantumExpiry_due (hthread : s.onThread tile thread = some n) (hnext : s.nextReady tile thread = some m)
    (hboundary : (s.ctx n).atBoundary = true) (hdue : (s.ctx n).since + s.tileP bSeq tile 0 * us ≤ s.clock) :
    exec (.quantumExpiry tile thread) s = .next (s.unload n) := by
  show execQuantumExpiry tile thread s = _
  unfold execQuantumExpiry
  rw [hthread]
  exact congrArg Host.Outcome.next (if_pos ⟨decide_eq_true hdue, by rw [hnext]; rfl, hboundary⟩)

theorem KeepsRegs.of_g {t : State} (h : (t.ctx n).g = (s.ctx n).g) : KeepsRegs s t n := Ctx.reg_eq_of_g h

@[simp] theorem State.ctx_unload (s : State) (n : Nat) : (s.unload n).ctx n = { s.ctx n with thread := none, ready := s.clock } :=
  State.ctx_setCtx ..

theorem State.unload_only (s : State) (n : Nat) : OnlyContext s (s.unload n) n := State.setCtx_only ..

/-- A context without its thread has its registers, and nothing else has changed (12 R363). -/
theorem State.unload_frees_thread (s : State) (n : Nat) : ((s.unload n).ctx n).thread = none ∧ KeepsRegs s (s.unload n) n ∧ OnlyContext s (s.unload n) n :=
  ⟨by rw [State.ctx_unload], KeepsRegs.of_g (by rw [State.ctx_unload]), s.unload_only n⟩

end Threads

/-! ### IDLE -/

/-- The item that IDLE stands for where the queue holds none. -/
def noItem : Issue :=
  { word := 0, opcode := 0, index := 0, pc := 0, stored := false, cmd := false, prio := 0, path := .firmware, pl := 0, subid := 0 }

/-- What IDLE does to its context: it gives up its thread where another context of the tile is ready, and else waits for 1 µs (12 R374). -/
def State.rest (s : State) (n t : Nat) (i : Issue) : State :=
  if s.ctxNums.any (fun m => (s.ctx m).isReady t) then s.unload n else s.setCtx n { s.ctx n with long := some (i, .idle s.clock) }

/-- IDLE writes no register and no record (12 R374). -/
theorem State.rest_keeps (s : State) (n t : Nat) (i : Issue) :
    ((s.rest n t i).ctx n).g = (s.ctx n).g ∧ ((s.rest n t i).ctx n).outbox = (s.ctx n).outbox ∧ OnlyContext s (s.rest n t i) n := by
  unfold State.rest
  split
  · exact ⟨by rw [State.ctx_unload], by rw [State.ctx_unload], s.unload_only n⟩
  · exact ⟨by rw [State.ctx_setCtx], by rw [State.ctx_setCtx], State.setCtx_only ..⟩

section Idle

variable {s : State} {n : Nat} (hissue : s.canIssue n = true) (hlong : (s.ctx n).long = none)

include hissue hlong

theorem execIdle_issues : ¬ (!s.canIssue n || (s.ctx n).long.isSome) = true := by
  rw [hissue, hlong]
  decide

/-- The queue holds nothing that the consumer can take. -/
theorem exec_idle_empty (hnext : s.readNext n = none) : exec (.idle n) s = .next (s.rest n (s.ctx n).tile noItem) := by
  refine congrArg Host.Outcome.next ((if_neg (execIdle_issues hissue hlong)).trans ?_)
  simp only [hnext]
  rfl

/-- IDLE has been submitted: its item is consumed, and its submission ends where it was the last of it. -/
theorem exec_idle_item {i : Issue} {c : Ctx} (hnext : s.readNext n = some (i, c)) (hop : i.opcode = 0) (hcmd : i.cmd = false)
    (henc : i.encOk = true) :
    let u := s.consume n i c
    exec (.idle n) s = .next ((if (u.ctx n).exhausted then u.setCtx n (u.ctx n).endSub else u).rest n (s.ctx n).tile i) := by
  refine congrArg Host.Outcome.next ((if_neg (execIdle_issues hissue hlong)).trans ?_)
  simp only [hnext, hop, hcmd, henc, ne_eq, not_true_eq_false, Bool.false_eq_true, or_self, if_false, Bool.not_true]
  rfl

end Idle

theorem exec_idleTimeout_due {s : State} {n since : Nat} {i : Issue} (hlong : (s.ctx n).long = some (i, .idle since)) (hdue : since + us ≤ s.clock) :
    exec (.idleTimeout n) s = .next ((s.setCtx n { s.ctx n with long := none }).unload n) := by
  show execIdleTimeout n s = _
  unfold execIdleTimeout
  rw [hlong]
  exact congrArg Host.Outcome.next (if_pos (decide_eq_true hdue))

/-- Settles O4, clause by clause from what each command does under its conditions. -/
theorem threadsAndIdle : Obligations.ThreadsAndIdle := by
  unfold Obligations.ThreadsAndIdle
  refine ⟨?loads, ?stays, ?expires, ?unloads, ?rests, ?submitted, ?timeout⟩
  case loads =>
    intro s tile thread m hthread hnext hfree
    exact exec_contextLoad_free hthread hnext hfree
  case stays =>
    intro s tile thread m k hthread hnext hbusy hstays
    exact exec_contextLoad_stays hthread hnext hbusy hstays
  case expires =>
    intro s tile thread n m hthread hnext hboundary hdue
    exact ⟨_, exec_quantumExpiry_due hthread hnext hboundary hdue, s.unload_frees_thread n⟩
  case unloads =>
    intro s n hissue hlong hnext hother
    have hrest : s.rest n (s.ctx n).tile noItem = s.unload n := if_pos hother
    exact ⟨_, exec_idle_empty hissue hlong hnext, hrest ▸ s.unload_frees_thread n⟩
  case rests =>
    intro s n hissue hlong hnext hnone
    have hrest : s.rest n (s.ctx n).tile noItem = s.setCtx n { s.ctx n with long := some (noItem, .idle s.clock) } := if_neg (ne_true_of_eq_false hnone)
    obtain ⟨hg, -, honly⟩ := s.rest_keeps n (s.ctx n).tile noItem
    exact ⟨_, exec_idle_empty hissue hlong hnext, ⟨noItem, by rw [hrest, State.ctx_setCtx]⟩, by rw [hrest, State.ctx_setCtx], KeepsRegs.of_g hg, honly⟩
  case submitted =>
    intro s n i c hissue hlong hnext hop hcmd henc
    obtain ⟨hcg, hcoutbox, -, -⟩ := State.readNext_keeps_regs hnext
    refine ⟨_, exec_idle_item hissue hlong hnext hop hcmd henc, ?_⟩
    generalize hv : (if ((s.consume n i c).ctx n).exhausted then (s.consume n i c).setCtx n ((s.consume n i c).ctx n).endSub
      else s.consume n i c) = v
    have hvkeeps : (v.ctx n).g = (s.ctx n).g ∧ (v.ctx n).outbox = (s.ctx n).outbox ∧ OnlyContext s v n := by
      subst hv
      split
      · rw [State.ctx_setCtx, State.consume_ctx]
        exact ⟨hcg, hcoutbox, State.consume_setCtx_only ..⟩
      · rw [State.consume_ctx]
        exact ⟨hcg, hcoutbox, s.consume_only n i c⟩
    obtain ⟨hvg, hvoutbox, hvonly⟩ := hvkeeps
    obtain ⟨hg, houtbox, honly⟩ := v.rest_keeps n (s.ctx n).tile i
    exact ⟨KeepsRegs.of_g (hg.trans hvg), houtbox.trans hvoutbox, hvonly.trans honly⟩
  case timeout =>
    intro s n since i hlong hdue
    let u := s.setCtx n { s.ctx n with long := none }
    have hu : u.ctx n = { s.ctx n with long := none } := State.ctx_setCtx ..
    refine ⟨_, exec_idleTimeout_due hlong hdue, ?_, by rw [State.ctx_unload], KeepsRegs.of_g ?_, (State.setCtx_only ..).trans (State.unload_only ..)⟩
    · rw [State.ctx_unload, hu]
    · rw [State.ctx_unload, hu]

end Sys2Proof.Machine
end

section
/-! Submissions into the queue of a context, and its completion records to their sinks (12 R370, R371, R375, R376; 03 R99 to R104): each command
under its conditions. -/

namespace Sys2Proof.Machine

open Sys2Proof.Safety

/-! ### Room in the queue -/

/-- A context with a submission at the end of its queue (12 R370). -/
def Ctx.withSub (c : Ctx) (b : Sub) (now : Nat) : Ctx :=
  { c with waiting := c.waiting ++ [b], wr := (c.wr + b.items.length) % 512, ready := if c.hasWork then c.ready else now }

theorem State.enterSub_room {s : State} {n : Nat} {b : Sub} (hcreated : (s.ctx n).created = true) (hroom : b.items.length ≤ (s.ctx n).freeItems) :
    s.enterSub n b = some (s.setCtx n ((s.ctx n).withSub b s.clock)) := if_pos ⟨hcreated, hroom⟩

theorem State.enterSub_full {s : State} {n : Nat} {b : Sub} (hfull : (s.ctx n).freeItems < b.items.length) : s.enterSub n b = none :=
  if_neg fun h => absurd h.2 (Nat.not_le.mpr hfull)

/-! ### Submissions -/

/-- The LDs that submit to a context, as 16 · tile + LD. -/
def State.submitters (s : State) (n : Nat) : List Nat := (List.range (16 * s.tiles)).filter (fun k => decide (s.ldCtx (k / 16) (k % 16) = some n))

section Submission

variable {s : State} {n t d : Nat}

/-- A context to which no LD submits takes what its Slipway page or MCTP holds for it. -/
theorem exec_submission_of_no_ld (hnone : s.submitters n = []) :
    exec (.submission n) s = .next (if n < 0x1000 then s.moveSlip n else if n = 0x103F then s.moveMctp else s) := by
  show execSubmission n s = _
  unfold execSubmission
  unfold State.submitters at hnone
  rw [hnone]
  rfl

theorem exec_submission_slip (hnone : s.submitters n = []) (hsession : n < 0x1000) : exec (.submission n) s = .next (s.moveSlip n) :=
  (exec_submission_of_no_ld hnone).trans (congrArg Host.Outcome.next (if_pos hsession))

theorem exec_submission_mctp (hnone : s.submitters 0x103F = []) : exec (.submission 0x103F) s = .next s.moveMctp :=
  (exec_submission_of_no_ld hnone).trans rfl

/-- The context of the management LDs takes what the one LD that submits to it has: its command item, and then its doorbells. -/
theorem exec_submission_mgmt (hone : s.submitters 0x103E = [16 * t + d]) (hd : d < 16) :
    exec (.submission 0x103E) s = .next ((s.moveCmd t d).moveRing t d) := by
  have ht : (16 * t + d) / 16 = t := by omega
  have hmod : (16 * t + d) % 16 = d := by omega
  show execSubmission 0x103E s = _
  unfold execSubmission
  unfold State.submitters at hone
  rw [hone]
  simp only [List.foldl_cons, List.foldl_nil, ht, hmod]
  rfl

theorem State.moveMctp_room {b : Sub} {r : List Sub} (hwaits : s.mgmt.waiting = b :: r) (hcreated : (s.ctx 0x103F).created = true)
    (hroom : b.items.length ≤ (s.ctx 0x103F).freeItems) :
    s.moveMctp = { s.setCtx 0x103F ((s.ctx 0x103F).withSub b s.clock) with mgmt := { s.mgmt with waiting := r } } := by
  unfold State.moveMctp
  simp only [hwaits, State.enterSub_room hcreated hroom]
  rfl

theorem State.moveMctp_full {b : Sub} {r : List Sub} (hwaits : s.mgmt.waiting = b :: r) (hfull : (s.ctx 0x103F).freeItems < b.items.length) :
    s.moveMctp = s := by
  unfold State.moveMctp
  simp only [hwaits, State.enterSub_full hfull]

/-- The program of a Slipway page, as a submission at PL3 (03 R104). -/
def State.slipSub (s : State) (n : Nat) : Sub :=
  { items := (List.range (s.sess n).slip.count).map (fun i => Store.read (s.sess n).slip.words (0x40 + 8 * i) 0),
    prio := (s.param (pid bSess 1023 1) n).toNat % 8, path := .slipway n, pl := 3 }

theorem State.slipSub_length (s : State) (n : Nat) : (s.slipSub n).items.length = (s.sess n).slip.count := by
  simp [State.slipSub]

theorem State.moveSlip_room (hqueued : (s.sess n).slip.state = .queued) (hnew : (s.sess n).slip.entered = false)
    (hcreated : (s.ctx n).created = true) (hroom : (s.sess n).slip.count ≤ (s.ctx n).freeItems) :
    s.moveSlip n = (s.setCtx n ((s.ctx n).withSub (s.slipSub n) s.clock)).setSlip n { (s.sess n).slip with entered := true } := by
  have henter : s.enterSub n (s.slipSub n) = some (s.setCtx n ((s.ctx n).withSub (s.slipSub n) s.clock)) :=
    State.enterSub_room hcreated (by rw [State.slipSub_length]; exact hroom)
  unfold State.slipSub at henter ⊢
  unfold State.moveSlip
  simp only [henter, hqueued, hnew, Bool.not_false, and_self, if_true]

theorem State.moveCmd_idle (hctx : s.ldCtx t d = some n) (hidle : (s.bar t d).cmdBusy = false) : s.moveCmd t d = s := by
  unfold State.moveCmd
  simp only [hctx, hidle, Bool.false_eq_true, if_false]

/-- The items of the oldest doorbell of an LD, with the priority it gives, as a submission (03 R99). -/
def State.ringSub (s : State) (t d tail prio : Nat) : Sub :=
  { items := (List.range ((tail + 1024 - (s.bar t d).sqHead) % 1024)).map (fun i => Store.read (s.bar t d).sq (((s.bar t d).sqHead + i) % 1024) 0),
    prio, path := .bar0 t d, pl := s.ldLevel t d }

/-- A doorbell of at most 512 items enters whole, and its items leave the submission window (03 R99). -/
theorem State.moveRing_enters {tail prio : Nat} {rest : List (Nat × Nat)} {u : State} (hctx : s.ldCtx t d = some n)
    (hwaits : (s.bar t d).sqWait = (tail, prio) :: rest) (hsome : 0 < (tail + 1024 - (s.bar t d).sqHead) % 1024)
    (hone : (tail + 1024 - (s.bar t d).sqHead) % 1024 ≤ 512) (henter : s.enterSub n (s.ringSub t d tail prio) = some u) :
    s.moveRing t d = u.setBar t d { s.bar t d with
      sqHead := ((s.bar t d).sqHead + (tail + 1024 - (s.bar t d).sqHead) % 1024) % 1024, sqWait := rest } := by
  unfold State.ringSub at henter
  unfold State.moveRing
  simp only [hctx, hwaits, min_eq_left hone, hsome.ne', henter, if_false, if_pos hone]

end Submission

/-- Settles O5, clause by clause from what each command does under its conditions. -/
theorem submissions : Obligations.Submissions := by
  unfold Obligations.Submissions
  refine ⟨?mctp, ?full, ?slipway, ?doorbell⟩
  case mctp =>
    intro s b r hnone hwaits hcreated hroom
    let c := (s.ctx 0x103F).withSub b s.clock
    have hctx : (s.setCtx 0x103F c).ctx 0x103F = c := State.ctx_setCtx ..
    refine ⟨_, (exec_submission_mctp hnone).trans (congrArg Host.Outcome.next (State.moveMctp_room hwaits hcreated hroom)), ?_, rfl, rfl, ?_⟩
    · exact congrArg Ctx.waiting hctx
    · exact KeepsRegs.of_g (congrArg Ctx.g hctx :)
  case full =>
    intro s b r hnone hwaits hfull
    rw [exec_submission_mctp hnone, State.moveMctp_full hwaits hfull]
  case slipway =>
    intro s n hnone hsession hqueued hnew hcreated hroom
    refine ⟨_, (exec_submission_slip hnone hsession).trans (congrArg Host.Outcome.next (State.moveSlip_room hqueued hnew hcreated hroom)), ?_, ?_, rfl⟩
    · exact congrArg Ctx.waiting (State.ctx_setCtx s n ((s.ctx n).withSub (s.slipSub n) s.clock))
    · exact congrArg (fun x : Sess => x.slip.entered) (State.sess_setSess ..)
  case doorbell =>
    rintro s _ t d tail prio rest u hone hd rfl hctx hidle hwaits hsome hwhole henter
    rw [exec_submission_mgmt hone hd, State.moveCmd_idle hctx hidle, State.moveRing_enters hctx hwaits hsome hwhole henter]

/-! ### Completion records -/

section Records

variable {s : State} {n t d m : Nat} {r : Cpl} {rest : List Cpl}

/-- A record reaches the page of its Slipway program, or the BMC (12 R375). -/
def State.reach (s : State) (n : Nat) (r : Cpl) (rest : List Cpl) : State :=
  match r.path with
  | .slipway m => s.slipRecord n m r rest
  | .mctp => { s with mgmt := { s.mgmt with results := s.mgmt.results ++ [r.words] } }
  | _ => s

/-- A record enters the completion window that its path has, if it has one (03 R101). -/
def State.enterWindow (s : State) (r : Cpl) : State :=
  match s.window? r.path with
  | some (t, d) => s.writeWindow t d r
  | none => s

theorem exec_completionRecord (hout : (s.ctx n).outbox = r :: rest) :
    exec (.completionRecord n) s =
      .next (if s.sinkShut r.path then s else ((s.setCtx n { s.ctx n with outbox := rest }).reach n r rest).enterWindow r) := by
  show execCompletionRecord n s = _
  unfold execCompletionRecord
  rw [hout]
  rfl

/-- Where the sink has room the record leaves its context (12 R375). -/
theorem exec_completionRecord_room (hout : (s.ctx n).outbox = r :: rest) (hroom : s.sinkShut r.path = false) :
    exec (.completionRecord n) s = .next (((s.setCtx n { s.ctx n with outbox := rest }).reach n r rest).enterWindow r) := by
  rw [exec_completionRecord hout, if_neg (ne_true_of_eq_false hroom)]

theorem State.enterWindow_of_window (hwindow : s.window? r.path = some (t, d)) : s.enterWindow r = s.writeWindow t d r := by
  unfold State.enterWindow
  rw [hwindow]

theorem State.enterWindow_of_none (hnone : s.window? r.path = none) : s.enterWindow r = s := by
  unfold State.enterWindow
  rw [hnone]

theorem exec_completionRecord_shut (hout : (s.ctx n).outbox = r :: rest) (hshut : s.sinkShut r.path = true) :
    exec (.completionRecord n) s = .next s := by
  rw [exec_completionRecord hout, if_pos hshut]

theorem State.sinkShut_mctp (hroom : s.mgmt.results.length < 16) : s.sinkShut .mctp = false := decide_eq_false (Nat.not_le.mpr hroom)

theorem State.reach_firmware (hpath : r.path = .firmware) : s.reach n r rest = s := by
  unfold State.reach
  rw [hpath]

theorem State.reach_mctp (hpath : r.path = .mctp) :
    s.reach n r rest = { s with mgmt := { s.mgmt with results := s.mgmt.results ++ [r.words] } } := by
  unfold State.reach
  rw [hpath]

theorem State.reach_slipway (hpath : r.path = .slipway m) : s.reach n r rest = s.slipRecord n m r rest := by
  unfold State.reach
  rw [hpath]

theorem exec_completionRecord_firmware (hout : (s.ctx n).outbox = r :: rest) (hpath : r.path = .firmware) :
    exec (.completionRecord n) s = .next (s.setCtx n { s.ctx n with outbox := rest }) := by
  have hroom : s.sinkShut r.path = false := by rw [hpath]; rfl
  rw [exec_completionRecord_room hout hroom, State.reach_firmware hpath, State.enterWindow_of_none (by rw [hpath]; rfl)]

theorem exec_completionRecord_mctp (hout : (s.ctx n).outbox = r :: rest) (hpath : r.path = .mctp) (hfew : s.mgmt.results.length < 16) :
    exec (.completionRecord n) s =
      .next { s.setCtx n { s.ctx n with outbox := rest } with mgmt := { s.mgmt with results := s.mgmt.results ++ [r.words] } } := by
  have hroom : s.sinkShut r.path = false := by
    rw [hpath]
    exact State.sinkShut_mctp hfew
  rw [exec_completionRecord_room hout hroom, State.reach_mctp hpath, State.enterWindow_of_none (by rw [hpath]; rfl)]
  rfl

/-- A record of an LD's doorbell or command enters the LD's completion window (03 R101). -/
theorem exec_completionRecord_window (hout : (s.ctx n).outbox = r :: rest) (hpath : r.path = .bar0 t d ∨ r.path = .cmd t d)
    (hroom : (s.bar t d).cqUsed < 255) :
    exec (.completionRecord n) s = .next ((s.setCtx n { s.ctx n with outbox := rest }).writeWindow t d r) := by
  have hopen : decide (255 ≤ (s.bar t d).cqUsed) = false := decide_eq_false (Nat.not_le.mpr hroom)
  rcases hpath with hpath | hpath
  · rw [exec_completionRecord_room hout (by rw [hpath]; exact hopen), State.enterWindow_of_window (t := t) (d := d) (by rw [hpath]; rfl),
      State.reach, hpath]
  · rw [exec_completionRecord_room hout (by rw [hpath]; exact hopen), State.enterWindow_of_window (t := t) (d := d) (by rw [hpath]; rfl),
      State.reach, hpath]

/-! ### Records of a Slipway program -/

/-- The page of a session does not say which window its owner LD has. -/
theorem State.ownerWindow_setSlip (s : State) (m : Nat) (x : Slip) : (s.setSlip m x).ownerWindow m = s.ownerWindow m := by
  have hsess : (s.setSlip m x).sess m = { s.sess m with slip := x } := State.sess_setSess ..
  unfold State.ownerWindow
  rw [hsess]
  rfl

theorem State.window?_slipway (hwindow : s.ownerWindow m = false) : s.window? (.slipway m) = none := if_neg (ne_true_of_eq_false hwindow)

/-- Of the program of a Slipway page more is to come from a context: records that wait, or the submission that runs. -/
def State.slipLeft (s : State) (n m : Nat) (rest : List Cpl) : Bool :=
  rest.any (fun q => decide (q.path = .slipway m)) || (match (s.ctx n).cur with | some u => decide (u.sub.path = .slipway m) | none => false)

theorem State.slipLeft_iff (s : State) (n m : Nat) (rest : List Cpl) :
    s.slipLeft n m rest = true ↔ rest.any (fun q => decide (q.path = .slipway m)) = true ∨ ∃ u, (s.ctx n).cur = some u ∧ u.sub.path = .slipway m := by
  unfold State.slipLeft
  rw [Bool.or_eq_true]
  refine or_congr_right ?_
  cases (s.ctx n).cur <;> simp

/-- The page of a running program after a record has reached it (03 R104). -/
def Slip.withRecord (x : Slip) (r : Cpl) (left : Bool) : Slip :=
  { x with lastStat := r.status.code, lastIdx := r.index % 4096, state := if r.last || !left then .done else .running }

theorem State.slipRecord_running (hrun : (s.sess m).slip.state = .running) :
    s.slipRecord n m r rest = s.setSlip m ((s.sess m).slip.withRecord r (s.slipLeft n m rest)) := if_pos hrun

/-- A record of a Slipway program whose page has no completion window beside it (03 R104). -/
theorem exec_completionRecord_slipway (hout : (s.ctx n).outbox = r :: rest) (hpath : r.path = .slipway m) (hwindow : s.ownerWindow m = false)
    (hrun : (s.sess m).slip.state = .running) :
    let u := s.setCtx n { s.ctx n with outbox := rest }
    exec (.completionRecord n) s = .next (u.setSlip m ((s.sess m).slip.withRecord r (u.slipLeft n m rest))) := by
  intro u
  have hroom : s.sinkShut r.path = false := by
    rw [hpath]
    unfold State.sinkShut
    simp only [State.window?_slipway hwindow]
  have hnone : (u.setSlip m ((s.sess m).slip.withRecord r (u.slipLeft n m rest))).window? r.path = none := by
    rw [hpath]
    exact State.window?_slipway ((u.ownerWindow_setSlip m _).trans hwindow)
  rw [exec_completionRecord_room hout hroom, State.reach_slipway hpath, State.slipRecord_running (s := u) hrun]
  exact congrArg Host.Outcome.next (State.enterWindow_of_none hnone)

theorem exec_completionSpace_room {i : Issue} {c : Ctx} (hheld : (s.ctx n).held = true) (hnext : s.readNext n = some (i, c))
    (hroom : s.sinkFull n i.path = false) : exec (.completionSpace n) s = .next (s.setCtx n { s.ctx n with held := false }) := by
  refine congrArg Host.Outcome.next ((if_pos hheld).trans ?_)
  simp only [hnext]
  exact if_neg (ne_true_of_eq_false hroom)

end Records

/-- Settles O6, sink by sink. -/
theorem completionRecords : Obligations.CompletionRecords := by
  unfold Obligations.CompletionRecords
  refine ⟨?firmware, ?mctp, ?window, ?slipway, ?shut, ?space⟩
  case firmware =>
    intro s n r rest hout hpath
    exact exec_completionRecord_firmware hout hpath
  case mctp =>
    intro s n r rest hout hpath hroom
    exact exec_completionRecord_mctp hout hpath hroom
  case window =>
    intro s n t d r rest hout hpath hroom
    exact exec_completionRecord_window hout hpath hroom
  case slipway =>
    intro s n m r rest hout hpath hwindow hrun
    let u := s.setCtx n { s.ctx n with outbox := rest }
    have hctx : u.ctx n = { s.ctx n with outbox := rest } := State.ctx_setCtx ..
    have hslip : ((u.setSlip m ((s.sess m).slip.withRecord r (u.slipLeft n m rest))).sess m).slip =
        (s.sess m).slip.withRecord r (u.slipLeft n m rest) := congrArg Sess.slip (State.sess_setSess ..)
    refine ⟨_, exec_completionRecord_slipway hout hpath hwindow hrun, congrArg Ctx.outbox hctx, ?_, ?_, ?_⟩
    · rw [hslip]
      rfl
    · rw [hslip]
      rfl
    · have hleft := u.slipLeft_iff n m rest
      rw [hctx] at hleft
      rw [hslip]
      refine if_congr ?_ rfl rfl
      rw [Bool.or_eq_true, Bool.not_eq_true', ← Bool.not_eq_true, hleft]
  case shut =>
    intro s n r rest hout hshut
    exact exec_completionRecord_shut hout hshut
  case space =>
    intro s n i c hheld hnext hroom
    exact exec_completionSpace_room hheld hnext hroom

end Sys2Proof.Machine
end

section
/-! The parameter instructions GETP, STGP, LOCKP and CRD (12 R377, R378; 13 R396, R398, R422): each instruction under its conditions, once it is
ready. -/

namespace Sys2Proof.Machine

open Sys2Proof.Safety

/-- An instruction whose level its entry refuses completes with PRIV (13 R390, step 2). -/
theorem State.issueOp_priv {s : State} {n op : Nat} {i : Issue} {c : Ctx} {enc level : State → Issue → Bool} {act : State → Issue → State}
    (h : Ready s n op i c) (he : enc (s.consume n i c) i = true) (hl : level (s.consume n i c) i = false) :
    s.issueOp n op enc level act = (s.consume n i c).complete n i .priv 0 [] false := by
  obtain ⟨hissue, hnext, hop, henc, hlevel, -, hroom⟩ := h
  unfold State.issueOp State.refuse
  simp [hissue, hnext, hop, henc, hlevel, hroom, he, hl]

section Ready

variable {s : State} {n : Nat} {i : Issue} {c : Ctx}

/-! ### GETP -/

theorem exec_getp (hready : Ready s n 0x20 i c) (hnow : s.getWaits n = false) (hread : (s.consume n i c).mayRead n i.pl (iParam i.word) false = true) :
    exec (.getp n) s = .next ((s.consume n i c).getp n i) :=
  congrArg Host.Outcome.next ((if_neg (ne_true_of_eq_false hnow)).trans (State.issueOp_ready hready rfl hread))

theorem exec_getp_priv (hready : Ready s n 0x20 i c) (hnow : s.getWaits n = false)
    (hread : (s.consume n i c).mayRead n i.pl (iParam i.word) false = false) :
    exec (.getp n) s = .next ((s.consume n i c).complete n i .priv 0 [] false) :=
  congrArg Host.Outcome.next ((if_neg (ne_true_of_eq_false hnow)).trans (State.issueOp_priv hready rfl hread))

theorem State.getp_unassigned (hid : s.idOk n i.pl (iParam i.word) = false) : s.getp n i = s.fail n i .range :=
  if_pos (by rw [hid]; rfl)

/-- The staged value that GETP with XF = 1 returns to the owner of the set (13 R396). -/
def State.stagedFor (s : State) (n : Nat) (i : Issue) : Option Word :=
  if iXf i.word = true ∧ s.set.owner = some n then s.stagedValue (iParam i.word) (s.idSess n i.pl (iParam i.word)) else none

/-- GETP of an assigned parameter: its value staged or in effect, and what is RC is cleared (13 R396). -/
theorem State.getp_read (hid : s.idOk n i.pl (iParam i.word) = true) (hfenced : s.idFenced (iParam i.word) = false) :
    let u := s.beforeRead (iParam i.word)
    let m := s.idSess n i.pl (iParam i.word)
    s.getp n i = (u.afterRead (iParam i.word) m).completeR n i .ok ((s.stagedFor n i).getD (u.view (iParam i.word) m)) :=
  (if_neg (by rw [hid]; decide)).trans (if_neg (ne_true_of_eq_false hfenced))

theorem State.stagedFor_of_not_asked (h : iXf i.word = false ∨ s.set.owner ≠ some n) : s.stagedFor n i = none := by
  refine if_neg ?_
  rintro ⟨hxf, howner⟩
  rcases h with h | h
  · rw [h] at hxf
    cases hxf
  · exact h howner

/-! ### STGP -/

/-- The change that STGP stages: the word of its parameter (13 R396). -/
def State.stgpChange (s : State) (n : Nat) (i : Issue) (c : Ctx) : Change :=
  .field (iParam i.word) (s.idSess n i.pl (iParam i.word)) 63 0 (i.stgpValue c).toNat

section Stgp

variable {p : PSpec} (hspec : pspec s.tiles (iParam i.word) = some p) (hid : s.idOk n i.pl (iParam i.word) = true)
  (hrange : s.writeRange (iParam i.word) p.fields (i.stgpValue (s.ctx n)) = true) (hfenced : s.idFenced (iParam i.word) = false)
  (hmode : s.writeMode (iParam i.word) (i.stgpValue (s.ctx n)) = true)
include hspec hid hrange hfenced hmode

/-- STGP of a parameter whose writable fields are all STG stages its word, and gives the value in effect (13 R396). -/
theorem State.stgp_stages (hstg : hasStg p.fields = true) (hplain : p.fields.any (fun f => f.writable && !f.stg) = false)
    (hdropped : (s.ctx n).dropped = false) (hstage : s.canStage n [s.stgpChange n i (s.ctx n)] = true) :
    s.stgp n i = (s.completeR n i .ok (s.view (iParam i.word) (s.idSess n i.pl (iParam i.word)))).stage n i.pl [s.stgpChange n i (s.ctx n)] := by
  unfold State.stgpChange at hstage ⊢
  unfold State.stgp
  simp only [hspec, hid, hrange, hfenced, hmode, hstg, hplain, hdropped, hstage, Bool.not_true, Bool.or_self, Bool.and_false, Bool.false_eq_true,
    if_true, if_false, List.isEmpty_cons]
  rfl

/-- STGP of a parameter without STG fields writes it at once (13 R396). -/
theorem State.stgp_writes (hstg : hasStg p.fields = false) (hplain : p.fields.any (fun f => f.writable && !f.stg) = true) :
    let m := s.idSess n i.pl (iParam i.word)
    s.stgp n i = (s.completeR n i .ok (s.view (iParam i.word) m)).writePlain n p.fields (iParam i.word) m (i.stgpValue (s.ctx n)) := by
  unfold State.stgp
  simp only [hspec, hid, hrange, hfenced, hmode, hstg, hplain, Bool.not_true, Bool.or_self, Bool.false_and, Bool.false_eq_true, if_true, if_false,
    List.isEmpty_nil]
  rfl

end Stgp

theorem Issue.stgpValue_consume (s : State) (n : Nat) (i : Issue) (c : Ctx) : i.stgpValue ((s.consume n i c).ctx n) = i.stgpValue c := by
  rw [State.consume_ctx]
  rfl

theorem exec_stgp (hready : Ready s n 0x21 i c) (henc : stgpEnc (s.consume n i c) i = true) (hlevel : (s.consume n i c).stgpLevel n i = true) :
    exec (.stgp n) s = .next ((s.consume n i c).stgp n i) :=
  congrArg Host.Outcome.next (State.issueOp_ready hready henc hlevel)

/-- While no counter runs, an instruction and its completion leave every parameter (12 R378). -/
theorem State.params_completeR_consume (hstill : s.uncounted = true) (st : Status) (r : Word) :
    ((s.consume n i c).completeR n i st r).params = s.params := by
  have hsteps : CtxSteps n s ((s.consume n i c).completeR n i st r) := ((s.consume_only n i c).trans (State.complete_only ..)).1
  obtain ⟨_, _, h⟩ := hsteps.uncounted hstill
  rw [h]

/-! ### LOCKP and CRD -/

/-- LOCKP locks, or with XF = 1 at PL0 unlocks, and gives the lock before (13 R398). -/
theorem exec_lockp (hready : Ready s n 0x25 i c) (hlevel : iXf i.word = false ∨ i.pl = 0) (hstg : (s.consume n i c).isStg (iParam i.word) = true)
    (hfenced : (s.consume n i c).idFenced (iParam i.word) = false) :
    let u := s.consume n i c
    exec (.lockp n) s = .next ({ u with fw := { s.fw with
      locks := if iXf i.word then s.fw.locks.filter (fun x => decide (x ≠ iParam i.word)) else insertNat (iParam i.word) s.fw.locks } }.completeR n i .ok
        (BitVec.ofNat 64 (b01 (s.fw.locks.contains (iParam i.word))))) := by
  have hmay : (!iXf i.word || decide (i.pl = 0)) = true := by simpa using hlevel
  refine congrArg Host.Outcome.next ((State.issueOp_ready hready rfl hmay).trans ?_)
  simp only [hstg, hfenced, Bool.not_true, Bool.false_eq_true, if_false, State.consume_fw]
  rfl

/-- CRD of a counter: its count, or with XF = 1 the count of the last snapshot (13 R422). -/
theorem exec_crd (hready : Ready s n 0x7B i c) (hread : (s.consume n i c).mayRead n i.pl (iParam i.word) true = true)
    (hcounter : crdParam (iParam i.word) = true) (hid : (s.consume n i c).idOk n i.pl (iParam i.word) = true)
    (hsnap : iXf i.word = false ∨ s.pmc.snapped = true) (hfenced : (s.consume n i c).idFenced (iParam i.word) = false) :
    let u := s.consume n i c
    let m := u.idSess n i.pl (iParam i.word)
    exec (.crd n) s = .next (u.completeR n i .ok (if iXf i.word then u.shadowOf (iParam i.word) m else u.view (iParam i.word) m)) := by
  have hcounts : (iXf i.word && !s.pmc.snapped) = false :=
    Bool.and_eq_false_iff.mpr (hsnap.imp_right fun h => by rw [h]; rfl)
  refine congrArg Host.Outcome.next ((State.issueOp_ready hready rfl hread).trans ?_)
  simp only [hcounter, hid, hfenced, hcounts, State.consume_pmc, Bool.not_true, Bool.or_self, Bool.false_eq_true, if_false]
  rfl

end Ready

/-- Settles O7, clause by clause from what each instruction does once it is ready. -/
theorem parameterReadsAndWrites : Obligations.ParameterReadsAndWrites := by
  unfold Obligations.ParameterReadsAndWrites
  refine ⟨?inEffect, ?staged, ?priv, ?unassigned, ?stages, ?writes, ?lockp, ?crd⟩
  case inEffect =>
    intro s n i c hready hnow hread hid hfenced hplain
    rw [exec_getp hready hnow hread, State.getp_read hid hfenced, State.stagedFor_of_not_asked (by rw [State.consume_set]; exact hplain)]
    rfl
  case staged =>
    intro s n i c w hready hnow hread hid hfenced hxf howner hvalue
    have hstaged : (s.consume n i c).stagedFor n i = some w := (if_pos ⟨hxf, by rw [State.consume_set]; exact howner⟩).trans hvalue
    rw [exec_getp hready hnow hread, State.getp_read hid hfenced, hstaged]
    rfl
  case priv =>
    intro s n i c hready hnow hread
    exact exec_getp_priv hready hnow hread
  case unassigned =>
    intro s n i c hready hnow hread hid
    exact (exec_getp hready hnow hread).trans (congrArg Host.Outcome.next (State.getp_unassigned hid))
  case stages =>
    intro s n i c p hready henc hlevel hspec hstg hplain hid hrange hfenced hmode hdropped hstage u e
    have hv : i.stgpValue (u.ctx n) = i.stgpValue c := Issue.stgpValue_consume s n i c
    have he : u.stgpChange n i (u.ctx n) = e := by
      unfold State.stgpChange
      rw [hv]
    have hact := State.stgp_stages hspec hid (by rw [hv]; exact hrange) hfenced (by rw [hv]; exact hmode) hstg hplain
      (by rw [Ready.ctx_dropped]; exact hdropped) (by rw [he]; exact hstage)
    rw [he] at hact
    have hset : (u.completeR n i .ok (u.view (iParam i.word) (u.idSess n i.pl (iParam i.word)))).set = s.set := by
      rw [State.completeR, State.complete_set, State.consume_set]
    refine ⟨_, (exec_stgp hready henc hlevel).trans (congrArg Host.Outcome.next hact), rfl, ?_, rfl, rfl, ?_⟩
    · exact congrArg (fun x : SetS => addChanges x.entries [e] i.pl) hset
    · intro hstill
      exact State.params_completeR_consume hstill _ _
  case writes =>
    intro s n i c p hready henc hlevel hspec hstg hplain hid hrange hfenced hmode u m
    have hv : i.stgpValue (u.ctx n) = i.stgpValue c := Issue.stgpValue_consume s n i c
    rw [exec_stgp hready henc hlevel, State.stgp_writes hspec hid (by rw [hv]; exact hrange) hfenced (by rw [hv]; exact hmode) hstg hplain, hv]
  case lockp =>
    intro s n i c hready hlevel hstg hfenced
    exact exec_lockp hready hlevel hstg hfenced
  case crd =>
    intro s n i c hready hread hcounter hid hsnap hfenced
    exact exec_crd hready hread hcounter hid hsnap hfenced

end Sys2Proof.Machine
end

section
/-! The staged set: CHKS, APLS, DROPS and the timeout (12 R378 to R380; 13 R397): each command under its conditions. -/

namespace Sys2Proof.Machine

open Sys2Proof.Safety

section Ready

variable {s : State} {n : Nat} {i : Issue} {c : Ctx}

/-- The context of an instruction has not been told of a set that it has lost. -/
theorem State.not_told_of_drop (hdropped : c.dropped = false) : ¬ ((s.consume n i c).ctx n).dropped = true := by
  rw [Ready.ctx_dropped, hdropped]
  decide

/-- The owner touches its set: the set that it had, with the mark of a check and the time (12 R378). -/
theorem State.touch_consume (s : State) (n : Nat) (i : Issue) (c : Ctx) (checked : Bool) :
    (s.consume n i c).touch checked = { s.consume n i c with set := { s.set with checked, touched := s.clock } } := by
  simp only [State.touch, State.consume_set, State.consume_clock]

/-! ### CHKS -/

/-- CHKS of a context that has lost no set: RESV where another owns the set, and else what the check of the set says (12 R379). -/
theorem exec_chks (hready : Ready s n 0x22 i c) (hdropped : c.dropped = false) :
    let u := s.consume n i c
    exec (.chks n) s = .next (
      if u.setTaken n then u.fail n i .resv
      else match u.checkSet with
        | none => (u.touch true).completeR n i .ok (BitVec.ofNat 64 u.set.entries.length)
        | some r => (u.touch false).complete n i .chkfail (chksResult r) [chksResult r] true) :=
  congrArg Host.Outcome.next ((State.issue_ready hready).trans (if_neg (State.not_told_of_drop hdropped)))

/-- The first instruction after the loss of the set takes note of it (12 R378). -/
theorem exec_chks_lost (hready : Ready s n 0x22 i c) (hdropped : c.dropped = true) :
    exec (.chks n) s = .next (((s.consume n i c).setCtx n { c with long := none, dropped := false }).complete n i .late 0 [] false) := by
  refine congrArg Host.Outcome.next ((State.issue_ready hready).trans ((if_pos ?_).trans ?_))
  · rw [Ready.ctx_dropped, hdropped]
  · rw [State.noteDrop, State.consume_ctx]
    rfl

/-! ### APLS -/

section Apls

variable (hready : Ready s n 0x23 i c) (hdropped : c.dropped = false) (howner : s.set.owner = some n)
  (hnear : (s.consume n i c).aplsTime n i ≤ (s.consume n i c).master + 4000000000)
include hready hdropped howner hnear

/-- APLS by the owner of the set for a T at most 1 s ahead: the second check, then the tide (12 R380). -/
theorem exec_apls_owner :
    let u := s.consume n i c
    let t := u.aplsTime n i
    exec (.apls n) s = .next (
      if !u.set.checked || u.checkSet.isSome then u.fail n i .chkfail
      else if t < u.master + tideAhead then u.fail n i .late
      else if u.tides.any (fun v => decide (t ≤ v.at_ + tideSpace ∧ v.at_ ≤ t + tideSpace)) then u.fail n i .late
      else ((u.touch true).addTide t u.set.entries (some n)).startLong n i .apls) := by
  refine congrArg Host.Outcome.next ((State.issue_ready hready).trans ((if_neg (State.not_told_of_drop hdropped)).trans ((if_neg ?_).trans
    (if_neg (Nat.not_lt.mpr hnear)))))
  rw [State.consume_set]
  exact not_not_intro howner

theorem exec_apls_chkfail (hfails : s.set.checked = false ∨ (s.consume n i c).checkSet.isSome = true) :
    exec (.apls n) s = .next ((s.consume n i c).complete n i .chkfail 0 [] false) := by
  refine (exec_apls_owner hready hdropped howner hnear).trans (congrArg Host.Outcome.next (if_pos ?_))
  rw [State.consume_set, Bool.or_eq_true, Bool.not_eq_true']
  exact hfails

/-- A checked set that still passes, and a T far enough ahead and free of other tides: the tide is named (12 R380). -/
theorem exec_apls_names (hchecked : s.set.checked = true) (hpasses : (s.consume n i c).checkSet = none)
    (hahead : (s.consume n i c).master + tideAhead ≤ (s.consume n i c).aplsTime n i)
    (hfree : s.tides.any (fun v => decide ((s.consume n i c).aplsTime n i ≤ v.at_ + tideSpace ∧ v.at_ ≤ (s.consume n i c).aplsTime n i + tideSpace)) = false) :
    let u := s.consume n i c
    exec (.apls n) s = .next (((u.touch true).addTide (u.aplsTime n i) u.set.entries (some n)).startLong n i .apls) := by
  refine (exec_apls_owner hready hdropped howner hnear).trans (congrArg Host.Outcome.next ((if_neg ?check).trans ((if_neg ?late).trans (if_neg ?space))))
  case check =>
    rw [State.consume_set, hchecked, hpasses]
    decide
  case late =>
    exact Nat.not_lt.mpr hahead
  case space =>
    rw [State.consume_tides]
    exact ne_true_of_eq_false hfree

end Apls

/-! ### DROPS and the timeout -/

/-- DROPS where no other context owns the set: it empties the set, with IDLE where it was empty (13 R397). -/
theorem exec_drops (hready : Ready s n 0x24 i c) (hdropped : c.dropped = false) (hfree : (s.consume n i c).setTaken n = false) :
    let u := s.consume n i c
    exec (.drops n) s = .next (
      if s.set.entries.isEmpty then u.emptySet.completeR n i .idle 0 else u.emptySet.completeR n i .ok (BitVec.ofNat 64 s.set.entries.length)) := by
  refine congrArg Host.Outcome.next ((State.issue_ready hready).trans ((if_neg (State.not_told_of_drop hdropped)).trans
    ((if_neg (ne_true_of_eq_false hfree)).trans ?_)))
  rw [State.consume_set]
  rfl

/-- A set that its owner has not touched for `seq.stage_to`, the owner in no long instruction, is dropped (12 R378). -/
theorem exec_stagedSetTimeout_due (howner : s.set.owner = some n) (hdue : s.set.touched + s.devP bSeq 0 * ms ≤ s.clock) (hlong : (s.ctx n).long = none) :
    exec .stagedSetTimeout s = .next (s.dropSet.log 0 3 bSeq 1023 0x03 0 n) := by
  show execStagedSetTimeout s = _
  unfold execStagedSetTimeout
  simp only [howner, hlong]
  exact congrArg Host.Outcome.next (if_pos ⟨decide_eq_true hdue, rfl⟩)

theorem State.dropSet_owned (howner : s.set.owner = some n) : s.dropSet = { s with set := {} }.setCtx n { s.ctx n with dropped := true } := by
  unfold State.dropSet
  rw [howner]

end Ready

/-- Settles O8, clause by clause from what each command does under its conditions. -/
theorem stagedSet : Obligations.StagedSet := by
  unfold Obligations.StagedSet
  refine ⟨?passes, ?fails, ?taken, ?lost, ?names, ?chkfail, ?drops, ?nothing, ?timeout⟩
  case passes =>
    intro s n i c hready hdropped hfree hpasses u
    rw [exec_chks hready hdropped, if_neg (ne_true_of_eq_false hfree), hpasses, State.touch_consume, State.consume_set]
  case fails =>
    intro s n i c r hready hdropped hfree hfails u
    rw [exec_chks hready hdropped, if_neg (ne_true_of_eq_false hfree), hfails, State.touch_consume s n i c false]
  case taken =>
    intro s n i c hready hdropped htaken
    exact (exec_chks hready hdropped).trans (congrArg Host.Outcome.next (if_pos htaken))
  case lost =>
    intro s n i c hready hdropped
    exact exec_chks_lost hready hdropped
  case names =>
    intro s n i c hready hdropped howner hnear hchecked hpasses hahead hfree u
    rw [exec_apls_names hready hdropped howner hnear hchecked hpasses hahead hfree, State.touch_consume, State.consume_set]
  case chkfail =>
    intro s n i c hready hdropped howner hnear hfails
    exact exec_apls_chkfail hready hdropped howner hnear hfails
  case drops =>
    intro s n i c hready hdropped hfree hsome
    exact (exec_drops hready hdropped hfree).trans (congrArg Host.Outcome.next (if_neg (by simpa using hsome)))
  case nothing =>
    intro s n i c hready hdropped hfree hnone
    exact (exec_drops hready hdropped hfree).trans (congrArg Host.Outcome.next (if_pos (by rw [hnone]; rfl)))
  case timeout =>
    intro s n howner hdue hlong
    rw [exec_stagedSetTimeout_due howner hdue hlong, State.dropSet_owned howner]

end Sys2Proof.Machine
end

section
/-! What every step keeps, read off `exec_keeps` and `step_keeps` (log 3, log 4). -/

namespace Sys2Proof.Machine

open Sys2Proof.Safety

/-- Settles O57: a step keeps the words that are programmed, whether it runs a command or is a tick. -/
theorem programmedFusesStay : Obligations.ProgrammedFusesStay := by
  unfold Obligations.ProgrammedFusesStay
  rintro s t w ⟨hstep, hw⟩
  have hk : Keeps { s with pending := s.pending.tail } t := (step_keeps s).keeps hstep
  exact hk.fuses w hw

/-- Settles O55: a step keeps DRAM canonical, whether it runs a command or is a tick. -/
theorem memoryStaysOk : Obligations.MemoryStaysOk := by
  unfold Obligations.MemoryStaysOk
  intro s t hok hstep
  have hk : Keeps { s with pending := s.pending.tail } t := (step_keeps s).keeps hstep
  exact hk.dram hok

/-- Settles O58: a command that keeps what every operation keeps has answered a next state. -/
theorem everyCommandAnswers : Obligations.EveryCommandAnswers := by
  unfold Obligations.EveryCommandAnswers
  intro c s
  obtain ⟨t, ht, -⟩ := (exec_keeps c s).answers
  exact ⟨t, ht⟩

/-- A step on an empty queue is one cycle of TSCLK. -/
theorem step_of_pending_nil {s : State} (h : s.pending = []) : step s = .next s.tick := by
  unfold step
  rw [h]

/-- Settles O52, by the two cases of the queue. -/
theorem stepRunsTheFront : Obligations.StepRunsTheFront := by
  unfold Obligations.StepRunsTheFront
  exact ⟨fun _ _ _ => rfl, fun _ h => step_of_pending_nil h⟩

/-- Settles O54: the memory of reset lists no byte. -/
theorem resetMemoryOk : Obligations.ResetMemoryOk := by
  have hempty : State.reset.dram = [] := rfl
  unfold Obligations.ResetMemoryOk MemoryOk
  rw [hempty]
  rfl

end Sys2Proof.Machine
end

section
/-! The arithmetic of 13 R395. -/

namespace Sys2Proof.Machine

open Sys2Proof.Safety

section Ready

variable {s : State} {n op : Nat} {i : Issue} {c : Ctx}

theorem Ctx.opB_eq_of_reg {c d : Ctx} (h : ∀ k, c.reg k = d.reg k) (w : Word) : c.opB w = d.opB w := by
  unfold Ctx.opB
  rw [h]

/-- A word that is ready of an opcode that takes no commands is no command. -/
theorem Ready.not_cmd {d : Desc} (hready : Ready s n op i c) (hd : desc op = some d) (hc : d.cmd = false) : i.cmd = false := by
  obtain ⟨-, -, hop, henc, -⟩ := hready
  exact Issue.encOk_cmd henc (hop ▸ hd) hc

/-- An instruction that is no command and completes with OK and one result writes gd and nothing else. -/
theorem State.consume_done (hready : Ready s n op i c) (hcmd : i.cmd = false) (r : Word) :
    WritesReg s ((s.consume n i c).done n i r) n (iGd i.word) r ∧ OnlyContext s ((s.consume n i c).done n i r) n := by
  have h := State.consume_completeR hready r
  rw [hcmd] at h
  exact h

/-- An arithmetic instruction writes its value of ga and b to gd, and nothing else. -/
theorem State.alu_writes {d : Desc} (hready : Ready s n op i c) (hd : desc op = some d) (hc : d.cmd = false) (f : Word → Word → Word) :
    Answers (.next (s.alu n op f)) (fun t => WritesReg s t n (iGd i.word) (f ((s.ctx n).opA i.word) ((s.ctx n).opB i.word)) ∧ OnlyContext s t n) := by
  refine ⟨_, rfl, ?_⟩
  unfold State.alu
  rw [State.issue_ready hready, State.consume_opA hready, Ctx.opB_eq_of_reg (State.consume_reg hready)]
  exact State.consume_done hready (Ready.not_cmd hready hd hc) _

end Ready

/-- Settles O1: each arithmetic instruction is `State.alu` of its function; LDI loads its constant in the same way. -/
theorem arithmetic : Obligations.Arithmetic := by
  unfold Obligations.Arithmetic
  refine ⟨?add, ?sub, ?and, ?or, ?xor, ?shl, ?shr, ?cmp, ?ldi⟩
  case add => exact fun s n i c hready => State.alu_writes hready rfl rfl aluAdd
  case sub => exact fun s n i c hready => State.alu_writes hready rfl rfl aluSub
  case and => exact fun s n i c hready => State.alu_writes hready rfl rfl aluAnd
  case or => exact fun s n i c hready => State.alu_writes hready rfl rfl aluOr
  case xor => exact fun s n i c hready => State.alu_writes hready rfl rfl aluXor
  case shl => exact fun s n i c hready => State.alu_writes hready rfl rfl aluShl
  case shr => exact fun s n i c hready => State.alu_writes hready rfl rfl aluShr
  case cmp => exact fun s n i c hready => State.alu_writes hready rfl rfl aluCmp
  case ldi =>
    intro s n i c hready
    refine ⟨(s.consume n i c).done n i i.ldiValue, congrArg Host.Outcome.next (State.issue_ready hready), ?_⟩
    exact State.consume_done hready (Ready.not_cmd hready rfl rfl) _

end Sys2Proof.Machine
end

section
/-! EVTW, CSNP, CFRZ and the instants of the counters (13 R420, R421; 16 R483, R484). -/

namespace Sys2Proof.Machine

open Sys2Proof.Safety

/-- Above its keys' bound a store lists nothing at or below that bound. -/
theorem Store.read_of_above {α : Type} {l : Store α} {b k : Nat} (h : Store.above b l = true) (hk : k ≤ b) (d : α) : Store.read l k d = d := by
  induction l generalizing b with
  | nil => rfl
  | cons p r ih =>
    obtain ⟨j, v⟩ := p
    simp only [Store.above, Bool.and_eq_true, decide_eq_true_eq] at h
    obtain ⟨hj, hr⟩ := h
    rw [Store.read, if_neg (by omega)]
    exact ih hr (by omega)

/-- A store whose entries are each mapped, but for those that then equal the default, reads the map of what it read before. -/
theorem Store.read_map_filter {α : Type} [DecidableEq α] (f : α → α) (d : α) (hd : f d = d) (l : Store α) (h : Store.rising l = true) (k : Nat) :
    Store.read ((l.map fun p => (p.1, f p.2)).filter fun p => decide (p.2 ≠ d)) k d = f (Store.read l k d) := by
  induction l with
  | nil => exact hd.symm
  | cons p r ih =>
    obtain ⟨j, v⟩ := p
    have habove : Store.above j r = true := h
    have hrest := ih (Store.rising_of_above habove)
    rw [List.map_cons, List.filter_cons]
    by_cases hk : j = k
    · have hlost : Store.read r k d = d := Store.read_of_above habove (Nat.le_of_eq hk.symm) d
      by_cases hv : f v = d
      · rw [if_neg (by simpa using hv), hrest, hlost, hd, Store.read, if_pos hk, hv]
      · rw [if_pos (by simpa using hv), Store.read, if_pos hk, Store.read, if_pos hk]
    · by_cases hv : f v = d
      · rw [if_neg (by simpa using hv), hrest, Store.read, if_neg hk]
      · rw [if_pos (by simpa using hv), Store.read, if_neg hk, hrest, Store.read, if_neg hk]

section Ready

variable {s : State} {n : Nat} {i : Issue} {c : Ctx}

theorem State.consume_instantBad (s : State) (n : Nat) (i : Issue) (c : Ctx) (t : Nat) : (s.consume n i c).instantBad t = s.instantBad t := by
  unfold State.instantBad
  rw [State.consume_master]

/-- An instant that is neither too near nor too far is accepted. -/
theorem State.instantBad_of_ahead {t : Nat} (hnear : s.master + tideAhead ≤ t) (hfar : t ≤ s.master + 4000000000) : s.instantBad t = none := by
  unfold State.instantBad
  rw [if_neg (Nat.not_lt.mpr hnear), if_neg (Nat.not_lt.mpr hfar)]

theorem State.instantBad_of_near {t : Nat} (hnear : t < s.master + tideAhead) : s.instantBad t = some .late := if_pos hnear

theorem exec_evtw (hready : Ready s n 0x78 i c) (hsev : i.pl ≤ 1 ∨ fld i.word 2 0 ≤ 2) :
    exec (.evtw n) s = .next (((s.consume n i c).completeR n i .ok (BitVec.ofNat 64 (s.localCount (s.ctx n).tile))).record (s.ctx n).tile
      (fld i.word 2 0) (fld (i.data.getD 0 0) 31 0) 2 i.pl n 0 (i.data.drop 1)) := by
  refine congrArg Host.Outcome.next ((State.issueOp_ready hready rfl (decide_eq_true hsev)).trans ?_)
  rw [Ready.ctx_tile hready, State.consume_localCount]
  rfl

theorem exec_csnp (hready : Ready s n 0x79 i c) :
    exec (.csnp n) s = .next ((s.instantBad ((s.consume n i c).namedT n i)).elim
      ((s.consume n i c).startLong n i (.snap ((s.consume n i c).namedT n i) false)) ((s.consume n i c).fail n i)) := by
  refine congrArg Host.Outcome.next ((State.issue_ready hready).trans ?_)
  rw [State.consume_instantBad]
  cases s.instantBad ((s.consume n i c).namedT n i) <;> rfl

theorem exec_cfrz (hready : Ready s n 0x7A i c) (hx : s.instantBad ((s.consume n i c).namedT n i) = none) :
    exec (.cfrz n) s = .next (if s.pmc.frozen = !iXf i.word then (s.consume n i c).completeR n i .idle 0
      else (s.consume n i c).startLong n i (.freeze ((s.consume n i c).namedT n i) (!iXf i.word) false)) := by
  refine congrArg Host.Outcome.next ((State.issue_ready hready).trans ?_)
  rw [State.consume_instantBad, hx]
  dsimp only
  rw [State.consume_pmc]

end Ready

/-- A counter after a snapshot: its count and its overflow bit stand in the shadow, and stay (16 R483). -/
theorem State.ctr_takeSnapshot {s : State} (h : Store.rising s.pmc.ctrs = true) (t k : Nat) :
    (s.takeSnapshot t).ctr k = { s.ctr k with shadow := (s.ctr k).cnt, shadowOvf := (s.ctr k).ovf } :=
  Store.read_map_filter (fun c : Ctr => { c with shadow := c.cnt, shadowOvf := c.ovf }) {} rfl s.pmc.ctrs h k

/-- Settles O9, clause by clause from what each command does under its conditions. -/
theorem recorderAndCounterInstructions : Obligations.RecorderAndCounterInstructions := by
  unfold Obligations.RecorderAndCounterInstructions
  refine ⟨?evtw, ?csnp, ?cfrz, ?idle, ?late, ?snaps, ?shadow, ?snapped, ?freezes, ?froze⟩
  case evtw =>
    intro s n i c hready hsev
    exact exec_evtw hready hsev
  case csnp =>
    intro s n i c hready hnear hfar
    rw [exec_csnp hready, State.instantBad_of_ahead hnear hfar]
    rfl
  case cfrz =>
    intro s n i c hready hnear hfar hfrozen
    rw [exec_cfrz hready (State.instantBad_of_ahead hnear hfar), hfrozen, if_neg (by simp)]
  case idle =>
    intro s n i c hready hnear hfar hfrozen
    exact (exec_cfrz hready (State.instantBad_of_ahead hnear hfar)).trans (congrArg Host.Outcome.next (if_pos hfrozen))
  case late =>
    intro s n i c hready hnear
    rw [exec_csnp hready, State.instantBad_of_near hnear]
    rfl
  case snaps =>
    intro s n t i hdue hlong
    have hlong' : ((s.takeSnapshot t).ctx n).long = some (i, .snap t false) := hlong
    show execCounterSnapshot s = _
    unfold execCounterSnapshot
    rw [hdue]
    dsimp only
    rw [hlong']
    rfl
  case shadow =>
    intro s t k hrising
    rw [State.ctr_takeSnapshot hrising]
    exact ⟨rfl, rfl, rfl, rfl⟩
  case snapped =>
    intro s n t hnone hdue
    show execCounterSnapshot s = _
    unfold execCounterSnapshot
    rw [hnone, hdue]
    rfl
  case freezes =>
    intro s n t on i hdue hsnaps hlong
    have hlong' : (({ s with pmc := { s.pmc with frozen := on } } : State).ctx n).long = some (i, .freeze t on false) := hlong
    show execCounterFreeze s = _
    unfold execCounterFreeze
    rw [hdue]
    dsimp only
    rw [if_neg (ne_true_of_eq_false hsnaps), hlong']
    rfl
  case froze =>
    intro s n t on hnone hdue
    show execCounterFreeze s = _
    unfold execCounterFreeze
    rw [hnone, hdue]
    rfl

end Sys2Proof.Machine
end

section
/-! The instructions of firmware (13 R424, R425; 17 R495 to R498), the write of `sys.force_auth` (02 R62) and that of `fw.soc` (17 R498). -/

namespace Sys2Proof.Machine

open Sys2Proof.Safety

/-! ### FWST -/

/-- The words of the image that a part of FWST follows: none at offset 0, and else those that the inactive slot holds (13 R424). -/
def State.fwstBefore (s : State) (n : Nat) (i : Issue) : List Word :=
  if ((s.ctx n).opA i.word).toNat = 0 then [] else (s.slot s.inactive).words

/-- FWST passes its own checks: the offset is 0 or goes on where the transfer of this context stands, the image fits its slot, and no other
context's transfer is under way (13 R424). -/
structure State.FwstFits (s : State) (n : Nat) (i : Issue) : Prop where
  place : iN i.word = 0 ∨ ((s.ctx n).opA i.word).toNat = 0 ∨
    (s.fw.xfer = some n ∧ ((s.ctx n).opA i.word).toNat = 8 * (s.slot s.inactive).words.length)
  size : 8 * ((s.fwstBefore n i).length + i.data.length) ≤ 0x380_0000
  owner : s.fw.xfer = none ∨ s.fw.xfer = some n

/-- The words of a part are stored in the inactive slot; the last part closes the image by its CRC-32C (13 R424; 17 R496). -/
def State.storePart (s : State) (n : Nat) (i : Issue) (k crc : Nat) (all : List Word) : State :=
  if !iXf i.word then (s.setSlot k { words := all }).done n i 0
  else if (crc32cWords all).toNat = crc then
    { s.setSlot k { words := all, complete := true } with fw := { (s.setSlot k { words := all, complete := true }).fw with xfer := none } }.done n i 0
  else (s.setSlot k { words := all, crcFail := true }).fail n i .chkfail

theorem State.fwst_fits {s : State} {n : Nat} {i : Issue} (h : s.FwstFits n i) : s.fwst n i =
    match s.fwRefusal with
    | some st => s.fail n i st
    | none =>
      if iN i.word = 0 then s.done n i (s.slot s.inactive).status
      else (if ((s.ctx n).opA i.word).toNat = 0 then (s.beginTransfer n).pendRec n i else s).storePart n i s.inactive
        (fld ((s.ctx n).reg (iGb i.word)) 31 0) (s.fwstBefore n i ++ i.data) := by
  obtain ⟨hplace, hsize, howner⟩ := h
  have hin : ¬ (iN i.word ≠ 0 ∧ (!decide (((s.ctx n).opA i.word).toNat = 0 ∨
      (s.fw.xfer = some n ∧ ((s.ctx n).opA i.word).toNat = 8 * (s.slot s.inactive).words.length))) = true) := by
    simp only [Bool.not_eq_true', decide_eq_false_iff_not]
    tauto
  have hmine : ¬ (s.fw.xfer.isSome = true ∧ s.fw.xfer ≠ some n) := by
    rcases howner with h | h <;> simp [h]
  exact (if_neg hin).trans ((if_neg (Nat.not_lt.mpr hsize)).trans (if_neg hmine))

theorem State.fwst_refused {s : State} {n : Nat} {i : Issue} {st : Status} (h : s.FwstFits n i) (hrefused : s.fwRefusal = some st) :
    s.fwst n i = s.fail n i st := by
  rw [State.fwst_fits h, hrefused]

theorem State.fwst_status {s : State} {n : Nat} {i : Issue} (h : s.FwstFits n i) (hfree : s.fwRefusal = none) (hn : iN i.word = 0) :
    s.fwst n i = s.done n i (s.slot s.inactive).status := by
  rw [State.fwst_fits h, hfree]
  exact if_pos hn

/-- The first part begins the transfer. -/
theorem State.fwst_first {s : State} {n : Nat} {i : Issue} (h : s.FwstFits n i) (hfree : s.fwRefusal = none) (hn : iN i.word ≠ 0)
    (hoff : ((s.ctx n).opA i.word).toNat = 0) :
    s.fwst n i = ((s.beginTransfer n).pendRec n i).storePart n i s.inactive (fld ((s.ctx n).reg (iGb i.word)) 31 0) i.data := by
  rw [State.fwst_fits h, hfree]
  dsimp only
  rw [if_neg hn, if_pos hoff, State.fwstBefore, if_pos hoff, List.nil_append]

/-- A further part appends to what the slot holds. -/
theorem State.fwst_further {s : State} {n : Nat} {i : Issue} (h : s.FwstFits n i) (hfree : s.fwRefusal = none) (hn : iN i.word ≠ 0)
    (hoff : ((s.ctx n).opA i.word).toNat ≠ 0) :
    s.fwst n i = s.storePart n i s.inactive (fld ((s.ctx n).reg (iGb i.word)) 31 0) ((s.slot s.inactive).words ++ i.data) := by
  rw [State.fwst_fits h, hfree]
  dsimp only
  rw [if_neg hn, if_neg hoff, State.fwstBefore, if_neg hoff]

section Ready

variable {s : State} {n : Nat} {i : Issue} {c : Ctx}

theorem exec_fwst (hready : Ready s n 0x80 i c) : exec (.fwst n) s = .next ((s.consume n i c).fwst n i) :=
  congrArg Host.Outcome.next (State.issue_ready hready)

/-- What FWST checks, in terms of the state before its items are consumed. -/
theorem State.FwstFits.consume
    (hplace : iN i.word = 0 ∨ (c.opA i.word).toNat = 0 ∨ (s.fw.xfer = some n ∧ (c.opA i.word).toNat = 8 * (s.slot s.inactive).words.length))
    (hsize : 8 * ((if (c.opA i.word).toNat = 0 then [] else (s.slot s.inactive).words).length + i.data.length) ≤ 0x380_0000)
    (howner : s.fw.xfer = none ∨ s.fw.xfer = some n) : (s.consume n i c).FwstFits n i where
  place := by rwa [Ready.ctx_opA, State.consume_fw, State.consume_slot, State.consume_inactive]
  size := by rwa [State.fwstBefore, Ready.ctx_opA, State.consume_slot, State.consume_inactive]
  owner := by rwa [State.consume_fw]

/-- FWST with N = 0 asks for the status and is no part of a transfer (log 102). -/
theorem State.FwstFits.query (hn : iN i.word = 0) (hdata : i.data = []) (hsize : 8 * (s.slot s.inactive).words.length ≤ 0x380_0000)
    (howner : s.fw.xfer = none ∨ s.fw.xfer = some n) : (s.consume n i c).FwstFits n i := by
  refine .consume (.inl hn) ?_ howner
  rw [hdata]
  split
  · simp
  · simpa using hsize

/-- A further part of the transfer of this context, which goes on where the slot ends. -/
theorem State.FwstFits.further (howner : s.fw.xfer = some n) (hoff : (c.opA i.word).toNat = 8 * (s.slot s.inactive).words.length)
    (hwords : (s.slot s.inactive).words ≠ []) (hsize : 8 * ((s.slot s.inactive).words.length + i.data.length) ≤ 0x380_0000) :
    (s.consume n i c).FwstFits n i ∧ (((s.consume n i c).ctx n).opA i.word).toNat ≠ 0 := by
  have hlen : 0 < (s.slot s.inactive).words.length := List.length_pos_iff.mpr hwords
  have hne : (c.opA i.word).toNat ≠ 0 := by omega
  refine ⟨.consume (.inr (.inr ⟨howner, hoff⟩)) ?_ (.inr howner), ?_⟩
  · rwa [if_neg hne]
  · rwa [Ready.ctx_opA]

/-- A part holds at most 255 words, so the first part fits its slot. -/
theorem iN_lt (w : Word) : iN w < 256 := fld_lt w 23 16

/-- A part whose last item is not XF stores its words and goes on. -/
theorem State.storePart_more (s : State) (n k crc : Nat) (all : List Word) (hxf : iXf i.word = false) :
    s.storePart n i k crc all = (s.setSlot k { words := all }).done n i 0 := by
  unfold State.storePart
  rw [hxf]
  rfl

/-- The refusals of an update in their order (17 R497). -/
theorem State.fwRefusal_some {s : State} {st : Status} (h : s.fwRefusal = some st) :
    st = if s.fwMove then .fwmove else if s.fwBatt then .fwbatt else .fwlock := by
  unfold State.fwRefusal at h
  by_cases hmove : s.fwMove = true
  · rw [if_pos hmove] at h ⊢
    exact (Option.some.inj h).symm
  · rw [if_neg hmove] at h ⊢
    by_cases hbatt : s.fwBatt = true
    · rw [if_pos hbatt] at h ⊢
      exact (Option.some.inj h).symm
    · rw [if_neg hbatt] at h ⊢
      split at h
      · exact (Option.some.inj h).symm
      · cases h

/-! ### FWSEL -/

/-- FWSEL that is not refused marks a complete slot (13 R425). -/
theorem exec_fwsel (hready : Ready s n 0x81 i c) (hfree : (s.consume n i c).fwRefusal = none) :
    exec (.fwsel n) s = .next (if !(s.slot (fld i.word 0 0)).complete then (s.consume n i c).fail n i .chkfail
      else { s.consume n i c with fw := { s.fw with mark := fld i.word 0 0 } }.done n i (BitVec.ofNat 64 s.fw.mark)) := by
  refine congrArg Host.Outcome.next ((State.issue_ready hready).trans ?_)
  rw [hfree]
  dsimp only
  rw [State.consume_slot, State.consume_fw]

end Ready

/-! ### The writes of `sys.force_auth` and `fw.soc` -/

theorem exec_forceAuth {s : State} (hmode : s.mode.mode = .rstr) (hauth : s.boot.auth = false ∧ s.boot.twinAuth = false) :
    exec .forceAuth s = .next s.forceAuth := by
  refine congrArg Host.Outcome.next (if_pos ?_)
  have hwrite : s.writeMode (pid bSys 1023 5) 1 = (decide (s.mode.mode = .rstr) && !s.boot.auth && !s.boot.twinAuth) := rfl
  rw [hwrite, hmode, hauth.1, hauth.2]
  rfl

theorem exec_fwSoc {s : State} {soc : Nat} (hsoc : soc ≤ 100) (hstep : s.boot.done.contains 5 = true)
    (hmode : s.mode.mode ≠ .stby ∧ s.mode.mode ≠ .save) :
    exec (.fwSoc soc) s = .next (s.writePlain 0x103F [] (pid bFw 1023 2) 0 (BitVec.ofNat 64 soc)) :=
  congrArg Host.Outcome.next (if_pos ⟨hsoc, hstep, hmode⟩)

/-- Settles O10, clause by clause from what each command does under its conditions. -/
theorem firmwareInstructions : Obligations.FirmwareInstructions := by
  unfold Obligations.FirmwareInstructions
  refine ⟨?status, ?first, ?further, ?last, ?refused, ?marks, ?incomplete, ?force, ?soc⟩
  case status =>
    intro s n i c hready hn hdata hsize howner hfree
    rw [exec_fwst hready, State.fwst_status (.query hn hdata hsize howner) hfree hn, State.consume_slot, State.consume_inactive]
    rfl
  case first =>
    rintro s n i c hready ⟨hlen, hpos⟩ hoff hxf howner hfree
    have hoff' : (c.opA i.word).toNat = 0 := by rw [hoff]; rfl
    have hsize : 8 * ((if (c.opA i.word).toNat = 0 then [] else (s.slot s.inactive).words).length + i.data.length) ≤ 0x380_0000 := by
      have := iN_lt i.word
      rw [if_pos hoff', List.length_nil]
      omega
    rw [exec_fwst hready, State.fwst_first (.consume (.inr (.inl hoff')) hsize howner) hfree (by omega) (by rwa [Ready.ctx_opA]),
      State.storePart_more _ _ _ _ _ hxf, State.consume_inactive]
    rfl
  case further =>
    intro s n i c hready hn howner hoff hwords hsize hxf hfree
    obtain ⟨hfits, hne⟩ := State.FwstFits.further howner hoff hwords hsize
    rw [exec_fwst hready, State.fwst_further hfits hfree hn hne, State.storePart_more _ _ _ _ _ hxf, State.consume_slot, State.consume_inactive]
    rfl
  case last =>
    intro s n i c hready hn howner hoff hwords hsize hxf hfree
    obtain ⟨hfits, hne⟩ := State.FwstFits.further howner hoff hwords hsize
    rw [exec_fwst hready, State.fwst_further hfits hfree hn hne, State.storePart, hxf, State.consume_slot, State.consume_inactive, Ready.ctx_reg]
    rfl
  case refused =>
    intro s n i c st hready hn hdata hsize howner hrefused
    rw [exec_fwst hready, State.fwst_refused (.query hn hdata hsize howner) hrefused]
    exact ⟨rfl, State.fwRefusal_some hrefused⟩
  case marks =>
    intro s n i c hready hfree hcomplete
    rw [exec_fwsel hready hfree, hcomplete]
    rfl
  case incomplete =>
    intro s n i c hready hfree hcomplete
    rw [exec_fwsel hready hfree, hcomplete]
    rfl
  case force =>
    intro s hmode hauth
    exact exec_forceAuth hmode hauth
  case soc =>
    intro s soc hsoc hstep hmode
    exact exec_fwSoc hsoc hstep hmode

end Sys2Proof.Machine
end

section
/-! SAVE, HOLD, FENCE and built-in self-test (13 R418, R426, R427; 18 Table 18-3). -/

namespace Sys2Proof.Machine

open Sys2Proof.Safety

section Ready

variable {s : State} {n : Nat} {i : Issue} {c : Ctx}

/-! ### SAVE and HOLD -/

theorem exec_save (hready : Ready s n 0x82 i c) : exec (.save n) s = .next ((s.consume n i c).saveInstr n i) :=
  congrArg Host.Outcome.next (State.issue_ready hready)

/-- SAVE while a save is committed. -/
theorem State.saveInstr_running (h : s.save.run.isSome = true) : s.saveInstr n i = s.completeR n i .idle 0 := if_pos h

/-- SAVE with XF = 0 asks for a planned save. -/
theorem State.saveInstr_planned (hrun : s.save.run = none) (hxf : iXf i.word = false) :
    s.saveInstr n i = if !s.mode.mode.serving then s.fail n i .mode else (s.done n i (BitVec.ofNat 64 s.master)).commitSave 5 true false := by
  unfold State.saveInstr
  rw [hrun, hxf]
  rfl

theorem exec_save_planned (hready : Ready s n 0x82 i c) (hxf : iXf i.word = false) (hrun : s.save.run = none) :
    exec (.save n) s = .next (if !s.mode.mode.serving then (s.consume n i c).fail n i .mode
      else ((s.consume n i c).done n i (BitVec.ofNat 64 s.master)).commitSave 5 true false) := by
  rw [exec_save hready, State.saveInstr_planned (by rwa [State.consume_save]) hxf, State.consume_mode, State.consume_master]

theorem exec_hold (hready : Ready s n 0x83 i c) :
    exec (.hold n) s = .next ({ s.consume n i c with boot := { s.boot with startHold := !iXf i.word } }.done n i
      (BitVec.ofNat 64 (b01 s.boot.startHold))) := by
  refine congrArg Host.Outcome.next ((State.issue_ready hready).trans ?_)
  rw [State.consume_boot]

/-! ### FENCE -/

theorem State.canStage_consume (s : State) (n : Nat) (i : Issue) (c : Ctx) (m : Nat) (cs : List Change) :
    (s.consume n i c).canStage m cs = s.canStage m cs := by
  unfold State.canStage
  rw [State.consume_set]

/-- FENCE of a unit that its tile has: it raises a fence, or stages the clearing of one (13 R418). -/
theorem exec_fence (hready : Ready s n 0x6B i c) :
    exec (.fence n) s = .next (
      let u := s.consume n i c
      let tm := BitVec.ofNat 64 s.master
      if !s.unitExists (fld i.word 3 0) (fld i.word 15 8) (fld i.word 18 16) then u.fail n i .range
      else if !iXf i.word then
        if s.fenced (fld i.word 3 0) (fld i.word 15 8) (fld i.word 18 16) then u.completeR n i .idle tm
        else (u.done n i tm).raiseFence (fld i.word 3 0) (fld i.word 15 8) (fld i.word 18 16) 0x01 2
      else if !s.fenced (fld i.word 3 0) (fld i.word 15 8) (fld i.word 18 16) then u.completeR n i .idle tm
      else if c.dropped then (u.noteDrop n).fail n i .late
      else if !s.canStage n [.clearFence (fld i.word 3 0) (fld i.word 15 8) (fld i.word 18 16)] then u.fail n i .resv
      else (u.done n i tm).stage n i.pl [.clearFence (fld i.word 3 0) (fld i.word 15 8) (fld i.word 18 16)]) := by
  refine congrArg Host.Outcome.next ((State.issue_ready hready).trans ?_)
  unfold fenceUnit
  dsimp only
  rw [State.consume_unitExists, State.consume_fenced, State.consume_master, Ready.ctx_dropped, State.canStage_consume]

end Ready

/-! ### Built-in self-test -/

/-- A fold of which one step makes a property of the state, and which every step keeps, makes it. -/
theorem foldl_makes {α : Type} {P : State → Prop} {f : State → α → State} {a : α} (hkeeps : ∀ s b, P s → P (f s b)) (hmakes : ∀ s, P (f s a))
    {l : List α} (ha : a ∈ l) (s : State) : P (l.foldl f s) := by
  have hkeepsAll : ∀ (l : List α) s, P s → P (l.foldl f s) := by
    intro l
    induction l with
    | nil => exact fun _ h => h
    | cons b r ih => exact fun s h => ih _ (hkeeps s b h)
  induction l generalizing s with
  | nil => cases ha
  | cons b r ih =>
    rcases List.mem_cons.mp ha with rfl | hr
    · exact hkeepsAll r _ (hmakes s)
    · exact ih hr _

/-- An endpoint runs, and its result is cleared. -/
def State.bistFresh (s : State) (k : Nat) : Prop := s.mgmt.bistRun.contains k = true ∧ Store.read s.mgmt.bist k 0 = 0

/-- The start of one endpoint (log 101). -/
theorem State.bistFresh_start (s : State) (j k : Nat) (h : j = k ∨ s.bistFresh k) :
    ({ s with mgmt := { s.mgmt with bistRun := insertNat j s.mgmt.bistRun, bist := Store.write s.mgmt.bist j 0 0 } } : State).bistFresh k := by
  refine ⟨?_, ?_⟩
  · refine List.contains_iff_mem.mpr (mem_insertNat.mpr ?_)
    rcases h with h | h
    · exact .inl h.symm
    · exact .inr (List.contains_iff_mem.mp h.1)
  · show Store.read (Store.write s.mgmt.bist j 0 0) k 0 = 0
    rw [Store.read_write]
    split
    · rfl
    · rename_i hne
      exact (h.resolve_left fun hjk => hne hjk.symm).2

/-- The endpoints of the mask run, with their results cleared. -/
theorem State.startBist_fresh (s : State) (t : Nat) {mask e : Nat} (he : e < 8) (hbit : mask.testBit e = true) :
    (s.startBist t mask).bistFresh (256 * t + e) := by
  unfold State.startBist
  refine foldl_makes (P := fun v => v.bistFresh (256 * t + e)) (fun v b hv => ?_) (fun v => ?_) (List.mem_range.mpr he) s
  · split
    · exact State.bistFresh_start v _ _ (.inr hv)
    · exact hv
  · rw [if_pos hbit]
    exact State.bistFresh_start v _ _ (.inl rfl)

theorem State.startBist_params (s : State) (t mask : Nat) : (s.startBist t mask).params = s.params := by
  unfold State.startBist
  refine foldl_preserves (g := State.params) (fun v b => ?_) _ s
  split <;> rfl

/-- `scan.bist_ctl` with GO and a mask. -/
theorem bistWord_toNat {m : Nat} (hm : m < 256) : (word [(0, 1), (8, m)]).toNat = 1 + m * 256 := by
  have hfields : 0 + 1 * 2 ^ 0 + m * 2 ^ 8 = 1 + m * 256 := by omega
  have hfits : 1 + m * 256 < 2 ^ 64 := by omega
  calc (word [(0, 1), (8, m)]).toNat
    _ = (0 + 1 * 2 ^ 0 + m * 2 ^ 8) % 2 ^ 64 := BitVec.toNat_ofNat ..
    _ = (1 + m * 256) % 2 ^ 64 := congrArg (· % 2 ^ 64) hfields
    _ = 1 + m * 256 := Nat.mod_eq_of_lt hfits

theorem State.writePlain_bistBlock (s : State) {n id sess : Nat} {fs : List PField} {v : Word} (h : pidBlock id = 0x18) :
    s.writePlain n fs id sess v =
      if bit v 0 then (s.setParam id sess (ins v 0 0 0)).startBist (pidInst id) (fld v 15 8) else s.setParam id sess v := by
  unfold State.writePlain
  rw [h]
  rfl

/-- GO reads back as 0, and the mask starts its endpoints (18 Table 18-3). -/
theorem State.writePlain_bist (s : State) {tile m : Nat} (htile : tile < 8) (hm : m < 256) :
    s.writePlain 0 [] (pid bScan tile 0) 0 (word [(0, 1), (8, m)]) =
      (s.setParam (pid bScan tile 0) 0 (word [(8, m)])).startBist tile m := by
  have hblock : pidBlock (pid bScan tile 0) = 0x18 := by
    show (0x18 * 0x40000 + tile * 0x100 + 0) / 0x40000 % 64 = 0x18
    omega
  have hinst : pidInst (pid bScan tile 0) = tile := by
    show (0x18 * 0x40000 + tile * 0x100 + 0) / 0x100 % 1024 = tile
    omega
  have hgo : bit (word [(0, 1), (8, m)]) 0 = true := by
    rw [bit, BitVec.getLsbD, bistWord_toNat hm, Nat.testBit_zero]
    exact decide_eq_true (by omega)
  have hmask : fld (word [(0, 1), (8, m)]) 15 8 = m := by
    rw [fld, bistWord_toNat hm]
    omega
  have hback : ins (word [(0, 1), (8, m)]) 0 0 0 = word [(8, m)] := by
    rw [ins, fld, bistWord_toNat hm]
    show BitVec.ofNat 64 _ = BitVec.ofNat 64 (0 + m * 2 ^ 8)
    congr 1
    omega
  rw [State.writePlain_bistBlock s hblock, if_pos hgo, hinst, hmask, hback]

theorem Part.tiles_le (p : Part) : p.tiles ≤ 8 := by cases p <;> decide

theorem exec_bistCtl {s : State} {tile : Nat} (mask : Nat) (htile : tile < s.tiles) (hmode : s.mode.mode = .main) (hfence : s.tileFenced tile = false) :
    exec (.bistCtl tile mask) s = .next ((s.setParam (pid bScan tile 0) 0 (word [(8, mask % 256)])).startBist tile (mask % 256)) := by
  refine congrArg Host.Outcome.next ((if_pos ⟨htile, hmode, by rw [hfence]; rfl⟩).trans ?_)
  exact State.writePlain_bist s (htile.trans_le s.part.tiles_le) (Nat.mod_lt _ (by decide))

/-- Settles O11, clause by clause from what each command does under its conditions. -/
theorem powerAndFenceInstructions : Obligations.PowerAndFenceInstructions := by
  unfold Obligations.PowerAndFenceInstructions
  refine ⟨?saves, ?saving, ?serves, ?holds, ?fences, ?fenced, ?clears, ?range, ?bist, ?ends⟩
  case saves =>
    intro s n i c hready hxf hrun hserving
    rw [exec_save_planned hready hxf hrun, hserving]
    rfl
  case saving =>
    intro s n i c r hready hrun
    rw [exec_save hready, State.saveInstr_running (by rw [State.consume_save, hrun]; rfl)]
  case serves =>
    intro s n i c hready hxf hrun hserving
    rw [exec_save_planned hready hxf hrun, hserving]
    rfl
  case holds =>
    intro s n i c hready
    exact exec_hold hready
  case fences =>
    intro s n i c hready hunit hxf hfenced
    rw [exec_fence hready, hunit, hxf, hfenced]
    rfl
  case fenced =>
    intro s n i c hready hunit hfenced
    rw [exec_fence hready, hunit, hfenced]
    cases iXf i.word <;> rfl
  case clears =>
    intro s n i c hready hunit hxf hfenced hdropped hstage
    rw [exec_fence hready, hunit, hxf, hfenced, hdropped, hstage]
    rfl
  case range =>
    intro s n i c hready hunit
    rw [exec_fence hready, hunit]
    rfl
  case bist =>
    intro s tile mask htile hmode hfence
    refine ⟨_, exec_bistCtl mask htile hmode hfence, ?_, fun e he hbit => ?_⟩
    · unfold State.param
      rw [State.startBist_params]
      exact Store.read_write_same _ _ _ _
    · refine State.startBist_fresh _ tile he ?_
      rw [show (256 : Nat) = 2 ^ 8 from rfl, Nat.testBit_mod_two_pow, hbit, decide_eq_true he]
      rfl
  case ends =>
    intro s tile endpoint fails hrun
    exact congrArg Host.Outcome.next (if_pos hrun)

end Sys2Proof.Machine
end

section
/-! FERC, FRAW, FRET and SCRB (13 R413 to R416; 07 R208). -/

namespace Sys2Proof.Machine

open Sys2Proof.Safety

theorem State.setBlk_th (s : State) (t b : Nat) (x : Blk) :
    (s.setBlk t b x).th t = { s.th t with blks := Store.write (s.th t).blks b x {} } := State.th_setTh ..

@[simp] theorem State.blk_setBlk (s : State) (t b : Nat) (x : Blk) : (s.setBlk t b x).blk t b = x := by
  unfold State.blk
  rw [State.setBlk_th]
  exact Store.read_write_same _ _ _ _

/-! ### FERC -/

/-- A field above bit 32 and a number below it. -/
theorem ofNat_add_shift_eq_or {c : Nat} (hc : c < 2 ^ 32) (k : Nat) :
    BitVec.ofNat 64 (c + k * 2 ^ 32) = BitVec.ofNat 64 c ||| BitVec.ofNat 64 (k * 2 ^ 32) := by
  have h : c + k * 2 ^ 32 = c ||| k * 2 ^ 32 := by
    rw [Nat.add_comm, Nat.or_comm, ← Nat.shiftLeft_eq, Nat.shiftLeft_add_eq_or_of_lt hc]
  rw [h]
  exact BitVec.ofNat_or ..

/-- A word of four fields. -/
theorem word_four (a b c d x y z w : Nat) :
    word [(a, x), (b, y), (c, z), (d, w)] = BitVec.ofNat 64 (0 + x * 2 ^ a + y * 2 ^ b + z * 2 ^ c + w * 2 ^ d) := rfl

/-- The word of FERC (13 R414): the erase count and three bits above it. -/
theorem ferc_word {c : Nat} (hc : c < 2 ^ 32) (retired half erasing : Bool) :
    word [(0, c), (32, b01 retired), (33, b01 half), (34, b01 erasing)] =
      BitVec.ofNat 64 c ||| (if retired then 1#64 <<< 32 else 0) ||| (if half then 1#64 <<< 33 else 0) ||| (if erasing then 1#64 <<< 34 else 0) := by
  have hsum : word [(0, c), (32, b01 retired), (33, b01 half), (34, b01 erasing)] =
      BitVec.ofNat 64 (c + (b01 retired + 2 * b01 half + 4 * b01 erasing) * 2 ^ 32) := by
    rw [word_four]
    exact congrArg (BitVec.ofNat 64) (by omega)
  have hbits : BitVec.ofNat 64 ((b01 retired + 2 * b01 half + 4 * b01 erasing) * 2 ^ 32) =
      (if retired then 1#64 <<< 32 else 0) ||| (if half then 1#64 <<< 33 else 0) ||| (if erasing then 1#64 <<< 34 else 0) := by
    cases retired <;> cases half <;> cases erasing <;> decide
  rw [hsum, ofNat_add_shift_eq_or hc, hbits, BitVec.or_assoc, BitVec.or_assoc, BitVec.or_assoc]

section Ready

variable {s : State} {n : Nat} {i : Issue} {c : Ctx}

theorem exec_ferc (hready : Ready s n 0x61 i c) :
    (s.consume n i c).flashOk (fld i.word 2 0) (((s.consume n i c).ctx n).opA i.word) = true →
    exec (.ferc n) s = .next (
      let u := s.consume n i c
      let bm := u.flashBlk (fld i.word 2 0) (flashAddr ((u.ctx n).opA i.word))
      let p := u.physB (fld i.word 2 0) bm.1 bm.2
      u.done n i (word [(0, p.count % 2 ^ 32), (32, b01 p.retired), (33, b01 p.half), (34, b01 p.erasing)])) := by
  intro hok
  exact congrArg Host.Outcome.next ((State.issue_ready hready).trans (if_neg (by rw [hok]; decide)))

/-! ### FRAW -/

theorem exec_fraw_range (d : Bool) (hready : Ready s n 0x60 i c)
    (hbad : (s.consume n i c).flashOk (fld i.word 2 0) (((s.consume n i c).ctx n).opA i.word) = false) :
    exec (.fraw n d) s = .next ((s.consume n i c).fail n i .range) :=
  congrArg Host.Outcome.next ((State.issue_ready hready).trans (if_pos (by rw [hbad]; rfl)))

/-- FRAW of a member that it may not read: the first of the three refusals that applies (13 R413). -/
theorem exec_fraw_refused {b m : Nat} (d : Bool) (hready : Ready s n 0x60 i c)
    (hok : (s.consume n i c).flashOk (fld i.word 2 0) (((s.consume n i c).ctx n).opA i.word) = true)
    (hblk : (s.consume n i c).flashBlk (fld i.word 2 0) (flashAddr (((s.consume n i c).ctx n).opA i.word)) = (b, m))
    (hbad : (s.consume n i c).memberOk (fld i.word 2 0) (b / 8192) m = false ∨ (s.consume n i c).tileFenced (fld i.word 2 0) = true ∨
      ((s.consume n i c).physB (fld i.word 2 0) b m).erasing = true ∨ ((s.consume n i c).physB (fld i.word 2 0) b m).half = true) :
    exec (.fraw n d) s = .next ((s.consume n i c).fail n i
      (if (s.consume n i c).memberOk (fld i.word 2 0) (b / 8192) m = false ∨ (s.consume n i c).tileFenced (fld i.word 2 0) = true then .fenced
        else if ((s.consume n i c).physB (fld i.word 2 0) b m).erasing then .ersusp else .halfer)) := by
  refine congrArg Host.Outcome.next ((State.issue_ready hready).trans ((if_neg (by rw [hok]; decide)).trans ?_))
  dsimp only
  rw [hblk]
  dsimp only
  have hgate : ((!(s.consume n i c).memberOk (fld i.word 2 0) (b / 8192) m) = true ∨ (s.consume n i c).tileFenced (fld i.word 2 0) = true) ↔
      ((s.consume n i c).memberOk (fld i.word 2 0) (b / 8192) m = false ∨ (s.consume n i c).tileFenced (fld i.word 2 0) = true) := by
    rw [Bool.not_eq_true']
  by_cases hfenced : (s.consume n i c).memberOk (fld i.word 2 0) (b / 8192) m = false ∨ (s.consume n i c).tileFenced (fld i.word 2 0) = true
  · rw [if_pos (hgate.mpr hfenced), if_pos hfenced]
  · rw [if_neg fun h => hfenced (hgate.mp h), if_neg hfenced]
    by_cases herasing : ((s.consume n i c).physB (fld i.word 2 0) b m).erasing = true
    · rw [if_pos herasing, if_pos herasing]
    · rw [if_neg herasing, if_neg herasing, if_pos (by tauto)]

/-- A block of which only the reads are counted holds its records in the same slots. -/
theorem State.flashSlot_countRead (s : State) (t b m : Nat) (a : FlashAddr) :
    (s.setBlk t b { s.blk t b with reads := (s.blk t b).reads + 1 }).flashSlot t b m a = s.flashSlot t b m a := by
  unfold State.flashSlot
  rw [State.blk_setBlk, State.setBlk_th]

/-- FRAW of a record that decodes (13 R413): its header, or with XF a line of its payload as it is stored. -/
theorem exec_fraw_reads {b m k : Nat} {r : TRec} (hready : Ready s n 0x60 i c)
    (hok : (s.consume n i c).flashOk (fld i.word 2 0) (((s.consume n i c).ctx n).opA i.word) = true)
    (hblk : (s.consume n i c).flashBlk (fld i.word 2 0) (flashAddr (((s.consume n i c).ctx n).opA i.word)) = (b, m))
    (hmember : (s.consume n i c).memberOk (fld i.word 2 0) (b / 8192) m = true) (hfence : (s.consume n i c).tileFenced (fld i.word 2 0) = false)
    (herasing : ((s.consume n i c).physB (fld i.word 2 0) b m).erasing = false) (hhalf : ((s.consume n i c).physB (fld i.word 2 0) b m).half = false)
    (hslot : (s.consume n i c).flashSlot (fld i.word 2 0) b m (flashAddr (((s.consume n i c).ctx n).opA i.word)) = some k)
    (hrec : ((s.consume n i c).th (fld i.word 2 0)).recs.find? (fun r => decide (r.blk = b ∧ r.slot = k ∧
      ¬ (r.kind = 6 ∧ ((s.consume n i c).blk (fld i.word 2 0) b).use = .log))) = some r) :
    exec (.fraw n true) s = .next (
      let u := s.consume n i c
      let t := fld i.word 2 0
      let v := u.setBlk t b { u.blk t b with reads := (u.blk t b).reads + 1 }
      let ws := if iXf i.word then v.recStored t r (fld ((v.ctx n).reg (iGb i.word)) 5 0) else recHeader t r
      v.complete n i .ok (ws.headD 0) ws true) := by
  refine congrArg Host.Outcome.next ((State.issue_ready hready).trans ((if_neg (by rw [hok]; decide)).trans ?_))
  dsimp only
  rw [hblk]
  dsimp only
  rw [if_neg (by rw [hmember, hfence]; decide), if_neg (ne_true_of_eq_false herasing), if_neg (ne_true_of_eq_false hhalf),
    State.flashSlot_countRead, hslot]
  dsimp only
  rw [State.blk_setBlk, State.setBlk_th]
  dsimp only
  rw [hrec]

/-! ### FRET -/

theorem exec_fret_range (hready : Ready s n 0x62 i c) (hblock : (flashAddr (((s.consume n i c).ctx n).opA i.word)).block = 0) :
    exec (.fret n) s = .next ((s.consume n i c).fail n i .range) :=
  congrArg Host.Outcome.next ((State.issue_ready hready).trans (if_pos (.inr hblock)))

theorem exec_fret_retired {b m : Nat} (hready : Ready s n 0x62 i c)
    (hok : (s.consume n i c).flashOk (fld i.word 2 0) (((s.consume n i c).ctx n).opA i.word) = true)
    (hblock : (flashAddr (((s.consume n i c).ctx n).opA i.word)).block ≠ 0)
    (hblk : (s.consume n i c).flashBlk (fld i.word 2 0) (flashAddr (((s.consume n i c).ctx n).opA i.word)) = (b, m))
    (hretired : ((s.consume n i c).physB (fld i.word 2 0) b m).retired = true) :
    exec (.fret n) s = .next ((s.consume n i c).done n i 0) := by
  refine congrArg Host.Outcome.next ((State.issue_ready hready).trans ((if_neg (by rw [hok]; simpa using hblock)).trans ?_))
  dsimp only
  rw [hblk]
  exact if_pos hretired

theorem State.blk_pendLong (s : State) (n : Nat) (i : Issue) (op : LongOp) : ((s.startLong n i op).pendRec n i).blk = s.blk := by
  unfold State.pendRec
  split <;> rfl

/-- FRET of a block of data: its records stay until a merge of their segment moves them (13 R415). -/
theorem exec_fret_data {b m : Nat} (hready : Ready s n 0x62 i c)
    (hok : (s.consume n i c).flashOk (fld i.word 2 0) (((s.consume n i c).ctx n).opA i.word) = true)
    (hblock : (flashAddr (((s.consume n i c).ctx n).opA i.word)).block ≠ 0)
    (hblk : (s.consume n i c).flashBlk (fld i.word 2 0) (flashAddr (((s.consume n i c).ctx n).opA i.word)) = (b, m))
    (hretired : ((s.consume n i c).physB (fld i.word 2 0) b m).retired = false)
    (huse : ((s.consume n i c).blk (fld i.word 2 0) b).use = .data) :
    exec (.fret n) s = .next (
      let u := s.consume n i c
      let t := fld i.word 2 0
      ((u.startLong n i (.fret t (b * 16 + m) (u.memberRecs t b m).length)).pendRec n i).endFret t) := by
  refine congrArg Host.Outcome.next ((State.issue_ready hready).trans ((if_neg (by rw [hok]; simpa using hblock)).trans ?_))
  dsimp only
  rw [hblk]
  dsimp only
  rw [if_neg (ne_true_of_eq_false hretired), State.blk_pendLong, huse]
  rfl

/-! ### SCRB -/

theorem exec_scrb_starts (e : BitVec 640) (hready : Ready s n 0x68 i c) (hlong : (s.ctx n).long = none) (hgd : 1 ≤ iGd i.word ∧ iGd i.word ≤ 12)
    (hrange : ¬ (s.tiles ≤ fld i.word 2 0 ∨ (((s.consume n i c).ctx n).opA i.word).toNat % 64 ≠ 0 ∨
      (((s.consume n i c).ctx n).reg (iGb i.word)).toNat = 0 ∨ 2 ^ 36 ≤ (((s.consume n i c).ctx n).reg (iGb i.word)).toNat ∨
      (s.consume n i c).dfaSize (fld i.word 2 0) <
        (((s.consume n i c).ctx n).opA i.word).toNat + 64 * (((s.consume n i c).ctx n).reg (iGb i.word)).toNat)) :
    exec (.scrb n e) s = .next (
      let u := s.consume n i c
      let lo := ((u.ctx n).opA i.word).toNat
      let k := ((u.ctx n).reg (iGb i.word)).toNat
      (u.startLong n i (.scrb { tile := fld i.word 2 0, next := lo, hi := lo + 64 * k })).pendRec n i) := by
  show execScrb n e s = _
  unfold execScrb
  rw [hlong]
  dsimp only
  rw [State.issueOp_ready hready (decide_eq_true hgd) rfl]
  refine congrArg Host.Outcome.next (if_neg ?_)
  rwa [State.tiles, State.consume_part]

/-- No other context runs an SCRB. -/
def State.scrbAlone (s : State) (n : Nat) : Prop := ∀ p ∈ s.ctxs, p.1 = n ∨ ∀ j q, p.2.long ≠ some (j, .scrb q)

theorem State.scrbAlone_of_all
    (h : s.ctxs.all (fun p => decide (p.1 = n) || (match p.2.long with | some (_, .scrb _) => false | _ => true)) = true) : s.scrbAlone n := by
  intro p hp
  have hp' := List.all_eq_true.mp h p hp
  by_cases hn : p.1 = n
  · exact .inl hn
  · refine .inr fun j q hlong => ?_
    rw [hlong, decide_eq_false hn] at hp'
    cases hp'

/-- An SCRB under way that waits for no recovery and for no other SCRB: it ends, waits for its channel, or takes its next line. -/
theorem exec_scrb_goes {r : ScrbRun} (e : BitVec 640) (hlong : (s.ctx n).long = some (i, .scrb r)) (hbusy : r.busy = none) (halone : s.scrbAlone n) :
    exec (.scrb n e) s = .next (if r.hi ≤ r.next then s.finishLong n r.status (r.words.headD 0) r.words true
      else if s.chanAway r.tile (dfaChan r.next) then s else s.scrbLine n i r e) := by
  have hother : (s.ctxs.any fun p => decide (p.1 ≠ n) &&
      (match p.2.long with | some (_, .scrb q) => q.runs && decide (q.tile = r.tile) | _ => false)) = false := by
    refine List.any_eq_false.mpr fun p hp hc => ?_
    obtain ⟨hne, hruns⟩ := Bool.and_eq_true_iff.mp hc
    rcases halone p hp with hn | hnone
    · exact of_decide_eq_true hne hn
    · split at hruns
      · rename_i hlong
        exact hnone _ _ hlong
      · cases hruns
  show execScrb n e s = _
  unfold execScrb
  rw [hlong]
  dsimp only
  rw [hbusy]
  exact congrArg Host.Outcome.next (if_neg (ne_true_of_eq_false hother))

end Ready

/-- Settles O38: the block and the member of the address, and the four fields of the word. -/
theorem flashEraseCount : Obligations.FlashEraseCount := by
  unfold Obligations.FlashEraseCount
  intro s n i c hready hok
  rw [exec_ferc hready hok]
  dsimp only
  rw [ferc_word (Nat.mod_lt _ (by decide))]
  rfl

/-- Settles O39, clause by clause from what each instruction does under its conditions. -/
theorem flashDiagnostics : Obligations.FlashDiagnostics := by
  unfold Obligations.FlashDiagnostics
  refine ⟨?range, ?refused, ?reads, ?retired, ?system, ?data, ?starts, ?line, ?ends⟩
  case range =>
    intro s n i c d hready hbad
    exact exec_fraw_range d hready hbad
  case refused =>
    rintro s n b m i c d hready ⟨hok, hblk⟩ hbad
    exact exec_fraw_refused d hready hok hblk hbad
  case reads =>
    rintro s n b m k i c r hready ⟨hok, hblk⟩ ⟨hmember, hfence, herasing, hhalf⟩ ⟨hslot, hrec⟩
    exact exec_fraw_reads hready hok hblk hmember hfence herasing hhalf hslot hrec
  case retired =>
    rintro s n b m i c hready ⟨hok, hblock⟩ ⟨hblk, hretired⟩
    exact exec_fret_retired hready hok hblock hblk hretired
  case system =>
    rintro s n i c ⟨hready, hblock⟩
    exact exec_fret_range hready hblock
  case data =>
    rintro s n b m i c hready ⟨hok, hblock⟩ ⟨hblk, hretired, huse⟩
    exact exec_fret_data hready hok hblock hblk hretired huse
  case starts =>
    rintro s n e i c ⟨hready, hlong, hgd⟩ ⟨htile, haligned, hsome, hfew, hfits⟩
    exact exec_scrb_starts e hready hlong hgd (by omega)
  case line =>
    rintro s n e i r ⟨hlong, hbusy, hmore, hhere⟩ halone
    rw [exec_scrb_goes e hlong hbusy (State.scrbAlone_of_all halone), if_neg (by omega), if_neg (ne_true_of_eq_false hhere)]
  case ends =>
    rintro s n e i r ⟨hlong, hbusy, hend⟩ halone
    rw [exec_scrb_goes e hlong hbusy (State.scrbAlone_of_all halone), if_pos hend]
    rfl

end Sys2Proof.Machine
end

section
/-! The event recorder and the performance counters (16 R469 to R482). -/

namespace Sys2Proof.Machine

open Sys2Proof.Safety

/-! ### An event that no trigger matches -/

theorem sramUsed_concat (l : List Rec) (r : Rec) : sramUsed (l ++ [r]) = sramUsed l + r.size := by
  unfold sramUsed
  rw [List.foldl_append]
  rfl

/-- The record of an event before a trigger changes it (16 Table 16-4). -/
def State.plainRec (s : State) (t sev code src pl ctx arg : Nat) (snaps : List Word) : Rec :=
  { sev, tile := t, code, tidemark := if s.time.master.on then s.localCount t else 0, optime := s.optime, pcycle := s.recd.pcycle,
    seq := (s.rt t).seq, src, pl, ctx, arg, snaps }

section Record

variable {s : State} {t sev code src : Nat} {r : Rec}

/-- An event that no trigger matches stores its plain record. -/
theorem State.record_plain (pl ctx arg : Nat) (snaps : List Word) (htable : s.boot.tableRead = true) (htrig : s.trigMatch t code src = none) :
    s.record t sev code src pl ctx arg snaps =
      ((s.storeRec (s.plainRec t sev code src pl ctx arg snaps)).1.flushCauses t sev).tallyRec t
        (some (s.storeRec (s.plainRec t sev code src pl ctx arg snaps)).2) := by
  unfold State.record State.makeRec
  rw [htable, htrig]
  rfl

/-- A record that SRAM has room for is appended. -/
theorem State.storeRec_room (h : sramUsed (s.rt r.tile).sram + r.size ≤ 262144) :
    s.storeRec r = (s.setRt r.tile { s.rt r.tile with sram := (s.rt r.tile).sram ++ [r], seq := (s.rt r.tile).seq + 1 }, false) := if_pos h

/-- A record below severity 5 that SRAM has no room for is dropped, and takes its sequence number with it (16 R474). -/
theorem State.storeRec_full (h : 262144 < sramUsed (s.rt r.tile).sram + r.size) (hsev : r.sev < 5) :
    s.storeRec r = ((s.setRt r.tile { s.rt r.tile with seq := (s.rt r.tile).seq + 1 }).dropRec r.tile r.sev, true) :=
  (if_neg (Nat.not_le.mpr h)).trans (if_neg (Nat.not_le.mpr hsev))

/-- Below severity 5 and below 192 KiB of uncommitted records no flush is ordered (16 R475). -/
theorem State.flushCauses_none (hsev : sev < 5) (hused : sramUsed (s.rt t).sram < 196608) : s.flushCauses t sev = s :=
  (if_neg (Nat.not_le.mpr hsev)).trans (if_neg (Nat.not_le.mpr hused))

/-- Ordering a flush of a tile leaves its records. -/
theorem State.flushCauses_low (hsev : sev < 5) :
    ((s.flushCauses t sev).rt t).sram = (s.rt t).sram ∧ ((s.flushCauses t sev).rt t).seq = (s.rt t).seq := by
  unfold State.flushCauses
  rw [if_neg (Nat.not_le.mpr hsev)]
  split
  · rw [State.wantFlush, State.rt_setRt]
    exact ⟨rfl, rfl⟩
  · exact ⟨rfl, rfl⟩

end Record

/-- A device event below severity 7 is logged with its own severity (16 R469). -/
theorem exec_eventRecord {s : State} {tile sev : Nat} (block inst kind detail arg : Nat) (htile : tile < s.tiles) (hsev : sev < 5) :
    exec (.eventRecord tile sev block inst kind detail arg) s =
      .next (s.record tile sev (evCode block inst detail kind) 1 0 0 arg []) := by
  refine congrArg Host.Outcome.next ((if_pos htile).trans ?_)
  rw [Nat.min_eq_left (by omega)]
  rfl

/-! ### The commit of a flush -/

/-- While slots are free the records of a batch are placed behind the area in their order (16 R477). -/
theorem foldl_place {slots : Nat} (l : List Rec) (old new : List Rec) (drops : List Nat) (h : old.length + new.length + l.length ≤ slots) :
    l.foldl (place slots) (old, new, drops) = (old, new ++ l, drops) := by
  induction l generalizing new with
  | nil => rw [List.append_nil]; rfl
  | cons r l ih =>
    rw [List.length_cons] at h
    have hplace : place slots (old, new, drops) r = (old, new ++ [r], drops) := if_pos (by omega)
    rw [List.foldl_cons, hplace, ih _ (by rw [List.length_append, List.length_singleton]; omega), List.append_assoc, List.singleton_append]

/-- The commit of a batch that the area has room for (16 R476). -/
theorem State.commitBatch_room {s : State} {t n : Nat} (h : (s.rt t).area.length + ((s.rt t).sram.take n).length ≤ recSlots) :
    ((s.commitBatch t n).rt t).sram = (s.rt t).sram.drop n ∧ ((s.commitBatch t n).rt t).batch = none ∧
      ((s.commitBatch t n).rt t).area = (s.rt t).area ++ (s.rt t).sram.take n ∧
      ((s.commitBatch t n).rt t).marker = commitMarker ((s.rt t).sram.take n) ∧
      (s.commitBatch t n).recd.opStored = s.optime ∧ (s.commitBatch t n).recd.opWritten = s.clock := by
  unfold State.commitBatch
  dsimp only
  rw [foldl_place _ _ _ _ (by simpa using h)]
  dsimp only [List.foldl_nil, List.nil_append]
  unfold State.rt State.setRt
  dsimp only
  rw [Store.read_write_same]
  exact ⟨rfl, rfl, rfl, rfl, rfl, rfl⟩

/-- Settles O12, clause by clause from what each command does under its conditions. -/
theorem recorderRows : Obligations.RecorderRows := by
  unfold Obligations.RecorderRows
  refine ⟨?takes, ?drops, ?flush, ?commit, ?reads, ?hourly⟩
  case takes =>
    intro s tile sev block inst kind detail arg htile hsev htable htrig hroom
    have hstore := State.storeRec_room (s := s) (r := s.plainRec tile sev (evCode block inst detail kind) 1 0 0 arg []) (Nat.le_trans hroom (by decide))
    have hused := sramUsed_concat (s.rt tile).sram (s.plainRec tile sev (evCode block inst detail kind) 1 0 0 arg [])
    rw [exec_eventRecord _ _ _ _ _ htile hsev, State.record_plain _ _ _ _ htable htrig, hstore, State.flushCauses_none hsev]
    · rfl
    · dsimp only [State.plainRec] at hused ⊢
      rw [State.rt_setRt, hused]
      exact Nat.lt_of_le_of_lt hroom (by decide)
  case drops =>
    intro s tile sev block inst kind detail arg htile hsev htable htrig hfull
    have hstore := State.storeRec_full (s := s) (r := s.plainRec tile sev (evCode block inst detail kind) 1 0 0 arg []) hfull hsev
    refine ⟨?_, ?_⟩
    · rw [exec_eventRecord _ _ _ _ _ htile hsev, State.record_plain _ _ _ _ htable htrig, hstore]
      rfl
    · have hrt : (((s.setRt tile { s.rt tile with seq := (s.rt tile).seq + 1 }).dropRec tile sev).rt tile) =
          { s.rt tile with seq := (s.rt tile).seq + 1 } := State.rt_setRt ..
      obtain ⟨hsram, hseq⟩ := State.flushCauses_low (s := (s.setRt tile { s.rt tile with seq := (s.rt tile).seq + 1 }).dropRec tile sev) (t := tile) hsev
      rw [hrt] at hsram hseq
      exact ⟨hsram, hseq⟩
  case flush =>
    intro s tile hcan
    exact congrArg Host.Outcome.next (if_pos hcan)
  case commit =>
    intro s tile n hbatch hup hroom
    refine ⟨s.commitBatch tile n, ?_, State.commitBatch_room hroom⟩
    show execFlushCommit tile s = _
    unfold execFlushCommit
    rw [hbatch]
    exact congrArg Host.Outcome.next (if_pos hup)
  case reads =>
    intro s k r hk hleast
    refine congrArg Host.Outcome.next ((if_pos hk).trans ?_)
    unfold State.fetchRec
    dsimp only
    rw [hleast]
  case hourly =>
    intro s hdue
    exact congrArg Host.Outcome.next (if_pos (decide_eq_true hdue))

/-! ### The counters -/

section Counter

variable {s : State} {t b k : Nat}

/-- An event of a counter below its top adds one to it. -/
theorem State.bump_below (h : (s.ctr (ctrKey t b k)).cnt + 1 < 2 ^ 48) :
    s.bump t b k = s.setCtr (ctrKey t b k) { s.ctr (ctrKey t b k) with cnt := (s.ctr (ctrKey t b k)).cnt + 1 } := if_pos h

/-- The event that a counter at its top counts wraps it, and is itself recorded (16 R481). -/
theorem State.bump_top (h : (s.ctr (ctrKey t b k)).cnt = 2 ^ 48 - 1) :
    s.bump t b k = ((s.setCtr (ctrKey t b k) { s.ctr (ctrKey t b k) with cnt := 0, ovf := true }).makeRec t 1
      (evCode bPmc (64 * t + b) k 0x09) 1 0 0 0 []).1 := if_neg (by rw [h]; decide)

/-- Events that do not reach the top of a counter are all counted. -/
theorem State.cnt_bumps (events : Nat) (h : (s.ctr (ctrKey t b k)).cnt + events < 2 ^ 48) :
    (((List.range events).foldl (fun s _ => s.bump t b k) s).ctr (ctrKey t b k)).cnt = (s.ctr (ctrKey t b k)).cnt + events := by
  induction events with
  | zero => rfl
  | succ m ih =>
    have hm := ih (by omega)
    rw [List.range_succ, List.foldl_append, List.foldl_cons, List.foldl_nil, State.bump_below (by omega), State.ctr_setCtr]
    dsimp only
    omega

theorem exec_pmcCntWrite {pl : Nat} (value : Word) (events : Nat) (hctr : t < s.tiles ∧ b < 40 ∧ k < 16) (hpl : pl ≤ 1)
    (hfence : s.tileFenced t = false) :
    exec (.pmcCntWrite t b k pl value events) s = .next
      ((List.range (if s.pmc.frozen then 0 else events)).foldl (fun s _ => s.bump t b k) (s.writeCnt t b k value)) := by
  obtain ⟨ht, hb, hk⟩ := hctr
  exact congrArg Host.Outcome.next (if_pos ⟨ht, hb, hk, hpl, by rw [hfence]; rfl⟩)

end Counter

/-- Settles O13: the wrap of a counter, its write in a cycle without events, and with events. -/
theorem counterRows : Obligations.CounterRows := by
  unfold Obligations.CounterRows
  refine ⟨?wraps, ?writes, ?events⟩
  case wraps =>
    rintro s tile b k ⟨htile, hb, hk⟩ htop hon hrunning
    refine congrArg Host.Outcome.next ((if_pos ⟨htile, hb, hk, htop, hon, by rw [hrunning]; rfl⟩).trans ?_)
    exact State.bump_top htop
  case writes =>
    intro s tile b k pl events value hctr hpl hfence hquiet
    have hnone : (if s.pmc.frozen then 0 else events) = 0 := by
      rcases hquiet with h | h
      · exact if_pos h
      · rw [h]
        exact ite_self 0
    refine ⟨?_, fun j hj => Store.read_write_ne _ _ _ _ hj⟩
    rw [exec_pmcCntWrite value events hctr hpl hfence, hnone]
    rfl
  case events =>
    intro s tile b k pl events value hctr hpl hfence hrunning hfits
    have hcnt : ((s.writeCnt tile b k value).ctr (ctrKey tile b k)).cnt = fld value 47 0 := by
      unfold State.writeCnt
      dsimp only
      rw [State.ctr_setCtr]
    refine ⟨_, exec_pmcCntWrite value events hctr hpl hfence, ?_⟩
    rw [hrunning, if_neg (by decide)]
    dsimp only
    rw [State.cnt_bumps events (by rwa [hcnt]), hcnt]

end Sys2Proof.Machine
end

section
/-! The rail sequence and the timed shutdown (15 R454, R455, R461, R462). -/

namespace Sys2Proof.Machine

open Sys2Proof.Safety

section Sequence

variable {s : State} {i : Nat}

/-- The state that has accepted power good `i` high (15 R450). -/
def State.pgHigh (s : State) (i : Nat) : State := { s with pwr := { s.pwr with pg := setBits s.pwr.pg [i] } }

/-- A power good that rises while a step waits for its power goods: the last of them starts the WINDOW (15 R454). -/
theorem State.acceptPg_high (hpg : s.pwr.pg.getLsbD i = false) (hrun : s.save.run = none) (hstate : s.pwr.state = .sequencing)
    (hclass : s.chanClass i ≠ 1) : s.acceptPg i true = (s.pgHigh i).seqPg i true := by
  have hnote : (s.pgHigh i).noteInput = s.pgHigh i := State.noteInput_of_run_none hrun
  have hclass' : (s.pgHigh i).chanClass i ≠ 1 := hclass
  have hstate' : (s.pgHigh i).pwr.state = .sequencing := hstate
  unfold State.acceptPg
  rw [if_neg (by rw [hpg]; decide)]
  show (if (s.pgHigh i).noteInput.pwr.state = .sequencing then
      (if (s.pgHigh i).noteInput.chanClass i = 1 then (s.pgHigh i).noteInput else (s.pgHigh i).noteInput.seqPg i true)
      else (s.pgHigh i).noteInput) = _
  rw [hnote, if_pos hstate', if_neg hclass']

theorem State.seqPg_last (hstate : s.pwr.state = .sequencing) (hraised : s.pwr.toRaise = false) (hphase : s.pwr.phase = .wait)
    (hgood : s.stepGood s.pwr.step = true) :
    s.seqPg i true = { s with pwr := { s.pwr with phase := .window, since := s.clock } } := by
  unfold State.seqPg
  rw [if_neg (by simp [hstate, hraised]), if_pos rfl, if_pos (by simp [hphase, hgood])]

/-- A power good of the step that drops in its WINDOW or its DELAY restarts the step (15 R454). -/
theorem State.seqPg_restart (hstate : s.pwr.state = .sequencing) (hraised : s.pwr.toRaise = false) (hphase : s.pwr.phase ≠ .wait)
    (hswitched : s.switched i = true) (hstep : s.chanStep i = s.pwr.step) : s.seqPg i false = s.restartStep i := by
  unfold State.seqPg
  rw [if_neg (by simp [hstate, hraised]), if_neg (by decide), if_neg (by simp [hswitched]), if_neg (by omega), if_pos ⟨hstep, hphase⟩]

/-- Of a sequence, what falls is a matter of the step unless it is the input (15 R454). -/
theorem State.pgFell_sequencing (hstate : s.pwr.state = .sequencing) (hclass : s.chanClass i ≠ 1) : s.pgFell i = s.seqPg i false := by
  unfold State.pgFell
  rw [if_pos hstate, if_neg hclass]

theorem State.restartStep_few (h : s.pwr.restarts < 3) :
    s.restartStep i = { s with pwr := { s.pwr with restarts := s.pwr.restarts + 1, phase := .wait, since := s.clock } } :=
  if_neg (by omega)

theorem exec_psPgAccept (hi : i < 16) (high : Bool) : exec (.psPgAccept i high) s = .next (s.acceptPg i high) :=
  congrArg Host.Outcome.next (if_pos hi)

end Sequence

/-- Settles O14, clause by clause from what each command does under its conditions. -/
theorem railSequence : Obligations.RailSequence := by
  unfold Obligations.RailSequence
  refine ⟨?raise, ?good, ?drop, ?window, ?next, ?complete, ?timeout, ?step, ?off, ?release⟩
  case raise =>
    rintro s ⟨hstate, hraise, hfault⟩ hgood
    refine congrArg Host.Outcome.next ((if_pos ⟨hstate, hraise, by rw [hfault]; rfl⟩).trans ?_)
    exact if_neg (ne_true_of_eq_false hgood)
  case good =>
    rintro s i hi hlow hsave ⟨hstate, hraise, hphase, hclass⟩ hgood
    rw [exec_psPgAccept hi, State.acceptPg_high hlow hsave hstate hclass, State.seqPg_last (s := s.pgHigh i) hstate hraise hphase hgood]
    rfl
  case drop =>
    rintro s i hi hhigh hsave ⟨hstate, hraise, hphase⟩ ⟨hswitched, hclass, hstep⟩ hfew
    have hnote : (s.pgLow i).noteInput = s.pgLow i := State.noteInput_of_run_none hsave
    have hinput : (s.pgLow i).chanClass i ≠ 1 := by
      have hlow : 2 ≤ s.chanClass i := (of_decide_eq_true hswitched).1
      show s.chanClass i ≠ 1
      omega
    rw [exec_psPgAccept hi, State.acceptPg_low hhigh hclass, hnote, State.pgFell_sequencing (s := s.pgLow i) hstate hinput,
      State.seqPg_restart (s := s.pgLow i) hstate hraise hphase hswitched hstep, State.restartStep_few (s := s.pgLow i) hfew]
    rfl
  case window =>
    rintro s ⟨hstate, hraise, hphase⟩ hdue
    exact congrArg Host.Outcome.next (if_pos ⟨hstate, by rw [hraise]; rfl, hphase, decide_eq_true hdue⟩)
  case next =>
    rintro s ⟨hstate, hraise, hphase⟩ hdue hmore
    refine congrArg Host.Outcome.next ((if_pos ⟨hstate, by rw [hraise]; rfl, hphase, decide_eq_true hdue⟩).trans ?_)
    exact if_pos hmore
  case complete =>
    rintro s ⟨hstate, hraise, hphase⟩ hdue hlast
    refine congrArg Host.Outcome.next ((if_pos ⟨hstate, by rw [hraise]; rfl, hphase, decide_eq_true hdue⟩).trans ?_)
    exact if_neg (Nat.not_lt.mpr hlast)
  case timeout =>
    rintro s ⟨hstate, hraise, hphase⟩ hdue
    exact congrArg Host.Outcome.next (if_pos ⟨hstate, by rw [hraise]; rfl, hphase, decide_eq_true hdue⟩)
  case step =>
    intro s k hshutting hdue hbelow
    refine congrArg Host.Outcome.next ((if_pos (Bool.and_eq_true_iff.mpr ⟨hshutting, decide_eq_true hdue⟩)).trans ?_)
    unfold State.shutStep
    dsimp only
    rw [hbelow]
  case off =>
    intro s hshutting hdue hbelow
    refine congrArg Host.Outcome.next ((if_pos (Bool.and_eq_true_iff.mpr ⟨hshutting, decide_eq_true hdue⟩)).trans ?_)
    unfold State.shutStep
    dsimp only
    rw [hbelow]
  case release =>
    rintro s ⟨hout, hmode, hshutting⟩ hdue
    have hdue' : s.due s.pwr.faultSince (100 * us) = true := decide_eq_true hdue
    refine congrArg Host.Outcome.next (if_pos ?_)
    rw [hout, decide_eq_true hmode, hshutting, hdue']
    rfl

end Sys2Proof.Machine
end

section
/-! How nonces are issued, and a chaining state in a tile whose bulk class has no core (13 R419; 14 R430, R443). -/

namespace Sys2Proof.Machine

open Sys2Proof.Safety

/-! ### Nonces -/

@[simp] theorem beBytes_length (n v : Nat) : (beBytes n v).length = n := by
  unfold beBytes leBytes
  rw [List.length_reverse, List.length_map, List.length_range]

/-- A nonce carries the counter in its low 64 bits (14 R443). -/
theorem State.nonceBytes_drop (s : State) (t src c : Nat) : (s.nonceBytes t src c).drop 4 = beBytes 8 c :=
  List.drop_left' (beBytes_length 4 _)

/-- A read-only parameter of 64 bits reads what the device computes. -/
theorem readMask_pRO (r : Nat) (w : Word) : readMask (pRO r) w = w := by
  have hall : fld w 63 0 = w.toNat := by
    rw [fld, Nat.pow_zero, Nat.div_one]
    exact Nat.mod_eq_of_lt w.isLt
  show ins 0 63 0 (fld w 63 0) = w
  rw [hall, ins, fld]
  apply BitVec.eq_of_toNat_eq
  have := w.isLt
  simp only [BitVec.toNat_ofNat]
  omega

/-- The parameters `ciph.nonce_ctr` of every tile of a part (18). -/
theorem pspec_nonceCtr (p : Part) {t src : Nat} (ht : t < p.tiles) (hsrc : 1 ≤ src ∧ src ≤ 3) :
    pspec p.tiles (pid bCiph t (8 + src)) = some ⟨bCiph, .tile, 0x09, 3, pRO 0⟩ := by
  have hall : ∀ p ∈ [Part.t2a, .t4a, .t8a], ∀ t ∈ List.range p.tiles, ∀ src ∈ [1, 2, 3],
      pspec p.tiles (pid bCiph t (8 + src)) = some ⟨bCiph, .tile, 0x09, 3, pRO 0⟩ := by decide +kernel
  refine hall p ?_ t (List.mem_range.mpr ht) src ?_
  · cases p <;> decide
  · simp only [List.mem_cons, List.not_mem_nil, or_false]
    omega

theorem State.view_nonceCtr {s : State} {t src : Nat} (ht : t < s.tiles) (hsrc : 1 ≤ src ∧ src ≤ 3) :
    s.view (pid bCiph t (8 + src)) 0 = BitVec.ofNat 64 (Store.read s.nonces (4 * t + src) 0) := by
  have ht8 : t < 8 := ht.trans_le s.part.tiles_le
  have hblock : pidBlock (pid bCiph t (8 + src)) = 0x10 := by
    show (0x10 * 0x40000 + t * 0x100 + (8 + src)) / 0x40000 % 64 = 0x10
    omega
  have hinst : pidInst (pid bCiph t (8 + src)) = t := by
    show (0x10 * 0x40000 + t * 0x100 + (8 + src)) / 0x100 % 1024 = t
    omega
  have hidx : pidIdx (pid bCiph t (8 + src)) = 8 + src := by
    show (0x10 * 0x40000 + t * 0x100 + (8 + src)) % 256 = 8 + src
    omega
  have hcomputed : s.computed (pid bCiph t (8 + src)) 0 = some (BitVec.ofNat 64 (Store.read s.nonces (4 * t + src) 0)) := by
    unfold State.computed
    rw [hblock, hinst, hidx]
    show s.viewCiph t (8 + src) = _
    unfold State.viewCiph
    rw [if_pos ⟨ht8, by omega⟩, Nat.add_sub_cancel_left]
  unfold State.view
  rw [pspec_nonceCtr s.part ht hsrc]
  dsimp only
  rw [readMask_pRO, State.inEffect, hcomputed]
  rfl

/-- Settles O45: the counter of a source goes up as `State.nextCount` says, and a range is its first and its last count. -/
theorem nonceIssue : Obligations.NonceIssue := by
  unfold Obligations.NonceIssue
  refine ⟨?issue, ?range, ?nonce, ?view⟩
  case issue =>
    intro s t src hsrc
    exact ⟨State.nonceBytes_drop .., Store.read_write_same _ _ _ _, rfl, rfl⟩
  case range =>
    intro s t pages hpages
    exact ⟨rfl, Store.read_write_same _ _ _ _⟩
  case nonce =>
    intro s t c i
    exact State.nonceBytes_drop ..
  case view =>
    rintro s t src ⟨ht, hlow, hhigh⟩
    exact State.view_nonceCtr ht ⟨hlow, hhigh⟩

/-! ### A CRYP without a core -/

/-- A CRYP of context 0x1000 under way on tile 0, whose slot has been installed again since it began, while `ciph.cores_bulk` of the tile
is 0. -/
def crypWithoutCore : State :=
  { State.reset with
    params := [(pid bCiph 0 2, 0)]
    ctxs := [(0x1000, { long := some (noItem, .cryp),
                        cryp := some { slot := 100, mode := 0, tile := 0, pages := 1, src := 0, dst := 0x4000, installs := 1, base := 0 } })] }

/-- The status of the last record that a context has written. -/
def State.lastStatus (s : State) (n : Nat) : Option Status := (s.ctx n).outbox.getLast?.map Cpl.status

/-- The unit finds no core before it looks at the key. -/
theorem lastStatus_crypStep : (crypWithoutCore.crypStep 0x1000).lastStatus 0x1000 = some .fenced := by decide +kernel

theorem lastStatus_finishR_key : (crypWithoutCore.finishR 0x1000 .key 0).lastStatus 0x1000 = some .key := by decide +kernel

/-- Refutes O46: a unit of a CRYP whose slot has been installed again ends with KEY only where the bulk class of its tile has a core. With
`ciph.cores_bulk` 0 (14 gives it 1 to 14, and the statement takes every state) `State.crypStep` ends it with FENCED before it looks at the
key. -/
theorem not_cipherInstructions : ¬ Obligations.CipherInstructions := by
  unfold Obligations.CipherInstructions
  rintro ⟨-, -, -, -, -, -, -, -, -, -, mismatch, -⟩
  have hkey := mismatch crypWithoutCore 0x1000 noItem
    { slot := 100, mode := 0, tile := 0, pages := 1, src := 0, dst := 0x4000, installs := 1, base := 0 } ⟨rfl, rfl, rfl⟩ (by decide +kernel)
  have hstatus : some Status.fenced = some Status.key := by
    rw [← lastStatus_crypStep, hkey, lastStatus_finishR_key]
  exact absurd hstatus (by decide)

end Sys2Proof.Machine
end

section
/-! The anti-rollback count (17 R488), and the TAP (19 R538 to R544). -/

namespace Sys2Proof.Machine

open Sys2Proof.Safety

/-! ### The anti-rollback count -/

/-- One more than the highest number below `n` of which a test holds, and 0 where it holds of none. -/
def highestPlusOne (p : Nat → Bool) (n : Nat) : Nat := (List.range n).foldl (fun a i => if p i then i + 1 else a) 0

theorem highestPlusOne_succ (p : Nat → Bool) (n : Nat) : highestPlusOne p (n + 1) = if p n then n + 1 else highestPlusOne p n := by
  unfold highestPlusOne
  rw [List.range_succ, List.foldl_append]
  rfl

theorem highestPlusOne_le (p : Nat → Bool) (n : Nat) : highestPlusOne p n ≤ n := by
  induction n with
  | zero => exact Nat.le_refl 0
  | succ n ih =>
    rw [highestPlusOne_succ]
    split
    · exact Nat.le_refl _
    · omega

theorem highestPlusOne_none {p : Nat → Bool} {n : Nat} (h : ∀ j < n, p j = false) : highestPlusOne p n = 0 := by
  induction n with
  | zero => rfl
  | succ n ih =>
    rw [highestPlusOne_succ, h n (Nat.lt_succ_self n)]
    exact ih fun j hj => h j (Nat.lt_succ_of_lt hj)

theorem highestPlusOne_eq {p : Nat → Bool} {n k : Nat} (hk : k < n) (hp : p k = true) (h : ∀ j < n, k < j → p j = false) :
    highestPlusOne p n = k + 1 := by
  induction n with
  | zero => omega
  | succ n ih =>
    rw [highestPlusOne_succ]
    rcases Nat.lt_or_eq_of_le (Nat.le_of_lt_succ hk) with hlt | rfl
    · rw [h n (Nat.lt_succ_self n) hlt]
      exact ih hlt fun j hj hkj => h j (Nat.lt_succ_of_lt hj) hkj
    · rw [hp]
      rfl

/-- ARB bit `i` (17 Table 17-1). -/
def State.arbBit (s : State) (i : Nat) : Bool := bit (s.fuseWord (1 + i / 64)) (i % 64)

theorem State.arbCount_eq (s : State) : s.arbCount = highestPlusOne s.arbBit 128 := rfl

/-- Settles O47: the count is one more than the highest of the 128 bits that is set. -/
theorem antiRollbackCount : Obligations.AntiRollbackCount := by
  unfold Obligations.AntiRollbackCount
  refine ⟨?highest, ?none, ?most⟩
  case highest =>
    rintro s k ⟨hk, hbit⟩ habove
    rw [State.arbCount_eq]
    exact highestPlusOne_eq hk hbit habove
  case none =>
    intro s hclear
    rw [State.arbCount_eq]
    exact highestPlusOne_none hclear
  case most =>
    intro s
    rw [State.arbCount_eq]
    exact highestPlusOne_le _ _

/-! ### IDCODE -/

theorem exec_captureDr_idcode {s : State} (lands : Nat) (h : s.tap.instr = 1) :
    exec (.captureDr lands) s = .next { s with tap := { s.tap with dr := s.idcode } } := by
  show execCaptureDr lands s = _
  unfold execCaptureDr
  rw [h]
  rfl

theorem State.idcode_eq (s : State) : s.idcode = 0x0C88_40D7 + fld (s.fuseWord 4) 19 16 * 2 ^ 28 := rfl

/-- Settles O50: the fields of the word that IDCODE captures, for every stepping code. -/
theorem idcode : Obligations.Idcode := by
  unfold Obligations.Idcode
  refine ⟨?fields, ?stepping, ?selects⟩
  case fields =>
    intro s lands h
    have hcode : fld (s.fuseWord 4) 19 16 < 2 ^ 4 := fld_lt _ 19 16
    refine ⟨_, exec_captureDr_idcode lands h, ?_⟩
    dsimp only
    rw [State.idcode_eq]
    refine ⟨?_, ?_, ?_, ?_, ?_, ?_⟩ <;> omega
  case stepping =>
    rintro s lands ⟨h, hcode⟩
    refine ⟨_, exec_captureDr_idcode lands h, ?_⟩
    have hvalue : 0x0C88_40D7 + fld (s.fuseWord 4) 19 16 * 2 ^ 28 = 0x1C88_40D7 := by omega
    exact (State.idcode_eq s).trans hvalue
  case selects =>
    exact fun s => ⟨s.loadIr 1, rfl, rfl, rfl, rfl⟩

/-! ### The instructions of the TAP -/

section Tap

variable {s : State}

/-- What Capture-IR has loaded: 0b01, with bit 2 set while the driving instructions are blocked (19 R539). -/
theorem State.loadIr_eq (s : State) (code : Nat) :
    s.loadIr code = { s with tap := { s.tap with instr := code, ir := if s.drivingBlocked then 5 else 1 } } := by
  unfold State.loadIr
  cases s.drivingBlocked <;> rfl

theorem State.loadDriving_blocked (h : s.drivingBlocked = true) (code : Nat) :
    s.loadDriving code = { s with tap := { s.tap with instr := 0xFF, ir := 5 } } := by
  unfold State.loadDriving
  rw [if_pos h, State.loadIr_eq, h]
  rfl

/-- The first driving instruction that is not blocked begins scan hold (19 R542). -/
theorem State.loadDriving_begins (h : s.drivingBlocked = false) (hscan : s.tap.scanHold = false) (code : Nat) :
    s.loadDriving code = { s with tap := { s.tap with instr := code, ir := 1, scanHold := true, handed := false, since := s.clock } } := by
  have hscan' : ¬ (s.loadIr code).tap.scanHold = true := ne_true_of_eq_false hscan
  unfold State.loadDriving
  rw [if_neg (ne_true_of_eq_false h)]
  dsimp only
  rw [if_neg hscan', State.loadIr_eq, h]
  rfl

/-- In scan hold a driving instruction takes effect and nothing begins again. -/
theorem State.loadDriving_held (h : s.drivingBlocked = false) (hscan : s.tap.scanHold = true) (code : Nat) :
    s.loadDriving code = { s with tap := { s.tap with instr := code, ir := 1 } } := by
  have hscan' : (s.loadIr code).tap.scanHold = true := hscan
  unfold State.loadDriving
  rw [if_neg (ne_true_of_eq_false h)]
  dsimp only
  rw [if_pos hscan', State.loadIr_eq, h]
  rfl

/-- The vendor instructions (codes 0x80 to 0xFE) are open before OWNED, and in OWNED by the two fuses and the unlock (17 Table 17-2). -/
theorem State.privOpen_iff : s.privOpen = true ↔
    s.life ≠ .owned ∨ ((s.fuseWord 0).getLsbD 8 = false ∧ ((s.fuseWord 0).getLsbD 9 = false ∨ s.fuse.unlocked = true)) := by
  simp only [State.privOpen, bit, Bool.or_eq_true, Bool.and_eq_true, Bool.not_eq_true', decide_eq_true_eq]

/-- SCAN_HOLD carries out the entry that a driving instruction began (19 R542). -/
theorem exec_scanHold (hscan : s.tap.scanHold = true) (hhanded : s.tap.handed = false) (hmode : s.mode.mode = .main)
    (hsave : s.save.run.isSome = false) :
    exec .scanHold s = .next (
      let u := (s.liveTiles.foldl State.linksDown s).loseTwin
      let v := u.quiesce.liveTiles.foldl (fun (w : State) t => w.savePhases t (u.atCommit t) 5 7 u.quiesce.master false false) u.quiesce
      { v with pwr := { v.pwr with dramUp := 0 }, chans := v.chans.map (fun p => (p.1, { p.2 with validL := false, validH := false, rateH := 0 })),
               tap := { v.tap with handed := true } }) :=
  congrArg Host.Outcome.next (if_neg (by simp [hscan, hhanded, hmode, hsave]))

/-! ### The registers of the TAP -/

theorem tapReg_boundary {k : Nat} (h : k = 0 ∨ k = 2 ∨ k = 5 ∨ k = 6) : tapReg k = 0 := by
  rcases h with rfl | rfl | rfl | rfl <;> rfl

theorem tapReg_private {k : Nat} (hlow : 0x80 ≤ k) (hhigh : k ≤ 0xFE) : tapReg k = 3 := by
  have hother : ¬ [0x00, 0x02, 0x05, 0x06].contains k = true := by
    simp only [List.contains_iff_mem, List.mem_cons, List.not_mem_nil, or_false]
    omega
  exact (if_neg hother).trans ((if_neg (by omega)).trans (if_pos ⟨hlow, hhigh⟩))

theorem exec_captureDr_boundary (lands : Nat) (h : tapReg s.tap.instr = 0) :
    exec (.captureDr lands) s = .next { s with tap := { s.tap with
      lands := lands % 2 ^ s.cells, dr := if s.tap.scanHold ∧ !s.tap.handed then 0 else lands % 2 ^ s.cells } } := by
  show execCaptureDr lands s = _
  unfold execCaptureDr
  rw [h]
  rfl

theorem exec_captureDr_bypass (lands : Nat) (h : tapReg s.tap.instr = 2) :
    exec (.captureDr lands) s = .next { s with tap := { s.tap with dr := 0 } } := by
  show execCaptureDr lands s = _
  unfold execCaptureDr
  rw [h]
  rfl

theorem exec_captureDr_private (lands : Nat) (h : tapReg s.tap.instr = 3) :
    exec (.captureDr lands) s = .next { s.drawWord.2 with tap := { s.drawWord.2.tap with dr := s.drawWord.1.toNat } } := by
  show execCaptureDr lands s = _
  unfold execCaptureDr
  rw [h]
  rfl

/-- UPDATE_DR moves what was shifted in, but for the time from the start of scan hold to its hand-over (19 R542). -/
theorem exec_updateDr (value : Nat) (h : tapReg s.tap.instr = 0) (hhanded : s.tap.scanHold = false ∨ s.tap.handed = true) :
    exec (.updateDr value) s = .next { s with tap := { s.tap with update := value % 2 ^ s.cells, dr := value % 2 ^ s.cells } } := by
  refine congrArg Host.Outcome.next (if_pos ⟨h, ?_⟩)
  rcases hhanded with h | h <;> simp [h]

theorem exec_updateDr_held (value : Nat) (hscan : s.tap.scanHold = true) (hhanded : s.tap.handed = false) :
    exec (.updateDr value) s = .next s :=
  congrArg Host.Outcome.next (if_neg (by simp [hscan, hhanded]))

end Tap

/-- Settles O51, clause by clause from what each command does under its conditions. -/
theorem tapInstructions : Obligations.TapInstructions := by
  unfold Obligations.TapInstructions
  refine ⟨?blocked, ?extest, ?others, ?held, ?plain, ?sample, ?priv, ?entry, ?boundary, ?registers, ?update, ?early⟩
  case blocked =>
    rintro s c ⟨hblocked, hc⟩
    have h := fun code => congrArg (Host.Outcome.next (φ := Fault) (ρ := Refusal)) (State.loadDriving_blocked hblocked code)
    rcases hc with rfl | rfl | rfl | rfl | rfl
    · exact h 0x00
    · exact h 0x03
    · exact h 0x04
    · exact h 0x05
    · exact h 0x06
  case extest =>
    rintro s ⟨hfree, hscan⟩
    exact congrArg Host.Outcome.next (State.loadDriving_begins hfree hscan 0x00)
  case others =>
    rintro s ⟨hfree, hscan⟩
    have h := fun code => congrArg (Host.Outcome.next (φ := Fault) (ρ := Refusal)) (State.loadDriving_begins hfree hscan code)
    exact ⟨h 0x03, h 0x04, h 0x05, h 0x06⟩
  case held =>
    rintro s ⟨hfree, hscan⟩
    exact congrArg Host.Outcome.next (State.loadDriving_held hfree hscan 0x04)
  case plain =>
    intro s ir
    exact ⟨congrArg Host.Outcome.next (s.loadIr_eq 0x01), congrArg Host.Outcome.next (s.loadIr_eq 0xFF), rfl⟩
  case sample =>
    intro s
    exact congrArg Host.Outcome.next (s.loadIr_eq _)
  case priv =>
    rintro s code ⟨hlow, hhigh, hmode⟩
    refine congrArg Host.Outcome.next ((s.loadIr_eq _).trans ?_)
    have hopen : (0x80 ≤ code ∧ code ≤ 0xFE ∧ s.privOpen = true ∧ s.mode.mode ≠ .stby) ↔
        s.life ≠ .owned ∨ ((s.fuseWord 0).getLsbD 8 = false ∧ ((s.fuseWord 0).getLsbD 9 = false ∨ s.fuse.unlocked = true)) := by
      rw [← State.privOpen_iff]
      exact ⟨fun ⟨_, _, h, _⟩ => h, fun h => ⟨hlow, hhigh, h, hmode⟩⟩
    rw [if_congr hopen rfl rfl]
  case entry =>
    rintro s ⟨hscan, hhanded, hmode, hsave⟩
    exact exec_scanHold hscan hhanded hmode hsave
  case boundary =>
    intro s lands hinstr
    exact exec_captureDr_boundary lands (tapReg_boundary hinstr)
  case registers =>
    intro s lands
    exact ⟨fun h => exec_captureDr_bypass lands (by rw [h]; rfl), fun hlow hhigh => exec_captureDr_private lands (tapReg_private hlow hhigh)⟩
  case update =>
    rintro s value ⟨hinstr, hhanded⟩
    exact exec_updateDr value (tapReg_boundary hinstr) hhanded
  case early =>
    rintro s value ⟨hscan, hhanded⟩
    exact exec_updateDr_held value hscan hhanded

end Sys2Proof.Machine
end

section
/-! The commands of the fuse bank (17 R487, R491, R492; log 88, log 89), and the commit of the parameter store (17 R501, R504). -/

namespace Sys2Proof.Machine

open Sys2Proof.Safety

/-! ### The checks of a command -/

section Take

variable {s : State} {op : Nat} {w : Word} {allowed : Word → Bool} {needsAuth sig : Bool} {more : Word → Nat}

/-- A command waits in `fuse.cmd` with an OP. -/
theorem State.fuseCmd_of_waits (hcmd : s.fuse.cmd = some w) (hop : fld w 63 56 = op) : s.fuseCmd op = some w := by
  unfold State.fuseCmd
  rw [hcmd]
  exact if_pos hop

/-- Fuses can be programmed: the device is in MAIN, no save is committed, and VDD_FUSE is within its limits. -/
structure State.FuseOpen (s : State) : Prop where
  mode : s.mode.mode = .main
  save : s.save.run = none
  vdd : s.pwr.vddFuse = true

/-- A command that finds fuses closed ends with the first of the three results that applies. -/
theorem State.fuseTake_closed (hcmd : s.fuseCmd op = some w) (h : s.mode.mode ≠ .main ∨ s.save.run.isSome = true ∨ s.pwr.vddFuse = false) :
    s.fuseTake op allowed needsAuth sig more = s.fuseEnd (if s.mode.mode ≠ .main then 5 else if s.save.run.isSome then 8 else 4) := by
  unfold State.fuseTake
  rw [hcmd]
  dsimp only
  by_cases hmode : s.mode.mode ≠ .main
  · rw [if_pos hmode, if_pos hmode]
  · rw [if_neg hmode, if_neg hmode]
    by_cases hsave : s.save.run.isSome = true
    · rw [if_pos hsave, if_pos hsave]
    · have hvdd : s.pwr.vddFuse = false := (h.resolve_left hmode).resolve_left hsave
      rw [if_neg hsave, if_neg hsave, hvdd]
      rfl

/-- A command that finds fuses open: the lifecycle state, the authorisation, and the last check of its OP. -/
theorem State.fuseTake_open (hcmd : s.fuseCmd op = some w) (h : s.FuseOpen) :
    s.fuseTake op allowed needsAuth sig more =
      if s.life = .retired || !allowed w then s.fuseEnd 3
      else if needsAuth && !s.fuseAuth sig then s.fuseEnd 2
      else if more w ≠ 0 then s.fuseEnd (more w)
      else s.program op (fld w 15 8) (fld w 7 0) s.fuse.data := by
  obtain ⟨hmode, hsave, hvdd⟩ := h
  unfold State.fuseTake
  rw [hcmd]
  dsimp only
  rw [if_neg (not_not.mpr hmode), if_neg (by rw [hsave]; decide), if_neg (by rw [hvdd]; decide)]

theorem State.fuseTake_refused (hcmd : s.fuseCmd op = some w) (h : s.FuseOpen) (hno : s.life = .retired ∨ allowed w = false) :
    s.fuseTake op allowed needsAuth sig more = s.fuseEnd 3 := by
  rw [State.fuseTake_open hcmd h, if_pos (by rcases hno with h | h <;> simp [h])]

theorem State.fuseTake_unauthorised (hcmd : s.fuseCmd op = some w) (h : s.FuseOpen) (hlife : s.life ≠ .retired) (hallowed : allowed w = true)
    (hneeds : needsAuth = true) (hauth : s.fuseAuth sig = false) : s.fuseTake op allowed needsAuth sig more = s.fuseEnd 2 := by
  rw [State.fuseTake_open hcmd h, if_neg (by simp [hlife, hallowed]), if_pos (by rw [hneeds, hauth]; rfl)]

/-- Outside OWNED no authorisation is needed: the last check decides. -/
theorem State.fuseTake_mfg (hcmd : s.fuseCmd op = some w) (h : s.FuseOpen) (hlife : s.life ≠ .retired) (hallowed : allowed w = true)
    (hneeds : needsAuth = false) :
    s.fuseTake op allowed needsAuth sig more =
      if more w ≠ 0 then s.fuseEnd (more w) else s.program op (fld w 15 8) (fld w 7 0) s.fuse.data := by
  rw [State.fuseTake_open hcmd h, if_neg (by simp [hlife, hallowed]), if_neg (by rw [hneeds]; exact Bool.false_ne_true)]

end Take

theorem State.not_retired_of_mfg {s : State} (h : s.life = .mfg) : s.life ≠ .retired := by rw [h]; decide

theorem State.not_owned_of_mfg {s : State} (h : s.life = .mfg) : decide (s.life = .owned) = false := by rw [h]; decide

/-- PROGRAM_WORD in MFG of a word of the write-once words: a word that is programmed, or whose programming was stopped, ends with 6. -/
theorem exec_programWord_mfg {s : State} {w : Word} (a : Bool) (hcmd : s.fuse.cmd = some w) (hop : fld w 63 56 = 1) (hopen : s.FuseOpen)
    (hlife : s.life = .mfg) (hword : 4 ≤ fld w 15 8 ∧ fld w 15 8 ≤ 37) :
    exec (.programWord a) s = .next (
      if (s.fuse.progd.contains (fld w 15 8) || s.fuse.dead.contains (fld w 15 8)) = true then s.fuseEnd 6
      else s.program 1 (fld w 15 8) (fld w 7 0) s.fuse.data) := by
  refine congrArg Host.Outcome.next ((State.fuseTake_mfg (State.fuseCmd_of_waits hcmd hop) hopen (State.not_retired_of_mfg hlife)
    ((if_pos hlife).trans (decide_eq_true hword)) (State.not_owned_of_mfg hlife)).trans ?_)
  cases s.fuse.progd.contains (fld w 15 8) || s.fuse.dead.contains (fld w 15 8) <;> rfl

/-- OWNED_TRANSITION in MFG needs words 4 to 10, owner slot 0 and PERM (17 R491). -/
theorem exec_ownedTransition_mfg {s : State} {w : Word} (hcmd : s.fuse.cmd = some w) (hop : fld w 63 56 = 2) (hopen : s.FuseOpen)
    (hlife : s.life = .mfg) :
    exec .ownedTransition s = .next (
      if [4, 5, 6, 7, 8, 9, 10, 11, 12, 13, 14, 15, 16, 35, 36, 37].all s.wordValid then s.program 2 (fld w 15 8) (fld w 7 0) s.fuse.data
      else s.fuseEnd 3) := by
  have hwaits := State.fuseCmd_of_waits hcmd hop
  refine congrArg Host.Outcome.next ?_
  by_cases hvalid : [4, 5, 6, 7, 8, 9, 10, 11, 12, 13, 14, 15, 16, 35, 36, 37].all s.wordValid = true
  · rw [if_pos hvalid]
    exact State.fuseTake_mfg hwaits hopen (State.not_retired_of_mfg hlife) (by rw [hvalid, hlife]; rfl) rfl
  · rw [if_neg hvalid]
    exact State.fuseTake_refused hwaits hopen (.inr (by rw [Bool.eq_false_of_not_eq_true hvalid]; exact Bool.and_false _))

/-- DEBUG_UNLOCK blows no fuse: it is refused in RETIRED, needs its authorisation, and else unlocks (17 R491). -/
theorem exec_debugUnlock {s : State} {w : Word} (a : Bool) (hcmd : s.fuse.cmd = some w) (hop : fld w 63 56 = 6) :
    exec (.debugUnlock a) s = .next (
      if s.life = .retired then s.fuseEnd 3
      else if (s.life = .mfg ∨ bit (s.fuseWord 0) 9) ∧ !s.fuseAuth a then s.fuseEnd 2
      else { s with fuse := { s.fuse with cmd := none, result := 0, unlocked := true } }) := by
  show execDebugUnlock a s = _
  unfold execDebugUnlock
  rw [State.fuseCmd_of_waits hcmd hop]

/-! ### Programming that ends -/

@[simp] theorem State.fuseWord_setFuse (s : State) (i : Nat) (v : Word) : (s.setFuse i v).fuseWord i = v := Store.read_write_same _ _ _ _

section Complete

variable {s : State} {w arg op : Nat} {data : Word}

/-- Programming that nothing has stopped. -/
theorem State.fuseRuns_busy (hstopped : s.fuse.stopped = false) (hbusy : s.fuse.busy = some (op, w, arg, data)) : s.fuseRuns = true := by
  unfold State.fuseRuns
  rw [hstopped, hbusy]
  rfl

/-- The end of a word all of whose fuses have blown (17 R487). -/
theorem exec_fuseProgramComplete_word (hstopped : s.fuse.stopped = false) (hbusy : s.fuse.busy = some (1, w, arg, data)) (hdata : data ≠ 0)
    (hdue : s.due s.fuse.since (10 * us * fuseCount 1 data) = true) :
    exec (.fuseProgramComplete []) s =
      .next ({ s with fuse := { s.fuse with busy := none, result := 0, progd := insertNat w s.fuse.progd } }.setFuse w data) := by
  show execFuseProgramComplete [] s = _
  unfold execFuseProgramComplete
  dsimp only
  rw [if_neg (by rw [State.fuseRuns_busy hstopped hbusy]; decide), hbusy]
  dsimp only
  rw [if_neg (by rw [hdue]; decide)]
  refine congrArg Host.Outcome.next ((if_pos rfl).trans ?_)
  exact if_neg fun h => hdata h.1

/-- The end of one logical bit of word 0, whose two fuses have blown (17 R487). -/
theorem exec_fuseProgramComplete_bit (hstopped : s.fuse.stopped = false) (hbusy : s.fuse.busy = some (op, w, arg, data)) (hop : op ≠ 1)
    (hdue : s.due s.fuse.since (20 * us) = true) :
    exec (.fuseProgramComplete []) s = .next (
      let u := { s with fuse := { s.fuse with busy := none, result := 0 } }.blowBit 0 (opBit op arg)
      if op = 3 then u.eraseStore else u) := by
  have hdue' : s.due s.fuse.since (10 * us * fuseCount op data) = true := by
    rw [fuseCount, if_neg hop]
    exact hdue
  show execFuseProgramComplete [] s = _
  unfold execFuseProgramComplete
  dsimp only
  rw [if_neg (by rw [State.fuseRuns_busy hstopped hbusy]; decide), hbusy]
  dsimp only
  rw [if_neg (by rw [hdue']; decide), if_neg hop, if_neg hop]
  rfl

/-! ### Programming that is stopped -/

/-- A stop of programming that has not been noted before. -/
theorem exec_fuseProgramStop_word (k : Nat) (hstopped : s.fuse.stopped = true) (hbusy : s.fuse.busy = some (1, w, arg, data)) :
    exec (.fuseProgramStop k) s = .next (
      let u : State := { s with fuse := { s.fuse with stopped := false, busy := none, result := 8, dead := insertNat w s.fuse.dead } }
      if k = 0 then u
      else ({ u with fuse := { u.fuse with progd := insertNat w u.fuse.progd, invalid := insertNat w u.fuse.invalid } }).setFuse w
        (blownData data (((List.range 64).filter (fun i => bit data i)).drop k))) := by
  show execFuseProgramStop k s = _
  unfold execFuseProgramStop
  rw [if_neg (by rw [hstopped]; decide)]
  dsimp only
  rw [hbusy]
  rfl

theorem exec_fuseProgramStop_bit (k : Nat) (hstopped : s.fuse.stopped = true) (hbusy : s.fuse.busy = some (op, w, arg, data)) (hop : op ≠ 1) :
    exec (.fuseProgramStop k) s = .next (
      let u : State := { s with fuse := { s.fuse with stopped := false, busy := none, result := 8 } }
      if k = 0 then u else u.blowBit 0 (opBit op arg)) := by
  show execFuseProgramStop k s = _
  unfold execFuseProgramStop
  rw [if_neg (by rw [hstopped]; decide)]
  dsimp only
  rw [hbusy]
  dsimp only
  rw [if_neg hop]

end Complete

/-! ### The commit of the parameter store -/

/-- A store that differs from its last commit is committed, whole or while PRESERVE is set as a delta (17 R501, R504). -/
theorem exec_parameterStoreCommit {s : State} (full : Bool) (hmode : s.mode.mode ≠ .stby) (hstep : s.boot.done.contains 5 = true)
    (hlife : s.life ≠ .retired) (hchanged : s.snapshot ≠ s.fw.stored) :
    exec (.parameterStoreCommit full) s = .next (
      let whole : State := { s with fw := { s.fw with stored := s.snapshot, gen := s.fw.gen + 1, copy := 1 - s.fw.copy, preserve := false, deltas := 0 } }
      if !s.fw.preserve then whole
      else if full then whole.log 0 3 bFw 1023 0x03 0 0
      else { s with fw := { s.fw with stored := s.snapshot, deltas := s.fw.deltas + 1 } }) :=
  congrArg Host.Outcome.next (if_neg (by simp [hmode, hlife, hchanged, List.contains_iff_mem.mp hstep]))

/-- Settles O48, clause by clause from what each command does under its conditions. -/
theorem fuseCommands : Obligations.FuseCommands := by
  unfold Obligations.FuseCommands
  refine ⟨?programs, ?programmed, ?closed, ?owned, ?mfg, ?last, ?unauthorised, ?retired, ?unlock, ?word, ?bit, ?dead, ?stops, ?whole, ?delta⟩
  case programs =>
    rintro s a w ⟨hcmd, hop, hmode, hsave, hvdd, hlife, hlow, hhigh⟩ ⟨hprogd, hdead⟩
    rw [exec_programWord_mfg a hcmd hop ⟨hmode, hsave, hvdd⟩ hlife ⟨hlow, hhigh⟩, hprogd, hdead]
    rfl
  case programmed =>
    rintro s a w ⟨hcmd, hop, hmode, hsave, hvdd, hlife, hlow, hhigh⟩ hdone
    rw [exec_programWord_mfg a hcmd hop ⟨hmode, hsave, hvdd⟩ hlife ⟨hlow, hhigh⟩, if_pos (Bool.or_eq_true_iff.mpr hdone)]
    rfl
  case closed =>
    rintro s a w ⟨hcmd, hop, hclosed⟩ c
    rcases hop with hop | hop | hop | hop
    all_goals
      have hc : c = (match fld w 63 56 with
        | 1 => Instr.programWord a | 3 => Instr.retiredTransition a | 4 => Instr.revokeSlot a | _ => Instr.setDebugBit a) := rfl
      rw [hop] at hc
      rw [hc]
      exact congrArg Host.Outcome.next (State.fuseTake_closed (State.fuseCmd_of_waits hcmd hop) hclosed)
  case owned =>
    rintro s w ⟨hcmd, hop, hmode, hsave, hvdd, hlife⟩
    exact exec_ownedTransition_mfg hcmd hop ⟨hmode, hsave, hvdd⟩ hlife
  case mfg =>
    rintro s a w ⟨hcmd, hmode, hsave, hvdd, hlife⟩ t
    have hretired := State.not_retired_of_mfg hlife
    have howned := State.not_owned_of_mfg hlife
    refine ⟨fun hop => ?retire, fun hop => ?debug, fun hop hslot => ?revoke⟩
    case retire =>
      refine congrArg Host.Outcome.next ((State.fuseTake_mfg (State.fuseCmd_of_waits hcmd hop) ⟨hmode, hsave, hvdd⟩ hretired rfl howned).trans ?_)
      rw [← hop]
      rfl
    case debug =>
      refine congrArg Host.Outcome.next ((State.fuseTake_mfg (State.fuseCmd_of_waits hcmd hop) ⟨hmode, hsave, hvdd⟩ hretired rfl howned).trans ?_)
      rw [← hop]
      rfl
    case revoke =>
      refine congrArg Host.Outcome.next ((State.fuseTake_mfg (State.fuseCmd_of_waits hcmd hop) ⟨hmode, hsave, hvdd⟩ hretired
        (by rw [hslot]; rfl) howned).trans ?_)
      rw [← hop]
      rfl
  case last =>
    rintro s a w ⟨hcmd, hop, hmode, hsave, hvdd, hok⟩ hothers
    exact congrArg Host.Outcome.next (State.fuseTake_refused (State.fuseCmd_of_waits hcmd hop) ⟨hmode, hsave, hvdd⟩
      (.inr (by rw [hok, hothers]; rfl)))
  case unauthorised =>
    rintro s w ⟨hcmd, hmode, hsave, hvdd, hlife⟩ t
    have hretired : s.life ≠ .retired := by rw [hlife]; decide
    have howned : decide (s.life = .owned) = true := decide_eq_true hlife
    exact ⟨fun hop => congrArg Host.Outcome.next (State.fuseTake_unauthorised (State.fuseCmd_of_waits hcmd hop) ⟨hmode, hsave, hvdd⟩ hretired rfl howned rfl),
      fun hop => congrArg Host.Outcome.next (State.fuseTake_unauthorised (State.fuseCmd_of_waits hcmd hop) ⟨hmode, hsave, hvdd⟩ hretired rfl howned rfl)⟩
  case retired =>
    rintro s a w ⟨hcmd, hmode, hsave, hvdd, hlife⟩ t
    have refused {op : Nat} (allowed : Word → Bool) (needsAuth sig : Bool) (more : Word → Nat) (hop : fld w 63 56 = op) :
        (.next (s.fuseTake op allowed needsAuth sig more) : Run) = .next t :=
      congrArg Host.Outcome.next (State.fuseTake_refused (State.fuseCmd_of_waits hcmd hop) ⟨hmode, hsave, hvdd⟩ (.inl hlife))
    exact ⟨refused _ _ _ _, refused _ _ _ _, refused _ _ _ _, refused _ _ _ _, refused _ _ _ _,
      fun hop => (exec_debugUnlock a hcmd hop).trans (congrArg Host.Outcome.next (if_pos hlife))⟩
  case unlock =>
    rintro s a w ⟨hcmd, hop, hlife⟩
    rw [exec_debugUnlock a hcmd hop, if_neg (by rw [hlife]; decide)]
    have hiff : ((s.life = .mfg ∨ bit (s.fuseWord 0) 9) ∧ !s.fuseAuth a) ↔ ((s.fuseWord 0).getLsbD 9 = true ∧ s.fuseAuth a = false) := by
      simp [hlife, bit]
    by_cases h : (s.fuseWord 0).getLsbD 9 = true ∧ s.fuseAuth a = false
    · rw [if_pos h, if_pos (hiff.mpr h)]
      rfl
    · rw [if_neg h, if_neg (mt hiff.mp h)]
  case word =>
    rintro s w arg data ⟨hstopped, hbusy, hdata⟩ hdue
    refine ⟨_, exec_fuseProgramComplete_word hstopped hbusy hdata hdue, ?_⟩
    exact ⟨State.fuseWord_setFuse .., mem_insertNat.mpr (.inl rfl), rfl, rfl, rfl, rfl, rfl⟩
  case bit =>
    rintro s op w arg b data ⟨hstopped, hbusy, hb⟩ hdue
    have hop : op ≠ 1 := by omega
    have hbit : opBit op arg = b := by rcases hb with ⟨rfl, rfl⟩ | ⟨rfl, rfl⟩ | ⟨rfl, rfl⟩ | ⟨rfl, rfl⟩ <;> rfl
    rw [exec_fuseProgramComplete_bit hstopped hbusy hop hdue, hbit]
    refine ⟨_, rfl, ?_⟩
    dsimp only
    by_cases hthree : op = 3
    · rw [if_pos hthree]
      exact ⟨State.fuseWord_setFuse .., rfl, rfl, fun _ => ⟨rfl, rfl⟩⟩
    · rw [if_neg hthree]
      exact ⟨State.fuseWord_setFuse .., rfl, rfl, fun h => absurd h hthree⟩
  case dead =>
    rintro s k w arg data ⟨hstopped, hbusy⟩
    refine ⟨_, exec_fuseProgramStop_word k hstopped hbusy, ?_⟩
    dsimp only
    by_cases hk : k = 0
    · rw [if_pos hk]
      exact ⟨mem_insertNat.mpr (.inl rfl), rfl, rfl, fun hpos => absurd hk hpos.ne', fun _ => rfl⟩
    · rw [if_neg hk]
      exact ⟨mem_insertNat.mpr (.inl rfl), rfl, rfl, fun _ => mem_insertNat.mpr (.inl rfl), fun h => absurd h hk⟩
  case stops =>
    rintro s k op w arg data ⟨hbusy, hop⟩ t
    refine ⟨fun hstopped => exec_fuseProgramStop_bit k hstopped hbusy hop, fun hstopped => ?_⟩
    exact congrArg Host.Outcome.next (if_pos (by rw [hstopped]; rfl))
  case whole =>
    rintro s full ⟨hmode, hstep, hlife, hchanged, hpreserve⟩
    rw [exec_parameterStoreCommit full hmode hstep hlife hchanged, hpreserve]
    rfl
  case delta =>
    rintro s ⟨hmode, hstep, hlife, hchanged, hpreserve⟩
    rw [exec_parameterStoreCommit false hmode hstep hlife hchanged, hpreserve]
    rfl

end Sys2Proof.Machine
end

section
/-! Management over I3C and MCTP (18 R517 to R519; log 95 to log 97). -/

namespace Sys2Proof.Machine

open Sys2Proof.Safety

theorem State.mctpServes_iff {s : State} : s.mctpServes = true ↔ s.mode.mode ≠ .stby ∧ s.mode.mode ≠ .save := decide_eq_true_iff

/-- In STBY and SAVE no submission and no result is served. -/
theorem State.not_mctpServes {s : State} (h : s.mode.mode = .stby ∨ s.mode.mode = .save) : ¬ s.mctpServes = true := by
  rw [State.mctpServes_iff, ← not_or]
  exact not_not.mpr h

/-- A submission over MCTP waits at PL1 and is moved into context 0x103F as there is room (12 R370). -/
theorem State.mctpSubmit_served {s : State} {prio : Nat} {items : List Word} (hserves : s.mctpServes = true) (hprio : prio < 8)
    (hone : 1 ≤ items.length) (hmax : items.length ≤ 64) :
    s.mctpSubmit prio items =
      State.moveMctp { s with mgmt := { s.mgmt with waiting := s.mgmt.waiting ++ [{ items := items, prio := prio, path := .mctp, pl := 1 }] } } := by
  unfold State.mctpSubmit
  exact if_pos ⟨hserves, hprio, hone, hmax⟩

theorem State.mctpSubmit_refused {s : State} (prio : Nat) (items : List Word) (h : ¬ s.mctpServes = true) : s.mctpSubmit prio items = s := by
  unfold State.mctpSubmit
  exact if_neg fun hall => h hall.1

theorem exec_result_refused {s : State} (count : Nat) (h : ¬ s.mctpServes = true) : exec (.result count) s = .next s :=
  congrArg Host.Outcome.next (if_pos (.inl (by rw [Bool.eq_false_of_not_eq_true h]; rfl)))

/-- RESULT hands over the oldest records, at most eight (18 R519). -/
theorem exec_result_served {s : State} {count : Nat} (hserves : s.mctpServes = true) (hsome : s.mgmt.results ≠ []) (hpos : 0 < count) :
    exec (.result count) s = .next ({ s with mgmt := { s.mgmt with results := s.mgmt.results.drop (min count 8) } }.emit
      (.mctp 0x02 (s.mgmt.results.take (min count 8)).flatten)) := by
  have hk : min count 8 ≠ 0 := by omega
  exact congrArg Host.Outcome.next (if_neg (by simp only [hserves, List.isEmpty_iff, hsome, hk]; decide))

/-- PREAD of one parameter, the low 24 bits of whose ID name it. -/
theorem exec_pread_single (s : State) (id : Nat) :
    exec (.pread [id]) s = .next ((s.pread (id % 2 ^ 24)).2.emit (.mctp 0x04 (s.pread (id % 2 ^ 24)).1)) :=
  congrArg Host.Outcome.next (if_neg (by simp))

/-- A parameter that PREAD may read answers its value as GETP does, with what a read of it changes (13 R396). -/
theorem State.pread_ok {s : State} {id : Nat} (hmay : s.mayRead 0x103F 1 id false = true) (hmode : s.preadOk id = true)
    (hid : s.idOk 0x103F 1 id = true) (hfence : s.idFenced id = false) :
    s.pread id = ([0, (s.beforeRead id).view id (s.idSess 0x103F 1 id)], (s.beforeRead id).afterRead id (s.idSess 0x103F 1 id)) := by
  unfold State.pread
  rw [hmay, hmode, hid, hfence]
  rfl

/-- A component command that reaches the mailbox of the management LD (03 R86). -/
theorem exec_componentCommand_served {s : State} (opcode addr : Nat) (data : Line) (hld : s.mgmtLd.1 < s.tiles) (hserves : s.mctpServes = true)
    (hrecovery : s.mode.recovery = false) :
    exec (.componentCommand opcode addr data) s = .next (
      if opcode = 0x4301 then s.mailStore s.mgmtLd.1 s.mgmtLd.2 addr 0x4301 0 true
      else if opcode = 0x4302 then s.mailStore s.mgmtLd.1 s.mgmtLd.2 addr 0x4302 data false
      else s.mailRead s.mgmtLd.1 s.mgmtLd.2 opcode) :=
  congrArg Host.Outcome.next (if_neg (by
    rw [hserves, hrecovery]
    rintro (h | h | h)
    · exact absurd hld (not_lt.mpr h)
    · exact absurd h (by decide)
    · exact absurd h (by decide)))

theorem exec_mctpControl (s : State) (type : Nat) :
    exec (.mctpControl type) s = .next (if type = 0 then s.emit (.mctp 0 [0])
      else if type = 0x07 ∨ type = 0x08 ∨ type = 0x7E then s else s.emit (.mctp 0 [5])) := by
  refine congrArg Host.Outcome.next ?_
  by_cases hzero : type = 0
  · rw [if_pos hzero, if_pos hzero]
  · rw [if_neg hzero, if_neg hzero]
    exact if_congr (by simp) rfl rfl

/-- Settles O49, clause by clause from what each command does under its conditions. -/
theorem management : Obligations.Management := by
  unfold Obligations.Management
  refine ⟨?entdaa, ?submit, ?refused, ?result, ?event, exec_pread_single, ?pread, ?count, exec_mctpControl, ?command, ?mailbox⟩
  case entdaa => exact fun s a ha => congrArg Host.Outcome.next (if_pos ha)
  case submit =>
    rintro s prio items ⟨hstby, hsave, hprio, hone, hmax⟩ v
    have hsubmit : s.mctpSubmit prio items = v.moveMctp :=
      State.mctpSubmit_served (State.mctpServes_iff.mpr ⟨hstby, hsave⟩) hprio hone hmax
    exact ⟨congrArg Host.Outcome.next hsubmit, congrArg Host.Outcome.next hsubmit⟩
  case refused =>
    intro s prio items hmode
    have hno := State.not_mctpServes hmode
    have hsubmit := State.mctpSubmit_refused prio items hno
    exact ⟨congrArg Host.Outcome.next hsubmit, congrArg Host.Outcome.next hsubmit, exec_result_refused prio hno⟩
  case result =>
    rintro s count ⟨hstby, hsave, hsome, hpos⟩
    exact exec_result_served (State.mctpServes_iff.mpr ⟨hstby, hsave⟩) hsome hpos
  case event =>
    intro s e r hevents
    show execEvent s = _
    unfold execEvent
    rw [hevents]
  case pread =>
    rintro s id ⟨hmay, hmode, hid, hfence⟩
    exact State.pread_ok hmay hmode hid hfence
  case count =>
    intro s ids hids
    exact congrArg Host.Outcome.next (if_pos (hids.imp_left List.isEmpty_iff.mpr))
  case command =>
    rintro s addr opcode data ⟨hld, hstby, hsave, hrecovery⟩ t d
    have hcommand (op : Nat) := exec_componentCommand_served op addr data hld (State.mctpServes_iff.mpr ⟨hstby, hsave⟩) hrecovery
    refine ⟨(hcommand _).trans (congrArg Host.Outcome.next (if_pos rfl)), (hcommand _).trans (congrArg Host.Outcome.next (if_neg (by decide))), fun hinject hclear => ?_⟩
    rw [hcommand, if_neg hinject, if_neg hclear]
  case mailbox =>
    exact fun s t d => ⟨rfl, rfl, fun hmgmt => ⟨if_pos hmgmt, if_pos hmgmt⟩⟩

end Sys2Proof.Machine
end
